-- ==== Sys2Proof/Word.lean ====
section
/-!
DEFINITION. The word types of the block (00 R3, 01 R22: registers are 32 bits wide, memory is
bytes in little-endian order) and nothing else; every operation on them that a reading of the
manual decides stands in `Sys2Proof/Machine/Bits.lean`.
-/

namespace Sys2Proof

/-- A register word (R22). -/
abbrev Word := BitVec 32

/-- A byte of memory, of a record or of a frame. -/
abbrev Byte := BitVec 8

/-- A 64-bit value: an update word, a FIFO record, a host address. -/
abbrev DWord := BitVec 64

end Sys2Proof
end

