-- ==== Sys2Proof/Syntax.lean ====
section
/-!
DEFINITION. The commands of the block: one constructor of `Instr` for each row of
spec/opcode_table.json, in the table's order. The table gives its rows no bits; the operands are
those that the row's rule names (a bar, a channel, a written value, the levels of a pin, the bytes
of a frame), so that each command is one whole step of 95_what_each_step_holds.md.
-/

namespace Sys2Proof

/-- The masters that access registers (00 R479, 01 R18): the host link, the management port, the
data port, DMA channel c, sequencer pair j. -/
inductive Master where
  | host
  | mgt
  | dpt
  | dma (c : Fin 48)
  | pair (j : Fin 4)
  deriving DecidableEq, Repr

/-- A key of a master, for tables held per master. -/
def Master.key : Master → Nat
  | .host => 0
  | .mgt => 1
  | .dpt => 2
  | .dma c => 3 + c
  | .pair j => 51 + j

/-- The registers of a bar's shadow set (Table 2.11 and NST_STITCH). -/
inductive BarShadow where
  | offsetLo | offsetHi | winStart | winEnd | segmask | rowofs | warmcnt | stitch
  | gt (g : Fin 16)
  deriving DecidableEq, Repr

/-- The registers of the global shadow set (Table 2.10). -/
inductive GridShadow where
  | freqLo | freqHi | strobe | warm | pitch | errTol
  deriving DecidableEq, Repr

/-- What a schedule check is made for: a bar's set or the global set (R47). -/
inductive CheckTarget where
  | bar (n : Fin 32)
  | grid
  deriving DecidableEq, Repr

/-- A kill latch (R62): GRID_KILL.PIN_LATCH, or FPE_STATUS.KILL_TRIP of a bar. -/
inductive KillLatch where
  | pin
  | trip (n : Fin 32)
  deriving DecidableEq, Repr

/-- A pair of wires of an encoder channel. -/
inductive WirePair where
  | a | b | z
  deriving DecidableEq, Repr

/-- A port B write to a dual-port bank in the same PORT cycle in which port A takes its word number `word`
of the command (R91, R345): the offset in the bank, and the bytes from there to the end of their 64-bit
word. -/
structure PortBWrite where
  word : Nat
  off : Nat
  bytes : List Byte
  deriving DecidableEq, Repr

/-- What the header ECC of a received CSI-2 packet shows (Table 7.2): no error, one bit corrected, two
bits detected. -/
inductive HeaderEcc where
  | clean | corrected | bad
  deriving DecidableEq, Repr

/-- A CSI-2 long packet as a port receives it: data type, virtual channel, header ECC, D-PHY
start-of-transmission error, payload CRC failure, and the payload: the pixel values in the packet's
own bit depth, or the bytes of an embedded line (R197). -/
structure LongPacket where
  dt : Fin 64
  vc : Fin 4
  ecc : HeaderEcc
  sot : Bool
  crcBad : Bool
  data : List Nat
  deriving DecidableEq, Repr

/-- How a CCI command ends on its bus (R214). -/
inductive CciEnd where
  | ok (data : Word)
  | addrNack | dataNack | stretch | sdaStuck
  deriving DecidableEq, Repr

/-- How a link reset comes (13 R390). -/
inductive LinkResetKind where
  | perst | hot | disabled
  deriving DecidableEq, Repr

/-- The supplies of Table 16.3 beside VDD_18. -/
inductive Supply where
  | hl | analog | csi | io33 | pe | peh
  deriving DecidableEq, Repr

/-- What a wake detector samples (14 Table 14.4): that its source's active condition is met, accepted changes of A or B
of an encoder's always-on comparators, an edge of a TOF input held for a number of AON cycles, the die temperature in
degC, or XFLT_N low for a number of AON cycles. -/
inductive WakeInput where
  | active
  | changes (n : Nat)
  | edge (rising : Bool) (cycles : Nat)
  | celsius (t : Int)
  | low (cycles : Nat)
  deriving DecidableEq, Repr

/-- What a clock failure takes away (13 Table 13.4). -/
inductive ClockFault where
  | sysclk | mainPll | gridPll
  deriving DecidableEq, Repr

/-- How a read request of the DMA engine comes back over the host link (11 R339): its data, or a
completion with Unsupported Request, Completer Abort or poisoned data. -/
inductive Completion where
  | data (bytes : List Byte)
  | unsupported | aborted | poisoned
  deriving DecidableEq, Repr

/-- How the target of a load or an atomic of a core answers: it gives its data, it returns an error (09 R280),
or, between the two halves of a crossing load from Quadrille, another master writes bytes there (09 R271). A row
that names none gives its data. -/
inductive TargetAnswer where
  | data
  | error
  | between (off : BitVec 22) (bytes : List Byte)
  deriving DecidableEq, Repr

/-- A register of the capabilities that Table 12.1 has the function advertise, by its name in the PCI Express Base
Specification: power management, PCI Express, MSI-X, advanced error reporting, L1 substates, precision time
measurement. -/
inductive CapReg where
  | pmCap
  | devCap | devStatus | linkCap | linkCtl | linkStatus | devCap2 | devCtl2 | linkCap2
  | msixTable | msixPba
  | aerUncStatus | aerUncMask | aerUncSev | aerCorStatus | aerCorMask | aerCtl
  | aerLog (i : Fin 4)
  | l1ssCap | l1ssCtl
  | ptmCap
  deriving DecidableEq, Repr

/-- A register of configuration space: those that the manual's rules and tables give a meaning, by what they hold,
and any other by its number (12 R357-R362; the PCI Express Base Specification gives their places). -/
inductive CfgReg where
  | ids | command | classRev
  | bar (k : Fin 6)
  | subsystem | interrupt
  | pmCsr | msixCtl | devCtl | ptmCtl
  | cap (c : CapReg)
  | other (dw : Fin 1024)
  deriving DecidableEq, Repr

/-- A TLP that the host link turns away (12 Table 12.3): its low 32 address bits, and whether it is
posted. -/
inductive TlpFault where
  | malformed
  | unsupported (posted : Bool) (addr : Word)
  | poisonedWrite (addr : Word)
  | unexpectedCompletion
  deriving DecidableEq, Repr

/-- The commands: one for each row of spec/opcode_table.json, those with operands first, each part in the table's
order. -/
inductive Instr where
  /-- LINE_TICK (R41). -/
  | lineTick (isns : Vector (List (Nat × Rat)) 32)
  /-- REENTRY_TICK (R188). -/
  | reentryTick (isns : Vector (List (Nat × Rat)) 32)
  /-- STATUS_FRAME (R53). -/
  | statusFrame (n : Fin 32) (f : BitVec 128)
  /-- STATUS_LOST (R54). -/
  | statusLost (n : Fin 32)
  /-- UPDATE_WINDOW (R95). -/
  | updateWindow (n : Fin 32) (pb : List PortBWrite)
  /-- UPDATE_APPLY_IMMEDIATE (R97). -/
  | updateApplyImmediate (n : Fin 32) (pb : List PortBWrite := [])
  /-- PAIR_ALONE (R100). -/
  | pairAlone (n : Fin 32) (pb : List PortBWrite := [])
  /-- NST_UPD_LO_WRITE (R92). -/
  | nstUpdLoWrite (m : Master) (n : Fin 32) (w : Word)
  /-- NST_UPD_HI_PUSH (R92). -/
  | nstUpdHiPush (m : Master) (n : Fin 32) (w : Word)
  /-- STALLED_PUSH (R93). -/
  | stalledPush (n : Fin 32)
  /-- MGT_PUSH_TIMEOUT (R93). -/
  | mgtPushTimeout (n : Fin 32)
  /-- FLUSH (R101). -/
  | flush (n : Fin 32)
  /-- RASTER_WRITE (R107). -/
  | rasterWrite (n : Fin 32) (off : Nat) (bytes : List Byte)
  /-- PACKED_PAGE_HEADER (R114). -/
  | packedPageHeader (n : Fin 32)
  /-- WAIT_DESC_END (R114). -/
  | waitDescEnd (n : Fin 32)
  /-- PACKED_TOKEN (R111). -/
  | packedToken (n : Fin 32) (pb : List PortBWrite := [])
  /-- DECODE_LINE_BEGIN (R115). -/
  | decodeLineBegin (n : Fin 32)
  /-- LINE_DECODED (R115). -/
  | lineDecoded (n : Fin 32)
  /-- ABANDON (R134). -/
  | abandon (n : Fin 32)
  /-- RESET_STREAM (R135). -/
  | resetStream (n : Fin 32) (fmt : Bool)
  /-- ARM (R70). -/
  | arm (n : Fin 32)
  /-- SHADOW_WRITE (R72). -/
  | shadowWrite (n : Fin 32) (r : BarShadow) (v : Word)
  /-- GLOBAL_SHADOW_WRITE (R75). -/
  | globalShadowWrite (r : GridShadow) (v : Word)
  /-- SCHED_CHECK (R47). -/
  | schedCheck (t : CheckTarget)
  /-- PAGE_PUSH (R64). -/
  | pagePush (n : Fin 32)
  /-- SPARE_LANE_WRITE (R59). -/
  | spareLaneWrite (n : Fin 32) (seg : Fin 8) (en : Bool)
  /-- HKILL (R61). -/
  | hkill (low : Bool)
  /-- GRID_SWKILL (R61). -/
  | gridSwkill (on : Bool)
  /-- FPE_SWKILL (R61). -/
  | fpeSwkill (n : Fin 32) (on : Bool)
  /-- KILL_LATCH_CLEAR (R62). -/
  | killLatchClear (l : KillLatch)
  /-- ENCODER_COUNT (R140). -/
  | encoderCount (c : Fin 4) (a b : Bool)
  /-- WIRE_DISAGREE (R138). -/
  | wireDisagree (c : Fin 4) (w : WirePair) (same : Bool)
  /-- WIRE_CLEAR (R138). -/
  | wireClear (c : Fin 4)
  /-- ENCODER_INDEX (R144). -/
  | encoderIndex (c : Fin 4)
  /-- INDEX_CORRECTION (R144). -/
  | indexCorrection (c : Fin 4)
  /-- SSI_FRAME_START (R145). -/
  | ssiFrameStart (data : Bool)
  /-- SSI_FRAME (R146). -/
  | ssiFrame (bits : BitVec 48) (parity mono : Bool)
  /-- STANDSTILL (R154). -/
  | standstill (c : Fin 5)
  /-- TOF_CAPTURE (R162). -/
  | tofCapture (t : Fin 4) (level : Bool) (sub : Fin 13)
  /-- TOF_PUBLISH (R164). -/
  | tofPublish (t : Fin 4)
  /-- COMPARATOR_HIT (R166). -/
  | comparatorHit (c : Fin 16)
  /-- XPT_MODE_WRITE (R171). -/
  | xptModeWrite (leader : Bool)
  /-- SWSTOP (R184). -/
  | swstop (on : Bool)
  /-- FRAME_START (R211). -/
  | frameStart (p : Fin 4) (vc : Fin 4) (corrected : Bool)
  /-- IMAGE_LINE (R197). -/
  | imageLine (p : Fin 4) (k : LongPacket)
  /-- FRAME_END (R215). -/
  | frameEnd (p : Fin 4) (vc : Fin 4) (corrected : Bool)
  /-- LINE_TIMEOUT (R215). -/
  | lineTimeout (p : Fin 4)
  /-- SWTRIG (R209). -/
  | swtrig (p : Fin 4)
  /-- TRIG_FALL (R210). -/
  | trigFall (p : Fin 4)
  /-- STROBE_RISE (R210). -/
  | strobeRise (p : Fin 4)
  /-- STROBE_FALL (R210). -/
  | strobeFall (p : Fin 4)
  /-- TRIGGER_EXPIRE (R211). -/
  | triggerExpire (p : Fin 4)
  /-- CCI_PUSH (R214). -/
  | cciPush (p : Fin 4)
  /-- CCI_COMMAND_DONE (R214). -/
  | cciCommandDone (p : Fin 4) (e : CciEnd)
  /-- CCI_FLUSH (R214). -/
  | cciFlush (p : Fin 4)
  /-- CCI_RESULT_POP (R214). -/
  | cciResultPop (p : Fin 4)
  /-- INS_TBL_DATA (R205). -/
  | insTblData (write : Option Word)
  /-- CAL_PAIR_START (R227). -/
  | calPairStart (k : Fin 8)
  /-- CAL_PAIR_END (R228). -/
  | calPairEnd (k : Fin 8) (idx : Fin 512) (m1 m2 g1 g2 : Rat)
  /-- CAL_TIMEOUT (R230). -/
  | calTimeout (k : Fin 8) (idx : Fin 512)
  /-- CAL_REQ (R227). -/
  | calReq (k : Fin 8) (i : Fin 512)
  /-- CAL_QVAL (R231). -/
  | calQval (w : Word)
  /-- THERMAL_READING (R238). -/
  | thermalReading (ch : Fin 260) (v10 v160 : Nat)
  /-- CHANNEL_FAIL (R242). -/
  | channelFail (ch : Fin 260)
  /-- CHANNEL_RECOVER (R243). -/
  | channelRecover (ch : Fin 260)
  /-- STAGE2 (R247). -/
  | stage2 (n : Fin 32)
  /-- WARN_CLEAR (R247). -/
  | warnClear (n : Fin 32)
  /-- FURTHER_REDUCTION_DUE (R250). -/
  | furtherReductionDue (n : Fin 32)
  /-- THM_ACK (R244). -/
  | thmAck (n : Fin 32)
  /-- THM_TRIPPED_CLEAR (R247). -/
  | thmTrippedClear (n : Fin 32)
  /-- CHEN_WRITE (R480). -/
  | chenWrite (p : Fin 33) (v : BitVec 8)
  /-- ADD (R264). -/
  | add (j : Fin 4) (rd rs1 rs2 : Fin 16)
  /-- SUB (R264). -/
  | sub (j : Fin 4) (rd rs1 rs2 : Fin 16)
  /-- AND (R264). -/
  | and (j : Fin 4) (rd rs1 rs2 : Fin 16)
  /-- OR (R264). -/
  | or (j : Fin 4) (rd rs1 rs2 : Fin 16)
  /-- XOR (R264). -/
  | xor (j : Fin 4) (rd rs1 rs2 : Fin 16)
  /-- SLL (R264). -/
  | sll (j : Fin 4) (rd rs1 rs2 : Fin 16)
  /-- SRL (R264). -/
  | srl (j : Fin 4) (rd rs1 rs2 : Fin 16)
  /-- SRA (R264). -/
  | sra (j : Fin 4) (rd rs1 rs2 : Fin 16)
  /-- SLT (R264). -/
  | slt (j : Fin 4) (rd rs1 rs2 : Fin 16)
  /-- SLTU (R264). -/
  | sltu (j : Fin 4) (rd rs1 rs2 : Fin 16)
  /-- MIN (R264). -/
  | min (j : Fin 4) (rd rs1 rs2 : Fin 16)
  /-- MAX (R264). -/
  | max (j : Fin 4) (rd rs1 rs2 : Fin 16)
  /-- MINU (R264). -/
  | minu (j : Fin 4) (rd rs1 rs2 : Fin 16)
  /-- MAXU (R264). -/
  | maxu (j : Fin 4) (rd rs1 rs2 : Fin 16)
  /-- ADDS (R264). -/
  | adds (j : Fin 4) (rd rs1 rs2 : Fin 16)
  /-- SUBS (R264). -/
  | subs (j : Fin 4) (rd rs1 rs2 : Fin 16)
  /-- CLZ (R264). -/
  | clz (j : Fin 4) (rd rs1 : Fin 16)
  /-- POPC (R264). -/
  | popc (j : Fin 4) (rd rs1 : Fin 16)
  /-- ADDI (R265). -/
  | addi (j : Fin 4) (rd rs1 : Fin 16) (imm : BitVec 12)
  /-- ANDI (R265). -/
  | andi (j : Fin 4) (rd rs1 : Fin 16) (imm : BitVec 12)
  /-- ORI (R265). -/
  | ori (j : Fin 4) (rd rs1 : Fin 16) (imm : BitVec 12)
  /-- XORI (R265). -/
  | xori (j : Fin 4) (rd rs1 : Fin 16) (imm : BitVec 12)
  /-- SLLI (R265). -/
  | slli (j : Fin 4) (rd rs1 : Fin 16) (shamt : BitVec 5)
  /-- SRLI (R265). -/
  | srli (j : Fin 4) (rd rs1 : Fin 16) (shamt : BitVec 5)
  /-- SRAI (R265). -/
  | srai (j : Fin 4) (rd rs1 : Fin 16) (shamt : BitVec 5)
  /-- SLTI (R265). -/
  | slti (j : Fin 4) (rd rs1 : Fin 16) (imm : BitVec 12)
  /-- SLTIU (R265). -/
  | sltiu (j : Fin 4) (rd rs1 : Fin 16) (imm : BitVec 12)
  /-- ADDSI (R265). -/
  | addsi (j : Fin 4) (rd rs1 : Fin 16) (imm : BitVec 12)
  /-- MUL (R267). -/
  | mul (j : Fin 4) (rd rs1 rs2 : Fin 16)
  /-- MULH (R267). -/
  | mulh (j : Fin 4) (rd rs1 rs2 : Fin 16)
  /-- MULHU (R267). -/
  | mulhu (j : Fin 4) (rd rs1 rs2 : Fin 16)
  /-- MAC (R267). -/
  | mac (j : Fin 4) (rd rs1 rs2 : Fin 16)
  /-- MACU (R267). -/
  | macu (j : Fin 4) (rd rs1 rs2 : Fin 16)
  /-- MSU (R267). -/
  | msu (j : Fin 4) (rd rs1 rs2 : Fin 16)
  /-- LB (R268). -/
  | lb (j : Fin 4) (rt rb : Fin 16) (off : BitVec 12) (a : TargetAnswer := .data)
  /-- LH (R268). -/
  | lh (j : Fin 4) (rt rb : Fin 16) (off : BitVec 12) (a : TargetAnswer := .data)
  /-- LW (R268). -/
  | lw (j : Fin 4) (rt rb : Fin 16) (off : BitVec 12) (a : TargetAnswer := .data)
  /-- LD (R268). -/
  | ld (j : Fin 4) (rt rb : Fin 16) (off : BitVec 12) (a : TargetAnswer := .data)
  /-- LBU (R268). -/
  | lbu (j : Fin 4) (rt rb : Fin 16) (off : BitVec 12) (a : TargetAnswer := .data)
  /-- LHU (R268). -/
  | lhu (j : Fin 4) (rt rb : Fin 16) (off : BitVec 12) (a : TargetAnswer := .data)
  /-- SB (R268). -/
  | sb (j : Fin 4) (rt rb : Fin 16) (off : BitVec 12)
  /-- SH (R268). -/
  | sh (j : Fin 4) (rt rb : Fin 16) (off : BitVec 12)
  /-- SW (R268). -/
  | sw (j : Fin 4) (rt rb : Fin 16) (off : BitVec 12)
  /-- SD (R268). -/
  | sd (j : Fin 4) (rt rb : Fin 16) (off : BitVec 12)
  /-- QSWAP (R275). -/
  | qswap (j : Fin 4) (rd rs1 rs2 : Fin 16) (a : TargetAnswer := .data)
  /-- QFADD (R275). -/
  | qfadd (j : Fin 4) (rd rs1 rs2 : Fin 16) (a : TargetAnswer := .data)
  /-- BEQ (R276). -/
  | beq (j : Fin 4) (rs1 rs2 : Fin 16) (off : BitVec 13)
  /-- BNE (R276). -/
  | bne (j : Fin 4) (rs1 rs2 : Fin 16) (off : BitVec 13)
  /-- BLT (R276). -/
  | blt (j : Fin 4) (rs1 rs2 : Fin 16) (off : BitVec 13)
  /-- BGE (R276). -/
  | bge (j : Fin 4) (rs1 rs2 : Fin 16) (off : BitVec 13)
  /-- BLTU (R276). -/
  | bltu (j : Fin 4) (rs1 rs2 : Fin 16) (off : BitVec 13)
  /-- BGEU (R276). -/
  | bgeu (j : Fin 4) (rs1 rs2 : Fin 16) (off : BitVec 13)
  /-- JAL (R276). -/
  | jal (j : Fin 4) (rd : Fin 16) (imm : BitVec 20)
  /-- JALR (R276). -/
  | jalr (j : Fin 4) (rd rs1 : Fin 16) (imm : BitVec 12)
  /-- LUI (R276). -/
  | lui (j : Fin 4) (rd : Fin 16) (imm : BitVec 20)
  /-- CMD (R298). -/
  | cmd (j : Fin 4) (rs1 rs2 : Fin 16)
  /-- WAITE (R295). -/
  | waite (j : Fin 4) (rd rs1 rs2 : Fin 16)
  /-- WAITP (R296). -/
  | waitp (j : Fin 4) (rd rs2 : Fin 16) (w : Fin 4)
  /-- FENCE_LINE (R297). -/
  | fenceLine (j : Fin 4) (rd rs2 : Fin 16) (bar : Fin 32)
  /-- WAIT_COMPLETE (R294). -/
  | waitComplete (j : Fin 4)
  /-- WAIT_TIMEOUT (R294). -/
  | waitTimeout (j : Fin 4)
  /-- CRR (R261). -/
  | crr (j : Fin 4) (rd : Fin 16) (num : BitVec 10)
  /-- CRW (R261). -/
  | crw (j : Fin 4) (rs1 : Fin 16) (num : BitVec 10)
  /-- ERET (R291). -/
  | eret (j : Fin 4)
  /-- SYNC (R277). -/
  | sync (j : Fin 4)
  /-- PASS (R262). -/
  | pass (j : Fin 4)
  /-- HANDLER_ENTRY (R290). -/
  | handlerEntry (j : Fin 4)
  /-- CHECKPOINT_CLOSE (R302). -/
  | checkpointClose (j : Fin 4)
  /-- CHECKPOINT_COMPARE (R301). -/
  | checkpointCompare (j : Fin 4) (agree : Bool)
  /-- LOCKSTEP_HALT (R306). -/
  | lockstepHalt (j : Fin 4)
  /-- RESTORE_DONE (R305). -/
  | restoreDone (j : Fin 4)
  /-- OUTPUT_DELIVERY (R303): `n` outputs leave the buffer, one if nothing is said; `bad` names the one whose target
  returns an error. -/
  | outputDelivery (j : Fin 4) (bad : Option (Fin 32)) (n : Fin 33 := 1)
  /-- EVT_RAISE (R299). -/
  | evtRaise (k : Fin 4)
  /-- WD_KICK (R311). -/
  | wdKick (j : Fin 4)
  /-- PAIR_HALT (R309). -/
  | pairHalt (j pair : Fin 4)
  /-- PAIR_START (R308). -/
  | pairStart (j pair : Fin 4) (entry : Word)
  /-- FPE_ARM (R299). -/
  | fpeArm (j : Fin 4) (mask : Word)
  /-- RSP_ABANDON (R299). -/
  | rspAbandon (j : Fin 4) (mask : Word)
  /-- NST_PUSH (R299). -/
  | nstPush (j : Fin 4) (n : Fin 32) (addr : BitVec 18) (pair honor : Bool) (value mask : Byte)
  /-- CMP_ARM (R299). -/
  | cmpArm (j w mode : Fin 4) (src trig : Bool) (cam : Fin 4) (target : BitVec 48)
  /-- INS_AREQ (R299). -/
  | insAreq (j : Fin 4) (w0 : Word) (ovl : BitVec 7)
  /-- GRID_GARM (R299). -/
  | gridGarm (bar : Fin 32) (force : Bool) (line : Word)
  /-- SEQ_START (R308). -/
  | seqStart (j : Fin 4)
  /-- SEQ_HALT (R309). -/
  | seqHalt (j : Fin 4)
  /-- HALT_COMPLETE (R309). -/
  | haltComplete (j : Fin 4)
  /-- SEQ_STEP (R310). -/
  | seqStep (j : Fin 4)
  /-- SEQ_RESUME (R310). -/
  | seqResume (j : Fin 4)
  /-- KDATA (R310). -/
  | kdata (j : Fin 4) (write : Option Word)
  /-- BREAKPOINT (R310). -/
  | breakpoint (j : Fin 4)
  /-- SEQ_WD_KICK (R311). -/
  | seqWdKick (m : Master)
  /-- SEQ_SWEV (R319). -/
  | seqSwev (mask : BitVec 4)
  /-- MSIX_SEND (R367). -/
  | msixSend (v : Fin 64)
  /-- EVT_PEND_CLEAR (R368). -/
  | evtPendClear (w : Fin 8) (mask : Word)
  /-- DMA_START (R341). -/
  | dmaStart (c : Fin 48)
  /-- DMA_ABORT (R338). -/
  | dmaAbort (c : Fin 48)
  /-- DOORBELL (R325). -/
  | doorbell (c : Fin 48)
  /-- POLL_EXPIRY (R325). -/
  | pollExpiry (c : Fin 48)
  /-- DESCRIPTOR_FETCH (R324). -/
  | descriptorFetch (c : Fin 48) (x : Completion)
  /-- READ_COMPLETION (R339). -/
  | readCompletion (tag : Nat) (x : Completion)
  /-- COMPLETION_TIMEOUT (R339). -/
  | completionTimeout (tag : Fin 1024)
  /-- DESCRIPTOR_WRITEBACK (R327). -/
  | descriptorWriteback (c : Fin 48)
  /-- SCRUB_WRITEBACK (R347). -/
  | scrubWriteback (b : Fin 116)
  /-- BT_REGION (R349). -/
  | btRegion (b : Fin 116) (found : Option (Fin 16 × Fin 1152))
  /-- MEM_WIPE (R354). -/
  | memWipe (b : Fin 128)
  /-- BAR0_ACCESS (R360). -/
  | bar0Access (off : BitVec 24) (n : Nat) (write : Option (List (Option Byte)))
  /-- BAR2_ACCESS (R360). -/
  | bar2Access (off : BitVec 30) (n : Nat) (write : Option (List (Option Byte)))
  /-- DATA_PORT_ACCESS (R369). -/
  | dataPortAccess (n : Nat) (write : Option (List (Option Byte))) (off : BitVec 16 := 0#16)
  /-- CONFIG_REQUEST (R395). -/
  | configRequest (r : CfgReg) (write : Option Word)
  /-- TLP_VIOLATION (R364). -/
  | tlpViolation (t : TlpFault)
  /-- LINK_UP (R363). -/
  | linkUp (speed : Fin 6) (width : Fin 17)
  /-- RETRAIN (R363). -/
  | retrain (speed : Fin 6) (width : Fin 17)
  /-- DSTATE_CHANGE (R362). -/
  | dstateChange (d3hot bme : Bool)
  /-- PTM_RESPONSE (R365). -/
  | ptmResponse (data : Option (DWord × Word))
  /-- MGT_READ (R374). -/
  | mgtRead (cmd : Byte) (addr : Word) (len : BitVec 16) (crc : Byte)
  /-- MGT_WRITE (R374). -/
  | mgtWrite (addr : Word) (data : List Byte) (crc : Byte)
  /-- MGT_ABORT (R376). -/
  | mgtAbort (afterCrc : Bool) (cmd : Byte) (addr : Word)
  /-- COLD_RESET (R390). -/
  | coldReset (lowNs : Nat)
  /-- RST_CTL_WARM (R391). -/
  | rstCtlWarm (m : Master) (w : Word)
  /-- LINK_RESET (R396). -/
  | linkReset (k : LinkResetKind)
  /-- RESET_SEQUENCE (R394). -/
  | resetSequence (taps : Vector (Option (Fin 64)) 32)
  /-- CLK_TRAIN_CTL (R387). -/
  | clkTrainCtl (mask : Word)
  /-- TRAINING_DONE (R388). -/
  | trainingDone (n : Fin 32) (tap : Option (Fin 64))
  /-- PWR_REQ_STANDBY (R404). -/
  | pwrReqStandby (force : Bool)
  /-- PWR_REQ_HIBERNATE (R404). -/
  | pwrReqHibernate (force : Bool)
  /-- DOMAIN_OFF_REQUEST (R402). -/
  | domainOffRequest (mask : BitVec 11) (force : Bool)
  /-- DOMAIN_ON_REQUEST (R402). -/
  | domainOnRequest (mask : BitVec 11)
  /-- DOM_DONE (R402), with the retained banks whose cells lost their contents (R352). -/
  | domDone (lost : List (Fin 116) := [])
  /-- LINK_WAKE (R410). -/
  | linkWake (src : Fin 3)
  /-- PIN_WAKE (R411). -/
  | pinWake (src : Fin 10) (x : WakeInput := .active)
  /-- STATE_EXIT (R415). -/
  | stateExit (lost : List (Fin 116)) (taps : Vector (Option (Fin 64)) 32)
  /-- PROGRAM (R429). -/
  | program (m : Master) (word : BitVec 10)
  /-- MARGIN (R428). -/
  | margin (m : Master) (word : BitVec 10) (expect : Bool)
  /-- SEAL (R432). -/
  | sealSlot (m : Master) (region : Fin 8) (slot : Fin 2)
  /-- CNT_ADVANCE (R437). -/
  | cntAdvance (m : Master) (cnt : Fin 4) (n : BitVec 8)
  /-- LC_ADVANCE (R439). -/
  | lcAdvance (m : Master) (arg : BitVec 8)
  /-- OTP_COMMAND_DONE (R443). -/
  | otpCommandDone (fails : List (Nat × Word × Word))
  /-- OTP_WORD_READ (R426). -/
  | otpWordRead (m : Master) (word : BitVec 10)
  /-- OTP_CNT_READ (R437). -/
  | otpCntRead (k : Fin 4)
  /-- SNAPSHOT_READ (R479). -/
  | snapshotRead (m : Master) (which : Fin 5)
  /-- RC_READ (R5). -/
  | rcRead (m : Master) (reg : Fin 0x400000)
  /-- REGISTER_WRITE (R4). -/
  | registerWrite (m : Master) (reg : Fin 0x400000) (w : Word)
  /-- ILLEGAL_INSTRUCTION (R262). -/
  | illegalInstruction (j : Fin 4) (w : Word)
  /-- FETCH_FAULT (R257). -/
  | fetchFault (j : Fin 4)
  /-- DESKEW_SEQUENCE (R196). -/
  | deskewSequence (p : Fin 4)
  /-- ULPS_CHANGE (R196). -/
  | ulpsChange (p : Fin 4) (on : Bool)
  /-- FAILOVER_ANCHOR (R156). -/
  | failoverAnchor
  /-- LOAD_POINT (R175). -/
  | loadPoint
  /-- PIR_HALT (R190). -/
  | pirHalt
  /-- SERVO_STALE (R177). -/
  | servoStale
  /-- OVERSPEED (R183). -/
  | overspeed
  /-- GARM (R74). -/
  | garm
  /-- RUN_START (R36). -/
  | runStart
  /-- RUN_STOP (R36). -/
  | runStop
  /-- SSI_FAIL (R146). -/
  | ssiFail
  /-- SPEED_REEVAL (R153). -/
  | speedReeval
  /-- FAILOVER (R158). -/
  | failover
  /-- REBASE (R150). -/
  | rebase
  /-- USE_PRI (R161). -/
  | usePri
  /-- XPT_START (R180). -/
  | xptStart
  /-- EN_DELAY_EXPIRY (R180). -/
  | enDelayExpiry
  /-- XPT_STOP (R181). -/
  | xptStop
  /-- PIR_RETRY (R191). -/
  | pirRetry
  /-- XSTOP_RELEASE (R184). -/
  | xstopRelease
  /-- DRIVE_FAULT (R185). -/
  | driveFault
  /-- LIVE_SWITCH (R199). -/
  | liveSwitch
  /-- REPLAY_START (R201). -/
  | replayStart
  /-- REPLAY_END (R202). -/
  | replayEnd
  /-- REPLAY_RESUME (R220). -/
  | replayResume
  /-- INS_AREQ_PUSH (R218). -/
  | insAreqPush
  /-- VERDICT_POP (R220). -/
  | verdictPop
  /-- ET_RECORD_POP (R237). -/
  | etRecordPop
  /-- WD_WARN (R311). -/
  | wdWarn
  /-- WATCHDOG_EXPIRE (R311). -/
  | watchdogExpire
  /-- GRACE_EXPIRE (R312). -/
  | graceExpire
  /-- SEQ_BOOT_GO (R314). -/
  | seqBootGo
  /-- BOOT_LOAD_DONE (R315). -/
  | bootLoadDone
  /-- ROM_LOAD_ENTRY (R318). -/
  | romLoadEntry
  /-- TOKEN_ACCRUAL (R336). -/
  | tokenAccrual
  /-- DMA_REQUEST_ISSUE (R335). -/
  | dmaRequestIssue
  /-- WIPE_DONE (R353). -/
  | wipeDone
  /-- LINK_DOWN (R363). -/
  | linkDown
  /-- PTM_TRIG (R365). -/
  | ptmTrig
  /-- PTM_PERIOD (R365). -/
  | ptmPeriod
  /-- PTM_TIMEOUT (R365). -/
  | ptmTimeout
  /-- WAKE_PATTERN (R377). -/
  | wakePattern
  /-- POWER_ON_RESET (R390). -/
  | powerOnReset (late : List (Supply × Nat) := [])
  /-- BROWNOUT (R420). -/
  | brownout
  /-- CLOCK_LOSS (R389). -/
  | clockLoss (what : ClockFault := .sysclk)
  /-- HOST_UNLOCK (R389). -/
  | hostUnlock
  /-- XTAL_FAIL (R389). -/
  | xtalFail
  /-- PLL_LOCK (R387). -/
  | pllLock
  /-- PWR_REQ_ON (R401). -/
  | pwrReqOn
  /-- PWR_REQ_IDLE (R401). -/
  | pwrReqIdle
  /-- DEFER_END (R404). -/
  | deferEnd
  /-- HANDSHAKE_TIMEOUT (R404). -/
  | handshakeTimeout
  /-- STATE_ENTRY (R407). -/
  | stateEntry
  /-- ENTRY_ABANDON (R408). -/
  | entryAbandon
  /-- XFLT_ACCEPTED_HIGH (R185). -/
  | xfltAcceptedHigh
  /-- HOST_PLL_LOCK (R389). -/
  | hostPllLock
  /-- PERST_N_RELEASE (R396). -/
  | perstNRelease
  /-- XTAL_RUNNING (R382). -/
  | xtalRunning
  /-- POWER_REMOVAL (R399). -/
  | powerRemoval
  deriving DecidableEq, Repr

end Sys2Proof
end

