-- ==== Sys2Proof/WellFormed.lean ====
section
/-!
DEFINITION. Which commands are well formed: the operand values that the rules give the command itself a
meaning for. A command that is not well formed still has the effect its rule gives it (a trap, a refusal
recorded in a status register).
-/

namespace Sys2Proof

/-- The destination of a MAC form: even and from 2 to 12 (09 R267). -/
def accPair (rd : Fin 16) : Bool := rd.val % 2 == 0 && decide (2 ≤ rd.val) && decide (rd.val ≤ 12)

/-- The register of LD and SD: even (09 R268). -/
def evenReg (r : Fin 16) : Bool := r.val % 2 == 0

/-- The numbers CRR may read (09 Table 9.2; 10 Table 10.2). -/
def readableNumber (n : Nat) : Bool :=
  decide (n ≤ 7) || (decide (0x010 ≤ n) && decide (n ≤ 0x013)) || (decide (0x018 ≤ n) && decide (n ≤ 0x029))
    || (decide (0x030 ≤ n) && decide (n ≤ 0x032)) || (decide (0x040 ≤ n) && decide (n ≤ 0x05F))

/-- The numbers CRW may write. -/
def writableNumber (n : Nat) : Bool :=
  n == 3 || n == 4 || (decide (0x010 ≤ n) && decide (n ≤ 0x012)) || (decide (0x018 ≤ n) && decide (n ≤ 0x029))
    || (decide (0x040 ≤ n) && decide (n ≤ 0x05F))

/-- A generation and a width the link can train to (12 Table 12.1). -/
def trainedLink (speed width : Nat) : Bool :=
  decide (1 ≤ speed) && decide (speed ≤ 5) && [1, 2, 4, 8, 16].contains width

/-- A memory request: 1 to 4,096 bytes, a write with one entry for each (12 R360). -/
def requestLength (n : Nat) (write : Option (List (Option Byte))) : Bool :=
  decide (1 ≤ n) && decide (n ≤ 4096) && (match write with | some bs => bs.length == n | none => true)

/-- Instances of a calibration class (08 Table 8.2). -/
def instances : Nat → Nat
  | 0 => 8 | 1 => 8 | 2 => 32 | 3 => 13 | 4 => 32 | 5 => 288 | 6 => 32 | 7 => 4 | _ => 0

/-- A descriptor is 32 bytes (11 R322). -/
def fetchLength : Completion → Bool
  | .data bs => bs.length == 32
  | _ => true

/-- Whether a command is well formed. -/
def Instr.wf : Instr → Bool
  | .lineTick _ => true
  | .failoverAnchor => true
  | .loadPoint => true
  | .pirHalt => true
  | .servoStale => true
  | .overspeed => true
  | .reentryTick _ => true
  | .statusFrame _ _ => true
  | .statusLost _ => true
  | .updateWindow _ _ => true
  | .updateApplyImmediate _ _ => true
  | .pairAlone _ _ => true
  | .nstUpdLoWrite _ _ _ => true
  | .nstUpdHiPush _ _ _ => true
  | .stalledPush _ => true
  | .mgtPushTimeout _ => true
  | .flush _ => true
  | .rasterWrite _ _ bytes => !bytes.isEmpty
  | .packedPageHeader _ => true
  | .waitDescEnd _ => true
  | .packedToken _ _ => true
  | .decodeLineBegin _ => true
  | .lineDecoded _ => true
  | .abandon _ => true
  | .resetStream _ _ => true
  | .arm _ => true
  | .shadowWrite _ _ _ => true
  | .garm => true
  | .globalShadowWrite _ _ => true
  | .schedCheck _ => true
  | .runStart => true
  | .runStop => true
  | .pagePush _ => true
  | .spareLaneWrite _ _ _ => true
  | .hkill _ => true
  | .gridSwkill _ => true
  | .fpeSwkill _ _ => true
  | .killLatchClear _ => true
  | .encoderCount _ _ _ => true
  | .wireDisagree _ _ _ => true
  | .wireClear _ => true
  | .encoderIndex _ => true
  | .indexCorrection _ => true
  | .ssiFrameStart _ => true
  | .ssiFrame _ _ _ => true
  | .ssiFail => true
  | .speedReeval => true
  | .standstill _ => true
  | .failover => true
  | .rebase => true
  | .usePri => true
  | .tofCapture _ _ _ => true
  | .tofPublish _ => true
  | .comparatorHit _ => true
  | .xptModeWrite _ => true
  | .xptStart => true
  | .enDelayExpiry => true
  | .xptStop => true
  | .pirRetry => true
  | .swstop _ => true
  | .xstopRelease => true
  | .driveFault => true
  | .frameStart _ _ _ => true
  | .imageLine _ k => decide (k.data.length < 65536)
  | .frameEnd _ _ _ => true
  | .lineTimeout _ => true
  | .liveSwitch => true
  | .replayStart => true
  | .replayEnd => true
  | .replayResume => true
  | .swtrig _ => true
  | .trigFall _ => true
  | .strobeRise _ => true
  | .strobeFall _ => true
  | .triggerExpire _ => true
  | .cciPush _ => true
  | .cciCommandDone _ _ => true
  | .cciFlush _ => true
  | .cciResultPop _ => true
  | .insAreqPush => true
  | .verdictPop => true
  | .insTblData _ => true
  | .calPairStart _ => true
  | .calPairEnd k i _ _ _ _ => decide (i.val < instances k.val)
  | .calTimeout k i => decide (i.val < instances k.val)
  | .calReq k i => decide (i.val < instances k.val)
  | .calQval _ => true
  | .etRecordPop => true
  | .thermalReading _ v10 v160 => decide (v10 < 65536) && decide (v160 < 65536)
  | .channelFail _ => true
  | .channelRecover _ => true
  | .stage2 _ => true
  | .warnClear _ => true
  | .furtherReductionDue _ => true
  | .thmAck _ => true
  | .thmTrippedClear _ => true
  | .chenWrite _ _ => true
  | .add _ _ _ _ => true
  | .sub _ _ _ _ => true
  | .and _ _ _ _ => true
  | .or _ _ _ _ => true
  | .xor _ _ _ _ => true
  | .sll _ _ _ _ => true
  | .srl _ _ _ _ => true
  | .sra _ _ _ _ => true
  | .slt _ _ _ _ => true
  | .sltu _ _ _ _ => true
  | .min _ _ _ _ => true
  | .max _ _ _ _ => true
  | .minu _ _ _ _ => true
  | .maxu _ _ _ _ => true
  | .adds _ _ _ _ => true
  | .subs _ _ _ _ => true
  | .clz _ _ _ => true
  | .popc _ _ _ => true
  | .addi _ _ _ _ => true
  | .andi _ _ _ _ => true
  | .ori _ _ _ _ => true
  | .xori _ _ _ _ => true
  | .slli _ _ _ _ => true
  | .srli _ _ _ _ => true
  | .srai _ _ _ _ => true
  | .slti _ _ _ _ => true
  | .sltiu _ _ _ _ => true
  | .addsi _ _ _ _ => true
  | .mul _ _ _ _ => true
  | .mulh _ _ _ _ => true
  | .mulhu _ _ _ _ => true
  | .mac _ rd _ _ => accPair rd
  | .macu _ rd _ _ => accPair rd
  | .msu _ rd _ _ => accPair rd
  | .lb _ _ _ _ _ => true
  | .lh _ _ _ _ _ => true
  | .lw _ _ _ _ _ => true
  | .ld _ rt _ _ _ => evenReg rt
  | .lbu _ _ _ _ _ => true
  | .lhu _ _ _ _ _ => true
  | .sb _ _ _ _ => true
  | .sh _ _ _ _ => true
  | .sw _ _ _ _ => true
  | .sd _ rt _ _ => evenReg rt
  | .qswap _ _ _ _ _ => true
  | .qfadd _ _ _ _ _ => true
  | .beq _ _ _ _ => true
  | .bne _ _ _ _ => true
  | .blt _ _ _ _ => true
  | .bge _ _ _ _ => true
  | .bltu _ _ _ _ => true
  | .bgeu _ _ _ _ => true
  | .jal _ _ _ => true
  | .jalr _ _ _ _ => true
  | .lui _ _ _ => true
  | .cmd _ _ _ => true
  | .waite _ _ _ _ => true
  | .waitp _ _ _ _ => true
  | .fenceLine _ _ _ _ => true
  | .waitComplete _ => true
  | .waitTimeout _ => true
  | .crr _ _ num => readableNumber num.toNat
  | .crw _ _ num => writableNumber num.toNat
  | .eret _ => true
  | .sync _ => true
  | .pass _ => true
  | .handlerEntry _ => true
  | .checkpointClose _ => true
  | .checkpointCompare _ _ => true
  | .lockstepHalt _ => true
  | .restoreDone _ => true
  | .outputDelivery _ _ _ => true
  | .evtRaise _ => true
  | .wdKick j => j == 3
  | .pairHalt j pair => j == 3 && pair != 3
  | .pairStart j pair entry => j == 3 && pair != 3 && entry.toNat % 4 == 0 && decide (entry.toNat < 0x20000)
  | .fpeArm _ _ => true
  | .rspAbandon _ _ => true
  | .nstPush _ _ _ _ _ _ _ => true
  | .cmpArm _ _ mode _ _ _ _ => mode != 3
  | .insAreq _ _ _ => true
  | .gridGarm _ _ _ => true
  | .seqStart _ => true
  | .seqHalt _ => true
  | .haltComplete _ => true
  | .seqStep _ => true
  | .seqResume _ => true
  | .kdata _ _ => true
  | .breakpoint _ => true
  | .seqWdKick _ => true
  | .wdWarn => true
  | .watchdogExpire => true
  | .graceExpire => true
  | .seqBootGo => true
  | .bootLoadDone => true
  | .romLoadEntry => true
  | .seqSwev _ => true
  | .msixSend _ => true
  | .evtPendClear _ _ => true
  | .dmaStart _ => true
  | .dmaAbort _ => true
  | .doorbell _ => true
  | .pollExpiry _ => true
  | .descriptorFetch _ x => fetchLength x
  | .tokenAccrual => true
  | .dmaRequestIssue => true
  | .readCompletion _ _ => true
  | .completionTimeout _ => true
  | .descriptorWriteback _ => true
  | .scrubWriteback _ => true
  | .btRegion _ _ => true
  | .memWipe b => decide (b.val ≤ 115)
  | .wipeDone => true
  | .bar0Access _ n write => requestLength n write
  | .bar2Access off n write => requestLength n write && decide (off.toNat + n ≤ 0x40000000)
  | .dataPortAccess n write _ => requestLength n write
  | .configRequest _ _ => true
  | .tlpViolation _ => true
  | .linkUp speed width => trainedLink speed.val width.val
  | .linkDown => true
  | .retrain speed width => trainedLink speed.val width.val
  | .dstateChange _ _ => true
  | .ptmTrig => true
  | .ptmPeriod => true
  | .ptmResponse _ => true
  | .ptmTimeout => true
  | .mgtRead _ _ _ _ => true
  | .mgtWrite _ data _ => decide (data.length < 65536)
  | .mgtAbort _ _ _ => true
  | .wakePattern => true
  | .powerOnReset _ => true
  | .brownout => true
  | .coldReset _ => true
  | .rstCtlWarm _ _ => true
  | .linkReset _ => true
  | .clockLoss _ => true
  | .hostUnlock => true
  | .xtalFail => true
  | .pllLock => true
  | .resetSequence _ => true
  | .clkTrainCtl _ => true
  | .trainingDone _ _ => true
  | .pwrReqOn => true
  | .pwrReqIdle => true
  | .pwrReqStandby _ => true
  | .pwrReqHibernate _ => true
  | .domainOffRequest _ _ => true
  | .domainOnRequest _ => true
  | .domDone _ => true
  | .deferEnd => true
  | .handshakeTimeout => true
  | .stateEntry => true
  | .entryAbandon => true
  | .linkWake _ => true
  | .pinWake _ _ => true
  | .stateExit _ _ => true
  | .program _ _ => true
  | .margin _ _ _ => true
  | .sealSlot _ region _ => decide (region.val < 6)
  | .cntAdvance _ _ _ => true
  | .lcAdvance _ _ => true
  | .otpCommandDone _ => true
  | .otpWordRead _ _ => true
  | .otpCntRead _ => true
  | .snapshotRead _ _ => true
  | .rcRead _ _ => true
  | .registerWrite _ _ _ => true
  | .xfltAcceptedHigh => true
  | .illegalInstruction _ _ => true
  | .fetchFault _ => true
  | .deskewSequence _ => true
  | .ulpsChange _ _ => true
  | .hostPllLock => true
  | .perstNRelease => true
  | .xtalRunning => true
  | .powerRemoval => true

end Sys2Proof
end

