-- ==== Sys2Proof/Decode.lean ====
section
/-!
DEFINITION. The decoder of table words. spec/opcode_table.json gives no row any bits: a command reaches
the block as an event or as an access of a master, never as a word, so that no word spells one. (The
instruction words of the Krytis cores, which the block fetches itself, are decoded in
Sys2Proof/Machine/Krytis.lean.)
-/

namespace Sys2Proof

/-- The command that a word of the table's bits spells: none, since no row has bits. -/
def decodeTableWord (_nbits _w : Nat) : Option Instr := none

end Sys2Proof
end

