-- ==== Sys2Proof/Machine/Bits.lean ====
section
/-!
DEFINITION. Bit fields of words, byte order, sign extension and the sparse maps the state is made
of. 00 R3: bit 0 is the least significant bit, multi-byte values are little-endian.
-/

namespace Sys2Proof.Machine

/-- The field of `n` bits at bit `lo` of a word, as a number. -/
def Word.field (w : Word) (lo n : Nat) : Nat := (w.toNat / 2 ^ lo) % 2 ^ n

/-- `w` with the field of `n` bits at `lo` replaced by `v` modulo `2^n`. -/
def Word.insert (w : Word) (lo n v : Nat) : Word :=
  BitVec.ofNat 32
    (w.toNat % 2 ^ lo + (v % 2 ^ n) * 2 ^ lo + w.toNat / 2 ^ (lo + n) * 2 ^ (lo + n))

/-- The signed reading of an `n`-bit number. -/
def signed (n v : Nat) : Int :=
  if v % 2 ^ n < 2 ^ (n - 1) then (v % 2 ^ n : Nat) else (v % 2 ^ n : Nat) - (2 ^ n : Nat)

/-- The `n`-bit pattern of an integer (two's complement, modulo `2^n`). -/
def unsigned (n : Nat) (x : Int) : Nat := (x % (2 ^ n : Nat)).toNat

/-- `x` clamped to `lo .. hi`. -/
def clamp (lo hi x : Int) : Int := if x < lo then lo else if hi < x then hi else x

/-- `x` saturated to a signed `n`-bit number. -/
def satS (n : Nat) (x : Int) : Int := clamp (-(2 ^ (n - 1) : Nat)) ((2 ^ (n - 1) : Nat) - 1) x

/-- `x` saturated to `0 .. 2^n - 1`. -/
def satU (n : Nat) (x : Int) : Nat := (clamp 0 ((2 ^ n : Nat) - 1) x).toNat

/-- Little-endian bytes of a number (R3). -/
def leBytes : Nat → Nat → List Byte
  | 0, _ => []
  | k + 1, v => BitVec.ofNat 8 v :: leBytes k (v / 256)

/-- The number that little-endian bytes spell (R3). -/
def leNat : List Byte → Nat
  | [] => 0
  | b :: bs => b.toNat + 256 * leNat bs

/-- Big-endian bytes to a number (images, signatures and the management port). -/
def beNat (bs : List Byte) : Nat := bs.foldl (fun a b => 256 * a + b.toNat) 0

/-- Truth as a bit. -/
def b2n (b : Bool) : Nat := if b then 1 else 0

/-- Apply `f` only when `c` holds. -/
def onlyIf {α : Type} (c : Bool) (f : α → α) (x : α) : α := if c then f x else x

/-- Apply `f` for each of `0 .. n-1`, in ascending order. -/
def forUpto {α : Type} : Nat → (Nat → α → α) → α → α
  | 0, _, x => x
  | n + 1, f, x => f n (forUpto n f x)

/-- `a / b` of two naturals, rounded up. -/
def ceilDiv (a b : Nat) : Nat := (a + b - 1) / b

/-! ## Sparse maps -/

/-- A sparse map: keys with values, one entry a key; a key not listed holds the default its owner
names. -/
abbrev Cells (α : Type) := List (Nat × α)

/-- The value at `k`: the first entry of that key, else the default. -/
def Cells.get {α : Type} (d : Nat → α) : Cells α → Nat → α
  | [], k => d k
  | (k', v) :: r, k => if k' = k then v else Cells.get d r k

/-- Insert an entry before the first larger key. -/
def Cells.insertSorted {α : Type} (k : Nat) (v : α) : Cells α → Cells α
  | [] => [(k, v)]
  | (k', v') :: r => if k < k' then (k, v) :: (k', v') :: r else (k', v') :: Cells.insertSorted k v r

/-- Every entry of key `k` taken out. -/
def Cells.drop {α : Type} (k : Nat) : Cells α → Cells α
  | [] => []
  | (k', v') :: r => if k' = k then Cells.drop k r else (k', v') :: Cells.drop k r

/-- Write `v` at `k`, keeping the canonical form: keys rising, no entry that equals the default. -/
def Cells.set {α : Type} [DecidableEq α] (d : Nat → α) (m : Cells α) (k : Nat) (v : α) : Cells α :=
  if v = d k then Cells.drop k m else Cells.insertSorted k v (Cells.drop k m)

/-- The canonical form: keys strictly rising, and no entry equal to the default of its key. -/
def Cells.wf {α : Type} [DecidableEq α] (d : Nat → α) : Cells α → Bool
  | [] => true
  | [(k, v)] => decide (v ≠ d k)
  | (k, v) :: (k', v') :: r => decide (v ≠ d k) && decide (k < k') && Cells.wf d ((k', v') :: r)

/-- The value at a key of a plain sparse map whose unlisted keys hold nothing. -/
def Cells.find? {α : Type} : Cells α → Nat → Option α
  | [], _ => none
  | (k', v) :: r, k => if k' = k then some v else Cells.find? r k

/-- Insert or replace the entry of a plain sparse map. -/
def Cells.insert {α : Type} (m : Cells α) (k : Nat) (v : α) : Cells α :=
  Cells.insertSorted k v (Cells.drop k m)

end Sys2Proof.Machine
end

