-- ==== Sys2Proof/Machine/Crypto.lean ====
section
/-!
DEFINITION. SHA-256 and the verification of an ECDSA P-256 signature, which the manual names and does
not define (09 R286; 10 R315; 15 R431). PRESUMED: the published standards of those names.
-/

namespace Sys2Proof.Machine

/-! ## SHA-256 -/

/-- The first 32 bits of the fraction of the `k`-th root of `p`, for a `p` below 512: the root is built bit by
bit from the top. -/
def rootFraction (k p : Nat) : Word :=
  let root := (List.range 41).foldr (fun i r => if (r + 2 ^ i) ^ k ≤ p * 2 ^ (32 * k) then r + 2 ^ i else r) 0
  BitVec.ofNat 32 root

/-- The first 64 primes. -/
def shaPrimes : List Nat :=
  (List.range 312).filter fun p => decide (2 ≤ p) && (List.range p).all fun q => decide (q < 2) || p % q != 0

/-- The sum modulo 2 of a word rotated right by two amounts, and by a third or shifted by it. -/
def shaMix (i j k : Nat) (shift : Bool) (x : Word) : Word :=
  x.rotateRight i ^^^ x.rotateRight j ^^^ (if shift then x >>> k else x.rotateRight k)

/-- A compression in progress: the two sequences that the rounds extend, and the last 16 words of the message
schedule, each newest first. -/
structure ShaRun where
  up : List Word
  low : List Word
  sched : List Word
  deriving DecidableEq, Repr

/-- Word `i` of a sequence, counted back from the newest. -/
def back (l : List Word) (i : Nat) : Word := l.getD i 0

/-- One round: each sequence grows by a word; the schedule moves on by one. -/
def ShaRun.round (r : ShaRun) (p : Nat) : ShaRun :=
  let low := back r.low
  let up := back r.up
  let choice := low 2 ^^^ (low 0 &&& (low 1 ^^^ low 2))
  let most := (up 0 &&& (up 1 ||| up 2)) ||| (up 1 &&& up 2)
  let sum := back r.sched 15 + rootFraction 3 p + choice + shaMix 6 11 25 false (low 0) + low 3
  let word := back r.sched 15 + back r.sched 6 + shaMix 7 18 3 true (back r.sched 14) + shaMix 17 19 10 true (back r.sched 1)
  { up := (most + shaMix 2 13 22 false (up 0) + sum) :: r.up.take 3
    low := (up 3 + sum) :: r.low.take 3
    sched := word :: r.sched.take 15 }

/-- Cut a list into chunks of `k`. -/
def chunks {α : Type} (k : Nat) : Nat → List α → List (List α)
  | 0, _ => []
  | n + 1, l => l.take k :: chunks k n (l.drop k)

/-- A chaining value, newest word of each sequence first, takes in one block of 64 bytes. -/
def shaBlock (h : List Word × List Word) (block : List Byte) : List Word × List Word :=
  let words := (chunks 4 16 block).map fun b => BitVec.ofNat 32 (beNat b)
  let r := shaPrimes.foldl ShaRun.round ⟨h.1, h.2, words.reverse⟩
  (List.zipWith (· + ·) h.1 r.up, List.zipWith (· + ·) h.2 r.low)

/-- The chaining value before the first block. -/
def shaStart : List Word × List Word :=
  let roots := (shaPrimes.take 8).map (rootFraction 2)
  (roots.take 4, roots.drop 4)

/-- Big-endian bytes of a number. -/
def beBytes (n v : Nat) : List Byte := (leBytes n v).reverse

/-- A message with its end mark and its length in bits, in whole blocks. -/
def shaPadded (m : List Byte) : List Byte :=
  let gap := (64 - (m.length + 9) % 64) % 64
  m ++ 0x80#8 :: List.replicate gap 0#8 ++ beBytes 8 (8 * m.length)

/-- The SHA-256 digest of a message. -/
def sha256 (m : List Byte) : List Byte :=
  let p := shaPadded m
  let h := (chunks 64 (p.length / 64) p).foldl shaBlock shaStart
  (h.1 ++ h.2).flatMap fun w => beBytes 4 w.toNat

/-! ## ECDSA over P-256 -/

/-- The field prime of P-256. -/
def p256P : Nat := 0xffffffff00000001000000000000000000000000ffffffffffffffffffffffff
/-- The group order. -/
def p256N : Nat := 0xffffffff00000000ffffffffffffffffbce6faada7179e84f3b9cac2fc632551
/-- The curve's constant term. -/
def p256B : Nat := 0x5ac635d8aa3a93e7b3ebbd55769886bc651d06b0cc53b0f63bce3c3e27d2604b
/-- The base point. -/
def p256G : Nat × Nat :=
  (0x6b17d1f2e12c4247f8bce6e563a440f277037d812deb33a0f4a13945d898c296,
   0x4fe342e2fe1a7f9b8ee7eb4a7c0f9e162bce33576b315ececbb6406837bf51f5)

/-- `b ^ e` modulo `m`, over the `k` low bits of `e`. -/
def powMod (m : Nat) : Nat → Nat → Nat → Nat
  | 0, _, _ => 1 % m
  | k + 1, b, e => let r := powMod m k (b * b % m) (e / 2); if e % 2 = 1 then b * r % m else r

/-- The inverse modulo a 256-bit prime. -/
def invMod (m a : Nat) : Nat := powMod m 256 (a % m) (m - 2)

/-- A point of the curve; none is the point at infinity. -/
abbrev EcPoint := Option (Nat × Nat)

/-- The chord or tangent of slope `l` through a point meets the curve again; mirrored. -/
def ecThird (l x1 y1 x2 : Nat) : EcPoint :=
  let x := (l * l + 2 * p256P - x1 - x2) % p256P
  some (x, (l * (x1 + p256P - x) + p256P - y1) % p256P)

/-- The sum of two points. -/
def ecAdd : EcPoint → EcPoint → EcPoint
  | none, q => q
  | p, none => p
  | some (x1, y1), some (x2, y2) =>
    if x1 = x2 then
      if (y1 + y2) % p256P = 0 then none
      else ecThird ((3 * x1 * x1 + p256P - 3) * invMod p256P (2 * y1) % p256P) x1 y1 x2
    else
      ecThird ((y2 + p256P - y1) * invMod p256P (x2 + p256P - x1) % p256P) x1 y1 x2

/-- `e` times a point, over the `k` low bits of `e`. -/
def ecMul : Nat → Nat → EcPoint → EcPoint
  | 0, _, _ => none
  | k + 1, e, p =>
    let r := ecMul k (e / 2) (ecAdd p p)
    if e % 2 = 1 then ecAdd p r else r

/-- Whether a point lies on the curve. -/
def ecOn (x y : Nat) : Bool :=
  decide (x < p256P) && decide (y < p256P) && (y * y % p256P == (x * x * x + (p256P - 3) * x + p256B) % p256P)

/-- Whether (r, s) is a signature of a digest under the public key (x, y) (R286). -/
def ecdsaVerify (digest : List Byte) (x y r s : Nat) : Bool :=
  if r = 0 ∨ s = 0 ∨ p256N ≤ r ∨ p256N ≤ s ∨ !ecOn x y then false
  else
    let w := invMod p256N s
    let u := beNat digest * w % p256N
    let v := r * w % p256N
    match ecAdd (ecMul 256 u (some p256G)) (ecMul 256 v (some (x, y))) with
    | some (px, _) => px % p256N == r
    | none => false

/-! ## CRC-32 of bank signatures (R352) -/

/-- One bit of the CRC with polynomial 0x04C1_1DB7, most significant bit first. -/
def crc32Bit (c : Word) (bit : Bool) : Word :=
  let x := (c <<< 1)
  if c.getLsbD 31 != bit then x ^^^ 0x04C11DB7#32 else x

end Sys2Proof.Machine
end

