-- ==== Sys2Proof/Config.lean ====
section
/-!
DEFINITION. What the manual leaves open. Each constant is a free value: it has no body, so no proof
can see what it is, and a statement that mentions it holds whatever it is. A meaning that needs a
fresh free value applies one of them to the counter `fresh` of the state and advances the counter.
-/

namespace Sys2Proof.Config

/-- The PCI-SIG Vendor ID assigned to Plovair Semiconductor (12 R358 names it and gives no number). -/
opaque plovairVendorId : BitVec 16

/-- Whether a RESET_N pulse of 200 ns to 1 us is accepted (13 R390: "may or may not be accepted"). -/
opaque shortResetAccepted : Nat → Bool

/-- The value of a defect column of a camera port whose MODE names a neighbour that the frame does not
have (07 R204 gives MODE 1 and MODE 2 no value there). -/
opaque defectEdge (port col : Nat) : BitVec 12

/-- LAT of a window of darkness 0 that is not classed absent (07 R219: the centroid has no value). -/
opaque emptyCentroid (b : Nat) : BitVec 8

/-- Temperature in 1/64 degC of a conversion whose formula has no value: an ideality factor, a B or an
RNOM of 0, or a thermistor resistance for which 1/T is not positive (08 R239). -/
opaque openTemperature (ch v10 v160 : Nat) : BitVec 16

/-- The substitute of a failed channel whose port has no healthy enabled channel with a reading (08
R242 takes the highest of none); a fresh value each time. -/
opaque emptySubstitute : Nat → BitVec 16

/-- The mean current of a test strobe within which no sample lies (08 R236); a fresh value each time. -/
opaque noSample : Nat → BitVec 16

/-- The nominal span of the delay line of a capture TDC in picoseconds (08 Table 8.2 gives the class 7
tolerance in picoseconds of span and the steps in 1/256 of the nominal span, not the span). -/
opaque tdcSpanPs : Nat

/-- The bytes of the boot ROM (10 R313 gives its place and what it does, not its code). -/
opaque bootRomByte (off : Nat) : BitVec 8

/-- What a normal read returns for the bits of an OTP word that are burned in no copy but read 1 at one
reference in some copy (15 R423 and R428 define a burned bit and the margins, not this case). -/
opaque weakBits (word : Nat) : BitVec 32

/-- How far a device reset lets an OTP command come that it stops: how many of its words are burned whole, and of the
next one which bits of a copy are burned and which are left weak (15 R444 says that a word can be left with weak
bits, and R429 gives the pulses no time); fresh values each time. -/
opaque stopWords : Nat → Nat

/-- See `stopWords`. -/
opaque stopBurned (copy : Nat) : Nat → BitVec 32

/-- See `stopWords`. -/
opaque stopWeak (copy : Nat) : Nat → BitVec 32

/-- A word of configuration space to which the manual gives no value (12 R357 names the standard, not every
register); a fresh value each time. -/
opaque configWord : Nat → BitVec 32

/-- A word of the header of a TLP that the error log of configuration space records (12 Table 12.1 gives the log,
the commands name no header); a fresh value each time. -/
opaque tlpHeader : Nat → BitVec 32

/-- What the boot ROM's load entry leaves in a register or a stack byte of its caller that the convention
does not preserve (09 R282; 10 R318); a fresh value each time. -/
opaque romScratch : Nat → BitVec 32

/-- The physical array, 0 to 15, of its bank in which a 64-bit word of the memory space lies (11 Table 11.8
numbers the arrays and does not place their words). -/
opaque arrayOf (word : Nat) : Nat

/-- The 64-bit word of a bank at no address (76 to 115) that holds word `j` of its item `i`: a camera frame's line,
an update word, a descriptor, a table entry, a record, a log entry (11 Table 11.6 gives their contents and sizes,
and does not place them). -/
opaque bankWord (bank i j : Nat) : Nat

/-- What DMA_Cc_ERRADDR records when a read of a camera store fails, which lies at no address (11 R339 names the
failing address); a fresh value each time. -/
opaque storeAddress : Nat → BitVec 64

end Sys2Proof.Config
end

