-- ==== Sys2Proof/Machine/RegTable.lean ====
section
/-!
DEFINITION. The registers of the manual's register tables: for each field its place, as a constant
of type `Field` (`F.<register>_<field>`, the manual's names, the register's indices as arguments),
for each register its BAR0 offset (`A.<register>`), and the table of every register's fields with
their access codes and reset values (00 R4, R8; 01 R21). A register with one unnamed value has the
field `V`.
-/

namespace Sys2Proof.Machine

/-- A field of a register: BAR0 offset of the register, lowest bit, width in bits. -/
structure Field where
  off : Nat
  lo : Nat
  w : Nat
  deriving DecidableEq, Repr

/-- The access codes of Table 0.3 (R4). -/
inductive Access where
  | rw | ro | wo | w1c | w1s | rc | rwl
  deriving DecidableEq, Repr

/-- One row of a register's field table. -/
structure FieldSpec where
  lo : Nat
  w : Nat
  acc : Access
  reset : Nat
  deriving DecidableEq, Repr

/-- One register kind: its first offset, its index ranges as (count, stride), its fields. -/
structure RegKind where
  base : Nat
  dims : List (Nat × Nat)
  fields : List FieldSpec
  deriving DecidableEq, Repr

/-! ## Offsets -/

def A.GRID_CTL : Nat := 0xF0000
def A.GRID_STATUS : Nat := 0xF0004
def A.GRID_KILL : Nat := 0xF0040
def A.FPE_CTL (n : Nat) : Nat := 0x100000 + n * 0x10000
def A.FPE_STATUS (n : Nat) : Nat := 0x100004 + n * 0x10000
def A.FPE_LCAUSE (n : Nat) : Nat := 0x10000C + n * 0x10000
def A.FPE_FCAUSE (n : Nat) : Nat := 0x100014 + n * 0x10000
def A.FPE_LANE (n : Nat) : Nat := 0x100300 + n * 0x10000
def A.FPE_PREC_PAGE (n : Nat) : Nat := 0x100500 + n * 0x10000
def A.FPE_PREC_FLAGS (n : Nat) : Nat := 0x100504 + n * 0x10000
def A.NST_CTL (n : Nat) : Nat := 0x104000 + n * 0x10000
def A.NST_STATUS (n : Nat) : Nat := 0x104004 + n * 0x10000
def A.NST_CAUSE (n : Nat) : Nat := 0x104008 + n * 0x10000
def A.NST_WATER (n : Nat) : Nat := 0x104010 + n * 0x10000
def A.NST_STITCH (n : Nat) : Nat := 0x104014 + n * 0x10000
def A.NST_UPD_LO (n : Nat) : Nat := 0x104020 + n * 0x10000
def A.NST_UPD_HI (n : Nat) : Nat := 0x104024 + n * 0x10000
def A.RSP_CTL (n : Nat) : Nat := 0x106000 + n * 0x10000
def A.RSP_CFG (n : Nat) : Nat := 0x106004 + n * 0x10000
def A.RSP_STATUS (n : Nat) : Nat := 0x106008 + n * 0x10000
def A.RSP_LEVEL (n : Nat) : Nat := 0x10600C + n * 0x10000
def A.POS_CTL : Nat := 0x80000
def A.POS_AXIS_CFG : Nat := 0x80004
def A.POS_AXIS_STATUS : Nat := 0x8000C
def A.POS_EST_CFG : Nat := 0x80024
def A.POS_FO_CFG : Nat := 0x80028
def A.POS_CAUSE : Nat := 0x80050
def A.POS_ENC_CAUSE : Nat := 0x80058
def A.POS_ENCc_CFG (c : Nat) : Nat := 0x80100 + c * 0x20
def A.POS_SSI_CFG : Nat := 0x80200
def A.POS_TOFt_CFG (t : Nat) : Nat := 0x80300 + t * 0x10
def A.POS_CMPc_CTL (c : Nat) : Nat := 0x80C08 + c * 0x10
def A.XPT_CTL : Nat := 0x90000
def A.XPT_CFG : Nat := 0x90004
def A.XPT_STATUS : Nat := 0x90008
def A.XPT_XSTOP : Nat := 0x9003C
def A.XPT_CAUSE : Nat := 0x90060
def A.XPT_LASTRUN : Nat := 0x900A0
def A.CAM_Pp_CTL (p : Nat) : Nat := 0xC0000 + p * 0x1000
def A.CAM_Pp_CFG (p : Nat) : Nat := 0xC0004 + p * 0x1000
def A.CAM_Pp_FRAME (p : Nat) : Nat := 0xC0008 + p * 0x1000
def A.CAM_Pp_STATUS (p : Nat) : Nat := 0xC000C + p * 0x1000
def A.CAM_Pp_TRIG (p : Nat) : Nat := 0xC0010 + p * 0x1000
def A.CAM_Pp_CCI_CMD (p : Nat) : Nat := 0xC0800 + p * 0x1000
def A.INS_CTL : Nat := 0xC8000
def A.INS_STATUS : Nat := 0xC8004
def A.INS_HYST : Nat := 0xC8008
def A.INS_CAUSE : Nat := 0xC8010
def A.INS_AREQ_W0 : Nat := 0xC8020
def A.THM_CTL : Nat := 0xA0000
def A.THM_CFG : Nat := 0xA0004
def A.THM_CAUSE : Nat := 0xA0040
def A.THM_SCAUSE : Nat := 0xA0048
def A.THM_Pp_CFG (p : Nat) : Nat := 0xA1000 + p * 0x10
def A.CAL_CTL : Nat := 0xB0000
def A.CAL_STATUS : Nat := 0xB0004
def A.CAL_CAUSE : Nat := 0xB0060
def A.CAL_ET_CFG : Nat := 0xB0104
def A.SEQ_BOOT_STATUS : Nat := 0xD000C
def A.SEQ_WD_CFG : Nat := 0xD0010
def A.SEQ_Pj_CTL (j : Nat) : Nat := 0xD1000 + j * 0x100
def A.SEQ_Pj_STATUS (j : Nat) : Nat := 0xD1004 + j * 0x100
def A.SEQ_Pj_CAUSE (j : Nat) : Nat := 0xD1014 + j * 0x100
def A.DMA_Cc_CTL (c : Nat) : Nat := 0x51000 + c * 0x40
def A.DMA_Cc_CFG (c : Nat) : Nat := 0x51004 + c * 0x40
def A.MEM_CTL : Nat := 0xE0000
def A.MEM_CAUSE : Nat := 0xE0010
def A.SYS_ID : Nat := 0x0
def A.SYS_HL_STATUS : Nat := 0x8000
def A.SYS_HL_CAUSE : Nat := 0x8004
def A.SYS_HL_PTM_CTL : Nat := 0x8010
def A.EVT_MAPe (e : Nat) : Nat := 0x40000 + e * 0x4
def A.MGT_CFG : Nat := 0x70000
def A.CLK_STATUS : Nat := 0x20000
def A.CLK_CFG : Nat := 0x20004
def A.CLK_CAUSE : Nat := 0x20020
def A.RST_CTL : Nat := 0x28000
def A.RST_CAUSE : Nat := 0x28004
def A.PWR_REQ : Nat := 0x10000
def A.PWR_STATUS : Nat := 0x10004
def A.PWR_DOM_CTL : Nat := 0x10008
def A.PWR_WAKE_CFG : Nat := 0x10014
def A.PWR_WAKE_SRC : Nat := 0x10018
def A.PWR_CAUSE : Nat := 0x10030
def A.OTP_CMD : Nat := 0x30000
def A.OTP_STATUS : Nat := 0x30008
def A.OTP_CAUSE : Nat := 0x30050
def A.SYS_LC : Nat := 0x10
def A.GRID_FREQ_LO : Nat := 0xF0008
def A.GRID_FREQ_LO_LIVE : Nat := 0xF0108
def A.GRID_FREQ_HI : Nat := 0xF000C
def A.GRID_FREQ_HI_LIVE : Nat := 0xF010C
def A.GRID_STROBE : Nat := 0xF0010
def A.GRID_STROBE_LIVE : Nat := 0xF0110
def A.GRID_PITCH : Nat := 0xF0018
def A.GRID_PITCH_LIVE : Nat := 0xF0118
def A.GRID_ERR_TOL : Nat := 0xF001C
def A.GRID_ERR_TOL_LIVE : Nat := 0xF011C
def A.GRID_WARM : Nat := 0xF0014
def A.GRID_WARM_LIVE : Nat := 0xF0114
def A.GRID_FORCE_BAR : Nat := 0xF0020
def A.GRID_FORCE_LINE : Nat := 0xF0024
def A.GRID_TICK : Nat := 0xF0030
def A.GRID_PERIOD : Nat := 0xF0034
def A.FPE_ARM_LINE (n : Nat) : Nat := 0x100008 + n * 0x10000
def A.FPE_LEN (n : Nat) : Nat := 0x100010 + n * 0x10000
def A.FPE_FEN (n : Nat) : Nat := 0x100018 + n * 0x10000
def A.FPE_PQ_W0 (n : Nat) : Nat := 0x100020 + n * 0x10000
def A.FPE_PQ_W1 (n : Nat) : Nat := 0x100024 + n * 0x10000
def A.FPE_PQ_W2 (n : Nat) : Nat := 0x100028 + n * 0x10000
def A.FPE_PQ_W3 (n : Nat) : Nat := 0x10002C + n * 0x10000
def A.FPE_PQ_W4 (n : Nat) : Nat := 0x100030 + n * 0x10000
def A.FPE_PQ_W5 (n : Nat) : Nat := 0x100034 + n * 0x10000
def A.FPE_PQ_W6 (n : Nat) : Nat := 0x100038 + n * 0x10000
def A.FPE_PQ_W7 (n : Nat) : Nat := 0x10003C + n * 0x10000
def A.FPE_PQ_PUSH (n : Nat) : Nat := 0x100040 + n * 0x10000
def A.FPE_CUR_PAGE (n : Nat) : Nat := 0x100044 + n * 0x10000
def A.FPE_CUR_LINE (n : Nat) : Nat := 0x100048 + n * 0x10000
def A.FPE_OFFSET_LO (n : Nat) : Nat := 0x100100 + n * 0x10000
def A.FPE_OFFSET_LO_LIVE (n : Nat) : Nat := 0x100200 + n * 0x10000
def A.FPE_OFFSET_HI (n : Nat) : Nat := 0x100104 + n * 0x10000
def A.FPE_OFFSET_HI_LIVE (n : Nat) : Nat := 0x100204 + n * 0x10000
def A.FPE_WIN_START (n : Nat) : Nat := 0x100108 + n * 0x10000
def A.FPE_WIN_START_LIVE (n : Nat) : Nat := 0x100208 + n * 0x10000
def A.FPE_WIN_END (n : Nat) : Nat := 0x10010C + n * 0x10000
def A.FPE_WIN_END_LIVE (n : Nat) : Nat := 0x10020C + n * 0x10000
def A.FPE_SEGMASK (n : Nat) : Nat := 0x100110 + n * 0x10000
def A.FPE_SEGMASK_LIVE (n : Nat) : Nat := 0x100210 + n * 0x10000
def A.FPE_WARMCNT (n : Nat) : Nat := 0x100118 + n * 0x10000
def A.FPE_WARMCNT_LIVE (n : Nat) : Nat := 0x100218 + n * 0x10000
def A.FPE_ROWOFS (n : Nat) : Nat := 0x100114 + n * 0x10000
def A.FPE_ROWOFS_LIVE (n : Nat) : Nat := 0x100214 + n * 0x10000
def A.FPE_GT (n g : Nat) : Nat := 0x100140 + n * 0x10000 + g * 0x4
def A.FPE_GT_LIVE (n g : Nat) : Nat := 0x100240 + n * 0x10000 + g * 0x4
def A.FPE_SR_SEGLO (n : Nat) : Nat := 0x100304 + n * 0x10000
def A.FPE_SR_SEGHI (n : Nat) : Nat := 0x100308 + n * 0x10000
def A.FPE_SR_HEAD (n : Nat) : Nat := 0x10030C + n * 0x10000
def A.FPE_SR_CFG (n : Nat) : Nat := 0x100310 + n * 0x10000
def A.FPE_DROPPED (n : Nat) : Nat := 0x100400 + n * 0x10000
def A.FPE_HELD (n : Nat) : Nat := 0x100404 + n * 0x10000
def A.FPE_LOST_LINES (n : Nat) : Nat := 0x100408 + n * 0x10000
def A.FPE_CORRUPT_LINES (n : Nat) : Nat := 0x10040C + n * 0x10000
def A.FPE_SR_ERR (n : Nat) : Nat := 0x100410 + n * 0x10000
def A.FPE_KILLED_LINES (n : Nat) : Nat := 0x100414 + n * 0x10000
def A.FPE_PREC_TAG (n : Nat) : Nat := 0x100508 + n * 0x10000
def A.FPE_PREC_DROPPED (n : Nat) : Nat := 0x10050C + n * 0x10000
def A.FPE_PREC_HELD (n : Nat) : Nat := 0x100510 + n * 0x10000
def A.FPE_PREC_MAXERR (n : Nat) : Nat := 0x100514 + n * 0x10000
def A.FPE_PREC_LOST (n : Nat) : Nat := 0x100518 + n * 0x10000
def A.NST_EN (n : Nat) : Nat := 0x10400C + n * 0x10000
def A.NST_STITCH_LIVE (n : Nat) : Nat := 0x104114 + n * 0x10000
def A.NST_APPLIED (n : Nat) : Nat := 0x104040 + n * 0x10000
def A.NST_LOCK_SKIP (n : Nat) : Nat := 0x104044 + n * 0x10000
def A.NST_PAIR_ALONE (n : Nat) : Nat := 0x104048 + n * 0x10000
def A.NST_FLUSHED (n : Nat) : Nat := 0x10404C + n * 0x10000
def A.NST_BAD_ADDR (n : Nat) : Nat := 0x104050 + n * 0x10000
def A.NST_COLLISIONS (n : Nat) : Nat := 0x104054 + n * 0x10000
def A.NST_UNPL_TOTAL (n : Nat) : Nat := 0x104058 + n * 0x10000
def A.NST_THIN_TOTAL (n : Nat) : Nat := 0x10405C + n * 0x10000
def A.NST_PREC_UNPL (n : Nat) : Nat := 0x104200 + n * 0x10000
def A.NST_PREC_THIN (n : Nat) : Nat := 0x104204 + n * 0x10000
def A.RSP_STAGE (n : Nat) : Nat := 0x106010 + n * 0x10000
def A.RSP_STREAM_LINE (n : Nat) : Nat := 0x106014 + n * 0x10000
def A.RSP_RESUME_IDX (n : Nat) : Nat := 0x106018 + n * 0x10000
def A.RSP_RESUME_DUE_LO (n : Nat) : Nat := 0x10601C + n * 0x10000
def A.RSP_RESUME_DUE_HI (n : Nat) : Nat := 0x106020 + n * 0x10000
def A.RSP_UNDERRUNS (n : Nat) : Nat := 0x106040 + n * 0x10000
def A.RSP_SKIPPED (n : Nat) : Nat := 0x106044 + n * 0x10000
def A.RSP_PAUSED (n : Nat) : Nat := 0x106048 + n * 0x10000
def A.RSP_STOPS (n : Nat) : Nat := 0x10604C + n * 0x10000
def A.RSP_REPRINTED (n : Nat) : Nat := 0x106050 + n * 0x10000
def A.RSP_STREAM_ERRS (n : Nat) : Nat := 0x106054 + n * 0x10000
def A.RSP_ABANDONED (n : Nat) : Nat := 0x106058 + n * 0x10000
def A.RSP_PREC_SKIPPED (n : Nat) : Nat := 0x106200 + n * 0x10000
def A.RSP_PREC_STOPS (n : Nat) : Nat := 0x106204 + n * 0x10000
def A.RSP_PREC_REPRINT (n : Nat) : Nat := 0x106208 + n * 0x10000
def A.POS_SEC_RATIO : Nat := 0x80008
def A.POS_NOW_LO : Nat := 0x80010
def A.POS_NOW_HI : Nat := 0x80014
def A.POS_PP_LO : Nat := 0x80018
def A.POS_PP_HI : Nat := 0x8001C
def A.POS_SPEED : Nat := 0x80020
def A.POS_SLO_LO : Nat := 0x80030
def A.POS_SLO_HI : Nat := 0x80034
def A.POS_SHI_LO : Nat := 0x80038
def A.POS_SHI_HI : Nat := 0x8003C
def A.POS_REBASE_LO : Nat := 0x80040
def A.POS_REBASE_HI : Nat := 0x80044
def A.POS_EN : Nat := 0x80054
def A.POS_ENC_EN : Nat := 0x8005C
def A.POS_JITTER : Nat := 0x80060
def A.POS_REVERSALS : Nat := 0x80064
def A.POS_LIMIT_DISC : Nat := 0x80068
def A.POS_FAILOVERS : Nat := 0x8006C
def A.POS_DIVERGES : Nat := 0x80070
def A.POS_ENCc_CNT (c : Nat) : Nat := 0x80104 + c * 0x20
def A.POS_ENCc_SPEED (c : Nat) : Nat := 0x80108 + c * 0x20
def A.POS_ENCc_STATUS (c : Nat) : Nat := 0x8010C + c * 0x20
def A.POS_ENCc_ILL (c : Nat) : Nat := 0x80110 + c * 0x20
def A.POS_ENCc_INDEX (c : Nat) : Nat := 0x80114 + c * 0x20
def A.POS_ENCc_PER (c : Nat) : Nat := 0x80118 + c * 0x20
def A.POS_ENCc_RHO (c : Nat) : Nat := 0x8011C + c * 0x20
def A.POS_SSI_PERIOD : Nat := 0x80204
def A.POS_SSI_VAL_LO : Nat := 0x80208
def A.POS_SSI_VAL_HI : Nat := 0x8020C
def A.POS_SSI_MAXJUMP : Nat := 0x80210
def A.POS_SSI_ERRS : Nat := 0x80214
def A.POS_SSI_SPEED : Nat := 0x80218
def A.POS_TOFt_SEQ (t : Nat) : Nat := 0x80304 + t * 0x10
def A.POS_TOFt_REJ (t : Nat) : Nat := 0x80308 + t * 0x10
def A.POS_TOF_CAUSE : Nat := 0x80340
def A.POS_TOF_EN : Nat := 0x80344
def A.POS_RING (t e w : Nat) : Nat := 0x80400 + t * 0x200 + e * 0x20 + w * 0x4
def A.POS_CMPc_TGT_LO (c : Nat) : Nat := 0x80C00 + c * 0x10
def A.POS_CMPc_TGT_HI (c : Nat) : Nat := 0x80C04 + c * 0x10
def A.POS_CMPc_TS (c : Nat) : Nat := 0x80C0C + c * 0x10
def A.POS_CMP_CAUSE : Nat := 0x80D00
def A.POS_CMP_EN : Nat := 0x80D04
def A.XPT_U : Nat := 0x90010
def A.XPT_FF : Nat := 0x90014
def A.XPT_CLAMP : Nat := 0x90018
def A.XPT_SLEW : Nat := 0x9001C
def A.XPT_ACC : Nat := 0x90020
def A.XPT_DEC : Nat := 0x90024
def A.XPT_VBACK : Nat := 0x90028
def A.XPT_SETTLE : Nat := 0x9002C
def A.XPT_VMAX : Nat := 0x90030
def A.XPT_TOL : Nat := 0x90034
def A.XPT_TIMING : Nat := 0x90038
def A.XPT_S_TICK : Nat := 0x90040
def A.XPT_S_Y_LO : Nat := 0x90044
def A.XPT_S_Y_HI : Nat := 0x90048
def A.XPT_S_ERR : Nat := 0x9004C
def A.XPT_S_V : Nat := 0x90050
def A.XPT_S_VREF : Nat := 0x90054
def A.XPT_S_CODE : Nat := 0x90058
def A.XPT_S_PP_LO : Nat := 0x90068
def A.XPT_S_PP_HI : Nat := 0x9006C
def A.XPT_PIR_STOP_LO : Nat := 0x90070
def A.XPT_PIR_STOP_HI : Nat := 0x90074
def A.XPT_PIR_RE_LO : Nat := 0x90078
def A.XPT_PIR_RE_HI : Nat := 0x9007C
def A.XPT_PIR_J : Nat := 0x90080
def A.XPT_EN : Nat := 0x90064
def A.XPT_STALE : Nat := 0x90090
def A.XPT_CLAMPED : Nat := 0x90094
def A.XPT_PIROUETTES : Nat := 0x90098
def A.XPT_LAPS : Nat := 0x9009C
def A.CAM_Pp_STRB_DLY (p : Nat) : Nat := 0xC0014 + p * 0x1000
def A.CAM_Pp_STRB_W (p : Nat) : Nat := 0xC0018 + p * 0x1000
def A.CAM_Pp_SET (p : Nat) : Nat := 0xC001C + p * 0x1000
def A.CAM_Pp_GEN (p : Nat) : Nat := 0xC0020 + p * 0x1000
def A.CAM_Pp_TSEQ (p : Nat) : Nat := 0xC0024 + p * 0x1000
def A.CAM_Pp_CAUSE (p : Nat) : Nat := 0xC0030 + p * 0x1000
def A.CAM_Pp_EN (p : Nat) : Nat := 0xC0034 + p * 0x1000
def A.CAM_Pp_FRAMES (p : Nat) : Nat := 0xC0200 + p * 0x1000
def A.CAM_Pp_DISCARDED (p : Nat) : Nat := 0xC0204 + p * 0x1000
def A.CAM_Pp_CRC_ERRS (p : Nat) : Nat := 0xC0208 + p * 0x1000
def A.CAM_Pp_ECC_CORR (p : Nat) : Nat := 0xC020C + p * 0x1000
def A.CAM_Pp_ECC_BAD (p : Nat) : Nat := 0xC0210 + p * 0x1000
def A.CAM_Pp_TRIG_REF (p : Nat) : Nat := 0xC0214 + p * 0x1000
def A.CAM_Pp_TRIG_EXP (p : Nat) : Nat := 0xC0218 + p * 0x1000
def A.CAM_Pp_VIOL (p : Nat) : Nat := 0xC021C + p * 0x1000
def A.CAM_RING (p e w : Nat) : Nat := 0xC0100 + p * 0x1000 + e * 0x20 + w * 0x4
def A.CAM_Pp_CCI_REG (p : Nat) : Nat := 0xC0804 + p * 0x1000
def A.CAM_Pp_CCI_WDATA (p : Nat) : Nat := 0xC0808 + p * 0x1000
def A.CAM_Pp_CCI_PUSH (p : Nat) : Nat := 0xC080C + p * 0x1000
def A.CAM_Pp_CCI_RES (p : Nat) : Nat := 0xC0810 + p * 0x1000
def A.CAM_Pp_CCI_RDATA (p : Nat) : Nat := 0xC0814 + p * 0x1000
def A.CAM_Pp_CCI_STAT (p : Nat) : Nat := 0xC0818 + p * 0x1000
def A.CAM_Pp_CCI_CFG (p : Nat) : Nat := 0xC081C + p * 0x1000
def A.INS_VF_WATER : Nat := 0xC800C
def A.INS_EN : Nat := 0xC8014
def A.INS_AREQ_W1 : Nat := 0xC8024
def A.INS_AREQ_PUSH : Nat := 0xC8028
def A.INS_GEO_W0 (g : Nat) : Nat := 0xC8100 + g * 0x20
def A.INS_GEO_W1 (g : Nat) : Nat := 0xC8104 + g * 0x20
def A.INS_GEO_W2 (g : Nat) : Nat := 0xC8108 + g * 0x20
def A.INS_GEO_W3 (g : Nat) : Nat := 0xC810C + g * 0x20
def A.INS_GEO_W4 (g : Nat) : Nat := 0xC8110 + g * 0x20
def A.INS_TBL_SEL : Nat := 0xC8200
def A.INS_TBL_IDX : Nat := 0xC8204
def A.INS_TBL_DATA : Nat := 0xC8208
def A.INS_NKp (p : Nat) : Nat := 0xC8210 + p * 0x4
def A.INS_RECORDS : Nat := 0xC8300
def A.INS_VLOST : Nat := 0xC8304
def A.INS_REPLAYS : Nat := 0xC8308
def A.INS_DIVERTED : Nat := 0xC830C
def A.INS_AREQ_MISS : Nat := 0xC8310
def A.INS_VF_WINDOW (i h : Nat) : Nat := 0xCF000 + i * 0x8 + h * 0x4
def A.THM_RATE_LIM : Nat := 0xA0008
def A.THM_TEMP_LIM : Nat := 0xA000C
def A.THM_BOARD_LIM : Nat := 0xA0010
def A.THM_SENS : Nat := 0xA0014
def A.THM_FLOOR : Nat := 0xA0018
def A.THM_ACK : Nat := 0xA001C
def A.THM_STAGE_LO : Nat := 0xA0020
def A.THM_STAGE_HI : Nat := 0xA0024
def A.THM_TRIPPED : Nat := 0xA0028
def A.THM_FROZEN : Nat := 0xA002C
def A.THM_WARN : Nat := 0xA0030
def A.THM_NOSENS : Nat := 0xA0034
def A.THM_EN : Nat := 0xA0044
def A.THM_SEN : Nat := 0xA004C
def A.THM_Pp_NF (p : Nat) : Nat := 0xA1004 + p * 0x10
def A.THM_Pp_B (p : Nat) : Nat := 0xA1008 + p * 0x10
def A.THM_Pp_RNOM (p : Nat) : Nat := 0xA100C + p * 0x10
def A.THM_BRD_CFG : Nat := 0xA1200
def A.THM_BRD_NF : Nat := 0xA1204
def A.THM_BRD_B : Nat := 0xA1208
def A.THM_BRD_RNOM : Nat := 0xA120C
def A.THM_Tch (ch : Nat) : Nat := 0xA2000 + ch * 0x4
def A.THM_RATEch (ch : Nat) : Nat := 0xA2800 + ch * 0x4
def A.THM_Sch (ch : Nat) : Nat := 0xA3000 + ch * 0x4
def A.THM_WARNS : Nat := 0xA0080
def A.THM_STAGE2S : Nat := 0xA0084
def A.THM_TRIPS : Nat := 0xA0088
def A.THM_REDUCTIONS : Nat := 0xA008C
def A.THM_SFAULTS : Nat := 0xA0090
def A.CAL_CLASS_EN : Nat := 0xB0008
def A.CAL_PERIODk (k : Nat) : Nat := 0xB0010 + k * 0x4
def A.CAL_REQ : Nat := 0xB0040
def A.CAL_RESULT : Nat := 0xB0044
def A.CAL_QSEL : Nat := 0xB0048
def A.CAL_QVAL : Nat := 0xB004C
def A.CAL_QSTAT : Nat := 0xB0054
def A.CAL_STALE_CNT : Nat := 0xB0068
def A.CAL_EN : Nat := 0xB0064
def A.CAL_ET_BARS : Nat := 0xB0100
def A.CAL_ET_TH : Nat := 0xB0108
def A.CAL_ET_STATUS : Nat := 0xB010C
def A.CAL_ET_CAUSE : Nat := 0xB0110
def A.CAL_ET_EN : Nat := 0xB0114
def A.CAL_ET_CURn (n : Nat) : Nat := 0xB0200 + n * 0x4
def A.CAL_ET_WINDOW (i h : Nat) : Nat := 0xB0800 + i * 0x8 + h * 0x4
def A.CAL_PAIRS : Nat := 0xB0080
def A.CAL_DISAGREES : Nat := 0xB0084
def A.CAL_TIMEOUTS : Nat := 0xB0088
def A.CAL_ET_TESTED : Nat := 0xB0120
def A.CAL_ET_OPENS : Nat := 0xB0124
def A.CAL_ET_SHORTS : Nat := 0xB0128
def A.CAL_ET_VOIDS : Nat := 0xB012C
def A.SEQ_BOOT_SRC : Nat := 0xD0000
def A.SEQ_BOOT_KEY : Nat := 0xD0004
def A.SEQ_BOOT_GO : Nat := 0xD0008
def A.SEQ_WD_KICK : Nat := 0xD0014
def A.SEQ_WD_STATUS : Nat := 0xD0018
def A.SEQ_GCAUSE : Nat := 0xD0020
def A.SEQ_GEN : Nat := 0xD0024
def A.SEQ_SWEV : Nat := 0xD0028
def A.SEQ_Pj_ENTRY (j : Nat) : Nat := 0xD1008 + j * 0x100
def A.SEQ_Pj_SP (j : Nat) : Nat := 0xD100C + j * 0x100
def A.SEQ_Pj_PC (j : Nat) : Nat := 0xD1010 + j * 0x100
def A.SEQ_Pj_EN (j : Nat) : Nat := 0xD1018 + j * 0x100
def A.SEQ_Pj_OUTERR (j : Nat) : Nat := 0xD101C + j * 0x100
def A.SEQ_Pj_CMDERR (j : Nat) : Nat := 0xD1020 + j * 0x100
def A.SEQ_Pj_ROLLBACKS (j : Nat) : Nat := 0xD1024 + j * 0x100
def A.SEQ_Pj_FAILRETRY (j : Nat) : Nat := 0xD1028 + j * 0x100
def A.SEQ_Pj_KSEL (j : Nat) : Nat := 0xD1040 + j * 0x100
def A.SEQ_Pj_KDATA (j : Nat) : Nat := 0xD1044 + j * 0x100
def A.SEQ_Pj_BRK0 (j : Nat) : Nat := 0xD1048 + j * 0x100
def A.SEQ_Pj_BRK1 (j : Nat) : Nat := 0xD104C + j * 0x100
def A.DMA_STATUS : Nat := 0x50000
def A.DMA_RL_BASE : Nat := 0x50004
def A.DMA_PWR_BLOCK0 : Nat := 0x50008
def A.DMA_PWR_BLOCK1 : Nat := 0x5000C
def A.DMA_Cc_RING_LO (c : Nat) : Nat := 0x51008 + c * 0x40
def A.DMA_Cc_RING_HI (c : Nat) : Nat := 0x5100C + c * 0x40
def A.DMA_Cc_RING_SIZE (c : Nat) : Nat := 0x51010 + c * 0x40
def A.DMA_Cc_HEAD (c : Nat) : Nat := 0x51014 + c * 0x40
def A.DMA_Cc_RATE (c : Nat) : Nat := 0x51018 + c * 0x40
def A.DMA_Cc_STATUS (c : Nat) : Nat := 0x5101C + c * 0x40
def A.DMA_Cc_CAUSE (c : Nat) : Nat := 0x51020 + c * 0x40
def A.DMA_Cc_EN (c : Nat) : Nat := 0x51024 + c * 0x40
def A.DMA_Cc_RESIDUE (c : Nat) : Nat := 0x51028 + c * 0x40
def A.DMA_Cc_ERRADDR_LO (c : Nat) : Nat := 0x5102C + c * 0x40
def A.DMA_Cc_ERRADDR_HI (c : Nat) : Nat := 0x51030 + c * 0x40
def A.DMA_Cc_DESCS (c : Nat) : Nat := 0x51034 + c * 0x40
def A.DMA_Cc_KBYTES (c : Nat) : Nat := 0x51038 + c * 0x40
def A.DMA_Cc_RETRIES (c : Nat) : Nat := 0x5103C + c * 0x40
def A.MEM_EN : Nat := 0xE0014
def A.MEM_UE_BANK : Nat := 0xE0020
def A.MEM_UE_ADDR : Nat := 0xE0024
def A.MEM_UNPWR : Nat := 0xE0028
def A.MEM_UNPWR_ADDR : Nat := 0xE002C
def A.MEM_LOST_LAST : Nat := 0xE0030
def A.MEM_BANK_SEL : Nat := 0xE0040
def A.MEM_BANK_STATUS : Nat := 0xE0044
def A.MEM_BANK_CE : Nat := 0xE0048
def A.MEM_BANK_UE : Nat := 0xE004C
def A.MEM_BANK_COLL : Nat := 0xE0050
def A.MEM_BANK_BTPASS : Nat := 0xE0054
def A.MEM_BANK_SIG : Nat := 0xE0058
def A.MEM_RET_SELw (w : Nat) : Nat := 0xE0060 + w * 0x4
def A.MEM_LOSTw (w : Nat) : Nat := 0xE0070 + w * 0x4
def A.MEM_WIPE : Nat := 0xE0080
def A.MEM_WIPE_STATUS : Nat := 0xE0084
def A.MEM_SOFTREPn (n : Nat) : Nat := 0xE0100 + n * 0x4
def A.SYS_UID_LO : Nat := 0x4
def A.SYS_UID_HI : Nat := 0x8
def A.SYS_VLOG_NEXT : Nat := 0x100
def A.SYS_VLOG_SUPP : Nat := 0x104
def A.SYS_CAUSE : Nat := 0x110
def A.SYS_EN : Nat := 0x114
def A.SYS_VLOG (e w : Nat) : Nat := 0x1000 + e * 0x10 + w * 0x4
def A.SYS_HL_EN : Nat := 0x8008
def A.SYS_HL_PTM_SEQ : Nat := 0x8014
def A.SYS_HL_PTM_T1_LO : Nat := 0x8018
def A.SYS_HL_PTM_T1_HI : Nat := 0x801C
def A.SYS_HL_PTM_T4_LO : Nat := 0x8020
def A.SYS_HL_PTM_T4_HI : Nat := 0x8024
def A.SYS_HL_PTM_T1P_LO : Nat := 0x8028
def A.SYS_HL_PTM_T1P_HI : Nat := 0x802C
def A.SYS_HL_PTM_T4P_LO : Nat := 0x8030
def A.SYS_HL_PTM_T4P_HI : Nat := 0x8034
def A.SYS_HL_PTM_MT_LO : Nat := 0x8038
def A.SYS_HL_PTM_MT_HI : Nat := 0x803C
def A.SYS_HL_PTM_PD : Nat := 0x8040
def A.SYS_HL_RETRAINS : Nat := 0x8080
def A.SYS_HL_CORR : Nat := 0x8084
def A.SYS_HL_UNCORR : Nat := 0x8088
def A.EVT_PENDw (w : Nat) : Nat := 0x40400 + w * 0x4
def A.EVT_MSIX_TABLE (v w : Nat) : Nat := 0x48000 + v * 0x10 + w * 0x4
def A.EVT_PBA (w : Nat) : Nat := 0x49000 + w * 0x4
def A.DPT_ADDR : Nat := 0x60000
def A.DPT_CTL : Nat := 0x60004
def A.DPT_STRIDE : Nat := 0x60008
def A.DPT_STATUS : Nat := 0x6000C
def A.DPT_ACCESSES : Nat := 0x60010
def A.DPT_ERRORS : Nat := 0x60014
def A.MGT_STATUS : Nat := 0x70004
def A.MGT_REQUESTS : Nat := 0x70010
def A.MGT_CRC_ERRS : Nat := 0x70014
def A.MGT_ABORTS : Nat := 0x70018
def A.MGT_WAKES : Nat := 0x7001C
def A.CLK_TS_LO : Nat := 0x20008
def A.CLK_TS_HI : Nat := 0x2000C
def A.CLK_TRAIN_OK : Nat := 0x20010
def A.CLK_TRAIN_CTL : Nat := 0x20014
def A.CLK_TRAIN_TAP : Nat := 0x20018
def A.CLK_TRAIN_SEL : Nat := 0x2001C
def A.CLK_EN : Nat := 0x20024
def A.RST_LAST : Nat := 0x28008
def A.RST_SEQ_TIME : Nat := 0x2800C
def A.RST_WARM_COUNT : Nat := 0x28010
def A.PWR_DOM_STATUS : Nat := 0x1000C
def A.PWR_WAKE_EN : Nat := 0x10010
def A.PWR_RET_LIMIT : Nat := 0x1001C
def A.PWR_RET_LOAD : Nat := 0x10020
def A.PWR_RESUME_PC : Nat := 0x10024
def A.PWR_RESUME_SP : Nat := 0x10028
def A.PWR_TIMES : Nat := 0x10050
def A.PWR_EN : Nat := 0x10034
def A.PWR_ENTRIES : Nat := 0x10040
def A.PWR_ABANDONS : Nat := 0x10044
def A.PWR_REFUSALS : Nat := 0x10048
def A.PWR_BLOCKED : Nat := 0x1004C
def A.OTP_DATA : Nat := 0x30004
def A.OTP_MLOW0 : Nat := 0x30010
def A.OTP_MHIGH0 : Nat := 0x30014
def A.OTP_MLOW1 : Nat := 0x30018
def A.OTP_MHIGH1 : Nat := 0x3001C
def A.OTP_REGIONr (r : Nat) : Nat := 0x30020 + r * 0x4
def A.OTP_INTEG : Nat := 0x30038
def A.OTP_CNTk (k : Nat) : Nat := 0x30040 + k * 0x4
def A.OTP_WORDS_BURNED : Nat := 0x30058
def A.OTP_EN : Nat := 0x30054
def A.OTP_WORDw (w : Nat) : Nat := 0x31000 + w * 0x4

/-! ## Fields -/

def F.GRID_CTL_RUN : Field := ⟨A.GRID_CTL, 0, 1⟩
def F.GRID_CTL_AUTOTUNE : Field := ⟨A.GRID_CTL, 1, 1⟩
def F.GRID_CTL_GARM : Field := ⟨A.GRID_CTL, 2, 1⟩
def F.GRID_CTL_FORCE : Field := ⟨A.GRID_CTL, 3, 1⟩
def F.GRID_STATUS_RUNNING : Field := ⟨A.GRID_STATUS, 0, 1⟩
def F.GRID_STATUS_BUSY : Field := ⟨A.GRID_STATUS, 1, 1⟩
def F.GRID_STATUS_SHADOW_LATE : Field := ⟨A.GRID_STATUS, 2, 1⟩
def F.GRID_STATUS_FORCE_MISSED : Field := ⟨A.GRID_STATUS, 3, 1⟩
def F.GRID_STATUS_AT_HELD : Field := ⟨A.GRID_STATUS, 4, 1⟩
def F.GRID_STATUS_ERR : Field := ⟨A.GRID_STATUS, 8, 8⟩
def F.GRID_KILL_PIN_LATCH : Field := ⟨A.GRID_KILL, 0, 1⟩
def F.GRID_KILL_PIN_LEVEL : Field := ⟨A.GRID_KILL, 1, 1⟩
def F.GRID_KILL_SWKILL : Field := ⟨A.GRID_KILL, 2, 1⟩
def F.FPE_CTL_EN (n : Nat) : Field := ⟨A.FPE_CTL n, 0, 1⟩
def F.FPE_CTL_ARM (n : Nat) : Field := ⟨A.FPE_CTL n, 1, 1⟩
def F.FPE_CTL_ARM_AT_LINE (n : Nat) : Field := ⟨A.FPE_CTL n, 2, 1⟩
def F.FPE_CTL_AUTO (n : Nat) : Field := ⟨A.FPE_CTL n, 3, 1⟩
def F.FPE_CTL_SWKILL (n : Nat) : Field := ⟨A.FPE_CTL n, 4, 1⟩
def F.FPE_STATUS_IN_PAGE (n : Nat) : Field := ⟨A.FPE_STATUS n, 0, 1⟩
def F.FPE_STATUS_BUSY (n : Nat) : Field := ⟨A.FPE_STATUS n, 1, 1⟩
def F.FPE_STATUS_SHADOW_LATE (n : Nat) : Field := ⟨A.FPE_STATUS n, 2, 1⟩
def F.FPE_STATUS_ARM_MISSED (n : Nat) : Field := ⟨A.FPE_STATUS n, 3, 1⟩
def F.FPE_STATUS_KILL_TRIP (n : Nat) : Field := ⟨A.FPE_STATUS n, 4, 1⟩
def F.FPE_STATUS_KILLED (n : Nat) : Field := ⟨A.FPE_STATUS n, 5, 1⟩
def F.FPE_STATUS_ERR (n : Nat) : Field := ⟨A.FPE_STATUS n, 8, 8⟩
def F.FPE_STATUS_PQ_ERR (n : Nat) : Field := ⟨A.FPE_STATUS n, 16, 8⟩
def F.FPE_STATUS_QDEPTH (n : Nat) : Field := ⟨A.FPE_STATUS n, 24, 3⟩
def F.FPE_LCAUSE_PAGE_START (n : Nat) : Field := ⟨A.FPE_LCAUSE n, 0, 1⟩
def F.FPE_LCAUSE_PAGE_END (n : Nat) : Field := ⟨A.FPE_LCAUSE n, 1, 1⟩
def F.FPE_LCAUSE_PREC_OVF (n : Nat) : Field := ⟨A.FPE_LCAUSE n, 2, 1⟩
def F.FPE_LCAUSE_DROP (n : Nat) : Field := ⟨A.FPE_LCAUSE n, 3, 1⟩
def F.FPE_LCAUSE_UNDERRUN (n : Nat) : Field := ⟨A.FPE_LCAUSE n, 16, 1⟩
def F.FPE_LCAUSE_LOW_LEAD (n : Nat) : Field := ⟨A.FPE_LCAUSE n, 17, 1⟩
def F.FPE_LCAUSE_STREAM_ERR (n : Nat) : Field := ⟨A.FPE_LCAUSE n, 18, 1⟩
def F.FPE_LCAUSE_STOP (n : Nat) : Field := ⟨A.FPE_LCAUSE n, 19, 1⟩
def F.FPE_LCAUSE_READY (n : Nat) : Field := ⟨A.FPE_LCAUSE n, 20, 1⟩
def F.FPE_LCAUSE_RESUMED (n : Nat) : Field := ⟨A.FPE_LCAUSE n, 21, 1⟩
def F.FPE_LCAUSE_SKIP (n : Nat) : Field := ⟨A.FPE_LCAUSE n, 22, 1⟩
def F.FPE_LCAUSE_ABANDONED (n : Nat) : Field := ⟨A.FPE_LCAUSE n, 23, 1⟩
def F.FPE_FCAUSE_LANE_FAIL (n : Nat) : Field := ⟨A.FPE_FCAUSE n, 0, 1⟩
def F.FPE_FCAUSE_NO_SPARE (n : Nat) : Field := ⟨A.FPE_FCAUSE n, 1, 1⟩
def F.FPE_FCAUSE_STATUS_LOST (n : Nat) : Field := ⟨A.FPE_FCAUSE n, 2, 1⟩
def F.FPE_FCAUSE_KILL_PIN (n : Nat) : Field := ⟨A.FPE_FCAUSE n, 3, 1⟩
def F.FPE_FCAUSE_KILL_TRIP (n : Nat) : Field := ⟨A.FPE_FCAUSE n, 4, 1⟩
def F.FPE_FCAUSE_KILL_SW (n : Nat) : Field := ⟨A.FPE_FCAUSE n, 5, 1⟩
def F.FPE_FCAUSE_OVERSPEED (n : Nat) : Field := ⟨A.FPE_FCAUSE n, 6, 1⟩
def F.FPE_FCAUSE_CFG_REFUSED (n : Nat) : Field := ⟨A.FPE_FCAUSE n, 7, 1⟩
def F.FPE_LANE_SPARE_SEG (n : Nat) : Field := ⟨A.FPE_LANE n, 0, 3⟩
def F.FPE_LANE_SPARE_EN (n : Nat) : Field := ⟨A.FPE_LANE n, 3, 1⟩
def F.FPE_LANE_LANE_BAD (n : Nat) : Field := ⟨A.FPE_LANE n, 4, 9⟩
def F.FPE_PREC_PAGE_PAGE (n : Nat) : Field := ⟨A.FPE_PREC_PAGE n, 0, 24⟩
def F.FPE_PREC_PAGE_KIND (n : Nat) : Field := ⟨A.FPE_PREC_PAGE n, 24, 1⟩
def F.FPE_PREC_FLAGS_DROPPED (n : Nat) : Field := ⟨A.FPE_PREC_FLAGS n, 0, 1⟩
def F.FPE_PREC_FLAGS_ERR_TOL (n : Nat) : Field := ⟨A.FPE_PREC_FLAGS n, 1, 1⟩
def F.FPE_PREC_FLAGS_KILLED (n : Nat) : Field := ⟨A.FPE_PREC_FLAGS n, 2, 1⟩
def F.FPE_PREC_FLAGS_LANE_LOST (n : Nat) : Field := ⟨A.FPE_PREC_FLAGS n, 3, 1⟩
def F.FPE_PREC_FLAGS_SEG_LOST (n : Nat) : Field := ⟨A.FPE_PREC_FLAGS n, 4, 1⟩
def F.FPE_PREC_FLAGS_CORRUPT (n : Nat) : Field := ⟨A.FPE_PREC_FLAGS n, 5, 1⟩
def F.FPE_PREC_FLAGS_NO_CAPTURE (n : Nat) : Field := ⟨A.FPE_PREC_FLAGS n, 6, 1⟩
def F.FPE_PREC_FLAGS_UNDERRUN (n : Nat) : Field := ⟨A.FPE_PREC_FLAGS n, 16, 1⟩
def F.FPE_PREC_FLAGS_SKIPPED (n : Nat) : Field := ⟨A.FPE_PREC_FLAGS n, 17, 1⟩
def F.FPE_PREC_FLAGS_PIROUETTE (n : Nat) : Field := ⟨A.FPE_PREC_FLAGS n, 18, 1⟩
def F.FPE_PREC_FLAGS_REPRINTED (n : Nat) : Field := ⟨A.FPE_PREC_FLAGS n, 19, 1⟩
def F.FPE_PREC_FLAGS_ABANDONED (n : Nat) : Field := ⟨A.FPE_PREC_FLAGS n, 20, 1⟩
def F.FPE_PREC_FLAGS_STREAM_ERR (n : Nat) : Field := ⟨A.FPE_PREC_FLAGS n, 21, 1⟩
def F.NST_CTL_HOLD (n : Nat) : Field := ⟨A.NST_CTL n, 0, 1⟩
def F.NST_CTL_FLUSH (n : Nat) : Field := ⟨A.NST_CTL n, 1, 1⟩
def F.NST_CTL_UPD_LIMIT (n : Nat) : Field := ⟨A.NST_CTL n, 16, 10⟩
def F.NST_STATUS_LEVEL (n : Nat) : Field := ⟨A.NST_STATUS n, 0, 11⟩
def F.NST_STATUS_FULL (n : Nat) : Field := ⟨A.NST_STATUS n, 11, 1⟩
def F.NST_STATUS_PAIR_WAIT (n : Nat) : Field := ⟨A.NST_STATUS n, 12, 1⟩
def F.NST_STATUS_STALL (n : Nat) : Field := ⟨A.NST_STATUS n, 13, 1⟩
def F.NST_STATUS_IMMEDIATE (n : Nat) : Field := ⟨A.NST_STATUS n, 14, 1⟩
def F.NST_CAUSE_LOW_WATER (n : Nat) : Field := ⟨A.NST_CAUSE n, 0, 1⟩
def F.NST_CAUSE_LOCK_SKIP (n : Nat) : Field := ⟨A.NST_CAUSE n, 1, 1⟩
def F.NST_CAUSE_PAIR_ALONE (n : Nat) : Field := ⟨A.NST_CAUSE n, 2, 1⟩
def F.NST_CAUSE_COLLISION (n : Nat) : Field := ⟨A.NST_CAUSE n, 3, 1⟩
def F.NST_CAUSE_BAD_ADDR (n : Nat) : Field := ⟨A.NST_CAUSE n, 4, 1⟩
def F.NST_CAUSE_FLUSHED (n : Nat) : Field := ⟨A.NST_CAUSE n, 5, 1⟩
def F.NST_WATER_WATER (n : Nat) : Field := ⟨A.NST_WATER n, 0, 11⟩
def F.NST_STITCH_OVERLAP (n : Nat) : Field := ⟨A.NST_STITCH n, 0, 7⟩
def F.NST_UPD_LO_ADDR (n : Nat) : Field := ⟨A.NST_UPD_LO n, 0, 18⟩
def F.NST_UPD_LO_PAIR (n : Nat) : Field := ⟨A.NST_UPD_LO n, 18, 1⟩
def F.NST_UPD_LO_HONOR_LOCK (n : Nat) : Field := ⟨A.NST_UPD_LO n, 19, 1⟩
def F.NST_UPD_HI_VALUE (n : Nat) : Field := ⟨A.NST_UPD_HI n, 0, 8⟩
def F.NST_UPD_HI_MASK (n : Nat) : Field := ⟨A.NST_UPD_HI n, 8, 8⟩
def F.RSP_CTL_FMT (n : Nat) : Field := ⟨A.RSP_CTL n, 0, 1⟩
def F.RSP_CTL_RESET_STREAM (n : Nat) : Field := ⟨A.RSP_CTL n, 1, 1⟩
def F.RSP_CTL_ABANDON (n : Nat) : Field := ⟨A.RSP_CTL n, 2, 1⟩
def F.RSP_CFG_RESUME_LEAD (n : Nat) : Field := ⟨A.RSP_CFG n, 0, 6⟩
def F.RSP_CFG_LOW_LEAD (n : Nat) : Field := ⟨A.RSP_CFG n, 8, 6⟩
def F.RSP_STATUS_DEC (n : Nat) : Field := ⟨A.RSP_STATUS n, 0, 2⟩
def F.RSP_STATUS_PAUSED (n : Nat) : Field := ⟨A.RSP_STATUS n, 2, 1⟩
def F.RSP_STATUS_READY (n : Nat) : Field := ⟨A.RSP_STATUS n, 3, 1⟩
def F.RSP_STATUS_ERR_DETAIL (n : Nat) : Field := ⟨A.RSP_STATUS n, 8, 4⟩
def F.RSP_LEVEL_LEAD (n : Nat) : Field := ⟨A.RSP_LEVEL n, 0, 6⟩
def F.RSP_LEVEL_HELD (n : Nat) : Field := ⟨A.RSP_LEVEL n, 8, 6⟩
def F.RSP_LEVEL_FREE (n : Nat) : Field := ⟨A.RSP_LEVEL n, 16, 6⟩
def F.POS_CTL_EN : Field := ⟨A.POS_CTL, 0, 1⟩
def F.POS_CTL_REBASE : Field := ⟨A.POS_CTL, 1, 1⟩
def F.POS_CTL_USE_PRI : Field := ⟨A.POS_CTL, 2, 1⟩
def F.POS_AXIS_CFG_PRI : Field := ⟨A.POS_AXIS_CFG, 0, 3⟩
def F.POS_AXIS_CFG_SEC : Field := ⟨A.POS_AXIS_CFG, 4, 3⟩
def F.POS_AXIS_CFG_AUTO_FO : Field := ⟨A.POS_AXIS_CFG, 7, 1⟩
def F.POS_AXIS_CFG_BACKLASH : Field := ⟨A.POS_AXIS_CFG, 8, 3⟩
def F.POS_AXIS_STATUS_ACTIVE : Field := ⟨A.POS_AXIS_STATUS, 0, 1⟩
def F.POS_AXIS_STATUS_VALID : Field := ⟨A.POS_AXIS_STATUS, 1, 1⟩
def F.POS_AXIS_STATUS_HOLDING : Field := ⟨A.POS_AXIS_STATUS, 2, 1⟩
def F.POS_AXIS_STATUS_LOST : Field := ⟨A.POS_AXIS_STATUS, 3, 1⟩
def F.POS_AXIS_STATUS_LIM_LO : Field := ⟨A.POS_AXIS_STATUS, 4, 1⟩
def F.POS_AXIS_STATUS_LIM_HI : Field := ⟨A.POS_AXIS_STATUS, 5, 1⟩
def F.POS_AXIS_STATUS_PRI_OK : Field := ⟨A.POS_AXIS_STATUS, 6, 1⟩
def F.POS_AXIS_STATUS_SEC_OK : Field := ⟨A.POS_AXIS_STATUS, 7, 1⟩
def F.POS_AXIS_STATUS_FO_REASON : Field := ⟨A.POS_AXIS_STATUS, 8, 3⟩
def F.POS_EST_CFG_AVG : Field := ⟨A.POS_EST_CFG, 0, 3⟩
def F.POS_EST_CFG_STANDSTILL : Field := ⟨A.POS_EST_CFG, 8, 16⟩
def F.POS_FO_CFG_ILL_LIMIT : Field := ⟨A.POS_FO_CFG, 0, 8⟩
def F.POS_FO_CFG_STALL : Field := ⟨A.POS_FO_CFG, 8, 16⟩
def F.POS_FO_CFG_DIVERGE : Field := ⟨A.POS_FO_CFG, 24, 8⟩
def F.POS_CAUSE_FAILOVER : Field := ⟨A.POS_CAUSE, 0, 1⟩
def F.POS_CAUSE_AXIS_LOST : Field := ⟨A.POS_CAUSE, 1, 1⟩
def F.POS_CAUSE_DIVERGE : Field := ⟨A.POS_CAUSE, 2, 1⟩
def F.POS_CAUSE_REVERSAL : Field := ⟨A.POS_CAUSE, 3, 1⟩
def F.POS_CAUSE_LIMIT : Field := ⟨A.POS_CAUSE, 4, 1⟩
def F.POS_CAUSE_REBASE_REFUSED : Field := ⟨A.POS_CAUSE, 5, 1⟩
def F.POS_CAUSE_STANDSTILL : Field := ⟨A.POS_CAUSE, 6, 1⟩
def F.POS_CAUSE_VALID : Field := ⟨A.POS_CAUSE, 7, 1⟩
def F.POS_ENC_CAUSE_WIRE0 : Field := ⟨A.POS_ENC_CAUSE, 0, 1⟩
def F.POS_ENC_CAUSE_ILLEGAL0 : Field := ⟨A.POS_ENC_CAUSE, 1, 1⟩
def F.POS_ENC_CAUSE_INDEX_MISMATCH0 : Field := ⟨A.POS_ENC_CAUSE, 2, 1⟩
def F.POS_ENC_CAUSE_INDEX_MISSING0 : Field := ⟨A.POS_ENC_CAUSE, 3, 1⟩
def F.POS_ENC_CAUSE_WIRE1 : Field := ⟨A.POS_ENC_CAUSE, 4, 1⟩
def F.POS_ENC_CAUSE_ILLEGAL1 : Field := ⟨A.POS_ENC_CAUSE, 5, 1⟩
def F.POS_ENC_CAUSE_INDEX_MISMATCH1 : Field := ⟨A.POS_ENC_CAUSE, 6, 1⟩
def F.POS_ENC_CAUSE_INDEX_MISSING1 : Field := ⟨A.POS_ENC_CAUSE, 7, 1⟩
def F.POS_ENC_CAUSE_WIRE2 : Field := ⟨A.POS_ENC_CAUSE, 8, 1⟩
def F.POS_ENC_CAUSE_ILLEGAL2 : Field := ⟨A.POS_ENC_CAUSE, 9, 1⟩
def F.POS_ENC_CAUSE_INDEX_MISMATCH2 : Field := ⟨A.POS_ENC_CAUSE, 10, 1⟩
def F.POS_ENC_CAUSE_INDEX_MISSING2 : Field := ⟨A.POS_ENC_CAUSE, 11, 1⟩
def F.POS_ENC_CAUSE_WIRE3 : Field := ⟨A.POS_ENC_CAUSE, 12, 1⟩
def F.POS_ENC_CAUSE_ILLEGAL3 : Field := ⟨A.POS_ENC_CAUSE, 13, 1⟩
def F.POS_ENC_CAUSE_INDEX_MISMATCH3 : Field := ⟨A.POS_ENC_CAUSE, 14, 1⟩
def F.POS_ENC_CAUSE_INDEX_MISSING3 : Field := ⟨A.POS_ENC_CAUSE, 15, 1⟩
def F.POS_ENC_CAUSE_PARITY : Field := ⟨A.POS_ENC_CAUSE, 16, 1⟩
def F.POS_ENC_CAUSE_FRAME : Field := ⟨A.POS_ENC_CAUSE, 17, 1⟩
def F.POS_ENC_CAUSE_JUMP : Field := ⟨A.POS_ENC_CAUSE, 18, 1⟩
def F.POS_ENC_CAUSE_SSI_FAIL : Field := ⟨A.POS_ENC_CAUSE, 19, 1⟩
def F.POS_ENCc_CFG_EN (c : Nat) : Field := ⟨A.POS_ENCc_CFG c, 0, 1⟩
def F.POS_ENCc_CFG_DIR (c : Nat) : Field := ⟨A.POS_ENCc_CFG c, 1, 1⟩
def F.POS_ENCc_CFG_FILT (c : Nat) : Field := ⟨A.POS_ENCc_CFG c, 2, 3⟩
def F.POS_ENCc_CFG_ZGATE (c : Nat) : Field := ⟨A.POS_ENCc_CFG c, 5, 1⟩
def F.POS_ENCc_CFG_ZEN (c : Nat) : Field := ⟨A.POS_ENCc_CFG c, 6, 1⟩
def F.POS_ENCc_CFG_TDIS (c : Nat) : Field := ⟨A.POS_ENCc_CFG c, 8, 8⟩
def F.POS_ENCc_CFG_IPOL (c : Nat) : Field := ⟨A.POS_ENCc_CFG c, 16, 2⟩
def F.POS_ENCc_CFG_ITOL (c : Nat) : Field := ⟨A.POS_ENCc_CFG c, 24, 8⟩
def F.POS_SSI_CFG_EN : Field := ⟨A.POS_SSI_CFG, 0, 1⟩
def F.POS_SSI_CFG_GRAY : Field := ⟨A.POS_SSI_CFG, 1, 1⟩
def F.POS_SSI_CFG_PAR : Field := ⟨A.POS_SSI_CFG, 2, 2⟩
def F.POS_SSI_CFG_BITS : Field := ⟨A.POS_SSI_CFG, 4, 6⟩
def F.POS_SSI_CFG_TRIG : Field := ⟨A.POS_SSI_CFG, 10, 1⟩
def F.POS_SSI_CFG_DIV : Field := ⟨A.POS_SSI_CFG, 16, 8⟩
def F.POS_TOFt_CFG_EN (t : Nat) : Field := ⟨A.POS_TOFt_CFG t, 0, 1⟩
def F.POS_TOFt_CFG_EDGE (t : Nat) : Field := ⟨A.POS_TOFt_CFG t, 1, 1⟩
def F.POS_TOFt_CFG_MINW (t : Nat) : Field := ⟨A.POS_TOFt_CFG t, 2, 4⟩
def F.POS_TOFt_CFG_LOCKOUT (t : Nat) : Field := ⟨A.POS_TOFt_CFG t, 16, 16⟩
def F.POS_CMPc_CTL_MODE (c : Nat) : Field := ⟨A.POS_CMPc_CTL c, 0, 2⟩
def F.POS_CMPc_CTL_SRC (c : Nat) : Field := ⟨A.POS_CMPc_CTL c, 2, 1⟩
def F.POS_CMPc_CTL_TRIG_EN (c : Nat) : Field := ⟨A.POS_CMPc_CTL c, 3, 1⟩
def F.POS_CMPc_CTL_CAM (c : Nat) : Field := ⟨A.POS_CMPc_CTL c, 4, 2⟩
def F.POS_CMPc_CTL_ARM (c : Nat) : Field := ⟨A.POS_CMPc_CTL c, 8, 1⟩
def F.XPT_CTL_START : Field := ⟨A.XPT_CTL, 0, 1⟩
def F.XPT_CTL_STOP : Field := ⟨A.XPT_CTL, 1, 1⟩
def F.XPT_CTL_PIR_RETRY : Field := ⟨A.XPT_CTL, 2, 1⟩
def F.XPT_CTL_SWSTOP : Field := ⟨A.XPT_CTL, 3, 1⟩
def F.XPT_CFG_MODE : Field := ⟨A.XPT_CFG, 0, 1⟩
def F.XPT_CFG_INVERT : Field := ⟨A.XPT_CFG, 1, 1⟩
def F.XPT_CFG_CMD_TMO : Field := ⟨A.XPT_CFG, 8, 8⟩
def F.XPT_CFG_PIR_J : Field := ⟨A.XPT_CFG, 16, 8⟩
def F.XPT_CFG_LAPS_MAX : Field := ⟨A.XPT_CFG, 24, 4⟩
def F.XPT_STATUS_STATE : Field := ⟨A.XPT_STATUS, 0, 4⟩
def F.XPT_STATUS_XEN : Field := ⟨A.XPT_STATUS, 4, 1⟩
def F.XPT_STATUS_XFLT : Field := ⟨A.XPT_STATUS, 5, 1⟩
def F.XPT_STATUS_XSTOP : Field := ⟨A.XPT_STATUS, 6, 1⟩
def F.XPT_STATUS_ARMED : Field := ⟨A.XPT_STATUS, 7, 1⟩
def F.XPT_STATUS_LAP : Field := ⟨A.XPT_STATUS, 8, 4⟩
def F.XPT_XSTOP_DROP : Field := ⟨A.XPT_XSTOP, 0, 1⟩
def F.XPT_XSTOP_SKIP : Field := ⟨A.XPT_XSTOP, 1, 1⟩
def F.XPT_XSTOP_THERMAL : Field := ⟨A.XPT_XSTOP, 2, 1⟩
def F.XPT_XSTOP_DRIVE_FLT : Field := ⟨A.XPT_XSTOP, 3, 1⟩
def F.XPT_XSTOP_SERVO_STALE : Field := ⟨A.XPT_XSTOP, 4, 1⟩
def F.XPT_XSTOP_PIR_FAIL : Field := ⟨A.XPT_XSTOP, 5, 1⟩
def F.XPT_XSTOP_OVERSPEED : Field := ⟨A.XPT_XSTOP, 6, 1⟩
def F.XPT_CAUSE_PIR_START : Field := ⟨A.XPT_CAUSE, 0, 1⟩
def F.XPT_CAUSE_PIR_REENTRY : Field := ⟨A.XPT_CAUSE, 1, 1⟩
def F.XPT_CAUSE_PIR_LAP : Field := ⟨A.XPT_CAUSE, 2, 1⟩
def F.XPT_CAUSE_PIR_FAIL : Field := ⟨A.XPT_CAUSE, 3, 1⟩
def F.XPT_CAUSE_DRIVE_FLT : Field := ⟨A.XPT_CAUSE, 4, 1⟩
def F.XPT_CAUSE_SERVO_STALE : Field := ⟨A.XPT_CAUSE, 5, 1⟩
def F.XPT_CAUSE_OVERSPEED : Field := ⟨A.XPT_CAUSE, 6, 1⟩
def F.XPT_CAUSE_MODE_REFUSED : Field := ⟨A.XPT_CAUSE, 7, 1⟩
def F.XPT_CAUSE_TRACK : Field := ⟨A.XPT_CAUSE, 8, 1⟩
def F.XPT_CAUSE_LASTRUN : Field := ⟨A.XPT_CAUSE, 9, 1⟩
def F.XPT_LASTRUN_LEADER : Field := ⟨A.XPT_LASTRUN, 0, 1⟩
def F.XPT_LASTRUN_IN_PAGE : Field := ⟨A.XPT_LASTRUN, 1, 1⟩
def F.XPT_LASTRUN_PIROUETTE : Field := ⟨A.XPT_LASTRUN, 2, 1⟩
def F.XPT_LASTRUN_STATE : Field := ⟨A.XPT_LASTRUN, 3, 4⟩
def F.CAM_Pp_CTL_EN (p : Nat) : Field := ⟨A.CAM_Pp_CTL p, 0, 1⟩
def F.CAM_Pp_CTL_SWTRIG (p : Nat) : Field := ⟨A.CAM_Pp_CTL p, 1, 1⟩
def F.CAM_Pp_CTL_COPY (p : Nat) : Field := ⟨A.CAM_Pp_CTL p, 2, 1⟩
def F.CAM_Pp_CTL_CCI_FLUSH (p : Nat) : Field := ⟨A.CAM_Pp_CTL p, 3, 1⟩
def F.CAM_Pp_CFG_LANES (p : Nat) : Field := ⟨A.CAM_Pp_CFG p, 0, 2⟩
def F.CAM_Pp_CFG_DT (p : Nat) : Field := ⟨A.CAM_Pp_CFG p, 2, 2⟩
def F.CAM_Pp_CFG_VC (p : Nat) : Field := ⟨A.CAM_Pp_CFG p, 4, 2⟩
def F.CAM_Pp_CFG_EVC (p : Nat) : Field := ⟨A.CAM_Pp_CFG p, 6, 2⟩
def F.CAM_Pp_CFG_EMB_EN (p : Nat) : Field := ⟨A.CAM_Pp_CFG p, 8, 1⟩
def F.CAM_Pp_CFG_WIDTH (p : Nat) : Field := ⟨A.CAM_Pp_CFG p, 16, 14⟩
def F.CAM_Pp_FRAME_FRAME_LINES (p : Nat) : Field := ⟨A.CAM_Pp_FRAME p, 0, 16⟩
def F.CAM_Pp_FRAME_LINE_TIMEOUT (p : Nat) : Field := ⟨A.CAM_Pp_FRAME p, 16, 16⟩
def F.CAM_Pp_STATUS_IN_FRAME (p : Nat) : Field := ⟨A.CAM_Pp_STATUS p, 0, 1⟩
def F.CAM_Pp_STATUS_REPLAY_PEND (p : Nat) : Field := ⟨A.CAM_Pp_STATUS p, 1, 1⟩
def F.CAM_Pp_STATUS_OUTSTANDING (p : Nat) : Field := ⟨A.CAM_Pp_STATUS p, 2, 3⟩
def F.CAM_Pp_STATUS_DESKEWED (p : Nat) : Field := ⟨A.CAM_Pp_STATUS p, 5, 1⟩
def F.CAM_Pp_STATUS_ULPS (p : Nat) : Field := ⟨A.CAM_Pp_STATUS p, 6, 1⟩
def F.CAM_Pp_STATUS_STORE_USED (p : Nat) : Field := ⟨A.CAM_Pp_STATUS p, 8, 19⟩
def F.CAM_Pp_TRIG_TRIG_W (p : Nat) : Field := ⟨A.CAM_Pp_TRIG p, 0, 10⟩
def F.CAM_Pp_TRIG_TRIG_MIN (p : Nat) : Field := ⟨A.CAM_Pp_TRIG p, 16, 8⟩
def F.CAM_Pp_TRIG_TRIG_TMO (p : Nat) : Field := ⟨A.CAM_Pp_TRIG p, 24, 8⟩
def F.CAM_Pp_CCI_CMD_ADDR (p : Nat) : Field := ⟨A.CAM_Pp_CCI_CMD p, 0, 7⟩
def F.CAM_Pp_CCI_CMD_RD (p : Nat) : Field := ⟨A.CAM_Pp_CCI_CMD p, 7, 1⟩
def F.CAM_Pp_CCI_CMD_ALEN (p : Nat) : Field := ⟨A.CAM_Pp_CCI_CMD p, 8, 1⟩
def F.CAM_Pp_CCI_CMD_NBYTES (p : Nat) : Field := ⟨A.CAM_Pp_CCI_CMD p, 9, 2⟩
def F.CAM_Pp_CCI_CMD_SETTING (p : Nat) : Field := ⟨A.CAM_Pp_CCI_CMD p, 11, 1⟩
def F.CAM_Pp_CCI_CMD_TAG (p : Nat) : Field := ⟨A.CAM_Pp_CCI_CMD p, 12, 4⟩
def F.INS_CTL_EN : Field := ⟨A.INS_CTL, 0, 1⟩
def F.INS_CTL_LIVE : Field := ⟨A.INS_CTL, 1, 2⟩
def F.INS_CTL_REPLAY_EN : Field := ⟨A.INS_CTL, 3, 1⟩
def F.INS_STATUS_BUSY : Field := ⟨A.INS_STATUS, 0, 1⟩
def F.INS_STATUS_REPLAYING : Field := ⟨A.INS_STATUS, 1, 1⟩
def F.INS_STATUS_SRC : Field := ⟨A.INS_STATUS, 2, 2⟩
def F.INS_STATUS_STALLED : Field := ⟨A.INS_STATUS, 4, 1⟩
def F.INS_STATUS_VF_LEVEL : Field := ⟨A.INS_STATUS, 5, 11⟩
def F.INS_STATUS_AREQ_LEVEL : Field := ⟨A.INS_STATUS, 16, 16⟩
def F.INS_HYST_MISS_N : Field := ⟨A.INS_HYST, 0, 3⟩
def F.INS_HYST_RESTORE_N : Field := ⟨A.INS_HYST, 4, 3⟩
def F.INS_CAUSE_VF_WATER : Field := ⟨A.INS_CAUSE, 0, 1⟩
def F.INS_CAUSE_VLOST : Field := ⟨A.INS_CAUSE, 1, 1⟩
def F.INS_CAUSE_AREQ_MISS : Field := ⟨A.INS_CAUSE, 2, 1⟩
def F.INS_CAUSE_AREQ_FULL : Field := ⟨A.INS_CAUSE, 3, 1⟩
def F.INS_CAUSE_ANALYSED : Field := ⟨A.INS_CAUSE, 4, 1⟩
def F.INS_AREQ_W0_PORT : Field := ⟨A.INS_AREQ_W0, 0, 2⟩
def F.INS_AREQ_W0_BAR : Field := ⟨A.INS_AREQ_W0, 2, 5⟩
def F.INS_AREQ_W0_PT : Field := ⟨A.INS_AREQ_W0, 7, 1⟩
def F.INS_AREQ_W0_GSET : Field := ⟨A.INS_AREQ_W0, 8, 2⟩
def F.INS_AREQ_W0_TSEQ : Field := ⟨A.INS_AREQ_W0, 16, 16⟩
def F.THM_CTL_EN : Field := ⟨A.THM_CTL, 0, 1⟩
def F.THM_CFG_RED : Field := ⟨A.THM_CFG, 0, 8⟩
def F.THM_CFG_PERSIST : Field := ⟨A.THM_CFG, 8, 8⟩
def F.THM_CFG_CLEAR : Field := ⟨A.THM_CFG, 16, 8⟩
def F.THM_CAUSE_WARN : Field := ⟨A.THM_CAUSE, 0, 1⟩
def F.THM_CAUSE_STAGE2 : Field := ⟨A.THM_CAUSE, 1, 1⟩
def F.THM_CAUSE_TRIP : Field := ⟨A.THM_CAUSE, 2, 1⟩
def F.THM_CAUSE_REDUCED : Field := ⟨A.THM_CAUSE, 3, 1⟩
def F.THM_CAUSE_FLOOR_HIT : Field := ⟨A.THM_CAUSE, 4, 1⟩
def F.THM_CAUSE_CLEARED : Field := ⟨A.THM_CAUSE, 5, 1⟩
def F.THM_CAUSE_BOARD_WARN : Field := ⟨A.THM_CAUSE, 6, 1⟩
def F.THM_CAUSE_BOARD_TRIP : Field := ⟨A.THM_CAUSE, 7, 1⟩
def F.THM_SCAUSE_OPEN : Field := ⟨A.THM_SCAUSE, 0, 1⟩
def F.THM_SCAUSE_SHORT : Field := ⟨A.THM_SCAUSE, 1, 1⟩
def F.THM_SCAUSE_JUMP : Field := ⟨A.THM_SCAUSE, 2, 1⟩
def F.THM_SCAUSE_NDIS : Field := ⟨A.THM_SCAUSE, 3, 1⟩
def F.THM_SCAUSE_SUBST : Field := ⟨A.THM_SCAUSE, 4, 1⟩
def F.THM_SCAUSE_NO_SENSOR : Field := ⟨A.THM_SCAUSE, 5, 1⟩
def F.THM_SCAUSE_RECOVERED : Field := ⟨A.THM_SCAUSE, 6, 1⟩
def F.THM_SCAUSE_BOARD_FAIL : Field := ⟨A.THM_SCAUSE, 7, 1⟩
def F.THM_Pp_CFG_MODE (p : Nat) : Field := ⟨A.THM_Pp_CFG p, 0, 1⟩
def F.THM_Pp_CFG_IB (p : Nat) : Field := ⟨A.THM_Pp_CFG p, 1, 2⟩
def F.THM_Pp_CFG_CHEN (p : Nat) : Field := ⟨A.THM_Pp_CFG p, 8, 8⟩
def F.CAL_CTL_EN : Field := ⟨A.CAL_CTL, 0, 1⟩
def F.CAL_STATUS_INIT_DONE : Field := ⟨A.CAL_STATUS, 0, 1⟩
def F.CAL_STATUS_BUSY : Field := ⟨A.CAL_STATUS, 8, 8⟩
def F.CAL_CAUSE_REQ_DONE : Field := ⟨A.CAL_CAUSE, 0, 1⟩
def F.CAL_CAUSE_DISAGREE : Field := ⟨A.CAL_CAUSE, 1, 1⟩
def F.CAL_CAUSE_INIT_DONE : Field := ⟨A.CAL_CAUSE, 2, 1⟩
def F.CAL_CAUSE_TIMEOUT : Field := ⟨A.CAL_CAUSE, 3, 1⟩
def F.CAL_CAUSE_RECOVERED : Field := ⟨A.CAL_CAUSE, 4, 1⟩
def F.CAL_ET_CFG_BLOCKS : Field := ⟨A.CAL_ET_CFG, 0, 3⟩
def F.CAL_ET_CFG_ALL : Field := ⟨A.CAL_ET_CFG, 3, 1⟩
def F.SEQ_BOOT_STATUS_STATE : Field := ⟨A.SEQ_BOOT_STATUS, 0, 3⟩
def F.SEQ_BOOT_STATUS_STATUS : Field := ⟨A.SEQ_BOOT_STATUS, 8, 8⟩
def F.SEQ_BOOT_STATUS_PAIR : Field := ⟨A.SEQ_BOOT_STATUS, 16, 2⟩
def F.SEQ_BOOT_STATUS_LOADED : Field := ⟨A.SEQ_BOOT_STATUS, 20, 4⟩
def F.SEQ_BOOT_STATUS_ALARM_KEYS : Field := ⟨A.SEQ_BOOT_STATUS, 24, 1⟩
def F.SEQ_BOOT_STATUS_ALARM_OTHER : Field := ⟨A.SEQ_BOOT_STATUS, 25, 1⟩
def F.SEQ_BOOT_STATUS_SEAL_INCOMPLETE : Field := ⟨A.SEQ_BOOT_STATUS, 26, 1⟩
def F.SEQ_WD_CFG_EN : Field := ⟨A.SEQ_WD_CFG, 0, 1⟩
def F.SEQ_WD_CFG_PERIOD : Field := ⟨A.SEQ_WD_CFG, 8, 16⟩
def F.SEQ_WD_CFG_HALT_GRACE : Field := ⟨A.SEQ_WD_CFG, 24, 8⟩
def F.SEQ_Pj_CTL_START (j : Nat) : Field := ⟨A.SEQ_Pj_CTL j, 0, 1⟩
def F.SEQ_Pj_CTL_HALT (j : Nat) : Field := ⟨A.SEQ_Pj_CTL j, 1, 1⟩
def F.SEQ_Pj_CTL_STEP (j : Nat) : Field := ⟨A.SEQ_Pj_CTL j, 2, 1⟩
def F.SEQ_Pj_CTL_RESUME (j : Nat) : Field := ⟨A.SEQ_Pj_CTL j, 3, 1⟩
def F.SEQ_Pj_STATUS_STATE (j : Nat) : Field := ⟨A.SEQ_Pj_STATUS j, 0, 2⟩
def F.SEQ_Pj_STATUS_LOADED (j : Nat) : Field := ⟨A.SEQ_Pj_STATUS j, 2, 1⟩
def F.SEQ_Pj_STATUS_RESTORING (j : Nat) : Field := ⟨A.SEQ_Pj_STATUS j, 3, 1⟩
def F.SEQ_Pj_STATUS_HALT_CAUSE (j : Nat) : Field := ⟨A.SEQ_Pj_STATUS j, 8, 4⟩
def F.SEQ_Pj_STATUS_LEVEL (j : Nat) : Field := ⟨A.SEQ_Pj_STATUS j, 12, 4⟩
def F.SEQ_Pj_STATUS_TRAP (j : Nat) : Field := ⟨A.SEQ_Pj_STATUS j, 16, 8⟩
def F.SEQ_Pj_CAUSE_HALTED (j : Nat) : Field := ⟨A.SEQ_Pj_CAUSE j, 0, 1⟩
def F.SEQ_Pj_CAUSE_ROLLBACK (j : Nat) : Field := ⟨A.SEQ_Pj_CAUSE j, 1, 1⟩
def F.SEQ_Pj_CAUSE_OUT_ERR (j : Nat) : Field := ⟨A.SEQ_Pj_CAUSE j, 2, 1⟩
def F.SEQ_Pj_CAUSE_CMD_ERR (j : Nat) : Field := ⟨A.SEQ_Pj_CAUSE j, 3, 1⟩
def F.SEQ_Pj_CAUSE_START_REFUSED (j : Nat) : Field := ⟨A.SEQ_Pj_CAUSE j, 4, 1⟩
def F.DMA_Cc_CTL_START (c : Nat) : Field := ⟨A.DMA_Cc_CTL c, 0, 1⟩
def F.DMA_Cc_CTL_ABORT (c : Nat) : Field := ⟨A.DMA_Cc_CTL c, 1, 1⟩
def F.DMA_Cc_CTL_DOORBELL (c : Nat) : Field := ⟨A.DMA_Cc_CTL c, 2, 1⟩
def F.DMA_Cc_CFG_MAXRD (c : Nat) : Field := ⟨A.DMA_Cc_CFG c, 0, 6⟩
def F.DMA_Cc_CFG_RETRY_MAX (c : Nat) : Field := ⟨A.DMA_Cc_CFG c, 8, 3⟩
def F.DMA_Cc_CFG_PRIO (c : Nat) : Field := ⟨A.DMA_Cc_CFG c, 11, 1⟩
def F.DMA_Cc_CFG_RING_INT (c : Nat) : Field := ⟨A.DMA_Cc_CFG c, 12, 1⟩
def F.DMA_Cc_CFG_PREFETCH (c : Nat) : Field := ⟨A.DMA_Cc_CFG c, 13, 3⟩
def F.DMA_Cc_CFG_POLL (c : Nat) : Field := ⟨A.DMA_Cc_CFG c, 16, 16⟩
def F.MEM_CTL_BT_EN : Field := ⟨A.MEM_CTL, 0, 1⟩
def F.MEM_CTL_SCRUB_EN : Field := ⟨A.MEM_CTL, 1, 1⟩
def F.MEM_CTL_MIN_GAP : Field := ⟨A.MEM_CTL, 8, 8⟩
def F.MEM_CAUSE_CE : Field := ⟨A.MEM_CAUSE, 0, 1⟩
def F.MEM_CAUSE_UE : Field := ⟨A.MEM_CAUSE, 1, 1⟩
def F.MEM_CAUSE_REPAIRED : Field := ⟨A.MEM_CAUSE, 2, 1⟩
def F.MEM_CAUSE_NO_SPARE : Field := ⟨A.MEM_CAUSE, 3, 1⟩
def F.MEM_CAUSE_LOST : Field := ⟨A.MEM_CAUSE, 4, 1⟩
def F.MEM_CAUSE_UNPOWERED : Field := ⟨A.MEM_CAUSE, 5, 1⟩
def F.MEM_CAUSE_WIPE_DONE : Field := ⟨A.MEM_CAUSE, 6, 1⟩
def F.SYS_ID_FORMAT : Field := ⟨A.SYS_ID, 0, 8⟩
def F.SYS_ID_STEPPING : Field := ⟨A.SYS_ID, 8, 8⟩
def F.SYS_ID_DEVICE : Field := ⟨A.SYS_ID, 16, 16⟩
def F.SYS_HL_STATUS_LINK_UP : Field := ⟨A.SYS_HL_STATUS, 0, 1⟩
def F.SYS_HL_STATUS_SPEED : Field := ⟨A.SYS_HL_STATUS, 1, 3⟩
def F.SYS_HL_STATUS_WIDTH : Field := ⟨A.SYS_HL_STATUS, 4, 5⟩
def F.SYS_HL_STATUS_D3HOT : Field := ⟨A.SYS_HL_STATUS, 9, 1⟩
def F.SYS_HL_STATUS_BME : Field := ⟨A.SYS_HL_STATUS, 10, 1⟩
def F.SYS_HL_STATUS_MSIX_EN : Field := ⟨A.SYS_HL_STATUS, 11, 1⟩
def F.SYS_HL_CAUSE_LINK_UP : Field := ⟨A.SYS_HL_CAUSE, 0, 1⟩
def F.SYS_HL_CAUSE_LINK_DOWN : Field := ⟨A.SYS_HL_CAUSE, 1, 1⟩
def F.SYS_HL_CAUSE_RETRAIN : Field := ⟨A.SYS_HL_CAUSE, 2, 1⟩
def F.SYS_HL_CAUSE_PTM_DONE : Field := ⟨A.SYS_HL_CAUSE, 3, 1⟩
def F.SYS_HL_CAUSE_PTM_FAIL : Field := ⟨A.SYS_HL_CAUSE, 4, 1⟩
def F.SYS_HL_CAUSE_DSTATE : Field := ⟨A.SYS_HL_CAUSE, 5, 1⟩
def F.SYS_HL_PTM_CTL_EN : Field := ⟨A.SYS_HL_PTM_CTL, 0, 1⟩
def F.SYS_HL_PTM_CTL_TRIG : Field := ⟨A.SYS_HL_PTM_CTL, 1, 1⟩
def F.SYS_HL_PTM_CTL_PERIOD : Field := ⟨A.SYS_HL_PTM_CTL, 8, 16⟩
def F.EVT_MAPe_VECTOR (e : Nat) : Field := ⟨A.EVT_MAPe e, 0, 6⟩
def F.EVT_MAPe_MSI (e : Nat) : Field := ⟨A.EVT_MAPe e, 6, 1⟩
def F.EVT_MAPe_PAIRS (e : Nat) : Field := ⟨A.EVT_MAPe e, 8, 4⟩
def F.MGT_CFG_EN : Field := ⟨A.MGT_CFG, 0, 1⟩
def F.MGT_CFG_WAKE_ANY : Field := ⟨A.MGT_CFG, 1, 1⟩
def F.CLK_STATUS_MAIN_LOCK : Field := ⟨A.CLK_STATUS, 0, 1⟩
def F.CLK_STATUS_GRID_LOCK : Field := ⟨A.CLK_STATUS, 1, 1⟩
def F.CLK_STATUS_HOST_LOCK : Field := ⟨A.CLK_STATUS, 2, 1⟩
def F.CLK_STATUS_SYSCLK_OK : Field := ⟨A.CLK_STATUS, 3, 1⟩
def F.CLK_STATUS_XTAL_OK : Field := ⟨A.CLK_STATUS, 4, 1⟩
def F.CLK_STATUS_TS_SRC : Field := ⟨A.CLK_STATUS, 5, 2⟩
def F.CLK_CFG_XTAL_EN : Field := ⟨A.CLK_CFG, 0, 1⟩
def F.CLK_CAUSE_HOST_UNLOCK : Field := ⟨A.CLK_CAUSE, 0, 1⟩
def F.CLK_CAUSE_XTAL_FAIL : Field := ⟨A.CLK_CAUSE, 1, 1⟩
def F.CLK_CAUSE_TRAIN_FAIL : Field := ⟨A.CLK_CAUSE, 2, 1⟩
def F.CLK_CAUSE_RETRAIN_REFUSED : Field := ⟨A.CLK_CAUSE, 3, 1⟩
def F.CLK_CAUSE_TRAINED : Field := ⟨A.CLK_CAUSE, 4, 1⟩
def F.RST_CTL_WARM : Field := ⟨A.RST_CTL, 0, 1⟩
def F.RST_CTL_KEY : Field := ⟨A.RST_CTL, 8, 8⟩
def F.RST_CAUSE_POWER_ON : Field := ⟨A.RST_CAUSE, 0, 1⟩
def F.RST_CAUSE_BROWNOUT : Field := ⟨A.RST_CAUSE, 1, 1⟩
def F.RST_CAUSE_PIN : Field := ⟨A.RST_CAUSE, 2, 1⟩
def F.RST_CAUSE_WATCHDOG : Field := ⟨A.RST_CAUSE, 3, 1⟩
def F.RST_CAUSE_SW_EXT : Field := ⟨A.RST_CAUSE, 4, 1⟩
def F.RST_CAUSE_SW_SEQ : Field := ⟨A.RST_CAUSE, 5, 1⟩
def F.RST_CAUSE_CLOCK_LOSS : Field := ⟨A.RST_CAUSE, 6, 1⟩
def F.RST_CAUSE_LIFECYCLE : Field := ⟨A.RST_CAUSE, 7, 1⟩
def F.RST_CAUSE_LINK : Field := ⟨A.RST_CAUSE, 8, 1⟩
def F.PWR_REQ_STATE : Field := ⟨A.PWR_REQ, 0, 2⟩
def F.PWR_REQ_FORCE : Field := ⟨A.PWR_REQ, 4, 1⟩
def F.PWR_STATUS_STATE : Field := ⟨A.PWR_STATUS, 0, 2⟩
def F.PWR_STATUS_PHASE : Field := ⟨A.PWR_STATUS, 2, 3⟩
def F.PWR_STATUS_RESUME : Field := ⟨A.PWR_STATUS, 5, 1⟩
def F.PWR_STATUS_LAST : Field := ⟨A.PWR_STATUS, 8, 8⟩
def F.PWR_STATUS_REFUSER : Field := ⟨A.PWR_STATUS, 16, 4⟩
def F.PWR_DOM_CTL_PORT : Field := ⟨A.PWR_DOM_CTL, 0, 8⟩
def F.PWR_DOM_CTL_CAM : Field := ⟨A.PWR_DOM_CTL, 8, 1⟩
def F.PWR_DOM_CTL_POS : Field := ⟨A.PWR_DOM_CTL, 9, 1⟩
def F.PWR_DOM_CTL_ANA : Field := ⟨A.PWR_DOM_CTL, 10, 1⟩
def F.PWR_DOM_CTL_FORCE : Field := ⟨A.PWR_DOM_CTL, 16, 1⟩
def F.PWR_WAKE_CFG_ENC_COUNT : Field := ⟨A.PWR_WAKE_CFG, 0, 4⟩
def F.PWR_WAKE_CFG_TOF_EDGE : Field := ⟨A.PWR_WAKE_CFG, 4, 4⟩
def F.PWR_WAKE_CFG_TALARM : Field := ⟨A.PWR_WAKE_CFG, 8, 8⟩
def F.PWR_WAKE_SRC_SRC : Field := ⟨A.PWR_WAKE_SRC, 0, 14⟩
def F.PWR_WAKE_SRC_DURING_ENTRY : Field := ⟨A.PWR_WAKE_SRC, 16, 1⟩
def F.PWR_WAKE_SRC_STALEMATE : Field := ⟨A.PWR_WAKE_SRC, 17, 1⟩
def F.PWR_CAUSE_ENTERED : Field := ⟨A.PWR_CAUSE, 0, 1⟩
def F.PWR_CAUSE_EXITED : Field := ⟨A.PWR_CAUSE, 1, 1⟩
def F.PWR_CAUSE_ABANDONED : Field := ⟨A.PWR_CAUSE, 2, 1⟩
def F.PWR_CAUSE_REFUSED : Field := ⟨A.PWR_CAUSE, 3, 1⟩
def F.PWR_CAUSE_BLOCKED_WRITE : Field := ⟨A.PWR_CAUSE, 4, 1⟩
def F.PWR_CAUSE_DOM_DONE : Field := ⟨A.PWR_CAUSE, 5, 1⟩
def F.OTP_CMD_OP : Field := ⟨A.OTP_CMD, 0, 4⟩
def F.OTP_CMD_EXPECT : Field := ⟨A.OTP_CMD, 4, 1⟩
def F.OTP_CMD_ADDR : Field := ⟨A.OTP_CMD, 8, 10⟩
def F.OTP_CMD_REGION : Field := ⟨A.OTP_CMD, 18, 3⟩
def F.OTP_CMD_SLOT : Field := ⟨A.OTP_CMD, 21, 1⟩
def F.OTP_CMD_CNT : Field := ⟨A.OTP_CMD, 22, 2⟩
def F.OTP_CMD_ARG : Field := ⟨A.OTP_CMD, 24, 8⟩
def F.OTP_STATUS_BUSY : Field := ⟨A.OTP_STATUS, 0, 1⟩
def F.OTP_STATUS_OP : Field := ⟨A.OTP_STATUS, 1, 3⟩
def F.OTP_STATUS_LAST : Field := ⟨A.OTP_STATUS, 8, 8⟩
def F.OTP_CAUSE_DONE : Field := ⟨A.OTP_CAUSE, 0, 1⟩
def F.OTP_CAUSE_WEAK : Field := ⟨A.OTP_CAUSE, 1, 1⟩
def F.OTP_CAUSE_INTEGRITY : Field := ⟨A.OTP_CAUSE, 2, 1⟩
def F.OTP_CAUSE_REJECTED : Field := ⟨A.OTP_CAUSE, 3, 1⟩
def F.SYS_LC_STATE : Field := ⟨A.SYS_LC, 0, 3⟩
def F.SYS_LC_PARTIAL : Field := ⟨A.SYS_LC, 3, 1⟩
def F.SYS_LC_STEPS : Field := ⟨A.SYS_LC, 4, 4⟩
def F.GRID_FREQ_LO_V : Field := ⟨A.GRID_FREQ_LO, 0, 32⟩
def F.GRID_FREQ_LO_LIVE_V : Field := ⟨A.GRID_FREQ_LO_LIVE, 0, 32⟩
def F.GRID_FREQ_HI_V : Field := ⟨A.GRID_FREQ_HI, 0, 16⟩
def F.GRID_FREQ_HI_LIVE_V : Field := ⟨A.GRID_FREQ_HI_LIVE, 0, 16⟩
def F.GRID_STROBE_V : Field := ⟨A.GRID_STROBE, 0, 10⟩
def F.GRID_STROBE_LIVE_V : Field := ⟨A.GRID_STROBE_LIVE, 0, 10⟩
def F.GRID_PITCH_V : Field := ⟨A.GRID_PITCH, 0, 32⟩
def F.GRID_PITCH_LIVE_V : Field := ⟨A.GRID_PITCH_LIVE, 0, 32⟩
def F.GRID_ERR_TOL_V : Field := ⟨A.GRID_ERR_TOL, 0, 8⟩
def F.GRID_ERR_TOL_LIVE_V : Field := ⟨A.GRID_ERR_TOL_LIVE, 0, 8⟩
def F.GRID_WARM_WW : Field := ⟨A.GRID_WARM, 0, 7⟩
def F.GRID_WARM_SLOTS : Field := ⟨A.GRID_WARM, 8, 3⟩
def F.GRID_WARM_LIVE_WW : Field := ⟨A.GRID_WARM_LIVE, 0, 7⟩
def F.GRID_WARM_LIVE_SLOTS : Field := ⟨A.GRID_WARM_LIVE, 8, 3⟩
def F.GRID_FORCE_BAR_V : Field := ⟨A.GRID_FORCE_BAR, 0, 5⟩
def F.GRID_FORCE_LINE_V : Field := ⟨A.GRID_FORCE_LINE, 0, 32⟩
def F.GRID_TICK_V : Field := ⟨A.GRID_TICK, 0, 32⟩
def F.GRID_PERIOD_V : Field := ⟨A.GRID_PERIOD, 0, 22⟩
def F.FPE_ARM_LINE_V (n : Nat) : Field := ⟨A.FPE_ARM_LINE n, 0, 32⟩
def F.FPE_LEN_PAGE_START (n : Nat) : Field := ⟨A.FPE_LEN n, 0, 1⟩
def F.FPE_LEN_PAGE_END (n : Nat) : Field := ⟨A.FPE_LEN n, 1, 1⟩
def F.FPE_LEN_PREC_OVF (n : Nat) : Field := ⟨A.FPE_LEN n, 2, 1⟩
def F.FPE_LEN_DROP (n : Nat) : Field := ⟨A.FPE_LEN n, 3, 1⟩
def F.FPE_LEN_UNDERRUN (n : Nat) : Field := ⟨A.FPE_LEN n, 16, 1⟩
def F.FPE_LEN_LOW_LEAD (n : Nat) : Field := ⟨A.FPE_LEN n, 17, 1⟩
def F.FPE_LEN_STREAM_ERR (n : Nat) : Field := ⟨A.FPE_LEN n, 18, 1⟩
def F.FPE_LEN_STOP (n : Nat) : Field := ⟨A.FPE_LEN n, 19, 1⟩
def F.FPE_LEN_READY (n : Nat) : Field := ⟨A.FPE_LEN n, 20, 1⟩
def F.FPE_LEN_RESUMED (n : Nat) : Field := ⟨A.FPE_LEN n, 21, 1⟩
def F.FPE_LEN_SKIP (n : Nat) : Field := ⟨A.FPE_LEN n, 22, 1⟩
def F.FPE_LEN_ABANDONED (n : Nat) : Field := ⟨A.FPE_LEN n, 23, 1⟩
def F.FPE_FEN_LANE_FAIL (n : Nat) : Field := ⟨A.FPE_FEN n, 0, 1⟩
def F.FPE_FEN_NO_SPARE (n : Nat) : Field := ⟨A.FPE_FEN n, 1, 1⟩
def F.FPE_FEN_STATUS_LOST (n : Nat) : Field := ⟨A.FPE_FEN n, 2, 1⟩
def F.FPE_FEN_KILL_PIN (n : Nat) : Field := ⟨A.FPE_FEN n, 3, 1⟩
def F.FPE_FEN_KILL_TRIP (n : Nat) : Field := ⟨A.FPE_FEN n, 4, 1⟩
def F.FPE_FEN_KILL_SW (n : Nat) : Field := ⟨A.FPE_FEN n, 5, 1⟩
def F.FPE_FEN_OVERSPEED (n : Nat) : Field := ⟨A.FPE_FEN n, 6, 1⟩
def F.FPE_FEN_CFG_REFUSED (n : Nat) : Field := ⟨A.FPE_FEN n, 7, 1⟩
def F.FPE_PQ_W0_V (n : Nat) : Field := ⟨A.FPE_PQ_W0 n, 0, 32⟩
def F.FPE_PQ_W1_V (n : Nat) : Field := ⟨A.FPE_PQ_W1 n, 0, 32⟩
def F.FPE_PQ_W2_V (n : Nat) : Field := ⟨A.FPE_PQ_W2 n, 0, 32⟩
def F.FPE_PQ_W3_V (n : Nat) : Field := ⟨A.FPE_PQ_W3 n, 0, 32⟩
def F.FPE_PQ_W4_V (n : Nat) : Field := ⟨A.FPE_PQ_W4 n, 0, 32⟩
def F.FPE_PQ_W5_V (n : Nat) : Field := ⟨A.FPE_PQ_W5 n, 0, 32⟩
def F.FPE_PQ_W6_V (n : Nat) : Field := ⟨A.FPE_PQ_W6 n, 0, 32⟩
def F.FPE_PQ_W7_V (n : Nat) : Field := ⟨A.FPE_PQ_W7 n, 0, 32⟩
def F.FPE_PQ_PUSH_V (n : Nat) : Field := ⟨A.FPE_PQ_PUSH n, 0, 32⟩
def F.FPE_CUR_PAGE_V (n : Nat) : Field := ⟨A.FPE_CUR_PAGE n, 0, 24⟩
def F.FPE_CUR_LINE_V (n : Nat) : Field := ⟨A.FPE_CUR_LINE n, 0, 32⟩
def F.FPE_OFFSET_LO_V (n : Nat) : Field := ⟨A.FPE_OFFSET_LO n, 0, 32⟩
def F.FPE_OFFSET_LO_LIVE_V (n : Nat) : Field := ⟨A.FPE_OFFSET_LO_LIVE n, 0, 32⟩
def F.FPE_OFFSET_HI_V (n : Nat) : Field := ⟨A.FPE_OFFSET_HI n, 0, 16⟩
def F.FPE_OFFSET_HI_LIVE_V (n : Nat) : Field := ⟨A.FPE_OFFSET_HI_LIVE n, 0, 16⟩
def F.FPE_WIN_START_V (n : Nat) : Field := ⟨A.FPE_WIN_START n, 0, 17⟩
def F.FPE_WIN_START_LIVE_V (n : Nat) : Field := ⟨A.FPE_WIN_START_LIVE n, 0, 17⟩
def F.FPE_WIN_END_V (n : Nat) : Field := ⟨A.FPE_WIN_END n, 0, 17⟩
def F.FPE_WIN_END_LIVE_V (n : Nat) : Field := ⟨A.FPE_WIN_END_LIVE n, 0, 17⟩
def F.FPE_SEGMASK_V (n : Nat) : Field := ⟨A.FPE_SEGMASK n, 0, 8⟩
def F.FPE_SEGMASK_LIVE_V (n : Nat) : Field := ⟨A.FPE_SEGMASK_LIVE n, 0, 8⟩
def F.FPE_WARMCNT_V (n : Nat) : Field := ⟨A.FPE_WARMCNT n, 0, 24⟩
def F.FPE_WARMCNT_LIVE_V (n : Nat) : Field := ⟨A.FPE_WARMCNT_LIVE n, 0, 24⟩
def F.FPE_ROWOFS_ROWS (n : Nat) : Field := ⟨A.FPE_ROWOFS n, 0, 16⟩
def F.FPE_ROWOFS_THIN_EN (n : Nat) : Field := ⟨A.FPE_ROWOFS n, 16, 1⟩
def F.FPE_ROWOFS_LIVE_ROWS (n : Nat) : Field := ⟨A.FPE_ROWOFS_LIVE n, 0, 16⟩
def F.FPE_ROWOFS_LIVE_THIN_EN (n : Nat) : Field := ⟨A.FPE_ROWOFS_LIVE n, 16, 1⟩
def F.FPE_GT_V (n g : Nat) : Field := ⟨A.FPE_GT n g, 0, 21⟩
def F.FPE_GT_LIVE_V (n g : Nat) : Field := ⟨A.FPE_GT_LIVE n g, 0, 21⟩
def F.FPE_SR_SEGLO_V (n : Nat) : Field := ⟨A.FPE_SR_SEGLO n, 0, 32⟩
def F.FPE_SR_SEGHI_V (n : Nat) : Field := ⟨A.FPE_SR_SEGHI n, 0, 32⟩
def F.FPE_SR_HEAD_V (n : Nat) : Field := ⟨A.FPE_SR_HEAD n, 0, 32⟩
def F.FPE_SR_CFG_V (n : Nat) : Field := ⟨A.FPE_SR_CFG n, 0, 8⟩
def F.FPE_DROPPED_V (n : Nat) : Field := ⟨A.FPE_DROPPED n, 0, 32⟩
def F.FPE_HELD_V (n : Nat) : Field := ⟨A.FPE_HELD n, 0, 32⟩
def F.FPE_LOST_LINES_V (n : Nat) : Field := ⟨A.FPE_LOST_LINES n, 0, 32⟩
def F.FPE_CORRUPT_LINES_V (n : Nat) : Field := ⟨A.FPE_CORRUPT_LINES n, 0, 32⟩
def F.FPE_SR_ERR_V (n : Nat) : Field := ⟨A.FPE_SR_ERR n, 0, 32⟩
def F.FPE_KILLED_LINES_V (n : Nat) : Field := ⟨A.FPE_KILLED_LINES n, 0, 32⟩
def F.FPE_PREC_TAG_V (n : Nat) : Field := ⟨A.FPE_PREC_TAG n, 0, 32⟩
def F.FPE_PREC_DROPPED_V (n : Nat) : Field := ⟨A.FPE_PREC_DROPPED n, 0, 32⟩
def F.FPE_PREC_HELD_V (n : Nat) : Field := ⟨A.FPE_PREC_HELD n, 0, 32⟩
def F.FPE_PREC_MAXERR_V (n : Nat) : Field := ⟨A.FPE_PREC_MAXERR n, 0, 16⟩
def F.FPE_PREC_LOST_V (n : Nat) : Field := ⟨A.FPE_PREC_LOST n, 0, 32⟩
def F.NST_EN_LOW_WATER (n : Nat) : Field := ⟨A.NST_EN n, 0, 1⟩
def F.NST_EN_LOCK_SKIP (n : Nat) : Field := ⟨A.NST_EN n, 1, 1⟩
def F.NST_EN_PAIR_ALONE (n : Nat) : Field := ⟨A.NST_EN n, 2, 1⟩
def F.NST_EN_COLLISION (n : Nat) : Field := ⟨A.NST_EN n, 3, 1⟩
def F.NST_EN_BAD_ADDR (n : Nat) : Field := ⟨A.NST_EN n, 4, 1⟩
def F.NST_EN_FLUSHED (n : Nat) : Field := ⟨A.NST_EN n, 5, 1⟩
def F.NST_STITCH_LIVE_OVERLAP (n : Nat) : Field := ⟨A.NST_STITCH_LIVE n, 0, 7⟩
def F.NST_APPLIED_V (n : Nat) : Field := ⟨A.NST_APPLIED n, 0, 32⟩
def F.NST_LOCK_SKIP_V (n : Nat) : Field := ⟨A.NST_LOCK_SKIP n, 0, 32⟩
def F.NST_PAIR_ALONE_V (n : Nat) : Field := ⟨A.NST_PAIR_ALONE n, 0, 32⟩
def F.NST_FLUSHED_V (n : Nat) : Field := ⟨A.NST_FLUSHED n, 0, 32⟩
def F.NST_BAD_ADDR_V (n : Nat) : Field := ⟨A.NST_BAD_ADDR n, 0, 32⟩
def F.NST_COLLISIONS_V (n : Nat) : Field := ⟨A.NST_COLLISIONS n, 0, 32⟩
def F.NST_UNPL_TOTAL_V (n : Nat) : Field := ⟨A.NST_UNPL_TOTAL n, 0, 32⟩
def F.NST_THIN_TOTAL_V (n : Nat) : Field := ⟨A.NST_THIN_TOTAL n, 0, 32⟩
def F.NST_PREC_UNPL_V (n : Nat) : Field := ⟨A.NST_PREC_UNPL n, 0, 32⟩
def F.NST_PREC_THIN_V (n : Nat) : Field := ⟨A.NST_PREC_THIN n, 0, 32⟩
def F.RSP_STAGE_V (n : Nat) : Field := ⟨A.RSP_STAGE n, 0, 16⟩
def F.RSP_STREAM_LINE_V (n : Nat) : Field := ⟨A.RSP_STREAM_LINE n, 0, 32⟩
def F.RSP_RESUME_IDX_V (n : Nat) : Field := ⟨A.RSP_RESUME_IDX n, 0, 32⟩
def F.RSP_RESUME_DUE_LO_V (n : Nat) : Field := ⟨A.RSP_RESUME_DUE_LO n, 0, 32⟩
def F.RSP_RESUME_DUE_HI_V (n : Nat) : Field := ⟨A.RSP_RESUME_DUE_HI n, 0, 16⟩
def F.RSP_UNDERRUNS_V (n : Nat) : Field := ⟨A.RSP_UNDERRUNS n, 0, 32⟩
def F.RSP_SKIPPED_V (n : Nat) : Field := ⟨A.RSP_SKIPPED n, 0, 32⟩
def F.RSP_PAUSED_V (n : Nat) : Field := ⟨A.RSP_PAUSED n, 0, 32⟩
def F.RSP_STOPS_V (n : Nat) : Field := ⟨A.RSP_STOPS n, 0, 32⟩
def F.RSP_REPRINTED_V (n : Nat) : Field := ⟨A.RSP_REPRINTED n, 0, 32⟩
def F.RSP_STREAM_ERRS_V (n : Nat) : Field := ⟨A.RSP_STREAM_ERRS n, 0, 32⟩
def F.RSP_ABANDONED_V (n : Nat) : Field := ⟨A.RSP_ABANDONED n, 0, 32⟩
def F.RSP_PREC_SKIPPED_V (n : Nat) : Field := ⟨A.RSP_PREC_SKIPPED n, 0, 32⟩
def F.RSP_PREC_STOPS_V (n : Nat) : Field := ⟨A.RSP_PREC_STOPS n, 0, 32⟩
def F.RSP_PREC_REPRINT_V (n : Nat) : Field := ⟨A.RSP_PREC_REPRINT n, 0, 32⟩
def F.POS_SEC_RATIO_V : Field := ⟨A.POS_SEC_RATIO, 0, 32⟩
def F.POS_NOW_LO_V : Field := ⟨A.POS_NOW_LO, 0, 32⟩
def F.POS_NOW_HI_POS : Field := ⟨A.POS_NOW_HI, 0, 16⟩
def F.POS_NOW_HI_EST : Field := ⟨A.POS_NOW_HI, 16, 1⟩
def F.POS_PP_LO_V : Field := ⟨A.POS_PP_LO, 0, 32⟩
def F.POS_PP_HI_POS : Field := ⟨A.POS_PP_HI, 0, 16⟩
def F.POS_PP_HI_EST : Field := ⟨A.POS_PP_HI, 16, 1⟩
def F.POS_SPEED_V : Field := ⟨A.POS_SPEED, 0, 32⟩
def F.POS_SLO_LO_V : Field := ⟨A.POS_SLO_LO, 0, 32⟩
def F.POS_SLO_HI_V : Field := ⟨A.POS_SLO_HI, 0, 16⟩
def F.POS_SHI_LO_V : Field := ⟨A.POS_SHI_LO, 0, 32⟩
def F.POS_SHI_HI_V : Field := ⟨A.POS_SHI_HI, 0, 16⟩
def F.POS_REBASE_LO_V : Field := ⟨A.POS_REBASE_LO, 0, 32⟩
def F.POS_REBASE_HI_V : Field := ⟨A.POS_REBASE_HI, 0, 16⟩
def F.POS_EN_FAILOVER : Field := ⟨A.POS_EN, 0, 1⟩
def F.POS_EN_AXIS_LOST : Field := ⟨A.POS_EN, 1, 1⟩
def F.POS_EN_DIVERGE : Field := ⟨A.POS_EN, 2, 1⟩
def F.POS_EN_REVERSAL : Field := ⟨A.POS_EN, 3, 1⟩
def F.POS_EN_LIMIT : Field := ⟨A.POS_EN, 4, 1⟩
def F.POS_EN_REBASE_REFUSED : Field := ⟨A.POS_EN, 5, 1⟩
def F.POS_EN_STANDSTILL : Field := ⟨A.POS_EN, 6, 1⟩
def F.POS_EN_VALID : Field := ⟨A.POS_EN, 7, 1⟩
def F.POS_ENC_EN_WIRE0 : Field := ⟨A.POS_ENC_EN, 0, 1⟩
def F.POS_ENC_EN_ILLEGAL0 : Field := ⟨A.POS_ENC_EN, 1, 1⟩
def F.POS_ENC_EN_INDEX_MISMATCH0 : Field := ⟨A.POS_ENC_EN, 2, 1⟩
def F.POS_ENC_EN_INDEX_MISSING0 : Field := ⟨A.POS_ENC_EN, 3, 1⟩
def F.POS_ENC_EN_WIRE1 : Field := ⟨A.POS_ENC_EN, 4, 1⟩
def F.POS_ENC_EN_ILLEGAL1 : Field := ⟨A.POS_ENC_EN, 5, 1⟩
def F.POS_ENC_EN_INDEX_MISMATCH1 : Field := ⟨A.POS_ENC_EN, 6, 1⟩
def F.POS_ENC_EN_INDEX_MISSING1 : Field := ⟨A.POS_ENC_EN, 7, 1⟩
def F.POS_ENC_EN_WIRE2 : Field := ⟨A.POS_ENC_EN, 8, 1⟩
def F.POS_ENC_EN_ILLEGAL2 : Field := ⟨A.POS_ENC_EN, 9, 1⟩
def F.POS_ENC_EN_INDEX_MISMATCH2 : Field := ⟨A.POS_ENC_EN, 10, 1⟩
def F.POS_ENC_EN_INDEX_MISSING2 : Field := ⟨A.POS_ENC_EN, 11, 1⟩
def F.POS_ENC_EN_WIRE3 : Field := ⟨A.POS_ENC_EN, 12, 1⟩
def F.POS_ENC_EN_ILLEGAL3 : Field := ⟨A.POS_ENC_EN, 13, 1⟩
def F.POS_ENC_EN_INDEX_MISMATCH3 : Field := ⟨A.POS_ENC_EN, 14, 1⟩
def F.POS_ENC_EN_INDEX_MISSING3 : Field := ⟨A.POS_ENC_EN, 15, 1⟩
def F.POS_ENC_EN_PARITY : Field := ⟨A.POS_ENC_EN, 16, 1⟩
def F.POS_ENC_EN_FRAME : Field := ⟨A.POS_ENC_EN, 17, 1⟩
def F.POS_ENC_EN_JUMP : Field := ⟨A.POS_ENC_EN, 18, 1⟩
def F.POS_ENC_EN_SSI_FAIL : Field := ⟨A.POS_ENC_EN, 19, 1⟩
def F.POS_JITTER_V : Field := ⟨A.POS_JITTER, 0, 32⟩
def F.POS_REVERSALS_V : Field := ⟨A.POS_REVERSALS, 0, 32⟩
def F.POS_LIMIT_DISC_V : Field := ⟨A.POS_LIMIT_DISC, 0, 32⟩
def F.POS_FAILOVERS_V : Field := ⟨A.POS_FAILOVERS, 0, 32⟩
def F.POS_DIVERGES_V : Field := ⟨A.POS_DIVERGES, 0, 32⟩
def F.POS_ENCc_CNT_V (c : Nat) : Field := ⟨A.POS_ENCc_CNT c, 0, 32⟩
def F.POS_ENCc_SPEED_V (c : Nat) : Field := ⟨A.POS_ENCc_SPEED c, 0, 32⟩
def F.POS_ENCc_STATUS_WIRE_A (c : Nat) : Field := ⟨A.POS_ENCc_STATUS c, 0, 1⟩
def F.POS_ENCc_STATUS_WIRE_B (c : Nat) : Field := ⟨A.POS_ENCc_STATUS c, 1, 1⟩
def F.POS_ENCc_STATUS_WIRE_Z (c : Nat) : Field := ⟨A.POS_ENCc_STATUS c, 2, 1⟩
def F.POS_ENCc_STATUS_VALID (c : Nat) : Field := ⟨A.POS_ENCc_STATUS c, 3, 1⟩
def F.POS_ENCc_STATUS_HEALTHY (c : Nat) : Field := ⟨A.POS_ENCc_STATUS c, 4, 1⟩
def F.POS_ENCc_ILL_V (c : Nat) : Field := ⟨A.POS_ENCc_ILL c, 0, 32⟩
def F.POS_ENCc_INDEX_V (c : Nat) : Field := ⟨A.POS_ENCc_INDEX c, 0, 32⟩
def F.POS_ENCc_PER_V (c : Nat) : Field := ⟨A.POS_ENCc_PER c, 0, 31⟩
def F.POS_ENCc_RHO_V (c : Nat) : Field := ⟨A.POS_ENCc_RHO c, 0, 32⟩
def F.POS_SSI_PERIOD_V : Field := ⟨A.POS_SSI_PERIOD, 0, 10⟩
def F.POS_SSI_VAL_LO_V : Field := ⟨A.POS_SSI_VAL_LO, 0, 32⟩
def F.POS_SSI_VAL_HI_V : Field := ⟨A.POS_SSI_VAL_HI, 0, 16⟩
def F.POS_SSI_MAXJUMP_V : Field := ⟨A.POS_SSI_MAXJUMP, 0, 32⟩
def F.POS_SSI_ERRS_V : Field := ⟨A.POS_SSI_ERRS, 0, 32⟩
def F.POS_SSI_SPEED_V : Field := ⟨A.POS_SSI_SPEED, 0, 32⟩
def F.POS_TOFt_SEQ_SEQ (t : Nat) : Field := ⟨A.POS_TOFt_SEQ t, 0, 16⟩
def F.POS_TOFt_SEQ_ANY (t : Nat) : Field := ⟨A.POS_TOFt_SEQ t, 16, 1⟩
def F.POS_TOFt_REJ_V (t : Nat) : Field := ⟨A.POS_TOFt_REJ t, 0, 32⟩
def F.POS_TOF_CAUSE_CAPTURE : Field := ⟨A.POS_TOF_CAUSE, 0, 4⟩
def F.POS_TOF_CAUSE_REJECT : Field := ⟨A.POS_TOF_CAUSE, 4, 4⟩
def F.POS_TOF_EN_CAPTURE : Field := ⟨A.POS_TOF_EN, 0, 4⟩
def F.POS_TOF_EN_REJECT : Field := ⟨A.POS_TOF_EN, 4, 4⟩
def F.POS_RING_V (t e w : Nat) : Field := ⟨A.POS_RING t e w, 0, 32⟩
def F.POS_CMPc_TGT_LO_V (c : Nat) : Field := ⟨A.POS_CMPc_TGT_LO c, 0, 32⟩
def F.POS_CMPc_TGT_HI_V (c : Nat) : Field := ⟨A.POS_CMPc_TGT_HI c, 0, 16⟩
def F.POS_CMPc_TS_V (c : Nat) : Field := ⟨A.POS_CMPc_TS c, 0, 32⟩
def F.POS_CMP_CAUSE_V : Field := ⟨A.POS_CMP_CAUSE, 0, 16⟩
def F.POS_CMP_EN_V : Field := ⟨A.POS_CMP_EN, 0, 16⟩
def F.XPT_U_V : Field := ⟨A.XPT_U, 0, 16⟩
def F.XPT_FF_V : Field := ⟨A.XPT_FF, 0, 32⟩
def F.XPT_CLAMP_MAX : Field := ⟨A.XPT_CLAMP, 0, 16⟩
def F.XPT_CLAMP_MIN : Field := ⟨A.XPT_CLAMP, 16, 16⟩
def F.XPT_SLEW_V : Field := ⟨A.XPT_SLEW, 0, 16⟩
def F.XPT_ACC_V : Field := ⟨A.XPT_ACC, 0, 32⟩
def F.XPT_DEC_V : Field := ⟨A.XPT_DEC, 0, 32⟩
def F.XPT_VBACK_V : Field := ⟨A.XPT_VBACK, 0, 32⟩
def F.XPT_SETTLE_V : Field := ⟨A.XPT_SETTLE, 0, 24⟩
def F.XPT_VMAX_V : Field := ⟨A.XPT_VMAX, 0, 32⟩
def F.XPT_TOL_V : Field := ⟨A.XPT_TOL, 0, 6⟩
def F.XPT_TIMING_EN_DELAY : Field := ⟨A.XPT_TIMING, 0, 16⟩
def F.XPT_TIMING_XSTOP_MIN : Field := ⟨A.XPT_TIMING, 16, 16⟩
def F.XPT_S_TICK_V : Field := ⟨A.XPT_S_TICK, 0, 32⟩
def F.XPT_S_Y_LO_V : Field := ⟨A.XPT_S_Y_LO, 0, 32⟩
def F.XPT_S_Y_HI_V : Field := ⟨A.XPT_S_Y_HI, 0, 16⟩
def F.XPT_S_ERR_V : Field := ⟨A.XPT_S_ERR, 0, 32⟩
def F.XPT_S_V_V : Field := ⟨A.XPT_S_V, 0, 32⟩
def F.XPT_S_VREF_V : Field := ⟨A.XPT_S_VREF, 0, 32⟩
def F.XPT_S_CODE_CODE : Field := ⟨A.XPT_S_CODE, 0, 16⟩
def F.XPT_S_CODE_VALID : Field := ⟨A.XPT_S_CODE, 16, 1⟩
def F.XPT_S_PP_LO_V : Field := ⟨A.XPT_S_PP_LO, 0, 32⟩
def F.XPT_S_PP_HI_V : Field := ⟨A.XPT_S_PP_HI, 0, 16⟩
def F.XPT_PIR_STOP_LO_V : Field := ⟨A.XPT_PIR_STOP_LO, 0, 32⟩
def F.XPT_PIR_STOP_HI_V : Field := ⟨A.XPT_PIR_STOP_HI, 0, 16⟩
def F.XPT_PIR_RE_LO_V : Field := ⟨A.XPT_PIR_RE_LO, 0, 32⟩
def F.XPT_PIR_RE_HI_V : Field := ⟨A.XPT_PIR_RE_HI, 0, 16⟩
def F.XPT_PIR_J_V : Field := ⟨A.XPT_PIR_J, 0, 10⟩
def F.XPT_EN_PIR_START : Field := ⟨A.XPT_EN, 0, 1⟩
def F.XPT_EN_PIR_REENTRY : Field := ⟨A.XPT_EN, 1, 1⟩
def F.XPT_EN_PIR_LAP : Field := ⟨A.XPT_EN, 2, 1⟩
def F.XPT_EN_PIR_FAIL : Field := ⟨A.XPT_EN, 3, 1⟩
def F.XPT_EN_DRIVE_FLT : Field := ⟨A.XPT_EN, 4, 1⟩
def F.XPT_EN_SERVO_STALE : Field := ⟨A.XPT_EN, 5, 1⟩
def F.XPT_EN_OVERSPEED : Field := ⟨A.XPT_EN, 6, 1⟩
def F.XPT_EN_MODE_REFUSED : Field := ⟨A.XPT_EN, 7, 1⟩
def F.XPT_EN_TRACK : Field := ⟨A.XPT_EN, 8, 1⟩
def F.XPT_EN_LASTRUN : Field := ⟨A.XPT_EN, 9, 1⟩
def F.XPT_STALE_V : Field := ⟨A.XPT_STALE, 0, 32⟩
def F.XPT_CLAMPED_V : Field := ⟨A.XPT_CLAMPED, 0, 32⟩
def F.XPT_PIROUETTES_V : Field := ⟨A.XPT_PIROUETTES, 0, 32⟩
def F.XPT_LAPS_V : Field := ⟨A.XPT_LAPS, 0, 32⟩
def F.CAM_Pp_STRB_DLY_V (p : Nat) : Field := ⟨A.CAM_Pp_STRB_DLY p, 0, 20⟩
def F.CAM_Pp_STRB_W_V (p : Nat) : Field := ⟨A.CAM_Pp_STRB_W p, 0, 18⟩
def F.CAM_Pp_SET_V (p : Nat) : Field := ⟨A.CAM_Pp_SET p, 0, 3⟩
def F.CAM_Pp_GEN_V (p : Nat) : Field := ⟨A.CAM_Pp_GEN p, 0, 16⟩
def F.CAM_Pp_TSEQ_SEQ (p : Nat) : Field := ⟨A.CAM_Pp_TSEQ p, 0, 16⟩
def F.CAM_Pp_TSEQ_ANY (p : Nat) : Field := ⟨A.CAM_Pp_TSEQ p, 16, 1⟩
def F.CAM_Pp_CAUSE_FRAME_DONE (p : Nat) : Field := ⟨A.CAM_Pp_CAUSE p, 0, 1⟩
def F.CAM_Pp_CAUSE_FRAME_SHORT (p : Nat) : Field := ⟨A.CAM_Pp_CAUSE p, 1, 1⟩
def F.CAM_Pp_CAUSE_FRAME_LONG (p : Nat) : Field := ⟨A.CAM_Pp_CAUSE p, 2, 1⟩
def F.CAM_Pp_CAUSE_LATE (p : Nat) : Field := ⟨A.CAM_Pp_CAUSE p, 3, 1⟩
def F.CAM_Pp_CAUSE_CORRUPT (p : Nat) : Field := ⟨A.CAM_Pp_CAUSE p, 4, 1⟩
def F.CAM_Pp_CAUSE_STORE_OVF (p : Nat) : Field := ⟨A.CAM_Pp_CAUSE p, 5, 1⟩
def F.CAM_Pp_CAUSE_TRIG_REFUSED (p : Nat) : Field := ⟨A.CAM_Pp_CAUSE p, 6, 1⟩
def F.CAM_Pp_CAUSE_TRIG_EXPIRED (p : Nat) : Field := ⟨A.CAM_Pp_CAUSE p, 7, 1⟩
def F.CAM_Pp_CAUSE_CCI_DONE (p : Nat) : Field := ⟨A.CAM_Pp_CAUSE p, 8, 1⟩
def F.CAM_Pp_CAUSE_CCI_ERR (p : Nat) : Field := ⟨A.CAM_Pp_CAUSE p, 9, 1⟩
def F.CAM_Pp_CAUSE_CCI_FULL (p : Nat) : Field := ⟨A.CAM_Pp_CAUSE p, 10, 1⟩
def F.CAM_Pp_CAUSE_CCI_RES_LOST (p : Nat) : Field := ⟨A.CAM_Pp_CAUSE p, 11, 1⟩
def F.CAM_Pp_EN_FRAME_DONE (p : Nat) : Field := ⟨A.CAM_Pp_EN p, 0, 1⟩
def F.CAM_Pp_EN_FRAME_SHORT (p : Nat) : Field := ⟨A.CAM_Pp_EN p, 1, 1⟩
def F.CAM_Pp_EN_FRAME_LONG (p : Nat) : Field := ⟨A.CAM_Pp_EN p, 2, 1⟩
def F.CAM_Pp_EN_LATE (p : Nat) : Field := ⟨A.CAM_Pp_EN p, 3, 1⟩
def F.CAM_Pp_EN_CORRUPT (p : Nat) : Field := ⟨A.CAM_Pp_EN p, 4, 1⟩
def F.CAM_Pp_EN_STORE_OVF (p : Nat) : Field := ⟨A.CAM_Pp_EN p, 5, 1⟩
def F.CAM_Pp_EN_TRIG_REFUSED (p : Nat) : Field := ⟨A.CAM_Pp_EN p, 6, 1⟩
def F.CAM_Pp_EN_TRIG_EXPIRED (p : Nat) : Field := ⟨A.CAM_Pp_EN p, 7, 1⟩
def F.CAM_Pp_EN_CCI_DONE (p : Nat) : Field := ⟨A.CAM_Pp_EN p, 8, 1⟩
def F.CAM_Pp_EN_CCI_ERR (p : Nat) : Field := ⟨A.CAM_Pp_EN p, 9, 1⟩
def F.CAM_Pp_EN_CCI_FULL (p : Nat) : Field := ⟨A.CAM_Pp_EN p, 10, 1⟩
def F.CAM_Pp_EN_CCI_RES_LOST (p : Nat) : Field := ⟨A.CAM_Pp_EN p, 11, 1⟩
def F.CAM_Pp_FRAMES_V (p : Nat) : Field := ⟨A.CAM_Pp_FRAMES p, 0, 32⟩
def F.CAM_Pp_DISCARDED_V (p : Nat) : Field := ⟨A.CAM_Pp_DISCARDED p, 0, 32⟩
def F.CAM_Pp_CRC_ERRS_V (p : Nat) : Field := ⟨A.CAM_Pp_CRC_ERRS p, 0, 32⟩
def F.CAM_Pp_ECC_CORR_V (p : Nat) : Field := ⟨A.CAM_Pp_ECC_CORR p, 0, 32⟩
def F.CAM_Pp_ECC_BAD_V (p : Nat) : Field := ⟨A.CAM_Pp_ECC_BAD p, 0, 32⟩
def F.CAM_Pp_TRIG_REF_V (p : Nat) : Field := ⟨A.CAM_Pp_TRIG_REF p, 0, 32⟩
def F.CAM_Pp_TRIG_EXP_V (p : Nat) : Field := ⟨A.CAM_Pp_TRIG_EXP p, 0, 32⟩
def F.CAM_Pp_VIOL_V (p : Nat) : Field := ⟨A.CAM_Pp_VIOL p, 0, 32⟩
def F.CAM_RING_V (p e w : Nat) : Field := ⟨A.CAM_RING p e w, 0, 32⟩
def F.CAM_Pp_CCI_REG_V (p : Nat) : Field := ⟨A.CAM_Pp_CCI_REG p, 0, 16⟩
def F.CAM_Pp_CCI_WDATA_V (p : Nat) : Field := ⟨A.CAM_Pp_CCI_WDATA p, 0, 32⟩
def F.CAM_Pp_CCI_PUSH_V (p : Nat) : Field := ⟨A.CAM_Pp_CCI_PUSH p, 0, 32⟩
def F.CAM_Pp_CCI_RES_TAG (p : Nat) : Field := ⟨A.CAM_Pp_CCI_RES p, 0, 4⟩
def F.CAM_Pp_CCI_RES_STATUS (p : Nat) : Field := ⟨A.CAM_Pp_CCI_RES p, 8, 8⟩
def F.CAM_Pp_CCI_RDATA_V (p : Nat) : Field := ⟨A.CAM_Pp_CCI_RDATA p, 0, 32⟩
def F.CAM_Pp_CCI_STAT_CMDS (p : Nat) : Field := ⟨A.CAM_Pp_CCI_STAT p, 0, 4⟩
def F.CAM_Pp_CCI_STAT_RESULTS (p : Nat) : Field := ⟨A.CAM_Pp_CCI_STAT p, 4, 4⟩
def F.CAM_Pp_CCI_STAT_BUSY (p : Nat) : Field := ⟨A.CAM_Pp_CCI_STAT p, 8, 1⟩
def F.CAM_Pp_CCI_CFG_V (p : Nat) : Field := ⟨A.CAM_Pp_CCI_CFG p, 0, 16⟩
def F.INS_VF_WATER_V : Field := ⟨A.INS_VF_WATER, 0, 11⟩
def F.INS_EN_VF_WATER : Field := ⟨A.INS_EN, 0, 1⟩
def F.INS_EN_VLOST : Field := ⟨A.INS_EN, 1, 1⟩
def F.INS_EN_AREQ_MISS : Field := ⟨A.INS_EN, 2, 1⟩
def F.INS_EN_AREQ_FULL : Field := ⟨A.INS_EN, 3, 1⟩
def F.INS_EN_ANALYSED : Field := ⟨A.INS_EN, 4, 1⟩
def F.INS_AREQ_W1_V : Field := ⟨A.INS_AREQ_W1, 0, 7⟩
def F.INS_AREQ_PUSH_V : Field := ⟨A.INS_AREQ_PUSH, 0, 32⟩
def F.INS_GEO_W0_Y0 (g : Nat) : Field := ⟨A.INS_GEO_W0 g, 0, 16⟩
def F.INS_GEO_W0_H (g : Nat) : Field := ⟨A.INS_GEO_W0 g, 16, 8⟩
def F.INS_GEO_W0_HW (g : Nat) : Field := ⟨A.INS_GEO_W0 g, 24, 5⟩
def F.INS_GEO_W1_DY (g : Nat) : Field := ⟨A.INS_GEO_W1 g, 0, 16⟩
def F.INS_GEO_W2_DREF (g : Nat) : Field := ⟨A.INS_GEO_W2 g, 0, 24⟩
def F.INS_GEO_W3_T_ABS (g : Nat) : Field := ⟨A.INS_GEO_W3 g, 0, 6⟩
def F.INS_GEO_W3_T_WEAK (g : Nat) : Field := ⟨A.INS_GEO_W3 g, 8, 6⟩
def F.INS_GEO_W3_T_STRONG (g : Nat) : Field := ⟨A.INS_GEO_W3 g, 16, 6⟩
def F.INS_GEO_W4_WHITE (g : Nat) : Field := ⟨A.INS_GEO_W4 g, 0, 12⟩
def F.INS_TBL_SEL_PORT : Field := ⟨A.INS_TBL_SEL, 0, 2⟩
def F.INS_TBL_SEL_TABLE : Field := ⟨A.INS_TBL_SEL, 2, 2⟩
def F.INS_TBL_IDX_V : Field := ⟨A.INS_TBL_IDX, 0, 13⟩
def F.INS_TBL_DATA_V : Field := ⟨A.INS_TBL_DATA, 0, 32⟩
def F.INS_NKp_V (p : Nat) : Field := ⟨A.INS_NKp p, 0, 7⟩
def F.INS_RECORDS_V : Field := ⟨A.INS_RECORDS, 0, 32⟩
def F.INS_VLOST_V : Field := ⟨A.INS_VLOST, 0, 32⟩
def F.INS_REPLAYS_V : Field := ⟨A.INS_REPLAYS, 0, 32⟩
def F.INS_DIVERTED_V : Field := ⟨A.INS_DIVERTED, 0, 32⟩
def F.INS_AREQ_MISS_V : Field := ⟨A.INS_AREQ_MISS, 0, 32⟩
def F.INS_VF_WINDOW_V (i h : Nat) : Field := ⟨A.INS_VF_WINDOW i h, 0, 32⟩
def F.THM_RATE_LIM_RWARN : Field := ⟨A.THM_RATE_LIM, 0, 16⟩
def F.THM_RATE_LIM_RTRIP : Field := ⟨A.THM_RATE_LIM, 16, 16⟩
def F.THM_TEMP_LIM_TWARN : Field := ⟨A.THM_TEMP_LIM, 0, 16⟩
def F.THM_TEMP_LIM_CEIL : Field := ⟨A.THM_TEMP_LIM, 16, 16⟩
def F.THM_BOARD_LIM_BWARN : Field := ⟨A.THM_BOARD_LIM, 0, 16⟩
def F.THM_BOARD_LIM_BTRIP : Field := ⟨A.THM_BOARD_LIM, 16, 16⟩
def F.THM_SENS_NDIFF : Field := ⟨A.THM_SENS, 0, 8⟩
def F.THM_SENS_NTIME : Field := ⟨A.THM_SENS, 8, 8⟩
def F.THM_FLOOR_V : Field := ⟨A.THM_FLOOR, 0, 16⟩
def F.THM_ACK_V : Field := ⟨A.THM_ACK, 0, 32⟩
def F.THM_STAGE_LO_V : Field := ⟨A.THM_STAGE_LO, 0, 32⟩
def F.THM_STAGE_HI_V : Field := ⟨A.THM_STAGE_HI, 0, 32⟩
def F.THM_TRIPPED_V : Field := ⟨A.THM_TRIPPED, 0, 32⟩
def F.THM_FROZEN_V : Field := ⟨A.THM_FROZEN, 0, 32⟩
def F.THM_WARN_V : Field := ⟨A.THM_WARN, 0, 32⟩
def F.THM_NOSENS_V : Field := ⟨A.THM_NOSENS, 0, 32⟩
def F.THM_EN_WARN : Field := ⟨A.THM_EN, 0, 1⟩
def F.THM_EN_STAGE2 : Field := ⟨A.THM_EN, 1, 1⟩
def F.THM_EN_TRIP : Field := ⟨A.THM_EN, 2, 1⟩
def F.THM_EN_REDUCED : Field := ⟨A.THM_EN, 3, 1⟩
def F.THM_EN_FLOOR_HIT : Field := ⟨A.THM_EN, 4, 1⟩
def F.THM_EN_CLEARED : Field := ⟨A.THM_EN, 5, 1⟩
def F.THM_EN_BOARD_WARN : Field := ⟨A.THM_EN, 6, 1⟩
def F.THM_EN_BOARD_TRIP : Field := ⟨A.THM_EN, 7, 1⟩
def F.THM_SEN_OPEN : Field := ⟨A.THM_SEN, 0, 1⟩
def F.THM_SEN_SHORT : Field := ⟨A.THM_SEN, 1, 1⟩
def F.THM_SEN_JUMP : Field := ⟨A.THM_SEN, 2, 1⟩
def F.THM_SEN_NDIS : Field := ⟨A.THM_SEN, 3, 1⟩
def F.THM_SEN_SUBST : Field := ⟨A.THM_SEN, 4, 1⟩
def F.THM_SEN_NO_SENSOR : Field := ⟨A.THM_SEN, 5, 1⟩
def F.THM_SEN_RECOVERED : Field := ⟨A.THM_SEN, 6, 1⟩
def F.THM_SEN_BOARD_FAIL : Field := ⟨A.THM_SEN, 7, 1⟩
def F.THM_Pp_NF_V (p : Nat) : Field := ⟨A.THM_Pp_NF p, 0, 14⟩
def F.THM_Pp_B_V (p : Nat) : Field := ⟨A.THM_Pp_B p, 0, 16⟩
def F.THM_Pp_RNOM_V (p : Nat) : Field := ⟨A.THM_Pp_RNOM p, 0, 24⟩
def F.THM_BRD_CFG_MODE : Field := ⟨A.THM_BRD_CFG, 0, 4⟩
def F.THM_BRD_CFG_IB : Field := ⟨A.THM_BRD_CFG, 4, 2⟩
def F.THM_BRD_CFG_CHEN : Field := ⟨A.THM_BRD_CFG, 8, 4⟩
def F.THM_BRD_NF_V : Field := ⟨A.THM_BRD_NF, 0, 14⟩
def F.THM_BRD_B_V : Field := ⟨A.THM_BRD_B, 0, 16⟩
def F.THM_BRD_RNOM_V : Field := ⟨A.THM_BRD_RNOM, 0, 24⟩
def F.THM_Tch_T (ch : Nat) : Field := ⟨A.THM_Tch ch, 0, 16⟩
def F.THM_Tch_AVG (ch : Nat) : Field := ⟨A.THM_Tch ch, 16, 16⟩
def F.THM_RATEch_V (ch : Nat) : Field := ⟨A.THM_RATEch ch, 0, 32⟩
def F.THM_Sch_VALID (ch : Nat) : Field := ⟨A.THM_Sch ch, 0, 1⟩
def F.THM_Sch_RATE_VALID (ch : Nat) : Field := ⟨A.THM_Sch ch, 1, 1⟩
def F.THM_Sch_OPEN (ch : Nat) : Field := ⟨A.THM_Sch ch, 2, 1⟩
def F.THM_Sch_SHORT (ch : Nat) : Field := ⟨A.THM_Sch ch, 3, 1⟩
def F.THM_Sch_JUMP (ch : Nat) : Field := ⟨A.THM_Sch ch, 4, 1⟩
def F.THM_Sch_NDIS (ch : Nat) : Field := ⟨A.THM_Sch ch, 5, 1⟩
def F.THM_Sch_FAILED (ch : Nat) : Field := ⟨A.THM_Sch ch, 6, 1⟩
def F.THM_Sch_SUBST (ch : Nat) : Field := ⟨A.THM_Sch ch, 7, 1⟩
def F.THM_Sch_FROZEN_SRC (ch : Nat) : Field := ⟨A.THM_Sch ch, 8, 1⟩
def F.THM_WARNS_V : Field := ⟨A.THM_WARNS, 0, 32⟩
def F.THM_STAGE2S_V : Field := ⟨A.THM_STAGE2S, 0, 32⟩
def F.THM_TRIPS_V : Field := ⟨A.THM_TRIPS, 0, 32⟩
def F.THM_REDUCTIONS_V : Field := ⟨A.THM_REDUCTIONS, 0, 32⟩
def F.THM_SFAULTS_V : Field := ⟨A.THM_SFAULTS, 0, 32⟩
def F.CAL_CLASS_EN_V : Field := ⟨A.CAL_CLASS_EN, 0, 8⟩
def F.CAL_PERIODk_V (k : Nat) : Field := ⟨A.CAL_PERIODk k, 0, 16⟩
def F.CAL_REQ_CLASS : Field := ⟨A.CAL_REQ, 0, 3⟩
def F.CAL_REQ_INST : Field := ⟨A.CAL_REQ, 4, 9⟩
def F.CAL_RESULT_STATUS : Field := ⟨A.CAL_RESULT, 0, 8⟩
def F.CAL_RESULT_CLASS : Field := ⟨A.CAL_RESULT, 8, 3⟩
def F.CAL_RESULT_INST : Field := ⟨A.CAL_RESULT, 16, 9⟩
def F.CAL_QSEL_CLASS : Field := ⟨A.CAL_QSEL, 0, 3⟩
def F.CAL_QSEL_INST : Field := ⟨A.CAL_QSEL, 4, 9⟩
def F.CAL_QVAL_VAL : Field := ⟨A.CAL_QVAL, 0, 16⟩
def F.CAL_QVAL_GAIN : Field := ⟨A.CAL_QVAL, 16, 16⟩
def F.CAL_QSTAT_STALE : Field := ⟨A.CAL_QSTAT, 0, 1⟩
def F.CAL_QSTAT_DIS : Field := ⟨A.CAL_QSTAT, 1, 2⟩
def F.CAL_QSTAT_STATUS : Field := ⟨A.CAL_QSTAT, 8, 8⟩
def F.CAL_QSTAT_AGE : Field := ⟨A.CAL_QSTAT, 16, 16⟩
def F.CAL_STALE_CNT_V : Field := ⟨A.CAL_STALE_CNT, 0, 16⟩
def F.CAL_EN_REQ_DONE : Field := ⟨A.CAL_EN, 0, 1⟩
def F.CAL_EN_DISAGREE : Field := ⟨A.CAL_EN, 1, 1⟩
def F.CAL_EN_INIT_DONE : Field := ⟨A.CAL_EN, 2, 1⟩
def F.CAL_EN_TIMEOUT : Field := ⟨A.CAL_EN, 3, 1⟩
def F.CAL_EN_RECOVERED : Field := ⟨A.CAL_EN, 4, 1⟩
def F.CAL_ET_BARS_V : Field := ⟨A.CAL_ET_BARS, 0, 32⟩
def F.CAL_ET_TH_OPEN : Field := ⟨A.CAL_ET_TH, 0, 12⟩
def F.CAL_ET_TH_SHORT : Field := ⟨A.CAL_ET_TH, 16, 12⟩
def F.CAL_ET_STATUS_LEVEL : Field := ⟨A.CAL_ET_STATUS, 0, 9⟩
def F.CAL_ET_STATUS_FULL : Field := ⟨A.CAL_ET_STATUS, 9, 1⟩
def F.CAL_ET_CAUSE_RECORD : Field := ⟨A.CAL_ET_CAUSE, 0, 1⟩
def F.CAL_ET_CAUSE_SWEEP_DONE : Field := ⟨A.CAL_ET_CAUSE, 1, 1⟩
def F.CAL_ET_CAUSE_FULL : Field := ⟨A.CAL_ET_CAUSE, 2, 1⟩
def F.CAL_ET_CAUSE_ET_WW : Field := ⟨A.CAL_ET_CAUSE, 3, 1⟩
def F.CAL_ET_EN_RECORD : Field := ⟨A.CAL_ET_EN, 0, 1⟩
def F.CAL_ET_EN_SWEEP_DONE : Field := ⟨A.CAL_ET_EN, 1, 1⟩
def F.CAL_ET_EN_FULL : Field := ⟨A.CAL_ET_EN, 2, 1⟩
def F.CAL_ET_EN_ET_WW : Field := ⟨A.CAL_ET_EN, 3, 1⟩
def F.CAL_ET_CURn_CUR (n : Nat) : Field := ⟨A.CAL_ET_CURn n, 0, 14⟩
def F.CAL_ET_CURn_SWEEP (n : Nat) : Field := ⟨A.CAL_ET_CURn n, 16, 16⟩
def F.CAL_ET_WINDOW_V (i h : Nat) : Field := ⟨A.CAL_ET_WINDOW i h, 0, 32⟩
def F.CAL_PAIRS_V : Field := ⟨A.CAL_PAIRS, 0, 32⟩
def F.CAL_DISAGREES_V : Field := ⟨A.CAL_DISAGREES, 0, 32⟩
def F.CAL_TIMEOUTS_V : Field := ⟨A.CAL_TIMEOUTS, 0, 32⟩
def F.CAL_ET_TESTED_V : Field := ⟨A.CAL_ET_TESTED, 0, 32⟩
def F.CAL_ET_OPENS_V : Field := ⟨A.CAL_ET_OPENS, 0, 32⟩
def F.CAL_ET_SHORTS_V : Field := ⟨A.CAL_ET_SHORTS, 0, 32⟩
def F.CAL_ET_VOIDS_V : Field := ⟨A.CAL_ET_VOIDS, 0, 32⟩
def F.SEQ_BOOT_SRC_V : Field := ⟨A.SEQ_BOOT_SRC, 0, 32⟩
def F.SEQ_BOOT_KEY_V : Field := ⟨A.SEQ_BOOT_KEY, 0, 32⟩
def F.SEQ_BOOT_GO_V : Field := ⟨A.SEQ_BOOT_GO, 0, 32⟩
def F.SEQ_WD_KICK_V : Field := ⟨A.SEQ_WD_KICK, 0, 32⟩
def F.SEQ_WD_STATUS_MS : Field := ⟨A.SEQ_WD_STATUS, 0, 16⟩
def F.SEQ_WD_STATUS_GRACE : Field := ⟨A.SEQ_WD_STATUS, 16, 1⟩
def F.SEQ_GCAUSE_WD_WARN : Field := ⟨A.SEQ_GCAUSE, 0, 1⟩
def F.SEQ_GCAUSE_WD_GRACE : Field := ⟨A.SEQ_GCAUSE, 1, 1⟩
def F.SEQ_GEN_WD_WARN : Field := ⟨A.SEQ_GEN, 0, 1⟩
def F.SEQ_GEN_WD_GRACE : Field := ⟨A.SEQ_GEN, 1, 1⟩
def F.SEQ_SWEV_V : Field := ⟨A.SEQ_SWEV, 0, 4⟩
def F.SEQ_Pj_ENTRY_V (j : Nat) : Field := ⟨A.SEQ_Pj_ENTRY j, 0, 32⟩
def F.SEQ_Pj_SP_V (j : Nat) : Field := ⟨A.SEQ_Pj_SP j, 0, 32⟩
def F.SEQ_Pj_PC_V (j : Nat) : Field := ⟨A.SEQ_Pj_PC j, 0, 32⟩
def F.SEQ_Pj_EN_HALTED (j : Nat) : Field := ⟨A.SEQ_Pj_EN j, 0, 1⟩
def F.SEQ_Pj_EN_ROLLBACK (j : Nat) : Field := ⟨A.SEQ_Pj_EN j, 1, 1⟩
def F.SEQ_Pj_EN_OUT_ERR (j : Nat) : Field := ⟨A.SEQ_Pj_EN j, 2, 1⟩
def F.SEQ_Pj_EN_CMD_ERR (j : Nat) : Field := ⟨A.SEQ_Pj_EN j, 3, 1⟩
def F.SEQ_Pj_EN_START_REFUSED (j : Nat) : Field := ⟨A.SEQ_Pj_EN j, 4, 1⟩
def F.SEQ_Pj_OUTERR_V (j : Nat) : Field := ⟨A.SEQ_Pj_OUTERR j, 0, 32⟩
def F.SEQ_Pj_CMDERR_STATUS (j : Nat) : Field := ⟨A.SEQ_Pj_CMDERR j, 0, 8⟩
def F.SEQ_Pj_CMDERR_UNIT (j : Nat) : Field := ⟨A.SEQ_Pj_CMDERR j, 8, 8⟩
def F.SEQ_Pj_CMDERR_OP (j : Nat) : Field := ⟨A.SEQ_Pj_CMDERR j, 16, 8⟩
def F.SEQ_Pj_ROLLBACKS_V (j : Nat) : Field := ⟨A.SEQ_Pj_ROLLBACKS j, 0, 32⟩
def F.SEQ_Pj_FAILRETRY_V (j : Nat) : Field := ⟨A.SEQ_Pj_FAILRETRY j, 0, 32⟩
def F.SEQ_Pj_KSEL_V (j : Nat) : Field := ⟨A.SEQ_Pj_KSEL j, 0, 5⟩
def F.SEQ_Pj_KDATA_V (j : Nat) : Field := ⟨A.SEQ_Pj_KDATA j, 0, 32⟩
def F.SEQ_Pj_BRK0_EN (j : Nat) : Field := ⟨A.SEQ_Pj_BRK0 j, 0, 1⟩
def F.SEQ_Pj_BRK0_ADDR (j : Nat) : Field := ⟨A.SEQ_Pj_BRK0 j, 2, 30⟩
def F.SEQ_Pj_BRK1_EN (j : Nat) : Field := ⟨A.SEQ_Pj_BRK1 j, 0, 1⟩
def F.SEQ_Pj_BRK1_ADDR (j : Nat) : Field := ⟨A.SEQ_Pj_BRK1 j, 2, 30⟩
def F.DMA_STATUS_V : Field := ⟨A.DMA_STATUS, 0, 9⟩
def F.DMA_RL_BASE_V : Field := ⟨A.DMA_RL_BASE, 0, 17⟩
def F.DMA_PWR_BLOCK0_V : Field := ⟨A.DMA_PWR_BLOCK0, 0, 32⟩
def F.DMA_PWR_BLOCK1_V : Field := ⟨A.DMA_PWR_BLOCK1, 0, 16⟩
def F.DMA_Cc_RING_LO_V (c : Nat) : Field := ⟨A.DMA_Cc_RING_LO c, 0, 32⟩
def F.DMA_Cc_RING_HI_V (c : Nat) : Field := ⟨A.DMA_Cc_RING_HI c, 0, 32⟩
def F.DMA_Cc_RING_SIZE_V (c : Nat) : Field := ⟨A.DMA_Cc_RING_SIZE c, 0, 13⟩
def F.DMA_Cc_HEAD_V (c : Nat) : Field := ⟨A.DMA_Cc_HEAD c, 0, 12⟩
def F.DMA_Cc_RATE_SHARE (c : Nat) : Field := ⟨A.DMA_Cc_RATE c, 0, 9⟩
def F.DMA_Cc_RATE_BURST (c : Nat) : Field := ⟨A.DMA_Cc_RATE c, 16, 11⟩
def F.DMA_Cc_STATUS_STATE (c : Nat) : Field := ⟨A.DMA_Cc_STATUS c, 0, 3⟩
def F.DMA_Cc_STATUS_LAST (c : Nat) : Field := ⟨A.DMA_Cc_STATUS c, 8, 8⟩
def F.DMA_Cc_STATUS_READS (c : Nat) : Field := ⟨A.DMA_Cc_STATUS c, 16, 6⟩
def F.DMA_Cc_CAUSE_FULL (c : Nat) : Field := ⟨A.DMA_Cc_CAUSE c, 0, 1⟩
def F.DMA_Cc_CAUSE_HALF (c : Nat) : Field := ⟨A.DMA_Cc_CAUSE c, 1, 1⟩
def F.DMA_Cc_CAUSE_ABORTED (c : Nat) : Field := ⟨A.DMA_Cc_CAUSE c, 2, 1⟩
def F.DMA_Cc_CAUSE_HALTED (c : Nat) : Field := ⟨A.DMA_Cc_CAUSE c, 3, 1⟩
def F.DMA_Cc_CAUSE_EMPTY (c : Nat) : Field := ⟨A.DMA_Cc_CAUSE c, 4, 1⟩
def F.DMA_Cc_CAUSE_DOMAIN (c : Nat) : Field := ⟨A.DMA_Cc_CAUSE c, 5, 1⟩
def F.DMA_Cc_EN_FULL (c : Nat) : Field := ⟨A.DMA_Cc_EN c, 0, 1⟩
def F.DMA_Cc_EN_HALF (c : Nat) : Field := ⟨A.DMA_Cc_EN c, 1, 1⟩
def F.DMA_Cc_EN_ABORTED (c : Nat) : Field := ⟨A.DMA_Cc_EN c, 2, 1⟩
def F.DMA_Cc_EN_HALTED (c : Nat) : Field := ⟨A.DMA_Cc_EN c, 3, 1⟩
def F.DMA_Cc_EN_EMPTY (c : Nat) : Field := ⟨A.DMA_Cc_EN c, 4, 1⟩
def F.DMA_Cc_EN_DOMAIN (c : Nat) : Field := ⟨A.DMA_Cc_EN c, 5, 1⟩
def F.DMA_Cc_RESIDUE_V (c : Nat) : Field := ⟨A.DMA_Cc_RESIDUE c, 0, 32⟩
def F.DMA_Cc_ERRADDR_LO_V (c : Nat) : Field := ⟨A.DMA_Cc_ERRADDR_LO c, 0, 32⟩
def F.DMA_Cc_ERRADDR_HI_V (c : Nat) : Field := ⟨A.DMA_Cc_ERRADDR_HI c, 0, 32⟩
def F.DMA_Cc_DESCS_V (c : Nat) : Field := ⟨A.DMA_Cc_DESCS c, 0, 32⟩
def F.DMA_Cc_KBYTES_V (c : Nat) : Field := ⟨A.DMA_Cc_KBYTES c, 0, 32⟩
def F.DMA_Cc_RETRIES_V (c : Nat) : Field := ⟨A.DMA_Cc_RETRIES c, 0, 32⟩
def F.MEM_EN_CE : Field := ⟨A.MEM_EN, 0, 1⟩
def F.MEM_EN_UE : Field := ⟨A.MEM_EN, 1, 1⟩
def F.MEM_EN_REPAIRED : Field := ⟨A.MEM_EN, 2, 1⟩
def F.MEM_EN_NO_SPARE : Field := ⟨A.MEM_EN, 3, 1⟩
def F.MEM_EN_LOST : Field := ⟨A.MEM_EN, 4, 1⟩
def F.MEM_EN_UNPOWERED : Field := ⟨A.MEM_EN, 5, 1⟩
def F.MEM_EN_WIPE_DONE : Field := ⟨A.MEM_EN, 6, 1⟩
def F.MEM_UE_BANK_V : Field := ⟨A.MEM_UE_BANK, 0, 7⟩
def F.MEM_UE_ADDR_V : Field := ⟨A.MEM_UE_ADDR, 3, 17⟩
def F.MEM_UNPWR_V : Field := ⟨A.MEM_UNPWR, 0, 32⟩
def F.MEM_UNPWR_ADDR_V : Field := ⟨A.MEM_UNPWR_ADDR, 0, 32⟩
def F.MEM_LOST_LAST_V : Field := ⟨A.MEM_LOST_LAST, 0, 7⟩
def F.MEM_BANK_SEL_V : Field := ⟨A.MEM_BANK_SEL, 0, 7⟩
def F.MEM_BANK_STATUS_POWER : Field := ⟨A.MEM_BANK_STATUS, 0, 2⟩
def F.MEM_BANK_STATUS_LOST : Field := ⟨A.MEM_BANK_STATUS, 2, 1⟩
def F.MEM_BANK_STATUS_DEGRADED : Field := ⟨A.MEM_BANK_STATUS, 3, 1⟩
def F.MEM_BANK_STATUS_WIPING : Field := ⟨A.MEM_BANK_STATUS, 4, 1⟩
def F.MEM_BANK_STATUS_BT_ACTIVE : Field := ⟨A.MEM_BANK_STATUS, 5, 1⟩
def F.MEM_BANK_CE_V : Field := ⟨A.MEM_BANK_CE, 0, 32⟩
def F.MEM_BANK_UE_V : Field := ⟨A.MEM_BANK_UE, 0, 32⟩
def F.MEM_BANK_COLL_V : Field := ⟨A.MEM_BANK_COLL, 0, 32⟩
def F.MEM_BANK_BTPASS_V : Field := ⟨A.MEM_BANK_BTPASS, 0, 32⟩
def F.MEM_BANK_SIG_V : Field := ⟨A.MEM_BANK_SIG, 0, 32⟩
def F.MEM_RET_SELw_V (w : Nat) : Field := ⟨A.MEM_RET_SELw w, 0, 32⟩
def F.MEM_LOSTw_V (w : Nat) : Field := ⟨A.MEM_LOSTw w, 0, 32⟩
def F.MEM_WIPE_V : Field := ⟨A.MEM_WIPE, 0, 7⟩
def F.MEM_WIPE_STATUS_STATUS : Field := ⟨A.MEM_WIPE_STATUS, 0, 8⟩
def F.MEM_WIPE_STATUS_BUSY : Field := ⟨A.MEM_WIPE_STATUS, 8, 1⟩
def F.MEM_SOFTREPn_V (n : Nat) : Field := ⟨A.MEM_SOFTREPn n, 0, 32⟩
def F.SYS_UID_LO_V : Field := ⟨A.SYS_UID_LO, 0, 32⟩
def F.SYS_UID_HI_V : Field := ⟨A.SYS_UID_HI, 0, 32⟩
def F.SYS_VLOG_NEXT_V : Field := ⟨A.SYS_VLOG_NEXT, 0, 16⟩
def F.SYS_VLOG_SUPP_V : Field := ⟨A.SYS_VLOG_SUPP, 0, 32⟩
def F.SYS_CAUSE_VIOLATION : Field := ⟨A.SYS_CAUSE, 0, 1⟩
def F.SYS_EN_VIOLATION : Field := ⟨A.SYS_EN, 0, 1⟩
def F.SYS_VLOG_V (e w : Nat) : Field := ⟨A.SYS_VLOG e w, 0, 32⟩
def F.SYS_HL_EN_LINK_UP : Field := ⟨A.SYS_HL_EN, 0, 1⟩
def F.SYS_HL_EN_LINK_DOWN : Field := ⟨A.SYS_HL_EN, 1, 1⟩
def F.SYS_HL_EN_RETRAIN : Field := ⟨A.SYS_HL_EN, 2, 1⟩
def F.SYS_HL_EN_PTM_DONE : Field := ⟨A.SYS_HL_EN, 3, 1⟩
def F.SYS_HL_EN_PTM_FAIL : Field := ⟨A.SYS_HL_EN, 4, 1⟩
def F.SYS_HL_EN_DSTATE : Field := ⟨A.SYS_HL_EN, 5, 1⟩
def F.SYS_HL_PTM_SEQ_V : Field := ⟨A.SYS_HL_PTM_SEQ, 0, 16⟩
def F.SYS_HL_PTM_T1_LO_V : Field := ⟨A.SYS_HL_PTM_T1_LO, 0, 32⟩
def F.SYS_HL_PTM_T1_HI_V : Field := ⟨A.SYS_HL_PTM_T1_HI, 0, 32⟩
def F.SYS_HL_PTM_T4_LO_V : Field := ⟨A.SYS_HL_PTM_T4_LO, 0, 32⟩
def F.SYS_HL_PTM_T4_HI_V : Field := ⟨A.SYS_HL_PTM_T4_HI, 0, 32⟩
def F.SYS_HL_PTM_T1P_LO_V : Field := ⟨A.SYS_HL_PTM_T1P_LO, 0, 32⟩
def F.SYS_HL_PTM_T1P_HI_V : Field := ⟨A.SYS_HL_PTM_T1P_HI, 0, 32⟩
def F.SYS_HL_PTM_T4P_LO_V : Field := ⟨A.SYS_HL_PTM_T4P_LO, 0, 32⟩
def F.SYS_HL_PTM_T4P_HI_V : Field := ⟨A.SYS_HL_PTM_T4P_HI, 0, 32⟩
def F.SYS_HL_PTM_MT_LO_V : Field := ⟨A.SYS_HL_PTM_MT_LO, 0, 32⟩
def F.SYS_HL_PTM_MT_HI_V : Field := ⟨A.SYS_HL_PTM_MT_HI, 0, 32⟩
def F.SYS_HL_PTM_PD_V : Field := ⟨A.SYS_HL_PTM_PD, 0, 32⟩
def F.SYS_HL_RETRAINS_V : Field := ⟨A.SYS_HL_RETRAINS, 0, 32⟩
def F.SYS_HL_CORR_V : Field := ⟨A.SYS_HL_CORR, 0, 32⟩
def F.SYS_HL_UNCORR_V : Field := ⟨A.SYS_HL_UNCORR, 0, 32⟩
def F.EVT_PENDw_V (w : Nat) : Field := ⟨A.EVT_PENDw w, 0, 32⟩
def F.EVT_MSIX_TABLE_V (v w : Nat) : Field := ⟨A.EVT_MSIX_TABLE v w, 0, 32⟩
def F.EVT_PBA_V (w : Nat) : Field := ⟨A.EVT_PBA w, 0, 32⟩
def F.DPT_ADDR_V : Field := ⟨A.DPT_ADDR, 0, 32⟩
def F.DPT_CTL_MODE : Field := ⟨A.DPT_CTL, 0, 2⟩
def F.DPT_STRIDE_V : Field := ⟨A.DPT_STRIDE, 0, 32⟩
def F.DPT_STATUS_LAST : Field := ⟨A.DPT_STATUS, 0, 8⟩
def F.DPT_STATUS_BUSY : Field := ⟨A.DPT_STATUS, 8, 1⟩
def F.DPT_ACCESSES_V : Field := ⟨A.DPT_ACCESSES, 0, 32⟩
def F.DPT_ERRORS_V : Field := ⟨A.DPT_ERRORS, 0, 32⟩
def F.MGT_STATUS_BUSY : Field := ⟨A.MGT_STATUS, 0, 1⟩
def F.MGT_STATUS_STATUS : Field := ⟨A.MGT_STATUS, 8, 8⟩
def F.MGT_REQUESTS_V : Field := ⟨A.MGT_REQUESTS, 0, 32⟩
def F.MGT_CRC_ERRS_V : Field := ⟨A.MGT_CRC_ERRS, 0, 32⟩
def F.MGT_ABORTS_V : Field := ⟨A.MGT_ABORTS, 0, 32⟩
def F.MGT_WAKES_V : Field := ⟨A.MGT_WAKES, 0, 32⟩
def F.CLK_TS_LO_V : Field := ⟨A.CLK_TS_LO, 0, 32⟩
def F.CLK_TS_HI_V : Field := ⟨A.CLK_TS_HI, 0, 32⟩
def F.CLK_TRAIN_OK_V : Field := ⟨A.CLK_TRAIN_OK, 0, 32⟩
def F.CLK_TRAIN_CTL_V : Field := ⟨A.CLK_TRAIN_CTL, 0, 32⟩
def F.CLK_TRAIN_TAP_V : Field := ⟨A.CLK_TRAIN_TAP, 0, 6⟩
def F.CLK_TRAIN_SEL_V : Field := ⟨A.CLK_TRAIN_SEL, 0, 5⟩
def F.CLK_EN_HOST_UNLOCK : Field := ⟨A.CLK_EN, 0, 1⟩
def F.CLK_EN_XTAL_FAIL : Field := ⟨A.CLK_EN, 1, 1⟩
def F.CLK_EN_TRAIN_FAIL : Field := ⟨A.CLK_EN, 2, 1⟩
def F.CLK_EN_RETRAIN_REFUSED : Field := ⟨A.CLK_EN, 3, 1⟩
def F.CLK_EN_TRAINED : Field := ⟨A.CLK_EN, 4, 1⟩
def F.RST_LAST_V : Field := ⟨A.RST_LAST, 0, 4⟩
def F.RST_SEQ_TIME_V : Field := ⟨A.RST_SEQ_TIME, 0, 16⟩
def F.RST_WARM_COUNT_V : Field := ⟨A.RST_WARM_COUNT, 0, 32⟩
def F.PWR_DOM_STATUS_V : Field := ⟨A.PWR_DOM_STATUS, 0, 13⟩
def F.PWR_WAKE_EN_V : Field := ⟨A.PWR_WAKE_EN, 0, 14⟩
def F.PWR_RET_LIMIT_V : Field := ⟨A.PWR_RET_LIMIT, 0, 12⟩
def F.PWR_RET_LOAD_V : Field := ⟨A.PWR_RET_LOAD, 0, 16⟩
def F.PWR_RESUME_PC_V : Field := ⟨A.PWR_RESUME_PC, 0, 32⟩
def F.PWR_RESUME_SP_V : Field := ⟨A.PWR_RESUME_SP, 0, 32⟩
def F.PWR_TIMES_ENTRY : Field := ⟨A.PWR_TIMES, 0, 16⟩
def F.PWR_TIMES_EXIT : Field := ⟨A.PWR_TIMES, 16, 16⟩
def F.PWR_EN_ENTERED : Field := ⟨A.PWR_EN, 0, 1⟩
def F.PWR_EN_EXITED : Field := ⟨A.PWR_EN, 1, 1⟩
def F.PWR_EN_ABANDONED : Field := ⟨A.PWR_EN, 2, 1⟩
def F.PWR_EN_REFUSED : Field := ⟨A.PWR_EN, 3, 1⟩
def F.PWR_EN_BLOCKED_WRITE : Field := ⟨A.PWR_EN, 4, 1⟩
def F.PWR_EN_DOM_DONE : Field := ⟨A.PWR_EN, 5, 1⟩
def F.PWR_ENTRIES_V : Field := ⟨A.PWR_ENTRIES, 0, 32⟩
def F.PWR_ABANDONS_V : Field := ⟨A.PWR_ABANDONS, 0, 32⟩
def F.PWR_REFUSALS_V : Field := ⟨A.PWR_REFUSALS, 0, 32⟩
def F.PWR_BLOCKED_V : Field := ⟨A.PWR_BLOCKED, 0, 32⟩
def F.OTP_DATA_V : Field := ⟨A.OTP_DATA, 0, 32⟩
def F.OTP_MLOW0_V : Field := ⟨A.OTP_MLOW0, 0, 32⟩
def F.OTP_MHIGH0_V : Field := ⟨A.OTP_MHIGH0, 0, 32⟩
def F.OTP_MLOW1_V : Field := ⟨A.OTP_MLOW1, 0, 32⟩
def F.OTP_MHIGH1_V : Field := ⟨A.OTP_MHIGH1, 0, 32⟩
def F.OTP_REGIONr_S0 (r : Nat) : Field := ⟨A.OTP_REGIONr r, 0, 2⟩
def F.OTP_REGIONr_S1 (r : Nat) : Field := ⟨A.OTP_REGIONr r, 2, 2⟩
def F.OTP_REGIONr_SEL (r : Nat) : Field := ⟨A.OTP_REGIONr r, 4, 2⟩
def F.OTP_INTEG_KEYS : Field := ⟨A.OTP_INTEG, 0, 1⟩
def F.OTP_INTEG_OTHER : Field := ⟨A.OTP_INTEG, 1, 1⟩
def F.OTP_INTEG_INCOMPLETE : Field := ⟨A.OTP_INTEG, 2, 1⟩
def F.OTP_INTEG_LC_PARTIAL : Field := ⟨A.OTP_INTEG, 3, 1⟩
def F.OTP_CNTk_V (k : Nat) : Field := ⟨A.OTP_CNTk k, 0, 8⟩
def F.OTP_WORDS_BURNED_V : Field := ⟨A.OTP_WORDS_BURNED, 0, 32⟩
def F.OTP_EN_DONE : Field := ⟨A.OTP_EN, 0, 1⟩
def F.OTP_EN_WEAK : Field := ⟨A.OTP_EN, 1, 1⟩
def F.OTP_EN_INTEGRITY : Field := ⟨A.OTP_EN, 2, 1⟩
def F.OTP_EN_REJECTED : Field := ⟨A.OTP_EN, 3, 1⟩
def F.OTP_WORDw_V (w : Nat) : Field := ⟨A.OTP_WORDw w, 0, 32⟩

/-! ## The table -/

def sysKinds0 : List RegKind := [
  ⟨A.SYS_ID, [], [⟨0, 8, .ro, 0x1⟩, ⟨8, 8, .ro, 0xA⟩, ⟨16, 16, .ro, 0x9860⟩]⟩, -- SYS_ID
  ⟨A.SYS_HL_STATUS, [], [⟨0, 1, .ro, 0x0⟩, ⟨1, 3, .ro, 0x0⟩, ⟨4, 5, .ro, 0x0⟩, ⟨9, 1, .ro, 0x0⟩, ⟨10, 1, .ro, 0x0⟩, ⟨11, 1, .ro, 0x0⟩]⟩, -- SYS_HL_STATUS
  ⟨A.SYS_HL_CAUSE, [], [⟨0, 1, .w1c, 0x0⟩, ⟨1, 1, .w1c, 0x0⟩, ⟨2, 1, .w1c, 0x0⟩, ⟨3, 1, .w1c, 0x0⟩, ⟨4, 1, .w1c, 0x0⟩, ⟨5, 1, .w1c, 0x0⟩]⟩, -- SYS_HL_CAUSE
  ⟨A.SYS_HL_PTM_CTL, [], [⟨0, 1, .rw, 0x0⟩, ⟨1, 1, .wo, 0x0⟩, ⟨8, 16, .rw, 0x0⟩]⟩, -- SYS_HL_PTM_CTL
  ⟨A.SYS_LC, [], [⟨0, 3, .ro, 0x0⟩, ⟨3, 1, .ro, 0x0⟩, ⟨4, 4, .ro, 0x0⟩]⟩, -- SYS_LC
  ⟨A.SYS_UID_LO, [], [⟨0, 32, .ro, 0x0⟩]⟩, -- SYS_UID_LO
  ⟨A.SYS_UID_HI, [], [⟨0, 32, .ro, 0x0⟩]⟩, -- SYS_UID_HI
  ⟨A.SYS_VLOG_NEXT, [], [⟨0, 16, .ro, 0x0⟩]⟩, -- SYS_VLOG_NEXT
  ⟨A.SYS_VLOG_SUPP, [], [⟨0, 32, .rc, 0x0⟩]⟩, -- SYS_VLOG_SUPP
  ⟨A.SYS_CAUSE, [], [⟨0, 1, .w1c, 0x0⟩]⟩, -- SYS_CAUSE
  ⟨A.SYS_EN, [], [⟨0, 1, .rw, 0x0⟩]⟩, -- SYS_EN
  ⟨A.SYS_VLOG 0 0, [(64, 0x10), (4, 0x4)], [⟨0, 32, .ro, 0x0⟩]⟩, -- SYS_VLOG
  ⟨A.SYS_HL_EN, [], [⟨0, 1, .rw, 0x0⟩, ⟨1, 1, .rw, 0x0⟩, ⟨2, 1, .rw, 0x0⟩, ⟨3, 1, .rw, 0x0⟩, ⟨4, 1, .rw, 0x0⟩, ⟨5, 1, .rw, 0x0⟩]⟩, -- SYS_HL_EN
  ⟨A.SYS_HL_PTM_SEQ, [], [⟨0, 16, .ro, 0x0⟩]⟩, -- SYS_HL_PTM_SEQ
  ⟨A.SYS_HL_PTM_T1_LO, [], [⟨0, 32, .ro, 0x0⟩]⟩, -- SYS_HL_PTM_T1_LO
  ⟨A.SYS_HL_PTM_T1_HI, [], [⟨0, 32, .ro, 0x0⟩]⟩, -- SYS_HL_PTM_T1_HI
  ⟨A.SYS_HL_PTM_T4_LO, [], [⟨0, 32, .ro, 0x0⟩]⟩, -- SYS_HL_PTM_T4_LO
  ⟨A.SYS_HL_PTM_T4_HI, [], [⟨0, 32, .ro, 0x0⟩]⟩, -- SYS_HL_PTM_T4_HI
  ⟨A.SYS_HL_PTM_T1P_LO, [], [⟨0, 32, .ro, 0x0⟩]⟩, -- SYS_HL_PTM_T1P_LO
  ⟨A.SYS_HL_PTM_T1P_HI, [], [⟨0, 32, .ro, 0x0⟩]⟩, -- SYS_HL_PTM_T1P_HI
  ⟨A.SYS_HL_PTM_T4P_LO, [], [⟨0, 32, .ro, 0x0⟩]⟩, -- SYS_HL_PTM_T4P_LO
  ⟨A.SYS_HL_PTM_T4P_HI, [], [⟨0, 32, .ro, 0x0⟩]⟩, -- SYS_HL_PTM_T4P_HI
  ⟨A.SYS_HL_PTM_MT_LO, [], [⟨0, 32, .ro, 0x0⟩]⟩, -- SYS_HL_PTM_MT_LO
  ⟨A.SYS_HL_PTM_MT_HI, [], [⟨0, 32, .ro, 0x0⟩]⟩, -- SYS_HL_PTM_MT_HI
  ⟨A.SYS_HL_PTM_PD, [], [⟨0, 32, .ro, 0x0⟩]⟩, -- SYS_HL_PTM_PD
  ⟨A.SYS_HL_RETRAINS, [], [⟨0, 32, .rc, 0x0⟩]⟩, -- SYS_HL_RETRAINS
  ⟨A.SYS_HL_CORR, [], [⟨0, 32, .rc, 0x0⟩]⟩, -- SYS_HL_CORR
  ⟨A.SYS_HL_UNCORR, [], [⟨0, 32, .rc, 0x0⟩]⟩ -- SYS_HL_UNCORR
]

/-- The register kinds of block SYS. -/
def sysKinds : List RegKind := sysKinds0

def pwrKinds0 : List RegKind := [
  ⟨A.PWR_REQ, [], [⟨0, 2, .wo, 0x0⟩, ⟨4, 1, .wo, 0x0⟩]⟩, -- PWR_REQ
  ⟨A.PWR_STATUS, [], [⟨0, 2, .ro, 0x0⟩, ⟨2, 3, .ro, 0x0⟩, ⟨5, 1, .ro, 0x0⟩, ⟨8, 8, .ro, 0x0⟩, ⟨16, 4, .ro, 0x0⟩]⟩, -- PWR_STATUS
  ⟨A.PWR_DOM_CTL, [], [⟨0, 8, .rw, 0xFF⟩, ⟨8, 1, .rw, 0x1⟩, ⟨9, 1, .rw, 0x1⟩, ⟨10, 1, .rw, 0x1⟩, ⟨16, 1, .wo, 0x0⟩]⟩, -- PWR_DOM_CTL
  ⟨A.PWR_WAKE_CFG, [], [⟨0, 4, .rw, 0x4⟩, ⟨4, 4, .rw, 0x0⟩, ⟨8, 8, .rw, 0x5F⟩]⟩, -- PWR_WAKE_CFG
  ⟨A.PWR_WAKE_SRC, [], [⟨0, 14, .w1c, 0x0⟩, ⟨16, 1, .w1c, 0x0⟩, ⟨17, 1, .w1c, 0x0⟩]⟩, -- PWR_WAKE_SRC
  ⟨A.PWR_CAUSE, [], [⟨0, 1, .w1c, 0x0⟩, ⟨1, 1, .w1c, 0x0⟩, ⟨2, 1, .w1c, 0x0⟩, ⟨3, 1, .w1c, 0x0⟩, ⟨4, 1, .w1c, 0x0⟩, ⟨5, 1, .w1c, 0x0⟩]⟩, -- PWR_CAUSE
  ⟨A.PWR_DOM_STATUS, [], [⟨0, 13, .ro, 0x1FFF⟩]⟩, -- PWR_DOM_STATUS
  ⟨A.PWR_WAKE_EN, [], [⟨0, 14, .rw, 0x7⟩]⟩, -- PWR_WAKE_EN
  ⟨A.PWR_RET_LIMIT, [], [⟨0, 12, .rw, 0xA28⟩]⟩, -- PWR_RET_LIMIT
  ⟨A.PWR_RET_LOAD, [], [⟨0, 16, .ro, 0x0⟩]⟩, -- PWR_RET_LOAD
  ⟨A.PWR_RESUME_PC, [], [⟨0, 32, .rw, 0x0⟩]⟩, -- PWR_RESUME_PC
  ⟨A.PWR_RESUME_SP, [], [⟨0, 32, .rw, 0x10020000⟩]⟩, -- PWR_RESUME_SP
  ⟨A.PWR_TIMES, [], [⟨0, 16, .ro, 0x0⟩, ⟨16, 16, .ro, 0x0⟩]⟩, -- PWR_TIMES
  ⟨A.PWR_EN, [], [⟨0, 1, .rw, 0x0⟩, ⟨1, 1, .rw, 0x0⟩, ⟨2, 1, .rw, 0x0⟩, ⟨3, 1, .rw, 0x0⟩, ⟨4, 1, .rw, 0x0⟩, ⟨5, 1, .rw, 0x0⟩]⟩, -- PWR_EN
  ⟨A.PWR_ENTRIES, [], [⟨0, 32, .rc, 0x0⟩]⟩, -- PWR_ENTRIES
  ⟨A.PWR_ABANDONS, [], [⟨0, 32, .rc, 0x0⟩]⟩, -- PWR_ABANDONS
  ⟨A.PWR_REFUSALS, [], [⟨0, 32, .rc, 0x0⟩]⟩, -- PWR_REFUSALS
  ⟨A.PWR_BLOCKED, [], [⟨0, 32, .rc, 0x0⟩]⟩ -- PWR_BLOCKED
]

/-- The register kinds of block PWR. -/
def pwrKinds : List RegKind := pwrKinds0

def clkKinds0 : List RegKind := [
  ⟨A.CLK_STATUS, [], [⟨0, 1, .ro, 0x0⟩, ⟨1, 1, .ro, 0x0⟩, ⟨2, 1, .ro, 0x0⟩, ⟨3, 1, .ro, 0x0⟩, ⟨4, 1, .ro, 0x0⟩, ⟨5, 2, .ro, 0x0⟩]⟩, -- CLK_STATUS
  ⟨A.CLK_CFG, [], [⟨0, 1, .rw, 0x0⟩]⟩, -- CLK_CFG
  ⟨A.CLK_CAUSE, [], [⟨0, 1, .w1c, 0x0⟩, ⟨1, 1, .w1c, 0x0⟩, ⟨2, 1, .w1c, 0x0⟩, ⟨3, 1, .w1c, 0x0⟩, ⟨4, 1, .w1c, 0x0⟩]⟩, -- CLK_CAUSE
  ⟨A.CLK_TS_LO, [], [⟨0, 32, .ro, 0x0⟩]⟩, -- CLK_TS_LO
  ⟨A.CLK_TS_HI, [], [⟨0, 32, .ro, 0x0⟩]⟩, -- CLK_TS_HI
  ⟨A.CLK_TRAIN_OK, [], [⟨0, 32, .ro, 0x0⟩]⟩, -- CLK_TRAIN_OK
  ⟨A.CLK_TRAIN_CTL, [], [⟨0, 32, .wo, 0x0⟩]⟩, -- CLK_TRAIN_CTL
  ⟨A.CLK_TRAIN_TAP, [], [⟨0, 6, .ro, 0x0⟩]⟩, -- CLK_TRAIN_TAP
  ⟨A.CLK_TRAIN_SEL, [], [⟨0, 5, .rw, 0x0⟩]⟩, -- CLK_TRAIN_SEL
  ⟨A.CLK_EN, [], [⟨0, 1, .rw, 0x0⟩, ⟨1, 1, .rw, 0x0⟩, ⟨2, 1, .rw, 0x0⟩, ⟨3, 1, .rw, 0x0⟩, ⟨4, 1, .rw, 0x0⟩]⟩ -- CLK_EN
]

/-- The register kinds of block CLK. -/
def clkKinds : List RegKind := clkKinds0

def rstKinds0 : List RegKind := [
  ⟨A.RST_CTL, [], [⟨0, 1, .wo, 0x0⟩, ⟨8, 8, .wo, 0x0⟩]⟩, -- RST_CTL
  ⟨A.RST_CAUSE, [], [⟨0, 1, .w1c, 0x1⟩, ⟨1, 1, .w1c, 0x0⟩, ⟨2, 1, .w1c, 0x0⟩, ⟨3, 1, .w1c, 0x0⟩, ⟨4, 1, .w1c, 0x0⟩, ⟨5, 1, .w1c, 0x0⟩, ⟨6, 1, .w1c, 0x0⟩, ⟨7, 1, .w1c, 0x0⟩, ⟨8, 1, .w1c, 0x0⟩]⟩, -- RST_CAUSE
  ⟨A.RST_LAST, [], [⟨0, 4, .ro, 0x1⟩]⟩, -- RST_LAST
  ⟨A.RST_SEQ_TIME, [], [⟨0, 16, .ro, 0x0⟩]⟩, -- RST_SEQ_TIME
  ⟨A.RST_WARM_COUNT, [], [⟨0, 32, .ro, 0x0⟩]⟩ -- RST_WARM_COUNT
]

/-- The register kinds of block RST. -/
def rstKinds : List RegKind := rstKinds0

def otpKinds0 : List RegKind := [
  ⟨A.OTP_CMD, [], [⟨0, 4, .wo, 0x0⟩, ⟨4, 1, .wo, 0x0⟩, ⟨8, 10, .wo, 0x0⟩, ⟨18, 3, .wo, 0x0⟩, ⟨21, 1, .wo, 0x0⟩, ⟨22, 2, .wo, 0x0⟩, ⟨24, 8, .wo, 0x0⟩]⟩, -- OTP_CMD
  ⟨A.OTP_STATUS, [], [⟨0, 1, .ro, 0x0⟩, ⟨1, 3, .ro, 0x0⟩, ⟨8, 8, .ro, 0x0⟩]⟩, -- OTP_STATUS
  ⟨A.OTP_CAUSE, [], [⟨0, 1, .w1c, 0x0⟩, ⟨1, 1, .w1c, 0x0⟩, ⟨2, 1, .w1c, 0x0⟩, ⟨3, 1, .w1c, 0x0⟩]⟩, -- OTP_CAUSE
  ⟨A.OTP_DATA, [], [⟨0, 32, .rw, 0x0⟩]⟩, -- OTP_DATA
  ⟨A.OTP_MLOW0, [], [⟨0, 32, .ro, 0x0⟩]⟩, -- OTP_MLOW0
  ⟨A.OTP_MHIGH0, [], [⟨0, 32, .ro, 0x0⟩]⟩, -- OTP_MHIGH0
  ⟨A.OTP_MLOW1, [], [⟨0, 32, .ro, 0x0⟩]⟩, -- OTP_MLOW1
  ⟨A.OTP_MHIGH1, [], [⟨0, 32, .ro, 0x0⟩]⟩, -- OTP_MHIGH1
  ⟨A.OTP_REGIONr 0, [(6, 0x4)], [⟨0, 2, .ro, 0x0⟩, ⟨2, 2, .ro, 0x0⟩, ⟨4, 2, .ro, 0x0⟩]⟩, -- OTP_REGIONr
  ⟨A.OTP_INTEG, [], [⟨0, 1, .ro, 0x0⟩, ⟨1, 1, .ro, 0x0⟩, ⟨2, 1, .ro, 0x0⟩, ⟨3, 1, .ro, 0x0⟩]⟩, -- OTP_INTEG
  ⟨A.OTP_CNTk 0, [(4, 0x4)], [⟨0, 8, .ro, 0x0⟩]⟩, -- OTP_CNTk
  ⟨A.OTP_WORDS_BURNED, [], [⟨0, 32, .rc, 0x0⟩]⟩, -- OTP_WORDS_BURNED
  ⟨A.OTP_EN, [], [⟨0, 1, .rw, 0x0⟩, ⟨1, 1, .rw, 0x0⟩, ⟨2, 1, .rw, 0x0⟩, ⟨3, 1, .rw, 0x0⟩]⟩, -- OTP_EN
  ⟨A.OTP_WORDw 0, [(1024, 0x4)], [⟨0, 32, .ro, 0x0⟩]⟩ -- OTP_WORDw
]

/-- The register kinds of block OTP. -/
def otpKinds : List RegKind := otpKinds0

def evtKinds0 : List RegKind := [
  ⟨A.EVT_MAPe 0, [(256, 0x4)], [⟨0, 6, .rw, 0x0⟩, ⟨6, 1, .rw, 0x0⟩, ⟨8, 4, .rw, 0x0⟩]⟩, -- EVT_MAPe
  ⟨A.EVT_PENDw 0, [(8, 0x4)], [⟨0, 32, .w1c, 0x0⟩]⟩, -- EVT_PENDw
  ⟨A.EVT_MSIX_TABLE 0 0, [(64, 0x10), (4, 0x4)], [⟨0, 32, .rw, 0x0⟩]⟩, -- EVT_MSIX_TABLE
  ⟨A.EVT_PBA 0, [(2, 0x4)], [⟨0, 32, .ro, 0x0⟩]⟩ -- EVT_PBA
]

/-- The register kinds of block EVT. -/
def evtKinds : List RegKind := evtKinds0

def dmaKinds0 : List RegKind := [
  ⟨A.DMA_Cc_CTL 0, [(48, 0x40)], [⟨0, 1, .wo, 0x0⟩, ⟨1, 1, .wo, 0x0⟩, ⟨2, 1, .wo, 0x0⟩]⟩, -- DMA_Cc_CTL
  ⟨A.DMA_Cc_CFG 0, [(48, 0x40)], [⟨0, 6, .rw, 0x20⟩, ⟨8, 3, .rw, 0x3⟩, ⟨11, 1, .rw, 0x0⟩, ⟨12, 1, .rw, 0x0⟩, ⟨13, 3, .rw, 0x2⟩, ⟨16, 16, .rw, 0x0⟩]⟩, -- DMA_Cc_CFG
  ⟨A.DMA_STATUS, [], [⟨0, 9, .ro, 0x0⟩]⟩, -- DMA_STATUS
  ⟨A.DMA_RL_BASE, [], [⟨0, 17, .rw, 0x0⟩]⟩, -- DMA_RL_BASE
  ⟨A.DMA_PWR_BLOCK0, [], [⟨0, 32, .ro, 0x0⟩]⟩, -- DMA_PWR_BLOCK0
  ⟨A.DMA_PWR_BLOCK1, [], [⟨0, 16, .ro, 0x0⟩]⟩, -- DMA_PWR_BLOCK1
  ⟨A.DMA_Cc_RING_LO 0, [(48, 0x40)], [⟨0, 32, .rw, 0x0⟩]⟩, -- DMA_Cc_RING_LO
  ⟨A.DMA_Cc_RING_HI 0, [(48, 0x40)], [⟨0, 32, .rw, 0x0⟩]⟩, -- DMA_Cc_RING_HI
  ⟨A.DMA_Cc_RING_SIZE 0, [(48, 0x40)], [⟨0, 13, .rw, 0x2⟩]⟩, -- DMA_Cc_RING_SIZE
  ⟨A.DMA_Cc_HEAD 0, [(48, 0x40)], [⟨0, 12, .rw, 0x0⟩]⟩, -- DMA_Cc_HEAD
  ⟨A.DMA_Cc_RATE 0, [(48, 0x40)], [⟨0, 9, .rw, 0x0⟩, ⟨16, 11, .rw, 0x10⟩]⟩, -- DMA_Cc_RATE
  ⟨A.DMA_Cc_STATUS 0, [(48, 0x40)], [⟨0, 3, .ro, 0x0⟩, ⟨8, 8, .ro, 0x0⟩, ⟨16, 6, .ro, 0x0⟩]⟩, -- DMA_Cc_STATUS
  ⟨A.DMA_Cc_CAUSE 0, [(48, 0x40)], [⟨0, 1, .w1c, 0x0⟩, ⟨1, 1, .w1c, 0x0⟩, ⟨2, 1, .w1c, 0x0⟩, ⟨3, 1, .w1c, 0x0⟩, ⟨4, 1, .w1c, 0x0⟩, ⟨5, 1, .w1c, 0x0⟩]⟩, -- DMA_Cc_CAUSE
  ⟨A.DMA_Cc_EN 0, [(48, 0x40)], [⟨0, 1, .rw, 0x0⟩, ⟨1, 1, .rw, 0x0⟩, ⟨2, 1, .rw, 0x0⟩, ⟨3, 1, .rw, 0x0⟩, ⟨4, 1, .rw, 0x0⟩, ⟨5, 1, .rw, 0x0⟩]⟩, -- DMA_Cc_EN
  ⟨A.DMA_Cc_RESIDUE 0, [(48, 0x40)], [⟨0, 32, .ro, 0x0⟩]⟩, -- DMA_Cc_RESIDUE
  ⟨A.DMA_Cc_ERRADDR_LO 0, [(48, 0x40)], [⟨0, 32, .ro, 0x0⟩]⟩, -- DMA_Cc_ERRADDR_LO
  ⟨A.DMA_Cc_ERRADDR_HI 0, [(48, 0x40)], [⟨0, 32, .ro, 0x0⟩]⟩, -- DMA_Cc_ERRADDR_HI
  ⟨A.DMA_Cc_DESCS 0, [(48, 0x40)], [⟨0, 32, .rc, 0x0⟩]⟩, -- DMA_Cc_DESCS
  ⟨A.DMA_Cc_KBYTES 0, [(48, 0x40)], [⟨0, 32, .rc, 0x0⟩]⟩, -- DMA_Cc_KBYTES
  ⟨A.DMA_Cc_RETRIES 0, [(48, 0x40)], [⟨0, 32, .rc, 0x0⟩]⟩ -- DMA_Cc_RETRIES
]

/-- The register kinds of block DMA. -/
def dmaKinds : List RegKind := dmaKinds0

def dptKinds0 : List RegKind := [
  ⟨A.DPT_ADDR, [], [⟨0, 32, .rw, 0x0⟩]⟩, -- DPT_ADDR
  ⟨A.DPT_CTL, [], [⟨0, 2, .rw, 0x0⟩]⟩, -- DPT_CTL
  ⟨A.DPT_STRIDE, [], [⟨0, 32, .rw, 0x0⟩]⟩, -- DPT_STRIDE
  ⟨A.DPT_STATUS, [], [⟨0, 8, .ro, 0x0⟩, ⟨8, 1, .ro, 0x0⟩]⟩, -- DPT_STATUS
  ⟨A.DPT_ACCESSES, [], [⟨0, 32, .rc, 0x0⟩]⟩, -- DPT_ACCESSES
  ⟨A.DPT_ERRORS, [], [⟨0, 32, .rc, 0x0⟩]⟩ -- DPT_ERRORS
]

/-- The register kinds of block DPT. -/
def dptKinds : List RegKind := dptKinds0

def mgtKinds0 : List RegKind := [
  ⟨A.MGT_CFG, [], [⟨0, 1, .rwl, 0x1⟩, ⟨1, 1, .rw, 0x1⟩]⟩, -- MGT_CFG
  ⟨A.MGT_STATUS, [], [⟨0, 1, .ro, 0x0⟩, ⟨8, 8, .ro, 0x0⟩]⟩, -- MGT_STATUS
  ⟨A.MGT_REQUESTS, [], [⟨0, 32, .rc, 0x0⟩]⟩, -- MGT_REQUESTS
  ⟨A.MGT_CRC_ERRS, [], [⟨0, 32, .rc, 0x0⟩]⟩, -- MGT_CRC_ERRS
  ⟨A.MGT_ABORTS, [], [⟨0, 32, .rc, 0x0⟩]⟩, -- MGT_ABORTS
  ⟨A.MGT_WAKES, [], [⟨0, 32, .rc, 0x0⟩]⟩ -- MGT_WAKES
]

/-- The register kinds of block MGT. -/
def mgtKinds : List RegKind := mgtKinds0

def posKinds0 : List RegKind := [
  ⟨A.POS_CTL, [], [⟨0, 1, .rw, 0x0⟩, ⟨1, 1, .wo, 0x0⟩, ⟨2, 1, .wo, 0x0⟩]⟩, -- POS_CTL
  ⟨A.POS_AXIS_CFG, [], [⟨0, 3, .rw, 0x0⟩, ⟨4, 3, .rw, 0x7⟩, ⟨7, 1, .rw, 0x1⟩, ⟨8, 3, .rw, 0x2⟩]⟩, -- POS_AXIS_CFG
  ⟨A.POS_AXIS_STATUS, [], [⟨0, 1, .ro, 0x0⟩, ⟨1, 1, .ro, 0x0⟩, ⟨2, 1, .ro, 0x0⟩, ⟨3, 1, .ro, 0x0⟩, ⟨4, 1, .ro, 0x0⟩, ⟨5, 1, .ro, 0x0⟩, ⟨6, 1, .ro, 0x0⟩, ⟨7, 1, .ro, 0x0⟩, ⟨8, 3, .ro, 0x0⟩]⟩, -- POS_AXIS_STATUS
  ⟨A.POS_EST_CFG, [], [⟨0, 3, .rw, 0x2⟩, ⟨8, 16, .rw, 0x3E8⟩]⟩, -- POS_EST_CFG
  ⟨A.POS_FO_CFG, [], [⟨0, 8, .rw, 0x4⟩, ⟨8, 16, .rw, 0x200⟩, ⟨24, 8, .rw, 0x10⟩]⟩, -- POS_FO_CFG
  ⟨A.POS_CAUSE, [], [⟨0, 1, .w1c, 0x0⟩, ⟨1, 1, .w1c, 0x0⟩, ⟨2, 1, .w1c, 0x0⟩, ⟨3, 1, .w1c, 0x0⟩, ⟨4, 1, .w1c, 0x0⟩, ⟨5, 1, .w1c, 0x0⟩, ⟨6, 1, .w1c, 0x0⟩, ⟨7, 1, .w1c, 0x0⟩]⟩, -- POS_CAUSE
  ⟨A.POS_ENC_CAUSE, [], [⟨0, 1, .w1c, 0x0⟩, ⟨1, 1, .w1c, 0x0⟩, ⟨2, 1, .w1c, 0x0⟩, ⟨3, 1, .w1c, 0x0⟩, ⟨4, 1, .w1c, 0x0⟩, ⟨5, 1, .w1c, 0x0⟩, ⟨6, 1, .w1c, 0x0⟩, ⟨7, 1, .w1c, 0x0⟩, ⟨8, 1, .w1c, 0x0⟩, ⟨9, 1, .w1c, 0x0⟩, ⟨10, 1, .w1c, 0x0⟩, ⟨11, 1, .w1c, 0x0⟩, ⟨12, 1, .w1c, 0x0⟩, ⟨13, 1, .w1c, 0x0⟩, ⟨14, 1, .w1c, 0x0⟩, ⟨15, 1, .w1c, 0x0⟩, ⟨16, 1, .w1c, 0x0⟩, ⟨17, 1, .w1c, 0x0⟩, ⟨18, 1, .w1c, 0x0⟩, ⟨19, 1, .ro, 0x0⟩]⟩, -- POS_ENC_CAUSE
  ⟨A.POS_ENCc_CFG 0, [(4, 0x20)], [⟨0, 1, .rw, 0x0⟩, ⟨1, 1, .rw, 0x0⟩, ⟨2, 3, .rw, 0x1⟩, ⟨5, 1, .rw, 0x0⟩, ⟨6, 1, .rw, 0x0⟩, ⟨8, 8, .rw, 0x28⟩, ⟨16, 2, .rw, 0x0⟩, ⟨24, 8, .rw, 0x2⟩]⟩, -- POS_ENCc_CFG
  ⟨A.POS_SSI_CFG, [], [⟨0, 1, .rw, 0x0⟩, ⟨1, 1, .rw, 0x0⟩, ⟨2, 2, .rw, 0x0⟩, ⟨4, 6, .rw, 0x18⟩, ⟨10, 1, .rw, 0x0⟩, ⟨16, 8, .rw, 0x27⟩]⟩, -- POS_SSI_CFG
  ⟨A.POS_TOFt_CFG 0, [(4, 0x10)], [⟨0, 1, .rw, 0x0⟩, ⟨1, 1, .rw, 0x0⟩, ⟨2, 4, .rw, 0x2⟩, ⟨16, 16, .rw, 0x0⟩]⟩, -- POS_TOFt_CFG
  ⟨A.POS_CMPc_CTL 0, [(16, 0x10)], [⟨0, 2, .rw, 0x0⟩, ⟨2, 1, .rw, 0x0⟩, ⟨3, 1, .rw, 0x0⟩, ⟨4, 2, .rw, 0x0⟩, ⟨8, 1, .rw, 0x0⟩]⟩, -- POS_CMPc_CTL
  ⟨A.POS_SEC_RATIO, [], [⟨0, 32, .rw, 0x1000000⟩]⟩, -- POS_SEC_RATIO
  ⟨A.POS_NOW_LO, [], [⟨0, 32, .ro, 0x0⟩]⟩, -- POS_NOW_LO
  ⟨A.POS_NOW_HI, [], [⟨0, 16, .ro, 0x0⟩, ⟨16, 1, .ro, 0x0⟩]⟩, -- POS_NOW_HI
  ⟨A.POS_PP_LO, [], [⟨0, 32, .ro, 0x0⟩]⟩, -- POS_PP_LO
  ⟨A.POS_PP_HI, [], [⟨0, 16, .ro, 0x0⟩, ⟨16, 1, .ro, 0x0⟩]⟩, -- POS_PP_HI
  ⟨A.POS_SPEED, [], [⟨0, 32, .ro, 0x0⟩]⟩, -- POS_SPEED
  ⟨A.POS_SLO_LO, [], [⟨0, 32, .rw, 0x0⟩]⟩, -- POS_SLO_LO
  ⟨A.POS_SLO_HI, [], [⟨0, 16, .rw, 0x8000⟩]⟩, -- POS_SLO_HI
  ⟨A.POS_SHI_LO, [], [⟨0, 32, .rw, 0xFFFFFF00⟩]⟩, -- POS_SHI_LO
  ⟨A.POS_SHI_HI, [], [⟨0, 16, .rw, 0x7FFF⟩]⟩, -- POS_SHI_HI
  ⟨A.POS_REBASE_LO, [], [⟨0, 32, .rw, 0x0⟩]⟩, -- POS_REBASE_LO
  ⟨A.POS_REBASE_HI, [], [⟨0, 16, .rw, 0x0⟩]⟩, -- POS_REBASE_HI
  ⟨A.POS_EN, [], [⟨0, 1, .rw, 0x0⟩, ⟨1, 1, .rw, 0x0⟩, ⟨2, 1, .rw, 0x0⟩, ⟨3, 1, .rw, 0x0⟩, ⟨4, 1, .rw, 0x0⟩, ⟨5, 1, .rw, 0x0⟩, ⟨6, 1, .rw, 0x0⟩, ⟨7, 1, .rw, 0x0⟩]⟩, -- POS_EN
  ⟨A.POS_ENC_EN, [], [⟨0, 1, .rw, 0x0⟩, ⟨1, 1, .rw, 0x0⟩, ⟨2, 1, .rw, 0x0⟩, ⟨3, 1, .rw, 0x0⟩, ⟨4, 1, .rw, 0x0⟩, ⟨5, 1, .rw, 0x0⟩, ⟨6, 1, .rw, 0x0⟩, ⟨7, 1, .rw, 0x0⟩, ⟨8, 1, .rw, 0x0⟩, ⟨9, 1, .rw, 0x0⟩, ⟨10, 1, .rw, 0x0⟩, ⟨11, 1, .rw, 0x0⟩, ⟨12, 1, .rw, 0x0⟩, ⟨13, 1, .rw, 0x0⟩, ⟨14, 1, .rw, 0x0⟩, ⟨15, 1, .rw, 0x0⟩, ⟨16, 1, .rw, 0x0⟩, ⟨17, 1, .rw, 0x0⟩, ⟨18, 1, .rw, 0x0⟩, ⟨19, 1, .rw, 0x0⟩]⟩, -- POS_ENC_EN
  ⟨A.POS_JITTER, [], [⟨0, 32, .rc, 0x0⟩]⟩, -- POS_JITTER
  ⟨A.POS_REVERSALS, [], [⟨0, 32, .rc, 0x0⟩]⟩, -- POS_REVERSALS
  ⟨A.POS_LIMIT_DISC, [], [⟨0, 32, .rc, 0x0⟩]⟩, -- POS_LIMIT_DISC
  ⟨A.POS_FAILOVERS, [], [⟨0, 32, .rc, 0x0⟩]⟩, -- POS_FAILOVERS
  ⟨A.POS_DIVERGES, [], [⟨0, 32, .rc, 0x0⟩]⟩ -- POS_DIVERGES
]

def posKinds1 : List RegKind := [
  ⟨A.POS_ENCc_CNT 0, [(4, 0x20)], [⟨0, 32, .ro, 0x0⟩]⟩, -- POS_ENCc_CNT
  ⟨A.POS_ENCc_SPEED 0, [(4, 0x20)], [⟨0, 32, .ro, 0x0⟩]⟩, -- POS_ENCc_SPEED
  ⟨A.POS_ENCc_STATUS 0, [(4, 0x20)], [⟨0, 1, .ro, 0x0⟩, ⟨1, 1, .ro, 0x0⟩, ⟨2, 1, .ro, 0x0⟩, ⟨3, 1, .ro, 0x0⟩, ⟨4, 1, .ro, 0x0⟩]⟩, -- POS_ENCc_STATUS
  ⟨A.POS_ENCc_ILL 0, [(4, 0x20)], [⟨0, 32, .rc, 0x0⟩]⟩, -- POS_ENCc_ILL
  ⟨A.POS_ENCc_INDEX 0, [(4, 0x20)], [⟨0, 32, .ro, 0x0⟩]⟩, -- POS_ENCc_INDEX
  ⟨A.POS_ENCc_PER 0, [(4, 0x20)], [⟨0, 31, .rw, 0x0⟩]⟩, -- POS_ENCc_PER
  ⟨A.POS_ENCc_RHO 0, [(4, 0x20)], [⟨0, 32, .ro, 0x0⟩]⟩, -- POS_ENCc_RHO
  ⟨A.POS_SSI_PERIOD, [], [⟨0, 10, .rw, 0x14⟩]⟩, -- POS_SSI_PERIOD
  ⟨A.POS_SSI_VAL_LO, [], [⟨0, 32, .ro, 0x0⟩]⟩, -- POS_SSI_VAL_LO
  ⟨A.POS_SSI_VAL_HI, [], [⟨0, 16, .ro, 0x0⟩]⟩, -- POS_SSI_VAL_HI
  ⟨A.POS_SSI_MAXJUMP, [], [⟨0, 32, .rw, 0x1000⟩]⟩, -- POS_SSI_MAXJUMP
  ⟨A.POS_SSI_ERRS, [], [⟨0, 32, .rc, 0x0⟩]⟩, -- POS_SSI_ERRS
  ⟨A.POS_SSI_SPEED, [], [⟨0, 32, .ro, 0x0⟩]⟩, -- POS_SSI_SPEED
  ⟨A.POS_TOFt_SEQ 0, [(4, 0x10)], [⟨0, 16, .ro, 0x0⟩, ⟨16, 1, .ro, 0x0⟩]⟩, -- POS_TOFt_SEQ
  ⟨A.POS_TOFt_REJ 0, [(4, 0x10)], [⟨0, 32, .rc, 0x0⟩]⟩, -- POS_TOFt_REJ
  ⟨A.POS_TOF_CAUSE, [], [⟨0, 4, .w1c, 0x0⟩, ⟨4, 4, .w1c, 0x0⟩]⟩, -- POS_TOF_CAUSE
  ⟨A.POS_TOF_EN, [], [⟨0, 4, .rw, 0x0⟩, ⟨4, 4, .rw, 0x0⟩]⟩, -- POS_TOF_EN
  ⟨A.POS_RING 0 0 0, [(4, 0x200), (16, 0x20), (6, 0x4)], [⟨0, 32, .ro, 0x0⟩]⟩, -- POS_RING
  ⟨A.POS_CMPc_TGT_LO 0, [(16, 0x10)], [⟨0, 32, .rw, 0x0⟩]⟩, -- POS_CMPc_TGT_LO
  ⟨A.POS_CMPc_TGT_HI 0, [(16, 0x10)], [⟨0, 16, .rw, 0x0⟩]⟩, -- POS_CMPc_TGT_HI
  ⟨A.POS_CMPc_TS 0, [(16, 0x10)], [⟨0, 32, .ro, 0x0⟩]⟩, -- POS_CMPc_TS
  ⟨A.POS_CMP_CAUSE, [], [⟨0, 16, .w1c, 0x0⟩]⟩, -- POS_CMP_CAUSE
  ⟨A.POS_CMP_EN, [], [⟨0, 16, .rw, 0x0⟩]⟩ -- POS_CMP_EN
]

/-- The register kinds of block POS. -/
def posKinds : List RegKind := posKinds0 ++ posKinds1

def xptKinds0 : List RegKind := [
  ⟨A.XPT_CTL, [], [⟨0, 1, .wo, 0x0⟩, ⟨1, 1, .wo, 0x0⟩, ⟨2, 1, .wo, 0x0⟩, ⟨3, 1, .rw, 0x0⟩]⟩, -- XPT_CTL
  ⟨A.XPT_CFG, [], [⟨0, 1, .rw, 0x0⟩, ⟨1, 1, .rw, 0x0⟩, ⟨8, 8, .rw, 0x10⟩, ⟨16, 8, .rw, 0x20⟩, ⟨24, 4, .rw, 0x2⟩]⟩, -- XPT_CFG
  ⟨A.XPT_STATUS, [], [⟨0, 4, .ro, 0x0⟩, ⟨4, 1, .ro, 0x0⟩, ⟨5, 1, .ro, 0x0⟩, ⟨6, 1, .ro, 0x0⟩, ⟨7, 1, .ro, 0x0⟩, ⟨8, 4, .ro, 0x0⟩]⟩, -- XPT_STATUS
  ⟨A.XPT_XSTOP, [], [⟨0, 1, .w1c, 0x0⟩, ⟨1, 1, .w1c, 0x0⟩, ⟨2, 1, .w1c, 0x0⟩, ⟨3, 1, .w1c, 0x0⟩, ⟨4, 1, .w1c, 0x0⟩, ⟨5, 1, .w1c, 0x0⟩, ⟨6, 1, .w1c, 0x0⟩]⟩, -- XPT_XSTOP
  ⟨A.XPT_CAUSE, [], [⟨0, 1, .w1c, 0x0⟩, ⟨1, 1, .w1c, 0x0⟩, ⟨2, 1, .w1c, 0x0⟩, ⟨3, 1, .w1c, 0x0⟩, ⟨4, 1, .w1c, 0x0⟩, ⟨5, 1, .w1c, 0x0⟩, ⟨6, 1, .w1c, 0x0⟩, ⟨7, 1, .w1c, 0x0⟩, ⟨8, 1, .w1c, 0x0⟩, ⟨9, 1, .w1c, 0x0⟩]⟩, -- XPT_CAUSE
  ⟨A.XPT_LASTRUN, [], [⟨0, 1, .rw, 0x0⟩, ⟨1, 1, .rw, 0x0⟩, ⟨2, 1, .rw, 0x0⟩, ⟨3, 4, .rw, 0x0⟩]⟩, -- XPT_LASTRUN
  ⟨A.XPT_U, [], [⟨0, 16, .rw, 0x0⟩]⟩, -- XPT_U
  ⟨A.XPT_FF, [], [⟨0, 32, .rw, 0x0⟩]⟩, -- XPT_FF
  ⟨A.XPT_CLAMP, [], [⟨0, 16, .rw, 0x7FFF⟩, ⟨16, 16, .rw, 0x8000⟩]⟩, -- XPT_CLAMP
  ⟨A.XPT_SLEW, [], [⟨0, 16, .rw, 0x0⟩]⟩, -- XPT_SLEW
  ⟨A.XPT_ACC, [], [⟨0, 32, .rw, 0x186A0⟩]⟩, -- XPT_ACC
  ⟨A.XPT_DEC, [], [⟨0, 32, .rw, 0x186A0⟩]⟩, -- XPT_DEC
  ⟨A.XPT_VBACK, [], [⟨0, 32, .rw, 0x2710⟩]⟩, -- XPT_VBACK
  ⟨A.XPT_SETTLE, [], [⟨0, 24, .rw, 0x1E0⟩]⟩, -- XPT_SETTLE
  ⟨A.XPT_VMAX, [], [⟨0, 32, .rw, 0xFFFFFFFF⟩]⟩, -- XPT_VMAX
  ⟨A.XPT_TOL, [], [⟨0, 6, .rw, 0x10⟩]⟩, -- XPT_TOL
  ⟨A.XPT_TIMING, [], [⟨0, 16, .rw, 0x3E8⟩, ⟨16, 16, .rw, 0x3E8⟩]⟩, -- XPT_TIMING
  ⟨A.XPT_S_TICK, [], [⟨0, 32, .ro, 0x0⟩]⟩, -- XPT_S_TICK
  ⟨A.XPT_S_Y_LO, [], [⟨0, 32, .ro, 0x0⟩]⟩, -- XPT_S_Y_LO
  ⟨A.XPT_S_Y_HI, [], [⟨0, 16, .ro, 0x0⟩]⟩, -- XPT_S_Y_HI
  ⟨A.XPT_S_ERR, [], [⟨0, 32, .ro, 0x0⟩]⟩, -- XPT_S_ERR
  ⟨A.XPT_S_V, [], [⟨0, 32, .ro, 0x0⟩]⟩, -- XPT_S_V
  ⟨A.XPT_S_VREF, [], [⟨0, 32, .ro, 0x0⟩]⟩, -- XPT_S_VREF
  ⟨A.XPT_S_CODE, [], [⟨0, 16, .ro, 0x0⟩, ⟨16, 1, .ro, 0x0⟩]⟩, -- XPT_S_CODE
  ⟨A.XPT_S_PP_LO, [], [⟨0, 32, .ro, 0x0⟩]⟩, -- XPT_S_PP_LO
  ⟨A.XPT_S_PP_HI, [], [⟨0, 16, .ro, 0x0⟩]⟩, -- XPT_S_PP_HI
  ⟨A.XPT_PIR_STOP_LO, [], [⟨0, 32, .ro, 0x0⟩]⟩, -- XPT_PIR_STOP_LO
  ⟨A.XPT_PIR_STOP_HI, [], [⟨0, 16, .ro, 0x0⟩]⟩, -- XPT_PIR_STOP_HI
  ⟨A.XPT_PIR_RE_LO, [], [⟨0, 32, .ro, 0x0⟩]⟩, -- XPT_PIR_RE_LO
  ⟨A.XPT_PIR_RE_HI, [], [⟨0, 16, .ro, 0x0⟩]⟩ -- XPT_PIR_RE_HI
]

def xptKinds1 : List RegKind := [
  ⟨A.XPT_PIR_J, [], [⟨0, 10, .ro, 0x0⟩]⟩, -- XPT_PIR_J
  ⟨A.XPT_EN, [], [⟨0, 1, .rw, 0x0⟩, ⟨1, 1, .rw, 0x0⟩, ⟨2, 1, .rw, 0x0⟩, ⟨3, 1, .rw, 0x0⟩, ⟨4, 1, .rw, 0x0⟩, ⟨5, 1, .rw, 0x0⟩, ⟨6, 1, .rw, 0x0⟩, ⟨7, 1, .rw, 0x0⟩, ⟨8, 1, .rw, 0x0⟩, ⟨9, 1, .rw, 0x0⟩]⟩, -- XPT_EN
  ⟨A.XPT_STALE, [], [⟨0, 32, .rc, 0x0⟩]⟩, -- XPT_STALE
  ⟨A.XPT_CLAMPED, [], [⟨0, 32, .rc, 0x0⟩]⟩, -- XPT_CLAMPED
  ⟨A.XPT_PIROUETTES, [], [⟨0, 32, .rc, 0x0⟩]⟩, -- XPT_PIROUETTES
  ⟨A.XPT_LAPS, [], [⟨0, 32, .rc, 0x0⟩]⟩ -- XPT_LAPS
]

/-- The register kinds of block XPT. -/
def xptKinds : List RegKind := xptKinds0 ++ xptKinds1

def thmKinds0 : List RegKind := [
  ⟨A.THM_CTL, [], [⟨0, 1, .rw, 0x1⟩]⟩, -- THM_CTL
  ⟨A.THM_CFG, [], [⟨0, 8, .rw, 0x20⟩, ⟨8, 8, .rw, 0x14⟩, ⟨16, 8, .rw, 0x32⟩]⟩, -- THM_CFG
  ⟨A.THM_CAUSE, [], [⟨0, 1, .w1c, 0x0⟩, ⟨1, 1, .w1c, 0x0⟩, ⟨2, 1, .w1c, 0x0⟩, ⟨3, 1, .w1c, 0x0⟩, ⟨4, 1, .w1c, 0x0⟩, ⟨5, 1, .w1c, 0x0⟩, ⟨6, 1, .w1c, 0x0⟩, ⟨7, 1, .w1c, 0x0⟩]⟩, -- THM_CAUSE
  ⟨A.THM_SCAUSE, [], [⟨0, 1, .w1c, 0x0⟩, ⟨1, 1, .w1c, 0x0⟩, ⟨2, 1, .w1c, 0x0⟩, ⟨3, 1, .w1c, 0x0⟩, ⟨4, 1, .w1c, 0x0⟩, ⟨5, 1, .w1c, 0x0⟩, ⟨6, 1, .w1c, 0x0⟩, ⟨7, 1, .w1c, 0x0⟩]⟩, -- THM_SCAUSE
  ⟨A.THM_Pp_CFG 0, [(32, 0x10)], [⟨0, 1, .rw, 0x0⟩, ⟨1, 2, .rw, 0x1⟩, ⟨8, 8, .rw, 0x0⟩]⟩, -- THM_Pp_CFG
  ⟨A.THM_RATE_LIM, [], [⟨0, 16, .rw, 0x7D0⟩, ⟨16, 16, .rw, 0x2710⟩]⟩, -- THM_RATE_LIM
  ⟨A.THM_TEMP_LIM, [], [⟨0, 16, .rw, 0x1180⟩, ⟨16, 16, .rw, 0x1540⟩]⟩, -- THM_TEMP_LIM
  ⟨A.THM_BOARD_LIM, [], [⟨0, 16, .rw, 0x1540⟩, ⟨16, 16, .rw, 0x1900⟩]⟩, -- THM_BOARD_LIM
  ⟨A.THM_SENS, [], [⟨0, 8, .rw, 0xF⟩, ⟨8, 8, .rw, 0x32⟩]⟩, -- THM_SENS
  ⟨A.THM_FLOOR, [], [⟨0, 16, .rw, 0x2710⟩]⟩, -- THM_FLOOR
  ⟨A.THM_ACK, [], [⟨0, 32, .wo, 0x0⟩]⟩, -- THM_ACK
  ⟨A.THM_STAGE_LO, [], [⟨0, 32, .ro, 0x0⟩]⟩, -- THM_STAGE_LO
  ⟨A.THM_STAGE_HI, [], [⟨0, 32, .ro, 0x0⟩]⟩, -- THM_STAGE_HI
  ⟨A.THM_TRIPPED, [], [⟨0, 32, .w1c, 0x0⟩]⟩, -- THM_TRIPPED
  ⟨A.THM_FROZEN, [], [⟨0, 32, .ro, 0x0⟩]⟩, -- THM_FROZEN
  ⟨A.THM_WARN, [], [⟨0, 32, .ro, 0x0⟩]⟩, -- THM_WARN
  ⟨A.THM_NOSENS, [], [⟨0, 32, .ro, 0x0⟩]⟩, -- THM_NOSENS
  ⟨A.THM_EN, [], [⟨0, 1, .rw, 0x0⟩, ⟨1, 1, .rw, 0x0⟩, ⟨2, 1, .rw, 0x0⟩, ⟨3, 1, .rw, 0x0⟩, ⟨4, 1, .rw, 0x0⟩, ⟨5, 1, .rw, 0x0⟩, ⟨6, 1, .rw, 0x0⟩, ⟨7, 1, .rw, 0x0⟩]⟩, -- THM_EN
  ⟨A.THM_SEN, [], [⟨0, 1, .rw, 0x0⟩, ⟨1, 1, .rw, 0x0⟩, ⟨2, 1, .rw, 0x0⟩, ⟨3, 1, .rw, 0x0⟩, ⟨4, 1, .rw, 0x0⟩, ⟨5, 1, .rw, 0x0⟩, ⟨6, 1, .rw, 0x0⟩, ⟨7, 1, .rw, 0x0⟩]⟩, -- THM_SEN
  ⟨A.THM_Pp_NF 0, [(32, 0x10)], [⟨0, 14, .rw, 0x203A⟩]⟩, -- THM_Pp_NF
  ⟨A.THM_Pp_B 0, [(32, 0x10)], [⟨0, 16, .rw, 0xD6B⟩]⟩, -- THM_Pp_B
  ⟨A.THM_Pp_RNOM 0, [(32, 0x10)], [⟨0, 24, .rw, 0x2710⟩]⟩, -- THM_Pp_RNOM
  ⟨A.THM_BRD_CFG, [], [⟨0, 4, .rw, 0x0⟩, ⟨4, 2, .rw, 0x1⟩, ⟨8, 4, .rw, 0x0⟩]⟩, -- THM_BRD_CFG
  ⟨A.THM_BRD_NF, [], [⟨0, 14, .rw, 0x203A⟩]⟩, -- THM_BRD_NF
  ⟨A.THM_BRD_B, [], [⟨0, 16, .rw, 0xD6B⟩]⟩, -- THM_BRD_B
  ⟨A.THM_BRD_RNOM, [], [⟨0, 24, .rw, 0x2710⟩]⟩, -- THM_BRD_RNOM
  ⟨A.THM_Tch 0, [(260, 0x4)], [⟨0, 16, .ro, 0x0⟩, ⟨16, 16, .ro, 0x0⟩]⟩, -- THM_Tch
  ⟨A.THM_RATEch 0, [(260, 0x4)], [⟨0, 32, .ro, 0x0⟩]⟩, -- THM_RATEch
  ⟨A.THM_Sch 0, [(260, 0x4)], [⟨0, 1, .ro, 0x0⟩, ⟨1, 1, .ro, 0x0⟩, ⟨2, 1, .ro, 0x0⟩, ⟨3, 1, .ro, 0x0⟩, ⟨4, 1, .ro, 0x0⟩, ⟨5, 1, .ro, 0x0⟩, ⟨6, 1, .ro, 0x0⟩, ⟨7, 1, .ro, 0x0⟩, ⟨8, 1, .ro, 0x0⟩]⟩, -- THM_Sch
  ⟨A.THM_WARNS, [], [⟨0, 32, .rc, 0x0⟩]⟩ -- THM_WARNS
]

def thmKinds1 : List RegKind := [
  ⟨A.THM_STAGE2S, [], [⟨0, 32, .rc, 0x0⟩]⟩, -- THM_STAGE2S
  ⟨A.THM_TRIPS, [], [⟨0, 32, .rc, 0x0⟩]⟩, -- THM_TRIPS
  ⟨A.THM_REDUCTIONS, [], [⟨0, 32, .rc, 0x0⟩]⟩, -- THM_REDUCTIONS
  ⟨A.THM_SFAULTS, [], [⟨0, 32, .rc, 0x0⟩]⟩ -- THM_SFAULTS
]

/-- The register kinds of block THM. -/
def thmKinds : List RegKind := thmKinds0 ++ thmKinds1

def calKinds0 : List RegKind := [
  ⟨A.CAL_CTL, [], [⟨0, 1, .rw, 0x1⟩]⟩, -- CAL_CTL
  ⟨A.CAL_STATUS, [], [⟨0, 1, .ro, 0x0⟩, ⟨8, 8, .ro, 0x0⟩]⟩, -- CAL_STATUS
  ⟨A.CAL_CAUSE, [], [⟨0, 1, .w1c, 0x0⟩, ⟨1, 1, .w1c, 0x0⟩, ⟨2, 1, .w1c, 0x0⟩, ⟨3, 1, .w1c, 0x0⟩, ⟨4, 1, .w1c, 0x0⟩]⟩, -- CAL_CAUSE
  ⟨A.CAL_ET_CFG, [], [⟨0, 3, .rw, 0x4⟩, ⟨3, 1, .rw, 0x0⟩]⟩, -- CAL_ET_CFG
  ⟨A.CAL_CLASS_EN, [], [⟨0, 8, .rw, 0xFF⟩]⟩, -- CAL_CLASS_EN
  ⟨A.CAL_PERIODk 0, [(8, 0x4)], [⟨0, 16, .rw, 0x3E8⟩]⟩, -- CAL_PERIODk
  ⟨A.CAL_REQ, [], [⟨0, 3, .wo, 0x0⟩, ⟨4, 9, .wo, 0x0⟩]⟩, -- CAL_REQ
  ⟨A.CAL_RESULT, [], [⟨0, 8, .ro, 0x0⟩, ⟨8, 3, .ro, 0x0⟩, ⟨16, 9, .ro, 0x0⟩]⟩, -- CAL_RESULT
  ⟨A.CAL_QSEL, [], [⟨0, 3, .rw, 0x0⟩, ⟨4, 9, .rw, 0x0⟩]⟩, -- CAL_QSEL
  ⟨A.CAL_QVAL, [], [⟨0, 16, .rw, 0x0⟩, ⟨16, 16, .rw, 0x0⟩]⟩, -- CAL_QVAL
  ⟨A.CAL_QSTAT, [], [⟨0, 1, .ro, 0x0⟩, ⟨1, 2, .ro, 0x0⟩, ⟨8, 8, .ro, 0x0⟩, ⟨16, 16, .ro, 0x0⟩]⟩, -- CAL_QSTAT
  ⟨A.CAL_STALE_CNT, [], [⟨0, 16, .ro, 0x0⟩]⟩, -- CAL_STALE_CNT
  ⟨A.CAL_EN, [], [⟨0, 1, .rw, 0x0⟩, ⟨1, 1, .rw, 0x0⟩, ⟨2, 1, .rw, 0x0⟩, ⟨3, 1, .rw, 0x0⟩, ⟨4, 1, .rw, 0x0⟩]⟩, -- CAL_EN
  ⟨A.CAL_ET_BARS, [], [⟨0, 32, .rw, 0x0⟩]⟩, -- CAL_ET_BARS
  ⟨A.CAL_ET_TH, [], [⟨0, 12, .rw, 0x28⟩, ⟨16, 12, .rw, 0x190⟩]⟩, -- CAL_ET_TH
  ⟨A.CAL_ET_STATUS, [], [⟨0, 9, .ro, 0x0⟩, ⟨9, 1, .ro, 0x0⟩]⟩, -- CAL_ET_STATUS
  ⟨A.CAL_ET_CAUSE, [], [⟨0, 1, .w1c, 0x0⟩, ⟨1, 1, .w1c, 0x0⟩, ⟨2, 1, .w1c, 0x0⟩, ⟨3, 1, .w1c, 0x0⟩]⟩, -- CAL_ET_CAUSE
  ⟨A.CAL_ET_EN, [], [⟨0, 1, .rw, 0x0⟩, ⟨1, 1, .rw, 0x0⟩, ⟨2, 1, .rw, 0x0⟩, ⟨3, 1, .rw, 0x0⟩]⟩, -- CAL_ET_EN
  ⟨A.CAL_ET_CURn 0, [(32, 0x4)], [⟨0, 14, .rw, 0x0⟩, ⟨16, 16, .ro, 0x0⟩]⟩, -- CAL_ET_CURn
  ⟨A.CAL_ET_WINDOW 0 0, [(256, 0x8), (2, 0x4)], [⟨0, 32, .rc, 0x0⟩]⟩, -- CAL_ET_WINDOW
  ⟨A.CAL_PAIRS, [], [⟨0, 32, .rc, 0x0⟩]⟩, -- CAL_PAIRS
  ⟨A.CAL_DISAGREES, [], [⟨0, 32, .rc, 0x0⟩]⟩, -- CAL_DISAGREES
  ⟨A.CAL_TIMEOUTS, [], [⟨0, 32, .rc, 0x0⟩]⟩, -- CAL_TIMEOUTS
  ⟨A.CAL_ET_TESTED, [], [⟨0, 32, .rc, 0x0⟩]⟩, -- CAL_ET_TESTED
  ⟨A.CAL_ET_OPENS, [], [⟨0, 32, .rc, 0x0⟩]⟩, -- CAL_ET_OPENS
  ⟨A.CAL_ET_SHORTS, [], [⟨0, 32, .rc, 0x0⟩]⟩, -- CAL_ET_SHORTS
  ⟨A.CAL_ET_VOIDS, [], [⟨0, 32, .rc, 0x0⟩]⟩ -- CAL_ET_VOIDS
]

/-- The register kinds of block CAL. -/
def calKinds : List RegKind := calKinds0

def camKinds0 : List RegKind := [
  ⟨A.CAM_Pp_CTL 0, [(4, 0x1000)], [⟨0, 1, .rw, 0x0⟩, ⟨1, 1, .wo, 0x0⟩, ⟨2, 1, .rw, 0x0⟩, ⟨3, 1, .wo, 0x0⟩]⟩, -- CAM_Pp_CTL
  ⟨A.CAM_Pp_CFG 0, [(4, 0x1000)], [⟨0, 2, .rw, 0x2⟩, ⟨2, 2, .rw, 0x0⟩, ⟨4, 2, .rw, 0x0⟩, ⟨6, 2, .rw, 0x0⟩, ⟨8, 1, .rw, 0x0⟩, ⟨16, 14, .rw, 0x1000⟩]⟩, -- CAM_Pp_CFG
  ⟨A.CAM_Pp_FRAME 0, [(4, 0x1000)], [⟨0, 16, .rw, 0x40⟩, ⟨16, 16, .rw, 0x3E8⟩]⟩, -- CAM_Pp_FRAME
  ⟨A.CAM_Pp_STATUS 0, [(4, 0x1000)], [⟨0, 1, .ro, 0x0⟩, ⟨1, 1, .ro, 0x0⟩, ⟨2, 3, .ro, 0x0⟩, ⟨5, 1, .ro, 0x0⟩, ⟨6, 1, .ro, 0x0⟩, ⟨8, 19, .ro, 0x0⟩]⟩, -- CAM_Pp_STATUS
  ⟨A.CAM_Pp_TRIG 0, [(4, 0x1000)], [⟨0, 10, .rw, 0x64⟩, ⟨16, 8, .rw, 0x64⟩, ⟨24, 8, .rw, 0x64⟩]⟩, -- CAM_Pp_TRIG
  ⟨A.CAM_Pp_CCI_CMD 0, [(4, 0x1000)], [⟨0, 7, .rw, 0x0⟩, ⟨7, 1, .rw, 0x0⟩, ⟨8, 1, .rw, 0x0⟩, ⟨9, 2, .rw, 0x0⟩, ⟨11, 1, .rw, 0x0⟩, ⟨12, 4, .rw, 0x0⟩]⟩, -- CAM_Pp_CCI_CMD
  ⟨A.CAM_Pp_STRB_DLY 0, [(4, 0x1000)], [⟨0, 20, .rw, 0x0⟩]⟩, -- CAM_Pp_STRB_DLY
  ⟨A.CAM_Pp_STRB_W 0, [(4, 0x1000)], [⟨0, 18, .rw, 0x7D0⟩]⟩, -- CAM_Pp_STRB_W
  ⟨A.CAM_Pp_SET 0, [(4, 0x1000)], [⟨0, 3, .rw, 0x1⟩]⟩, -- CAM_Pp_SET
  ⟨A.CAM_Pp_GEN 0, [(4, 0x1000)], [⟨0, 16, .ro, 0x0⟩]⟩, -- CAM_Pp_GEN
  ⟨A.CAM_Pp_TSEQ 0, [(4, 0x1000)], [⟨0, 16, .ro, 0x0⟩, ⟨16, 1, .ro, 0x0⟩]⟩, -- CAM_Pp_TSEQ
  ⟨A.CAM_Pp_CAUSE 0, [(4, 0x1000)], [⟨0, 1, .w1c, 0x0⟩, ⟨1, 1, .w1c, 0x0⟩, ⟨2, 1, .w1c, 0x0⟩, ⟨3, 1, .w1c, 0x0⟩, ⟨4, 1, .w1c, 0x0⟩, ⟨5, 1, .w1c, 0x0⟩, ⟨6, 1, .w1c, 0x0⟩, ⟨7, 1, .w1c, 0x0⟩, ⟨8, 1, .w1c, 0x0⟩, ⟨9, 1, .w1c, 0x0⟩, ⟨10, 1, .w1c, 0x0⟩, ⟨11, 1, .w1c, 0x0⟩]⟩, -- CAM_Pp_CAUSE
  ⟨A.CAM_Pp_EN 0, [(4, 0x1000)], [⟨0, 1, .rw, 0x0⟩, ⟨1, 1, .rw, 0x0⟩, ⟨2, 1, .rw, 0x0⟩, ⟨3, 1, .rw, 0x0⟩, ⟨4, 1, .rw, 0x0⟩, ⟨5, 1, .rw, 0x0⟩, ⟨6, 1, .rw, 0x0⟩, ⟨7, 1, .rw, 0x0⟩, ⟨8, 1, .rw, 0x0⟩, ⟨9, 1, .rw, 0x0⟩, ⟨10, 1, .rw, 0x0⟩, ⟨11, 1, .rw, 0x0⟩]⟩, -- CAM_Pp_EN
  ⟨A.CAM_Pp_FRAMES 0, [(4, 0x1000)], [⟨0, 32, .rc, 0x0⟩]⟩, -- CAM_Pp_FRAMES
  ⟨A.CAM_Pp_DISCARDED 0, [(4, 0x1000)], [⟨0, 32, .rc, 0x0⟩]⟩, -- CAM_Pp_DISCARDED
  ⟨A.CAM_Pp_CRC_ERRS 0, [(4, 0x1000)], [⟨0, 32, .rc, 0x0⟩]⟩, -- CAM_Pp_CRC_ERRS
  ⟨A.CAM_Pp_ECC_CORR 0, [(4, 0x1000)], [⟨0, 32, .rc, 0x0⟩]⟩, -- CAM_Pp_ECC_CORR
  ⟨A.CAM_Pp_ECC_BAD 0, [(4, 0x1000)], [⟨0, 32, .rc, 0x0⟩]⟩, -- CAM_Pp_ECC_BAD
  ⟨A.CAM_Pp_TRIG_REF 0, [(4, 0x1000)], [⟨0, 32, .rc, 0x0⟩]⟩, -- CAM_Pp_TRIG_REF
  ⟨A.CAM_Pp_TRIG_EXP 0, [(4, 0x1000)], [⟨0, 32, .rc, 0x0⟩]⟩, -- CAM_Pp_TRIG_EXP
  ⟨A.CAM_Pp_VIOL 0, [(4, 0x1000)], [⟨0, 32, .rc, 0x0⟩]⟩, -- CAM_Pp_VIOL
  ⟨A.CAM_RING 0 0 0, [(4, 0x1000), (8, 0x20), (8, 0x4)], [⟨0, 32, .ro, 0x0⟩]⟩, -- CAM_RING
  ⟨A.CAM_Pp_CCI_REG 0, [(4, 0x1000)], [⟨0, 16, .rw, 0x0⟩]⟩, -- CAM_Pp_CCI_REG
  ⟨A.CAM_Pp_CCI_WDATA 0, [(4, 0x1000)], [⟨0, 32, .rw, 0x0⟩]⟩, -- CAM_Pp_CCI_WDATA
  ⟨A.CAM_Pp_CCI_PUSH 0, [(4, 0x1000)], [⟨0, 32, .wo, 0x0⟩]⟩, -- CAM_Pp_CCI_PUSH
  ⟨A.CAM_Pp_CCI_RES 0, [(4, 0x1000)], [⟨0, 4, .rc, 0x0⟩, ⟨8, 8, .rc, 0x0⟩]⟩, -- CAM_Pp_CCI_RES
  ⟨A.CAM_Pp_CCI_RDATA 0, [(4, 0x1000)], [⟨0, 32, .ro, 0x0⟩]⟩, -- CAM_Pp_CCI_RDATA
  ⟨A.CAM_Pp_CCI_STAT 0, [(4, 0x1000)], [⟨0, 4, .ro, 0x0⟩, ⟨4, 4, .ro, 0x0⟩, ⟨8, 1, .ro, 0x0⟩]⟩, -- CAM_Pp_CCI_STAT
  ⟨A.CAM_Pp_CCI_CFG 0, [(4, 0x1000)], [⟨0, 16, .rw, 0x3E8⟩]⟩ -- CAM_Pp_CCI_CFG
]

/-- The register kinds of block CAM. -/
def camKinds : List RegKind := camKinds0

def insKinds0 : List RegKind := [
  ⟨A.INS_CTL, [], [⟨0, 1, .rw, 0x0⟩, ⟨1, 2, .rw, 0x0⟩, ⟨3, 1, .rw, 0x1⟩]⟩, -- INS_CTL
  ⟨A.INS_STATUS, [], [⟨0, 1, .ro, 0x0⟩, ⟨1, 1, .ro, 0x0⟩, ⟨2, 2, .ro, 0x0⟩, ⟨4, 1, .ro, 0x0⟩, ⟨5, 11, .ro, 0x0⟩, ⟨16, 16, .ro, 0x0⟩]⟩, -- INS_STATUS
  ⟨A.INS_HYST, [], [⟨0, 3, .rw, 0x3⟩, ⟨4, 3, .rw, 0x5⟩]⟩, -- INS_HYST
  ⟨A.INS_CAUSE, [], [⟨0, 1, .w1c, 0x0⟩, ⟨1, 1, .w1c, 0x0⟩, ⟨2, 1, .w1c, 0x0⟩, ⟨3, 1, .w1c, 0x0⟩, ⟨4, 1, .w1c, 0x0⟩]⟩, -- INS_CAUSE
  ⟨A.INS_AREQ_W0, [], [⟨0, 2, .rw, 0x0⟩, ⟨2, 5, .rw, 0x0⟩, ⟨7, 1, .rw, 0x0⟩, ⟨8, 2, .rw, 0x0⟩, ⟨16, 16, .rw, 0x0⟩]⟩, -- INS_AREQ_W0
  ⟨A.INS_VF_WATER, [], [⟨0, 11, .rw, 0x200⟩]⟩, -- INS_VF_WATER
  ⟨A.INS_EN, [], [⟨0, 1, .rw, 0x0⟩, ⟨1, 1, .rw, 0x0⟩, ⟨2, 1, .rw, 0x0⟩, ⟨3, 1, .rw, 0x0⟩, ⟨4, 1, .rw, 0x0⟩]⟩, -- INS_EN
  ⟨A.INS_AREQ_W1, [], [⟨0, 7, .rw, 0x0⟩]⟩, -- INS_AREQ_W1
  ⟨A.INS_AREQ_PUSH, [], [⟨0, 32, .wo, 0x0⟩]⟩, -- INS_AREQ_PUSH
  ⟨A.INS_GEO_W0 0, [(4, 0x20)], [⟨0, 16, .rw, 0x0⟩, ⟨16, 8, .rw, 0x8⟩, ⟨24, 5, .rw, 0x3⟩]⟩, -- INS_GEO_W0
  ⟨A.INS_GEO_W1 0, [(4, 0x20)], [⟨0, 16, .rw, 0x100⟩]⟩, -- INS_GEO_W1
  ⟨A.INS_GEO_W2 0, [(4, 0x20)], [⟨0, 24, .rw, 0x1000⟩]⟩, -- INS_GEO_W2
  ⟨A.INS_GEO_W3 0, [(4, 0x20)], [⟨0, 6, .rw, 0x8⟩, ⟨8, 6, .rw, 0x18⟩, ⟨16, 6, .rw, 0x2C⟩]⟩, -- INS_GEO_W3
  ⟨A.INS_GEO_W4 0, [(4, 0x20)], [⟨0, 12, .rw, 0xE00⟩]⟩, -- INS_GEO_W4
  ⟨A.INS_TBL_SEL, [], [⟨0, 2, .rw, 0x0⟩, ⟨2, 2, .rw, 0x0⟩]⟩, -- INS_TBL_SEL
  ⟨A.INS_TBL_IDX, [], [⟨0, 13, .rw, 0x0⟩]⟩, -- INS_TBL_IDX
  ⟨A.INS_TBL_DATA, [], [⟨0, 32, .rw, 0x0⟩]⟩, -- INS_TBL_DATA
  ⟨A.INS_NKp 0, [(4, 0x4)], [⟨0, 7, .rw, 0x0⟩]⟩, -- INS_NKp
  ⟨A.INS_RECORDS, [], [⟨0, 32, .rc, 0x0⟩]⟩, -- INS_RECORDS
  ⟨A.INS_VLOST, [], [⟨0, 32, .rc, 0x0⟩]⟩, -- INS_VLOST
  ⟨A.INS_REPLAYS, [], [⟨0, 32, .rc, 0x0⟩]⟩, -- INS_REPLAYS
  ⟨A.INS_DIVERTED, [], [⟨0, 32, .rc, 0x0⟩]⟩, -- INS_DIVERTED
  ⟨A.INS_AREQ_MISS, [], [⟨0, 32, .rc, 0x0⟩]⟩, -- INS_AREQ_MISS
  ⟨A.INS_VF_WINDOW 0 0, [(512, 0x8), (2, 0x4)], [⟨0, 32, .rc, 0x0⟩]⟩ -- INS_VF_WINDOW
]

/-- The register kinds of block INS. -/
def insKinds : List RegKind := insKinds0

def seqKinds0 : List RegKind := [
  ⟨A.SEQ_BOOT_STATUS, [], [⟨0, 3, .ro, 0x0⟩, ⟨8, 8, .ro, 0x0⟩, ⟨16, 2, .ro, 0x0⟩, ⟨20, 4, .ro, 0x0⟩, ⟨24, 1, .ro, 0x0⟩, ⟨25, 1, .ro, 0x0⟩, ⟨26, 1, .ro, 0x0⟩]⟩, -- SEQ_BOOT_STATUS
  ⟨A.SEQ_WD_CFG, [], [⟨0, 1, .rwl, 0x1⟩, ⟨8, 16, .rw, 0x3E8⟩, ⟨24, 8, .rw, 0x32⟩]⟩, -- SEQ_WD_CFG
  ⟨A.SEQ_Pj_CTL 0, [(4, 0x100)], [⟨0, 1, .wo, 0x0⟩, ⟨1, 1, .wo, 0x0⟩, ⟨2, 1, .wo, 0x0⟩, ⟨3, 1, .wo, 0x0⟩]⟩, -- SEQ_Pj_CTL
  ⟨A.SEQ_Pj_STATUS 0, [(4, 0x100)], [⟨0, 2, .ro, 0x0⟩, ⟨2, 1, .ro, 0x0⟩, ⟨3, 1, .ro, 0x0⟩, ⟨8, 4, .ro, 0x0⟩, ⟨12, 4, .ro, 0x8⟩, ⟨16, 8, .ro, 0x0⟩]⟩, -- SEQ_Pj_STATUS
  ⟨A.SEQ_Pj_CAUSE 0, [(4, 0x100)], [⟨0, 1, .w1c, 0x0⟩, ⟨1, 1, .w1c, 0x0⟩, ⟨2, 1, .w1c, 0x0⟩, ⟨3, 1, .w1c, 0x0⟩, ⟨4, 1, .w1c, 0x0⟩]⟩, -- SEQ_Pj_CAUSE
  ⟨A.SEQ_BOOT_SRC, [], [⟨0, 32, .rw, 0x44000000⟩]⟩, -- SEQ_BOOT_SRC
  ⟨A.SEQ_BOOT_KEY, [], [⟨0, 32, .rw, 0x44000000⟩]⟩, -- SEQ_BOOT_KEY
  ⟨A.SEQ_BOOT_GO, [], [⟨0, 32, .wo, 0x0⟩]⟩, -- SEQ_BOOT_GO
  ⟨A.SEQ_WD_KICK, [], [⟨0, 32, .wo, 0x0⟩]⟩, -- SEQ_WD_KICK
  ⟨A.SEQ_WD_STATUS, [], [⟨0, 16, .ro, 0x0⟩, ⟨16, 1, .ro, 0x0⟩]⟩, -- SEQ_WD_STATUS
  ⟨A.SEQ_GCAUSE, [], [⟨0, 1, .w1c, 0x0⟩, ⟨1, 1, .w1c, 0x0⟩]⟩, -- SEQ_GCAUSE
  ⟨A.SEQ_GEN, [], [⟨0, 1, .rw, 0x0⟩, ⟨1, 1, .rw, 0x0⟩]⟩, -- SEQ_GEN
  ⟨A.SEQ_SWEV, [], [⟨0, 4, .wo, 0x0⟩]⟩, -- SEQ_SWEV
  ⟨A.SEQ_Pj_ENTRY 0, [(4, 0x100)], [⟨0, 32, .rwl, 0x0⟩]⟩, -- SEQ_Pj_ENTRY
  ⟨A.SEQ_Pj_SP 0, [(4, 0x100)], [⟨0, 32, .rwl, 0x10020000⟩]⟩, -- SEQ_Pj_SP
  ⟨A.SEQ_Pj_PC 0, [(4, 0x100)], [⟨0, 32, .ro, 0x0⟩]⟩, -- SEQ_Pj_PC
  ⟨A.SEQ_Pj_EN 0, [(4, 0x100)], [⟨0, 1, .rw, 0x0⟩, ⟨1, 1, .rw, 0x0⟩, ⟨2, 1, .rw, 0x0⟩, ⟨3, 1, .rw, 0x0⟩, ⟨4, 1, .rw, 0x0⟩]⟩, -- SEQ_Pj_EN
  ⟨A.SEQ_Pj_OUTERR 0, [(4, 0x100)], [⟨0, 32, .ro, 0x0⟩]⟩, -- SEQ_Pj_OUTERR
  ⟨A.SEQ_Pj_CMDERR 0, [(4, 0x100)], [⟨0, 8, .ro, 0x0⟩, ⟨8, 8, .ro, 0x0⟩, ⟨16, 8, .ro, 0x0⟩]⟩, -- SEQ_Pj_CMDERR
  ⟨A.SEQ_Pj_ROLLBACKS 0, [(4, 0x100)], [⟨0, 32, .rc, 0x0⟩]⟩, -- SEQ_Pj_ROLLBACKS
  ⟨A.SEQ_Pj_FAILRETRY 0, [(4, 0x100)], [⟨0, 32, .rc, 0x0⟩]⟩, -- SEQ_Pj_FAILRETRY
  ⟨A.SEQ_Pj_KSEL 0, [(4, 0x100)], [⟨0, 5, .rw, 0x0⟩]⟩, -- SEQ_Pj_KSEL
  ⟨A.SEQ_Pj_KDATA 0, [(4, 0x100)], [⟨0, 32, .rw, 0x0⟩]⟩, -- SEQ_Pj_KDATA
  ⟨A.SEQ_Pj_BRK0 0, [(4, 0x100)], [⟨0, 1, .rw, 0x0⟩, ⟨2, 30, .rw, 0x0⟩]⟩, -- SEQ_Pj_BRK0
  ⟨A.SEQ_Pj_BRK1 0, [(4, 0x100)], [⟨0, 1, .rw, 0x0⟩, ⟨2, 30, .rw, 0x0⟩]⟩ -- SEQ_Pj_BRK1
]

/-- The register kinds of block SEQ. -/
def seqKinds : List RegKind := seqKinds0

def memKinds0 : List RegKind := [
  ⟨A.MEM_CTL, [], [⟨0, 1, .rw, 0x1⟩, ⟨1, 1, .rw, 0x1⟩, ⟨8, 8, .rw, 0xA⟩]⟩, -- MEM_CTL
  ⟨A.MEM_CAUSE, [], [⟨0, 1, .w1c, 0x0⟩, ⟨1, 1, .w1c, 0x0⟩, ⟨2, 1, .w1c, 0x0⟩, ⟨3, 1, .w1c, 0x0⟩, ⟨4, 1, .w1c, 0x0⟩, ⟨5, 1, .w1c, 0x0⟩, ⟨6, 1, .w1c, 0x0⟩]⟩, -- MEM_CAUSE
  ⟨A.MEM_EN, [], [⟨0, 1, .rw, 0x0⟩, ⟨1, 1, .rw, 0x0⟩, ⟨2, 1, .rw, 0x0⟩, ⟨3, 1, .rw, 0x0⟩, ⟨4, 1, .rw, 0x0⟩, ⟨5, 1, .rw, 0x0⟩, ⟨6, 1, .rw, 0x0⟩]⟩, -- MEM_EN
  ⟨A.MEM_UE_BANK, [], [⟨0, 7, .ro, 0x0⟩]⟩, -- MEM_UE_BANK
  ⟨A.MEM_UE_ADDR, [], [⟨3, 17, .ro, 0x0⟩]⟩, -- MEM_UE_ADDR
  ⟨A.MEM_UNPWR, [], [⟨0, 32, .rc, 0x0⟩]⟩, -- MEM_UNPWR
  ⟨A.MEM_UNPWR_ADDR, [], [⟨0, 32, .ro, 0x0⟩]⟩, -- MEM_UNPWR_ADDR
  ⟨A.MEM_LOST_LAST, [], [⟨0, 7, .ro, 0x0⟩]⟩, -- MEM_LOST_LAST
  ⟨A.MEM_BANK_SEL, [], [⟨0, 7, .rw, 0x0⟩]⟩, -- MEM_BANK_SEL
  ⟨A.MEM_BANK_STATUS, [], [⟨0, 2, .ro, 0x0⟩, ⟨2, 1, .ro, 0x0⟩, ⟨3, 1, .ro, 0x0⟩, ⟨4, 1, .ro, 0x0⟩, ⟨5, 1, .ro, 0x0⟩]⟩, -- MEM_BANK_STATUS
  ⟨A.MEM_BANK_CE, [], [⟨0, 32, .rc, 0x0⟩]⟩, -- MEM_BANK_CE
  ⟨A.MEM_BANK_UE, [], [⟨0, 32, .rc, 0x0⟩]⟩, -- MEM_BANK_UE
  ⟨A.MEM_BANK_COLL, [], [⟨0, 32, .rc, 0x0⟩]⟩, -- MEM_BANK_COLL
  ⟨A.MEM_BANK_BTPASS, [], [⟨0, 32, .ro, 0x0⟩]⟩, -- MEM_BANK_BTPASS
  ⟨A.MEM_BANK_SIG, [], [⟨0, 32, .ro, 0x0⟩]⟩, -- MEM_BANK_SIG
  ⟨A.MEM_RET_SELw 0, [(4, 0x4)], [⟨0, 32, .rw, 0x0⟩]⟩, -- MEM_RET_SELw
  ⟨A.MEM_LOSTw 0, [(4, 0x4)], [⟨0, 32, .w1c, 0x0⟩]⟩, -- MEM_LOSTw
  ⟨A.MEM_WIPE, [], [⟨0, 7, .wo, 0x0⟩]⟩, -- MEM_WIPE
  ⟨A.MEM_WIPE_STATUS, [], [⟨0, 8, .ro, 0x0⟩, ⟨8, 1, .ro, 0x0⟩]⟩, -- MEM_WIPE_STATUS
  ⟨A.MEM_SOFTREPn 0, [(16, 0x4)], [⟨0, 32, .ro, 0x0⟩]⟩ -- MEM_SOFTREPn
]

/-- The register kinds of block MEM. -/
def memKinds : List RegKind := memKinds0

def gridKinds0 : List RegKind := [
  ⟨A.GRID_CTL, [], [⟨0, 1, .rw, 0x0⟩, ⟨1, 1, .rw, 0x0⟩, ⟨2, 1, .w1s, 0x0⟩, ⟨3, 1, .w1s, 0x0⟩]⟩, -- GRID_CTL
  ⟨A.GRID_STATUS, [], [⟨0, 1, .ro, 0x0⟩, ⟨1, 1, .ro, 0x0⟩, ⟨2, 1, .w1c, 0x0⟩, ⟨3, 1, .w1c, 0x0⟩, ⟨4, 1, .ro, 0x0⟩, ⟨8, 8, .ro, 0x0⟩]⟩, -- GRID_STATUS
  ⟨A.GRID_KILL, [], [⟨0, 1, .w1c, 0x0⟩, ⟨1, 1, .ro, 0x0⟩, ⟨2, 1, .rw, 0x0⟩]⟩, -- GRID_KILL
  ⟨A.GRID_FREQ_LO, [], [⟨0, 32, .rw, 0xD1B71759⟩]⟩, -- GRID_FREQ_LO
  ⟨A.GRID_FREQ_LO_LIVE, [], [⟨0, 32, .ro, 0xD1B71759⟩]⟩, -- GRID_FREQ_LO_LIVE
  ⟨A.GRID_FREQ_HI, [], [⟨0, 16, .rw, 0x0⟩]⟩, -- GRID_FREQ_HI
  ⟨A.GRID_FREQ_HI_LIVE, [], [⟨0, 16, .ro, 0x0⟩]⟩, -- GRID_FREQ_HI_LIVE
  ⟨A.GRID_STROBE, [], [⟨0, 10, .rw, 0x64⟩]⟩, -- GRID_STROBE
  ⟨A.GRID_STROBE_LIVE, [], [⟨0, 10, .ro, 0x64⟩]⟩, -- GRID_STROBE_LIVE
  ⟨A.GRID_PITCH, [], [⟨0, 32, .rw, 0x100⟩]⟩, -- GRID_PITCH
  ⟨A.GRID_PITCH_LIVE, [], [⟨0, 32, .ro, 0x100⟩]⟩, -- GRID_PITCH_LIVE
  ⟨A.GRID_ERR_TOL, [], [⟨0, 8, .rw, 0x40⟩]⟩, -- GRID_ERR_TOL
  ⟨A.GRID_ERR_TOL_LIVE, [], [⟨0, 8, .ro, 0x40⟩]⟩, -- GRID_ERR_TOL_LIVE
  ⟨A.GRID_WARM, [], [⟨0, 7, .rw, 0xA⟩, ⟨8, 3, .rw, 0x0⟩]⟩, -- GRID_WARM
  ⟨A.GRID_WARM_LIVE, [], [⟨0, 7, .ro, 0xA⟩, ⟨8, 3, .ro, 0x0⟩]⟩, -- GRID_WARM_LIVE
  ⟨A.GRID_FORCE_BAR, [], [⟨0, 5, .rw, 0x0⟩]⟩, -- GRID_FORCE_BAR
  ⟨A.GRID_FORCE_LINE, [], [⟨0, 32, .rw, 0x0⟩]⟩, -- GRID_FORCE_LINE
  ⟨A.GRID_TICK, [], [⟨0, 32, .ro, 0x0⟩]⟩, -- GRID_TICK
  ⟨A.GRID_PERIOD, [], [⟨0, 22, .ro, 0x0⟩]⟩ -- GRID_PERIOD
]

/-- The register kinds of block GRID. -/
def gridKinds : List RegKind := gridKinds0

def barKinds0 : List RegKind := [
  ⟨A.FPE_CTL 0, [(32, 0x10000)], [⟨0, 1, .rw, 0x0⟩, ⟨1, 1, .w1s, 0x0⟩, ⟨2, 1, .rw, 0x0⟩, ⟨3, 1, .rw, 0x1⟩, ⟨4, 1, .rw, 0x0⟩]⟩, -- FPE_CTL
  ⟨A.FPE_STATUS 0, [(32, 0x10000)], [⟨0, 1, .ro, 0x0⟩, ⟨1, 1, .ro, 0x0⟩, ⟨2, 1, .w1c, 0x0⟩, ⟨3, 1, .w1c, 0x0⟩, ⟨4, 1, .w1c, 0x0⟩, ⟨5, 1, .ro, 0x0⟩, ⟨8, 8, .ro, 0x0⟩, ⟨16, 8, .ro, 0x0⟩, ⟨24, 3, .ro, 0x0⟩]⟩, -- FPE_STATUS
  ⟨A.FPE_LCAUSE 0, [(32, 0x10000)], [⟨0, 1, .w1c, 0x0⟩, ⟨1, 1, .w1c, 0x0⟩, ⟨2, 1, .w1c, 0x0⟩, ⟨3, 1, .w1c, 0x0⟩, ⟨16, 1, .w1c, 0x0⟩, ⟨17, 1, .w1c, 0x0⟩, ⟨18, 1, .w1c, 0x0⟩, ⟨19, 1, .w1c, 0x0⟩, ⟨20, 1, .w1c, 0x0⟩, ⟨21, 1, .w1c, 0x0⟩, ⟨22, 1, .w1c, 0x0⟩, ⟨23, 1, .w1c, 0x0⟩]⟩, -- FPE_LCAUSE
  ⟨A.FPE_FCAUSE 0, [(32, 0x10000)], [⟨0, 1, .w1c, 0x0⟩, ⟨1, 1, .w1c, 0x0⟩, ⟨2, 1, .w1c, 0x0⟩, ⟨3, 1, .w1c, 0x0⟩, ⟨4, 1, .w1c, 0x0⟩, ⟨5, 1, .w1c, 0x0⟩, ⟨6, 1, .w1c, 0x0⟩, ⟨7, 1, .w1c, 0x0⟩]⟩, -- FPE_FCAUSE
  ⟨A.FPE_LANE 0, [(32, 0x10000)], [⟨0, 3, .rw, 0x0⟩, ⟨3, 1, .rw, 0x0⟩, ⟨4, 9, .w1c, 0x0⟩]⟩, -- FPE_LANE
  ⟨A.FPE_PREC_PAGE 0, [(32, 0x10000)], [⟨0, 24, .ro, 0x0⟩, ⟨24, 1, .ro, 0x0⟩]⟩, -- FPE_PREC_PAGE
  ⟨A.FPE_PREC_FLAGS 0, [(32, 0x10000)], [⟨0, 1, .ro, 0x0⟩, ⟨1, 1, .ro, 0x0⟩, ⟨2, 1, .ro, 0x0⟩, ⟨3, 1, .ro, 0x0⟩, ⟨4, 1, .ro, 0x0⟩, ⟨5, 1, .ro, 0x0⟩, ⟨6, 1, .ro, 0x0⟩, ⟨16, 1, .ro, 0x0⟩, ⟨17, 1, .ro, 0x0⟩, ⟨18, 1, .ro, 0x0⟩, ⟨19, 1, .ro, 0x0⟩, ⟨20, 1, .ro, 0x0⟩, ⟨21, 1, .ro, 0x0⟩]⟩, -- FPE_PREC_FLAGS
  ⟨A.NST_CTL 0, [(32, 0x10000)], [⟨0, 1, .rw, 0x0⟩, ⟨1, 1, .wo, 0x0⟩, ⟨16, 10, .rw, 0x200⟩]⟩, -- NST_CTL
  ⟨A.NST_STATUS 0, [(32, 0x10000)], [⟨0, 11, .ro, 0x0⟩, ⟨11, 1, .ro, 0x0⟩, ⟨12, 1, .ro, 0x0⟩, ⟨13, 1, .ro, 0x0⟩, ⟨14, 1, .ro, 0x1⟩]⟩, -- NST_STATUS
  ⟨A.NST_CAUSE 0, [(32, 0x10000)], [⟨0, 1, .w1c, 0x0⟩, ⟨1, 1, .w1c, 0x0⟩, ⟨2, 1, .w1c, 0x0⟩, ⟨3, 1, .w1c, 0x0⟩, ⟨4, 1, .w1c, 0x0⟩, ⟨5, 1, .w1c, 0x0⟩]⟩, -- NST_CAUSE
  ⟨A.NST_WATER 0, [(32, 0x10000)], [⟨0, 11, .rw, 0x100⟩]⟩, -- NST_WATER
  ⟨A.NST_STITCH 0, [(32, 0x10000)], [⟨0, 7, .rw, 0x0⟩]⟩, -- NST_STITCH
  ⟨A.NST_UPD_LO 0, [(32, 0x10000)], [⟨0, 18, .wo, 0x0⟩, ⟨18, 1, .wo, 0x0⟩, ⟨19, 1, .wo, 0x0⟩]⟩, -- NST_UPD_LO
  ⟨A.NST_UPD_HI 0, [(32, 0x10000)], [⟨0, 8, .wo, 0x0⟩, ⟨8, 8, .wo, 0x0⟩]⟩, -- NST_UPD_HI
  ⟨A.RSP_CTL 0, [(32, 0x10000)], [⟨0, 1, .rw, 0x0⟩, ⟨1, 1, .wo, 0x0⟩, ⟨2, 1, .wo, 0x0⟩]⟩, -- RSP_CTL
  ⟨A.RSP_CFG 0, [(32, 0x10000)], [⟨0, 6, .rw, 0x10⟩, ⟨8, 6, .rw, 0x8⟩]⟩, -- RSP_CFG
  ⟨A.RSP_STATUS 0, [(32, 0x10000)], [⟨0, 2, .ro, 0x0⟩, ⟨2, 1, .ro, 0x0⟩, ⟨3, 1, .ro, 0x1⟩, ⟨8, 4, .ro, 0x0⟩]⟩, -- RSP_STATUS
  ⟨A.RSP_LEVEL 0, [(32, 0x10000)], [⟨0, 6, .ro, 0x0⟩, ⟨8, 6, .ro, 0x0⟩, ⟨16, 6, .ro, 0x30⟩]⟩, -- RSP_LEVEL
  ⟨A.FPE_ARM_LINE 0, [(32, 0x10000)], [⟨0, 32, .rw, 0x0⟩]⟩, -- FPE_ARM_LINE
  ⟨A.FPE_LEN 0, [(32, 0x10000)], [⟨0, 1, .rw, 0x0⟩, ⟨1, 1, .rw, 0x0⟩, ⟨2, 1, .rw, 0x0⟩, ⟨3, 1, .rw, 0x0⟩, ⟨16, 1, .rw, 0x0⟩, ⟨17, 1, .rw, 0x0⟩, ⟨18, 1, .rw, 0x0⟩, ⟨19, 1, .rw, 0x0⟩, ⟨20, 1, .rw, 0x0⟩, ⟨21, 1, .rw, 0x0⟩, ⟨22, 1, .rw, 0x0⟩, ⟨23, 1, .rw, 0x0⟩]⟩, -- FPE_LEN
  ⟨A.FPE_FEN 0, [(32, 0x10000)], [⟨0, 1, .rw, 0x0⟩, ⟨1, 1, .rw, 0x0⟩, ⟨2, 1, .rw, 0x0⟩, ⟨3, 1, .rw, 0x0⟩, ⟨4, 1, .rw, 0x0⟩, ⟨5, 1, .rw, 0x0⟩, ⟨6, 1, .rw, 0x0⟩, ⟨7, 1, .rw, 0x0⟩]⟩, -- FPE_FEN
  ⟨A.FPE_PQ_W0 0, [(32, 0x10000)], [⟨0, 32, .wo, 0x0⟩]⟩, -- FPE_PQ_W0
  ⟨A.FPE_PQ_W1 0, [(32, 0x10000)], [⟨0, 32, .wo, 0x0⟩]⟩, -- FPE_PQ_W1
  ⟨A.FPE_PQ_W2 0, [(32, 0x10000)], [⟨0, 32, .wo, 0x0⟩]⟩, -- FPE_PQ_W2
  ⟨A.FPE_PQ_W3 0, [(32, 0x10000)], [⟨0, 32, .wo, 0x0⟩]⟩, -- FPE_PQ_W3
  ⟨A.FPE_PQ_W4 0, [(32, 0x10000)], [⟨0, 32, .wo, 0x0⟩]⟩, -- FPE_PQ_W4
  ⟨A.FPE_PQ_W5 0, [(32, 0x10000)], [⟨0, 32, .wo, 0x0⟩]⟩, -- FPE_PQ_W5
  ⟨A.FPE_PQ_W6 0, [(32, 0x10000)], [⟨0, 32, .wo, 0x0⟩]⟩, -- FPE_PQ_W6
  ⟨A.FPE_PQ_W7 0, [(32, 0x10000)], [⟨0, 32, .wo, 0x0⟩]⟩, -- FPE_PQ_W7
  ⟨A.FPE_PQ_PUSH 0, [(32, 0x10000)], [⟨0, 32, .wo, 0x0⟩]⟩ -- FPE_PQ_PUSH
]

def barKinds1 : List RegKind := [
  ⟨A.FPE_CUR_PAGE 0, [(32, 0x10000)], [⟨0, 24, .ro, 0x0⟩]⟩, -- FPE_CUR_PAGE
  ⟨A.FPE_CUR_LINE 0, [(32, 0x10000)], [⟨0, 32, .ro, 0x0⟩]⟩, -- FPE_CUR_LINE
  ⟨A.FPE_OFFSET_LO 0, [(32, 0x10000)], [⟨0, 32, .rw, 0x0⟩]⟩, -- FPE_OFFSET_LO
  ⟨A.FPE_OFFSET_LO_LIVE 0, [(32, 0x10000)], [⟨0, 32, .ro, 0x0⟩]⟩, -- FPE_OFFSET_LO_LIVE
  ⟨A.FPE_OFFSET_HI 0, [(32, 0x10000)], [⟨0, 16, .rw, 0x0⟩]⟩, -- FPE_OFFSET_HI
  ⟨A.FPE_OFFSET_HI_LIVE 0, [(32, 0x10000)], [⟨0, 16, .ro, 0x0⟩]⟩, -- FPE_OFFSET_HI_LIVE
  ⟨A.FPE_WIN_START 0, [(32, 0x10000)], [⟨0, 17, .rw, 0x0⟩]⟩, -- FPE_WIN_START
  ⟨A.FPE_WIN_START_LIVE 0, [(32, 0x10000)], [⟨0, 17, .ro, 0x0⟩]⟩, -- FPE_WIN_START_LIVE
  ⟨A.FPE_WIN_END 0, [(32, 0x10000)], [⟨0, 17, .rw, 0x13FFF⟩]⟩, -- FPE_WIN_END
  ⟨A.FPE_WIN_END_LIVE 0, [(32, 0x10000)], [⟨0, 17, .ro, 0x13FFF⟩]⟩, -- FPE_WIN_END_LIVE
  ⟨A.FPE_SEGMASK 0, [(32, 0x10000)], [⟨0, 8, .rw, 0xFF⟩]⟩, -- FPE_SEGMASK
  ⟨A.FPE_SEGMASK_LIVE 0, [(32, 0x10000)], [⟨0, 8, .ro, 0xFF⟩]⟩, -- FPE_SEGMASK_LIVE
  ⟨A.FPE_WARMCNT 0, [(32, 0x10000)], [⟨0, 24, .rw, 0x0⟩]⟩, -- FPE_WARMCNT
  ⟨A.FPE_WARMCNT_LIVE 0, [(32, 0x10000)], [⟨0, 24, .ro, 0x0⟩]⟩, -- FPE_WARMCNT_LIVE
  ⟨A.FPE_ROWOFS 0, [(32, 0x10000)], [⟨0, 16, .rw, 0x0⟩, ⟨16, 1, .rw, 0x0⟩]⟩, -- FPE_ROWOFS
  ⟨A.FPE_ROWOFS_LIVE 0, [(32, 0x10000)], [⟨0, 16, .ro, 0x0⟩, ⟨16, 1, .ro, 0x0⟩]⟩, -- FPE_ROWOFS_LIVE
  ⟨A.FPE_GT 0 0, [(32, 0x10000), (16, 0x4)], [⟨0, 21, .rw, 0x0⟩]⟩, -- FPE_GT
  ⟨A.FPE_GT_LIVE 0 0, [(32, 0x10000), (16, 0x4)], [⟨0, 21, .ro, 0x0⟩]⟩, -- FPE_GT_LIVE
  ⟨A.FPE_SR_SEGLO 0, [(32, 0x10000)], [⟨0, 32, .ro, 0x0⟩]⟩, -- FPE_SR_SEGLO
  ⟨A.FPE_SR_SEGHI 0, [(32, 0x10000)], [⟨0, 32, .ro, 0x0⟩]⟩, -- FPE_SR_SEGHI
  ⟨A.FPE_SR_HEAD 0, [(32, 0x10000)], [⟨0, 32, .ro, 0x0⟩]⟩, -- FPE_SR_HEAD
  ⟨A.FPE_SR_CFG 0, [(32, 0x10000)], [⟨0, 8, .rw, 0x8⟩]⟩, -- FPE_SR_CFG
  ⟨A.FPE_DROPPED 0, [(32, 0x10000)], [⟨0, 32, .rc, 0x0⟩]⟩, -- FPE_DROPPED
  ⟨A.FPE_HELD 0, [(32, 0x10000)], [⟨0, 32, .rc, 0x0⟩]⟩, -- FPE_HELD
  ⟨A.FPE_LOST_LINES 0, [(32, 0x10000)], [⟨0, 32, .rc, 0x0⟩]⟩, -- FPE_LOST_LINES
  ⟨A.FPE_CORRUPT_LINES 0, [(32, 0x10000)], [⟨0, 32, .rc, 0x0⟩]⟩, -- FPE_CORRUPT_LINES
  ⟨A.FPE_SR_ERR 0, [(32, 0x10000)], [⟨0, 32, .rc, 0x0⟩]⟩, -- FPE_SR_ERR
  ⟨A.FPE_KILLED_LINES 0, [(32, 0x10000)], [⟨0, 32, .rc, 0x0⟩]⟩, -- FPE_KILLED_LINES
  ⟨A.FPE_PREC_TAG 0, [(32, 0x10000)], [⟨0, 32, .ro, 0x0⟩]⟩, -- FPE_PREC_TAG
  ⟨A.FPE_PREC_DROPPED 0, [(32, 0x10000)], [⟨0, 32, .ro, 0x0⟩]⟩ -- FPE_PREC_DROPPED
]

def barKinds2 : List RegKind := [
  ⟨A.FPE_PREC_HELD 0, [(32, 0x10000)], [⟨0, 32, .ro, 0x0⟩]⟩, -- FPE_PREC_HELD
  ⟨A.FPE_PREC_MAXERR 0, [(32, 0x10000)], [⟨0, 16, .ro, 0x0⟩]⟩, -- FPE_PREC_MAXERR
  ⟨A.FPE_PREC_LOST 0, [(32, 0x10000)], [⟨0, 32, .ro, 0x0⟩]⟩, -- FPE_PREC_LOST
  ⟨A.NST_EN 0, [(32, 0x10000)], [⟨0, 1, .rw, 0x0⟩, ⟨1, 1, .rw, 0x0⟩, ⟨2, 1, .rw, 0x0⟩, ⟨3, 1, .rw, 0x0⟩, ⟨4, 1, .rw, 0x0⟩, ⟨5, 1, .rw, 0x0⟩]⟩, -- NST_EN
  ⟨A.NST_STITCH_LIVE 0, [(32, 0x10000)], [⟨0, 7, .ro, 0x0⟩]⟩, -- NST_STITCH_LIVE
  ⟨A.NST_APPLIED 0, [(32, 0x10000)], [⟨0, 32, .rc, 0x0⟩]⟩, -- NST_APPLIED
  ⟨A.NST_LOCK_SKIP 0, [(32, 0x10000)], [⟨0, 32, .rc, 0x0⟩]⟩, -- NST_LOCK_SKIP
  ⟨A.NST_PAIR_ALONE 0, [(32, 0x10000)], [⟨0, 32, .rc, 0x0⟩]⟩, -- NST_PAIR_ALONE
  ⟨A.NST_FLUSHED 0, [(32, 0x10000)], [⟨0, 32, .rc, 0x0⟩]⟩, -- NST_FLUSHED
  ⟨A.NST_BAD_ADDR 0, [(32, 0x10000)], [⟨0, 32, .rc, 0x0⟩]⟩, -- NST_BAD_ADDR
  ⟨A.NST_COLLISIONS 0, [(32, 0x10000)], [⟨0, 32, .rc, 0x0⟩]⟩, -- NST_COLLISIONS
  ⟨A.NST_UNPL_TOTAL 0, [(32, 0x10000)], [⟨0, 32, .rc, 0x0⟩]⟩, -- NST_UNPL_TOTAL
  ⟨A.NST_THIN_TOTAL 0, [(32, 0x10000)], [⟨0, 32, .rc, 0x0⟩]⟩, -- NST_THIN_TOTAL
  ⟨A.NST_PREC_UNPL 0, [(32, 0x10000)], [⟨0, 32, .ro, 0x0⟩]⟩, -- NST_PREC_UNPL
  ⟨A.NST_PREC_THIN 0, [(32, 0x10000)], [⟨0, 32, .ro, 0x0⟩]⟩, -- NST_PREC_THIN
  ⟨A.RSP_STAGE 0, [(32, 0x10000)], [⟨0, 16, .ro, 0x0⟩]⟩, -- RSP_STAGE
  ⟨A.RSP_STREAM_LINE 0, [(32, 0x10000)], [⟨0, 32, .ro, 0x0⟩]⟩, -- RSP_STREAM_LINE
  ⟨A.RSP_RESUME_IDX 0, [(32, 0x10000)], [⟨0, 32, .ro, 0x0⟩]⟩, -- RSP_RESUME_IDX
  ⟨A.RSP_RESUME_DUE_LO 0, [(32, 0x10000)], [⟨0, 32, .ro, 0x0⟩]⟩, -- RSP_RESUME_DUE_LO
  ⟨A.RSP_RESUME_DUE_HI 0, [(32, 0x10000)], [⟨0, 16, .ro, 0x0⟩]⟩, -- RSP_RESUME_DUE_HI
  ⟨A.RSP_UNDERRUNS 0, [(32, 0x10000)], [⟨0, 32, .rc, 0x0⟩]⟩, -- RSP_UNDERRUNS
  ⟨A.RSP_SKIPPED 0, [(32, 0x10000)], [⟨0, 32, .rc, 0x0⟩]⟩, -- RSP_SKIPPED
  ⟨A.RSP_PAUSED 0, [(32, 0x10000)], [⟨0, 32, .rc, 0x0⟩]⟩, -- RSP_PAUSED
  ⟨A.RSP_STOPS 0, [(32, 0x10000)], [⟨0, 32, .rc, 0x0⟩]⟩, -- RSP_STOPS
  ⟨A.RSP_REPRINTED 0, [(32, 0x10000)], [⟨0, 32, .rc, 0x0⟩]⟩, -- RSP_REPRINTED
  ⟨A.RSP_STREAM_ERRS 0, [(32, 0x10000)], [⟨0, 32, .rc, 0x0⟩]⟩, -- RSP_STREAM_ERRS
  ⟨A.RSP_ABANDONED 0, [(32, 0x10000)], [⟨0, 32, .rc, 0x0⟩]⟩, -- RSP_ABANDONED
  ⟨A.RSP_PREC_SKIPPED 0, [(32, 0x10000)], [⟨0, 32, .ro, 0x0⟩]⟩, -- RSP_PREC_SKIPPED
  ⟨A.RSP_PREC_STOPS 0, [(32, 0x10000)], [⟨0, 32, .ro, 0x0⟩]⟩, -- RSP_PREC_STOPS
  ⟨A.RSP_PREC_REPRINT 0, [(32, 0x10000)], [⟨0, 32, .ro, 0x0⟩]⟩ -- RSP_PREC_REPRINT
]

/-- The register kinds of block BAR. -/
def barKinds : List RegKind := barKinds0 ++ barKinds1 ++ barKinds2

/-- The register kinds of the block an offset lies in (Table 1.7). -/
def kindsAt (off : Nat) : List RegKind :=
  match off / 0x10000 with
  | 0x0 => sysKinds
  | 0x1 => pwrKinds
  | 0x2 => clkKinds ++ rstKinds
  | 0x3 => otpKinds
  | 0x4 => evtKinds
  | 0x5 => dmaKinds
  | 0x6 => dptKinds
  | 0x7 => mgtKinds
  | 0x8 => posKinds
  | 0x9 => xptKinds
  | 0xA => thmKinds
  | 0xB => calKinds
  | 0xC => camKinds ++ insKinds
  | 0xD => seqKinds
  | 0xE => memKinds
  | 0xF => gridKinds
  | b => if b < 0x30 then barKinds else []

/-- Whether an offset is one of a kind's registers: the index in each dimension is in its range. -/
def RegKind.hasFrom : List (Nat × Nat) → Nat → Bool
  | [], d => d == 0
  | (c, st) :: r, d => decide (d / st < c) && RegKind.hasFrom r (d % st)

/-- Whether an offset is one of a kind's registers. -/
def RegKind.has (k : RegKind) (off : Nat) : Bool :=
  decide (k.base ≤ off) && RegKind.hasFrom k.dims (off - k.base)

/-- The kind of the register at an offset; none where no register stands (R9). -/
def kindAt (off : Nat) : Option RegKind := (kindsAt off).find? (·.has off)

/-- The bits of a kind's reset word, from the Reset column of its fields (R8). -/
def RegKind.resetNat (k : RegKind) : Nat :=
  k.fields.foldl (fun a f => a + f.reset % 2 ^ f.w * 2 ^ f.lo) 0

/-- Reset values that the Reset column states as a function of the index: PRIO of a raster channel,
HALT_CAUSE of pairs 0 to 2 (Table 10.13), the group times (Table 2.11), VECTOR of EVT_MAPe, the
mask bit of an MSI-X table entry. -/
def indexedReset (off : Nat) : Nat :=
  if 0x100000 ≤ off ∧ off < 0x300000 then
    let r := off % 0x10000
    if 0x140 ≤ r ∧ r < 0x180 then 128 + 2000 * ((r - 0x140) / 4)
    else if 0x240 ≤ r ∧ r < 0x280 then 128 + 2000 * ((r - 0x240) / 4)
    else 0
  else if 0x40000 ≤ off ∧ off < 0x40400 then (off - 0x40000) / 4 % 64
  else if 0x48000 ≤ off ∧ off < 0x48400 then (if off % 16 = 12 then 1 else 0)
  else if off = A.SEQ_Pj_STATUS 0 ∨ off = A.SEQ_Pj_STATUS 1 ∨ off = A.SEQ_Pj_STATUS 2 then
    2 ^ (F.SEQ_Pj_STATUS_HALT_CAUSE 0).lo
  else if 0x51000 ≤ off ∧ off < 0x51000 + 32 * 0x40 ∧ (off - 0x51000) % 0x40 = A.DMA_Cc_CFG 0 - 0x51000 then
    2 ^ (F.DMA_Cc_CFG_PRIO 0).lo
  else 0

/-- The word a register holds after reset (R8); 0 where no register stands (R9). -/
def resetWord (off : Nat) : Word :=
  match kindAt off with
  | some k => BitVec.ofNat 32 (k.resetNat + indexedReset off)
  | none => 0

end Sys2Proof.Machine
end

