-- ==== Sys2Proof/Machine/State.lean ====
section
/-!
DEFINITION. The state of the block as plain data: the register file, the memories, every counter,
queue, buffer and mode the manual gives the part, and the queue of commands that wait. Registers
live in `regs`, keyed by BAR0 offset; an offset not listed reads its reset word, so that the reset
state lists none. What is no register stands in one structure per unit.
-/

namespace Sys2Proof.Machine

/-! ## Outcomes -/

/-- Why a step stops with a fault. No meaning of this model raises one: the manual gives every
command an effect. -/
inductive Fault where
  /-- Raised by no meaning; it stands for a command whose operands the block could not carry. Safe:
  the model would stop where the hardware goes on. -/
  | badOperand
  deriving DecidableEq, Repr

/-- Why a step is refused. -/
inductive Refusal where
  /-- Raised by an arm of `exec` whose command has no meaning yet. Safe: the model stops. -/
  | notModelled (mnemonic : String)
  deriving DecidableEq, Repr

/-! ## Fire grid and bars (chapters 02, 03, 04, 08) -/

/-- MODE of a frame header (Table 2.4). -/
inductive FrameMode where
  | print | warm | test | idle
  deriving DecidableEq, Repr

/-- The frame of one segment: header fields and the 20,480 data bits, bit i for nozzle i (R49,
Table 2.4). -/
structure SegFrame where
  mode : FrameMode := .idle
  onSpare : Bool := false
  warm : Nat := 0
  line : Nat := 0
  pcrc : Nat := 0
  data : BitVec 20480 := 0#20480
  deriving DecidableEq, Repr

/-- The page line index a frame carries: the page's serial number, the index, and whether the
index was selected for the first time (not a resend, R130). -/
structure FrameIdx where
  page : Nat
  idx : Nat
  first : Bool
  deriving DecidableEq, Repr

/-- A line of electrical nozzle testing (R234, R235): the reference line of a block, or the test line
of a cursor step with the sweep count it belongs to. -/
inductive TestLine where
  | reference
  | step (t sweep : Nat)
  deriving DecidableEq, Repr

/-- The frames of one line of a bar: the index they carry, the segments whose line carries it and the
segments that no lane served (R58), the frames of the segments, segment 0 first, the MODE 0b11 frames
of the failed lanes with their lane numbers (R56), the group times and test step that belong to the
line, and whether the thermal stage held warm pulses off when it was selected (R248). -/
structure LineFrame where
  idx : Option FrameIdx := none
  data : List Nat := []
  unserved : List Nat := []
  segs : List SegFrame := []
  idles : List (Nat × SegFrame) := []
  gts : List Nat := []
  test : Option TestLine := none
  warmOff : Bool := false
  deriving DecidableEq, Repr

/-- What a port drives on its strobe output in one line: the time of its SY edge, group times and widths in
GRID cycles, warm slots, and whether the strobes are suppressed, or since when a kill has cut them (R41-R43, R60). -/
structure LineOut where
  t0 : Nat := 0
  gts : List Nat := []
  w : Nat := 0
  ww : Nat := 0
  warmSlots : Nat := 0
  killed : Bool := false
  cutAt : Option Nat := none
  deriving DecidableEq, Repr

/-- A page descriptor (Table 2.9), and the stream line at which its page stream starts (R108). -/
structure PageDesc where
  page : Nat
  kind : Nat
  pt : Nat
  tofsrc : Nat
  abs : Bool
  lines : Nat
  tofseq : Nat
  seed : Word
  start : Int
  tag : Word
  serial : Nat
  base : Nat
  deriving DecidableEq, Repr

/-- Counts and flags of a page, written to its record at its end (R69, R89, RSP page record). -/
structure PageRec where
  flags : Nat := 0
  dropped : Nat := 0
  held : Nat := 0
  maxErr : Nat := 0
  lost : Nat := 0
  unpl : Nat := 0
  thin : Nat := 0
  skipped : Nat := 0
  stops : Nat := 0
  reprint : Nat := 0
  deriving DecidableEq, Repr

/-- The page or band in progress on a bar: start position S in POS48 units, next index to select,
the highest index selected so far plus one, indices selected for firing and not yet done (index,
tick of selection), lost segment frames not yet reprinted (index, segment), the largest row offset
under which each index was selected and the page line above the highest that a selected index uses
(R117, R119), the resend range's end (R130), the tick at which its last index is done, and the record
so far. -/
structure Page where
  desc : PageDesc
  s : Int
  next : Nat
  seen : Nat
  inflight : List (Nat × Nat) := []
  lost : List (Nat × Nat) := []
  used : List (Nat × Nat) := []
  usedHigh : Nat := 0
  resendEnd : Nat := 0
  endAt : Option Nat := none
  firstSent : Bool := false
  afterPause : Bool := false
  rcd : PageRec := {}
  deriving DecidableEq, Repr

/-- When an armed bar set is handed over (R70, R71): at the next page start, because ARM_AT_LINE was 0
or because an arming for a line has moved there; at a line of the page in progress, or at a line of the
next page. -/
inductive ArmAt where
  | pageStart
  | moved
  | lineNow (k : Nat)
  | lineNext (k : Nat)
  deriving DecidableEq, Repr

/-- A schedule check in progress (R47): whether a write of 1 to ARM or GARM started it, with
ARM_AT_LINE and FPE_ARM_LINE as they stood at that write. -/
structure BarCheck where
  arming : Bool
  atLine : Bool
  line : Nat
  deriving DecidableEq, Repr

/-- A schedule check of the global set in progress, with GRID_FORCE_BAR and GRID_FORCE_LINE as they
stood at the write of 1 to GARM (R74). -/
structure GridCheck where
  arming : Bool
  bar : Nat
  line : Nat
  deriving DecidableEq, Repr

/-- The writes of one PORT cycle to the shadow set of a bar or of the grid: the cycle, the words they have
replaced by offset, the check that ran before them, and whether one of them was a write of 1 to ARM or GARM
(R72, R75). -/
structure ShadowCycle (α : Type) where
  cycle : Nat
  was : Cells Word := []
  check : Option α := none
  arm : Bool := false
  deriving DecidableEq, Repr

/-- A raster write whose destination is not free: stream byte offset and bytes (R106). -/
structure WaitingWrite where
  off : Nat
  bytes : List Byte
  deriving DecidableEq, Repr

/-- A stream line that is in a slot: its number, the bytes written so far as a mask, whether it is
ready (R107, R115). -/
structure SlotLine where
  line : Nat
  mask : BitVec 20480
  ready : Bool
  deriving DecidableEq, Repr

/-- The copy the raster supply keeps of a pushed descriptor (R104), with its first stream line. -/
structure DescCopy where
  page : Nat
  kind : Nat
  lines : Nat
  base : Nat
  serial : Nat
  deriving DecidableEq, Repr

/-- A packed-raster run in progress: its token type and the words left. -/
inductive RunKind where
  | literal | zero | copy
  deriving DecidableEq, Repr

/-- The packed decoder's place: before a page header, or inside a page stream. -/
inductive DecAt where
  | header
  | tokens (d : DescCopy) (word : Nat) (run : Option (RunKind × Nat)) (line : Option Nat)
  deriving DecidableEq, Repr

/-- The raster supply of a bar (chapter 04): slots, the line below which all are released, the stream
line of the next descriptor, descriptor copies, stream lines to discard, writes that wait; the stream
byte up to which the staging area holds every byte, the one up to which they are consumed, and the
pieces (offset, length) that lie in it beyond the first gap; the decoder's place and credit; the stream
offset of byte 0 of the channel's descriptor; the page whose stream is in error. -/
structure Rsp where
  slots : List SlotLine := []
  release : Nat := 0
  nextBase : Nat := 0
  copies : List DescCopy := []
  discards : List (Nat × Nat) := []
  waiting : List WaitingWrite := []
  stageIn : Nat := 0
  stageOut : Nat := 0
  stageGot : List (Nat × Nat) := []
  dec : DecAt := .header
  credit : Nat := 0
  inPos : Int := 0
  errSerial : Option Nat := none
  deriving DecidableEq, Repr

/-- A push waiting for a free slot of an update FIFO (R93). -/
structure StalledPush where
  master : Master
  word : DWord
  since : Nat
  deriving DecidableEq, Repr

/-- The update FIFO of a bar, and the number of words that have left it (R92, R93, R100). -/
structure Nst where
  fifo : List DWord := []
  gone : Nat := 0
  held : Cells Word := []
  reserved : Cells Nat := []
  stalled : List StalledPush := []
  pairWindows : Nat := 0
  pairSince : Option Nat := none
  windowTick : Option Nat := none
  windowUsed : Nat := 0
  deriving DecidableEq, Repr

/-- Electrical nozzle test of a bar (R233-R236): whether the last tick lay in a bar gap, blocks begun
in it, the next line of the block (0 the reference), the working cursor and whether firmware wrote it
during the block, ET_WW reported in this gap, lines claimed by a class 2 measurement, currents and
void segments of the reference line, and void segments of the line being fired. -/
structure Et where
  gap : Bool := false
  blocks : Nat := 0
  line : Option Nat := none
  cur : Nat := 0
  curWritten : Bool := false
  wwTold : Bool := false
  claimed : Nat := 0
  refI : List Rat := []
  refVoid : Nat := 0
  lineVoid : Nat := 0
  deriving DecidableEq, Repr

/-- Everything of a bar that is not a register: fire port engine, raster supply, update FIFO,
electrical test and thermal stage clock. `closing` is a page that has ended at this tick and whose
record waits for the tick's status frame (R66); `handT` and `shadowAt` keep the last hand-over and the writes
of the last PORT cycle with one (R72); `lastSent` holds the frames sent last, also across a
stop of the grid (R50). -/
structure Bar where
  queue : List PageDesc := []
  serial : Nat := 0
  page : Option Page := none
  ended : Option (Nat × PageRec) := none
  closing : Option (PageDesc × PageRec) := none
  endTick : Nat := 0
  preUnderrun : Bool := false
  shifting : Option LineFrame := none
  latched : Option LineFrame := none
  previous : Option LineFrame := none
  lastSent : Option LineFrame := none
  out : LineOut := {}
  sel : Option (FrameIdx × List Nat) := none
  srTaken : Bool := true
  srOk : Bool := true
  srMiss : Nat := 0
  unserved : List Nat := []
  check : Option BarCheck := none
  armed : Option ArmAt := none
  abandon : Bool := false
  killSeen : Bool := false
  killCount : Nat := 0
  handT : Option Nat := none
  shadowAt : Option (ShadowCycle BarCheck) := none
  outT : Nat := 0
  rsp : Rsp := {}
  nst : Nst := {}
  et : Et := {}
  deriving DecidableEq, Repr

/-- The fire grid (chapter 02): phase accumulator and the time it stands for, line ticks
counted without wrapping, check in progress,
forced bar and line kept with the arming, held stop, ticks since autotune loaded, thermal clamp
(R249), pause and stop request (R124, R125), re-entry, the last hand-over and the writes of the last PORT
cycle with one (R75). -/
structure Grid where
  acc : Nat := 0
  accT : Nat := 0
  tickT : Nat := 0
  ticks : Nat := 0
  ticked : Bool := false
  check : Option GridCheck := none
  forceBar : Nat := 0
  forceLine : Nat := 0
  heldStop : Bool := false
  sinceTune : Nat := 0
  clampF2 : Option Nat := none
  stopAt : Option Nat := none
  stopTick : Nat := 0
  paused : Bool := false
  posFree : Bool := false
  handT : Option Nat := none
  shadowAt : Option (ShadowCycle GridCheck) := none
  deriving DecidableEq, Repr

/-! ## Position unit (chapter 05) -/

/-- Speed estimator of one source (R153-R155): timestamps of its history, newest first, each with
the magnitude of its count; direction; the estimate as last evaluated; VALID; and, after a
reversal, the last window magnitude and the last count before it. -/
structure Est where
  hist : List (Nat × Nat) := []
  dir : Int := 1
  v : Rat := 0
  valid : Bool := false
  rev : Option (Rat × Nat) := none
  deriving DecidableEq, Repr

/-- An encoder channel, or the SSI channel (index 4): accepted levels of A and B, unwrapped count,
estimator, wire monitors of A, B, Z (live, latched, time the pairs became clean), illegal
transition times, index check, and the movement of the last count. -/
structure Chan where
  a : Bool := false
  b : Bool := false
  z : Bool := false
  aT : Option Nat := none
  bT : Option Nat := none
  zT : Option Nat := none
  raw : Int := 0
  est : Est := {}
  lastT : Nat := 0
  lastMag : Nat := 0
  same : List (Option Nat) := [none, none, none]
  live : List Bool := [false, false, false]
  wire : List Bool := [false, false, false]
  cleanSince : Nat := 0
  illegal : List Nat := []
  indexKnown : Bool := false
  missing : Bool := false
  sinceIndex : Int := 0
  wentFwd : Bool := false
  wentBack : Bool := false
  heldCorr : Int := 0
  deriving DecidableEq, Repr

/-- SSI frame state (R145, R146). -/
structure Ssi where
  running : Bool := false
  fallT : Nat := 0
  startLow : Bool := false
  prev : Option Nat := none
  rejects : Nat := 0
  lastStart : Nat := 0
  deriving DecidableEq, Repr

/-- A fail-over anchor (R156): print-axis counter, secondary count, primary count. -/
structure Anchor where
  c : Int
  sec : Int
  pri : Int
  deriving DecidableEq, Repr

/-- A top-of-form edge latched and not yet published (R162, R163). -/
structure Capture where
  t : Nat
  c : Int
  lastT : Nat
  v : Rat
  valid : Bool
  qmax : Nat
  src : Nat
  lost : Bool
  deriving DecidableEq, Repr

/-- A top-of-form input: its level, the edges latched and not yet published, oldest first, the last accepted
captured position in whole counts. -/
structure Tof where
  level : Bool := false
  pend : List Capture := []
  last : Option Int := none
  deriving DecidableEq, Repr

/-- A comparator: the POS cycle from which it is evaluated, and that of the last write of 1 to ARM while it was
armed (R166). -/
structure Cmp where
  evalFrom : Nat := 0
  rearmed : Option Nat := none
  deriving DecidableEq, Repr

/-- The position unit: channels 0 to 3 are the encoders and 4 is SSI; C in 2^-24 counts; print
position in POS48 units with its hold; anchor; secondary count at the primary's last count; comparators. -/
structure Pos where
  chans : Vector Chan 5 := Vector.replicate 5 {}
  ssi : Ssi := {}
  c : Int := 0
  pp : Int := 0
  ppEst : Bool := false
  holding : Bool := false
  holdDeep : Bool := false
  anchor : Option Anchor := none
  anchorT : Nat := 0
  anchorTick : Option Nat := none
  secAtPri : Int := 0
  usePri : Bool := false
  tof : Vector Tof 4 := Vector.replicate 4 {}
  cmp : Vector Cmp 16 := Vector.replicate 16 {}
  deriving DecidableEq, Repr

/-! ## Transport unit (chapter 06) -/

/-- What follows EN_DELAY (R180, R191). -/
inductive AfterEnable where
  | ramp | reverse
  deriving DecidableEq, Repr

/-- A planned Pirouette (R186), positions in POS48 units. -/
structure PirPlan where
  j : Nat
  pre : Int
  pback : Rat
  deriving DecidableEq, Repr

/-- The transport unit and its profile generator. Y is in POS48 units, v_ref in counts per second,
`prevCode` the code before INVERT, `pin` the code loaded into the converter; the U that load points use, the last
write of U with its time until a later cycle's load point takes it (R177), whether a write was taken since the
last load point, runs of stale and overspeed load points, time and tick of the last load
point, the tick at which TRACK was entered by re-entry, ramp target, pending STOP, pending enable,
stop position, Pirouette due and planned, the last settling tests, an approach left unsettled. -/
structure Xpt where
  vref : Rat := 0
  y : Rat := 0
  prevCode : Int := 0
  pin : Int := 0
  uUsed : Int := 0
  uPend : Option (Nat × Int) := none
  uWritten : Bool := false
  staleRun : Nat := 0
  overRun : Nat := 0
  lastLoad : Nat := 0
  loadTick : Option Nat := none
  trackTick : Option Nat := none
  rampTo0 : Bool := false
  stopReq : Bool := false
  enable : Option (Nat × AfterEnable) := none
  ps : Int := 0
  pirDue : Bool := false
  plan : Option PirPlan := none
  errOk : List Bool := []
  unsettled : Bool := false
  xstopSince : Nat := 0
  deriving DecidableEq, Repr

/-! ## Krytis pairs (chapters 09, 10) -/

/-- A committed output of a pair: a store at an internal address, or a command word (R272, R298). -/
inductive Output where
  | store (addr : Nat) (bytes : List Byte)
  | command (w : DWord)
  deriving DecidableEq, Repr

/-- The one input of an interval: bytes of a unit load or atomic, the completion code of a wait, or
an event slot and level whose handler is entered (R304). -/
inductive Input where
  | value (bytes : List Byte)
  | code (w : Word)
  | handler (slot level : Nat)
  deriving DecidableEq, Repr

/-- A checkpoint interval: the registers, PC and core control registers at its start, data-memory
words written in it with their old bytes (newest first), outputs issued, input, time of start, time
at which its oldest output was issued, time at which it closed, whether it is the first after a
rollback, and whether it was closed into being for the instruction that comes next (R301-R306). -/
structure Interval where
  k : Vector Word 16 := Vector.replicate 16 0
  pc : Nat := 0
  cr : Cells Word := []
  undo : List (Nat × List Byte) := []
  outs : List Output := []
  input : Option Input := none
  start : Nat := 0
  firstOut : Option Nat := none
  closeT : Nat := 0
  retry : Bool := false
  pre : Bool := false
  deriving DecidableEq, Repr

/-- What a pair waits for (R295-R297). -/
inductive WaitFor where
  | slots (mask : Word)
  | comparator (c : Fin 16)
  | line (bar : Fin 32) (tick : Nat)
  deriving DecidableEq, Repr

/-- A wait in progress: its condition, destination register, deadline if it has one, and the completion code
once its condition or its timeout has come and earlier intervals have still to pass (R294). -/
structure Wait where
  cond : WaitFor
  rd : Fin 16
  deadline : Option Nat
  code : Option Word := none
  deriving DecidableEq, Repr

/-- STATE of a pair (SEQ_Pj_STATUS), with the wait in progress, and the halt's cause code while
halting. -/
inductive PairMode where
  | halted
  | running
  | waiting (w : Wait)
  | halting (cause : Nat)
  deriving DecidableEq, Repr

/-- A sequencer pair: mode, K0 to K15, PC, core control registers, the open interval, closed
intervals awaiting comparison (oldest first), outputs of passed intervals in the commit buffer, time
of start, CYCLE_HI snapshot, the recorded input to be taken again, times of failed retries, since
when a restore runs, whether the next instruction is exempt from breakpoints, a STEP requested. -/
structure Pair where
  mode : PairMode := .halted
  k : Vector Word 16 := Vector.replicate 16 0
  pc : Nat := 0
  cr : Cells Word := []
  cur : Interval := {}
  closed : List Interval := []
  ready : List Output := []
  startT : Nat := 0
  cycHi : Word := 0#32
  replay : Option Input := none
  fails : List Nat := []
  restoring : Option Nat := none
  noBrk : Bool := false
  stepReq : Bool := false
  deriving DecidableEq, Repr

/-- An image load of the boot ROM: image and key addresses, started by SEQ_BOOT_GO or by a call of
the ROM's load entry (R314, R318). -/
structure BootLoad where
  src : Nat
  key : Nat
  called : Bool
  deriving DecidableEq, Repr

/-- The boot ROM: the load in progress, whether the ROM's words are in SERVICE instruction memory,
and the time of the watchdog's last kick with its start (R311-R318). -/
structure Boot where
  load : Option BootLoad := none
  rom : Bool := false
  kickT : Nat := 0
  wdOn : Bool := false
  warned : Bool := false
  deriving DecidableEq, Repr

/-! ## DMA engine (chapter 11) -/

/-- A descriptor as fetched (R323, R324): its 32 bytes. -/
structure Desc where
  raw : List Byte
  deriving DecidableEq, Repr

/-- A read request of a channel that has not completed: its tag (a host tag below 1,024, else a number
of an internal read), source address, bytes of the transfer it covers, offset of those bytes in the
descriptor, times it was tried before, time of issue (R331, R339); of a descriptor fetch also whether a doorbell
was written since it began (R325). -/
structure DmaRead where
  tag : Nat
  addr : Nat
  len : Nat
  off : Nat
  tries : Nat
  t : Nat
  rung : Bool := false
  deriving DecidableEq, Repr

/-- A piece of a transfer that has to be issued again, or has been read and waits for its destination
(R333, R339). -/
structure DmaPiece where
  off : Nat
  len : Nat
  tries : Nat
  bytes : Option (List Byte)
  deriving DecidableEq, Repr

/-- A DMA channel: descriptors fetched ahead (the first is the one in progress), the fetches that have not
returned, oldest first (one of length 0 brings nothing any more), whether prefetch has stopped, a doorbell since
it stopped, a fetch due in WAIT, the time of the last fetch in WAIT, tokens in 1/25,600 bytes and the time of their
last accrual, bytes issued and landed of the descriptor in progress, outstanding reads, pieces to do again or
waiting, whether HALF was raised, bytes landed in all, the status of the descriptor once it has ended with the time
of that, the time of the abort that stops it, the status of a fetch whose retries are used up, and the tries of the
fetch to be issued next. -/
structure DmaChan where
  fetched : List Desc := []
  fetches : List DmaRead := []
  stopped : Bool := false
  stopBell : Bool := false
  bell : Bool := false
  pollT : Nat := 0
  tokens : Nat := 0
  tokenT : Nat := 0
  issued : Nat := 0
  landed : Nat := 0
  reads : List DmaRead := []
  pieces : List DmaPiece := []
  halfDone : Bool := false
  total : Nat := 0
  ending : Option Nat := none
  endT : Nat := 0
  abortT : Nat := 0
  fetchFail : Option Nat := none
  retries : Nat := 0
  deriving DecidableEq, Repr

/-! ## Memory control (chapter 11) -/

/-- A memory bank (Table 11.6, Table 11.12): power (0 off, 1 on, 2 retention), lost, degraded, wiping,
its counters, background-test position and passes, stored signature, queued scrub write-backs
(word offset, cycle queued). -/
structure BankS where
  power : Nat := 1
  lost : Bool := false
  degraded : Bool := false
  wiping : Bool := false
  ce : Nat := 0
  ue : Nat := 0
  coll : Nat := 0
  btPos : Nat := 0
  btLast : Nat := 0
  btPass : Nat := 0
  sig : Nat := 0
  scrub : List Nat := []
  deriving DecidableEq, Repr

/-! ## Thermal unit and calibration (chapter 08) -/

/-- A temperature channel: its last converted readings (newest first, at most 10), the rate window (newest
first, at most 8), the previous converted reading, the consecutive OPEN and SHORT readings, whether
the last reading jumped, since when it has disagreed with its neighbours, and the consecutive clean
readings while failed (R240-R243), and the scan frame of its last reading (R238). -/
structure ThmChan where
  taken : List Int := []
  win : List Int := []
  prev : Option Int := none
  openRun : Nat := 0
  shortRun : Nat := 0
  jump : Bool := false
  ndisSince : Option Nat := none
  cleanRun : Nat := 0
  frame : Option Nat := none
  deriving DecidableEq, Repr

/-- Throttling of a bar: since when the warn condition has held at every reading, since when it has
been false at every reading, the trip as last evaluated, a line-rate reduction due, and the time
from which a further one counts (R246-R250). -/
structure ThmBar where
  heldSince : Option Nat := none
  falseSince : Option Nat := none
  trip : Bool := false
  redDue : Bool := false
  redT : Option Nat := none
  deriving DecidableEq, Repr

/-- The thermal unit. -/
structure Thm where
  chans : Vector ThmChan 260 := Vector.replicate 260 {}
  bars : Vector ThmBar 32 := Vector.replicate 32 {}
  boardTrip : Bool := false
  deriving DecidableEq, Repr

/-- A calibration pair in progress: when it started, whether a request waits for it, what it has used of its
opportunity (lines, frames, edges, or measurements of class 7), when its first measurement completed, and since
when its opportunity has lasted (R225-R228, R230). -/
structure CalPair where
  start : Nat
  requested : Bool
  units : Nat := 0
  m1T : Option Nat := none
  t0 : Nat := 0
  deriving DecidableEq, Repr

/-- A calibration instance: value in use and gain trim, the value still to be applied and since when, disagreement
count, STALE, status of the last pair, time of the last agreement, whether it has agreed since reset,
and the pair in progress (R227-R232). -/
structure CalInst where
  value : Int := 0
  gain : Int := 0
  target : Option (Int × Int) := none
  targetT : Nat := 0
  dis : Nat := 0
  stale : Bool := false
  last : Nat := 0
  agreeT : Nat := 0
  agreed : Bool := false
  pair : Option CalPair := none
  deriving DecidableEq, Repr

/-- The upper half of a record that a 4-byte read has held for its master, and which record of the FIFO it is, by
the number popped before it; none of an empty FIFO (R220). -/
structure HeldHalf where
  hi : Word
  serial : Option Nat
  deriving DecidableEq, Repr

/-- The calibration unit: the 417 instances of Table 8.2 in class order, each class's next instance and
the time of its last scheduled pair, and the electrical test FIFO with the records that wait for its room,
the number popped and the upper halves held for masters (R237). -/
structure Cal where
  inst : Vector CalInst 417 := Vector.replicate 417 {}
  next : Vector Nat 8 := Vector.replicate 8 0
  lastT : Vector Nat 8 := Vector.replicate 8 0
  etFifo : List DWord := []
  etWait : List DWord := []
  etPops : Nat := 0
  etHeld : Cells HeldHalf := []
  deriving DecidableEq, Repr

/-! ## Cameras and inspection (chapter 07) -/

/-- An outstanding trigger: sequence number, GEN, timestamp, time of issue, SETTINGS_UNCERTAIN
(R210-R213). -/
structure Trigger where
  tseq : Nat
  gen : Nat
  ts : Nat
  t : Nat
  uncertain : Bool
  deriving DecidableEq, Repr

/-- A strobe of an issued trigger: times of its edges and whether it is high (Table 7.4). -/
structure Strobe where
  rise : Nat
  width : Nat
  high : Bool
  deriving DecidableEq, Repr

/-- An image line of a frame: its pixels as received, whether its content is missing for the pipeline,
whether it was stored (Table 7.2). -/
structure CamLine where
  px : List Nat
  miss : Bool
  stored : Bool
  deriving DecidableEq, Repr

/-- An analysis request (R218), and whether a frame has been matched with it. -/
structure AReq where
  bar : Nat
  pt : Nat
  gset : Nat
  tseq : Nat
  ovl : Nat
  taken : Bool
  deriving DecidableEq, Repr

/-- A frame of a port: its tags, flags and counts (Table 7.5), its number among the closed frames, its
configuration, embedded lines, each with the number of stored image lines that go before it, and image lines, flat-fielded lines while in the pipeline, stagger rows
emitted, the request it is analysed under, bytes delivered by the DMA channel, whether the descriptor
with its last byte is written back, and the time of its start,
last image line and end. -/
structure CamFrame where
  tseq : Nat
  gen : Nat
  flags : Nat
  k : Nat := 0
  cfg : Word
  lines : Nat := 0
  discarded : Nat := 0
  crcErrs : Nat := 0
  eccCorr : Nat := 0
  eccBad : Nat := 0
  trigTs : Nat
  fsTs : Nat
  observed : Nat := 0
  unobserved : Nat := 0
  store : Bool
  live : Bool
  emb : List (Nat × List Nat) := []
  embLines : Nat := 0
  img : List CamLine := []
  flat : List (List (Option Nat)) := []
  geo : List Word := []
  rows : Nat := 0
  req : Option AReq := none
  sent : Nat := 0
  written : Nat := 0
  freed : Nat := 0
  eof : Bool := false
  lastT : Nat
  endT : Nat := 0
  deriving DecidableEq, Repr

/-- A CCI command (R214). -/
structure CciCmd where
  addr : Nat
  rd : Bool
  alen : Nat
  n : Nat
  setting : Bool
  tag : Nat
  reg : Nat
  wdata : Word
  deriving DecidableEq, Repr

/-- What a CCI command puts on its bus, in order: a start, or a repeated one, a byte sent, a byte read, the stop
(R214). -/
inductive CciSym where
  | start | sent (b : Byte) | read | stop
  deriving DecidableEq, Repr

/-- A CCI result: TAG, status, data read. -/
structure CciRes where
  tag : Nat
  status : Nat
  data : Word
  deriving DecidableEq, Repr

/-- A camera port: the configuration in effect, the open frame, whether it discards packets after a LATE closure,
frames closed, its store, analysis requests, outstanding triggers, the CAM cycle of the last trigger request, the
last issue, CAM_TRIG high, the strobe, the STRB_W of the previous trigger, triggers since the last setting, the
CAM cycle of the last write of STRB_DLY or STRB_W with the values it replaced (R210), the CCI queues, the command
on the CCI bus and what it puts there. -/
structure CamPort where
  cfg : Word := 0x10000002#32
  frame : Option CamFrame := none
  lateWait : Bool := false
  closed : Nat := 0
  store : List CamFrame := []
  areqs : List AReq := []
  trigs : List Trigger := []
  lastReq : Option Nat := none
  lastIssue : Option Nat := none
  trigHigh : Bool := false
  strobe : Option Strobe := none
  prevW : Option Nat := none
  sinceSet : Option Nat := none
  strbWas : Option (Nat × Nat × Nat) := none
  cciQ : List CciCmd := []
  cciRun : Option CciCmd := none
  cciBus : List CciSym := []
  cciRes : List CciRes := []
  deriving DecidableEq, Repr

/-- A replay in the pipeline: its port, the frame with the lines that have passed, the records still to be entered,
and the time from which its next line passes (R200, R201, R220). -/
structure Replay where
  port : Fin 4
  frame : CamFrame
  outbox : List DWord
  t : Nat
  deriving DecidableEq, Repr

/-- The inspection unit: ports, the live port in effect, the replay, the verdict FIFO and the number of
records popped, the pipeline tables that differ from their reset value (from 0 once their bank has been wiped
on request), the upper halves held for a master by a 4-byte read of its window. -/
structure Ins where
  ports : Vector CamPort 4 := Vector.replicate 4 {}
  live : Fin 4 := 0
  replay : Option Replay := none
  fifo : List DWord := []
  pops : Nat := 0
  zeroed : Bool := false
  tables : Cells Word := []
  held : Cells HeldHalf := []
  deriving DecidableEq, Repr

/-! ## OTP (chapter 15) -/

/-- An operation of the OTP controller (R443). -/
inductive OtpOp where
  | program (word : Nat) (data : Word)
  | margin (word : Nat) (expect : Option Word)
  | seal (region slot : Nat)
  | count (k n : Nat)
  | life (target : Nat)
  | unknown
  deriving DecidableEq, Repr

/-- The command that runs, with the status it ends with when it was refused. -/
structure OtpCmd where
  op : OtpOp
  refused : Option Nat
  deriving DecidableEq, Repr

/-- The OTP array and its shadow: the bits of each copy that read 1 at both references, those that read
1 at the low one only, the shadow of words 0x010 and 0x011 and of every word of the four shadowed regions, the
slot each was loaded from, the command that runs, and the slots, slot s of region r by bit 2r + s, that a SEAL ending
with WEAK_BIT has left INCOMPLETE since the last start (R423-R443). -/
structure Otp where
  strong0 : Cells Word := []
  strong1 : Cells Word := []
  weak0 : Cells Word := []
  weak1 : Cells Word := []
  lc : Word := 0#32
  locks : Word := 0#32
  deviceId : List Word := []
  bootKeys : List Word := []
  repair : List Word := []
  calib : List Word := []
  loaded : List (Option Nat) := [none, none, none, none]
  cmd : Option OtpCmd := none
  left : Nat := 0
  deriving DecidableEq, Repr

/-! ## Power, clocks, reset (chapters 13, 14) -/

/-- What a power request asks for (R401-R404). -/
inductive PwrTarget where
  | idle | standby | hibernate
  | domains (off on : Nat)
  deriving DecidableEq, Repr

/-- A request in progress: target, FORCE, time of acceptance, whether its handshake has passed (with the
time), its status once a domain request has ended. -/
structure PwrReq where
  target : PwrTarget
  force : Bool
  t : Nat
  passed : Option Nat := none
  ended : Option Nat := none
  deriving DecidableEq, Repr

/-- A memory request of the host that waits until the device is ON again (R414). -/
inductive HeldAccess where
  | bar0 (off : Nat) (len : Nat) (write : Option (List (Option Byte)))
  | bar2 (off : Nat) (len : Nat) (write : Option (List (Option Byte)))
  | port (len : Nat) (write : Option (List (Option Byte))) (off : Nat)
  deriving DecidableEq, Repr

/-- The power controller: request in progress; time of the first link wake and whether a pin wake came
since its acceptance, with the sources and whether one came in the acceptance cycle; domains on at
entry, LOADED bits at entry; the time a wake began the exit; memory requests held; when a wake was last sampled
with nothing in progress, and the sources of that cycle; whether the keeper of XSTOP_N holds it low; whether an
entry has stopped the clocks; since when an abandon is undone; the changes that the motion detectors of ENC0 to ENC3
have counted since the last request; the last die temperature of the sentinel; whether XFLT_N has been sampled low;
the supplies that come within range later than VDD_18, with the time of that; the device without supplies (R398-R416;
17 R463). -/
structure Power where
  req : Option PwrReq := none
  linkWake : Option Nat := none
  pinWake : Bool := false
  wakeSrc : Nat := 0
  stale : Bool := false
  savedDoms : Nat := 0
  savedLoaded : Nat := 0
  exitT : Option Nat := none
  held : List HeldAccess := []
  sampledT : Nat := 0
  sampled : Nat := 0
  xstopKept : Bool := false
  stopped : Bool := false
  undoT : Option Nat := none
  motion : Vector Nat 4 := Vector.replicate 4 0
  dieTemp : Option Int := none
  xfltLow : Bool := false
  late : List (Supply × Nat) := []
  off : Bool := false
  deriving DecidableEq, Repr

/-- The levels of a device reset (Table 13.5). -/
inductive ResetLevel where
  | powerOn | cold | warm
  deriving DecidableEq, Repr

/-- Clocks and reset: level of the reset whose sequence runs and the time it asserted, the level of the cause that
RST_LAST names, the training tap
of each port, ports whose training runs, the host PLL lost, PERST_N asserted (R386-R396). -/
structure Clocks where
  level : ResetLevel := .powerOn
  cause : ResetLevel := .powerOn
  resetT : Nat := 0
  taps : Cells Nat := []
  training : Nat := 0
  hostLost : Bool := false
  perst : Bool := false
  deriving DecidableEq, Repr

/-! ## Host link (chapter 12) -/

/-- The endpoint: the settings of configuration space that the manual's rules name (Max_Payload_Size and
Max_Read_Request_Size as 128 << code, MSI-X enable and function mask, PTM enable, PME enable and
status), the writable words of its header and of its capabilities with the error status of the function, the start
T1 of the PTM dialog in progress, the time of the last periodic one, WAKE_N driven low, and the link reset held
(R357-R365, R390, R414). -/
structure HostPort where
  mps : Nat := 0
  mrrs : Nat := 2
  msixEn : Bool := false
  msixMask : Bool := false
  ptmEn : Bool := false
  pmeEn : Bool := false
  pme : Bool := false
  header : Cells Word := []
  caps : Cells Word := []
  dialog : Option Nat := none
  ptmT : Nat := 0
  wakeLow : Bool := false
  held : Bool := true
  deriving DecidableEq, Repr


/-- A request of the management port (Table 12.4): its fields, whether its CRC is right, and whether MG_CS_N
rose before its response (R376). -/
structure MgtReq where
  cmd : Byte
  addr : Word
  len : Nat
  data : List Byte
  crcOk : Bool
  lost : Bool := false
  deriving DecidableEq, Repr

/-- A WRITE of the management port that waits for a slot of an update FIFO: the address behind the push
that waits, the bytes still to be written there, the bytes written before the push (R93, R374), whether its
response is lost (R376), and the requests that arrived behind it (R375). -/
structure MgtWrite where
  addr : Nat
  rest : List Byte
  done : Nat
  lost : Bool := false
  waiting : List MgtReq := []
  deriving DecidableEq, Repr

/-! ## The whole state -/

/-- The answer to the last access that was served for a master: its data bytes, whether the
completion is poisoned, and its status code. MODEL's own field. -/
structure Resp where
  bytes : List Byte := []
  poisoned : Bool := false
  status : Nat := 0
  deriving DecidableEq, Repr

/-- An error message of the host link (R364). -/
inductive ErrorMsg where
  | correctable | nonfatal | fatal
  deriving DecidableEq, Repr

/-- What the part has sent on its host link, oldest first. MODEL's own field. -/
inductive LinkMsg where
  | msix (vector : Nat) (addr : Nat) (data : Word)
  | memRead (chan : Nat) (tag : Nat) (addr : Nat) (len : Nat)
  | memWrite (chan : Nat) (addr : Nat) (bytes : List Byte)
  | ptmRequest
  | error (m : ErrorMsg)
  deriving DecidableEq, Repr

/-- The state of the block. -/
structure State where
  pending : List Instr
  fresh : Nat
  resp : Resp
  linkOut : List LinkMsg
  now : Nat
  regs : Cells Word
  snaps : Cells Word
  mem : List Host.Cell
  ceBad : List Nat
  ueBad : List Nat
  vlogLast : Cells Nat
  vlogK : Nat
  seqRun : Bool
  grid : Grid
  bars : Vector Bar 32
  pos : Pos
  xpt : Xpt
  hkillLow : Bool
  graceSince : Option Nat
  graceMet : Option Nat
  thm : Thm
  cal : Cal
  ins : Ins
  pairs : Vector Pair 4
  banks : Vector BankS 116
  wipe : Option Nat
  boot : Boot
  dma : Vector DmaChan 48
  dmaTurn : Nat × Nat
  otp : Otp
  power : Power
  clk : Clocks
  hl : HostPort
  mgt : Option MgtWrite
  deriving DecidableEq, Repr

/-- The machine right after a power-on reset, before the reset sequence has run. -/
def State.reset : State where
  pending := []
  fresh := 0
  resp := {}
  linkOut := []
  now := 0
  regs := []
  snaps := []
  mem := []
  ceBad := []
  ueBad := []
  vlogLast := []
  vlogK := 0
  seqRun := true
  grid := {}
  bars := Vector.replicate 32 {}
  pos := {}
  xpt := {}
  hkillLow := false
  graceSince := none
  graceMet := none
  thm := {}
  cal := {}
  ins := {}
  pairs := Vector.replicate 4 {}
  banks := Vector.replicate 116 {}
  wipe := none
  boot := {}
  dma := Vector.replicate 48 {}
  dmaTurn := (0, 0)
  otp := {}
  power := {}
  clk := {}
  hl := {}
  mgt := none

end Sys2Proof.Machine
end

