-- ==== Sys2Proof/Machine/Flags.lean ====
section
/-!
DEFINITION. Reading and writing fields of the register file, the saturating counters, the cause
bits with their events, the event router and MSI-X requests, and the violation log: the shared
status operations of every block (00 R4-R6; 01 R28, R29; 12 R366-R368, R378).
-/

namespace Sys2Proof.Machine

/-! ## Register words and fields -/

/-- The stored word of a register. -/
def State.reg (s : State) (off : Nat) : Word := Cells.get resetWord s.regs off

/-- Store a register word. -/
def State.setReg (s : State) (off : Nat) (w : Word) : State :=
  { s with regs := Cells.set resetWord s.regs off w }

/-- A field, unsigned. -/
def State.g (s : State) (f : Field) : Nat := Word.field (s.reg f.off) f.lo f.w

/-- A field, two's complement. -/
def State.gi (s : State) (f : Field) : Int := signed f.w (s.g f)

/-- A one-bit field as a truth value. -/
def State.bit (s : State) (f : Field) : Bool := s.g f == 1

/-- Store a field modulo its width. -/
def State.put (s : State) (f : Field) (v : Nat) : State :=
  s.setReg f.off (Word.insert (s.reg f.off) f.lo f.w v)

/-- Store a signed value in a field. -/
def State.puti (s : State) (f : Field) (v : Int) : State := s.put f (unsigned f.w v)

/-- Store a truth value in a one-bit field. -/
def State.putb (s : State) (f : Field) (b : Bool) : State := s.put f (b2n b)

/-- A 48-bit value held in two words: low word and the low 16 bits of the next. -/
def State.g48 (s : State) (lo hi : Field) : Int := signed 48 (s.g lo + 2 ^ 32 * (s.g hi % 2 ^ 16))

/-- Store a 48-bit value in a low word and a high field. -/
def State.put48 (s : State) (lo hi : Field) (x : Int) : State :=
  (s.put lo (unsigned 48 x)).put hi (unsigned 48 x / 2 ^ 32)

/-- Add to a counter, saturating at its width (the counter tables: "saturating"). -/
def State.bumpBy (s : State) (f : Field) (k : Nat) : State :=
  s.put f (min (s.g f + k) (2 ^ f.w - 1))

/-- Add one to a saturating counter. -/
def State.bump (s : State) (f : Field) : State := s.bumpBy f 1

/-! ## Time (13 R382): the timestamp base in 2^-16 ns -/

/-- `n` nanoseconds. -/
def ns (n : Nat) : Nat := n * 65536

/-- `n` microseconds. -/
def us (n : Nat) : Nat := ns (n * 1000)

/-- `n` milliseconds. -/
def ms (n : Nat) : Nat := us (n * 1000)

/-- One GRID cycle, 0.625 ns. -/
def gridCycle : Nat := 40960

/-- One POS cycle, 2.5 ns. -/
def posCycle : Nat := 163840

/-- The PORT cycle, of 1.6 ns, in which a time lies (13 Table 13.2). -/
def portCycleOf (t : Nat) : Nat := t * 5 / 524288

/-- Seconds of a span of time, as a rational. -/
def seconds (t : Nat) : Rat := (t : Rat) / 65536000000000

/-- The timestamp in nanoseconds, 64 bits. -/
def State.ts (s : State) : Nat := s.now / 65536 % 2 ^ 64

/-! ## Events (R366-R368) -/

/-- A message leaves on its vector with the table's address and data (R367). -/
def State.sendMsix (s : State) (v : Nat) : State :=
  { s with
    linkOut := s.linkOut ++
      [.msix v ((s.reg (A.EVT_MSIX_TABLE v 0)).toNat + 2 ^ 32 * (s.reg (A.EVT_MSIX_TABLE v 1)).toNat)
        (s.reg (A.EVT_MSIX_TABLE v 2))] }

/-- Whether messages on a vector can be sent now: MSI-X on and not masked, vector not masked, bus
master on, not in D3hot, link up (R362, R363, R367), no reset sequence (R395). -/
def State.vectorOpen (s : State) (v : Nat) : Bool :=
  s.bit F.SYS_HL_STATUS_MSIX_EN && s.bit F.SYS_HL_STATUS_BME && !s.bit F.SYS_HL_STATUS_D3HOT
    && s.bit F.SYS_HL_STATUS_LINK_UP && (s.reg (A.EVT_MSIX_TABLE v 3)).toNat % 2 == 0 && !s.seqRun

/-- The PBA bit of a vector. -/
def pbaField (v : Nat) : Field := ⟨A.EVT_PBA (v / 32), v % 32, 1⟩

/-- The router pending bit of an event (R29). -/
def pendField (e : Nat) : Field := ⟨A.EVT_PENDw (e / 32), e % 32, 1⟩

/-- One message is requested on a vector (R367): sent when the vector is deliverable, else its PBA
bit sets. -/
def State.requestMsix (s : State) (v : Nat) : State :=
  if s.vectorOpen v && !s.bit (pbaField v) then s.sendMsix v else s.put (pbaField v) 1

/-- Reset values of the core control registers (Tables 9.2 and 10.2): STATUS.LEVEL is 8, the
thread, and SLIM is the start of data memory. -/
def ccrReset (n : Nat) : Word :=
  if n = 0x010 then 8 else if n = 0x004 then 0x10000000 else 0

/-- A core control register of a pair. -/
def Pair.ccr (p : Pair) (n : Nat) : Word := Cells.get ccrReset p.cr n

/-- Store a core control register. -/
def Pair.setCcr (p : Pair) (n : Nat) (w : Word) : Pair :=
  { p with cr := Cells.set ccrReset p.cr n w }

/-- Whether slot `k` of a pair is enabled for event `e` (R287). -/
def Pair.slotTakes (p : Pair) (e k : Nat) : Bool :=
  let w := p.ccr (0x040 + k)
  w.getLsbD 11 && w.toNat % 256 == e

/-- Set the pending bit of every slot that takes `e` (R287). -/
def Pair.raiseSlots (p : Pair) (e : Nat) : Pair :=
  let pend := (List.range 32).foldl
    (fun (w : Word) k => if p.slotTakes e k then w ||| BitVec.ofNat 32 (2 ^ k) else w) (p.ccr 0x012)
  p.setCcr 0x012 pend

/-- Every raise of `e` sets the pending bit of each slot of each pair that the router maps `e` to,
where the slot's EVSEL names `e` with EN 1 (R287, R366). -/
def State.raiseSlots (s : State) (e : Nat) : State :=
  let m := s.g (F.EVT_MAPe_PAIRS e)
  { s with pairs := s.pairs.mapFinIdx fun j p _ => if m.testBit j then p.raiseSlots e else p }

/-- Raise event `e`: the named pairs' slots, then the router's pending bit, and a message when the
bit rises and MSI is 1 (R366, R367). -/
def State.raiseEvent (s : State) (e : Nat) : State :=
  let s := s.raiseSlots e
  if s.bit (pendField e) then s
  else
    let s := s.put (pendField e) 1
    if s.bit (F.EVT_MAPe_MSI e) then s.requestMsix (s.g (F.EVT_MAPe_VECTOR e)) else s

/-- The enable register and the event of a cause register. -/
def causeRoute (off : Nat) : Option (Nat × Nat) :=
  if 0x100000 ≤ off ∧ off < 0x300000 then
    let n := (off - 0x100000) / 0x10000
    let r := off % 0x10000
    if r = 0xC then some (off + 4, 0x40 + n)
    else if r = 0x14 then some (off + 4, 0x60 + n)
    else if r = 0x4008 then some (off + 4, 0x40 + n)
    else none
  else if off = A.SYS_CAUSE then some (A.SYS_EN, 0x01)
  else if off = A.SYS_HL_CAUSE then some (A.SYS_HL_EN, 0x02)
  else if off = A.CLK_CAUSE then some (A.CLK_EN, 0x03)
  else if off = A.PWR_CAUSE then some (A.PWR_EN, 0x04)
  else if off = A.OTP_CAUSE then some (A.OTP_EN, 0x05)
  else if off = A.MEM_CAUSE then some (A.MEM_EN, 0x18)
  else if off = A.POS_CAUSE then some (A.POS_EN, 0x20)
  else if off = A.POS_ENC_CAUSE then some (A.POS_ENC_EN, 0x21)
  else if off = A.POS_TOF_CAUSE then some (A.POS_TOF_EN, 0x22)
  else if off = A.POS_CMP_CAUSE then some (A.POS_CMP_EN, 0x23)
  else if off = A.XPT_CAUSE then some (A.XPT_EN, 0x24)
  else if off = A.INS_CAUSE then some (A.INS_EN, 0x88)
  else if off = A.THM_CAUSE then some (A.THM_EN, 0xA0)
  else if off = A.THM_SCAUSE then some (A.THM_SEN, 0xA1)
  else if off = A.CAL_CAUSE then some (A.CAL_EN, 0xA2)
  else if off = A.CAL_ET_CAUSE then some (A.CAL_ET_EN, 0xA3)
  else if off = A.SEQ_GCAUSE then some (A.SEQ_GEN, 0xF8)
  else if A.SEQ_Pj_CAUSE 0 ≤ off ∧ off ≤ A.SEQ_Pj_CAUSE 3 ∧ (off - A.SEQ_Pj_CAUSE 0) % 0x100 = 0 then
    let j := (off - A.SEQ_Pj_CAUSE 0) / 0x100
    some (A.SEQ_Pj_EN j, 0xF0 + j)
  else if A.CAM_Pp_CAUSE 0 ≤ off ∧ off ≤ A.CAM_Pp_CAUSE 3 ∧ (off - A.CAM_Pp_CAUSE 0) % 0x1000 = 0 then
    let p := (off - A.CAM_Pp_CAUSE 0) / 0x1000
    some (A.CAM_Pp_EN p, 0x80 + p)
  else if A.DMA_Cc_CAUSE 0 ≤ off ∧ off ≤ A.DMA_Cc_CAUSE 47 ∧ (off - A.DMA_Cc_CAUSE 0) % 0x40 = 0 then
    let c := (off - A.DMA_Cc_CAUSE 0) / 0x40
    some (A.DMA_Cc_EN c, 0xC0 + c)
  else none

/-- Set one cause bit; its event rises when the bit becomes set while its enable bit is 1 (R168,
R195, R224, R254, R319, R356, R397, R422, R446 and the cause tables of chapters 02, 03 and 12). -/
def State.setCause (s : State) (f : Field) : State :=
  if s.bit f then s
  else
    let s' := s.put f 1
    match causeRoute f.off with
    | some (en, e) => if s.bit ⟨en, f.lo, 1⟩ then s'.raiseEvent e else s'
    | none => s'

/-- Set a cause bit when a condition holds. -/
def State.setCauseIf (s : State) (c : Bool) (f : Field) : State := if c then s.setCause f else s

/-! ## Words of the banks at no address (11 Table 11.6) -/

/-- The size of a bank in KiB (11 Table 11.6). -/
def bankKib (b : Nat) : Nat :=
  if b < 32 then 1008 else if b < 64 then 160 else if b < 68 then 1024 else if b < 76 then 128
  else if b < 80 then 256 else if b < 112 then 8 else if b = 112 then 6 else if b = 113 then 130
  else if b = 114 then 10 else 1

/-- The number under which the model keeps a word of a bank: a mapped bank's words have the number of their BAR2
offset, those of the others lie behind all of these (DESIGN CHOICE, log 81). -/
def behindWord (b i : Nat) : Nat := 2 ^ 27 + b * 2 ^ 20 + i

/-- The number of the word that holds word `j` of item `i` of a bank at no address (log 81). -/
def unmappedWord (b i j : Nat) : Nat := behindWord b (Config.bankWord b i j % (bankKib b * 128))

/-! ## Violation log (R378) -/

/-- The entry itself (Table 12.9): slot k mod 64, then SYS_VLOG_NEXT and the VIOLATION cause. -/
def State.vlogWrite (s : State) (key source code detail : Nat) : State :=
  let e := s.vlogK % 64
  let s := s.setReg (A.SYS_VLOG e 0) (BitVec.ofNat 32 s.ts)
  let s := s.setReg (A.SYS_VLOG e 1) (BitVec.ofNat 32 (s.ts / 2 ^ 32))
  let s := s.setReg (A.SYS_VLOG e 3) (BitVec.ofNat 32 detail)
  let s := s.setReg (A.SYS_VLOG e 2)
    (BitVec.ofNat 32 (source + code * 2 ^ 8 + s.vlogK % 2 ^ 16 * 2 ^ 16))
  let ws := [unmappedWord 115 e 0, unmappedWord 115 e 1]
  let s := { s with
    vlogK := s.vlogK + 1, vlogLast := Cells.insert s.vlogLast key s.now
    ceBad := s.ceBad.filter fun w => !ws.contains w
    ueBad := s.ueBad.filter fun w => !ws.contains w }
  (s.put F.SYS_VLOG_NEXT_V s.vlogK).setCause F.SYS_CAUSE_VIOLATION

/-- Write one violation-log entry of a source and code, unless one of the same source and code was
written in the preceding 1 ms; a suppressed entry counts. -/
def State.vlog (s : State) (source code detail : Nat) : State :=
  let key := source * 256 + code
  match Cells.find? s.vlogLast key with
  | some t => if s.now - t < ms 1 then s.bump F.SYS_VLOG_SUPP_V else s.vlogWrite key source code detail
  | none => s.vlogWrite key source code detail

end Sys2Proof.Machine
end

