-- ==== Sys2Proof/Machine/Ops.lean ====
section
/-!
DEFINITION. The named operations the meanings share: memories and their error words, power domains,
bars and pages, the free-value counter, the answer to an access, the stop request to the machine
(01 R11, R23, R25; 11 R344, R347, R355; 02 R39; 06 R184).
-/

namespace Sys2Proof.Machine

/-- What every meaning answers here: the next state. -/
abbrev Out := Host.Outcome State Fault Refusal

/-! ## Answers -/

/-- Record the answer to an access: bytes, poison, status code. -/
def State.answer (s : State) (bytes : List Byte) (poisoned : Bool) (status : Nat) : State :=
  { s with resp := ⟨bytes, poisoned, status⟩ }

/-- Whether port n has been trained (13 R388). -/
def State.trained (s : State) (n : Fin 32) : Bool := s.bit ⟨A.CLK_TRAIN_OK, n.val, 1⟩

/-- Draw a fresh free value index. -/
def State.draw (s : State) : Nat × State := (s.fresh, { s with fresh := s.fresh + 1 })

/-- The status codes of Table 1.10 (R30). -/
inductive Status where
  | ok | aborted | busError | retryExhausted | notOwner | badDescriptor | powerDenied | timeout
  | disagree | locked | weakBit | collision | domainLost | schedOverrun | authFail | integrity
  deriving DecidableEq, Repr

/-- The code of a shared status. -/
def Status.code : Status → Nat
  | .ok => 0x00 | .aborted => 0x01 | .busError => 0x02 | .retryExhausted => 0x03
  | .notOwner => 0x04 | .badDescriptor => 0x05 | .powerDenied => 0x06 | .timeout => 0x07
  | .disagree => 0x08 | .locked => 0x09 | .weakBit => 0x0A | .collision => 0x0B
  | .domainLost => 0x0C | .schedOverrun => 0x0D | .authFail => 0x0E | .integrity => 0x0F

/-! ## Memories (BAR2 space, R23, Table 1.8) -/

/-- What a byte of memory that nothing has written reads as: 0, since every bank is wiped by the
reset sequence and before its domain is released (11 R351, R353). -/
def memDefault (_ : Nat) : Byte := 0#8

/-- The canonical form of the memory: addresses rising, no entry that equals the default. -/
def Memory.wf (m : List Host.Cell) : Bool := Cells.wf memDefault m

/-- A byte of the memory space at a BAR2 offset. -/
def State.byteAt (s : State) (a : Nat) : Byte := Cells.get memDefault s.mem a

/-- Store a byte in the memory space. -/
def State.setByte (s : State) (a : Nat) (b : Byte) : State :=
  { s with mem := Cells.set memDefault s.mem a b }

/-- Store bytes at consecutive offsets. -/
def State.setBytes (s : State) (a : Nat) : List Byte → State
  | [] => s
  | b :: bs => (s.setByte a b).setBytes (a + 1) bs

/-- Bytes at consecutive offsets. -/
def State.bytesAt (s : State) (a : Nat) : Nat → List Byte
  | 0 => []
  | n + 1 => s.byteAt a :: s.bytesAt (a + 1) n

/-- A little-endian number of `n` bytes. -/
def State.numAt (s : State) (a n : Nat) : Nat := leNat (s.bytesAt a n)

/-- Zero every byte of the memory space in `lo .. hi-1`. -/
def State.wipeRange (s : State) (lo hi : Nat) : State :=
  { s with
    mem := s.mem.filter fun c => decide (c.1 < lo) || decide (hi ≤ c.1)
    ceBad := s.ceBad.filter fun w => decide (w * 8 < lo) || decide (hi ≤ w * 8)
    ueBad := s.ueBad.filter fun w => decide (w * 8 < lo) || decide (hi ≤ w * 8) }

/-- Whether the 64-bit word of an offset is uncorrectable (R347). -/
def State.badAt (s : State) (a : Nat) : Bool := s.ueBad.contains (a / 8)

/-! ## Power domains (R11, Table 1.1; layout of PWR_DOM_STATUS) -/

/-- The power domains other than PD_AON. -/
inductive Domain where
  | port (k : Nat)
  | cam | pos | ana | host | core
  deriving DecidableEq, Repr

/-- The bit of a domain in PWR_DOM_STATUS. -/
def Domain.bit : Domain → Nat
  | .port k => k | .cam => 8 | .pos => 9 | .ana => 10 | .host => 11 | .core => 12

/-- Whether a domain is on. -/
def State.up (s : State) (d : Domain) : Bool :=
  (s.reg A.PWR_DOM_STATUS).toNat.testBit d.bit

/-- The domain of a bar (R11). -/
def barDomain (n : Nat) : Domain := .port (n / 4)

/-- The domain a register block lies in, by BAR0 offset; none for PD_AON blocks, which are always
on (Table 1.1, Table 1.7). -/
def blockDomain (off : Nat) : Option Domain :=
  let b := off / 0x10000
  if off / 0x1000 = 0x8 then some .host
  else if b < 0x4 then none
  else if b < 0x8 then some .core
  else if b < 0xA then some .pos
  else if b < 0xC then some .ana
  else if b = 0xC then some .cam
  else if b < 0x10 then some .core
  else if b < 0x30 then some (.port ((b - 0x10) / 4))
  else none

/-- Whether the block of a register answers: its domain is on. XPT_LASTRUN, which lies in PD_AON inside the block of
PD_POS, answers with that block (06 R193 does not say; DESIGN CHOICE, log 29). -/
def State.blockUp (s : State) (off : Nat) : Bool :=
  match blockDomain off with
  | some d => s.up d
  | none => true

/-- An access to a bank or block whose domain is off: counted, its internal address recorded,
UNPOWERED set (R355). -/
def State.unpowered (s : State) (addr : Nat) : State :=
  ((s.bump F.MEM_UNPWR_V).put F.MEM_UNPWR_ADDR_V addr).setCause F.MEM_CAUSE_UNPOWERED

/-- A write that reaches the register at `off`: its effect `f` while the block's domain is on and
no reset sequence runs; lost otherwise (R25, R355, R395). -/
def State.atBlock (s : State) (off : Nat) (f : State → State) : State :=
  if s.seqRun then s else if s.blockUp off then f s else s.unpowered off

/-! ## Bars and pages (R39) -/

/-- The bar of a number. -/
def State.bar (s : State) (n : Fin 32) : Bar := s.bars[n]

/-- Replace a bar. -/
def State.setBar (s : State) (n : Fin 32) (b : Bar) : State := { s with bars := s.bars.set n b }

/-- Change a bar. -/
def State.modBar (s : State) (n : Fin 32) (f : Bar → Bar) : State := s.setBar n (f (s.bar n))

/-- The bars in ascending order. -/
def allBars : List (Fin 32) := List.finRange 32

/-- Whether a bar is inside a page or band. -/
def Bar.inPage (b : Bar) : Bool := b.page.isSome

/-- Whether any bar is inside a page or band. -/
def State.anyInPage (s : State) : Bool := allBars.any fun n => (s.bar n).inPage

/-- Whether any bar counts as inside a page under R39: inside a page or band, or paused (R125). -/
def State.anyInside (s : State) : Bool := s.grid.paused || s.anyInPage

/-- Whether the device is in leader mode (R171). -/
def State.leader (s : State) : Bool := s.bit F.XPT_CFG_MODE

/-- The line ticks counted so far; GRID_TICK shows them modulo 2^32 (R37). -/
def State.tick (s : State) : Nat := s.grid.ticks

/-- Whether XEN_N is low: the unit drives it so, and PD_ANA, without which a keeper holds it high, is on (R194). -/
def State.xenLow (s : State) : Bool := s.bit F.XPT_STATUS_XEN && s.up .ana

/-- Whether the grid is running. -/
def State.running (s : State) : Bool := s.bit F.GRID_STATUS_RUNNING

/-! ## The watchdog's grace (10 R312) -/

/-- Whether no bar prints: every page queue empty, no bar inside a page or band, none paused. -/
def State.pressIdle (s : State) : Bool := !s.anyInside && allBars.all fun n => (s.bar n).queue.isEmpty

/-- Whether the watchdog's grace runs: it has begun and EN is 1 (R312). -/
def State.graceRuns (s : State) : Bool := s.graceSince.isSome && s.bit F.SEQ_WD_CFG_EN

/-- The time is kept at which no bar prints for the first time since WD_GRACE. -/
def State.graceCheckMet (s : State) : State :=
  if s.graceSince.isSome && s.graceMet.isNone && s.pressIdle then { s with graceMet := some s.now } else s

/-! ## Stop request to the machine (R184) -/

/-- XSTOP_N goes low when a latch bit or SWSTOP is set; the time it went low is kept. -/
def State.xstopEval (s : State) : State :=
  let want := (s.reg A.XPT_XSTOP).toNat ≠ 0 || s.bit F.XPT_CTL_SWSTOP
  if want && !s.bit F.XPT_STATUS_XSTOP then
    { s.put F.XPT_STATUS_XSTOP 1 with xpt := { s.xpt with xstopSince := s.now } }
  else s

/-- Set a latch bit of XPT_XSTOP (Table 6.3). -/
def State.latchXstop (s : State) (f : Field) : State := (s.put f 1).xstopEval

/-! ## Calibration instances (Table 8.2) -/

/-- The number of instances of a class. -/
def calCount : Nat → Nat
  | 0 => 8 | 1 => 8 | 2 => 32 | 3 => 13 | 4 => 32 | 5 => 288 | 6 => 32 | 7 => 4 | _ => 0

/-- The place of the first instance of a class in the table of instances. -/
def calBase : Nat → Nat
  | 0 => 0 | 1 => 8 | 2 => 16 | 3 => 48 | 4 => 61 | 5 => 93 | 6 => 381 | 7 => 413 | _ => 417

/-- The place of an instance. -/
def calIndex (k i : Nat) : Fin 417 := Fin.ofNat 417 (calBase k + i)

/-- A value waiting to be applied becomes the value in use. -/
def CalInst.apply (c : CalInst) : CalInst :=
  match c.target with
  | some (v, g) => { c with value := v, gain := g, target := none }
  | none => c

/-- The 100 us scan frame of the thermal front ends in which a time lies (08 R238; DESIGN CHOICE, log 92: frames
are counted from time 0). -/
def scanFrame (t : Nat) : Nat := t / us 100

/-- An instance. Those of classes 0 and 1 take a waiting value at the next scan frame (Table 8.2). -/
def State.calOf (s : State) (x : Fin 417) : CalInst :=
  let c := s.cal.inst[x]
  if x.val < 16 && decide (scanFrame c.targetT < scanFrame s.now) then c.apply else c

/-- Change an instance. -/
def State.modCal (s : State) (x : Fin 417) (f : CalInst → CalInst) : State :=
  { s with cal := { s.cal with inst := s.cal.inst.set x (f (s.calOf x)) } }

/-- A tap waiting to be applied moves by one (Table 8.2, class 5). -/
def CalInst.applyTap (c : CalInst) : CalInst :=
  match c.target with
  | some (v, g) =>
    let w := if c.value < v then c.value + 1 else if v < c.value then c.value - 1 else v
    { c with value := w, target := if w = v then none else some (v, g) }
  | none => c

/-- The opportunity one measurement of a class consumes, for the classes that count lines, frames or edges
(Table 8.2). -/
def calCost : Nat → Nat
  | 2 => 2 | 5 => 64 | 6 => 16 | _ => 1

/-- A pair in progress uses `n` units of its opportunity (R225, R226). -/
def CalInst.use (k n now : Nat) (c : CalInst) : CalInst :=
  { c with pair := c.pair.map fun p =>
      let u := p.units + n
      { p with units := u, m1T := if calCost k ≤ u then some (p.m1T.getD now) else p.m1T } }

/-- An instance of a class uses `n` units of its opportunity. -/
def State.calUse (s : State) (k i n : Nat) : State := s.modCal (calIndex k i) (CalInst.use k n s.now)

/-- A capture begins on an input of class 7: the measurements that its idle time has completed count, one in
progress is given up (Table 8.1; DEDUCED, log 92). -/
def CalInst.idleEnds (now : Nat) (c : CalInst) : CalInst :=
  { c with pair := c.pair.map fun p =>
      let n := (now - p.t0) / us 10
      { p with units := p.units + n, m1T := if 0 < n then some (p.m1T.getD (p.t0 + us 10)) else p.m1T } }

/-- The capture has ended: a scale that waited is applied, and the input is idle from now on (Table 8.1,
Table 8.2). -/
def CalInst.idleFrom (now : Nat) (c : CalInst) : CalInst :=
  { c.apply with pair := c.pair.map fun p => { p with t0 := now } }

/-! ## Life-cycle (15) -/

/-- Whether the life-cycle is FIELD or later, the point from which RWL fields no longer change. -/
def State.fieldLocked (s : State) : Bool := s.g F.SYS_LC_STATE ≥ 3

end Sys2Proof.Machine
end

