-- ==== Sys2Proof/Machine/Hold.lean ====
section
/-!
DEFINITION. The holds of the entry handshake: a participant that has accepted a power request keeps its
condition, and a write that would break it has no effect and is counted (14 R404, R405).
-/

namespace Sys2Proof.Machine

/-- The domains that a target switches off, as bits of PWR_DOM_STATUS (Table 14.1). -/
def PwrTarget.offMask : PwrTarget → Nat
  | .standby => 0x17FF
  | .hibernate => 0x1FFF
  | .domains off _ => off
  | _ => 0

/-- Whether a request asks for STANDBY or HIBERNATE. -/
def PwrReq.enters (r : PwrReq) : Bool := r.target == .standby || r.target == .hibernate

/-- Whether an entry's handshake has passed and the entry has not ended (Table 14.3): its phases run, or an abandon
is undone. -/
def State.entryRuns (s : State) : Bool :=
  match s.power.req with
  | some r => r.enters && r.passed.isSome
  | none => false

/-- Whether a request that has not ended switches a domain off. -/
def State.goingDown (s : State) (d : Domain) : Bool :=
  match s.power.req with
  | some r => r.ended.isNone && r.target.offMask.testBit d.bit
  | none => false

/-- Whether a request that has not ended switches any domain off. -/
def State.anyGoingDown (s : State) : Bool :=
  match s.power.req with
  | some r => r.ended.isNone && r.target.offMask != 0
  | none => false

/-- Whether the inspection unit defers: a replay runs or a CCI command is in progress (Table 14.2). -/
def State.camDefers (s : State) : Bool :=
  s.ins.replay.isSome || s.ins.ports.any fun (c : CamPort) => c.cciRun.isSome

/-- Whether the sequencers defer: a halt is in progress, or a commit buffer holds outputs (Table 14.2). -/
def State.seqDefers (s : State) : Bool :=
  s.pairs.any fun (p : Pair) =>
    (match p.mode with | .halting _ => true | _ => false)
      || !p.ready.isEmpty || !p.cur.outs.isEmpty || p.closed.any fun i => !i.outs.isEmpty

/-- A write without effect is reported and counted (R405). -/
def State.blocked (s : State) : State := (s.bump F.PWR_BLOCKED_V).setCause F.PWR_CAUSE_BLOCKED_WRITE

/-- A write that would break an accepted condition has no effect; any other takes effect (R405). -/
def State.unlessHeld (held : Bool) (f : State → State) (s : State) : State := if held then s.blocked else f s

/-- Whether a write of 1 to FPE_CTL.EN of a bar is held: its own domain goes down, or PD_ANA, for which the thermal
unit refuses while a bar is enabled (08 R252). -/
def State.holdsPort (s : State) (n : Nat) : Bool := s.goingDown (barDomain n) || s.goingDown .ana

/-- Whether the function stays in D3hot: the host link has accepted that PD_HOST goes off. -/
def State.holdsD3 (s : State) : Bool := s.goingDown .host && s.bit F.SYS_HL_STATUS_D3HOT

/-- Whether memory control has accepted a state: no single-bank wipe runs, and the retention load is within its
limit. -/
def State.holdsMemory (s : State) : Bool :=
  match s.power.req with
  | some r => r.ended.isNone && r.enters && s.wipe.isNone
  | none => false

/-- Whether a write of 1 to XPT_CTL.START is held. -/
def State.holdsTransport (s : State) : Bool := s.goingDown .pos || s.goingDown .ana

/-- Whether a write of 1 to CAM_Pp_CTL.EN is held. -/
def State.holdsCamera (s : State) : Bool := s.goingDown .cam && !s.camDefers

/-- Whether a start of a pair is held; the condition covers pairs 0 to 2. -/
def State.holdsPair (s : State) (j : Fin 4) : Bool := s.goingDown .core && j != 3 && !s.seqDefers

end Sys2Proof.Machine
end

