-- ==== Sys2Proof/Machine/Bank.lean ====
section
/-!
DEFINITION. The memory banks: which bank a memory offset lies in, reads that meet error words, and the
wipe of a bank (11 R344, R347, R353, Table 11.6, Table 11.7; 01 R23, Table 1.8).
-/

namespace Sys2Proof.Machine

/-! ## Banks (Table 11.6) -/

/-- The bank of a BAR2 offset and the byte offset in the bank; none for an unmapped or reserved offset
(Tables 1.8 and 11.6). -/
def bankOf (a : Nat) : Option (Nat × Nat) :=
  if a < 0x02000000 then
    if a % 0x100000 < 0xFC000 then some (a / 0x100000, a % 0x100000) else none
  else if a < 0x02800000 then
    let r := a - 0x02000000
    if r % 0x40000 < 0x28000 then some (32 + r / 0x40000, r % 0x40000) else none
  else if 0x04000000 ≤ a ∧ a < 0x04400000 then
    let r := a - 0x04000000
    some (64 + r / 8 % 4, r / 32 * 8 + r % 8)
  else if 0x05000000 ≤ a ∧ a < 0x05100000 then
    let r := a - 0x05000000
    let b := 68 + 2 * (r / 0x40000)
    if r % 0x40000 < 0x20000 then some (b, r % 0x40000) else some (b + 1, r % 0x40000 - 0x20000)
  else none

/-- The BAR2 offset of byte `i` of a mapped bank (Tables 1.8 and 11.6). -/
def bankByte (b i : Nat) : Nat :=
  if b < 32 then b * 0x100000 + i
  else if b < 64 then 0x02000000 + (b - 32) * 0x40000 + i
  else if b < 68 then 0x04000000 + i / 8 * 32 + (b - 64) * 8 + i % 8
  else 0x05000000 + (b - 68) / 2 * 0x40000 + (b % 2) * 0x20000 + i

/-- The domains of a bank (Table 11.6): one, and for bank 114 that of the verdict FIFO and that of the
electrical test FIFO. -/
def bankDomains (b : Nat) : List Domain :=
  if b < 32 then [.port (b / 4)]
  else if b < 64 then [.port ((b - 32) / 4)]
  else if b < 76 then [.core]
  else if b < 80 then [.cam]
  else if b < 112 then [.port ((b - 80) / 4)]
  else if b = 113 then [.cam]
  else if b = 114 then [.cam, .ana]
  else [.core]

/-- The number of word `i` of a bank. -/
def wordNo (b i : Nat) : Nat := if b < 76 then bankByte b (8 * i) / 8 else behindWord b i

/-- The bank of a word number and its place in the bank. -/
def wordBank (w : Nat) : Option (Nat × Nat) :=
  if w < 2 ^ 27 then (bankOf (8 * w)).map fun x => (x.1, x.2 / 8)
  else
    let b := (w - 2 ^ 27) / 2 ^ 20
    let i := (w - 2 ^ 27) % 2 ^ 20
    if 76 ≤ b ∧ b < 116 ∧ i < bankKib b * 128 then some (b, i) else none

/-- Whether a bank can be retained (Table 11.6). -/
def bankRetains (b : Nat) : Bool := decide (b < 76)

/-- A bank. -/
def State.bank (s : State) (b : Fin 116) : BankS := s.banks[b]

/-- Change a bank. -/
def State.modBank (s : State) (b : Fin 116) (f : BankS → BankS) : State :=
  { s with banks := s.banks.set b (f (s.bank b)) }

/-- The bank number as an index. -/
def bankIx (b : Nat) : Fin 116 := Fin.ofNat 116 b

/-- A 32-bit counter saturates. -/
def sat32 (n : Nat) : Nat := min n (2 ^ 32 - 1)

/-- Whether a bank is powered: its domain is on (R351); bank 114 while either of its domains is (log 81). -/
def State.bankUp (s : State) (b : Nat) : Bool := (bankDomains b).any s.up

/-! ## Error words (R347) -/

/-- A read of the 64-bit word number `w` meets its errors: a corrected word is counted and queued for write-back, an
uncorrectable one is counted and recorded. -/
def State.readWord (s : State) (w : Nat) : State :=
  match wordBank w with
  | none => s
  | some (b, at_) =>
    let i := bankIx b
    if s.ueBad.contains w then
      let s := s.modBank i fun x => { x with ue := sat32 (x.ue + 1) }
      ((s.put F.MEM_UE_BANK_V b).put F.MEM_UE_ADDR_V at_).setCause F.MEM_CAUSE_UE
    else if s.ceBad.contains w then
      let en := s.bit F.MEM_CTL_SCRUB_EN
      (s.modBank i fun x => { x with
        ce := sat32 (x.ce + 1)
        scrub := if en && decide (x.scrub.length < 4) && !x.scrub.contains w then x.scrub ++ [w] else x.scrub
        }).setCause F.MEM_CAUSE_CE
    else s

/-- The word numbers of `n` bytes at an offset. -/
def wordsOf (a n : Nat) : List Nat := if n = 0 then [] else (List.range ((a + n - 1) / 8 - a / 8 + 1)).map (a / 8 + ·)

/-- A read of `n` bytes at an offset meets the errors of its words. -/
def State.readErrs (s : State) (a n : Nat) : State :=
  if s.ceBad.isEmpty && s.ueBad.isEmpty then s else (wordsOf a n).foldl State.readWord s

/-- Reads of every error word that satisfies a condition, in ascending order. -/
def State.readErrsIf (s : State) (p : Nat → Bool) : State :=
  ((s.ceBad ++ s.ueBad).filter p).foldl State.readWord s

/-- A write of a word leaves it with fresh check bits and cancels its write-back (R347, Table 11.7). -/
def State.cleanWord (s : State) (w : Nat) : State :=
  if s.ceBad.contains w || s.ueBad.contains w then
    let s := { s with ceBad := s.ceBad.filter (· != w), ueBad := s.ueBad.filter (· != w) }
    match wordBank w with
    | some (b, _) => s.modBank (bankIx b) fun x => { x with scrub := x.scrub.filter (· != w) }
    | none => s
  else s

/-- Store bytes in the memory space: their words are rewritten with fresh check bits; a word that is
written in part is read first, which meets its error (Table 11.7). -/
def State.storeBytes (s : State) (a : Nat) (bs : List Byte) : State :=
  if s.ceBad.isEmpty && s.ueBad.isEmpty then s.setBytes a bs else
  let part := (wordsOf a bs.length).filter fun w =>
    decide (8 * w < a) || decide (a + bs.length < 8 * w + 8)
  let s := part.foldl State.readWord s
  (wordsOf a bs.length).foldl State.cleanWord (s.setBytes a bs)

/-- Whether a word lies in a bank. -/
def inBank (b w : Nat) : Bool := match wordBank w with | some (x, _) => x == b | none => false

/-- Reads of words, which meet their errors. -/
def State.readCells (s : State) (ws : List Nat) : State :=
  if s.ceBad.isEmpty && s.ueBad.isEmpty then s else ws.foldl State.readWord s

/-- Writes of whole words, which leave them with fresh check bits. -/
def State.cleanCells (s : State) (ws : List Nat) : State :=
  if s.ceBad.isEmpty && s.ueBad.isEmpty then s else ws.foldl State.cleanWord s

/-- Whether a word of a list is uncorrectable. -/
def State.anyBad (s : State) (ws : List Nat) : Bool := !s.ueBad.isEmpty && ws.any s.ueBad.contains

/-- The word of its bank that holds the electrical test record with a serial number (Table 11.6; log 81). -/
def etCell (k : Nat) : Nat := unmappedWord 114 1 (k % 256)

/-- The word of its bank that holds the verdict record with a serial number (Table 11.6; log 81). -/
def vfCell (k : Nat) : Nat := unmappedWord 114 0 (k % 1024)

/-- The word that holds the oldest record of the verdict FIFO or of the electrical test FIFO, none of an empty one. -/
def State.headCell (s : State) (verdict : Bool) : List Nat :=
  if verdict then (if s.ins.fifo.isEmpty then [] else [vfCell s.ins.pops])
  else if s.cal.etFifo.isEmpty then [] else [etCell s.cal.etPops]

/-! ## Dual-port banks (R345) -/

/-- The collision counter of a bank increments. -/
def State.countColl (s : State) (b : Fin 116) : State := s.modBank b fun x => { x with coll := sat32 (x.coll + 1) }

/-- The port B write of the cycle in which port A takes its word number `k`, and its BAR2 offset: port B's
next access waits, so that there is at most one. -/
def portBAt (b : Fin 116) (pb : List PortBWrite) (k : Nat) : Option (Nat × List Byte) :=
  (pb.find? fun p => p.word == k).map fun p =>
    let a := bankByte b (p.off % (bankKib b * 1024))
    (a, p.bytes.take (8 - a % 8))

/-- Whether port B writes the 64-bit word that port A writes in the same cycle, when it writes one. -/
def collides (b : Fin 116) (pb : List PortBWrite) (k : Nat) (wrote : Option Nat) : Bool :=
  match portBAt b pb k with
  | some (a, _) => wrote == some (a / 8)
  | none => false

/-- Port B's write of a cycle lands after port A's; writes of both to one word count as a collision. -/
def State.portB (s : State) (b : Fin 116) (pb : List PortBWrite) (k : Nat) (wrote : Option Nat) : State :=
  match portBAt b pb k with
  | none => s
  | some (a, bs) =>
    let s := s.storeBytes a bs
    if collides b pb k wrote then s.countColl b else s

/-! ## Wipes (R353) -/

/-- Every byte of the memory space that lies in a bank reads 0, without errors. -/
def State.zeroMapped (s : State) (b : Nat) : State :=
  { s with
    mem := s.mem.filter fun c => !inBank b (c.1 / 8)
    ceBad := s.ceBad.filter fun w => !inBank b w
    ueBad := s.ueBad.filter fun w => !inBank b w }

/-- The frames of a camera store whose bytes have been wiped. -/
def CamFrame.blank (f : CamFrame) : CamFrame :=
  { f with emb := f.emb.map fun e => (e.1, e.2.map fun _ => 0), img := f.img.map fun l => { l with px := [] } }

/-- What an unmapped bank holds becomes zero: a camera store, an update FIFO, the descriptor caches, the
inspection tables, the record FIFOs, the logs (Table 11.6). -/
def State.zeroUnmapped (s : State) (b : Nat) : State :=
  if 76 ≤ b ∧ b < 80 then
    let p : Fin 4 := Fin.ofNat 4 (b - 76)
    let c : CamPort := s.ins.ports[p]
    { s with ins := { s.ins with ports := s.ins.ports.set p { c with store := c.store.map CamFrame.blank } } }
  else if 80 ≤ b ∧ b < 112 then
    s.modBar (Fin.ofNat 32 (b - 80)) fun x =>
      { x with nst := { x.nst with fifo := x.nst.fifo.map fun _ => 0#64 } }
  else if b = 112 then
    { s with dma := s.dma.map fun (c : DmaChan) =>
        { c with fetched := c.fetched.map fun (_ : Desc) => ⟨List.replicate 32 0#8⟩ } }
  else if b = 113 then { s with ins := { s.ins with zeroed := true, tables := [] } }
  else if b = 114 then
    { s with
      ins := { s.ins with fifo := s.ins.fifo.map fun _ => 0#64 }
      cal := { s.cal with etFifo := s.cal.etFifo.map fun _ => 0#64 } }
  else if b = 115 then
    (List.range 64).foldl (fun (s : State) e =>
      (List.range 4).foldl (fun (s : State) i => s.setReg (A.SYS_VLOG e i) 0) s) s
  else s

/-- Zero data with valid check bits in every word of a bank; LOADED of a pair clears when either of its
memories is wiped (R353, SEQ_Pj_STATUS). -/
def State.zeroBank (s : State) (b : Nat) : State :=
  let s := (s.zeroMapped b).zeroUnmapped b
  let s := s.modBank (bankIx b) fun x => { x with scrub := [] }
  if 68 ≤ b ∧ b < 76 then
    let s := s.put (F.SEQ_Pj_STATUS_LOADED ((b - 68) / 2)) 0
    if b = 74 then { s with boot := { s.boot with rom := false } } else s
  else s

end Sys2Proof.Machine
end

