-- ==== Sys2Proof/Machine/Kill.lean ====
section
/-!
DEFINITION. The strobe kill: its sources, latches and effect on the ports (02 R60-R63; 08 R246,
R247).
-/

namespace Sys2Proof.Machine

/-- The throttle stage of a bar (08 R247, THM_STAGE_LO and THM_STAGE_HI). -/
def State.stage (s : State) (n : Nat) : Nat :=
  s.g (if n < 16 then ⟨A.THM_STAGE_LO, 2 * n, 2⟩ else ⟨A.THM_STAGE_HI, 2 * (n - 16), 2⟩)

/-- Set the throttle stage of a bar. -/
def State.setStage (s : State) (n v : Nat) : State :=
  s.put (if n < 16 then ⟨A.THM_STAGE_LO, 2 * n, 2⟩ else ⟨A.THM_STAGE_HI, 2 * (n - 16), 2⟩) v

/-- Whether the thermal trip signal of a bar is asserted: its trip holds, or its stage is 3. -/
def State.tripOn (s : State) (n : Fin 32) : Bool := (s.thm.bars[n]).trip || s.stage n == 3

/-- KILLED: any kill affects the port (R61, R62). -/
def State.portKilled (s : State) (n : Fin 32) : Bool :=
  s.hkillLow || s.bit F.GRID_KILL_PIN_LATCH || s.bit F.GRID_KILL_SWKILL || s.bit (F.FPE_CTL_SWKILL n)
    || s.bit (F.FPE_STATUS_KILL_TRIP n) || s.tripOn n

/-- 1 when the frame being shifted carries a page index selected for the first time: its line has not
begun (R63). -/
def Bar.unbegun (b : Bar) : Nat :=
  match b.shifting with
  | some f => match f.idx with
    | some i => b2n i.first
    | none => 0
  | none => 0

/-- A kill asserts on port `n`: its strobe output falls at once, the line in progress is cut, the page
in progress ends at the next tick, and the cause is set (R60, R63). -/
def State.killPort (cause : Field) (s : State) (n : Fin 32) : State :=
  if !s.up (barDomain n) then s
  else (s.setCause cause).modBar n fun b => { b with
    killSeen := true
    killCount := if b.killSeen then b.killCount else b.unbegun
    out := { b.out with cutAt := some (b.out.cutAt.getD s.now) }
    et := { b.et with lineVoid := 0xFF } }

/-- HKILL_N falls: every port is killed and PIN_LATCH is set; it rises: only its level changes
(R61, R62). -/
def State.hkill (s : State) (low : Bool) : State :=
  let s1 := { s with hkillLow := low }
  if low && !s.seqRun then
    allBars.foldl (fun s (n : Fin 32) => s.killPort (F.FPE_FCAUSE_KILL_PIN n) n) (s1.put F.GRID_KILL_PIN_LATCH 1)
  else s1

/-- HKILL (R60, R61). -/
def execHkill (low : Bool) (s : State) : Out := .next (s.hkill low)

/-- A write of GRID_KILL.SWKILL (R61). -/
def State.gridSwkill (s : State) (on : Bool) : State :=
  let s1 := s.putb F.GRID_KILL_SWKILL on
  if on && !s.bit F.GRID_KILL_SWKILL then
    allBars.foldl (fun s (n : Fin 32) => s.killPort (F.FPE_FCAUSE_KILL_SW n) n) s1
  else s1

/-- GRID_SWKILL (R61). -/
def execGridSwkill (on : Bool) (s : State) : Out :=
  .next (s.atBlock A.GRID_KILL fun s => s.gridSwkill on)

/-- A write of FPE_CTL.SWKILL (R61). -/
def State.fpeSwkill (s : State) (n : Fin 32) (on : Bool) : State :=
  let s1 := s.putb (F.FPE_CTL_SWKILL n) on
  if on && !s.bit (F.FPE_CTL_SWKILL n) then s1.killPort (F.FPE_FCAUSE_KILL_SW n) n else s1

/-- FPE_SWKILL (R61). -/
def execFpeSwkill (n : Fin 32) (on : Bool) (s : State) : Out :=
  .next (s.atBlock (A.FPE_CTL n) fun s => s.fpeSwkill n on)

/-- A thermal trip of bar `n` asserts: port killed, KILL_TRIP latched (R61). -/
def State.tripKill (s : State) (n : Fin 32) : State :=
  if !s.up (barDomain n) then s
  else (s.put (F.FPE_STATUS_KILL_TRIP n) 1).killPort (F.FPE_FCAUSE_KILL_TRIP n) n

/-- A port whose domain comes on while its bar's trip signal is asserted is killed and latches it (R61). -/
def State.tripHeld (s : State) (n : Fin 32) : State := if s.tripOn n then s.tripKill n else s

/-- The BAR0 offset of the register that holds a kill latch. -/
def killLatchOff : KillLatch → Nat
  | .pin => A.GRID_KILL
  | .trip n => A.FPE_STATUS n

/-- A write of 1 to a kill latch clears it only while its source is inactive (R62). -/
def State.killLatchClear (s : State) (l : KillLatch) : State :=
  match l with
  | .pin => if s.hkillLow then s else s.put F.GRID_KILL_PIN_LATCH 0
  | .trip n => if s.tripOn n then s else s.put (F.FPE_STATUS_KILL_TRIP n) 0

/-- KILL_LATCH_CLEAR (R62). -/
def execKillLatchClear (l : KillLatch) (s : State) : Out :=
  .next (s.atBlock (killLatchOff l) fun s => s.killLatchClear l)

end Sys2Proof.Machine
end

