-- ==== Sys2Proof/Machine/Alloc.lean ====
section
/-!
DEFINITION. Frame contents: the CRCs and header of a frame (02 R50, R51), print window and stitch
sourcing (02 R66; 03 R86, R87), drop allocation (03 R79-R82), thinning (03 R84, R85) and the counts
of unplaceable and thinned drops (03 R88).
-/

namespace Sys2Proof.Machine

/-! ## CRCs (R51) -/

/-- One bit into a non-reflected CRC register of `w` bits with polynomial `poly` (R51). -/
def crcStep (w poly reg : Nat) (b : Bool) : Nat :=
  let fb := (reg / 2 ^ (w - 1) % 2 == 1) != b
  let sh := reg * 2 % 2 ^ w
  if fb then sh ^^^ poly else sh

/-- The CRC over the low `n` bits of a number, bit 0 first. -/
def crcBits (w poly init n v : Nat) : Nat :=
  (List.range n).foldl (fun r i => crcStep w poly r (v.testBit i)) init

/-- CRC-8 of a frame header (R51): polynomial 0x07, initial value 0. -/
def hcrc (v : Nat) : Nat := crcBits 8 0x07 0 56 v

/-- CRC-16 over the low `n` bits (PCRC, status frame): polynomial 0x1021, initial value 0xFFFF. -/
def crc16 (n v : Nat) : Nat := crcBits 16 0x1021 0xFFFF n v

/-- The code of MODE in a header (Table 2.4). -/
def FrameMode.code : FrameMode → Nat
  | .print => 0 | .warm => 1 | .test => 2 | .idle => 3

/-- The 64 header bits of a segment's frame (Table 2.4). -/
def SegFrame.header (f : SegFrame) (seg : Nat) : DWord :=
  let low := 0xA9 + seg % 8 * 2 ^ 8 + b2n f.onSpare * 2 ^ 11 + f.mode.code * 2 ^ 12
    + f.warm % 8 * 2 ^ 14 + f.line % 256 * 2 ^ 24 + f.pcrc % 2 ^ 16 * 2 ^ 32
  BitVec.ofNat 64 (low + hcrc low * 2 ^ 56)

/-! ## Nozzles and positions (R79, Table 3.2) -/

/-- The row of a nozzle: 0 A, 1 B, 2 C, 3 D. -/
def rowOf (i : Nat) : Nat := i / 5120

/-- The position a nozzle serves. -/
def positionOf (i : Nat) : Nat := 2 * (i % 5120) + i / 5120 % 2

/-- The primary nozzle of a position. -/
def primaryOf (p : Nat) : Nat := if p % 2 = 0 then p / 2 else 5120 + (p - 1) / 2

/-- The partner nozzle of a position. -/
def partnerOf (p : Nat) : Nat := primaryOf p + 10240

/-- The global nozzle index (R79). -/
def globalNozzle (n seg i : Nat) : Nat := n * 2 ^ 18 + seg * 2 ^ 15 + i

/-- BAR2 offset of a nozzle state entry (Table 1.8). -/
def entryAddr (n seg i : Nat) : Nat := 0x02000000 + n * 0x40000 + seg * 20480 + i

/-- BAR2 offset of the byte that holds the code of a position in a line slot (R24). -/
def codeAddr (n slot seg p : Nat) : Nat := n * 0x100000 + slot * 20480 + seg * 2560 + p / 4

/-- STATE of an entry as the fire port engine reads it: an uncorrectable word counts as retired
(Table 11.7). -/
def State.nozState (s : State) (n seg i : Nat) : Nat :=
  let a := entryAddr n seg i
  if s.badAt a then 3 else (s.byteAt a).toNat % 4

/-- DENS of an entry. -/
def State.nozDens (s : State) (n seg i : Nat) : Nat := (s.byteAt (entryAddr n seg i)).toNat / 4 % 32

/-! ## Thinning (R84, R85) -/

/-- One step of the Galois LFSR (R84). -/
def lfsrStep (x : Nat) : Nat := if x % 2 = 1 then x / 2 ^^^ 0x80200003 else x / 2

/-- X_L of a page's seed (R84). -/
def lfsrAt (seed : Word) : Nat → Nat
  | 0 => if seed = 0 then 1 else seed.toNat
  | l + 1 => lfsrStep (lfsrAt seed l)

/-- The mixing function H(L, x) (R85), given X_L. -/
def mixH (xl x : Nat) : Nat :=
  ((xl ^^^ (x * 0x9E3779B9 % 2 ^ 32)) * 0x85EBCA6B) % 2 ^ 32

/-! ## Codes after window and stitch (R66, R86, R87) -/

/-- ROWOFS of row `r`, live. -/
def State.rowOfs (s : State) (n r : Nat) : Nat := s.g (F.FPE_ROWOFS_LIVE_ROWS n) / 16 ^ r % 16

/-- The largest live row offset. -/
def State.maxRow (s : State) (n : Nat) : Nat :=
  max (max (s.rowOfs n 0) (s.rowOfs n 1)) (max (s.rowOfs n 2) (s.rowOfs n 3))

/-- The smallest live row offset. -/
def State.minRow (s : State) (n : Nat) : Nat :=
  min (min (s.rowOfs n 0) (s.rowOfs n 1)) (min (s.rowOfs n 2) (s.rowOfs n 3))

/-- Whether a segment is enabled in the live FPE_SEGMASK. -/
def State.segOn (s : State) (n seg : Nat) : Bool := (s.g (F.FPE_SEGMASK_LIVE_V n)).testBit seg

/-- The code of (L, segment, position) in its line slot; 0 outside the page, and 0 for the codes of
an uncorrectable word (R66, Table 11.7). -/
def State.slotCode (s : State) (n : Nat) (d : PageDesc) (l : Int) (seg p : Nat) : Nat :=
  if l < 0 ∨ l ≥ d.lines then 0
  else
    let a := codeAddr n ((d.base + l.toNat) % 48) seg p
    if s.badAt a then 0 else (s.byteAt a).toNat / 4 ^ (p % 4) % 4

/-- Whether a bar position lies in the live print window. -/
def State.inWindow (s : State) (n seg p : Nat) : Bool :=
  let x := 10240 * seg + p
  decide (s.g (F.FPE_WIN_START_LIVE_V n) ≤ x) && decide (x ≤ s.g (F.FPE_WIN_END_LIVE_V n))

/-- The code after the print window (R66). -/
def State.windowCode (s : State) (n : Nat) (d : PageDesc) (l : Int) (seg p : Nat) : Nat :=
  if s.inWindow n seg p then s.slotCode n d l seg p else 0

/-- Whether seam `k` is active (R86). -/
def State.seamOn (s : State) (n : Nat) (d : PageDesc) (k : Nat) : Bool :=
  d.kind == 0 && decide (0 < s.g (F.NST_STITCH_LIVE_OVERLAP n)) && decide (k < 7) && s.segOn n k
    && s.segOn n (k + 1)

/-- Whether column `j` of seam `k` goes to segment `k + 1`: code 1 or 2, and the mixed bits below the
incoming share (R87). -/
def State.seamPasses (s : State) (n : Nat) (d : PageDesc) (l : Nat) (k j c : Nat) : Bool :=
  let o := s.g (F.NST_STITCH_LIVE_OVERLAP n)
  let h := mixH (lfsrAt d.seed l) (0x40000 + 10240 * (k + 1) - o + j)
  (c == 1 || c == 2) && decide (h / 2 ^ 19 % 256 < 256 * (j + 1) / (o + 1))

/-- The code of (L, segment, position) after the window and stitch sourcing (R66, R87). -/
def State.codeOf (s : State) (n : Nat) (d : PageDesc) (l : Int) (seg p : Nat) : Nat :=
  let o := s.g (F.NST_STITCH_LIVE_OVERLAP n)
  if s.seamOn n d seg && decide (10240 - o ≤ p) then
    let c := s.windowCode n d l seg p
    if s.seamPasses n d l.toNat seg (p - (10240 - o)) c then 0 else c
  else if decide (0 < seg) && s.seamOn n d (seg - 1) && decide (p < o) then
    let c := s.windowCode n d l (seg - 1) (10240 - o + p)
    if s.seamPasses n d l.toNat (seg - 1) p c && s.inWindow n seg p then c else 0
  else s.windowCode n d l seg p

/-! ## Allocation (R81, R82) -/

/-- The class of a nozzle for codes 1 and 2. -/
inductive NozClass where
  | good | weak | unusable
  deriving DecidableEq, Repr

/-- The class of a STATE. -/
def nozClass (st : Nat) : NozClass := if st = 0 then .good else if st = 1 then .weak else .unusable

/-- Table 3.3: whether the primary fires, whether the partner fires, unplaceable drops, for code 1
or 2; `even` means that L + p is even. -/
def allocate (c : Nat) (pri par : NozClass) (even : Bool) : Bool × Bool × Nat :=
  match pri, par with
  | .good, .good => if c = 1 then (even, !even, 0) else (true, true, 0)
  | .good, _ => (true, false, c - 1)
  | _, .good => (false, true, c - 1)
  | .weak, .unusable => (true, false, c - 1)
  | .unusable, .weak => (false, true, c - 1)
  | .weak, .weak => (false, false, c)
  | .unusable, .unusable => (false, false, c)

/-- What one nozzle does for one code: fires, thinned drops, unplaceable drops (R80, R82, R85,
R88). -/
def State.nozzleEval (s : State) (n : Nat) (d : PageDesc) (l : Int) (seg i : Nat) : Bool × Nat × Nat :=
  let p := positionOf i
  let c := s.codeOf n d l seg p
  let isPri := decide (i < 10240)
  let stP := s.nozState n seg (primaryOf p)
  let stQ := s.nozState n seg (partnerOf p)
  let bothRetired := stP == 3 && stQ == 3
  if c = 0 then (false, 0, 0)
  else if c = 3 then
    let named := isPri == (d.pt == 0)
    let st := if isPri then stP else stQ
    (named && st != 3, 0, if named && st == 3 && !bothRetired then 1 else 0)
  else
    let (fp, fq, u) := allocate c (nozClass stP) (nozClass stQ) ((l + p) % 2 == 0)
    let takes := if isPri then fp else fq
    let thinned := takes && s.bit (F.FPE_ROWOFS_LIVE_THIN_EN n)
      && decide (mixH (lfsrAt d.seed l.toNat) (seg * 20480 + i) / 2 ^ 27 < s.nozDens n seg i)
    (takes && !thinned, b2n thinned, if isPri && !bothRetired then u else 0)

/-- The data bits of a segment for index `k` below nozzle `m`, with the thinned and unplaceable
drops among them (R80). -/
def State.segScan (s : State) (n : Nat) (d : PageDesc) (k seg : Nat) : Nat → Nat × Nat × Nat
  | 0 => (0, 0, 0)
  | m + 1 =>
    let (bits, th, un) := s.segScan n d k seg m
    let (f, t, u) := s.nozzleEval n d ((k : Int) - s.rowOfs n (rowOf m)) seg m
    (bits + b2n f * 2 ^ m, th + t, un + u)

end Sys2Proof.Machine
end

