-- ==== Sys2Proof/Machine/Raster.lean ====
section
/-!
DEFINITION. The raster supply of a bar: plain and packed streams, line slots, readiness, release,
stream errors, abandon and reset (04 R103-R136).
-/

namespace Sys2Proof.Machine

/-- Bytes of a line slot (R107). -/
def lineBytes : Nat := 20480

/-- Bytes of the packed staging area. -/
def stageBytes : Nat := 49152

/-- BAR2 offset of byte `b` of the slot of stream line `j` of bar `n` (R107). -/
def slotAddr (n j b : Nat) : Nat := n * 0x100000 + j % 48 * lineBytes + b

/-- BAR2 offset of stream byte `b` in the packed staging area. -/
def stageAddr (n b : Nat) : Nat := n * 0x100000 + 0xF0000 + b % stageBytes

/-- Change a bar's raster supply. -/
def State.modRsp (s : State) (n : Fin 32) (f : Rsp → Rsp) : State :=
  s.modBar n fun b => { b with rsp := f b.rsp }

/-- A bar's raster supply. -/
def State.rsp (s : State) (n : Fin 32) : Rsp := (s.bar n).rsp

/-! ## Lines (R117-R120) -/

/-- The slot entry of a stream line. -/
def Rsp.slot (r : Rsp) (j : Nat) : Option SlotLine := r.slots.find? fun x => x.line == j

/-- Whether a stream line is ready. -/
def Rsp.lineReady (r : Rsp) (j : Nat) : Bool := r.slots.any fun x => x.line == j && x.ready

/-- Whether a stream line is discarded as it arrives: it belongs to an abandoned page, or every line up to
it has been released (R134). -/
def Rsp.discarded (r : Rsp) (j : Nat) : Bool :=
  decide (j < r.release) || r.discards.any fun d => decide (d.1 ≤ j) && decide (j < d.2)

/-- FREE: the slots that hold no line. -/
def Rsp.free (r : Rsp) : Nat := 48 - r.slots.length

/-- Whether a slot is partly written or decoded. -/
def Rsp.filling (r : Rsp) : Bool := r.slots.any fun x => !x.ready

/-- The selected indices of a page that are not done (R118). -/
def Page.notDone (p : Page) : List Nat := p.inflight.map (·.1) ++ p.lost.map (·.1)

/-- The lowest page line that an index uses which is not done: a selected one under the row offsets of its
selection, the next one under the live ones (R117-R119). -/
def Page.lowLine (p : Page) (maxRow : Nat) : Nat :=
  (p.used.filter fun u => p.notDone.contains u.1).foldl (fun a u => min a (u.1 - u.2)) (p.next - maxRow)

/-- The first unprinted index of a page (R126). -/
def Page.firstUnprinted (p : Page) : Nat := (p.lost.map (·.1)).foldl min p.next

/-- The stream lines below which a bar's lines are released, and below which its ready lines are held
(R119): lines used only by indices that are done, and lines used by a selected index. -/
def State.lineBounds (s : State) (n : Fin 32) : Nat × Nat :=
  let b := s.bar n
  match b.page with
  | some p =>
    let hi := p.desc.base + p.desc.lines
    (min hi (p.desc.base + p.lowLine (s.maxRow n)), min hi (p.desc.base + p.usedHigh))
  | none =>
    let x := match b.queue with | d :: _ => d.base | [] => b.rsp.nextBase
    (x, x)

/-- HELD (R120): ready lines that are held. -/
def State.heldLines (s : State) (n : Fin 32) : Nat :=
  ((s.rsp n).slots.filter fun x => x.ready && decide (x.line < (s.lineBounds n).2)).length

/-- LEAD (R120): ready lines that are not held. -/
def State.leadLines (s : State) (n : Fin 32) : Nat :=
  ((s.rsp n).slots.filter fun x => x.ready && decide ((s.lineBounds n).2 ≤ x.line)).length

/-- Whether every line that index `k` of a page needs is ready (R117). -/
def State.indexReady (s : State) (n : Fin 32) (d : PageDesc) (k : Nat) : Bool :=
  (List.range 4).all fun r =>
    let o := s.rowOfs n r
    decide (k < o) || decide (d.lines ≤ k - o) || (s.rsp n).lineReady (d.base + (k - o))

/-- Whether a bar is ready for re-entry: the lines of RESUME_LEAD indices from its first unprinted one
are ready, or no more lines can come (R127). -/
def State.barReady (s : State) (n : Fin 32) : Bool :=
  match (s.bar n).page with
  | none => true
  | some p =>
    let last := p.desc.lines - 1 + s.maxRow n
    let k := p.firstUnprinted
    ((List.range (s.g (F.RSP_CFG_RESUME_LEAD n))).all fun i =>
        decide (last < k + i) || s.indexReady n p.desc (k + i))
      || ((s.rsp n).free == 0 && !(s.rsp n).filling)

/-- Make a change to a bar's lines; LOW_LEAD is set when LEAD falls below its threshold inside a
page, READY when the bar becomes ready during a pause (R120, R127). -/
def State.watchLines (n : Fin 32) (f : State → State) (s : State) : State :=
  let lead := s.leadLines n
  let ready := s.barReady n
  let s := f s
  let th := s.g (F.RSP_CFG_LOW_LEAD n)
  let s := s.setCauseIf ((s.bar n).inPage && decide (th ≤ lead) && decide (s.leadLines n < th))
    (F.FPE_LCAUSE_LOW_LEAD n)
  s.setCauseIf (s.grid.paused && !ready && s.barReady n) (F.FPE_LCAUSE_READY n)

/-- The bytes `lo .. lo+len-1` of a line, as a mask. -/
def byteMask (lo len : Nat) : BitVec 20480 := BitVec.ofNat 20480 ((2 ^ len - 1) * 2 ^ lo)

/-- A stream line becomes ready (R107, R115). -/
def State.lineBecomesReady (s : State) (n : Fin 32) (j : Nat) : State :=
  let s := s.modRsp n fun r =>
    { r with slots := r.slots.map fun x => if x.line = j then { x with ready := true } else x }
  s.put (F.RSP_STREAM_LINE_V n) (s.g (F.RSP_STREAM_LINE_V n) + 1)

/-- Bytes of one plain stream line land in its slot; the line is ready once all are written
(R107). -/
def State.landInSlot (s : State) (n : Fin 32) (j b : Nat) (bytes : List Byte) : State :=
  let s := s.storeBytes (slotAddr n j b) bytes
  let old := match (s.rsp n).slot j with | some x => x.mask | none => 0#20480
  let new : SlotLine := ⟨j, old ||| byteMask b bytes.length, false⟩
  let s := s.modRsp n fun r =>
    { r with slots := (r.slots.filter fun x => x.line != j) ++ [new] }
  if new.mask = BitVec.allOnes 20480 then s.lineBecomesReady n j else s

/-- Whether a plain stream line's slot is free or is being filled by it. -/
def Rsp.slotOpen (r : Rsp) (j : Nat) : Bool :=
  decide (j < r.release + 48) && !r.lineReady j

/-- Bytes of a plain stream, line by line; the part whose slot is not free waits (R106, R107). Bytes
of a discarded or released line are consumed. `fuel` bounds the lines touched. -/
def State.landPlain (n : Fin 32) : Nat → Nat → List Byte → State → State
  | 0, _, _, s => s
  | _, _, [], s => s
  | fuel + 1, off, b :: bs, s =>
    let j := off / lineBytes
    let k := lineBytes - off % lineBytes
    let now := (b :: bs).take k
    let rest := (b :: bs).drop k
    let r := s.rsp n
    if r.discarded j then State.landPlain n fuel (off + now.length) rest s
    else if r.slotOpen j then
      State.landPlain n fuel (off + now.length) rest (s.landInSlot n j (off % lineBytes) now)
    else s.modRsp n fun r => { r with waiting := r.waiting ++ [⟨off, b :: bs⟩] }

/-- The pieces of the staging area that follow its contiguous bytes directly join them; `fuel` bounds
the pieces. -/
def Rsp.joinStage : Nat → Rsp → Rsp
  | 0, r => r
  | fuel + 1, r =>
    match r.stageGot.find? fun g => g.1 == r.stageIn with
    | some g =>
      Rsp.joinStage fuel { r with
        stageIn := r.stageIn + g.2, stageGot := r.stageGot.filter fun x => x.1 != g.1 }
    | none => r

/-- Bytes enter the staging area, whose end wraps to its start. -/
def State.storeStage (s : State) (n : Fin 32) (off : Nat) (bytes : List Byte) : State :=
  let k := stageBytes - off % stageBytes
  let s := s.storeBytes (stageAddr n off) (bytes.take k)
  if bytes.length ≤ k then s else s.storeBytes (stageAddr n (off + k)) (bytes.drop k)

/-- Bytes of a packed stream go to their places in the staging area while it has space for them, and wait
otherwise; the decoder sees them once no byte before them is missing (R106). -/
def State.landPacked (s : State) (n : Fin 32) (off : Nat) (bytes : List Byte) : State :=
  let r := s.rsp n
  let room := r.stageOut + stageBytes - off
  let now := bytes.take room
  let rest := bytes.drop room
  let wait := if rest = [] then r.waiting else r.waiting ++ [⟨off + now.length, rest⟩]
  if now = [] ∨ off < r.stageIn then s.modRsp n fun r => { r with waiting := wait }
  else (s.storeStage n off now).modRsp n fun r =>
    Rsp.joinStage (r.stageGot.length + 1)
      { r with stageGot := r.stageGot ++ [(off, now.length)], waiting := wait }

/-- Bytes delivered into a bar's raster stream at stream offset `off`. -/
def State.landRaster (s : State) (n : Fin 32) (off : Nat) (bytes : List Byte) : State :=
  if s.bit (F.RSP_CTL_FMT n) then s.landPacked n off bytes
  else State.landPlain n (bytes.length / lineBytes + 2) off bytes s

/-- Waiting writes are tried again, oldest first (R106). -/
def State.retryRaster (s : State) (n : Fin 32) : State :=
  let w := (s.rsp n).waiting
  w.foldl (fun s x => s.landRaster n x.off x.bytes) (s.modRsp n fun r => { r with waiting := [] })

/-- RASTER_WRITE: bytes delivered by the bar's raster channel at stream offset `off` (R103-R107). -/
def execRasterWrite (n : Fin 32) (off : Nat) (bytes : List Byte) (s : State) : Out :=
  if s.seqRun || !s.up (barDomain n) then .next s
  else .next (State.watchLines n (fun s => s.landRaster n off bytes) s)

/-! ## Release (R119) -/

/-- Release lines oldest first below `target`: ready lines free their slots, discarded lines pass. -/
def Rsp.releaseTo (target : Nat) : Nat → Rsp → Rsp
  | 0, r => r
  | fuel + 1, r =>
    if target ≤ r.release then r
    else if r.lineReady r.release then
      Rsp.releaseTo target fuel
        { r with slots := r.slots.filter (fun x => x.line != r.release), release := r.release + 1 }
    else
      match r.discards.find? fun d => decide (d.1 ≤ r.release) && decide (r.release < d.2) with
      | some d =>
        let next := min target d.2
        let next := r.slots.foldl (fun a x => if x.ready && decide (r.release < x.line) then min a x.line else a) next
        Rsp.releaseTo target fuel { r with release := next }
      | none => r

/-- Lines that stop being held are released; waiting writes may then land (R106, R119). -/
def State.releaseLines (s : State) (n : Fin 32) : State :=
  let t := (s.lineBounds n).1
  let s := s.modRsp n fun r => Rsp.releaseTo t 200 r
  let s := s.modRsp n fun r =>
    { r with discards := r.discards.filter (fun d => decide (r.release < d.2)),
             copies := if s.bit (F.RSP_CTL_FMT n) then r.copies
                       else r.copies.filter (fun c => decide (r.release < c.base + c.lines)) }
  if (s.rsp n).waiting = [] then s else s.retryRaster n

/-! ## Packed decoder (R109-R116, R133) -/

/-- The bytes in the staging area that the decoder can take: none before them is missing. -/
def Rsp.staged (r : Rsp) : Nat := r.stageIn - r.stageOut

/-- All bytes in the staging area (RSP_STAGE). -/
def Rsp.inStage (r : Rsp) : Nat := r.stageGot.foldl (fun a g => a + g.2) r.staged

/-- The next `k` staged bytes. -/
def State.stagedBytes (s : State) (n : Fin 32) (k : Nat) : List Byte :=
  (List.range k).map fun i => s.byteAt (stageAddr n ((s.rsp n).stageOut + i))

/-- Whether one of the next `k` staged bytes lies in an uncorrectable word. -/
def State.stagedBad (s : State) (n : Fin 32) (k : Nat) : Bool :=
  (List.range k).any fun i => s.badAt (stageAddr n ((s.rsp n).stageOut + i))

/-- Consume `k` staged bytes. -/
def State.consumeStage (s : State) (n : Fin 32) (k : Nat) : State :=
  let s := (List.range k).foldl (fun (s : State) i =>
    let a := stageAddr n ((s.rsp n).stageOut + i)
    if i = 0 ∨ a % 8 = 0 then s.readErrs a 1 else s) s
  let s := s.modRsp n fun r => { r with stageOut := r.stageOut + k }
  if (s.rsp n).waiting = [] then s else s.retryRaster n

/-- The staged words ahead are read and met uncorrectable (R347): counted. -/
def State.stageErrs (s : State) (n : Fin 32) : State :=
  (List.range 16).foldl (fun (s : State) i =>
    let a := stageAddr n ((s.rsp n).stageOut + i)
    if i = 0 ∨ a % 8 = 0 then s.readErrs a 1 else s) s

/-- A stream error: state ERROR, the partial slot freed, the page stream marked (R133). The record of a page that
has ended is not amended (DESIGN CHOICE, log 20). -/
def State.streamError (s : State) (n : Fin 32) (detail : Nat) : State :=
  let r := s.rsp n
  let serial := match r.dec with
    | .tokens d _ _ _ => some d.serial
    | .header => (r.copies.head?).map (·.serial)
  let s := s.modRsp n fun r =>
    { r with slots := r.slots.filter (·.ready), errSerial := serial }
  let s := (s.put (F.RSP_STATUS_DEC n) 3).put (F.RSP_STATUS_ERR_DETAIL n) detail
  (s.bump (F.RSP_STREAM_ERRS_V n)).setCause (F.FPE_LCAUSE_STREAM_ERR n)

/-- The fault a page header shows against its descriptor copy, 0 for none (R114, Table 4.7). -/
def headerFault (h : List Byte) (c : DescCopy) : Nat :=
  let kb := leNat ((h.drop 7).take 1)
  if leNat (h.take 4) ≠ 0x98604B50 then 1
  else if leNat ((h.drop 4).take 3) ≠ c.page ∨ kb % 2 ≠ c.kind ∨ leNat ((h.drop 8).take 4) ≠ c.lines then 2
  else if kb / 2 ≠ 0 ∨ leNat ((h.drop 12).take 4) ≠ 0 then 3
  else 0

/-- The decoder's header step (R114): wait for a descriptor, report a fault, or begin the page. -/
def State.decodeHeader (s : State) (n : Fin 32) : State :=
  let r := s.rsp n
  match r.copies with
  | [] => s.put (F.RSP_STATUS_DEC n) 2
  | c :: rest =>
    if s.stagedBad n 16 then s.stageErrs n |>.streamError n 8
    else
      let f := headerFault (s.stagedBytes n 16) c
      if f ≠ 0 then s.streamError n f
      else
        let s := (s.consumeStage n 16).put (F.RSP_STATUS_DEC n) 1
        s.modRsp n fun r => { r with copies := rest, dec := .tokens c 0 none none }

/-- Whether the decoder of a bar may step: packed format, not in ERROR, domain on. -/
def State.decLive (s : State) (n : Fin 32) : Bool :=
  !s.seqRun && s.up (barDomain n) && s.bit (F.RSP_CTL_FMT n) && s.g (F.RSP_STATUS_DEC n) != 3

/-- PACKED_PAGE_HEADER (R114). -/
def execPackedPageHeader (n : Fin 32) (s : State) : Out :=
  if s.decLive n && decide (16 ≤ (s.rsp n).staged) && (s.rsp n).dec == .header then
    .next (s.decodeHeader n)
  else .next s

/-- WAIT_DESC_END: the descriptor has been pushed (R114). -/
def execWaitDescEnd (n : Fin 32) (s : State) : Out :=
  if s.g (F.RSP_STATUS_DEC n) == 2 && !(s.rsp n).copies.isEmpty && decide (16 ≤ (s.rsp n).staged) then
    .next (s.decodeHeader n)
  else .next s

/-- DECODE_LINE_BEGIN: a credit (while RUN is 1) and a free slot let the decoder begin a line
(R115, R116). -/
def execDecodeLineBegin (n : Fin 32) (s : State) : Out :=
  let r := s.rsp n
  match r.dec with
  | .tokens d word run none =>
    let j := d.base + word / 1280
    let paced := s.bit F.GRID_CTL_RUN
    if !s.decLive n || decide (d.lines * 1280 ≤ word) || r.discarded j || !r.slotOpen j
        || (paced && r.credit == 0) then .next s
    else .next (State.watchLines n (fun s => s.modRsp n fun r =>
      { r with credit := if paced then r.credit - 1 else r.credit,
               slots := r.slots ++ [⟨j, 0#20480, false⟩],
               dec := .tokens d word run (some (word / 1280)) }) s)
  | _ => .next s

/-- The 16 bytes of word `v` of the previous page line: all 0 before page line 0, and 0 for an
uncorrectable word (R112, Table 11.7). -/
def State.previousWord (s : State) (n : Fin 32) (d : DescCopy) (word : Nat) : List Byte :=
  let l := word / 1280
  if l = 0 then List.replicate 16 0#8
  else (List.range 16).map fun i =>
    let a := slotAddr n (d.base + l - 1) (16 * (word % 1280) + i)
    if s.badAt a then 0#8 else s.byteAt a

/-- The decoder reads word `v` of the previous page line, which meets the errors of its words (R347). -/
def State.readPrevious (s : State) (n : Fin 32) (d : DescCopy) (word : Nat) : State :=
  let l := word / 1280
  if l = 0 then s else s.readErrs (slotAddr n (d.base + l - 1) (16 * (word % 1280))) 16

/-- The line buffer bank of a bar (Table 11.6). -/
def lineBank (n : Fin 32) : Fin 116 := ⟨n.val, by omega⟩

/-- Produce the words of a run until it ends, a line ends or is not begun, or literal bytes are not
staged (R111, R112, R115). Discarded lines are decoded without writing (R134). `k` counts the 64-bit words
that port A has written, in whose cycles port B may write too (R345). -/
def State.runWords (n : Fin 32) (pb : List PortBWrite) : Nat → Nat → State → State
  | 0, _, s => s
  | fuel + 1, wrote, s =>
    let r := s.rsp n
    match r.dec with
    | .tokens d word (some (k, left)) line =>
      let j := d.base + word / 1280
      let drop := r.discarded j
      if left = 0 then s.modRsp n fun r => { r with dec := .tokens d word none line }
      else if !drop && line != some (word / 1280) then s
      else if k = .literal ∧ r.staged < 16 then s
      else if k = .literal ∧ s.stagedBad n 16 then s.stageErrs n |>.streamError n 8
      else
        let bytes := match k with
          | .literal => s.stagedBytes n 16
          | .zero => List.replicate 16 0#8
          | .copy => s.previousWord n d word
        let s := if k = .copy then s.readPrevious n d word else s
        let s := if drop then s
          else
            let a := slotAddr n j (16 * (word % 1280))
            let s := (s.storeBytes a (bytes.take 8)).portB (lineBank n) pb wrote (some (a / 8))
            let s := (s.storeBytes (a + 8) (bytes.drop 8)).portB (lineBank n) pb (wrote + 1) (some (a / 8 + 1))
            s.modRsp n fun r => { r with slots := r.slots.map fun x =>
              if x.line = j then { x with mask := x.mask ||| byteMask (16 * (word % 1280)) 16 } else x }
        let s := if k = .literal then s.consumeStage n 16 else s
        let run := if left = 1 then none else some (k, left - 1)
        let dec : DecAt := .tokens d (word + 1) run (if drop then none else line)
        State.runWords n pb fuel (if drop then wrote else wrote + 2) (s.modRsp n fun r => { r with dec := dec })
    | _ => s

/-- A token header at the read point (R111, R113, R114). A reserved TYPE 0b11 token after the last word
meets details 0x4 and 0x7; R114 orders only the faults of a page header, and the model reports 0x4
(DESIGN CHOICE, log 89). -/
def State.tokenHeader (s : State) (n : Fin 32) (d : DescCopy) (word : Nat) (line : Option Nat) : State :=
  let h := leNat (s.stagedBytes n 2)
  let ty := h / 2 ^ 14
  let k := h % 2 ^ 14
  let total := d.lines * 1280
  if s.stagedBad n 2 then s.stageErrs n |>.streamError n 8
  else if ty = 3 ∧ k ≠ 0 ∧ k ≠ 0x3FFF then s.streamError n 4
  else if word = total then
    if ty = 3 ∧ k = 0x3FFF then
      ((s.consumeStage n 2).put (F.RSP_STATUS_DEC n) 0).modRsp n fun r => { r with dec := .header }
    else s.streamError n 7
  else if ty = 3 ∧ k = 0x3FFF then s.streamError n 6
  else if ty = 3 then s.consumeStage n 2
  else if total < word + k + 1 then s.streamError n 5
  else
    let kind := if ty = 0 then RunKind.literal else if ty = 1 then .zero else .copy
    (s.consumeStage n 2).modRsp n fun r => { r with dec := .tokens d word (some (kind, k + 1)) line }

/-- Whether every word of the line in progress has been produced and the line is not yet ready. -/
def lineComplete (word : Nat) (line : Option Nat) : Bool := line.any fun l => word == (l + 1) * 1280

/-- PACKED_TOKEN: take the next token, or go on with the run in progress; a line that is complete becomes
ready first (R111-R115). -/
def execPackedToken (n : Fin 32) (s : State) (pb : List PortBWrite := []) : Out :=
  if !s.decLive n then .next s
  else match (s.rsp n).dec with
    | .tokens d word none line =>
      if (s.rsp n).staged < 2 || lineComplete word line then .next s
      else .next (State.watchLines n (fun s =>
        State.runWords n pb 16384 0 (s.tokenHeader n d word line)) s)
    | .tokens _ _ (some (_, left)) _ => .next (State.watchLines n (State.runWords n pb (left + 1) 0) s)
    | .header => .next s

/-- LINE_DECODED: the line in progress is complete and becomes ready; in ERROR the decoder writes no
further line, and its partial slot is free (R115, R133). -/
def execLineDecoded (n : Fin 32) (s : State) : Out :=
  match (s.rsp n).dec with
  | .tokens d word run (some l) =>
    if s.decLive n && lineComplete word (some l) then
      .next (State.watchLines n (fun s =>
        (s.lineBecomesReady n (d.base + l)).modRsp n fun r => { r with dec := .tokens d word run none }) s)
    else .next s
  | _ => .next s

/-! ## Abandon and reset (R134-R136) -/

/-- ABANDON: the page or band in progress ends at the next tick (R134). -/
def State.abandonWrite (s : State) (n : Fin 32) : State :=
  if (s.bar n).inPage then s.modBar n fun b => { b with abandon := true } else s

/-- ABANDON (R134). -/
def execAbandon (n : Fin 32) (s : State) : Out :=
  .next (s.atBlock (A.RSP_CTL n) fun s => s.abandonWrite n)

/-- The rest of an abandoned page's stream is discarded as it arrives (R134). -/
def State.discardPage (s : State) (n : Fin 32) (d : PageDesc) : State :=
  s.modRsp n fun r =>
    let inPage := fun (x : SlotLine) => decide (d.base ≤ x.line) && decide (x.line < d.base + d.lines)
    { r with slots := r.slots.filter (fun x => x.ready || !inPage x),
             discards := r.discards ++ [(d.base, d.base + d.lines)],
             dec := match r.dec with
               | .tokens c w run (some l) =>
                 if c.serial = d.serial then .tokens c w run none else .tokens c w run (some l)
               | x => x }

/-- Page streams numbered again from stream line 0, in queue order (R135). -/
def rebaseQueue : Nat → List PageDesc → List PageDesc
  | _, [] => []
  | b, d :: r => { d with base := b } :: rebaseQueue (b + d.lines) r

/-- The copy kept of a descriptor (R104). -/
def PageDesc.copy (d : PageDesc) : DescCopy := ⟨d.page, d.kind, d.lines, d.base, d.serial⟩

/-- The raster supply as a stream reset leaves it, the queued descriptors first in the stream; `first` is
the offset in the channel's descriptor of the next byte to arrive, which is byte 0 of the new stream. Three points
have no rule (DESIGN CHOICE, log 20): the credit starts at 0, so that with RUN 1 no line begins before the next
tick (R116), the mark of a stream in error is gone (R133), and so a page not yet started does not carry it. -/
def freshRsp (q : List PageDesc) (first : Nat) : Rsp :=
  { copies := q.map (·.copy), nextBase := q.foldl (fun a d => a + d.lines) 0, inPos := -(first : Int) }

/-- The lowest offset of a channel's descriptor in progress whose byte has not landed (R135). -/
def DmaChan.firstMissing (x : DmaChan) : Nat :=
  (x.reads.map (·.off) ++ x.pieces.map (·.off)).foldl min x.issued

/-- RESET_STREAM outside a page and band: clear the supply and load FMT (R105, R135). -/
def State.resetStream (s : State) (n : Fin 32) (fmt : Bool) : State :=
  if (s.bar n).inPage then s
  else
    let s := s.modBar n fun b =>
      let q := rebaseQueue 0 b.queue
      { b with queue := q, rsp := freshRsp q (s.dma[n.val]).firstMissing }
    let s := (s.put (F.RSP_STATUS_DEC n) 0).put (F.RSP_STATUS_ERR_DETAIL n) 0
    (s.put (F.RSP_STREAM_LINE_V n) 0).putb (F.RSP_CTL_FMT n) fmt

/-- RESET_STREAM with the FMT bit of the same write (R105, R135). -/
def execResetStream (n : Fin 32) (fmt : Bool) (s : State) : Out :=
  .next (s.atBlock (A.RSP_CTL n) fun s => s.resetStream n fmt)

end Sys2Proof.Machine
end

