-- ==== Sys2Proof/Machine/Axis.lean ====
section
/-!
DEFINITION. The arithmetic of the position unit: speed estimators, the print-axis counter C with its
interpolation, the print position PP, soft limits and source health (05 R147-R157). C is held in
2^-24 counts; positions are integers in POS48 units, 1/256 count.
-/

namespace Sys2Proof.Machine

/-! ## Speed estimators (R153-R155) -/

/-- The magnitude of a rational. -/
def ratAbs (v : Rat) : Rat := if v < 0 then -v else v

/-- The sum of the magnitudes of the newest `n` entries of a history. -/
def histSum (h : List (Nat × Nat)) (n : Nat) : Nat := (h.take n).foldl (fun a e => a + e.2) 0

/-- The time of the newest entry. -/
def histLast (h : List (Nat × Nat)) : Nat := (h.head?.map (·.1)).getD 0

/-- The magnitude of the window estimate of a history (newest first) with window `win` (R153). -/
def windowMag (h : List (Nat × Nat)) (win : Nat) : Rat :=
  let j := h.length - 1
  let n := min win j
  let t0 := ((h[n]?).map (·.1)).getD 0
  if n = 0 then 0 else (histSum h n : Rat) / seconds (histLast h - t0)

/-- `min m (k / dt)`, where a span of 0 leaves `m`. -/
def decayMag (m : Rat) (k : Nat) (dt : Nat) : Rat :=
  if dt = 0 then m else min m ((k : Rat) / seconds dt)

/-- Re-evaluate the estimate at time `t` (R153, R155). -/
def Est.eval (e : Est) (win t : Nat) : Est :=
  match e.rev, e.hist with
  | _, [] => { e with v := 0 }
  | some (vw, tp), _ => { e with v := e.dir * decayMag vw 1 (t - tp) }
  | none, [_] => { e with v := 0 }
  | none, (tj, m) :: r => { e with v := e.dir * decayMag (windowMag ((tj, m) :: r) win) m (t - tj) }

/-- The entries of a history that a window can need: 2^AVG of the largest AVG, and the one before (R153). -/
def estDepth : Nat := 65

/-- One count of direction `d` and magnitude `m` accepted with timestamp `t`, evaluated at `now`
(R153-R155). A second reversal before the next count starts a history again with v = 0, and VALID is
unchanged (log 91). -/
def Est.count (e : Est) (win t : Nat) (d : Int) (m : Nat) (now : Nat) : Est :=
  match e.hist with
  | [] => { hist := [(t, m)], dir := d, v := 0, valid := false, rev := none }
  | h :: r =>
    if d = e.dir then
      Est.eval { hist := ((t, m) :: h :: r).take estDepth, dir := d, v := 0, valid := true, rev := none }
        win now
    else if r = [] then { hist := [(t, m)], dir := d, v := 0, valid := e.valid, rev := none }
    else
      Est.eval { hist := [(t, m)], dir := d, v := 0, valid := e.valid,
                 rev := some (windowMag (h :: r) win, h.1) } win now

/-- Standstill: speed 0, not valid, history emptied (R154). -/
def Est.stand (e : Est) : Est := { hist := [], dir := e.dir, v := 0, valid := false, rev := none }

/-- The estimator window 2^AVG (R153). -/
def State.estWindow (s : State) : Nat := 2 ^ s.g F.POS_EST_CFG_AVG

/-- A channel of the position unit; 4 is SSI. -/
def State.chan (s : State) (c : Fin 5) : Chan := s.pos.chans[c]

/-- Replace a channel. -/
def State.setChan (s : State) (c : Fin 5) (x : Chan) : State :=
  { s with pos := { s.pos with chans := s.pos.chans.set c x } }

/-- Change a channel. -/
def State.modChan (s : State) (c : Fin 5) (f : Chan → Chan) : State := s.setChan c (f (s.chan c))

/-! ## Sources (R147, R157) -/

/-- The source a PRI or SEC code names: 0 to 3 ENCn, 4 SSI, else none. -/
def sourceOf (v : Nat) : Option (Fin 5) := if h : v < 5 then some ⟨v, h⟩ else none

/-- The primary source. -/
def State.priSrc (s : State) : Option (Fin 5) := sourceOf (s.g F.POS_AXIS_CFG_PRI)

/-- The secondary source. -/
def State.secSrc (s : State) : Option (Fin 5) := sourceOf (s.g F.POS_AXIS_CFG_SEC)

/-- Whether the secondary is active. -/
def State.onSec (s : State) : Bool := s.bit F.POS_AXIS_STATUS_ACTIVE

/-- The active source. -/
def State.activeSrc (s : State) : Option (Fin 5) := if s.onSec then s.secSrc else s.priSrc

/-- The weight q of the active source in 2^-24 (R147). -/
def State.weight (s : State) : Nat := if s.onSec then s.g F.POS_SEC_RATIO_V else 2 ^ 24

/-- Whether the print axis is lost (R160). -/
def State.axisLost (s : State) : Bool := s.bit F.POS_AXIS_STATUS_LOST

/-- The print-axis speed in counts per second (R153): the active source's estimate times q. -/
def State.axisV (s : State) : Rat :=
  match s.activeSrc with
  | some c => if s.axisLost then 0 else (s.chan c).est.v * (s.weight : Rat) / 2 ^ 24
  | none => 0

/-- Whether the print-axis speed is valid. -/
def State.axisValid (s : State) : Bool :=
  match s.activeSrc with
  | some c => !s.axisLost && (s.chan c).est.valid
  | none => false

/-- FO_REASON of a source's failure (R157): 0 none, 1 wire, 2 illegal transitions, 3 stall, 4 SSI. -/
def State.failReason (s : State) (c : Fin 5) (primary : Bool) : Nat :=
  let ch := s.chan c
  let stall :=
    match primary, s.secSrc with
    | true, some q =>
      let d := ((s.chan q).raw - s.pos.secAtPri).natAbs
      decide (d ≠ 0 ∧ s.g F.POS_SEC_RATIO_V * d * 256 ≥ s.g F.POS_FO_CFG_STALL * 2 ^ 24)
    | _, _ => false
  if c = 4 then
    if s.bit F.POS_ENC_CAUSE_SSI_FAIL then 4 else if stall then 3 else 0
  else if ch.wire[0]! || ch.wire[1]! then 1
  else if (ch.illegal.filter fun t => s.now ≤ t + us 10).length > s.g F.POS_FO_CFG_ILL_LIMIT then 2
  else if stall then 3
  else 0

/-- Whether the primary is healthy. -/
def State.priOk (s : State) : Bool :=
  match s.priSrc with | some c => s.failReason c true == 0 | none => false

/-- Whether the secondary is healthy. -/
def State.secOk (s : State) : Bool :=
  match s.secSrc with | some c => s.failReason c false == 0 | none => false

/-! ## POS48 value of C (R147-R149) -/

/-- The lower soft limit in whole counts. -/
def State.softLo (s : State) : Int := s.g48 F.POS_SLO_LO_V F.POS_SLO_HI_V / 256

/-- The upper soft limit in whole counts. -/
def State.softHi (s : State) : Int := s.g48 F.POS_SHI_LO_V F.POS_SHI_HI_V / 256

/-- The interpolated term of R148 for a count state: speed, validity, span since the last count and
the bound q_max in 2^-24 counts. Where floor(256 × q_max) is 0 the formula's bound is -1, and the term is taken as
0 (DESIGN CHOICE, log 91). -/
def interpTerm (v : Rat) (valid : Bool) (tau qmax : Nat) : Nat :=
  if valid then min ((256 * ratAbs v * seconds tau).floor.toNat) (256 * qmax / 2 ^ 24 - 1) else 0

/-- POS48 of a counter value with its interpolated term, truncated toward the last count, kept
within the soft limits; and the EST flag, 1 while the term is not 0 (R148, R149). -/
def interpolate (c : Int) (v : Rat) (term : Nat) (lo hi : Int) : Int × Bool :=
  let back := decide (v < 0) && decide (term ≠ 0)
  let base := if back then -(-c / 65536) else c / 65536
  let y := if back then max (base - term) (min base (256 * lo)) else min (base + term) (max base (256 * hi))
  (y, decide (y ≠ base))

/-- The POS48 value of C at time `t`, with EST (R148). -/
def State.posAt (s : State) (t : Nat) : Int × Bool :=
  match s.activeSrc with
  | some c =>
    let ch := s.chan c
    interpolate s.pos.c s.axisV (interpTerm s.axisV s.axisValid (t - ch.lastT) (s.weight * ch.lastMag))
      s.softLo s.softHi
  | none => (s.pos.c / 65536, false)

/-- The POS48 value of C now. -/
def State.posNow (s : State) : Int × Bool := s.posAt s.now

/-! ## Print position (R151, R152) -/

/-- Whether PP never decreases now: a bar is inside a page, band or pause, and it is not the span
from tick T + 1 of a stop up to re-entry (R151). -/
def State.monotone (s : State) : Bool := s.anyInside && !s.grid.posFree

/-- The print position now, with its EST flag (R151). -/
def State.ppNow (s : State) : Int × Bool :=
  let p := s.posNow
  if s.monotone && decide (s.pos.pp > p.1) then (s.pos.pp, s.pos.ppEst) else p

/-- Bring the stored print position up to now, with the hold's depth and its counters (R151,
R152). -/
def State.settlePP (s : State) : State :=
  let p := s.posNow
  let h := s.ppNow
  let hold := s.monotone && decide (s.pos.pp > p.1)
  let deep := hold && (s.pos.holdDeep && s.pos.holding || decide ((h.1 - p.1) / 256 > s.g F.POS_AXIS_CFG_BACKLASH))
  let newDeep := deep && !(s.pos.holding && s.pos.holdDeep)
  let ended := s.pos.holding && !hold
  let s1 := { s with pos := { s.pos with pp := h.1, ppEst := h.2, holding := hold, holdDeep := deep } }
  let s2 := if newDeep then (s1.bump F.POS_REVERSALS_V).setCause F.POS_CAUSE_REVERSAL else s1
  if ended && !s.pos.holdDeep then s2.bump F.POS_JITTER_V else s2

/-- Make a change with the print position settled before and after it. -/
def State.withPP (f : State → State) (s : State) : State := (f s.settlePP).settlePP

/-- The causes of the print axis's validity: VALID when it becomes 1 (R154). -/
def State.watchValid (f : State → State) (s : State) : State :=
  let s' := f s
  s'.setCauseIf (!s.axisValid && s'.axisValid) F.POS_CAUSE_VALID

/-- Whether C stands at a soft limit: a further count of the active source toward it would be discarded
(R149; log 91). -/
def State.atHi (s : State) : Bool := decide (s.softHi * 2 ^ 24 < s.pos.c + max 1 s.weight)

/-- See `State.atHi`. -/
def State.atLo (s : State) : Bool := decide (s.pos.c - (max 1 s.weight : Nat) < s.softLo * 2 ^ 24)

/-- C takes a value; a top-of-form input's lockout ends once the axis has moved LOCKOUT whole counts from the
capture (R163). -/
def State.setC (s : State) (c : Int) : State :=
  { s with pos := { s.pos with
      c := c
      tof := s.pos.tof.mapFinIdx fun t (x : Tof) _ => { x with
        last := x.last.filter fun p => decide ((c / 2 ^ 24 - p).natAbs < s.g (F.POS_TOFt_CFG_LOCKOUT t)) } } }

/-- Add `x` (2^-24 counts) to C; a count that would carry C beyond a soft limit is discarded,
counted and flagged (R149). -/
def State.axisAdd (s : State) (x : Int) : State :=
  let c := s.pos.c + x
  if (x > 0 ∧ c > s.softHi * 2 ^ 24) ∨ (x < 0 ∧ c < s.softLo * 2 ^ 24) then
    (s.bump F.POS_LIMIT_DISC_V).setCause F.POS_CAUSE_LIMIT
  else s.setC c

/-- The print-axis speed in 1/16 count/s, truncated toward 0 (Table 5.5), as a register word. -/
def speedWord (v : Rat) : Nat :=
  let x := v * 16
  unsigned 32 (satS 32 (if x < 0 then -((-x).floor) else x.floor))

end Sys2Proof.Machine
end

