-- ==== Sys2Proof/Machine/Position.lean ====
section
/-!
DEFINITION. The position unit's commands: encoder and SSI channels, index check, fail-over, rebase,
top-of-form capture (05 R137-R165, R169).
-/

namespace Sys2Proof.Machine

/-- Whether the position unit samples its inputs: EN is 1 and its domain is on. -/
def State.posLive (s : State) : Bool := !s.seqRun && s.up .pos && s.bit F.POS_CTL_EN

/-- An encoder channel as a channel of the unit. -/
def encChan (c : Fin 4) : Fin 5 := ⟨c.val, Nat.lt_succ_of_lt c.isLt⟩

/-- Whether an encoder channel counts. -/
def State.encLive (s : State) (c : Fin 4) : Bool := s.posLive && s.bit (F.POS_ENCc_CFG_EN c)

/-- A cause bit of an encoder channel (4c + k). -/
def encCause (c : Fin 4) (k : Nat) : Field := ⟨A.POS_ENC_CAUSE, 4 * c.val + k, 1⟩

/-- The POS_ENCc_CNT value: the unwrapped count modulo 2^32 (R142). -/
def Chan.cnt (ch : Chan) : Nat := unsigned 32 ch.raw

/-! ## Counts -/

/-- Captures still in their filter take a movement of C by a count of an incremental source whose first sample
lies at or before their crossing (R162). -/
def State.adjustCaptures (s : State) (x : Int) (ts : Nat) : State :=
  { s with pos := { s.pos with tof := s.pos.tof.map fun t =>
      { t with pend := t.pend.map fun p => if ts ≤ p.t then { p with c := p.c + x, lastT := ts } else p } } }

/-- The count of the secondary at the primary's last count, from which a stall is measured (R157). -/
def State.markSec (s : State) : State :=
  { s with pos := { s.pos with secAtPri := match s.secSrc with | some q => (s.chan q).raw | none => 0 } }

/-- A movement of `d * m` counts of a source with timestamp `ts`: its count, its estimator, and, when
it is the active source, the print axis (R147, R153). -/
def State.sourceCount (s : State) (c : Fin 5) (d : Int) (m ts : Nat) : State :=
  let s := s.modChan c fun ch =>
    { ch with raw := ch.raw + d * m, est := ch.est.count s.estWindow ts d m s.now, lastT := ts,
              lastMag := m }
  let s := if s.priSrc = some c then s.markSec else s
  if s.activeSrc = some c ∧ !s.axisLost then
    let old := s.pos.c
    let s := s.axisAdd (d * m * s.weight)
    if c = 4 then s else s.adjustCaptures (s.pos.c - old) ts
  else s

/-- The forward order of the states (A, B): 00, 10, 11, 01, 00 (R140). -/
def quadNext : Bool × Bool → Bool × Bool
  | (false, false) => (true, false)
  | (true, false) => (true, true)
  | (true, true) => (false, true)
  | (false, true) => (false, false)

/-- The direction of a single change of A or B, with DIR (R140). -/
def quadDir (old new : Bool × Bool) (dir : Bool) : Int :=
  if (quadNext old == new) != dir then 1 else -1

/-- ρ follows a count modulo P, and INDEX_MISSING is set once when ρ moves more than ITOL + 1 counts
past 0 without an index (R144). -/
def State.revFollow (s : State) (c : Fin 4) (d : Int) : State :=
  let p := s.g (F.POS_ENCc_PER_V c)
  if p = 0 then s else
  let s := s.put (F.POS_ENCc_RHO_V c) (((s.g (F.POS_ENCc_RHO_V c) : Int) + d) % p).toNat
  let s := s.modChan (encChan c) fun ch =>
    { ch with sinceIndex := ch.sinceIndex + d,
              wentFwd := ch.wentFwd || decide (ch.sinceIndex + d > 0),
              wentBack := ch.wentBack || decide (ch.sinceIndex + d < 0) }
  let ch := s.chan (encChan c)
  let lim : Int := s.g (F.POS_ENCc_CFG_ITOL c) + 2
  let u := ch.sinceIndex
  let past := decide (u ≥ p + lim) || decide (u ≤ -(p + lim)) || (ch.wentFwd && decide (u ≤ -lim))
    || (ch.wentBack && decide (u ≥ lim))
  if !ch.missing && past then
    (s.modChan (encChan c) fun ch => { ch with missing := true }).setCause (encCause c 3)
  else s

/-- EN or PER of a channel is written: the next index is the first, and rho is followed from where it stands,
modulo the new P (R144). -/
def State.revRestart (s : State) (c : Fin 4) : State :=
  let p := s.g (F.POS_ENCc_PER_V c)
  let u := if p = 0 then s.g (F.POS_ENCc_RHO_V c) else s.g (F.POS_ENCc_RHO_V c) % p
  (s.put (F.POS_ENCc_RHO_V c) u).modChan (encChan c) fun ch => { ch with
    indexKnown := false, missing := false, sinceIndex := u, wentFwd := decide (0 < u), wentBack := false }

/-- One count of encoder channel `c` (R140, R142, R147, R151, R153). -/
def State.encCount (s : State) (c : Fin 4) (d : Int) (ts : Nat) : State :=
  ((s.sourceCount (encChan c) d 1 ts).revFollow c d)

/-- A and B both changed in one sample: no count, the new state is the reference (R141). -/
def State.illegalTransition (s : State) (c : Fin 4) : State :=
  let s := s.modChan (encChan c) fun ch =>
    { ch with illegal := s.now :: ch.illegal.filter fun t => s.now ≤ t + us 10 }
  ((s.bump (F.POS_ENCc_ILL_V c)).setCause (encCause c 1)).vlog (0x08 + c.val) 0x01
    (s.chan (encChan c)).cnt

/-- Whether a change of a signal can be accepted now: its first sample lies FILT samples back, and the sample
before that still read the level accepted at `last` (R139). -/
def filterPassed (filt now : Nat) (last : Option Nat) : Bool :=
  match last with
  | some t => decide (t + (filt + 1) * posCycle ≤ now)
  | none => true

/-- Whether the changes of A and B to the levels given pass the channel's filter. -/
def State.countPasses (s : State) (c : Fin 4) (a b : Bool) : Bool :=
  let ch := s.chan (encChan c)
  let filt := s.g (F.POS_ENCc_CFG_FILT c)
  (a == ch.a || filterPassed filt s.now ch.aT) && (b == ch.b || filterPassed filt s.now ch.bT)

/-- Levels of A and B are accepted. -/
def Chan.take (ch : Chan) (a b : Bool) (now : Nat) : Chan :=
  { ch with
    a := a, b := b
    aT := if a == ch.a then ch.aT else some now
    bT := if b == ch.b then ch.bT else some now }

/-- ENCODER_COUNT: levels (a, b) of channel `c` are accepted now; the change's time is that of its
first sample, FILT samples earlier (R139-R142). While the channel or the unit is disabled no change is
accepted, and the levels last accepted stay the reference (DESIGN CHOICE, log 91). -/
def execEncoderCount (c : Fin 4) (a b : Bool) (s : State) : Out :=
  let ch := s.chan (encChan c)
  if !s.encLive c || (a == ch.a && b == ch.b) || !s.countPasses c a b then .next s
  else
    let t := s.modChan (encChan c) fun ch => ch.take a b s.now
    if a != ch.a && b != ch.b then .next (t.illegalTransition c)
    else
      let d := quadDir (ch.a, ch.b) (a, b) (s.bit (F.POS_ENCc_CFG_DIR c))
      let ts := s.now - s.g (F.POS_ENCc_CFG_FILT c) * posCycle
      .next (State.watchValid (State.withPP fun s =>
        (s.modChan (encChan c) fun ch => ch.take a b s.now).encCount c d ts) s)

/-- The number of a pair of wires. -/
def wireNum : WirePair → Nat
  | .a => 0 | .b => 1 | .z => 2

/-- WIRE and the live bit of a pair are set (R138). -/
def State.wireFails (s : State) (c : Fin 4) (k : Nat) : State :=
  let s := s.modChan (encChan c) fun ch => { ch with live := ch.live.set k true, wire := ch.wire.set k true }
  (s.setCause (encCause c 0)).vlog (0x08 + c.val) 0x02 (s.chan (encChan c)).cnt

/-- WIRE_DISAGREE: wires P and N of a pair read the same level (`same` true), or opposite levels again (`same`
false). The same level is noted when it begins; given again after more than TDIS samples of it, the
row sets WIRE (R138). The monitors report whether the channel counts or not. -/
def execWireDisagree (c : Fin 4) (w : WirePair) (same : Bool) (s : State) : Out :=
  let k := wireNum w
  let ch := s.chan (encChan c)
  let since := (ch.same[k]?).getD none
  match same, since with
  | true, none => .next (s.modChan (encChan c) fun ch => { ch with same := ch.same.set k (some s.now) })
  | true, some t =>
    .next (if s.posLive && !(ch.live.getD k false) && decide (t + s.g (F.POS_ENCc_CFG_TDIS c) * posCycle < s.now) then
        s.wireFails c k else s)
  | false, none => .next s
  | false, some _ =>
    .next (s.modChan (encChan c) fun ch => { ch with
      same := ch.same.set k none, live := ch.live.set k false, cleanSince := s.now })

/-- A write of 1 to WIRE of channel `c`: it clears only after 1 ms of opposite levels on all three
pairs (R138). -/
def State.wireClear (s : State) (c : Fin 4) : State :=
  let ch := s.chan (encChan c)
  if ch.same.all Option.isNone && decide (ch.cleanSince + ms 1 ≤ s.now) then
    (s.put (encCause c 0) 0).modChan (encChan c) fun ch => { ch with wire := [false, false, false] }
  else s

/-- WIRE_CLEAR (R138). -/
def execWireClear (c : Fin 4) (s : State) : Out :=
  .next (s.atBlock A.POS_ENC_CAUSE fun s => s.wireClear c)

/-! ## Index pulse (R143, R144) -/

/-- Correct a channel's count by `-e`, and the print axis when the channel is active (R144). -/
def State.indexCorrect (s : State) (c : Fin 4) (e : Int) : State :=
  State.withPP (fun s =>
    let s := s.modChan (encChan c) fun ch => { ch with raw := ch.raw - e }
    if s.activeSrc = some (encChan c) ∧ !s.axisLost then s.axisAdd (-e * s.weight) else s) s

/-- ENCODER_INDEX: a rising edge of Z is accepted, with the falling one before it (R139, R143, R144). -/
def execEncoderIndex (c : Fin 4) (s : State) : Out :=
  let ch := s.chan (encChan c)
  if !s.encLive c || !filterPassed (2 * s.g (F.POS_ENCc_CFG_FILT c) + 1) s.now ch.zT || !s.bit (F.POS_ENCc_CFG_ZEN c)
      || (s.bit (F.POS_ENCc_CFG_ZGATE c) && !(ch.a && ch.b)) then .next s
  else
    let s := s.modChan (encChan c) fun ch => { ch with zT := some s.now }
    let s := s.put (F.POS_ENCc_INDEX_V c) ch.cnt
    let p := s.g (F.POS_ENCc_PER_V c)
    if p = 0 then .next s
    else
      let r := s.g (F.POS_ENCc_RHO_V c)
      let e : Int := if 2 * r < p then r else r - p
      let s := (s.put (F.POS_ENCc_RHO_V c) 0).modChan (encChan c) fun ch =>
        { ch with indexKnown := true, missing := false, sinceIndex := 0, wentFwd := false,
                  wentBack := false }
      if !ch.indexKnown || decide (e.natAbs ≤ s.g (F.POS_ENCc_CFG_ITOL c)) then .next s
      else
        let s := s.setCause (encCause c 2)
        let pol := s.g (F.POS_ENCc_CFG_IPOL c)
        if pol = 1 ∨ (pol = 2 ∧ !s.anyInPage) then .next (s.indexCorrect c e)
        else if pol = 2 then
          .next (s.modChan (encChan c) fun ch => { ch with heldCorr := ch.heldCorr + e })
        else .next s

/-- INDEX_CORRECTION: a correction held under IPOL 2 is applied at the first moment no bar is inside
a page or band (R144). -/
def execIndexCorrection (c : Fin 4) (s : State) : Out :=
  let e := (s.chan (encChan c)).heldCorr
  if s.anyInPage || e == 0 then .next s
  else .next ((s.modChan (encChan c) fun ch => { ch with heldCorr := 0 }).indexCorrect c e)

/-! ## SSI (R145, R146) -/

/-- Whether the SSI channel runs frames. -/
def State.ssiLive (s : State) : Bool := s.posLive && s.bit F.POS_SSI_CFG_EN

/-- Whether a frame starts in this POS cycle: at a line tick while the grid runs with TRIG 0, else every PERIOD us
from the last start that was due (R145). -/
def State.ssiDue (s : State) : Bool :=
  if s.running && !s.bit F.POS_SSI_CFG_TRIG then s.grid.ticked && decide (s.now < s.grid.tickT + posCycle)
  else
    let p := us (max 1 (s.g F.POS_SSI_PERIOD_V))
    let t := s.now - s.pos.ssi.lastStart
    decide (p ≤ t) && decide (t % p < posCycle)

/-- The time of the periodic start that is due: the starts keep their times when one is skipped. -/
def State.ssiSlot (s : State) : Nat :=
  let p := us (max 1 (s.g F.POS_SSI_PERIOD_V))
  if s.running && !s.bit F.POS_SSI_CFG_TRIG then s.now else s.now - (s.now - s.pos.ssi.lastStart) % p

/-- SSI_FRAME_START: the clock falls now, with the data input at `data`; a start while the previous
frame runs is skipped (R145). -/
def execSsiFrameStart (data : Bool) (s : State) : Out :=
  if !s.ssiLive || s.pos.ssi.running || !s.ssiDue then .next s
  else .next { s with pos := { s.pos with ssi :=
      { s.pos.ssi with running := true, fallT := s.now, lastStart := s.ssiSlot, startLow := !data } } }

/-- Gray code to binary over `n` bits (R146). -/
def grayToBin : Nat → Nat → Nat
  | 0, _ => 0
  | n + 1, g =>
    let hi := grayToBin n (g / 2)
    2 * hi + ((g % 2 + hi) % 2)

/-- The number of 1 bits of the low `n` bits. -/
def ones : Nat → Nat → Nat
  | 0, _ => 0
  | n + 1, v => v % 2 + ones n (v / 2)

/-- A rejected SSI frame: counted, flagged, logged (R146, R169). -/
def State.ssiReject (s : State) (code : Nat) (cause : Field) (rawBits : Nat) : State :=
  let s := { s with pos := { s.pos with ssi := { s.pos.ssi with rejects := s.pos.ssi.rejects + 1 } } }
  ((s.bump F.POS_SSI_ERRS_V).setCause cause).vlog 0x0C code rawBits

/-- An accepted SSI value (R146, R147, R153). -/
def State.ssiAccept (s : State) (v : Nat) (delta : Int) : State :=
  let first := s.pos.ssi.prev.isNone
  let s := { s with pos := { s.pos with ssi := { s.pos.ssi with prev := some v, rejects := 0 } } }
  let s := (s.put F.POS_SSI_VAL_LO_V v).put F.POS_SSI_VAL_HI_V (v / 2 ^ 32)
  let s := s.put F.POS_ENC_CAUSE_SSI_FAIL 0
  if first then s
  else if delta = 0 then s.modChan 4 fun ch => { ch with lastT := s.pos.ssi.fallT, lastMag := 0 }
  else s.sourceCount 4 (if delta < 0 then -1 else 1) delta.natAbs s.pos.ssi.fallT

/-- SSI_FRAME: the frame in progress ends with its data bits, parity bit and monoflop check
(R145, R146). -/
def execSsiFrame (bits : BitVec 48) (parity mono : Bool) (s : State) : Out :=
  let n := s.g F.POS_SSI_CFG_BITS
  let par := s.g F.POS_SSI_CFG_PAR
  let len := n + (if par = 0 then 0 else 1)
  let span := (2 * len + 1) * (s.g F.POS_SSI_CFG_DIV + 1) * posCycle
  if !s.ssiLive || !s.pos.ssi.running || decide (s.now < s.pos.ssi.fallT + span) then .next s
  else
    let rawBits := bits.toNat % 2 ^ n
    let v := if s.bit F.POS_SSI_CFG_GRAY then grayToBin n rawBits else rawBits
    let delta : Int :=
      match s.pos.ssi.prev with
      | some p => ((v : Int) - p + 2 ^ (n - 1)) % 2 ^ n - 2 ^ (n - 1)
      | none => 0
    let sum := (ones n rawBits + b2n parity) % 2
    let s := { s with pos := { s.pos with ssi := { s.pos.ssi with running := false } } }
    if s.pos.ssi.startLow || mono then .next (s.ssiReject 0x02 F.POS_ENC_CAUSE_FRAME rawBits)
    else if (par = 1 ∧ sum = 1) ∨ (par = 2 ∧ sum = 0) then
      .next (s.ssiReject 0x01 F.POS_ENC_CAUSE_PARITY rawBits)
    else if delta.natAbs > s.g F.POS_SSI_MAXJUMP_V then
      .next (s.ssiReject 0x03 F.POS_ENC_CAUSE_JUMP rawBits)
    else .next (State.watchValid (State.withPP fun s => s.ssiAccept v delta) s)

/-- SSI_FAIL: three rejected frames in a row (R146). -/
def execSsiFail (s : State) : Out :=
  .next (s.setCauseIf (decide (s.pos.ssi.rejects ≥ 3)) F.POS_ENC_CAUSE_SSI_FAIL)

/-! ## Speed (R153, R154) -/

/-- SPEED_REEVAL: every estimate takes its decay term at this instant (R153). -/
def execSpeedReeval (s : State) : Out :=
  .next (State.withPP (fun s =>
    { s with pos := { s.pos with chans := s.pos.chans.map fun ch =>
        { ch with est := ch.est.eval s.estWindow s.now } } }) s)

/-- Whether a source has had no count for longer than STANDSTILL us. -/
def State.atStandstill (s : State) (c : Fin 5) : Bool :=
  match (s.chan c).est.hist with
  | [] => false
  | (t, _) :: _ => decide (t + us (s.g F.POS_EST_CFG_STANDSTILL) < s.now)

/-- A source goes to standstill; the print axis reports its own (R154). -/
def State.standstill (s : State) (c : Fin 5) : State :=
  let was := !(s.chan c).est.hist.isEmpty && !s.axisLost
  let s := State.withPP (fun s => s.modChan c fun ch => { ch with est := ch.est.stand }) s
  s.setCauseIf (decide (s.activeSrc = some c) && was) F.POS_CAUSE_STANDSTILL

/-- STANDSTILL (R154). -/
def execStandstill (c : Fin 5) (s : State) : Out :=
  .next (if s.atStandstill c then s.standstill c else s)

/-! ## Fail-over (R156-R161) -/

/-- Whether an anchor is due: once at each line tick, and every 10 us while RUN is 0 (R156). -/
def State.anchorDue (s : State) : Bool :=
  if s.bit F.GRID_CTL_RUN then s.grid.ticked && s.pos.anchorTick != some s.tick
  else decide (s.pos.anchorT + us 10 ≤ s.now)

/-- FAILOVER_ANCHOR: take an anchor, or keep the previous one when the primary's movement since it
disagrees with q times the secondary's by more than DIVERGE counts (R156). -/
def execFailoverAnchor (s : State) : Out :=
  match s.priSrc, s.secSrc with
  | some p, some q =>
    if !s.posLive || !s.priOk || !s.anchorDue then .next s
    else
      let s := { s with pos := { s.pos with anchorT := s.now, anchorTick := some s.tick } }
      let a : Anchor := ⟨s.pos.c, (s.chan q).raw, (s.chan p).raw⟩
      let take := { s with pos := { s.pos with anchor := some a } }
      match s.pos.anchor with
      | none => .next take
      | some o =>
        let mp := (a.pri - o.pri) * 2 ^ 24
        let mq := (a.sec - o.sec) * (s.g F.POS_SEC_RATIO_V : Int)
        if (mp - mq).natAbs ≤ s.g F.POS_FO_CFG_DIVERGE * 2 ^ 24 then .next take
        else .next ((s.bump F.POS_DIVERGES_V).setCause F.POS_CAUSE_DIVERGE)
  | _, _ => .next s

/-- The print axis switches to the secondary from the anchor, which is kept, C within the soft limits (R149, R156,
R158). -/
def State.switchToSec (s : State) (a : Anchor) (q : Fin 5) (reason : Nat) : State :=
  let c := a.c + (s.g F.POS_SEC_RATIO_V : Int) * ((s.chan q).raw - a.sec)
  let s := s.setC (max (s.softLo * 2 ^ 24) (min (s.softHi * 2 ^ 24) c))
  let s := (s.put F.POS_AXIS_STATUS_ACTIVE 1).put F.POS_AXIS_STATUS_FO_REASON reason
  (s.bump F.POS_FAILOVERS_V).setCause F.POS_CAUSE_FAILOVER

/-- The print axis is lost (R160). -/
def State.loseAxis (s : State) (reason : Nat) : State :=
  if s.axisLost then s
  else ((s.put F.POS_AXIS_STATUS_LOST 1).put F.POS_AXIS_STATUS_FO_REASON reason).setCause
    F.POS_CAUSE_AXIS_LOST

/-- What the failure of the active source brings about; nothing while the axis is lost, which only firmware
ends (R158, R160). -/
def State.onFailure (s : State) : State :=
  match s.activeSrc with
  | none => s
  | some c =>
    let reason := s.failReason c (!s.onSec)
    if reason = 0 ∨ s.axisLost then s
    else if !s.bit F.POS_AXIS_CFG_AUTO_FO then s.put F.POS_AXIS_STATUS_FO_REASON reason
    else
      match s.onSec, s.secOk, s.secSrc, s.pos.anchor with
      | false, true, some q, some a =>
        State.watchValid (State.withPP fun s => s.switchToSec a q reason) s
      | _, _, _, _ => State.withPP (fun s => s.loseAxis reason) s

/-- FAILOVER (R158, R160). -/
def execFailover (s : State) : Out := .next (if s.posLive then s.onFailure else s)

/-- The print axis returns to the primary; C continues, and the anchor is kept (R156, R161). -/
def State.returnToPri (s : State) : State :=
  State.watchValid (State.withPP fun s =>
    let s := (s.put F.POS_AXIS_STATUS_ACTIVE 0).put F.POS_AXIS_STATUS_LOST 0
    { s with pos := { s.pos with usePri := false } }) s

/-- The effect of a write of 1 to POS_CTL.USE_PRI (R161). -/
def State.usePriWrite (s : State) : State :=
  if !s.priOk then s
  else if s.running then { s with pos := { s.pos with usePri := true } }
  else s.returnToPri

/-- USE_PRI (R161). -/
def execUsePri (s : State) : Out := .next (s.atBlock A.POS_CTL State.usePriWrite)

/-- At a line tick, a waiting return to the primary takes place, or the axis is found lost when the
primary has failed meanwhile (R160, R161). -/
def State.usePriAtTick (s : State) : State :=
  if !s.pos.usePri then s
  else if s.priOk then s.returnToPri
  else ({ s with pos := { s.pos with usePri := false } }).onFailure

/-- After a write of POS_AXIS_CFG: a source named anew has no anchor and no stall behind it, and C continues
from its value; the axis is no longer lost when the active source is healthy (R147, R156, R157, R160). -/
def State.axisCfgChanged (s : State) (old : Option (Fin 5) × Option (Fin 5)) : State :=
  let s := if (s.priSrc, s.secSrc) = old then s else ({ s with pos := { s.pos with anchor := none } }).markSec
  let s := if (if s.onSec then s.secOk else s.priOk) then s.put F.POS_AXIS_STATUS_LOST 0 else s
  s.onFailure

/-! ## Rebase (R150) -/

/-- Subtract `b` whole counts from a 48-bit position in two words. -/
def State.sub48 (s : State) (lo hi : Field) (b : Int) : State :=
  s.put48 lo hi (s.g48 lo hi - b * 256)

/-- Subtract `b` whole counts from a soft limit, which stays within POS48. -/
def State.subLimit (s : State) (lo hi : Field) (b : Int) : State :=
  s.put48 lo hi (clamp (-(2 ^ 47)) (2 ^ 47 - 256) (s.g48 lo hi - b * 256))

/-- The position words of a ring entry. -/
def ringPos (t e : Nat) : Field × Field := (⟨A.POS_RING t e 0, 0, 32⟩, ⟨A.POS_RING t e 1, 0, 16⟩)

/-- Whether a ring entry is FULL. -/
def State.ringFull (s : State) (t e : Nat) : Bool := (s.reg (A.POS_RING t e 4)).getLsbD 16

/-- REBASE by B whole counts, or REBASE_REFUSED (R150). -/
def State.rebase (s : State) : State :=
  if s.anyInside then s.setCause F.POS_CAUSE_REBASE_REFUSED
  else
    let b := s.g48 F.POS_REBASE_LO_V F.POS_REBASE_HI_V / 256
    let s := s.settlePP
    let s := { s with pos := { s.pos with
      c := s.pos.c - b * 2 ^ 24, pp := s.pos.pp - b * 256,
      anchor := s.pos.anchor.map (fun (a : Anchor) => { a with c := a.c - b * 2 ^ 24 }),
      tof := s.pos.tof.map fun (t : Tof) =>
        { t with pend := t.pend.map fun (p : Capture) => { p with c := p.c - b * 2 ^ 24 },
                 last := t.last.map fun x => x - b } } }
    let s := forUpto 4 (fun t s => forUpto 16 (fun e s =>
      if s.ringFull t e then s.sub48 (ringPos t e).1 (ringPos t e).2 b else s) s) s
    let s := forUpto 16 (fun c s => s.sub48 (F.POS_CMPc_TGT_LO_V c) (F.POS_CMPc_TGT_HI_V c) b) s
    let s := s.subLimit F.POS_SLO_LO_V F.POS_SLO_HI_V b
    (s.subLimit F.POS_SHI_LO_V F.POS_SHI_HI_V b).settlePP

/-- REBASE (R150). -/
def execRebase (s : State) : Out := .next (s.atBlock A.POS_CTL State.rebase)

/-! ## Arming a comparator (R166) -/

/-- A change that may write ARM of a comparator: one that becomes armed is evaluated from the next POS cycle, and
a write of 1 to ARM while it is armed is noted with its cycle (R166). -/
def State.watchArm (c : Fin 16) (f : State → State) (s : State) : State :=
  let k := s.now / posCycle
  let was := s.bit (F.POS_CMPc_CTL_ARM c)
  let s := f s
  let x : Cmp := if was then { evalFrom := (s.pos.cmp[c]).evalFrom, rearmed := some k } else { evalFrom := k + 1 }
  if s.bit (F.POS_CMPc_CTL_ARM c) then { s with pos := { s.pos with cmp := s.pos.cmp.set c x } } else s

/-! ## Top-of-form capture (R162-R165) -/

/-- A top-of-form input. -/
def State.tofIn (s : State) (t : Fin 4) : Tof := s.pos.tof[t]

/-- Replace a top-of-form input. -/
def State.setTof (s : State) (t : Fin 4) (x : Tof) : State :=
  { s with pos := { s.pos with tof := s.pos.tof.set t x } }

/-- The REJECT cause and count of an input (R163). -/
def State.tofReject (s : State) (t : Fin 4) : State :=
  (s.bump (F.POS_TOFt_REJ_V t)).setCause ⟨A.POS_TOF_CAUSE, 4 + t.val, 1⟩

/-- Write an accepted capture into its ring entry, the sequence word last, and set CAPTURE
(R163, R164, Table 5.10). -/
def State.publishCapture (s : State) (t : Fin 4) (p : Capture) : State :=
  let q := if s.bit (F.POS_TOFt_SEQ_ANY t) then (s.g (F.POS_TOFt_SEQ_SEQ t) + 1) % 65536 else 0
  let e := q % 16
  let (x, est) := interpolate p.c p.v (interpTerm p.v p.valid (p.t - p.lastT) p.qmax) s.softLo s.softHi
  let u := unsigned 48 x
  let w1 := u / 2 ^ 32 + b2n est * 2 ^ 16 + p.src * 2 ^ 17 + b2n p.valid * 2 ^ 18 + b2n p.lost * 2 ^ 19
  let s := s.setReg (A.POS_RING t e 0) (BitVec.ofNat 32 u)
  let s := s.setReg (A.POS_RING t e 1) (BitVec.ofNat 32 w1)
  let s := s.setReg (A.POS_RING t e 2) (BitVec.ofNat 32 (p.t / 65536))
  let s := s.setReg (A.POS_RING t e 3) (BitVec.ofNat 32 (p.t / 65536 / 2 ^ 32))
  let s := s.setReg (A.POS_RING t e 5) (BitVec.ofNat 32 (speedWord p.v))
  let s := s.setReg (A.POS_RING t e 4) (BitVec.ofNat 32 (q + 2 ^ 16))
  let s := (s.put (F.POS_TOFt_SEQ_SEQ t) q).put (F.POS_TOFt_SEQ_ANY t) 1
  let s := s.setTof t { (s.tofIn t) with last := some (x / 256) }
  let s := s.setC s.pos.c
  s.setCause ⟨A.POS_TOF_CAUSE, t.val, 1⟩

/-- The samples for which changes before a capture can still stand in the filter of the active source: none for
SSI (R162, R163). -/
def State.captureFilter (s : State) : Nat :=
  match s.activeSrc with
  | some c => if c.val < 4 then s.g (F.POS_ENCc_CFG_FILT c.val) + 1 else 0
  | none => 0

/-- Whether a latched edge may be published: MINW further samples have passed and the filter of the active
source has emptied (R163). -/
def State.captureDue (s : State) (t : Fin 4) (p : Capture) : Bool :=
  decide (p.t + max (s.g (F.POS_TOFt_CFG_MINW t)) s.captureFilter * posCycle ≤ s.now)

/-- The edges latched on an input become `l`; when none is left, the delay line is idle and a scale that waited
for it is applied (Table 8.2, class 7). -/
def State.setPend (s : State) (t : Fin 4) (l : List Capture) : State :=
  let s := s.setTof t { (s.tofIn t) with pend := l }
  if l = [] then s.modCal (calIndex 7 t) (CalInst.idleFrom s.now) else s

/-- The oldest edge latched on an input is published once it may be (R163, R164). -/
def State.tofSettle (s : State) (t : Fin 4) : State :=
  match (s.tofIn t).pend with
  | [] => s
  | p :: r => if s.captureDue t p then (s.publishCapture t p).setPend t r else s

/-- Every edge that may be published is. -/
def State.tofSettleAll (s : State) (t : Fin 4) : State := (s.tofIn t).pend.foldl (fun s _ => s.tofSettle t) s

/-- TOF_PUBLISH (R163, R164). -/
def execTofPublish (t : Fin 4) (s : State) : Out := .next (s.tofSettle t)

/-- The input takes its new level: edges that it has not kept for MINW further samples are rejected (R163). -/
def State.tofLevel (s : State) (t : Fin 4) (level : Bool) (cross : Nat) : State :=
  let x := s.tofIn t
  let kept := fun (p : Capture) => decide (p.t + s.g (F.POS_TOFt_CFG_MINW t) * posCycle ≤ cross)
  let s := s.setTof t { x with level := level }
  (x.pend.filter fun p => !kept p).foldl (fun s _ => s.tofReject t)
    (if x.pend.all kept then s else s.setPend t (x.pend.filter kept))

/-- Whether an edge falls into the lockout of an accepted capture, published or not (R163). -/
def State.tofLocked (s : State) (t : Fin 4) : Bool :=
  let near := fun (p : Int) => decide ((s.pos.c / 2 ^ 24 - p).natAbs < s.g (F.POS_TOFt_CFG_LOCKOUT t))
  (s.tofIn t).last.any near || (s.tofIn t).pend.any fun p => near (p.c / 2 ^ 24)

/-- An edge of the set polarity is latched with the position at its crossing (R162). -/
def State.tofLatch (s : State) (t : Fin 4) (cross : Nat) : State :=
  let ch := match s.activeSrc with | some c => s.chan c | none => {}
  let p : Capture :=
    { t := cross, c := s.pos.c, lastT := ch.lastT, v := s.axisV, valid := s.axisValid,
      qmax := s.weight * ch.lastMag, src := b2n s.onSec, lost := s.axisLost }
  let s := if (s.tofIn t).pend = [] then s.modCal (calIndex 7 t) (CalInst.idleEnds s.now) else s
  s.setTof t { (s.tofIn t) with pend := (s.tofIn t).pend ++ [p] }

/-- TOF_CAPTURE: the pin of input `t` crosses its threshold to `level`, `sub` units of 78.125 ps
after now's whole nanosecond (R162, R163). An edge back within the MINW filter rejects the one it
follows; an edge of the set polarity before LOCKOUT counts of movement is ignored and counted. -/
def execTofCapture (t : Fin 4) (level : Bool) (sub : Fin 13) (s : State) : Out :=
  if !s.posLive then .next s
  else
    let s := s.tofSettleAll t
    if level == (s.tofIn t).level then .next s
    else
      let cross := s.now + sub.val * 5120
      let s := s.tofLevel t level cross
      if !s.bit (F.POS_TOFt_CFG_EN t) || level == s.bit (F.POS_TOFt_CFG_EDGE t) then .next s
      else if s.tofLocked t then .next (s.tofReject t)
      else .next (s.tofLatch t cross)

/-- How a sequence number is classed (R165). -/
inductive CaptureClass where
  | held | notYet | gone
  deriving DecidableEq, Repr

/-- The class of sequence number `x` of input `t` (R165). -/
def State.captureClass (s : State) (t x : Nat) : CaptureClass :=
  let any := s.bit (F.POS_TOFt_SEQ_ANY t)
  let q := s.g (F.POS_TOFt_SEQ_SEQ t)
  let back := (q + 65536 - x % 65536) % 65536
  let fwd := (x + 65536 - q) % 65536
  if any && decide (back ≤ 15) && s.ringFull t (x % 16)
      && decide ((s.reg (A.POS_RING t (x % 16) 4)).toNat % 65536 = x % 65536) then .held
  else if !any || (decide (1 ≤ fwd) && decide (fwd ≤ 32767)) then .notYet
  else .gone

/-- The captured position of a held sequence number. -/
def State.capturePos (s : State) (t x : Nat) : Int :=
  s.g48 (ringPos t (x % 16)).1 (ringPos t (x % 16)).2

end Sys2Proof.Machine
end

