-- ==== Sys2Proof/Machine/Schedule.lean ====
section
/-!
DEFINITION. Parameter sets of the bars and of the grid: the schedule check, arming, hand-over,
autotune (02 R33-R39, R45-R47, R70-R75).
-/

namespace Sys2Proof.Machine

/-! ## Sets -/

/-- A global parameter set (Table 2.10). -/
structure GridSet where
  freq : Nat
  w : Nat
  ww : Nat
  slots : Nat
  pitch : Nat
  errTol : Nat
  deriving DecidableEq, Repr

/-- The live global set. -/
def State.liveSet (s : State) : GridSet where
  freq := s.g F.GRID_FREQ_LO_LIVE_V + 2 ^ 32 * s.g F.GRID_FREQ_HI_LIVE_V
  w := s.g F.GRID_STROBE_LIVE_V
  ww := s.g F.GRID_WARM_LIVE_WW
  slots := s.g F.GRID_WARM_LIVE_SLOTS
  pitch := s.g F.GRID_PITCH_LIVE_V
  errTol := s.g F.GRID_ERR_TOL_LIVE_V

/-- The shadow global set. -/
def State.shadowSet (s : State) : GridSet where
  freq := s.g F.GRID_FREQ_LO_V + 2 ^ 32 * s.g F.GRID_FREQ_HI_V
  w := s.g F.GRID_STROBE_V
  ww := s.g F.GRID_WARM_WW
  slots := s.g F.GRID_WARM_SLOTS
  pitch := s.g F.GRID_PITCH_V
  errTol := s.g F.GRID_ERR_TOL_V

/-- The live frequency word. -/
def State.freq (s : State) : Nat := s.liveSet.freq

/-- The live pitch in 1/256 count. -/
def State.pitch (s : State) : Nat := s.g F.GRID_PITCH_LIVE_V

/-- The group times of a bar's live set. -/
def State.liveGts (s : State) (n : Nat) : List Nat :=
  (List.range 16).map fun g => s.g (F.FPE_GT_LIVE_V n g)

/-- The group times of a bar's shadow set. -/
def State.shadowGts (s : State) (n : Nat) : List Nat :=
  (List.range 16).map fun g => s.g (F.FPE_GT_V n g)

/-- The schedule period P of a frequency word (R34). -/
def periodOf (freq : Nat) : Nat := 2 ^ 48 / freq

/-- The least and the greatest FREQ (R33). -/
def freqMin : Nat := 0x0A7C5AC5

@[inherit_doc freqMin]
def freqMax : Nat := 0x1F75104D5

/-- The range of FREQ (R33). -/
def freqInRange (freq : Nat) : Bool := decide (freqMin ≤ freq) && decide (freq ≤ freqMax)

/-- A word brought into the range of FREQ: none outside it becomes live (R33). -/
def freqClamp (freq : Nat) : Nat := max freqMin (min freqMax freq)

/-- The end of the last warm slot a set allows, in GRID cycles (R46). -/
def schedEnd (gts : List Nat) (p : GridSet) : Nat :=
  gts.getD 15 0 + p.w * 8 + p.slots * (p.ww * 8 + 40)

/-- Each group time leaves the strobe and its gap before the next (R46). -/
def spaced (w : Nat) : List Nat → Bool
  | a :: b :: r => decide (a + w + 40 ≤ b) && spaced w (b :: r)
  | _ => true

/-- Whether group times and a global set fit the line period (R46). -/
def fits (gts : List Nat) (p : GridSet) : Bool :=
  decide (128 ≤ gts.getD 0 0) && spaced (p.w * 8) gts
    && decide (schedEnd gts p + 64 ≤ periodOf p.freq)

/-- Whether every field of a global set lies in its range (R33, Table 2.10). -/
def GridSet.inRange (p : GridSet) : Bool :=
  freqInRange p.freq && decide (40 ≤ p.w) && decide (p.w ≤ 600) && decide (10 ≤ p.ww)
    && decide (p.ww ≤ 100) && decide (256 ≤ p.pitch) && decide (1 ≤ p.errTol) && decide (p.errTol ≤ 128)

/-- The check of a bar's shadow set (R47). -/
def State.barFits (s : State) (n : Fin 32) : Bool :=
  fits (s.shadowGts n) s.liveSet && (!s.bit F.GRID_CTL_GARM || fits (s.shadowGts n) s.shadowSet)

/-- The check of the global shadow set (R47). -/
def State.gridFits (s : State) : Bool :=
  s.shadowSet.inRange && allBars.all fun n =>
    fits (s.liveGts n) s.shadowSet && (!s.bit (F.FPE_CTL_ARM n) || fits (s.shadowGts n) s.shadowSet)

/-! ## Starting a check (R47, R70, R72, R74, R75) -/

/-- Where an arming is handed over, and whether its named line is missed (R70, R71). -/
def Bar.armTarget (b : Bar) (c : BarCheck) : ArmAt × Bool :=
  if !c.atLine then (.pageStart, false)
  else match b.page with
    | some p => if c.line < p.seen then (.moved, true) else (.lineNow c.line, false)
    | none => (.lineNext c.line, false)

/-- Whether a hand-over took place in the PORT cycle that runs (R72). -/
def handedNow (handT : Option Nat) (now : Nat) : Bool := handT.any fun t => portCycleOf t == portCycleOf now

/-- The writes so far in the PORT cycle that runs, given those last noted (R72). -/
def shadowCycle {α : Type} (x : Option (ShadowCycle α)) (check : Option α) (now : Nat) : ShadowCycle α :=
  match x with
  | some c => if c.cycle = portCycleOf now then c else { cycle := portCycleOf now, check := check }
  | none => { cycle := portCycleOf now, check := check }

/-- The writes noted in the PORT cycle that runs, if any. -/
def shadowNow {α : Type} (x : Option (ShadowCycle α)) (now : Nat) : Option (ShadowCycle α) :=
  x.filter fun c => c.cycle == portCycleOf now

/-- A write of the cycle replaces the word at an offset; the first one's is kept. -/
def ShadowCycle.replace {α : Type} (c : ShadowCycle α) (off : Nat) (w : Word) : ShadowCycle α :=
  { c with was := if (Cells.find? c.was off).isSome then c.was else Cells.insert c.was off w }

/-- A write of 1 to ARM in the cycle. -/
def ShadowCycle.armIf {α : Type} (c : ShadowCycle α) (arming : Bool) : ShadowCycle α :=
  { c with arm := c.arm || arming }

/-- Start a check of a bar's set, in place of one that runs; a replaced check that a write of 1 to
ARM started stays one. A write of 1 to ARM in the cycle of a hand-over leaves ARM set (R72). -/
def State.startBarCheck (s : State) (n : Fin 32) (arming : Bool) : State :=
  let kept := (s.bar n).check
  let new : BarCheck :=
    if arming then ⟨true, s.bit (F.FPE_CTL_ARM_AT_LINE n), s.g (F.FPE_ARM_LINE_V n)⟩
    else kept.getD ⟨false, false, 0⟩
  let s1 := (s.modBar n fun b => { b with
    check := some new
    shadowAt := some ((shadowCycle b.shadowAt kept s.now).armIf arming) }).put (F.FPE_STATUS_BUSY n) 1
  if arming && handedNow (s.bar n).handT s.now then
    (s1.put (F.FPE_CTL_ARM n) 1).modBar n fun b => { b with armed := some (b.armTarget new).1 }
  else s1

/-- Start a check of the global set, likewise (R75). -/
def State.startGridCheck (s : State) (arming : Bool) : State :=
  let new : GridCheck :=
    if arming then ⟨true, s.g F.GRID_FORCE_BAR_V, s.g F.GRID_FORCE_LINE_V⟩
    else s.grid.check.getD ⟨false, 0, 0⟩
  let s1 := ({ s with grid := { s.grid with
    check := some new
    shadowAt := some ((shadowCycle s.grid.shadowAt s.grid.check s.now).armIf arming) } }).put F.GRID_STATUS_BUSY 1
  if arming && handedNow s.grid.handT s.now then s1.put F.GRID_CTL_GARM 1 else s1

/-- BAR0 offset of a bar shadow register. -/
def barShadowOff (n : Nat) : BarShadow → Nat
  | .offsetLo => A.FPE_OFFSET_LO n | .offsetHi => A.FPE_OFFSET_HI n
  | .winStart => A.FPE_WIN_START n | .winEnd => A.FPE_WIN_END n
  | .segmask => A.FPE_SEGMASK n | .rowofs => A.FPE_ROWOFS n
  | .warmcnt => A.FPE_WARMCNT n | .stitch => A.NST_STITCH n
  | .gt g => A.FPE_GT n g

/-- The writable bits of a bar shadow register. -/
def barShadowMask : BarShadow → Nat
  | .offsetLo => 0xFFFFFFFF | .offsetHi => 0xFFFF | .winStart => 0x1FFFF | .winEnd => 0x1FFFF
  | .segmask => 0xFF | .rowofs => 0x1FFFF | .warmcnt => 0xFFFFFF | .stitch => 0x7F
  | .gt _ => 0x1FFFFF

/-- BAR0 offset of a global shadow register. -/
def gridShadowOff : GridShadow → Nat
  | .freqLo => A.GRID_FREQ_LO | .freqHi => A.GRID_FREQ_HI | .strobe => A.GRID_STROBE
  | .warm => A.GRID_WARM | .pitch => A.GRID_PITCH | .errTol => A.GRID_ERR_TOL

/-- The writable bits of a global shadow register. -/
def gridShadowMask : GridShadow → Nat
  | .freqLo => 0xFFFFFFFF | .freqHi => 0xFFFF | .strobe => 0x3FF | .warm => 0x77F
  | .pitch => 0xFFFFFFFF | .errTol => 0xFF

/-- A write to a bar shadow register (R72): it joins an armed set and starts a new check; a write in
the PORT cycle of a hand-over lands after it and sets SHADOW_LATE. -/
def State.barShadowWrite (s : State) (n : Fin 32) (r : BarShadow) (v : Word) : State :=
  let off := barShadowOff n r
  let s1 := (s.modBar n fun b => { b with
    shadowAt := some ((shadowCycle b.shadowAt b.check s.now).replace off (s.reg off)) }).setReg off
      (v &&& BitVec.ofNat 32 (barShadowMask r))
  let s2 := if handedNow (s.bar n).handT s.now then s1.put (F.FPE_STATUS_SHADOW_LATE n) 1 else s1
  if s.bit (F.FPE_CTL_ARM n) then s2.startBarCheck n false else s2

/-- A write to a global shadow register (R75). -/
def State.gridShadowWrite (s : State) (r : GridShadow) (v : Word) : State :=
  let off := gridShadowOff r
  let c := (shadowCycle s.grid.shadowAt s.grid.check s.now).replace off (s.reg off)
  let s1 := ({ s with grid := { s.grid with shadowAt := some c } }).setReg off
      (v &&& BitVec.ofNat 32 (gridShadowMask r))
  let s2 := if handedNow s.grid.handT s.now then s1.put F.GRID_STATUS_SHADOW_LATE 1 else s1
  if s.bit F.GRID_CTL_GARM then s2.startGridCheck false else s2

/-- SHADOW_WRITE (R72). -/
def execShadowWrite (n : Fin 32) (r : BarShadow) (v : Word) (s : State) : Out :=
  .next (s.atBlock (A.FPE_CTL n) fun s => s.barShadowWrite n r v)

/-- GLOBAL_SHADOW_WRITE (R75). -/
def execGlobalShadowWrite (r : GridShadow) (v : Word) (s : State) : Out :=
  .next (s.atBlock A.GRID_CTL fun s => s.gridShadowWrite r v)

/-- ARM (R70): a write of 1 to FPE_CTL.ARM starts a check of the bar's set. -/
def execArm (n : Fin 32) (s : State) : Out :=
  .next (s.atBlock (A.FPE_CTL n) fun s => s.startBarCheck n true)

/-- GARM (R74): a write of 1 to GRID_CTL.GARM starts a check of the global set. -/
def execGarm (s : State) : Out := .next (s.atBlock A.GRID_CTL fun s => s.startGridCheck true)

/-! ## Completing a check (R47, R70, R71, R75) -/

/-- A bar's check completes; where an arming is handed over is judged when it passes (R47, R70). -/
def State.completeBar (s : State) (n : Fin 32) (c : BarCheck) : State :=
  let ok := s.barFits n
  let s := (s.modBar n fun b => { b with check := none }).put (F.FPE_STATUS_BUSY n) 0
  if ok then
    let s := s.put (F.FPE_STATUS_ERR n) Status.ok.code
    if c.arming then
      let t := (s.bar n).armTarget c
      let s := (s.put (F.FPE_CTL_ARM n) 1).modBar n fun b => { b with armed := some t.1 }
      if t.2 then s.put (F.FPE_STATUS_ARM_MISSED n) 1 else s
    else s
  else
    let s := (s.put (F.FPE_STATUS_ERR n) Status.schedOverrun.code).put (F.FPE_CTL_ARM n) 0
    (s.modBar n fun b => { b with armed := none }).setCause (F.FPE_FCAUSE_CFG_REFUSED n)

/-- A forced hand-over whose bar is outside a page, or whose line has been selected, is missed. While the check
of a new write of 1 to GARM runs, its bar and line are not judged before it passes (R75). -/
def State.forceEval (s : State) : State :=
  if s.bit F.GRID_CTL_GARM && s.bit F.GRID_CTL_FORCE && !s.grid.check.any (·.arming) then
    let miss := match (s.bar (Fin.ofNat 32 s.grid.forceBar)).page with
      | none => true
      | some p => decide (s.grid.forceLine < p.seen)
    if miss then (s.put F.GRID_STATUS_FORCE_MISSED 1).put F.GRID_CTL_FORCE 0 else s
  else s

/-- The global check completes (R47, R74, R75). A refused set leaves FORCE as it was: R47 names GARM and the
error field alone (DESIGN CHOICE, log 89). -/
def State.completeGrid (s : State) (c : GridCheck) : State :=
  let ok := s.gridFits
  let s := ({ s with grid := { s.grid with check := none } }).put F.GRID_STATUS_BUSY 0
  if ok then
    let s := s.put F.GRID_STATUS_ERR Status.ok.code
    if c.arming then
      let s := { s with grid := { s.grid with forceBar := c.bar, forceLine := c.line } }
      (s.put F.GRID_CTL_GARM 1).forceEval
    else s
  else (s.put F.GRID_STATUS_ERR Status.schedOverrun.code).put F.GRID_CTL_GARM 0

/-- SCHED_CHECK: the check in progress of a set completes (R47). -/
def execSchedCheck (t : CheckTarget) (s : State) : Out :=
  match t with
  | .bar n => match (s.bar n).check with
    | some c => .next (s.completeBar n c)
    | none => .next s
  | .grid => match s.grid.check with
    | some c => .next (s.completeGrid c)
    | none => .next s

/-! ## Hand-over (R70-R75) -/

/-- Copy a register word to its live copy. -/
def State.copyReg (s : State) (src dst : Nat) : State := s.setReg dst (s.reg src)

/-- Offsets of a bar's shadow registers that have their live copy at +0x0100. -/
def barShadowOffs (n : Nat) : List Nat :=
  [A.FPE_OFFSET_LO n, A.FPE_OFFSET_HI n, A.FPE_WIN_START n, A.FPE_WIN_END n, A.FPE_SEGMASK n,
   A.FPE_ROWOFS n, A.FPE_WARMCNT n, A.NST_STITCH n] ++ (List.range 16).map (A.FPE_GT n)

/-- Offsets of the global shadow registers. -/
def gridShadowOffs : List Nat :=
  [A.GRID_FREQ_LO, A.GRID_FREQ_HI, A.GRID_STROBE, A.GRID_WARM, A.GRID_PITCH, A.GRID_ERR_TOL]

/-- Copy a whole shadow set to live. -/
def State.copyLive (s : State) (offs : List Nat) : State :=
  offs.foldl (fun s o => s.copyReg o (o + 0x100)) s

/-- The writes that came before a hand-over in its PORT cycle are not taken: the words they replaced become
live (R72). -/
def State.keepWas (s : State) (was : Cells Word) : State :=
  was.foldl (fun s c => s.setReg (c.1 + 0x100) c.2) s

/-- The hand-over of a bar's set. Writes of its PORT cycle land after it: a shadow write is late, and a write of
1 to ARM leaves ARM set with its check (R70, R72). -/
def State.barBecomesLive (s : State) (n : Fin 32) : State :=
  let c := shadowNow (s.bar n).shadowAt s.now
  let was := match c with | some c => c.was | none => []
  let arm := c.any (·.arm)
  let s := ((s.copyLive (barShadowOffs n)).keepWas was).putb (F.FPE_CTL_ARM n) arm
  let s := if was = [] then s else s.put (F.FPE_STATUS_SHADOW_LATE n) 1
  let s := if arm then s else s.put (F.FPE_STATUS_BUSY n) 0
  s.modBar n fun b =>
    let k := if arm then b.check else none
    { b with check := k, armed := k.map fun k => (b.armTarget k).1, handT := some s.now }

/-- The check of a bar's set that runs at a hand-over: a write of the same PORT cycle starts its own after
it. -/
def State.barChecking (s : State) (n : Fin 32) : Bool :=
  match shadowNow (s.bar n).shadowAt s.now with
  | some c => c.check.isSome
  | none => (s.bar n).check.isSome

/-- The moment of a bar's hand-over: the whole set becomes live and ARM clears; while a check of the
set runs it moves to the next page start and ARM_MISSED is set (R47, R70). -/
def State.barHandover (s : State) (n : Fin 32) : State :=
  if s.barChecking n then
    (s.modBar n fun b => { b with armed := if b.armed = some .pageStart then b.armed else some .moved }).put
      (F.FPE_STATUS_ARM_MISSED n) 1
  else s.barBecomesLive n

/-- v_line in counts per second (R178). -/
def State.vLine (s : State) : Rat :=
  (s.pitch : Rat) / 256 * ((s.freq : Rat) * 1600000000 / 2 ^ 48)

/-- FREQ or GRID_PITCH has been handed over: in TRACK the generator goes to RAMP with the new v_line
(R182). -/
def State.rateChanged (s : State) : State :=
  if s.leader && s.g F.XPT_STATUS_STATE == 2 then
    ({ s with xpt := { s.xpt with rampTo0 := false } }).put F.XPT_STATUS_STATE 1
  else s

/-- GRID_PERIOD follows the live FREQ. Its reset value is 0, so that it shows the live P from the first
start of the grid or the first change of FREQ on (DESIGN CHOICE, log 89). -/
def State.showPeriod (s : State) : State := s.put F.GRID_PERIOD_V (periodOf s.freq)

/-- The hand-over of the global set, with the writes of its PORT cycle as for a bar's (R74, R75). -/
def State.gridBecomesLive (s : State) : State :=
  let c := shadowNow s.grid.shadowAt s.now
  let was := match c with | some c => c.was | none => []
  let arm := c.any (·.arm)
  let s := ((s.copyLive gridShadowOffs).keepWas was).putb F.GRID_CTL_GARM arm
  let s := if was = [] then s else s.put F.GRID_STATUS_SHADOW_LATE 1
  let s := if arm then s else (s.put F.GRID_STATUS_BUSY 0).put F.GRID_CTL_FORCE 0
  ({ s.showPeriod with grid := { s.grid with
    check := if arm then s.grid.check else none, handT := some s.now } }).rateChanged

/-- The check of the global set that runs at a hand-over, likewise. -/
def State.gridChecking (s : State) : Bool :=
  match shadowNow s.grid.shadowAt s.now with
  | some c => c.check.isSome
  | none => s.grid.check.isSome

/-- The moment of the global hand-over (R47, R74). -/
def State.gridHandover (s : State) : State :=
  if s.gridChecking then
    if s.bit F.GRID_CTL_FORCE then (s.put F.GRID_STATUS_FORCE_MISSED 1).put F.GRID_CTL_FORCE 0 else s
  else s.gridBecomesLive

/-- Whether the global set is armed and not forced. -/
def State.garmedFree (s : State) : Bool := s.bit F.GRID_CTL_GARM && !s.bit F.GRID_CTL_FORCE

/-- The selection of index `k` of bar `n`: the hand-overs named for it take place (R67, R70, R74). -/
def State.handoversAt (s : State) (n : Fin 32) (k : Nat) : State :=
  let s := match (s.bar n).armed with
    | some .pageStart => if k = 0 then s.barHandover n else s
    | some .moved => if k = 0 then s.barHandover n else s
    | some (.lineNow l) => if k = l then s.barHandover n else s
    | some (.lineNext l) => if k = l then s.barHandover n else s
    | none => s
  if s.bit F.GRID_CTL_GARM && s.bit F.GRID_CTL_FORCE && s.grid.forceBar == n.val
      && s.grid.forceLine == k then s.gridHandover else s

/-! ## Autotune (R38) -/

/-- The word for a speed in counts per second: v * 2^48 / (1.6 GHz * pitch), halves upward. -/
def tuneWord (v : Rat) (pitch : Nat) : Nat :=
  ((v * 256 * 2 ^ 48 / (1600000000 * (pitch : Rat)) + 1 / 2).floor).toNat

/-- Whether a bar's armed set has passed its last check (R47). -/
def State.armPassed (s : State) (n : Fin 32) : Bool := s.bit (F.FPE_CTL_ARM n) && (s.bar n).check.isNone

/-- The highest word that passes the schedule check for every bar, with the shadow group times of the
bars whose armed set has passed its check; a set still in its check is judged against this word when the
check completes (R38, R47). -/
def State.highestWord (s : State) : Nat :=
  let e := allBars.foldl (fun a (n : Fin 32) =>
    let a := max a (schedEnd (s.liveGts n) s.liveSet)
    if s.armPassed n then max a (schedEnd (s.shadowGts n) s.liveSet) else a) 0
  2 ^ 48 / (e + 64)

/-- Write the live FREQ, within its range (R33). -/
def State.setFreq (s : State) (w : Nat) : State :=
  let w := freqClamp w
  ((s.put F.GRID_FREQ_LO_LIVE_V w).put F.GRID_FREQ_HI_LIVE_V (w / 2 ^ 32)).showPeriod

/-- Whether the print-axis speed is valid and above 0, so that autotune may compute a word (R38). -/
def State.speedGood (s : State) : Bool := s.axisValid && decide (0 < s.axisV)

/-- AT_HELD: autotune, selected in follower mode, holds FREQ for want of a valid positive speed (R38). -/
def State.atHeld (s : State) : Bool := !s.leader && s.bit F.GRID_CTL_AUTOTUNE && !s.speedGood

/-- Load a word from the measured speed; without a valid positive one FREQ stays (R38). The thermal clamp of
follower mode is R249's. -/
def State.autotuneLoad (s : State) : State :=
  if s.speedGood then
    let w := min (freqClamp (tuneWord s.axisV s.pitch)) s.highestWord
    s.setFreq (match s.grid.clampF2 with | some f => min w f | none => w)
  else s

/-- Autotune at a tick: at the first tick with no bar inside a page and every 16 ticks after, while
that remains so; a hand-over at the tick makes it load afresh (R38). -/
def State.autotuneTick (s : State) (handed : Bool) : State :=
  if !s.leader && s.bit F.GRID_CTL_AUTOTUNE && !s.anyInside then
    let k := if handed then 0 else s.grid.sinceTune
    let s := if k % 16 = 0 then s.autotuneLoad else s
    { s with grid := { s.grid with sinceTune := k + 1 } }
  else { s with grid := { s.grid with sinceTune := 0 } }

end Sys2Proof.Machine
end

