-- ==== Sys2Proof/Machine/Page.lean ====
section
/-!
DEFINITION. Pages of a bar: the page queue, start, line selection, drop, hold, underrun and skip, the
pause of a Pirouette seen from the data side, and the page record (02 R63-R69; 04 R121-R132).
-/

namespace Sys2Proof.Machine

/-! ## Page flags (FPE_PREC_FLAGS) -/

/-- Bits of the page flags. -/
inductive PageFlag where
  | dropped | errTol | killed | laneLost | segLost | corrupt | noCapture
  | underrun | skipped | pirouette | reprinted | abandoned | streamErr
  deriving DecidableEq, Repr

/-- The bit of a page flag. -/
def PageFlag.bit : PageFlag → Nat
  | .dropped => 0 | .errTol => 1 | .killed => 2 | .laneLost => 3 | .segLost => 4 | .corrupt => 5
  | .noCapture => 6 | .underrun => 16 | .skipped => 17 | .pirouette => 18 | .reprinted => 19
  | .abandoned => 20 | .streamErr => 21

/-- Set a flag of a record. -/
def PageRec.mark (r : PageRec) (f : PageFlag) : PageRec := { r with flags := r.flags ||| 2 ^ f.bit }

/-- Set a flag of a record when a condition holds. -/
def PageRec.markIf (r : PageRec) (c : Bool) (f : PageFlag) : PageRec := if c then r.mark f else r

/-- Change the page in progress of a bar. -/
def State.modPage (s : State) (n : Fin 32) (f : Page → Page) : State :=
  s.modBar n fun b => { b with page := b.page.map f }

/-- Change the record of the page in progress. -/
def State.modRec (s : State) (n : Fin 32) (f : PageRec → PageRec) : State :=
  s.modPage n fun p => { p with rcd := f p.rcd }

/-! ## The page record (R69, R89) -/

/-- Write the page record registers of bar `n` (R69, R89). -/
def State.recordRegs (s : State) (n : Fin 32) (d : PageDesc) (r : PageRec) : State :=
  let sat := fun x => min x (2 ^ 32 - 1)
  let s := (s.put (F.FPE_PREC_PAGE_PAGE n) d.page).put (F.FPE_PREC_PAGE_KIND n) d.kind
  let s := (s.setReg (A.FPE_PREC_FLAGS n) (BitVec.ofNat 32 r.flags)).setReg (A.FPE_PREC_TAG n) d.tag
  let s := (s.put (F.FPE_PREC_DROPPED_V n) (sat r.dropped)).put (F.FPE_PREC_HELD_V n) (sat r.held)
  let s := (s.put (F.FPE_PREC_MAXERR_V n) (min r.maxErr 65535)).put (F.FPE_PREC_LOST_V n) (sat r.lost)
  let s := (s.put (F.NST_PREC_UNPL_V n) (sat r.unpl)).put (F.NST_PREC_THIN_V n) (sat r.thin)
  let s := (s.put (F.RSP_PREC_SKIPPED_V n) (sat r.skipped)).put (F.RSP_PREC_STOPS_V n) (sat r.stops)
  s.put (F.RSP_PREC_REPRINT_V n) (sat r.reprint)

/-- A page record is written: PREC_OVF when PAGE_END is still set, then PAGE_END (R69). -/
def State.writeRecord (s : State) (n : Fin 32) (d : PageDesc) (r : PageRec) : State :=
  let s := (s.recordRegs n d r).modBar n fun b => { b with ended := some (d.serial, r) }
  (s.setCauseIf (s.bit (F.FPE_LCAUSE_PAGE_END n)) (F.FPE_LCAUSE_PREC_OVF n)).setCause
    (F.FPE_LCAUSE_PAGE_END n)

/-- The last page line index of a page (R66). -/
def State.lastIndex (s : State) (n : Fin 32) (d : PageDesc) : Nat := d.lines - 1 + s.maxRow n

/-- The page in progress ends at this tick with one more flag, or none, its record still to be written; an
arming for a line it has not reached moves to the next page start (R66, R71). -/
def State.leavePage (s : State) (n : Fin 32) (f : PageRec → PageRec) : State :=
  match (s.bar n).page with
  | none => s
  | some p =>
    let b := s.bar n
    let r := (f p.rcd).markIf (decide (b.rsp.errSerial = some p.desc.serial)) .streamErr
    let miss := match b.armed with | some (.lineNow _) => true | _ => false
    let s := s.modBar n fun b => { b with
      page := none
      endTick := s.tick
      abandon := false
      armed := if miss then some .moved else b.armed
      closing := some (p.desc, r)
      outT := s.now }
    if miss then s.put (F.FPE_STATUS_ARM_MISSED n) 1 else s

/-- The record of a page that has ended is written (R66, R69). -/
def State.closePage (s : State) (n : Fin 32) : State :=
  match (s.bar n).closing with
  | none => s
  | some (d, r) => (s.modBar n fun b => { b with closing := none }).writeRecord n d r

/-- The page in progress ends and its record is written at this tick (R63, R66, R69, R134). -/
def State.endPage (s : State) (n : Fin 32) (f : PageRec → PageRec) : State := (s.leavePage n f).closePage n

/-- The unfired indices of a killed port's page are counted once each, and its record carries KILLED
(R63). -/
def State.markKilled (s : State) (n : Fin 32) (p : Page) : State :=
  let left := s.lastIndex n p.desc + 1 - p.seen
  (s.bumpBy (F.FPE_KILLED_LINES_V n) ((s.bar n).killCount + left)).modRec n (·.mark .killed)

/-- An abandoned page is counted, its record carries ABANDONED, and the rest of its stream is discarded
(R134). -/
def State.markAbandoned (s : State) (n : Fin 32) (p : Page) : State :=
  let s := (s.bump (F.RSP_ABANDONED_V n)).setCause (F.FPE_LCAUSE_ABANDONED n)
  (s.modRec n (·.mark .abandoned)).discardPage n p.desc

/-- Whether a kill ends the page in progress at this tick: one has asserted since the last tick, or stands
(R63). -/
def State.killDue (s : State) (n : Fin 32) : Bool := (s.bar n).killSeen || s.portKilled n

/-- Whether the page in progress is done at this tick: its last index is done, and in leader mode
every lost segment frame has been reprinted (R66). -/
def State.pageDone (s : State) (n : Fin 32) : Bool :=
  match (s.bar n).page with
  | none => false
  | some p =>
    match p.endAt with
    | some t => decide (t ≤ s.tick) && (p.lost.isEmpty || !s.leader)
    | none => false

/-- The page ends due at this tick (R63, R66, R134). A kill and an abandon that are due at the same tick
both have their effects; the manual does not order them (DESIGN CHOICE, log 89). A page whose last index
was fired ends at this tick, and its record waits for the tick's status frame. -/
def State.endCheck (s : State) (n : Fin 32) : State :=
  match (s.bar n).page with
  | none => s
  | some p =>
    let kill := s.killDue n
    let quit := (s.bar n).abandon
    if kill || quit then
      let s := if kill then s.markKilled n p else s
      (if quit then s.markAbandoned n p else s).endPage n id
    else if s.pageDone n then s.leavePage n id
    else s

/-! ## Pushing (R64) -/

/-- The descriptor in FPE_PQ_W0 to W7 (Table 2.9). -/
def State.pqDesc (s : State) (n : Fin 32) : PageDesc :=
  let w := fun (k : Nat) => s.reg (A.FPE_PQ_W0 n + 4 * k)
  { page := Word.field (w 0) 0 24, kind := Word.field (w 0) 24 1, pt := Word.field (w 0) 25 1,
    tofsrc := Word.field (w 0) 26 2, abs := (w 0).getLsbD 28, lines := (w 1).toNat,
    tofseq := Word.field (w 2) 0 16, seed := w 3,
    start := signed 48 ((w 4).toNat + 2 ^ 32 * Word.field (w 5) 0 16), tag := w 6,
    serial := (s.bar n).serial + 1, base := (s.bar n).rsp.nextBase }

/-- Whether the written descriptor is malformed: LINES 0 or a reserved field not 0 (R64). -/
def State.pqMalformed (s : State) (n : Fin 32) : Bool :=
  let w := fun (k : Nat) => s.reg (A.FPE_PQ_W0 n + 4 * k)
  w 1 == 0 || Word.field (w 0) 29 3 != 0 || Word.field (w 2) 16 16 != 0 || Word.field (w 5) 16 16 != 0
    || w 7 != 0

/-- The status of a push: of the conditions that stop it, the one of the lowest code (R31, R64). -/
def State.pushStatus (s : State) (n : Fin 32) : Nat :=
  if s.pqMalformed n then Status.badDescriptor.code
  else if s.graceRuns then Status.locked.code
  else if 4 ≤ (s.bar n).queue.length then 0x10
  else Status.ok.code

/-- A write of any value to FPE_PQ_PUSH (R64, R104). -/
def State.pagePush (s : State) (n : Fin 32) : State :=
  let st := s.pushStatus n
  let s := s.put (F.FPE_STATUS_PQ_ERR n) st
  if st ≠ 0 then s.setCause (F.FPE_FCAUSE_CFG_REFUSED n)
  else
    let d := s.pqDesc n
    s.modBar n fun b => { b with
      serial := d.serial
      queue := b.queue ++ [d]
      rsp := { b.rsp with nextBase := b.rsp.nextBase + d.lines, copies := b.rsp.copies ++ [d.copy] } }

/-- PAGE_PUSH (R64). -/
def execPagePush (n : Fin 32) (s : State) : Out :=
  .next (s.atBlock (A.FPE_CTL n) fun s => s.pagePush n)

/-! ## Prediction and lag (R67) -/

/-- GRID cycles from the accumulator's time to its next carry. -/
def State.cyclesToTick (s : State) : Nat := max 1 (ceilDiv (2 ^ 48 - s.grid.acc) s.freq)

/-- The print position predicted for the next tick, in POS48 units (R67). -/
def State.predict (s : State) : Rat :=
  let v := if s.axisValid then s.axisV else 0
  (s.ppNow.1 : Rat) + 256 * v * seconds (s.cyclesToTick * gridCycle)

/-- The due position of index `k` of a page that starts at `start` (R67). -/
def State.duePos (s : State) (start : Int) (k : Nat) : Int := start + k * s.pitch

/-- The lag of index `k` in 1/256 line for a predicted position (R67). -/
def State.lag (s : State) (pred : Rat) (start : Int) (k : Nat) : Rat :=
  (pred - (s.duePos start k : Rat)) * 256 / (s.pitch : Rat)

/-! ## Selecting an index (R67, R68, R121, R122, R130) -/

/-- Index `k` is selected: its hand-overs take place at its first selection, FPE_CUR_LINE shows it, the
lines it uses under the live row offsets are noted, and the next index follows (R67, R117). -/
def State.takeIndex (s : State) (n : Fin 32) (k : Nat) : State :=
  let fresh := match (s.bar n).page with | some p => decide (p.seen ≤ k) | none => false
  let s := if fresh then s.handoversAt n k else s
  (s.put (F.FPE_CUR_LINE_V n) k).modPage n fun p => { p with
    next := k + 1
    seen := max p.seen (k + 1)
    used := (p.used.filter (·.1 != k)) ++ [(k, s.maxRow n)]
    usedHigh := max p.usedHigh (k + 1 - s.minRow n) }

/-- Once every index is selected, the tick at which the last one is done is known (R66, R118). -/
def State.noteLast (s : State) (n : Fin 32) (at_ : Nat) : State :=
  s.modPage n fun p =>
    if s.lastIndex n p.desc < p.next ∧ p.endAt.isNone then { p with endAt := some at_ } else p

/-- Index `k`, just selected, is dropped (R67, R68). -/
def State.dropIndex (s : State) (n : Fin 32) (k : Nat) : State :=
  let s := (s.bump (F.FPE_DROPPED_V n)).setCause (F.FPE_LCAUSE_DROP n)
  let s := s.modPage n fun p => { p with
    lost := p.lost.filter (·.1 != k)
    rcd := { p.rcd.mark .dropped with dropped := p.rcd.dropped + 1 } }
  let s := if s.leader then s.setCause (F.FPE_FCAUSE_OVERSPEED n) else s.latchXstop F.XPT_XSTOP_DROP
  s.noteLast n s.tick

/-- Index `k`, just selected, is skipped for an underrun in follower mode (R122). -/
def State.skipIndex (s : State) (n : Fin 32) : State :=
  let s := (s.bump (F.RSP_SKIPPED_V n)).setCause (F.FPE_LCAUSE_SKIP n)
  let s := s.modRec n fun r => { r.mark .skipped with skipped := r.skipped + 1 }
  (s.latchXstop F.XPT_XSTOP_SKIP).noteLast n s.tick

/-- An underrun is recorded (R121); a bar that has not started its page keeps it for the record. -/
def State.markUnderrun (s : State) (n : Fin 32) : State :=
  let s := (s.bump (F.RSP_UNDERRUNS_V n)).setCause (F.FPE_LCAUSE_UNDERRUN n)
  if (s.bar n).inPage then s.modRec n (·.mark .underrun)
  else s.modBar n fun b => { b with preUnderrun := true }

/-- The enabled segments of a bar. -/
def State.enabledSegs (s : State) (n : Fin 32) : List Nat := (List.range 8).filter (s.segOn n)

/-- Whether frames of a segment are driven: the bar and the segment are enabled and a lane serves it (R52,
R58). -/
def State.segServed (s : State) (n : Fin 32) (seg : Nat) : Bool :=
  s.bit (F.FPE_CTL_EN n) && s.segOn n seg && !(s.bar n).unserved.contains seg

/-- Index `k`, just selected, is sent for firing at the next tick; in the resend range only segments
with a lost frame of it receive data, and those that no lane serves are never reprinted (R58, R67, R69, R130). -/
def State.sendIndex (s : State) (n : Fin 32) (k : Nat) (first : Bool) : State :=
  match (s.bar n).page with
  | none => s
  | some p =>
    let again := decide (k < p.resendEnd)
    let segs := if again then ((p.lost.filter (·.1 == k)).map (·.2)).filter (s.segServed n) else s.enabledSegs n
    let count := if again then segs.length else 0
    let s := s.setCauseIf (!p.firstSent) (F.FPE_LCAUSE_PAGE_START n)
    let s := s.setCauseIf p.afterPause (F.FPE_LCAUSE_RESUMED n)
    let s := s.bumpBy (F.RSP_REPRINTED_V n) count
    let s := s.modPage n fun p => { p with
      inflight := p.inflight ++ [(k, s.tick)]
      lost := p.lost.filter (·.1 != k)
      firstSent := true
      afterPause := false
      rcd := { p.rcd.markIf (decide (0 < count)) .reprinted with reprint := p.rcd.reprint + count } }
    (s.modBar n fun b => { b with sel := some (⟨p.desc.serial, k, first⟩, segs) }).noteLast n (s.tick + 2)

/-- The frame for the next tick holds no index: the tick is counted (R67). -/
def State.holdIndex (s : State) (n : Fin 32) : State :=
  (s.bump (F.FPE_HELD_V n)).modRec n fun r => { r with held := r.held + 1 }

/-- Test the next indices of a bar inside a page by the three cases of R67, with the readiness test
of R121. The prediction is taken afresh for each index, since a hand-over at a dropped one changes the line
period and the pitch for those that follow. The second component reports an underrun in leader mode. `fuel`
bounds the indices. -/
def State.selectLoop (n : Fin 32) : Nat → State → State × Bool
  | 0, s => (s, false)
  | fuel + 1, s =>
    match (s.bar n).page with
    | none => (s, false)
    | some p =>
      let k := p.next
      if s.lastIndex n p.desc < k then (s.noteLast n s.tick, false)
      else
        let lag := s.lag s.predict p.s k
        if lag > 128 then State.selectLoop n fuel ((s.takeIndex n k).dropIndex n k)
        else if lag < -128 then (s.holdIndex n, false)
        else
          let s1 := s.takeIndex n k
          if s1.indexReady n p.desc k then (s1.sendIndex n k (decide (p.seen ≤ k)), false)
          else if s.leader then (s, true)
          else ((s1.markUnderrun n).skipIndex n, false)

/-- A bound on the indices a bar may test at a tick, under any row offsets. -/
def State.selectFuel (s : State) (n : Fin 32) : Nat :=
  match (s.bar n).page with
  | some p => p.desc.lines + 17 - p.next
  | none => 0

/-! ## Page start (R65) -/

/-- Whether a bar tests the head page of its queue for its start at this tick (R63, R65). -/
def State.testsStart (s : State) (n : Fin 32) : Bool :=
  let b := s.bar n
  s.bit (F.FPE_CTL_EN n) && !b.inPage && !b.queue.isEmpty && b.endTick != s.tick && !s.portKilled n

/-- The start reference of a page: none while its capture has not occurred (R65). -/
def State.startRef (s : State) (d : PageDesc) : Option Int :=
  if d.abs then some d.start
  else match s.captureClass d.tofsrc d.tofseq with
    | .held => some (s.capturePos d.tofsrc d.tofseq)
    | _ => none

/-- The head page ends with NO_CAPTURE when its capture is no longer held (R65). An arming for a line of the
next page (R70) is kept for the page after it: a page that fires no line selects no index (DESIGN CHOICE,
log 89). -/
def State.captureTest (s : State) (n : Fin 32) : State :=
  match (s.bar n).queue with
  | [] => s
  | d :: rest =>
    if s.testsStart n && !d.abs && decide (s.captureClass d.tofsrc d.tofseq = .gone) then
      let r := ({} : PageRec).mark .noCapture
      let r := r.markIf (s.bar n).preUnderrun .underrun
      let r := r.markIf (decide ((s.bar n).rsp.errSerial = some d.serial)) .streamErr
      (s.modBar n fun b => { b with queue := rest, endTick := s.tick, preUnderrun := false }).writeRecord n d r
    else s

/-- The bar offset of the page start test: the shadow of a set armed with ARM_AT_LINE = 0, else the live one,
also when an arming for a line has moved to the page start (R65, R71, R73). -/
def State.startOffset (s : State) (n : Fin 32) : Int :=
  if s.bit (F.FPE_CTL_ARM n) && decide ((s.bar n).armed = some .pageStart) then
    s.g48 (F.FPE_OFFSET_LO_V n) (F.FPE_OFFSET_HI_V n)
  else s.g48 (F.FPE_OFFSET_LO_LIVE_V n) (F.FPE_OFFSET_HI_LIVE_V n)

/-- The head page starts: its descriptor leaves the queue (R65). -/
def State.startPage (s : State) (n : Fin 32) (d : PageDesc) (rest : List PageDesc) (start : Int) : State :=
  let s := s.put (F.FPE_CUR_PAGE_V n) d.page
  s.modBar n fun b => { b with
    queue := rest
    preUnderrun := false
    abandon := false
    armed := match b.armed with | some (.lineNext k) => some (.lineNow k) | x => x
    page := some { desc := d, s := start, next := 0, seen := 0,
                   rcd := ({} : PageRec).markIf b.preUnderrun .underrun } }

/-- Line selection of one bar at a tick (R65, R67, R182). -/
def State.selectBar (s : State) (n : Fin 32) : State × Bool :=
  if (s.bar n).inPage then State.selectLoop n (s.selectFuel n) s
  else
    match (s.bar n).queue with
    | [] => (s, false)
    | d :: rest =>
      if !s.testsStart n || (s.leader && s.g F.XPT_STATUS_STATE != 2) then (s, false)
      else
        match s.startRef d with
        | none => (s, false)
        | some ref =>
          let start := ref + s.startOffset n
          if s.lag s.predict start 0 < -128 then (s, false)
          else
            let s1 := s.startPage n d rest start
            let r := State.selectLoop n (s1.selectFuel n) s1
            if r.2 then (s, true) else (r.1, false)

/-- The bars in the order in which a tick treats them: the bar of a forced hand-over first, since its
set governs the rest of the tick (R74). -/
def State.tickOrder (s : State) : List (Fin 32) :=
  if s.bit F.GRID_CTL_GARM && s.bit F.GRID_CTL_FORCE then
    let f := Fin.ofNat 32 s.grid.forceBar
    f :: allBars.filter (· != f)
  else allBars

/-- Line selection of every bar whose domain is on; with the bars that met an underrun in leader
mode (R67, R121, R123). -/
def State.selectAll (s : State) : State × List (Fin 32) :=
  s.tickOrder.foldl (fun (a : State × List (Fin 32)) (n : Fin 32) =>
    if !a.1.up (barDomain n) then a
    else
      let r := a.1.selectBar n
      (r.1, if r.2 then a.2 ++ [n] else a.2)) (s, [])

/-! ## Pause and resume (R124-R130) -/

/-- Write the resume record of a bar inside a page (R126). -/
def State.resumeRecord (s : State) (n : Fin 32) : State :=
  match (s.bar n).page with
  | none => s
  | some p =>
    let k := p.firstUnprinted
    (s.put (F.RSP_RESUME_IDX_V n) k).put48 (F.RSP_RESUME_DUE_LO_V n) (F.RSP_RESUME_DUE_HI_V n)
      (s.duePos p.s k)

/-- A bar inside a page at the stop tick (R125, R126). -/
def State.pauseBar (s : State) (n : Fin 32) : State :=
  if !(s.bar n).inPage then s
  else
    let s := (s.bump (F.RSP_STOPS_V n)).setCause (F.FPE_LCAUSE_STOP n)
    (s.modRec n fun r => { r.mark .pirouette with stops := r.stops + 1 }).resumeRecord n

/-- The earliest due position of the bars still inside a page (R126, R186). -/
def State.earliestDue (s : State) : Option Int :=
  allBars.foldl (fun (a : Option Int) (n : Fin 32) =>
    match (s.bar n).page with
    | some p =>
      let d := s.duePos p.s p.firstUnprinted
      some (match a with | some x => min x d | none => d)
    | none => a) none

/-- Plan a Pirouette from a stop position (R186). XPT_PIR_J shows 1,023 for a larger J (DESIGN CHOICE, log 29). -/
def State.planPir (s : State) (ps : Int) : State :=
  let pitch : Int := s.pitch
  let e := s.earliestDue.getD ps
  let j := s.g F.XPT_CFG_PIR_J + (max 0 (-((e - ps) / pitch))).toNat
  let pre := ps - j * pitch
  let settle : Int := max ((s.g F.XPT_SETTLE_V : Int) * 256) (16 * pitch)
  let pback : Rat := (pre : Rat) - s.vLine * s.vLine / (2 * (s.g F.XPT_ACC_V : Rat)) * 256 - (settle : Rat)
  let s := { s with xpt := { s.xpt with plan := some ⟨j, pre, pback⟩, unsettled := false } }
  let s := (s.put F.XPT_STATUS_LAP 0).put F.XPT_PIR_J_V (min j 1023)
  let s := (s.put48 F.XPT_PIR_STOP_LO_V F.XPT_PIR_STOP_HI_V ps).put48 F.XPT_PIR_RE_LO_V F.XPT_PIR_RE_HI_V pre
  (s.bump F.XPT_PIROUETTES_V).setCause F.XPT_CAUSE_PIR_START

/-- The pause begins at this tick; the Pirouette of a generator in RAMP or TRACK falls due at the load point of the
next tick (R125, R186). -/
def State.beginPause (s : State) : State :=
  let st := s.g F.XPT_STATUS_STATE
  let s := { s with
    grid := { s.grid with paused := true, stopAt := none, stopTick := s.tick }
    xpt := { s.xpt with plan := none, pirDue := st == 1 || st == 2 } }
  allBars.foldl State.pauseBar s

/-- Whether PIR_RETRY has been taken for a pause that has no plan yet (R191). -/
def State.retryUnplanned (s : State) : Bool :=
  s.xpt.plan.isNone && (s.g F.XPT_STATUS_STATE == 4 || s.xpt.enable.any fun e => e.2 == .reverse)

/-- A paused tick: counted by every bar whose domain is on; the tick after the stop tick records the
stop position, from which a PIR_RETRY taken before it is planned (R125, R186, R191). -/
def State.pausedTick (s : State) : State :=
  let s := allBars.foldl (fun s (n : Fin 32) => if s.up (barDomain n) then s.bump (F.RSP_PAUSED_V n) else s) s
  if s.tick = s.grid.stopTick + 1 then
    let s := { s with
      xpt := { s.xpt with ps := s.ppNow.1 }
      grid := { s.grid with posFree := true } }
    if s.retryUnplanned then s.planPir s.xpt.ps else s
  else s

/-- A bar inside a page resumes at the re-entry tick from its first unprinted index. A stop inside a resend range
leaves the range's end at the highest index selected so far, so that no printed line is sent whole again (R129,
R130; DESIGN CHOICE, log 31). -/
def State.resumeBar (s : State) (n : Fin 32) : State :=
  s.modPage n fun p => { p with
    next := p.firstUnprinted
    resendEnd := p.seen
    endAt := none
    inflight := []
    afterPause := true }

/-- The pause ends without re-entry (R186, R191). -/
def State.endPause (s : State) : State :=
  { s with grid := { s.grid with paused := false, posFree := false, stopAt := none } }

/-- A stop request with its stop tick: the earliest one applies; during a pause it starts no second
stop (R124, R128). -/
def State.stopRequest (s : State) (t : Nat) : State :=
  if !s.leader || s.grid.paused then s
  else { s with grid := { s.grid with stopAt := some (min t (s.grid.stopAt.getD t)) } }

end Sys2Proof.Machine
end

