-- ==== Sys2Proof/Machine/Inspect.lean ====
section
/-!
DEFINITION. The analysis pipeline: tables, flat field, column mapping, windows, verdict records and
the verdict FIFO (07 R204-R208, R218-R221).
-/

namespace Sys2Proof.Machine

/-! ## Tables (Table 7.3, Table 7.12) -/

/-- The size of a pipeline table: 0 OFF, 1 GAIN, 2 KNOT, 3 DEFECT. -/
def tblSize (t : Nat) : Nat := if t = 2 then 64 else if t = 3 then 256 else 8192

/-- The place of an entry in the table store. -/
def tblKey (t port idx : Nat) : Nat := t * 2 ^ 16 + (if t = 3 then 0 else port) * 2 ^ 13 + idx % tblSize t

/-- The reset value of a table entry. -/
def tblReset (k : Nat) : Word :=
  if k / 2 ^ 16 = 1 then 0x4000 else if k / 2 ^ 16 = 3 then 0x18000 else 0

/-- What an entry that is not listed holds: its reset value, or 0 once the bank has been wiped on
request (11 R353). -/
def tblDefault (zeroed : Bool) (k : Nat) : Word := if zeroed then 0 else tblReset k

/-- The writable bits of a table entry. -/
def tblMask (t : Nat) : Nat := if t = 2 then 0x3FFFFFFF else if t = 3 then 0x1FFFF else 0xFFFF

/-- A table entry. -/
def State.tbl (s : State) (t port idx : Nat) : Word :=
  Cells.get (tblDefault s.ins.zeroed) s.ins.tables (tblKey t port idx)

/-- The word of the tables' bank that holds an entry: four OFF or GAIN entries, or two others, to a word (11 Table
11.6; log 81). -/
def tblCell (t port idx : Nat) : Nat :=
  unmappedWord 113 t (tblKey t port idx / (if t < 2 then 4 else 2))

/-- Write a table entry. -/
def State.setTbl (s : State) (t port idx : Nat) (w : Word) : State :=
  { s with ins := { s.ins with
      tables := Cells.set (tblDefault s.ins.zeroed) s.ins.tables (tblKey t port idx) (w &&& BitVec.ofNat 32 (tblMask t)) } }

/-! ## Ports and frames -/

/-- A camera port. -/
def State.cam (s : State) (p : Fin 4) : CamPort := s.ins.ports[p]

/-- Change a camera port. -/
def State.modCam (s : State) (p : Fin 4) (f : CamPort → CamPort) : State :=
  { s with ins := { s.ins with ports := s.ins.ports.set p (f (s.cam p)) } }

/-- Change the open frame of a port. -/
def State.modFrame (s : State) (p : Fin 4) (f : CamFrame → CamFrame) : State :=
  s.modCam p fun c => { c with frame := c.frame.map f }

/-- Flag bits of a frame (Table 7.5). -/
inductive FrameFlag where
  | analysed | short | long | late | corrupt | widthErr | uncertain | untriggered | diverted
  | notAnalysed | verdictLost | tablesChanged | storeOvf | live | mapInvalid
  deriving DecidableEq, Repr

/-- The bit of a frame flag. -/
def FrameFlag.bit : FrameFlag → Nat
  | .analysed => 0 | .short => 1 | .long => 2 | .late => 3 | .corrupt => 4 | .widthErr => 5
  | .uncertain => 6 | .untriggered => 7 | .diverted => 8 | .notAnalysed => 9 | .verdictLost => 10
  | .tablesChanged => 11 | .storeOvf => 12 | .live => 13 | .mapInvalid => 14

/-- Set a flag of a frame. -/
def CamFrame.mark (f : CamFrame) (x : FrameFlag) : CamFrame := { f with flags := f.flags ||| 2 ^ x.bit }

/-- Clear a flag of a frame. -/
def CamFrame.clear (f : CamFrame) (x : FrameFlag) : CamFrame :=
  { f with flags := if f.flags.testBit x.bit then f.flags - 2 ^ x.bit else f.flags }

/-- Set a flag of a frame when a condition holds. -/
def CamFrame.markIf (f : CamFrame) (c : Bool) (x : FrameFlag) : CamFrame := if c then f.mark x else f

/-- Whether a frame carries a flag. -/
def CamFrame.has (f : CamFrame) (x : FrameFlag) : Bool := f.flags.testBit x.bit

/-- WIDTH of a frame. -/
def CamFrame.width (f : CamFrame) : Nat := Word.field f.cfg 16 14

/-- The factor that makes a pixel a 12-bit value (R197). -/
def CamFrame.scale (f : CamFrame) : Nat :=
  match Word.field f.cfg 2 2 with | 0 => 16 | 1 => 4 | _ => 1

/-! ## Flat field and defects (R204) -/

/-- The flat-field value of a 12-bit pixel in column `c` of port `p` (R204). -/
def State.flatField (s : State) (p c n : Nat) : Nat :=
  let off := signed 16 (s.tbl 0 p c).toNat
  let gain : Int := (s.tbl 1 p c).toNat % 65536
  (clamp 0 4095 ((((n : Int) - off) * gain + 2 ^ 13) / 2 ^ 14)).toNat

/-- The MODE of the first defect entry that names a column of a port, none for a good column. -/
def State.defectMode (s : State) (p c : Nat) : Option Nat :=
  ((List.range 256).map fun i => s.tbl 3 0 i).findSome? fun w =>
    if Word.field w 15 2 ≠ 3 ∧ Word.field w 13 2 = p ∧ Word.field w 0 13 = c then some (Word.field w 15 2)
    else none

/-- The nearest good column below `c`. -/
def State.goodLeft (s : State) (p : Nat) : Nat → Option Nat
  | 0 => none
  | c + 1 => if (s.defectMode p c).isNone then some c else s.goodLeft p c

/-- The nearest good column above `c` within the width: `fuel` columns are looked at. -/
def State.goodRight (s : State) (p c : Nat) : Nat → Option Nat
  | 0 => none
  | fuel + 1 => if (s.defectMode p (c + 1)).isNone then some (c + 1) else s.goodRight p (c + 1) fuel

/-- The value of a column of a flat-fielded line after the defect list; none for missing content, which a defect
entry does not fill (R204, R216). -/
def State.defectFix (s : State) (p width : Nat) (lpx : List (Option Nat)) (c : Nat) : Option Nat :=
  let at_ := fun (i : Nat) => (lpx[i]?).getD none
  match at_ c, s.defectMode p c with
  | none, _ => none
  | some x, none => some x
  | some _, some mode =>
    let l := s.goodLeft p c
    let r := s.goodRight p c (width - 1 - c)
    match mode, l, r with
    | 0, some a, some b => match at_ a, at_ b with
      | some x, some y => some ((x + y) / 2)
      | _, _ => none
    | 0, some a, none => at_ a
    | 0, none, some b => at_ b
    | 1, some a, _ => at_ a
    | 2, _, some b => at_ b
    | _, _, _ => some (Config.defectEdge p c).toNat

/-- A line of `n` columns of a port reads its OFF and GAIN words and the defect list once (11 R347; log 81). -/
def State.readTables (s : State) (p n : Nat) : State :=
  s.readCells ((List.range ((n + 3) / 4)).map (fun i => tblCell 0 p (4 * i))
    ++ (List.range ((n + 3) / 4)).map (fun i => tblCell 1 p (4 * i))
    ++ (List.range 128).map fun i => tblCell 3 0 (2 * i))

/-- A row of windows of a port reads its knots once (11 R347; log 81). -/
def State.readKnots (s : State) (p : Nat) : State :=
  s.readCells ((List.range ((min 64 (s.g (F.INS_NKp_V p)) + 1) / 2)).map fun i => tblCell 2 p (2 * i))

/-- A line of a frame through the pipeline stages before mapping (R204). -/
def State.pipeLine (s : State) (p : Nat) (f : CamFrame) (l : CamLine) : List (Option Nat) :=
  let flat := (List.range f.width).map fun c =>
    if l.miss then none else (l.px[c]?).map fun n => s.flatField p c (n * f.scale)
  (List.range f.width).map fun c => s.defectFix p f.width flat c

/-! ## Column mapping (R206) -/

/-- The knots in use of a port: (COL, X). -/
def State.knots (s : State) (p : Nat) : List (Nat × Nat) :=
  (List.range (min 64 (s.g (F.INS_NKp_V p)))).map fun i =>
    let w := s.tbl 2 p i
    (Word.field w 0 13, Word.field w 13 17)

/-- Whether knots are strictly ascending in both. -/
def ascending : List (Nat × Nat) → Bool
  | a :: b :: r => decide (a.1 < b.1) && decide (a.2 < b.2) && ascending (b :: r)
  | _ => true

/-- Whether the mapping of a port is valid. -/
def State.mapValid (s : State) (p : Nat) : Bool :=
  decide (2 ≤ (s.knots p).length) && ascending (s.knots p)

/-- The knot segment of a print column; the last includes its end. -/
def knotSegment (x : Nat) : List (Nat × Nat) → Option ((Nat × Nat) × (Nat × Nat))
  | a :: b :: r =>
    if a.2 ≤ x ∧ (x < b.2 ∨ (r = [] ∧ x = b.2)) then some (a, b) else knotSegment x (b :: r)
  | _ => none

/-- The expected column u in 1/256, truncated, and the slope, of a print column; none out of view
(R206). -/
def mapColumn (ks : List (Nat × Nat)) (x : Int) : Option (Nat × Rat) :=
  if x < 0 then none
  else match knotSegment x.toNat ks with
    | none => none
    | some (a, b) =>
      let dc := b.1 - a.1
      let dx := b.2 - a.2
      some (256 * a.1 + 256 * ((x.toNat - a.2) * dc) / dx, (dc : Rat) / (dx : Rat))

/-! ## A window (R208, R219) -/

/-- Geometry set word `w` of set `g` in a frame's copy. -/
def geoWord (geo : List Word) (g w : Nat) : Word := geo.getD (5 * g + w) 0

/-- The geometry registers as they stand (Table 7.11). -/
def State.geoNow (s : State) : List Word :=
  (List.range 4).flatMap fun g =>
    [s.reg (A.INS_GEO_W0 g), s.reg (A.INS_GEO_W1 g), s.reg (A.INS_GEO_W2 g), s.reg (A.INS_GEO_W3 g),
     s.reg (A.INS_GEO_W4 g)]

/-- The first line of the window of stagger row `r` (R208). -/
def windowTop (geo : List Word) (g r : Nat) : Nat :=
  Word.field (geoWord geo g 0) 0 16 + r * Word.field (geoWord geo g 1) 0 16 / 16

/-- The window height H. -/
def windowH (geo : List Word) (g : Nat) : Nat := Word.field (geoWord geo g 0) 16 8

/-- A rational rounded to the nearest integer, halves away from zero. -/
def roundAway (x : Rat) : Int :=
  let half : Rat := 1 / 2
  if x < 0 then -Rat.floor (half - x) else Rat.floor (x + half)

/-- The pixels of a window by column; none when it leaves the frame or touches missing content. -/
def windowPixels (flat : List (List (Option Nat))) (lo : Int) (n top h width : Nat) :
    Option (List (Nat × Nat)) :=
  if lo < 0 ∨ lo + n > width ∨ top + h > flat.length then none
  else
    ((List.range h).flatMap fun y => (List.range n).map fun i => (top + y, lo.toNat + i)).mapM fun (q : Nat × Nat) =>
      match flat[q.1]? with
      | some lpx => match (lpx[q.2]?).getD none with
        | some m => some (q.2, m)
        | none => none
      | none => none

/-- Whether bar position (s, p) shares its window with another (R221). -/
def sharedWindow (ovl seg p : Nat) : Bool :=
  decide (0 < ovl) && decide (ovl % 16 = 0)
    && ((decide (0 < seg) && decide (p < ovl)) || (decide (seg < 7) && decide (10240 - ovl ≤ p)))

/-- The measures of an observed window: DR, CLASS, LAT (R219). -/
def measure (px : List (Nat × Nat)) (white dref tAbs tWeak tStrong u b : Nat) (slope : Rat) :
    Nat × Nat × Int :=
  let dark := px.map fun q => (q.1, white - q.2)
  let d : Nat := dark.foldl (fun a q => a + q.2) 0
  let m : Nat := dark.foldl (fun a q => a + q.1 * q.2) 0
  let dr : Nat := min 63 ((64 * d + dref) / (2 * dref))
  let cls : Nat := if dr < tAbs then 0 else if dr < tWeak then 1 else if tStrong < dr then 3 else 2
  let lat : Int :=
    if cls = 0 then 0
    else if d = 0 then (Config.emptyCentroid b).toInt
    else clamp (-128) 127 (roundAway (8 * ((m : Rat) / (d : Rat) - (u : Rat) / 256) / slope))
  (dr, cls, lat)

/-- The verdict record of position `p` of segment `seg` under a request, none out of view; with its
OBS bit (R206, R207, R219, Table 7.6). -/
def State.verdict (s : State) (port : Nat) (f : CamFrame) (r : AReq) (seg p : Nat) : Option (DWord × Bool) :=
  let b := 10240 * seg + p
  let row := b % 16
  match mapColumn (s.knots port) ((b : Int) - r.ovl * seg) with
  | none => none
  | some (u, slope) =>
    let hw := Word.field (geoWord f.geo r.gset 0) 24 5
    let lo : Int := ((u + 128) / 256 : Nat) - (hw : Int)
    let n := 2 * hw + 1
    let printed := s.inWindow r.bar seg p && s.segOn r.bar seg
    let px := windowPixels f.flat lo n (windowTop f.geo r.gset row) (windowH f.geo r.gset) f.width
    let noz := globalNozzle r.bar seg (if r.pt = 0 then primaryOf p else partnerOf p)
    let defect := (List.range n).any fun i =>
      decide (0 ≤ lo + i) && (s.defectMode port (lo + i).toNat).isSome
    let base := noz + b2n (sharedWindow r.ovl seg p) * 2 ^ 26 + b2n defect * 2 ^ 27 + 2 ^ 47
      + f.tseq * 2 ^ 48
    match printed, px with
    | true, some q =>
      let w3 := geoWord f.geo r.gset 3
      let (dr, cls, lat) := measure q (Word.field (geoWord f.geo r.gset 4) 0 12)
        (max 1 (Word.field (geoWord f.geo r.gset 2) 0 24)) (Word.field w3 0 6) (Word.field w3 8 6)
        (Word.field w3 16 6) u b slope
      some (BitVec.ofNat 64 (base + 2 ^ 23 + cls * 2 ^ 24 + unsigned 8 lat * 2 ^ 32 + dr * 2 ^ 40), true)
    | _, _ => some (BitVec.ofNat 64 base, false)

/-- The records of one stagger row, in ascending bar position (R218). -/
def State.rowVerdicts (s : State) (port : Nat) (f : CamFrame) (r : AReq) (row : Nat) : List (DWord × Bool) :=
  (List.range 5120).filterMap fun i =>
    let b := 16 * i + row
    s.verdict port f r (b / 10240) (b % 10240)

/-! ## Verdict FIFO (R220) -/

/-- A record enters the verdict FIFO; VF_WATER when the level rises above WATER. -/
def State.vfPush (s : State) (w : DWord) : State :=
  let was := s.ins.fifo.length
  let s := s.cleanCells [vfCell (s.ins.pops + was)]
  let s := { s with ins := { s.ins with fifo := s.ins.fifo ++ [w] } }
  let lim := s.g F.INS_VF_WATER_V
  (s.bump F.INS_RECORDS_V).setCauseIf (decide (was ≤ lim) && decide (lim < was + 1)) F.INS_CAUSE_VF_WATER

/-- A record of a live frame: entered, or dropped when the FIFO is full. -/
def State.vfLive (s : State) (p : Fin 4) (w : DWord) : State :=
  if s.ins.fifo.length < 1024 then s.vfPush w
  else ((s.bump F.INS_VLOST_V).setCause F.INS_CAUSE_VLOST).modFrame p (·.mark .verdictLost)

/-- The verdict FIFO's oldest record leaves it; an empty FIFO reads 0. -/
def State.vfPop (s : State) : State × DWord :=
  match s.ins.fifo with
  | [] => (s, 0#64)
  | w :: r => ({ s with ins := { s.ins with fifo := r, pops := s.ins.pops + 1 } }, w)

/-- The records of the next stagger row of a frame, and the frame after it; no record, and MAP_INVALID, while the
mapping is not valid (R206, R218). -/
def State.nextRow (s : State) (port : Nat) (f : CamFrame) (r : AReq) : CamFrame × List DWord :=
  let ok := s.mapValid port
  let rs := if ok then s.rowVerdicts port f r f.rows else []
  let n := (rs.filter (·.2)).length
  ({ f with observed := f.observed + n, unobserved := f.unobserved + (rs.length - n), rows := f.rows + 1 }.markIf
    (!ok) .mapInvalid, rs.map (·.1))

/-- Whether the next stagger row of a frame is due: the frame has passed its window, or ends (R218). -/
def CamFrame.rowDue (f : CamFrame) (r : AReq) (lines : Nat) (all : Bool) : Bool :=
  decide (f.rows < 16) && (all || decide (windowTop f.geo r.gset f.rows + windowH f.geo r.gset ≤ lines))

/-- Emit the records of the stagger rows of a live frame whose windows have passed, or of all rows left
at its close, while EN is 1 (R218). `fuel` is the number of rows left. -/
def State.emitRows (p : Fin 4) (all : Bool) : Nat → State → State
  | 0, s => s
  | fuel + 1, s =>
    match (s.cam p).frame with
    | none => s
    | some f =>
      match f.req with
      | none => s
      | some r =>
        if !s.bit F.INS_CTL_EN || !f.rowDue r f.lines all then s
        else
          let x := s.nextRow p f r
          let s := s.readKnots p
          State.emitRows p all fuel (x.2.foldl (fun s w => s.vfLive p w) (s.modFrame p fun _ => x.1))

end Sys2Proof.Machine
end

