-- ==== Sys2Proof/Machine/Camera.lean ====
section
/-!
DEFINITION. Camera ports: packets, frames, stores, triggers and strobes, CCI masters, analysis
requests and replays; the position comparators that request triggers (05 R166, R167; 07 R196-R203,
R205, R209-R218, R220).
-/

namespace Sys2Proof.Machine

/-- Whether a camera port receives and triggers. -/
def State.camLive (s : State) (p : Fin 4) : Bool :=
  !s.seqRun && s.up .cam && s.bit (F.CAM_Pp_CTL_EN p)

/-- A protocol violation of a port (R197). -/
def State.camViolation (s : State) (p : Fin 4) (code dt vc : Nat) : State :=
  (s.bump (F.CAM_Pp_VIOL_V p)).vlog (0x10 + p.val) code (dt + vc * 64)

/-! ## The camera store (R202, R203) -/

/-- Bytes of a pixel in the store (R197). -/
def CamFrame.pixelBytes (f : CamFrame) : Nat := if Word.field f.cfg 2 2 = 0 then 1 else 2

/-- Bytes of an image line in the store. -/
def CamFrame.lineBytes (f : CamFrame) : Nat := f.width * f.pixelBytes

/-- Bytes of the stored image lines. -/
def CamFrame.imageBytes (f : CamFrame) : Nat :=
  (f.img.filter (·.stored)).length * f.lineBytes

/-- Bytes of the stored embedded lines. -/
def CamFrame.embBytes (f : CamFrame) : Nat := (f.emb.map (·.2.length)).foldl (· + ·) 0

/-- Bytes of the embedded lines that go before stored image line `i` (R203). -/
def CamFrame.embBefore (f : CamFrame) (i : Nat) : Nat :=
  ((f.emb.filter fun e => decide (e.1 ≤ i)).map (·.2.length)).foldl (· + ·) 0

/-- The stored image lines of which the channel has taken a byte: an embedded line that arrives now goes behind
them (R203; DEDUCED, log 33). -/
def CamFrame.begun (f : CamFrame) : Nat :=
  ((List.range (f.img.filter (·.stored)).length).filter fun i =>
    decide (f.embBefore i + i * f.lineBytes < f.sent)).length

/-- Bytes of a frame that entered the store. -/
def CamFrame.bytes (f : CamFrame) : Nat :=
  if f.store then f.embBytes + f.imageBytes else 0

/-- The bytes a frame still occupies. -/
def CamFrame.held (f : CamFrame) : Nat := f.bytes - f.freed

/-- Bytes held in a port's store. -/
def CamPort.used (c : CamPort) : Nat :=
  (c.store.map CamFrame.held).foldl (· + ·) 0 + (match c.frame with | some f => f.held | none => 0)

/-- One CAM cycle, 2.5 ns. -/
def camCycle : Nat := 163840

/-- The time an image line takes through the pipeline: 4 pixels a CAM cycle (R200). -/
def CamFrame.lineSpan (f : CamFrame) : Nat := (f.width + 3) / 4 * camCycle

/-- The bytes of one stored image line: missing pixels read as 0. -/
def CamFrame.lineImage (f : CamFrame) (l : CamLine) : List Byte :=
  (List.range f.width).flatMap fun c => leBytes f.pixelBytes (l.px.getD c 0)

/-- The words of a port's store that hold `n` bytes of a line of a frame, by the line's number: a stored image line
has its place among them, an embedded line comes from 65,536 on (11 Table 11.6; log 81). -/
def CamFrame.lineCells (f : CamFrame) (p : Fin 4) (line n : Nat) : List Nat :=
  (List.range ((n + 7) / 8)).map fun j => unmappedWord (76 + p.val) f.k (line * 8192 + j)

/-- The words of the store that hold the bytes of a frame, byte by byte in delivery order. -/
def CamFrame.imageCells (f : CamFrame) (p : Fin 4) : List Nat :=
  let ls := f.img.filter (·.stored)
  let cells := fun (line n : Nat) => (f.lineCells p line n).flatMap (List.replicate 8) |>.take n
  (List.range (ls.length + 1)).flatMap fun i =>
    ((f.emb.zipIdx.filter fun e => e.1.1 == i).flatMap fun e => cells (65536 + e.2) e.1.2.length)
      ++ (if i < ls.length then cells i f.lineBytes else [])

/-- The bytes of a frame in delivery order: embedded lines, then image lines; an embedded line that came after the
channel had taken image bytes follows the lines begun by then (R203). -/
def CamFrame.image (f : CamFrame) : List Byte :=
  let ls := f.img.filter (·.stored)
  (List.range (ls.length + 1)).flatMap fun i =>
    ((f.emb.filter fun e => e.1 == i).flatMap fun e => e.2.map (BitVec.ofNat 8))
      ++ (match ls[i]? with | some l => f.lineImage l | none => [])

/-- Whether a port's DMA channel is enabled: it is not IDLE. -/
def State.camDmaOn (s : State) (p : Fin 4) : Bool := s.g (F.DMA_Cc_STATUS_STATE (32 + p.val)) != 0

/-- The oldest request that no frame has been matched with. -/
def CamPort.oldest (c : CamPort) : Option AReq := c.areqs.find? (!·.taken)

/-- Whether the oldest request of a port that no frame has been matched with names a frame (R218). -/
def CamPort.wanted (c : CamPort) (f : CamFrame) : Bool :=
  !f.has .untriggered && match c.oldest with | some r => r.tseq == f.tseq | none => false

/-- The frames of a store once what may be freed in order is freed: the bytes that the channel has written to the
host, and a frame that nothing keeps any longer; and whether all are gone (R202). -/
def freeFrames (dmaOn : Bool) : List CamFrame → List CamFrame × Bool
  | [] => ([], true)
  | f :: r =>
    if f.req.isSome then (f :: r, false)
    else if dmaOn && !f.eof then ({ f with freed := f.written } :: r, false)
    else freeFrames dmaOn r

/-- Free what may be freed of a port's store; the open frame comes last, and a request that names it keeps it
(R202). -/
def State.freeStore (s : State) (p : Fin 4) : State :=
  let on := s.camDmaOn p
  s.modCam p fun c =>
    let x := freeFrames on c.store
    { c with
      store := x.1
      frame := c.frame.map fun f =>
        if x.2 && on && f.req.isNone && !c.wanted f then { f with freed := f.written } else f }

/-- The first frame of a port that its channel has not finished: of the store, else the open one (R203). -/
def CamPort.delivering (p : CamPort) : Option CamFrame :=
  match p.store.find? (fun f => !f.eof) with
  | some f => some f
  | none => match p.frame with | some f => if f.store then some f else none | none => none

/-- The descriptor in progress of a channel ends: bytes taken from the store that were not written are delivered
by the next one (R203; DEDUCED, log 57). -/
def CamFrame.rewound (f : CamFrame) : CamFrame := { f with sent := f.written }

/-- Change the frame that a channel delivers. -/
def CamPort.modDelivering (p : CamPort) (g : CamFrame → CamFrame) : CamPort :=
  match p.store.find? (fun f => !f.eof) with
  | some f => { p with store := p.store.map fun x => if x.k = f.k then g x else x }
  | none => { p with frame := p.frame.map g }

/-- `n` bytes of the frame that a port's channel delivers have been written to their destination (R202). -/
def State.frameWritten (s : State) (p : Fin 4) (n : Nat) : State :=
  (s.modCam p fun c => c.modDelivering fun f => { f with written := f.written + n }).freeStore p

/-! ## Analysis requests (R218) -/

/-- Mark the oldest unmatched request as matched. -/
def takeOldest : List AReq → List AReq
  | [] => []
  | r :: rs => if r.taken then r :: takeOldest rs else { r with taken := true } :: rs

/-- Drop the oldest unmatched request. -/
def dropOldest : List AReq → List AReq
  | [] => []
  | r :: rs => if r.taken then r :: dropOldest rs else rs

/-- Drop the request of a sequence number that a frame was matched with. -/
def dropTaken (tseq : Nat) : List AReq → List AReq
  | [] => []
  | r :: rs => if r.taken && r.tseq == tseq then rs else r :: dropTaken tseq rs

/-- Requests that a closed frame's TSEQ has passed are removed unused. `fuel` is their number. -/
def State.missRequests (p : Fin 4) (tseq : Nat) : Nat → State → State
  | 0, s => s
  | fuel + 1, s =>
    match (s.cam p).oldest with
    | none => s
    | some r =>
      let past := (tseq + 65536 - r.tseq) % 65536
      if 1 ≤ past ∧ past ≤ 32767 then
        let s := s.modCam p fun c => { c with areqs := dropOldest c.areqs }
        State.missRequests p tseq fuel ((s.bump F.INS_AREQ_MISS_V).setCause F.INS_CAUSE_AREQ_MISS)
      else s

/-- Whether a frame can be replayed: all its image bytes are in the store (R201, R202). -/
def CamFrame.replayable (f : CamFrame) : Bool :=
  f.store && !f.has .storeOvf && decide (f.img.length * f.lineBytes ≤ 262144) && f.img.all (fun l => l.stored || l.miss)
    && decide (f.freed ≤ f.embBefore 0)

/-- Write the statistics record of a frame into its ring entry, word 0 last, and set FRAME_DONE (R217). -/
def State.writeStats (s : State) (p : Fin 4) (f : CamFrame) : State :=
  let e := f.k % 8
  let w := fun (s : State) (i v : Nat) => s.setReg (A.CAM_RING p e i) (BitVec.ofNat 32 v)
  let s := w s 1 f.flags
  let s := w s 2 (f.lines % 65536 + min f.discarded 65535 * 2 ^ 16)
  let s := w s 3 (min f.crcErrs 65535 + min f.eccCorr 255 * 2 ^ 16 + min f.eccBad 255 * 2 ^ 24)
  let s := w (w s 4 f.trigTs) 5 f.fsTs
  let s := w (w s 6 (f.observed % 2 ^ 24)) 7 (f.unobserved % 2 ^ 24)
  (w s 0 (f.tseq + f.gen * 2 ^ 16)).setCause (F.CAM_Pp_CAUSE_FRAME_DONE p)

/-- Whether a stored frame that no request has claimed is the one a request names (R218). -/
def CamFrame.awaits (f : CamFrame) (r : AReq) : Bool :=
  f.req.isNone && !f.has .untriggered && !f.has .analysed && f.tseq == r.tseq

/-- A stored frame that the oldest request names is found not analysable: the request is removed, and the frame's
record shows NOT_ANALYSED (R201, R202, R217, R218). -/
def State.notAnalysable (s : State) (p : Fin 4) (f : CamFrame) : State :=
  let f := f.mark .notAnalysed
  (s.modCam p fun c => { c with
    areqs := dropOldest c.areqs
    store := c.store.map fun g => if g.k = f.k then f else g }).writeStats p f

/-- Match the stored closed frames with the requests, oldest first, while the oldest names one: a replayable frame
is kept for its replay, another is found not analysable (R201, R202, R218). `fuel` is the number of requests. -/
def State.matchStored (p : Fin 4) : Nat → State → State
  | 0, s => s
  | fuel + 1, s =>
    match (s.cam p).oldest with
    | none => s
    | some r =>
      match (s.cam p).store.find? (·.awaits r) with
      | none => s
      | some f =>
        State.matchStored p fuel
          (if f.replayable then s.modCam p fun c => { c with
              areqs := takeOldest c.areqs
              store := c.store.map fun g => if g.k = f.k then { g with req := some r } else g }
            else s.notAnalysable p f)

/-- The open live frame is claimed for the oldest request when that names it, whether it was queued before the
frame opened, while it is open, or comes to the front at its close (R218). -/
def State.claimLive (s : State) (p : Fin 4) : State :=
  match (s.cam p).frame, (s.cam p).oldest with
  | some f, some r =>
    if f.live && f.req.isNone && s.bit F.INS_CTL_EN && (s.cam p).wanted f then
      s.modCam p fun c => { c with areqs := takeOldest c.areqs, frame := some { f with req := some r } }
    else s
  | _, _ => s

/-- The requests of a port are matched, as far as the frames allow now: the open live frame, then the stored ones
(R218). -/
def State.matchRequests (s : State) (p : Fin 4) : State :=
  let s := s.claimLive p
  if s.bit F.INS_CTL_EN then State.matchStored p 8 s else s

/-- An analysis request is queued on its port, or AREQ_FULL is set. -/
def State.pushAreq (s : State) (w0 w1 : Word) : State :=
  let p : Fin 4 := Fin.ofNat 4 (Word.field w0 0 2)
  let r : AReq := ⟨Word.field w0 2 5, Word.field w0 7 1, Word.field w0 8 2, Word.field w0 16 16,
    Word.field w1 0 7, false⟩
  if 8 ≤ (s.cam p).areqs.length then s.setCause F.INS_CAUSE_AREQ_FULL
  else
    let s := (s.modCam p fun c => { c with areqs := c.areqs ++ [r] }).matchRequests p
    State.emitRows p false 16 s

/-- INS_AREQ_PUSH (R218). -/
def execInsAreqPush (s : State) : Out :=
  .next (s.atBlock A.INS_CTL fun s => s.pushAreq (s.reg A.INS_AREQ_W0) (s.reg A.INS_AREQ_W1))

/-! ## Closing a frame (R215-R218) -/

/-- What the requests make of a closing frame: analysed in line, kept for replay, or not analysable
(R201, R218). -/
def State.judgeClosed (s : State) (p : Fin 4) (f : CamFrame) : State × CamFrame :=
  if !s.bit F.INS_CTL_EN then
    (s.modCam p fun c => { c with areqs := c.areqs.map fun r =>
      if f.req.isSome && r.taken && r.tseq == f.tseq then { r with taken := false } else r },
      (({ f with req := none }).clear .analysed).clear .live)
  else if f.live then
    match f.req with
    | some _ =>
      ((s.modCam p fun c => { c with areqs := dropTaken f.tseq c.areqs }).setCause F.INS_CAUSE_ANALYSED,
        { f with req := none })
    | none => (s, f)
  else
    match (s.cam p).oldest with
    | some r =>
      if !f.has .untriggered && decide (r.tseq = f.tseq) then
        if f.replayable then
          (s.modCam p fun c => { c with areqs := takeOldest c.areqs }, { f with req := some r })
        else (s.modCam p fun c => { c with areqs := dropOldest c.areqs }, f.mark .notAnalysed)
      else (s, f)
    | none => (s, f)

/-- The open frame of a port closes (R215-R217). -/
def State.closeFrame (s : State) (p : Fin 4) (late : Bool) : State :=
  let s := match (s.cam p).frame with
    | some f => if s.bit F.INS_CTL_EN then State.missRequests p f.tseq 8 s else s
    | none => s
  let s := State.emitRows p true 16 (s.claimLive p)
  match (s.cam p).frame with
  | none => s
  | some f =>
    let short := decide (f.lines < s.g (F.CAM_Pp_FRAME_FRAME_LINES p))
    let f := (f.markIf short .short).markIf late .late
    let f := { f with k := (s.cam p).closed, endT := s.now }
    let (s, f) := s.judgeClosed p f
    let s := s.modCam p fun c => { c with
      frame := none, lateWait := late, closed := c.closed + 1
      store := if f.store then c.store ++ [f] else c.store }
    let s := (s.setCauseIf short (F.CAM_Pp_CAUSE_FRAME_SHORT p)).setCauseIf late (F.CAM_Pp_CAUSE_LATE p)
    ((((s.bump (F.CAM_Pp_FRAMES_V p)).writeStats p f).matchRequests p).freeStore p)

/-! ## Frame start and end (R211, R215) -/

/-- Whether the pipeline takes a frame of port `p` that opens now in line (R199-R201). -/
def State.opensLive (s : State) (p : Fin 4) : Bool :=
  decide (p = s.ins.live) && s.ins.replay.isNone && s.bit F.INS_CTL_EN

/-- A frame opens on a port: matched with the oldest outstanding trigger, or UNTRIGGERED (R211). -/
def State.openFrame (s : State) (p : Fin 4) : State :=
  let c := s.cam p
  let cfg := s.reg (A.CAM_Pp_CFG p)
  let live := s.opensLive p
  let diverted := decide (p = s.ins.live) && s.ins.replay.isSome
  let store := decide (p ≠ s.ins.live) || diverted || s.bit (F.CAM_Pp_CTL_COPY p)
  let base : CamFrame :=
    { tseq := if s.bit (F.CAM_Pp_TSEQ_ANY p) then s.g (F.CAM_Pp_TSEQ_SEQ p) else 0
      gen := s.g (F.CAM_Pp_GEN_V p), flags := 0, k := c.closed, cfg := cfg, trigTs := 0, fsTs := s.ts % 2 ^ 32
      store := store, live := live, geo := if live then s.geoNow else [], lastT := s.now }
  let f := match c.trigs with
    | t :: _ => { base with tseq := t.tseq, gen := t.gen, trigTs := t.ts % 2 ^ 32 }.markIf t.uncertain .uncertain
    | [] => base.mark .untriggered
  let f := ((f.markIf live .analysed).markIf live .live).markIf diverted .diverted
  let s := (s.modCam p fun c => { c with
    cfg := cfg, frame := some f, lateWait := false, trigs := c.trigs.drop 1 }).matchRequests p
  if diverted then s.bump F.INS_DIVERTED_V else s

/-- A corrected header (Table 7.2). -/
def State.eccCorrected (s : State) (p : Fin 4) : State :=
  (s.bump (F.CAM_Pp_ECC_CORR_V p)).modFrame p fun f => { f with eccCorr := f.eccCorr + 1 }

/-- FRAME_START: a frame start packet on virtual channel `vc`, its header clean or corrected (R197,
R211, R215). -/
def execFrameStart (p : Fin 4) (vc : Fin 4) (corrected : Bool) (s : State) : Out :=
  if !s.camLive p then .next s
  else if s.g (F.CAM_Pp_CFG_VC p) ≠ vc.val then
    .next (if corrected then s.eccCorrected p else s)
  else
    let s := if (s.cam p).frame.isSome then (s.camViolation p 0x05 0 vc).closeFrame p false else s
    let s := s.openFrame p
    .next (if corrected then s.eccCorrected p else s)

/-- FRAME_END: a frame end packet on virtual channel `vc` (R197, R215). -/
def execFrameEnd (p : Fin 4) (vc : Fin 4) (corrected : Bool) (s : State) : Out :=
  if !s.camLive p then .next s
  else
    let s := if corrected then s.eccCorrected p else s
    if Word.field (s.cam p).cfg 4 2 ≠ vc.val || (s.cam p).lateWait then .next s
    else if (s.cam p).frame.isNone then .next (s.camViolation p 0x06 1 vc)
    else .next (s.closeFrame p false)

/-- LINE_TIMEOUT: no image line for LINE_TIMEOUT us closes the frame as LATE (R215). -/
def execLineTimeout (p : Fin 4) (s : State) : Out :=
  match (s.cam p).frame with
  | some f =>
    .next (if decide (f.lastT + us (s.g (F.CAM_Pp_FRAME_LINE_TIMEOUT p)) ≤ s.now) then s.closeFrame p true
      else s)
  | none => .next s

/-! ## Lines (R197, R198, R202, R216) -/

/-- A discarded line, counted on the port and its open frame. -/
def State.discardLine (s : State) (p : Fin 4) : State :=
  (s.bump (F.CAM_Pp_DISCARDED_V p)).modFrame p fun f => { f with discarded := f.discarded + 1 }

/-- The store of a port has no space for a line: STORE_OVF, and NOT_ANALYSED on a diverted frame
(R201, R202). -/
def State.storeOverflow (s : State) (p : Fin 4) : State :=
  let s := (s.discardLine p).modFrame p fun f => (f.mark .storeOvf).markIf (f.has .diverted) .notAnalysed
  s.setCause (F.CAM_Pp_CAUSE_STORE_OVF p)

/-- An image line of the open frame is counted, stored when its bytes fit, and passed to the pipeline
of a live frame (R197, R202, R216). -/
def State.addLine (s : State) (p : Fin 4) (l : CamLine) : State :=
  match (s.cam p).frame with
  | none => s
  | some f =>
    let s := s.modFrame p fun f => { f with lastT := s.now }
    if s.g (F.CAM_Pp_FRAME_FRAME_LINES p) ≤ f.lines then
      ((s.discardLine p).modFrame p (·.mark .long)).setCause (F.CAM_Pp_CAUSE_FRAME_LONG p)
    else
      let wants := f.store && l.stored
      let room := decide ((s.cam p).used + f.lineBytes ≤ 262144)
      let l := { l with stored := wants && room }
      let flat := if f.live then f.flat ++ [s.pipeLine p f l] else f.flat
      let s := if f.live then s.readTables p f.width else s
      let s := if l.stored then s.cleanCells (f.lineCells p (f.img.filter (·.stored)).length f.lineBytes) else s
      let s := s.modFrame p fun f =>
        { f with lines := f.lines + 1, img := f.img ++ [l], flat := flat }
      let s := if wants && !room then s.storeOverflow p else s
      State.emitRows p false 16 s

/-- A line with missing content, for an uncorrectable header or a start-of-transmission error inside a
frame (Table 7.2). -/
def State.missingLine (s : State) (p : Fin 4) : State :=
  let s := (s.bump (F.CAM_Pp_ECC_BAD_V p)).modFrame p fun f => ({ f with eccBad := f.eccBad + 1 }).mark .corrupt
  if (s.cam p).frame.isSome then
    (s.setCause (F.CAM_Pp_CAUSE_CORRUPT p)).addLine p ⟨[], true, false⟩
  else s

/-- An embedded line of the open frame; those beyond the fourth are discarded, also where the frame is not stored
(R198). -/
def State.embeddedLine (s : State) (p : Fin 4) (bytes : List Nat) : State :=
  match (s.cam p).frame with
  | none => s
  | some f =>
    if 4 ≤ f.embLines then s.discardLine p
    else if !f.store then s.modFrame p fun f => { f with embLines := f.embLines + 1 }
    else if 262144 < (s.cam p).used + bytes.length then s.storeOverflow p
    else (s.cleanCells (f.lineCells p (65536 + f.emb.length) bytes.length)).modFrame p fun f =>
      { f with emb := f.emb ++ [(f.begun, bytes)], embLines := f.embLines + 1 }

/-- The data type of a port's image data (Table 7.1). -/
def imageType (cfg : Word) : Nat :=
  match Word.field cfg 2 2 with | 0 => 0x2A | 1 => 0x2B | _ => 0x2C

/-- The payload CRC of a long packet, which is checked whatever becomes of the packet (Table 7.1, Table 7.2). -/
def State.checkCrc (s : State) (p : Fin 4) (k : LongPacket) : State :=
  if !k.crcBad then s
  else
    let s := ((s.bump (F.CAM_Pp_CRC_ERRS_V p)).camViolation p 0x02 k.dt k.vc).modFrame p fun f =>
      ({ f with crcErrs := f.crcErrs + 1 }).mark .corrupt
    s.setCauseIf (s.cam p).frame.isSome (F.CAM_Pp_CAUSE_CORRUPT p)

/-- An image packet inside a frame (Table 7.2). -/
def State.imagePacket (s : State) (p : Fin 4) (k : LongPacket) : State :=
  let w := Word.field (s.cam p).cfg 16 14
  let s := if k.data.length ≠ w then (s.camViolation p 0x07 k.dt k.vc).modFrame p (·.mark .widthErr) else s
  s.addLine p ⟨k.data.take w, k.crcBad, true⟩

/-- A long packet whose header is readable (Table 7.2). -/
def State.longPacket (s : State) (p : Fin 4) (k : LongPacket) : State :=
  let cfg := (s.cam p).cfg
  let image := decide (k.dt.val = imageType cfg ∧ k.vc.val = Word.field cfg 4 2)
  let emb := decide (k.dt.val = 0x12 ∧ k.vc.val = Word.field cfg 6 2) && cfg.getLsbD 8
  let s := s.checkCrc p k
  if (s.cam p).lateWait then (if image || emb then s.bump (F.CAM_Pp_DISCARDED_V p) else s)
  else if !image && !emb then s.camViolation p 0x03 k.dt k.vc
  else if (s.cam p).frame.isNone then s.camViolation p 0x04 k.dt k.vc
  else if image then s.imagePacket p k
  else s.embeddedLine p k.data

/-- IMAGE_LINE: a long packet arrives at a port (R197, R198). -/
def execImageLine (p : Fin 4) (k : LongPacket) (s : State) : Out :=
  if !s.camLive p then .next s
  else if k.sot then .next ((s.camViolation p 0x08 k.dt k.vc).missingLine p)
  else match k.ecc with
    | .bad => .next ((s.camViolation p 0x01 k.dt k.vc).missingLine p)
    | .corrected => .next ((s.eccCorrected p).longPacket p k)
    | .clean => .next (s.longPacket p k)

/-- DESKEW_SEQUENCE: DESKEWED is set (R196). -/
def execDeskewSequence (p : Fin 4) (s : State) : Out :=
  .next (if s.camLive p then s.put (F.CAM_Pp_STATUS_DESKEWED p) 1 else s)

/-- ULPS_CHANGE: the lanes enter or leave ULPS (R196). -/
def execUlpsChange (p : Fin 4) (on : Bool) (s : State) : Out :=
  .next (if s.camLive p then s.putb (F.CAM_Pp_STATUS_ULPS p) on else s)

/-! ## Live port and replays (R199-R202, R220) -/

/-- LIVE_SWITCH: the written live port takes effect when neither port is inside a frame and no replay
runs (R199). -/
def execLiveSwitch (s : State) : Out :=
  let q : Fin 4 := Fin.ofNat 4 (s.g F.INS_CTL_LIVE)
  .next (if s.seqRun || !s.up .cam || (s.cam s.ins.live).frame.isSome || (s.cam q).frame.isSome
      || s.ins.replay.isSome then s
    else { s with ins := { s.ins with live := q } })

/-- The frame to replay next: of all ports, the one that ended first (R201). -/
def State.nextReplay (s : State) : Option (Fin 4 × CamFrame) :=
  (List.finRange 4).foldl (fun (a : Option (Fin 4 × CamFrame)) (p : Fin 4) =>
    match (s.cam p).store.find? (fun f => f.req.isSome) with
    | some f => match a with
      | some (q, g) => if f.endT < g.endT then some (p, f) else some (q, g)
      | none => some (p, f)
    | none => a) none

/-- Records of the replay enter the FIFO while it has room (R220). -/
def State.replayFill : Nat → State → State
  | 0, s => s
  | fuel + 1, s =>
    match s.ins.replay with
    | some r =>
      match r.outbox with
      | w :: rest =>
        if s.ins.fifo.length < 1024 then
          let s := { s with ins := { s.ins with replay := some { r with outbox := rest } } }
          State.replayFill fuel (s.vfPush w)
        else s
      | [] => s
    | none => s

/-- The records of the stagger rows of the replayed frame whose windows have passed, row by row while the FIFO has
room (R218, R220). `fuel` is the number of rows left. -/
def State.replayRows : Nat → State → State
  | 0, s => s
  | fuel + 1, s =>
    match s.ins.replay with
    | none => s
    | some r =>
      match r.frame.req with
      | none => s
      | some q =>
        let n := r.frame.flat.length
        if !r.outbox.isEmpty || !r.frame.rowDue q n (decide (r.frame.img.length ≤ n)) then s
        else
          let x := s.nextRow r.port r.frame q
          let s := s.readKnots r.port
          let s := { s with ins := { s.ins with replay := some { r with frame := x.1, outbox := x.2 } } }
          State.replayRows fuel (State.replayFill 1024 s)

/-- The replay goes on up to now: line by line at 4 pixels a CAM cycle, through the tables as they stand when the
line passes; while records wait for the FIFO it stalls (R200, R204, R205, R220). `fuel` bounds the lines. -/
def State.replayLines : Nat → State → State
  | 0, s => s
  | fuel + 1, s =>
    match s.ins.replay with
    | none => s
    | some r =>
      if !r.outbox.isEmpty then
        let s := State.replayFill 1024 s
        if s.ins.replay.any fun x => !x.outbox.isEmpty then s
        else
          State.replayLines fuel (State.replayRows 16
            { s with ins := { s.ins with replay := s.ins.replay.map fun x => { x with t := s.now } } })
      else
        let t := r.t + r.frame.lineSpan
        match r.frame.img[r.frame.flat.length]? with
        | none => s
        | some l =>
          if s.now < t then s
          else
            let f := { r.frame with flat := r.frame.flat ++ [s.pipeLine r.port r.frame l] }
            let i := ((r.frame.img.take r.frame.flat.length).filter (·.stored)).length
            let s := if l.stored then s.readCells (f.lineCells r.port i f.lineBytes) else s
            let s := s.readTables r.port f.width
            State.replayLines fuel (State.replayRows 16
              { s with ins := { s.ins with replay := some { r with frame := f, t := t } } })

/-- The replay is brought up to now. -/
def State.replayOn (s : State) : State :=
  match s.ins.replay with
  | some r => State.replayLines (r.frame.img.length + 2) s
  | none => s

/-- A stored frame enters the pipeline, with the geometry sets of that moment (R201, R204, R218, Table 7.11). -/
def State.startReplay (s : State) (p : Fin 4) (f : CamFrame) : State :=
  let f := { f with geo := s.geoNow, flat := [], rows := 0 }
  State.replayRows 16 { s with ins := { s.ins with replay := some ⟨p, f.mark .analysed, [], s.now⟩ } }

/-- REPLAY_START (R201); none starts once the inspection unit has accepted that PD_CAM goes off (14 R405). -/
def execReplayStart (s : State) : Out :=
  let idle := s.ins.replay.isNone && (s.cam s.ins.live).frame.isNone
  if s.seqRun || !s.up .cam || !s.bit F.INS_CTL_EN || !s.bit F.INS_CTL_REPLAY_EN || !idle || s.holdsCamera then .next s
  else match s.nextReplay with
    | some (p, f) => .next (s.startReplay p f)
    | none => .next s

/-- REPLAY_RESUME: a stalled replay goes on when the FIFO has space (R220). -/
def execReplayResume (s : State) : Out := .next s.replayOn

/-- The replay ends: its request is removed, its record is written, its bytes may be freed (R202,
R217, R218). -/
def State.endReplay (s : State) (r : Replay) : State :=
  let p := r.port
  let f := r.frame
  let s := { s with ins := { s.ins with replay := none } }
  let s := s.modCam p fun c => { c with
    areqs := dropTaken f.tseq c.areqs
    store := c.store.map fun g => if g.k = f.k then { g with req := none, flags := f.flags } else g }
  let s := (s.bump F.INS_REPLAYS_V).setCause F.INS_CAUSE_ANALYSED
  ((s.writeStats p f).matchRequests p).freeStore p

/-- Whether every line and every record of a replay has passed. -/
def Replay.done (r : Replay) : Bool :=
  r.outbox.isEmpty && decide (r.frame.img.length ≤ r.frame.flat.length) && decide (16 ≤ r.frame.rows)

/-- REPLAY_END (R202). -/
def execReplayEnd (s : State) : Out :=
  let s := s.replayOn
  match s.ins.replay with
  | some r => .next (if r.done then s.endReplay r else s)
  | none => .next s

/-- VERDICT_POP: an 8-byte read of the verdict window pops one record (R220). -/
def execVerdictPop (s : State) : Out :=
  if s.seqRun then .next (s.answer (List.replicate 8 0#8) false 0)
  else if !s.up .cam then .next ((s.unpowered (A.INS_VF_WINDOW 0 0)).answer (List.replicate 8 0#8) false 0)
  else
    let s := s.replayOn
    let r := (s.readCells (s.headCell true)).vfPop
    .next (r.1.answer (leBytes 8 r.2.toNat) false 0)

/-! ## Table access (R205, Table 7.12) -/

/-- A table write marks the frame in analysis whose tables it touches (R205); its lines that pass later see the
new entry. -/
def State.tablesChanged (s : State) (t port : Nat) : State :=
  let hit := fun (q : Nat) => t == 3 || q == port
  let s := if hit s.ins.live then
      s.modFrame s.ins.live fun f => f.markIf f.live .tablesChanged else s
  match s.ins.replay with
  | some r => if hit r.port then
      { s with ins := { s.ins with replay := some { r with frame := r.frame.mark .tablesChanged } } }
    else s
  | none => s

/-- An access to INS_TBL_DATA: a write of a value, or a read; IDX then advances. -/
def State.tblAccess (s : State) (write : Option Word) : State × Word :=
  let t := s.g F.INS_TBL_SEL_TABLE
  let port := s.g F.INS_TBL_SEL_PORT
  let i := s.g F.INS_TBL_IDX_V % tblSize t
  let s := s.replayOn.readCells [tblCell t port i]
  let old := s.tbl t port i
  let s := match write with
    | some w => ((s.setTbl t port i w).cleanCells [tblCell t port i]).tablesChanged t port
    | none => s
  (s.put F.INS_TBL_IDX_V ((i + 1) % tblSize t), old)

/-- INS_TBL_DATA (R205): a write, or a read whose value is answered. -/
def execInsTblData (write : Option Word) (s : State) : Out :=
  if s.seqRun then .next (if write.isNone then s.answer (leBytes 4 0) false 0 else s)
  else if !s.up .cam then
    .next (let s := s.unpowered A.INS_TBL_DATA
           if write.isNone then s.answer (leBytes 4 0) false 0 else s)
  else
    let r := s.tblAccess write
    .next (if write.isNone then r.1.answer (leBytes 4 r.2.toNat) false 0 else r.1)

/-! ## Triggers and strobes (R209-R213) -/

/-- Whether a SETTING command of the port is queued or in progress. -/
def CamPort.settingPending (c : CamPort) : Bool :=
  c.cciQ.any (·.setting) || (match c.cciRun with | some x => x.setting | none => false)

/-- STRB_DLY or STRB_W is about to be written: the values before the first write of this CAM cycle are kept
(R210). -/
def State.strobeWrite (s : State) (p : Fin 4) : State :=
  s.modCam p fun c => match c.strbWas with
    | some (k, _) => if k = s.now / camCycle then c
      else { c with strbWas := some (s.now / camCycle, s.g (F.CAM_Pp_STRB_DLY_V p), s.g (F.CAM_Pp_STRB_W_V p)) }
    | none => { c with strbWas := some (s.now / camCycle, s.g (F.CAM_Pp_STRB_DLY_V p), s.g (F.CAM_Pp_STRB_W_V p)) }

/-- STRB_DLY and STRB_W as a trigger issued now latches them: without a write of this CAM cycle (R210). -/
def State.strobeRegs (s : State) (p : Fin 4) : Nat × Nat :=
  match (s.cam p).strbWas with
  | some (k, d, w) => if k = s.now / camCycle then (d, w)
    else (s.g (F.CAM_Pp_STRB_DLY_V p), s.g (F.CAM_Pp_STRB_W_V p))
  | none => (s.g (F.CAM_Pp_STRB_DLY_V p), s.g (F.CAM_Pp_STRB_W_V p))

/-- A trigger is issued (R210, R212, R213). -/
def State.issueTrigger (s : State) (p : Fin 4) : State :=
  let c := s.cam p
  let (dly, w) := s.strobeRegs p
  let changed := match c.prevW with | some v => decide (v ≠ w) | none => false
  let s := if changed then s.put (F.CAM_Pp_GEN_V p) (s.g (F.CAM_Pp_GEN_V p) + 1) else s
  let tseq := if s.bit (F.CAM_Pp_TSEQ_ANY p) then (s.g (F.CAM_Pp_TSEQ_SEQ p) + 1) % 65536 else 0
  let lag := match c.sinceSet with | some k => decide (k < s.g (F.CAM_Pp_SET_V p)) | none => false
  let t : Trigger := ⟨tseq, s.g (F.CAM_Pp_GEN_V p), s.ts, s.now, c.settingPending || lag⟩
  let s := (s.put (F.CAM_Pp_TSEQ_SEQ p) tseq).put (F.CAM_Pp_TSEQ_ANY p) 1
  let rise := s.now + ns (5 * dly)
  s.modCam p fun c => { c with
    trigs := c.trigs ++ [t], lastIssue := some s.now, trigHigh := true
    strobe := some ⟨rise, ns (5 * w), false⟩, prevW := some w, sinceSet := c.sinceSet.map (· + 1) }

/-- A trigger request reaches a port: issued, refused, or one with a request of the same CAM cycle
(R209). During a state entry CAM_TRIG does not assert, and the request is refused (16 R456; log 65). -/
def State.triggerRequest (s : State) (p : Fin 4) : State :=
  let c := s.cam p
  if s.seqRun || !s.up .cam || c.lastReq == some (s.now / camCycle) then s
  else
    let spaced := match c.lastIssue with
      | some t => decide (t + us (10 * s.g (F.CAM_Pp_TRIG_TRIG_MIN p)) ≤ s.now)
      | none => true
    let ok := s.bit (F.CAM_Pp_CTL_EN p) && decide (c.trigs.length < 4) && c.strobe.isNone && spaced && !s.entryRuns
    let s := s.modCam p fun c => { c with lastReq := some (s.now / camCycle) }
    if ok then s.issueTrigger p
    else (s.bump (F.CAM_Pp_TRIG_REF_V p)).setCause (F.CAM_Pp_CAUSE_TRIG_REFUSED p)

/-- SWTRIG (R209). -/
def execSwtrig (p : Fin 4) (s : State) : Out :=
  .next (s.atBlock (A.CAM_Pp_CTL p) fun s => s.triggerRequest p)

/-- TRIG_FALL: CAM_TRIG falls TRIG_W x 10 ns after it rose (Table 7.4). -/
def execTrigFall (p : Fin 4) (s : State) : Out :=
  let c := s.cam p
  let due := decide (c.lastIssue.getD s.now + ns (10 * s.g (F.CAM_Pp_TRIG_TRIG_W p)) ≤ s.now)
  .next (if c.trigHigh && due then s.modCam p fun c => { c with trigHigh := false } else s)

/-- STROBE_RISE: CAM_STRB rises (Table 7.4), not during a state entry (16 R456). -/
def execStrobeRise (p : Fin 4) (s : State) : Out :=
  match (s.cam p).strobe with
  | some x => .next (if !x.high && decide (x.rise ≤ s.now) && !s.entryRuns then
      s.modCam p fun c => { c with strobe := some { x with high := true } } else s)
  | none => .next s

/-- STROBE_FALL: CAM_STRB falls (Table 7.4). -/
def execStrobeFall (p : Fin 4) (s : State) : Out :=
  match (s.cam p).strobe with
  | some x => .next (if x.high && decide (x.rise + x.width ≤ s.now) then
      s.modCam p fun c => { c with strobe := none } else s)
  | none => .next s

/-- TRIGGER_EXPIRE: the oldest outstanding trigger has waited TRIG_TMO ms (R211). -/
def execTriggerExpire (p : Fin 4) (s : State) : Out :=
  match (s.cam p).trigs with
  | t :: rest =>
    if decide (t.t + ms (s.g (F.CAM_Pp_TRIG_TRIG_TMO p)) ≤ s.now) then
      let s := s.modCam p fun c => { c with trigs := rest }
      .next ((s.bump (F.CAM_Pp_TRIG_EXP_V p)).setCause (F.CAM_Pp_CAUSE_TRIG_EXPIRED p))
    else .next s
  | [] => .next s

/-! ## Comparators (05 R166, R167) -/

/-- Whether the condition of a comparator holds. -/
def State.cmpHolds (s : State) (c : Nat) : Bool :=
  let x := if s.bit (F.POS_CMPc_CTL_SRC c) then s.ppNow.1 else s.posNow.1
  let t := s.g48 (F.POS_CMPc_TGT_LO_V c) (F.POS_CMPc_TGT_HI_V c)
  match s.g (F.POS_CMPc_CTL_MODE c) with
  | 1 => decide (t ≤ x)
  | 2 => decide (x ≤ t)
  | _ => false

/-- Whether a comparator is evaluated in the POS cycle that runs: it is armed, and its last arming or hit lies in
an earlier one (R166). -/
def State.cmpLive (s : State) (c : Fin 16) : Bool :=
  s.bit (F.POS_CMPc_CTL_ARM c) && decide ((s.pos.cmp[c]).evalFrom ≤ s.now / posCycle)

/-- A comparator hits: ARM clears, unless a write of the same POS cycle set it again (R166, R167). -/
def State.cmpHit (s : State) (c : Fin 16) : State :=
  let k := s.now / posCycle
  let again := (s.pos.cmp[c]).rearmed == some k
  let s := { s with pos := { s.pos with cmp := s.pos.cmp.set c { evalFrom := k + 1 } } }
  let s := (s.putb (F.POS_CMPc_CTL_ARM c) again).put (F.POS_CMPc_TS_V c) s.ts
  let s := s.setCause ⟨A.POS_CMP_CAUSE, c.val, 1⟩
  if s.bit (F.POS_CMPc_CTL_TRIG_EN c) then s.triggerRequest (Fin.ofNat 4 (s.g (F.POS_CMPc_CTL_CAM c))) else s

/-- COMPARATOR_HIT (R166). -/
def execComparatorHit (c : Fin 16) (s : State) : Out :=
  .next (if !s.seqRun && s.up .pos && s.cmpLive c && s.cmpHolds c then s.cmpHit c else s)

/-! ## CCI (R214) -/

/-- The command in the CCI registers of a port. -/
def State.cciCmd (s : State) (p : Fin 4) : CciCmd where
  addr := s.g (F.CAM_Pp_CCI_CMD_ADDR p)
  rd := s.bit (F.CAM_Pp_CCI_CMD_RD p)
  alen := s.g (F.CAM_Pp_CCI_CMD_ALEN p)
  n := s.g (F.CAM_Pp_CCI_CMD_NBYTES p) + 1
  setting := s.bit (F.CAM_Pp_CCI_CMD_SETTING p)
  tag := s.g (F.CAM_Pp_CCI_CMD_TAG p)
  reg := s.g (F.CAM_Pp_CCI_REG_V p)
  wdata := s.reg (A.CAM_Pp_CCI_WDATA p)

/-- The register address bytes of a command, the high one first when there are two (R214, Table 7.10). -/
def CciCmd.regBytes (x : CciCmd) : List Byte :=
  if x.alen = 0 then [BitVec.ofNat 8 x.reg] else [BitVec.ofNat 8 (x.reg / 256), BitVec.ofNat 8 x.reg]

/-- What a command puts on the bus: a write sends the address, the register address and the data bytes in ascending
order from WDATA[7:0]; a read sends the register address, a repeated start, and reads (R214). The 7-bit address
stands in bits [7:1] of its byte, with bit 0 set for reading (PRESUMED, log 36: I2C). -/
def CciCmd.wire (x : CciCmd) : List CciSym :=
  let head := [CciSym.start, .sent (BitVec.ofNat 8 (2 * x.addr))] ++ x.regBytes.map .sent
  if x.rd then
    head ++ [.start, .sent (BitVec.ofNat 8 (2 * x.addr + 1))] ++ List.replicate x.n .read ++ [.stop]
  else head ++ (leBytes x.n x.wdata.toNat).map .sent ++ [.stop]

/-- The next queued command starts when none is in progress. -/
def CamPort.cciNext (c : CamPort) : CamPort :=
  match c.cciRun, c.cciQ with
  | none, x :: r => { c with cciRun := some x, cciQ := r, cciBus := x.wire }
  | none, [] => { c with cciBus := [] }
  | _, _ => c

/-- A write to CCI_PUSH (R214; 14 R405). -/
def State.cciPush (s : State) (p : Fin 4) : State :=
  if 8 ≤ (s.cam p).cciQ.length then s.setCause (F.CAM_Pp_CAUSE_CCI_FULL p)
  else
    s.unlessHeld s.holdsCamera fun s =>
      let x := s.cciCmd p
      s.modCam p fun c => ({ c with cciQ := c.cciQ ++ [x] }).cciNext

/-- CCI_PUSH (R214). -/
def execCciPush (p : Fin 4) (s : State) : Out :=
  .next (s.atBlock (A.CAM_Pp_CTL p) fun s => s.cciPush p)

/-- A result enters the result queue, or is lost (R214). -/
def State.cciResult (s : State) (p : Fin 4) (r : CciRes) : State :=
  let s := s.setCauseIf (decide (r.status ≠ 0)) (F.CAM_Pp_CAUSE_CCI_ERR p)
  if 8 ≤ (s.cam p).cciRes.length then s.setCause (F.CAM_Pp_CAUSE_CCI_RES_LOST p)
  else (s.modCam p fun c => { c with cciRes := c.cciRes ++ [r] }).setCause (F.CAM_Pp_CAUSE_CCI_DONE p)

/-- Status of a CCI end (R214). -/
def cciStatus : CciEnd → Nat
  | .ok _ => Status.ok.code
  | .addrNack => Status.busError.code
  | .dataNack => Status.busError.code
  | .stretch => Status.timeout.code
  | .sdaStuck => Status.timeout.code

/-- Violation code of a CCI end, 0 for none (R214). -/
def cciViolation : CciEnd → Nat
  | .ok _ => 0 | .addrNack => 1 | .dataNack => 2 | .stretch => 3 | .sdaStuck => 4

/-- The data a command leaves: what it read, in its length. -/
def cciData (x : CciCmd) : CciEnd → Word
  | .ok d => if x.rd then BitVec.ofNat 32 (d.toNat % 2 ^ (8 * x.n)) else 0
  | _ => 0

/-- The command in progress ends (R212-R214). -/
def State.cciDone (s : State) (p : Fin 4) (x : CciCmd) (e : CciEnd) : State :=
  let s := if cciViolation e = 0 then s
    else s.vlog (0x14 + p.val) (cciViolation e) (x.addr + x.reg * 2 ^ 8)
  let s := if x.setting then s.modCam p fun c => { c with sinceSet := some 0 } else s
  let s := if x.setting && cciViolation e == 0 then s.put (F.CAM_Pp_GEN_V p) (s.g (F.CAM_Pp_GEN_V p) + 1) else s
  let s := s.cciResult p ⟨x.tag, cciStatus e, cciData x e⟩
  s.modCam p fun c => ({ c with cciRun := none }).cciNext

/-- CCI_COMMAND_DONE (R214). -/
def execCciCommandDone (p : Fin 4) (e : CciEnd) (s : State) : Out :=
  match (s.cam p).cciRun with
  | some x => .next (if s.seqRun || !s.up .cam then s else s.cciDone p x e)
  | none => .next s

/-- Every queued command ends with ABORTED (R214). -/
def State.cciFlush (s : State) (p : Fin 4) : State :=
  let q := (s.cam p).cciQ
  q.foldl (fun s x => s.cciResult p ⟨x.tag, Status.aborted.code, 0⟩)
    (s.modCam p fun c => { c with cciQ := [] })

/-- CCI_FLUSH (R214). -/
def execCciFlush (p : Fin 4) (s : State) : Out :=
  .next (s.atBlock (A.CAM_Pp_CTL p) fun s => s.cciFlush p)

/-- A read of CCI_RES pops a result: TAG and status, and its data into CCI_RDATA (Table 7.10). -/
def State.cciPop (s : State) (p : Fin 4) : State × Word :=
  match (s.cam p).cciRes with
  | [] => (s, 0)
  | r :: rest =>
    ((s.modCam p fun c => { c with cciRes := rest }).setReg (A.CAM_Pp_CCI_RDATA p) r.data,
      BitVec.ofNat 32 (r.tag + r.status * 2 ^ 8))

/-- CCI_RESULT_POP (R214). -/
def execCciResultPop (p : Fin 4) (s : State) : Out :=
  if s.seqRun then .next (s.answer (leBytes 4 0) false 0)
  else if !s.up .cam then .next ((s.unpowered (A.CAM_Pp_CCI_RES p)).answer (leBytes 4 0) false 0)
  else
    let r := s.cciPop p
    .next (r.1.answer (leBytes 4 r.2.toNat) false 0)

end Sys2Proof.Machine
end

