-- ==== Sys2Proof/Machine/ETest.lean ====
section
/-!
DEFINITION. The electrical nozzle test in bar gaps: test lines, their data, and the records of their
strobes (08 R233-R237), and the application of calibration values at ticks (Table 8.2).
-/

namespace Sys2Proof.Machine

/-! ## Bar gaps (Table 8.1) -/

/-- Whether this tick lies in a bar gap of `n`: outside a page, not paused, not killed, enabled. -/
def State.inGap (s : State) (n : Fin 32) : Bool :=
  s.up (barDomain n) && !(s.bar n).inPage && !s.grid.paused && !s.portKilled n && s.bit (F.FPE_CTL_EN n)

/-- What a tick applies: VSET trims and strobe delays in a bar gap, ISNS offsets at any tick, lane
deskew one tap a line (Table 8.2). -/
def State.calTick (s : State) (n : Fin 32) : State :=
  if !s.up .ana then s
  else
    let s := if s.inGap n then
        (s.modCal (calIndex 2 n) CalInst.apply).modCal (calIndex 6 n) CalInst.apply
      else s
    let s := s.modCal (calIndex 4 n) CalInst.apply
    (List.range 9).foldl (fun s d => s.modCal (calIndex 5 (9 * n + d)) CalInst.applyTap) s

/-! ## Test lines (R233-R235) -/

/-- Change a bar's test state. -/
def State.modEt (s : State) (n : Fin 32) (f : Et → Et) : State :=
  s.modBar n fun b => { b with et := f b.et }

/-- The nozzle that group `g` tests at cursor step `t`: segment and nozzle (R235). -/
def etNozzle (t g : Nat) : Nat × Nat := (t / 1280, g % 4 * 5120 + 4 * (t % 1280) + g / 4)

/-- Whether group `g` carries data bit 1 at step `t`: its segment is enabled and its nozzle is not
retired (R235). -/
def State.etFires (s : State) (n : Fin 32) (t g : Nat) : Bool :=
  let (seg, i) := etNozzle t g
  s.segOn n seg && s.nozState n seg i != 3

/-- The data bits of segment `seg` on the test line of step `t`. -/
def State.etData (s : State) (n : Fin 32) (t seg : Nat) : Nat :=
  (List.range 16).foldl (fun a g =>
    if (etNozzle t g).1 = seg ∧ s.etFires n t g then a + 2 ^ (etNozzle t g).2 else a) 0

/-- Whether the test FIFO has room: it is not full, and no record waits for it (R233, R237). -/
def State.etRoom (s : State) : Bool := decide (s.cal.etFifo.length < 256) && s.cal.etWait.isEmpty

/-- A class 2 measurement takes one of its lines (R226, R233). -/
def State.calLine (s : State) (n : Fin 32) : State :=
  (s.modEt n fun e => { e with claimed := e.claimed - 1 }).calUse 2 n 1

/-- Every tick: a new gap starts with no block begun; outside a gap the block in progress is given up (R234). -/
def State.etGap (s : State) (n : Fin 32) : State :=
  let gap := s.inGap n
  s.modEt n fun e =>
    if gap && e.gap then e
    else { e with gap := gap, blocks := 0, line := none, wwTold := false }

/-- Begin the next block with its reference line; the cursor register is taken (R234). -/
def State.etBlock (s : State) (n : Fin 32) : State :=
  let cur := s.g (F.CAL_ET_CURn_CUR n)
  s.modEt n fun e => { e with blocks := e.blocks + 1, line := some 1, cur := cur, curWritten := false }

/-- The bar's next cursor step: after step 10,239 the cursor returns to 0 and the sweep ends
(R235). -/
def State.etStep (s : State) (n : Fin 32) : State :=
  let e := (s.bar n).et
  let next := if e.cur + 1 = 10240 then 0 else e.cur + 1
  let s := if e.curWritten then s else s.put (F.CAL_ET_CURn_CUR n) next
  let s := if next = 0 then
      (s.put (F.CAL_ET_CURn_SWEEP n) (s.g (F.CAL_ET_CURn_SWEEP n) + 1)).setCause F.CAL_ET_CAUSE_SWEEP_DONE
    else s
  s.modEt n fun e => { e with line := e.line.map (· + 1), cur := next }

/-- Whether the frame for the next tick is an electrical test line, and which; its state follows
(R233-R235). -/
def State.etLine (s : State) (n : Fin 32) : State × Option TestLine :=
  let s := s.etGap n
  let e := (s.bar n).et
  if !s.up .ana || !e.gap || !s.bit ⟨A.CAL_ET_BARS, n, 1⟩ then
    (if e.gap && decide (0 < e.claimed) && decide (e.blocks = 0) then s.calLine n else s, none)
  else if 0 < e.claimed ∧ e.blocks = 0 then (s.calLine n, none)
  else if s.g F.GRID_WARM_LIVE_WW < 40 then
    (if e.wwTold then s else (s.modEt n fun e => { e with wwTold := true }).setCause F.CAL_ET_CAUSE_ET_WW,
      none)
  else
    match e.line with
    | some l =>
      if l ≤ 16 then
        if s.etRoom then (s.etStep n, some (.step e.cur (s.g (F.CAL_ET_CURn_SWEEP n)))) else (s, none)
      else if e.blocks < s.g F.CAL_ET_CFG_BLOCKS ∧ s.etRoom then (s.etBlock n, some .reference)
      else (s, none)
    | none => if s.etRoom then (s.etBlock n, some .reference) else (s, none)

/-! ## Records (R236, R237) -/

/-- RESULT of a test (Table 8.3). -/
inductive EtResult where
  | normal | opened | short | void
  deriving DecidableEq, Repr

/-- The code of a RESULT. -/
def EtResult.code : EtResult → Nat
  | .normal => 0 | .opened => 1 | .short => 2 | .void => 3

/-- The step of two currents, truncated toward zero (R236). -/
def etDelta (test ref : Rat) : Int := if test < ref then -((ref - test).floor) else (test - ref).floor

/-- The class of a step (R236). -/
def State.etClass (s : State) (delta : Int) (void : Bool) : EtResult :=
  if void then .void
  else if delta < s.g F.CAL_ET_TH_OPEN then .opened
  else if delta > s.g F.CAL_ET_TH_SHORT then .short
  else .normal

/-- The record of one strobe (Table 8.3). -/
def etRecord (n : Nat) (t g sweep : Nat) (delta : Int) (r : EtResult) : DWord :=
  let (seg, i) := etNozzle t g
  BitVec.ofNat 64 (globalNozzle n seg i + r.code * 2 ^ 23 + 2 ^ 25 + unsigned 16 delta * 2 ^ 32
    + sweep % 2 ^ 16 * 2 ^ 48)

/-- A record enters the test FIFO; one of a line that was started before the FIFO filled waits for room, so that no
record is lost (R237; DEDUCED, log 92). -/
def State.etPush (s : State) (w : DWord) : State :=
  if !s.etRoom then { s with cal := { s.cal with etWait := s.cal.etWait ++ [w] } }
  else
    let s := s.cleanCells [etCell (s.cal.etPops + s.cal.etFifo.length)]
    let s := { s with cal := { s.cal with etFifo := s.cal.etFifo ++ [w] } }
    (s.setCause F.CAL_ET_CAUSE_RECORD).setCauseIf (decide (256 ≤ s.cal.etFifo.length)) F.CAL_ET_CAUSE_FULL

/-- A current as ISNS reads it, in steps of 0.5 mA: from 0 to 1.600 V at 1.000 mV per mA, saturated beyond (17
R476, Table 17.6). -/
def isnsRead (x : Rat) : Rat := max 0 (min 3200 x)

/-- The samples of a strobe: each begins at a time in ns after the SY edge and takes 50 ns; those count that begin at
least 100 ns after the strobe's rise and end before its fall (R236; the span of a sample from 20 MS/s, DEDUCED,
log 92). -/
def strobeSamples (out : LineOut) (g : Nat) (xs : List (Nat × Rat)) : List Rat :=
  let rise := out.gts.getD g 0 * gridCycle
  (xs.filter fun x => decide (rise + ns 100 ≤ ns x.1) && decide (ns (x.1 + 50) < rise + out.w * gridCycle)).map
    fun x => isnsRead x.2

/-- The mean current of a strobe; a fresh free value when no sample lies within it (R236). -/
def State.strobeMean (s : State) (out : LineOut) (xs : List (Nat × Rat)) (g : Nat) : State × Rat :=
  match strobeSamples out g xs with
  | [] => let (k, s) := s.draw; (s, ((Config.noSample k).toInt : Rat))
  | ys => (s, ys.foldl (· + ·) 0 / (ys.length : Rat))

/-- The mean currents of the strobes of a line. -/
def State.strobeMeans (s : State) (out : LineOut) (xs : List (Nat × Rat)) : State × List Rat :=
  (List.range 16).foldl (fun a g => let r := a.1.strobeMean out xs g; (r.1, a.2 ++ [r.2])) (s, [])

/-- The result of strobe `g` of a test line with mean current `i` (R236). -/
def State.etStrobe (s : State) (n : Fin 32) (l : LineFrame) (t sweep g : Nat) (i : Rat) (void : Nat) :
    State :=
  let (seg, noz) := etNozzle t g
  let fired := match l.segs[seg]? with | some f => f.data.getLsbD noz | none => false
  if !fired then s
  else
    let delta := etDelta i ((s.bar n).et.refI.getD g 0)
    let r := s.etClass delta (void.testBit seg)
    let s := s.bump F.CAL_ET_TESTED_V
    let s := match r with
      | .opened => s.bump F.CAL_ET_OPENS_V
      | .short => s.bump F.CAL_ET_SHORTS_V
      | .void => s.bump F.CAL_ET_VOIDS_V
      | .normal => s
    if r = .normal ∧ !s.bit F.CAL_ET_CFG_ALL then s else s.etPush (etRecord n t g sweep delta r)

/-- The line fired since the last tick is evaluated with its ISNS samples (R236). -/
def State.etRecords (s : State) (n : Fin 32) (isns : List (Nat × Rat)) : State :=
  match (s.bar n).latched with
  | none => s
  | some l =>
    let e := (s.bar n).et
    let void := if (s.bar n).srOk then e.lineVoid else 0xFF
    match l.test with
    | none => s
    | some .reference =>
      let r := s.strobeMeans (s.bar n).out isns
      r.1.modEt n fun e => { e with refI := r.2, refVoid := void }
    | some (.step t sweep) =>
      let r := s.strobeMeans (s.bar n).out isns
      (List.range 16).foldl (fun s g =>
        s.etStrobe n l t sweep g (r.2.getD g 0) (void ||| e.refVoid)) r.1

/-- A record that waits enters the FIFO once it has room. -/
def State.etRefill (s : State) : State :=
  match s.cal.etWait with
  | [] => s
  | w :: r => State.etPush { s with cal := { s.cal with etWait := [] } } w |> fun s =>
      { s with cal := { s.cal with etWait := r } }

/-- ET_RECORD_POP: the oldest record leaves the FIFO; an empty FIFO reads 0 (R237). -/
def State.etPop (s : State) : State × DWord :=
  match s.cal.etFifo with
  | [] => (s, 0#64)
  | w :: r => (State.etRefill { s with cal := { s.cal with etFifo := r, etPops := s.cal.etPops + 1 } }, w)

/-! ## Opportunities of a line (Table 8.1) -/

/-- Whether the line that ends was quiet: no heater was energised (Table 8.1). -/
def Bar.quietLine (b : Bar) : Bool :=
  b.out.warmSlots == 0 && b.latched.all fun f => f.test.isNone && f.segs.all fun x => x.data == 0

/-- When the strobes of a line rise, in GRID cycles after its SY edge: the group strobes, then each warm slot 40
cycles after the end of the strobe before it (R42, R43). -/
def LineOut.rises (o : LineOut) : List Nat :=
  o.gts ++ (List.range o.warmSlots).map fun j => o.gts.getD 15 0 + o.w + 40 + j * (o.ww + 40)

/-- The rising edges of a port's strobes in the line that ends, up to a kill (R60). -/
def LineOut.edges (o : LineOut) : Nat :=
  if o.killed then 0
  else match o.cutAt with
    | some t => (o.rises.filter fun g => decide (o.t0 + g * gridCycle < t)).length
    | none => o.rises.length

/-- What the line that ends gives the pairs in progress of a port: a quiet line for class 4, a frame on each lane for
class 5, strobe edges for class 6 (R225, Table 8.2). An untrained port drives its lanes and strobe low (13 R388). -/
def State.calLineEnd (s : State) (n : Fin 32) : State :=
  let b := s.bar n
  if !s.up .ana || b.out.gts.isEmpty then s
  else
    let s := if b.quietLine then s.calUse 4 n 1 else s
    if !s.trained n then s
    else ((List.range 9).foldl (fun s d => s.calUse 5 (9 * n + d) 1) s).calUse 6 n b.out.edges

end Sys2Proof.Machine
end

