-- ==== Sys2Proof/Machine/Fire.lean ====
section
/-!
DEFINITION. The line tick: latch, strobes, residual error, page ends, selection, hand-overs at the
page boundary, frames for the next tick; starting and stopping the grid; head status frames and the
spare lane (02 R32-R44, R49-R59, R67, R74; 04 R119, R124, R125; 08 R249).
-/

namespace Sys2Proof.Machine

/-! ## Starting and stopping the grid (R36) -/

/-- A write of 1 to RUN: a stopped grid starts with the accumulator at 0; a held stop is withdrawn. -/
def State.runStart (s : State) : State :=
  let s := if s.g F.PWR_STATUS_STATE = 1 then s.put F.PWR_STATUS_STATE 0 else s
  let s1 := s.put F.GRID_CTL_RUN 1
  if s.running then { s1 with grid := { s1.grid with heldStop := false } }
  else
    let s1 := { s1 with
      grid := { s1.grid with acc := 0, accT := s.now, heldStop := false, ticked := false }
      bars := s1.bars.map fun (b : Bar) => { b with shifting := none, out := {} } }
    (s1.put F.GRID_STATUS_RUNNING 1).showPeriod

/-- RUN_START (R36). -/
def execRunStart (s : State) : Out := .next (s.atBlock A.GRID_CTL State.runStart)

/-- The grid stops: no tick follows (R36). -/
def State.gridOff (s : State) : State :=
  { (s.put F.GRID_CTL_RUN 0).put F.GRID_STATUS_RUNNING 0 with grid := { s.grid with heldStop := false } }

/-- The line in progress ends with the grid: its remaining strobes and warm slots are not issued and the frame
that is shifting is not sent on (R36). -/
def Bar.lineCut (now : Nat) (b : Bar) : Bar :=
  { b with
    shifting := none
    out := { b.out with cutAt := some (b.out.cutAt.getD now) }
    et := { b.et with lineVoid := 0xFF } }

/-- A write of 0 to RUN: held while any bar is inside a page, RUN staying 1 until the stop takes effect,
since no tick occurs while RUN is 0; else the grid stops at once, in the middle of its line (R36). -/
def State.runStop (s : State) : State :=
  if s.running && s.anyInside then { s with grid := { s.grid with heldStop := true } }
  else if s.running then { s.gridOff with bars := s.bars.map (Bar.lineCut s.now) }
  else s.gridOff

/-- RUN_STOP (R36). -/
def execRunStop (s : State) : Out := .next (s.atBlock A.GRID_CTL State.runStop)

/-! ## Latch and strobes (R41-R43, R60, R62) -/

/-- The live warm count of a segment, limited to GRID_WARM.SLOTS (R43). -/
def State.liveWarm (s : State) (n : Fin 32) (seg : Nat) : Nat :=
  min (s.g ⟨A.FPE_WARMCNT_LIVE n, 3 * seg, 3⟩) (s.g F.GRID_WARM_LIVE_SLOTS)

/-- The effective warm count of a segment in a frame selected now: 0 in thermal stage 1 or higher (R43, R248). -/
def State.warmCount (s : State) (n : Fin 32) (seg : Nat) : Nat := if 1 ≤ s.stage n then 0 else s.liveWarm n seg

/-- N of the line of a frame: the largest effective warm count among the enabled segments, 0 on a test line and where
the stage held warm pulses off at the frame's selection (R43, R248). -/
def State.warmSlots (s : State) (n : Fin 32) (off : Bool) : Nat :=
  if off then 0 else (s.enabledSegs n).foldl (fun a seg => max a (s.liveWarm n seg)) 0

/-- The time of the SY edges of the last tick. -/
def State.syEdge (s : State) : Nat := s.grid.tickT + ns 80

/-- Whether the record of a bar waits for a status frame that has not come within 2 us of the tick's SY edge
(R69). -/
def State.recordLate (s : State) (n : Fin 32) : Bool :=
  (s.bar n).closing.isSome && decide (s.syEdge + us 2 ≤ s.now)

/-- The records that wait no longer are written (R66, R69). -/
def State.closeLate (s : State) : State :=
  allBars.foldl (fun s n => if s.recordLate n then s.closePage n else s) s

/-- The strobes of a line, which follow its SY edge, so that the hand-overs of the tick are in effect: 16
group strobes at the group times of the latched frame, or at the live ones when the port has latched none
since the grid started, and the warm slots (R41-R43, R52). -/
def State.lineOut (s : State) (n : Fin 32) (f : Option LineFrame) (killed : Bool) : LineOut :=
  let test := f.any (·.test.isSome)
  let ww := s.g F.GRID_WARM_LIVE_WW * 8
  { t0 := s.syEdge
    gts := match f with | some f => f.gts | none => s.liveGts n
    w := if test then ww else s.g F.GRID_STROBE_LIVE_V * 8
    ww := ww
    warmSlots := s.warmSlots n (test || match f with | some f => f.warmOff | none => decide (1 ≤ s.stage n))
    killed := killed
    cutAt := none }

/-- Whether a port's strobes are suppressed in the line that begins with a frame: a kill stands at the SY
edge, or one has asserted since the last and the frame carries an index of the page it ends (R62, R63). -/
def State.lineKilled (s : State) (n : Fin 32) (f : Option LineFrame) : Bool :=
  s.portKilled n || ((s.bar n).killSeen && f.any (·.idx.isSome))

/-- Whether the line of a frame carries the data of its index for a segment. -/
def LineFrame.prints (f : LineFrame) (seg : Nat) : Bool := f.data.contains seg

/-- Change the record of the page of a serial number: the page in progress, the one whose record waits to
be written, or the one that ended last, whose record registers then follow (R57, R66). -/
def State.amendRecord (s : State) (n : Fin 32) (serial : Nat) (f : PageRec → PageRec) : State :=
  if (s.bar n).page.any fun p => p.desc.serial == serial then s.modRec n f
  else if (s.bar n).closing.any fun c => c.1.serial == serial then
    s.modBar n fun b => { b with closing := b.closing.map fun c => (c.1, f c.2) }
  else match (s.bar n).ended with
    | some (k, r) =>
      if k = serial then
        let r' := f r
        let s := s.modBar n fun b => { b with ended := some (k, r') }
        (s.setReg (A.FPE_PREC_FLAGS n) (BitVec.ofNat 32 r'.flags)).put (F.FPE_PREC_LOST_V n)
          (min r'.lost (2 ^ 32 - 1))
      else s
    | none => s

/-- Whether no lane serves segment `seg` of a frame: none did when it was sent, or its lane has failed since
(R58). -/
def State.unservedIn (s : State) (n : Fin 32) (f : LineFrame) (seg : Nat) : Bool :=
  f.unserved.contains seg || (s.bar n).unserved.contains seg

/-- A line of a segment that no lane serves counts as lost (R58). -/
def State.unservedLine (s : State) (n : Fin 32) (serial : Nat) : State :=
  (s.bump (F.FPE_LOST_LINES_V n)).amendRecord n serial fun r =>
    { r.mark .segLost with lost := r.lost + 1 }

/-- The residual error of an index that fires at this tick, in whole 1/256 line: its part below that is cut
off before it is compared and kept (R67; DESIGN CHOICE, log 89). -/
def State.fireIndex (s : State) (n : Fin 32) (i : FrameIdx) : State :=
  match (s.bar n).page with
  | none => s
  | some p =>
    if p.desc.serial ≠ i.page then s
    else
      let e := (s.ppNow.1 - s.duePos p.s i.idx).natAbs * 256 / s.pitch
      s.modRec n fun r =>
        { r.markIf (decide (s.g F.GRID_ERR_TOL_LIVE_V < e)) .errTol with maxErr := max r.maxErr e }

/-- The SY edge of a tick on one port: the frame shifted during the last line is latched and fires,
the status frame of the last line is judged missed or not (R41, R54, R58, R67). -/
def State.latchBar (s : State) (n : Fin 32) : State :=
  let b := s.bar n
  let out := s.lineOut n b.shifting (s.lineKilled n b.shifting)
  let s := s.modBar n fun b => { b with
    previous := b.latched
    latched := b.shifting
    shifting := none
    sel := none
    out := out
    srMiss := if b.srOk then 0 else b.srMiss + 1
    srTaken := false
    srOk := false
    et := { b.et with lineVoid := if out.killed then 0xFF else 0 } }
  match b.shifting with
  | none => s
  | some f => match f.idx with
    | none => s
    | some i =>
      let s := if out.killed then s else s.fireIndex n i
      (f.data.filter (s.unservedIn n f)).foldl (fun s _ => s.unservedLine n i.page) s

/-- Indices two ticks after their selection are done (R118). -/
def State.settleInflight (s : State) (n : Fin 32) : State :=
  s.modPage n fun p =>
    let p := { p with inflight := p.inflight.filter fun x => decide (s.tick < x.2 + 2) }
    { p with used := p.used.filter fun u => p.notDone.contains u.1 }

/-- What a tick does on one port before selection: the record of a page that ended at the last tick when no
status frame came, records of a test line, latch, done indices, and the page ends due. -/
def State.openTick (isns : List (Nat × Rat)) (s : State) (n : Fin 32) : State :=
  if !s.up (barDomain n) then s
  else
    let s := (((((s.closePage n).etRecords n isns).calLineEnd n).latchBar n).settleInflight n).endCheck n
    s.modBar n fun b => { b with killSeen := false, killCount := 0 }

/-- The strobes of the line take the global set as the hand-overs of the tick have left it (R42, R43). -/
def State.strobeBar (s : State) (n : Fin 32) : State :=
  if !s.up (barDomain n) then s
  else s.modBar n fun b => { b with out := s.lineOut n b.latched b.out.killed }

/-! ## Frames (R49-R52) -/

/-- MODE of a segment's frame (R52). -/
def State.frameMode (s : State) (n : Fin 32) (seg : Nat) (data : List Nat) (test : Bool) : FrameMode :=
  if !s.segOn n seg then .idle
  else if test then .test
  else if !s.segServed n seg then .idle
  else if data.contains seg then .print
  else .warm

/-- The data bits of a segment's frame, with the drops thinned and unplaceable among them. -/
def State.frameData (s : State) (n : Fin 32) (seg : Nat) (mode : FrameMode) (idx : Option FrameIdx)
    (test : Option TestLine) : Nat × Nat × Nat :=
  match mode, idx, (s.bar n).page, test with
  | .print, some i, some p, _ => s.segScan n p.desc i.idx seg 20480
  | .test, _, _, some (.step t _) => (s.etData n t seg, 0, 0)
  | _, _, _, _ => (0, 0, 0)

/-- PCRC of a segment: over the data of its previous frame, also one sent before the grid stopped; over
data of 0 when it has had none (R50). -/
def Bar.prevCrc (b : Bar) (seg : Nat) : Nat :=
  match b.lastSent with
  | some f => match f.segs[seg]? with
    | some x => crc16 20480 x.data.toNat
    | none => crc16 20480 0
  | none => crc16 20480 0

/-- Whether D8 is assigned to a segment (R14, R56, R59). -/
def State.onD8 (s : State) (n : Fin 32) (seg : Nat) : Bool :=
  s.bit (F.FPE_LANE_SPARE_EN n) && s.g (F.FPE_LANE_SPARE_SEG n) == seg

/-- One segment's frame for the next tick (Table 2.4). -/
def State.segFrame (s : State) (n : Fin 32) (seg : Nat) (mode : FrameMode) (bits : Nat) (test : Bool) :
    SegFrame :=
  { mode := mode
    onSpare := s.onD8 n seg
    warm := if test then 0 else s.warmCount n seg
    line := (s.tick + 1) % 256
    pcrc := (s.bar n).prevCrc seg
    data := BitVec.ofNat 20480 bits }

/-- The MODE 0b11 frame of a failed lane: the header of its segment's frame without data (R56). -/
def SegFrame.idleOn (f : SegFrame) (spare : Bool) : SegFrame :=
  { f with mode := .idle, onSpare := spare, data := 0 }

/-- The MODE 0b11 frames beside those of the segments: on the own lane of the segment that D8 carries (R56), and on
the lane assigned to a segment that no lane serves (R58), also when its line is a test line (R235). -/
def LineFrame.idlesOf (segs : List SegFrame) (unserved : List Nat) : List (Nat × SegFrame) :=
  (segs.mapIdx fun k f => (k, f)).flatMap fun x =>
    (if x.2.onSpare then [(x.1, x.2.idleOn false)] else [])
      ++ (if unserved.contains x.1 then [(if x.2.onSpare then 8 else x.1, x.2.idleOn x.2.onSpare)] else [])

/-- The frame on data lane Dk of a port, with the segment its header names (R14, R56): the segment's own
frame, or that of the segment assigned to D8. D8 sends none while it carries no segment. -/
def LineFrame.lane (f : LineFrame) (k : Nat) : Option (Nat × SegFrame) :=
  let own := if k = 8 then (f.segs.mapIdx fun seg x => (seg, x)).find? fun x => x.2.onSpare
    else f.segs[k]?.map fun x => (k, x)
  match f.idles.find? fun x => x.1 == k with
  | some x => own.map fun y => (y.1, x.2)
  | none => own

/-- The port A reads of a frame meet the errors of the words they read: the table entries of the
segments that print and, inside the page, the four rows' lines (R347). -/
def State.frameReads (s : State) (n : Fin 32) (idx : Option FrameIdx) (data : List Nat) : State :=
  match idx, (s.bar n).page with
  | some i, some p =>
    let slots := (List.range 4).filterMap fun r =>
      let l : Int := (i.idx : Int) - s.rowOfs n r
      if l < 0 ∨ p.desc.lines ≤ l then none else some ((p.desc.base + l.toNat) % 48)
    s.readErrsIf fun w => match bankOf (8 * w) with
      | some (b, off) =>
        (b == n.val && slots.contains (off / 20480) && data.contains (off % 20480 / 2560))
          || (b == 32 + n.val && data.contains (off / 20480))
      | none => false
  | _, _ => s

/-- The frames a bar shifts for the next tick; the drops of an index selected for the first time are
counted (R49-R52, R89, R233). -/
def State.buildFrames (s : State) (n : Fin 32) : State :=
  if !s.up (barDomain n) then s
  else
    let sel := (s.bar n).sel
    let r := if sel.isSome then (s.etGap n, none) else s.etLine n
    let s := r.1
    let test := r.2
    let idx := sel.map (·.1)
    let data := (sel.map (·.2)).getD []
    let parts := (List.range 8).map fun seg =>
      let mode := s.frameMode n seg data test.isSome
      (mode, s.frameData n seg mode idx test)
    let th := parts.foldl (fun a x => a + x.2.2.1) 0
    let un := parts.foldl (fun a x => a + x.2.2.2) 0
    let first := match idx with | some i => i.first | none => false
    let segs := parts.mapIdx fun seg x => s.segFrame n seg x.1 x.2.1 test.isSome
    let frame : LineFrame :=
      { idx := idx, data := data, unserved := (s.bar n).unserved, segs := segs, idles := LineFrame.idlesOf segs (s.bar n).unserved
        gts := s.liveGts n, test := test, warmOff := decide (1 ≤ s.stage n) }
    let s := (s.modBar n fun b => { b with shifting := some frame, lastSent := some frame }).frameReads n idx data
    if first then
      let s := (s.bumpBy (F.NST_UNPL_TOTAL_V n) un).bumpBy (F.NST_THIN_TOTAL_V n) th
      s.modRec n fun r => { r with unpl := r.unpl + un, thin := r.thin + th }
    else s

/-- Lines that are no longer held are released, and the decoder's credit is set (R116, R119). -/
def State.feedBar (s : State) (n : Fin 32) : State :=
  if !s.up (barDomain n) then s
  else
    let s := s.releaseLines n
    if s.bit F.GRID_CTL_RUN then s.modRsp n fun r => { r with credit := 2 } else s

/-! ## Page boundary (R38, R74, R249) -/

/-- The FREQ word of THM_FLOOR, rounded down within the range of FREQ (R33, R249). -/
def State.floorWord (s : State) : Nat := freqClamp (s.g F.THM_FLOOR_V * 2 ^ 48 / 1600000000)

/-- Whether a reduction is due: a bar in stage 2 has one (R249). -/
def State.reductionDue (s : State) : Bool :=
  allBars.any fun n => (s.thm.bars[n]).redDue && s.stage n == 2

/-- Every reduction then due is satisfied. -/
def State.clearDue (s : State) : State :=
  { s with thm := { s.thm with bars := s.thm.bars.map fun (b : ThmBar) =>
      { b with redT := if b.redDue then some s.now else b.redT, redDue := false } } }

/-- The thermal reduction at a page boundary (R249). -/
def State.thermalReduction (s : State) : State :=
  if !s.reductionDue then s.clearDue
  else
    let raw := s.freq * (256 - s.g F.THM_CFG_RED) / 256
    let f2 := max raw s.floorWord
    let s := s.clearDue
    if f2 < s.freq then
      let s := s.setCause (if raw < f2 then F.THM_CAUSE_FLOOR_HIT else F.THM_CAUSE_REDUCED)
      let s := s.bump F.THM_REDUCTIONS_V
      if s.leader then (s.setFreq f2).rateChanged
      else { s with grid := { s.grid with clampF2 := some f2 } }
    else s.setCause F.THM_CAUSE_FLOOR_HIT

/-- The clamp of autotune ends at the first tick at which no bar is in stage 2 (R250). -/
def State.clampTick (s : State) : State :=
  if allBars.any fun n => s.stage n == 2 then s
  else { s with grid := { s.grid with clampF2 := none } }

/-- What follows selection at a tick: a missed force, and at a page boundary the global hand-over, the
thermal reduction and autotune (R38, R74, R75, R249). -/
def State.boundary (s : State) : State :=
  let s := s.forceEval.clampTick
  if s.anyInside then s.autotuneTick false
  else
    let armed := s.garmedFree
    let s := if armed then s.gridHandover else s
    let handed := armed && !s.bit F.GRID_CTL_GARM
    s.thermalReduction.autotuneTick handed

/-- A held stop takes effect once a tick at which no bar is inside a page has occurred in full (R36). -/
def State.heldStopEnds (s : State) : State :=
  if s.grid.heldStop && !s.anyInside then s.gridOff else s

/-! ## The tick (R32, R41) -/

/-- The time of the next carry of the accumulator. -/
def State.nextTickT (s : State) : Nat := s.grid.accT + s.cyclesToTick * gridCycle

/-- Whether a line tick is due: the grid runs, no re-entry is armed, and the carry has come (R32,
R188); none occurs during a state entry, in which no strobe asserts (16 R456). -/
def State.tickDue (s : State) : Bool :=
  !s.seqRun && s.up .core && s.running && !s.bit F.XPT_STATUS_ARMED && !s.entryRuns && decide (s.nextTickT ≤ s.now)

/-- The tick's count and the accumulator's value after its carry (R32, R37). -/
def State.carry (s : State) : State :=
  let k := s.cyclesToTick
  let t := s.nextTickT
  let acc := s.grid.acc + k * s.freq - 2 ^ 48
  ({ s with grid := { s.grid with
      acc := acc, accT := t, tickT := t, ticked := true, ticks := s.grid.ticks + 1 } }).put
    F.GRID_TICK_V (s.grid.ticks + 1)

/-- Selection at a tick, or the pause that replaces it. While PD_POS is off no load point ends the pause, and it
ends at the tick at which no bar is inside a page any longer (R67, R121-R125, R132; DESIGN CHOICE, log 29). -/
def State.selectionPhase (s : State) : State :=
  let due := match s.grid.stopAt with | some t => decide (t ≤ s.tick) | none => false
  if s.grid.paused then if !s.up .pos && !s.anyInPage then s.endPause else s.pausedTick
  else if due then s.beginPause.pausedTick
  else
    let s := allBars.foldl (fun s n => if s.up (barDomain n) then s.captureTest n else s) s
    let r := s.selectAll
    if r.2 = [] then allBars.foldl (fun s n => if s.pageDone n then s.endPage n id else s) r.1
    else (r.2.foldl (fun s n => s.markUnderrun n) s).beginPause.pausedTick

/-- LEAD and READY of a bar before a tick, to see them change (R120, R127). -/
def State.linesSeen (s : State) (n : Fin 32) : Nat × Bool := (s.leadLines n, s.barReady n)

/-- LOW_LEAD when LEAD fell below its threshold inside a page, READY when the bar became ready during
a pause (R120, R127). -/
def State.linesChanged (was : Nat × Bool) (s : State) (n : Fin 32) : State :=
  let th := s.g (F.RSP_CFG_LOW_LEAD n)
  let s := s.setCauseIf ((s.bar n).inPage && decide (th ≤ was.1) && decide (s.leadLines n < th))
    (F.FPE_LCAUSE_LOW_LEAD n)
  s.setCauseIf (s.grid.paused && !was.2 && s.barReady n) (F.FPE_LCAUSE_READY n)

/-- Everything a tick does after its carry, in the order of R41 (`reentry`: the re-entry tick, at which
the pause ends, R129). -/
def State.tickBody (reentry : Bool) (isns : Vector (List (Nat × Rat)) 32) (s : State) : State :=
  let seen := s.linesSeen
  let s := s.usePriAtTick
  let s := allBars.foldl (fun s n => s.openTick isns[n] n) s
  let s := if reentry then allBars.foldl State.resumeBar s.endPause else s
  let s := s.selectionPhase.boundary
  let s := allBars.foldl State.strobeBar s
  let s := allBars.foldl (fun s n => ((s.buildFrames n).calTick n).feedBar n) s
  (allBars.foldl (fun s n => s.linesChanged (seen n) n) s).heldStopEnds

/-- LINE_TICK: the carry that is due, with the ISNS samples of the line that ends
at it, port by port: when each begins, in ns after the SY edge, and its current (R41; 08 R236). -/
def execLineTick (isns : Vector (List (Nat × Rat)) 32) (s : State) : Out :=
  .next (if s.tickDue then State.withPP (fun s => (s.carry.tickBody false isns).graceCheckMet) s else s)

/-! ## Status frames (R53-R58) -/

/-- A field of a status frame. -/
def srField (f : BitVec 128) (lo w : Nat) : Nat := f.toNat / 2 ^ lo % 2 ^ w

/-- The violation code of a status frame, 0 when it is valid (R54). -/
def State.srFault (s : State) (f : BitVec 128) : Nat :=
  if srField f 0 8 ≠ 0x5C then 1
  else if srField f 112 16 ≠ crc16 112 f.toNat then 2
  else if srField f 8 8 ≠ s.tick % 256 then 3
  else 0

/-- A discarded status frame (R54, R378). -/
def State.srDiscard (s : State) (n : Fin 32) (code : Nat) : State :=
  ((s.bump (F.FPE_SR_ERR_V n)).vlog (0x20 + n.val) code s.tick).modBar n fun b =>
    { b with et := { b.et with lineVoid := 0xFF } }

/-- Whether SEGSTAT says that the frame was not latched (R57). -/
def segNotLatched (st : Nat) : Bool := !st.testBit 0 || st.testBit 1 || st.testBit 3

/-- Mark a lane failed. -/
def State.markLane (s : State) (n : Fin 32) (lane : Nat) : State :=
  s.put ⟨A.FPE_LANE n, 4 + lane, 1⟩ 1

/-- No lane can serve segment `seg`: its lane is marked and NO_SPARE set. R58 names no LANE_FAIL, which R56 sets
with a fail-over; the model does not set it here (DESIGN CHOICE, log 18). -/
def State.noSpare (s : State) (n : Fin 32) (lane seg : Nat) : State :=
  ((s.markLane n lane).modBar n fun b => { b with unserved := b.unserved ++ [seg] }).setCause
    (F.FPE_FCAUSE_NO_SPARE n)

/-- A changed lane assignment: a segment whose lane changes is served again (R56, R59). -/
def State.assignD8 (s : State) (n : Fin 32) (seg : Nat) (en : Bool) : State :=
  let t := (s.put (F.FPE_LANE_SPARE_SEG n) seg).putb (F.FPE_LANE_SPARE_EN n) en
  t.modBar n fun b => { b with unserved := b.unserved.filter fun x => s.onD8 n x == t.onD8 n x }

/-- Whether D8 can take over a segment: unused, locked and not marked failed (R56, R58). -/
def State.spareFree (s : State) (n : Fin 32) (spareLock : Bool) : Bool :=
  !s.bit (F.FPE_LANE_SPARE_EN n) && spareLock && !s.bit ⟨A.FPE_LANE n, 12, 1⟩

/-- Segment `seg` has failed on the lane that carried its frame: D8 takes it over, or no spare exists.
A report on a lane that no longer carries it changes nothing (R56, R58). -/
def State.segFailed (s : State) (n : Fin 32) (seg : Nat) (onSpare spareLock : Bool) : State :=
  if onSpare != s.onD8 n seg then s
  else if !onSpare && s.spareFree n spareLock then
    ((s.markLane n seg).assignD8 n seg true).setCause (F.FPE_FCAUSE_LANE_FAIL n)
  else if (s.bar n).unserved.contains seg then s
  else s.noSpare n (if onSpare then 8 else seg) seg

/-- Whether a frame carried segment `seg` on D8. -/
def LineFrame.spare (f : Option LineFrame) (seg : Nat) : Bool :=
  match f with
  | some l => match l.segs[seg]? with | some x => x.onSpare | none => false
  | none => false

/-- A lost segment frame of an index (R57): in leader mode it asks for a stop, also when its page has ended
(R124), and waits to be reprinted; in follower mode the page carries LANE_LOST. -/
def State.lostFrame (s : State) (n : Fin 32) (i : FrameIdx) (seg : Nat) : State :=
  let s := (s.bump (F.FPE_LOST_LINES_V n)).amendRecord n i.page fun r =>
    { r.markIf (!s.leader) .laneLost with lost := r.lost + 1 }
  let here := match (s.bar n).page with | some p => p.desc.serial == i.page | none => false
  if !s.leader then s
  else
    let s := if here then s.modPage n fun p => { p with lost := p.lost ++ [(i.idx, seg)] } else s
    let s := s.stopRequest (s.tick + 1)
    if s.grid.paused && here then s.resumeRecord n else s

/-- SEGSTAT of one segment: what is not latched voids a test line (08 R236), and of a fitted segment its loss and
its lane are handled (R56-R58). -/
def State.segReport (s : State) (n : Fin 32) (seg st : Nat) (spareLock : Bool) : State :=
  let miss := segNotLatched st
  let s := if miss then s.modBar n fun b => { b with et := { b.et with lineVoid := b.et.lineVoid ||| 2 ^ seg } } else s
  if !st.testBit 5 then s
  else
    let b := s.bar n
    let perr := st.testBit 2
    let was := b.latched.any fun f => s.unservedIn n f seg
    let s := if (miss || perr) && s.bit (F.FPE_CTL_AUTO n) then
        s.segFailed n seg (LineFrame.spare (if miss then b.latched else b.previous) seg) spareLock
      else s
    let s := match miss, b.latched with
      | true, some f => match f.prints seg, f.idx with
        | true, some i =>
          if was then s
          else if (s.bar n).unserved.contains seg then s.unservedLine n i.page
          else s.lostFrame n i seg
        | _, _ => s
      | _, _ => s
    match perr, b.previous with
    | true, some f => match f.prints seg && !f.unserved.contains seg, f.idx with
      | true, some i =>
        (s.bump (F.FPE_CORRUPT_LINES_V n)).amendRecord n i.page (·.mark .corrupt)
      | _, _ => s
    | _, _ => s

/-- A valid status frame is taken (R54, R56-R58). -/
def State.srTake (s : State) (n : Fin 32) (f : BitVec 128) : State :=
  let s := s.modBar n fun b => { b with srOk := true }
  let s := (s.put (F.FPE_SR_SEGLO_V n) (srField f 16 32)).put (F.FPE_SR_SEGHI_V n) (srField f 48 32)
  let s := s.put (F.FPE_SR_HEAD_V n) (srField f 80 32)
  let lock := f.getLsbD 80
  let s := if !lock && !s.bit (F.FPE_LANE_SPARE_EN n) then s.markLane n 8 else s
  (List.range 8).foldl (fun s seg => s.segReport n seg (srField f (16 + 8 * seg) 8) lock) s

/-- STATUS_FRAME: the status frame of the last tick on port `n`, one a tick; a page that ended at that tick
has its record written once the frame has been taken; a lost frame it reports can make the bar ready (R53, R54,
R66, R127). -/
def execStatusFrame (n : Fin 32) (f : BitVec 128) (s : State) : Out :=
  if s.seqRun || !s.up (barDomain n) || !s.grid.ticked || (s.bar n).srTaken then .next s
  else
    let s := s.modBar n fun b => { b with srTaken := true }
    let c := s.srFault f
    .next ((if c ≠ 0 then s.srDiscard n c else State.watchLines n (fun s => s.srTake n f) s).closePage n)

/-- STATUS_LOST: MISS_LIMIT consecutive ticks have brought no valid status frame (R54). -/
def execStatusLost (n : Fin 32) (s : State) : Out :=
  .next (s.setCauseIf (decide (s.g (F.FPE_SR_CFG_V n) ≤ (s.bar n).srMiss)) (F.FPE_FCAUSE_STATUS_LOST n))

/-- A write of SPARE_SEG and SPARE_EN (R59). -/
def State.spareLane (s : State) (n : Fin 32) (seg : Fin 8) (en : Bool) : State := s.assignD8 n seg en

/-- SPARE_LANE_WRITE (R59). -/
def execSpareLaneWrite (n : Fin 32) (seg : Fin 8) (en : Bool) (s : State) : Out :=
  .next (s.atBlock (A.FPE_CTL n) fun s => s.spareLane n seg en)

end Sys2Proof.Machine
end

