-- ==== Sys2Proof/Machine/Transport.lean ====
section
/-!
DEFINITION. The transport unit: load points, the profile generator, the Pirouette with its laps and
re-entry, the drive fault and the stop request to the machine (06 R171-R195).
-/

namespace Sys2Proof.Machine

/-! ## States of the profile generator (Table 6.2) -/

/-- The states of Table 6.2. -/
inductive Gen where
  | idle | ramp | track | decel | reverse | wait | approach | settle | halt | fault
  deriving DecidableEq, Repr

/-- The code of a state. -/
def Gen.code : Gen → Nat
  | .idle => 0 | .ramp => 1 | .track => 2 | .decel => 3 | .reverse => 4 | .wait => 5
  | .approach => 6 | .settle => 7 | .halt => 8 | .fault => 9

/-- The state of a code. -/
def genOf (n : Nat) : Gen :=
  match n with
  | 0 => .idle | 1 => .ramp | 2 => .track | 3 => .decel | 4 => .reverse | 5 => .wait
  | 6 => .approach | 7 => .settle | 8 => .halt | _ => .fault

/-- The state of the generator. -/
def State.gen (s : State) : Gen := genOf (s.g F.XPT_STATUS_STATE)

/-- Enter a state of the generator. -/
def State.setGen (s : State) (g : Gen) : State := s.put F.XPT_STATUS_STATE g.code

/-- Change the transport unit. -/
def State.modXpt (s : State) (f : Xpt → Xpt) : State := { s with xpt := f s.xpt }

/-- The transport unit works: its domain is on and no reset sequence runs. -/
def State.xptLive (s : State) : Bool := !s.seqRun && s.up .pos

/-! ## Code (R174, R175) -/

/-- INVERT on a code (R174). -/
def invertCode (inv : Bool) (c : Int) : Int := if inv then (if c = -32768 then 32767 else -c) else c

/-- The new code before INVERT, and whether step 3 or 4 changed it (R175). -/
def State.newCode (s : State) : Int × Bool :=
  let u := s.xpt.uUsed
  let c := satS 16 ((s.xpt.vref * (s.g F.XPT_FF_V : Rat) / 2 ^ 24).floor + u)
  let slew : Int := s.g F.XPT_SLEW_V
  let c3 := if slew = 0 then c else clamp (s.xpt.prevCode - slew) (s.xpt.prevCode + slew) c
  let c4 := clamp (s.gi F.XPT_CLAMP_MIN) (s.gi F.XPT_CLAMP_MAX) c3
  (c4, decide (c3 ≠ c ∨ c4 ≠ c3))

/-- Form and load the code of a load point (R175). -/
def State.loadCode (s : State) : State :=
  if !s.leader || !s.xenLow then s.modXpt fun x => { x with prevCode := 0, pin := 0 }
  else
    let r := s.newCode
    let s := if r.2 then s.bump F.XPT_CLAMPED_V else s
    s.modXpt fun x => { x with prevCode := r.1, pin := invertCode (s.bit F.XPT_CFG_INVERT) r.1 }

/-! ## Ramps (R178, R179) -/

/-- A ramp step toward a target: ACC when the magnitude grows, DEC when it falls, never past the target
(R179). -/
def State.toward (s : State) (v target dt : Rat) : Rat :=
  let grows := decide (ratAbs v < ratAbs target) && decide (0 ≤ v * target)
  let step := (if grows then (s.g F.XPT_ACC_V : Rat) else (s.g F.XPT_DEC_V : Rat)) * dt
  if v < target then min target (v + step) else max target (v - step)

/-- v_ref takes a new value and Y its integral (R178). -/
def State.integrate (s : State) (v dt : Rat) : State :=
  s.modXpt fun x => { x with vref := v, y := x.y + (x.vref + v) / 2 * dt * 256 }

/-- v_ref takes a value and Y is PP (R178). -/
def State.followPP (s : State) (v : Rat) : State :=
  let pp := s.ppNow.1
  s.modXpt fun x => { x with vref := v, y := (pp : Rat) }

/-- The next speed of the back-up move, as a magnitude: the highest of rising at ACC up to VBACK,
staying, and falling at DEC from which DEC still ends the move within the distance left, in counts
(R187). -/
def State.backSpeed (s : State) (v left dt : Rat) : Rat :=
  let acc : Rat := s.g F.XPT_ACC_V
  let dec : Rat := s.g F.XPT_DEC_V
  let fitsIn := fun (w : Rat) => decide ((v + w) / 2 * dt + w * w / (2 * dec) ≤ left)
  let up := min (s.g F.XPT_VBACK_V : Rat) (v + acc * dt)
  if fitsIn up then up else if fitsIn v then v else max 0 (v - dec * dt)

/-- A load point in PIR_REVERSE (R187). -/
def State.reverseStep (s : State) (p : PirPlan) (dt : Rat) : State :=
  let rem := (p.pback - s.xpt.y) / 256
  let dir : Rat := if rem < 0 then -1 else 1
  let v := s.backSpeed (ratAbs s.xpt.vref) (ratAbs rem) dt
  let s := s.integrate (dir * v) dt
  if v = 0 then (s.modXpt fun x => { x with vref := 0, y := p.pback }).setGen .wait else s

/-! ## Pirouette (R186, R188-R190) -/

/-- Suppressed carries are given up: the accumulator stands as it went on adding (R190). -/
def State.cancelArmed (s : State) : State :=
  if !s.bit F.XPT_STATUS_ARMED then s
  else
    let e := (s.now - s.grid.accT) / gridCycle
    let s := { s with grid := { s.grid with
      acc := (s.grid.acc + e * s.freq) % 2 ^ 48, accT := s.grid.accT + e * gridCycle } }
    s.put F.XPT_STATUS_ARMED 0

/-- An unsettled approach: a lap, or after LAPS_MAX laps the approach is left for PIR_HALT (R189,
R190). -/
def State.unsettled (s : State) : State :=
  let s := s.cancelArmed
  let laps := s.g F.XPT_STATUS_LAP
  if laps < s.g F.XPT_CFG_LAPS_MAX then
    (((s.put F.XPT_STATUS_LAP (laps + 1)).bump F.XPT_LAPS_V).setCause F.XPT_CAUSE_PIR_LAP).setGen .decel
  else s.modXpt fun x => { x with unsettled := true }

/-- The generator gives up the approach (R190). -/
def State.pirHalt (s : State) : State :=
  let s := (s.modXpt fun x => { x with unsettled := false }).setGen .halt
  (s.setCause F.XPT_CAUSE_PIR_FAIL).latchXstop F.XPT_XSTOP_PIR_FAIL

/-- PIR_HALT (R190): an unsettled approach after LAPS_MAX laps. -/
def execPirHalt (s : State) : Out :=
  .next (if s.xptLive && s.gen == .settle && s.xpt.unsettled then s.pirHalt else s)

/-- The line period in seconds, from the live FREQ. -/
def State.linePeriod (s : State) : Rat := 2 ^ 48 / ((s.freq : Rat) * 1600000000)

/-- Whether the medium is settled at a load point (R188). -/
def State.settled (s : State) (p : PirPlan) : Bool :=
  let drift := ratAbs (s.axisV - s.vLine) * (p.j + 1) * s.linePeriod * 65536
  decide (s.xpt.errOk.length = 16) && s.xpt.errOk.all id && decide (drift ≤ 32 * (s.pitch : Rat))

/-- The settling test of a tick's load point in PIR_SETTLE (R188, R190). -/
def State.settleTest (s : State) (p : PirPlan) : State :=
  if s.ppNow.1 < p.pre - 2 * (s.pitch : Int) then s
  else if s.settled p then s.put F.XPT_STATUS_ARMED 1
  else s.unsettled

/-! ## Load point (R175-R179, R181, R183) -/

/-- Remember whether |e| is within ETOL at this load point (R188). -/
def State.noteError (s : State) : State :=
  let e := ratAbs ((s.ppNow.1 : Rat) - s.xpt.y)
  let ok := decide (e * 256 ≤ (s.g F.XPT_TOL_V : Rat) * (s.pitch : Rat))
  s.modXpt fun x => { x with errOk := (ok :: x.errOk).take 16 }

/-- The target of RAMP: v_line, or 0 after STOP (R180, R181). -/
def State.rampTarget (s : State) : Rat := if s.xpt.rampTo0 then 0 else s.vLine

/-- The generator reaches v_line in RAMP, or 0 after STOP (R180, R181). -/
def State.rampStep (s : State) (dt : Rat) : State :=
  let target := s.rampTarget
  let s := s.followPP (s.toward s.xpt.vref target dt)
  if s.xpt.vref ≠ target then s
  else if s.xpt.rampTo0 then s.setGen .idle
  else (s.setGen .track).setCause F.XPT_CAUSE_TRACK

/-- A pending STOP: RAMP with target 0 from the first load point at which no bar is inside a page; a ramp in
progress takes its step there toward the new target (R179, R181). -/
def State.stopRamp (s : State) (dt : Rat) : State :=
  let s' := s.modXpt fun x => { x with rampTo0 := true, stopReq := false }
  if s.gen = .track then (s'.followPP s.vLine).setGen .ramp else s'.rampStep dt

/-- A tick's load point in TRACK: Y moves by one pitch, but not at the re-entry tick (R178, R188). -/
def State.trackStep (s : State) (tick : Bool) : State :=
  let move := tick && s.xpt.trackTick != some s.tick
  s.modXpt fun x => { x with vref := s.vLine, y := if move then x.y + (s.pitch : Rat) else x.y }

/-- The profile generator at a load point of leader mode (R178-R190). -/
def State.profile (s : State) (tick : Bool) (dt : Rat) : State :=
  match s.gen, s.xpt.plan with
  | .idle, _ => s.followPP 0
  | .fault, _ => s.followPP 0
  | .ramp, _ => if s.xpt.stopReq && !s.anyInPage then s.stopRamp dt else s.rampStep dt
  | .track, _ => if s.xpt.stopReq && !s.anyInPage then s.stopRamp dt else s.trackStep tick
  | .decel, _ =>
    let s := s.integrate (s.toward s.xpt.vref 0 dt) dt
    if s.xpt.vref = 0 then s.setGen .reverse else s
  | .halt, _ => s.integrate (s.toward s.xpt.vref 0 dt) dt
  | .reverse, some p =>
    let s := s.reverseStep p dt
    if s.gen = .wait ∧ allBars.all s.barReady then s.setGen .approach else s
  | .wait, some p =>
    let s := s.modXpt fun x => { x with vref := 0, y := p.pback }
    if allBars.all s.barReady then s.setGen .approach else s
  | .approach, some _ =>
    let s := s.integrate (s.toward s.xpt.vref s.vLine dt) dt
    if s.xpt.vref = s.vLine then s.setGen .settle else s
  | .settle, some _ => s.integrate s.vLine dt
  | .reverse, none => s
  | .wait, none => s
  | .approach, none => s
  | .settle, none => s

/-- The load point of tick T + 1 of a stop: the Pirouette begins, after the load point's own step of RAMP or TRACK,
or the pause ends when no bar is inside a page any longer (R178, R179, R186). -/
def State.pirStart (s : State) (dt : Rat) : State :=
  let s := s.modXpt fun x => { x with pirDue := false }
  if !s.anyInPage then s.endPause.profile true dt
  else
    let track := s.gen == .track
    let s := s.planPir s.xpt.ps
    let s := if track then
        s.modXpt fun x => { x with vref := s.vLine, y := x.y + (s.pitch : Rat) }
      else s.followPP (s.toward s.xpt.vref s.rampTarget dt)
    s.setGen .decel

/-- The settling test of a tick's load point, when no re-entry is armed (R188). -/
def State.approachTest (s : State) (tick : Bool) : State :=
  match s.xpt.plan with
  | some p =>
    if tick && s.gen == .settle && !s.bit F.XPT_STATUS_ARMED && !s.xpt.unsettled then s.settleTest p else s
  | none => s

/-- The pause ends once no bar is inside a page: in PIR_HALT and FAULT (R191), and in IDLE, RAMP or TRACK when no
Pirouette is due, where the stop request began none (R132, R186; the state after a loss of PD_POS and the one after
a START whose EN_DELAY ran are DESIGN CHOICE, logs 29, 30). -/
def State.pauseOver (s : State) : State :=
  if !s.grid.paused || s.anyInPage then s
  else match s.gen with
    | .halt => s.endPause.setGen .idle
    | .fault | .idle => s.endPause
    | .ramp | .track => if s.xpt.pirDue then s else s.endPause
    | .decel | .reverse | .wait | .approach | .settle => s

/-- The generator at a load point (R172, R178, R186). -/
def State.genStep (s : State) (tick : Bool) (dt : Rat) : State :=
  if !s.leader then (s.followPP 0).pauseOver
  else
    let s := if tick && s.xpt.pirDue && s.grid.posFree then s.pirStart dt else s.profile tick dt
    (s.noteError.approachTest tick).pauseOver

/-- The last write of U takes effect for load points in a later POS cycle than its own (R177). -/
def State.settleU (s : State) : State :=
  match s.xpt.uPend with
  | some (t, v) =>
    if t / posCycle < s.now / posCycle then s.modXpt fun x => { x with uUsed := v, uPend := none, uWritten := true }
    else s
  | none => s

/-- A write of XPT_U commits (R177). -/
def State.writeU (s : State) (v : Int) : State := s.settleU.modXpt fun x => { x with uPend := some (s.now, v) }

/-- U is taken, or the load point is stale (R177). -/
def State.takeU (s : State) : State :=
  let s := s.settleU
  if s.xpt.uWritten then s.modXpt fun x => { x with uWritten := false, staleRun := 0 }
  else
    let count := s.leader && s.gen != .idle
    (s.bump F.XPT_STALE_V).modXpt fun x => { x with staleRun := if count then x.staleRun + 1 else 0 }

/-- |v| against XPT_VMAX at a load point of leader mode (R183). -/
def State.noteSpeed (s : State) : State :=
  let tooFast := s.leader && decide ((s.g F.XPT_VMAX_V : Rat) < ratAbs s.axisV)
  s.modXpt fun x => { x with overRun := if tooFast then x.overRun + 1 else 0 }

/-- The servo sample of a load point, and event 0x25 (R176, R195). -/
def State.servoSample (s : State) (tick : Bool) : State :=
  let pp := s.ppNow.1
  let y := s.xpt.y.floor
  let e := satS 32 ((pp : Rat) - s.xpt.y).floor
  let s := s.put F.XPT_S_TICK_V (if tick then s.tick else 0)
  let s := (s.put48 F.XPT_S_Y_LO_V F.XPT_S_Y_HI_V y).put F.XPT_S_ERR_V (unsigned 32 e)
  let s := (s.put F.XPT_S_V_V (speedWord s.axisV)).put F.XPT_S_VREF_V (speedWord s.xpt.vref)
  let s := (s.put F.XPT_S_CODE_CODE (unsigned 16 s.xpt.pin)).putb F.XPT_S_CODE_VALID s.axisValid
  (s.put48 F.XPT_S_PP_LO_V F.XPT_S_PP_HI_V pp).raiseEvent 0x25

/-- Whether the load point of the last tick is due. A stop of the grid that takes effect at a tick leaves that
tick its load point (R36, R175). -/
def State.tickLoad (s : State) : Bool :=
  s.grid.ticked && s.xpt.loadTick != some s.tick && (s.bit F.GRID_CTL_RUN || decide (s.now < s.grid.tickT + us 1))

/-- Whether a load point is due: one for each tick while RUN is 1, one every 10 us while it is 0
(R175). -/
def State.loadDue (s : State) : Bool :=
  s.xptLive && (s.tickLoad || (!s.bit F.GRID_CTL_RUN && decide (s.xpt.lastLoad + us 10 ≤ s.now)))

/-- A load point (R175-R190). The generator steps first; the code and the sample take the v_ref and Y it leaves
(DEDUCED, log 29). -/
def State.loadPoint (s : State) : State :=
  let tick := s.tickLoad
  let dt := seconds (s.now - s.xpt.lastLoad)
  let s := s.takeU.noteSpeed.genStep tick dt
  let s := s.loadCode.servoSample tick
  s.modXpt fun x => { x with lastLoad := s.now, loadTick := if tick then some s.tick else x.loadTick }

/-- LOAD_POINT (R175). -/
def execLoadPoint (s : State) : Out :=
  .next (if s.loadDue then State.withPP State.loadPoint s else s)

/-- SERVO_STALE: CMD_TMO consecutive load points were stale outside IDLE (R177). -/
def execServoStale (s : State) : Out :=
  .next (if s.leader && decide (s.g F.XPT_CFG_CMD_TMO ≤ s.xpt.staleRun) then
    (s.setCause F.XPT_CAUSE_SERVO_STALE).latchXstop F.XPT_XSTOP_SERVO_STALE else s)

/-- OVERSPEED: |v| was above XPT_VMAX at two consecutive load points (R183). -/
def execOverspeed (s : State) : Out :=
  .next (if s.leader && decide (2 ≤ s.xpt.overRun) then
    (s.setCause F.XPT_CAUSE_OVERSPEED).latchXstop F.XPT_XSTOP_OVERSPEED else s)

/-! ## Re-entry (R188, R189) -/

/-- The re-entry tick: the accumulator is set to 0, the bars resume, the generator enters TRACK with
Y = P_re (R129, R188). -/
def State.reenter (s : State) (p : PirPlan) (isns : Vector (List (Nat × Rat)) 32) : State :=
  let s := { s with grid := { s.grid with
    acc := 0, accT := s.now, tickT := s.now, ticked := true, ticks := s.grid.ticks + 1 } }
  let s := (s.put F.GRID_TICK_V s.tick).put F.XPT_STATUS_ARMED 0
  let s := (s.setGen .track).modXpt fun x =>
    { x with y := (p.pre : Rat), vref := s.vLine, trackTick := some s.tick }
  let s := ((s.put F.XPT_STATUS_LAP 0).setCause F.XPT_CAUSE_PIR_REENTRY).setCause F.XPT_CAUSE_TRACK
  s.tickBody true isns

/-- REENTRY_TICK: the interpolated PP reaches P_re while re-entry is armed; sooner than one schedule
period after the preceding tick it is a lap (R188, R189). None comes during a state entry (16 R456). -/
def execReentryTick (isns : Vector (List (Nat × Rat)) 32) (s : State) : Out :=
  match s.xpt.plan with
  | some p =>
    if !s.xptLive || !s.up .core || !s.bit F.XPT_STATUS_ARMED || s.entryRuns || decide (s.ppNow.1 < p.pre) then .next s
    else if s.now < s.grid.tickT + periodOf s.freq * gridCycle then .next s.unsettled
    else .next (State.withPP (fun s => s.reenter p isns) s)
  | none => .next s

/-! ## Commands (R171, R180, R181, R184, R185, R191) -/

/-- XEN_N goes high and the code to 0. The next load point takes this 0 as its previous loaded code, also when the
drive is enabled again before it (R175; DESIGN CHOICE, log 29). -/
def State.xenHigh (s : State) : State :=
  (s.put F.XPT_STATUS_XEN 0).modXpt fun x => { x with prevCode := 0, pin := 0, enable := none }

/-- A write of XPT_CFG.MODE (R171, R172). -/
def State.modeWrite (s : State) (leader : Bool) : State :=
  if leader == s.leader then s
  else if s.anyInside || s.gen != .idle then s.setCause F.XPT_CAUSE_MODE_REFUSED
  else if leader then s.put F.XPT_CFG_MODE 1
  else (s.put F.XPT_CFG_MODE 0).xenHigh

/-- XPT_MODE_WRITE (R171). -/
def execXptModeWrite (leader : Bool) (s : State) : Out :=
  .next (s.atBlock A.XPT_CFG fun s => s.modeWrite leader)

/-- XEN_N goes low and EN_DELAY starts; one that runs goes on (R180, R191). -/
def State.enableDrive (s : State) (next : AfterEnable) : State :=
  let t := s.now + us (s.g F.XPT_TIMING_EN_DELAY)
  (s.put F.XPT_STATUS_XEN 1).modXpt fun x => { x with enable := some (x.enable.getD (t, next)) }

/-- Whether START may be taken (R180). -/
def State.startOk (s : State) : Bool :=
  s.leader && (s.gen == .idle || s.gen == .fault) && !s.bit F.XPT_STATUS_XFLT
    && decide (s.vLine ≤ (s.g F.XPT_VMAX_V : Rat)) && !s.grid.paused

/-- A write of 1 to START: refused, or taken unless a power request holds it off (R180; 14 R405). -/
def State.startWrite (s : State) : State :=
  if s.startOk then s.unlessHeld s.holdsTransport fun s => s.enableDrive .ramp
  else s.setCause F.XPT_CAUSE_MODE_REFUSED

/-- XPT_START (R180). -/
def execXptStart (s : State) : Out := .next (s.atBlock A.XPT_CTL State.startWrite)

/-- EN_DELAY has passed: RAMP toward v_line, or PIR_REVERSE from the present position (R180, R191). It does so
also when bars have been paused or the pause has ended meanwhile, and PIR_REVERSE starts from v_ref 0 (DESIGN
CHOICE, log 30). -/
def State.enableDone (s : State) (next : AfterEnable) : State :=
  let s := s.modXpt fun x => { x with enable := none }
  match next, s.gen with
  | .ramp, .idle => (s.modXpt fun x => { x with rampTo0 := false, stopReq := false }).setGen .ramp
  | .ramp, .fault => (s.modXpt fun x => { x with rampTo0 := false, stopReq := false }).setGen .ramp
  | .reverse, .halt => ((s.followPP 0).put F.XPT_STATUS_LAP 0).setGen .reverse
  | .reverse, .fault => ((s.followPP 0).put F.XPT_STATUS_LAP 0).setGen .reverse
  | _, _ => s

/-- EN_DELAY_EXPIRY (R180, R191). -/
def execEnDelayExpiry (s : State) : Out :=
  match s.xpt.enable with
  | some (t, next) => .next (if s.xptLive && decide (t ≤ s.now) then s.enableDone next else s)
  | none => .next s

/-- A write of 1 to STOP (R181). -/
def State.stopWrite (s : State) : State :=
  if s.gen = .ramp ∨ s.gen = .track then s.modXpt fun x => { x with stopReq := true } else s

/-- XPT_STOP (R181). -/
def execXptStop (s : State) : Out := .next (s.atBlock A.XPT_CTL State.stopWrite)

/-- Whether PIR_RETRY has an effect (R172, R191). -/
def State.retryOk (s : State) : Bool :=
  s.leader && !s.bit F.XPT_STATUS_XFLT && (s.gen == .halt || (s.gen == .fault && s.grid.paused))

/-- PIR_RETRY is taken (R191). Before tick T + 1 of the stop there is no stop position to plan
from: the plan is made at that tick (DEDUCED, log 29). -/
def State.retryTaken (s : State) : State :=
  let s := if s.xpt.plan.isNone && s.grid.posFree then s.planPir s.xpt.ps else s
  s.enableDrive .reverse

/-- A write of 1 to PIR_RETRY: no effect, or taken unless a power request holds it off (R191; 14 R405). -/
def State.retryWrite (s : State) : State :=
  if s.retryOk then s.unlessHeld s.holdsTransport State.retryTaken else s

/-- PIR_RETRY (R191). -/
def execPirRetry (s : State) : Out := .next (s.atBlock A.XPT_CTL State.retryWrite)

/-- A write of SWSTOP (R184). -/
def State.swstopWrite (s : State) (on : Bool) : State := (s.putb F.XPT_CTL_SWSTOP on).xstopEval

/-- SWSTOP (R184). -/
def execSwstop (on : Bool) (s : State) : Out :=
  .next (s.atBlock A.XPT_CTL fun s => s.swstopWrite on)

/-- XSTOP_RELEASE: no latch and no SWSTOP remain, and XSTOP_MIN has passed (R184). -/
def execXstopRelease (s : State) : Out :=
  let free := (s.reg A.XPT_XSTOP).toNat == 0 && !s.bit F.XPT_CTL_SWSTOP
    && decide (s.xpt.xstopSince + us (s.g F.XPT_TIMING_XSTOP_MIN) ≤ s.now)
  .next (if free then s.put F.XPT_STATUS_XSTOP 0 else s)

/-- The drive is given up: code 0, XEN_N high, FAULT; a Pirouette in progress or due ends, and an armed re-entry
is cancelled (R185, R190, R194). -/
def State.enterFault (s : State) : State :=
  (s.cancelArmed.xenHigh.setGen .fault).modXpt fun x => { x with vref := 0, unsettled := false, pirDue := false }

/-- A forced power-down of PD_POS or PD_ANA: the generator enters FAULT in leader mode; in follower mode, which
has XEN_N high and code 0 already, it stays in IDLE (R172, R194; DEDUCED, log 29). -/
def State.forceDrive (s : State) : State := if s.leader then s.enterFault else s.xenHigh

/-- XFLT_N is accepted as low (R185). -/
def State.driveFault (s : State) : State :=
  let s := (s.put F.XPT_STATUS_XFLT 1).setCause F.XPT_CAUSE_DRIVE_FLT
  if !s.leader then s
  else
    s.enterFault.latchXstop F.XPT_XSTOP_DRIVE_FLT

/-- The level of XFLT_N as its wake detector has it (14 R409). -/
def State.xfltLevel (s : State) (low : Bool) : State := { s with power := { s.power with xfltLow := low } }

/-- DRIVE_FAULT (R185). -/
def execDriveFault (s : State) : Out :=
  let s := s.xfltLevel true
  .next (if s.xptLive && !s.bit F.XPT_STATUS_XFLT then s.driveFault else s)

/-- XFLT_ACCEPTED_HIGH (R185). -/
def execXfltAcceptedHigh (s : State) : Out :=
  let s := s.xfltLevel false
  .next (if s.xptLive then s.put F.XPT_STATUS_XFLT 0 else s)

end Sys2Proof.Machine
end

