-- ==== Sys2Proof/Machine/Thermal.lean ====
section
/-!
DEFINITION. The thermal unit: conversion of readings, sensor checks, failure, substitutes, recovery,
freezes, limits and throttle stages (08 R238-R252, R480).
-/

namespace Sys2Proof.Machine

/-! ## Conversion (R239) -/

/-- One, in the fixed-point format of the logarithm: 110 fraction bits. -/
def lnOne : Nat := 2 ^ 110

/-- 2 * artanh(z) by its series for 0 <= z <= 1/3, in fixed point: `k` terms from the term of odd
number `j` and power `p` of z. -/
def lnSeries (z2 : Nat) : Nat → Nat → Nat → Nat
  | 0, _, _ => 0
  | k + 1, j, p => 2 * p / j + lnSeries z2 k (j + 2) (p * z2 / lnOne)

/-- ln(num / den) of a ratio in [1, 2), in fixed point. -/
def lnMantissa (num den : Nat) : Nat :=
  let z := (num - den) * lnOne / (num + den)
  lnSeries (z * z / lnOne) 40 1 z

/-- ln 2 in fixed point. -/
def ln2 : Nat := lnMantissa 2 1

/-- ln(num / den) of positive numbers, with an error below 2^-96 for ratios of 64-bit numbers: num /
den is m * 2^k with m in [1, 2). -/
def lnRatio (num den : Nat) : Rat :=
  let k : Int := (Nat.log2 num : Int) - Nat.log2 den
  let (a, b) := if 0 ≤ k then (num, den * 2 ^ k.toNat) else (num * 2 ^ (-k).toNat, den)
  let (a, b, k) := if a < b then (2 * a, b, k - 1) else (a, b, k)
  (((lnMantissa a b : Int) + k * ln2 : Int) : Rat) / (lnOne : Rat)

/-- A temperature in kelvin as reported: 1/64 degC, nearest with halves upward, saturated (R239). -/
def reportKelvin (t : Rat) : Int := satS 16 ((64 * (t - 27315 / 100) + (1 / 2 : Rat)).floor)

/-- A diode's temperature from two voltages in nV (R239); none when NF is 0. -/
def diodeTemp (nf v10 v160 : Nat) : Option Int :=
  if nf = 0 then none
  else some (reportKelvin ((((v160 : Int) - v10 : Int) : Rat) * 8192 / ((nf : Rat) * 238920)))

/-- The bias in uA of an IB code (R239). -/
def biasUa : Nat → Nat
  | 0 => 1 | 1 => 10 | _ => 100

/-- A thermistor's temperature from its voltage in nV at a bias in uA (R239); none where the formula
has no value. -/
def thermistorTemp (b rnom ua v : Nat) : Option Int :=
  if b = 0 ∨ rnom = 0 ∨ v = 0 then none
  else
    let inv : Rat := 100 / 29815 + lnRatio v (rnom * ua * 1000) / (b : Rat)
    if 0 < inv then some (reportKelvin (1 / inv)) else none

/-! ## Channels (R238) -/

/-- Whether a channel is a board channel. -/
def isBoard (ch : Nat) : Bool := decide (256 ≤ ch)

/-- Whether a channel is enabled in CHEN. -/
def State.chEn (s : State) (ch : Nat) : Bool :=
  if isBoard ch then (s.g F.THM_BRD_CFG_CHEN).testBit (ch - 256)
  else (s.g (F.THM_Pp_CFG_CHEN (ch / 8))).testBit (ch % 8)

/-- Whether a channel is healthy: enabled and not failed (R244, R480). -/
def State.healthy (s : State) (ch : Nat) : Bool := s.chEn ch && !s.bit (F.THM_Sch_FAILED ch)

/-- What an enabled channel reports: a reading or substitute; none with VALID 0. -/
def State.report (s : State) (ch : Nat) : Option Int :=
  if s.chEn ch && s.bit (F.THM_Sch_VALID ch) then some (s.gi (F.THM_Tch_T ch)) else none

/-- The reading of a healthy channel. -/
def State.goodReading (s : State) (ch : Nat) : Option Int :=
  if s.healthy ch then s.report ch else none

/-- The segment channels of a port. -/
def portChans (p : Nat) : List Nat := (List.range 8).map fun i => 8 * p + i

/-- The state of a channel. -/
def State.thc (s : State) (ch : Fin 260) : ThmChan := s.thm.chans[ch]

/-- Change the state of a channel. -/
def State.modThc (s : State) (ch : Fin 260) (f : ThmChan → ThmChan) : State :=
  { s with thm := { s.thm with chans := s.thm.chans.set ch (f (s.thc ch)) } }

/-- Change the throttling of a bar. -/
def State.modThb (s : State) (n : Fin 32) (f : ThmBar → ThmBar) : State :=
  { s with thm := { s.thm with bars := s.thm.bars.set n (f s.thm.bars[n]) } }

/-- A channel's conversion; a free value where its formula has none. -/
def State.convert (s : State) (ch v10 v160 : Nat) : Int :=
  let r :=
    if isBoard ch then
      if (s.g F.THM_BRD_CFG_MODE).testBit (ch - 256) then
        thermistorTemp (s.g F.THM_BRD_B_V) (s.g F.THM_BRD_RNOM_V) (biasUa (s.g F.THM_BRD_CFG_IB)) v160
      else diodeTemp (s.g F.THM_BRD_NF_V) v10 v160
    else
      let p := ch / 8
      if s.bit (F.THM_Pp_CFG_MODE p) then
        thermistorTemp (s.g (F.THM_Pp_B_V p)) (s.g (F.THM_Pp_RNOM_V p)) (biasUa (s.g (F.THM_Pp_CFG_IB p))) v160
      else diodeTemp (s.g (F.THM_Pp_NF_V p)) v10 v160
  r.getD (Config.openTemperature ch v10 v160).toInt

/-- Whether a channel reads a thermistor, and its bias in uA. -/
def State.thermistor (s : State) (ch : Nat) : Option Nat :=
  if isBoard ch then
    if (s.g F.THM_BRD_CFG_MODE).testBit (ch - 256) then some (biasUa (s.g F.THM_BRD_CFG_IB)) else none
  else if s.bit (F.THM_Pp_CFG_MODE (ch / 8)) then some (biasUa (s.g (F.THM_Pp_CFG_IB (ch / 8)))) else none

/-- OPEN of a reading (Table 8.4). -/
def State.showsOpen (s : State) (ch v160 : Nat) : Bool :=
  match s.thermistor ch with
  | some _ => decide (1600000000 < v160)
  | none => decide (1200000000 < v160)

/-- SHORT of a reading (Table 8.4). -/
def State.showsShort (s : State) (ch v10 v160 : Nat) : Bool :=
  match s.thermistor ch with
  | some ua => decide (v160 < 20 * ua * 1000)
  | none => decide (v10 < 100000000)

/-- The healthy enabled neighbours' readings (Table 8.4, NDIS). -/
def State.neighbours (s : State) (ch : Nat) : List Int :=
  if isBoard ch then []
  else
    let lo := if 1 ≤ ch % 8 then (s.goodReading (ch - 1)).toList else []
    let hi := if ch % 8 ≤ 6 then (s.goodReading (ch + 1)).toList else []
    lo ++ hi

/-- Whether a reading differs by more than NDIFF K from the mean of its neighbours. -/
def State.showsNdis (s : State) (ch : Nat) (t : Int) : Bool :=
  let ns := s.neighbours ch
  let sum := ns.foldl (· + ·) 0
  !ns.isEmpty && decide (64 * (s.g F.THM_SENS_NDIFF * ns.length : Nat) < (t * ns.length - sum).natAbs)

/-! ## Rate of rise (R240) -/

/-- The rate of a full window, oldest first, in mK/ms. -/
def rateOf (w : List Int) : Int :=
  let sum : Int := (List.range 8).foldl (fun (a : Int) (i : Nat) => a + (2 * (i : Int) - 7) * w.getD i 0) 0
  Int.tdiv (sum * 625) 336

/-- The mean of readings, rounded as readings are (R239). -/
def meanOf (ts : List Int) : Int :=
  if ts.isEmpty then 0
  else (((ts.foldl (· + ·) 0 : Int) : Rat) / (ts.length : Rat) + (1 / 2 : Rat)).floor

/-! ## Throttle stages (R244-R251, Table 8.5) -/

/-- Whether a bar has no sensor: enabled, and without a healthy enabled segment channel (R245). -/
def State.noSensor (s : State) (n : Fin 32) : Bool :=
  s.bit (F.FPE_CTL_EN n) && !(portChans n).any s.healthy

/-- Whether a healthy channel has a valid rate at or above a limit. -/
def State.rateAtLeast (s : State) (ch : Nat) (lim : Nat) : Bool :=
  s.healthy ch && s.bit (F.THM_Sch_RATE_VALID ch) && decide ((lim : Int) ≤ s.gi (F.THM_RATEch_V ch))

/-- Whether an enabled channel reports at or above a limit. -/
def State.tempAtLeast (s : State) (ch : Nat) (lim : Int) : Bool :=
  match s.report ch with
  | some t => decide (lim ≤ t)
  | none => false

/-- The warn condition of a bar (R246). -/
def State.warnHolds (s : State) (n : Fin 32) : Bool :=
  (portChans n).any fun ch =>
    s.rateAtLeast ch (s.g F.THM_RATE_LIM_RWARN) || s.tempAtLeast ch (s.gi F.THM_TEMP_LIM_TWARN)

/-- The trip of a bar; the monitors run while THM_CTL.EN is 1 (R246, R251). -/
def State.tripHolds (s : State) (n : Fin 32) : Bool :=
  (s.bit F.THM_CTL_EN && (portChans n).any fun ch =>
    s.rateAtLeast ch (s.g F.THM_RATE_LIM_RTRIP) || s.tempAtLeast ch (s.gi F.THM_TEMP_LIM_CEIL))
    || s.noSensor n || s.thm.boardTrip

/-- Whether a bar is frozen. -/
def State.frozen (s : State) (n : Fin 32) : Bool := s.bit ⟨A.THM_FROZEN, n, 1⟩

/-- Whether a bar is warn-active. -/
def State.warnActive (s : State) (n : Fin 32) : Bool := s.bit ⟨A.THM_WARN, n, 1⟩

/-- A bar leaves stage 2: a reduction due for it lapses (R249). -/
def State.lapse (s : State) (n : Fin 32) : State := s.modThb n fun b => { b with redDue := false, redT := none }

/-- Stage 1 (Table 8.5). -/
def State.enterStage1 (s : State) (n : Fin 32) : State :=
  ((s.setStage n 1).bump F.THM_WARNS_V).setCause F.THM_CAUSE_WARN

/-- Stage 2: a reduction falls due; in follower mode the machine is asked to slow down (Table 8.5, R249,
Table 6.3). -/
def State.enterStage2 (s : State) (n : Fin 32) : State :=
  let s := ((s.setStage n 2).bump F.THM_STAGE2S_V).setCause F.THM_CAUSE_STAGE2
  let s := s.modThb n fun b => { b with redDue := true, redT := none }
  if s.leader then s else s.latchXstop F.XPT_XSTOP_THERMAL

/-- Stage 3: the port is killed (Table 8.5, R61). -/
def State.enterStage3 (s : State) (n : Fin 32) : State :=
  let s := (((s.lapse n).setStage n 3).put ⟨A.THM_TRIPPED, n, 1⟩ 1).bump F.THM_TRIPS_V
  (s.setCause F.THM_CAUSE_TRIP).tripKill n

/-- The fall to stage 0 of a bar that is not frozen (Table 8.5). -/
def State.enterStage0 (s : State) (n : Fin 32) : State :=
  ((s.lapse n).setStage n 0).setCause F.THM_CAUSE_CLEARED

/-- The trip of a bar is evaluated, with its no-sensor part, while PD_ANA is on (R245, R246). -/
def State.tripEval (s : State) (n : Fin 32) : State :=
  if !s.up .ana then s
  else
  let ns := s.noSensor n
  let s := (s.setCauseIf (ns && !s.bit ⟨A.THM_NOSENS, n, 1⟩) F.THM_SCAUSE_NO_SENSOR).putb ⟨A.THM_NOSENS, n, 1⟩ ns
  let t := s.tripHolds n
  let s := s.modThb n fun b => { b with trip := t }
  if t && decide (s.stage n < 3) then s.enterStage3 n else s

/-- The trips of all bars are evaluated, where their ports' EN or channels may have changed (R245). -/
def State.tripAll (s : State) : State := allBars.foldl (fun s n => s.tripEval n) s

/-- Whether the warn condition has held at every reading for PERSIST ms. -/
def State.persisted (s : State) (n : Fin 32) : Bool :=
  match (s.thm.bars[n]).heldSince with
  | some t => decide (t + ms (s.g F.THM_CFG_PERSIST) ≤ s.now)
  | none => false

/-- Whether the warn condition has been false at every reading for CLEAR ms. -/
def State.cooled (s : State) (n : Fin 32) : Bool :=
  match (s.thm.bars[n]).falseSince with
  | some t => decide (t + ms (s.g F.THM_CFG_CLEAR) ≤ s.now)
  | none => false

/-- Whether stage 2 falls due (Table 8.5). -/
def State.stage2Due (s : State) (n : Fin 32) : Bool := s.stage n == 1 && s.persisted n

/-- Whether a further reduction falls due (R250). -/
def State.furtherDue (s : State) (n : Fin 32) : Bool :=
  let b := s.thm.bars[n]
  s.stage n == 2 && !b.redDue && s.persisted n
    && (match b.redT with
        | some t => decide (t + ms (s.g F.THM_CFG_PERSIST) ≤ s.now)
        | none => false)

/-- A further reduction falls due (R250). -/
def State.furtherReduction (s : State) (n : Fin 32) : State :=
  s.modThb n fun b => { b with redDue := true, redT := none }

/-- Warn-active clears, and an unfrozen bar in stage 1 or 2 falls to stage 0 (R247). -/
def State.warnClear (s : State) (n : Fin 32) : State :=
  let s := s.put ⟨A.THM_WARN, n, 1⟩ 0
  if (s.stage n == 1 || s.stage n == 2) && !s.frozen n then s.enterStage0 n else s

/-- Whether warn-active clears now, or has cleared and only a freeze held the stage (R247). -/
def State.coolDue (s : State) (n : Fin 32) : Bool :=
  (s.warnActive n && s.cooled n)
    || (!s.warnActive n && (s.stage n == 1 || s.stage n == 2) && !s.frozen n)

/-- The warn condition of a bar at a reading: its clocks, warn-active, and the stage (R247). -/
def State.warnEval (s : State) (n : Fin 32) : State :=
  let w := s.warnHolds n
  let s := s.modThb n fun b => { b with
    heldSince := if w then some (b.heldSince.getD s.now) else none
    falseSince := if w then none else some (b.falseSince.getD s.now) }
  let s := if w then s.put ⟨A.THM_WARN, n, 1⟩ 1 else s
  if w && s.stage n == 0 then s.enterStage1 n
  else if s.stage2Due n then s.enterStage2 n
  else if s.furtherDue n then s.furtherReduction n
  else if s.coolDue n then s.warnClear n
  else s

/-- The monitors of a bar at a reading of one of its channels (R246, R247): the trip first, since a
rise applies before a fall. -/
def State.monitor (s : State) (n : Fin 32) : State :=
  let s := s.tripEval n
  if s.stage n == 3 then
    let w := s.warnHolds n
    (s.modThb n fun b => { b with
      heldSince := if w then some (b.heldSince.getD s.now) else none
      falseSince := if w then none else some (b.falseSince.getD s.now) }).putb ⟨A.THM_WARN, n, 1⟩
        (w || (s.warnActive n && !s.cooled n))
  else s.warnEval n

/-- The board channels' limits (R251). -/
def State.boardMonitor (s : State) (ch : Nat) : State :=
  match s.goodReading ch with
  | none => s
  | some t =>
    s.setCauseIf (decide ((s.g F.THM_BOARD_LIM_BWARN : Int) ≤ t)) F.THM_CAUSE_BOARD_WARN

/-- Whether any board channel is at or above BTRIP (R251). -/
def State.boardHot (s : State) : Bool :=
  (List.range 4).any fun i => match s.goodReading (256 + i) with
    | some t => decide ((s.g F.THM_BOARD_LIM_BTRIP : Int) ≤ t)
    | none => false

/-- The board trip is evaluated: a trip of every bar (R251). -/
def State.boardEval (s : State) : State :=
  let hot := s.boardHot
  let s := (s.setCauseIf hot F.THM_CAUSE_BOARD_TRIP)
  let s := { s with thm := { s.thm with boardTrip := hot } }
  s.tripAll

/-! ## Failure, substitutes, recovery (R242-R244) -/

/-- Every failed enabled channel of a port reports the substitute: the highest healthy reading plus
10 K; a free value where there is none (R242). -/
def State.substitutes (s : State) (p : Nat) : State :=
  let best := (portChans p).foldl (fun (a : Option Int) ch =>
    match a, s.goodReading ch with
    | some x, some y => some (max x y)
    | none, y => y
    | x, none => x) none
  (portChans p).foldl (fun s ch =>
    if s.chEn ch && s.bit (F.THM_Sch_FAILED ch) then
      match best with
      | some t => (s.puti (F.THM_Tch_T ch) (satS 16 (t + 640))).put (F.THM_Sch_VALID ch) 1
      | none =>
        let (k, s) := s.draw
        (s.put (F.THM_Tch_T ch) (Config.emptySubstitute k).toNat).put (F.THM_Sch_VALID ch) 1
    else s) s

/-- The sensor conditions (Table 8.4). -/
inductive Sensor where
  | opened | short | jump | ndis
  deriving DecidableEq, Repr

/-- The condition bit of a channel. -/
def sensorBit (ch : Nat) : Sensor → Field
  | .opened => F.THM_Sch_OPEN ch | .short => F.THM_Sch_SHORT ch
  | .jump => F.THM_Sch_JUMP ch | .ndis => F.THM_Sch_NDIS ch

/-- The cause of a condition. -/
def sensorCause : Sensor → Field
  | .opened => F.THM_SCAUSE_OPEN | .short => F.THM_SCAUSE_SHORT
  | .jump => F.THM_SCAUSE_JUMP | .ndis => F.THM_SCAUSE_NDIS

/-- A failing channel freezes its bar when the bar's stage is 1 or higher and the channel's last
healthy reading was the bar's highest (R244). -/
def State.freezeIf (s : State) (ch : Nat) (last : Option Int) : State :=
  let p := ch / 8
  match last with
  | none => s
  | some t =>
    let highest := (portChans p).all fun c =>
      c == ch || (match s.goodReading c with | some x => decide (x ≤ t) | none => true)
    if highest && decide (1 ≤ s.stage p) then
      (s.put ⟨A.THM_FROZEN, p, 1⟩ 1).put (F.THM_Sch_FROZEN_SRC ch) 1
    else s

/-- A channel fails on a condition (R242, R244). -/
def State.failChannel (s : State) (ch : Fin 260) (c : Sensor) : State :=
  let last := s.goodReading ch
  let s := ((s.put (F.THM_Sch_FAILED ch) 1).put (sensorBit ch c) 1).setCause (sensorCause c)
  let s := (s.bump F.THM_SFAULTS_V).put (F.THM_Sch_RATE_VALID ch) 0
  let s := s.modThc ch fun x => { x with cleanRun := 0 }
  if isBoard ch then s.setCause F.THM_SCAUSE_BOARD_FAIL
  else
    let s := s.freezeIf ch last
    ((s.put (F.THM_Sch_SUBST ch) 1).setCause F.THM_SCAUSE_SUBST).substitutes (ch / 8)

/-- A failed channel becomes healthy again (R243). -/
def State.recoverChannel (s : State) (ch : Fin 260) : State :=
  let s := [F.THM_Sch_FAILED ch, F.THM_Sch_OPEN ch, F.THM_Sch_SHORT ch, F.THM_Sch_JUMP ch,
    F.THM_Sch_NDIS ch, F.THM_Sch_SUBST ch, F.THM_Sch_VALID ch, F.THM_Tch_T ch].foldl
      (fun (s : State) f => s.put f 0) s
  let s := s.modThc ch fun x => { x with win := [], cleanRun := 0 }
  s.setCause F.THM_SCAUSE_RECOVERED

/-- The condition whose count is met (Table 8.4). -/
def State.sensorDue (s : State) (ch : Fin 260) : Option Sensor :=
  let x := s.thc ch
  if 3 ≤ x.openRun then some .opened
  else if 3 ≤ x.shortRun then some .short
  else if x.jump then some .jump
  else match x.ndisSince with
    | some t => if t + ms (s.g F.THM_SENS_NTIME) ≤ s.now then some .ndis else none
    | none => none

/-- What a channel's counts make of it: a healthy channel fails, a failed one recovers (R242, R243). -/
def State.judge (s : State) (ch : Fin 260) : State :=
  if s.bit (F.THM_Sch_FAILED ch) then
    if 1000 ≤ (s.thc ch).cleanRun then s.recoverChannel ch else s
  else match s.sensorDue ch with
    | some c => s.failChannel ch c
    | none => s

/-- A reading that shows OPEN or SHORT: counted, not converted (R242). -/
def State.badReading (s : State) (ch : Fin 260) (o h : Bool) : State :=
  s.modThc ch fun x => { x with
    openRun := if o then x.openRun + 1 else 0
    shortRun := if h then x.shortRun + 1 else 0
    jump := false
    cleanRun := 0 }

/-- A converted reading's conditions and counts (Table 8.4). -/
def State.countReading (s : State) (ch : Fin 260) (t : Int) : State :=
  let nd := s.showsNdis ch t
  s.modThc ch fun x =>
    let j := match x.prev with | some p => decide (320 < (t - p).natAbs) | none => false
    { x with
      openRun := 0
      shortRun := 0
      jump := j
      prev := some t
      ndisSince := if nd then some (x.ndisSince.getD s.now) else none
      cleanRun := if j || nd then 0 else x.cleanRun + 1
      taken := (t :: x.taken).take 10 }

/-- A healthy channel reports a converted reading, with its rate once the window is full (R240). -/
def State.reportReading (s : State) (ch : Fin 260) (t : Int) : State :=
  let win := (t :: (s.thc ch).win).take 8
  let full := decide (8 ≤ win.length)
  let s := s.modThc ch fun x => { x with win := win }
  let s := (s.puti (F.THM_Tch_T ch) t).put (F.THM_Sch_VALID ch) 1
  (s.puti (F.THM_RATEch_V ch) (if full then rateOf win.reverse else 0)).putb (F.THM_Sch_RATE_VALID ch) full

/-- Whether a channel is failed before its reading. -/
def State.failed (s : State) (ch : Nat) : Bool := s.bit (F.THM_Sch_FAILED ch)

/-- A channel's reading, with its checks (R239-R243). A reading by which a failed channel recovers
is reported; the eight readings of its rate follow it. -/
def State.takeReading (s : State) (ch : Fin 260) (v10 v160 : Nat) : State :=
  let o := s.showsOpen ch v160
  let h := s.showsShort ch v10 v160
  if o || h then (s.badReading ch o h).judge ch
  else
    let t := s.convert ch v10 v160
    let was := s.failed ch
    let s := (s.countReading ch t).judge ch
    let s := s.puti (F.THM_Tch_AVG ch) (meanOf (s.thc ch).taken)
    if s.failed ch then s
    else if was then (s.puti (F.THM_Tch_T ch) t).put (F.THM_Sch_VALID ch) 1
    else s.reportReading ch t

/-- Whether the thermal unit runs. -/
def State.thmLive (s : State) : Bool := !s.seqRun && s.up .ana && s.bit F.THM_CTL_EN

/-- What follows a change of a channel: substitutes and monitors of its port, or the board limits. -/
def State.afterReading (s : State) (ch : Fin 260) : State :=
  if isBoard ch then (s.boardMonitor ch).boardEval
  else (s.substitutes (ch / 8)).monitor (Fin.ofNat 32 (ch / 8))

/-- THERMAL_READING (R238-R251): channel `ch` is read at the end of its slot: forward voltages at 10 uA
and at 160 uA of a diode, or the second alone as the voltage of a thermistor under its bias, in
nV as the trimmed front end measures them. A channel is read once in a scan frame. -/
def execThermalReading (ch : Fin 260) (v10 v160 : Nat) (s : State) : Out :=
  if !s.thmLive || !s.chEn ch || (s.thc ch).frame == some (scanFrame s.now) then .next s
  else
    let s := s.modThc ch fun x => { x with frame := some (scanFrame s.now) }
    .next ((s.takeReading ch v10 v160).afterReading ch)

/-- CHANNEL_FAIL (R242, R244): a condition that has persisted for its count fails a healthy channel. -/
def execChannelFail (ch : Fin 260) (s : State) : Out :=
  .next (if s.thmLive && s.healthy ch then
      match s.sensorDue ch with
      | some c => (s.failChannel ch c).afterReading ch
      | none => s
    else s)

/-- CHANNEL_RECOVER (R243): a failed channel with 1,000 clean readings becomes healthy. -/
def execChannelRecover (ch : Fin 260) (s : State) : Out :=
  .next (if s.thmLive && s.chEn ch && s.failed ch && decide (1000 ≤ (s.thc ch).cleanRun) then
      (s.recoverChannel ch).afterReading ch
    else s)

/-- STAGE2 (R247). -/
def execStage2 (n : Fin 32) (s : State) : Out :=
  .next (if s.thmLive && s.stage2Due n then s.enterStage2 n else s)

/-- WARN_CLEAR (R247). -/
def execWarnClear (n : Fin 32) (s : State) : Out :=
  .next (if s.thmLive && s.warnActive n && s.cooled n then s.warnClear n else s)

/-- FURTHER_REDUCTION_DUE (R250). -/
def execFurtherReductionDue (n : Fin 32) (s : State) : Out :=
  .next (if s.thmLive && s.furtherDue n then s.furtherReduction n else s)

/-- A write of 1 to a bar's THM_ACK bit (R244). -/
def State.thmAck (s : State) (n : Fin 32) : State :=
  let src := (portChans n).filter fun ch => s.bit (F.THM_Sch_FROZEN_SRC ch)
  if src.all s.healthy then
    src.foldl (fun (s : State) ch => s.put (F.THM_Sch_FROZEN_SRC ch) 0) (s.put ⟨A.THM_FROZEN, n, 1⟩ 0)
  else s

/-- THM_ACK (R244). -/
def execThmAck (n : Fin 32) (s : State) : Out := .next (s.atBlock A.THM_ACK fun s => s.thmAck n)

/-- A write of 1 to a bar's THM_TRIPPED bit: stage 3 falls to 1 while the trip does not hold and the bar
is not frozen, with warn-active set afresh (R247). -/
def State.thmTripped (s : State) (n : Fin 32) : State :=
  if s.stage n == 3 && !(s.thm.bars[n]).trip && !s.frozen n then
    let s := ((s.put ⟨A.THM_TRIPPED, n, 1⟩ 0).setStage n 1).put ⟨A.THM_WARN, n, 1⟩ 1
    s.modThb n fun b => { b with heldSince := none, falseSince := none }
  else s

/-- THM_TRIPPED_CLEAR (R247). -/
def execThmTrippedClear (n : Fin 32) (s : State) : Out :=
  .next (s.atBlock A.THM_TRIPPED fun s => s.thmTripped n)

/-- A channel enabled again starts afresh; FAILED, its condition and FROZEN_SRC stay (R480). -/
def State.freshChannel (s : State) (ch : Fin 260) : State :=
  let s := [F.THM_Tch_T ch, F.THM_Tch_AVG ch, F.THM_RATEch_V ch, F.THM_Sch_VALID ch,
    F.THM_Sch_RATE_VALID ch].foldl (fun (s : State) f => s.put f 0) s
  s.modThc ch fun x => { frame := x.frame }

/-- A write of the CHEN bits of port `p`, or of the board for p = 32 (R480). -/
def State.chenWrite (s : State) (p : Fin 33) (v : BitVec 8) : State :=
  let board := decide (p.val = 32)
  let base := if board then 256 else 8 * p.val
  let f := if board then F.THM_BRD_CFG_CHEN else F.THM_Pp_CFG_CHEN p
  let old := s.g f
  let s := s.put f v.toNat
  let s := (List.range (if board then 4 else 8)).foldl (fun s i =>
    if v.getLsbD i && !old.testBit i then s.freshChannel (Fin.ofNat 260 (base + i)) else s) s
  if board then s.boardEval
  else (s.substitutes p).tripEval (Fin.ofNat 32 p)

/-- The register that holds the CHEN bits of a port, or of the board. -/
def chenOff (p : Fin 33) : Nat := if p.val = 32 then A.THM_BRD_CFG else A.THM_Pp_CFG p

/-- CHEN_WRITE (R480, R245). -/
def execChenWrite (p : Fin 33) (v : BitVec 8) (s : State) : Out :=
  .next (s.atBlock (chenOff p) fun s => s.chenWrite p v)

end Sys2Proof.Machine
end

