-- ==== Sys2Proof/Machine/Calib.lean ====
section
/-!
DEFINITION. The calibration unit: pairs of measurements, their agreement, staleness, requests and
written values, and the read of the electrical test FIFO (08 R225-R232, R237).
-/

namespace Sys2Proof.Machine

/-- The domain an instance of a class uses besides PD_ANA: its port, or the position unit's
receivers and captures (Table 8.2). -/
def calDomain (k i : Nat) : Option Domain :=
  match k with
  | 2 => some (barDomain i) | 4 => some (barDomain i) | 6 => some (barDomain i)
  | 5 => some (barDomain (i / 9))
  | 3 => some .pos | 7 => some .pos
  | _ => none

/-- Whether the domains an instance uses are on. -/
def State.calPowered (s : State) (k i : Nat) : Bool :=
  s.up .ana && (match calDomain k i with | some d => s.up d | none => true)

/-- The tolerance of a class in its steps: of its trim or tap, and of its gain trim (Table 8.2). -/
def calTol : Nat → Rat × Rat
  | 0 => (3, 0) | 1 => (3, 0) | 2 => (2, 3) | 3 => (2, 0) | 4 => (4, 0) | 5 => (1, 0) | 6 => (2, 0)
  | _ => (20 * 256 / (Config.tdcSpanPs : Rat), 0)

/-- The range of a class in its steps (Table 8.2; class 7 Table 15.2). -/
def calRange : Nat → Int × Int
  | 0 => (-128, 127) | 1 => (-127, 127) | 2 => (-127, 127) | 3 => (-31, 31) | 4 => (-127, 127)
  | 5 => (0, 31) | 6 => (0, 63) | _ => (-128, 127)

/-- A value limited to the range of a class. -/
def calLimit (k : Nat) (x : Int) : Int := clamp (calRange k).1 (calRange k).2 x

/-- `x` rounded to the nearest integer, halves toward `v` (R228). -/
def roundToward (v : Int) (x : Rat) : Int :=
  let f := x.floor
  if x - (f : Rat) = (1 / 2 : Rat) then (if (v : Rat) ≤ x then f else f + 1)
  else (x + (1 / 2 : Rat)).floor

/-- A class has an instance of a number. -/
def calHas (k i : Nat) : Bool := decide (i < calCount k)

/-! ## Ends of a pair (R227-R230) -/

/-- The result of a request (R227, Table 8.11). -/
def State.calResult (s : State) (k i status : Nat) : State :=
  (((s.put F.CAL_RESULT_STATUS status).put F.CAL_RESULT_CLASS k).put F.CAL_RESULT_INST i).setCause
    F.CAL_CAUSE_REQ_DONE

/-- The pair of an instance ends with a status. -/
def State.endPair (s : State) (k i : Nat) (st : Status) : State :=
  let x := calIndex k i
  match (s.calOf x).pair with
  | none => s
  | some p =>
    let s := (s.modCal x fun c => { c with pair := none, last := st.code }).bump F.CAL_PAIRS_V
    let s := if k = 2 then s.modBar (Fin.ofNat 32 i) fun b => { b with et := { b.et with claimed := 0 } } else s
    if p.requested then s.calResult k i st.code else s

/-- A value is applied: at once for class 3, between captures for class 7, else at its moment of
Table 8.2. -/
def State.calApply (s : State) (k i : Nat) (v g : Int) : State :=
  let x := calIndex k i
  let s := s.modCal x fun c => { c with target := some (v, g), targetT := s.now }
  if k = 3 || (k = 7 && (s.pos.tof[Fin.ofNat 4 i]).pend.isEmpty) then s.modCal x CalInst.apply else s

/-- Whether every instance of classes 0, 1, 3 and 7 has agreed since reset (R232). -/
def State.calInit (s : State) : Bool :=
  [0, 1, 3, 7].all fun k => (List.range (calCount k)).all fun i => (s.calOf (calIndex k i)).agreed

/-- An agreeing pair (R228, R229, R232). -/
def State.calAgree (s : State) (k i : Nat) (v g : Int) : State :=
  let x := calIndex k i
  let was := (s.calOf x).stale
  let s := (s.calApply k i v g).modCal x fun c =>
    { c with dis := 0, stale := false, agreeT := s.now, agreed := true }
  let s := s.setCauseIf was F.CAL_CAUSE_RECOVERED
  let s := s.endPair k i .ok
  if s.calInit && !s.bit F.CAL_STATUS_INIT_DONE then
    (s.put F.CAL_STATUS_INIT_DONE 1).setCause F.CAL_CAUSE_INIT_DONE
  else s

/-- A disagreeing pair; the third makes the instance stale (R228, R229). -/
def State.calDisagree (s : State) (k i : Nat) : State :=
  let x := calIndex k i
  let n := min 3 ((s.calOf x).dis + 1)
  let newly := decide (n = 3) && !(s.calOf x).stale
  let s := s.modCal x fun c => { c with dis := n, stale := c.stale || decide (n = 3) }
  let s := (s.setCauseIf newly F.CAL_CAUSE_DISAGREE).bump F.CAL_DISAGREES_V
  s.endPair k i .disagree

/-- Two measurements of a pair in steps of the item; those of the gain trim count for class 2. -/
structure Measured where
  m1 : Rat
  m2 : Rat
  g1 : Rat
  g2 : Rat
  deriving DecidableEq, Repr

/-- A pair with both measurements ends (R228). -/
def State.calFinish (s : State) (k i : Nat) (m : Measured) : State :=
  let c := s.calOf (calIndex k i)
  let agree := decide (ratAbs (m.m1 - m.m2) ≤ (calTol k).1)
    && (decide (k ≠ 2) || decide (ratAbs (m.g1 - m.g2) ≤ (calTol k).2))
  if agree then
    let v := calLimit k (roundToward c.value ((m.m1 + m.m2) / 2))
    let g := if k = 2 then calLimit k (roundToward c.gain ((m.g1 + m.g2) / 2)) else 0
    s.calAgree k i v g
  else s.calDisagree k i

/-- The time one measurement takes of a front end's spare slots in a scan frame: 2.75 us a slot (R226). -/
def slotTime (k : Nat) : Nat := ns (2750 * (k + 1))

/-- How many measurements of a pair have had their opportunity by now: one a scan frame, from the first frame after
the start on, for classes 0 and 1; every 20 us for class 3; every 10 us of idle time for class 7; else as many as
the lines, frames or edges used make (R225, R226; log 92). -/
def State.measured (s : State) (k i : Nat) (p : CalPair) : Nat :=
  match k with
  | 0 => scanFrame (s.now - slotTime 0) - scanFrame p.start
  | 1 => scanFrame (s.now - slotTime 1) - scanFrame p.start
  | 3 => (s.now - p.start) / us 20
  | 7 => p.units + if (s.pos.tof[Fin.ofNat 4 i]).pend.isEmpty then (s.now - p.t0) / us 10 else 0
  | k => p.units / calCost k

/-- When the first measurement of a pair completed (R230). -/
def State.m1Time (s : State) (k i : Nat) (p : CalPair) : Option Nat :=
  if s.measured k i p = 0 then none
  else match k with
    | 0 => some ((scanFrame p.start + 1) * us 100 + slotTime 0)
    | 1 => some ((scanFrame p.start + 1) * us 100 + slotTime 1)
    | 3 => some (p.start + us 20)
    | 7 => some (p.m1T.getD (p.t0 + us 10))
    | _ => p.m1T

/-- A pair ends because its second measurement did not come in time (R230). -/
def State.calTimeout (s : State) (k i : Nat) : State :=
  ((s.bump F.CAL_TIMEOUTS_V).setCause F.CAL_CAUSE_TIMEOUT).endPair k i .timeout

/-- CAL_PAIR_END (R228, R229): the second measurement of the pair of instance `idx` of class `k`
completes, once both have had an opportunity of their kind (R225); more than 100 ms after the first the pair has
timed out (R230). -/
def execCalPairEnd (k : Fin 8) (idx : Fin 512) (m1 m2 g1 g2 : Rat) (s : State) : Out :=
  if s.seqRun || !calHas k idx || !s.calPowered k idx then .next s
  else match (s.calOf (calIndex k idx)).pair with
    | some p =>
      .next (if (s.m1Time k idx p).any fun t => decide (t + ms 100 < s.now) then s.calTimeout k idx
        else if 2 ≤ s.measured k idx p then s.calFinish k idx ⟨m1, m2, g1, g2⟩ else s)
    | none => .next s

/-- CAL_TIMEOUT (R230): the second measurement of a pair has not completed within 100 ms of the first. -/
def execCalTimeout (k : Fin 8) (idx : Fin 512) (s : State) : Out :=
  if s.seqRun || !s.up .ana || !calHas k idx then .next s
  else match (s.calOf (calIndex k idx)).pair with
    | some p =>
      .next (if (s.m1Time k idx p).any fun t => decide (t + ms 100 ≤ s.now) then s.calTimeout k idx else s)
    | none => .next s

/-! ## Starts (R227) -/

/-- A pair starts on an instance; a class 2 pair claims its lines of the bar gap (R233). -/
def State.startPair (s : State) (k i : Nat) (requested : Bool) : State :=
  let s := s.modCal (calIndex k i) fun c => { c with pair := some { start := s.now, requested := requested, t0 := s.now } }
  if k = 2 then s.modBar (Fin.ofNat 32 i) fun b => { b with et := { b.et with claimed := 4 } } else s

/-- The classes whose opportunities occur only while the grid runs, and which begin only then (R232). -/
def needsGrid (k : Nat) : Bool := [2, 4, 5, 6].contains k

/-- CAL_PAIR_START (R227): the period of a class has passed. -/
def execCalPairStart (k : Fin 8) (s : State) : Out :=
  let due := decide (s.cal.lastT[k] + ms (10 * s.g (F.CAL_PERIODk_V k)) ≤ s.now) && (!needsGrid k || s.running)
  if s.seqRun || !s.up .ana || !s.bit F.CAL_CTL_EN || !(s.g F.CAL_CLASS_EN_V).testBit k || !due then .next s
  else
    let i := s.cal.next[k]
    let s := { s with cal := { s.cal with
      lastT := s.cal.lastT.set k s.now, next := s.cal.next.set k ((i + 1) % calCount k) } }
    .next (if (s.calOf (calIndex k i)).pair.isSome || !s.calPowered k i then s else s.startPair k i false)

/-- A write to CAL_REQ (R227, R230, Table 8.11). -/
def State.calRequest (s : State) (k : Fin 8) (i : Fin 512) : State :=
  if !calHas k i then s.calResult k i Status.badDescriptor.code
  else if !s.calPowered k i then s.calResult k i Status.powerDenied.code
  else
    let x := calIndex k i
    if (s.calOf x).pair.isSome then
      s.modCal x fun c => { c with pair := c.pair.map fun p => { p with requested := true } }
    else s.startPair k i true

/-- CAL_REQ (R227). -/
def execCalReq (k : Fin 8) (i : Fin 512) (s : State) : Out :=
  .next (s.atBlock A.CAL_REQ fun s => s.calRequest k i)

/-! ## Written values (R231) -/

/-- A write to CAL_QVAL: the instance that CAL_QSEL names takes the value, limited to its range; a
pair in progress ends with ABORTED. -/
def State.calWrite (s : State) (w : Word) : State :=
  let k := s.g F.CAL_QSEL_CLASS
  let i := s.g F.CAL_QSEL_INST
  if !calHas k i then s
  else
    let v := calLimit k (signed 16 (Word.field w 0 16))
    let g := if k = 2 then calLimit k (signed 16 (Word.field w 16 16)) else 0
    (s.endPair k i .aborted).calApply k i v g

/-- CAL_QVAL (R231). -/
def execCalQval (w : Word) (s : State) : Out := .next (s.atBlock A.CAL_QVAL fun s => s.calWrite w)

/-- Every pair whose instance uses a domain that switches off ends with DOMAIN_LOST (R230); `ana` when
that domain is PD_ANA. -/
def State.calDomainLost (s : State) (d : Domain) : State :=
  (List.range 8).foldl (fun s k =>
    (List.range (calCount k)).foldl (fun s i =>
      if d = .ana ∨ calDomain k i = some d then s.endPair k i .domainLost else s) s) s

/-! ## Reads (R231, R237, Table 8.11) -/

/-- CAL_QVAL as read: the value in use. -/
def State.calValue (s : State) : Word :=
  let k := s.g F.CAL_QSEL_CLASS
  let i := s.g F.CAL_QSEL_INST
  if !calHas k i then 0
  else
    let c := s.calOf (calIndex k i)
    BitVec.ofNat 32 (unsigned 16 c.value + if k = 2 then unsigned 16 c.gain * 2 ^ 16 else 0)

/-- CAL_QSTAT as read. -/
def State.calStat (s : State) : Word :=
  let k := s.g F.CAL_QSEL_CLASS
  let i := s.g F.CAL_QSEL_INST
  if !calHas k i then 0
  else
    let c := s.calOf (calIndex k i)
    BitVec.ofNat 32 (b2n c.stale + 2 * c.dis + 2 ^ 8 * c.last + 2 ^ 16 * min 65535 ((s.now - c.agreeT) / ms 10))

/-- The classes with a pair in progress, as CAL_STATUS.BUSY. -/
def State.calBusy (s : State) : Nat :=
  (List.range 8).foldl (fun a k =>
    if (List.range (calCount k)).any fun i => (s.calOf (calIndex k i)).pair.isSome then a + 2 ^ k else a) 0

/-- CAL_STALE_CNT as read. -/
def State.calStaleCount (s : State) : Nat := (s.cal.inst.toList.filter (·.stale)).length

/-- ET_RECORD_POP (R237): an 8-byte read of the window. -/
def execEtRecordPop (s : State) : Out :=
  if s.seqRun then .next (s.answer (List.replicate 8 0#8) false 0)
  else if !s.up .ana then
    .next ((s.unpowered (A.CAL_ET_WINDOW 0 0)).answer (List.replicate 8 0#8) false 0)
  else
    let r := (s.readCells (s.headCell false)).etPop
    .next (r.1.answer (leBytes 8 r.2.toNat) false 0)

end Sys2Proof.Machine
end

