-- ==== Sys2Proof/Machine/LinkErrors.lean ====
section
/-!
DEFINITION. The capabilities of the host link's function and its advanced error reporting (12 R357, Table 12.1, R364).
Table 12.1 gives the features; the registers that advertise them and the reports that R364 requires are those of the
PCI Express Base Specification (PRESUMED, logs 68 and 93).
-/

namespace Sys2Proof

/-! ## Capability registers (Table 12.1) -/

/-- Where a capability register is held. -/
def CapReg.key : CapReg → Nat
  | .pmCap => 0 | .devCap => 1 | .devStatus => 2 | .linkCap => 3 | .linkCtl => 4 | .linkStatus => 5 | .devCap2 => 6
  | .devCtl2 => 7 | .linkCap2 => 8 | .msixTable => 9 | .msixPba => 10 | .aerUncStatus => 11 | .aerUncMask => 12
  | .aerUncSev => 13 | .aerCorStatus => 14 | .aerCorMask => 15 | .aerCtl => 16 | .aerLog i => 17 + i.val
  | .l1ssCap => 21 | .l1ssCtl => 22 | .ptmCap => 23

/-- The reset word of a capability register. Those that are read only advertise Table 12.1: PME from D3hot; payloads of
512 bytes; Gen5 on 16 lanes with ASPM L1 and no L0s; completion timeout ranges A to D and disable, 10-bit tags as
completer and requester, no AtomicOps; every speed to 32.0 GT/s; the MSI-X table and PBA in BAR0; no ECRC; L1.1 and
L1.2; the PTM requester role. -/
def CapReg.reset : CapReg → Word
  | .pmCap => 0x4003 | .devCap => 0x8022 | .linkCap => 0x905 | .linkStatus => 0x1000 | .devCap2 => 0x3001F
  | .linkCap2 => 0x3E | .msixTable => 0x48000 | .msixPba => 0x49000 | .aerUncSev => 0x462030 | .aerCorMask => 0x2000
  | .l1ssCap => 0x1F | .ptmCap => 1 | _ => 0

/-- The bits that software writes. -/
def CapReg.writable : CapReg → Word
  | .linkCtl => 0xCA | .devCtl2 => 0x101F | .aerUncMask => 0x155000 | .aerUncSev => 0x155000 | .aerCorMask => 0x2000
  | .l1ssCtl => 0xE3FF000F | _ => 0

/-- The bits that a write of 1 clears. -/
def CapReg.clears : CapReg → Word
  | .devStatus => 0xF | .aerUncStatus => 0x155000 | .aerCorStatus => 0x2000 | _ => 0

/-- The bits that are figures of the device to which the manual gives no value: latencies, power limits, the port
number. -/
def CapReg.openBits : CapReg → Word
  | .devCap => 0xFFC0FC0 | .linkCap => 0xFF03F000 | .l1ssCap => 0xFBFF00 | _ => 0

end Sys2Proof

namespace Sys2Proof.Machine

/-- Send a request on the link. -/
def State.sendLink (s : State) (m : LinkMsg) : State := { s with linkOut := s.linkOut ++ [m] }

/-! ## Their words -/

/-- The stored word of a capability register. -/
def HostPort.cap (h : HostPort) (c : CapReg) : Word := (Cells.find? h.caps c.key).getD c.reset

/-- Store a word in a capability register. -/
def State.setCap (s : State) (c : CapReg) (w : Word) : State :=
  { s with hl := { s.hl with caps := Cells.insert s.hl.caps c.key w } }

/-- Set bits of a capability register. -/
def State.orCap (s : State) (c : CapReg) (w : Word) : State := s.setCap c (s.hl.cap c ||| w)

/-- A capability register written by software. -/
def State.writeCap (s : State) (c : CapReg) (w : Word) : State :=
  let old := s.hl.cap c
  s.setCap c ((old &&& ~~~c.writable &&& ~~~(w &&& c.clears)) ||| (w &&& c.writable))

/-! ## Stored words of the header -/

/-- The stored word of a configuration register that is plain storage. -/
def HostPort.word (h : HostPort) (k : Nat) : Word := (Cells.find? h.header k).getD 0

/-- Store a word. -/
def HostPort.setWord (h : HostPort) (k : Nat) (w : Word) : HostPort := { h with header := Cells.insert h.header k w }

/-- The place of the Status register's error bits. -/
def statusKey : Nat := 2003

/-- Set bits of the Status register. -/
def State.orStatus (s : State) (w : Word) : State :=
  { s with hl := s.hl.setWord statusKey (s.hl.word statusKey ||| w) }

/-! ## Error reports (R364) -/

/-- The errors of Table 12.3 for which the PCI Express Base Specification requires a report. -/
inductive LinkError where
  | poisoned | timeout | unexpected | malformed | unsupported
  deriving DecidableEq, Repr

/-- The bit of an error in the uncorrectable error registers. -/
def LinkError.bit : LinkError → Nat
  | .poisoned => 12 | .timeout => 14 | .unexpected => 16 | .malformed => 18 | .unsupported => 20

/-- One bit of a word. -/
def oneBit (i : Nat) : Word := BitVec.ofNat 32 (2 ^ i)

/-- Whether an error is fatal by its severity. -/
def State.errorFatal (s : State) (e : LinkError) : Bool := (s.hl.cap .aerUncSev).getLsbD e.bit

/-- The header of the first unmasked error is logged, with the pointer to it; a timeout has none. -/
def State.logHeader (s : State) (e : LinkError) : State :=
  let seen := s.hl.cap .aerUncStatus &&& ~~~s.hl.cap .aerUncMask
  if (s.hl.cap .aerUncMask).getLsbD e.bit || seen != 0#32 then s
  else
    let s := s.setCap .aerCtl (BitVec.ofNat 32 e.bit)
    if e = .timeout then s
    else (List.finRange 4).foldl (fun (s : State) i =>
      let (k, s) := s.draw
      s.setCap (.aerLog i) (Config.tlpHeader k)) s

/-- The message of an error, if the function may send it: a correctable one by Device Control and the mask, another
by Device Control or SERR# Enable; one for an Unsupported Request also needs its own enable. -/
def State.errorMsg (s : State) (e : LinkError) (advisory : Bool) : Option ErrorMsg :=
  let ctl := s.hl.word 2002
  let ur := e != .unsupported || ctl.getLsbD 3
  if (s.hl.cap .aerUncMask).getLsbD e.bit then none
  else if advisory then
    if !(s.hl.cap .aerCorMask).getLsbD 13 && ctl.getLsbD 0 && ur then some .correctable else none
  else
    let serr := (s.hl.word 1).getLsbD 8
    if s.errorFatal e then (if serr || ctl.getLsbD 2 && ur then some .fatal else none)
    else if serr || ctl.getLsbD 1 && ur then some .nonfatal else none

/-- An error message goes out while the link is up; one that is not correctable signals a system error. -/
def State.sendError (s : State) (m : Option ErrorMsg) : State :=
  match m with
  | none => s
  | some m =>
    let s := if s.bit F.SYS_HL_STATUS_LINK_UP then s.sendLink (.error m) else s
    if m = .correctable then s else s.orStatus (if (s.hl.word 1).getLsbD 8 then 0x4000 else 0)

/-- An error is reported: status, header log, message, and the counter of the kind (R364, Table 12.12). `soft` says
that the standard has it reported as advisory unless its severity is fatal. -/
def State.reportError (s : State) (e : LinkError) (soft : Bool) : State :=
  let advisory := soft && !s.errorFatal e
  let s := (s.logHeader e).orCap .aerUncStatus (oneBit e.bit)
  let s := s.orCap .devStatus
    ((if advisory then 1 else if s.errorFatal e then 4 else 2) ||| (if e = .unsupported then 8 else 0))
  let s := if advisory then s.orCap .aerCorStatus 0x2000 else s
  (s.sendError (s.errorMsg e advisory)).bump (if advisory then F.SYS_HL_CORR_V else F.SYS_HL_UNCORR_V)

end Sys2Proof.Machine
end

