-- ==== Sys2Proof/Machine/Memory.lean ====
section
/-!
DEFINITION. Accesses of the masters to the memory space, and memory control: wipes on request, scrub
write-backs, the background test with its repairs (01 R25-R27; 09 R259; 11 R347-R355).
-/

namespace Sys2Proof.Machine

/-! ## Who may access what (01 R25-R27; 09 R259) -/

/-- A pair. -/
def State.pair (s : State) (j : Fin 4) : Pair := s.pairs[j]

/-- Change a pair. -/
def State.modPair (s : State) (j : Fin 4) (f : Pair → Pair) : State :=
  { s with pairs := s.pairs.set j (f (s.pair j)) }

/-- Whether a pair is halted. -/
def State.halted (s : State) (j : Fin 4) : Bool := (s.pair j).mode == .halted

/-- Whether a master is one of BAR2, the data port and the management port. -/
def isDoor : Master → Bool
  | .host => true | .mgt => true | .dpt => true | _ => false

/-- Whether a master is a sequencer pair. -/
def isPairMaster : Master → Bool
  | .pair _ => true | _ => false

/-- Whether a write of a master to a byte of a bank has an effect, the bank being on. -/
def State.mayWrite (s : State) (m : Master) (b off : Nat) : Bool :=
  if 68 ≤ b ∧ b < 76 then
    let j : Fin 4 := Fin.ofNat 4 ((b - 68) / 2)
    if b % 2 = 0 then
      s.halted j && !s.fieldLocked && !isPairMaster m && !(b == 74 && decide (0x1C000 ≤ off))
    else s.halted j
  else true

/-- The byte a master reads at a BAR2 offset: 0 at an unmapped offset, in a domain that is off, in a
bank that is being wiped, and in the SERVICE data memory through a door from FIELD onward. -/
def State.peek (s : State) (m : Master) (a : Nat) : Byte :=
  match bankOf a with
  | none => 0#8
  | some (b, off) =>
    if s.seqRun || !s.bankUp b || (s.bank (bankIx b)).wiping then 0#8
    else if b == 75 && s.fieldLocked && isDoor m then 0#8
    else if b == 74 && decide (0x1C000 ≤ off) && s.boot.rom then Config.bootRomByte (off - 0x1C000)
    else s.byteAt a

/-- Whether a BAR2 offset lies in a bank whose domain is off. -/
def State.darkAt (s : State) (a : Nat) : Bool :=
  match bankOf a with | some (b, _) => !s.bankUp b | none => false

/-- Whether a read of an offset delivers the stored word. -/
def State.liveAt (s : State) (a : Nat) : Bool :=
  match bankOf a with
  | some (b, _) => s.bankUp b && !(s.bank (bankIx b)).wiping
  | none => false

/-- An access that meets a bank whose domain is off counts once, at its first such byte (R355). -/
def State.countDark (s : State) (a n : Nat) : State :=
  match ((List.range n).map (a + ·)).find? s.darkAt with
  | some x => s.unpowered (0x40000000 + x)
  | none => s

/-- A read of `n` bytes at a BAR2 offset: the state after, the bytes, and whether an uncorrectable
word was met (R25, R26, R347). -/
def State.memRead (s : State) (m : Master) (a n : Nat) : State × List Byte × Bool :=
  let bytes := (List.range n).map fun i => s.peek m (a + i)
  if s.seqRun then (s, bytes, false)
  else
    let ws := (wordsOf a n).filter fun w => s.liveAt (8 * w)
    (ws.foldl State.readWord (s.countDark a n), bytes, ws.any s.ueBad.contains)

/-- A write of the enabled bytes at consecutive BAR2 offsets (R25-R27, R259). -/
def State.memWrite (s : State) (m : Master) (a : Nat) (bs : List (Option Byte)) : State :=
  if s.seqRun then s
  else
    let s := s.countDark a bs.length
    let cells := bs.zipIdx.filterMap fun (b, i) =>
      match b, bankOf (a + i) with
      | some v, some (k, off) => if s.bankUp k && s.mayWrite m k off then some (a + i, v, k) else none
      | _, _ => none
    let s := cells.foldl (fun (s : State) c =>
      if 68 ≤ c.2.2 ∧ c.2.2 < 76 ∧ c.2.2 % 2 = 0 then s.put (F.SEQ_Pj_STATUS_LOADED ((c.2.2 - 68) / 2)) 0
      else s) s
    let ws := if s.ceBad.isEmpty && s.ueBad.isEmpty then []
      else (wordsOf a bs.length).filter fun w => cells.any fun c => c.1 / 8 == w
    let s := ws.foldl (fun (s : State) w =>
      if (cells.filter fun c => c.1 / 8 == w).length == 8 then s else s.readWord w) s
    let s := cells.foldl (fun (s : State) c => s.setByte c.1 c.2.1) s
    ws.foldl State.cleanWord s

/-! ## Wipes on request (R353, R354) -/

/-- Whether the bank of a request is locked against a wipe (R354). -/
def State.wipeLocked (s : State) (b : Nat) : Bool :=
  if b < 64 then (s.bar (Fin.ofNat 32 b)).inPage || s.grid.paused
  else if 68 ≤ b ∧ b < 76 then !s.halted (Fin.ofNat 4 ((b - 68) / 2))
  else false

/-- A request ends at once with a status. -/
def State.wipeEnds (s : State) (st : Status) : State := s.put F.MEM_WIPE_STATUS_STATUS st.code

/-- A write to MEM_WIPE: the bank's words are zero from here on, and read 0 until the wipe ends; while
one runs the write has no effect (R353, R354; 14 R405). -/
def State.wipeRequest (s : State) (b : Nat) : State :=
  if s.bit F.MEM_WIPE_STATUS_BUSY then s
  else if 115 < b then s.wipeEnds .badDescriptor
  else if !s.bankUp b then s.wipeEnds .powerDenied
  else if s.wipeLocked b then s.wipeEnds .locked
  else
    s.unlessHeld s.holdsMemory fun s =>
      let s := (s.zeroBank b).modBank (bankIx b) fun x => { x with wiping := true }
      { s.put F.MEM_WIPE_STATUS_BUSY 1 with wipe := some b }

/-- MEM_WIPE (R354). -/
def execMemWipe (b : Fin 128) (s : State) : Out := .next (s.atBlock A.MEM_WIPE fun s => s.wipeRequest b)

/-- The wipe in progress ends. -/
def State.wipeDone (s : State) (st : Status) : State :=
  match s.wipe with
  | none => s
  | some b =>
    let s := s.modBank (bankIx b) fun x => { x with wiping := false }
    ({ s.put F.MEM_WIPE_STATUS_BUSY 0 with wipe := none }).wipeEnds st

/-- WIPE_DONE (R353). -/
def execWipeDone (s : State) : Out :=
  .next (if s.wipe.isSome && !s.seqRun then (s.wipeDone .ok).setCause F.MEM_CAUSE_WIPE_DONE else s)

/-! ## Scrub (R347) -/

/-- SCRUB_WRITEBACK: the oldest queued corrected word of a bank is written back. -/
def execScrubWriteback (b : Fin 116) (s : State) : Out :=
  match (s.bank b).scrub with
  | [] => .next s
  | w :: r =>
    .next (if s.seqRun || !s.bankUp b then s
      else { s.modBank b fun x => { x with scrub := r } with ceBad := s.ceBad.filter (· != w) })

/-! ## Background test and repair (R348-R350) -/

/-- The words of the shadowed REPAIR region that are in use (R348, Table 15.2). -/
def State.repairWords (s : State) : List Word := (s.otp.repair.take 60).filter fun w => w.getLsbD 31

/-- The soft entries. -/
def State.softWords (s : State) : List Word :=
  ((List.range 16).map fun n => s.reg (A.MEM_SOFTREPn n)).filter fun w => w.getLsbD 31

/-- A repair entry (Table 11.8). -/
def repairEntry (bank array column spare : Nat) : Nat :=
  bank + array * 2 ^ 8 + column * 2 ^ 12 + spare * 2 ^ 23 + 2 ^ 31

/-- The lowest spare column free in an array. -/
def State.freeSpare (s : State) (b array : Nat) : Option Nat :=
  let used := ((s.repairWords ++ s.softWords).filter fun w =>
    Word.field w 0 7 == b && Word.field w 8 4 == array).map fun w => Word.field w 23 2
  (List.range 4).find? fun k => !used.contains k

/-- The rebuild of a bank's array (R350): every word is read through the old mapping, which meets its error, and a
corrected one is written through the new one; an uncorrectable one stays as found (Table 11.7). The manual does not
say which words an array holds (Config.arrayOf). -/
def State.rebuild (s : State) (b : Fin 116) (array : Nat) : State :=
  let ws := (s.ceBad ++ s.ueBad).filter fun w => inBank b w && Config.arrayOf w == array
  ws.foldl (fun (s : State) w =>
    let t := s.readWord w
    if s.ueBad.contains w then t else t.cleanWord w) s

/-- The march finds a failing column: a spare is mapped and the array rebuilt, or the bank is degraded
(R350). -/
def State.repairColumn (s : State) (b : Fin 116) (array column : Nat) : State :=
  match s.freeSpare b array, (List.range 16).find? fun n => !(s.reg (A.MEM_SOFTREPn n)).getLsbD 31 with
  | some sp, some n =>
    ((s.setReg (A.MEM_SOFTREPn n) (BitVec.ofNat 32 (repairEntry b array column sp))).rebuild b array).setCause
      F.MEM_CAUSE_REPAIRED
  | _, _ => (s.modBank b fun x => { x with degraded := true }).setCause F.MEM_CAUSE_NO_SPARE

/-- Whether the march of an array can be answered with a repair. -/
def State.canRepair (s : State) (b : Fin 116) (array : Nat) : Bool :=
  (s.freeSpare b array).isSome && (List.range 16).any fun n => !(s.reg (A.MEM_SOFTREPn n)).getLsbD 31

/-- The background test saves the 256 bytes of region `r` of a bank, reading each of its words; what it
restores stands as found (R349, Table 11.7). -/
def State.readRegion (s : State) (b : Fin 116) (r : Nat) : State :=
  s.readCells (((List.range 32).map fun i => wordNo b (32 * r + i)).filter (inBank b))

/-- The test of a region ends, and the bank goes on to its next one. -/
def State.regionTested (s : State) (b : Fin 116) : State :=
  let last := decide (bankKib b * 4 ≤ (s.bank b).btPos + 1)
  s.modBank b fun x => { x with
    btLast := s.now
    btPos := if last then 0 else x.btPos + 1
    btPass := if last then (x.btPass + 1) % 2 ^ 32 else x.btPass }

/-- BT_REGION: the background test of the next 256-byte region of a bank, which finds no failing
column or one; after a repair the same region is tested again (R349, R350). -/
def execBtRegion (b : Fin 116) (found : Option (Fin 16 × Fin 1152)) (s : State) : Out :=
  let x := s.bank b
  if s.seqRun || !s.up .core || !s.bit F.MEM_CTL_BT_EN || !s.bankUp b || x.wiping
      || decide (s.now < x.btLast + us (s.g F.MEM_CTL_MIN_GAP)) then .next s
  else
    let s := s.readRegion b x.btPos
    match found with
    | some (a, c) =>
      let t := s.repairColumn b a c
      .next (if s.canRepair b a then t else t.regionTested b)
    | none => .next (s.regionTested b)

end Sys2Proof.Machine
end

