-- ==== Sys2Proof/Machine/DmaCore.lean ====
section
/-!
DEFINITION. DMA channels: descriptors and their checks, fetches, starts, aborts, bus errors, write-backs,
power (11 R320-R329, R337-R343). The transfers themselves follow in Dma.lean.
-/

namespace Sys2Proof.Machine

/-- A channel. -/
def State.dch (s : State) (c : Fin 48) : DmaChan := s.dma[c]

/-- Change a channel. -/
def State.modDch (s : State) (c : Fin 48) (f : DmaChan → DmaChan) : State :=
  { s with dma := s.dma.set c (f (s.dch c)) }

/-- The channels in ascending order. -/
def allChans : List (Fin 48) := List.finRange 48

/-- STATE of a channel: 0 IDLE, 1 RUN, 2 WAIT, 3 STOPPING, 4 HALTED. -/
def State.chanState (s : State) (c : Fin 48) : Nat := s.g (F.DMA_Cc_STATUS_STATE c)

/-! ## Classes and descriptors (Tables 11.1 and 11.2) -/

/-- The classes of channels. -/
inductive DmaClass where
  | raster | camera | table | general
  deriving DecidableEq, Repr

/-- The class of a channel. -/
def dmaClass (c : Fin 48) : DmaClass :=
  if c.val < 32 then .raster else if c.val < 36 then .camera else if c.val < 40 then .table else .general

/-- The bar of a raster channel. -/
def chanBar (c : Fin 48) : Fin 32 := Fin.ofNat 32 c.val

/-- The port of a camera channel. -/
def chanPort (c : Fin 48) : Fin 4 := Fin.ofNat 4 (c.val - 32)

/-- Set STATE; what a camera store frees depends on it: with its channel IDLE the bytes that no request keeps are
freed (07 R202). -/
def State.setChanState (s : State) (c : Fin 48) (x : Nat) : State :=
  let s := s.put (F.DMA_Cc_STATUS_STATE c) x
  if dmaClass c = .camera then s.freeStore (chanPort c) else s

/-- A number in a descriptor. -/
def Desc.num (d : Desc) (lo n : Nat) : Nat := leNat ((d.raw.drop lo).take n)
/-- A flag of bytes 0 to 3. -/
def Desc.flag (d : Desc) (i : Nat) : Bool := (d.num 0 4).testBit i
/-- LENGTH. -/
def Desc.len (d : Desc) : Nat := d.num 4 4
/-- SRC. -/
def Desc.src (d : Desc) : Nat := d.num 8 8
/-- DST. -/
def Desc.dst (d : Desc) : Nat := d.num 16 8

/-- Whether an internal address lies in the register space (01 R20). -/
def inRegs (a : Nat) : Bool := decide (a < 0x1000000)

/-- Whether an internal address lies in the memory space (01 R20). -/
def inMem (a : Nat) : Bool := decide (0x40000000 ≤ a) && decide (a < 0x80000000)

/-- The size of the access of a side with its FIX flag set (R332). -/
def fixSize (a len : Nat) : Nat := if a % 8 = 0 ∧ len % 8 = 0 then 8 else 4

/-- Whether a side of a descriptor is refused (R326). -/
def badSide (int fix : Bool) (a len : Nat) : Bool :=
  let n := if fix then fixSize a len else len
  if !int then fix
  else if inRegs a then !(decide (a + n ≤ 0x1000000) && a % 4 == 0 && len % 4 == 0)
  else if inMem a then decide (0x80000000 < a + n) || fix
  else true

/-- Whether a descriptor is refused with BAD_DESCRIPTOR by a channel (R326). -/
def Desc.bad (d : Desc) (k : DmaClass) : Bool :=
  decide (d.len = 0) || decide (d.num 0 4 / 2 ^ 17 ≠ 0)
    || (k != .camera && badSide (d.flag 4) (d.flag 6) d.src d.len)
    || (k != .raster && badSide (d.flag 5) (d.flag 7) d.dst d.len)
    || (k == .table && !d.flag 4 && !d.flag 5)

/-- What a side of a transfer is. -/
inductive DmaEnd where
  | host (a : Nat)
  | mem (a : Nat)
  | regs (a : Nat) (fix : Bool)
  | stream
  | store
  deriving DecidableEq, Repr

/-- A side that lies at an address. -/
def addressedEnd (int fix : Bool) (a : Nat) : DmaEnd :=
  if !int then .host a else if inRegs a then .regs a fix else .mem (a - 0x40000000)

/-- The source of a descriptor (Table 11.1). -/
def Desc.source (d : Desc) (k : DmaClass) : DmaEnd :=
  if k = .camera then .store else addressedEnd (d.flag 4) (d.flag 6) d.src

/-- The destination of a descriptor (Table 11.1). -/
def Desc.dest (d : Desc) (k : DmaClass) : DmaEnd :=
  if k = .raster then .stream else addressedEnd (d.flag 5) (d.flag 7) d.dst

/-! ## Domains of a transfer (R341, R342) -/

/-- Whether ranges of addresses meet. -/
def meets (a n lo hi : Nat) : Bool := decide (a < hi) && decide (lo < a + n)

/-- Whether a range of the memory space touches a domain's banks (Table 1.8, Table 11.6). -/
def memTouches (a n : Nat) : Domain → Bool
  | .port k => meets a n (0x400000 * k) (0x400000 * (k + 1))
      || meets a n (0x02000000 + 0x100000 * k) (0x02000000 + 0x100000 * (k + 1))
  | .core => meets a n 0x04000000 0x04400000 || meets a n 0x05000000 0x05100000
  | _ => false

/-- Whether a range of the register space touches a domain's blocks. -/
def regTouches (a n : Nat) (d : Domain) : Bool :=
  ((List.range ((a + n - 1) / 0x1000 - a / 0x1000 + 1)).any fun i =>
    blockDomain ((a / 0x1000 + i) * 0x1000) == some d)

/-- Whether a side of `n` bytes touches a domain. -/
def DmaEnd.touches (e : DmaEnd) (c : Fin 48) (n : Nat) (d : Domain) : Bool :=
  match e with
  | .host _ => d == .host
  | .mem a => memTouches a n d
  | .regs a fix => regTouches a (if fix then 4 else n) d
  | .stream => d == barDomain c.val
  | .store => d == .cam

/-- Whether a descriptor of a channel targets a domain (R341). -/
def Desc.targets (x : Desc) (c : Fin 48) (d : Domain) : Bool :=
  let k := dmaClass c
  (x.source k).touches c x.len d || (x.dest k).touches c x.len d

/-- Every domain but PD_AON. -/
def allDomains : List Domain := (List.range 8).map Domain.port ++ [.cam, .pos, .ana, .host, .core]

/-- Whether a descriptor targets a domain that is off (R343). -/
def State.targetsOff (s : State) (c : Fin 48) (d : Desc) : Bool :=
  allDomains.any fun x => !s.up x && d.targets c x

/-! ## The ring and the link (R322, R361, R362) -/

/-- Whether the device may issue requests on the link (R362, R363). -/
def State.linkOpen (s : State) : Bool :=
  !s.seqRun && s.up .host && s.bit F.SYS_HL_STATUS_LINK_UP && s.bit F.SYS_HL_STATUS_BME
    && !s.bit F.SYS_HL_STATUS_D3HOT

/-- RING_SIZE, 2 to 4,096. -/
def State.ringSize (s : State) (c : Fin 48) : Nat := s.g (F.DMA_Cc_RING_SIZE_V c)

/-- Whether a ring is internal. -/
def State.ringInt (s : State) (c : Fin 48) : Bool := s.bit (F.DMA_Cc_CFG_RING_INT c)

/-- A BAR2 offset that Table 1.8 leaves unmapped. -/
def unmappedOffset : Nat := 0x3FFFFF00

/-- The address of descriptor `i` of a ring: a host bus address, or a BAR2 offset of an internal ring; an
internal address outside the memory space names no memory. -/
def State.descAddr (s : State) (c : Fin 48) (i : Nat) : Nat :=
  let lo := s.g (F.DMA_Cc_RING_LO_V c) / 32 * 32
  if s.ringInt c then (if inMem (lo + 32 * i) then lo + 32 * i - 0x40000000 else unmappedOffset)
  else lo + 2 ^ 32 * s.g (F.DMA_Cc_RING_HI_V c) + 32 * i

/-- The fetches of a channel that still bring a descriptor. -/
def DmaChan.live (x : DmaChan) : List DmaRead := x.fetches.filter fun r => decide (0 < r.len)

/-- The descriptors that a channel holds or is fetching. -/
def DmaChan.ahead (x : DmaChan) : Nat := x.fetched.length + x.live.length

/-- The fetches that satisfy a condition bring nothing any more. -/
def DmaChan.stale (x : DmaChan) (p : DmaRead → Bool) : DmaChan :=
  { x with fetches := x.fetches.map fun r => if p r then { r with len := 0 } else r }

/-- The index of the descriptor that is fetched next: behind HEAD, those fetched ahead and those being fetched
(R324). -/
def State.nextIndex (s : State) (c : Fin 48) : Nat :=
  (s.g (F.DMA_Cc_HEAD_V c) + (s.dch c).ahead) % s.ringSize c

/-- Reads of a channel that are outstanding. -/
def DmaChan.outstanding (x : DmaChan) : Nat := x.reads.length + x.fetches.length

/-- Tags in use by host reads. -/
def State.tagsUsed (s : State) : List Nat :=
  allChans.flatMap fun c =>
    let x := s.dch c
    (x.reads ++ x.fetches).map (·.tag)

/-- The lowest number from `lo` that no outstanding read holds. -/
def State.freeTag (s : State) (lo : Nat) : Nat :=
  let used := s.tagsUsed
  ((List.range (used.length + 1)).map (lo + ·)).find? (fun t => !used.contains t) |>.getD lo

/-- Whether a host read finds a tag: fewer than 256 are outstanding (R331). -/
def State.tagFree (s : State) : Bool := decide ((s.tagsUsed.filter (· < 1024)).length < 256)

/-! ## Landing and ends (R328, R339) -/

/-- The descriptor in progress. -/
def State.inProgress (s : State) (c : Fin 48) : Option Desc := (s.dch c).fetched.head?

/-- `n` bytes of the descriptor in progress have landed: HALF, KBYTES, and the camera store's bytes (R328, Table
11.11; 07 R202). -/
def State.landedBytes (s : State) (c : Fin 48) (n : Nat) : State :=
  let x := s.dch c
  let s := s.bumpBy (F.DMA_Cc_KBYTES_V c) ((x.total + n) / 1024 - x.total / 1024)
  let s := s.modDch c fun x => { x with landed := x.landed + n, total := x.total + n }
  let s := if dmaClass c = .camera then s.frameWritten (chanPort c) n else s
  match s.inProgress c with
  | some d =>
    let x := s.dch c
    if d.flag 1 && !x.halfDone && decide (d.len / 2 ≤ x.landed) then
      (s.modDch c fun x => { x with halfDone := true }).setCause (F.DMA_Cc_CAUSE_HALF c)
    else s
  | none => s

/-- ERRADDR takes an address. -/
def State.setErrAddr (s : State) (c : Fin 48) (a : Nat) : State :=
  (s.put (F.DMA_Cc_ERRADDR_LO_V c) a).put (F.DMA_Cc_ERRADDR_HI_V c) (a / 2 ^ 32)

/-- The status of a request whose retries are used up (R339). -/
def State.exhausted (s : State) (c : Fin 48) : Nat :=
  if s.g (F.DMA_Cc_CFG_RETRY_MAX c) = 0 then Status.busError.code else Status.retryExhausted.code

/-- The internal or host address of a request: a request of the memory space holds its BAR2 offset. -/
def DmaRead.target (r : DmaRead) : Nat := if r.tag < 1024 then r.addr else r.addr + 0x40000000

/-- A bus error of a data request: it is issued again, or ends the descriptor; a failure while the channel
stops is not retried (R338, R339). -/
def State.readFails (s : State) (c : Fin 48) (r : DmaRead) : State :=
  if r.len = 0 ∨ s.chanState c ≠ 1 ∨ (s.dch c).ending.isSome then s
  else if r.tries < s.g (F.DMA_Cc_CFG_RETRY_MAX c) then
    (s.bump (F.DMA_Cc_RETRIES_V c)).modDch c fun x =>
      { x with pieces := x.pieces ++ [⟨r.off, r.len, r.tries + 1, none⟩] }
  else
    let st := s.exhausted c
    (s.setErrAddr c r.target).modDch c fun x => { x with ending := some st, endT := s.now }

/-! ## Becoming the descriptor in progress -/

/-- The words of the descriptor caches that hold descriptor `i` of a channel's ring: four descriptors a channel fill
the 6 KiB (Table 11.6; log 81). -/
def descCells (c : Fin 48) (i : Nat) : List Nat := (List.range 4).map fun j => unmappedWord 112 c (i % 4 * 4 + j)

/-- The next descriptor comes into progress: it is refused when it is malformed or a domain it targets is
off (R326, R343). -/
def State.beginHead (s : State) (c : Fin 48) : State :=
  match s.inProgress c with
  | none => s
  | some d =>
    let e := if d.bad (dmaClass c) then some Status.badDescriptor.code
      else if s.targetsOff c d then some Status.powerDenied.code else none
    (s.readCells (descCells c (s.g (F.DMA_Cc_HEAD_V c)))).modDch c fun x => { x with
      issued := 0, landed := 0, halfDone := false, pieces := [], ending := e, endT := s.now }

/-- The channel halts on a fetch whose retries are used up: LAST only (R340). -/
def State.haltOnFetch (s : State) (c : Fin 48) (st : Nat) : State :=
  let s := s.modDch c fun x => { x with fetched := [], fetchFail := none, retries := 0 }
  ((s.put (F.DMA_Cc_STATUS_LAST c) st).setChanState c 4).setCause (F.DMA_Cc_CAUSE_HALTED c)

/-! ## Fetches (R324, R325, R340) -/

/-- Whether a channel has a fetch to issue: in RUN with nothing at HEAD, or with fewer than PREFETCH descriptors ahead
of the one in progress while prefetch goes on, a doorbell was written after it stopped, or a fetch is to be tried
again; in WAIT when one is due (R324, R325, R340). Fetches that have not returned count as ahead (log 56). -/
def State.wantsFetch (s : State) (c : Fin 48) : Bool :=
  let x := s.dch c
  let more := !x.stopped || x.stopBell || decide (0 < x.retries)
  x.fetchFail.isNone && decide (x.ahead < s.ringSize c)
    && (if s.chanState c = 1 then
          x.ahead == 0 || (decide (x.ahead < 1 + s.g (F.DMA_Cc_CFG_PREFETCH c)) && more)
        else decide (s.chanState c = 2) && x.live.isEmpty && (x.bell || decide (0 < x.retries)))

/-- A fetch is issued. -/
def State.fetchBegin (s : State) (c : Fin 48) : State :=
  let i := s.nextIndex c
  let a := s.descAddr c i
  let int := s.ringInt c
  let tag := s.freeTag (if int then 1024 else 0)
  let s := s.modDch c fun x =>
    { x with fetches := x.fetches ++ [⟨tag, a, 32, i, x.retries, s.now, false⟩]
             bell := false, stopBell := false, retries := 0 }
  if int then s else s.sendLink (.memRead c tag a 32)

/-- A fetch has failed: it is issued again in its place, with those behind it; once its retries are used up the
channel halts when its descriptor would come into progress (R340). -/
def State.fetchFails (s : State) (c : Fin 48) (r : DmaRead) : State :=
  let from_ := fun (i : Nat) => (i + s.ringSize c - s.g (F.DMA_Cc_HEAD_V c) % s.ringSize c) % s.ringSize c
  let behind := s.modDch c fun x => x.stale fun q => decide (from_ r.off < from_ q.off)
  if r.tries < s.g (F.DMA_Cc_CFG_RETRY_MAX c) then
    (behind.bump (F.DMA_Cc_RETRIES_V c)).modDch c fun x => { x with retries := r.tries + 1, fetchFail := none }
  else
    let st := s.exhausted c
    let s := behind.setErrAddr c r.target
    if (s.dch c).ahead = 0 then s.haltOnFetch c st
    else s.modDch c fun x => { x with fetchFail := some st, retries := 0 }

/-- A descriptor has been read: taken with OWN = 1, discarded with OWN = 0, and those fetched behind it with it
(R324, R325). -/
def State.fetchTakes (s : State) (c : Fin 48) (r : DmaRead) (raw : List Byte) : State :=
  let d : Desc := ⟨(List.range 32).map fun i => raw.getD i 0⟩
  let first := (s.dch c).fetched.isEmpty
  if d.flag 0 then
    let s := (s.cleanCells (descCells c r.off)).modDch c fun x => { x with fetched := x.fetched ++ [d], stopped := false }
    if first then (s.setChanState c 1).beginHead c else s
  else
    let s := s.modDch c fun x => { x.stale (fun _ => true) with retries := 0, fetchFail := none }
    if first then
      let s := s.modDch c fun x => { x with pollT := s.now, bell := r.rung }
      if s.chanState c = 2 then s
      else (s.setChanState c 2).setCause (F.DMA_Cc_CAUSE_EMPTY c)
    else s.modDch c fun x => { x with stopped := true, stopBell := false }

/-- A channel that stops with no descriptor in progress and no fetch outstanding is IDLE (R338). -/
def State.idleIfStopped (s : State) (c : Fin 48) : State :=
  let x := s.dch c
  if s.chanState c = 3 && x.fetched.isEmpty && x.fetches.isEmpty then
    (s.setChanState c 0).setCause (F.DMA_Cc_CAUSE_ABORTED c)
  else s

/-- A fetch of a channel returns: 32 bytes, or a bus error. -/
def State.fetchReturn (s : State) (c : Fin 48) (r : DmaRead) (data : Option (List Byte)) : State :=
  let s := s.modDch c fun x => { x with fetches := x.fetches.filter fun q => q.tag != r.tag }
  let k := s.chanState c
  if k = 3 then s.idleIfStopped c
  else if r.len = 0 then s
  else if k = 1 ∨ k = 2 then
    match data with
    | some raw => s.fetchTakes c r raw
    | none => s.fetchFails c r
  else s

/-! ## START, ABORT, DOORBELL, polling (R325, R338, R341) -/

/-- A write of 1 to START in IDLE or HALTED: the channel begins at HEAD; a fetch of the run before it that is
still outstanding returns to no effect (R341). -/
def State.chanStart (s : State) (c : Fin 48) : State :=
  if s.chanState c = 0 ∨ s.chanState c = 4 then
    let s := s.modDch c fun x => { x.stale (fun _ => true) with
      fetched := [], stopped := false, stopBell := false, bell := false, issued := 0, landed := 0, pieces := []
      halfDone := false, ending := none, fetchFail := none, retries := 0 }
    s.setChanState c 1
  else s

/-- A write of 1 to START, which a power request may hold off (14 R405). -/
def State.dmaStart (s : State) (c : Fin 48) : State := s.unlessHeld s.anyGoingDown fun s => s.chanStart c

/-- A write of 1 to ABORT. -/
def State.dmaAbort (s : State) (c : Fin 48) : State :=
  if s.chanState c = 3 then s
  else
    let live := s.chanState c = 1 ∨ s.chanState c = 2
    let s := (s.setChanState c 3).modDch c fun x => { x with abortT := s.now, fetchFail := none }
    if live then (s.modDch c fun x => { x with fetched := x.fetched.take 1, pieces := [] }).idleIfStopped c
    else (s.modDch c fun x => { x with fetched := [] }).idleIfStopped c

/-- A write of 1 to DOORBELL: noted at the fetches that are outstanding; while prefetch is stopped the next turn
fetches, and in WAIT with no fetch outstanding (R324, R325). -/
def State.dmaBell (s : State) (c : Fin 48) : State :=
  let k := s.chanState c
  if k = 1 ∨ k = 2 then
    s.modDch c fun x => { x with
      fetches := x.fetches.map fun r => { r with rung := true }
      stopBell := x.stopBell || (k == 1 && x.stopped)
      bell := x.bell || (k == 2 && x.live.isEmpty) }
  else s

/-- DMA_START (R341). -/
def execDmaStart (c : Fin 48) (s : State) : Out := .next (s.atBlock (A.DMA_Cc_CTL c) fun s => s.dmaStart c)

/-- DMA_ABORT (R338). -/
def execDmaAbort (c : Fin 48) (s : State) : Out := .next (s.atBlock (A.DMA_Cc_CTL c) fun s => s.dmaAbort c)

/-- DOORBELL (R325). -/
def execDoorbell (c : Fin 48) (s : State) : Out := .next (s.atBlock (A.DMA_Cc_CTL c) fun s => s.dmaBell c)

/-- POLL_EXPIRY: a channel in WAIT fetches again every POLL us (R325). -/
def execPollExpiry (c : Fin 48) (s : State) : Out :=
  let poll := s.g (F.DMA_Cc_CFG_POLL c)
  let due := !s.seqRun && s.up .core && s.chanState c == 2 && decide (0 < poll)
    && decide ((s.dch c).pollT + us poll ≤ s.now)
  .next (if due then s.modDch c fun x => { x with bell := x.live.isEmpty, pollT := s.now } else s)

/-! ## Write-back (R327-R329) -/

/-- Whether a push of a channel still waits for a slot of an update FIFO (R334). -/
def State.pushWaits (s : State) (c : Fin 48) : Bool :=
  allBars.any fun n => (s.bar n).nst.stalled.any fun p => p.master == .dma c

/-- Whether every byte of a closed frame has been delivered (07 R203). -/
def CamPort.frameSent (p : CamPort) : Bool :=
  match p.store.find? (fun f => !f.eof) with
  | some f => decide (f.bytes ≤ f.sent)
  | none => false

/-- The FABRIC cycle in which a time lies (13 Table 13.2). -/
def fabricCycle (t : Nat) : Nat := t / ns 1

/-- The code of the condition that came first, of those (cycle, code) that stop an operation: the lowest code of the
earliest cycle (01 R31). -/
def firstStop (code : Nat) (cycle : Nat) : List (Nat × Nat) → Nat
  | [] => code
  | (k, st) :: r =>
    if k < cycle then firstStop st k r else if k = cycle then firstStop (min code st) cycle r
    else firstStop code cycle r

/-- The conditions that have stopped the descriptor in progress of a channel: an end of its own, an abort. -/
def State.stops (s : State) (c : Fin 48) : List (Nat × Nat) :=
  let x := s.dch c
  (match x.ending with | some st => [(fabricCycle x.endT, st)] | none => [])
    ++ (if s.chanState c = 3 then [(fabricCycle x.abortT, Status.aborted.code)] else [])

/-- The status with which the descriptor in progress ends now, and EOF; none while it goes on (R327,
R329, R338). -/
def State.endStatus (s : State) (c : Fin 48) (d : Desc) : Option (Nat × Bool) :=
  let x := s.dch c
  let quiet := x.reads.all (fun r => r.len == 0) && !s.pushWaits c
  let eof := dmaClass c == .camera && (s.cam (chanPort c)).frameSent && x.landed == x.issued
  if !quiet then none
  else match x.ending with
    | some st => some (firstStop st (fabricCycle x.endT) (s.stops c), false)
    | none =>
      if x.landed = d.len then some (0, eof)
      else if s.chanState c = 3 then some (Status.aborted.code, false)
      else if eof then some (0, true)
      else none

/-- The cause bits and the next state of the channel after a write-back (R327, R328). -/
def State.afterWriteback (s : State) (c : Fin 48) (d : Desc) (st : Nat) : State :=
  if st = 0 then
    let s := s.setCauseIf (d.flag 2) (F.DMA_Cc_CAUSE_FULL c)
    if s.chanState c = 3 then (s.modDch c fun x => { x with fetched := [] }).idleIfStopped c
    else if d.flag 3 then (s.modDch c fun x => { x with fetched := [] }).setChanState c 0
    else
      let s := s.beginHead c
      match (s.dch c).fetchFail with
      | some e => if (s.dch c).ahead = 0 then s.haltOnFetch c e else s
      | none => s
  else if st = Status.aborted.code then (s.modDch c fun x => { x with fetched := [] }).idleIfStopped c
  else
    let dom := decide (st = Status.domainLost.code) || decide (st = Status.powerDenied.code)
    let s := (s.modDch c fun x => { x with fetched := [], fetchFail := none }).setCause
      (if dom then F.DMA_Cc_CAUSE_DOMAIN c else F.DMA_Cc_CAUSE_HALTED c)
    if s.chanState c = 3 then s.idleIfStopped c else s.setChanState c 4

/-- The two writes of a write-back: RESIDUE, then bytes 0 to 3 with OWN 0, STATUS and EOF (R327). -/
def State.writeRing (s : State) (c : Fin 48) (d : Desc) (st residue : Nat) (eof : Bool) : State :=
  let a := s.descAddr c (s.g (F.DMA_Cc_HEAD_V c))
  let w0 := d.num 0 4 / 2 % 128 * 2 + st * 2 ^ 8 + b2n eof * 2 ^ 16 + d.num 0 4 / 2 ^ 17 * 2 ^ 17
  if s.ringInt c then
    (s.memWrite (.dma c) (a + 24) ((leBytes 4 residue).map some)).memWrite (.dma c) a ((leBytes 4 w0).map some)
  else
    (s.sendLink (.memWrite c (a + 24) (leBytes 4 residue))).sendLink (.memWrite c a (leBytes 4 w0))

/-- Whether a write-back can reach the ring. -/
def State.ringReach (s : State) (c : Fin 48) : Bool := s.ringInt c || s.linkOpen

/-- The descriptor in progress is done with: LAST, DESCS, HEAD past it, the stream position of a raster
channel behind its bytes, a delivered frame finished. -/
def State.passDescriptor (s : State) (c : Fin 48) (st : Nat) (eof : Bool) : State :=
  let x := s.dch c
  let h := s.g (F.DMA_Cc_HEAD_V c) + 1
  let s := s.put (F.DMA_Cc_HEAD_V c) (if s.ringSize c ≤ h then 0 else h)
  let s := s.put (F.DMA_Cc_STATUS_LAST c) st
  let s := if dmaClass c = .raster then
      s.modRsp (chanBar c) fun r => { r with inPos := r.inPos + x.landed } else s
  let s := if dmaClass c = .camera then
      (s.modCam (chanPort c) fun p => p.modDelivering fun f =>
        let f := f.rewound
        { f with eof := f.eof || eof }).freeStore (chanPort c)
    else s
  s.modDch c fun x => { x with
    fetched := x.fetched.drop 1, issued := 0, landed := 0, halfDone := false, pieces := [], ending := none }

/-- The descriptor in progress ends with a status: written back, event raised (R327, R328). -/
def State.writeBack (s : State) (c : Fin 48) (d : Desc) (st : Nat) (eof : Bool) : State :=
  let s := (s.writeRing c d st (d.len - (s.dch c).landed) eof).bump (F.DMA_Cc_DESCS_V c)
  (s.passDescriptor c st eof).afterWriteback c d st

/-- The status and EOF of the write-back that a channel has ready (R327-R329, R338, R339). -/
def State.ready (s : State) (c : Fin 48) : Option (Desc × Nat × Bool) :=
  if (s.chanState c == 1 || s.chanState c == 3) && s.ringReach c then
    match s.inProgress c with
    | some d => (s.endStatus c d).map fun x => (d, x)
    | none => none
  else none

/-! ## Power (R342, R343) -/

/-- Whether a channel refuses to let a domain go: a descriptor it owns targets it, or for PD_HOST its ring
lies in host memory and it is in RUN or STOPPING (R342). -/
def State.chanRefuses (s : State) (c : Fin 48) (d : Domain) : Bool :=
  let k := s.chanState c
  let live := k == 1 || k == 2 || k == 3
  (live && (s.dch c).fetched.any fun x => !x.bad (dmaClass c) && x.targets c d)
    || (d == .host && !s.ringInt c && (k == 1 || k == 3))

/-- The status of a descriptor that a domain loss stops: OK when its last byte has landed, else the code of what
stopped it first: an end of its own, an abort, or the loss (R31, R338, R343). -/
def State.lossStatus (s : State) (c : Fin 48) (d : Desc) : Nat :=
  if (s.dch c).landed = d.len && (s.dch c).ending.isNone then 0
  else firstStop Status.domainLost.code (fabricCycle s.now) (s.stops c)

/-- The descriptor in progress is stopped by the loss of a domain: written back when its ring can be
reached, in LAST alone otherwise (R343). -/
def State.loseDescriptor (s : State) (c : Fin 48) (d : Desc) : State :=
  let st := s.lossStatus c d
  if s.ringReach c then s.writeBack c d st false
  else (s.passDescriptor c st false).afterWriteback c d st

/-- A channel with no descriptor in progress loses the memory of its ring: it halts with DOMAIN_LOST in LAST,
or is IDLE when an abort was stopping it (R338, R343). -/
def State.loseRing (s : State) (c : Fin 48) : State :=
  let s := s.modDch c fun x => x.stale fun _ => true
  if s.chanState c = 3 then
    ((s.modDch c fun x => { x with fetched := [] }).setChanState c 0).setCause (F.DMA_Cc_CAUSE_ABORTED c)
  else
    ((s.put (F.DMA_Cc_STATUS_LAST c) Status.domainLost.code).setChanState c 4).setCause (F.DMA_Cc_CAUSE_DOMAIN c)

/-- Whether the descriptor in progress of a channel is stopped by the loss of a domain (R342, R343). -/
def State.lossHits (s : State) (c : Fin 48) (d : Domain) : Option Desc :=
  (s.inProgress c).filter fun x => (!x.bad (dmaClass c) && x.targets c d) || (d == .host && !s.ringInt c)

/-- The forced loss of a domain stops a channel at a burst boundary (R343). Reads of the channel that are
outstanding land nothing. A descriptor that has landed whole ends with OK, and the loss stops the next. -/
def State.chanLoses (s : State) (c : Fin 48) (d : Domain) : State :=
  let s := s.modDch c fun x => { x with reads := x.reads.map fun r => { r with len := 0 } }
  match s.lossHits c d with
  | none => s
  | some x =>
    let s := s.loseDescriptor c x
    match s.lossHits c d with
    | some y => if s.chanState c = 1 then s.loseDescriptor c y else s
    | none => s

/-- Every channel that a domain's loss affects stops: its descriptor in progress targets the domain, or its
ring lies in host memory and PD_HOST is lost. -/
def State.dmaLoses (s : State) (d : Domain) : State :=
  allChans.foldl (fun (s : State) c =>
    let k := s.chanState c
    let s := if (k == 1 || k == 3) && (s.lossHits c d).isSome then s.chanLoses c d else s
    if d == .host && !s.ringInt c && (s.inProgress c).isNone && (s.chanState c == 1 || s.chanState c == 3) then
      s.loseRing c
    else s) s

/-! ## Bus errors of host reads (R339, R363) -/

/-- The channel that holds a tag, its read, and whether that is a descriptor fetch. -/
def State.tagOwner (s : State) (tag : Nat) : Option (Fin 48 × DmaRead × Bool) :=
  allChans.findSome? fun c =>
    let x := s.dch c
    match x.reads.find? (fun r => r.tag == tag) with
    | some r => some (c, r, false)
    | none => (x.fetches.find? fun r => r.tag == tag).map fun r => (c, r, true)

/-- A read leaves the list of outstanding reads. -/
def State.dropRead (s : State) (c : Fin 48) (tag : Nat) : State :=
  s.modDch c fun x => { x with reads := x.reads.filter fun r => r.tag != tag }

/-- A bus error of the request of a tag (R339). -/
def State.busError (s : State) (tag : Nat) : State :=
  match s.tagOwner tag with
  | some (c, r, false) => (s.dropRead c tag).readFails c r
  | some (c, r, true) => s.fetchReturn c r none
  | none => s

/-- Every outstanding host read ends as a bus error (R363). -/
def State.linkLost (s : State) : State :=
  (s.tagsUsed.filter (· < 1024)).foldl State.busError s

/-- Whether the completion timeout is disabled in configuration space (Table 12.1). -/
def State.timeoutOff (s : State) : Bool := (s.hl.cap .devCtl2).getLsbD 4

/-- COMPLETION_TIMEOUT (R339, R364, Table 12.3). -/
def execCompletionTimeout (tag : Fin 1024) (s : State) : Out :=
  match s.tagOwner tag with
  | some (_, r, _) =>
    .next (if s.timeoutOff then s
      else ((s.vlog 0 4 (r.addr % 2 ^ 32)).reportError .timeout false).busError tag)
  | none => .next s

/-! ## Rate limit (R336, R337) -/

/-- Max_Read_Request_Size in bytes. -/
def State.mrrs (s : State) : Nat := 128 * 2 ^ s.hl.mrrs

/-- Max_Payload_Size in bytes. -/
def State.mps (s : State) : Nat := 128 * 2 ^ s.hl.mps

/-- The bucket limit of a channel in 1/25,600 bytes. -/
def State.bucketLimit (s : State) (c : Fin 48) : Nat :=
  max (s.g (F.DMA_Cc_RATE_BURST c) * 512) (if dmaClass c = .camera then s.mps else max s.mrrs s.mps) * 25600

/-- One accrual of a channel, every 10 ns (R336). -/
def State.accrue (s : State) (c : Fin 48) : State :=
  let x := s.dch c
  if s.now < x.tokenT + ns 10 then s
  else
    let share := s.g (F.DMA_Cc_RATE_SHARE c)
    let more := if share = 0 then x.tokens else min (s.bucketLimit c) (x.tokens + share * s.g F.DMA_RL_BASE_V)
    s.modDch c fun x => { x with tokens := more, tokenT := x.tokenT + ns 10 }

/-- TOKEN_ACCRUAL (R336). -/
def execTokenAccrual (s : State) : Out :=
  .next (if s.seqRun || !s.up .core then s else allChans.foldl State.accrue s)

/-- Bytes per us at x16 (Table 11.3). -/
def rateAt16 : Nat → Nat
  | 5 => 53750 | 4 => 26875 | 3 => 13437 | 2 => 6823 | 1 => 3411 | _ => 0

/-- The host link loads DMA_RL_BASE for the trained speed and width (R337). -/
def State.loadRlBase (s : State) : State :=
  if s.bit F.SYS_HL_STATUS_LINK_UP then
    s.put F.DMA_RL_BASE_V (rateAt16 (s.g F.SYS_HL_STATUS_SPEED) * s.g F.SYS_HL_STATUS_WIDTH / 16)
  else s

end Sys2Proof.Machine
end

