-- ==== Sys2Proof/Machine/Nozzle.lean ====
section
/-!
DEFINITION. Changing the nozzle state table: the update FIFO of a bar, its window, pairs, flush
(03 R91-R102).
-/

namespace Sys2Proof.Machine

/-! ## Update words (Table 3.3a) -/

/-- Segment of an update word. -/
def updSeg (w : DWord) : Nat := w.toNat / 2 ^ 15 % 8
/-- Nozzle of an update word. -/
def updNozzle (w : DWord) : Nat := w.toNat % 2 ^ 15
/-- PAIR of an update word. -/
def updPair (w : DWord) : Bool := w.getLsbD 18
/-- HONOR_LOCK of an update word. -/
def updHonor (w : DWord) : Bool := w.getLsbD 19
/-- VALUE of an update word. -/
def updValue (w : DWord) : Byte := BitVec.ofNat 8 (w.toNat / 2 ^ 32)
/-- MASK of an update word. -/
def updMask (w : DWord) : Byte := BitVec.ofNat 8 (w.toNat / 2 ^ 40)
/-- Whether the word is void: its nozzle is above 20,479. -/
def updVoid (w : DWord) : Bool := decide (20479 < updNozzle w)
/-- BAR2 offset of the entry a word names on bar `n`. -/
def updEntry (n : Nat) (w : DWord) : Nat := entryAddr n (updSeg w) (updNozzle w)

/-- The word as the FIFO stores it for a master: INSPECT always honours locks and never writes LOCK
(R94). -/
def updStored (m : Master) (w : DWord) : DWord :=
  if m = .pair 2 then (w ||| BitVec.ofNat 64 (2 ^ 19)) &&& ~~~(BitVec.ofNat 64 (2 ^ 47)) else w

/-! ## Level (R93) -/

/-- Reserved slots of a FIFO. -/
def Nst.reservedSlots (f : Nst) : Nat := f.reserved.foldl (fun a e => a + e.2) 0

/-- LEVEL: stored words plus reserved slots. -/
def Nst.level (f : Nst) : Nat := f.fifo.length + f.reservedSlots

/-- Change a bar's FIFO; LOW_WATER is set when LEVEL falls from above NST_WATER to it or below. -/
def State.modNst (s : State) (n : Fin 32) (f : Nst → Nst) : State :=
  let old := (s.bar n).nst.level
  let s := s.modBar n fun b => { b with nst := f b.nst }
  let new := (s.bar n).nst.level
  let w := s.g (F.NST_WATER_WATER n)
  s.setCauseIf (decide (w < old) && decide (new ≤ w)) (F.NST_CAUSE_LOW_WATER n)

/-- The head is the first word of a pair with no word behind it (R100). -/
def Nst.pairWaits (f : Nst) : Bool :=
  match f.fifo with | [w] => updPair w | _ => false

/-- The wait of a lone first word begins when it stands alone at the head, and is forgotten
otherwise (R100). -/
def Nst.track (f : Nst) (now : Nat) : Nst :=
  if f.pairWaits then { f with pairSince := some (f.pairSince.getD now) }
  else { f with pairSince := none, pairWindows := 0 }

/-- The first `k` words leave a FIFO. -/
def Nst.drop (f : Nst) (k : Nat) : Nst := { f with fifo := f.fifo.drop k, gone := f.gone + k }

/-- The word of its bank that holds word `i` of a FIFO (11 Table 11.6; log 81). -/
def Nst.cell (f : Nst) (n i : Nat) : Nat := unmappedWord (80 + n) ((f.gone + i) % 1024) 0

/-- Put a word at the end of a FIFO. -/
def Nst.append (f : Nst) (w : DWord) (now : Nat) : Nst := { f with fifo := f.fifo ++ [w] }.track now

/-! ## Pushing (R92-R94) -/

/-- A write to NST_UPD_LO: the master's lower half is held (R92). -/
def State.updLo (s : State) (m : Master) (n : Fin 32) (w : Word) : State :=
  s.modBar n fun b => { b with nst := { b.nst with held := Cells.insert b.nst.held m.key (w &&& 0xFFFFF#32) } }

/-- The slots reserved for a master. -/
def Nst.reservedOf (f : Nst) (m : Master) : Nat := (Cells.find? f.reserved m.key).getD 0

/-- Reserve `k` slots for a master. -/
def Nst.withReserved (f : Nst) (m : Master) (k : Nat) : Nst :=
  { f with reserved := Cells.insert f.reserved m.key k }

/-- A word enters a bar's FIFO, changed by `f` before it. -/
def State.enterUpd (s : State) (n : Fin 32) (f : Nst → Nst) (w : DWord) : State :=
  (s.cleanCells [(s.bar n).nst.cell n (s.bar n).nst.fifo.length]).modNst n fun x => (f x).append w s.now

/-- Push a word for a master: it takes a slot that its master has reserved; without one it enters when a
slot is free and no earlier push waits, and waits behind those otherwise (R93). -/
def State.pushUpd (s : State) (m : Master) (n : Fin 32) (w : DWord) : State :=
  let w := updStored m w
  let f := (s.bar n).nst
  if 0 < f.reservedOf m then s.enterUpd n (fun f => f.withReserved m (f.reservedOf m - 1)) w
  else if f.level < 1024 ∧ f.stalled = [] then s.enterUpd n id w
  else s.modNst n fun f => { f with stalled := f.stalled ++ [⟨m, w, s.now⟩] }

/-- A write to NST_UPD_HI pushes the master's held lower half with it (R92). -/
def State.updHi (s : State) (m : Master) (n : Fin 32) (w : Word) : State :=
  let lo := (Cells.find? (s.bar n).nst.held m.key).getD 0
  s.pushUpd m n (BitVec.ofNat 64 (lo.toNat + w.toNat % 2 ^ 16 * 2 ^ 32))

/-- NST_UPD_LO_WRITE (R92). -/
def execNstUpdLoWrite (m : Master) (n : Fin 32) (w : Word) (s : State) : Out :=
  .next (s.atBlock (A.NST_CTL n) fun s => s.updLo m n w)

/-- NST_UPD_HI_PUSH (R92-R94, R102). -/
def execNstUpdHiPush (m : Master) (n : Fin 32) (w : Word) (s : State) : Out :=
  .next (s.atBlock (A.NST_CTL n) fun s => s.updHi m n w)

/-- The oldest waiting push completes when a slot is free (R93). -/
def State.stalledPush (s : State) (n : Fin 32) : State :=
  match (s.bar n).nst.stalled with
  | [] => s
  | p :: r =>
    if (s.bar n).nst.level < 1024 then s.enterUpd n (fun f => { f with stalled := r }) p.word
    else s

/-- A write of 1 to NST_CTL.FLUSH (R101). -/
def State.flushNst (s : State) (n : Fin 32) : State :=
  let k := (s.bar n).nst.fifo.length
  let s := (s.bumpBy (F.NST_FLUSHED_V n) k).setCauseIf (decide (0 < k)) (F.NST_CAUSE_FLUSHED n)
  s.modNst n fun f => (f.drop k).track s.now

/-- FLUSH (R101). -/
def execFlush (n : Fin 32) (s : State) : Out := .next (s.atBlock (A.NST_CTL n) fun s => s.flushNst n)

/-! ## Pushes of the data port (12 R371) -/

/-- Whether a push of the data port waits for a slot of an update FIFO (R93, R371). -/
def State.dptBusy (s : State) : Bool := allBars.any fun n => (s.bar n).nst.stalled.any fun p => p.master == .dpt

/-- The result of a data-port access is recorded (12 R371). -/
def State.dptDone (s : State) (st : Status) : State :=
  if s.seqRun then s
  else
    let s := (s.put F.DPT_STATUS_LAST st.code).bump F.DPT_ACCESSES_V
    if st = .ok then s else s.bump F.DPT_ERRORS_V

/-- A change after which no push of the data port waits any more ends the access that waited. -/
def State.dptSettle (f : State → State) (s : State) : State :=
  let t := f s
  if s.dptBusy && !t.dptBusy then t.dptDone .ok else t

/-! ## Applying words (R98, R99, Table 11.7) -/

/-- Whether R98 would skip a word for its lock; an entry in an uncorrectable word is written whatever its
LOCK (Table 11.7). -/
def State.updSkips (s : State) (n : Nat) (w : DWord) : Bool :=
  updHonor w && !s.badAt (updEntry n w) && (s.byteAt (updEntry n w)).getLsbD 7

/-- A write of one table byte through port A: in an uncorrectable word the other 7 entries are
rewritten as 0x03; the word has fresh check bits (R347, Table 11.7). -/
def State.setEntry (s : State) (a : Nat) (b : Byte) : State :=
  let s := if s.badAt a then s.setBytes (a / 8 * 8) (List.replicate 8 0x03#8) else s
  (s.cleanWord (a / 8)).setByte a b

/-- The entry of a word is read through port A, which meets the errors of its word (R347). -/
def State.readUpd (s : State) (n : Nat) (w : DWord) : State := s.readErrs (updEntry n w) 1

/-- A word skipped for its lock (R98, R99). -/
def State.countSkip (s : State) (n : Fin 32) (k : Nat) : State :=
  (s.bumpBy (F.NST_LOCK_SKIP_V n) k).setCause (F.NST_CAUSE_LOCK_SKIP n)

/-- Masked bits of the entry that a word names take VALUE (R98). -/
def State.writeUpd (s : State) (n : Fin 32) (w : DWord) : State :=
  let a := updEntry n w
  (s.setEntry a ((s.byteAt a &&& ~~~(updMask w)) ||| (updValue w &&& updMask w))).bump (F.NST_APPLIED_V n)

/-- Apply one word that is not void: its entry is written, or the word is skipped (R98). -/
def State.applyUpd (s : State) (n : Fin 32) (w : DWord) : State :=
  if s.updSkips n w then (s.readUpd n w).countSkip n 1 else (s.readUpd n w).writeUpd n w

/-- Discard `k` void words (Table 3.3a, R99). -/
def State.discardVoid (s : State) (n : Fin 32) (k : Nat) : State :=
  (s.bumpBy (F.NST_BAD_ADDR_V n) k).setCause (F.NST_CAUSE_BAD_ADDR n)

/-- Take one word that stands for itself: void, skipped or applied (R98, Table 3.3a). -/
def State.applyOne (s : State) (n : Fin 32) (w : DWord) : State :=
  if updVoid w then s.discardVoid n 1 else s.applyUpd n w

/-! ## The other port (R91, R345) -/

/-- The bank of a bar's table slice (Table 11.6). -/
def tableBank (n : Fin 32) : Fin 116 := ⟨32 + n.val, by omega⟩

/-- Port B's write of the PORT cycle in which port A took its word number `k`: a write of both to the same
word, inside a page and so of an update window, counts in NST_COLLISIONS and sets COLLISION (R91). -/
def State.tablePortB (s : State) (n : Fin 32) (pb : List PortBWrite) (k : Nat) (wrote : Option Nat) : State :=
  let s := s.portB (tableBank n) pb k wrote
  if (s.bar n).inPage && collides (tableBank n) pb k wrote then (s.bump (F.NST_COLLISIONS_V n)).setCause (F.NST_CAUSE_COLLISION n)
  else s

/-! ## Pairs and the head (R95, R99, R100) -/

/-- Whether a pair is skipped whole: an entry is locked when its word would apply (R99). -/
def State.pairSkips (s : State) (n : Fin 32) (a b : DWord) : Bool :=
  s.updSkips n a || (s.applyUpd n a).updSkips n b

/-- The 64-bit word of the table that a word writes when it is taken alone: none when it is void or
skipped. -/
def State.wordOf (s : State) (n : Fin 32) (w : DWord) : Option Nat :=
  if updVoid w || s.updSkips n w then none else some (updEntry n w / 8)

/-- Take one word in port A's cycle number `k`, and then port B's write of that cycle (R91, R98, R345). -/
def State.takeOne (s : State) (n : Fin 32) (pb : List PortBWrite) (k : Nat) (w : DWord) : State :=
  (s.applyOne n w).tablePortB n pb k (s.wordOf n w)

/-- Apply a pair whole, skip it whole for a lock, or discard it whole when void, in port A's cycles `k` and `k + 1`;
port B's write of each follows the word of that cycle (R99, R345). -/
def State.applyPair (s : State) (n : Fin 32) (pb : List PortBWrite) (k : Nat) (a b : DWord) : State :=
  if updVoid a || updVoid b then ((s.discardVoid n 2).tablePortB n pb k none).tablePortB n pb (k + 1) none
  else if s.pairSkips n a b then
    let s := (s.readUpd n a).tablePortB n pb k none
    ((s.readUpd n b).countSkip n 2).tablePortB n pb (k + 1) none
  else
    let s := ((s.readUpd n a).writeUpd n a).tablePortB n pb k (some (updEntry n a / 8))
    ((s.readUpd n b).writeUpd n b).tablePortB n pb (k + 1) (some (updEntry n b / 8))

/-- Take the next word, or the next pair, from the head within a budget, from port A's cycle number `k` on: the state
after and the units used; none when nothing may be taken (R95, R99, R100). -/
def State.takeHead (s : State) (n : Fin 32) (pb : List PortBWrite) (k budget : Nat) : Option (State × Nat) :=
  let f := (s.bar n).nst
  match f.fifo with
  | [] => none
  | w :: r =>
    if budget = 0 then none
    else if updPair w then
      match r with
      | [] => none
      | w2 :: _ =>
        if budget < 2 then none
        else
          let s := (s.readCells [f.cell n 0, f.cell n 1]).modNst n fun f => (f.drop 2).track s.now
          some (s.applyPair n pb k w w2, 2)
    else
      let s := (s.readCells [f.cell n 0]).modNst n fun f => (f.drop 1).track s.now
      some (s.takeOne n pb k w, 1)

/-! ## Windows (R95-R97, R100) -/

/-- The window's loop: `fuel` bounds the words, `used` counts the units (R95). -/
def State.windowLoop (n : Fin 32) (limit : Nat) (pb : List PortBWrite) : Nat → Nat → State → State
  | 0, _, s => s
  | fuel + 1, used, s =>
    match s.takeHead n pb used (limit - used) with
    | none => s
    | some (s, k) =>
      let s := s.modBar n fun b => { b with nst := { b.nst with windowUsed := used + k } }
      State.windowLoop n limit pb fuel (used + k) s

/-- Whether the bar's FIFO may apply words now: HOLD is 0 and its domain is on. -/
def State.updOpen (s : State) (n : Fin 32) : Bool :=
  !s.seqRun && s.up (barDomain n) && !s.bit (F.NST_CTL_HOLD n)

/-- Whether the bar stands in the span of the window of the last line tick: inside a page or band, from
16,640 ns to 17,459.2 ns after its SY edge (R95), which follows the tick by 80 ns (Table 13.3). -/
def State.inWindowSpan (s : State) (n : Fin 32) : Bool :=
  !s.seqRun && s.up (barDomain n) && (s.bar n).inPage && s.grid.ticked
    && decide (s.grid.tickT + ns (80 + 16640) ≤ s.now) && decide (s.now < s.grid.tickT + ns (80 + 17459) + ns 1 / 5)

/-- The window of the last tick opens: a lone first word has waited through one more, HOLD or not (R100). -/
def State.openWindow (s : State) (n : Fin 32) : State :=
  s.modBar n fun b => { b with nst := { b.nst with
    windowTick := some s.tick
    windowUsed := 0
    pairWindows := if b.nst.pairWaits then b.nst.pairWindows + 1 else b.nst.pairWindows } }

/-- UPDATE_WINDOW: the window of the last line tick, once a tick; it takes no word while HOLD is 1 (R95-R97,
R100). -/
def execUpdateWindow (n : Fin 32) (pb : List PortBWrite) (s : State) : Out :=
  if !s.inWindowSpan n || (s.bar n).nst.windowTick == some s.tick then .next s
  else
    let s := s.openWindow n
    let limit := s.g (F.NST_CTL_UPD_LIMIT n)
    .next (if s.bit (F.NST_CTL_HOLD n) then s else State.windowLoop n limit pb limit 0 s)

/-- UPDATE_APPLY_IMMEDIATE: outside a page and band the word at the head applies as it reaches it
(R97). -/
def execUpdateApplyImmediate (n : Fin 32) (s : State) (pb : List PortBWrite := []) : Out :=
  if !s.updOpen n || (s.bar n).inPage then .next s
  else match s.takeHead n pb 0 2 with
    | some (s', _) => .next s'
    | none => .next s

/-- Whether a lone first word may be applied now: outside a page after 10 us; inside one in the window
after the 16 that it waited through, within UPD_LIMIT (R95, R100; log 78). -/
def State.pairAloneDue (s : State) (n : Fin 32) : Bool :=
  let b := s.bar n
  if b.inPage then
    s.inWindowSpan n && b.nst.windowTick == some s.tick && decide (16 < b.nst.pairWindows)
      && decide (b.nst.windowUsed < s.g (F.NST_CTL_UPD_LIMIT n))
  else decide (max (b.nst.pairSince.getD s.now) b.outT + us 10 ≤ s.now)

/-- PAIR_ALONE: a lone first word has waited through 16 windows, or 10 us outside a page (R100). A void word
waits and counts like any other, and is discarded (DESIGN CHOICE, log 78). -/
def execPairAlone (n : Fin 32) (s : State) (pb : List PortBWrite := []) : Out :=
  match (s.bar n).nst.fifo with
  | [w] =>
    if !s.updOpen n || !updPair w || !s.pairAloneDue n then .next s
    else
      let used := (s.bar n).nst.windowUsed
      let k := if (s.bar n).inPage then used else 0
      let s := (s.readCells [(s.bar n).nst.cell n 0]).modNst n fun f =>
        { f.drop 1 with windowUsed := k + 1 }.track s.now
      let t := s.takeOne n pb k w
      .next ((t.bump (F.NST_PAIR_ALONE_V n)).setCause (F.NST_CAUSE_PAIR_ALONE n))
  | _ => .next s

end Sys2Proof.Machine
end

