-- ==== Sys2Proof/Machine/Pairs.lean ====
section
/-!
DEFINITION. A sequencer pair: registers, core control registers, data memory, checkpoints and
rollback, traps, handler entry, waits' conditions, start and halt (09 R255-R261, R280, R281; 10
R287-R297, R301-R310). Instructions and outputs follow in Krytis.lean.
-/

namespace Sys2Proof.Machine

/-! ## Registers (R260, R261) -/

/-- A register; K0 reads 0. -/
def Pair.kr (p : Pair) (r : Fin 16) : Word := if r = 0 then 0 else p.k[r]

/-- Write a register; a write to K0 is discarded. -/
def Pair.setK (p : Pair) (r : Fin 16) (w : Word) : Pair := if r = 0 then p else { p with k := p.k.set r w }

/-- The level: 8 the thread, 0 to 7 handlers, 9 the trap handler (R289). -/
def Pair.level (p : Pair) : Nat := Word.field (p.ccr 0x010) 0 4

/-- Set STATUS.LEVEL. -/
def Pair.setLevel (p : Pair) (l : Nat) : Pair := p.setCcr 0x010 (Word.insert (p.ccr 0x010) 0 4 l)

/-- The rank of a level: the thread below level 0, the trap level above 7 (R289). -/
def levelRank (l : Nat) : Nat := if l = 8 then 0 else if l ≤ 7 then l + 1 else 10

/-- The event router's master for a pair. -/
def pairMaster (j : Fin 4) : Master := .pair j

/-- Where the instruction and data memories of a pair lie in the memory space (Table 1.8). -/
def imemBase (j : Nat) : Nat := 0x05000000 + j * 0x40000
/-- See `imemBase`. -/
def dmemBase (j : Nat) : Nat := 0x05020000 + j * 0x40000

/-! ## Intervals (R301-R304) -/

/-- A fresh interval from the pair's present state. -/
def Pair.openInterval (p : Pair) (now : Nat) : Pair :=
  { p with cur := { k := p.k, pc := p.pc, cr := p.cr, start := now } }

/-- A checkpoint closes: the open interval awaits its comparison, CKPTS counts (R301, R302). -/
def Pair.close (p : Pair) (now : Nat) : Pair :=
  let p := { p with closed := p.closed ++ [{ p.cur with closeT := now }] }
  (p.setCcr 0x030 (p.ccr 0x030 + 1)).openInterval now

/-- The oldest closed interval passes: its outputs may leave the commit buffer (R303). -/
def Pair.passOne (p : Pair) : Pair :=
  match p.closed with
  | [] => p
  | i :: r => { p with closed := r, ready := p.ready ++ i.outs }

/-- The checkpoint before an instruction that begins an interval closes, once (R302). -/
def Pair.closeFor (p : Pair) (now : Nat) : Pair :=
  if p.cur.pre then p else { p.close now with cur := { (p.close now).cur with pre := true } }

/-- Whether every earlier interval has passed its comparison and every output has left the commit buffer, the
checkpoint before the next instruction closed (R274, R301, R304). -/
def Pair.settled (p : Pair) : Bool := p.cur.pre && p.closed.isEmpty && p.ready.isEmpty

/-- Entries of the commit buffer. -/
def Pair.buffered (p : Pair) : Nat :=
  p.ready.length + (p.closed.flatMap (·.outs)).length + p.cur.outs.length

/-- Every output in the buffer, oldest first. -/
def Pair.outputs (p : Pair) : List Output := p.ready ++ p.closed.flatMap (·.outs) ++ p.cur.outs

/-- An output enters the commit buffer (R272). -/
def Pair.issue (p : Pair) (o : Output) (now : Nat) : Pair :=
  { p with cur := { p.cur with outs := p.cur.outs ++ [o], firstOut := some (p.cur.firstOut.getD now) } }

/-- Whether a closing moment of R302 has come that no instruction brings about: 4,096 cycles, 48 cycles
after the oldest output, a full undo record. -/
def Pair.closeDue (p : Pair) (now : Nat) : Bool :=
  decide (p.cur.start + ns 4096 ≤ now)
    || (match p.cur.firstOut with | some t => decide (t + ns 48 ≤ now) | none => false)
    || decide (512 ≤ p.cur.undo.length)

/-! ## The pair's own data memory (R256, R270) -/

/-- A store to the pair's own data memory, with the old words in the undo record (R302, R305). -/
def State.dmemStore (s : State) (j : Fin 4) (off : Nat) (bs : List Byte) : State :=
  let a := dmemBase j + off
  let words := (wordsOf off bs.length).filter fun w => !(s.pair j).cur.undo.any fun u => u.1 == w
  let s := s.modPair j fun p =>
    if 512 < p.cur.undo.length + words.length then p.close s.now else p
  let words := (wordsOf off bs.length).filter fun w => !(s.pair j).cur.undo.any fun u => u.1 == w
  let old := words.map fun w => (w, s.bytesAt (dmemBase j + 8 * w) 8)
  let s := s.modPair j fun p => { p with cur := { p.cur with undo := old ++ p.cur.undo } }
  s.storeBytes a bs

/-- Undo the data-memory writes of an interval. -/
def State.undoWrites (s : State) (j : Fin 4) (i : Interval) : State :=
  i.undo.foldl (fun s u => s.storeBytes (dmemBase j + 8 * u.1) u.2) s

/-! ## Reservations of update FIFO slots (03 R93) -/

/-- The bar whose update FIFO a store pushes into: a write to NST_UPD_HI, or 8 bytes at NST_UPD_LO
(R272; 03 R92). -/
def pushesBar (o : Output) : Option Nat :=
  match o with
  | .store a bs =>
    let r := a % 0x10000
    if 0x100000 ≤ a ∧ a < 0x300000 ∧ ((0x4020 ≤ r ∧ r < 0x4028) ∨ (0x5000 ≤ r ∧ r < 0x6000)) then
      if bs.length = 8 ∨ a % 8 = 4 then some ((a - 0x100000) / 0x10000) else none
    else none
  | .command w =>
    if w.toNat / 2 ^ 48 = 0x1101 then some (w.toNat / 2 ^ 20 % 32) else none

/-- The slot reserved for an output is released. -/
def State.releaseSlot (s : State) (j : Fin 4) (o : Output) : State :=
  match pushesBar o with
  | none => s
  | some n =>
    s.modNst (Fin.ofNat 32 n) fun f => f.withReserved (pairMaster j) (f.reservedOf (pairMaster j) - 1)

/-- A slot is reserved for an output that needs one: none when the FIFO is full, unless its domain
is off (R93). -/
def State.reserveSlot (s : State) (j : Fin 4) (o : Output) : Option State :=
  match pushesBar o with
  | none => some s
  | some n =>
    if !s.up (barDomain n) then some s
    else if 1024 ≤ (s.bar (Fin.ofNat 32 n)).nst.level then none
    else some (s.modNst (Fin.ofNat 32 n) fun f =>
      f.withReserved (pairMaster j) (f.reservedOf (pairMaster j) + 1))

/-! ## The boot ROM and the watchdog (R311, R313) -/

/-- Whether a pair's PC lies in the boot ROM (R313). -/
def State.inRom (s : State) (j : Fin 4) : Bool :=
  j = 3 && s.boot.rom && decide (0x1C000 ≤ (s.pair j).pc) && decide ((s.pair j).pc < 0x20000)

/-- Whether the boot ROM runs and kicks the watchdog: the SERVICE pair executes in it (R313, R318). -/
def State.romRuns (s : State) : Bool := s.inRom 3 && !s.halted 3

/-- A kick. -/
def State.kick (s : State) : State := { s with boot := { s.boot with kickT := s.now, warned := false } }

/-- The SERVICE pair is about to leave the ROM, which has kicked until now (R313). -/
def State.romKicks (s : State) (j : Fin 4) : State := if j = 3 && s.romRuns then s.kick else s

/-! ## Halting (R306, R309) -/

/-- The watchdog's grace begins when the SERVICE pair halts with EN = 1 (R312). -/
def State.graceCheck (s : State) (j : Fin 4) : State :=
  if j = 3 && s.bit F.SEQ_WD_CFG_EN && s.boot.wdOn && s.graceSince.isNone then
    (({ s with graceSince := some s.now }).setCause F.SEQ_GCAUSE_WD_GRACE).graceCheckMet
  else s

/-- The pair halts with a cause (Table 10.7). -/
def State.haltPair (s : State) (j : Fin 4) (cause : Nat) : State :=
  let s := (s.romKicks j).modPair j fun p => { p with mode := .halted, stepReq := false }
  let s := (s.put (F.SEQ_Pj_STATUS_HALT_CAUSE j) cause).setCause (F.SEQ_Pj_CAUSE_HALTED j)
  s.graceCheck j

/-- A halt is requested: a checkpoint closes, and the pair halts once it has passed and every output
has reached its target; a wait is given up with PC at it (R302, R309). -/
def State.haltRequest (s : State) (j : Fin 4) (cause : Nat) : State :=
  match (s.pair j).mode with
  | .running => s.modPair j fun p => { p.close s.now with mode := .halting cause }
  | .waiting _ => s.modPair j fun p => { p.close s.now with mode := .halting cause }
  | _ => s

/-- The pair stops at the instruction it has come to, for a breakpoint, a step or a double trap: the
checkpoint closes, and the pair halts once it has passed its comparison and every output has reached its
target (R301, R309). -/
def State.stopHere (s : State) (j : Fin 4) (cause : Nat) : State :=
  s.modPair j fun p => { p.close s.now with mode := .halting cause }

/-! ## Traps (R280, R292) -/

/-- The causes of Table 9.13. -/
inductive Trap where
  | fetch | illegal | stack | dataAddr | misaligned | ecc | bus
  deriving DecidableEq, Repr

/-- The code of a trap. -/
def Trap.code : Trap → Nat
  | .fetch => 1 | .illegal => 2 | .stack => 3 | .dataAddr => 4 | .misaligned => 5 | .ecc => 6 | .bus => 7

/-- An instruction traps: the TRAP registers are written and the trap is delivered, or the pair halts on
a double trap (R280, R292). -/
def State.trap (s : State) (j : Fin 4) (t : Trap) (addr : Nat) : State :=
  let s := s.modPair j fun p =>
    ((p.setCcr 0x005 (BitVec.ofNat 32 t.code)).setCcr 0x006 (BitVec.ofNat 32 p.pc)).setCcr 0x007 (BitVec.ofNat 32 addr)
  let p := s.pair j
  if 9 ≤ p.level then s.stopHere j 5
  else s.modPair j fun p =>
    let l := p.level
    let p := (p.setCcr 0x028 (BitVec.ofNat 32 p.pc)).setCcr 0x029 (BitVec.ofNat 32 l)
    { p.setLevel 9 with pc := (p.ccr 0x011).toNat }

/-! ## Slots and handlers (R287-R291) -/

/-- EVSEL of a slot. -/
def Pair.evsel (p : Pair) (i : Nat) : Word := p.ccr (0x040 + i)

/-- Whether a slot is pending. -/
def Pair.slotPending (p : Pair) (i : Nat) : Bool := (p.ccr 0x012).getLsbD i

/-- Clear the pending bit of a slot. -/
def Pair.clearSlot (p : Pair) (i : Nat) : Pair := p.setCcr 0x012 (Word.insert (p.ccr 0x012) i 1 0)

/-- Whether a slot is deliverable (R289). -/
def Pair.deliverable (p : Pair) (i : Nat) : Bool :=
  let e := p.evsel i
  e.getLsbD 11 && e.getLsbD 12 && p.slotPending i && (p.ccr 0x010).getLsbD 4
    && decide (levelRank p.level < Word.field e 8 3 + 1)

/-- The slot delivered next: the highest level, then the lowest slot (R289). -/
def Pair.nextSlot (p : Pair) : Option Nat :=
  (List.range 32).foldl (fun (a : Option Nat) i =>
    if p.deliverable i then
      match a with
      | some b => if Word.field (p.evsel b) 8 3 < Word.field (p.evsel i) 8 3 then some i else some b
      | none => some i
    else a) none

/-- Entry to the handler of a slot at a level (R290). -/
def Pair.enterHandler (p : Pair) (slot level : Nat) : Pair :=
  let l := p.level
  let p := (p.setCcr (0x018 + level) (BitVec.ofNat 32 p.pc)).setCcr (0x020 + level) (BitVec.ofNat 32 l)
  let p := (p.setLevel level).setCcr 0x013 (BitVec.ofNat 32 slot)
  { p with pc := ((p.ccr 0x011).toNat + 0x20 + 4 * level) % 2 ^ 32 }

/-! ## Waits (R294-R297, Table 10.3) -/

/-- Completion codes. -/
def waitTimeout : Word := 0x80000001#32
/-- NOT_ARMED. -/
def waitNotArmed : Word := 0x80000002#32
/-- NOT_RUNNING. -/
def waitNotRunning : Word := 0x80000003#32
/-- INTERRUPTED. -/
def waitInterrupted : Word := 0x80000004#32

/-- The slot that a WAITE of a mask returns: the lowest of the mask that is pending and not delivered
now; a step suppresses delivery (R295, R310). -/
def Pair.waitSlot (p : Pair) (mask : Word) : Option Nat :=
  (List.range 32).find? fun i => mask.getLsbD i && p.slotPending i && (p.stepReq || p.nextSlot != some i)

/-- The completion code of a wait whose condition is met or can no longer be met (R295-R297). -/
def State.waitCode (s : State) (p : Pair) (w : WaitFor) : Option Word :=
  match w with
  | .slots mask => (p.waitSlot mask).map (BitVec.ofNat 32)
  | .comparator c =>
    if s.bit ⟨A.POS_CMP_CAUSE, c.val, 1⟩ then some 0
    else if !s.bit (F.POS_CMPc_CTL_ARM c) then some waitNotArmed
    else none
  | .line b t =>
    if t < s.tick then some (BitVec.ofNat 32 ((t + 1) % 2 ^ 31))
    else if !s.bit F.GRID_CTL_RUN || !s.bit (F.FPE_CTL_EN b) || !s.up (barDomain b) then some waitNotRunning
    else none

/-- A wait completes with a code, every earlier interval having passed: the code is the input of the
wait's interval, and execution goes on after the wait (R294, R304). -/
def Pair.endWait (p : Pair) (w : Wait) (code : Word) : Pair :=
  let p := match w.cond with
    | .slots _ => if code.getLsbD 31 then p else p.clearSlot code.toNat
    | _ => p
  let p := { p with mode := .running, cur := { p.cur with input := some (.code code), pre := false }, pc := (p.pc + 4) % 2 ^ 32 }
  p.setK w.rd code

/-- Whether a pair executes: running, no restore in progress, PD_CORE on with its clocks, no reset sequence. -/
def State.runs (s : State) (j : Fin 4) : Bool :=
  !s.seqRun && s.up .core && !s.power.stopped && (s.pair j).mode == .running && (s.pair j).restoring.isNone

/-- The wait of a pair. -/
def State.waitOf (s : State) (j : Fin 4) : Option Wait :=
  if s.seqRun || !s.up .core || s.power.stopped || (s.pair j).restoring.isSome then none
  else match (s.pair j).mode with | .waiting w => some w | _ => none

/-- Whether the timeout of a wait has passed before now, and whether it has come (R294). -/
def Wait.late (w : Wait) (now : Nat) : Bool × Bool :=
  match w.deadline with
  | some t => (decide (t < now), decide (t ≤ now))
  | none => (false, false)

/-- The condition or the timeout of a wait has come with a code: the wait completes, once every earlier interval
has passed; a step ends with it (R294, R304, R310). -/
def State.finishWait (s : State) (j : Fin 4) (w : Wait) (code : Word) : State :=
  if !(s.pair j).closed.isEmpty then s.modPair j fun p => { p with mode := .waiting { w with code := some code } }
  else
    let s := s.modPair j fun p => p.endWait w code
    if (s.pair j).stepReq then s.stopHere j 6 else s

/-- WAIT_COMPLETE (R294-R297): a condition that comes after the timeout completes nothing; a code that has come
completes the wait once every earlier interval has passed. -/
def execWaitComplete (j : Fin 4) (s : State) : Out :=
  match s.waitOf j with
  | none => .next s
  | some w => match w.code, s.waitCode (s.pair j) w.cond with
    | some c, _ => .next (s.finishWait j w c)
    | none, some c => .next (if (w.late s.now).1 then s else s.finishWait j w c)
    | none, none => .next s

/-- WAIT_TIMEOUT (R294). -/
def execWaitTimeout (j : Fin 4) (s : State) : Out :=
  match s.waitOf j with
  | none => .next s
  | some w => match w.code with
    | some c => .next (s.finishWait j w c)
    | none =>
      let late := w.late s.now
      .next (if late.1 || (late.2 && (s.waitCode (s.pair j) w.cond).isNone) then
          s.finishWait j w waitTimeout else s)

/-- The checkpoint before a handler entry closes; a wait, before which every interval has passed, ends with
INTERRUPTED (R294, R302). -/
def Pair.closeForHandler (p : Pair) (now : Nat) : Pair :=
  match p.mode with
  | .waiting w =>
    if p.closed.isEmpty then
      let p := p.endWait w waitInterrupted
      { p.close now with cur := { (p.close now).cur with pre := true } }
    else p
  | _ => p.closeFor now

/-- The handler of the next slot is entered, the input of the interval that has just begun (R289, R290,
R304). -/
def Pair.deliver (p : Pair) : Pair :=
  match p.nextSlot with
  | none => p
  | some i =>
    let l := Word.field (p.evsel i) 8 3
    ({ p with cur := { p.cur with input := some (.handler i l), pre := false } }.clearSlot i).enterHandler i l

/-- HANDLER_ENTRY (R289, R290, R302, R304): the checkpoint closes before the entry, and the handler is entered
once every earlier interval has passed. A step is taken, and the recorded input of a re-executed interval
used, with no delivery before it (R304, R310). -/
def execHandlerEntry (j : Fin 4) (s : State) : Out :=
  let p := s.pair j
  if !(s.runs j || (s.waitOf j).isSome) || p.stepReq || p.replay.isSome || p.nextSlot.isNone then .next s
  else if !p.cur.pre || (s.waitOf j).isSome then .next (s.modPair j fun p => p.closeForHandler s.now)
  else .next (if p.closed.isEmpty then (s.romKicks j).modPair j Pair.deliver else s)

/-! ## Comparison and rollback (R301-R306) -/

/-- The core control registers at a checkpoint, with those a rollback does not restore as they are now
(R281, R293). -/
def Pair.restoredCr (p : Pair) (i : Interval) : Cells Word :=
  ([0x005, 0x006, 0x007, 0x012, 0x030, 0x031, 0x032].foldl
    (fun (q : Pair) n => q.setCcr n (p.ccr n)) { p with cr := i.cr }).cr

/-- The outputs of every interval that has not passed are discarded, the state of the failed interval's
start returns (R305). -/
def State.rewind (s : State) (j : Fin 4) (i : Interval) : State :=
  let p := s.pair j
  let lost := p.closed.flatMap (·.outs) ++ p.cur.outs
  let s := lost.foldl (fun s o => s.releaseSlot j o) s
  let s := (p.cur :: p.closed.reverse).foldl (fun s x => s.undoWrites j x) s
  s.modPair j fun p =>
    let cr := p.restoredCr i
    let p := { p with k := i.k, pc := i.pc, cr := cr, closed := [], replay := i.input }
    { p.openInterval s.now with restoring := some s.now }

/-- The failed interval is re-executed (R305); with it a step, a breakpoint or a double trap that stopped the
pair in it. A halt that was requested goes on. -/
def State.rollback (s : State) (j : Fin 4) (i : Interval) : State :=
  let s := (s.rewind j i).modPair j fun p =>
    let p := p.setCcr 0x031 (p.ccr 0x031 + 1)
    let m := match p.mode with | .halting c => (if c = 2 ∨ c = 3 then PairMode.halting c else .running) | _ => .running
    { p with mode := m, noBrk := p.noBrk || p.stepReq, cur := { p.cur with retry := true, input := i.input } }
  (s.bump (F.SEQ_Pj_ROLLBACKS_V j)).setCause (F.SEQ_Pj_CAUSE_ROLLBACK j)

/-- The third failed retry within 1 ms halts the pair (R306). -/
def State.lockstepHalt (s : State) (j : Fin 4) (i : Interval) : State :=
  ((s.rewind j i).haltPair j 4).put (F.SEQ_Pj_STATUS_RESTORING j) 1

/-- The failed retries of the last 1 ms, with a failing interval that is one. -/
def Pair.failsNow (p : Pair) (i : Interval) (now : Nat) : List Nat :=
  (if i.retry then p.fails ++ [now] else p.fails).filter fun t => decide (now ≤ t + ms 1)

/-- Whether a failure of an interval now is the third failed retry within 1 ms (R306). -/
def Pair.thirdFailure (p : Pair) (i : Interval) (now : Nat) : Bool :=
  i.retry && decide (3 ≤ (p.failsNow i now).length)

/-- An interval fails its comparison (R305, R306). -/
def State.compareFails (s : State) (j : Fin 4) (i : Interval) : State :=
  let p := s.pair j
  let fs := p.failsNow i s.now
  let third := p.thirdFailure i s.now
  let s := s.modPair j fun p => { p with fails := fs }
  let s := if i.retry then s.bump (F.SEQ_Pj_FAILRETRY_V j) else s
  if third then s.lockstepHalt j i else s.rollback j i

/-- CHECKPOINT_COMPARE (R301, R305): 8 cycles after its close the oldest closed interval passes, or fails
because the cores' signatures differ. -/
def execCheckpointCompare (j : Fin 4) (agree : Bool) (s : State) : Out :=
  let p := s.pair j
  match p.closed with
  | [] => .next s
  | i :: _ =>
    if s.seqRun || !s.up .core || p.restoring.isSome || decide (s.now < i.closeT + ns 8) then .next s
    else if agree then .next (s.modPair j Pair.passOne)
    else .next (s.compareFails j i)

/-- LOCKSTEP_HALT (R306): the oldest closed interval fails and it is the third failed retry within
1 ms. -/
def execLockstepHalt (j : Fin 4) (s : State) : Out :=
  let p := s.pair j
  match p.closed with
  | [] => .next s
  | i :: _ =>
    if s.seqRun || !s.up .core || p.restoring.isSome || decide (s.now < i.closeT + ns 8)
        || !p.thirdFailure i s.now then .next s
    else .next (s.compareFails j i)

/-- RESTORE_DONE (R304-R306): the restore ends; a recorded handler entry is repeated. -/
def execRestoreDone (j : Fin 4) (s : State) : Out :=
  let p := s.pair j
  if s.seqRun || !s.up .core || p.restoring.isNone then .next s
  else
    let s := s.put (F.SEQ_Pj_STATUS_RESTORING j) 0
    .next (s.modPair j fun p =>
      let p := { p with restoring := none }
      if p.mode == .halted then p
      else match p.replay with
        | some (.handler i l) => { p with replay := none }.enterHandler i l
        | _ => p)

/-! ## Starting (R307, R308) -/

/-- Whether the sequencers' debug controls act (R310, R441). -/
def State.debugOn (s : State) : Bool := decide (s.g F.SYS_LC_STATE ≤ 1)

/-- A halted pair starts at its entry; `how` as STARTINFO reports it (R308). -/
def State.launch (s : State) (j : Fin 4) (how : Nat) : State :=
  let cause := s.g (F.SEQ_Pj_STATUS_HALT_CAUSE j)
  let entry := s.g (F.SEQ_Pj_ENTRY_V j) / 4 * 4
  let sp := s.g (F.SEQ_Pj_SP_V j) / 8 * 8
  let s := s.modPair j fun p =>
    let p : Pair := { mode := .running, ready := p.ready, pc := entry, startT := s.now }
    let p := (p.setK 14 (BitVec.ofNat 32 sp)).setCcr 0x032 (BitVec.ofNat 32 (how + cause * 2 ^ 8))
    p.openInterval s.now
  let s := (s.put (F.SEQ_Pj_STATUS_HALT_CAUSE j) 0).put (F.SEQ_Pj_STATUS_RESTORING j) 0
  if j = 3 then { s with graceSince := none, graceMet := none, boot := { s.boot with load := none } } else s

/-- A start is refused (R308). -/
def State.startRefused (s : State) (j : Fin 4) (command : Bool) : Bool :=
  (decide (2 ≤ s.g F.SYS_LC_STATE) && !s.bit (F.SEQ_Pj_STATUS_LOADED j))
    || (j = 3 && !command && !s.debugOn)

/-- A start of a pair (R308): no effect on a running pair. -/
def State.startPairAt (s : State) (j : Fin 4) (command : Bool) : State :=
  if !s.halted j then s
  else if s.startRefused j command then s.setCause (F.SEQ_Pj_CAUSE_START_REFUSED j)
  else s.launch j (if command then 2 else 1)

/-! ## Debug (R310) -/

/-- KDATA as read. -/
def State.kdataRead (s : State) (j : Fin 4) : Word :=
  let k := s.g (F.SEQ_Pj_KSEL_V j)
  if !s.debugOn || !s.halted j then 0
  else if k = 16 then BitVec.ofNat 32 (s.pair j).pc
  else if k < 16 then (s.pair j).kr (Fin.ofNat 16 k)
  else 0

/-- A write of KDATA. -/
def State.kdataWrite (s : State) (j : Fin 4) (w : Word) : State :=
  let k := s.g (F.SEQ_Pj_KSEL_V j)
  if !s.debugOn || !s.halted j then s
  else if k = 16 then s.modPair j fun p => { p with pc := w.toNat / 4 * 4 }
  else if k < 16 then s.modPair j fun p => p.setK (Fin.ofNat 16 k) w
  else s

/-- RESUME (R310; 14 R405): a halted pair continues from its PC. -/
def State.resumePair (s : State) (j : Fin 4) : State :=
  if !s.debugOn || !s.halted j || (s.pair j).restoring.isSome then s
  else
    s.unlessHeld (s.holdsPair j) fun s =>
      let s := s.modPair j fun p => { p.openInterval s.now with mode := .running, noBrk := true }
      let s := s.put (F.SEQ_Pj_STATUS_HALT_CAUSE j) 0
      if j = 3 then { s with graceSince := none, graceMet := none } else s

/-- STEP (R310; 14 R405) is requested; the instruction executes at once, at the end of the access. -/
def State.stepRequest (s : State) (j : Fin 4) : State :=
  if !s.debugOn || !s.halted j || (s.pair j).restoring.isSome then s
  else s.unlessHeld (s.holdsPair j) fun s => s.modPair j fun p => { p with stepReq := true }

/-- Whether a breakpoint stands at the pair's PC (R310). -/
def State.atBreak (s : State) (j : Fin 4) : Bool :=
  let p := s.pair j
  s.debugOn && !p.noBrk
    && ((s.bit (F.SEQ_Pj_BRK0_EN j) && s.g (F.SEQ_Pj_BRK0_ADDR j) == p.pc / 4)
      || (s.bit (F.SEQ_Pj_BRK1_EN j) && s.g (F.SEQ_Pj_BRK1_ADDR j) == p.pc / 4))

/-- BREAKPOINT (R310). -/
def execBreakpoint (j : Fin 4) (s : State) : Out :=
  .next (if s.runs j && s.atBreak j then s.stopHere j 7 else s)

/-- A read of SEQ_Pj_KDATA, or a write of a value (R310). -/
def execKdata (j : Fin 4) (write : Option Word) (s : State) : Out :=
  match write with
  | some w => .next (s.atBlock (A.SEQ_Pj_KDATA j) fun s => s.kdataWrite j w)
  | none =>
    if s.seqRun then .next (s.answer (leBytes 4 0) false 0)
    else if !s.up .core then .next ((s.unpowered (A.SEQ_Pj_KDATA j)).answer (leBytes 4 0) false 0)
    else .next (s.answer (leBytes 4 (s.kdataRead j).toNat) false 0)

/-- A write of 1 to SEQ_Pj_CTL.START (R308). -/
def execSeqStart (j : Fin 4) (s : State) : Out :=
  .next (s.atBlock (A.SEQ_Pj_CTL j) fun s => s.unlessHeld (s.holdsPair j) fun s => s.startPairAt j false)

/-- A write of 1 to SEQ_Pj_CTL.HALT (R309, R310). -/
def State.seqHalt (s : State) (j : Fin 4) : State := if s.debugOn then s.haltRequest j 2 else s

/-- SEQ_HALT (R309). -/
def execSeqHalt (j : Fin 4) (s : State) : Out := .next (s.atBlock (A.SEQ_Pj_CTL j) fun s => s.seqHalt j)

/-- HALT_COMPLETE (R309): the checkpoint has passed and every output has reached its target. -/
def execHaltComplete (j : Fin 4) (s : State) : Out :=
  let p := s.pair j
  match p.mode with
  | .halting c =>
    if s.seqRun || !s.up .core || p.restoring.isSome || !p.closed.isEmpty || !p.ready.isEmpty then .next s
    else .next (s.haltPair j c)
  | _ => .next s

/-- SEQ_RESUME (R310). -/
def execSeqResume (j : Fin 4) (s : State) : Out :=
  .next (s.atBlock (A.SEQ_Pj_CTL j) fun s => s.resumePair j)

/-! ## Watchdog (R311, R312) and software events (R319) -/

/-- SEQ_WD_KICK (R311): a store of master `m`; only the SERVICE pair kicks. -/
def execSeqWdKick (m : Master) (s : State) : Out :=
  .next (s.atBlock A.SEQ_WD_KICK fun s => if m = .pair 3 then s.kick else s)

/-- Whether the watchdog counts: enabled, no reset sequence, not in STANDBY or HIBERNATE nor in the entry phases
before them (R311, R312, R407, R418). -/
def State.wdRuns (s : State) : Bool :=
  !s.seqRun && s.boot.wdOn && s.bit F.SEQ_WD_CFG_EN && !s.romRuns && decide (s.g F.PWR_STATUS_STATE < 2)
    && decide (s.g F.PWR_STATUS_PHASE < 2)

/-- WD_WARN (R311): half of PERIOD has passed without a kick; the cause is set once for a kick. -/
def execWdWarn (s : State) : Out :=
  let half := ms (s.g F.SEQ_WD_CFG_PERIOD) / 2
  .next (if s.wdRuns && !s.boot.warned && decide (s.boot.kickT + half ≤ s.now) then
      { s with boot := { s.boot with warned := true } }.setCause F.SEQ_GCAUSE_WD_WARN
    else s)

/-- A write to SEQ_SWEV: bit k raises event 0xF4 + k (R319). -/
def State.swEvents (s : State) (mask : Nat) : State :=
  (List.range 4).foldl (fun s k => if mask.testBit k then s.raiseEvent (0xF4 + k) else s) s

/-- SEQ_SWEV (R319). -/
def execSeqSwev (mask : BitVec 4) (s : State) : Out :=
  .next (s.atBlock A.SEQ_SWEV fun s => s.swEvents mask.toNat)

end Sys2Proof.Machine
end

