-- ==== Sys2Proof/Machine/Otp.lean ====
section
/-!
DEFINITION. The OTP array, its slots and shadow, the start-up checks, and the commands of the OTP
controller up to their end (15 R423-R446).
-/

namespace Sys2Proof.Machine

/-! ## Words (R423, R424) -/

/-- An unburned word. -/
def otpBlank (_ : Nat) : Word := 0#32

/-- The bits of a copy that read 1 at both references. -/
def State.otpStrong (s : State) (copy w : Nat) : Word :=
  Cells.get otpBlank (if copy = 0 then s.otp.strong0 else s.otp.strong1) w

/-- The bits of a copy that read 1 at the low reference only. -/
def State.otpWeak (s : State) (copy w : Nat) : Word :=
  Cells.get otpBlank (if copy = 0 then s.otp.weak0 else s.otp.weak1) w

/-- A normal read: the OR of the copies; a free value in the bits that only weak bits hold. -/
def State.otpWord (s : State) (w : Nat) : Word :=
  let hard := s.otpStrong 0 w ||| s.otpStrong 1 w
  let soft := (s.otpWeak 0 w ||| s.otpWeak 1 w) &&& ~~~hard
  if soft = 0 then hard else hard ||| (soft &&& Config.weakBits w)

/-- A copy as read at the low and the high reference (R428). -/
def State.otpLow (s : State) (copy w : Nat) : Word := s.otpStrong copy w ||| s.otpWeak copy w

/-- Set the bits of a copy of a word. -/
def State.setOtp (s : State) (copy w : Nat) (strong weak : Word) : State :=
  if copy = 0 then
    { s with otp := { s.otp with
      strong0 := Cells.set otpBlank s.otp.strong0 w strong, weak0 := Cells.set otpBlank s.otp.weak0 w weak } }
  else
    { s with otp := { s.otp with
      strong1 := Cells.set otpBlank s.otp.strong1 w strong, weak1 := Cells.set otpBlank s.otp.weak1 w weak } }

/-- Bits of a copy whose burning is cut short: some are burned, some read 1 at one reference only (R444). -/
def State.burnPart (s : State) (copy w : Nat) (burned weak : Word) : State :=
  let st := s.otpStrong copy w ||| burned
  s.setOtp copy w st ((s.otpWeak copy w ||| weak) &&& ~~~st)

/-- Bits of a copy have been burned, but for those that still fail (R429). -/
def State.burnEnd (s : State) (copy w : Nat) (bits fail : Word) : State :=
  let st := s.otpStrong copy w
  let bad := bits &&& fail &&& ~~~st
  s.setOtp copy w (st ||| (bits &&& ~~~bad)) ((s.otpWeak copy w &&& ~~~bits) ||| bad)

/-- Whether burning bits of a word needs a pulse. -/
def State.needsPulse (s : State) (w : Nat) (bits : Word) : Bool :=
  (bits &&& ~~~(s.otpStrong 0 w &&& s.otpStrong 1 w)) != 0

/-! ## Regions and slots (Table 15.1, R430, R431) -/

/-- The words of a slot of a region. -/
def slotWords (r : Nat) : Nat := match r with | 0 => 16 | 1 => 16 | 2 => 64 | 3 => 96 | _ => 128

/-- The first word of a slot. -/
def slotBase (r sl : Nat) : Nat :=
  (match r with | 0 => 0x20 | 1 => 0x40 | 2 => 0x60 | 3 => 0xE0 | 4 => 0x1A0 | _ => 0x2A0) + sl * slotWords r

/-- Data words of a slot. -/
def slotData (r : Nat) : Nat := slotWords r - 4

/-- The region and slot of a word. -/
def regionOf (w : Nat) : Option (Nat × Nat) :=
  ((List.range 6).flatMap fun r => [(r, 0), (r, 1)]).find? fun x =>
    decide (slotBase x.1 x.2 ≤ w) && decide (w < slotBase x.1 x.2 + slotWords x.1)

/-- Whether a word is a digest word. -/
def isDigest (w : Nat) : Bool :=
  match regionOf w with
  | some (r, sl) => decide (slotBase r sl + slotData r ≤ w)
  | none => false

/-- The data words of a slot as read. -/
def State.slotRead (s : State) (r sl : Nat) : List Word :=
  (List.range (slotData r)).map fun i => s.otpWord (slotBase r sl + i)

/-- The digest words of a slot as read. -/
def State.slotDigest (s : State) (r sl : Nat) : List Word :=
  (List.range 4).map fun i => s.otpWord (slotBase r sl + slotData r + i)

/-- The digest over a slot's data words (R431). -/
def digestOf (r sl : Nat) (data : List Word) : List Word :=
  let d := sha256 (leBytes 4 (slotBase r sl) ++ data.flatMap fun w => leBytes 4 w.toNat)
  (List.range 4).map fun i => BitVec.ofNat 32 (leNat ((d.drop (4 * i)).take 4))

/-- Whether a SEAL that ended with WEAK_BIT has left a slot INCOMPLETE since the last start (R432). -/
def State.leftIncomplete (s : State) (r sl : Nat) : Bool := s.otp.left.testBit (2 * r + sl)

/-- Whether a slot counts as locked: its lock bit reads 1, and no SEAL has left it INCOMPLETE. -/
def State.slotLocked (s : State) (r sl : Nat) : Bool :=
  (s.otpWord 0x011).getLsbD (2 * r + sl) && !s.leftIncomplete r sl

/-- The state of a slot (Table 15.3; INCOMPLETE also where R432 says so). -/
def State.slotState (s : State) (r sl : Nat) : Nat :=
  let dig := s.slotDigest r sl
  if s.leftIncomplete r sl then 3
  else if s.slotLocked r sl then (if digestOf r sl (s.slotRead r sl) = dig then 1 else 2)
  else if dig.all (· == 0) then 0 else 3

/-- SEL of a region: its highest-numbered VALID slot, 2 for none (R434). -/
def State.slotSel (s : State) (r : Nat) : Nat :=
  if s.slotState r 1 = 1 then 1 else if s.slotState r 0 = 1 then 0 else 2

/-! ## Life-cycle (R438) -/

/-- H: the index of the highest burned step bit plus 1 (R438). -/
def lifeSteps (w : Word) : Nat :=
  (List.range 8).foldl (fun a i => if w.getLsbD i then i + 1 else a) 0

/-- SYS_LC from word 0x010 (Table 15.4). -/
def lifeWord (w : Word) : Word :=
  let h := lifeSteps w
  BitVec.ofNat 32 ((h + 1) / 2 + h % 2 * 2 ^ 3 + h * 2 ^ 4)

/-! ## Shadow and start-up checks (R427, R434-R436) -/

/-- The slot a shadow is loaded from: the highest-numbered slot whose lock bit is 1 (R427). -/
def lockedSlot (locks : Word) (r : Nat) : Option Nat :=
  if locks.getLsbD (2 * r + 1) then some 1 else if locks.getLsbD (2 * r) then some 0 else none

/-- The words of a region's shadow: every word of the slot, the digest last (R427). -/
def State.shadowOf (s : State) (r : Nat) (sl : Option Nat) : List Word :=
  match sl with
  | some k => s.slotRead r k ++ s.slotDigest r k
  | none => List.replicate (slotWords r) 0#32

/-- Load the shadow of a region from a slot. -/
def State.loadShadow (s : State) (r : Nat) (sl : Option Nat) : State :=
  let d := s.shadowOf r sl
  let o := { s.otp with loaded := s.otp.loaded.set r sl }
  { s with otp := match r with
    | 0 => { o with deviceId := d }
    | 1 => { o with bootKeys := d }
    | 2 => { o with repair := d }
    | _ => { o with calib := d } }

/-- Step 2 of the reset sequence: the shadow (R427, R438). -/
def State.shadowLoad (s : State) : State :=
  let lc := s.otpWord 0x010
  let locks := s.otpWord 0x011
  let s := { s with otp := { s.otp with lc := lc, locks := locks } }
  let s := s.setReg A.SYS_LC (lifeWord lc)
  (List.range 4).foldl (fun s r => s.loadShadow r (lockedSlot locks r)) s

/-- Words of the DEVICE_ID shadow in the registers that show them (R425). -/
def State.showIds (s : State) : State :=
  (s.setReg A.SYS_UID_LO (s.otp.deviceId.getD 2 0)).setReg A.SYS_UID_HI (s.otp.deviceId.getD 3 0)

/-- Step 6 of the reset sequence: slot states, SEL, shadows reloaded where SEL differs, and the integrity
findings (R434-R436). -/
def State.startupChecks (s : State) : State :=
  let s := { s with otp := { s.otp with left := 0 } }
  let s := (List.range 6).foldl (fun (s : State) r =>
    s.setReg (A.OTP_REGIONr r)
      (BitVec.ofNat 32 (s.slotState r 0 + 4 * s.slotState r 1 + 16 * s.slotSel r))) s
  let s := (List.range 4).foldl (fun (s : State) r =>
    let sel := if s.slotSel r = 2 then none else some (s.slotSel r)
    if s.otp.loaded.getD r none = sel then s else s.loadShadow r sel) s
  let keys := decide (s.slotSel 1 = 2)
  let st := fun (r sl : Nat) => s.slotState r sl
  let other := (List.range 6).any fun r =>
    (r != 1 && (st r 0 == 2 || st r 1 == 2))
      || (r == 1 && ((st 1 0 == 2 && st 1 1 == 1) || (st 1 1 == 2 && st 1 0 == 1)))
  let inc := (List.range 6).any fun r => st r 0 == 3 || st r 1 == 3
  let partly := decide (lifeSteps s.otp.lc % 2 = 1)
  let s := s.setReg A.OTP_INTEG (BitVec.ofNat 32 (b2n keys + 2 * b2n other + 4 * b2n inc + 8 * b2n partly))
  let s := ((s.putb F.SEQ_BOOT_STATUS_ALARM_KEYS keys).putb F.SEQ_BOOT_STATUS_ALARM_OTHER other).putb
    F.SEQ_BOOT_STATUS_SEAL_INCOMPLETE inc
  s.setCauseIf (keys || other || inc || partly) F.OTP_CAUSE_INTEGRITY

/-! ## Rights (R442, Table 15.6) -/

/-- Whether program and seal are allowed on a region. -/
def mayProgram (lc r : Nat) : Bool :=
  if lc ≤ 1 then true
  else if lc = 2 then r == 1 || r == 2 || r == 4 || r == 5
  else if lc = 3 then r == 2 || r == 4 || r == 5
  else false

/-- Whether a word of a region is withheld from a master's reads. -/
def withheld (lc r : Nat) (m : Master) : Bool :=
  (lc == 4 && (r == 1 || r == 5)) || (lc == 3 && r == 5 && m != .pair 3)

/-- Whether a word is withheld from a master. -/
def State.otpHidden (s : State) (m : Master) (w : Nat) : Bool :=
  match regionOf w with
  | some (r, _) => withheld (s.g F.SYS_LC_STATE) r m
  | none => false

/-- A read of OTP_WORDw (R426). -/
def State.otpRead (s : State) (m : Master) (w : Nat) : Word := if s.otpHidden m w then 0 else s.otpWord w

/-- The value of monotonic counter `k` (R437). -/
def State.otpCount (s : State) (k : Nat) : Nat :=
  (List.range 128).foldl (fun a b => if (s.otpWord (4 * k + b / 32)).getLsbD (b % 32) then b + 1 else a) 0

/-! ## Commands (R428-R433, R437, R439, R442-R445) -/

/-- Whether a bit of a word reads differently between the references in some copy. -/
def State.otpWeakWord (s : State) (w : Nat) : Bool :=
  s.otpLow 0 w != s.otpStrong 0 w || s.otpLow 1 w != s.otpStrong 1 w

/-- The status with which a command is refused; none when it runs (R432, R433, R437, R439, R442; the
lowest code applies, R31). -/
def State.otpRefusal (s : State) (m : Master) (op : OtpOp) : Option Status :=
  let lc := s.g F.SYS_LC_STATE
  let owner := decide (lc < 3) || m == .pair 3
  let why : List (Bool × Status) :=
    match op with
    | .program w _ =>
      let bad := decide (w < 0x20) || isDigest w
      let lock := match regionOf w with
        | some (r, sl) => !mayProgram lc r || s.slotState r sl != 0
        | none => false
      [(bad, .badDescriptor), (lock, .locked)]
    | .margin w _ => [(s.otpHidden m w, .locked)]
    | .seal r sl =>
      [(decide (5 < r), .badDescriptor), (decide (r ≤ 5) && (s.slotLocked r sl || !mayProgram lc r), .locked)]
    | .count _ n => [(decide (128 < n), .badDescriptor), (lc == 4, .locked)]
    | .life t =>
      let part := s.bit F.SYS_LC_PARTIAL
      let bad := t == 0 || decide (4 < t) || !(t == lc + 1 || t == 4 || (t == lc && part))
      let noSlot := (t == 2 && (s.slotSel 0 == 2 || s.slotSel 3 == 2)) || (t == 3 && s.slotSel 1 == 2)
      let lock := (lc == 4 && !(part && t == 4)) || s.anyInside
      [(bad, .badDescriptor), (lock, .locked), (noSlot, .integrity)]
    | .unknown => [(true, .badDescriptor)]
  (((!owner, Status.notOwner) :: why).find? (·.1)).map (·.2)

/-- The code of an operation. -/
def OtpOp.code (raw : Nat) : OtpOp → Nat
  | .program _ _ => 1 | .margin _ _ => 2 | .seal _ _ => 3 | .count _ _ => 4 | .life _ => 5 | .unknown => raw

/-- In RETIRED no bar is enabled (Table 15.5). -/
def State.barsRetired (s : State) : State :=
  if s.g F.SYS_LC_STATE = 4 then
    allBars.foldl (fun (s : State) (n : Fin 32) => (s.put (F.FPE_CTL_EN n) 0).tripEval n) s
  else s

/-- What a command does at once: a life-cycle transition burns its first step, from which the device decodes the new
state (R439, R440; log 75). Every other command burns by its end. -/
def State.otpBegin (s : State) (op : OtpOp) : State :=
  match op with
  | .life _ =>
    let h := lifeSteps (s.otpWord 0x010)
    let d := BitVec.ofNat 32 (2 ^ h)
    let s := if h ≤ 7 then (s.burnEnd 0 0x010 d 0).burnEnd 1 0x010 d 0 else s
    (s.setReg A.SYS_LC (lifeWord (s.otpWord 0x010))).barsRetired
  | _ => s

/-- Whether the power controller has a low-power entry accepted and not yet undone (R445). -/
def State.sleeping (s : State) : Bool :=
  decide (2 ≤ s.g F.PWR_STATUS_STATE)
    || (match s.power.req with
      | some r => r.target == .standby || r.target == .hibernate
      | none => false)

/-- A write to OTP_CMD starts a command (R443, R445). -/
def State.otpStart (s : State) (m : Master) (raw : Nat) (op : OtpOp) : State :=
  if s.bit F.OTP_STATUS_BUSY then s.setCause F.OTP_CAUSE_REJECTED
  else
    let s := s.put F.OTP_STATUS_OP (op.code raw)
    if s.sleeping then (s.put F.OTP_STATUS_LAST Status.powerDenied.code).setCause F.OTP_CAUSE_DONE
    else
      let r := s.otpRefusal m op
      let s := s.put F.OTP_STATUS_BUSY 1
      let s := { s with otp := { s.otp with cmd := some ⟨op, r.map Status.code⟩ } }
      if r.isSome then s else s.otpBegin op

/-- The operation a written OTP_CMD word names. -/
def State.otpDecode (s : State) (w : Word) : OtpOp :=
  let addr := Word.field w 8 10
  let data := s.reg A.OTP_DATA
  let arg := Word.field w 24 8
  match Word.field w 0 4 with
  | 1 => .program addr data
  | 2 => .margin addr (if w.getLsbD 4 then some data else none)
  | 3 => .seal (Word.field w 18 3) (Word.field w 21 1)
  | 4 => .count (Word.field w 22 2) arg
  | 5 => .life (if 0xA0 ≤ arg then arg - 0xA0 else 0)
  | _ => .unknown

/-- A write of a word to OTP_CMD. -/
def State.otpWrite (s : State) (m : Master) (w : Word) : State := s.otpStart m (Word.field w 0 3) (s.otpDecode w)

/-- PROGRAM of a word with OTP_DATA (R429, R433). -/
def execProgram (m : Master) (word : BitVec 10) (s : State) : Out :=
  .next (s.atBlock A.OTP_CMD fun s => s.otpStart m 1 (.program word.toNat (s.reg A.OTP_DATA)))

/-- MARGIN of a word (R428). -/
def execMargin (m : Master) (word : BitVec 10) (expect : Bool) (s : State) : Out :=
  .next (s.atBlock A.OTP_CMD fun s =>
    s.otpStart m 2 (.margin word.toNat (if expect then some (s.reg A.OTP_DATA) else none)))

/-- SEAL of a slot (R432). -/
def execSeal (m : Master) (region : Fin 8) (slot : Fin 2) (s : State) : Out :=
  .next (s.atBlock A.OTP_CMD fun s => s.otpStart m 3 (.seal region slot))

/-- CNT_ADVANCE of a counter to N (R437). -/
def execCntAdvance (m : Master) (cnt : Fin 4) (n : BitVec 8) (s : State) : Out :=
  .next (s.atBlock A.OTP_CMD fun s => s.otpStart m 4 (.count cnt n.toNat))

/-- LC_ADVANCE with its ARG (R439). -/
def execLcAdvance (m : Master) (arg : BitVec 8) (s : State) : Out :=
  .next (s.atBlock A.OTP_CMD fun s => s.otpStart m 5 (.life (if 0xA0 ≤ arg.toNat then arg.toNat - 0xA0 else 0)))

/-! ## Reads on demand -/

/-- OTP_WORD_READ (R426). -/
def execOtpWordRead (m : Master) (word : BitVec 10) (s : State) : Out :=
  .next (s.answer (leBytes 4 (if s.seqRun then 0 else (s.otpRead m word.toNat).toNat)) false 0)

/-- OTP_CNT_READ (R437). -/
def execOtpCntRead (k : Fin 4) (s : State) : Out :=
  .next (s.answer (leBytes 4 (if s.seqRun then 0 else s.otpCount k)) false 0)

/-! ## What a command's end makes of the array -/

/-- The bits of a word that still fail after 8 pulses, in each copy. -/
def failBits (fails : List (Nat × Word × Word)) (w : Nat) : Word × Word :=
  match fails.find? (·.1 == w) with
  | some (_, a, b) => (a, b)
  | none => (0, 0)

/-- Burn bits of a word to the end; whether a bit still fails (R429). -/
def State.burnWord (s : State) (fails : List (Nat × Word × Word)) (w : Nat) (bits : Word) : State × Bool :=
  let f := failBits fails w
  let s := if s.needsPulse w bits then s.bump F.OTP_WORDS_BURNED_V else s
  let s := (s.burnEnd 0 w bits f.1).burnEnd 1 w bits f.2
  (s, (bits &&& s.otpWeak 0 w) != 0 || (bits &&& s.otpWeak 1 w) != 0)

/-- The four results of a margin read of a word: each copy at the low and the high reference (R428). -/
def State.marginReads (s : State) (w : Nat) : List Word :=
  [s.otpLow 0 w, s.otpStrong 0 w, s.otpLow 1 w, s.otpStrong 1 w]

/-- The margin reads of a word are written to their registers (R428). -/
def State.noteMargin (s : State) (w : Nat) : State :=
  (((s.setReg A.OTP_MLOW0 (s.otpLow 0 w)).setReg A.OTP_MHIGH0 (s.otpStrong 0 w)).setReg A.OTP_MLOW1
    (s.otpLow 1 w)).setReg A.OTP_MHIGH1 (s.otpStrong 1 w)

/-- Burn words in order until one fails (R429, R437). -/
def State.burnAll (s : State) (fails : List (Nat × Word × Word)) : List (Nat × Word) → State × Bool
  | [] => (s, false)
  | (w, d) :: r =>
    let (s, bad) := s.burnWord fails w d
    if bad then (s, true) else s.burnAll fails r

/-- Burn the digest words in order, each followed by a margin read against the digest, until one fails (R432, step 5). -/
def State.burnDigest (s : State) (fails : List (Nat × Word × Word)) : List (Nat × Word) → State × Bool
  | [] => (s, false)
  | (w, d) :: r =>
    let (s, bad) := s.burnWord fails w d
    let s := s.noteMargin w
    if bad || (s.marginReads w).any (· != d) then (s, true) else s.burnDigest fails r

/-- The data words of a slot. -/
def slotDataWords (r sl : Nat) : List Nat := (List.range (slotData r)).map fun i => slotBase r sl + i

/-- The digest words of a slot with what a SEAL burns in them (R431, R432). -/
def State.sealDigest (s : State) (r sl : Nat) : List (Nat × Word) :=
  (digestOf r sl (s.slotRead r sl)).zipIdx.map fun x => (slotBase r sl + slotData r + x.2, x.1)

/-- Whether the digest of an INCOMPLETE slot reads a bit that the new digest does not have (R432, step 4). -/
def State.sealClash (s : State) (r sl : Nat) : Bool :=
  ((s.slotDigest r sl).zip (digestOf r sl (s.slotRead r sl))).any fun x => (x.1 &&& ~~~x.2) != 0

/-- A slot is reported in a state (R430). -/
def State.showSlot (s : State) (r sl st : Nat) : State := s.put ⟨A.OTP_REGIONr r, 2 * sl, 2⟩ st

/-- A SEAL that ends with WEAK_BIT while burning leaves its slot INCOMPLETE (R432). -/
def State.sealWeak (s : State) (r sl : Nat) : State × Status :=
  let s := { s with otp := { s.otp with left := s.otp.left ||| 2 ^ (2 * r + sl) } }
  (s.showSlot r sl 3, .weakBit)

/-- A SEAL that ends with OK makes its slot VALID (R432). -/
def State.sealOk (s : State) (r sl : Nat) : State × Status :=
  let b := 2 ^ (2 * r + sl)
  let s := { s with otp := { s.otp with left := if s.leftIncomplete r sl then s.otp.left - b else s.otp.left } }
  (s.showSlot r sl 1, .ok)

/-- SEAL (R432): the status it ends with. The margin read of step 2 stops at the first weak word. -/
def State.sealEnd (s : State) (fails : List (Nat × Word × Word)) (r sl : Nat) : State × Status :=
  match (slotDataWords r sl).find? s.otpWeakWord with
  | some w => (s.noteMargin w, .weakBit)
  | none =>
    let s := s.noteMargin (slotBase r sl + slotData r - 1)
    if s.sealClash r sl then (s, .integrity)
    else
      let (s, weak) := s.burnDigest fails (s.sealDigest r sl)
      if weak then s.sealWeak r sl
      else
        let (s, weak) := s.burnWord fails 0x011 (BitVec.ofNat 32 (2 ^ (2 * r + sl)))
        let s := s.noteMargin 0x011
        if weak then s.sealWeak r sl else s.sealOk r sl

/-- The bits of a counter from `v` up to `n - 1`, by word (R437). -/
def countWords (k v n : Nat) : List (Nat × Word) :=
  (List.range 4).filterMap fun i =>
    let d : Nat := (List.range 32).foldl (fun a b => if v ≤ 32 * i + b ∧ 32 * i + b < n then a + 2 ^ b else a) 0
    if d = 0 then none else some (4 * k + i, BitVec.ofNat 32 d)

/-- The results of a margin read (R428). -/
def State.marginEnd (s : State) (w : Nat) (expect : Option Word) : State × Status :=
  let differs := match expect with
    | some e => (s.marginReads w).any (· != e)
    | none => false
  (s.noteMargin w, if s.otpWeakWord w || differs then .weakBit else .ok)

/-- The steps of a life-cycle transition that are still to be burned (R439). -/
def State.lifeLeft (s : State) (t : Nat) : Word :=
  let h := lifeSteps (s.otpWord 0x010)
  BitVec.ofNat 32 ((List.range 8).foldl (fun a b => if h ≤ b ∧ b < 2 * t then a + 2 ^ b else a) 0)

/-- What a command that was not refused does to its end, with its status. A life-cycle transition
burns its last step (R429, R437, R439, R440). -/
def State.otpFinish (s : State) (fails : List (Nat × Word × Word)) (op : OtpOp) : State × Status :=
  match op with
  | .program w d =>
    let (s, bad) := s.burnWord fails w d
    (s, if bad then .weakBit else .ok)
  | .margin w e => s.marginEnd w e
  | .seal r sl => s.sealEnd fails r sl
  | .count k n =>
    let (s, bad) := s.burnAll fails (countWords k (s.otpCount k) n)
    (s, if bad then .weakBit else .ok)
  | .life t =>
    let d := s.lifeLeft t
    let (s, bad) := if d = 0 then (s, false) else s.burnWord fails 0x010 d
    (s.setReg A.SYS_LC (lifeWord (s.otpWord 0x010)), if bad then .weakBit else .ok)
  | .unknown => (s, .badDescriptor)

/-! ## A command that a device reset stops (R444) -/

/-- The words that a running command burns, in order, with their bits; of a SEAL those of its digest. -/
def State.burnList (s : State) : OtpOp → List (Nat × Word)
  | .program w d => [(w, d)]
  | .seal r sl => if (slotDataWords r sl).any s.otpWeakWord || s.sealClash r sl then [] else s.sealDigest r sl
  | .count k n => countWords k (s.otpCount k) n
  | .life t => [(0x010, s.lifeLeft t)]
  | _ => []

/-- The bits that a stopped command has burned and left weak in one word of its list: those of words before the `n`-th
are burned, of the `n`-th a free part. -/
def State.stopWord (s : State) (k n : Nat) (x : Nat × (Nat × Word)) : State :=
  let w := x.2.1
  let d := x.2.2
  if x.1 < n then (s.burnPart 0 w d 0).burnPart 1 w d 0
  else if x.1 = n then
    (s.burnPart 0 w (d &&& Config.stopBurned 0 k) (d &&& Config.stopWeak 0 k)).burnPart 1 w
      (d &&& Config.stopBurned 1 k) (d &&& Config.stopWeak 1 k)
  else s

/-- Whether a stopped command had begun to burn. -/
def stopPulsed (k n : Nat) (ws : List (Nat × Word)) : Bool :=
  decide (0 < n) || ws.head?.any fun x =>
    (x.2 &&& (Config.stopBurned 0 k ||| Config.stopWeak 0 k ||| Config.stopBurned 1 k ||| Config.stopWeak 1 k)) != 0

/-- The lowest bit of a word that is set. -/
def lowestBit (w : Word) : Word := w &&& (-w)

/-- The first digest bit of a SEAL that had begun to burn reads 1, so that the slot is INCOMPLETE (R444). -/
def State.stopSeal (s : State) (op : OtpOp) (ws : List (Nat × Word)) : State :=
  match op, ws.find? fun x => x.2 != 0 with
  | .seal _ _, some (w, d) => s.burnPart 0 w (lowestBit d) 0
  | _, _ => s

/-- A device reset stops the running command: how far it has come is free (R444). -/
def State.otpStop (s : State) : State :=
  match s.otp.cmd with
  | some ⟨op, none⟩ =>
    let ws := s.burnList op
    let (k, s) := s.draw
    let n := Config.stopWords k
    let s1 := (List.range ws.length).zip ws |>.foldl (fun (s : State) x => s.stopWord k n x) s
    if stopPulsed k n ws then s1.stopSeal op ws else s1
  | _ => s

end Sys2Proof.Machine
end

