-- ==== Sys2Proof/Machine/Reset.lean ====
section
/-!
DEFINITION. Clocks, training, resets and the reset sequence (13 R379-R397; 06 R192, R193; 08 R232; 10
R307, R311-R313; 11 R348, R353; 15 R427, R434, R440, R444; 16 R458; 17 R464).
-/

namespace Sys2Proof.Machine

/-! ## Port training (13 R386-R388) -/

/-- The mark of a port whose last training found no tap; a domain that switches off leaves it, so that a later success
is one of an untrained port (R388). -/
def tapFailed : Nat := 64

/-- A training of a port ends with a tap, or finds none (R388). -/
def State.trainPort (s : State) (n : Fin 32) (tap : Option (Fin 64)) : State :=
  let f : Field := ⟨A.CLK_TRAIN_OK, n.val, 1⟩
  let failed := Cells.find? s.clk.taps n.val == some tapFailed
  let s := { s with clk := { s.clk with
    taps := Cells.insert s.clk.taps n.val (match tap with | some t => t.val | none => tapFailed)
    training := if s.clk.training.testBit n.val then s.clk.training - 2 ^ n.val else s.clk.training } }
  match tap with
  | some _ => (s.put f 1).setCauseIf failed F.CLK_CAUSE_TRAINED
  | none => (((s.put f 0).put (F.FPE_CTL_EN n) 0).setCause F.CLK_CAUSE_TRAIN_FAIL).tripEval n

/-- Ports begin training. -/
def State.beginTraining (s : State) (mask : Nat) : State :=
  { s with clk := { s.clk with training := s.clk.training ||| mask } }

/-- A write to CLK_TRAIN_CTL (R387). -/
def State.trainWrite (s : State) (mask : Nat) : State :=
  allBars.foldl (fun (s : State) (n : Fin 32) =>
    if !mask.testBit n.val || !s.up (barDomain n) then s
    else if (s.bar n).inPage || s.grid.paused then s.setCause F.CLK_CAUSE_RETRAIN_REFUSED
    else s.beginTraining (2 ^ n.val)) s

/-- CLK_TRAIN_CTL (R387). -/
def execClkTrainCtl (mask : Word) (s : State) : Out :=
  .next (s.atBlock A.CLK_TRAIN_CTL fun s => s.trainWrite mask.toNat)

/-- TRAINING_DONE (R388). -/
def execTrainingDone (n : Fin 32) (tap : Option (Fin 64)) (s : State) : Out :=
  .next (if !s.seqRun && s.clk.training.testBit n.val then s.trainPort n tap else s)

/-- The ports of every domain that is on. -/
def State.poweredPorts (s : State) : Nat :=
  allBars.foldl (fun (a : Nat) (n : Fin 32) => if s.up (barDomain n) then a + 2 ^ n.val else a) 0

/-- Whether the grid PLL is stopped: the device has no supplies, an entry has stopped the clocks, or the device sleeps
and no exit has begun (14 Table 14.1, Table 14.3, Table 14.5). -/
def State.gridStopped (s : State) : Bool :=
  s.power.off || s.power.stopped && s.power.undoT.isNone
    || decide (2 ≤ s.g F.PWR_STATUS_STATE) && s.power.exitT.isNone

/-- PLL_LOCK: the grid PLL regains lock (R387). In a reset sequence, which waits for it, the training is the
sequence's own step (Table 13.6). -/
def execPllLock (s : State) : Out :=
  .next (if s.gridStopped || s.bit F.CLK_STATUS_GRID_LOCK then s
    else
      let s := s.put F.CLK_STATUS_GRID_LOCK 1
      if s.seqRun then s else s.beginTraining s.poweredPorts)

/-! ## The link's domain (13 R396; 12 R363) -/

/-- A cause of the host link or of the clocks: its event is raised while the router works (R397). -/
def State.linkCause (s : State) (f : Field) : State :=
  if s.seqRun || !s.up .core then s.put f 1 else s.setCause f

/-- The link goes down: outstanding DMA reads end as bus errors (12 R363, Table 12.3). -/
def State.linkDown (s : State) : State :=
  if !s.bit F.SYS_HL_STATUS_LINK_UP then s
  else
    let busy := allChans.any fun c => s.chanState c == 1 || s.chanState c == 2 || s.chanState c == 3
    let s := ((s.put F.SYS_HL_STATUS_LINK_UP 0).put F.SYS_HL_STATUS_SPEED 0).put F.SYS_HL_STATUS_WIDTH 0
    let s := s.linkCause F.SYS_HL_CAUSE_LINK_DOWN
    (if busy then s.vlog 0 8 0 else s).linkLost

/-- Registers of the MSI-X table and PBA. -/
def isMsix (off : Nat) : Bool := decide (0x48000 ≤ off) && decide (off < 0x49008)

/-- Configuration space, the MSI-X table and the PBA take their reset values (R390, Link). -/
def State.resetFunction (s : State) (held : Bool) : State :=
  let s := { s with
    regs := s.regs.filter fun x => !isMsix x.1
    hl := { held := held, wakeLow := s.hl.wakeLow } }
  ((s.put F.SYS_HL_STATUS_D3HOT 0).put F.SYS_HL_STATUS_BME 0).put F.SYS_HL_STATUS_MSIX_EN 0

/-- A link reset: PD_HOST is reset and held (R396). -/
def State.linkReset (s : State) : State := (s.linkDown).resetFunction true

/-- Whether a power-on or cold sequence runs, which locks the host PLL and holds PD_HOST in reset itself (Table 13.6). -/
def State.coldSeq (s : State) : Bool := s.seqRun && s.clk.level != .warm

/-- How a link reset comes. -/
def perstKind (k : LinkResetKind) : Bool := k == .perst

/-- The state with the link reset of a kind. -/
def State.linkResets (s : State) (k : LinkResetKind) : State :=
  let s := s.put F.RST_CAUSE_LINK 1
  let s := if s.up .host then s.linkReset else s
  { s with
    clk := { s.clk with perst := s.clk.perst || perstKind k }
    hl := { s.hl with held := s.hl.held && (s.clk.perst || s.clk.hostLost || s.coldSeq) || perstKind k } }

/-- PERST_N_RELEASE (R396). -/
def execPerstNRelease (s : State) : Out :=
  .next { s with
    clk := { s.clk with perst := false }
    hl := { s.hl with held := s.hl.held && (s.clk.hostLost || s.coldSeq) } }

/-- HOST_UNLOCK (R389): PE_REFCLK is absent or the host PLL has lost lock, also in a reset sequence. -/
def execHostUnlock (s : State) : Out :=
  if s.power.off then .next s
  else if !s.bit F.CLK_STATUS_HOST_LOCK then
    .next (if s.coldSeq then { s with clk := { s.clk with hostLost := true } } else s)
  else
    let s := (s.put F.CLK_STATUS_HOST_LOCK 0).linkCause F.CLK_CAUSE_HOST_UNLOCK
    let s := s.linkReset
    .next { s with clk := { s.clk with hostLost := true } }

/-- HOST_PLL_LOCK (R389). -/
def execHostPllLock (s : State) : Out :=
  if !s.clk.hostLost then .next s
  else
    let s := s.put F.CLK_STATUS_HOST_LOCK 1
    .next { s with
      clk := { s.clk with hostLost := false }
      hl := { s.hl with held := s.clk.perst || s.coldSeq } }

/-! ## Crystal (13 R382, R389) -/

/-- XTAL_FAIL (R389). -/
def execXtalFail (s : State) : Out :=
  .next (if s.bit F.CLK_CFG_XTAL_EN && s.bit F.CLK_STATUS_XTAL_OK then
    (s.put F.CLK_STATUS_XTAL_OK 0).linkCause F.CLK_CAUSE_XTAL_FAIL else s)

/-- XTAL_RUNNING (R382). -/
def execXtalRunning (s : State) : Out :=
  .next (if s.bit F.CLK_CFG_XTAL_EN then s.put F.CLK_STATUS_XTAL_OK 1 else s)

/-- The source of the timestamp base: 0 PLL, 1 XTAL32, 2 RC (R382). -/
def State.tsSource (s : State) : Nat :=
  if s.bit F.CLK_STATUS_MAIN_LOCK then 0
  else if s.bit F.CLK_CFG_XTAL_EN && s.bit F.CLK_STATUS_XTAL_OK then 1 else 2

/-- One count of the source in use, in 2^-16 ns (R382). -/
def State.tsStep (s : State) : Nat :=
  match s.tsSource with | 0 => 65536 | 1 => 2000000000 | _ => 4096000

/-! ## Device resets (13 R390-R393) -/

/-- The place of a level in Table 13.5. -/
def ResetLevel.rank : ResetLevel → Nat
  | .powerOn => 2 | .cold => 1 | .warm => 0

/-- Registers that keep their value through a cold and a warm reset (Table 13.5; 13 RST registers, CLK_CFG;
06 XPT_LASTRUN). -/
def keptByCold (off : Nat) : Bool :=
  [A.RST_CAUSE, A.RST_LAST, A.RST_SEQ_TIME, A.CLK_CFG, A.XPT_LASTRUN].contains off

/-- Registers that keep their value through a warm reset: the state of the link, the MSI-X table and PBA, the
soft repair entries, the count of warm resets, the PLL locks (Table 13.5). The other registers of the host link
return to their Reset column (R8). -/
def keptByWarm (off : Nat) : Bool :=
  keptByCold off || isMsix off
    || [A.RST_WARM_COUNT, A.CLK_STATUS, A.SYS_HL_STATUS].contains off
    || (decide (A.MEM_SOFTREPn 0 ≤ off) && decide (off ≤ A.MEM_SOFTREPn 15))

/-- Whether a register keeps its value through a reset of a level. -/
def ResetLevel.keeps : ResetLevel → Nat → Bool
  | .powerOn, _ => false
  | .cold, off => keptByCold off
  | .warm, off => keptByWarm off

/-- XPT_LASTRUN takes the state at reset (06 R193). -/
def State.noteLastRun (s : State) : State :=
  let st := s.g F.XPT_STATUS_STATE
  let s := s.setReg A.XPT_LASTRUN 0
  (((s.putb F.XPT_LASTRUN_LEADER s.leader).putb F.XPT_LASTRUN_IN_PAGE s.anyInside).putb
    F.XPT_LASTRUN_PIROUETTE (decide (3 ≤ st) && decide (st ≤ 8))).put F.XPT_LASTRUN_STATE st

/-- Everything a reset of a level clears is at its reset state, and the sequence runs; the timestamp base
is `t`. -/
def State.cleared (s : State) (l : ResetLevel) (t : Nat) : State :=
  let xtal := s.bit F.CLK_STATUS_XTAL_OK && l != .powerOn
  let s' : State := { State.reset with
    pending := s.pending
    fresh := s.fresh
    resp := s.resp
    linkOut := s.linkOut
    now := t
    regs := s.regs.filter fun x => l.keeps x.1
    snaps := []
    hkillLow := s.hkillLow
    power := { xfltLow := s.power.xfltLow, dieTemp := s.power.dieTemp, late := s.power.late }
    otp := { s.otp with cmd := none }
    clk := { level := l, resetT := t, hostLost := s.clk.hostLost, perst := s.clk.perst }
    hl := if l = .warm then { s.hl with dialog := none, ptmT := 0 } else {} }
  s'.putb F.CLK_STATUS_XTAL_OK xtal

/-- Two times lie in one AON cycle. -/
def sameAonCycle (a b : Nat) : Bool := a / 4096000 == b / 4096000

/-- The level and the code that RST_LAST stands for after a cause: those of this reset, unless a cause of the same AON
cycle has a higher level, or at an equal level a lower code (R393). -/
def State.resetCode (s : State) (l : ResetLevel) (code : Nat) : ResetLevel × Nat :=
  let earlier := s.g F.RST_LAST_V
  if s.seqRun && sameAonCycle s.clk.resetT s.now then
    if l.rank < s.clk.cause.rank then (s.clk.cause, earlier)
    else if l.rank = s.clk.cause.rank then (l, min earlier code) else (l, code)
  else (l, code)

/-- A device reset asserts at a level with a cause (R390, R393; 06 R192, R193; 15 R444). While a sequence
runs it starts again, at the higher of the two levels. -/
def State.assertReset (s : State) (l : ResetLevel) (cause : Field) (code : Nat) : State :=
  let l' := if s.seqRun && decide (l.rank < s.clk.level.rank) then s.clk.level else l
  let s := (if l = .powerOn || s.seqRun then s else s.noteLastRun).otpStop
  let held := s.reg A.RST_CAUSE
  let last := s.reg A.XPT_LASTRUN
  let c := s.cleared l' (if l = .powerOn then 0 else s.now)
  let c := if l = .powerOn then c.setReg A.RST_CAUSE 0
    else (c.setReg A.RST_CAUSE held).setReg A.XPT_LASTRUN last
  let r := s.resetCode l code
  let c := { (c.put cause 1).put F.RST_LAST_V r.2 with clk := { c.clk with cause := r.1 } }
  if l = .warm then c.bump F.RST_WARM_COUNT_V else c

/-- POWER_ON_RESET (R390, R399; 17 R463, R464): VDD_18 is within range; `late` are the supplies that come within range
after it, with the nanoseconds until then. -/
def execPowerOnReset (s : State) (late : List (Supply × Nat) := []) : Out :=
  let s := s.assertReset .powerOn F.RST_CAUSE_POWER_ON 1
  .next { s with power := { s.power with late := late.map fun x => (x.1, ns x.2) } }

/-- BROWNOUT (14 R420). -/
def execBrownout (s : State) : Out :=
  .next (if s.power.off then s else s.assertReset .powerOn F.RST_CAUSE_BROWNOUT 2)

/-- COLD_RESET: RESET_N has been low for a number of nanoseconds and releases; a pulse below 200 ns is
ignored, one between 200 ns and 1 us may be accepted (R390, R394). -/
def execColdReset (lowNs : Nat) (s : State) : Out :=
  if s.power.off || decide (lowNs < 200) then .next s
  else if lowNs < 1000 then
    let (k, s) := s.draw
    .next (if Config.shortResetAccepted k then s.assertReset .cold F.RST_CAUSE_PIN 3 else s)
  else .next (s.assertReset .cold F.RST_CAUSE_PIN 3)

/-- A write to RST_CTL (R391): the cause tells sequencer pairs from the other masters. -/
def State.rstCtlWrite (s : State) (m : Master) (w : Word) : State :=
  if w.getLsbD 0 && Word.field w 8 8 == 0x5A then
    if isPairMaster m then s.assertReset .warm F.RST_CAUSE_SW_SEQ 6
    else s.assertReset .warm F.RST_CAUSE_SW_EXT 5
  else s

/-- RST_CTL_WARM (R391). -/
def execRstCtlWarm (m : Master) (w : Word) (s : State) : Out :=
  .next (s.atBlock A.RST_CTL fun s => s.rstCtlWrite m w)

/-- The status bits of a clock that is lost: without SYSCLK neither PLL keeps its lock (Table 13.1). -/
def State.clockGone (s : State) : ClockFault → State
  | .sysclk => ((s.put F.CLK_STATUS_MAIN_LOCK 0).put F.CLK_STATUS_GRID_LOCK 0).put F.CLK_STATUS_SYSCLK_OK 0
  | .mainPll => s.put F.CLK_STATUS_MAIN_LOCK 0
  | .gridPll => s.put F.CLK_STATUS_GRID_LOCK 0

/-- CLOCK_LOSS (R389): SYSCLK or the lock of the main or grid PLL is lost. -/
def execClockLoss (s : State) (what : ClockFault := .sysclk) : Out :=
  if s.power.off || s.power.stopped || decide (2 ≤ s.g F.PWR_STATUS_STATE) then .next s
  else .next ((s.assertReset .warm F.RST_CAUSE_CLOCK_LOSS 7).clockGone what)

/-- WATCHDOG_EXPIRE (10 R311): PERIOD has passed without a kick, and no grace runs. -/
def execWatchdogExpire (s : State) : Out :=
  let due := s.wdRuns && s.graceSince.isNone && decide (s.boot.kickT + ms (s.g F.SEQ_WD_CFG_PERIOD) ≤ s.now)
  .next (if due then s.assertReset .warm F.RST_CAUSE_WATCHDOG 4 else s)

/-- GRACE_EXPIRE (10 R312): HALT_GRACE has passed since no bar prints. -/
def execGraceExpire (s : State) : Out :=
  match s.graceMet with
  | some t =>
    let due := !s.seqRun && s.graceSince.isSome && s.bit F.SEQ_WD_CFG_EN
      && decide (t + ms (s.g F.SEQ_WD_CFG_HALT_GRACE) ≤ s.now)
    .next (if due then s.assertReset .warm F.RST_CAUSE_WATCHDOG 4 else s)
  | none => .next s

/-- POWER_REMOVAL (14 R399; 17 R464). -/
def execPowerRemoval (s : State) : Out :=
  let s := s.assertReset .powerOn F.RST_CAUSE_POWER_ON 1
  .next { s with power := { s.power with off := true } }

/-! ## Trims from the CAL_FACTORY shadow (08 R232; 15 Table 15.2) -/

/-- A byte of the shadow. -/
def State.calByte (s : State) (i : Nat) : Nat := Word.field (s.otp.calib.getD (i / 4) 0) (i % 4 * 8) 8

/-- The value and gain trim that an instance is loaded with. -/
def State.factoryTrim (s : State) (k i : Nat) : Int × Int :=
  match k with
  | 0 => (signed 8 (s.calByte i), 0)
  | 1 => (signed 8 (s.calByte (8 + i)), 0)
  | 2 => (signed 8 (s.calByte (16 + i)), signed 8 (s.calByte (48 + i)))
  | 3 => (signed 8 (s.calByte (80 + i)), 0)
  | 4 => (signed 8 (s.calByte (96 + i)), 0)
  | 5 => ((Word.field (s.otp.calib.getD (32 + i / 6) 0) (5 * (i % 6)) 5 : Nat), 0)
  | 6 => ((s.calByte (320 + i) % 64 : Nat), 0)
  | _ => (signed 8 (s.calByte (352 + i)), 0)

/-- Every trim and tap is loaded from the shadow. -/
def State.loadTrims (s : State) : State :=
  (List.range 8).foldl (fun (s : State) k =>
    (List.range (calCount k)).foldl (fun (s : State) i =>
      let t := s.factoryTrim k i
      s.modCal (calIndex k i) fun c => { c with value := t.1, gain := t.2 }) s) s

/-! ## Starting pair 3 in the boot ROM (10 R307, R313, R314) -/

/-- The boot ROM is in SERVICE instruction memory and pair 3 starts it; the watchdog is enabled. -/
def State.startRom (s : State) : State :=
  let s := s.modPair 3 fun _ =>
    let p : Pair := { mode := .running, pc := 0x1C000, startT := s.now }
    p.openInterval s.now
  let s := s.put (F.SEQ_Pj_STATUS_HALT_CAUSE 3) 0
  { s with boot := { load := none, rom := true, kickT := s.now, wdOn := true, warned := false } }

/-- The ROM has read the life-cycle state and the integrity results and waits for a load (Table 10.8). -/
def State.romWaits (s : State) : State := (s.put F.SEQ_BOOT_STATUS_STATE 1).raiseEvent 0xF9

/-! ## The reset sequence (13 R394, Table 13.6) -/

/-- Every bank is wiped (R353). -/
def State.wipeAll (s : State) : State :=
  { s with mem := [], ceBad := [], ueBad := [], banks := s.banks.map fun (b : BankS) => { b with scrub := [] } }

/-- The times from which periodic things count begin at the end of the sequence. -/
def State.startTimers (s : State) : State :=
  { s with
    cal := { s.cal with lastT := Vector.replicate 8 s.now }
    dma := s.dma.map fun (x : DmaChan) => { x with tokenT := s.now }
    hl := { s.hl with ptmT := s.now } }

/-- Steps 1 to 8: PLL locks, shadow, release of PD_HOST, repair, wipe, start-up checks, trims, training. -/
def State.sequenceSteps (s : State) (taps : Vector (Option (Fin 64)) 32) : State :=
  let s := ((s.put F.CLK_STATUS_MAIN_LOCK 1).put F.CLK_STATUS_GRID_LOCK 1).put F.CLK_STATUS_SYSCLK_OK 1
  let s := if s.clk.hostLost then s else s.put F.CLK_STATUS_HOST_LOCK 1
  let s := { s with hl := { s.hl with held := s.clk.perst || s.clk.hostLost } }
  let s := s.shadowLoad.wipeAll.startupChecks.showIds.loadTrims
  allBars.foldl (fun (s : State) (n : Fin 32) => s.trainPort n taps[n]) s

/-- Steps 9 and 10: the sequence ends and pair 3 starts. -/
def State.sequenceEnds (s : State) : State :=
  let s := { s with seqRun := false }
  let s := s.put F.RST_SEQ_TIME_V (min ((s.now - s.clk.resetT) / us 1) 65535)
  let s := if s.hkillLow then s.put F.GRID_KILL_PIN_LATCH 1 else s
  let s := s.setCauseIf ((s.reg A.XPT_LASTRUN).toNat != 0) F.XPT_CAUSE_LASTRUN
  s.loadRlBase.startTimers.startRom.romWaits

/-- RESET_SEQUENCE (R394): the whole sequence of the reset that has asserted, with the tap that training
finds for each port. -/
def execResetSequence (taps : Vector (Option (Fin 64)) 32) (s : State) : Out :=
  .next (if s.seqRun && !s.power.off then (s.sequenceSteps taps).sequenceEnds else s)

/-! ## OTP commands end (15 R439, R443) -/

/-- OTP_COMMAND_DONE: the command ends with its status; bits of `fails` still read 0 at one reference, word
by word and copy by copy. A life-cycle advance ends with a wipe and a warm reset. -/
def execOtpCommandDone (fails : List (Nat × Word × Word)) (s : State) : Out :=
  match s.otp.cmd with
  | none => .next s
  | some c =>
    if s.seqRun then .next s
    else
      let (s, st) : State × Nat := match c.refused with
        | some st => (s, st)
        | none => let r := s.otpFinish fails c.op; (r.1, r.2.code)
      let s : State := { s with otp := { s.otp with cmd := none } }
      let s := ((s.put F.OTP_STATUS_LAST st).put F.OTP_STATUS_BUSY 0).setCause F.OTP_CAUSE_DONE
      let s := s.setCauseIf (st == Status.weakBit.code) F.OTP_CAUSE_WEAK
      match c.op with
      | .life _ =>
        .next (if c.refused.isNone then s.wipeAll.assertReset .warm F.RST_CAUSE_LIFECYCLE 8 else s)
      | _ => .next s

end Sys2Proof.Machine
end

