-- ==== Sys2Proof/Machine/Power.lean ====
section
/-!
DEFINITION. Power domains and power states: requests, the entry handshake, forced power-downs, entry,
abandon and wakes (14 R398-R422; 11 R351, R352; 04 R136; 06 R194; 07 R223; 08 R252). The exit, which
serves held host requests, follows in Boot.lean.
-/

namespace Sys2Proof.Machine

/-! ## Banks at power changes (11 R351, R352) -/

/-- A byte enters the CRC, bit 7 first. -/
def crc32Byte (c : Word) (x : Byte) : Word :=
  (List.range 8).foldl (fun c i => crc32Bit c (x.getLsbD (7 - i))) c

/-- The signature of a bank: CRC-32 over its data bytes in ascending order (R352). -/
def State.signature (s : State) (b : Nat) : Word :=
  ~~~((List.range (bankKib b * 1024)).foldl (fun c i => crc32Byte c (s.byteAt (bankByte b i))) 0xFFFFFFFF#32)

/-- Whether a bank enters retention when its domain switches off (R351). -/
def State.retained (s : State) (b : Nat) : Bool :=
  bankRetains b && (s.reg (A.MEM_RET_SELw (b / 32))).getLsbD (b % 32)

/-- The bank numbers. -/
def allBanks : List (Fin 116) := List.finRange 116

/-- The memory controller reads a whole bank for its signature: corrected words count, and an uncorrectable
word is left as found (R347, R352, Table 11.7). -/
def State.readBank (s : State) (b : Nat) : State := s.readErrsIf (inBank b)

/-- A bank of a domain that switches off enters retention or goes off (R351, R352); of bank 114 only the
FIFO of that domain is lost (Table 11.6). -/
def State.bankDown (s : State) (d : Domain) (b : Fin 116) : State :=
  if (bankDomains b).any (fun e => e != d && s.up e) then s
  else if s.retained b then
    (s.readBank b).modBank b fun x => { x with power := 2, sig := (s.signature b).toNat, scrub := [] }
  else (s.zeroBank b).modBank b fun x => { x with power := 0 }

/-- The banks of a domain enter retention or go off. -/
def State.banksDown (s : State) (d : Domain) : State :=
  (allBanks.filter fun (b : Fin 116) => (bankDomains b).contains d).foldl (fun (s : State) b => s.bankDown d b) s

/-- A retained bank is found lost: wiped and reported (R352). -/
def State.bankLost (s : State) (b : Fin 116) : State :=
  let s := (s.zeroBank b).modBank b fun x => { x with lost := true }
  let s := s.put ⟨A.MEM_LOSTw (b / 32), b % 32, 1⟩ 1
  (s.put F.MEM_LOST_LAST_V b).setCause F.MEM_CAUSE_LOST

/-- A bank comes on again. A retained one keeps its contents when the signature computed again is the stored
one; `decayed` says that cells lost their contents meanwhile. The others are wiped, one bank at a time (R351-R353). -/
def State.bankWakes (s : State) (decayed : Bool) (b : Fin 116) : State :=
  let kept := (s.bank b).power == 2
  let sound := !decayed && (s.signature b).toNat == (s.bank b).sig
  let s := if kept then s.readBank b else s
  let s := if kept && !sound then s.bankLost b else s
  let s := if !(kept && sound) && (s.bank b).power != 1 then s.setCause F.MEM_CAUSE_WIPE_DONE else s
  s.modBank b fun x => { x with power := 1 }

/-- The banks of a domain come on again, with those whose cells lost their contents in retention. -/
def State.banksUp (s : State) (decayed : List (Fin 116)) (d : Domain) : State :=
  (allBanks.filter fun (b : Fin 116) => (bankDomains b).contains d).foldl
    (fun (s : State) b => s.bankWakes (decayed.contains b) b) s

/-! ## A domain switches off (14 R400) -/

/-- Registers in the range of a block that switches off which PD_AON keeps (R377, R400; 06 XPT_LASTRUN). -/
def keptByAon (off : Nat) : Bool := [A.MGT_CFG, A.EVT_MAPe 4, A.XPT_LASTRUN].contains off

/-- Whether a register loses its value with a domain: those of its blocks, and for PD_CORE the violation
log with its causes. The MSI-X table and PBA lie in PD_HOST (R400, R417; 13 Table 13.5). -/
def lostWith (d : Domain) (off : Nat) : Bool :=
  !keptByAon off && (blockDomain off == some d && !isMsix off
    || (d == .core && decide (0x100 ≤ off) && decide (off < 0x8000))
    || (d == .host && isMsix off))

/-- What is no register of a domain's blocks returns to its reset state. -/
def State.blocksLost (s : State) (d : Domain) : State :=
  match d with
  | .port k =>
    let s := { s with bars := s.bars.mapFinIdx fun n b _ => if n / 4 = k then ({} : Bar) else b }
    (List.range 4).foldl (fun (s : State) i =>
      let n := 4 * k + i
      let s := s.put ⟨A.CLK_TRAIN_OK, n, 1⟩ 0
      if Cells.find? s.clk.taps n = some tapFailed then s
      else { s with clk := { s.clk with taps := Cells.drop n s.clk.taps } }) s
  | .cam => { s with ins := {} }
  | .pos => { s with pos := {}, xpt := {} }
  | .ana => { s with thm := {}, cal := {} }
  | .host => (s.linkDown).resetFunction true
  | .core =>
    { s with
      grid := {}, pairs := Vector.replicate 4 {}, boot := {}, dma := Vector.replicate 48 {}
      dmaTurn := (0, 0), wipe := none, mgt := none, graceSince := none, graceMet := none, vlogLast := [], vlogK := 0
      banks := s.banks.map fun (b : BankS) => ({ power := b.power, sig := b.sig } : BankS) }

/-- The keeper of XSTOP_N takes over the level that it has (Table 16.8). -/
def State.keepStop (s : State) : State :=
  { s with power := { s.power with xstopKept := s.bit F.XPT_STATUS_XSTOP } }

/-- A domain switches off: calibration pairs that use it end, its banks enter retention or go off, its
registers and contents are lost (R351, R400). -/
def State.switchOff (s : State) (d : Domain) : State :=
  let s := if d = .pos then s.keepStop else s
  let s := (s.calDomainLost d).banksDown d
  let s := s.blocksLost d
  let s := { s with
    regs := s.regs.filter fun x => !lostWith d x.1
    snaps := s.snaps.filter fun x => !lostWith d (x.1 % 0x1000000) }
  (s.put ⟨A.PWR_DOM_STATUS, d.bit, 1⟩ 0).tripAll

/-- The actions of the participants before a domain is forced off (Table 14.2). -/
def State.forcedActions (s : State) (d : Domain) : State :=
  let s := s.dmaLoses d
  match d with
  | .pos => s.forceDrive
  | .ana => allBars.foldl (fun (s : State) n => s.tripKill n) s.forceDrive
  | _ => s

/-- A forced loss of PD_ANA leaves every trip asserted while the domain is off (08 R252). -/
def State.holdTrips (s : State) : State :=
  { s with thm := { s.thm with bars := s.thm.bars.map fun (b : ThmBar) => { b with trip := true } } }

/-- A domain switches off under a request. -/
def State.takeDown (force : Bool) (s : State) (d : Domain) : State :=
  if !s.up d then s
  else
    let s := State.dptSettle (fun s => (if force then s.forcedActions d else s).switchOff d) s
    if force && d == .ana then s.holdTrips else s

/-- The bars of a domain. -/
def domainBars (d : Domain) : List (Fin 32) := allBars.filter fun n => barDomain n == d

/-- A domain is released: on, with its banks and trims ready; a port whose trip signal is asserted is
killed (R351, R402; 02 R61). -/
def State.release (lost : List (Fin 116)) (s : State) (d : Domain) : State :=
  let s := (s.put ⟨A.PWR_DOM_STATUS, d.bit, 1⟩ 1).banksUp lost d
  let s := (domainBars d).foldl State.tripHeld s
  if d = .ana then ({ s with thm := {} }).loadTrims.tripAll else s

/-- The domains of a mask in the layout of PWR_DOM_STATUS: the ports, cameras, position and analog
first, then PD_HOST and PD_CORE. -/
def maskDomains (m : Nat) : List Domain := allDomains.filter fun d => m.testBit d.bit

/-! ## Retention load (14 R421, Table 14.6) -/

/-- The current of a retained bank in uA. -/
def bankLoad (b : Nat) : Nat :=
  if b < 32 then 121 else if b < 64 then 20 else if b < 68 then 123 else if b < 76 then 16 else 0

/-- The current of a wake detector in uA. -/
def wakeLoad (i : Nat) : Nat :=
  if i = 2 then 5 else if 4 ≤ i ∧ i ≤ 7 then 25 else if 8 ≤ i ∧ i ≤ 11 then 5
  else if i = 12 then 15 else if i = 13 then 2 else 0

/-- The retention load in uA. -/
def State.retentionLoad (s : State) : Nat :=
  let wakes := (List.range 14).foldl (fun a i => if (s.reg A.PWR_WAKE_EN).getLsbD i then a + wakeLoad i else a) 0
  (List.range 76).foldl (fun a b => if s.retained b then a + bankLoad b else a) (800 + wakes)

/-! ## The entry handshake (14 R404, Table 14.2) -/

/-- A participant's answer. -/
inductive Answer where
  | accept | refuse | defer
  deriving DecidableEq, Repr

/-- The domains that are on and that a request switches off. -/
def State.asked (s : State) (r : PwrReq) : List Domain := (maskDomains r.target.offMask).filter s.up

/-- Whether a bar of a domain is enabled. -/
def State.barEnabled (s : State) (d : Domain) : Bool :=
  allBars.any fun n => barDomain n == d && s.bit (F.FPE_CTL_EN n)

/-- The answer of a participant, by its code. -/
def State.answerOf (s : State) (r : PwrReq) : Nat → Answer
  | 1 =>
    if r.target = .idle then (if s.running then .refuse else .accept)
    else if (s.asked r).any s.barEnabled then .refuse else .accept
  | 2 => if (s.asked r).any fun d => allChans.any fun c => s.chanRefuses c d then .refuse else .accept
  | 3 =>
    if ((s.asked r).contains .pos || (s.asked r).contains .ana) && s.leader && s.xenLow then .refuse
    else .accept
  | 4 => if (s.asked r).contains .ana && allBars.any (fun n => s.bit (F.FPE_CTL_EN n)) then .refuse else .accept
  | 5 =>
    if !(s.asked r).contains .cam then .accept
    else if (List.range 4).any fun p => s.bit (F.CAM_Pp_CTL_EN p) then .refuse
    else if s.camDefers then .defer else .accept
  | 6 =>
    if !(s.asked r).contains .core then .accept
    else if [(0 : Fin 4), 1, 2].any fun j =>
        match (s.pair j).mode with | .running => true | .waiting _ => true | _ => false then .refuse
    else if s.seqDefers then .defer else .accept
  | 7 => if (s.asked r).contains .host && !s.bit F.SYS_HL_STATUS_D3HOT then .defer else .accept
  | 8 =>
    if r.target = .standby ∨ r.target = .hibernate then
      if s.g F.PWR_RET_LIMIT_V < s.retentionLoad then .refuse
      else if s.wipe.isSome then .defer else .accept
    else .accept
  | _ => .accept

/-- The answer with FORCE: those of participants 1 to 7 are overridden (R406). -/
def State.forcedAnswer (s : State) (r : PwrReq) (k : Nat) : Answer :=
  if r.force && decide (k ≤ 7) then .accept else s.answerOf r k

/-- The first participant with an answer. -/
def State.firstWith (s : State) (r : PwrReq) (a : Answer) : Option Nat :=
  [1, 2, 3, 4, 5, 6, 7, 8].find? fun k => s.forcedAnswer r k == a

/-- The channels that refuse a request are named, whatever the other participants answer (R404; 11 R342). -/
def State.nameBlockers (s : State) (r : PwrReq) : State :=
  let bit := fun (c : Fin 48) => !r.force && (s.asked r).any fun d => s.chanRefuses c d
  let m := allChans.foldl (fun (a : Nat) (c : Fin 48) => if bit c then a + 2 ^ c.val else a) 0
  (s.put F.DMA_PWR_BLOCK0_V m).put F.DMA_PWR_BLOCK1_V (m / 2 ^ 32)

/-- A request has ended in its handshake: a state request with its status, a domain request awaits
DOM_DONE. -/
def State.reqEnds (s : State) (r : PwrReq) (st : Status) (refuser : Nat) : State :=
  let s := (s.put F.PWR_STATUS_REFUSER refuser).bump F.PWR_REFUSALS_V
  match r.target with
  | .domains _ _ => { s with power := { s.power with req := some { r with ended := some st.code } } }
  | _ =>
    let s := (s.put F.PWR_STATUS_LAST st.code).put F.PWR_STATUS_PHASE 0
    { s with power := { s.power with
        req := none, linkWake := none, pinWake := false, wakeSrc := 0, stale := false } }

/-- The handshake has passed. An entry cuts the line in progress, since no strobe asserts from then on (16 R456). -/
def State.reqPasses (s : State) (r : PwrReq) : State :=
  match r.target with
  | .idle =>
    let s := ((s.put F.PWR_STATUS_STATE 1).put F.PWR_STATUS_LAST 0).put F.PWR_STATUS_PHASE 0
    { s with power := { s.power with req := none } }
  | .domains off _ =>
    let s := ((maskDomains off).foldl (State.takeDown r.force) s).graceCheckMet
    { s with power := { s.power with req := some { r with passed := some s.now, ended := some 0 } } }
  | _ =>
    let s := s.put F.PWR_STATUS_PHASE 2
    let s := if s.running then { s with bars := s.bars.map (Bar.lineCut s.now) } else s
    { s with power := { s.power with req := some { r with passed := some s.now } } }

/-- The participants answer (R404): the request passes, is refused, or goes on waiting. -/
def State.handshake (s : State) : State :=
  match s.power.req with
  | some r =>
    if r.passed.isSome || r.ended.isSome then s
    else
      let s := s.nameBlockers r
      match s.firstWith r .refuse with
      | some k => (s.reqEnds r .powerDenied k).setCause F.PWR_CAUSE_REFUSED
      | none => if (s.firstWith r .defer).isSome then s else s.reqPasses r
  | none => s

/-- Whether a request or a state change is in progress (R403). -/
def State.powerBusy (s : State) : Bool :=
  s.power.req.isSome || s.power.exitT.isSome || decide (2 ≤ s.g F.PWR_STATUS_STATE)

/-- Whether a level source stands at its active level: PERST_N asserted, the die at or above TALARM, XFLT_N low
(Table 14.4). -/
def State.levelActive (s : State) (src : Nat) : Bool :=
  (s.reg A.PWR_WAKE_EN).getLsbD src && match src with
    | 1 => s.clk.perst
    | 12 => match s.power.dieTemp with
      | some t => decide ((s.g F.PWR_WAKE_CFG_TALARM : Int) ≤ t)
      | none => false
    | 13 => s.power.xfltLow
    | _ => false

/-- The level sources. -/
def levelSources : List Nat := [1, 12, 13]

/-- The wake sources that act in the cycle in which a request is accepted, as a mask: those sampled in that cycle,
and the level sources that stand at their active level (R409, R412, R413). -/
def State.wakesNow (s : State) : Nat :=
  levelSources.foldl (fun m i => m ||| if s.levelActive i then 2 ^ i else 0)
    (if sameAonCycle s.power.sampledT s.now then s.power.sampled else 0)

/-- A request is accepted, and every participant is asked. A wake of the same cycle counts as arrived during an
entry (R412). -/
def State.requestPower (s : State) (t : PwrTarget) (force : Bool) : State :=
  let s := (s.put F.PWR_STATUS_PHASE 1).put F.PWR_STATUS_REFUSER 0
  let m := if t = .standby ∨ t = .hibernate then s.wakesNow else 0
  ({ s with power := { s.power with
      req := some { target := t, force := force, t := s.now }
      linkWake := if m % 8 ≠ 0 then some s.now else none
      pinWake := decide (8 ≤ m), wakeSrc := m, stale := decide (m ≠ 0)
      motion := Vector.replicate 4 0 } }).handshake

/-! ## PWR_REQ (14 R401, R403, R404, R421; 15 R445) -/

/-- LAST reads POWER_DENIED; nothing else happens (R403). -/
def State.powerDenied (s : State) : State := s.put F.PWR_STATUS_LAST Status.powerDenied.code

/-- A write of PWR_REQ: state 0 to 3. -/
def State.pwrReq (s : State) (st : Nat) (force : Bool) : State :=
  if s.powerBusy then s.powerDenied
  else match st with
    | 0 =>
      if s.g F.PWR_STATUS_STATE = 1 then (s.put F.PWR_STATUS_STATE 0).put F.PWR_STATUS_LAST 0 else s
    | 1 => if s.g F.PWR_STATUS_STATE = 1 then s.put F.PWR_STATUS_LAST 0 else s.requestPower .idle false
    | n =>
      if s.bit F.OTP_STATUS_BUSY then s.powerDenied
      else
        let s := s.put F.PWR_RET_LOAD_V (min s.retentionLoad 65535)
        s.requestPower (if n = 2 then .standby else .hibernate) force

/-- PWR_REQ_ON (R401). -/
def execPwrReqOn (s : State) : Out := .next (s.atBlock A.PWR_REQ fun s => s.pwrReq 0 false)

/-- PWR_REQ_IDLE (R401, R404). -/
def execPwrReqIdle (s : State) : Out := .next (s.atBlock A.PWR_REQ fun s => s.pwrReq 1 false)

/-- PWR_REQ_STANDBY (R404, R421). -/
def execPwrReqStandby (force : Bool) (s : State) : Out := .next (s.atBlock A.PWR_REQ fun s => s.pwrReq 2 force)

/-- PWR_REQ_HIBERNATE (R404, R421). -/
def execPwrReqHibernate (force : Bool) (s : State) : Out := .next (s.atBlock A.PWR_REQ fun s => s.pwrReq 3 force)

/-! ## PWR_DOM_CTL (14 R402, R403) -/

/-- The state of the switchable domains, as PWR_DOM_CTL shows it. -/
def State.actualDoms (s : State) : Nat := (s.reg A.PWR_DOM_STATUS).toNat % 2 ^ 11

/-- The ports of the domains of a mask. -/
def maskPorts (m : Nat) : Nat :=
  allBars.foldl (fun (a : Nat) (n : Fin 32) => if m.testBit (n.val / 4) then a + 2 ^ n.val else a) 0

/-- A write of PWR_DOM_CTL: the bits it clears are requested off, those it sets are powered up. -/
def State.domWrite (s : State) (v : Nat) (force : Bool) : State :=
  if s.powerBusy then s.powerDenied
  else
    let cur := s.actualDoms
    let off := (List.range 11).foldl (fun a i => if cur.testBit i && !v.testBit i then a + 2 ^ i else a) 0
    let on := (List.range 11).foldl (fun a i => if !cur.testBit i && v.testBit i then a + 2 ^ i else a) 0
    if off = 0 ∧ on = 0 then s
    else
      let s := (s.setReg A.PWR_DOM_CTL (BitVec.ofNat 32 (v % 2 ^ 11))).beginTraining (maskPorts (on % 2 ^ 8))
      s.requestPower (.domains off on) force

/-- DOMAIN_OFF_REQUEST (R402): the bits of a mask are cleared. -/
def execDomainOffRequest (mask : BitVec 11) (force : Bool) (s : State) : Out :=
  .next (s.atBlock A.PWR_DOM_CTL fun s =>
    s.domWrite (s.actualDoms &&& ((2 ^ 11 - 1) - mask.toNat)) force)

/-- DOMAIN_ON_REQUEST (R402): the bits of a mask are set. -/
def execDomainOnRequest (mask : BitVec 11) (s : State) : Out :=
  .next (s.atBlock A.PWR_DOM_CTL fun s => s.domWrite (s.actualDoms ||| mask.toNat) false)

/-- DOM_DONE (R402): the switching has ended, the ports of domains that come on have trained; the retained
banks named lost their contents meanwhile (R352). -/
def execDomDone (s : State) (lost : List (Fin 116) := []) : Out :=
  match s.power.req with
  | some r => match r.target, r.ended with
    | .domains _ on, some st =>
      if s.seqRun || (s.clk.training &&& maskPorts (on % 2 ^ 8)) != 0 then .next s
      else
        let s := (maskDomains on).foldl (State.release lost) s
        let s := { s with power := { s.power with req := none } }
        let s := (s.put F.PWR_STATUS_LAST st).put F.PWR_STATUS_PHASE 0
        .next ((s.setReg A.PWR_DOM_CTL (BitVec.ofNat 32 s.actualDoms)).setCause F.PWR_CAUSE_DOM_DONE)
    | _, _ => .next s
  | none => .next s

/-- DEFER_END (R404): a participant's condition has changed. -/
def execDeferEnd (s : State) : Out := .next (if s.seqRun then s else s.handshake)

/-- HANDSHAKE_TIMEOUT (R404): a participant still defers 10 ms after the ask. -/
def execHandshakeTimeout (s : State) : Out :=
  match s.power.req with
  | some r =>
    if s.seqRun || r.passed.isSome || r.ended.isSome || decide (s.now < r.t + ms 10) then .next s
    else match s.firstWith r .refuse, s.firstWith r .defer with
      | none, some k => .next (s.reqEnds r .timeout k)
      | _, _ => .next s.handshake
  | none => .next s

/-! ## Wakes (14 R409-R413) -/

/-- What a wake that ends HIBERNATE does on the link: WAKE_N low and PME_Status, for a pin or
management-port wake (R414). -/
def State.wakeSignals (s : State) (src : Nat) : State :=
  if s.g F.PWR_STATUS_STATE = 3 && decide (src / 4 ≠ 0) then
    { s with hl := { s.hl with wakeLow := true, pme := true } }
  else s

/-- The exit begins, caused by the sources of a mask. -/
def State.beginExit (s : State) (src : Nat) : State :=
  let s := s.put F.PWR_WAKE_SRC_SRC (s.g F.PWR_WAKE_SRC_SRC ||| src)
  let s := (s.put F.PWR_STATUS_PHASE 5).wakeSignals src
  { s with power := { s.power with exitT := some s.now } }

/-- A wake that finds nothing in progress is kept for the AON cycle in which it is sampled (R412). -/
def State.noteWake (s : State) (src : Nat) : State :=
  { s with power := { s.power with
      sampledT := s.now
      sampled := 2 ^ src ||| (if sameAonCycle s.power.sampledT s.now then s.power.sampled else 0) } }

/-- A wake is sampled (R409-R413). -/
def State.wake (s : State) (src : Nat) (link : Bool) : State :=
  if s.power.off || s.seqRun || !(s.reg A.PWR_WAKE_EN).getLsbD src then s
  else if s.power.exitT.isSome || s.power.undoT.isSome then s.put F.PWR_WAKE_SRC_SRC (s.g F.PWR_WAKE_SRC_SRC ||| 2 ^ src)
  else if 2 ≤ s.g F.PWR_STATUS_STATE then s.beginExit (2 ^ src)
  else match s.power.req with
    | some r =>
      if !r.enters then s.noteWake src
      else { s with power := { s.power with
        linkWake := if link then some (s.power.linkWake.getD s.now) else s.power.linkWake
        pinWake := s.power.pinWake || !link
        wakeSrc := s.power.wakeSrc ||| 2 ^ src
        stale := s.power.stale || sameAonCycle s.now r.t } }
    | none => s.noteWake src

/-- LINK_RESET (R390, R393, R396): PERST_N asserts, which is also a link wake; a Hot Reset arrives; or the link is
disabled. -/
def execLinkReset (k : LinkResetKind) (s : State) : Out :=
  .next (if s.power.off then s else if perstKind k then (s.linkResets k).wake 1 true else s.linkResets k)

/-- LINK_WAKE (R410): sources 0 to 2 of Table 14.4; a falling edge of MG_CS_N is one while WAKE_ANY is 1 (12 R377). -/
def execLinkWake (src : Fin 3) (s : State) : Out :=
  .next (if src = 2 && !s.bit F.MGT_CFG_WAKE_ANY then s else s.wake src true)

/-- What the detector of pin source 4 + src makes of a sample: the state after it, and whether the source's active
condition is met (Table 14.4). -/
def State.pinSample (s : State) (src : Fin 10) : WakeInput → State × Bool
  | .active => (s, true)
  | .changes n =>
    if src.val < 4 then
      let c := s.power.motion.getD src.val 0 + n
      let met := decide (s.g F.PWR_WAKE_CFG_ENC_COUNT ≤ c)
      ({ s with power := { s.power with motion := s.power.motion.setIfInBounds src.val (if met then 0 else c) } }, met)
    else (s, false)
  | .edge rising cycles =>
    (s, decide (4 ≤ src.val) && decide (src.val < 8) && decide (2 ≤ cycles)
      && rising != (s.g F.PWR_WAKE_CFG_TOF_EDGE).testBit (src.val - 4))
  | .celsius t =>
    if src.val = 8 then
      ({ s with power := { s.power with dieTemp := some t } }, decide ((s.g F.PWR_WAKE_CFG_TALARM : Int) ≤ t))
    else (s, false)
  | .low cycles =>
    if src.val = 9 then (s.xfltLevel (decide (2 ≤ cycles)), decide (2 ≤ cycles)) else (s, false)

/-- PIN_WAKE (R409, R411): sources 4 to 13 of Table 14.4. -/
def execPinWake (src : Fin 10) (s : State) (x : WakeInput := .active) : Out :=
  let r := s.pinSample src x
  .next (if r.2 then r.1.wake (4 + src.val) false else r.1)

/-! ## Entry and its abandon (14 R407, R408) -/

/-- The time of abort point AP2, behind the stop of the clocks: 142 us after the handshake (Table 14.3). -/
def ap2 (h : Nat) : Nat := h + us 142

/-- The time of abort point AP3: 162 us after the handshake (Table 14.3). -/
def ap3 (h : Nat) : Nat := h + us 162

/-- The abort point at which a link wake abandons the entry whose handshake ended at `h`: the first that the entry
reaches after it (R410). -/
def State.abortAt (s : State) (h : Nat) : Option Nat :=
  match s.power.linkWake with
  | some t => if t ≤ h then some h else if t ≤ ap2 h then some (ap2 h) else if t ≤ ap3 h then some (ap3 h) else none
  | none => none

/-- Whether a link wake abandons the entry whose handshake ended at `h`. -/
def State.abandons (s : State) (h : Nat) : Bool := (s.abortAt h).isSome

/-- The entry whose handshake has passed, with the time. -/
def State.entering (s : State) : Option (PwrReq × Nat) :=
  match s.power.req with
  | some r => match r.passed with
    | some h => if r.enters then some (r, h) else none
    | none => none
  | none => none

/-- The sources of wakes that came during entry are recorded. -/
def State.recordWakes (s : State) (mask : Nat) : State :=
  let s := s.put F.PWR_WAKE_SRC_SRC (s.g F.PWR_WAKE_SRC_SRC ||| (s.power.wakeSrc &&& mask))
  let s := s.put F.PWR_WAKE_SRC_DURING_ENTRY 1
  if s.power.stale then s.put F.PWR_WAKE_SRC_STALEMATE 1 else s

/-- The clocks stop: the main and grid PLLs, for HIBERNATE the host PLL too (Table 14.3). -/
def State.stopClocks (s : State) (r : PwrReq) : State :=
  let s := ((s.put F.CLK_STATUS_MAIN_LOCK 0).put F.CLK_STATUS_GRID_LOCK 0).put F.PWR_STATUS_PHASE 3
  let s := if r.target = .hibernate then s.put F.CLK_STATUS_HOST_LOCK 0 else s
  { s with power := { s.power with stopped := true } }

/-- The phases of an entry that have ended at a time: clock stop, then isolation (Table 14.3). -/
def State.phasesTo (s : State) (r : PwrReq) (h t : Nat) : State :=
  let s := if ap2 h ≤ t then s.stopClocks r else s
  if ap3 h ≤ t then s.put F.PWR_STATUS_PHASE 4 else s

/-- An entry that runs is brought up to now: its phases end in turn, and at the abort point of a link wake its
undoing begins (R407, R408, R410). -/
def State.runPhases (s : State) : State :=
  match s.entering with
  | none => s
  | some (r, h) =>
    if s.power.undoT.isSome then s
    else match s.abortAt h with
      | some a =>
        let s := s.phasesTo r h (min a s.now)
        if a ≤ s.now then
          { s.put F.PWR_STATUS_PHASE 6 with power := { s.power with undoT := some s.now } }
        else s
      | none => s.phasesTo r h s.now

/-- Whether the detectors watch: a state is being entered, or the device sleeps (R413). -/
def State.watching (s : State) : Bool :=
  decide (2 ≤ s.g F.PWR_STATUS_STATE) && s.power.exitT.isNone
    || (match s.power.req with | some r => r.enters && s.power.undoT.isNone | none => false)

/-- The level sources that stand at their active level wake in every cycle (R409). -/
def State.sampleLevels (s : State) : State :=
  if s.watching then
    levelSources.foldl (fun (s : State) i => if s.levelActive i then s.wake i (i == 1) else s) s
  else s

/-- What the block does when no command waits: one count of the timestamp base passes, the page records whose 2 us end
with it are written (02 R69), and the power controller samples its level sources and takes an entry further (R407,
R409). Without supplies nothing does. -/
def State.idle (s : State) : State :=
  if s.power.off then s else ({ s with now := s.now + s.tsStep }.closeLate).sampleLevels.runPhases

/-- Microseconds since a time, saturated to 16 bits. -/
def State.usSince (s : State) (t : Nat) : Nat := min ((s.now - t) / us 1) 65535

/-- The state is entered: watchdog stopped, clocks stopped, banks in retention or off, domains off; then ENTERED is
set and the entry counted (R400, R407). -/
def State.enterState (s : State) (r : PwrReq) : State :=
  let doms := s.actualDoms
  let loaded := (List.range 4).foldl (fun a j => if s.bit (F.SEQ_Pj_STATUS_LOADED j) then a + 2 ^ j else a) 0
  let s := (maskDomains r.target.offMask).foldl (State.takeDown r.force) (s.stopClocks r)
  let s := (s.put F.PWR_STATUS_STATE (if r.target = .hibernate then 3 else 2)).put F.PWR_STATUS_PHASE 0
  let s := { s with
    thm := if doms.testBit Domain.ana.bit then {} else s.thm
    power := { s.power with req := none, savedDoms := doms, savedLoaded := loaded, stopped := false } }
  let s := (s.put F.PWR_TIMES_ENTRY (s.usSince r.t)).bump F.PWR_ENTRIES_V
  (s.put F.PWR_STATUS_LAST 0).linkCause F.PWR_CAUSE_ENTERED

/-- STATE_ENTRY (R407): the entry phases run to their end; a wake that came during entry begins the exit at
once (R410, R411). -/
def execStateEntry (s : State) : Out :=
  match s.entering with
  | some (r, h) =>
    if s.seqRun || s.abandons h || s.power.undoT.isSome then .next s
    else
      let woken := s.power.linkWake.isSome || s.power.pinWake
      let src := s.power.wakeSrc
      let s := s.enterState r
      let s := if woken then (s.recordWakes 0x3FFF).beginExit src else s
      .next { s with power := { s.power with linkWake := none, pinWake := false, wakeSrc := 0, stale := false } }
  | none => .next s

/-- The phases that an abandoned entry has completed are undone in reverse order: the PLLs lock again, and the ports
train behind the grid PLL (R408; 13 R387). -/
def State.undoPhases (s : State) (r : PwrReq) : State :=
  if !s.power.stopped then s
  else
    let s := if r.target = .hibernate && !s.clk.hostLost then s.put F.CLK_STATUS_HOST_LOCK 1 else s
    let s := s.put F.CLK_STATUS_MAIN_LOCK 1
    if s.bit F.CLK_STATUS_GRID_LOCK then s
    else (s.put F.CLK_STATUS_GRID_LOCK 1).beginTraining s.poweredPorts

/-- The abandon of an entry ends: the watchdog, which stopped when the handshake passed, goes on, and the
participants release their holds (R408). -/
def State.abandonEnds (s : State) (r : PwrReq) (h : Nat) : State :=
  let s := { s.recordWakes 7 with boot := { s.boot with kickT := s.boot.kickT + (s.now - h) } }
  let s := ((s.undoPhases r).put F.PWR_STATUS_LAST Status.aborted.code).put F.PWR_STATUS_PHASE 0
  let s := (s.bump F.PWR_ABANDONS_V).setCause F.PWR_CAUSE_ABANDONED
  { s with power := { s.power with
    req := none, linkWake := none, pinWake := false, wakeSrc := 0, stale := false, stopped := false, undoT := none } }

end Sys2Proof.Machine
end

