-- ==== Sys2Proof/Machine/View.lean ====
section
/-!
DEFINITION. What a read of a register returns before it has any effect: the stored word with the
fields that show the machine's present state put in their places, and 0 in every WO field (00 R4, R9;
the register sections of chapters 02 to 15).
-/

namespace Sys2Proof.Machine

/-- A word with fields replaced. -/
def withFields (w : Word) (fs : List (Field × Nat)) : Word :=
  fs.foldl (fun (w : Word) x => Word.insert w x.1.lo x.1.w x.2) w

/-- A stored word as a read shows it: a WO field reads 0 (R4). -/
def State.shown (s : State) (off : Nat) : Word :=
  match kindAt off with
  | some k => k.fields.foldl (fun (w : Word) f => if f.acc = .wo then Word.insert w f.lo f.w 0 else w) (s.reg off)
  | none => 0

/-! ## Fire grid and bars (chapters 02, 03, 04) -/

/-- The fire grid's registers. -/
def State.viewGrid (s : State) (off : Nat) : Word :=
  if off = A.GRID_KILL then withFields (s.shown off) [(F.GRID_KILL_PIN_LEVEL, b2n s.hkillLow)]
  else if off = A.GRID_STATUS then withFields (s.shown off) [(F.GRID_STATUS_AT_HELD, b2n s.atHeld)]
  else s.shown off

/-- DEC of a bar: the packed decoder's state; of a plain stream 1 while a slot is partly written. -/
def State.decView (s : State) (n : Fin 32) : Nat :=
  if s.bit (F.RSP_CTL_FMT n) then s.g (F.RSP_STATUS_DEC n) else b2n (s.rsp n).filling

/-- A bar's registers. -/
def State.viewBar (s : State) (n : Fin 32) (off : Nat) : Word :=
  let b := s.bar n
  if off = A.FPE_STATUS n then withFields (s.shown off)
    [(F.FPE_STATUS_IN_PAGE n, b2n b.inPage), (F.FPE_STATUS_KILLED n, b2n (s.portKilled n)),
     (F.FPE_STATUS_QDEPTH n, b.queue.length)]
  else if off = A.NST_STATUS n then withFields (s.shown off)
    [(F.NST_STATUS_LEVEL n, b.nst.level), (F.NST_STATUS_FULL n, b2n (decide (1024 ≤ b.nst.level))),
     (F.NST_STATUS_PAIR_WAIT n, b2n b.nst.pairWaits), (F.NST_STATUS_STALL n, b2n (!b.nst.stalled.isEmpty)),
     (F.NST_STATUS_IMMEDIATE n, b2n (!b.inPage))]
  else if off = A.RSP_STATUS n then withFields (s.shown off)
    [(F.RSP_STATUS_DEC n, s.decView n), (F.RSP_STATUS_PAUSED n, b2n s.grid.paused),
     (F.RSP_STATUS_READY n, b2n (s.barReady n))]
  else if off = A.RSP_LEVEL n then withFields (s.shown off)
    [(F.RSP_LEVEL_LEAD n, s.leadLines n), (F.RSP_LEVEL_HELD n, s.heldLines n), (F.RSP_LEVEL_FREE n, b.rsp.free)]
  else if off = A.RSP_STAGE n then BitVec.ofNat 32 b.rsp.inStage
  else s.shown off

/-! ## Position unit (chapter 05) -/

/-- A POS48 value and its EST flag, as a low and a high word. -/
def pos48Words (p : Int × Bool) : Word × Word :=
  let u := unsigned 48 p.1
  (BitVec.ofNat 32 u, BitVec.ofNat 32 (u / 2 ^ 32 + b2n p.2 * 2 ^ 16))

/-- HEALTHY of an encoder channel, while the unit runs. -/
def State.encHealthy (s : State) (c : Fin 4) : Bool :=
  s.bit F.POS_CTL_EN && s.failReason (encChan c) (s.priSrc == some (encChan c)) == 0

/-- Registers of encoder channel `c`. -/
def State.viewEnc (s : State) (c : Fin 4) (off : Nat) : Word :=
  let ch := s.chan (encChan c)
  if off = A.POS_ENCc_CNT c then BitVec.ofNat 32 ch.cnt
  else if off = A.POS_ENCc_SPEED c then BitVec.ofNat 32 (speedWord ch.est.v)
  else if off = A.POS_ENCc_STATUS c then withFields 0
    [(F.POS_ENCc_STATUS_WIRE_A c, b2n (ch.live.getD 0 false)), (F.POS_ENCc_STATUS_WIRE_B c, b2n (ch.live.getD 1 false)),
     (F.POS_ENCc_STATUS_WIRE_Z c, b2n (ch.live.getD 2 false)), (F.POS_ENCc_STATUS_VALID c, b2n ch.est.valid),
     (F.POS_ENCc_STATUS_HEALTHY c, b2n (s.encHealthy c))]
  else s.shown off

/-- The position unit's registers. -/
def State.viewPos (s : State) (off : Nat) : Word :=
  if off = A.POS_AXIS_STATUS then withFields (s.shown off)
    [(F.POS_AXIS_STATUS_VALID, b2n s.axisValid), (F.POS_AXIS_STATUS_HOLDING, b2n (decide (s.posNow.1 < s.ppNow.1))),
     (F.POS_AXIS_STATUS_LIM_LO, b2n s.atLo), (F.POS_AXIS_STATUS_LIM_HI, b2n s.atHi),
     (F.POS_AXIS_STATUS_PRI_OK, b2n (s.bit F.POS_CTL_EN && s.priOk)),
     (F.POS_AXIS_STATUS_SEC_OK, b2n (s.bit F.POS_CTL_EN && s.secOk))]
  else if off = A.POS_NOW_LO then (pos48Words s.posNow).1
  else if off = A.POS_NOW_HI then (pos48Words s.posNow).2
  else if off = A.POS_PP_LO then (pos48Words s.ppNow).1
  else if off = A.POS_PP_HI then (pos48Words s.ppNow).2
  else if off = A.POS_SPEED then BitVec.ofNat 32 (speedWord s.axisV)
  else if off = A.POS_SSI_SPEED then BitVec.ofNat 32 (speedWord (s.chan 4).est.v)
  else if A.POS_ENCc_CFG 0 ≤ off ∧ off < A.POS_ENCc_CFG 4 then
    s.viewEnc (Fin.ofNat 4 ((off - A.POS_ENCc_CFG 0) / 0x20)) off
  else s.shown off

/-! ## Transport unit (chapter 06) -/

/-- The transport unit's registers. -/
def State.viewXpt (s : State) (off : Nat) : Word :=
  if off = A.XPT_STATUS then withFields (s.shown off) [(F.XPT_STATUS_XEN, b2n s.xenLow)] else s.shown off

/-! ## Cameras and inspection (chapter 07) -/

/-- A camera port's registers. -/
def State.viewCam (s : State) (p : Fin 4) (off : Nat) : Word :=
  let c := s.cam p
  if off = A.CAM_Pp_STATUS p then
    let replayed := fun (f : CamFrame) => match s.ins.replay with
      | some r => r.port == p && r.frame.k == f.k
      | none => false
    withFields (s.shown off)
      [(F.CAM_Pp_STATUS_IN_FRAME p, b2n c.frame.isSome),
       (F.CAM_Pp_STATUS_REPLAY_PEND p, b2n (c.store.any fun f => f.req.isSome && !replayed f)),
       (F.CAM_Pp_STATUS_OUTSTANDING p, c.trigs.length), (F.CAM_Pp_STATUS_STORE_USED p, c.used)]
  else if off = A.CAM_Pp_CCI_RES p then
    match c.cciRes with
    | r :: _ => BitVec.ofNat 32 (r.tag + r.status * 2 ^ 8)
    | [] => 0
  else if off = A.CAM_Pp_CCI_STAT p then withFields 0
    [(F.CAM_Pp_CCI_STAT_CMDS p, c.cciQ.length), (F.CAM_Pp_CCI_STAT_RESULTS p, c.cciRes.length),
     (F.CAM_Pp_CCI_STAT_BUSY p, b2n c.cciRun.isSome)]
  else s.shown off

/-- Whether a live frame is in the pipeline. -/
def State.liveAnalysed (s : State) : Bool :=
  match (s.cam s.ins.live).frame with | some f => f.live | none => false

/-- INS_STATUS. -/
def State.insStatus (s : State) : Word :=
  let (replaying, src, stalled) := match s.ins.replay with
    | some r => (true, r.port.val, !r.outbox.isEmpty)
    | none => (false, if s.liveAnalysed then s.ins.live.val else 0, false)
  let q := (List.finRange 4).foldl (fun a (p : Fin 4) => a + (s.cam p).areqs.length % 16 * 2 ^ (4 * p.val)) 0
  withFields 0
    [(F.INS_STATUS_BUSY, b2n (replaying || s.liveAnalysed)), (F.INS_STATUS_REPLAYING, b2n replaying),
     (F.INS_STATUS_SRC, src), (F.INS_STATUS_STALLED, b2n stalled), (F.INS_STATUS_VF_LEVEL, s.ins.fifo.length),
     (F.INS_STATUS_AREQ_LEVEL, q)]

/-- The inspection unit's registers. -/
def State.viewIns (s : State) (off : Nat) : Word :=
  if off = A.INS_STATUS then s.insStatus else s.shown off

/-! ## Calibration (chapter 08) -/

/-- The calibration unit's registers. -/
def State.viewCal (s : State) (off : Nat) : Word :=
  if off = A.CAL_STATUS then withFields (s.shown off) [(F.CAL_STATUS_BUSY, s.calBusy)]
  else if off = A.CAL_QVAL then s.calValue
  else if off = A.CAL_QSTAT then s.calStat
  else if off = A.CAL_STALE_CNT then BitVec.ofNat 32 s.calStaleCount
  else if off = A.CAL_ET_STATUS then withFields 0
    [(F.CAL_ET_STATUS_LEVEL, s.cal.etFifo.length), (F.CAL_ET_STATUS_FULL, b2n (decide (256 ≤ s.cal.etFifo.length)))]
  else s.shown off

/-! ## Sequencers (chapter 10) -/

/-- STATE of a pair. -/
def PairMode.code : PairMode → Nat
  | .halted => 0 | .running => 1 | .waiting _ => 2 | .halting _ => 3

/-- Milliseconds since the last kick; the ROM kicks without pause while it runs (R311, R313). -/
def State.kickMs (s : State) : Nat :=
  if s.romRuns || !s.boot.wdOn then 0 else min 65535 ((s.now - s.boot.kickT) / ms 1)

/-- Registers of pair `j`. -/
def State.viewPair (s : State) (j : Fin 4) (off : Nat) : Word :=
  let p := s.pair j
  if off = A.SEQ_Pj_STATUS j then withFields (s.shown off)
    [(F.SEQ_Pj_STATUS_STATE j, p.mode.code), (F.SEQ_Pj_STATUS_LEVEL j, p.level),
     (F.SEQ_Pj_STATUS_TRAP j, (p.ccr 0x005).toNat)]
  else if off = A.SEQ_Pj_PC j then BitVec.ofNat 32 p.pc
  else if off = A.SEQ_Pj_KDATA j then s.kdataRead j
  else s.shown off

/-- The sequencers' registers. -/
def State.viewSeq (s : State) (off : Nat) : Word :=
  if off = A.SEQ_BOOT_STATUS then
    let l := (List.range 4).foldl (fun a j => if s.bit (F.SEQ_Pj_STATUS_LOADED j) then a + 2 ^ j else a) 0
    withFields (s.shown off) [(F.SEQ_BOOT_STATUS_LOADED, l)]
  else if off = A.SEQ_WD_STATUS then withFields 0
    [(F.SEQ_WD_STATUS_MS, s.kickMs), (F.SEQ_WD_STATUS_GRACE, b2n s.graceRuns)]
  else if A.SEQ_Pj_CTL 0 ≤ off ∧ off < A.SEQ_Pj_CTL 4 then
    s.viewPair (Fin.ofNat 4 ((off - A.SEQ_Pj_CTL 0) / 0x100)) off
  else s.shown off

/-! ## DMA and memory control (chapter 11) -/

/-- Registers of a DMA channel. -/
def State.viewDmaChan (s : State) (c : Fin 48) (off : Nat) : Word :=
  let x := s.dch c
  if off = A.DMA_Cc_STATUS c then withFields (s.shown off) [(F.DMA_Cc_STATUS_READS c, x.outstanding)]
  else if off = A.DMA_Cc_RESIDUE c then
    match s.inProgress c with
    | some d => BitVec.ofNat 32 (d.len - x.landed)
    | none => 0
  else s.shown off

/-- The DMA engine's registers. -/
def State.viewDma (s : State) (off : Nat) : Word :=
  if off = A.DMA_STATUS then BitVec.ofNat 32 (s.tagsUsed.filter (· < 1024)).length
  else if A.DMA_Cc_CTL 0 ≤ off ∧ off < A.DMA_Cc_CTL 48 then
    s.viewDmaChan (Fin.ofNat 48 ((off - A.DMA_Cc_CTL 0) / 0x40)) off
  else s.shown off

/-- POWER of a bank in MEM_BANK_STATUS: 0 off, 1 retention, 2 on. -/
def BankS.powerCode (b : BankS) : Nat := match b.power with | 0 => 0 | 2 => 1 | _ => 2

/-- Memory control's registers; the window of MEM_BANK_SEL reads 0 for a number above 115. -/
def State.viewMem (s : State) (off : Nat) : Word :=
  let n := s.g F.MEM_BANK_SEL_V
  let b := s.bank (bankIx n)
  if A.MEM_BANK_STATUS ≤ off ∧ off ≤ A.MEM_BANK_SIG then
    if 115 < n then 0
    else if off = A.MEM_BANK_STATUS then withFields 0
      [(F.MEM_BANK_STATUS_POWER, b.powerCode), (F.MEM_BANK_STATUS_LOST, b2n b.lost),
       (F.MEM_BANK_STATUS_DEGRADED, b2n b.degraded), (F.MEM_BANK_STATUS_WIPING, b2n b.wiping)]
    else if off = A.MEM_BANK_CE then BitVec.ofNat 32 b.ce
    else if off = A.MEM_BANK_UE then BitVec.ofNat 32 b.ue
    else if off = A.MEM_BANK_COLL then BitVec.ofNat 32 b.coll
    else if off = A.MEM_BANK_BTPASS then BitVec.ofNat 32 b.btPass
    else BitVec.ofNat 32 b.sig
  else s.shown off

/-! ## Clocks and OTP (chapters 13, 15) -/

/-- The clock controller's registers. -/
def State.viewClk (s : State) (off : Nat) : Word :=
  if off = A.CLK_STATUS then withFields (s.shown off) [(F.CLK_STATUS_TS_SRC, s.tsSource)]
  else if off = A.CLK_TS_LO then BitVec.ofNat 32 s.ts
  else if off = A.CLK_TS_HI then BitVec.ofNat 32 (s.ts / 2 ^ 32)
  else if off = A.CLK_TRAIN_TAP then
    match Cells.find? s.clk.taps (s.g F.CLK_TRAIN_SEL_V) with
    | some t => if t < 64 then BitVec.ofNat 32 t else 0
    | none => 0
  else s.shown off

/-- The OTP controller's registers, as master `m` reads them. -/
def State.viewOtp (s : State) (m : Master) (off : Nat) : Word :=
  if A.OTP_CNTk 0 ≤ off ∧ off ≤ A.OTP_CNTk 3 then BitVec.ofNat 32 (s.otpCount ((off - A.OTP_CNTk 0) / 4))
  else if A.OTP_WORDw 0 ≤ off ∧ off < A.OTP_WORDw 1024 then s.otpRead m ((off - A.OTP_WORDw 0) / 4)
  else s.shown off

/-! ## Data port (chapter 12) -/

/-- The data port's registers: BUSY while an access waits. -/
def State.viewDpt (s : State) (off : Nat) : Word :=
  if off = A.DPT_STATUS then withFields (s.shown off) [(F.DPT_STATUS_BUSY, b2n s.dptBusy)] else s.shown off

/-! ## Any register -/

/-- The live value of the register at a 4-byte-aligned offset, as master `m` reads it; 0 where no register
stands (R9). -/
def State.regView (s : State) (m : Master) (off : Nat) : Word :=
  match off / 0x10000 with
  | 0x2 => s.viewClk off
  | 0x3 => s.viewOtp m off
  | 0x5 => s.viewDma off
  | 0x6 => s.viewDpt off
  | 0x8 => s.viewPos off
  | 0x9 => s.viewXpt off
  | 0xB => s.viewCal off
  | 0xC => if off < 0xC4000 then s.viewCam (Fin.ofNat 4 ((off - 0xC0000) / 0x1000)) off else s.viewIns off
  | 0xD => s.viewSeq off
  | 0xE => s.viewMem off
  | 0xF => s.viewGrid off
  | b =>
    if 0x10 ≤ b ∧ b < 0x30 then
      s.viewBar (Fin.ofNat 32 (b - 0x10)) off
    else s.shown off

end Sys2Proof.Machine
end

