-- ==== Sys2Proof/Machine/Write.lean ====
section
/-!
DEFINITION. What a register write does: the fields take the written bits by their access codes, values
that the register sections normalise are normalised, and a field that acts does what its rule states,
by the same operation as the field's own row of the command table (00 R4, R6, R7, R9; the register
sections of chapters 02 to 15).
-/

namespace Sys2Proof.Machine

/-! ## Access codes (R4) -/

/-- Whether RWL fields are read-only: life-cycle FIELD and later (R4, 15 R441). -/
def State.rwlLocked (s : State) : Bool := decide (3 ≤ s.g F.SYS_LC_STATE)

/-- The word a register holds after a write, by its fields' access codes; a W1S or WO field acts by a rule
of its own. -/
def writeFields (locked : Bool) (old w : Word) (fs : List FieldSpec) : Word :=
  fs.foldl (fun (a : Word) f =>
    match f.acc with
    | .rw => Word.insert a f.lo f.w (Word.field w f.lo f.w)
    | .rwl => if locked then a else Word.insert a f.lo f.w (Word.field w f.lo f.w)
    | .w1c => Word.insert a f.lo f.w (Word.field (old &&& ~~~w) f.lo f.w)
    | _ => a) old

/-- A write that acts by the access codes alone (R4); none where no register stands (R9). -/
def State.plain (s : State) (off : Nat) (w : Word) : State :=
  match kindAt off with
  | some k => s.setReg off (writeFields s.rwlLocked (s.reg off) w k.fields)
  | none => s

/-- A field of a written word. -/
def Field.of (f : Field) (w : Word) : Nat := Word.field w f.lo f.w

/-- Whether a one-bit field is written as 1. -/
def Field.set (f : Field) (w : Word) : Bool := Word.field w f.lo f.w == 1

/-- The written word with a field replaced. -/
def Field.into (f : Field) (v : Nat) (w : Word) : Word := Word.insert w f.lo f.w v

/-- A field kept within bounds: a value outside stores the nearer limit. -/
def Field.limit (f : Field) (lo hi : Nat) (w : Word) : Word := f.into (max lo (min hi (f.of w))) w

/-- A field whose values `bad` are replaced by `v`. -/
def Field.fix (f : Field) (bad : Nat → Bool) (v : Nat) (w : Word) : Word := if bad (f.of w) then f.into v w else w

/-- A field in which 0 stores 1. -/
def Field.atLeast1 (f : Field) (w : Word) : Word := f.fix (· == 0) 1 w

/-- A change for each set bit of a mask, lowest first. -/
def State.eachBit {n : Nat} [NeZero n] (s : State) (w : Word) (f : State → Fin n → State) : State :=
  (List.range n).foldl (fun (s : State) i => if w.getLsbD i then f s (Fin.ofNat n i) else s) s

/-! ## Fire grid (02) -/

/-- A write of GRID_CTL: AUTOTUNE and FORCE take their bits, GARM starts a check, RUN starts or stops
(R36, R38, R74). -/
def State.writeGridCtl (s : State) (w : Word) : State :=
  let s := s.putb F.GRID_CTL_AUTOTUNE (F.GRID_CTL_AUTOTUNE.set w)
  let s := if F.GRID_CTL_FORCE.set w then s.put F.GRID_CTL_FORCE 1 else s
  let s := if F.GRID_CTL_GARM.set w then s.startGridCheck true else s
  if F.GRID_CTL_RUN.set w then s.runStart else s.runStop

/-- The shadow register of the global set at an offset. -/
def gridShadowAt (off : Nat) : Option GridShadow :=
  [GridShadow.freqLo, .freqHi, .strobe, .warm, .pitch, .errTol].find? fun r => gridShadowOff r == off

/-- Writes to the fire grid. -/
def State.writeGrid (s : State) (off : Nat) (w : Word) : State :=
  if off = A.GRID_CTL then s.writeGridCtl w
  else if off = A.GRID_KILL then
    let s := if F.GRID_KILL_PIN_LATCH.set w then s.killLatchClear .pin else s
    s.gridSwkill (F.GRID_KILL_SWKILL.set w)
  else match gridShadowAt off with
    | some r => s.gridShadowWrite r w
    | none => s.plain off w

/-! ## Bars (02, 03, 04) -/

/-- Whether FPE_CTL.EN of a bar may become 1: its port is trained and the device is not RETIRED (13 R388;
15 R441). -/
def State.mayEnable (s : State) (n : Fin 32) : Bool :=
  s.trained n && decide (s.g F.SYS_LC_STATE ≠ 4)

/-- A write of FPE_CTL.EN (13 R388; 14 R405; 08 R245). -/
def State.enableBar (s : State) (n : Fin 32) (on : Bool) : State :=
  if on && !s.bit (F.FPE_CTL_EN n) then
    if s.mayEnable n then s.unlessHeld (s.holdsPort n) fun s => (s.put (F.FPE_CTL_EN n) 1).tripEval n else s
  else if on then s
  else (s.put (F.FPE_CTL_EN n) 0).tripEval n

/-- A write of FPE_CTL. -/
def State.writeFpeCtl (s : State) (n : Fin 32) (w : Word) : State :=
  let s := s.putb (F.FPE_CTL_ARM_AT_LINE n) ((F.FPE_CTL_ARM_AT_LINE n).set w)
  let s := s.putb (F.FPE_CTL_AUTO n) ((F.FPE_CTL_AUTO n).set w)
  let s := s.fpeSwkill n ((F.FPE_CTL_SWKILL n).set w)
  let s := s.enableBar n ((F.FPE_CTL_EN n).set w)
  if (F.FPE_CTL_ARM n).set w then s.startBarCheck n true else s

/-- The bar shadow registers. -/
def barShadows : List BarShadow :=
  [.offsetLo, .offsetHi, .winStart, .winEnd, .segmask, .rowofs, .warmcnt, .stitch]
    ++ (List.finRange 16).map BarShadow.gt

/-- The shadow register of a bar's set at an offset. -/
def barShadowAt (n off : Nat) : Option BarShadow := barShadows.find? fun r => barShadowOff n r == off

/-- The update word's halves at an offset of a bar: NST_UPD_LO and NST_UPD_HI, and their repetition at
+0x5000 to +0x5FFF (R92); true for the upper half. -/
def updHalf (off : Nat) : Option Bool :=
  let r := off % 0x10000
  if r = 0x4020 then some false
  else if r = 0x4024 then some true
  else if 0x5000 ≤ r ∧ r < 0x6000 then some (r % 8 == 4)
  else none

/-- A write of RSP_CTL: ABANDON, then RESET_STREAM with FMT (R105, R134, R135). -/
def State.writeRspCtl (s : State) (n : Fin 32) (w : Word) : State :=
  let s := if (F.RSP_CTL_ABANDON n).set w then s.abandonWrite n else s
  if (F.RSP_CTL_RESET_STREAM n).set w then s.resetStream n ((F.RSP_CTL_FMT n).set w) else s

/-- Writes to a bar's registers other than shadow registers and update words. -/
def State.writeBarReg (s : State) (n : Fin 32) (off : Nat) (w : Word) : State :=
  if off = A.FPE_CTL n then s.writeFpeCtl n w
  else if off = A.FPE_STATUS n then
    let s := if (F.FPE_STATUS_KILL_TRIP n).set w then s.killLatchClear (.trip n) else s
    s.plain off ((F.FPE_STATUS_KILL_TRIP n).into 0 w)
  else if A.FPE_PQ_W0 n ≤ off ∧ off ≤ A.FPE_PQ_W7 n then s.setReg off w
  else if off = A.FPE_PQ_PUSH n then s.pagePush n
  else if off = A.FPE_LANE n then
    (s.spareLane n (Fin.ofNat 8 ((F.FPE_LANE_SPARE_SEG n).of w)) ((F.FPE_LANE_SPARE_EN n).set w)).plain off w
  else if off = A.FPE_SR_CFG n then s.plain off ((F.FPE_SR_CFG_V n).atLeast1 w)
  else if off = A.NST_CTL n then
    let s := s.plain off ((F.NST_CTL_UPD_LIMIT n).fix (fun v => v == 0 || decide (512 < v)) 512 w)
    if (F.NST_CTL_FLUSH n).set w then s.flushNst n else s
  else if off = A.RSP_CTL n then s.writeRspCtl n w
  else if off = A.RSP_CFG n then
    State.watchLines n (fun s => s.plain off ((F.RSP_CFG_RESUME_LEAD n).limit 1 46 w)) s
  else s.plain off w

/-- Writes to a bar. -/
def State.writeBar (s : State) (m : Master) (n : Fin 32) (off : Nat) (w : Word) : State :=
  match barShadowAt n off, updHalf off with
  | some r, _ => s.barShadowWrite n r w
  | none, some false => s.updLo m n w
  | none, some true => s.updHi m n w
  | none, none => s.writeBarReg n off w

/-! ## Position and transport (05, 06) -/

/-- A write of POS_CTL: at EN = 0 every estimator is at standstill. -/
def State.writePosCtl (s : State) (w : Word) : State :=
  let on := F.POS_CTL_EN.set w
  let s := s.putb F.POS_CTL_EN on
  let s := if on then s else (List.finRange 5).foldl State.standstill s
  let s := if F.POS_CTL_REBASE.set w then s.rebase else s
  if F.POS_CTL_USE_PRI.set w then s.usePriWrite else s

/-- A change of the print axis's configuration (R147, R160). -/
def State.writeAxisCfg (s : State) (w : Word) : State :=
  let bad := fun (v : Nat) => v == 5 || v == 6
  let w := F.POS_AXIS_CFG_SEC.fix bad 7 (F.POS_AXIS_CFG_PRI.fix bad 7 w)
  let old := (s.priSrc, s.secSrc)
  State.watchValid (State.withPP fun s => (s.plain A.POS_AXIS_CFG w).axisCfgChanged old) s

/-- A write of POS_ENC_CAUSE: WIRE bits clear under R138 only. -/
def State.writeEncCause (s : State) (w : Word) : State :=
  let s := (List.finRange 4).foldl (fun (s : State) (c : Fin 4) =>
    if w.getLsbD (4 * c.val) then s.wireClear c else s) s
  s.plain A.POS_ENC_CAUSE (w &&& ~~~0x1111#32)

/-- The values a POS register stores for a written word. -/
def posNormal (off : Nat) (w : Word) : Word :=
  if off = A.POS_SEC_RATIO then F.POS_SEC_RATIO_V.atLeast1 w
  else if off = A.POS_EST_CFG then F.POS_EST_CFG_STANDSTILL.atLeast1 (F.POS_EST_CFG_AVG.fix (· == 7) 6 w)
  else if off = A.POS_SSI_CFG then
    F.POS_SSI_CFG_DIV.limit 19 199
      (F.POS_SSI_CFG_BITS.fix (fun v => decide (v < 8) || decide (48 < v)) 24 (F.POS_SSI_CFG_PAR.fix (· == 3) 0 w))
  else if A.POS_ENCc_CFG 0 ≤ off ∧ off < A.POS_ENCc_CFG 4 ∧ off % 0x20 = 0 then
    let c := (off - A.POS_ENCc_CFG 0) / 0x20
    (F.POS_ENCc_CFG_IPOL c).fix (· == 3) 0 ((F.POS_ENCc_CFG_TDIS c).fix (· < 4) 4 w)
  else if A.POS_CMPc_TGT_LO 0 ≤ off ∧ off < A.POS_CMPc_TGT_LO 16 ∧ off % 0x10 = 8 then
    (F.POS_CMPc_CTL_MODE ((off - A.POS_CMPc_TGT_LO 0) / 0x10)).fix (· == 3) 0 w
  else w

/-- A write of an encoder channel's registers: EN and PER begin its index check afresh (R144). -/
def State.writeEnc (s : State) (c : Fin 4) (off : Nat) (w : Word) : State :=
  let s := s.plain off (posNormal off w)
  if off = A.POS_ENCc_CFG c ∨ off = A.POS_ENCc_PER c then s.revRestart c else s

/-- A write of POS_SSI_CFG: with EN the channel starts afresh, its first accepted frame moving nothing (R145,
R146). -/
def State.writeSsiCfg (s : State) (w : Word) : State :=
  let was := s.bit F.POS_SSI_CFG_EN
  let s := s.plain A.POS_SSI_CFG (posNormal A.POS_SSI_CFG w)
  if !was && s.bit F.POS_SSI_CFG_EN then
    { s with pos := { s.pos with ssi := { s.pos.ssi with prev := none, running := false, lastStart := s.now } } }
  else s

/-- A write of a comparator's register (R166). -/
def State.writeCmp (s : State) (off : Nat) (w : Word) : State :=
  let f := State.withPP fun s => s.plain off (posNormal off w)
  if off % 0x10 = 8 then State.watchArm (Fin.ofNat 16 ((off - A.POS_CMPc_TGT_LO 0) / 0x10)) f s else f s

/-- Writes to the position unit. -/
def State.writePos (s : State) (off : Nat) (w : Word) : State :=
  if off = A.POS_CTL then s.writePosCtl w
  else if off = A.POS_AXIS_CFG then s.writeAxisCfg w
  else if off = A.POS_ENC_CAUSE then s.writeEncCause w
  else if off = A.POS_SSI_CFG then s.writeSsiCfg w
  else if A.POS_ENCc_CFG 0 ≤ off ∧ off < A.POS_ENCc_CFG 4 then
    s.writeEnc (Fin.ofNat 4 ((off - A.POS_ENCc_CFG 0) / 0x20)) off w
  else if A.POS_CMPc_TGT_LO 0 ≤ off ∧ off < A.POS_CMPc_TGT_LO 16 then s.writeCmp off w
  else State.withPP (fun s => s.plain off (posNormal off w)) s

/-- The values an XPT register stores for a written word. -/
def xptNormal (off : Nat) (w : Word) : Word :=
  if off = A.XPT_CFG then F.XPT_CFG_PIR_J.limit 8 255 (F.XPT_CFG_CMD_TMO.atLeast1 w)
  else if off = A.XPT_CLAMP then
    let hi := F.XPT_CLAMP_MAX.of w
    if signed 16 hi < signed 16 (F.XPT_CLAMP_MIN.of w) then F.XPT_CLAMP_MIN.into hi w else w
  else if off = A.XPT_ACC then F.XPT_ACC_V.atLeast1 w
  else if off = A.XPT_DEC then F.XPT_DEC_V.atLeast1 w
  else if off = A.XPT_VBACK then F.XPT_VBACK_V.atLeast1 w
  else if off = A.XPT_TOL then F.XPT_TOL_V.limit 1 32 w
  else w

/-- Writes to the transport unit. -/
def State.writeXpt (s : State) (off : Nat) (w : Word) : State :=
  if off = A.XPT_CTL then
    let s := if F.XPT_CTL_START.set w then s.startWrite else s
    let s := if F.XPT_CTL_STOP.set w then s.stopWrite else s
    let s := if F.XPT_CTL_PIR_RETRY.set w then s.retryWrite else s
    s.swstopWrite (F.XPT_CTL_SWSTOP.set w)
  else if off = A.XPT_CFG then
    let keep := F.XPT_CFG_MODE.into (s.g F.XPT_CFG_MODE) w
    (s.plain off (xptNormal off keep)).modeWrite (F.XPT_CFG_MODE.set w)
  else if off = A.XPT_U then (s.plain off w).writeU (signed 16 (F.XPT_U_V.of w))
  else s.plain off (xptNormal off w)

/-! ## Thermal and calibration (08) -/

/-- The values a THM register stores for a written word. -/
def thmNormal (off : Nat) (w : Word) : Word :=
  if off = A.THM_CFG then F.THM_CFG_CLEAR.atLeast1 (F.THM_CFG_PERSIST.atLeast1 (F.THM_CFG_RED.atLeast1 w))
  else if off = A.THM_RATE_LIM then
    if F.THM_RATE_LIM_RTRIP.of w < F.THM_RATE_LIM_RWARN.of w
    then F.THM_RATE_LIM_RWARN.into (F.THM_RATE_LIM_RTRIP.of w) w else w
  else if off = A.THM_TEMP_LIM then F.THM_TEMP_LIM_CEIL.fix (fun v => decide (7680 < signed 16 v)) 7680 w
  else if off = A.THM_BOARD_LIM then F.THM_BOARD_LIM_BTRIP.limit 0 7680 w
  else if off = A.THM_SENS then F.THM_SENS_NTIME.atLeast1 (F.THM_SENS_NDIFF.atLeast1 w)
  else if off = A.THM_FLOOR then F.THM_FLOOR_V.limit 1000 48000 w
  else w

/-- Writes to the thermal unit. -/
def State.writeThm (s : State) (off : Nat) (w : Word) : State :=
  if off = A.THM_CTL then
    (s.plain off w).tripAll
  else if off = A.THM_ACK then s.eachBit w State.thmAck
  else if off = A.THM_TRIPPED then s.eachBit w State.thmTripped
  else if A.THM_Pp_CFG 0 ≤ off ∧ off < A.THM_Pp_CFG 32 ∧ off % 0x10 = 0 then
    let p := (off - A.THM_Pp_CFG 0) / 0x10
    let v := (F.THM_Pp_CFG_CHEN p).of w
    let keep := (F.THM_Pp_CFG_CHEN p).into (s.g (F.THM_Pp_CFG_CHEN p)) ((F.THM_Pp_CFG_IB p).fix (· == 3) 1 w)
    (s.plain off keep).chenWrite (Fin.ofNat 33 p) (BitVec.ofNat 8 v)
  else if off = A.THM_BRD_CFG then
    let v := F.THM_BRD_CFG_CHEN.of w
    let keep := F.THM_BRD_CFG_CHEN.into (s.g F.THM_BRD_CFG_CHEN) (F.THM_BRD_CFG_IB.fix (· == 3) 1 w)
    (s.plain off keep).chenWrite 32 (BitVec.ofNat 8 v)
  else s.plain off (thmNormal off w)

/-- Writes to the calibration unit. -/
def State.writeCal (s : State) (off : Nat) (w : Word) : State :=
  if off = A.CAL_REQ then s.calRequest (Fin.ofNat 8 (F.CAL_REQ_CLASS.of w)) (Fin.ofNat 512 (F.CAL_REQ_INST.of w))
  else if off = A.CAL_QVAL then s.calWrite w
  else if A.CAL_PERIODk 0 ≤ off ∧ off < A.CAL_PERIODk 8 then s.plain off ((F.CAL_PERIODk_V 0).atLeast1 w)
  else if off = A.CAL_ET_CFG then s.plain off (F.CAL_ET_CFG_BLOCKS.limit 1 4 w)
  else if A.CAL_ET_CURn 0 ≤ off ∧ off < A.CAL_ET_CURn 32 then
    let n : Fin 32 := Fin.ofNat 32 ((off - A.CAL_ET_CURn 0) / 4)
    (s.plain off ((F.CAL_ET_CURn_CUR 0).fix (fun v => decide (10239 < v)) 0 w)).modEt n fun e =>
      { e with curWritten := true }
  else s.plain off w

/-! ## Cameras and inspection (07) -/

/-- A write of CAM_Pp_CTL (R199, R209, R214; 14 R405). -/
def State.writeCamCtl (s : State) (p : Fin 4) (w : Word) : State :=
  let s := s.putb (F.CAM_Pp_CTL_COPY p) ((F.CAM_Pp_CTL_COPY p).set w)
  let on := (F.CAM_Pp_CTL_EN p).set w
  let s := if on && !s.bit (F.CAM_Pp_CTL_EN p) then
      s.unlessHeld s.holdsCamera fun s => (s.put (F.CAM_Pp_CTL_EN p) 1).put (F.CAM_Pp_STATUS_DESKEWED p) 0
    else s.putb (F.CAM_Pp_CTL_EN p) on
  let s := if (F.CAM_Pp_CTL_CCI_FLUSH p).set w then s.cciFlush p else s
  if (F.CAM_Pp_CTL_SWTRIG p).set w then s.triggerRequest p else s

/-- The values a camera port's register stores for a written word. -/
def camNormal (p off : Nat) (w : Word) : Word :=
  if off = A.CAM_Pp_CFG p then
    (F.CAM_Pp_CFG_WIDTH p).limit 1 8192 ((F.CAM_Pp_CFG_DT p).fix (· == 3) 0 ((F.CAM_Pp_CFG_LANES p).fix (· == 3) 2 w))
  else if off = A.CAM_Pp_FRAME p then
    (F.CAM_Pp_FRAME_LINE_TIMEOUT p).atLeast1 ((F.CAM_Pp_FRAME_FRAME_LINES p).atLeast1 w)
  else if off = A.CAM_Pp_TRIG p then (F.CAM_Pp_TRIG_TRIG_TMO p).atLeast1 ((F.CAM_Pp_TRIG_TRIG_W p).atLeast1 w)
  else if off = A.CAM_Pp_STRB_W p then (F.CAM_Pp_STRB_W_V p).limit 20 200000 w
  else w

/-- Writes to a camera port. -/
def State.writeCam (s : State) (p : Fin 4) (off : Nat) (w : Word) : State :=
  if off = A.CAM_Pp_CTL p then s.writeCamCtl p w
  else if off = A.CAM_Pp_CCI_PUSH p then s.cciPush p
  else if off = A.CAM_Pp_STRB_DLY p ∨ off = A.CAM_Pp_STRB_W p then (s.strobeWrite p).plain off (camNormal p off w)
  else s.plain off (camNormal p off w)

/-- Writes to the inspection unit; those to the verdict window have no effect (R220). -/
def State.writeIns (s : State) (off : Nat) (w : Word) : State :=
  if off = A.INS_AREQ_PUSH then s.pushAreq (s.reg A.INS_AREQ_W0) (s.reg A.INS_AREQ_W1)
  else if off = A.INS_TBL_DATA then (s.tblAccess (some w)).1
  else if off = A.INS_CTL then
    (List.finRange 4).foldl (fun (s : State) p => (s.matchRequests p).freeStore p) (s.plain off w)
  else if off = A.INS_HYST then s.plain off (F.INS_HYST_RESTORE_N.atLeast1 (F.INS_HYST_MISS_N.atLeast1 w))
  else if A.INS_GEO_W0 0 ≤ off ∧ off < A.INS_GEO_W0 4 then
    let g := (off - A.INS_GEO_W0 0) / 0x20
    let w := if off = A.INS_GEO_W0 g then (F.INS_GEO_W0_H g).atLeast1 w
      else if off = A.INS_GEO_W2 g then (F.INS_GEO_W2_DREF g).atLeast1 w else w
    s.plain off w
  else s.plain off w

/-! ## Sequencers (10) -/

/-- A write to SEQ_BOOT_GO starts one load; while a load runs, or after hand-over, it has no effect
(R314). -/
def State.bootGo (s : State) : State :=
  if s.g F.SEQ_BOOT_STATUS_STATE = 1 ∧ s.boot.load.isNone ∧ !s.halted 3 then
    { (s.put F.SEQ_BOOT_STATUS_STATE 2).raiseEvent 0xF9 with
      boot := { s.boot with load := some ⟨s.g F.SEQ_BOOT_SRC_V / 8 * 8, s.g F.SEQ_BOOT_KEY_V / 8 * 8, false⟩ } }
  else s

/-- A write of SEQ_WD_CFG: from FIELD onward only SERVICE stores change PERIOD and HALT_GRACE (R311). -/
def State.writeWdCfg (s : State) (m : Master) (w : Word) : State :=
  let w := F.SEQ_WD_CFG_HALT_GRACE.atLeast1 (F.SEQ_WD_CFG_PERIOD.limit 2 65535 w)
  let w := if s.rwlLocked && m != .pair 3 then
      F.SEQ_WD_CFG_HALT_GRACE.into (s.g F.SEQ_WD_CFG_HALT_GRACE)
        (F.SEQ_WD_CFG_PERIOD.into (s.g F.SEQ_WD_CFG_PERIOD) w)
    else w
  s.plain A.SEQ_WD_CFG w

/-- A write of SEQ_Pj_CTL (R308-R310). -/
def State.writePairCtl (s : State) (j : Fin 4) (w : Word) : State :=
  let s := if (F.SEQ_Pj_CTL_START j).set w then
      s.unlessHeld (s.holdsPair j) fun s => s.startPairAt j false else s
  let s := if (F.SEQ_Pj_CTL_HALT j).set w then s.seqHalt j else s
  let s := if (F.SEQ_Pj_CTL_STEP j).set w then s.stepRequest j else s
  if (F.SEQ_Pj_CTL_RESUME j).set w then s.resumePair j else s

/-- Writes to a pair's registers; KSEL and the breakpoints act in BLANK and MANUFACTURE only (R310). -/
def State.writePair (s : State) (j : Fin 4) (off : Nat) (w : Word) : State :=
  if off = A.SEQ_Pj_CTL j then s.writePairCtl j w
  else if off = A.SEQ_Pj_KDATA j then s.kdataWrite j w
  else if off = A.SEQ_Pj_KSEL j ∨ off = A.SEQ_Pj_BRK0 j ∨ off = A.SEQ_Pj_BRK1 j then
    if s.debugOn then s.plain off w else s
  else s.plain off w

/-- Writes to the sequencers. -/
def State.writeSeq (s : State) (m : Master) (off : Nat) (w : Word) : State :=
  if off = A.SEQ_BOOT_GO then s.bootGo
  else if off = A.SEQ_WD_CFG then s.writeWdCfg m w
  else if off = A.SEQ_WD_KICK then (if m = .pair 3 then s.kick else s)
  else if off = A.SEQ_SWEV then s.swEvents (F.SEQ_SWEV_V.of w)
  else if A.SEQ_Pj_CTL 0 ≤ off ∧ off < A.SEQ_Pj_CTL 4 then
    s.writePair (Fin.ofNat 4 ((off - A.SEQ_Pj_CTL 0) / 0x100)) off w
  else s.plain off w

/-! ## DMA and memory control (11) -/

/-- Whether a channel's ring registers accept writes: IDLE or HALTED (R341). -/
def State.ringOpen (s : State) (c : Fin 48) : Bool := s.chanState c == 0 || s.chanState c == 4

/-- A write of DMA_Cc_CFG. -/
def State.writeDmaCfg (s : State) (c : Fin 48) (w : Word) : State :=
  let w := (F.DMA_Cc_CFG_PREFETCH c).limit 1 4 ((F.DMA_Cc_CFG_MAXRD c).limit 1 32 w)
  let w := if s.ringOpen c then w else (F.DMA_Cc_CFG_RING_INT c).into (s.g (F.DMA_Cc_CFG_RING_INT c)) w
  s.plain (A.DMA_Cc_CFG c) w

/-- Writes to a channel's registers. -/
def State.writeDmaChan (s : State) (c : Fin 48) (off : Nat) (w : Word) : State :=
  if off = A.DMA_Cc_CTL c then
    let s := if (F.DMA_Cc_CTL_START c).set w then s.dmaStart c else s
    let s := if (F.DMA_Cc_CTL_ABORT c).set w then s.dmaAbort c else s
    if (F.DMA_Cc_CTL_DOORBELL c).set w then s.dmaBell c else s
  else if off = A.DMA_Cc_CFG c then s.writeDmaCfg c w
  else if off = A.DMA_Cc_RATE c then
    s.plain off ((F.DMA_Cc_RATE_BURST c).atLeast1 ((F.DMA_Cc_RATE_SHARE c).limit 0 256 w))
  else if A.DMA_Cc_RING_LO c ≤ off ∧ off ≤ A.DMA_Cc_HEAD c then
    if !s.ringOpen c then s
    else if off = A.DMA_Cc_RING_SIZE c then s.plain off ((F.DMA_Cc_RING_SIZE_V c).limit 2 4096 w)
    else if off = A.DMA_Cc_HEAD c then
      s.plain off ((F.DMA_Cc_HEAD_V c).fix (fun v => decide (s.ringSize c ≤ v)) 0 w)
    else s.plain off w
  else s.plain off w

/-- Writes to the DMA engine. -/
def State.writeDma (s : State) (off : Nat) (w : Word) : State :=
  if A.DMA_Cc_CTL 0 ≤ off ∧ off < A.DMA_Cc_CTL 48 then
    s.writeDmaChan (Fin.ofNat 48 ((off - A.DMA_Cc_CTL 0) / 0x40)) off w
  else s.plain off w

/-- The bits of a word of MEM_RET_SEL or MEM_LOST that stand for a bank with retention (Table 11.12). -/
def retentionMask (w : Nat) : Nat :=
  (List.range 32).foldl (fun a i =>
    if decide (32 * w + i ≤ 115) && bankRetains (32 * w + i) then a + 2 ^ i else a) 0

/-- A write of a setting from which the retention load is computed: once memory control has accepted a state, one that
takes the load above its limit has no effect (14 R405, R421). -/
def State.unlessOverload (f : State → State) (s : State) : State :=
  let t := f s
  if s.holdsMemory && decide (t.g F.PWR_RET_LIMIT_V < t.retentionLoad) then s.blocked else t

/-- Writes to memory control. -/
def State.writeMem (s : State) (off : Nat) (w : Word) : State :=
  if off = A.MEM_WIPE then s.wipeRequest (F.MEM_WIPE_V.of w)
  else if A.MEM_RET_SELw 0 ≤ off ∧ off < A.MEM_RET_SELw 4 then
    State.unlessOverload
      (fun s => s.plain off (w &&& BitVec.ofNat 32 (retentionMask ((off - A.MEM_RET_SELw 0) / 4)))) s
  else if A.MEM_LOSTw 0 ≤ off ∧ off < A.MEM_LOSTw 4 then
    let k := (off - A.MEM_LOSTw 0) / 4
    let s := (List.range 32).foldl (fun (s : State) i =>
      if w.getLsbD i && decide (32 * k + i ≤ 115) then
        s.modBank (bankIx (32 * k + i)) fun b => { b with lost := false } else s) s
    s.plain off w
  else s.plain off w

/-! ## Host link, power, clocks, reset, OTP (12 to 15) -/

/-- A PTM dialog is requested: it starts when PTM runs, or joins the one in progress (R365). -/
def State.ptmRequest (s : State) : State :=
  if !s.bit F.SYS_HL_PTM_CTL_EN || !s.hl.ptmEn || s.hl.dialog.isSome then s
  else
    let s := { s with hl := { s.hl with dialog := some s.now } }
    if s.bit F.SYS_HL_STATUS_LINK_UP then s.sendLink .ptmRequest else s

/-- Writes to the SYS block. -/
def State.writeSys (s : State) (off : Nat) (w : Word) : State :=
  let s := s.plain off w
  if off = A.SYS_HL_PTM_CTL ∧ F.SYS_HL_PTM_CTL_TRIG.set w then s.ptmRequest else s

/-- Writes to the power controller. -/
def State.writePwr (s : State) (m : Master) (off : Nat) (w : Word) : State :=
  if off = A.PWR_REQ then s.pwrReq (F.PWR_REQ_STATE.of w) (F.PWR_REQ_FORCE.set w)
  else if off = A.PWR_DOM_CTL then s.domWrite (w.toNat % 2 ^ 11) (F.PWR_DOM_CTL_FORCE.set w)
  else if off = A.PWR_WAKE_EN then State.unlessOverload (fun s => s.plain off (w &&& ~~~8#32)) s
  else if off = A.PWR_WAKE_CFG then
    s.plain off (F.PWR_WAKE_CFG_TALARM.limit 40 125 (F.PWR_WAKE_CFG_ENC_COUNT.atLeast1 w))
  else if off = A.PWR_RET_LIMIT then
    State.unlessOverload (fun s => s.plain off (F.PWR_RET_LIMIT_V.limit 0 2900 w)) s
  else if off = A.PWR_RESUME_PC ∨ off = A.PWR_RESUME_SP then
    if s.rwlLocked && m != .pair 3 then s else s.plain off w
  else s.plain off w

/-- Writes to the clock and reset controllers. -/
def State.writeClk (s : State) (m : Master) (off : Nat) (w : Word) : State :=
  if off = A.CLK_TRAIN_CTL then s.trainWrite w.toNat
  else if off = A.CLK_CFG then
    let s := s.plain off w
    if s.bit F.CLK_CFG_XTAL_EN then s else s.put F.CLK_STATUS_XTAL_OK 0
  else if off = A.RST_CTL then s.rstCtlWrite m w
  else s.plain off w

/-! ## Any register -/

/-- A write of a master to the register at a 4-byte-aligned offset (R4, R9). -/
def State.regWrite (s : State) (m : Master) (off : Nat) (w : Word) : State :=
  match off / 0x10000 with
  | 0x0 => s.writeSys off w
  | 0x1 => s.writePwr m off w
  | 0x2 => s.writeClk m off w
  | 0x3 => if off = A.OTP_CMD then s.otpWrite m w else s.plain off w
  | 0x5 => s.writeDma off w
  | 0x6 => s.plain off (if off = A.DPT_CTL then F.DPT_CTL_MODE.fix (· == 3) 0 w else w)
  | 0x8 => s.writePos off w
  | 0x9 => s.writeXpt off w
  | 0xA => s.writeThm off w
  | 0xB => s.writeCal off w
  | 0xC => if off < 0xC4000 then s.writeCam (Fin.ofNat 4 ((off - 0xC0000) / 0x1000)) off w else s.writeIns off w
  | 0xD => s.writeSeq m off w
  | 0xE => s.writeMem off w
  | 0xF => s.writeGrid off w
  | b => if 0x10 ≤ b ∧ b < 0x30 then s.writeBar m (Fin.ofNat 32 (b - 0x10)) off w else s.plain off w

end Sys2Proof.Machine
end

