-- ==== Sys2Proof/Machine/Bus.lean ====
section
/-!
DEFINITION. Accesses of the masters to the one internal address space: register reads with their
effects, register accesses of 4 and 8 bytes, accesses to the memory space (00 R5, R9, R479; 01 R20-R25;
07 R220; 08 R237; 11 R355; 13 R395).
-/

namespace Sys2Proof.Machine

/-! ## Snapshots (R479) -/

/-- The group that a snapshot register copies, as offsets (05 R170; 06 R176; 12 R365; 13 R383). -/
def snapGroup (off : Nat) : List Nat :=
  if off = A.POS_NOW_LO then [A.POS_NOW_HI]
  else if off = A.POS_PP_LO then [A.POS_PP_HI]
  else if off = A.CLK_TS_LO then [A.CLK_TS_HI]
  else if off = A.XPT_S_TICK then
    [A.XPT_S_Y_LO, A.XPT_S_Y_HI, A.XPT_S_ERR, A.XPT_S_V, A.XPT_S_VREF, A.XPT_S_CODE, A.XPT_S_PP_LO, A.XPT_S_PP_HI]
  else if off = A.SYS_HL_PTM_SEQ then
    [A.SYS_HL_PTM_T1_LO, A.SYS_HL_PTM_T1_HI, A.SYS_HL_PTM_T4_LO, A.SYS_HL_PTM_T4_HI, A.SYS_HL_PTM_T1P_LO,
     A.SYS_HL_PTM_T1P_HI, A.SYS_HL_PTM_T4P_LO, A.SYS_HL_PTM_T4P_HI, A.SYS_HL_PTM_MT_LO, A.SYS_HL_PTM_MT_HI,
     A.SYS_HL_PTM_PD]
  else []

/-- The snapshot registers. -/
def snapHeads : List Nat := [A.POS_NOW_LO, A.POS_PP_LO, A.CLK_TS_LO, A.XPT_S_TICK, A.SYS_HL_PTM_SEQ]

/-- The members of every group. -/
def snapMembers : List Nat := snapHeads.flatMap snapGroup

/-- Where a master's snapshot of a register is held. -/
def snapKey (m : Master) (off : Nat) : Nat := m.key * 0x1000000 + off

/-- A master's snapshot of a register; 0 before its first read of the snapshot register. -/
def State.snap (s : State) (m : Master) (off : Nat) : Word := Cells.get (fun _ => 0#32) s.snaps (snapKey m off)

/-- Copy a group into a master's snapshot. -/
def State.takeSnap (s : State) (m : Master) (group : List Nat) : State :=
  group.foldl (fun (s : State) o =>
    { s with snaps := Cells.set (fun _ => 0#32) s.snaps (snapKey m o) (s.regView m o) }) s

/-! ## FIFO windows (07 R220; 08 R237) -/

/-- Whether an offset lies in the verdict window or the test FIFO window. -/
def windowAt (off : Nat) : Option Bool :=
  if 0xCF000 ≤ off ∧ off < 0xD0000 then some true
  else if 0xB0800 ≤ off ∧ off < 0xB1000 then some false
  else none

/-- The records of a window's FIFO and the number popped before them. -/
def State.windowFifo (s : State) (verdict : Bool) : List DWord × Nat :=
  if verdict then (s.ins.fifo, s.ins.pops) else (s.cal.etFifo, s.cal.etPops)

/-- The upper halves held for masters of a window; each FIFO's domain loses its own. -/
def State.windowHeld (s : State) (verdict : Bool) : Cells HeldHalf :=
  if verdict then s.ins.held else s.cal.etHeld

/-- Replace the upper halves held of a window. -/
def State.setWindowHeld (s : State) (verdict : Bool) (h : Cells HeldHalf) : State :=
  if verdict then { s with ins := { s.ins with held := h } } else { s with cal := { s.cal with etHeld := h } }

/-- Pop a window's FIFO, a replay brought up to now first. -/
def State.windowPop (s : State) (verdict : Bool) : State × DWord := if verdict then s.replayOn.vfPop else s.etPop

/-- A 4-byte read in a window: the lower half, which holds the upper one for the master, or the upper half held for
it, which pops the record it belongs to where that is still the oldest (R220, R237). -/
def State.windowRead (s : State) (m : Master) (verdict : Bool) (off : Nat) : State × Word :=
  let s := if verdict then s.replayOn else s
  let f := s.windowFifo verdict
  if off % 8 = 0 then
    let w := f.1.head?.getD 0#64
    let s := s.readCells (s.headCell verdict)
    let h : HeldHalf := ⟨BitVec.ofNat 32 (w.toNat / 2 ^ 32), if f.1.isEmpty then none else some f.2⟩
    (s.setWindowHeld verdict (Cells.insert (s.windowHeld verdict) (snapKey m (off + 4)) h), BitVec.ofNat 32 w.toNat)
  else
    match Cells.find? (s.windowHeld verdict) (snapKey m off) with
    | some h =>
      let s := s.setWindowHeld verdict (Cells.drop (snapKey m off) (s.windowHeld verdict))
      (if h.serial = some f.2 then (s.windowPop verdict).1 else s, h.hi)
    | none => (s, 0)

/-! ## Register reads -/

/-- Clear the RC fields of a register that has been read (R5); the counters of the selected bank are the
bank's own (Table 11.12). -/
def State.clearRead (s : State) (off : Nat) : State :=
  let b := bankIx (s.g F.MEM_BANK_SEL_V)
  let sel := decide (s.g F.MEM_BANK_SEL_V ≤ 115)
  if off = A.MEM_BANK_CE then (if sel then s.modBank b fun x => { x with ce := 0 } else s)
  else if off = A.MEM_BANK_UE then (if sel then s.modBank b fun x => { x with ue := 0 } else s)
  else if off = A.MEM_BANK_COLL then (if sel then s.modBank b fun x => { x with coll := 0 } else s)
  else match kindAt off with
    | some k =>
      if k.fields.any fun f => f.acc == .rc then
        s.setReg off (k.fields.foldl (fun (w : Word) f =>
          if f.acc = .rc then Word.insert w f.lo f.w 0 else w) (s.reg off))
      else s
    | none => s

/-- The word of the logs' bank that holds a register of the violation log (12 R378; 11 Table 11.6; log 81). -/
def logCells (off : Nat) : List Nat :=
  if A.SYS_VLOG 0 0 ≤ off ∧ off < A.SYS_VLOG 64 0 then
    [unmappedWord 115 ((off - A.SYS_VLOG 0 0) / 16) ((off - A.SYS_VLOG 0 0) % 16 / 8)]
  else []

/-- A read of the register at a 4-byte-aligned offset by a master: the state after and the value. -/
def State.regRead (s : State) (m : Master) (off : Nat) : State × Word :=
  match windowAt off with
  | some v => s.windowRead m v off
  | none =>
    if off = A.INS_TBL_DATA then s.tblAccess none
    else if 0xC0000 ≤ off ∧ off < 0xC4000 ∧ off % 0x1000 = 0x810 then s.cciPop (Fin.ofNat 4 ((off - 0xC0000) / 0x1000))
    else if snapMembers.contains off then (s, s.snap m off)
    else
      let v := s.regView m off
      let s := s.readCells (logCells off)
      ((s.takeSnap m (snapGroup off)).clearRead off, v)

/-! ## Register accesses (R22) -/

/-- Whether R22 takes a register access. -/
def accessFits (off n : Nat) : Bool := (n == 4 && off % 4 == 0) || (n == 8 && off % 8 == 0)

/-- Whether the registers at an offset can be reached: no reset sequence, their domain on. -/
def State.reachable (s : State) (off : Nat) : Bool := !s.seqRun && s.blockUp off

/-- A register access that cannot be reached: nothing in a reset sequence; counted in a domain that is
off (R25, R355, R395). -/
def State.missed (s : State) (off : Nat) : State := if s.seqRun then s else s.unpowered off

/-- A register read of 4 or 8 bytes: the lower register first; an 8-byte read in a FIFO window pops one
record (R22, R220, R237). -/
def State.regsRead (s : State) (m : Master) (off n : Nat) : State × List Byte :=
  if !accessFits off n then (s, List.replicate n 0)
  else if !s.reachable off then (s.missed off, List.replicate n 0)
  else if n = 4 then
    let r := s.regRead m off
    (r.1, leBytes 4 r.2.toNat)
  else
    match windowAt off with
    | some v =>
      let s := if v then s.replayOn else s
      let r := (s.readCells (s.headCell v)).windowPop v
      (r.1, leBytes 8 r.2.toNat)
    | none =>
      let a := s.regRead m off
      let b := a.1.regRead m (off + 4)
      (b.1, leBytes 4 a.2.toNat ++ leBytes 4 b.2.toNat)

/-- A register write of 4 or 8 bytes, the lower register first (R22). -/
def State.regsWrite (s : State) (m : Master) (off : Nat) (bs : List Byte) : State :=
  let n := bs.length
  if !accessFits off n then s
  else if !s.reachable off then s.missed off
  else
    let s := s.regWrite m off (BitVec.ofNat 32 (leNat (bs.take 4)))
    if n = 4 then s
    else if s.seqRun then s
    else s.regWrite m (off + 4) (BitVec.ofNat 32 (leNat (bs.drop 4)))

/-- Whether every byte of a request is enabled. -/
def allEnabled (bs : List (Option Byte)) : Bool := bs.all Option.isSome

/-- The enabled bytes. -/
def enabled (bs : List (Option Byte)) : List Byte := bs.filterMap id

/-- The bits of a register that hold what software wrote. -/
def storedBits (off : Nat) : Word :=
  match kindAt off with
  | some k => k.fields.foldl (fun (w : Word) f =>
      if f.acc = .rw ∨ f.acc = .rwl then Word.insert w f.lo f.w (2 ^ f.w - 1) else w) 0
  | none => 0

/-- The word written to a register of which only some bytes are enabled: in the others a stored field keeps its value
and every other bit is 0 (12 R369; log 71). -/
def State.mergedWord (s : State) (off : Nat) (bs : List (Option Byte)) : Word :=
  let old := leBytes 4 (s.reg off &&& storedBits off).toNat
  BitVec.ofNat 32 (leNat ((List.range 4).map fun i => (bs.getD i none).getD (old.getD i 0)))

/-- A register write of 4 or 8 bytes of which only some may be enabled; a register without an enabled byte is not
written (12 R369, R371). -/
def State.regsWriteSome (s : State) (m : Master) (off : Nat) (bs : List (Option Byte)) : State :=
  if allEnabled bs then s.regsWrite m off (enabled bs)
  else if !accessFits off bs.length then s
  else if !s.reachable off then s.missed off
  else (List.range (bs.length / 4)).foldl (fun (s : State) i =>
    let part := (bs.drop (4 * i)).take 4
    if s.seqRun || part.all Option.isNone then s
    else s.regWrite m (off + 4 * i) (s.mergedWord (off + 4 * i) part)) s

/-! ## Runs of registers (12 R371, R374; 11 R330) -/

/-- The pieces in which a run of bytes in the register space is accessed: 8 bytes where the address is a
multiple of 8 and at least 8 remain and `wide` holds, else 4. `fuel` is the number of bytes. -/
def pieces (wide : Bool) : Nat → Nat → Nat → List (Nat × Nat)
  | 0, _, _ => []
  | fuel + 1, a, n =>
    if n = 0 then []
    else
      let k := if wide && a % 8 == 0 && decide (8 ≤ n) then 8 else 4
      (a, k) :: pieces wide fuel (a + k) (n - k)

/-- Read a run of registers; address and length are multiples of 4. -/
def State.runRead (s : State) (m : Master) (wide : Bool) (a n : Nat) : State × List Byte :=
  (pieces wide n a n).foldl (fun (r : State × List Byte) p =>
    let x := r.1.regsRead m p.1 p.2
    (x.1, r.2 ++ x.2)) (s, [])

/-- Write the enabled bytes of a run of registers. -/
def State.runWrite (s : State) (m : Master) (wide : Bool) (a : Nat) (bs : List (Option Byte)) : State :=
  (pieces wide bs.length a bs.length).foldl (fun (s : State) p =>
    s.regsWriteSome m p.1 ((bs.drop (p.1 - a)).take p.2)) s

/-! ## Rows of their own -/

/-- SNAPSHOT_READ (R479): a read of one of the five snapshot registers by a master. -/
def execSnapshotRead (m : Master) (which : Fin 5) (s : State) : Out :=
  let r := s.regsRead m (snapHeads.getD which.val 0) 4
  .next (r.1.answer r.2 false 0)

/-- RC_READ (R5): a 4-byte read of the register at word `reg` of the register space by a master. -/
def execRcRead (m : Master) (reg : Fin 0x400000) (s : State) : Out :=
  let r := s.regsRead m (4 * reg.val) 4
  .next (r.1.answer r.2 false 0)

end Sys2Proof.Machine
end

