-- ==== Sys2Proof/Machine/Krytis.lean ====
section
/-!
DEFINITION. The instruction set of the Krytis cores: the words of Tables 9.3 to 9.10 and what each
operation does to a pair (09 R257-R281; 10 R289-R297).
-/

namespace Sys2Proof.Machine

/-! ## Instructions (R262-R277) -/

/-- The operations of OP 0x01 and OP 0x02 (Table 9.5). -/
inductive Alu where
  | add | sub | and | or | xor | sll | srl | sra | slt | sltu | min | max | minu | maxu | adds | subs
  | clz | popc
  deriving DecidableEq, Repr

/-- The operations of OP 0x03 (Table 9.6). -/
inductive MulOp where
  | mul | mulh | mulhu | mac | macu | msu
  deriving DecidableEq, Repr

/-- The loads of OP 0x04 (Table 9.7). -/
inductive Load where
  | lb | lh | lw | ld | lbu | lhu
  deriving DecidableEq, Repr

/-- The stores of OP 0x05 (Table 9.7). -/
inductive Store where
  | sb | sh | sw | sd
  deriving DecidableEq, Repr

/-- The branch conditions (Table 9.9). -/
inductive Cond where
  | eq | ne | lt | ge | ltu | geu
  deriving DecidableEq, Repr

/-- An instruction with its fields. -/
inductive KInstr where
  | alu (op : Alu) (rd rs1 rs2 : Fin 16)
  | aluI (op : Alu) (rd rs1 : Fin 16) (imm : BitVec 12)
  | mul (op : MulOp) (rd rs1 rs2 : Fin 16)
  | load (op : Load) (rt rb : Fin 16) (off : BitVec 12)
  | store (op : Store) (rt rb : Fin 16) (off : BitVec 12)
  | swap (rd rs1 rs2 : Fin 16)
  | fadd (rd rs1 rs2 : Fin 16)
  | branch (c : Cond) (rs1 rs2 : Fin 16) (off : BitVec 13)
  | jal (rd : Fin 16) (imm : BitVec 20)
  | jalr (rd rs1 : Fin 16) (imm : BitVec 12)
  | lui (rd : Fin 16) (imm : BitVec 20)
  | cmd (rs1 rs2 : Fin 16)
  | waite (rd rs1 rs2 : Fin 16)
  | waitp (rd rs2 : Fin 16) (w : Fin 4)
  | fence (rd rs2 : Fin 16) (bar : Fin 32)
  | crr (rd : Fin 16) (num : BitVec 10)
  | crw (rs1 : Fin 16) (num : BitVec 10)
  | eret
  | sync
  | pass
  deriving DecidableEq, Repr

/-! ## Decoding an instruction word (Tables 9.3 to 9.10) -/

/-- The register-form operation of FN. -/
def aluOf : Nat → Option Alu
  | 0x00 => some .add | 0x01 => some .sub | 0x02 => some .and | 0x03 => some .or | 0x04 => some .xor
  | 0x05 => some .sll | 0x06 => some .srl | 0x07 => some .sra | 0x08 => some .slt | 0x09 => some .sltu
  | 0x0A => some .min | 0x0B => some .max | 0x0C => some .minu | 0x0D => some .maxu | 0x0E => some .adds
  | 0x0F => some .subs | 0x10 => some .clz | 0x11 => some .popc | _ => none

/-- Whether an operation has an immediate form (Table 9.5). -/
def Alu.hasImm : Alu → Bool
  | .add => true | .and => true | .or => true | .xor => true | .sll => true | .srl => true | .sra => true
  | .slt => true | .sltu => true | .adds => true | _ => false

/-- The multiply of FN. -/
def mulOf : Nat → Option MulOp
  | 0x00 => some .mul | 0x01 => some .mulh | 0x02 => some .mulhu | 0x08 => some .mac | 0x09 => some .macu
  | 0x0A => some .msu | _ => none

/-- The load of FN. -/
def loadOf : Nat → Option Load
  | 0x00 => some .lb | 0x01 => some .lh | 0x02 => some .lw | 0x03 => some .ld | 0x04 => some .lbu
  | 0x05 => some .lhu | _ => none

/-- The store of FN. -/
def storeOf : Nat → Option Store
  | 0x00 => some .sb | 0x01 => some .sh | 0x02 => some .sw | 0x03 => some .sd | _ => none

/-- The condition of COND. -/
def condOf : Nat → Option Cond
  | 0 => some .eq | 1 => some .ne | 2 => some .lt | 3 => some .ge | 4 => some .ltu | 5 => some .geu
  | _ => none

/-- The register number in four bits of a word. -/
def regAt (w : Word) (lo : Nat) : Fin 16 := Fin.ofNat 16 (Word.field w lo 4)

/-- The instruction of an R-format group. -/
def decodeR (w : Word) (f : Fin 16 → Fin 16 → Fin 16 → KInstr) : Option KInstr :=
  if Word.field w 6 8 = 0 then some (f (regAt w 22) (regAt w 18) (regAt w 14)) else none

/-- A unit or system instruction (Table 9.10). -/
def decodeC (w : Word) : Option KInstr :=
  let rd := regAt w 22
  let a := regAt w 18
  let b := regAt w 14
  let imm := BitVec.ofNat 10 (Word.field w 0 10)
  let n := imm.toNat
  match Word.field w 10 4 with
  | 0x0 => if rd = 0 ∧ n = 0 then some (.cmd a b) else none
  | 0x1 => if n = 0 then some (.waite rd a b) else none
  | 0x2 => if a = 0 ∧ n < 4 then some (.waitp rd b (Fin.ofNat 4 n)) else none
  | 0x3 => if a = 0 ∧ n < 32 then some (.fence rd b (Fin.ofNat 32 n)) else none
  | 0x4 => if a = 0 ∧ b = 0 then some (.crr rd imm) else none
  | 0x5 => if rd = 0 ∧ b = 0 then some (.crw a imm) else none
  | 0x6 => if rd = 0 ∧ a = 0 ∧ b = 0 ∧ n = 0 then some .eret else none
  | 0x7 => if rd = 0 ∧ a = 0 ∧ b = 0 ∧ n = 0 then some .sync else none
  | 0x8 => if rd = 0 ∧ a = 0 ∧ b = 0 ∧ n = 0 then some .pass else none
  | _ => none

/-- The instruction of a word; none when its OP or function is unassigned or a field that is marked 0
is not 0 (R262). Register rules are `KInstr.legal`. -/
def decodeK (w : Word) : Option KInstr :=
  let rd := regAt w 22
  let a := regAt w 18
  let imm := BitVec.ofNat 12 w.toNat
  match Word.field w 26 6 with
  | 0x01 => (aluOf (Word.field w 0 6)).bind fun op => decodeR w (.alu op)
  | 0x02 => (aluOf (Word.field w 12 6)).bind fun op => if op.hasImm then some (.aluI op rd a imm) else none
  | 0x03 => (mulOf (Word.field w 0 6)).bind fun op => decodeR w (.mul op)
  | 0x04 => (loadOf (Word.field w 12 6)).map fun op => .load op rd a imm
  | 0x05 => (storeOf (Word.field w 12 6)).map fun op => .store op rd a imm
  | 0x06 =>
    match Word.field w 0 6 with
    | 0x00 => decodeR w .swap
    | 0x01 => decodeR w .fadd
    | _ => none
  | 0x08 => (condOf (Word.field w 13 5)).map fun c => .branch c rd a (BitVec.ofNat 13 w.toNat)
  | 0x0A => if Word.field w 12 6 = 0 then some (.jalr rd a imm) else none
  | 0x0C => if Word.field w 20 2 = 0 then some (.lui rd (BitVec.ofNat 20 w.toNat)) else none
  | 0x0D => if Word.field w 20 2 = 0 then some (.jal rd (BitVec.ofNat 20 w.toNat)) else none
  | 0x10 => decodeC w
  | _ => none

/-! ## Encoding an instruction (Tables 9.3 to 9.10) -/

/-- FN of an operation (Table 9.5). -/
def Alu.fn : Alu → Nat
  | .add => 0x00 | .sub => 0x01 | .and => 0x02 | .or => 0x03 | .xor => 0x04 | .sll => 0x05 | .srl => 0x06
  | .sra => 0x07 | .slt => 0x08 | .sltu => 0x09 | .min => 0x0A | .max => 0x0B | .minu => 0x0C | .maxu => 0x0D
  | .adds => 0x0E | .subs => 0x0F | .clz => 0x10 | .popc => 0x11

/-- FN of a multiply (Table 9.6). -/
def MulOp.fn : MulOp → Nat
  | .mul => 0x00 | .mulh => 0x01 | .mulhu => 0x02 | .mac => 0x08 | .macu => 0x09 | .msu => 0x0A

/-- FN of a load (Table 9.7). -/
def Load.fn : Load → Nat
  | .lb => 0 | .lh => 1 | .lw => 2 | .ld => 3 | .lbu => 4 | .lhu => 5

/-- FN of a store (Table 9.7). -/
def Store.fn : Store → Nat
  | .sb => 0 | .sh => 1 | .sw => 2 | .sd => 3

/-- COND of a branch (Table 9.9). -/
def Cond.fn : Cond → Nat
  | .eq => 0 | .ne => 1 | .lt => 2 | .ge => 3 | .ltu => 4 | .geu => 5

/-- OP, the two register fields that every format but U has, and the 18 bits below them (Table 9.3). -/
def kWord (op : Nat) (rd rs1 : Fin 16) (low : Nat) : Word :=
  BitVec.ofNat 32 (op * 2 ^ 26 + rd.val * 2 ^ 22 + rs1.val * 2 ^ 18 + low)

/-- The word of an instruction. -/
def KInstr.encode : KInstr → Word
  | .alu op rd rs1 rs2 => kWord 0x01 rd rs1 (rs2.val * 2 ^ 14 + op.fn)
  | .aluI op rd rs1 imm => kWord 0x02 rd rs1 (op.fn * 2 ^ 12 + imm.toNat)
  | .mul op rd rs1 rs2 => kWord 0x03 rd rs1 (rs2.val * 2 ^ 14 + op.fn)
  | .load op rt rb off => kWord 0x04 rt rb (op.fn * 2 ^ 12 + off.toNat)
  | .store op rt rb off => kWord 0x05 rt rb (op.fn * 2 ^ 12 + off.toNat)
  | .swap rd rs1 rs2 => kWord 0x06 rd rs1 (rs2.val * 2 ^ 14)
  | .fadd rd rs1 rs2 => kWord 0x06 rd rs1 (rs2.val * 2 ^ 14 + 1)
  | .branch c rs1 rs2 off => kWord 0x08 rs1 rs2 (c.fn * 2 ^ 13 + off.toNat)
  | .jal rd imm => kWord 0x0D rd 0 imm.toNat
  | .jalr rd rs1 imm => kWord 0x0A rd rs1 imm.toNat
  | .lui rd imm => kWord 0x0C rd 0 imm.toNat
  | .cmd rs1 rs2 => kWord 0x10 0 rs1 (rs2.val * 2 ^ 14)
  | .waite rd rs1 rs2 => kWord 0x10 rd rs1 (rs2.val * 2 ^ 14 + 1 * 2 ^ 10)
  | .waitp rd rs2 w => kWord 0x10 rd 0 (rs2.val * 2 ^ 14 + 2 * 2 ^ 10 + w.val)
  | .fence rd rs2 bar => kWord 0x10 rd 0 (rs2.val * 2 ^ 14 + 3 * 2 ^ 10 + bar.val)
  | .crr rd num => kWord 0x10 rd 0 (4 * 2 ^ 10 + num.toNat)
  | .crw rs1 num => kWord 0x10 0 rs1 (5 * 2 ^ 10 + num.toNat)
  | .eret => kWord 0x10 0 0 (6 * 2 ^ 10)
  | .sync => kWord 0x10 0 0 (7 * 2 ^ 10)
  | .pass => kWord 0x10 0 0 (8 * 2 ^ 10)

/-- Whether a control register is assigned (Tables 9.2 and 10.2). -/
def ccrReadable (n : Nat) : Bool :=
  decide (n ≤ 7) || (decide (0x010 ≤ n) && decide (n ≤ 0x013)) || (decide (0x018 ≤ n) && decide (n ≤ 0x029))
    || (decide (0x030 ≤ n) && decide (n ≤ 0x032)) || (decide (0x040 ≤ n) && decide (n ≤ 0x05F))

/-- Whether CRW may name a control register: it is assigned and not RO. -/
def ccrWritable (n : Nat) : Bool :=
  n == 3 || n == 4 || (decide (0x010 ≤ n) && decide (n ≤ 0x012)) || (decide (0x018 ≤ n) && decide (n ≤ 0x029))
    || (decide (0x040 ≤ n) && decide (n ≤ 0x05F))

/-- The register and number rules whose breach is ILLEGAL (R261, R262, R264, R265, R267, R268). -/
def KInstr.legal : KInstr → Bool
  | .alu .clz _ _ rs2 => rs2 == 0
  | .alu .popc _ _ rs2 => rs2 == 0
  | .aluI .sll _ _ imm => imm.toNat < 32
  | .aluI .srl _ _ imm => imm.toNat < 32
  | .aluI .sra _ _ imm => imm.toNat < 32
  | .aluI op _ _ _ => op.hasImm
  | .mul .mac rd _ _ => rd.val % 2 == 0 && decide (2 ≤ rd.val) && decide (rd.val ≤ 12)
  | .mul .macu rd _ _ => rd.val % 2 == 0 && decide (2 ≤ rd.val) && decide (rd.val ≤ 12)
  | .mul .msu rd _ _ => rd.val % 2 == 0 && decide (2 ≤ rd.val) && decide (rd.val ≤ 12)
  | .load .ld rt _ _ => rt.val % 2 == 0
  | .store .sd rt _ _ => rt.val % 2 == 0
  | .crr _ num => ccrReadable num.toNat
  | .crw _ num => ccrWritable num.toNat
  | _ => true

/-! ## Arithmetic (R264-R267) -/

/-- Leading zero bits of a word. -/
def leadingZeros (w : Word) : Nat :=
  if w.toNat = 0 then 32 else 31 - w.toNat.log2

/-- The 1 bits of a word. -/
def onesOf (w : Word) : Nat := (List.range 32).foldl (fun n i => n + b2n (w.getLsbD i)) 0

/-- The result of an operation on a and b, and whether it saturated (Table 9.5). -/
def aluResult (op : Alu) (a b : Word) : Word × Bool :=
  let shift := b.toNat % 32
  match op with
  | .add => (a + b, false)
  | .sub => (a - b, false)
  | .and => (a &&& b, false)
  | .or => (a ||| b, false)
  | .xor => (a ^^^ b, false)
  | .sll => (a <<< shift, false)
  | .srl => (a >>> shift, false)
  | .sra => (a.sshiftRight shift, false)
  | .slt => (BitVec.ofNat 32 (b2n (decide (a.toInt < b.toInt))), false)
  | .sltu => (BitVec.ofNat 32 (b2n (decide (a.toNat < b.toNat))), false)
  | .min => (if a.toInt < b.toInt then a else b, false)
  | .max => (if a.toInt < b.toInt then b else a, false)
  | .minu => (if a.toNat < b.toNat then a else b, false)
  | .maxu => (if a.toNat < b.toNat then b else a, false)
  | .adds =>
    let x := a.toInt + b.toInt
    (BitVec.ofInt 32 (satS 32 x), satS 32 x != x)
  | .subs =>
    let x := a.toInt - b.toInt
    (BitVec.ofInt 32 (satS 32 x), satS 32 x != x)
  | .clz => (BitVec.ofNat 32 (leadingZeros a), false)
  | .popc => (BitVec.ofNat 32 (onesOf a), false)

/-- The extension of imm12 for an immediate form (R265). -/
def immOf (op : Alu) (imm : BitVec 12) : Word :=
  match op with
  | .and => imm.setWidth 32
  | .or => imm.setWidth 32
  | .xor => imm.setWidth 32
  | .sll => imm.setWidth 32
  | .srl => imm.setWidth 32
  | .sra => imm.setWidth 32
  | _ => imm.signExtend 32

/-- Set SAT when a result saturated (R266). -/
def Pair.saturate (p : Pair) (c : Bool) : Pair := if c then p.setCcr 0x003 1 else p

/-- Write a result, and SAT. -/
def Pair.result (p : Pair) (rd : Fin 16) (r : Word × Bool) : Pair := (p.setK rd r.1).saturate r.2

/-- The register after an even one. -/
def odd (r : Fin 16) : Fin 16 := Fin.ofNat 16 (r.val + 1)

/-- The value of an even-odd pair of registers, low half in the even one. -/
def Pair.kpair (p : Pair) (r : Fin 16) : Nat := (p.kr r).toNat + 2 ^ 32 * (p.kr (odd r)).toNat

/-- Write an even-odd pair of registers. -/
def Pair.setKpair (p : Pair) (r : Fin 16) (v : Nat) : Pair :=
  (p.setK r (BitVec.ofNat 32 v)).setK (odd r) (BitVec.ofNat 32 (v / 2 ^ 32))

/-- A signed accumulation, saturated to 64 bits. -/
def Pair.accumulate (p : Pair) (rd : Fin 16) (x : Int) : Pair :=
  let y := signed 64 (p.kpair rd) + x
  (p.setKpair rd (unsigned 64 (satS 64 y))).saturate (satS 64 y != y)

/-- A multiply or MAC (Table 9.6). -/
def Pair.multiply (p : Pair) (op : MulOp) (rd rs1 rs2 : Fin 16) : Pair :=
  let a := p.kr rs1
  let b := p.kr rs2
  let sp : Int := a.toInt * b.toInt
  let up : Nat := a.toNat * b.toNat
  match op with
  | .mul => p.setK rd (BitVec.ofNat 32 up)
  | .mulh => p.setK rd (BitVec.ofInt 32 (sp / 2 ^ 32))
  | .mulhu => p.setK rd (BitVec.ofNat 32 (up / 2 ^ 32))
  | .mac => p.accumulate rd sp
  | .msu => p.accumulate rd (-sp)
  | .macu =>
    let y := p.kpair rd + up
    (p.setKpair rd (min y (2 ^ 64 - 1))).saturate (decide (2 ^ 64 ≤ y))

/-- Whether a branch is taken (Table 9.9). -/
def Cond.holds (c : Cond) (a b : Word) : Bool :=
  match c with
  | .eq => a == b
  | .ne => a != b
  | .lt => decide (a.toInt < b.toInt)
  | .ge => decide (b.toInt ≤ a.toInt)
  | .ltu => decide (a.toNat < b.toNat)
  | .geu => decide (b.toNat ≤ a.toNat)

/-! ## The data space (R258, R269-R273) -/

/-- The regions of Table 9.1 that an access may reach. -/
inductive CoreRegion where
  | regs | own | quad | fabric
  deriving DecidableEq, Repr

/-- The region of a core data address for pair j; none traps DATA_ADDR. -/
def coreRegion (j : Nat) (a : Nat) : Option CoreRegion :=
  if a < 0x01000000 then some .regs
  else if 0x10000000 ≤ a ∧ a < 0x10020000 then some .own
  else if 0x44000000 ≤ a ∧ a < 0x44400000 then some .quad
  else if 0x45000000 + j * 0x40000 ≤ a ∧ a < 0x45000000 + (j + 1) * 0x40000 then none
  else if 0x40000000 ≤ a ∧ a < 0x80000000 then some .fabric
  else none

/-- The region that an access of n bytes lies wholly in. -/
def accessRegion (j a n : Nat) : Option CoreRegion :=
  match coreRegion j a with
  | some r => if coreRegion j (a + n - 1) = some r then some r else none
  | none => none

/-- Whether Table 9.8 takes the size and alignment. -/
def aligned (r : CoreRegion) (a n : Nat) : Bool :=
  match r with
  | .own => true
  | .quad => true
  | .regs => (n == 4 || n == 8) && a % n == 0
  | .fabric => a % n == 0

/-- Bytes of a load. -/
def Load.size : Load → Nat
  | .lb => 1 | .lbu => 1 | .lh => 2 | .lhu => 2 | .lw => 4 | .ld => 8

/-- Bytes of a store. -/
def Store.size : Store → Nat
  | .sb => 1 | .sh => 2 | .sw => 4 | .sd => 8

/-- The effective address (R268). -/
def Pair.ea (p : Pair) (rb : Fin 16) (off : BitVec 12) : Nat := (p.kr rb + off.signExtend 32).toNat

/-- The region of an access, or its trap in the order of R280. -/
def Pair.check (p : Pair) (j : Fin 4) (rb : Fin 16) (a n : Nat) : Except Trap CoreRegion :=
  if rb = 14 ∧ a < (p.ccr 0x004).toNat then .error .stack
  else match accessRegion j.val a n with
    | none => .error .dataAddr
    | some r => if aligned r a n then .ok r else .error .misaligned

/-- The byte of the newest store in the commit buffer to a core data address (R273). -/
def Pair.forwarded (p : Pair) (a : Nat) : Option Byte :=
  p.outputs.foldl (fun (r : Option Byte) o =>
    match o with
    | .store b bs => if b ≤ a ∧ a < b + bs.length then some (bs.getD (a - b) 0) else r
    | .command _ => r) none

/-- Write what a load has read: bytes ea to ea + n - 1, least significant first (Table 9.7). -/
def Pair.loaded (p : Pair) (op : Load) (rt : Fin 16) (bs : List Byte) : Pair :=
  let v := leNat bs
  match op with
  | .lb => p.setK rt ((BitVec.ofNat 8 v).signExtend 32)
  | .lh => p.setK rt ((BitVec.ofNat 16 v).signExtend 32)
  | .lw => p.setK rt (BitVec.ofNat 32 v)
  | .ld => p.setKpair rt v
  | .lbu => p.setK rt (BitVec.ofNat 32 (v % 2 ^ 8))
  | .lhu => p.setK rt (BitVec.ofNat 32 (v % 2 ^ 16))

/-- The bytes a store writes (Table 9.7). -/
def Pair.stored (p : Pair) (op : Store) (rt : Fin 16) : List Byte :=
  match op with
  | .sb => leBytes 1 (p.kr rt).toNat
  | .sh => leBytes 2 (p.kr rt).toNat
  | .sw => leBytes 4 (p.kr rt).toNat
  | .sd => leBytes 8 (p.kpair rt)

/-! ## Core control registers (R261, Tables 9.2 and 10.2) -/

/-- SEQ cycles since the pair started; one is 1 ns. -/
def Pair.cycles (p : Pair) (now : Nat) : Nat := (now - p.startT) / 65536

/-- CRR: the pair after and the value. -/
def Pair.crr (p : Pair) (j : Fin 4) (now n : Nat) : Pair × Word :=
  if n = 0x000 then (p, BitVec.ofNat 32 j.val)
  else if n = 0x001 then
    ({ p with cycHi := BitVec.ofNat 32 (p.cycles now / 2 ^ 32) }, BitVec.ofNat 32 (p.cycles now))
  else if n = 0x002 then (p, p.cycHi)
  else (p, p.ccr n)

/-- CRW of a number that may be written. -/
def Pair.crw (p : Pair) (n : Nat) (w : Word) : Pair :=
  if n = 0x003 then p.setCcr n (w &&& 1#32)
  else if n = 0x004 then p.setCcr n (w &&& 0xFFFFFFF8#32)
  else if n = 0x010 then p.setCcr n (Word.insert (p.ccr n) 4 1 (Word.field w 4 1))
  else if n = 0x011 then p.setCcr n (w &&& 0xFFFFFFC0#32)
  else if n = 0x012 then p.setCcr n (p.ccr n &&& ~~~w)
  else if n ≤ 0x01F then p.setCcr n (w &&& 0xFFFFFFFC#32)
  else if n ≤ 0x027 then p.setCcr n (w &&& 0xF#32)
  else if n = 0x028 then p.setCcr n (w &&& 0xFFFFFFFC#32)
  else if n = 0x029 then p.setCcr n (w &&& 0xF#32)
  else (p.setCcr n (w &&& 0x1FFF#32)).clearSlot (n - 0x040)

/-- ERET at a level that is not the thread (R291). -/
def Pair.eret (p : Pair) : Pair :=
  let l := p.level
  if l ≤ 7 then { p.setLevel (Word.field (p.ccr (0x020 + l)) 0 4) with pc := (p.ccr (0x018 + l)).toNat }
  else { p.setLevel (Word.field (p.ccr 0x029) 0 4) with pc := (p.ccr 0x028).toNat }

end Sys2Proof.Machine
end

