-- ==== Sys2Proof/Machine/Outputs.lean ====
section
/-!
DEFINITION. Committed outputs at their targets: stores, and unit commands with their refusals (09 R272;
10 R298-R300, R303, Table 10.4).
-/

namespace Sys2Proof.Machine

/-! ## Unit commands (R298-R300, Table 10.4) -/

/-- A command is refused: SEQ_Pj_CMDERR and CMD_ERR (R300). -/
def State.cmdRefused (s : State) (j : Fin 4) (unit op : Nat) (st : Status) : State :=
  (((s.put (F.SEQ_Pj_CMDERR_STATUS j) st.code).put (F.SEQ_Pj_CMDERR_UNIT j) unit).put
    (F.SEQ_Pj_CMDERR_OP j) op).setCause (F.SEQ_Pj_CAUSE_CMD_ERR j)

/-- EVT_RAISE. -/
def State.cmdEvtRaise (s : State) (k : Nat) : State := s.raiseEvent (0xF4 + k % 4)

/-- WD_KICK: SERVICE only. -/
def State.cmdWdKick (s : State) (j : Fin 4) : State :=
  if j = 3 then s.kick else s.cmdRefused j 0x02 0x01 .notOwner

/-- PAIR_HALT: SERVICE halts one of pairs 0 to 2 (R309). -/
def State.cmdPairHalt (s : State) (j pair : Fin 4) : State :=
  if j = 3 ∧ pair ≠ 3 then s.haltRequest pair 3 else s.cmdRefused j 0x02 0x02 .notOwner

/-- PAIR_START: SERVICE loads an entry and starts one of pairs 0 to 2 (R308). -/
def State.cmdPairStart (s : State) (j pair : Fin 4) (entry : Word) : State :=
  if j = 3 ∧ pair ≠ 3 then
    if entry.toNat % 4 ≠ 0 ∨ 0x20000 ≤ entry.toNat then s.cmdRefused j 0x02 0x03 .badDescriptor
    else s.unlessHeld (s.holdsPair pair) fun s => (s.setReg (A.SEQ_Pj_ENTRY pair) entry).startPairAt pair true
  else s.cmdRefused j 0x02 0x03 .notOwner

/-- An action on every bar of a mask whose domain is on; POWER_DENIED when any named bar's is off
(R300). -/
def State.cmdBars (s : State) (j : Fin 4) (op : Nat) (mask : Word) (f : State → Fin 32 → State) : State :=
  let named := allBars.filter fun n => mask.getLsbD n.val
  let s1 := (named.filter fun (n : Fin 32) => s.up (barDomain n.val)).foldl f s
  if named.all fun (n : Fin 32) => s.up (barDomain n.val) then s1 else s1.cmdRefused j 0x10 op .powerDenied

/-- FPE_ARM (R47). -/
def State.cmdFpeArm (s : State) (j : Fin 4) (mask : Word) : State :=
  s.cmdBars j 0x01 mask fun s n => s.startBarCheck n true

/-- RSP_ABANDON (R134). -/
def State.cmdRspAbandon (s : State) (j : Fin 4) (mask : Word) : State :=
  s.cmdBars j 0x02 mask fun s n => s.abandonWrite n

/-- The update word of an NST_PUSH argument: ADDR, PAIR, HONOR_LOCK, VALUE and MASK stand as in Table
3.3a; the bar is no part of it. -/
def updOfArg (arg : Nat) : DWord := BitVec.ofNat 64 (arg % 2 ^ 20 + arg / 2 ^ 32 % 2 ^ 16 * 2 ^ 32)

/-- NST_PUSH: the word takes the slot reserved at issue (R93, R94); refused, it gives the slot back. -/
def State.cmdNstPush (s : State) (j : Fin 4) (n : Fin 32) (w : DWord) : State :=
  if s.up (barDomain n) then s.pushUpd (pairMaster j) n w else s.cmdRefused j 0x11 0x01 .powerDenied

/-- The OP field of CMP_ARM. -/
def cmpArmOp (w : Fin 4) (mode : Nat) (src trig : Bool) (cam : Fin 4) : Nat :=
  w.val + mode % 4 * 4 + b2n src * 16 + b2n trig * 32 + cam.val * 64

/-- CMP_ARM: target and settings of comparator 4j + w, which is armed for MODE 1 and 2 and disarmed for
MODE 0. -/
def State.cmdCmpArm (s : State) (j w : Fin 4) (mode : Nat) (src trig : Bool) (cam : Fin 4) (target : BitVec 48) :
    State :=
  let op := cmpArmOp w mode src trig cam
  if mode = 3 then s.cmdRefused j 0x20 op .badDescriptor
  else if !s.up .pos then s.cmdRefused j 0x20 op .powerDenied
  else
    let c : Fin 16 := Fin.ofNat 16 (4 * j.val + w.val)
    State.watchArm c (fun s =>
      let s := s.put48 (F.POS_CMPc_TGT_LO_V c) (F.POS_CMPc_TGT_HI_V c) target.toNat
      let s := (s.put (F.POS_CMPc_CTL_MODE c) mode).putb (F.POS_CMPc_CTL_SRC c) src
      let s := (s.putb (F.POS_CMPc_CTL_TRIG_EN c) trig).put (F.POS_CMPc_CTL_CAM c) cam.val
      s.putb (F.POS_CMPc_CTL_ARM c) (mode != 0)) s

/-- INS_AREQ (R218). -/
def State.cmdInsAreq (s : State) (j : Fin 4) (w0 : Word) (ovl : BitVec 7) : State :=
  if s.up .cam then s.pushAreq w0 (ovl.setWidth 32) else s.cmdRefused j 0x30 0x01 .powerDenied

/-- GRID_GARM (R74): with FORCE the forced bar and line are loaded; then FORCE and GARM. -/
def State.cmdGridGarm (s : State) (bar : Fin 32) (force : Bool) (line : Word) : State :=
  let s := if force then (s.put F.GRID_FORCE_BAR_V bar.val).put F.GRID_FORCE_LINE_V line.toNat else s
  (s.putb F.GRID_CTL_FORCE force).startGridCheck true

/-- A command word arrives at its unit (R298-R300). A reserved bit that is not 0 refuses it, unless the
issuing pair is not entitled to it, which is the lower code (R31). -/
def State.runCommand (s : State) (j : Fin 4) (w : DWord) : State :=
  let unit := w.toNat / 2 ^ 56
  let op := w.toNat / 2 ^ 48 % 256
  let arg := w.toNat % 2 ^ 48
  let low := fun (n : Nat) => arg % 2 ^ n
  let bad := s.cmdRefused j unit op .badDescriptor
  let denied := s.cmdRefused j unit op .notOwner
  let pair : Fin 4 := Fin.ofNat 4 arg
  let serv := j = 3
  if unit = 0x01 ∧ op = 0x01 then if low 2 = arg then s.cmdEvtRaise arg else bad
  else if unit = 0x02 ∧ op = 0x01 then
    if ¬ serv then denied else if arg = 0 then s.cmdWdKick j else bad
  else if unit = 0x02 ∧ op = 0x02 then
    if ¬ serv ∨ pair = 3 then denied else if low 2 = arg then s.cmdPairHalt j pair else bad
  else if unit = 0x02 ∧ op = 0x03 then
    if ¬ serv ∨ pair = 3 then denied
    else if low 16 = low 2 then s.cmdPairStart j pair (BitVec.ofNat 32 (arg / 2 ^ 16)) else bad
  else if unit = 0x10 ∧ op = 0x01 then
    if low 32 = arg then s.cmdFpeArm j (BitVec.ofNat 32 arg) else bad
  else if unit = 0x10 ∧ op = 0x02 then
    if low 32 = arg then s.cmdRspAbandon j (BitVec.ofNat 32 arg) else bad
  else if unit = 0x11 ∧ op = 0x01 then
    if arg / 2 ^ 25 % 2 ^ 7 = 0 then s.cmdNstPush j (Fin.ofNat 32 (arg / 2 ^ 20)) (updOfArg arg) else bad
  else if unit = 0x20 then
    s.cmdCmpArm j (Fin.ofNat 4 op) (op / 4 % 4) (op.testBit 4) (op.testBit 5) (Fin.ofNat 4 (op / 64)) (BitVec.ofNat 48 arg)
  else if unit = 0x30 ∧ op = 0x01 then
    if low 39 = arg then s.cmdInsAreq j (BitVec.ofNat 32 arg) (BitVec.ofNat 7 (arg / 2 ^ 32)) else bad
  else if unit = 0x40 ∧ op = 0x01 then
    if arg / 2 ^ 6 % 2 ^ 10 = 0 then
      s.cmdGridGarm (Fin.ofNat 32 arg) (arg.testBit 5) (BitVec.ofNat 32 (arg / 2 ^ 16))
    else bad
  else bad

/-! ## Delivery (R272, R303) -/

/-- Whether a push reaches the FIFO for which its slot was reserved: the bar's domain is on, and a
command word has no reserved bit set. -/
def State.pushLands (s : State) (o : Output) : Bool :=
  match pushesBar o with
  | none => true
  | some n =>
    s.up (barDomain n) && (match o with | .command w => w.toNat / 2 ^ 25 % 2 ^ 7 == 0 | _ => true)

/-- An output reaches its target. -/
def State.deliver (s : State) (j : Fin 4) (o : Output) : State :=
  let s := if s.pushLands o then s else s.releaseSlot j o
  match o with
  | .store a bs =>
    if a < 0x01000000 then s.regsWrite (pairMaster j) a bs
    else s.memWrite (pairMaster j) (a - 0x40000000) (bs.map some)
  | .command w => s.runCommand j w

/-- A committed store meets BUS_ERROR: nothing is written, OUT_ERR is set (SEQ_Pj_OUTERR). -/
def State.outError (s : State) (j : Fin 4) (o : Output) : State :=
  match o with
  | .store a _ =>
    ((s.releaseSlot j o).put (F.SEQ_Pj_OUTERR_V j) a).setCause (F.SEQ_Pj_CAUSE_OUT_ERR j)
  | .command _ => s.deliver j o

/-- The first output of the buffer that may leave it does. -/
def State.deliverOne (s : State) (j : Fin 4) (bad : Bool) : State :=
  match (s.pair j).ready with
  | [] => s
  | o :: r =>
    let s := s.modPair j fun p => { p with ready := r }
    if bad then s.outError j o else s.deliver j o

/-- Deliver `n` outputs in order, those numbered in `bad` with a bus error; a reset that an output starts
empties the buffer. -/
def State.deliverN (s : State) (j : Fin 4) (bad : Nat → Bool) (n : Nat) : State :=
  (List.range n).foldl (fun (s : State) i => s.deliverOne j (bad i)) s

end Sys2Proof.Machine
end

