-- ==== Sys2Proof/Machine/KStep.lean ====
section
/-!
DEFINITION. What an instruction does: the pair, its memories, its outputs, its waits and its traps; a
single step; the closing of checkpoints (09 R257-R281; 10 R289-R304, R310).
-/

namespace Sys2Proof.Machine

/-- The instruction memory word at a pair's PC; in the boot ROM, whose bytes are free values, that of the
ROM (R313; log 50). -/
def State.fetchWord (s : State) (j : Fin 4) : Word :=
  let pc := (s.pair j).pc
  if s.inRom j then BitVec.ofNat 32 (leNat ((List.range 4).map fun i => Config.bootRomByte (pc - 0x1C000 + i)))
  else BitVec.ofNat 32 (s.numAt (imemBase j + pc) 4)

/-! ## Ends of an instruction -/

/-- The instruction has executed: the next one is at `pc`, the recorded input is spent; a single step
halts the pair (R310). -/
def State.retire (s : State) (j : Fin 4) (pc : Nat) : State :=
  let s := s.modPair j fun p =>
    { p with pc := pc % 2 ^ 32, replay := none, noBrk := false, cur := { p.cur with pre := false } }
  if (s.pair j).stepReq && (s.pair j).mode == .running then s.stopHere j 6 else s

/-- The instruction changed the pair alone, and the next one follows. -/
def State.retireWith (s : State) (j : Fin 4) (f : Pair → Pair) : State :=
  (s.modPair j f).retire j ((s.pair j).pc + 4)

/-- The instruction traps; a single step ends with it. -/
def State.trapped (s : State) (j : Fin 4) (t : Trap) (addr : Nat) : State :=
  let s := (s.modPair j fun p => { p with replay := none, noBrk := false, cur := { p.cur with pre := false } }).trap j t addr
  if (s.pair j).stepReq && (s.pair j).mode == .running then s.stopHere j 6 else s

/-! ## Closing before an instruction (R302) -/

/-- The checkpoint closes before an instruction that begins an interval, unless it has been closed for it: the
instruction waits at its place for the comparison and for the outputs, and is given again (R302; log 47). -/
def State.closeFor (s : State) (j : Fin 4) : State := s.modPair j fun p => p.closeFor s.now

/-- An instruction that needs every earlier interval passed and every earlier output at its target: it acts, or the
checkpoint before it closes and it waits (R274, R275, R301-R304). -/
def State.whenSettled (s : State) (j : Fin 4) (f : State → State) : State :=
  if (s.pair j).settled then f s else s.closeFor j

/-! ## Outputs (R272, R302) -/

/-- An output enters the commit buffer. None while it waits for a FIFO slot (R93). -/
def State.output (s : State) (j : Fin 4) (o : Output) : Option State :=
  (s.reserveSlot j o).map fun s => s.modPair j fun p => p.issue o s.now

/-- Outputs of one instruction, in order, for which the buffer has room; an instruction that waits for a slot stays
where it is. -/
def State.issueAll (s : State) (j : Fin 4) : List Output → State
  | [] => s.retireWith j id
  | o :: r =>
    match s.output j o with
    | none => s
    | some s => s.issueAll j r

/-- Outputs of one instruction: where they do not all fit into the buffer the checkpoint closes, and the instruction
waits until entries have left it (R272, R302; log 47). -/
def State.outputs (s : State) (j : Fin 4) (os : List Output) : State :=
  if 32 < (s.pair j).buffered + os.length then s.closeFor j else s.issueAll j os

/-- The committed stores of an access: two entries when it crosses a word in Quadrille (R271). -/
def storeOutputs (r : CoreRegion) (a : Nat) (bs : List Byte) : List Output :=
  let k := 8 - a % 8
  if r = .quad ∧ k < bs.length then [.store a (bs.take k), .store (a + k) (bs.drop k)] else [.store a bs]

/-! ## Loads, stores, atomics (R268-R275) -/

/-- A unit load or an atomic as `f` performs it: the recorded value when an interval is re-executed, else
once every earlier interval has passed and every earlier output has reached its target (R274, R275, R304). An access that its target answers with
an error has no effect there (R280). -/
def State.unitAccess (s : State) (j : Fin 4) (f : State → State × List Byte × Bool)
    (g : Pair → List Byte → Pair) (addr : Nat) (ans : TargetAnswer) : State :=
  match (s.pair j).replay with
  | some (.value bs) => s.retireWith j fun p => g p bs
  | _ => s.whenSettled j fun s =>
      let r := f s
      if r.2.2 then r.1.trapped j .ecc addr
      else if ans = .error then s.trapped j .bus addr
      else r.1.retireWith j fun p => g { p with cur := { p.cur with input := some (.value r.2.1) } } r.2.1

/-- A read of `n` bytes of Quadrille, in two halves when it crosses a word: another master may write between
them (R271). -/
def State.quadRead (s : State) (m : Master) (off n : Nat) (ans : TargetAnswer) : State × List Byte × Bool :=
  let k := 8 - off % 8
  if n ≤ k then s.memRead m off n
  else
    let r := s.memRead m off k
    let t := match ans with
      | .between o bs => r.1.memWrite .host (0x04000000 + o.toNat) ((bs.take (0x400000 - o.toNat)).map some)
      | _ => r.1
    let q := t.memRead m (off + k) (n - k)
    (q.1, r.2.1 ++ q.2.1, r.2.2 || q.2.2)

/-- A load from the memory space over the fabric ends: its bytes, an uncorrectable word, or the error of its
target (R280). -/
def State.fabricLoad (s : State) (j : Fin 4) (op : Load) (rt : Fin 16) (a : Nat) (r : State × List Byte × Bool)
    (ans : TargetAnswer) : State :=
  if r.2.2 then r.1.trapped j .ecc a
  else if ans = .error then s.trapped j .bus a
  else r.1.retireWith j fun p => p.loaded op rt r.2.1

/-- A load (Table 9.7). -/
def State.load (s : State) (j : Fin 4) (op : Load) (rt rb : Fin 16) (off : BitVec 12) (ans : TargetAnswer) : State :=
  let p := s.pair j
  let a := p.ea rb off
  let n := op.size
  match p.check j rb a n with
  | .error t => s.trapped j t a
  | .ok .regs =>
    s.unitAccess j (fun s => let r := s.regsRead (pairMaster j) a n; (r.1, r.2, false)) (fun p bs => p.loaded op rt bs) a ans
  | .ok .own =>
    let b := dmemBase j + (a - 0x10000000)
    let s := s.readErrs b n
    if (wordsOf b n).any s.ueBad.contains then s.trapped j .ecc a
    else s.retireWith j fun p => p.loaded op rt (s.bytesAt b n)
  | .ok .quad =>
    let r := s.quadRead (pairMaster j) (a - 0x40000000) n ans
    s.fabricLoad j op rt a (r.1, r.2.1.zipIdx.map fun (b, i) => (p.forwarded (a + i)).getD b, r.2.2) ans
  | .ok .fabric => s.fabricLoad j op rt a (s.memRead (pairMaster j) (a - 0x40000000) n) ans

/-- A store (Table 9.7). -/
def State.store (s : State) (j : Fin 4) (op : Store) (rt rb : Fin 16) (off : BitVec 12) : State :=
  let p := s.pair j
  let a := p.ea rb off
  let bs := p.stored op rt
  match p.check j rb a op.size with
  | .error t => s.trapped j t a
  | .ok .own => (s.dmemStore j (a - 0x10000000) bs).retireWith j id
  | .ok r => s.outputs j (storeOutputs r a bs)

/-- An atomic on the Quadrille word at K[rs1]: the old value goes to K[rd], `f` of it to the word (R275). -/
def State.atomic (s : State) (j : Fin 4) (rd rs1 : Fin 16) (f : Word → Word) (ans : TargetAnswer) : State :=
  let a := ((s.pair j).kr rs1).toNat
  if accessRegion j a 4 ≠ some .quad then s.trapped j .dataAddr a
  else if a % 4 ≠ 0 then s.trapped j .misaligned a
  else
    s.unitAccess j (fun s =>
      let r := s.memRead (pairMaster j) (a - 0x40000000) 4
      if r.2.2 then r
      else
        let new := f (BitVec.ofNat 32 (leNat r.2.1))
        (r.1.memWrite (pairMaster j) (a - 0x40000000) ((leBytes 4 new.toNat).map some), r.2.1, false))
      (fun p bs => p.setK rd (BitVec.ofNat 32 (leNat bs))) a ans

/-! ## Waits (R294-R297) -/

/-- A wait begins: the checkpoint closes; a recorded code is taken at once (R304). A timeout of 0 tests the
condition once, and a single step takes the timeout as 0 (R294, R310): the code so found completes the wait once
every earlier interval has passed. -/
def State.wait (s : State) (j : Fin 4) (rd rs2 : Fin 16) (cond : WaitFor) : State :=
  let p := s.pair j
  match p.replay with
  | some (.code c) => s.retireWith j fun p => p.setK rd c
  | _ =>
    let t := (p.kr rs2).toNat
    let w : Wait := { cond := cond, rd := rd, deadline := if t = 2 ^ 32 - 1 then none else some (s.now + ns t) }
    let s := (s.closeFor j).modPair j fun p =>
      { p with mode := .waiting w, replay := none, noBrk := false, cur := { p.cur with pre := false } }
    if p.stepReq || decide (t = 0) then s.finishWait j w ((s.waitCode (s.pair j) cond).getD waitTimeout) else s

/-! ## Every instruction -/

/-- What an instruction that is legal and fetched without an error does. -/
def State.perform (s : State) (j : Fin 4) (i : KInstr) (ans : TargetAnswer) : State :=
  let p := s.pair j
  match i with
  | .alu op rd rs1 rs2 => s.retireWith j fun p => p.result rd (aluResult op (p.kr rs1) (p.kr rs2))
  | .aluI op rd rs1 imm => s.retireWith j fun p => p.result rd (aluResult op (p.kr rs1) (immOf op imm))
  | .mul op rd rs1 rs2 => s.retireWith j fun p => p.multiply op rd rs1 rs2
  | .load op rt rb off => s.load j op rt rb off ans
  | .store op rt rb off => s.store j op rt rb off
  | .swap rd rs1 rs2 => s.atomic j rd rs1 (fun _ => p.kr rs2) ans
  | .fadd rd rs1 rs2 => s.atomic j rd rs1 (fun old => old + p.kr rs2) ans
  | .branch c rs1 rs2 off =>
    if c.holds (p.kr rs1) (p.kr rs2) then s.retire j (BitVec.ofNat 32 p.pc + (off.signExtend 32 <<< 2)).toNat
    else s.retire j (p.pc + 4)
  | .jal rd imm =>
    let t := (BitVec.ofNat 32 p.pc + (imm.signExtend 32 <<< 2)).toNat
    (s.modPair j fun q => q.setK rd (BitVec.ofNat 32 (p.pc + 4))).retire j t
  | .jalr rd rs1 imm =>
    let t := ((p.kr rs1 + imm.signExtend 32) &&& 0xFFFFFFFC#32).toNat
    (s.modPair j fun q => q.setK rd (BitVec.ofNat 32 (p.pc + 4))).retire j t
  | .lui rd imm => s.retireWith j fun p => p.setK rd (imm.setWidth 32 <<< 12)
  | .cmd rs1 rs2 => s.outputs j [.command (p.kr rs2 ++ p.kr rs1)]
  | .waite rd rs1 rs2 => s.wait j rd rs2 (.slots (p.kr rs1))
  | .waitp rd rs2 w => s.wait j rd rs2 (.comparator (Fin.ofNat 16 (4 * j.val + w.val)))
  | .fence rd rs2 bar => s.wait j rd rs2 (.line bar s.tick)
  | .crr rd num => s.retireWith j fun p => let r := p.crr j s.now num.toNat; r.1.setK rd r.2
  | .crw rs1 num => s.retireWith j fun p => p.crw num.toNat (p.kr rs1)
  | .eret =>
    if p.level = 8 then s.trapped j .illegal 0
    else (s.modPair j Pair.eret).retire j p.eret.pc
  | .sync =>
    s.whenSettled j fun s => s.retireWith j id
  | .pass => s.retireWith j id

/-- An instruction executes, its word fetched: a breakpoint halts the pair before it; a fetch outside the
instruction space, an uncorrectable word and a broken register rule trap (R257, R262, R280, R310). -/
def State.executeK (s : State) (j : Fin 4) (i : Option KInstr) (ans : TargetAnswer) : State :=
  if s.atBreak j then s.stopHere j 7
  else
    let s := s.modPair j fun p => if p.closeDue s.now then p.close s.now else p
    let pc := (s.pair j).pc
    if 0x20000 ≤ pc then s.trapped j .fetch 0
    else
      let a := imemBase j + pc
      let s := s.readErrs a 4
      if s.badAt a then s.trapped j .ecc 0
      else match i with
        | some i => if i.legal then s.perform j i ans else s.trapped j .illegal 0
        | none => s.trapped j .illegal 0

/-- An instruction of a pair that executes; none changes a pair that does not, or that runs the boot
ROM, whose actions are rows of their own (R313, R318). -/
def State.runK (s : State) (j : Fin 4) (i : Option KInstr) (ans : TargetAnswer := .data) : State :=
  if s.runs j && !s.inRom j then s.executeK j i ans else s

/-! ## A single step (R310) -/

/-- The instruction at the PC of a halted pair whose STEP was requested executes, with delivery
suppressed. -/
def State.stepPair (s : State) (j : Fin 4) : State :=
  if (s.pair j).stepReq && s.halted j && !s.seqRun && s.up .core then
    let s := s.modPair j fun p => { p.openInterval s.now with mode := .running, noBrk := true }
    let s := s.put (F.SEQ_Pj_STATUS_HALT_CAUSE j) 0
    s.executeK j (decodeK (s.fetchWord j)) .data
  else s

/-- Every requested step is taken; a row after which a write of STEP may have come ends with it. -/
def State.runSteps (s : State) : State := (List.finRange 4).foldl State.stepPair s

/-- SEQ_STEP (R310). -/
def execSeqStep (j : Fin 4) (s : State) : Out :=
  .next (s.atBlock (A.SEQ_Pj_CTL j) fun s => s.stepRequest j).runSteps

/-! ## Checkpoints that close (R302) -/

/-- Whether an instruction closes a checkpoint before it executes. -/
def KInstr.closes (p : Pair) (j : Nat) : KInstr → Bool
  | .load _ _ rb off => coreRegion j (p.ea rb off) == some .regs
  | .store op rt rb off =>
    match coreRegion j (p.ea rb off) with
    | some .own => false
    | some r => decide (32 < p.buffered + (storeOutputs r (p.ea rb off) (p.stored op rt)).length)
    | none => false
  | .swap _ _ _ => true
  | .fadd _ _ _ => true
  | .cmd _ _ => decide (32 ≤ p.buffered)
  | .waite _ _ _ => true
  | .waitp _ _ _ => true
  | .fence _ _ _ => true
  | .sync => true
  | _ => false

/-- Whether the instruction at the PC closes a checkpoint that has not been closed for it. -/
def State.closesNext (s : State) (j : Fin 4) : Bool :=
  let p := s.pair j
  !p.cur.pre && p.replay.isNone && decide (p.pc < 0x20000) && p.mode == .running
    && match decodeK (s.fetchWord j) with
      | some i => i.legal && i.closes p j.val
      | none => false

/-- CHECKPOINT_CLOSE (R302): one of the moments at which an interval closes has come. -/
def execCheckpointClose (j : Fin 4) (s : State) : Out :=
  let live := s.runs j || (s.waitOf j).isSome
  let next := s.runs j && !s.inRom j && s.closesNext j
  .next (if live && ((s.pair j).closeDue s.now || next) then
      s.modPair j fun p =>
        let q := p.close s.now
        { q with cur := { q.cur with pre := next } }
    else s)

/-! ## Output delivery (R303) -/

/-- OUTPUT_DELIVERY (R271, R303): the oldest `n` outputs of passed intervals reach their targets, at most one of
them with BUS_ERROR; another master may act before the next. -/
def execOutputDelivery (j : Fin 4) (bad : Option (Fin 32)) (s : State) (n : Fin 33 := 1) : Out :=
  .next (if s.seqRun || !s.up .core then s
    else (s.deliverN j (fun i => bad.map Fin.val == some i) n).runSteps)

end Sys2Proof.Machine
end

