-- ==== Sys2Proof/Machine/Dma.lean ====
section
/-!
DEFINITION. The transfers of the DMA engine: which channel is served, the request it issues, what a
completion lands, and descriptor fetches that return (11 R324, R330-R336, R339).
-/

namespace Sys2Proof.Machine

/-! ## Bytes that wait for an ordered destination (R333) -/

/-- The bytes read that follow the landed ones without a gap. `fuel` is the number of pieces. -/
def availFrom (ps : List DmaPiece) : Nat → Nat → List Byte
  | 0, _ => []
  | fuel + 1, pos =>
    match ps.find? fun q => q.bytes.isSome && q.off == pos && decide (0 < q.len) with
    | some q => (q.bytes.getD []) ++ availFrom ps fuel (pos + q.len)
    | none => []

/-- See `availFrom`. -/
def DmaChan.avail (x : DmaChan) : List Byte := availFrom x.pieces x.pieces.length x.landed

/-- Drop the bytes of pieces that lie below a position. -/
def trimPieces (pos : Nat) (ps : List DmaPiece) : List DmaPiece :=
  ps.filterMap fun q =>
    match q.bytes with
    | none => some q
    | some bs =>
      if q.off + q.len ≤ pos then none
      else if q.off < pos then some ⟨pos, q.off + q.len - pos, q.tries, some (bs.drop (pos - q.off))⟩
      else some q

/-- The oldest piece that has to be read again. -/
def DmaChan.redo (x : DmaChan) : Option DmaPiece := x.pieces.find? fun q => q.bytes.isNone

/-! ## What a channel does in its turn (R335) -/

/-- A turn of a channel: a write-back, a descriptor fetch, a write of `n` bytes to an ordered destination, a read of `n`
bytes at an offset of the descriptor over the link or of a memory word, a register read, bytes taken
from a camera store. -/
inductive DmaTurn where
  | writeBack (d : Desc) (st : Nat) (eof : Bool)
  | fetch
  | write (n : Nat)
  | hostRead (off n tries : Nat)
  | memRead (off n tries : Nat)
  | regRead (n : Nat)
  | store (n : Nat)
  deriving DecidableEq, Repr

/-- Whether a channel has tokens for n data bytes on the link (R336). -/
def State.tokensFor (s : State) (c : Fin 48) (n : Nat) : Bool :=
  decide (s.g (F.DMA_Cc_RATE_SHARE c) = 0) || decide (n * 25600 ≤ (s.dch c).tokens)

/-- The tokens of n data bytes leave the bucket. -/
def State.spend (s : State) (c : Fin 48) (n : Nat) : State :=
  if s.g (F.DMA_Cc_RATE_SHARE c) = 0 then s
  else s.modDch c fun x => { x with tokens := x.tokens - n * 25600 }

/-- The host reads that a channel holds: those of data, and its descriptor fetch (R324, R331). -/
def DmaChan.hostReads (x : DmaChan) : Nat :=
  ((x.reads ++ x.fetches).filter fun r => decide (r.tag < 1024)).length

/-- Whether a channel may hold one more host read (R331). -/
def State.readRoom (s : State) (c : Fin 48) : Bool :=
  s.linkOpen && s.tagFree
    && decide ((s.dch c).hostReads < s.g (F.DMA_Cc_CFG_MAXRD c))

/-- The size of a register access at an offset of a transfer (R332). -/
def regSize (a off len : Nat) (fix : Bool) : Nat :=
  if fix then fixSize a len else if (a + off) % 8 = 0 ∧ 8 ≤ len - off then 8 else 4

/-- The address of a register access at an offset of a transfer (R332). -/
def regAddr (a off : Nat) (fix : Bool) : Nat := if fix then a else a + off

/-- The bytes of the next host read at an address: within Max_Read_Request_Size and a 4 KiB block, rounded
outward to 4 bytes (R330). -/
def hostChunk (size a n : Nat) : Nat := min n (min (a / 4 * 4 + size) ((a / 4096 + 1) * 4096) - a)

/-- Whether the destination of a raster channel is free for n bytes at an offset of its descriptor (R106,
R333). -/
def State.rasterRoom (s : State) (c : Fin 48) (off n : Nat) : Bool :=
  let b := chanBar c
  let r := s.rsp b
  let p := (r.inPos + off).toNat
  if s.bit (F.RSP_CTL_FMT b) then decide (p + n ≤ r.stageOut + stageBytes)
  else (List.range ((p + n - 1) / lineBytes - p / lineBytes + 1)).all fun i =>
    let j := p / lineBytes + i
    r.discarded j || r.slotOpen j

/-- Whether the destination takes n bytes at an offset. -/
def State.destRoom (s : State) (c : Fin 48) (d : Desc) (off n : Nat) : Bool :=
  match d.dest (dmaClass c) with
  | .stream => s.rasterRoom c off n
  | _ => true

/-- The next write to an ordered destination. -/
def State.writeTurn (s : State) (c : Fin 48) (d : Desc) : Option DmaTurn :=
  let x := s.dch c
  match d.dest (dmaClass c) with
  | .host a =>
    let p := a + x.landed
    let n := min x.avail.length (min s.mps (4096 - p % 4096))
    if 0 < n ∧ s.linkOpen ∧ s.tokensFor c n then some (.write n) else none
  | .regs a fix =>
    let n := regSize a x.landed d.len fix
    if n ≤ x.avail.length ∧ !s.pushWaits c then some (.write n) else none
  | _ => none

/-- The next read of data: a piece to be read again first. -/
def State.readTurn (s : State) (c : Fin 48) (d : Desc) : Option DmaTurn :=
  let x := s.dch c
  let q := x.redo
  let off := match q with | some q => q.off | none => x.issued
  let left := match q with | some q => q.len | none => d.len - x.issued
  let tries := match q with | some q => q.tries | none => 0
  if left = 0 then none
  else match d.source (dmaClass c) with
    | .host a =>
      let n := hostChunk s.mrrs (a + off) left
      if s.readRoom c ∧ s.tokensFor c n ∧ s.destRoom c d off n then some (.hostRead off n tries) else none
    | .mem a =>
      let n := min left (8 - (a + off) % 8)
      if s.destRoom c d off n then some (.memRead off n tries) else none
    | .regs a fix =>
      let n := regSize a off d.len fix
      if x.avail.isEmpty ∧ s.destRoom c d off n then some (.regRead n) else none
    | .store =>
      match (s.cam (chanPort c)).delivering with
      | some f =>
        let n := min left (f.bytes - f.sent)
        let most := match d.dest .camera with
          | .host a => min s.mps (4096 - (a + off) % 4096)
          | .mem a => 8 - (a + off) % 8
          | .regs a fix => regSize a off d.len fix
          | _ => 0
        let closed := (s.cam (chanPort c)).store.any fun g => g.k == f.k && !g.eof
        if x.avail.isEmpty ∧ 0 < n ∧ (most ≤ n ∨ closed ∨ n = left) then some (.store (min n most)) else none
      | none => none
    | .stream => none

/-- What a channel would do in its turn; none when it has no request ready. A write-back goes before a fetch
(log 56). -/
def State.turn (s : State) (c : Fin 48) : Option DmaTurn :=
  match s.ready c with
  | some (d, st, eof) => some (.writeBack d st eof)
  | none =>
  if s.wantsFetch c && (s.ringInt c || s.readRoom c) then some .fetch
  else if s.chanState c = 1 ∧ (s.dch c).ending.isNone then
    match s.inProgress c with
    | some d => (s.writeTurn c d).orElse fun _ => s.readTurn c d
    | none => none
  else none

/-! ## Landing (R328, R333) -/

/-- `bs` at an offset of the descriptor in progress arrive at its destination, or wait for the bytes before
them where the destination is written in order. -/
def State.land (s : State) (c : Fin 48) (d : Desc) (off : Nat) (bs : List Byte) : State :=
  match d.dest (dmaClass c) with
  | .mem a => (s.memWrite (.dma c) (a + off) (bs.map some)).landedBytes c bs.length
  | .stream =>
    let b := chanBar c
    (State.watchLines b (fun s => s.landRaster b ((s.rsp b).inPos + off).toNat bs) s).landedBytes c bs.length
  | _ =>
    if s.chanState c = 1 then
      s.modDch c fun x => { x with pieces := x.pieces ++ [⟨off, bs.length, 0, some bs⟩] }
    else s

/-- A write of the next n bytes to an ordered destination. Bytes of a frame that are too few for a register
access are not written. -/
def State.landOrdered (s : State) (c : Fin 48) (d : Desc) (n : Nat) : State :=
  let x := s.dch c
  let bs := x.avail.take n
  let s := match d.dest (dmaClass c) with
    | .host a => (s.sendLink (.memWrite c (a + x.landed) bs)).spend c n
    | .regs a fix => s.regsWrite (.dma c) (regAddr a x.landed fix) bs
    | _ => s
  (s.modDch c fun y => { y with pieces := trimPieces (x.landed + n) y.pieces }).landedBytes c n

/-- The data of a read are taken from the list of those to come: a piece read again leaves the list, new
bytes count as issued. -/
def DmaChan.take (x : DmaChan) (off n : Nat) : DmaChan :=
  match x.redo with
  | some q =>
    let rest := if n < q.len then [{ q with off := q.off + n, len := q.len - n }] else []
    { x with pieces := rest ++ x.pieces.erase q }
  | none => { x with issued := off + n }

/-- The words of a port's store that a channel reads for the next n bytes of a frame. -/
def storeCells (c : Fin 48) (f : CamFrame) (n : Nat) : List Nat :=
  (((f.imageCells (chanPort c)).drop f.sent).take n).eraseDups

/-- Whether one of them is uncorrectable, which is a bus error of the read (R339, R347). -/
def State.storeBad (s : State) (c : Fin 48) (f : CamFrame) (n : Nat) : Bool := s.anyBad (storeCells c f n)

/-- They are read, which meets their errors. -/
def State.storeRead (s : State) (c : Fin 48) (f : CamFrame) (n : Nat) : State := s.readCells (storeCells c f n)

/-- A read of a camera store has failed; the failing address is a free value (R339; Config.storeAddress). -/
def State.storeFails (s : State) (c : Fin 48) (r : DmaRead) : State :=
  let (k, s) := s.draw
  s.readFails c { r with addr := (Config.storeAddress k).toNat }

/-- The turn of a channel (R324, R330-R336). -/
def State.serve (s : State) (c : Fin 48) (d : Desc) (t : DmaTurn) : State :=
  match t with
  | .writeBack d st eof => s.writeBack c d st eof
  | .fetch => s.fetchBegin c
  | .write n => s.landOrdered c d n
  | .hostRead off n tries =>
    match d.source (dmaClass c) with
    | .host a =>
      let tag := s.freeTag 0
      let lo := (a + off) / 4 * 4
      let s := s.modDch c fun x =>
        let x := x.take off n
        { x with reads := x.reads ++ [⟨tag, a + off, n, off, tries, s.now, false⟩] }
      (s.spend c n).sendLink (.memRead c tag lo ((a + off + n + 3) / 4 * 4 - lo))
    | _ => s
  | .memRead off n tries =>
    match d.source (dmaClass c) with
    | .mem a =>
      let tag := s.freeTag 1024
      s.modDch c fun x =>
        let x := x.take off n
        { x with reads := x.reads ++ [⟨tag, a + off, n, off, tries, s.now, false⟩] }
    | _ => s
  | .regRead n =>
    match d.source (dmaClass c) with
    | .regs a fix =>
      let off := (s.dch c).issued
      let r := s.regsRead (.dma c) (regAddr a off fix) n
      (r.1.modDch c fun x => { x with issued := off + n }).land c d off r.2
    | _ => s
  | .store n =>
    let off := (s.dch c).issued
    match (s.cam (chanPort c)).delivering with
    | some f =>
      let bs := (f.image.drop f.sent).take n
      let tries := ((s.dch c).redo.map (·.tries)).getD 0
      let s := s.modDch c fun x => { x with pieces := x.pieces.filter fun q => q.bytes.isSome }
      if s.storeBad c f n then (s.storeRead c f n).storeFails c ⟨0, 0, n, off, tries, s.now, false⟩
      else
      let s := s.storeRead c f n
      let s := s.modCam (chanPort c) fun p => p.modDelivering fun g => { g with sent := g.sent + n }
      let s := (s.modDch c fun x => { x with issued := off + n }).land c d off bs
      let short := match d.dest .camera with
        | .regs a fix => decide (n < regSize a off d.len fix)
        | _ => false
      let s := if short then s.landOrdered c d n else s
      s.freeStore (chanPort c)
    | none => s

/-- The first channel in turn order from a place that has a request ready, among those of a priority. -/
def State.nextChan (s : State) (prio : Nat) (start : Nat) : Option (Fin 48) :=
  let order := (List.range 48).map fun i => (Fin.ofNat 48 (start + i) : Fin 48)
  order.find? fun c => s.g (F.DMA_Cc_CFG_PRIO c) == prio && (s.turn c).isSome

/-- The channel that is served next: PRIO 1 round-robin first, then PRIO 0 (R335). -/
def State.served (s : State) : Option (Fin 48) :=
  (s.nextChan 1 s.dmaTurn.1).orElse fun _ => s.nextChan 0 s.dmaTurn.2

/-- A channel that has been served goes to the end of its priority's round (R335). -/
def State.turnPast (s : State) (c : Fin 48) : State :=
  { s with dmaTurn :=
      if s.g (F.DMA_Cc_CFG_PRIO c) = 1 then (c.val + 1, s.dmaTurn.2) else (s.dmaTurn.1, c.val + 1) }

/-- One channel is served (R335). -/
def State.dmaServe (s : State) : State :=
  match s.served with
  | some c =>
    match s.turn c with
    | some t => (s.turnPast c).serve c ((s.inProgress c).getD ⟨[]⟩) t
    | none => s
  | none => s

/-- DMA_REQUEST_ISSUE (R335): the engine serves one ready channel. -/
def execDmaRequestIssue (s : State) : Out :=
  .next (if s.seqRun || !s.up .core || s.power.stopped then s else s.dmaServe.runSteps)

/-- DESCRIPTOR_WRITEBACK (R327-R329, R335, R338, R339): the channel writes back when its turn comes. -/
def execDescriptorWriteback (c : Fin 48) (s : State) : Out :=
  if s.seqRun || !s.up .core || s.power.stopped then .next s
  else match s.served == some c, s.ready c with
    | true, some (d, st, eof) => .next ((s.turnPast c).writeBack c d st eof)
    | _, _ => .next s

/-! ## Completions (R339, Table 12.3) -/

/-- Exactly `n` bytes of the data of a read, from a place. -/
def exactly (n lo : Nat) (bs : List Byte) : List Byte := (List.range n).map fun i => bs.getD (lo + i) 0

/-- A read of a channel brings data, which land if the descriptor is still in progress. -/
def State.readLands (s : State) (c : Fin 48) (r : DmaRead) (bs : List Byte) : State :=
  match s.inProgress c with
  | some d => if r.len = 0 then s else s.land c d r.off bs
  | none => s

/-- A read answered with an error is logged (Table 12.3, code 0x07). Poisoned data are reported; an Unsupported Request
or Completer Abort, which its completer reports, sets the Status register's bit for it (R364). -/
def State.logReadError (s : State) (addr : Nat) (x : Completion) : State :=
  let s := s.vlog 0 7 (addr % 2 ^ 32)
  match x with
  | .data _ => s
  | .unsupported => s.orStatus 0x2000
  | .aborted => s.orStatus 0x1000
  | .poisoned =>
    (s.orStatus (if (s.hl.word 1).getLsbD 6 then 0x8100 else 0x8000)).reportError .poisoned false

/-- READ_COMPLETION (R331, R332, R339): the read of a tag completes. A read of the memory space returns its
own word; a host read what the completion carries. -/
def execReadCompletion (tag : Nat) (x : Completion) (s : State) : Out :=
  if s.seqRun || !s.up .core then .next s
  else match s.tagOwner tag with
    | some (c, r, false) =>
      let s := s.dropRead c tag
      if 1024 ≤ tag then
        if r.len = 0 then .next s
        else
          let m := s.memRead (.dma c) (r.addr / 8 * 8) 8
          .next (if m.2.2 then m.1.readFails c r else m.1.readLands c r (exactly r.len (r.addr % 8) m.2.1))
      else match x with
        | .data bs => .next (s.readLands c r (exactly r.len (r.addr % 4) bs))
        | x => .next ((s.logReadError r.addr x).readFails c r)
    | some (_, _, true) => .next s
    | none => .next (if tag < 1024 then (s.vlog 0 5 0).reportError .unexpected true else s)

/-- DESCRIPTOR_FETCH (R324-R326, R340): the oldest outstanding descriptor fetch of a channel returns. -/
def execDescriptorFetch (c : Fin 48) (x : Completion) (s : State) : Out :=
  if s.seqRun || !s.up .core then .next s
  else match (s.dch c).fetches.head? with
    | none => .next s
    | some r =>
      if 1024 ≤ r.tag then
        let m := s.memRead (.dma c) r.addr 32
        .next (m.1.fetchReturn c r (if m.2.2 then none else some m.2.1))
      else match x with
        | .data bs => .next (s.fetchReturn c r (some bs))
        | x => .next ((s.logReadError r.addr x).fetchReturn c r none)

end Sys2Proof.Machine
end

