-- ==== Sys2Proof/Machine/HostLink.lean ====
section
/-!
DEFINITION. The PCI Express endpoint apart from its memory windows: configuration space, link state,
violations, precision time measurement, MSI-X (12 R357-R368, R395).
-/

namespace Sys2Proof.Machine

/-! ## Sending messages (R367) -/

/-- A message whose PBA bit is set is sent once its vector is deliverable. -/
def State.sendHeld (s : State) (v : Nat) : State :=
  if s.bit (pbaField v) && s.vectorOpen v then (s.put (pbaField v) 0).sendMsix v else s

/-- MSIX_SEND (R367). -/
def execMsixSend (v : Fin 64) (s : State) : Out := .next (s.sendHeld v.val)

/-- Every message that may be sent is. -/
def State.sendAllHeld (s : State) : State := (List.range 64).foldl State.sendHeld s

/-- EVT_PEND_CLEAR (R368). -/
def execEvtPendClear (w : Fin 8) (mask : Word) (s : State) : Out :=
  .next (s.atBlock (A.EVT_PENDw w) fun s => s.setReg (A.EVT_PENDw w) (s.reg (A.EVT_PENDw w) &&& ~~~mask))

/-! ## Link state (R337, R363) -/

/-- DMA_RL_BASE is loaded while the DMA engine is on and no reset sequence runs. -/
def State.reloadBase (s : State) : State := if s.seqRun || !s.up .core then s else s.loadRlBase

/-- Speed and width of the trained link. -/
def State.setLink (s : State) (speed width : Nat) : State :=
  (s.put F.SYS_HL_STATUS_SPEED speed).put F.SYS_HL_STATUS_WIDTH width

/-- Whether the link can train: PD_HOST is on and out of reset, its PLL locked. -/
def State.linkCanTrain (s : State) : Bool := !s.power.off && s.up .host && !s.hl.held && !s.clk.hostLost

/-- The generations and numbers of lanes to which the link trains (Table 12.1). -/
def linkOffers (speed width : Nat) : Bool := decide (1 ≤ speed) && [1, 2, 4, 8, 16].contains width

/-- LINK_UP (R337, R357, R363, R414): the link trains to a generation and a number of lanes. -/
def execLinkUp (speed : Fin 6) (width : Fin 17) (s : State) : Out :=
  if !linkOffers speed.val width.val || !s.linkCanTrain || s.bit F.SYS_HL_STATUS_LINK_UP then .next s
  else
    let s := ((s.put F.SYS_HL_STATUS_LINK_UP 1).setLink speed.val width.val).bump F.SYS_HL_RETRAINS_V
    let s := { s with hl := { s.hl with wakeLow := false } }
    .next ((s.linkCause F.SYS_HL_CAUSE_LINK_UP).reloadBase.sendAllHeld)

/-- LINK_DOWN (R363). -/
def execLinkDown (s : State) : Out := .next s.linkDown

/-- RETRAIN (R337, R357, R363): every retrain sets its cause; one that changes the speed or the width reloads
DMA_RL_BASE. -/
def execRetrain (speed : Fin 6) (width : Fin 17) (s : State) : Out :=
  if !linkOffers speed.val width.val || !s.bit F.SYS_HL_STATUS_LINK_UP then .next s
  else
    let changed := s.g F.SYS_HL_STATUS_SPEED != speed.val || s.g F.SYS_HL_STATUS_WIDTH != width.val
    let s := ((s.bump F.SYS_HL_RETRAINS_V).setLink speed.val width.val).linkCause F.SYS_HL_CAUSE_RETRAIN
    .next (if changed then s.reloadBase else s)

/-- Bus Master Enable and the D-state take values; held messages go out once they may (R362). -/
def State.functionState (s : State) (d3hot bme : Bool) : State :=
  let moved := s.bit F.SYS_HL_STATUS_D3HOT != d3hot
  let s := (s.putb F.SYS_HL_STATUS_D3HOT d3hot).putb F.SYS_HL_STATUS_BME bme
  (if moved then s.linkCause F.SYS_HL_CAUSE_DSTATE else s).sendAllHeld

/-- A change to the D-state that leaves a D3hot which the host link holds has no effect (14 R405). -/
def State.unlessD3 (s : State) (d3hot : Bool) (f : State → State) : State := s.unlessHeld (s.holdsD3 && !d3hot) f

/-- DSTATE_CHANGE (R362; 14 R405). -/
def execDstateChange (d3hot bme : Bool) (s : State) : Out :=
  .next (if s.power.off || !s.up .host then s
    else s.unlessD3 d3hot fun s => s.functionState d3hot bme)

/-! ## Configuration space (R357-R362, R395) -/

/-- A field of the shadow, or its default where the shadow holds 0 (R358). -/
def orDefault (n d : Nat) : Nat := if n = 0 then d else n

/-- Word `i` of the DEVICE_ID region. -/
def State.deviceWord (s : State) (i : Nat) : Word := s.otp.deviceId.getD i 0

/-- The size mask and type bits of a base address register (Table 12.2): 16 MiB, 1 GiB and 64 KiB, each a
64-bit memory BAR, the second prefetchable. -/
def barShape (k : Fin 6) : Nat × Nat :=
  match k with
  | 0 => (0xFF000000, 0x4) | 2 => (0xC0000000, 0xC) | 4 => (0xFFFF0000, 0x4) | _ => (0xFFFFFFFF, 0)

/-- A capability register as read: the trained link and the requests outstanding are live, figures of the device read
a free value. -/
def State.capRead (s : State) (c : CapReg) : State × Word :=
  let w := s.hl.cap c
  match c with
  | .linkStatus =>
    (s, w ||| BitVec.ofNat 32 (s.g F.SYS_HL_STATUS_SPEED + s.g F.SYS_HL_STATUS_WIDTH * 2 ^ 4))
  | .devStatus => (s, w ||| (if s.tagsUsed.any (· < 1024) then 0x20 else 0))
  | c =>
    if c.openBits = 0#32 then (s, w)
    else let (k, s) := s.draw; (s, w ||| (Config.configWord k &&& c.openBits))

/-- A configuration register as read; a register the manual gives no value reads a free value. -/
def State.cfgRead (s : State) (r : CfgReg) : State × Word :=
  let h := s.hl
  let vendor := Config.plovairVendorId.toNat
  match r with
  | .ids => (s, BitVec.ofNat 32 (orDefault (Word.field (s.deviceWord 0) 0 16) vendor + 0x9860 * 2 ^ 16))
  | .command =>
    (s, BitVec.ofNat 32 ((h.word 1).toNat % 2 ^ 16 / 8 * 8 + (h.word 1).toNat / 2 % 2 * 2
      + b2n (s.bit F.SYS_HL_STATUS_BME) * 4 + (0x10 + (h.word statusKey).toNat) * 2 ^ 16))
  | .classRev => (s, BitVec.ofNat 32 (s.g F.SYS_ID_STEPPING + 0x118000 * 2 ^ 8))
  | .bar k => (s, BitVec.ofNat 32 (((h.word (4 + k.val)).toNat &&& (barShape k).1) + (barShape k).2))
  | .subsystem =>
    (s, BitVec.ofNat 32 (orDefault (Word.field (s.deviceWord 0) 16 16) vendor
      + Word.field (s.deviceWord 1) 0 16 * 2 ^ 16))
  | .interrupt => (s, BitVec.ofNat 32 ((h.word 15).toNat % 256))
  | .pmCsr =>
    (s, BitVec.ofNat 32 (b2n (s.bit F.SYS_HL_STATUS_D3HOT) * 3 + b2n h.pmeEn * 2 ^ 8 + b2n h.pme * 2 ^ 15))
  | .msixCtl => (s, BitVec.ofNat 32 (63 * 2 ^ 16 + b2n h.msixMask * 2 ^ 30 + b2n h.msixEn * 2 ^ 31 + 0x11))
  | .devCtl =>
    (s, Word.insert (Word.insert (h.word 2002) 5 3 h.mps) 12 3 h.mrrs)
  | .ptmCtl => (s, BitVec.ofNat 32 (b2n h.ptmEn))
  | .cap c => s.capRead c
  | .other _ => let (k, s) := s.draw; (s, Config.configWord k)

/-- A configuration register written whole. Max_Payload_Size above 512 and Max_Read_Request_Size above
4,096 bytes, which the function does not support, store the largest (Table 12.1). -/
def State.cfgWrite (s : State) (r : CfgReg) (w : Word) : State :=
  match r with
  | .command =>
    let errs := s.hl.word statusKey &&& ~~~(w >>> 16)
    let s := { s with hl := (s.hl.setWord 1 (w &&& 0x0546#32)).setWord statusKey errs }
    s.functionState (s.bit F.SYS_HL_STATUS_D3HOT) (w.getLsbD 2)
  | .bar k => { s with hl := s.hl.setWord (4 + k.val) w }
  | .interrupt => { s with hl := s.hl.setWord 15 (w &&& 0xFF#32) }
  | .pmCsr =>
    let d := Word.field w 0 2
    s.unlessD3 (d != 0) fun s =>
      let s := { s with hl := { s.hl with pmeEn := w.getLsbD 8, pme := s.hl.pme && !w.getLsbD 15 } }
      if d = 0 ∨ d = 3 then s.functionState (d == 3) (s.bit F.SYS_HL_STATUS_BME) else s
  | .msixCtl =>
    let s := { s with hl := { s.hl with msixEn := w.getLsbD 31, msixMask := w.getLsbD 30 } }
    (s.putb F.SYS_HL_STATUS_MSIX_EN (w.getLsbD 31 && !w.getLsbD 30)).sendAllHeld
  | .devCtl =>
    { s with hl := { s.hl.setWord 2002 (w &&& 0x71EF#32) with
        mps := min (Word.field w 5 3) 2, mrrs := min (Word.field w 12 3) 5 } }
  | .ptmCtl => { s with hl := { s.hl with ptmEn := w.getLsbD 0 } }
  | .cap c => s.writeCap c w
  | _ => s

/-- The PCI Express completion status of an answer on the host link. -/
inductive CplStatus where
  | success | unsupported | retry
  deriving DecidableEq, Repr

/-- The code of a completion status (PCI Express Base Specification). -/
def CplStatus.code : CplStatus → Nat
  | .success => 0 | .unsupported => 1 | .retry => 2

/-- Whether a request can arrive on the link. -/
def State.linkReaches (s : State) : Bool := !s.power.off && s.up .host && s.bit F.SYS_HL_STATUS_LINK_UP

/-- CONFIG_REQUEST (R357-R362, R395): a read, or a write of a word. Until a power-on or cold sequence ends
it is answered with retry status. -/
def execConfigRequest (r : CfgReg) (write : Option Word) (s : State) : Out :=
  if s.seqRun && s.clk.level != .warm then .next (s.answer [] false CplStatus.retry.code)
  else if !s.linkReaches then .next s
  else match write with
    | some w => .next ((s.cfgWrite r w).answer [] false CplStatus.success.code)
    | none =>
      let x := s.cfgRead r
      .next (x.1.answer (leBytes 4 x.2.toNat) false CplStatus.success.code)

/-! ## Violations on the link (R364, Table 12.3) -/

/-- A violation of the host link is logged while the log works. -/
def State.linkViolation (s : State) (code addr : Nat) : State :=
  if s.seqRun || !s.up .core then s else s.vlog 0 code addr

/-- An unsupported request: one that awaits a completion receives Unsupported Request, which makes its report advisory;
a posted one is discarded (Table 12.3, code 0x02). -/
def State.linkUnsupported (s : State) (answers : Bool) (addr : Nat) : State :=
  let s := (s.linkViolation 2 addr).reportError .unsupported answers
  if answers then s.answer [] false CplStatus.unsupported.code else s

/-- TLP_VIOLATION (R364): discarded or turned away, reported and logged. -/
def execTlpViolation (t : TlpFault) (s : State) : Out :=
  if !s.linkReaches then .next s
  else match t with
    | .malformed => .next ((s.linkViolation 1 0).reportError .malformed false)
    | .unsupported posted a => .next (s.linkUnsupported (!posted) a.toNat)
    | .poisonedWrite a => .next (((s.linkViolation 3 a.toNat).orStatus 0x8000).reportError .poisoned false)
    | .unexpectedCompletion => .next ((s.linkViolation 5 0).reportError .unexpected true)

/-! ## Precision time measurement (R365) -/

/-- PTM_TRIG (R365). -/
def execPtmTrig (s : State) : Out := .next (s.atBlock A.SYS_HL_PTM_CTL fun s => s.ptmRequest)

/-- PTM_PERIOD (R365): PERIOD ms since the last periodic dialog. -/
def execPtmPeriod (s : State) : Out :=
  let p := s.g F.SYS_HL_PTM_CTL_PERIOD
  .next (if !s.seqRun && s.up .host && s.bit F.SYS_HL_PTM_CTL_EN && s.hl.ptmEn && decide (0 < p)
      && decide (s.hl.ptmT + ms p ≤ s.now) then
    { s with hl := { s.hl with ptmT := s.now } }.ptmRequest else s)

/-- Store a 64-bit time in a pair of words. -/
def State.put64 (s : State) (lo hi : Field) (n : Nat) : State := (s.put lo n).put hi (n / 2 ^ 32)

/-- A pair of words copied to another. -/
def State.copy64 (s : State) (lo hi lo' hi' : Field) : State := (s.put lo' (s.g lo)).put hi' (s.g hi)

/-- A dialog that began at T1 is recorded (R365). -/
def State.ptmRecord (s : State) (t1 : Nat) (master : DWord) (delay : Word) : State :=
  let s := s.copy64 F.SYS_HL_PTM_T1_LO_V F.SYS_HL_PTM_T1_HI_V F.SYS_HL_PTM_T1P_LO_V F.SYS_HL_PTM_T1P_HI_V
  let s := s.copy64 F.SYS_HL_PTM_T4_LO_V F.SYS_HL_PTM_T4_HI_V F.SYS_HL_PTM_T4P_LO_V F.SYS_HL_PTM_T4P_HI_V
  let s := s.put64 F.SYS_HL_PTM_T1_LO_V F.SYS_HL_PTM_T1_HI_V (t1 / 65536)
  let s := s.put64 F.SYS_HL_PTM_T4_LO_V F.SYS_HL_PTM_T4_HI_V s.ts
  let s := s.put64 F.SYS_HL_PTM_MT_LO_V F.SYS_HL_PTM_MT_HI_V master.toNat
  (s.put F.SYS_HL_PTM_PD_V delay.toNat).put F.SYS_HL_PTM_SEQ_V (s.g F.SYS_HL_PTM_SEQ_V + 1)

/-- PTM_RESPONSE (R365): a ResponseD with Master Time and Propagation Delay, or a plain Response. Later than
1 ms it finds a dialog that has failed. -/
def execPtmResponse (data : Option (DWord × Word)) (s : State) : Out :=
  match s.hl.dialog with
  | none => .next s
  | some t1 =>
    let s := { s with hl := { s.hl with dialog := none } }
    match data with
    | some (m, d) =>
      if t1 + ms 1 < s.now then .next (s.linkCause F.SYS_HL_CAUSE_PTM_FAIL)
      else .next ((s.ptmRecord t1 m d).linkCause F.SYS_HL_CAUSE_PTM_DONE)
    | none => .next (s.linkCause F.SYS_HL_CAUSE_PTM_FAIL)

/-- PTM_TIMEOUT (R365): no response within 1 ms. -/
def execPtmTimeout (s : State) : Out :=
  match s.hl.dialog with
  | none => .next s
  | some t1 =>
    .next (if t1 + ms 1 ≤ s.now then
      { s with hl := { s.hl with dialog := none } }.linkCause F.SYS_HL_CAUSE_PTM_FAIL else s)

end Sys2Proof.Machine
end

