-- ==== Sys2Proof/Machine/Doors.lean ====
section
/-!
DEFINITION. The doors: memory requests to BAR0, BAR2 and BAR4, the management port, and register writes of
any master (12 R359-R362, R369-R377, R395; 03 R93; 14 R409, R414).
-/

namespace Sys2Proof.Machine

/-! ## BAR0 and BAR2 (R360, R395) -/

/-- A BAR0 request (R22, R360): `write` holds the bytes of a write with those not enabled missing. -/
def State.bar0 (s : State) (off n : Nat) (write : Option (List (Option Byte))) : State :=
  match write with
  | none =>
    let bad := !accessFits off n
    let r := if bad then (if s.seqRun then s else s.vlog 0 6 off, List.replicate n 0#8) else s.regsRead .host off n
    r.1.answer r.2 false CplStatus.success.code
  | some bs =>
    if s.seqRun then s
    else if accessFits off bs.length && allEnabled bs then s.regsWrite .host off (enabled bs)
    else s.vlog 0 6 off

/-- A BAR2 request (R360). -/
def State.bar2 (s : State) (off n : Nat) (write : Option (List (Option Byte))) : State :=
  match write with
  | none =>
    let r := s.memRead .host off n
    r.1.answer r.2.1 r.2.2 CplStatus.success.code
  | some bs => s.memWrite .host off bs

/-! ## Data port (R369-R371) -/

/-- The regions of R20. -/
inductive Space where
  | regs | mem | none
  deriving DecidableEq, Repr

/-- The region of an internal address, and the address at which it ends. -/
def spaceAt (a : Nat) : Space × Nat :=
  if a < 0x1000000 then (.regs, 0x1000000)
  else if a < 0x40000000 then (.none, 0x40000000)
  else if a < 0x80000000 then (.mem, 0x80000000)
  else (.none, 2 ^ 32)

/-- The parts of n bytes at an internal address that lie in one region each: region, address, first byte,
number of bytes. `fuel` bounds the parts. -/
def spaces : Nat → Nat → Nat → Nat → List (Space × Nat × Nat × Nat)
  | 0, _, _, _ => []
  | fuel + 1, a, i, n =>
    if n = 0 then []
    else
      let x := spaceAt (a % 2 ^ 32)
      let k := min n (x.2 - a % 2 ^ 32)
      (x.1, a % 2 ^ 32, i, k) :: spaces fuel (a + k) (i + k) (n - k)

/-- The parts of an access. -/
def partsOf (a n : Nat) : List (Space × Nat × Nat × Nat) := spaces 5 a 0 n

/-- Whether an access touches the register space. -/
def touchesRegs (a n : Nat) : Bool := (partsOf a n).any fun x => x.1 == .regs

/-- Read an access part by part: state, bytes, whether an uncorrectable word was met. -/
def State.partRead (s : State) (m : Master) (wide : Bool) (a n : Nat) : State × List Byte × Bool :=
  (partsOf a n).foldl (fun (r : State × List Byte × Bool) x =>
    match x.1 with
    | .regs =>
      let y := r.1.runRead m wide x.2.1 x.2.2.2
      (y.1, r.2.1 ++ y.2, r.2.2)
    | .mem =>
      let y := r.1.memRead m (x.2.1 - 0x40000000) x.2.2.2
      (y.1, r.2.1 ++ y.2.1, r.2.2 || y.2.2)
    | .none => (r.1, r.2.1 ++ List.replicate x.2.2.2 0#8, r.2.2)) (s, [], false)

/-- Write the enabled bytes of an access part by part. -/
def State.partWrite (s : State) (m : Master) (wide : Bool) (a : Nat) (bs : List (Option Byte)) : State :=
  (partsOf a bs.length).foldl (fun (s : State) x =>
    let part := (bs.drop x.2.2.1).take x.2.2.2
    match x.1 with
    | .regs => s.runWrite m wide x.2.1 part
    | .mem => s.memWrite m (x.2.1 - 0x40000000) part
    | .none => s) s

/-- DPT_ADDR after an access of n bytes (R369). -/
def State.dptNext (s : State) (n : Nat) : Nat :=
  let a := s.g F.DPT_ADDR_V
  match s.g F.DPT_CTL_MODE with
  | 0 => (a + n) % 2 ^ 32
  | 1 => (a + s.g F.DPT_STRIDE_V) % 2 ^ 32
  | _ => a

/-- The bytes of a write from its first to its last enabled byte. -/
def trimmed (bs : List (Option Byte)) : List (Option Byte) :=
  ((bs.dropWhile Option.isNone).reverse.dropWhile Option.isNone).reverse

/-- Whether R371 refuses an access: it touches the register space with an address or length that is no
multiple of 4. -/
def dptRefused (a n : Nat) : Bool := touchesRegs a n && (a % 4 != 0 || n % 4 != 0)

/-- Whether a write enables a byte of DPT_ADDR itself. -/
def hitsDptAddr (a : Nat) (bs : List (Option Byte)) : Bool :=
  bs.zipIdx.any fun x => x.1.isSome && (a + x.2) % 2 ^ 32 / 4 * 4 == A.DPT_ADDR

/-- DPT_ADDR advances behind an access, unless the access wrote it, which counts from the next one (R369, R370). -/
def State.dptAdvance (s : State) (wrote : Bool) (next : Nat) : State :=
  if s.seqRun || wrote then s else s.put F.DPT_ADDR_V next

/-- A request to BAR4 (R369-R371). -/
def State.dataPort (s : State) (n : Nat) (write : Option (List (Option Byte))) : State :=
  if s.seqRun then
    match write with
    | none => s.answer (List.replicate n 0#8) false CplStatus.success.code
    | some _ => s
  else
    let a := s.g F.DPT_ADDR_V
    let bs := match write with | some b => trimmed b | none => []
    let n := match write with | some _ => bs.length | none => n
    let next := s.dptNext n
    if dptRefused a n then
      let s := ((s.vlog 2 1 a).dptAdvance false next).dptDone .badDescriptor
      match write with
      | some _ => s
      | none => s.answer (List.replicate n 0#8) false CplStatus.success.code
    else match write with
      | some _ =>
        let s := (s.partWrite .dpt true a bs).dptAdvance (hitsDptAddr a bs) next
        if s.dptBusy then s else s.dptDone .ok
      | none =>
        let r := s.partRead .dpt true a n
        ((r.1.dptAdvance false next).dptDone (if r.2.2 then .busError else .ok)).answer r.2.1 r.2.2
          CplStatus.success.code

/-! ## Memory requests on the link (R362, R395, R414) -/

/-- A memory request that the device serves. -/
def State.serveHost (s : State) : HeldAccess → State
  | .bar0 off n w => s.bar0 off n w
  | .bar2 off n w => s.bar2 off n w
  | .port n w _ => s.dataPort n w

/-- Whether a request is a read. -/
def HeldAccess.reads : HeldAccess → Bool
  | .bar0 _ _ w => w.isNone
  | .bar2 _ _ w => w.isNone
  | .port _ w _ => w.isNone

/-- The address of a request for the violation log: internal for BAR0 and BAR2, the low address bits of the TLP for
BAR4, whose offset reaches no internal address (Table 12.8; R369). -/
def State.logAddr (s : State) : HeldAccess → Nat
  | .bar0 off _ _ => off
  | .bar2 off _ _ => 0x40000000 + off
  | .port _ _ off => (s.hl.word 8).toNat / 2 ^ 16 * 2 ^ 16 + off

/-- Whether a push that came over the link waits for a slot of an update FIFO: the link stalls behind it (R93,
R371). -/
def State.linkStalled (s : State) : Bool :=
  s.dptBusy || allBars.any fun n => (s.bar n).nst.stalled.any fun p => p.master == .host

/-- Held memory requests are served in order until the device sleeps or the link stalls. `fuel` bounds them. -/
def State.serveHeld : Nat → State → State
  | 0, s => s
  | fuel + 1, s =>
    match s.power.held with
    | [] => s
    | x :: r =>
      if s.linkStalled || s.power.stopped || decide (2 ≤ s.g F.PWR_STATUS_STATE) then s
      else State.serveHeld fuel ({ s with power := { s.power with held := r } }.serveHost x)

/-- Every held memory request that may be served is. -/
def State.serveAllHeld (s : State) : State := s.serveHeld s.power.held.length

/-- A memory request arrives: Unsupported Request in D3hot, else it waits behind those that STANDBY or a stalled
push holds back, in order; one that nothing holds back is served at once (R93, R414). -/
def State.hostRequest (s : State) (x : HeldAccess) : State :=
  if !s.linkReaches then s
  else if s.bit F.SYS_HL_STATUS_D3HOT then
    s.linkUnsupported x.reads (s.logAddr x)
  else if s.seqRun then (s.serveHost x).runSteps
  else ({ s with power := { s.power with held := s.power.held ++ [x] } }).serveAllHeld.runSteps

/-- BAR0_ACCESS (R360): a read of n bytes, or a write of bytes of which some may not be enabled. -/
def execBar0Access (off : BitVec 24) (n : Nat) (write : Option (List (Option Byte))) (s : State) : Out :=
  .next (s.hostRequest (.bar0 off.toNat n write))

/-- BAR2_ACCESS (R360). -/
def execBar2Access (off : BitVec 30) (n : Nat) (write : Option (List (Option Byte))) (s : State) : Out :=
  .next (s.hostRequest (.bar2 off.toNat n write))

/-- DATA_PORT_ACCESS (R369): `off` is the offset that the TLP names in the window. -/
def execDataPortAccess (n : Nat) (write : Option (List (Option Byte))) (s : State) (off : BitVec 16 := 0#16) : Out :=
  .next (s.hostRequest (.port n write off.toNat))

/-- REGISTER_WRITE (00 R4): a write of a register by a master. -/
def execRegisterWrite (m : Master) (reg : Fin 0x400000) (w : Word) (s : State) : Out :=
  .next (s.regsWrite m (4 * reg.val) (leBytes 4 w.toNat)).runSteps

/-! ## Management port (R372-R377) -/

/-- One bit of CRC-8, polynomial x^8 + x^2 + x + 1 (R373). -/
def crc8Bit (c : Nat) (b : Bool) : Nat :=
  let top := (c / 128 % 2 == 1) != b
  let d := c * 2 % 256
  if top then Nat.xor d 7 else d

/-- CRC-8 over bytes, most significant bit first, from 0 (R373). -/
def crc8 (bs : List Byte) : Nat :=
  bs.foldl (fun c x => (List.range 8).foldl (fun c i => crc8Bit c (x.getLsbD (7 - i))) c) 0

/-- The bytes of a request before its CRC (Table 12.4). -/
def mgtHeader (cmd : Byte) (addr : Word) (len : Nat) : List Byte := cmd :: beBytes 4 addr.toNat ++ beBytes 2 len

/-- FRAME_CRC, owned by chapter 12. -/
def frameCrc : Nat := 0x12

/-- The response (Table 12.5), from TOKEN to CRC, and MGT_STATUS; of a transaction that has ended, nothing is
driven (R376). -/
def State.mgtRespond (s : State) (lost : Bool) (body : List Byte) (st : Nat) (tail : List Byte) : State :=
  let r := 0x3C#8 :: body ++ [BitVec.ofNat 8 st] ++ tail
  let s := if s.seqRun then s else s.put F.MGT_STATUS_STATUS st
  s.answer (if lost then [] else r ++ [BitVec.ofNat 8 (crc8 r)]) false st

/-- The violation of a request with a header, if its CRC or a field breaks R374: the code and the status. -/
def mgtFault (cmd : Byte) (addr : Word) (len : Nat) (crcOk : Bool) : Option (Nat × Nat) :=
  if !crcOk then some (2, frameCrc)
  else if cmd ≠ 0x0B#8 ∧ cmd ≠ 0x02#8 then some (3, Status.badDescriptor.code)
  else if len = 0 ∨ 4096 < len then some (4, Status.badDescriptor.code)
  else if touchesRegs addr.toNat len ∧ (addr.toNat % 4 ≠ 0 ∨ len % 4 ≠ 0) then some (5, Status.badDescriptor.code)
  else none

/-- A violation of the management port is logged. -/
def State.mgtViolation (s : State) (code : Nat) (cmd : Byte) (addr : Word) : State :=
  s.vlog 1 code (cmd.toNat + addr.toNat % 2 ^ 24 * 2 ^ 8)

/-- Whether a falling edge of MG_CS_N is a wake instead of a transaction that is served: the source is enabled, and the
device sleeps, or is entering or leaving a state (R377, R409, R413). -/
def State.mgtWakes (s : State) : Bool :=
  !s.power.off && !s.seqRun && (s.reg A.PWR_WAKE_EN).getLsbD 2
    && (decide (2 ≤ s.g F.PWR_STATUS_STATE) || s.power.exitT.isSome
      || (match s.power.req with | some r => r.enters | none => false))

/-- A falling edge of MG_CS_N with WAKE_ANY = 1 is sampled as a link wake; of a device that is ON it is kept for its AON
cycle (R377, R412). -/
def State.mgtFalls (s : State) : State := if s.bit F.MGT_CFG_WAKE_ANY then s.wake 2 true else s

/-- A transaction that wakes is not served (R377). -/
def State.mgtDropped (s : State) : Bool := s.mgtWakes && s.bit F.MGT_CFG_WAKE_ANY

/-- Whether the port serves requests: PD_CORE is on with its clocks, EN is 1 and no reset sequence runs (R372, R395). -/
def State.mgtOpen (s : State) : Bool :=
  !s.power.off && !s.seqRun && s.up .core && !s.power.stopped && s.bit F.MGT_CFG_EN

/-- A request that R374 refuses. -/
def State.mgtRefused (s : State) (fault : Nat × Nat) (r : MgtReq) : State :=
  let s := s.mgtViolation fault.1 r.cmd r.addr
  let s := if fault.2 = frameCrc then s.bump F.MGT_CRC_ERRS_V else s
  s.mgtRespond r.lost (if r.cmd = 0x0B#8 then List.replicate r.len 0#8 else []) fault.2
    (if r.cmd = 0x02#8 then beBytes 2 0 else [])

/-- Zeros in place of the bytes of uncorrectable words (R374). -/
def State.mgtBlank (s : State) (a : Nat) (bs : List Byte) : List Byte :=
  bs.zipIdx.map fun (b, i) =>
    let x := (a + i) % 2 ^ 32
    if 0x40000000 ≤ x ∧ x < 0x80000000 ∧ s.liveAt (x - 0x40000000) ∧ s.badAt (x - 0x40000000) then 0#8 else b

/-- A READ that passed its checks. -/
def State.mgtRead (s : State) (lost : Bool) (a n : Nat) : State :=
  let r := s.partRead .mgt false a n
  let bs := s.mgtBlank a r.2.1
  r.1.mgtRespond lost bs (if r.2.2 then Status.busError.code else Status.ok.code) []

/-- Whether a push of the management port waits for a FIFO slot. -/
def State.mgtStalled (s : State) : Bool :=
  allBars.any fun n => (s.bar n).nst.stalled.any fun p => p.master == .mgt

/-- A WRITE answers: STATUS, then DONE. -/
def State.mgtAnswer (s : State) (lost : Bool) (st done : Nat) : State := s.mgtRespond lost [] st (beBytes 2 done)

/-- The bytes of a WRITE, from an address: register by register, memory part by part; a push that waits
stops it until its slot is free. `fuel` bounds the pieces. -/
def State.mgtBytes (lost : Bool) : Nat → Nat → List Byte → Nat → State → State
  | 0, _, _, done, s => s.mgtAnswer lost Status.ok.code done
  | fuel + 1, a, bs, done, s =>
    if bs = [] then s.mgtAnswer lost Status.ok.code done
    else
      let x := spaceAt (a % 2 ^ 32)
      let room := min bs.length (x.2 - a % 2 ^ 32)
      let k := match x.1 with | .regs => 4 | _ => room
      let now := bs.take k
      let s := match x.1 with
        | .regs => s.regsWrite .mgt (a % 2 ^ 32) now
        | .mem => s.memWrite .mgt (a % 2 ^ 32 - 0x40000000) (now.map some)
        | .none => s
      if s.mgtStalled then
        { s with mgt := some { addr := a + k, rest := bs.drop k, done := done, lost := lost } }.put F.MGT_STATUS_BUSY 1
      else State.mgtBytes lost fuel (a + k) (bs.drop k) (done + k) s

/-- A request that has arrived whole is checked and served (R374). -/
def State.mgtServe (s : State) (r : MgtReq) : State :=
  let s := s.bump F.MGT_REQUESTS_V
  match mgtFault r.cmd r.addr r.len r.crcOk with
  | some f => s.mgtRefused f r
  | none =>
    if r.cmd = 0x0B#8 then s.mgtRead r.lost r.addr.toNat r.len
    else if r.data.length ≠ r.len then s
    else State.mgtBytes r.lost (r.data.length + 1) r.addr.toNat r.data 0 s

/-- Requests that waited are served in order, until a WRITE among them waits in turn (R375). -/
def State.mgtServeAll : List MgtReq → State → State
  | [], s => s
  | r :: rs, s =>
    match s.mgt with
    | some m => { s with mgt := some { m with waiting := r :: rs } }
    | none => State.mgtServeAll rs (s.mgtServe r)

/-- A request arrives: it wakes; or it is not served, in a sleeping device, with EN = 0 or in a reset
sequence; or it waits until an earlier access has ended; or it is served (R372, R375, R377, R395). -/
def State.mgtRequest (s : State) (r : MgtReq) : State :=
  let w := s.mgtFalls
  if s.mgtDropped || !s.mgtOpen then w
  else match w.mgt with
    | some m => { w with mgt := some { m with waiting := m.waiting ++ [r] } }
    | none => w.mgtServe r

/-- Whether MG_CS_N is low between two commands: the transaction in progress is that of a request whose response has
still to come (R372). -/
def State.mgCsLow (s : State) : Bool :=
  match s.mgt with
  | some m => match m.waiting.getLast? with
    | some r => !r.lost
    | none => !m.lost
  | none => false

/-- MGT_READ (R373, R374): a request without data. The wake pattern is none (R377). -/
def execMgtRead (cmd : Byte) (addr : Word) (len : BitVec 16) (crc : Byte) (s : State) : Out :=
  if cmd = 0xA5#8 ∧ addr.toNat / 2 ^ 8 = 0x5AA55A then .next s
  else
    .next (s.mgtRequest { cmd := cmd, addr := addr, len := len.toNat, data := []
                          crcOk := crc8 (mgtHeader cmd addr len.toNat) == crc.toNat }).runSteps

/-- MGT_WRITE (R373, R374). -/
def execMgtWrite (addr : Word) (data : List Byte) (crc : Byte) (s : State) : Out :=
  .next (s.mgtRequest { cmd := 0x02#8, addr := addr, len := data.length, data := data
                        crcOk := crc8 (mgtHeader 0x02#8 addr data.length ++ data) == crc.toNat }).runSteps

/-- The running WRITE ends, and the requests that waited behind it are served (R375). -/
def State.mgtEnded (s : State) (f : MgtWrite → State → State) : State :=
  match s.mgt with
  | some m => State.mgtServeAll m.waiting (f m ({ s with mgt := none }.put F.MGT_STATUS_BUSY 0))
  | none => s

/-- The WRITE whose push no longer waits goes on behind it. -/
def State.mgtContinue (s : State) : State :=
  if s.mgtStalled then s
  else s.mgtEnded fun m s => State.mgtBytes m.lost (m.rest.length + 1) m.addr m.rest (m.done + 4) s

/-- STALLED_PUSH (03 R93): the oldest waiting push of a bar takes a free slot; a WRITE of the management
port and the memory requests that waited for it go on. -/
def execStalledPush (n : Fin 32) (s : State) : Out :=
  let s := (State.dptSettle (fun s => s.stalledPush n) s).mgtContinue
  .next (if s.seqRun then s else s.serveAllHeld).runSteps

/-- MGT_PUSH_TIMEOUT (03 R93): a management-port push that has waited 1 ms is abandoned. -/
def execMgtPushTimeout (n : Fin 32) (s : State) : Out :=
  let late := fun (p : StalledPush) => p.master == .mgt && decide (p.since + ms 1 ≤ s.now)
  if !(s.bar n).nst.stalled.any late then .next s
  else
    let s := s.modNst n fun f => { f with stalled := f.stalled.filter fun p => !late p }
    .next (s.mgtEnded fun m s => s.mgtAnswer m.lost Status.timeout.code m.done).runSteps

/-- The last of some requests loses its response. -/
def loseLast : List MgtReq → List MgtReq
  | [] => []
  | [r] => [{ r with lost := true }]
  | r :: rs => r :: loseLast rs

/-- The running WRITE, or the request that arrived last behind it, loses its response (R376). -/
def MgtWrite.abort (m : MgtWrite) : MgtWrite :=
  if m.waiting = [] then { m with lost := true } else { m with waiting := loseLast m.waiting }

/-- MGT_ABORT (R376): MG_CS_N rises before the CRC byte of the request, or after it and before the CRC byte of
the response: the access runs to its end and the rest of the response is lost. In a sleeping device the falling
edge before it may have woken (R377). -/
def execMgtAbort (afterCrc : Bool) (cmd : Byte) (addr : Word) (s : State) : Out :=
  let w := s.mgtFalls
  if s.mgtDropped || !s.mgtOpen then .next w
  else
    let s := (w.bump F.MGT_ABORTS_V).mgtViolation (if afterCrc then 6 else 1) cmd addr
    .next (if !afterCrc then s
      else match s.mgt with
        | some m => { s with mgt := some m.abort }
        | none => s.answer [] false 0)

/-- WAKE_PATTERN (R377). -/
def execWakePattern (s : State) : Out :=
  let counts := !s.power.off && !s.seqRun && s.up .core
  let woken := s.wake 2 true
  .next (if counts then woken.bump F.MGT_WAKES_V else woken)

end Sys2Proof.Machine
end

