-- ==== Sys2Proof/Machine/Boot.lean ====
section
/-!
DEFINITION. The boot ROM: images, their checks, loads and hand-over; the exit from STANDBY and HIBERNATE,
which ends with the ROM (09 R284-R286; 10 R313-R318; 14 R414-R418).
-/

namespace Sys2Proof.Machine

/-! ## Images (09 R284, R285) -/

/-- The header of an image (Table 9.17). -/
structure ImageHeader where
  magic : Nat
  format : Nat
  pair : Nat
  nsect : Nat
  entry : Nat
  length : Nat
  sp : Nat
  svn : Nat
  reserved : Nat
  deriving DecidableEq, Repr

/-- An entry of the section table (Table 9.18). -/
structure Section where
  type : Nat
  reserved : Nat
  dest : Nat
  size : Nat
  offset : Nat
  deriving DecidableEq, Repr

/-- The BAR2 offset of a core data address in the memory space. -/
def quadOff (a : Nat) : Nat := a - 0x40000000

/-- The header of the image at a core data address. -/
def State.imageHeader (s : State) (a : Nat) : ImageHeader :=
  let f := fun (i n : Nat) => s.numAt (quadOff a + i) n
  { magic := f 0 4, format := f 4 2, pair := f 6 1, nsect := f 7 1, entry := f 8 4, length := f 12 4,
    sp := f 16 4, svn := f 20 1, reserved := f 21 3 }

/-- The sections of the image at a core data address. -/
def State.imageSections (s : State) (a n : Nat) : List Section :=
  (List.range n).map fun i =>
    let f := fun (o k : Nat) => s.numAt (quadOff a + 32 + 16 * i + o) k
    { type := f 0 1, reserved := f 1 3, dest := f 4 4, size := f 8 4, offset := f 12 4 }

/-- The memory a section lies in: 0 instruction memory, 1 data memory, 2 Quadrille. -/
def Section.space (x : Section) : Nat := if x.type = 1 then 0 else if x.type ≤ 3 then 1 else 2

/-- Whether a section has contents in the image. -/
def Section.hasBytes (x : Section) : Bool := x.type == 1 || x.type == 2 || x.type == 4

/-- Whether two ranges overlap. -/
def overlap (a n b k : Nat) : Bool := decide (a < b + k) && decide (b < a + n)

/-- Whether a section lies in the region of its type (Table 9.1, R257). -/
def Section.inRegion (x : Section) : Bool :=
  match x.space with
  | 0 => decide (x.dest + x.size ≤ 0x20000) && x.dest % 4 == 0 && x.size % 4 == 0
  | 1 => decide (0x10000000 ≤ x.dest) && decide (x.dest + x.size ≤ 0x10020000)
  | _ => decide (0x44000000 ≤ x.dest) && decide (x.dest + x.size ≤ 0x44400000)

/-- Whether a section entry is well formed in an image of a length with n sections (R285). -/
def Section.wf (x : Section) (len n : Nat) : Bool :=
  decide (1 ≤ x.type) && decide (x.type ≤ 5) && x.reserved == 0 && decide (1 ≤ x.size) && x.inRegion
    && (if x.hasBytes then
          x.offset % 8 == 0 && decide (32 + 16 * n ≤ x.offset) && decide (x.offset + x.size + 64 ≤ len)
        else x.offset == 0)

/-- Whether no two sections of the same memory overlap. -/
def disjointSections : List Section → Bool
  | [] => true
  | x :: r => r.all (fun y => x.space != y.space || !overlap x.dest x.size y.dest y.size) && disjointSections r

/-- Whether the header is within the ranges of Table 9.17. -/
def ImageHeader.wf (h : ImageHeader) : Bool :=
  h.magic == 0x5459524B && h.format == 1 && decide (h.pair ≤ 3) && decide (1 ≤ h.nsect) && decide (h.nsect ≤ 16)
    && h.length % 8 == 0 && decide (h.length ≤ 0x800000) && decide (32 + 16 * h.nsect + 64 ≤ h.length)
    && h.sp % 8 == 0 && decide (0x10000008 ≤ h.sp) && decide (h.sp ≤ 0x10020000) && decide (h.svn ≤ 127)
    && h.reserved == 0 && h.entry % 4 == 0

/-- Whether an image is well formed (R285). -/
def imageWf (h : ImageHeader) (xs : List Section) : Bool :=
  h.wf && xs.all (fun x => x.wf h.length h.nsect) && disjointSections xs
    && xs.any fun x => x.type == 1 && decide (x.dest ≤ h.entry) && decide (h.entry < x.dest + x.size)

/-- Whether a range of core data addresses lies in Quadrille. -/
def inQuad (a n : Nat) : Bool := decide (0x44000000 ≤ a) && decide (a + n ≤ 0x44400000)

/-- Whether a section breaks what R315 asks of it beside R285: it overlaps the image or the key, or reaches
the ROM or its workspace. -/
def Section.bars (x : Section) (pair src len key : Nat) : Bool :=
  (x.space == 2 && (overlap x.dest x.size src len || overlap x.dest x.size key 64))
    || (pair == 3 && x.space == 0 && decide (0x1C000 < x.dest + x.size))
    || (pair == 3 && x.space == 1 && overlap x.dest x.size 0x1001F000 0x1000)

/-! ## Loading (R315) -/

/-- SVN_LOW, owned by chapter 10. -/
def svnLow : Nat := 0x11

/-- The BAR2 offset of the first byte of a section for a pair. -/
def Section.place (x : Section) (pair : Nat) : Nat :=
  match x.space with
  | 0 => imemBase pair + x.dest
  | 1 => dmemBase pair + (x.dest - 0x10000000)
  | _ => quadOff x.dest

/-- The ROM copies or zero-fills a section through the load path. -/
def State.copySection (s : State) (pair src : Nat) (x : Section) : State :=
  if x.hasBytes then s.storeBytes (x.place pair) (s.bytesAt (quadOff src + x.offset) x.size)
  else s.wipeRange (x.place pair) (x.place pair + x.size)

/-- What a load that failed after the copy leaves: the pair's memories and the Quadrille sections zeroed. -/
def State.undoLoad (s : State) (pair : Nat) (xs : List Section) : State :=
  let s := (s.wipeRange (imemBase pair) (imemBase pair + 0x20000)).wipeRange (dmemBase pair) (dmemBase pair + 0x20000)
  xs.foldl (fun (s : State) x =>
    if x.space = 2 then s.wipeRange (quadOff x.dest) (quadOff x.dest + x.size) else s) s

/-- The status of the checks before the copy (R315, steps 1 and 2): none when they pass. A call of the
load entry may not name pair 3 (R318). -/
def State.loadChecks (s : State) (l : BootLoad) : Option Status :=
  if s.g F.SYS_LC_STATE = 4 then some .locked
  else if !inQuad l.src 32 then some .badDescriptor
  else
    let h := s.imageHeader l.src
    let p : Fin 4 := Fin.ofNat 4 h.pair
    let runs := if p = 3 then l.called else !s.halted p
    if h.pair ≤ 3 ∧ runs then some .notOwner
    else if !inQuad l.src h.length || !inQuad l.key 64 then some .badDescriptor
    else
      let xs := s.imageSections l.src h.nsect
      if !imageWf h xs || xs.any (fun x => x.bars h.pair l.src h.length l.key) then some .badDescriptor else none

/-- The status of the checks after the copy, in FIELD (R315, steps 4 and 5; R286): the code. -/
def State.authChecks (s : State) (l : BootLoad) (h : ImageHeader) : Nat :=
  if s.g F.SYS_LC_STATE ≠ 3 then 0
  else if s.g (F.OTP_REGIONr_SEL 1) = 2 then Status.integrity.code
  else
    let img := quadOff l.src
    let key := s.bytesAt (quadOff l.key) 64
    let digest := sha256 (s.bytesAt img (h.length - 64))
    let sig := s.bytesAt (img + h.length - 64) 64
    let known := (s.otp.bootKeys.take 8).flatMap fun w => leBytes 4 w.toNat
    if sha256 key ≠ known then Status.authFail.code
    else if !ecdsaVerify digest (beNat (key.take 32)) (beNat (key.drop 32)) (beNat (sig.take 32)) (beNat (sig.drop 32))
    then Status.authFail.code
    else if h.svn < s.otpCount h.pair then svnLow
    else 0

/-- A load runs to its end: the state after, and its status. The signed bytes are those in Quadrille before
the copy. -/
def State.loadImage (s : State) (l : BootLoad) : State × Nat :=
  match s.loadChecks l with
  | some st => (s, st.code)
  | none =>
    let h := s.imageHeader l.src
    let xs := s.imageSections l.src h.nsect
    let img := quadOff l.src
    let s := s.readErrsIf fun w => decide (img ≤ 8 * w + 7) && decide (8 * w < img + h.length)
    let st := s.authChecks l h
    let s := xs.foldl (State.copySection · h.pair l.src) s
    if st = 0 then
      let s := s.put (F.SEQ_Pj_STATUS_LOADED h.pair) 1
      ((s.put (F.SEQ_Pj_ENTRY_V h.pair) h.entry).put (F.SEQ_Pj_SP_V h.pair) h.sp, 0)
    else ((s.undoLoad h.pair xs).put (F.SEQ_Pj_STATUS_LOADED h.pair) 0, st)

/-- The ROM zeroes its workspace (R313). -/
def State.clearWorkspace (s : State) : State := s.wipeRange (dmemBase 3 + 0x1F000) (dmemBase 3 + 0x20000)

/-- Hand-over (R317). -/
def State.handOver (s : State) : State :=
  let s := { s with boot := { s.boot with load := none, kickT := s.now, warned := false } }
  (s.clearWorkspace.launch 3 0).put F.SEQ_BOOT_STATUS_STATE 3

/-- A fresh free word. -/
def State.scratch (s : State) : State × Word := let (k, s) := s.draw; (s, Config.romScratch k)

/-- A register of pair 3 that the convention does not preserve takes a free value. -/
def State.scratchK (s : State) (r : Fin 16) : State :=
  let x := s.scratch
  x.1.modPair 3 fun p => p.setK r x.2

/-- The 1 KiB of the caller's stack below K14 that the load entry may use takes free values (R318). -/
def State.scratchStack (s : State) : State :=
  let sp := ((s.pair 3).kr 14).toNat
  (List.range 256).foldl (fun (s : State) i =>
    let a := sp - 1024 + 4 * i
    if 1024 ≤ sp ∧ 0x10000000 ≤ a ∧ a + 4 ≤ 0x10020000 then
      let x := s.scratch
      x.1.storeBytes (dmemBase 3 + (a - 0x10000000)) (leBytes 4 x.2.toNat)
    else s) s

/-- The load entry returns to its caller with a status in K2; the registers that the convention does not
preserve hold free values (09 R282; R318). -/
def State.romReturns (s : State) (st : Nat) : State :=
  let ret := ((s.pair 3).kr 15).toNat / 4 * 4
  let s := s.scratchStack
  let s := [(1 : Fin 16), 3, 4, 5, 6, 7, 15].foldl State.scratchK s
  s.modPair 3 fun p => { p.setK 2 (BitVec.ofNat 32 st) with pc := ret }.openInterval s.now

/-- Status, pair and event of a load that has ended (Table 10.8). -/
def State.loadEnds (s : State) (l : BootLoad) (st : Nat) : State :=
  let s := s.put F.SEQ_BOOT_STATUS_STATUS st
  s.put F.SEQ_BOOT_STATUS_PAIR (s.numAt (quadOff l.src + 6) 1)

/-- Whether the load in progress can end: the SERVICE pair executes the ROM. -/
def State.romExecutes (s : State) : Bool := s.runs 3 && s.inRom 3

/-- BOOT_LOAD_DONE (R315, R317, R318); a called load ends once every interval before it has passed (R301; log 47). -/
def execBootLoadDone (s : State) : Out :=
  match s.boot.load with
  | none => .next s
  | some l =>
    if !s.romExecutes then .next s
    else if l.called && !(s.pair 3).settled then .next (s.modPair 3 fun p => p.closeFor s.now)
    else
      let pair := s.numAt (quadOff l.src + 6) 1 % 4
      let r := s.loadImage l
      let s := r.1.loadEnds l r.2
      let s := { s with boot := { s.boot with load := none, kickT := s.now, warned := false } }
      if l.called then .next ((s.romReturns r.2).raiseEvent 0xF9)
      else if r.2 = 0 ∧ pair = 3 then .next (s.handOver.raiseEvent 0xF9)
      else .next ((s.put F.SEQ_BOOT_STATUS_STATE 1).raiseEvent 0xF9)

/-- SEQ_BOOT_GO (R314). -/
def execSeqBootGo (s : State) : Out := .next (s.atBlock A.SEQ_BOOT_GO fun s => s.bootGo)

/-- ROM_LOAD_ENTRY (R318): SERVICE firmware has come to the load entry. -/
def execRomLoadEntry (s : State) : Out :=
  let p := s.pair 3
  .next (if s.romExecutes && s.g F.SEQ_BOOT_STATUS_STATE == 3 && p.pc == 0x1C010 && s.boot.load.isNone then
    { s with boot := { s.boot with load := some ⟨(p.kr 2).toNat, (p.kr 3).toNat, true⟩ } }
    else s)

/-! ## The exit from STANDBY and HIBERNATE (14 R414-R418) -/

/-- Whether both banks of a pair were retained and have not come back lost (R416). -/
def State.pairKept (s : State) (lost : List (Fin 116)) (j : Nat) : Bool :=
  [68 + 2 * j, 69 + 2 * j].all fun b => (s.bank (bankIx b)).power == 2 && !lost.contains (bankIx b)

/-- LOADED of every pair as saved at entry, for pairs whose memories were kept. -/
def State.restoreLoaded (s : State) (kept : Nat) : State :=
  (List.range 4).foldl (fun (s : State) j =>
    s.putb (F.SEQ_Pj_STATUS_LOADED j) (s.power.savedLoaded.testBit j && kept.testBit j)) s

/-- The ROM hands over at the resume address with the resume stack pointer (R416; 10 R317). -/
def State.resumeService (s : State) : State :=
  let pc := s.g F.PWR_RESUME_PC_V / 4 * 4
  let sp := BitVec.ofNat 32 (s.g F.PWR_RESUME_SP_V / 8 * 8)
  let s := s.handOver.modPair 3 fun p => ({ p with pc := pc }.setK 14 sp).openInterval s.now
  s.raiseEvent 0xF9

/-- Domains, clocks and banks come back (Table 14.5). -/
def State.exitPowers (s : State) (lost : List (Fin 116)) : State :=
  let hib := s.g F.PWR_STATUS_STATE = 3
  let doms := [Domain.core] ++ (if hib then [.host] else []) ++ maskDomains s.power.savedDoms
  let s := doms.foldl (State.release lost) s
  let s := (s.put F.CLK_STATUS_MAIN_LOCK 1).put F.CLK_STATUS_GRID_LOCK 1
  if hib then
    let s := if s.clk.hostLost then s else s.put F.CLK_STATUS_HOST_LOCK 1
    { s with hl := { s.hl with held := s.clk.perst || s.clk.hostLost } }
  else s

/-- ENTRY_ABANDON (R408, R410): a link wake abandons the entry at its next abort point, and memory requests that
waited while the clocks stood are served. -/
def execEntryAbandon (s : State) : Out :=
  match s.entering with
  | some (r, h) =>
    match s.abortAt h with
    | some a =>
      if s.seqRun then .next s
      else
        let s := if s.power.undoT.isSome then s else s.phasesTo r h a
        .next (s.abandonEnds r h).serveAllHeld.runSteps
    | none => .next s
  | none => .next s

/-- STATE_EXIT (R415-R418): the whole exit, with the retained banks that come back lost and the tap that
training finds for each port; then the host requests that were held are served. -/
def execStateExit (lost : List (Fin 116)) (taps : Vector (Option (Fin 64)) 32) (s : State) : Out :=
  match s.power.exitT with
  | none => .next s
  | some t =>
    if s.seqRun || s.power.off then .next s
    else
      let kept := (List.range 4).foldl (fun a j => if s.pairKept lost j then a + 2 ^ j else a) 0
      let s := s.exitPowers lost
      let s := allBars.foldl (fun (s : State) (n : Fin 32) =>
        if s.up (barDomain n) then s.trainPort n taps[n] else s) s
      let s := (s.restoreLoaded kept).put F.PWR_STATUS_RESUME 1
      let s := if s.hkillLow then s.put F.GRID_KILL_PIN_LATCH 1 else s
      let s := s.startTimers.startRom
      let s := if s.bit (F.SEQ_Pj_STATUS_LOADED 3) then s.resumeService else s.romWaits
      let s := ((s.put F.PWR_STATUS_STATE 0).put F.PWR_STATUS_PHASE 0).put F.PWR_TIMES_EXIT (s.usSince t)
      let s := s.reloadBase.setCause F.PWR_CAUSE_EXITED
      .next ({ s with power := { s.power with exitT := none } }).serveAllHeld.runSteps

end Sys2Proof.Machine
end

