-- ==== Sys2Proof/Machine/KOps.lean ====
section
/-!
DEFINITION. The instruction rows of the Krytis cores and the unit commands, one meaning each over the shared
operations of KStep.lean and Outputs.lean (09 R257-R281; 10 R289-R299).
-/

namespace Sys2Proof.Machine

/-! ## Arithmetic and logic (R264-R266) -/

/-- ADD (R264). -/
def execAdd (j : Fin 4) (rd rs1 rs2 : Fin 16) (s : State) : Out := .next (s.runK j (some (.alu .add rd rs1 rs2)))

/-- SUB (R264). -/
def execSub (j : Fin 4) (rd rs1 rs2 : Fin 16) (s : State) : Out := .next (s.runK j (some (.alu .sub rd rs1 rs2)))

/-- AND (R264). -/
def execAnd (j : Fin 4) (rd rs1 rs2 : Fin 16) (s : State) : Out := .next (s.runK j (some (.alu .and rd rs1 rs2)))

/-- OR (R264). -/
def execOr (j : Fin 4) (rd rs1 rs2 : Fin 16) (s : State) : Out := .next (s.runK j (some (.alu .or rd rs1 rs2)))

/-- XOR (R264). -/
def execXor (j : Fin 4) (rd rs1 rs2 : Fin 16) (s : State) : Out := .next (s.runK j (some (.alu .xor rd rs1 rs2)))

/-- SLL (R264). -/
def execSll (j : Fin 4) (rd rs1 rs2 : Fin 16) (s : State) : Out := .next (s.runK j (some (.alu .sll rd rs1 rs2)))

/-- SRL (R264). -/
def execSrl (j : Fin 4) (rd rs1 rs2 : Fin 16) (s : State) : Out := .next (s.runK j (some (.alu .srl rd rs1 rs2)))

/-- SRA (R264). -/
def execSra (j : Fin 4) (rd rs1 rs2 : Fin 16) (s : State) : Out := .next (s.runK j (some (.alu .sra rd rs1 rs2)))

/-- SLT (R264). -/
def execSlt (j : Fin 4) (rd rs1 rs2 : Fin 16) (s : State) : Out := .next (s.runK j (some (.alu .slt rd rs1 rs2)))

/-- SLTU (R264). -/
def execSltu (j : Fin 4) (rd rs1 rs2 : Fin 16) (s : State) : Out := .next (s.runK j (some (.alu .sltu rd rs1 rs2)))

/-- MIN (R264). -/
def execMin (j : Fin 4) (rd rs1 rs2 : Fin 16) (s : State) : Out := .next (s.runK j (some (.alu .min rd rs1 rs2)))

/-- MAX (R264). -/
def execMax (j : Fin 4) (rd rs1 rs2 : Fin 16) (s : State) : Out := .next (s.runK j (some (.alu .max rd rs1 rs2)))

/-- MINU (R264). -/
def execMinu (j : Fin 4) (rd rs1 rs2 : Fin 16) (s : State) : Out := .next (s.runK j (some (.alu .minu rd rs1 rs2)))

/-- MAXU (R264). -/
def execMaxu (j : Fin 4) (rd rs1 rs2 : Fin 16) (s : State) : Out := .next (s.runK j (some (.alu .maxu rd rs1 rs2)))

/-- ADDS (R264). -/
def execAdds (j : Fin 4) (rd rs1 rs2 : Fin 16) (s : State) : Out := .next (s.runK j (some (.alu .adds rd rs1 rs2)))

/-- SUBS (R264). -/
def execSubs (j : Fin 4) (rd rs1 rs2 : Fin 16) (s : State) : Out := .next (s.runK j (some (.alu .subs rd rs1 rs2)))

/-- CLZ (R264). -/
def execClz (j : Fin 4) (rd rs1 : Fin 16) (s : State) : Out := .next (s.runK j (some (.alu .clz rd rs1 0)))

/-- POPC (R264). -/
def execPopc (j : Fin 4) (rd rs1 : Fin 16) (s : State) : Out := .next (s.runK j (some (.alu .popc rd rs1 0)))

/-- ADDI (R264, R265). -/
def execAddi (j : Fin 4) (rd rs1 : Fin 16) (imm : BitVec 12) (s : State) : Out := .next (s.runK j (some (.aluI .add rd rs1 imm)))

/-- ANDI (R264, R265). -/
def execAndi (j : Fin 4) (rd rs1 : Fin 16) (imm : BitVec 12) (s : State) : Out := .next (s.runK j (some (.aluI .and rd rs1 imm)))

/-- ORI (R264, R265). -/
def execOri (j : Fin 4) (rd rs1 : Fin 16) (imm : BitVec 12) (s : State) : Out := .next (s.runK j (some (.aluI .or rd rs1 imm)))

/-- XORI (R264, R265). -/
def execXori (j : Fin 4) (rd rs1 : Fin 16) (imm : BitVec 12) (s : State) : Out := .next (s.runK j (some (.aluI .xor rd rs1 imm)))

/-- SLLI (R264, R265): bits [11:5] of its immediate are 0. -/
def execSlli (j : Fin 4) (rd rs1 : Fin 16) (shamt : BitVec 5) (s : State) : Out := .next (s.runK j (some (.aluI .sll rd rs1 (shamt.setWidth 12))))

/-- SRLI (R264, R265): bits [11:5] of its immediate are 0. -/
def execSrli (j : Fin 4) (rd rs1 : Fin 16) (shamt : BitVec 5) (s : State) : Out := .next (s.runK j (some (.aluI .srl rd rs1 (shamt.setWidth 12))))

/-- SRAI (R264, R265): bits [11:5] of its immediate are 0. -/
def execSrai (j : Fin 4) (rd rs1 : Fin 16) (shamt : BitVec 5) (s : State) : Out := .next (s.runK j (some (.aluI .sra rd rs1 (shamt.setWidth 12))))

/-- SLTI (R264, R265). -/
def execSlti (j : Fin 4) (rd rs1 : Fin 16) (imm : BitVec 12) (s : State) : Out := .next (s.runK j (some (.aluI .slt rd rs1 imm)))

/-- SLTIU (R264, R265). -/
def execSltiu (j : Fin 4) (rd rs1 : Fin 16) (imm : BitVec 12) (s : State) : Out := .next (s.runK j (some (.aluI .sltu rd rs1 imm)))

/-- ADDSI (R264, R265). -/
def execAddsi (j : Fin 4) (rd rs1 : Fin 16) (imm : BitVec 12) (s : State) : Out := .next (s.runK j (some (.aluI .adds rd rs1 imm)))

/-! ## Multiply and MAC (R267) -/

/-- MUL (R267). -/
def execMul (j : Fin 4) (rd rs1 rs2 : Fin 16) (s : State) : Out := .next (s.runK j (some (.mul .mul rd rs1 rs2)))

/-- MULH (R267). -/
def execMulh (j : Fin 4) (rd rs1 rs2 : Fin 16) (s : State) : Out := .next (s.runK j (some (.mul .mulh rd rs1 rs2)))

/-- MULHU (R267). -/
def execMulhu (j : Fin 4) (rd rs1 rs2 : Fin 16) (s : State) : Out := .next (s.runK j (some (.mul .mulhu rd rs1 rs2)))

/-- MAC (R267). -/
def execMac (j : Fin 4) (rd rs1 rs2 : Fin 16) (s : State) : Out := .next (s.runK j (some (.mul .mac rd rs1 rs2)))

/-- MACU (R267). -/
def execMacu (j : Fin 4) (rd rs1 rs2 : Fin 16) (s : State) : Out := .next (s.runK j (some (.mul .macu rd rs1 rs2)))

/-- MSU (R267). -/
def execMsu (j : Fin 4) (rd rs1 rs2 : Fin 16) (s : State) : Out := .next (s.runK j (some (.mul .msu rd rs1 rs2)))

/-! ## Loads, stores, atomics (R268-R275) -/

/-- LB (R268-R274). -/
def execLb (j : Fin 4) (rt rb : Fin 16) (off : BitVec 12) (s : State) (a : TargetAnswer := .data) : Out :=
  .next (s.runK j (some (.load .lb rt rb off)) a).runSteps

/-- LH (R268-R274). -/
def execLh (j : Fin 4) (rt rb : Fin 16) (off : BitVec 12) (s : State) (a : TargetAnswer := .data) : Out :=
  .next (s.runK j (some (.load .lh rt rb off)) a).runSteps

/-- LW (R268-R274). -/
def execLw (j : Fin 4) (rt rb : Fin 16) (off : BitVec 12) (s : State) (a : TargetAnswer := .data) : Out :=
  .next (s.runK j (some (.load .lw rt rb off)) a).runSteps

/-- LD (R268-R274). -/
def execLd (j : Fin 4) (rt rb : Fin 16) (off : BitVec 12) (s : State) (a : TargetAnswer := .data) : Out :=
  .next (s.runK j (some (.load .ld rt rb off)) a).runSteps

/-- LBU (R268-R274). -/
def execLbu (j : Fin 4) (rt rb : Fin 16) (off : BitVec 12) (s : State) (a : TargetAnswer := .data) : Out :=
  .next (s.runK j (some (.load .lbu rt rb off)) a).runSteps

/-- LHU (R268-R274). -/
def execLhu (j : Fin 4) (rt rb : Fin 16) (off : BitVec 12) (s : State) (a : TargetAnswer := .data) : Out :=
  .next (s.runK j (some (.load .lhu rt rb off)) a).runSteps

/-- SB (R268-R272). -/
def execSb (j : Fin 4) (rt rb : Fin 16) (off : BitVec 12) (s : State) : Out := .next (s.runK j (some (.store .sb rt rb off))).runSteps

/-- SH (R268-R272). -/
def execSh (j : Fin 4) (rt rb : Fin 16) (off : BitVec 12) (s : State) : Out := .next (s.runK j (some (.store .sh rt rb off))).runSteps

/-- SW (R268-R272). -/
def execSw (j : Fin 4) (rt rb : Fin 16) (off : BitVec 12) (s : State) : Out := .next (s.runK j (some (.store .sw rt rb off))).runSteps

/-- SD (R268-R272). -/
def execSd (j : Fin 4) (rt rb : Fin 16) (off : BitVec 12) (s : State) : Out := .next (s.runK j (some (.store .sd rt rb off))).runSteps

/-- QSWAP (R275). -/
def execQswap (j : Fin 4) (rd rs1 rs2 : Fin 16) (s : State) (a : TargetAnswer := .data) : Out :=
  .next (s.runK j (some (.swap rd rs1 rs2)) a).runSteps

/-- QFADD (R275). -/
def execQfadd (j : Fin 4) (rd rs1 rs2 : Fin 16) (s : State) (a : TargetAnswer := .data) : Out :=
  .next (s.runK j (some (.fadd rd rs1 rs2)) a).runSteps

/-! ## Branches and jumps (R276) -/

/-- BEQ (R276). -/
def execBeq (j : Fin 4) (rs1 rs2 : Fin 16) (off : BitVec 13) (s : State) : Out := .next (s.runK j (some (.branch .eq rs1 rs2 off)))

/-- BNE (R276). -/
def execBne (j : Fin 4) (rs1 rs2 : Fin 16) (off : BitVec 13) (s : State) : Out := .next (s.runK j (some (.branch .ne rs1 rs2 off)))

/-- BLT (R276). -/
def execBlt (j : Fin 4) (rs1 rs2 : Fin 16) (off : BitVec 13) (s : State) : Out := .next (s.runK j (some (.branch .lt rs1 rs2 off)))

/-- BGE (R276). -/
def execBge (j : Fin 4) (rs1 rs2 : Fin 16) (off : BitVec 13) (s : State) : Out := .next (s.runK j (some (.branch .ge rs1 rs2 off)))

/-- BLTU (R276). -/
def execBltu (j : Fin 4) (rs1 rs2 : Fin 16) (off : BitVec 13) (s : State) : Out := .next (s.runK j (some (.branch .ltu rs1 rs2 off)))

/-- BGEU (R276). -/
def execBgeu (j : Fin 4) (rs1 rs2 : Fin 16) (off : BitVec 13) (s : State) : Out := .next (s.runK j (some (.branch .geu rs1 rs2 off)))

/-- JAL (R276). -/
def execJal (j : Fin 4) (rd : Fin 16) (imm : BitVec 20) (s : State) : Out := .next (s.runK j (some (.jal rd imm)))

/-- JALR (R276). -/
def execJalr (j : Fin 4) (rd rs1 : Fin 16) (imm : BitVec 12) (s : State) : Out := .next (s.runK j (some (.jalr rd rs1 imm)))

/-- LUI (R276). -/
def execLui (j : Fin 4) (rd : Fin 16) (imm : BitVec 20) (s : State) : Out := .next (s.runK j (some (.lui rd imm)))

/-! ## Unit and system instructions (R277) -/

/-- CMD (R277, R298). -/
def execCmd (j : Fin 4) (rs1 rs2 : Fin 16) (s : State) : Out := .next (s.runK j (some (.cmd rs1 rs2))).runSteps

/-- WAITE (R295). -/
def execWaite (j : Fin 4) (rd rs1 rs2 : Fin 16) (s : State) : Out := .next (s.runK j (some (.waite rd rs1 rs2)))

/-- WAITP (R296). -/
def execWaitp (j : Fin 4) (rd rs2 : Fin 16) (w : Fin 4) (s : State) : Out := .next (s.runK j (some (.waitp rd rs2 w)))

/-- FENCE.LINE (R297). -/
def execFenceLine (j : Fin 4) (rd rs2 : Fin 16) (bar : Fin 32) (s : State) : Out := .next (s.runK j (some (.fence rd rs2 bar)))

/-- CRR (R261). -/
def execCrr (j : Fin 4) (rd : Fin 16) (num : BitVec 10) (s : State) : Out := .next (s.runK j (some (.crr rd num)))

/-- CRW (R261, R288). -/
def execCrw (j : Fin 4) (rs1 : Fin 16) (num : BitVec 10) (s : State) : Out := .next (s.runK j (some (.crw rs1 num)))

/-- ERET (R291). -/
def execEret (j : Fin 4) (s : State) : Out := .next (s.runK j (some .eret))

/-- SYNC (R277). -/
def execSync (j : Fin 4) (s : State) : Out := .next (s.runK j (some .sync)).runSteps

/-- PASS (R262). -/
def execPass (j : Fin 4) (s : State) : Out := .next (s.runK j (some .pass))

/-! ## Fetches that trap (R257, R262, R280) -/

/-- Whether a word traps ILLEGAL. -/
def illegalWord (w : Word) : Bool :=
  match decodeK w with
  | some i => !i.legal
  | none => true

/-- ILLEGAL_INSTRUCTION (R261, R262): the word fetched names no instruction or breaks a rule. -/
def execIllegalInstruction (j : Fin 4) (w : Word) (s : State) : Out :=
  .next (if illegalWord w then s.runK j none else s)

/-- Whether the fetch at a pair's PC faults: outside the instruction space, or an uncorrectable word. -/
def State.fetchFaults (s : State) (j : Fin 4) : Bool :=
  decide (0x20000 ≤ (s.pair j).pc) || s.badAt (imemBase j + (s.pair j).pc)

/-- FETCH_FAULT (R257, R276, R280). -/
def execFetchFault (j : Fin 4) (s : State) : Out := .next (if s.fetchFaults j then s.runK j none else s)

/-! ## Unit commands (R299, Table 10.4) -/

/-- A unit command arrives while the sequencers are powered and no reset sequence runs. -/
def State.atSeq (s : State) (f : State → State) : State := if s.seqRun || !s.up .core then s else f s

/-- EVT_RAISE. -/
def execEvtRaise (k : Fin 4) (s : State) : Out := .next (s.atSeq fun s => s.cmdEvtRaise k.val)

/-- WD_KICK of pair j. -/
def execWdKick (j : Fin 4) (s : State) : Out := .next (s.atSeq fun s => s.cmdWdKick j)

/-- PAIR_HALT of pair j. -/
def execPairHalt (j pair : Fin 4) (s : State) : Out := .next (s.atSeq fun s => s.cmdPairHalt j pair)

/-- PAIR_START of pair j. -/
def execPairStart (j pair : Fin 4) (entry : Word) (s : State) : Out := .next (s.atSeq fun s => s.cmdPairStart j pair entry)

/-- FPE_ARM of pair j. -/
def execFpeArm (j : Fin 4) (mask : Word) (s : State) : Out := .next (s.atSeq fun s => s.cmdFpeArm j mask)

/-- RSP_ABANDON of pair j. -/
def execRspAbandon (j : Fin 4) (mask : Word) (s : State) : Out := .next (s.atSeq fun s => s.cmdRspAbandon j mask)

/-- The update word of its fields (Table 3.3a). -/
def updWord (addr : BitVec 18) (pair honor : Bool) (value mask : Byte) : DWord :=
  BitVec.ofNat 64 (addr.toNat + b2n pair * 2 ^ 18 + b2n honor * 2 ^ 19 + value.toNat * 2 ^ 32 + mask.toNat * 2 ^ 40)

/-- NST_PUSH of pair j: the slot is reserved at issue, and a pair that finds none waits (R93, R94). -/
def execNstPush (j : Fin 4) (n : Fin 32) (addr : BitVec 18) (pair honor : Bool) (value mask : Byte) (s : State) : Out :=
  let w := updWord addr pair honor value mask
  .next (s.atSeq fun s =>
    match s.reserveSlot j (.command (BitVec.ofNat 64 (0x1101 * 2 ^ 48 + n.val * 2 ^ 20) ||| w)) with
    | some s => s.cmdNstPush j n w
    | none => s)

/-- CMP_ARM of pair j. -/
def execCmpArm (j w mode : Fin 4) (src trig : Bool) (cam : Fin 4) (target : BitVec 48) (s : State) : Out :=
  .next (s.atSeq fun s => s.cmdCmpArm j w mode.val src trig cam target)

/-- INS_AREQ of pair j. -/
def execInsAreq (j : Fin 4) (w0 : Word) (ovl : BitVec 7) (s : State) : Out := .next (s.atSeq fun s => s.cmdInsAreq j w0 ovl)

/-- GRID_GARM. -/
def execGridGarm (bar : Fin 32) (force : Bool) (line : Word) (s : State) : Out := .next (s.atSeq fun s => s.cmdGridGarm bar force line)

end Sys2Proof.Machine
end

