-- ==== Sys2Proof/Machine/Dispatch.lean ====
section
/-!
DEFINITION. The dispatch of commands: one arm for each constructor of `Instr`, each a call of its meaning.
-/

namespace Sys2Proof.Machine

/-- The effect of a command on everything but the queue. -/
def exec (i : Instr) (s : State) : Host.Outcome State Fault Refusal :=
  match i with
  | .lineTick isns => Sys2Proof.Machine.execLineTick isns s
  | .failoverAnchor => Sys2Proof.Machine.execFailoverAnchor s
  | .loadPoint => Sys2Proof.Machine.execLoadPoint s
  | .pirHalt => Sys2Proof.Machine.execPirHalt s
  | .servoStale => Sys2Proof.Machine.execServoStale s
  | .overspeed => Sys2Proof.Machine.execOverspeed s
  | .reentryTick isns => Sys2Proof.Machine.execReentryTick isns s
  | .statusFrame n f => Sys2Proof.Machine.execStatusFrame n f s
  | .statusLost n => Sys2Proof.Machine.execStatusLost n s
  | .updateWindow n pb => Sys2Proof.Machine.execUpdateWindow n pb s
  | .updateApplyImmediate n pb => Sys2Proof.Machine.execUpdateApplyImmediate n s pb
  | .pairAlone n pb => Sys2Proof.Machine.execPairAlone n s pb
  | .nstUpdLoWrite m n w => Sys2Proof.Machine.execNstUpdLoWrite m n w s
  | .nstUpdHiPush m n w => Sys2Proof.Machine.execNstUpdHiPush m n w s
  | .stalledPush n => Sys2Proof.Machine.execStalledPush n s
  | .mgtPushTimeout n => Sys2Proof.Machine.execMgtPushTimeout n s
  | .flush n => Sys2Proof.Machine.execFlush n s
  | .rasterWrite n off bytes => Sys2Proof.Machine.execRasterWrite n off bytes s
  | .packedPageHeader n => Sys2Proof.Machine.execPackedPageHeader n s
  | .waitDescEnd n => Sys2Proof.Machine.execWaitDescEnd n s
  | .packedToken n pb => Sys2Proof.Machine.execPackedToken n s pb
  | .decodeLineBegin n => Sys2Proof.Machine.execDecodeLineBegin n s
  | .lineDecoded n => Sys2Proof.Machine.execLineDecoded n s
  | .abandon n => Sys2Proof.Machine.execAbandon n s
  | .resetStream n fmt => Sys2Proof.Machine.execResetStream n fmt s
  | .arm n => Sys2Proof.Machine.execArm n s
  | .shadowWrite n r v => Sys2Proof.Machine.execShadowWrite n r v s
  | .garm => Sys2Proof.Machine.execGarm s
  | .globalShadowWrite r v => Sys2Proof.Machine.execGlobalShadowWrite r v s
  | .schedCheck t => Sys2Proof.Machine.execSchedCheck t s
  | .runStart => Sys2Proof.Machine.execRunStart s
  | .runStop => Sys2Proof.Machine.execRunStop s
  | .pagePush n => Sys2Proof.Machine.execPagePush n s
  | .spareLaneWrite n seg en => Sys2Proof.Machine.execSpareLaneWrite n seg en s
  | .hkill low => Sys2Proof.Machine.execHkill low s
  | .gridSwkill on => Sys2Proof.Machine.execGridSwkill on s
  | .fpeSwkill n on => Sys2Proof.Machine.execFpeSwkill n on s
  | .killLatchClear l => Sys2Proof.Machine.execKillLatchClear l s
  | .encoderCount c a b => Sys2Proof.Machine.execEncoderCount c a b s
  | .wireDisagree c w same => Sys2Proof.Machine.execWireDisagree c w same s
  | .wireClear c => Sys2Proof.Machine.execWireClear c s
  | .encoderIndex c => Sys2Proof.Machine.execEncoderIndex c s
  | .indexCorrection c => Sys2Proof.Machine.execIndexCorrection c s
  | .ssiFrameStart data => Sys2Proof.Machine.execSsiFrameStart data s
  | .ssiFrame bits parity mono => Sys2Proof.Machine.execSsiFrame bits parity mono s
  | .ssiFail => Sys2Proof.Machine.execSsiFail s
  | .speedReeval => Sys2Proof.Machine.execSpeedReeval s
  | .standstill c => Sys2Proof.Machine.execStandstill c s
  | .failover => Sys2Proof.Machine.execFailover s
  | .rebase => Sys2Proof.Machine.execRebase s
  | .usePri => Sys2Proof.Machine.execUsePri s
  | .tofCapture t level sub => Sys2Proof.Machine.execTofCapture t level sub s
  | .tofPublish t => Sys2Proof.Machine.execTofPublish t s
  | .comparatorHit c => Sys2Proof.Machine.execComparatorHit c s
  | .xptModeWrite leader => Sys2Proof.Machine.execXptModeWrite leader s
  | .xptStart => Sys2Proof.Machine.execXptStart s
  | .enDelayExpiry => Sys2Proof.Machine.execEnDelayExpiry s
  | .xptStop => Sys2Proof.Machine.execXptStop s
  | .pirRetry => Sys2Proof.Machine.execPirRetry s
  | .swstop on => Sys2Proof.Machine.execSwstop on s
  | .xstopRelease => Sys2Proof.Machine.execXstopRelease s
  | .driveFault => Sys2Proof.Machine.execDriveFault s
  | .frameStart p vc corrected => Sys2Proof.Machine.execFrameStart p vc corrected s
  | .imageLine p k => Sys2Proof.Machine.execImageLine p k s
  | .frameEnd p vc corrected => Sys2Proof.Machine.execFrameEnd p vc corrected s
  | .lineTimeout p => Sys2Proof.Machine.execLineTimeout p s
  | .liveSwitch => Sys2Proof.Machine.execLiveSwitch s
  | .replayStart => Sys2Proof.Machine.execReplayStart s
  | .replayEnd => Sys2Proof.Machine.execReplayEnd s
  | .replayResume => Sys2Proof.Machine.execReplayResume s
  | .swtrig p => Sys2Proof.Machine.execSwtrig p s
  | .trigFall p => Sys2Proof.Machine.execTrigFall p s
  | .strobeRise p => Sys2Proof.Machine.execStrobeRise p s
  | .strobeFall p => Sys2Proof.Machine.execStrobeFall p s
  | .triggerExpire p => Sys2Proof.Machine.execTriggerExpire p s
  | .cciPush p => Sys2Proof.Machine.execCciPush p s
  | .cciCommandDone p e => Sys2Proof.Machine.execCciCommandDone p e s
  | .cciFlush p => Sys2Proof.Machine.execCciFlush p s
  | .cciResultPop p => Sys2Proof.Machine.execCciResultPop p s
  | .insAreqPush => Sys2Proof.Machine.execInsAreqPush s
  | .verdictPop => Sys2Proof.Machine.execVerdictPop s
  | .insTblData write => Sys2Proof.Machine.execInsTblData write s
  | .calPairStart k => Sys2Proof.Machine.execCalPairStart k s
  | .calPairEnd k idx m1 m2 g1 g2 => Sys2Proof.Machine.execCalPairEnd k idx m1 m2 g1 g2 s
  | .calTimeout k idx => Sys2Proof.Machine.execCalTimeout k idx s
  | .calReq k idx => Sys2Proof.Machine.execCalReq k idx s
  | .calQval w => Sys2Proof.Machine.execCalQval w s
  | .etRecordPop => Sys2Proof.Machine.execEtRecordPop s
  | .thermalReading ch v10 v160 => Sys2Proof.Machine.execThermalReading ch v10 v160 s
  | .channelFail ch => Sys2Proof.Machine.execChannelFail ch s
  | .channelRecover ch => Sys2Proof.Machine.execChannelRecover ch s
  | .stage2 n => Sys2Proof.Machine.execStage2 n s
  | .warnClear n => Sys2Proof.Machine.execWarnClear n s
  | .furtherReductionDue n => Sys2Proof.Machine.execFurtherReductionDue n s
  | .thmAck n => Sys2Proof.Machine.execThmAck n s
  | .thmTrippedClear n => Sys2Proof.Machine.execThmTrippedClear n s
  | .chenWrite p v => Sys2Proof.Machine.execChenWrite p v s
  | .add j rd rs1 rs2 => Sys2Proof.Machine.execAdd j rd rs1 rs2 s
  | .sub j rd rs1 rs2 => Sys2Proof.Machine.execSub j rd rs1 rs2 s
  | .and j rd rs1 rs2 => Sys2Proof.Machine.execAnd j rd rs1 rs2 s
  | .or j rd rs1 rs2 => Sys2Proof.Machine.execOr j rd rs1 rs2 s
  | .xor j rd rs1 rs2 => Sys2Proof.Machine.execXor j rd rs1 rs2 s
  | .sll j rd rs1 rs2 => Sys2Proof.Machine.execSll j rd rs1 rs2 s
  | .srl j rd rs1 rs2 => Sys2Proof.Machine.execSrl j rd rs1 rs2 s
  | .sra j rd rs1 rs2 => Sys2Proof.Machine.execSra j rd rs1 rs2 s
  | .slt j rd rs1 rs2 => Sys2Proof.Machine.execSlt j rd rs1 rs2 s
  | .sltu j rd rs1 rs2 => Sys2Proof.Machine.execSltu j rd rs1 rs2 s
  | .min j rd rs1 rs2 => Sys2Proof.Machine.execMin j rd rs1 rs2 s
  | .max j rd rs1 rs2 => Sys2Proof.Machine.execMax j rd rs1 rs2 s
  | .minu j rd rs1 rs2 => Sys2Proof.Machine.execMinu j rd rs1 rs2 s
  | .maxu j rd rs1 rs2 => Sys2Proof.Machine.execMaxu j rd rs1 rs2 s
  | .adds j rd rs1 rs2 => Sys2Proof.Machine.execAdds j rd rs1 rs2 s
  | .subs j rd rs1 rs2 => Sys2Proof.Machine.execSubs j rd rs1 rs2 s
  | .clz j rd rs1 => Sys2Proof.Machine.execClz j rd rs1 s
  | .popc j rd rs1 => Sys2Proof.Machine.execPopc j rd rs1 s
  | .addi j rd rs1 imm => Sys2Proof.Machine.execAddi j rd rs1 imm s
  | .andi j rd rs1 imm => Sys2Proof.Machine.execAndi j rd rs1 imm s
  | .ori j rd rs1 imm => Sys2Proof.Machine.execOri j rd rs1 imm s
  | .xori j rd rs1 imm => Sys2Proof.Machine.execXori j rd rs1 imm s
  | .slli j rd rs1 shamt => Sys2Proof.Machine.execSlli j rd rs1 shamt s
  | .srli j rd rs1 shamt => Sys2Proof.Machine.execSrli j rd rs1 shamt s
  | .srai j rd rs1 shamt => Sys2Proof.Machine.execSrai j rd rs1 shamt s
  | .slti j rd rs1 imm => Sys2Proof.Machine.execSlti j rd rs1 imm s
  | .sltiu j rd rs1 imm => Sys2Proof.Machine.execSltiu j rd rs1 imm s
  | .addsi j rd rs1 imm => Sys2Proof.Machine.execAddsi j rd rs1 imm s
  | .mul j rd rs1 rs2 => Sys2Proof.Machine.execMul j rd rs1 rs2 s
  | .mulh j rd rs1 rs2 => Sys2Proof.Machine.execMulh j rd rs1 rs2 s
  | .mulhu j rd rs1 rs2 => Sys2Proof.Machine.execMulhu j rd rs1 rs2 s
  | .mac j rd rs1 rs2 => Sys2Proof.Machine.execMac j rd rs1 rs2 s
  | .macu j rd rs1 rs2 => Sys2Proof.Machine.execMacu j rd rs1 rs2 s
  | .msu j rd rs1 rs2 => Sys2Proof.Machine.execMsu j rd rs1 rs2 s
  | .lb j rt rb off a => Sys2Proof.Machine.execLb j rt rb off s a
  | .lh j rt rb off a => Sys2Proof.Machine.execLh j rt rb off s a
  | .lw j rt rb off a => Sys2Proof.Machine.execLw j rt rb off s a
  | .ld j rt rb off a => Sys2Proof.Machine.execLd j rt rb off s a
  | .lbu j rt rb off a => Sys2Proof.Machine.execLbu j rt rb off s a
  | .lhu j rt rb off a => Sys2Proof.Machine.execLhu j rt rb off s a
  | .sb j rt rb off => Sys2Proof.Machine.execSb j rt rb off s
  | .sh j rt rb off => Sys2Proof.Machine.execSh j rt rb off s
  | .sw j rt rb off => Sys2Proof.Machine.execSw j rt rb off s
  | .sd j rt rb off => Sys2Proof.Machine.execSd j rt rb off s
  | .qswap j rd rs1 rs2 a => Sys2Proof.Machine.execQswap j rd rs1 rs2 s a
  | .qfadd j rd rs1 rs2 a => Sys2Proof.Machine.execQfadd j rd rs1 rs2 s a
  | .beq j rs1 rs2 off => Sys2Proof.Machine.execBeq j rs1 rs2 off s
  | .bne j rs1 rs2 off => Sys2Proof.Machine.execBne j rs1 rs2 off s
  | .blt j rs1 rs2 off => Sys2Proof.Machine.execBlt j rs1 rs2 off s
  | .bge j rs1 rs2 off => Sys2Proof.Machine.execBge j rs1 rs2 off s
  | .bltu j rs1 rs2 off => Sys2Proof.Machine.execBltu j rs1 rs2 off s
  | .bgeu j rs1 rs2 off => Sys2Proof.Machine.execBgeu j rs1 rs2 off s
  | .jal j rd imm => Sys2Proof.Machine.execJal j rd imm s
  | .jalr j rd rs1 imm => Sys2Proof.Machine.execJalr j rd rs1 imm s
  | .lui j rd imm => Sys2Proof.Machine.execLui j rd imm s
  | .cmd j rs1 rs2 => Sys2Proof.Machine.execCmd j rs1 rs2 s
  | .waite j rd rs1 rs2 => Sys2Proof.Machine.execWaite j rd rs1 rs2 s
  | .waitp j rd rs2 w => Sys2Proof.Machine.execWaitp j rd rs2 w s
  | .fenceLine j rd rs2 bar => Sys2Proof.Machine.execFenceLine j rd rs2 bar s
  | .waitComplete j => Sys2Proof.Machine.execWaitComplete j s
  | .waitTimeout j => Sys2Proof.Machine.execWaitTimeout j s
  | .crr j rd num => Sys2Proof.Machine.execCrr j rd num s
  | .crw j rs1 num => Sys2Proof.Machine.execCrw j rs1 num s
  | .eret j => Sys2Proof.Machine.execEret j s
  | .sync j => Sys2Proof.Machine.execSync j s
  | .pass j => Sys2Proof.Machine.execPass j s
  | .handlerEntry j => Sys2Proof.Machine.execHandlerEntry j s
  | .checkpointClose j => Sys2Proof.Machine.execCheckpointClose j s
  | .checkpointCompare j agree => Sys2Proof.Machine.execCheckpointCompare j agree s
  | .lockstepHalt j => Sys2Proof.Machine.execLockstepHalt j s
  | .restoreDone j => Sys2Proof.Machine.execRestoreDone j s
  | .outputDelivery j bad n => Sys2Proof.Machine.execOutputDelivery j bad s n
  | .evtRaise k => Sys2Proof.Machine.execEvtRaise k s
  | .wdKick j => Sys2Proof.Machine.execWdKick j s
  | .pairHalt j pair => Sys2Proof.Machine.execPairHalt j pair s
  | .pairStart j pair entry => Sys2Proof.Machine.execPairStart j pair entry s
  | .fpeArm j mask => Sys2Proof.Machine.execFpeArm j mask s
  | .rspAbandon j mask => Sys2Proof.Machine.execRspAbandon j mask s
  | .nstPush j n addr pair honor value mask => Sys2Proof.Machine.execNstPush j n addr pair honor value mask s
  | .cmpArm j w mode src trig cam target => Sys2Proof.Machine.execCmpArm j w mode src trig cam target s
  | .insAreq j w0 ovl => Sys2Proof.Machine.execInsAreq j w0 ovl s
  | .gridGarm bar force line => Sys2Proof.Machine.execGridGarm bar force line s
  | .seqStart j => Sys2Proof.Machine.execSeqStart j s
  | .seqHalt j => Sys2Proof.Machine.execSeqHalt j s
  | .haltComplete j => Sys2Proof.Machine.execHaltComplete j s
  | .seqStep j => Sys2Proof.Machine.execSeqStep j s
  | .seqResume j => Sys2Proof.Machine.execSeqResume j s
  | .kdata j write => Sys2Proof.Machine.execKdata j write s
  | .breakpoint j => Sys2Proof.Machine.execBreakpoint j s
  | .seqWdKick m => Sys2Proof.Machine.execSeqWdKick m s
  | .wdWarn => Sys2Proof.Machine.execWdWarn s
  | .watchdogExpire => Sys2Proof.Machine.execWatchdogExpire s
  | .graceExpire => Sys2Proof.Machine.execGraceExpire s
  | .seqBootGo => Sys2Proof.Machine.execSeqBootGo s
  | .bootLoadDone => Sys2Proof.Machine.execBootLoadDone s
  | .romLoadEntry => Sys2Proof.Machine.execRomLoadEntry s
  | .seqSwev mask => Sys2Proof.Machine.execSeqSwev mask s
  | .msixSend v => Sys2Proof.Machine.execMsixSend v s
  | .evtPendClear w mask => Sys2Proof.Machine.execEvtPendClear w mask s
  | .dmaStart c => Sys2Proof.Machine.execDmaStart c s
  | .dmaAbort c => Sys2Proof.Machine.execDmaAbort c s
  | .doorbell c => Sys2Proof.Machine.execDoorbell c s
  | .pollExpiry c => Sys2Proof.Machine.execPollExpiry c s
  | .descriptorFetch c x => Sys2Proof.Machine.execDescriptorFetch c x s
  | .tokenAccrual => Sys2Proof.Machine.execTokenAccrual s
  | .dmaRequestIssue => Sys2Proof.Machine.execDmaRequestIssue s
  | .readCompletion tag x => Sys2Proof.Machine.execReadCompletion tag x s
  | .completionTimeout tag => Sys2Proof.Machine.execCompletionTimeout tag s
  | .descriptorWriteback c => Sys2Proof.Machine.execDescriptorWriteback c s
  | .scrubWriteback b => Sys2Proof.Machine.execScrubWriteback b s
  | .btRegion b found => Sys2Proof.Machine.execBtRegion b found s
  | .memWipe b => Sys2Proof.Machine.execMemWipe b s
  | .wipeDone => Sys2Proof.Machine.execWipeDone s
  | .bar0Access off n write => Sys2Proof.Machine.execBar0Access off n write s
  | .bar2Access off n write => Sys2Proof.Machine.execBar2Access off n write s
  | .dataPortAccess n write off => Sys2Proof.Machine.execDataPortAccess n write s off
  | .configRequest r write => Sys2Proof.Machine.execConfigRequest r write s
  | .tlpViolation t => Sys2Proof.Machine.execTlpViolation t s
  | .linkUp speed width => Sys2Proof.Machine.execLinkUp speed width s
  | .linkDown => Sys2Proof.Machine.execLinkDown s
  | .retrain speed width => Sys2Proof.Machine.execRetrain speed width s
  | .dstateChange d3hot bme => Sys2Proof.Machine.execDstateChange d3hot bme s
  | .ptmTrig => Sys2Proof.Machine.execPtmTrig s
  | .ptmPeriod => Sys2Proof.Machine.execPtmPeriod s
  | .ptmResponse data => Sys2Proof.Machine.execPtmResponse data s
  | .ptmTimeout => Sys2Proof.Machine.execPtmTimeout s
  | .mgtRead cmd addr len crc => Sys2Proof.Machine.execMgtRead cmd addr len crc s
  | .mgtWrite addr data crc => Sys2Proof.Machine.execMgtWrite addr data crc s
  | .mgtAbort afterCrc cmd addr => Sys2Proof.Machine.execMgtAbort afterCrc cmd addr s
  | .wakePattern => Sys2Proof.Machine.execWakePattern s
  | .powerOnReset late => Sys2Proof.Machine.execPowerOnReset s late
  | .brownout => Sys2Proof.Machine.execBrownout s
  | .coldReset lowNs => Sys2Proof.Machine.execColdReset lowNs s
  | .rstCtlWarm m w => Sys2Proof.Machine.execRstCtlWarm m w s
  | .linkReset k => Sys2Proof.Machine.execLinkReset k s
  | .clockLoss what => Sys2Proof.Machine.execClockLoss s what
  | .hostUnlock => Sys2Proof.Machine.execHostUnlock s
  | .xtalFail => Sys2Proof.Machine.execXtalFail s
  | .pllLock => Sys2Proof.Machine.execPllLock s
  | .resetSequence taps => Sys2Proof.Machine.execResetSequence taps s
  | .clkTrainCtl mask => Sys2Proof.Machine.execClkTrainCtl mask s
  | .trainingDone n tap => Sys2Proof.Machine.execTrainingDone n tap s
  | .pwrReqOn => Sys2Proof.Machine.execPwrReqOn s
  | .pwrReqIdle => Sys2Proof.Machine.execPwrReqIdle s
  | .pwrReqStandby force => Sys2Proof.Machine.execPwrReqStandby force s
  | .pwrReqHibernate force => Sys2Proof.Machine.execPwrReqHibernate force s
  | .domainOffRequest mask force => Sys2Proof.Machine.execDomainOffRequest mask force s
  | .domainOnRequest mask => Sys2Proof.Machine.execDomainOnRequest mask s
  | .domDone lost => Sys2Proof.Machine.execDomDone s lost
  | .deferEnd => Sys2Proof.Machine.execDeferEnd s
  | .handshakeTimeout => Sys2Proof.Machine.execHandshakeTimeout s
  | .stateEntry => Sys2Proof.Machine.execStateEntry s
  | .entryAbandon => Sys2Proof.Machine.execEntryAbandon s
  | .linkWake src => Sys2Proof.Machine.execLinkWake src s
  | .pinWake src x => Sys2Proof.Machine.execPinWake src s x
  | .stateExit lost taps => Sys2Proof.Machine.execStateExit lost taps s
  | .program m word => Sys2Proof.Machine.execProgram m word s
  | .margin m word expect => Sys2Proof.Machine.execMargin m word expect s
  | .sealSlot m region slot => Sys2Proof.Machine.execSeal m region slot s
  | .cntAdvance m cnt n => Sys2Proof.Machine.execCntAdvance m cnt n s
  | .lcAdvance m arg => Sys2Proof.Machine.execLcAdvance m arg s
  | .otpCommandDone fails => Sys2Proof.Machine.execOtpCommandDone fails s
  | .otpWordRead m word => Sys2Proof.Machine.execOtpWordRead m word s
  | .otpCntRead k => Sys2Proof.Machine.execOtpCntRead k s
  | .snapshotRead m which => Sys2Proof.Machine.execSnapshotRead m which s
  | .rcRead m reg => Sys2Proof.Machine.execRcRead m reg s
  | .registerWrite m reg w => Sys2Proof.Machine.execRegisterWrite m reg w s
  | .xfltAcceptedHigh => Sys2Proof.Machine.execXfltAcceptedHigh s
  | .illegalInstruction j w => Sys2Proof.Machine.execIllegalInstruction j w s
  | .fetchFault j => Sys2Proof.Machine.execFetchFault j s
  | .deskewSequence p => Sys2Proof.Machine.execDeskewSequence p s
  | .ulpsChange p on => Sys2Proof.Machine.execUlpsChange p on s
  | .hostPllLock => Sys2Proof.Machine.execHostPllLock s
  | .perstNRelease => Sys2Proof.Machine.execPerstNRelease s
  | .xtalRunning => Sys2Proof.Machine.execXtalRunning s
  | .powerRemoval => Sys2Proof.Machine.execPowerRemoval s

end Sys2Proof.Machine
end

