-- ==== Sys2Proof/Machine/Pins.lean ====
section
/-!
DEFINITION. What the signal balls show: Table 16.8 as a function of the state (16 R455, R456; 13 R388, R392;
06 R174, R194; 07 Table 7.4; 12 R372; 14 R414; 17 R463). Where a domain that is on drives a ball as its chapter says by
a waveform, the ball is `driven`.
-/

namespace Sys2Proof.Machine

/-- The signal balls of Table 16.8; n is a port, p a camera port, c an encoder channel. HKILL_N and TST_MODE go with
`aonDown`, the inputs with a pull-down; XFLT_N, RESET_N and MG_CS_N with `aonUp`, those with a pull-up; MG_SCK, MG_MOSI
and PERST_N with `aonPlain`. -/
inductive Ball where
  | headData (n : Fin 32)
  | headStrobe (n : Fin 32)
  | headReturn (n : Fin 32)
  | supplySetpoint (n : Fin 32)
  | sense (n : Fin 32)
  | boardSense
  | encoderAB (c : Fin 4)
  | encoderZ (c : Fin 4)
  | ssiData
  | ssiClock
  | command
  | enableN
  | stopN
  | tof (t : Fin 4)
  | aonDown
  | aonUp
  | aonPlain
  | mgMiso
  | wakeN
  | clkreqN
  | xtal
  | sysclk
  | camTrigger (p : Fin 4)
  | camStrobe (p : Fin 4)
  | camControl (p : Fin 4)
  | camLanes (p : Fin 4)
  | pcie
  deriving DecidableEq, Repr

/-- The state of a ball: low or high (a pair at differential 0 is low), high-impedance or released, clamped to
VSSA, receiving, biased with its receiver off, driven by its block, an oscillator that runs, or the command pair at a
code. -/
inductive PinState where
  | low | high | open | clamped | receives | biased | driven | runs
  | code (c : Int)
  deriving DecidableEq, Repr

/-- The supply of a ball's drivers and receivers; none where the AON regulator feeds them from VDD_18 (Table 16.3). -/
def Ball.supply : Ball → Option Supply
  | .headData _ => some .hl
  | .headStrobe _ => some .hl
  | .headReturn _ => some .hl
  | .supplySetpoint _ => some .analog
  | .sense _ => some .analog
  | .boardSense => some .analog
  | .encoderAB _ => some .analog
  | .encoderZ _ => some .analog
  | .ssiData => some .analog
  | .ssiClock => some .analog
  | .command => some .analog
  | .sysclk => some .analog
  | .camTrigger _ => some .io33
  | .camStrobe _ => some .io33
  | .camControl _ => some .io33
  | .camLanes _ => some .csi
  | .pcie => some .pe
  | _ => none

/-- Whether a supply is within its range (17 R463); the PCI Express balls need both of theirs. -/
def State.supplied (s : State) (v : Supply) : Bool :=
  s.power.late.all fun x => (x.1 != v && !(v == .pe && x.1 == .peh)) || decide (x.2 ≤ s.now)

/-- A level as a pin state. -/
def levelPin (up : Bool) : PinState := if up then .high else .low

/-- The state that a ball has by its three columns: during a device reset, its domain off, its domain on. -/
def State.column (s : State) (d : Domain) (reset off on : PinState) : PinState :=
  if s.seqRun then reset else if s.up d then on else off

/-- Whether a strobe of camera port p stands high. -/
def State.strobeHigh (s : State) (p : Fin 4) : Bool :=
  match (s.cam p).strobe with | some x => x.high | none => false

/-- Whether a wake source is enabled. -/
def State.wakeEnabled (s : State) (src : Nat) : Bool := (s.reg A.PWR_WAKE_EN).getLsbD src

/-- The state of a ball whose supply is within range (Table 16.8). -/
def State.suppliedBall (s : State) : Ball → PinState
  | .headData n => s.column (barDomain n) .low .open (if s.trained n then .driven else .low)
  | .headStrobe n => s.column (barDomain n) .low .open (if s.trained n && !s.portKilled n then .driven else .low)
  | .headReturn n => s.column (barDomain n) .receives .open .receives
  | .supplySetpoint _ => s.column .ana .clamped .clamped .driven
  | .sense _ => s.column .ana .open .open .receives
  | .boardSense => s.column .ana .open .open .receives
  | .encoderAB c => s.column .pos .receives (if s.wakeEnabled (4 + c.val) then .receives else .biased) .receives
  | .encoderZ _ => s.column .pos .receives .biased .receives
  | .ssiData => s.column .pos .receives .biased .receives
  | .ssiClock => s.column .pos .high .open .driven
  | .command => s.column .ana (.code 0) (.code 0) (if s.up .pos then .code s.xpt.pin else .code 0)
  | .enableN => s.column .pos .high .high (levelPin (!s.xenLow))
  | .stopN => s.column .pos .low (levelPin (!s.power.xstopKept)) (levelPin (!s.bit F.XPT_STATUS_XSTOP))
  | .tof _ => .receives
  | .aonDown => .receives
  | .aonUp => .receives
  | .aonPlain => .receives
  | .mgMiso => s.column .core .open .open (if s.bit F.MGT_CFG_EN && s.mgCsLow then .driven else .open)
  | .wakeN => if !s.seqRun && s.hl.wakeLow then .low else .open
  | .clkreqN => if s.seqRun || s.g F.PWR_STATUS_STATE == 3 then .open else .driven
  | .xtal => if s.bit F.CLK_CFG_XTAL_EN then .runs else .open
  | .sysclk => .receives
  | .camTrigger p => s.column .cam .low .open (levelPin (s.cam p).trigHigh)
  | .camStrobe p => s.column .cam .low .open (levelPin (s.strobeHigh p))
  | .camControl p => s.column .cam .open .open (if (s.cam p).cciRun.isSome then .driven else .open)
  | .camLanes _ => s.column .cam .receives .open .receives
  | .pcie => if s.up .host then (if s.hl.held then .open else .driven) else .open

/-- The state of a ball. A device without supplies drives nothing, and a ball whose own supply has not come within
range is high-impedance until it has (17 R463). -/
def State.ball (s : State) (b : Ball) : PinState :=
  if s.power.off || !(b.supply.all s.supplied) then .open else s.suppliedBall b

end Sys2Proof.Machine
end

