-- ==== Sys2Proof/Safety.lean ====
section
/-!
DEFINITION. What a safe run is, in the terms the statements use: steps that answer a next state, the
canonical forms that the state keeps, when a command completes, when a pair executes, and what it means that
only a named part of the state changes.
-/

namespace Sys2Proof.Machine

/-- The sparse maps of the state are in their canonical form: memory, register file, snapshots. -/
def State.canonical (s : State) : Bool :=
  Memory.wf s.mem && Cells.wf resetWord s.regs && Cells.wf (fun _ => 0#32) s.snaps

/-- Every bit burned in either copy of one OTP array is burned in another (15 R423). -/
def Otp.within (o q : Otp) : Prop :=
  (∀ w i, (Cells.get otpBlank o.strong0 w).getLsbD i = true → (Cells.get otpBlank q.strong0 w).getLsbD i = true)
    ∧ ∀ w i, (Cells.get otpBlank o.strong1 w).getLsbD i = true → (Cells.get otpBlank q.strong1 w).getLsbD i = true

/-- A state from which `n` steps answer next states. -/
def runsFor : Nat → State → Prop
  | 0, _ => True
  | n + 1, s => ∃ t, step s = .next t ∧ runsFor n t

/-- A command completes: `exec` answers a next state, of which `P` holds. -/
def Completes (c : Instr) (s : State) (P : State → Prop) : Prop := ∃ t, exec c s = .next t ∧ P t

/-- A write to the register at `off` reaches its block: no reset sequence runs and its domain is on. -/
abbrev State.takes (s : State) (off : Nat) : Prop := s.seqRun = false ∧ s.blockUp off = true

/-- The registers of the event router that raising an event may change: pending bits and PBA. -/
def routerReg (a : Nat) : Prop := (0x40400 ≤ a ∧ a < 0x40420) ∨ (0x49000 ≤ a ∧ a < 0x49008)

/-- Only register words change, and of those only the listed ones. -/
def State.onlyRegs (s t : State) (xs : List Nat) : Prop :=
  t = { s with regs := t.regs } ∧ ∀ a, a ∉ xs → t.reg a = s.reg a

/-- Only the listed register words change, with what raising events changes: router registers, pending
slots of the pairs, messages sent. -/
def State.onlyRegsAndEvents (s t : State) (xs : List Nat) : Prop :=
  t = { s with regs := t.regs, pairs := t.pairs, linkOut := t.linkOut }
    ∧ (∀ a, a ∉ xs → ¬ routerReg a → t.reg a = s.reg a)
    ∧ ∀ j : Fin 4, t.pair j = { s.pair j with cr := (t.pair j).cr }

/-- A counter has counted once, saturating at its width. -/
def State.counted (s t : State) (f : Field) : Prop := t.g f = min (s.g f + 1) (2 ^ f.w - 1)

/-- Only bar `n` changes. -/
def State.onlyBar (s t : State) (n : Fin 32) : Prop :=
  t = { s with bars := t.bars } ∧ ∀ m, m ≠ n → t.bar m = s.bar m

/-- Only bar `n` and the listed register words change. -/
def State.onlyBarAndRegs (s t : State) (n : Fin 32) (xs : List Nat) : Prop :=
  t = { s with bars := t.bars, regs := t.regs } ∧ (∀ m, m ≠ n → t.bar m = s.bar m)
    ∧ ∀ a, a ∉ xs → t.reg a = s.reg a

/-- Only pair `j` changes. -/
def State.onlyPair (s t : State) (j : Fin 4) : Prop :=
  t = { s with pairs := t.pairs } ∧ ∀ k, k ≠ j → t.pair k = s.pair k

/-- Pair `j` executes its next instruction at once: it runs, outside the boot ROM, at no breakpoint, its PC in
the instruction space, with no checkpoint due by time, no error word in the memories and no single step of a
pair requested (09 R257, R281; 10 R302, R310). -/
def State.executes (s : State) (j : Fin 4) : Bool :=
  s.runs j && !s.inRom j && !s.atBreak j && decide ((s.pair j).pc < 0x20000) && !(s.pair j).closeDue s.now
    && s.ceBad.isEmpty && s.ueBad.isEmpty && (List.finRange 4).all fun k => !(s.pair k).stepReq

/-- The instruction of pair `j` retires with `v` in register `rd` (a write to K0 is discarded), the next one
at `pc`; of the core control registers only those in `crs` may differ. -/
def State.retires (s t : State) (j : Fin 4) (rd : Fin 16) (v : Word) (pc : Nat) (crs : List Nat) : Prop :=
  s.onlyPair t j ∧ (t.pair j).pc = pc ∧ (t.pair j).mode = (s.pair j).mode
    ∧ (∀ r, (t.pair j).kr r = if r = rd ∧ rd ≠ 0 then v else (s.pair j).kr r)
    ∧ ∀ n, n ∉ crs → (t.pair j).ccr n = (s.pair j).ccr n

/-- Pair `j` traps with `code` and `addr`: the TRAP registers and the trap return registers are written, the
level becomes 9, the pc becomes VBASE, and nothing else changes (09 R280; 10 R292). -/
def State.trapsTo (s t : State) (j : Fin 4) (code addr : Nat) : Prop :=
  let p := s.pair j
  let q := t.pair j
  s.onlyPair t j ∧ (∀ r, q.kr r = p.kr r) ∧ q.mode = p.mode
    ∧ q.ccr 0x005 = BitVec.ofNat 32 code ∧ q.ccr 0x006 = BitVec.ofNat 32 p.pc ∧ q.ccr 0x007 = BitVec.ofNat 32 addr
    ∧ q.ccr 0x028 = BitVec.ofNat 32 p.pc ∧ q.ccr 0x029 = BitVec.ofNat 32 p.level
    ∧ q.level = 9 ∧ (q.ccr 0x010).toNat / 16 = (p.ccr 0x010).toNat / 16 ∧ q.pc = (p.ccr 0x011).toNat
    ∧ ∀ n, n ∉ [0x005, 0x006, 0x007, 0x010, 0x028, 0x029] → q.ccr n = p.ccr n

/-- Every register of a pair that a program reads is as it was, but for the control registers in `crs`. -/
def Pair.sameRegs (p q : Pair) (crs : List Nat) : Prop :=
  (∀ r, q.kr r = p.kr r) ∧ ∀ n, n ∉ crs → q.ccr n = p.ccr n

/-- Pair `j` stays at its instruction until every earlier interval has passed and every earlier output has reached its
target: the checkpoint before it has closed, now or already (10 R302; log 47). -/
def State.closesFor (s t : State) (j : Fin 4) : Prop :=
  let p := s.pair j
  let q := t.pair j
  s.onlyPair t j ∧ q.pc = p.pc ∧ q.mode = p.mode ∧ q.ready = p.ready ∧ q.cur.pre = true
    ∧ (p.cur.pre = true → q = p)
    ∧ (p.cur.pre = false → p.sameRegs q [0x030] ∧ q.ccr 0x030 = p.ccr 0x030 + 1 ∧ q.cur.outs = []
        ∧ ∃ x, q.closed = p.closed ++ [x] ∧ x.outs = p.cur.outs ∧ x.closeT = s.now)

/-- Only memory and pair `j` change. -/
def State.onlyPairAndMemory (s t : State) (j : Fin 4) : Prop :=
  t = { s with pairs := t.pairs, mem := t.mem } ∧ ∀ k, k ≠ j → t.pair k = s.pair k

/-- The bytes at `a` are `bs`, and every other byte of memory is as it was. -/
def State.stored (s t : State) (a : Nat) (bs : List Byte) : Prop :=
  ∀ x, t.byteAt x = if a ≤ x ∧ x < a + bs.length then bs.getD (x - a) 0 else s.byteAt x

/-- Pair k runs from `entry`, its registers as a start leaves them (R308): K14 is SP, every other register 0, the
core control registers at their reset values but for STARTINFO. -/
def State.startedAt (s t : State) (k : Fin 4) (entry how : Nat) : Prop :=
  let q := t.pair k
  q.mode = .running ∧ q.pc = entry
    ∧ (∀ r, q.kr r = if r = 14 then BitVec.ofNat 32 (s.g (F.SEQ_Pj_SP_V k) / 8 * 8) else 0#32)
    ∧ (∀ n, n ≠ 0x032 → q.ccr n = ccrReset n)
    ∧ q.ccr 0x032 = BitVec.ofNat 32 (how + s.g (F.SEQ_Pj_STATUS_HALT_CAUSE k) * 2 ^ 8)
    ∧ t.g (F.SEQ_Pj_STATUS_HALT_CAUSE k) = 0 ∧ t.mem = s.mem ∧ ∀ m, m ≠ k → t.pair m = s.pair m

/-- A device reset of a level asserts with a cause and its code (13 R390, R393, Table 13.5): the sequence begins;
everything the level clears is at its reset state; the OTP array, which a command that burns may have changed up to its
stop (15 R444), what the pins show (HKILL_N, XFLT_N, the die temperature), and for a warm reset the host port without
its PTM dialog and the kept registers stay; RST_LAST takes the code when no reset sequence ran. -/
def State.resetBy (s t : State) (l : ResetLevel) (cause : Field) (code : Nat) : Prop :=
  let time := if l = .powerOn then 0 else s.now
  t = { State.reset with
      pending := s.pending, fresh := t.fresh, resp := s.resp, linkOut := s.linkOut, now := time, regs := t.regs
      snaps := [], hkillLow := s.hkillLow, otp := t.otp
      power := { xfltLow := s.power.xfltLow, dieTemp := s.power.dieTemp, late := t.power.late }
      clk := { level := l, cause := t.clk.cause, resetT := time, hostLost := s.clk.hostLost, perst := s.clk.perst }
      hl := if l = .warm then { s.hl with dialog := none, ptmT := 0 } else {} }
    ∧ (∀ a, a ∉ [A.RST_CAUSE, A.RST_LAST, A.RST_WARM_COUNT, A.XPT_LASTRUN, A.CLK_STATUS] →
        t.reg a = if l.keeps a then s.reg a else resetWord a)
    ∧ t.otp.cmd = none ∧ s.otp.within t.otp
    ∧ ((∀ op, s.otp.cmd ≠ some ⟨op, none⟩) → t.otp = { s.otp with cmd := none } ∧ t.fresh = s.fresh)
    ∧ t.bit cause = true ∧ (s.seqRun = false → t.g F.RST_LAST_V = code ∧ t.clk.cause = l)
    ∧ (l = .warm → s.counted t F.RST_WARM_COUNT_V)
    ∧ (l ≠ .powerOn → ∀ i, s.bit ⟨A.RST_CAUSE, i, 1⟩ = true → t.bit ⟨A.RST_CAUSE, i, 1⟩ = true)

end Sys2Proof.Machine
end

