-- ==== Sys2Proof/Certificates/Slice0/Obligations.lean ====
section
/-!
DEFINITION. The statements for the provers, family by family. Each docstring names the rules of spec/ it
formalises; where a clause rests on a choice of the model it names the log entry.
-/

open Sys2Proof Sys2Proof.Machine

/-! ## The machine -/

/-- A step with a command at the front of the queue is the command's effect on the state with the rest of the queue
(the block's form; log entry 1). -/
def Obligations.StepRunsFrontCommand : Prop :=
  ∀ (c : Instr) (s : State),
    step { s with pending := c :: s.pending } = exec c s

/-- With no command waiting one count of the timestamp base passes, of the length its source gives: 1 ns of the PLL,
1/32,768 s of the crystal, 62.5 ns of the RC oscillator (13 R382); nothing else changes while no page record waits and
the device neither sleeps nor has a power request; without supplies nothing happens. That a step on an empty queue is
such a count is the model's choice (log entry 1). -/
def Obligations.EmptyQueueCountsTime : Prop :=
  ∀ s : State, s.pending = [] →
    ∃ t, step s = .next t
      ∧ ((∀ n, (s.bar n).closing = none) → s.power.req = none → s.g F.PWR_STATUS_STATE < 2 → t = { s with now := t.now })
      ∧ (s.power.off = true → t = s)
      ∧ (s.power.off = false → s.bit F.CLK_STATUS_MAIN_LOCK = true → t.now = s.now + ns 1)
      ∧ (s.power.off = false → s.bit F.CLK_STATUS_MAIN_LOCK = false →
          (s.bit F.CLK_CFG_XTAL_EN && s.bit F.CLK_STATUS_XTAL_OK) = true → 32768 * (t.now - s.now) = ns 1000000000)
      ∧ (s.power.off = false → s.bit F.CLK_STATUS_MAIN_LOCK = false →
          (s.bit F.CLK_CFG_XTAL_EN && s.bit F.CLK_STATUS_XTAL_OK) = false → 10 * (t.now - s.now) = ns 625)

/-! ## Krytis cores (chapter 09) -/

/-- The register forms of Table 9.5 without saturation (09 R260, R264): each writes its result to K[rd], a write to K0
is discarded, the pc moves to the next word, and nothing else changes. CLZ counts the 0 bits above the highest 1 bit,
32 of a word that is 0; POPC counts the 1 bits (Table 9.5). -/
def Obligations.RegisterArithmeticAndBitCountResults : Prop :=
  (∀ (s : State) (j : Fin 4) (rd rs1 rs2 : Fin 16), s.executes j = true →
    let a := (s.pair j).kr rs1
    let b := (s.pair j).kr rs2
    let gives := fun (c : Instr) (v : Word) => Completes c s fun t => s.retires t j rd v ((s.pair j).pc + 4) []
    gives (.add j rd rs1 rs2) (a + b)
      ∧ gives (.sub j rd rs1 rs2) (a - b)
      ∧ gives (.and j rd rs1 rs2) (a &&& b)
      ∧ gives (.or j rd rs1 rs2) (a ||| b)
      ∧ gives (.xor j rd rs1 rs2) (a ^^^ b)
      ∧ gives (.sll j rd rs1 rs2) (BitVec.ofNat 32 (a.toNat * 2 ^ (b.toNat % 32)))
      ∧ gives (.srl j rd rs1 rs2) (BitVec.ofNat 32 (a.toNat / 2 ^ (b.toNat % 32)))
      ∧ gives (.sra j rd rs1 rs2) (BitVec.ofInt 32 (a.toInt / 2 ^ (b.toNat % 32)))
      ∧ gives (.slt j rd rs1 rs2) (if a.slt b then 1#32 else 0#32)
      ∧ gives (.sltu j rd rs1 rs2) (if a.ult b then 1#32 else 0#32)
      ∧ gives (.min j rd rs1 rs2) (BitVec.ofInt 32 (min a.toInt b.toInt))
      ∧ gives (.max j rd rs1 rs2) (BitVec.ofInt 32 (max a.toInt b.toInt))
      ∧ gives (.minu j rd rs1 rs2) (BitVec.ofNat 32 (min a.toNat b.toNat))
      ∧ gives (.maxu j rd rs1 rs2) (BitVec.ofNat 32 (max a.toNat b.toNat)))
    ∧ (∀ (s : State) (j : Fin 4) (rd rs1 : Fin 16), s.executes j = true →
    let a := (s.pair j).kr rs1
    (∀ n : Nat, (a = 0#32 → n = 32) → (a ≠ 0#32 → n < 32 ∧ a.getLsbD (31 - n) = true ∧ ∀ i, 31 - n < i →
        a.getLsbD i = false) →
      Completes (.clz j rd rs1) s fun t => s.retires t j rd (BitVec.ofNat 32 n) ((s.pair j).pc + 4) [])
    ∧ Completes (.popc j rd rs1) s fun t =>
        s.retires t j rd (BitVec.ofNat 32 ((List.range 32).countP fun i => a.getLsbD i)) ((s.pair j).pc + 4) [])

/-- The immediate forms of Table 9.5 (09 R264, R265): ADDI, SLTI and SLTIU extend the sign of imm12, ANDI, ORI and
XORI extend it with zeros, the shifts take five bits. -/
def Obligations.ImmediateArithmeticResults : Prop :=
  ∀ (s : State) (j : Fin 4) (rd rs1 : Fin 16) (imm : BitVec 12) (sh : BitVec 5), s.executes j = true →
    let a := (s.pair j).kr rs1
    let gives := fun (c : Instr) (v : Word) => Completes c s fun t => s.retires t j rd v ((s.pair j).pc + 4) []
    gives (.addi j rd rs1 imm) (BitVec.ofInt 32 (a.toInt + imm.toInt))
      ∧ gives (.andi j rd rs1 imm) (BitVec.ofNat 32 (a.toNat &&& imm.toNat))
      ∧ gives (.ori j rd rs1 imm) (BitVec.ofNat 32 (a.toNat ||| imm.toNat))
      ∧ gives (.xori j rd rs1 imm) (BitVec.ofNat 32 (a.toNat ^^^ imm.toNat))
      ∧ gives (.slli j rd rs1 sh) (BitVec.ofNat 32 (a.toNat * 2 ^ sh.toNat))
      ∧ gives (.srli j rd rs1 sh) (BitVec.ofNat 32 (a.toNat / 2 ^ sh.toNat))
      ∧ gives (.srai j rd rs1 sh) (BitVec.ofInt 32 (a.toInt / 2 ^ sh.toNat))
      ∧ gives (.slti j rd rs1 imm) (if a.toInt < imm.toInt then 1#32 else 0#32)
      ∧ gives (.sltiu j rd rs1 imm) (if a.toNat < (imm.signExtend 32).toNat then 1#32 else 0#32)

/-- ADDS, SUBS and ADDSI saturate to the signed range of 32 bits (Table 9.5), and a saturated result sets SAT, which a
result in range leaves as it was (09 R266). The multiplies and the MAC forms of Table 9.6 (09 R266, R267): MUL, MULH
and MULHU write the low half, the high half of the signed product and the high half of the unsigned one; MAC, MSU and
MACU accumulate in the pair K[rd], K[rd + 1], rd even and from 2 to 12, saturating, and a saturated result sets SAT;
with any other rd they trap ILLEGAL. -/
def Obligations.SaturatingAndMultiplyResults : Prop :=
  (∀ (s : State) (j : Fin 4) (rd rs1 rs2 : Fin 16) (imm : BitVec 12), s.executes j = true →
    let a := (s.pair j).kr rs1
    let b := (s.pair j).kr rs2
    let gives := fun (c : Instr) (x : Int) => Completes c s fun t =>
      s.retires t j rd (BitVec.ofInt 32 (max (-2 ^ 31) (min (2 ^ 31 - 1) x))) ((s.pair j).pc + 4) [0x003]
        ∧ (t.pair j).ccr 0x003 = if x < -2 ^ 31 ∨ 2 ^ 31 - 1 < x then 1#32 else (s.pair j).ccr 0x003
    gives (.adds j rd rs1 rs2) (a.toInt + b.toInt)
      ∧ gives (.subs j rd rs1 rs2) (a.toInt - b.toInt)
      ∧ gives (.addsi j rd rs1 imm) (a.toInt + imm.toInt))
    ∧ (∀ (s : State) (j : Fin 4) (rd rs1 rs2 : Fin 16), s.executes j = true →
    let p := s.pair j
    let a := p.kr rs1
    let b := p.kr rs2
    let gives := fun (c : Instr) (v : Word) => Completes c s fun t => s.retires t j rd v (p.pc + 4) []
    (gives (.mul j rd rs1 rs2) (BitVec.ofNat 32 (a.toNat * b.toNat))
      ∧ gives (.mulh j rd rs1 rs2) (BitVec.ofInt 32 (a.toInt * b.toInt / 2 ^ 32))
      ∧ gives (.mulhu j rd rs1 rs2) (BitVec.ofNat 32 (a.toNat * b.toNat / 2 ^ 32)))
    ∧ (rd.val % 2 = 0 → 2 ≤ rd.val → rd.val ≤ 12 →
      let acc : Int := (p.kr (odd rd)).toInt * 2 ^ 32 + (p.kr rd).toNat
      let uacc : Nat := (p.kr (odd rd)).toNat * 2 ^ 32 + (p.kr rd).toNat
      let sums := fun (c : Instr) (y : Int) (lo hi : Int) => Completes c s fun t =>
        let z := max lo (min hi y)
        s.onlyPair t j ∧ (t.pair j).pc = p.pc + 4
          ∧ (t.pair j).kr rd = BitVec.ofInt 32 z ∧ (t.pair j).kr (odd rd) = BitVec.ofInt 32 (z / 2 ^ 32)
          ∧ (∀ r, r ≠ rd → r ≠ odd rd → (t.pair j).kr r = p.kr r)
          ∧ ((t.pair j).ccr 0x003 = if y < lo ∨ hi < y then 1#32 else p.ccr 0x003)
          ∧ ∀ n, n ≠ 0x003 → (t.pair j).ccr n = p.ccr n
      sums (.mac j rd rs1 rs2) (acc + a.toInt * b.toInt) (-2 ^ 63) (2 ^ 63 - 1)
        ∧ sums (.msu j rd rs1 rs2) (acc - a.toInt * b.toInt) (-2 ^ 63) (2 ^ 63 - 1)
        ∧ sums (.macu j rd rs1 rs2) ((uacc : Int) + a.toNat * b.toNat) 0 (2 ^ 64 - 1))
    ∧ ((rd.val % 2 ≠ 0 ∨ rd.val < 2 ∨ 12 < rd.val) → p.level < 9 →
      ∀ c ∈ [Instr.mac j rd rs1 rs2, .macu j rd rs1 rs2, .msu j rd rs1 rs2], Completes c s fun t =>
          s.trapsTo t j 2 0))

/-- A load of the pair's own data memory (09 R268, R269, R270, Table 9.7) reads the bytes at its effective address, at
any alignment, and extends them as its name says; LD writes an even-odd pair of registers. Nothing else changes. -/
def Obligations.OwnMemoryLoadResults : Prop :=
  ∀ (s : State) (j : Fin 4) (rt rb : Fin 16) (off : BitVec 12) (ans : TargetAnswer), s.executes j = true →
    let p := s.pair j
    let a := (p.kr rb + off.signExtend 32).toNat
    let byte := fun i => (s.byteAt (dmemBase j + (a - 0x10000000) + i)).toNat
    let here := fun n => 0x10000000 ≤ a ∧ a + n ≤ 0x10020000 ∧ (rb = 14 → (p.ccr 0x004).toNat ≤ a)
    let gives := fun (c : Instr) (n : Nat) (v : Word) =>
      here n → Completes c s fun t => s.retires t j rt v (p.pc + 4) []
    let half := byte 0 + 2 ^ 8 * byte 1
    let word := half + 2 ^ 16 * byte 2 + 2 ^ 24 * byte 3
    gives (.lb j rt rb off ans) 1 (BitVec.ofInt 32 (if byte 0 < 2 ^ 7 then byte 0 else (byte 0 : Int) - 2 ^ 8))
      ∧ gives (.lbu j rt rb off ans) 1 (BitVec.ofNat 32 (byte 0))
      ∧ gives (.lh j rt rb off ans) 2 (BitVec.ofInt 32 (if half < 2 ^ 15 then half else (half : Int) - 2 ^ 16))
      ∧ gives (.lhu j rt rb off ans) 2 (BitVec.ofNat 32 half)
      ∧ gives (.lw j rt rb off ans) 4 (BitVec.ofNat 32 word)
      ∧ (rt.val % 2 = 0 → here 8 → Completes (.ld j rt rb off ans) s fun t =>
          s.onlyPair t j ∧ (t.pair j).pc = p.pc + 4 ∧ (t.pair j).mode = p.mode ∧ (t.pair j).cr = p.cr
            ∧ ∀ r, (t.pair j).kr r =
              if r = odd rt then BitVec.ofNat 32 (byte 4 + 2 ^ 8 * byte 5 + 2 ^ 16 * byte 6 + 2 ^ 24 * byte 7)
              else if r = rt ∧ rt ≠ 0 then BitVec.ofNat 32 word
              else p.kr r)

/-- A store into the pair's own data memory (09 R268, R269, R270, Table 9.7) writes the low bytes of K[rt], for SD
those of K[rt] and K[rt + 1], least significant first at the effective address; every other byte of memory and every
register stays, but for CKPTS, which a full undo record moves (10 R302). -/
def Obligations.OwnMemoryStoreResults : Prop :=
  ∀ (s : State) (j : Fin 4) (rt rb : Fin 16) (off : BitVec 12), s.executes j = true →
    let p := s.pair j
    let a := (p.kr rb + off.signExtend 32).toNat
    let part := fun (w : Word) (i : Nat) => BitVec.ofNat 8 (w.toNat / 2 ^ (8 * i))
    let word := fun (w : Word) => [part w 0, part w 1, part w 2, part w 3]
    let stores := fun (c : Instr) (bs : List Byte) =>
      0x10000000 ≤ a → a + bs.length ≤ 0x10020000 → (rb = 14 → (p.ccr 0x004).toNat ≤ a) →
        Completes c s fun t =>
          s.onlyPairAndMemory t j ∧ s.stored t (dmemBase j + (a - 0x10000000)) bs
            ∧ (t.pair j).pc = p.pc + 4 ∧ (t.pair j).mode = p.mode ∧ p.sameRegs (t.pair j) [0x030]
    stores (.sb j rt rb off) [part (p.kr rt) 0]
      ∧ stores (.sh j rt rb off) [part (p.kr rt) 0, part (p.kr rt) 1]
      ∧ stores (.sw j rt rb off) (word (p.kr rt))
      ∧ (rt.val % 2 = 0 → stores (.sd j rt rb off) (word (p.kr rt) ++ word (p.kr (odd rt))))

/-- A load from Quadrille returns, for each byte, what the newest store in the commit buffer wrote there, else the
byte in Quadrille, at any alignment (09 R270, R273); from another bank of the memory space, aligned, the bytes there,
and zeros from a hole (09 R269, R270; 01 R25); a target that answers with an error traps BUS (09 R280). A load from the
register space reads the register once the checkpoint before it has closed, every earlier interval has passed and every
earlier output has reached its target; re-executed it takes the recorded value (09 R274; 10 R302, R304). A store
outside the pair's own memory and CMD enter the commit buffer, as one entry or, crossing a word in Quadrille, as two,
and change nothing else; where they find no room the checkpoint closes and they wait; an output that pushes into an
update FIFO takes a slot there first, and stays where it is while the FIFO is full (09 R271, R272, R277; 03 R93). That
an access which waits is given again, and closes its checkpoint when it is first given, is log entry 47. -/
def Obligations.AccessesThroughTheCommitBuffer : Prop :=
  (∀ (s : State) (j : Fin 4) (rt rb : Fin 16) (off : BitVec 12), s.executes j = true →
    let p := s.pair j
    let a := (p.kr rb + off.signExtend 32).toNat
    let m := a - 0x40000000
    (rb = 14 → (p.ccr 0x004).toNat ≤ a) →
    let traps := fun (c : TargetAnswer → Instr) => p.level < 9 → Completes (c .error) s fun t => s.trapsTo t j 7 a
    let takesPair := fun (u t : State) (lo hi : Nat) =>
      u.onlyPair t j ∧ (t.pair j).pc = ((u.pair j).pc + 4) % 2 ^ 32 ∧ ∀ r, (t.pair j).kr r =
        if r = odd rt then BitVec.ofNat 32 hi else if r = rt ∧ rt ≠ 0 then BitVec.ofNat 32 lo else (u.pair j).kr r
    let reads := fun (byte : Nat → Nat) (fit : Nat → Prop) =>
      let half := byte 0 + 2 ^ 8 * byte 1
      let word := half + 2 ^ 16 * byte 2 + 2 ^ 24 * byte 3
      let gives := fun (c : TargetAnswer → Instr) (n : Nat) (v : Word) => fit n →
        Completes (c .data) s (fun t => s.retires t j rt v (p.pc + 4) []) ∧ traps c
      gives (fun x => .lb j rt rb off x) 1 (BitVec.ofInt 32 (if byte 0 < 2 ^ 7 then byte 0 else (byte 0 : Int) - 2 ^ 8))
        ∧ gives (fun x => .lbu j rt rb off x) 1 (BitVec.ofNat 32 (byte 0))
        ∧ gives (fun x => .lh j rt rb off x) 2 (BitVec.ofInt 32 (if half < 2 ^ 15 then half else (half : Int) - 2 ^ 16))
        ∧ gives (fun x => .lhu j rt rb off x) 2 (BitVec.ofNat 32 half)
        ∧ gives (fun x => .lw j rt rb off x) 4 (BitVec.ofNat 32 word)
        ∧ (rt.val % 2 = 0 → fit 8 →
            Completes (.ld j rt rb off .data) s (fun t =>
              takesPair s t word (byte 4 + 2 ^ 8 * byte 5 + 2 ^ 16 * byte 6 + 2 ^ 24 * byte 7))
            ∧ traps fun x => .ld j rt rb off x)
    let newest := fun x => (p.outputs.filterMap fun o => match o with
      | .store b bs => if b ≤ x ∧ x < b + bs.length then bs[x - b]? else none
      | .command _ => none).getLast?
    let unit := fun (c : TargetAnswer → Instr) (n : Nat) (takes : State → State → List Byte → Prop) => a % n = 0 →
      let r := s.regsRead (pairMaster j) a n
      (p.replay = none → p.settled = true → Completes (c .data) s (fun t => takes r.1 t r.2) ∧ traps c)
        ∧ (p.replay = none → p.settled = false → ∀ x, Completes (c x) s fun t => s.closesFor t j)
        ∧ ∀ bs, p.replay = some (.value bs) → ∀ x, Completes (c x) s fun t => takes s t bs
    (0x44000000 ≤ a → (∀ b, 64 ≤ b → b < 68 → (s.bank (bankIx b)).wiping = false) →
      reads (fun i => ((newest (a + i)).getD (s.byteAt (m + i))).toNat) fun n => a + n ≤ 0x44400000)
    ∧ ((0x40000000 ≤ a ∧ a < 0x44000000) ∨ (0x44400000 ≤ a ∧ a < 0x80000000) →
        a < 0x45000000 + j.val * 0x40000 ∨ 0x45000000 + (j.val + 1) * 0x40000 ≤ a →
      (∀ b o, bankOf m = some (b, o) → b ≠ 74 → s.bankUp b = true → (s.bank (bankIx b)).wiping = false →
        reads (fun i => (s.byteAt (m + i)).toNat) fun n => a % n = 0)
      ∧ (bankOf m = none → reads (fun _ => 0) fun n => a % n = 0))
    ∧ (a < 0x01000000 →
        unit (fun x => .lw j rt rb off x) 4 (fun u t bs =>
          u.retires t j rt (BitVec.ofNat 32 (leNat bs)) (((u.pair j).pc + 4) % 2 ^ 32) [])
        ∧ (rt.val % 2 = 0 → unit (fun x => .ld j rt rb off x) 8 fun u t bs =>
            takesPair u t (leNat bs) (leNat bs / 2 ^ 32))))
    ∧ (∀ (s : State) (j : Fin 4) (rs1 rs2 rb : Fin 16) (off : BitVec 12), s.executes j = true →
    let p := s.pair j
    let a := (p.kr rb + off.signExtend 32).toNat
    let bytes := leBytes 4 (p.kr rs1).toNat
    let enters := fun (c : Instr) (os : List Output) => p.buffered + os.length ≤ 32 →
      Completes c s fun t =>
        s.onlyPair t j ∧ (t.pair j).outputs = p.outputs ++ os ∧ (t.pair j).pc = p.pc + 4
          ∧ (t.pair j).mode = p.mode ∧ p.sameRegs (t.pair j) []
    let word : DWord := p.kr rs2 ++ p.kr rs1
    ((rb = 14 → (p.ccr 0x004).toNat ≤ a) →
      (a < 0x00FFFFFF → a % 4 = 0 → pushesBar (.store a bytes) = none →
        enters (.sw j rs1 rb off) [.store a bytes])
      ∧ (0x44000000 ≤ a → a + 4 ≤ 0x44400000 → a % 8 ≤ 4 → enters (.sw j rs1 rb off) [.store a bytes])
      ∧ (0x44000000 ≤ a → a + 4 ≤ 0x44400000 → 4 < a % 8 →
          enters (.sw j rs1 rb off) [.store a (bytes.take (8 - a % 8)), .store (a + (8 - a % 8)) (bytes.drop (8 - a % 8))]
            ∧ (31 ≤ p.buffered → Completes (.sw j rs1 rb off) s fun t => s.closesFor t j)))
    ∧ (32 ≤ p.buffered → Completes (.cmd j rs1 rs2) s fun t => s.closesFor t j)
    ∧ (pushesBar (.command word) = none → enters (.cmd j rs1 rs2) [.command word])
    ∧ ∀ n : Fin 32, pushesBar (.command word) = some n.val → s.up (barDomain n) = true →
        (1024 ≤ (s.bar n).nst.level → p.buffered < 32 → Completes (.cmd j rs1 rs2) s fun t => t = s)
        ∧ ((s.bar n).nst.level < 1024 → p.buffered < 32 → Completes (.cmd j rs1 rs2) s fun t =>
            t = { s with bars := t.bars, pairs := t.pairs } ∧ (t.pair j).outputs = p.outputs ++ [.command word]
              ∧ (t.pair j).pc = p.pc + 4
              ∧ (Cells.find? (t.bar n).nst.reserved (pairMaster j).key).getD 0
                  = (Cells.find? (s.bar n).nst.reserved (pairMaster j).key).getD 0 + 1))

/-- Where a load or a store traps (09 R258, R268, R270, R280): below SLIM through K14, outside one region of the data
space, and unaligned in the register space; it performs no access, and writes nothing but the trap registers, the
level and the pc. -/
def Obligations.DataAccessTraps : Prop :=
  ∀ (s : State) (j : Fin 4) (rt rb : Fin 16) (off : BitVec 12) (ans : TargetAnswer) (c : Instr) (n : Nat),
    s.executes j = true →
    ((c, n) ∈ [(.lb j rt rb off ans, 1), (.lh j rt rb off ans, 2), (.lw j rt rb off ans, 4), (.lbu j rt rb off ans, 1),
        (.lhu j rt rb off ans, 2), (.sb j rt rb off, 1), (.sh j rt rb off, 2), (.sw j rt rb off, 4)]
      ∨ rt.val % 2 = 0 ∧ (c, n) ∈ [(.ld j rt rb off ans, 8), (.sd j rt rb off, 8)]) →
    (s.pair j).level < 9 →
    let a := ((s.pair j).kr rb + off.signExtend 32).toNat
    let own := 0x45000000 + j.val * 0x40000
    let inStack := rb = 14 → ((s.pair j).ccr 0x004).toNat ≤ a
    (rb = 14 → a < ((s.pair j).ccr 0x004).toNat → Completes c s fun t => s.trapsTo t j 3 a)
      ∧ (inStack → (0x01000000 ≤ a ∧ a < 0x10000000) ∨ (0x10020000 ≤ a ∧ a < 0x40000000) ∨ 0x80000000 ≤ a
            ∨ (own ≤ a ∧ a < own + 0x40000) → Completes c s fun t => s.trapsTo t j 4 a)
      ∧ (inStack → (∃ b ∈ [0x01000000, 0x10020000, 0x44000000, 0x44400000, own, 0x80000000], a < b ∧ b < a + n) →
          Completes c s fun t => s.trapsTo t j 4 a)
      ∧ (inStack → a + n ≤ 0x01000000 → n < 4 ∨ a % n ≠ 0 → Completes c s fun t => s.trapsTo t j 5 a)

/-- QSWAP and QFADD, once the checkpoint before them has closed, every earlier interval has passed and every earlier
output has reached its target (09 R275; 10 R302, R303): K[rd] takes the old word of Quadrille, the word takes K[rs2] or
the sum, and nothing else changes. One that Quadrille answers with an error traps BUS and changes no memory (09 R280).
Before that they close the checkpoint and wait (log entry 47). -/
def Obligations.AtomicResults : Prop :=
  ∀ (s : State) (j : Fin 4) (rd rs1 rs2 : Fin 16), s.executes j = true →
    let p := s.pair j
    let a := (p.kr rs1).toNat
    let m := a - 0x40000000
    let old := BitVec.ofNat 32 (s.numAt m 4)
    0x44000000 ≤ a → a + 4 ≤ 0x44400000 → a % 4 = 0 → p.replay = none →
      (∀ b, 64 ≤ b → b < 68 → (s.bank (bankIx b)).wiping = false) →
      ∀ (c : TargetAnswer → Instr) (new : Word),
        (c, new) ∈ [(fun x => Instr.qswap j rd rs1 rs2 x, p.kr rs2), (fun x => .qfadd j rd rs1 rs2 x, old + p.kr rs2)] →
        (p.settled = true →
          Completes (c .data) s (fun t =>
            s.onlyPairAndMemory t j ∧ s.stored t m (leBytes 4 new.toNat) ∧ (t.pair j).pc = p.pc + 4
              ∧ (t.pair j).mode = p.mode ∧ (∀ r, (t.pair j).kr r = if r = rd ∧ rd ≠ 0 then old else p.kr r)
              ∧ ∀ n, (t.pair j).ccr n = p.ccr n)
          ∧ (p.level < 9 → Completes (c .error) s fun t => s.trapsTo t j 7 a))
        ∧ (p.settled = false → ∀ ans, Completes (c ans) s fun t => s.closesFor t j)

/-- Branches, jumps, LUI and PASS (09 R262, R276, Table 9.9): the new pc, the link, and nothing else; and a fetch at a
target outside the instruction space traps FETCH, with the target in TRAP_PC. -/
def Obligations.BranchAndJumpResults : Prop :=
  ∀ (s : State) (j : Fin 4) (rd rs1 rs2 : Fin 16) (off : BitVec 13) (imm : BitVec 12) (imm20 : BitVec 20),
    let p := s.pair j
    (s.runs j = true → s.inRom j = false → s.atBreak j = false → p.closeDue s.now = false → p.stepReq = false →
      0x20000 ≤ p.pc → p.level < 9 → Completes (.fetchFault j) s fun t =>
        s.trapsTo t j 1 0 ∧ (t.pair j).ccr 0x006 = BitVec.ofNat 32 p.pc)
    ∧ (s.executes j = true →
    let a := p.kr rs1
    let b := p.kr rs2
    let target := fun (x : Int) => ((p.pc + x) % 2 ^ 32).toNat
    let branches := fun (c : Instr) (taken : Prop) =>
      (taken → Completes c s fun t => s.retires t j 0 0 (target (4 * off.toInt)) [])
        ∧ (¬ taken → Completes c s fun t => s.retires t j 0 0 (p.pc + 4) [])
    let link := BitVec.ofNat 32 (p.pc + 4)
    branches (.beq j rs1 rs2 off) (a = b)
      ∧ branches (.bne j rs1 rs2 off) (a ≠ b)
      ∧ branches (.blt j rs1 rs2 off) (a.toInt < b.toInt)
      ∧ branches (.bge j rs1 rs2 off) (b.toInt ≤ a.toInt)
      ∧ branches (.bltu j rs1 rs2 off) (a.toNat < b.toNat)
      ∧ branches (.bgeu j rs1 rs2 off) (b.toNat ≤ a.toNat)
      ∧ Completes (.jal j rd imm20) s (fun t => s.retires t j rd link (target (4 * imm20.toInt)) [])
      ∧ Completes (.jalr j rd rs1 imm) s (fun t =>
          s.retires t j rd link ((a + imm.signExtend 32).toNat / 4 * 4) [])
      ∧ Completes (.lui j rd imm20) s (fun t =>
          s.retires t j rd (BitVec.ofNat 32 (imm20.toNat * 2 ^ 12)) (p.pc + 4) [])
      ∧ Completes (.pass j) s (fun t => s.retires t j 0 0 (p.pc + 4) []))

/-- CRR reads and CRW writes the core control registers of Tables 9.2 and 10.2, with their masks; a read of CYCLE
(0x001) takes the upper half of the count into CYCLE_HI (0x002); a number that is not assigned, or RO on a write, traps
ILLEGAL (09 R261; 10 R288). ERET (10 R291): at a handler's level it returns to EPC_L
and EPRV_L, at the trap level to EPCT and EPRVT; in the thread it traps ILLEGAL. -/
def Obligations.ControlRegistersAndEret : Prop :=
  (∀ (s : State) (j : Fin 4) (r : Fin 16) (num : BitVec 10), s.executes j = true →
    let p := s.pair j
    let n := num.toNat
    let w := p.kr r
    let cycles := (s.now - p.startT) / ns 1
    let reads := fun (v : Word) => Completes (.crr j r num) s fun t => s.retires t j r v (p.pc + 4) []
    let writes := fun (v : Word) => Completes (.crw j r num) s fun t =>
      s.retires t j 0 0 (p.pc + 4) [n] ∧ (t.pair j).ccr n = v
    let known := n ≤ 7 ∨ (0x010 ≤ n ∧ n ≤ 0x013) ∨ (0x018 ≤ n ∧ n ≤ 0x029) ∨ (0x030 ≤ n ∧ n ≤ 0x032)
      ∨ (0x040 ≤ n ∧ n ≤ 0x05F)
    let readOnly := n ≤ 2 ∨ (5 ≤ n ∧ n ≤ 7) ∨ n = 0x013 ∨ (0x030 ≤ n ∧ n ≤ 0x032)
    (n = 0x000 → reads (BitVec.ofNat 32 j))
      ∧ (n = 0x001 → Completes (.crr j r num) s fun t =>
          s.retires t j r (BitVec.ofNat 32 cycles) (p.pc + 4) []
            ∧ (t.pair j).cycHi = BitVec.ofNat 32 (cycles / 2 ^ 32))
      ∧ (n = 0x002 → reads p.cycHi)
      ∧ (3 ≤ n → known → reads (p.ccr n))
      ∧ (n = 0x003 → writes (w &&& 1#32))
      ∧ (n = 0x004 → writes (w &&& 0xFFFFFFF8#32))
      ∧ (n = 0x010 → writes ((p.ccr n &&& 0xFFFFFFEF#32) ||| (w &&& 0x10#32)))
      ∧ (n = 0x011 → writes (w &&& 0xFFFFFFC0#32))
      ∧ (n = 0x012 → writes (p.ccr n &&& ~~~w))
      ∧ ((0x018 ≤ n ∧ n ≤ 0x01F) ∨ n = 0x028 → writes (w &&& 0xFFFFFFFC#32))
      ∧ ((0x020 ≤ n ∧ n ≤ 0x027) ∨ n = 0x029 → writes (w &&& 0xF#32))
      ∧ (0x040 ≤ n → n ≤ 0x05F → Completes (.crw j r num) s fun t =>
          s.retires t j 0 0 (p.pc + 4) [n, 0x012] ∧ (t.pair j).ccr n = w &&& 0x1FFF#32
            ∧ ∀ i, ((t.pair j).ccr 0x012).getLsbD i = (decide (i ≠ n - 0x040) && (p.ccr 0x012).getLsbD i))
      ∧ (¬ known → p.level < 9 → Completes (.crr j r num) s fun t => s.trapsTo t j 2 0)
      ∧ (¬ known ∨ readOnly → p.level < 9 → Completes (.crw j r num) s fun t => s.trapsTo t j 2 0))
    ∧ (∀ (s : State) (j : Fin 4), s.executes j = true →
    let p := s.pair j
    let returns := fun (pc level : Word) => Completes (.eret j) s fun t =>
      s.retires t j 0 0 pc.toNat [0x010] ∧ (t.pair j).level = level.toNat % 16
        ∧ ((t.pair j).ccr 0x010).toNat / 16 = (p.ccr 0x010).toNat / 16
    (p.level ≤ 7 → returns (p.ccr (0x018 + p.level)) (p.ccr (0x020 + p.level)))
      ∧ (p.level = 9 → returns (p.ccr 0x028) (p.ccr 0x029))
      ∧ (p.level = 8 → Completes (.eret j) s fun t => s.trapsTo t j 2 0))

/-- A word that names no instruction or breaks a rule traps ILLEGAL; a fetch outside the instruction space traps
FETCH; at the trap level a trap stops the pair with cause DOUBLE_TRAP (09 R257, R262, R276; 10 R292); its halt ends
once the checkpoint that closes with it has passed (10 R309). That a double trap closes its checkpoint and waits for it
(halting 5) is the model's choice (log entry 47), and that levels 10 to 15, which no rule names, count with level 9 is
log entry 49's. -/
def Obligations.IllegalWordAndFetchFaultTrap : Prop :=
  ∀ (s : State) (j : Fin 4) (w : Word),
    let p := s.pair j
    let halts := fun (c : Instr) => Completes c s fun t =>
      s.onlyPair t j ∧ (t.pair j).mode = .halting 5 ∧ (t.pair j).outputs = p.outputs ∧ (t.pair j).cur.outs = []
        ∧ (t.pair j).pc = p.pc ∧ ∀ r, (t.pair j).kr r = p.kr r
    (s.executes j = true → (∀ i, decodeK w = some i → i.legal = false) →
      (p.level < 9 → Completes (.illegalInstruction j w) s fun t => s.trapsTo t j 2 0)
        ∧ (9 ≤ p.level → halts (.illegalInstruction j w)))
    ∧ (s.runs j = true → s.inRom j = false → s.atBreak j = false → p.closeDue s.now = false → p.stepReq = false →
        0x20000 ≤ p.pc →
        (p.level < 9 → Completes (.fetchFault j) s fun t => s.trapsTo t j 1 0)
          ∧ (9 ≤ p.level → halts (.fetchFault j)))

/-- WAITE, WAITP and FENCE.LINE close the checkpoint and begin a wait on the slots of K[rs1], on comparator 4j + w, or on
the next line tick, with the timeout of K[rs2] in SEQ cycles, none for 0xFFFFFFFF; a timeout of 0 tests the condition
once, and re-executed the wait takes the recorded code (10 R294 to R297, R302, R304). A wait ends once every earlier
interval has passed (10 R301, R304): with the lowest awaited slot that is pending and not delivered now, which it
clears; with 0 on the comparator's hit, NOT_ARMED when it is not armed; with the tick's number, NOT_RUNNING when no line
can come; and with TIMEOUT at its deadline (10 R294 to R297, Table 10.3). That a condition met at the deadline ends the
wait, and none after it, is log entry 90's choice; that the code of a wait whose earlier intervals have not passed is
kept until they have is log entry 47's. -/
def Obligations.WaitsBeginAndComplete : Prop :=
  (∀ (s : State) (j : Fin 4) (rd rs1 rs2 : Fin 16) (w : Fin 4) (bar : Fin 32), s.executes j = true →
    let p := s.pair j
    let t := p.kr rs2
    let deadline := if t = 0xFFFFFFFF#32 then none else some (s.now + ns t.toNat)
    let closed := fun (q : Pair) => if p.cur.pre = true then q.closed = p.closed
      else ∃ x, q.closed = p.closed ++ [x] ∧ x.outs = p.cur.outs ∧ x.closeT = s.now
    let waits := fun (c : Instr) (cond : WaitFor) (code : Option Word) => Completes c s fun u =>
      s.onlyPair u j ∧ (u.pair j).pc = p.pc ∧ p.sameRegs (u.pair j) [0x030] ∧ (u.pair j).ready = p.ready
        ∧ closed (u.pair j) ∧ (u.pair j).mode = .waiting { cond := cond, rd := rd, deadline := deadline, code := code }
    let goesOn := fun (c : Instr) (code : Word) => Completes c s fun u =>
      s.onlyPair u j ∧ (u.pair j).mode = .running ∧ (u.pair j).pc = (p.pc + 4) % 2 ^ 32
        ∧ ∀ r, (u.pair j).kr r = if r = rd ∧ rd ≠ 0 then code else p.kr r
    ∀ (c : Instr) (cond : WaitFor),
      (c, cond) ∈ [(.waite j rd rs1 rs2, .slots (p.kr rs1)),
          (.waitp j rd rs2 w, .comparator (Fin.ofNat 16 (4 * j.val + w.val))), (.fenceLine j rd rs2 bar, .line bar s.tick)] →
        let tested := (s.waitCode p cond).getD 0x80000001#32
        (p.replay = none → t ≠ 0#32 → waits c cond none)
        ∧ (p.replay = none → t = 0#32 → p.cur.pre = true → p.closed = [] → goesOn c tested)
        ∧ (p.replay = none → t = 0#32 → p.cur.pre = false ∨ p.closed ≠ [] → waits c cond (some tested))
        ∧ ∀ code, p.replay = some (.code code) → goesOn c code)
    ∧ (∀ (s : State) (j : Fin 4) (w : Wait), s.waitOf j = some w → (s.pair j).stepReq = false →
    let p := s.pair j
    let ends := fun (c : Instr) (code : Word) (crs : List Nat) (P : State → Prop) =>
      (p.closed = [] → Completes c s fun t =>
        s.onlyPair t j ∧ (t.pair j).mode = .running ∧ (t.pair j).pc = (p.pc + 4) % 2 ^ 32
          ∧ (∀ r, (t.pair j).kr r = if r = w.rd ∧ w.rd ≠ 0 then code else p.kr r)
          ∧ (∀ n, n ∉ crs → (t.pair j).ccr n = p.ccr n) ∧ P t)
      ∧ (p.closed ≠ [] → Completes c s fun t =>
        s.onlyPair t j ∧ t.pair j = { p with mode := .waiting { w with code := some code } })
    let clears := fun (i : Nat) (t : State) =>
      ∀ k, ((t.pair j).ccr 0x012).getLsbD k = (decide (k ≠ i) && (p.ccr 0x012).getLsbD k)
    let inTime := ∀ d, w.deadline = some d → s.now ≤ d
    let meets := fun (mask : Word) (i : Nat) => mask.getLsbD i = true ∧ (p.ccr 0x012).getLsbD i = true
        ∧ p.nextSlot ≠ some i
    (∀ code, w.code = some code → ∀ c ∈ [Instr.waitComplete j, .waitTimeout j],
      ((∀ mask, w.cond ≠ .slots mask) ∨ code.getLsbD 31 = true → ends c code [] fun _ => True)
      ∧ ∀ mask, w.cond = .slots mask → code.toNat < 32 → ends c code [0x012] (clears code.toNat))
    ∧ (w.code = none →
    (∀ mask, w.cond = .slots mask →
      (∀ i, i < 32 → meets mask i → (∀ k, k < i → ¬ meets mask k) → inTime →
        ends (.waitComplete j) (BitVec.ofNat 32 i) [0x012] (clears i))
      ∧ ((∀ i, i < 32 → ¬ meets mask i) → (∃ d, w.deadline = some d ∧ d ≤ s.now) →
          ends (.waitTimeout j) 0x80000001#32 [] fun _ => True))
    ∧ (∀ c, w.cond = .comparator c →
        let hit := s.bit ⟨A.POS_CMP_CAUSE, c.val, 1⟩
        let armed := s.bit (F.POS_CMPc_CTL_ARM c)
        (hit = true → inTime → ends (.waitComplete j) 0#32 [] fun _ => True)
        ∧ (hit = false → armed = false → inTime → ends (.waitComplete j) 0x80000002#32 [] fun _ => True)
        ∧ (hit = false → armed = true → (∃ d, w.deadline = some d ∧ d ≤ s.now) →
            ends (.waitTimeout j) 0x80000001#32 [] fun _ => True))
    ∧ (∀ b k, w.cond = .line b k →
        let able := s.bit F.GRID_CTL_RUN && s.bit (F.FPE_CTL_EN b) && s.up (barDomain b)
        (k < s.tick → inTime → ends (.waitComplete j) (BitVec.ofNat 32 ((k + 1) % 2 ^ 31)) [] fun _ => True)
        ∧ (s.tick ≤ k → able = false → inTime → ends (.waitComplete j) 0x80000003#32 [] fun _ => True)
        ∧ (s.tick ≤ k → able = true → (∃ d, w.deadline = some d ∧ d ≤ s.now) →
            ends (.waitTimeout j) 0x80000001#32 [] fun _ => True))
    ∧ ((∃ d, w.deadline = some d ∧ d < s.now) → ends (.waitTimeout j) 0x80000001#32 [] fun _ => True)))

/-- A slot is deliverable when EN, VEC, its pending bit and STATUS.IE are 1 and its level ranks above the current one;
delivery takes the deliverable slot of the highest level, the lowest of those (10 R289). The checkpoint closes before
the entry, which comes once every earlier interval has passed (10 R302, R304); a wait ends with INTERRUPTED first (10
R294). Delivery of slot i at level L (10 R290): EPC_L and EPRV_L save the pc and the level, the level becomes L, ESLOT
becomes i, the slot's pending bit clears, the pc becomes VBASE + 0x20 + 4 L; an ERET then returns to where the pair was,
at its level (10 R291). That the close and the entry are two commands is log entry 47's choice, that levels 10 to 15 let
nothing be delivered is log entry 49's. -/
def Obligations.HandlerEntryTakesTheHighestSlot : Prop :=
  (∀ p : Pair,
    let level := fun i => Word.field (p.ccr (0x040 + i)) 8 3
    (∀ i, i < 32 → (p.deliverable i = true ↔
      (p.ccr (0x040 + i)).getLsbD 11 = true ∧ (p.ccr (0x040 + i)).getLsbD 12 = true ∧ (p.ccr 0x012).getLsbD i = true
        ∧ (p.ccr 0x010).getLsbD 4 = true ∧ (p.level = 8 ∨ (p.level < 8 ∧ p.level < level i))))
      ∧ (p.nextSlot = none ↔ ∀ i, i < 32 → p.deliverable i = false)
      ∧ ∀ i, p.nextSlot = some i →
          i < 32 ∧ p.deliverable i = true ∧ (p.ccr 0x012).getLsbD i = true
            ∧ ∀ k, k < 32 → p.deliverable k = true → level k < level i ∨ (level k = level i ∧ i ≤ k))
    ∧ (∀ (s : State) (j : Fin 4) (i : Nat), s.runs j = true → (s.pair j).stepReq = false → (s.pair j).replay = none →
      (s.pair j).nextSlot = some i →
    let p := s.pair j
    let l := Word.field (p.ccr (0x040 + i)) 8 3
    let kicked := if s.inRom j = true then { s.boot with kickT := s.now, warned := false } else s.boot
    (p.cur.pre = false → Completes (.handlerEntry j) s fun t =>
      let q := t.pair j
      s.onlyPair t j ∧ q.mode = .running ∧ q.pc = p.pc ∧ p.sameRegs q [0x030] ∧ q.ccr 0x030 = p.ccr 0x030 + 1
        ∧ q.nextSlot = some i ∧ q.cur.pre = true
        ∧ ∃ x, q.closed = p.closed ++ [x] ∧ x.outs = p.cur.outs ∧ x.closeT = s.now)
    ∧ (p.cur.pre = true → p.closed = [] → Completes (.handlerEntry j) s fun t =>
      let q := t.pair j
      s.onlyPair { t with boot := s.boot } j ∧ t.boot = kicked ∧ q.mode = .running ∧ q.level = l ∧ q.pc = ((p.ccr 0x011).toNat + 0x20 + 4 * l) % 2 ^ 32
        ∧ q.ccr (0x018 + l) = BitVec.ofNat 32 p.pc ∧ q.ccr (0x020 + l) = BitVec.ofNat 32 p.level
        ∧ q.ccr 0x013 = BitVec.ofNat 32 i
        ∧ (∀ k, (q.ccr 0x012).getLsbD k = (decide (k ≠ i) && (p.ccr 0x012).getLsbD k))
        ∧ p.sameRegs q [0x010, 0x012, 0x013, 0x018 + l, 0x020 + l]
        ∧ (t.executes j = true → p.pc < 2 ^ 32 → Completes (.eret j) t fun u =>
            (u.pair j).pc = p.pc ∧ (u.pair j).level = p.level ∧ ∀ r, (u.pair j).kr r = p.kr r)))
    ∧ ∀ (s : State) (j : Fin 4) (w : Wait), s.waitOf j = some w → (s.pair j).stepReq = false →
      (s.pair j).replay = none → (s.pair j).nextSlot ≠ none → (s.pair j).closed = [] →
    let p := s.pair j
    Completes (.handlerEntry j) s fun t =>
      let q := t.pair j
      s.onlyPair t j ∧ q.mode = .running ∧ q.pc = (p.pc + 4) % 2 ^ 32 ∧ q.nextSlot = p.nextSlot ∧ q.cur.pre = true
        ∧ ∀ r, q.kr r = if r = w.rd ∧ w.rd ≠ 0 then 0x80000004#32 else p.kr r

/-! ## Krytis system (chapter 10) -/

/-- A checkpoint that is due closes with the outputs of its interval (R302); the oldest closed interval passes 8 ns
after its close when the cores agree, and its outputs may leave the buffer (R301, R303); an output then reaches its
target, or reports BUS_ERROR; SYNC closes the checkpoint before it, and completes once every earlier interval has
passed and every output has reached its target (09 R277). Where the rules leave a choice: log entries 46, 47. -/
def Obligations.CheckpointsPassAndOutputsArrive : Prop :=
  ∀ (s : State) (j : Fin 4), s.seqRun = false → s.up .core = true →
    let p := s.pair j
    let clean := s.ceBad = [] ∧ s.ueBad = [] ∧ ∀ k, (s.pair k).stepReq = false
    (s.runs j = true → p.closeDue s.now = true → Completes (.checkpointClose j) s fun t =>
      let q := t.pair j
      s.onlyPair t j ∧ q.pc = p.pc ∧ q.mode = p.mode ∧ p.sameRegs q [0x030] ∧ q.ccr 0x030 = p.ccr 0x030 + 1
        ∧ q.ready = p.ready ∧ q.cur.outs = []
        ∧ ∃ x, q.closed = p.closed ++ [x] ∧ x.outs = p.cur.outs ∧ x.closeT = s.now)
    ∧ (∀ i r, p.closed = i :: r → p.restoring = none → i.closeT + ns 8 ≤ s.now →
        Completes (.checkpointCompare j true) s fun t =>
          let q := t.pair j
          s.onlyPair t j ∧ q.closed = r ∧ q.ready = p.ready ++ i.outs ∧ q.pc = p.pc ∧ q.mode = p.mode
            ∧ p.sameRegs q [])
    ∧ (∀ a bs, clean → 0x44000000 ≤ a → a + bs.length ≤ 0x44400000 →
        (p.ready = [.store a bs] →
          (Completes (.outputDelivery j none) s fun t =>
            s.onlyPairAndMemory t j ∧ s.stored t (a - 0x40000000) bs ∧ (t.pair j).ready = []
                ∧ p.sameRegs (t.pair j) [])
          ∧ Completes (.outputDelivery j (some 0)) s fun t =>
            t.mem = s.mem ∧ (t.pair j).ready = [] ∧ t.g (F.SEQ_Pj_OUTERR_V j) = a
              ∧ t.bit (F.SEQ_Pj_CAUSE_OUT_ERR j) = true ∧ ∀ r, (t.pair j).kr r = p.kr r))
    ∧ (s.executes j = true →
        (p.settled = true → Completes (.sync j) s fun t => s.retires t j 0 0 (p.pc + 4) [])
        ∧ (p.settled = false → Completes (.sync j) s fun t => s.closesFor t j))

/-- A failed comparison (R281, R293, R305, R306): K0 to K15, the pc, SAT, SLIM, STATUS and VBASE take their values at
the checkpoint, the TRAP registers and CKPTS stay, the written words of data memory return, every output that has not
passed is discarded; the pair runs again from there, or halts with cause LOCKSTEP at the third failed retry within 1
ms. A restore ends (R304 to R306): RESTORING clears, and a recorded handler entry is repeated. Where the rules leave a
choice: log entry 55. -/
def Obligations.FailedComparisonRestoresTheCheckpoint : Prop :=
  (∀ (s : State) (j : Fin 4) (i : Interval) (rest : List Interval), s.seqRun = false → s.up .core = true →
    s.ceBad = [] → s.ueBad = [] → (s.pair j).closed = i :: rest → (s.pair j).restoring = none →
    i.closeT + ns 8 ≤ s.now →
    let p := s.pair j
    let restored := fun (t : State) =>
      let q := t.pair j
      (∀ r : Fin 16, q.kr r = if r = 0 then 0#32 else i.k[r]) ∧ q.pc = i.pc
        ∧ (∀ n ∈ [0x003, 0x004, 0x010, 0x011], q.ccr n = Cells.get ccrReset i.cr n)
        ∧ (∀ n ∈ [0x005, 0x006, 0x007, 0x030, 0x032], q.ccr n = p.ccr n)
        ∧ q.closed = [] ∧ q.outputs = p.ready ∧ q.restoring = some s.now
        ∧ ∀ w bs, i.undo = [(w, bs)] → p.cur.undo = [] → (∀ x ∈ rest, x.undo = []) →
            s.stored t (dmemBase j + 8 * w) bs
    let third := 2 ≤ (p.fails.filter fun x => decide (s.now ≤ x + ms 1)).length
    (i.retry = false → Completes (.checkpointCompare j false) s fun t =>
      restored t ∧ (t.pair j).ccr 0x031 = p.ccr 0x031 + 1 ∧ t.bit (F.SEQ_Pj_CAUSE_ROLLBACK j) = true
        ∧ (p.mode ≠ .halting 2 → p.mode ≠ .halting 3 → (t.pair j).mode = .running) ∧ (t.pair j).cur.retry = true)
    ∧ (i.retry = true → third → Completes (.lockstepHalt j) s fun t =>
        restored t ∧ (t.pair j).mode = .halted ∧ t.g (F.SEQ_Pj_STATUS_HALT_CAUSE j) = 4
          ∧ t.bit (F.SEQ_Pj_STATUS_RESTORING j) = true ∧ t.bit (F.SEQ_Pj_CAUSE_HALTED j) = true))
    ∧ (∀ (s : State) (j : Fin 4), s.seqRun = false → s.up .core = true → (s.pair j).restoring ≠ none →
    let p := s.pair j
    Completes (.restoreDone j) s fun t =>
      let q := t.pair j
      t = { s with regs := t.regs, pairs := t.pairs } ∧ (∀ k, k ≠ j → t.pair k = s.pair k)
        ∧ (∀ a, a ≠ A.SEQ_Pj_STATUS j → t.reg a = s.reg a) ∧ t.bit (F.SEQ_Pj_STATUS_RESTORING j) = false
        ∧ q.restoring = none ∧ q.mode = p.mode ∧ (∀ r, q.kr r = p.kr r)
        ∧ (p.mode = .halted → q.pc = p.pc ∧ q.cr = p.cr)
        ∧ ∀ i l, p.mode ≠ .halted → p.replay = some (.handler i l) → l < 8 →
            q.level = l ∧ q.ccr 0x013 = BitVec.ofNat 32 i ∧ q.ccr 0x012 = p.ccr 0x012
              ∧ q.pc = ((p.ccr 0x011).toNat + 0x20 + 4 * l) % 2 ^ 32)

/-- What the unit commands of Table 10.4 do at their units (R298 to R300, R308, R309, R311; 02 R47, R74; 03 R94; 04
R134; 05 R167; 07 R218), and that WD_KICK of a pair that is not SERVICE is refused with NOT_OWNER. -/
def Obligations.UnitCommandEffects : Prop :=
  ∀ (s : State) (j : Fin 4), s.seqRun = false → s.up .core = true →
    (∀ k : Fin 4, Completes (.evtRaise k) s fun t =>
      s.onlyRegsAndEvents t [] ∧ t.bit (pendField (0xF4 + k.val)) = true)
    ∧ (Completes (.wdKick 3) s fun t => t = { s with boot := { s.boot with kickT := s.now, warned := false } })
    ∧ (j ≠ 3 → Completes (.wdKick j) s fun t =>
        s.onlyRegsAndEvents t [A.SEQ_Pj_CMDERR j, A.SEQ_Pj_CAUSE j] ∧ t.g (F.SEQ_Pj_CMDERR_STATUS j) = 4
          ∧ t.g (F.SEQ_Pj_CMDERR_UNIT j) = 2 ∧ t.g (F.SEQ_Pj_CMDERR_OP j) = 1
              ∧ t.bit (F.SEQ_Pj_CAUSE_CMD_ERR j) = true)
    ∧ (∀ k : Fin 4, k ≠ 3 → (s.pair k).mode = .running → Completes (.pairHalt 3 k) s fun t =>
        s.onlyPair t k ∧ (t.pair k).mode = .halting 3 ∧ (t.pair k).pc = (s.pair k).pc)
    ∧ (∀ (k : Fin 4) (entry : Word), k ≠ 3 → entry.toNat % 4 = 0 → entry.toNat < 0x20000 → s.holdsPair k = false →
        s.halted k = true → (2 ≤ s.g F.SYS_LC_STATE → s.bit (F.SEQ_Pj_STATUS_LOADED k) = true) →
        Completes (.pairStart 3 k entry) s fun t =>
          s.startedAt t k entry.toNat 2 ∧ t.reg (A.SEQ_Pj_ENTRY k) = entry)
    ∧ (∀ mask : Word, (∀ n : Fin 32, mask.getLsbD n = true → s.up (barDomain n) = true) →
        (Completes (.fpeArm j mask) s fun t => ∀ n : Fin 32,
          if mask.getLsbD n = true then
            t.bit (F.FPE_STATUS_BUSY n) = true
              ∧ (t.bar n).check = some ⟨true, s.bit (F.FPE_CTL_ARM_AT_LINE n), s.g (F.FPE_ARM_LINE_V n)⟩
          else t.bar n = s.bar n)
        ∧ Completes (.rspAbandon j mask) s fun t =>
            t = { s with bars := t.bars }
              ∧ ∀ n : Fin 32, t.bar n = { s.bar n with
                  abandon := (s.bar n).abandon || (mask.getLsbD n && (s.bar n).page.isSome) })
    ∧ (∀ (n : Fin 32) (addr : BitVec 18) (pair honor : Bool) (value mask : Byte), s.up (barDomain n) = true →
        0 < (s.bar n).nst.reservedOf (pairMaster j) ∨ ((s.bar n).nst.level < 1024 ∧ (s.bar n).nst.stalled = []) →
        Completes (.nstPush j n addr pair honor value mask) s fun t =>
          (t.bar n).nst.fifo = (s.bar n).nst.fifo ++ [updStored (pairMaster j) (updWord addr pair honor value mask)]
            ∧ ∀ m, m ≠ n → t.bar m = s.bar m)
    ∧ (∀ (w mode : Fin 4) (src trig : Bool) (cam : Fin 4) (target : BitVec 48), mode.val < 3 → s.up .pos = true →
        let c := 4 * j.val + w.val
        Completes (.cmpArm j w mode src trig cam target) s fun t =>
          s.onlyRegs { t with pos := s.pos } [A.POS_CMPc_CTL c, A.POS_CMPc_TGT_LO c, A.POS_CMPc_TGT_HI c]
            ∧ t.pos = { s.pos with cmp := t.pos.cmp }
            ∧ t.g (F.POS_CMPc_TGT_LO_V c) + 2 ^ 32 * t.g (F.POS_CMPc_TGT_HI_V c) = target.toNat
            ∧ t.g (F.POS_CMPc_CTL_MODE c) = mode.val ∧ t.bit (F.POS_CMPc_CTL_SRC c) = src
            ∧ t.bit (F.POS_CMPc_CTL_TRIG_EN c) = trig ∧ t.g (F.POS_CMPc_CTL_CAM c) = cam.val
            ∧ t.bit (F.POS_CMPc_CTL_ARM c) = decide (mode.val ≠ 0))
    ∧ (∀ (w0 : Word) (ovl : BitVec 7), s.up .cam = true →
        let p : Fin 4 := Fin.ofNat 4 w0.toNat
        ((s.cam p).areqs.length < 8 → (s.cam p).store = [] →
          (∀ f, (s.cam p).frame = some f → f.live = false ∧ f.req = none) → Completes (.insAreq j w0 ovl) s fun t =>
          t = { s with ins := t.ins } ∧ (t.cam p).areqs = (s.cam p).areqs
            ++ [⟨Word.field w0 2 5, Word.field w0 7 1, Word.field w0 8 2, Word.field w0 16 16, ovl.toNat, false⟩])
        ∧ (8 ≤ (s.cam p).areqs.length → Completes (.insAreq j w0 ovl) s fun t =>
            s.onlyRegsAndEvents t [A.INS_CAUSE] ∧ t.bit F.INS_CAUSE_AREQ_FULL = true))
    ∧ ∀ (bar : Fin 32) (line : Word),
        (Completes (.gridGarm bar true line) s fun t =>
          t.grid.check = some ⟨true, bar.val, line.toNat⟩ ∧ t.bit F.GRID_CTL_FORCE = true
            ∧ t.bit F.GRID_STATUS_BUSY = true ∧ t = { s with regs := t.regs, grid := t.grid })
        ∧ Completes (.gridGarm bar false line) s fun t =>
          t.grid.check = some ⟨true, s.g F.GRID_FORCE_BAR_V, s.g F.GRID_FORCE_LINE_V⟩
            ∧ t.bit F.GRID_CTL_FORCE = false ∧ t.bit F.GRID_STATUS_BUSY = true
            ∧ t = { s with regs := t.regs, grid := t.grid }

/-- Starting, halting and debugging a pair from its registers (R307 to R310): START, HALT, RESUME, STEP over a PASS, a
breakpoint, KDATA, and the end of a halt, which also ends a step, a breakpoint and a double trap; HALT, STEP, RESUME
and KDATA have no effect outside BLANK and MANUFACTURE. START that a rule refuses sets START_REFUSED. Where the rules
leave a choice: log entries 53, 54; that a step, a breakpoint and a double trap close the checkpoint and leave the pair
halting until HALT_COMPLETE: log entry 47. -/
def Obligations.PairControls : Prop :=
  ∀ (s : State) (j : Fin 4),
    let p := s.pair j
    let debug := s.g F.SYS_LC_STATE ≤ 1
    let loaded := 2 ≤ s.g F.SYS_LC_STATE → s.bit (F.SEQ_Pj_STATUS_LOADED j) = true
    (s.takes (A.SEQ_Pj_CTL j) → s.halted j = true →
      (s.holdsPair j = false → loaded → (j = 3 → debug) → Completes (.seqStart j) s fun t =>
        s.startedAt t j (s.g (F.SEQ_Pj_ENTRY_V j) / 4 * 4) 1)
      ∧ (s.holdsPair j = false → ¬ loaded ∨ (j = 3 ∧ ¬ debug) → Completes (.seqStart j) s fun t =>
          s.onlyRegsAndEvents t [A.SEQ_Pj_CAUSE j] ∧ t.bit (F.SEQ_Pj_CAUSE_START_REFUSED j) = true
            ∧ (t.pair j).mode = .halted)
      ∧ (debug → p.restoring = none → s.holdsPair j = false → Completes (.seqResume j) s fun t =>
          (t.pair j).mode = .running ∧ (t.pair j).pc = p.pc ∧ p.sameRegs (t.pair j) [] ∧ t.mem = s.mem
            ∧ t.g (F.SEQ_Pj_STATUS_HALT_CAUSE j) = 0)
      ∧ (debug → p.restoring = none → s.holdsPair j = false → p.pc < 0x20000 → s.fetchWord j = 0x40002000#32 → s.ceBad = [] → s.ueBad = [] →
          (∀ k, k ≠ j → (s.pair k).stepReq = false) → Completes (.seqStep j) s fun t =>
          (t.pair j).mode = .halting 6 ∧ (t.pair j).pc = p.pc + 4 ∧ (∀ r, (t.pair j).kr r = p.kr r) ∧ t.mem = s.mem
            ∧ t.g (F.SEQ_Pj_STATUS_HALT_CAUSE j) = 0)
      ∧ (∀ w : Word, debug →
          (∀ r : Fin 16, s.g (F.SEQ_Pj_KSEL_V j) = r.val →
            (Completes (.kdata j (some w)) s fun t =>
              s.onlyPair t j ∧ (∀ x, (t.pair j).kr x = if x = r ∧ r ≠ 0 then w else p.kr x) ∧ (t.pair j).pc = p.pc)
            ∧ Completes (.kdata j none) s fun t =>
              t = { s with resp := t.resp } ∧ t.resp.bytes = leBytes 4 (p.kr r).toNat)
          ∧ (s.g (F.SEQ_Pj_KSEL_V j) = 16 → Completes (.kdata j (some w)) s fun t =>
              s.onlyPair t j ∧ (t.pair j).pc = w.toNat / 4 * 4 ∧ ∀ x, (t.pair j).kr x = p.kr x)))
    ∧ (s.takes (A.SEQ_Pj_CTL j) → p.mode = .running →
        (debug → Completes (.seqHalt j) s fun t =>
          s.onlyPair t j ∧ (t.pair j).mode = .halting 2 ∧ (t.pair j).pc = p.pc ∧ (t.pair j).outputs = p.outputs)
        ∧ (¬ debug → Completes (.seqHalt j) s fun t => t = s))
    ∧ (¬ debug → s.takes (A.SEQ_Pj_CTL j) → (∀ k, (s.pair k).stepReq = false) → ∀ w,
        Completes (.seqResume j) s (fun t => t = s) ∧ Completes (.seqStep j) s (fun t => t = s)
          ∧ Completes (.kdata j (some w)) s fun t => t = s)
    ∧ (∀ c, c < 16 → p.mode = .halting c → s.seqRun = false → s.up .core = true → p.restoring = none → p.closed = [] →
        p.ready = [] → Completes (.haltComplete j) s fun t =>
          (t.pair j).mode = .halted ∧ (t.pair j).pc = p.pc ∧ (∀ r, (t.pair j).kr r = p.kr r) ∧ t.mem = s.mem
            ∧ t.g (F.SEQ_Pj_STATUS_HALT_CAUSE j) = c ∧ t.bit (F.SEQ_Pj_CAUSE_HALTED j) = true)
    ∧ (s.runs j = true → debug → p.noBrk = false → s.bit (F.SEQ_Pj_BRK0_EN j) = true →
        s.g (F.SEQ_Pj_BRK0_ADDR j) = p.pc / 4 → Completes (.breakpoint j) s fun t =>
          s.onlyPair t j ∧ (t.pair j).mode = .halting 7 ∧ (t.pair j).pc = p.pc ∧ (∀ r, (t.pair j).kr r = p.kr r)
            ∧ (t.pair j).outputs = p.outputs)

/-- The watchdog (R311, R312): only a store of the SERVICE pair kicks; half of PERIOD without a kick warns once; a
whole PERIOD, or HALT_GRACE after the press is idle, asserts a warm reset with cause WATCHDOG. The boot ROM (R314 to
R318): SEQ_BOOT_GO starts one load of the image and key that SEQ_BOOT_SRC and SEQ_BOOT_KEY name, and nothing while
STATE is not 1 or a load runs; the load entry takes them from K2 and K3; a load whose checks pass before FIELD sets
LOADED, ENTRY and SP of the image's pair, and hands over to pair 3. Where the rules leave a choice: log entry 51. -/
def Obligations.WatchdogAndBootRom : Prop :=
  (∀ (s : State),
    (s.takes A.SEQ_WD_KICK → ∀ m, Completes (.seqWdKick m) s fun t =>
      t = if m = .pair 3 then { s with boot := { s.boot with kickT := s.now, warned := false } } else s)
    ∧ (s.wdRuns = true → s.boot.warned = false → s.boot.kickT + ms (s.g F.SEQ_WD_CFG_PERIOD) / 2 ≤ s.now →
        Completes .wdWarn s fun t =>
          s.onlyRegsAndEvents { t with boot := s.boot } [A.SEQ_GCAUSE] ∧ t.boot = { s.boot with warned := true }
            ∧ t.bit F.SEQ_GCAUSE_WD_WARN = true)
    ∧ (s.boot.warned = true → Completes .wdWarn s fun t => t = s)
    ∧ (let resets := fun (c : Instr) => Completes c s fun t =>
        t.seqRun = true ∧ t.clk.level = .warm ∧ t.bit F.RST_CAUSE_WATCHDOG = true ∧ t.g F.RST_LAST_V = 4
          ∧ t.g F.RST_WARM_COUNT_V = min (s.g F.RST_WARM_COUNT_V + 1) (2 ^ F.RST_WARM_COUNT_V.w - 1)
          ∧ t.now = s.now ∧ t.pending = s.pending
       (s.wdRuns = true → s.graceSince = none → s.boot.kickT + ms (s.g F.SEQ_WD_CFG_PERIOD) ≤ s.now →
          resets .watchdogExpire)
       ∧ ∀ m, s.graceMet = some m → s.seqRun = false → s.graceSince ≠ none → s.bit F.SEQ_WD_CFG_EN = true →
          m + ms (s.g F.SEQ_WD_CFG_HALT_GRACE) ≤ s.now → resets .graceExpire))
    ∧ (∀ s : State,
    (s.takes A.SEQ_BOOT_GO →
      (s.g F.SEQ_BOOT_STATUS_STATE = 1 → s.boot.load = none → s.halted 3 = false →
        Completes .seqBootGo s fun t =>
          t.boot.load = some ⟨s.g F.SEQ_BOOT_SRC_V / 8 * 8, s.g F.SEQ_BOOT_KEY_V / 8 * 8, false⟩
            ∧ t.g F.SEQ_BOOT_STATUS_STATE = 2 ∧ t.mem = s.mem)
      ∧ (s.g F.SEQ_BOOT_STATUS_STATE ≠ 1 ∨ s.boot.load ≠ none → Completes .seqBootGo s fun t => t = s))
    ∧ (s.romExecutes = true → s.g F.SEQ_BOOT_STATUS_STATE = 3 → (s.pair 3).pc = 0x1C010 → s.boot.load = none →
        Completes .romLoadEntry s fun t =>
          t = { s with boot := { s.boot with load := some ⟨((s.pair 3).kr 2).toNat, ((s.pair 3).kr 3).toNat, true⟩ } })
    ∧ ∀ l, s.romExecutes = true → s.boot.load = some l → l.called = false → s.loadChecks l = none →
        s.g F.SYS_LC_STATE ≤ 2 → s.ceBad = [] → s.ueBad = [] →
        let h := s.imageHeader l.src
        let p : Fin 4 := Fin.ofNat 4 h.pair
        Completes .bootLoadDone s fun t =>
          t.boot.load = none ∧ t.bit (F.SEQ_Pj_STATUS_LOADED p) = true ∧ t.g (F.SEQ_Pj_ENTRY_V p) = h.entry
            ∧ t.g (F.SEQ_Pj_SP_V p) = h.sp ∧ t.g F.SEQ_BOOT_STATUS_STATUS = 0
            ∧ (p ≠ 3 → t.g F.SEQ_BOOT_STATUS_STATE = 1 ∧ (t.pair p).mode = .halted)
            ∧ (p = 3 → t.g F.SEQ_BOOT_STATUS_STATE = 3 ∧ (t.pair 3).mode = .running ∧ (t.pair 3).pc = h.entry
                ∧ (t.pair 3).kr 14 = BitVec.ofNat 32 h.sp))

/-! ## Fire grid, ports and pages (chapter 02) -/

/-- The schedule rule (R46): a set fits when the first group time is at least 128, every next group time leaves the
strobe and 40 cycles, and the last strobe with the warm slots and 64 cycles ends within the period. -/
def Obligations.ScheduleRule : Prop :=
  ∀ (gts : List Nat) (p : GridSet), gts.length = 16 →
    (fits gts p = true ↔
      128 ≤ gts.getD 0 0
        ∧ (∀ g, g < 15 → gts.getD g 0 + 8 * p.w + 40 ≤ gts.getD (g + 1) 0)
        ∧ gts.getD 15 0 + 8 * p.w + p.slots * (8 * p.ww + 40) + 64 ≤ 2 ^ 48 / p.freq)

/-- Arming (R47, R70, R72, R74, R75): a write of 1 to ARM or GARM starts a check of the set as it stands; a shadow
write stores its bits, starts a new check while the set is armed, and sets SHADOW_LATE in the PORT cycle of a hand-over,
in which a write of 1 to ARM or GARM leaves that bit set; a check that passes arms the set, and one that fails disarms
it with SCHED_OVERRUN. Where the rules leave a choice: log entries 13, 89. -/
def Obligations.ArmingChecksAndShadows : Prop :=
  ∀ (s : State) (n : Fin 32) (v : Word),
    (s.takes (A.FPE_CTL n) →
      (Completes (.arm n) s fun t =>
        s.onlyBarAndRegs t n [A.FPE_STATUS n, A.FPE_CTL n] ∧ t.bit (F.FPE_STATUS_BUSY n) = true
          ∧ (handedNow (s.bar n).handT s.now = true → t.bit (F.FPE_CTL_ARM n) = true)
          ∧ (handedNow (s.bar n).handT s.now = false → t.reg (A.FPE_CTL n) = s.reg (A.FPE_CTL n))
          ∧ (t.bar n).check = some ⟨true, s.bit (F.FPE_CTL_ARM_AT_LINE n), s.g (F.FPE_ARM_LINE_V n)⟩)
      ∧ ∀ r, Completes (.shadowWrite n r v) s fun t =>
          s.onlyBarAndRegs t n [barShadowOff n r, A.FPE_STATUS n]
            ∧ t.reg (barShadowOff n r) = v &&& BitVec.ofNat 32 (barShadowMask r)
            ∧ (handedNow (s.bar n).handT s.now = true → t.bit (F.FPE_STATUS_SHADOW_LATE n) = true)
            ∧ (handedNow (s.bar n).handT s.now = false →
                t.bit (F.FPE_STATUS_SHADOW_LATE n) = s.bit (F.FPE_STATUS_SHADOW_LATE n))
            ∧ (s.bit (F.FPE_CTL_ARM n) = true →
                (t.bar n).check.isSome = true ∧ t.bit (F.FPE_STATUS_BUSY n) = true)
            ∧ (s.bit (F.FPE_CTL_ARM n) = false →
                t.bar n = { s.bar n with shadowAt := (t.bar n).shadowAt }
                  ∧ t.bit (F.FPE_STATUS_BUSY n) = s.bit (F.FPE_STATUS_BUSY n)))
    ∧ (s.takes A.GRID_CTL →
      (Completes .garm s fun t =>
        t.grid.check = some ⟨true, s.g F.GRID_FORCE_BAR_V, s.g F.GRID_FORCE_LINE_V⟩ ∧ t.bit F.GRID_STATUS_BUSY = true
          ∧ t = { s with regs := t.regs, grid := t.grid }
          ∧ (∀ a, a ≠ A.GRID_STATUS → a ≠ A.GRID_CTL → t.reg a = s.reg a)
          ∧ (handedNow s.grid.handT s.now = true → t.bit F.GRID_CTL_GARM = true)
          ∧ (handedNow s.grid.handT s.now = false → t.reg A.GRID_CTL = s.reg A.GRID_CTL))
      ∧ ∀ r, Completes (.globalShadowWrite r v) s fun t =>
          t.reg (gridShadowOff r) = v &&& BitVec.ofNat 32 (gridShadowMask r)
            ∧ t = { s with regs := t.regs, grid := t.grid }
            ∧ (∀ a, a ≠ gridShadowOff r → a ≠ A.GRID_STATUS → t.reg a = s.reg a)
            ∧ (handedNow s.grid.handT s.now = true → t.bit F.GRID_STATUS_SHADOW_LATE = true)
            ∧ (handedNow s.grid.handT s.now = false →
                t.bit F.GRID_STATUS_SHADOW_LATE = s.bit F.GRID_STATUS_SHADOW_LATE)
            ∧ (s.bit F.GRID_CTL_GARM = true → t.grid.check.isSome = true ∧ t.bit F.GRID_STATUS_BUSY = true)
            ∧ (s.bit F.GRID_CTL_GARM = false → t.grid = { s.grid with shadowAt := t.grid.shadowAt }
                ∧ t.bit F.GRID_STATUS_BUSY = s.bit F.GRID_STATUS_BUSY))
    ∧ (∀ c, (s.bar n).check = some c → Completes (.schedCheck (.bar n)) s fun t =>
        (t.bar n).check = none ∧ t.bit (F.FPE_STATUS_BUSY n) = false
          ∧ (s.barFits n = true → t.g (F.FPE_STATUS_ERR n) = 0
              ∧ (c.arming = true → t.bit (F.FPE_CTL_ARM n) = true ∧ (c.atLine = false →
                  (t.bar n).armed = some .pageStart)))
          ∧ (s.barFits n = false → t.g (F.FPE_STATUS_ERR n) = 0x0D ∧ t.bit (F.FPE_CTL_ARM n) = false
              ∧ (t.bar n).armed = none ∧ t.bit (F.FPE_FCAUSE_CFG_REFUSED n) = true))
    ∧ ∀ c, s.grid.check = some c → Completes (.schedCheck .grid) s fun t =>
        t.grid.check = none ∧ t.bit F.GRID_STATUS_BUSY = false
          ∧ (s.gridFits = true → t.g F.GRID_STATUS_ERR = 0 ∧ (c.arming = true → t.bit F.GRID_CTL_GARM = true))
          ∧ (s.gridFits = false → t.g F.GRID_STATUS_ERR = 0x0D ∧ t.bit F.GRID_CTL_GARM = false)

/-- The grid (R32, R36, R37, R41): a write of 1 to RUN starts a stopped grid with the accumulator at 0; a write of 0
stops it at once outside pages, cutting the line in progress, and is held inside, RUN staying 1 until the stop takes
effect; a line tick that is due counts, and one that is not changes nothing. Where the rules leave a choice: log
entries 9, 16.

What a line tick selects on one bar (R39, R65, R67, R68; 04 R117, R121 to R123). Inside a page, with `predict` the
print position predicted for the next tick and the lag of the next unfired index in 1/256 line: above 128 the index is
dropped and counted, marks the page, sets OVERSPEED in leader mode and asserts XSTOP_N in follower mode, and the next
one is tested; below -128 the tick is held; else the index is sent to the enabled segments when every line it needs is
ready. An underrun skips the index in follower mode; in leader mode no index is sent, and it is reported. Outside a page
the head page starts, waits for its capture or its position, or ends with NO_CAPTURE. These clauses speak of an index
selected for the first time with no hand-over named for it. Where the rules leave a choice: log entry 89. -/
def Obligations.GridTicksAndLineSelection : Prop :=
  (∀ (s : State) (isns : Vector (List (Nat × Rat)) 32),
     (s.takes A.GRID_CTL →
       (Completes .runStart s fun t =>
         t.bit F.GRID_CTL_RUN = true ∧ t.bit F.GRID_STATUS_RUNNING = true ∧ t.grid.heldStop = false
           ∧ (s.bit F.GRID_STATUS_RUNNING = false → t.grid.acc = 0 ∧ t.grid.accT = s.now)
           ∧ (s.bit F.GRID_STATUS_RUNNING = true → t.grid = { s.grid with heldStop := false } ∧ t.bars = s.bars)
           ∧ (s.g F.PWR_STATUS_STATE = 1 → t.g F.PWR_STATUS_STATE = 0))
       ∧ (s.running = true → s.anyInside = true → Completes .runStop s fun t =>
           t = { s with grid := { s.grid with heldStop := true } })
       ∧ (s.running = false ∨ s.anyInside = false → Completes .runStop s fun t =>
           s.onlyRegs { t with grid := s.grid, bars := s.bars } [A.GRID_CTL, A.GRID_STATUS]
             ∧ t.bit F.GRID_CTL_RUN = false ∧ t.bit F.GRID_STATUS_RUNNING = false
             ∧ t.grid = { s.grid with heldStop := false }
             ∧ (s.running = false → t.bars = s.bars)
             ∧ (s.running = true → ∀ n, t.bar n = { s.bar n with
                 shifting := none
                 out := { (s.bar n).out with cutAt := some ((s.bar n).out.cutAt.getD s.now) }
                 et := { (s.bar n).et with lineVoid := 0xFF } })))
     ∧ (s.tickDue = true → Completes (.lineTick isns) s fun t =>
         t.tick = s.tick + 1 ∧ t.grid.tickT = s.nextTickT ∧ t.grid.ticked = true ∧ t.now = s.now)
     ∧ (s.tickDue = false → Completes (.lineTick isns) s fun t => t = s))
  ∧ (∀ (s : State) (n : Fin 32) (p : Page) (fuel : Nat), (s.bar n).page = some p → (s.bar n).armed = none →
      s.bit F.GRID_CTL_GARM = false → p.seen ≤ p.next → p.resendEnd ≤ p.next →
      p.next < p.desc.lines + s.maxRow n →
      let k := p.next
      let lag : Rat := (s.predict - ((p.s + k * s.pitch : Int) : Rat)) * 256 / s.pitch
      let ready := ∀ r, r < 4 → s.rowOfs n r ≤ k → k - s.rowOfs n r < p.desc.lines →
        (s.bar n).rsp.lineReady (p.desc.base + (k - s.rowOfs n r)) = true
      let loop := State.selectLoop n (fuel + 1) s
      let others := fun (t : State) => ∀ m, m ≠ n → t.bar m = s.bar m
      let selected := fun (t : State) (r : PageRec) =>
        others t ∧ t.g (F.FPE_CUR_LINE_V n) = k % 2 ^ 32
          ∧ ∃ q, (t.bar n).page = some q ∧ q.next = k + 1 ∧ q.seen = k + 1 ∧ q.rcd = r ∧ q.desc = p.desc ∧ q.s = p.s
      (lag < -128 → loop.2 = false ∧ s.onlyBarAndRegs loop.1 n [A.FPE_HELD n]
          ∧ s.counted loop.1 (F.FPE_HELD_V n)
          ∧ loop.1.bar n = { s.bar n with page := some { p with rcd := { p.rcd with held := p.rcd.held + 1 } } })
        ∧ (128 < lag → ∃ t, loop = State.selectLoop n fuel t
            ∧ selected t { p.rcd.mark .dropped with dropped := p.rcd.dropped + 1 }
            ∧ (t.bar n).sel = (s.bar n).sel ∧ s.counted t (F.FPE_DROPPED_V n) ∧ t.bit (F.FPE_LCAUSE_DROP n) = true
            ∧ (s.leader = true → t.bit (F.FPE_FCAUSE_OVERSPEED n) = true)
            ∧ (s.leader = false → t.bit F.XPT_XSTOP_DROP = true))
        ∧ (-128 ≤ lag → lag ≤ 128 → ready → loop.2 = false ∧ selected loop.1 p.rcd
            ∧ (loop.1.bar n).sel = some (⟨p.desc.serial, k, true⟩, (List.range 8).filter fun seg => s.segOn n seg)
            ∧ (∀ q, (loop.1.bar n).page = some q → q.inflight = p.inflight ++ [(k, s.tick)])
            ∧ (p.firstSent = false → loop.1.bit (F.FPE_LCAUSE_PAGE_START n) = true)
            ∧ (p.afterPause = true → loop.1.bit (F.FPE_LCAUSE_RESUMED n) = true))
        ∧ (-128 ≤ lag → lag ≤ 128 → ¬ ready → s.leader = false → loop.2 = false
            ∧ selected loop.1 { (p.rcd.mark .underrun).mark .skipped with skipped := p.rcd.skipped + 1 }
            ∧ (loop.1.bar n).sel = (s.bar n).sel
            ∧ s.counted loop.1 (F.RSP_UNDERRUNS_V n) ∧ loop.1.bit (F.FPE_LCAUSE_UNDERRUN n) = true
            ∧ s.counted loop.1 (F.RSP_SKIPPED_V n) ∧ loop.1.bit (F.FPE_LCAUSE_SKIP n) = true
            ∧ loop.1.bit F.XPT_XSTOP_SKIP = true)
        ∧ (-128 ≤ lag → lag ≤ 128 → ¬ ready → s.leader = true → loop = (s, true)))
      ∧ (∀ (s : State) (n : Fin 32) (d : PageDesc) (rest : List PageDesc), (s.bar n).page = none →
      (s.bar n).queue = d :: rest →
      let tests := s.bit (F.FPE_CTL_EN n) = true ∧ (s.bar n).endTick ≠ s.tick ∧ s.portKilled n = false
      let mayStart := s.leader = true → s.g F.XPT_STATUS_STATE = 2
      (¬ tests ∨ ¬ mayStart → s.selectBar n = (s, false))
        ∧ (d.abs = false → s.captureClass d.tofsrc d.tofseq = .notYet → s.selectBar n = (s, false))
        ∧ (tests → d.abs = false → s.captureClass d.tofsrc d.tofseq = .gone →
            let t := s.captureTest n
            (t.bar n).queue = rest ∧ (t.bar n).page = none ∧ (t.bar n).endTick = s.tick
              ∧ t.bit (F.FPE_LCAUSE_PAGE_END n) = true ∧ t.reg (A.FPE_PREC_TAG n) = d.tag
              ∧ (t.reg (A.FPE_PREC_FLAGS n)).getLsbD 6 = true)
        ∧ (tests → mayStart → ∀ ref : Int,
            (d.abs = true ∧ ref = d.start)
              ∨ (d.abs = false ∧ s.captureClass d.tofsrc d.tofseq = .held ∧ ref = s.capturePos d.tofsrc d.tofseq) →
            let offset := if s.bit (F.FPE_CTL_ARM n) = true ∧ (s.bar n).armed = some .pageStart
              then s.g48 (F.FPE_OFFSET_LO_V n) (F.FPE_OFFSET_HI_V n)
              else s.g48 (F.FPE_OFFSET_LO_LIVE_V n) (F.FPE_OFFSET_HI_LIVE_V n)
            let lag : Rat := (s.predict - ((ref + offset : Int) : Rat)) * 256 / s.pitch
            let r := s.selectBar n
            (lag < -128 → r = (s, false))
              ∧ (-128 ≤ lag → (r.2 = true → r.1 = s ∧ s.leader = true)
                  ∧ (r.2 = false → (r.1.bar n).queue = rest ∧ r.1.g (F.FPE_CUR_PAGE_V n) = d.page % 2 ^ 24
                      ∧ ∃ q, (r.1.bar n).page = some q ∧ q.desc = d ∧ q.s = ref + offset ∧ 0 < q.next))))

/-- How a page ends and what its record holds (R63, R65, R66, R69, R71, 03 R89, 04 R134). Writing a record puts the
page's flags, tag and counts into its registers, each saturated, and sets PAGE_END, and PREC_OVF when PAGE_END was still
set. At a tick a page whose last index is done leaves the bar, in leader mode once every lost segment frame has been
reprinted, and its record waits for the tick's status frame, at the latest until 2 us after the tick's SY edge; one that
is killed or abandoned ends with its record at once, its unfired indices counted as killed, or its stream discarded. An
arming for a line that the page has not reached moves to the next page start with ARM_MISSED. Where the rules leave a
choice: log entry 89.

The pause of a Pirouette on the bars (04 R123 to R130). A stop request in leader mode asks for its stop tick, the
earliest of several; in follower mode and during a pause it asks for none. At the stop tick no bar selects anything;
each bar inside a page counts and records the stop with its first unprinted index and that index's due position; and at
this and every later tick of the pause each bar whose domain is on counts it as paused. The tick after the stop tick
keeps the stop position. At the re-entry tick a bar goes on from its first unprinted index, and up to the highest index
selected before only the segments that lost a frame of an index print it again, counted as reprinted. Where the rules
leave a choice: log entries 29, 31. -/
def Obligations.PageRecordsPauseAndResend : Prop :=
  ((∀ (s : State) (n : Fin 32) (d : PageDesc) (r : PageRec),
     let t := s.writeRecord n d r
     let sat := fun x => min x (2 ^ 32 - 1)
     t.g (F.FPE_PREC_PAGE_PAGE n) = d.page % 2 ^ 24 ∧ t.g (F.FPE_PREC_PAGE_KIND n) = d.kind % 2
       ∧ t.reg (A.FPE_PREC_FLAGS n) = BitVec.ofNat 32 r.flags ∧ t.reg (A.FPE_PREC_TAG n) = d.tag
       ∧ t.g (F.FPE_PREC_DROPPED_V n) = sat r.dropped ∧ t.g (F.FPE_PREC_HELD_V n) = sat r.held
       ∧ t.g (F.FPE_PREC_MAXERR_V n) = min r.maxErr 65535 ∧ t.g (F.FPE_PREC_LOST_V n) = sat r.lost
       ∧ t.g (F.NST_PREC_UNPL_V n) = sat r.unpl ∧ t.g (F.NST_PREC_THIN_V n) = sat r.thin
       ∧ t.g (F.RSP_PREC_SKIPPED_V n) = sat r.skipped ∧ t.g (F.RSP_PREC_STOPS_V n) = sat r.stops
       ∧ t.g (F.RSP_PREC_REPRINT_V n) = sat r.reprint
       ∧ t.bit (F.FPE_LCAUSE_PAGE_END n) = true
       ∧ t.bit (F.FPE_LCAUSE_PREC_OVF n) = (s.bit (F.FPE_LCAUSE_PREC_OVF n) || s.bit (F.FPE_LCAUSE_PAGE_END n))
       ∧ t.bar n = { s.bar n with ended := some (d.serial, r) } ∧ ∀ m, m ≠ n → t.bar m = s.bar m)
     ∧ (∀ (s : State) (n : Fin 32) (p : Page), (s.bar n).page = some p →
     let b := s.bar n
     let t := s.endCheck n
     let kill := b.killSeen = true ∨ s.portKilled n = true
     let done := ∃ e, p.endAt = some e ∧ e ≤ s.tick ∧ (s.leader = true → p.lost = [])
     let missed := ∃ l, b.armed = some (.lineNow l)
     let flags := fun (r : PageRec) => if b.rsp.errSerial = some p.desc.serial then r.mark .streamErr else r
     let ends := (t.bar n).page = none ∧ (t.bar n).endTick = s.tick ∧ (t.bar n).outT = s.now
       ∧ (missed → (t.bar n).armed = some .moved ∧ t.bit (F.FPE_STATUS_ARM_MISSED n) = true)
       ∧ (¬ missed → (t.bar n).armed = b.armed)
     (b.closing = none → ¬ kill → b.abandon = false →
       (¬ done → t = s)
         ∧ (done → ends ∧ (t.bar n).closing = some (p.desc, flags p.rcd)
             ∧ s.onlyBarAndRegs t n [A.FPE_STATUS n]))
       ∧ (kill → b.abandon = false → ends ∧ (t.bar n).closing = none ∧ t.bit (F.FPE_LCAUSE_PAGE_END n) = true
           ∧ t.reg (A.FPE_PREC_TAG n) = p.desc.tag
           ∧ t.reg (A.FPE_PREC_FLAGS n) = BitVec.ofNat 32 (flags (p.rcd.mark .killed)).flags
           ∧ t.g (F.FPE_KILLED_LINES_V n)
               = min (s.g (F.FPE_KILLED_LINES_V n) + (b.killCount + (p.desc.lines - 1 + s.maxRow n + 1 - p.seen)))
                   (2 ^ 32 - 1)
           ∧ t.reg (A.FPE_DROPPED n) = s.reg (A.FPE_DROPPED n))
       ∧ (¬ kill → b.abandon = true → ends ∧ (t.bar n).closing = none ∧ t.bit (F.FPE_LCAUSE_PAGE_END n) = true
           ∧ t.bit (F.FPE_LCAUSE_ABANDONED n) = true ∧ s.counted t (F.RSP_ABANDONED_V n)
           ∧ t.reg (A.FPE_PREC_FLAGS n) = BitVec.ofNat 32 (flags (p.rcd.mark .abandoned)).flags
           ∧ (t.bar n).rsp.discards = b.rsp.discards ++ [(p.desc.base, p.desc.base + p.desc.lines)]
           ∧ t.reg (A.FPE_DROPPED n) = s.reg (A.FPE_DROPPED n) ∧ t.reg (A.RSP_SKIPPED n) = s.reg (A.RSP_SKIPPED n)))
     ∧ ∀ (s : State) (n : Fin 32) (d : PageDesc) (r : PageRec), s.pending = [] → s.power.off = false →
       s.power.req = none → s.g F.PWR_STATUS_STATE < 2 → (s.bar n).closing = some (d, r) →
       s.grid.tickT + ns 80 + us 2 ≤ s.now → ∃ t, step s = .next t ∧ (t.bar n).closing = none
         ∧ t.bit (F.FPE_LCAUSE_PAGE_END n) = true ∧ t.reg (A.FPE_PREC_TAG n) = d.tag
         ∧ t.reg (A.FPE_PREC_FLAGS n) = BitVec.ofNat 32 r.flags)
  ∧ (∀ (s : State) (m : Nat),
      (s.leader = true → s.grid.paused = false →
        s.stopRequest m = { s with grid := { s.grid with stopAt := some (min m (s.grid.stopAt.getD m)) } })
      ∧ (s.leader = false ∨ s.grid.paused = true → s.stopRequest m = s))
      ∧ (∀ s : State, s.grid.paused = false →
      let t := s.selectionPhase
      let pauses := fun (u : State) =>
        t.grid.paused = true ∧ t.grid.stopTick = s.tick ∧ t.grid.stopAt = none
          ∧ (∀ n : Fin 32, (t.bar n).queue = (u.bar n).queue
              ∧ ((u.bar n).page = none → (t.bar n).page = none)
              ∧ ∀ p, (u.bar n).page = some p →
                  let k := (p.lost.map (·.1)).foldl min p.next
                  (t.bar n).page = some { p with rcd := { p.rcd.mark .pirouette with stops := p.rcd.stops + 1 } }
                    ∧ t.bit (F.FPE_LCAUSE_STOP n) = true ∧ u.counted t (F.RSP_STOPS_V n)
                    ∧ t.g (F.RSP_RESUME_IDX_V n) = k % 2 ^ 32
                    ∧ t.g48 (F.RSP_RESUME_DUE_LO_V n) (F.RSP_RESUME_DUE_HI_V n)
                        = signed 48 (unsigned 48 (p.s + k * s.pitch)))
          ∧ ∀ n : Fin 32, s.up (barDomain n) = true → u.counted t (F.RSP_PAUSED_V n)
      (∀ m, s.grid.stopAt = some m → m ≤ s.tick → pauses s ∧ ∀ n, (t.bar n).sel = (s.bar n).sel)
        ∧ (s.grid.stopAt = none →
            let c := allBars.foldl (fun s n => if s.up (barDomain n) then s.captureTest n else s) s
            let r := c.selectAll
            r.2 ≠ [] → t.grid.paused = true ∧ t.grid.stopTick = s.tick
              ∧ ∀ n ∈ r.2, t.bit (F.FPE_LCAUSE_UNDERRUN n) = true))
      ∧ (∀ s : State, s.grid.paused = true → s.up .pos = true →
      let t := s.selectionPhase
      t.bars = s.bars ∧ (∀ n : Fin 32, s.up (barDomain n) = true → s.counted t (F.RSP_PAUSED_V n))
        ∧ (∀ n : Fin 32, t.reg (A.FPE_HELD n) = s.reg (A.FPE_HELD n))
        ∧ t.grid.paused = true ∧ (s.tick = s.grid.stopTick + 1 → t.xpt.ps = s.ppNow.1))
      ∧ (∀ (s : State) (n : Fin 32) (p : Page), (s.bar n).page = some p →
      ((s.resumeBar n).bar n).page = some { p with
        next := (p.lost.map (·.1)).foldl min p.next
        resendEnd := p.seen, endAt := none, inflight := [], afterPause := true })
      ∧ ∀ (s : State) (n : Fin 32) (p : Page) (fuel : Nat), (s.bar n).page = some p → p.next < p.resendEnd →
        p.next < p.seen → p.next < p.desc.lines + s.maxRow n →
        let k := p.next
        let lag : Rat := (s.predict - ((p.s + k * s.pitch : Int) : Rat)) * 256 / s.pitch
        let again := ((p.lost.filter fun x => x.1 == k).map (·.2)).filter fun seg =>
          s.bit (F.FPE_CTL_EN n) && s.segOn n seg && !(s.bar n).unserved.contains seg
        (-128 ≤ lag ∧ lag ≤ 128) → s.indexReady n p.desc k = true →
          let t := (State.selectLoop n (fuel + 1) s).1
          (t.bar n).sel = some (⟨p.desc.serial, k, false⟩, again)
            ∧ t.g (F.RSP_REPRINTED_V n) = min (s.g (F.RSP_REPRINTED_V n) + again.length) (2 ^ 32 - 1)
            ∧ (p.afterPause = true → t.bit (F.FPE_LCAUSE_RESUMED n) = true)
            ∧ ∃ q, (t.bar n).page = some q ∧ q.next = k + 1 ∧ q.lost = p.lost.filter (fun x => x.1 != k)
                ∧ q.rcd.reprint = p.rcd.reprint + again.length
                ∧ (again ≠ [] → q.rcd.flags = p.rcd.flags ||| 2 ^ 19) ∧ (again = [] → q.rcd.flags = p.rcd.flags)

/-- Hand-overs (R47, R70 to R75): at its moment a bar's armed set becomes live, whole, and ARM clears; the writes of
that PORT cycle land after it, with SHADOW_LATE, and a write of 1 to ARM in it leaves ARM set; while a check of the set
runs it moves to the next page start with ARM_MISSED. The first selection of the index it is armed for is that moment.
The global set becomes live at a tick with no bar inside a page, before autotune, or at the selection of the line named
with FORCE, and never else inside a page. Autotune (R38): in follower mode outside pages, every 16 ticks, with a valid
positive speed the live FREQ becomes the word of the speed, rounded, halves upward, within the range of R33 and the
highest word that passes the schedule check; without one it stays. Where the rules leave a choice: log entries 13,
89. -/
def Obligations.HandOversAndAutotune : Prop :=
  (∀ (s : State) (n : Fin 32),
    let t := s.barHandover n
    let b := s.bar n
    (shadowNow b.shadowAt s.now = none → b.check = none →
      s.onlyBarAndRegs t n (A.FPE_CTL n :: A.FPE_STATUS n :: (barShadowOffs n).map (· + 0x100))
        ∧ (∀ o ∈ barShadowOffs n, t.reg (o + 0x100) = s.reg o)
        ∧ t.bit (F.FPE_CTL_ARM n) = false ∧ t.bit (F.FPE_STATUS_BUSY n) = false
        ∧ t.bar n = { b with check := none, armed := none, handT := some s.now })
      ∧ (∀ c, shadowNow b.shadowAt s.now = some c → c.check = none → (c.was.map (·.1)).Nodup →
          (∀ x ∈ c.was, x.1 ∈ barShadowOffs n) →
          (∀ o ∈ barShadowOffs n, t.reg o = s.reg o ∧ t.reg (o + 0x100) = (Cells.find? c.was o).getD (s.reg o))
            ∧ (c.was ≠ [] → t.bit (F.FPE_STATUS_SHADOW_LATE n) = true)
            ∧ t.bit (F.FPE_CTL_ARM n) = c.arm ∧ (t.bar n).check = (if c.arm = true then b.check else none)
            ∧ (t.bar n).handT = some s.now)
      ∧ (shadowNow b.shadowAt s.now = none → b.check.isSome = true →
          s.onlyBarAndRegs t n [A.FPE_STATUS n] ∧ t.bit (F.FPE_STATUS_ARM_MISSED n) = true
            ∧ t.bar n = { b with armed := if b.armed = some .pageStart then some .pageStart else some .moved })
      ∧ (∀ k, s.bit F.GRID_CTL_GARM = false →
          let due := (k = 0 ∧ (b.armed = some .pageStart ∨ b.armed = some .moved))
            ∨ b.armed = some (.lineNow k) ∨ b.armed = some (.lineNext k)
          (due → s.handoversAt n k = t) ∧ (¬ due → s.handoversAt n k = s)))
    ∧ (∀ s : State,
    let t := s.boundary
    (s.grid.paused = true ∨ (∃ n, (s.bar n).page.isSome = true) →
      (∀ o ∈ gridShadowOffs, t.reg (o + 0x100) = s.reg (o + 0x100))
        ∧ t.bit F.GRID_CTL_GARM = s.bit F.GRID_CTL_GARM)
      ∧ (s.grid.paused = false → (∀ n, (s.bar n).page = none) → s.bit F.GRID_CTL_GARM = true →
          s.bit F.GRID_CTL_FORCE = false → s.grid.check = none → shadowNow s.grid.shadowAt s.now = none →
          t.bit F.GRID_CTL_GARM = false ∧ t.grid.handT = some s.now
            ∧ (∀ o ∈ [A.GRID_STROBE, A.GRID_WARM, A.GRID_PITCH, A.GRID_ERR_TOL], t.reg (o + 0x100) = s.reg o)
            ∧ ((∀ n : Fin 32, s.stage n ≠ 2) → s.leader = true ∨ s.bit F.GRID_CTL_AUTOTUNE = false →
                ∀ o ∈ gridShadowOffs, t.reg (o + 0x100) = s.reg o))
      ∧ (s.bit F.GRID_CTL_GARM = true → s.bit F.GRID_CTL_FORCE = true → s.grid.check = none →
          ∀ p, (s.bar (Fin.ofNat 32 s.grid.forceBar)).page = some p → s.grid.forceLine < p.seen →
          t.bit F.GRID_STATUS_FORCE_MISSED = true ∧ t.bit F.GRID_CTL_FORCE = false))
    ∧ (∀ (s : State) (n : Fin 32) (k : Nat), (s.bar n).armed = none → s.bit F.GRID_CTL_GARM = true →
    s.bit F.GRID_CTL_FORCE = true → s.grid.forceBar = n.val → s.grid.check = none →
    shadowNow s.grid.shadowAt s.now = none →
    (s.grid.forceLine = k → ∀ o ∈ gridShadowOffs, (s.handoversAt n k).reg (o + 0x100) = s.reg o
        ∧ (s.handoversAt n k).bit F.GRID_CTL_GARM = false ∧ (s.handoversAt n k).bit F.GRID_CTL_FORCE = false)
      ∧ (s.grid.forceLine ≠ k → s.handoversAt n k = s))
    ∧ ∀ (s : State) (handed : Bool), s.leader = false → s.bit F.GRID_CTL_AUTOTUNE = true → s.grid.paused = false →
      (∀ n, (s.bar n).page = none) → handed = true ∨ s.grid.sinceTune % 16 = 0 →
      let t := s.autotuneTick handed
      let clamp := fun (w : Nat) => max 0x0A7C5AC5 (min 0x1F75104D5 w)
      let exact : Rat := s.axisV * 2 ^ 48 / (1600000000 * ((s.pitch : Rat) / 256))
      (s.speedGood = false → t = { s with grid := { s.grid with sinceTune := t.grid.sinceTune } })
        ∧ (s.speedGood = true → s.grid.clampF2 = none → ∀ w : Nat, (w : Rat) - 1 / 2 ≤ exact → exact < (w : Rat) + 1 / 2 →
            t.freq = clamp (min (clamp w) s.highestWord)
              ∧ ∀ o ∈ gridShadowOffs, t.reg o = s.reg o)

/-- Head status (R53 to R59, R66): the first status frame of a tick is taken; a valid one shows in FPE_SR and, when
every fitted segment has latched, changes nothing else but lane 8 and the lines of a test that a segment did not latch;
a frame that fails a check is counted; and whether it is valid or not, the record of a page that ended at the tick is
written. A fitted segment that has not latched an index's line fails over with AUTO to a free D8, with LANE_FAIL, and
the line is lost: counted, in the record, in leader mode to be reprinted after a stop at the next tick (R124), in
follower mode with LANE_LOST; with no spare the segment stays unserved, with NO_SPARE, and its line is no lost frame. A
parity error marks the page of the line before CORRUPT. MISS_LIMIT ticks without a frame set STATUS_LOST; a write of
the spare lane serves again the segments whose lane it changes. Where the rules leave a choice: log entry 18. -/
def Obligations.StatusFramesAndSpareLane : Prop :=
  ∀ (s : State) (n : Fin 32) (f : BitVec 128) (seg : Fin 8) (en : Bool),
    let st := fun (k : Nat) => srField f (16 + 8 * k) 8
    let b := s.bar n
    let whole := fun (k : Nat) => (st k).testBit 5 = true →
      (st k).testBit 0 = true ∧ (st k).testBit 1 = false ∧ (st k).testBit 2 = false ∧ (st k).testBit 3 = false
    let missed := fun (k : Nat) => (st k).testBit 0 = false ∨ (st k).testBit 1 = true ∨ (st k).testBit 3 = true
    let lane := fun (t : State) (k : Nat) => t.bit ⟨A.FPE_LANE n, 4 + k, 1⟩
    (s.seqRun = false → s.up (barDomain n) = true → s.grid.ticked = true → b.srTaken = false →
      (s.srFault f = 0 → (∀ k, k < 8 → whole k) → Completes (.statusFrame n f) s fun t =>
        t.bar n = { b with
            srTaken := true, srOk := true, closing := none, ended := (t.bar n).ended
            et := { b.et with lineVoid := (t.bar n).et.lineVoid } }
          ∧ (∀ k, k < 8 → ((t.bar n).et.lineVoid.testBit k = true ↔ b.et.lineVoid.testBit k = true ∨ missed k))
          ∧ t.g (F.FPE_SR_SEGLO_V n) = srField f 16 32 ∧ t.g (F.FPE_SR_SEGHI_V n) = srField f 48 32
          ∧ t.g (F.FPE_SR_HEAD_V n) = srField f 80 32
          ∧ (b.closing = none → (t.bar n).ended = b.ended
              ∧ s.onlyBarAndRegs t n [A.FPE_SR_SEGLO n, A.FPE_SR_SEGHI n, A.FPE_SR_HEAD n, A.FPE_LANE n])
          ∧ ∀ d r, b.closing = some (d, r) → t.bit (F.FPE_LCAUSE_PAGE_END n) = true
              ∧ t.reg (A.FPE_PREC_TAG n) = d.tag ∧ t.reg (A.FPE_PREC_FLAGS n) = BitVec.ofNat 32 r.flags)
      ∧ (∀ (k : Nat) (l : LineFrame) (i : FrameIdx) (p : Page), s.srFault f = 0 → b.closing = none → k < 8 →
          (∀ j, j < 8 → j ≠ k → whole j) → (st k).testBit 5 = true → (st k).testBit 2 = false → missed k →
          b.latched = some l → l.idx = some i → k ∈ l.data → k ∉ l.unserved → k ∉ b.unserved →
          LineFrame.spare (some l) k = s.onD8 n k → b.page = some p → p.desc.serial = i.page →
          let auto := s.bit (F.FPE_CTL_AUTO n) = true
          let free := s.bit (F.FPE_LANE_SPARE_EN n) = false ∧ f.getLsbD 80 = true ∧ lane s 8 = false
          let lost := fun (t : State) => s.counted t (F.FPE_LOST_LINES_V n)
            ∧ (s.leader = false → t.grid = s.grid ∧ (t.bar n).page = some { p with
                rcd := { p.rcd.mark .laneLost with lost := p.rcd.lost + 1 } })
            ∧ (s.leader = true → (t.bar n).page = some { p with
                  lost := p.lost ++ [(i.idx, k)], rcd := { p.rcd with lost := p.rcd.lost + 1 } }
                ∧ (s.grid.paused = false → t.grid = { s.grid with
                    stopAt := some (min (s.tick + 1) (s.grid.stopAt.getD (s.tick + 1))) }))
          (auto → free → Completes (.statusFrame n f) s fun t =>
            lane t k = true ∧ t.g (F.FPE_LANE_SPARE_SEG n) = k ∧ t.bit (F.FPE_LANE_SPARE_EN n) = true
              ∧ t.bit (F.FPE_FCAUSE_LANE_FAIL n) = true ∧ k ∉ (t.bar n).unserved ∧ lost t)
          ∧ (¬ auto → Completes (.statusFrame n f) s fun t =>
              (∀ j, j < 8 → lane t j = lane s j) ∧ (t.bar n).unserved = b.unserved ∧ lost t)
          ∧ (auto → ¬ free → Completes (.statusFrame n f) s fun t =>
              lane t (if s.onD8 n k = true then 8 else k) = true ∧ t.bit (F.FPE_FCAUSE_NO_SPARE n) = true
                ∧ (t.bar n).unserved = b.unserved ++ [k] ∧ s.counted t (F.FPE_LOST_LINES_V n) ∧ t.grid = s.grid
                ∧ (t.bar n).page = some { p with
                    rcd := { p.rcd.mark .segLost with lost := p.rcd.lost + 1 } }))
      ∧ (∀ (k : Nat) (l : LineFrame) (i : FrameIdx) (p : Page), s.srFault f = 0 → b.closing = none → k < 8 →
          (∀ j, j < 8 → j ≠ k → whole j) → (st k).testBit 5 = true → (st k).testBit 2 = true → ¬ missed k →
          s.bit (F.FPE_CTL_AUTO n) = false → b.previous = some l → l.idx = some i → k ∈ l.data → k ∉ l.unserved →
          b.page = some p → p.desc.serial = i.page → Completes (.statusFrame n f) s fun t =>
            s.counted t (F.FPE_CORRUPT_LINES_V n) ∧ t.grid = s.grid
              ∧ (t.bar n).page = some { p with rcd := p.rcd.mark .corrupt })
      ∧ (s.srFault f ≠ 0 → Completes (.statusFrame n f) s fun t =>
          (t.bar n).srTaken = true ∧ (t.bar n).srOk = b.srOk ∧ (∀ m, m ≠ n → t.bar m = s.bar m)
            ∧ s.counted t (F.FPE_SR_ERR_V n) ∧ (t.bar n).closing = none
            ∧ ∀ d r, b.closing = some (d, r) → t.bit (F.FPE_LCAUSE_PAGE_END n) = true
                ∧ t.reg (A.FPE_PREC_TAG n) = d.tag ∧ t.reg (A.FPE_PREC_FLAGS n) = BitVec.ofNat 32 r.flags))
    ∧ (b.srTaken = true → Completes (.statusFrame n f) s fun t => t = s)
    ∧ (s.g (F.FPE_SR_CFG_V n) ≤ b.srMiss → Completes (.statusLost n) s fun t =>
        s.onlyRegsAndEvents t [A.FPE_FCAUSE n] ∧ t.bit (F.FPE_FCAUSE_STATUS_LOST n) = true)
    ∧ (b.srMiss < s.g (F.FPE_SR_CFG_V n) → Completes (.statusLost n) s fun t => t = s)
    ∧ (s.takes (A.FPE_CTL n) → Completes (.spareLaneWrite n seg en) s fun t =>
        s.onlyBarAndRegs t n [A.FPE_LANE n] ∧ t.g (F.FPE_LANE_SPARE_SEG n) = seg.val
          ∧ t.bit (F.FPE_LANE_SPARE_EN n) = en
          ∧ t.bar n = { b with unserved := (t.bar n).unserved }
          ∧ ∀ k, k ∈ (t.bar n).unserved ↔ k ∈ b.unserved ∧ s.onD8 n k = t.onD8 n k)

/-- Kills (R60 to R63): HKILL_N low latches PIN_LATCH, a SWKILL bit takes its value, and each kill reaches every port
it names whose domain is on, with its cause; a latch clears only while its source is inactive. Where the rules leave a
choice: log entry 19. -/
def Obligations.KillsAndTheirLatches : Prop :=
  ∀ (s : State) (n : Fin 32),
    (s.seqRun = false → Completes (.hkill true) s fun t =>
      t.hkillLow = true ∧ t.bit F.GRID_KILL_PIN_LATCH = true
        ∧ ∀ m : Fin 32, s.up (barDomain m) = true →
            (t.bar m).killSeen = true ∧ (t.bar m).out.cutAt.isSome = true ∧ t.bit (F.FPE_FCAUSE_KILL_PIN m) = true)
    ∧ (Completes (.hkill false) s fun t => t = { s with hkillLow := false })
    ∧ (s.takes A.GRID_KILL →
        (s.bit F.GRID_KILL_SWKILL = false → Completes (.gridSwkill true) s fun t =>
          t.bit F.GRID_KILL_SWKILL = true ∧ ∀ m : Fin 32, s.up (barDomain m) = true →
            (t.bar m).killSeen = true ∧ t.bit (F.FPE_FCAUSE_KILL_SW m) = true)
        ∧ (Completes (.gridSwkill false) s fun t => s.onlyRegs t [A.GRID_KILL] ∧ t.bit F.GRID_KILL_SWKILL = false)
        ∧ (s.hkillLow = false → Completes (.killLatchClear .pin) s fun t =>
            s.onlyRegs t [A.GRID_KILL] ∧ t.bit F.GRID_KILL_PIN_LATCH = false)
        ∧ (s.hkillLow = true → Completes (.killLatchClear .pin) s fun t => t = s))
    ∧ (s.takes (A.FPE_CTL n) → s.takes (A.FPE_STATUS n) →
        (s.bit (F.FPE_CTL_SWKILL n) = false → Completes (.fpeSwkill n true) s fun t =>
          t.bit (F.FPE_CTL_SWKILL n) = true ∧ (t.bar n).killSeen = true ∧ t.bit (F.FPE_FCAUSE_KILL_SW n) = true
            ∧ ∀ m, m ≠ n → t.bar m = s.bar m)
        ∧ (Completes (.fpeSwkill n false) s fun t => s.onlyRegs t [A.FPE_CTL n] ∧ t.bit (F.FPE_CTL_SWKILL n) = false)
        ∧ (s.tripOn n = false → Completes (.killLatchClear (.trip n)) s fun t =>
            s.onlyRegs t [A.FPE_STATUS n] ∧ t.bit (F.FPE_STATUS_KILL_TRIP n) = false)
        ∧ (s.tripOn n = true → Completes (.killLatchClear (.trip n)) s fun t => t = s))

/-- A page push (R31, R64, 10 R312): refused with CFG_REFUSED and the lowest code that applies: BAD_DESCRIPTOR (0x05)
of a malformed descriptor, LOCKED (0x09) in the watchdog's grace, 0x10 of a full queue; else the descriptor in
FPE_PQ_W0 to W7 joins the queue. That the lowest code answers where several conditions stop a push, so BAD_DESCRIPTOR
also in the grace and into a full queue, is log entry 85's reading of R31. -/
def Obligations.PagePushQueuesOrRefuses : Prop :=
  ∀ (s : State) (n : Fin 32), s.takes (A.FPE_CTL n) →
    let w := fun k => s.reg (A.FPE_PQ_W0 n + 4 * k)
    let bad := w 1 = 0 ∨ Word.field (w 0) 29 3 ≠ 0 ∨ Word.field (w 2) 16 16 ≠ 0 ∨ Word.field (w 5) 16 16 ≠ 0 ∨ w 7 ≠ 0
    let locked := s.graceSince ≠ none ∧ s.bit F.SEQ_WD_CFG_EN = true
    let full := 4 ≤ (s.bar n).queue.length
    let refused := fun (code : Nat) => Completes (.pagePush n) s fun t =>
      s.onlyRegsAndEvents t [A.FPE_STATUS n, A.FPE_FCAUSE n] ∧ t.g (F.FPE_STATUS_PQ_ERR n) = code
        ∧ t.bit (F.FPE_FCAUSE_CFG_REFUSED n) = true
    (bad → refused 0x05)
      ∧ (¬ bad → locked → refused 0x09)
      ∧ (¬ bad → ¬ locked → full → refused 0x10)
      ∧ (¬ bad → ¬ locked → ¬ full → Completes (.pagePush n) s fun t =>
          s.onlyBarAndRegs t n [A.FPE_STATUS n] ∧ t.g (F.FPE_STATUS_PQ_ERR n) = 0
            ∧ ∃ d, (t.bar n).queue = (s.bar n).queue ++ [d] ∧ d.page = Word.field (w 0) 0 24
                ∧ d.kind = Word.field (w 0) 24 1 ∧ d.lines = (w 1).toNat ∧ d.seed = w 3 ∧ d.tag = w 6
                ∧ d.abs = (w 0).getLsbD 28 ∧ d.base = (s.bar n).rsp.nextBase
                ∧ (t.bar n).rsp.nextBase = (s.bar n).rsp.nextBase + (w 1).toNat)

/-! ## Nozzle state (chapter 03) and raster supply (chapter 04) -/

/-- Pushing update words (R92 to R94, R101, R102): NST_UPD_LO holds a lower half for its master, NST_UPD_HI pushes
both; a full FIFO makes the push wait, and the oldest waiting push takes the next free slot; FLUSH empties the FIFO
and counts its words; a management-port push that has waited 1 ms is given up. Applying them (R91, R95 to R100): a
window inside a page, in its span of the line, or the arrival at the head outside one, writes the masked bits of the
named entry and no other byte; a word that honours a set lock is skipped and counted, a void one discarded and counted;
a pair is applied, skipped or discarded whole, and waits when the window has one unit left; a port B write of the same
word in the same cycle prevails in the bytes of both, and counts for the bank (11 R345), that of a window also in
NST_COLLISIONS with COLLISION. With HOLD nothing is applied. A lone first word of a pair applies once it has waited
through 16 windows, or for 10 us outside a page. Where the rules leave a choice: log entries 20, 74, 78. -/
def Obligations.UpdateWordsQueueAndApply : Prop :=
  (∀ (s : State) (n : Fin 32) (m : Master) (w : Word),
    let f := (s.bar n).nst
    (s.takes (A.NST_CTL n) →
      (Completes (.nstUpdLoWrite m n w) s fun t =>
        s.onlyBar t n ∧ Cells.find? (t.bar n).nst.held m.key = some (w &&& 0xFFFFF#32) ∧ (t.bar n).nst.fifo = f.fifo)
      ∧ (let raw : DWord := BitVec.ofNat 64 (((Cells.find? f.held m.key).getD 0).toNat + w.toNat % 2 ^ 16 * 2 ^ 32)
         let word : DWord := if m = .pair 2 then (raw ||| 0x80000#64) &&& ~~~0x800000000000#64 else raw
         (f.reservedOf m = 0 → f.level < 1024 → f.stalled = [] → Completes (.nstUpdHiPush m n w) s fun t =>
            (t.bar n).nst.fifo = f.fifo ++ [word])
          ∧ (0 < f.reservedOf m → Completes (.nstUpdHiPush m n w) s fun t =>
              (t.bar n).nst.fifo = f.fifo ++ [word] ∧ (t.bar n).nst.reservedOf m = f.reservedOf m - 1)
          ∧ (f.reservedOf m = 0 → 1024 ≤ f.level ∨ f.stalled ≠ [] → Completes (.nstUpdHiPush m n w) s fun t =>
              (t.bar n).nst.fifo = f.fifo ∧ (t.bar n).nst.stalled = f.stalled ++ [⟨m, word, s.now⟩]))
      ∧ Completes (.flush n) s fun t =>
          (t.bar n).nst.fifo = [] ∧ (t.bar n).nst.reserved = f.reserved ∧ (∀ k, k ≠ n → t.bar k = s.bar k)
            ∧ t.g (F.NST_FLUSHED_V n) = min (s.g (F.NST_FLUSHED_V n) + f.fifo.length) (2 ^ (F.NST_FLUSHED_V n).w - 1))
    ∧ (∀ p r, f.stalled = p :: r → f.level < 1024 → s.mgt = none → s.power.held = [] →
        (∀ j, (s.pair j).stepReq = false) →
        Completes (.stalledPush n) s fun t =>
          (t.bar n).nst.fifo = f.fifo ++ [p.word] ∧ (t.bar n).nst.stalled = r)
    ∧ (∀ p, f.stalled = [p] → p.master = .mgt → p.since + ms 1 ≤ s.now → (∀ m, s.mgt = some m → m.waiting = []) →
        (∀ j, (s.pair j).stepReq = false) → Completes (.mgtPushTimeout n) s fun t => (t.bar n).nst.stalled = []
            ∧ (t.bar n).nst.fifo = f.fifo ∧ t.mgt = none ∧ t.mem = s.mem))
    ∧ (∀ (s : State) (n : Fin 32) (w : DWord) (rest : List DWord) (pb : List PortBWrite), s.updOpen n = true →
        s.ceBad = [] → s.ueBad = [] → (s.bar n).nst.fifo = w :: rest →
    let entry := fun (w : DWord) => 0x02000000 + n.val * 0x40000 + (w.toNat / 2 ^ 15 % 8) * 20480 + w.toNat % 2 ^ 15
    let masked := fun (w : DWord) => (s.byteAt (entry w) &&& ~~~(updMask w)) ||| (updValue w &&& updMask w)
    let locked := fun (w : DWord) => updHonor w = true ∧ (s.byteAt (entry w)).getLsbD 7 = true
    let limit := s.g (F.NST_CTL_UPD_LIMIT n)
    let counts := fun (t : State) (f : Field) (k : Nat) => t.g f = min (s.g f + k) (2 ^ f.w - 1)
    let outside := (s.bar n).page = none
    let inWindow := (s.bar n).inPage = true ∧ s.grid.ticked = true ∧ s.grid.tickT + ns (80 + 16640) ≤ s.now
      ∧ s.now < s.grid.tickT + ns (80 + 17459) + ns 1 / 5
    let opens := inWindow ∧ (s.bar n).nst.windowTick ≠ some s.tick
    let leaves := fun (t : State) (fifo : List DWord) => (t.bar n).nst.fifo = fifo
    let takes := fun (units : Nat) (P : State → Prop) =>
      (outside → Completes (.updateApplyImmediate n pb) s P)
        ∧ (opens → units ≤ limit → rest.length + 1 = units →
            Completes (.updateWindow n pb) s fun t => P t ∧ (t.bar n).nst.windowTick = some s.tick)
    (updPair w = false → (∀ x ∈ pb, x.word ≠ 0) →
      (updVoid w = true → takes 1 fun t => t.mem = s.mem ∧ leaves t rest
          ∧ counts t (F.NST_BAD_ADDR_V n) 1 ∧ t.bit (F.NST_CAUSE_BAD_ADDR n) = true)
      ∧ (updVoid w = false → locked w → takes 1 fun t => t.mem = s.mem ∧ leaves t rest
          ∧ counts t (F.NST_LOCK_SKIP_V n) 1 ∧ t.bit (F.NST_CAUSE_LOCK_SKIP n) = true)
      ∧ (updVoid w = false → ¬ locked w → takes 1 fun t => s.stored t (entry w) [masked w] ∧ leaves t rest
          ∧ counts t (F.NST_APPLIED_V n) 1))
    ∧ (updPair w = false → updVoid w = false → ¬ locked w → ∀ a bs, portBAt (tableBank n) pb 0 = some (a, bs) →
        bs ≠ [] → a / 8 = entry w / 8 →
        let both := fun (t : State) => leaves t rest
          ∧ (∀ x, t.byteAt x = if a ≤ x ∧ x < a + bs.length then bs.getD (x - a) 0
              else if x = entry w then masked w else s.byteAt x)
          ∧ (t.bank (tableBank n)).coll = min ((s.bank (tableBank n)).coll + 1) (2 ^ 32 - 1)
        (outside → Completes (.updateApplyImmediate n pb) s fun t => both t
            ∧ t.reg (A.NST_COLLISIONS n) = s.reg (A.NST_COLLISIONS n)
            ∧ t.bit (F.NST_CAUSE_COLLISION n) = s.bit (F.NST_CAUSE_COLLISION n))
          ∧ (opens → 0 < limit → rest = [] → Completes (.updateWindow n pb) s fun t => both t
              ∧ counts t (F.NST_COLLISIONS_V n) 1 ∧ t.bit (F.NST_CAUSE_COLLISION n) = true))
    ∧ (∀ w2, updPair w = true → rest = [w2] → (∀ x ∈ pb, x.word ≠ 0 ∧ x.word ≠ 1) →
        (updVoid w = true ∨ updVoid w2 = true → takes 2 fun t => t.mem = s.mem ∧ leaves t []
            ∧ counts t (F.NST_BAD_ADDR_V n) 2 ∧ t.bit (F.NST_CAUSE_BAD_ADDR n) = true)
        ∧ (updVoid w = false → updVoid w2 = false → entry w ≠ entry w2 →
            (locked w ∨ locked w2 → takes 2 fun t => t.mem = s.mem ∧ leaves t []
                ∧ counts t (F.NST_LOCK_SKIP_V n) 2 ∧ t.bit (F.NST_CAUSE_LOCK_SKIP n) = true)
            ∧ (¬ locked w → ¬ locked w2 → takes 2 fun t => leaves t [] ∧ counts t (F.NST_APPLIED_V n) 2
                ∧ ∀ x, t.byteAt x = if x = entry w then masked w else if x = entry w2 then masked w2 else s.byteAt x))
        ∧ (opens → limit = 1 → Completes (.updateWindow n pb) s fun t => t.mem = s.mem ∧ leaves t [w, w2]))
    ∧ (¬ inWindow → Completes (.updateWindow n pb) s fun t => t = s)
    ∧ (updPair w = true → rest = [] → outside → Completes (.updateApplyImmediate n pb) s fun t => t = s)
    ∧ (updPair w = true → rest = [] → updVoid w = false → ¬ locked w →
        ((s.bar n).page.isSome = true → inWindow ∧ (s.bar n).nst.windowTick = some s.tick
          ∧ 16 < (s.bar n).nst.pairWindows ∧ (s.bar n).nst.windowUsed < limit) →
        (outside → max ((s.bar n).nst.pairSince.getD s.now) (s.bar n).outT + us 10 ≤ s.now) →
        (∀ x ∈ pb, x.word ≠ 0 ∧ x.word ≠ (s.bar n).nst.windowUsed) →
        Completes (.pairAlone n pb) s fun t => s.stored t (entry w) [masked w] ∧ leaves t []
          ∧ counts t (F.NST_PAIR_ALONE_V n) 1 ∧ t.bit (F.NST_CAUSE_PAIR_ALONE n) = true))
    ∧ ∀ (s : State) (n : Fin 32) (pb : List PortBWrite), s.bit (F.NST_CTL_HOLD n) = true →
      (Completes (.updateApplyImmediate n pb) s fun t => t = s) ∧ (Completes (.pairAlone n pb) s fun t => t = s)
        ∧ Completes (.updateWindow n pb) s fun t => t.mem = s.mem ∧ (t.bar n).nst.fifo = (s.bar n).nst.fifo

/-- Frames of the next line and what their nozzles do (R49 to R52, R56, R58; 03 R79 to R89). The frames of a selected
index: MODE by segment, LINE of the tick that latches them, PCRC of the segment's previous frame, the data bit of each
nozzle at its row's page line; on D8 the segment it carries, whose own lane idles. The header holds its fields and the
CRC-8 of its first 56 bits, each CRC by the shift register of R51. A position's code is that of its slot inside the
print window, and at an active seam that of the trailing zone, which the mixing function gives to one of the two
segments (R66, R84 to R87); Table 3.3 and R82 name the nozzle that fires it, thinning may remove it, and an unplaceable
drop is counted once. The clauses read memory without error words. Where the rules leave a choice: log entries 18,
89. -/
def Obligations.FramesAndDropAllocation : Prop :=
  (∀ (s : State) (n : Fin 32) (i : FrameIdx) (segs : List Nat) (p : Page), s.up (barDomain n) = true → s.ceBad = [] →
    s.ueBad = [] → (s.bar n).sel = some (i, segs) → (s.bar n).page = some p →
    let b := s.bar n
    let t := s.buildFrames n
    let on := fun (k : Nat) => s.segOn n k = true ∧ s.bit (F.FPE_CTL_EN n) = true ∧ k ∉ b.unserved
    let d8 := fun (k : Nat) => s.bit (F.FPE_LANE_SPARE_EN n) = true ∧ s.g (F.FPE_LANE_SPARE_SEG n) = k
    let scans := fun (f : Nat × Nat × Nat → Nat) =>
      (((List.range 8).filter fun k => s.segServed n k && segs.contains k).map fun k =>
        f (s.segScan n p.desc i.idx k 20480)).sum
    (∀ m, m ≠ n → t.bar m = s.bar m)
      ∧ (i.first = false → (t.bar n).page = some p)
      ∧ (i.first = true → (t.bar n).page = some { p with rcd := { p.rcd with
            thin := p.rcd.thin + scans (·.2.1), unpl := p.rcd.unpl + scans (·.2.2) } }
          ∧ t.g (F.NST_THIN_TOTAL_V n) = min (s.g (F.NST_THIN_TOTAL_V n) + scans (·.2.1)) (2 ^ 32 - 1)
          ∧ t.g (F.NST_UNPL_TOTAL_V n) = min (s.g (F.NST_UNPL_TOTAL_V n) + scans (·.2.2)) (2 ^ 32 - 1))
      ∧ ∃ f, (t.bar n).shifting = some f ∧ (t.bar n).lastSent = some f ∧ f.idx = some i ∧ f.test = none
          ∧ f.segs.length = 8 ∧ ∀ k, k < 8 → ∃ x, f.segs[k]? = some x
            ∧ (¬ on k → x.mode = .idle) ∧ (on k → k ∈ segs → x.mode = .print) ∧ (on k → k ∉ segs → x.mode = .warm)
            ∧ x.line = (s.tick + 1) % 256 ∧ (x.onSpare = true ↔ d8 k)
            ∧ (1 ≤ s.stage n → x.warm = 0)
            ∧ (s.stage n = 0 → x.warm = min (s.g ⟨A.FPE_WARMCNT_LIVE n, 3 * k, 3⟩) (s.g F.GRID_WARM_LIVE_SLOTS))
            ∧ (b.lastSent = none → x.pcrc = crc16 20480 0)
            ∧ (∀ g y, b.lastSent = some g → g.segs[k]? = some y → x.pcrc = crc16 20480 y.data.toNat)
            ∧ (x.mode ≠ .print → x.data = 0)
            ∧ (x.mode = .print → ∀ j, j < 20480 → x.data.getLsbD j
                = (s.nozzleEval n p.desc ((i.idx : Int) - s.rowOfs n (j / 5120)) k j).1)
            ∧ (k ∉ b.unserved → ¬ d8 k → f.lane k = some (k, x))
            ∧ (k ∉ b.unserved → d8 k → f.lane 8 = some (k, x)
                ∧ f.lane k = some (k, { x with mode := .idle, onSpare := false, data := 0 })))
    ∧ (∀ (f : SegFrame) (seg : Nat), seg < 8 → f.warm < 8 → f.line < 256 → f.pcrc < 2 ^ 16 →
    let h := (f.header seg).toNat
    h % 2 ^ 8 = 0xA9 ∧ h / 2 ^ 8 % 8 = seg ∧ (h.testBit 11 = f.onSpare)
      ∧ h / 2 ^ 12 % 4 = (match f.mode with | .print => 0 | .warm => 1 | .test => 2 | .idle => 3)
      ∧ h / 2 ^ 14 % 8 = f.warm ∧ h / 2 ^ 17 % 2 ^ 7 = 0 ∧ h / 2 ^ 24 % 256 = f.line ∧ h / 2 ^ 32 % 2 ^ 16 = f.pcrc
      ∧ h / 2 ^ 48 % 256 = 0 ∧ h / 2 ^ 56 = crcBits 8 0x07 0 56 (h % 2 ^ 56))
    ∧ (∀ (w poly init m v : Nat), 0 < w → init < 2 ^ w → poly < 2 ^ w →
    let r := crcBits w poly init m v
    crcBits w poly init 0 v = init ∧ r < 2 ^ w
      ∧ crcBits w poly init (m + 1) v
          = if (r.testBit (w - 1) != v.testBit m) = true then (r * 2 % 2 ^ w) ^^^ poly else r * 2 % 2 ^ w)
    ∧ (∀ (seed : Word) (l x : Nat),
    lfsrAt seed 0 = (if seed = 0 then 1 else seed.toNat)
      ∧ lfsrAt seed (l + 1) = (if (lfsrAt seed l) % 2 = 1 then (lfsrAt seed l) / 2 ^^^ 0x80200003 else (lfsrAt seed l) / 2)
      ∧ mixH (lfsrAt seed l) x = ((lfsrAt seed l ^^^ (x * 0x9E3779B9 % 2 ^ 32)) * 0x85EBCA6B) % 2 ^ 32)
    ∧ (∀ (s : State) (n : Fin 32) (d : PageDesc) (l : Int) (seg p : Nat), s.ueBad = [] → seg < 8 → p < 10240 →
    let o := s.g (F.NST_STITCH_LIVE_OVERLAP n)
    let win := fun (g q : Nat) => s.g (F.FPE_WIN_START_LIVE_V n) ≤ 10240 * g + q
      ∧ 10240 * g + q ≤ s.g (F.FPE_WIN_END_LIVE_V n)
    let slot := fun (g q : Nat) => if l < 0 ∨ (d.lines : Int) ≤ l then 0
      else (s.byteAt (n.val * 0x100000 + (d.base + l.toNat) % 48 * 20480 + g * 2560 + q / 4)).toNat / 4 ^ (q % 4) % 4
    let seam := fun (k : Nat) => d.kind = 0 ∧ 0 < o ∧ k < 7 ∧ s.segOn n k = true ∧ s.segOn n (k + 1) = true
    let passes := fun (k j c : Nat) => (c = 1 ∨ c = 2)
      ∧ mixH (lfsrAt d.seed l.toNat) (0x40000 + 10240 * (k + 1) - o + j) / 2 ^ 19 % 256 < 256 * (j + 1) / (o + 1)
    let code := s.codeOf n d l seg p
    (¬ (seam seg ∧ 10240 - o ≤ p) → ¬ (0 < seg ∧ seam (seg - 1) ∧ p < o) →
      (win seg p → code = slot seg p) ∧ (¬ win seg p → code = 0))
      ∧ (seam seg → 10240 - o ≤ p →
          (¬ win seg p → code = 0)
            ∧ (win seg p → passes seg (p - (10240 - o)) (slot seg p) → code = 0)
            ∧ (win seg p → ¬ passes seg (p - (10240 - o)) (slot seg p) → code = slot seg p))
      ∧ (0 < seg → seam (seg - 1) → p < o →
          let q := 10240 - o + p
          (win (seg - 1) q → win seg p → passes (seg - 1) p (slot (seg - 1) q) → code = slot (seg - 1) q)
            ∧ (¬ win (seg - 1) q ∨ ¬ win seg p ∨ ¬ passes (seg - 1) p (slot (seg - 1) q) → code = 0)))
    ∧ ∀ (s : State) (n : Fin 32) (d : PageDesc) (l : Int) (seg i : Nat), s.ueBad = [] → i < 20480 →
      let p := 2 * (i % 5120) + i / 5120 % 2
      let entry := fun (q : Nat) => (s.byteAt (0x02000000 + n.val * 0x40000 + seg * 20480 + q)).toNat
      let pri := if p % 2 = 0 then p / 2 else 5120 + (p - 1) / 2
      let P := entry pri % 4
      let Q := entry (pri + 10240) % 4
      let first := i < 10240
      let even := (l + p) % 2 = 0
      let c := s.codeOf n d l seg p
      let takes := (first ∧ ((P = 0 ∧ (Q = 0 → c = 2 ∨ even)) ∨ (P = 1 ∧ 2 ≤ Q)))
        ∨ (¬ first ∧ ((Q = 0 ∧ (P = 0 → c = 2 ∨ ¬ even)) ∨ (Q = 1 ∧ 2 ≤ P)))
      let thins := s.bit (F.FPE_ROWOFS_LIVE_THIN_EN n) = true
        ∧ mixH (lfsrAt d.seed l.toNat) (seg * 20480 + i) / 2 ^ 27 < entry i / 4 % 32
      let r := s.nozzleEval n d l seg i
      (c = 0 → r = (false, 0, 0))
        ∧ (c = 1 ∨ c = 2 → (r.1 = true ↔ takes ∧ ¬ thins) ∧ (takes → thins → r.2.1 = 1)
            ∧ (¬ takes ∨ ¬ thins → r.2.1 = 0)
            ∧ (¬ first ∨ (P = 3 ∧ Q = 3) ∨ (P = 0 ∧ Q = 0) → r.2.2 = 0)
            ∧ (first → (P = 0 ∧ Q ≠ 0) ∨ (P ≠ 0 ∧ Q = 0) ∨ (P = 1 ∧ 2 ≤ Q) ∨ (2 ≤ P ∧ Q = 1) → r.2.2 = c - 1)
            ∧ (first → (P = 1 ∧ Q = 1) ∨ (2 ≤ P ∧ 2 ≤ Q ∧ ¬ (P = 3 ∧ Q = 3)) → r.2.2 = c))
        ∧ (c = 3 →
            let named := (first ↔ d.pt = 0)
            let own := if first then P else Q
            (r.1 = true ↔ named ∧ own ≠ 3) ∧ r.2.1 = 0
              ∧ (named → own = 3 → ¬ (P = 3 ∧ Q = 3) → r.2.2 = 1)
              ∧ (¬ named ∨ own ≠ 3 ∨ (P = 3 ∧ Q = 3) → r.2.2 = 0))

/-- A plain stream (R106, R107): bytes that land in one stream line whose slot is open are written to its slot, and
the line is ready once every byte of it is written; bytes of a line whose slot is not free wait. -/
def Obligations.PlainRasterLandsInItsSlot : Prop :=
  ∀ (s : State) (n : Fin 32) (off : Nat) (bytes : List Byte), s.seqRun = false → s.up (barDomain n) = true →
    s.bit (F.RSP_CTL_FMT n) = false → s.ceBad = [] → s.ueBad = [] → bytes ≠ [] → off % 20480 + bytes.length ≤ 20480 →
    let r := (s.bar n).rsp
    let line := off / 20480
    let old := ((r.slots.find? fun x => x.line == line).map (·.mask)).getD 0
    let mask := old ||| BitVec.ofNat 20480 ((2 ^ bytes.length - 1) * 2 ^ (off % 20480))
    r.discarded line = false → r.release ≤ line → r.lineReady line = false →
      (line < r.release + 48 → Completes (.rasterWrite n off bytes) s fun t =>
        s.stored t (n.val * 0x100000 + line % 48 * 20480 + off % 20480) bytes
          ∧ (t.bar n).rsp.waiting = r.waiting
          ∧ (t.bar n).rsp.slots = (r.slots.filter fun x => x.line != line)
              ++ [⟨line, mask, decide (mask = BitVec.allOnes 20480)⟩])
      ∧ (r.release + 48 ≤ line → Completes (.rasterWrite n off bytes) s fun t =>
          t.mem = s.mem ∧ (t.bar n).rsp = { r with waiting := r.waiting ++ [⟨off, bytes⟩] })

/-- The packed decoder (R111 to R116, R133): a page header that agrees with its descriptor begins the page and one that
does not is a stream error, with no descriptor the decoder waits; a token header begins a literal, zero or repeat run of
N + 1 words; a padding token is skipped; END after the last word ends the page; a token out of its place, a run past the
last word and a reserved token are stream errors. The words of a zero run are zeros, one of a literal run is the next 16
staged bytes, one of a repeat run the word of the same index in the page line before, zeros before line 0. A line begins
in an open slot, at a credit while RUN is 1, and is ready when it is complete. ABANDON ends the page in progress at the
next tick and does nothing outside one; RESET_STREAM outside a page empties the supply, numbers the queued pages from
stream line 0 and loads FMT, and does nothing inside one (R105, R134, R135). Where the rules leave a choice: log entries
20, 43. -/
def Obligations.PackedDecoderAndStreamControl : Prop :=
  (∀ (s : State) (n : Fin 32) (pb : List PortBWrite), s.decLive n = true → s.ceBad = [] → s.ueBad = [] →
    (s.bar n).rsp.waiting = [] →
    let r := (s.bar n).rsp
    let staged := fun k => s.stagedBytes n k
    let begins := fun (c : Instr) (d : DescCopy) (rest : List DescCopy) => Completes c s fun t =>
      (t.bar n).rsp = { r with stageOut := r.stageOut + 16, copies := rest, dec := .tokens d 0 none none }
        ∧ t.g (F.RSP_STATUS_DEC n) = 1 ∧ t.mem = s.mem
    let fails := fun (c : Instr) (code : Nat) => Completes c s fun t =>
      t.g (F.RSP_STATUS_DEC n) = 3 ∧ t.g (F.RSP_STATUS_ERR_DETAIL n) = code
        ∧ t.bit (F.FPE_LCAUSE_STREAM_ERR n) = true ∧ t.mem = s.mem
    (r.dec = .header → r.stageOut + 16 ≤ r.stageIn →
      (r.copies = [] → Completes (.packedPageHeader n) s fun t =>
        s.onlyRegs t [A.RSP_STATUS n] ∧ t.g (F.RSP_STATUS_DEC n) = 2)
      ∧ ∀ d rest, r.copies = d :: rest →
          (headerFault (staged 16) d = 0 → begins (.packedPageHeader n) d rest
            ∧ (s.g (F.RSP_STATUS_DEC n) = 2 → begins (.waitDescEnd n) d rest))
          ∧ (headerFault (staged 16) d ≠ 0 → fails (.packedPageHeader n) (headerFault (staged 16) d)))
    ∧ (∀ d word line, r.dec = .tokens d word none line → r.stageOut + 2 ≤ r.stageIn → word < d.lines * 1280 →
        (∀ l, line = some l → word ≠ (l + 1) * 1280) → leNat (staged 2) = 0xC000 →
            Completes (.packedToken n pb) s fun t =>
          (t.bar n).rsp = { r with stageOut := r.stageOut + 2 } ∧ t.mem = s.mem)
    ∧ (∀ d word line, r.dec = .tokens d word none line → r.stageOut + 2 ≤ r.stageIn →
        (∀ l, line = some l → word ≠ (l + 1) * 1280) →
        let h := leNat (staged 2)
        let last := d.lines * 1280
        (h / 2 ^ 14 = 3 → h % 2 ^ 14 ≠ 0 → h % 2 ^ 14 ≠ 0x3FFF → fails (.packedToken n pb) 4)
          ∧ (h / 2 ^ 14 < 3 → word < last → last < word + h % 2 ^ 14 + 1 → fails (.packedToken n pb) 5)
          ∧ (h = 0xFFFF → word ≠ last → fails (.packedToken n pb) 6)
          ∧ (h / 2 ^ 14 < 3 ∨ h = 0xC000 → word = last → fails (.packedToken n pb) 7)
          ∧ (h = 0xFFFF → word = last → Completes (.packedToken n pb) s fun t =>
              (t.bar n).rsp = { r with stageOut := r.stageOut + 2, dec := .header } ∧ t.mem = s.mem
                ∧ t.g (F.RSP_STATUS_DEC n) = 0)
          ∧ (h / 2 ^ 14 < 3 → line = none → word + h % 2 ^ 14 + 1 ≤ last → r.discarded (d.base + word / 1280) = false →
              let kind := if h / 2 ^ 14 = 0 then RunKind.literal else if h / 2 ^ 14 = 1 then .zero else .copy
              Completes (.packedToken n pb) s fun t => t.mem = s.mem ∧ (t.bar n).rsp = { r with
                stageOut := r.stageOut + 2, dec := .tokens d word (some (kind, h % 2 ^ 14 + 1)) none }))
    ∧ (∀ d word, r.discarded (d.base + word / 1280) = false →
        let at_ := fun (l w : Nat) => n.val * 0x100000 + (d.base + l) % 48 * 20480 + 16 * (w % 1280)
        let writes := fun (words : Nat) (bs : List Byte) (used : Nat) => (∀ x ∈ pb, 2 * words ≤ x.word) →
          Completes (.packedToken n pb) s fun t => s.stored t (at_ (word / 1280) word) bs
            ∧ (t.bar n).rsp.dec = .tokens d (word + words) none (some (word / 1280))
            ∧ (t.bar n).rsp.stageOut = r.stageOut + used
        (∀ m, 0 < m → word % 1280 + m ≤ 1280 → r.dec = .tokens d word (some (.zero, m)) (some (word / 1280)) →
            writes m (List.replicate (16 * m) 0#8) 0)
          ∧ (r.dec = .tokens d word (some (.literal, 1)) (some (word / 1280)) →
              (r.stageOut + 16 ≤ r.stageIn → writes 1 (staged 16) 16)
                ∧ (r.stageIn < r.stageOut + 16 → Completes (.packedToken n pb) s fun t => t.mem = s.mem
                    ∧ (t.bar n).rsp = r))
          ∧ (r.dec = .tokens d word (some (.copy, 1)) (some (word / 1280)) →
              (word < 1280 → writes 1 (List.replicate 16 0#8) 0)
                ∧ (1280 ≤ word → writes 1 ((List.range 16).map fun i => s.byteAt (at_ (word / 1280 - 1) word + i)) 0)))
    ∧ (∀ d word run, r.dec = .tokens d word run none → word < d.lines * 1280 →
        r.discarded (d.base + word / 1280) = false → r.slotOpen (d.base + word / 1280) = true →
        (s.bit F.GRID_CTL_RUN = true → 0 < r.credit) → Completes (.decodeLineBegin n) s fun t =>
          (t.bar n).rsp = { r with
              credit := if s.bit F.GRID_CTL_RUN then r.credit - 1 else r.credit
              slots := r.slots ++ [⟨d.base + word / 1280, 0, false⟩]
              dec := .tokens d word run (some (word / 1280)) } ∧ t.mem = s.mem)
    ∧ (∀ d l run, r.dec = .tokens d ((l + 1) * 1280) run (some l) → Completes (.lineDecoded n) s fun t =>
        (∀ x ∈ (t.bar n).rsp.slots, x.line = d.base + l → x.ready = true)
          ∧ (t.bar n).rsp.dec = .tokens d ((l + 1) * 1280) run none ∧ t.mem = s.mem))
    ∧ (∀ (s : State) (n : Fin 32) (fmt : Bool), s.takes (A.RSP_CTL n) →
    (Completes (.abandon n) s fun t =>
      t = { s with bars := t.bars } ∧ (∀ m, m ≠ n → t.bar m = s.bar m)
        ∧ t.bar n = { s.bar n with abandon := (s.bar n).abandon || (s.bar n).page.isSome })
    ∧ ((s.bar n).page.isSome = true → Completes (.resetStream n fmt) s fun t => t = s)
    ∧ ((s.bar n).page = none → Completes (.resetStream n fmt) s fun t =>
        s.onlyBarAndRegs t n [A.RSP_STATUS n, A.RSP_STREAM_LINE n, A.RSP_CTL n]
          ∧ (t.bar n).rsp.slots = [] ∧ (t.bar n).rsp.waiting = [] ∧ (t.bar n).rsp.dec = .header
          ∧ (t.bar n).queue.length = (s.bar n).queue.length
          ∧ (∀ i d, (t.bar n).queue[i]? = some d →
              d.base = (((s.bar n).queue.take i).map fun x => x.lines).sum)
          ∧ t.g (F.RSP_STATUS_DEC n) = 0 ∧ t.g (F.RSP_STREAM_LINE_V n) = 0 ∧ t.bit (F.RSP_CTL_FMT n) = fmt))

/-! ## Position (chapter 05) -/

/-- Encoder inputs (R138 to R144): an accepted change of one of A and B, which passes its filter, counts by one in the
order 00, 10, 11, 01, reversed by DIR, and moves the print axis when its channel is active and within the soft limits;
a change of both is no count but an illegal transition; equal levels on a pair for more than TDIS samples set WIRE,
which clears after 1 ms without; an index latches the count; a held correction applies outside pages. Where the rules
leave a choice: log entry 91. -/
def Obligations.EncoderInputsCount : Prop :=
  ∀ (s : State) (c : Fin 4) (a b : Bool),
    let e := encChan c
    let ch := s.chan e
    let forward := decide ((a, b) = (!ch.b, ch.a)) != s.bit (F.POS_ENCc_CFG_DIR c)
    let d : Int := if forward then 1 else -1
    let k := s.g (F.POS_ENCc_CFG_FILT c) + 1
    let passes := fun (now last : Bool) (at_ : Option Nat) => now = last ∨ ∀ x, at_ = some x →
        x + k * posCycle ≤ s.now
    (s.encLive c = true → passes a ch.a ch.aT → passes b ch.b ch.bT →
      ((a, b) = (!ch.a, ch.b) ∨ (a, b) = (ch.a, !ch.b) → Completes (.encoderCount c a b) s fun t =>
        (t.chan e).raw = ch.raw + d ∧ (t.chan e).a = a ∧ (t.chan e).b = b
          ∧ (∀ x, x ≠ e → t.chan x = s.chan x)
          ∧ (s.activeSrc = some e → s.onSec = false → s.axisLost = false →
              s.softLo * 2 ^ 24 ≤ s.pos.c + d * 2 ^ 24 → s.pos.c + d * 2 ^ 24 ≤ s.softHi * 2 ^ 24 →
              t.pos.c = s.pos.c + d * 2 ^ 24)
          ∧ (s.activeSrc ≠ some e → t.pos.c = s.pos.c))
      ∧ ((a, b) = (!ch.a, !ch.b) → Completes (.encoderCount c a b) s fun t =>
          (t.chan e).raw = ch.raw ∧ (t.chan e).a = a ∧ (t.chan e).b = b ∧ t.pos.c = s.pos.c
            ∧ t.bit (encCause c 1) = true
            ∧ t.g (F.POS_ENCc_ILL_V c) = min (s.g (F.POS_ENCc_ILL_V c) + 1) (2 ^ (F.POS_ENCc_ILL_V c).w - 1))
      )
    ∧ (ch.same[1]? = some none → Completes (.wireDisagree c .b true) s fun t =>
        t = { s with pos := t.pos } ∧ t.chan e = { ch with same := ch.same.set 1 (some s.now) })
    ∧ (∀ x, ch.same[1]? = some (some x) →
        (s.posLive = true → ch.live[1]? = some false → x + s.g (F.POS_ENCc_CFG_TDIS c) * posCycle < s.now →
          Completes (.wireDisagree c .b true) s fun t =>
            (t.chan e).wire = ch.wire.set 1 true ∧ (t.chan e).live = ch.live.set 1 true ∧ (t.chan e).raw = ch.raw
              ∧ t.bit (encCause c 0) = true)
        ∧ (s.now ≤ x + s.g (F.POS_ENCc_CFG_TDIS c) * posCycle → Completes (.wireDisagree c .b true) s fun t => t = s)
        ∧ Completes (.wireDisagree c .b false) s fun t =>
            t = { s with pos := t.pos }
              ∧ t.chan e = { ch with same := ch.same.set 1 none, live := ch.live.set 1 false, cleanSince := s.now })
    ∧ (s.encLive c = true → (∀ x, ch.zT = some x → x + 2 * k * posCycle ≤ s.now) →
        s.bit (F.POS_ENCc_CFG_ZEN c) = true →
        s.bit (F.POS_ENCc_CFG_ZGATE c) = false → s.g (F.POS_ENCc_PER_V c) = 0 → Completes (.encoderIndex c) s fun t =>
          s.onlyRegs { t with pos := s.pos } [A.POS_ENCc_INDEX c] ∧ t.g (F.POS_ENCc_INDEX_V c) = ch.cnt
            ∧ t.chan e = { ch with zT := some s.now } ∧ t.pos.c = s.pos.c)
    ∧ (s.takes A.POS_ENC_CAUSE → (∀ x ∈ ch.same, x = none) → ch.cleanSince + ms 1 ≤ s.now →
        Completes (.wireClear c) s fun t => t.bit (encCause c 0) = false ∧ (t.chan e).wire = [false, false, false])
    ∧ (s.takes A.POS_ENC_CAUSE → (∃ x, some x ∈ ch.same) ∨ s.now < ch.cleanSince + ms 1 →
        Completes (.wireClear c) s fun t => t = s)
    ∧ (s.anyInPage = false → ch.heldCorr ≠ 0 → Completes (.indexCorrection c) s fun t =>
        (t.chan e).raw = ch.raw - ch.heldCorr ∧ (t.chan e).heldCorr = 0)

/-- The SSI channel (R145, R146): a frame starts when one is due, at a line tick or at a whole number of periods after
the last start, and none runs; a frame whose start bit and monoflop are right is stored as VAL with no parity or Gray
code configured, and a bad one is rejected with its cause and counted; three rejected frames in a row fail the source.
That a start is taken within the POS cycle of its time, and that the times stay those of the last start when one is
skipped, is the model's choice (log entry 91); that a frame with several faults is rejected for FRAME first is too
(log entry 23). -/
def Obligations.SsiFramesAreTakenOrRejected : Prop :=
  ∀ (s : State) (bits : BitVec 48) (data parity : Bool),
    let x := s.pos.ssi
    let n := s.g F.POS_SSI_CFG_BITS
    let atTicks := s.running = true ∧ s.bit F.POS_SSI_CFG_TRIG = false
    let starts := fun (slot : Nat) => Completes (.ssiFrameStart data) s fun t =>
      t = { s with pos := t.pos }
          ∧ t.pos.ssi = { x with running := true, fallT := s.now, lastStart := slot, startLow := !data }
    (s.ssiLive = true → x.running = false →
      (atTicks → s.grid.ticked = true → s.now < s.grid.tickT + posCycle → starts s.now)
      ∧ (¬ atTicks → ∀ k r, 0 < s.g F.POS_SSI_PERIOD_V → 0 < k → r < posCycle →
          s.now = x.lastStart + k * us (s.g F.POS_SSI_PERIOD_V) + r →
          starts (x.lastStart + k * us (s.g F.POS_SSI_PERIOD_V))))
    ∧ (x.running = true ∨ (atTicks ∧ s.grid.tickT + posCycle ≤ s.now) → Completes (.ssiFrameStart data) s fun t =>
        t = s)
    ∧ (s.ssiLive = true → x.running = true → s.g F.POS_SSI_CFG_PAR = 0 → s.bit F.POS_SSI_CFG_GRAY = false →
        x.fallT + (2 * n + 1) * (s.g F.POS_SSI_CFG_DIV + 1) * posCycle ≤ s.now →
        (x.startLow = false → x.prev = none → Completes (.ssiFrame bits parity false) s fun t =>
          t.pos.ssi.running = false ∧ t.pos.ssi.rejects = 0 ∧ t.pos.ssi.prev = some (bits.toNat % 2 ^ n)
            ∧ t.g F.POS_SSI_VAL_LO_V = bits.toNat % 2 ^ n % 2 ^ 32 ∧ t.bit F.POS_ENC_CAUSE_SSI_FAIL = false)
        ∧ Completes (.ssiFrame bits parity true) s fun t =>
          t.pos.ssi = { x with running := false, rejects := x.rejects + 1 } ∧ t.bit F.POS_ENC_CAUSE_FRAME = true
            ∧ t.g F.POS_SSI_ERRS_V = min (s.g F.POS_SSI_ERRS_V + 1) (2 ^ F.POS_SSI_ERRS_V.w - 1))
    ∧ (3 ≤ x.rejects → Completes .ssiFail s fun t =>
        s.onlyRegsAndEvents t [A.POS_ENC_CAUSE] ∧ t.bit F.POS_ENC_CAUSE_SSI_FAIL = true)

/-- Speed, fail-over and rebase (R149, R150, R153, R154, R156 to R161): every estimate takes its decay term; a source
at standstill loses its estimate; an anchor, once a line tick or every 10 us while RUN is 0 and only from a healthy
primary, keeps C and both counts, whether it is the first or agrees with the one before, and diverging sources keep the
old one; a failed primary hands the axis to a healthy secondary at C = anchor + ratio within the soft limits, else the
axis is lost, and with AUTO_FO 0 only the reason is kept; USE_PRI returns it; a rebase moves C, and is refused inside a
page. That the anchor stays as it is through FAILOVER and USE_PRI is the model's reading of R156 (log entry 91). Where
the rules leave a choice: log entries 23, 25, 91.

Top of form and comparators (R162 to R164, R166, R167): an edge of the set polarity is captured with C at its
time, behind those that still wait, and published in the ring entry of its sequence number once its filters have
passed, the oldest first; one inside the lockout, and one whose level does not stay for MINW samples, is rejected,
counted and reported; a comparator hits when its condition holds, from the cycle it is armed for, disarms unless it is
armed again in that cycle, keeps the time and sets its cause. Where the rules leave a choice: log entry 28. -/
def Obligations.FailoverCapturesAndComparators : Prop :=
  (∀ (s : State) (c p q : Fin 5),
     let due := (s.bit F.GRID_CTL_RUN = true ∧ s.grid.ticked = true ∧ s.pos.anchorTick ≠ some s.tick)
       ∨ (s.bit F.GRID_CTL_RUN = false ∧ s.pos.anchorT + us 10 ≤ s.now)
     (Completes .speedReeval s fun t =>
       ∀ x, t.chan x = { s.chan x with est := (s.chan x).est.eval (2 ^ s.g F.POS_EST_CFG_AVG) s.now })
     ∧ (∀ x r, (s.chan c).est.hist = x :: r → x.1 + us (s.g F.POS_EST_CFG_STANDSTILL) < s.now →
         Completes (.standstill c) s fun t =>
           (t.chan c).est.v = 0 ∧ (t.chan c).est.valid = false ∧ (t.chan c).est.hist = []
               ∧ (t.chan c).raw = (s.chan c).raw
             ∧ (s.activeSrc = some c → s.axisLost = false → t.bit F.POS_CAUSE_STANDSTILL = true))
     ∧ (s.priSrc = some p → s.secSrc = some q → s.posLive = true →
         let ratio : Int := s.g F.POS_SEC_RATIO_V
         let apart := fun (o : Anchor) =>
           (((s.chan p).raw - o.pri) * 2 ^ 24 - ((s.chan q).raw - o.sec) * ratio).natAbs
         (¬ due ∨ s.priOk = false → Completes .failoverAnchor s fun t => t = s)
         ∧ (s.priOk = true → due →
           ((∀ o, s.pos.anchor = some o → apart o ≤ s.g F.POS_FO_CFG_DIVERGE * 2 ^ 24) →
             Completes .failoverAnchor s fun t =>
             t = { s with pos := { s.pos with anchor := some ⟨s.pos.c, (s.chan q).raw, (s.chan p).raw⟩,
                                              anchorT := s.now, anchorTick := some s.tick } })
           ∧ ∀ o, s.pos.anchor = some o → s.g F.POS_FO_CFG_DIVERGE * 2 ^ 24 < apart o →
               Completes .failoverAnchor s fun t =>
                 s.onlyRegsAndEvents { t with pos := s.pos } [A.POS_DIVERGES, A.POS_CAUSE]
                   ∧ t.pos = { s.pos with anchorT := s.now, anchorTick := some s.tick }
                   ∧ t.bit F.POS_CAUSE_DIVERGE = true ∧ s.counted t F.POS_DIVERGES_V)
         ∧ (s.axisLost = true → Completes .failover s fun t => t = s)
         ∧ (s.onSec = false → s.failReason p true = 0 → Completes .failover s fun t => t = s)
         ∧ (s.onSec = false → s.axisLost = false → s.failReason p true ≠ 0 → s.bit F.POS_AXIS_CFG_AUTO_FO = false →
             Completes .failover s fun t => s.onlyRegs t [A.POS_AXIS_STATUS]
               ∧ t.g F.POS_AXIS_STATUS_FO_REASON = s.failReason p true)
         ∧ (s.onSec = false → s.axisLost = false → s.failReason p true ≠ 0 → s.bit F.POS_AXIS_CFG_AUTO_FO = true →
             (∀ a, s.secOk = true → s.pos.anchor = some a → Completes .failover s fun t =>
               t.pos.c = max (s.softLo * 2 ^ 24) (min (s.softHi * 2 ^ 24) (a.c + ratio * ((s.chan q).raw - a.sec)))
                 ∧ t.pos.anchor = some a
                 ∧ t.bit F.POS_AXIS_STATUS_ACTIVE = true ∧ t.g F.POS_AXIS_STATUS_FO_REASON = s.failReason p true
                 ∧ t.bit F.POS_CAUSE_FAILOVER = true)
             ∧ (s.secOk = false ∨ s.pos.anchor = none → Completes .failover s fun t =>
                 t.pos.c = s.pos.c ∧ t.pos.anchor = s.pos.anchor ∧ t.bit F.POS_AXIS_STATUS_LOST = true ∧ t.bit F.POS_CAUSE_AXIS_LOST = true)))
     ∧ (s.priSrc = none ∨ s.secSrc = none → Completes .failoverAnchor s fun t => t = s)
     ∧ (s.takes A.POS_CTL →
         (s.priOk = true → s.running = true → Completes .usePri s fun t =>
           t = { s with pos := { s.pos with usePri := true } })
         ∧ (s.priOk = true → s.running = false → Completes .usePri s fun t =>
             t.bit F.POS_AXIS_STATUS_ACTIVE = false ∧ t.bit F.POS_AXIS_STATUS_LOST = false
               ∧ t.pos.anchor = s.pos.anchor ∧ t.pos.c = s.pos.c)
         ∧ (s.priOk = false → Completes .usePri s fun t => t = s)
         ∧ (s.anyInside = true → Completes .rebase s fun t =>
             s.onlyRegsAndEvents t [A.POS_CAUSE] ∧ t.bit F.POS_CAUSE_REBASE_REFUSED = true)
         ∧ (s.anyInside = false → Completes .rebase s fun t =>
             t.pos.c = s.pos.c - s.g48 F.POS_REBASE_LO_V F.POS_REBASE_HI_V / 256 * 2 ^ 24
               ∧ ∀ x, t.chan x = s.chan x)))
  ∧ ∀ (s : State) (t : Fin 4) (level : Bool) (sub : Fin 13) (c : Fin 16),
      let x := s.tofIn t
      let edge := s.bit (F.POS_TOFt_CFG_EDGE t)
      let minw := s.g (F.POS_TOFt_CFG_MINW t) * posCycle
      let cross := s.now + sub.val * 5120
      let near := fun (y : Int) => (s.pos.c / 2 ^ 24 - y).natAbs < s.g (F.POS_TOFt_CFG_LOCKOUT t)
      let waits := fun (p : Capture) => s.now < p.t + max (s.g (F.POS_TOFt_CFG_MINW t)) s.captureFilter * posCycle
      let locked := (∃ y, x.last = some y ∧ near y) ∨ ∃ p ∈ x.pend, near (p.c / 2 ^ 24)
      let rejected := fun (u : State) => s.counted u (F.POS_TOFt_REJ_V t) ∧ u.bit ⟨A.POS_TOF_CAUSE, 4 + t.val, 1⟩ = true
          ∧ u.g (F.POS_TOFt_SEQ_SEQ t) = s.g (F.POS_TOFt_SEQ_SEQ t)
      (s.posLive = true → level ≠ x.level → (∀ p ∈ x.pend, waits p) →
        (s.bit (F.POS_TOFt_CFG_EN t) = true → level ≠ edge → (∀ p ∈ x.pend, p.t + minw ≤ cross) →
          (¬ locked → Completes (.tofCapture t level sub) s fun u =>
            u = { s with pos := u.pos, cal := u.cal } ∧ (u.tofIn t).level = level
              ∧ ∃ p, (u.tofIn t).pend = x.pend ++ [p] ∧ p.t = cross ∧ p.c = s.pos.c)
          ∧ (locked → Completes (.tofCapture t level sub) s fun u =>
              (u.tofIn t).pend = x.pend ∧ (u.tofIn t).level = level ∧ rejected u))
        ∧ ∀ p, x.pend = [p] → level = edge → cross < p.t + minw → Completes (.tofCapture t level sub) s fun u =>
            (u.tofIn t).pend = [] ∧ (u.tofIn t).level = level ∧ rejected u)
      ∧ (∀ p r, x.pend = p :: r → ¬ waits p → Completes (.tofPublish t) s fun u =>
          let seq := if s.bit (F.POS_TOFt_SEQ_ANY t) then (s.g (F.POS_TOFt_SEQ_SEQ t) + 1) % 65536 else 0
          (u.tofIn t).pend = r ∧ u.g (F.POS_TOFt_SEQ_SEQ t) = seq ∧ u.bit (F.POS_TOFt_SEQ_ANY t) = true
            ∧ u.reg (A.POS_RING t (seq % 16) 4) = BitVec.ofNat 32 (seq + 2 ^ 16)
            ∧ u.reg (A.POS_RING t (seq % 16) 2) = BitVec.ofNat 32 (p.t / 65536)
            ∧ u.bit ⟨A.POS_TOF_CAUSE, t.val, 1⟩ = true)
      ∧ (x.pend = [] ∨ (∃ p r, x.pend = p :: r ∧ waits p) → Completes (.tofPublish t) s fun u => u = s)
      ∧ (s.seqRun = false → s.up .pos = true → s.bit (F.POS_CMPc_CTL_ARM c) = true →
          let now := if s.bit (F.POS_CMPc_CTL_SRC c) then s.ppNow.1 else s.posNow.1
          let target := s.g48 (F.POS_CMPc_TGT_LO_V c) (F.POS_CMPc_TGT_HI_V c)
          let hits := (s.g (F.POS_CMPc_CTL_MODE c) = 1 ∧ target ≤ now) ∨ (s.g (F.POS_CMPc_CTL_MODE c) = 2
              ∧ now ≤ target)
          let from_ := (s.pos.cmp[c]).evalFrom
          (hits → from_ ≤ s.now / posCycle → Completes (.comparatorHit c) s fun u =>
            u.bit (F.POS_CMPc_CTL_ARM c) = decide ((s.pos.cmp[c]).rearmed = some (s.now / posCycle))
              ∧ u.reg (A.POS_CMPc_TS c) = BitVec.ofNat 32 s.ts ∧ u.bit ⟨A.POS_CMP_CAUSE, c.val, 1⟩ = true)
          ∧ (¬ hits ∨ s.now / posCycle < from_ → Completes (.comparatorHit c) s fun u => u = s))

/-! ## Transport (chapter 06) -/

/-- Load points (R175 to R177, R179 to R181, R183, R186 to R188, R190): a load point that is due samples the servo
(tick, PP, Y, the error, v, v_ref and the code) and raises event 0x25; the pin holds 0 in follower mode, and in an idle
leader with the drive enabled, the clamped U, of which a write in the load point's own POS cycle counts only from the
next one on; each state of Table 6.2 steps v_ref and Y as the table says, RAMP ending in TRACK or, after STOP, in IDLE;
the Pirouette is planned at its load point with J, P_re and P_back and runs PIR_DECEL, PIR_REVERSE, PIR_WAIT,
PIR_APPROACH and PIR_SETTLE, where a settled medium arms re-entry and an unsettled one is a lap; stale and overspeed
runs latch XSTOP. Where the rules leave a choice: log entries 9, 29. -/
def Obligations.LoadPointsDriveTheCode : Prop :=
  ∀ s : State,
    let dt := seconds (s.now - s.xpt.lastLoad)
    let v := s.xpt.vref
    let state := s.g F.XPT_STATUS_STATE
    let pitch : Int := s.pitch
    let pp := s.ppNow.1
    let acc : Rat := s.g F.XPT_ACC_V
    let dec : Rat := s.g F.XPT_DEC_V
    let toward := fun (target : Rat) =>
      let step := (if ratAbs v < ratAbs target ∧ 0 ≤ v * target then acc else dec) * dt
      if v < target then min target (v + step) else max target (v - step)
    let moved := fun (w : Rat) => s.xpt.y + (v + w) / 2 * dt * 256
    let stands := fun (t : State) (w z : Rat) (st : Nat) =>
      t.xpt.vref = w ∧ t.xpt.y = z ∧ t.g F.XPT_STATUS_STATE = st
    let stops := s.xpt.stopReq = true ∧ s.anyInPage = false
    let ready := ∀ n, s.barReady n = true
    let word48 := fun (x : Int) => signed 48 (unsigned 48 x)
    (s.loadDue = true → Completes .loadPoint s fun t =>
      t.xpt.lastLoad = s.now ∧ t.bit (pendField 0x25) = true ∧ t.now = s.now
        ∧ t.g F.XPT_S_TICK_V = (if s.tickLoad then s.tick % 2 ^ 32 else 0)
        ∧ t.g48 F.XPT_S_PP_LO_V F.XPT_S_PP_HI_V = word48 t.ppNow.1
        ∧ t.g48 F.XPT_S_Y_LO_V F.XPT_S_Y_HI_V = word48 t.xpt.y.floor
        ∧ t.g F.XPT_S_ERR_V = unsigned 32 (satS 32 ((t.ppNow.1 : Rat) - t.xpt.y).floor)
        ∧ t.g F.XPT_S_V_V = speedWord t.axisV ∧ t.g F.XPT_S_VREF_V = speedWord t.xpt.vref
        ∧ t.g F.XPT_S_CODE_CODE = unsigned 16 t.xpt.pin ∧ t.bit F.XPT_S_CODE_VALID = t.axisValid
        ∧ (s.leader = false → t.xpt.pin = 0 ∧ t.xpt.prevCode = 0)
        ∧ (s.leader = true → s.g F.XPT_STATUS_STATE = 0 → s.bit F.XPT_STATUS_XEN = true → s.up .ana = true →
            s.xpt.pirDue = false → s.g F.XPT_SLEW_V = 0 → s.bit F.XPT_CFG_INVERT = false → ∀ u,
            (s.xpt.uPend = none → u = s.xpt.uUsed) →
            (∀ x, s.xpt.uPend = some x → u = if x.1 / posCycle < s.now / posCycle then x.2 else s.xpt.uUsed) →
            t.xpt.pin = clamp (s.gi F.XPT_CLAMP_MIN) (s.gi F.XPT_CLAMP_MAX) (satS 16 u)))
    ∧ (s.loadDue = true → s.leader = true → s.xpt.pirDue = false → s.grid.paused = false →
        (state = 0 ∨ state = 9 → Completes .loadPoint s fun t => stands t 0 (t.ppNow.1 : Rat) state)
        ∧ (state = 1 → ¬ stops → Completes .loadPoint s fun t =>
            let w := toward (if s.xpt.rampTo0 then 0 else s.vLine)
            stands t w (t.ppNow.1 : Rat) (if w ≠ (if s.xpt.rampTo0 then 0 else s.vLine) then 1
              else if s.xpt.rampTo0 then 0 else 2))
        ∧ (state = 1 → stops → Completes .loadPoint s fun t =>
            stands t (toward 0) (t.ppNow.1 : Rat) (if toward 0 = 0 then 0 else 1) ∧ t.xpt.rampTo0 = true)
        ∧ (state = 2 → ¬ stops → Completes .loadPoint s fun t =>
            stands t s.vLine (if s.tickLoad ∧ s.xpt.trackTick ≠ some s.tick then s.xpt.y + (pitch : Rat) else s.xpt.y) 2)
        ∧ (state = 2 → stops → Completes .loadPoint s fun t =>
            stands t s.vLine (t.ppNow.1 : Rat) 1 ∧ t.xpt.rampTo0 = true ∧ t.xpt.stopReq = false))
    ∧ (s.loadDue = true → s.leader = true → s.xpt.pirDue = true → s.tickLoad = true → s.grid.posFree = true →
        state = 2 →
        (s.anyInPage = false → s.xpt.stopReq = false → Completes .loadPoint s fun t =>
          t.grid.paused = false ∧ t.g F.XPT_STATUS_STATE = 2 ∧ t.xpt.pirDue = false)
        ∧ ∀ e, s.anyInPage = true → s.earliestDue = some e → Completes .loadPoint s fun t =>
          let ps := s.xpt.ps
          let j := s.g F.XPT_CFG_PIR_J + (max 0 (-((e - ps) / pitch))).toNat
          let pre := ps - j * pitch
          let settle : Int := max ((s.g F.XPT_SETTLE_V : Int) * 256) (16 * pitch)
          stands t s.vLine (s.xpt.y + (pitch : Rat)) 3
            ∧ t.xpt.plan = some ⟨j, pre, (pre : Rat) - s.vLine * s.vLine / (2 * acc) * 256 - (settle : Rat)⟩
            ∧ t.g48 F.XPT_PIR_STOP_LO_V F.XPT_PIR_STOP_HI_V = word48 ps
            ∧ t.g48 F.XPT_PIR_RE_LO_V F.XPT_PIR_RE_HI_V = word48 pre
            ∧ t.bit F.XPT_CAUSE_PIR_START = true ∧ s.counted t F.XPT_PIROUETTES_V)
    ∧ (s.loadDue = true → s.leader = true → s.xpt.pirDue = false →
        (state = 3 → Completes .loadPoint s fun t =>
          stands t (toward 0) (moved (toward 0)) (if toward 0 = 0 then 4 else 3))
        ∧ (state = 8 → s.anyInPage = true → Completes .loadPoint s fun t =>
            stands t (toward 0) (moved (toward 0)) 8)
        ∧ ∀ p, s.xpt.plan = some p →
          let far := pp < p.pre - 2 * pitch
          (state = 4 →
            let m := ratAbs v
            let left := ratAbs ((p.pback - s.xpt.y) / 256)
            let dir : Rat := if p.pback < s.xpt.y then -1 else 1
            let ends := fun (w : Rat) => (m + w) / 2 * dt + w * w / (2 * dec) ≤ left
            let up := min (s.g F.XPT_VBACK_V : Rat) (m + acc * dt)
            let w := if ends up then up else if ends m then m else max 0 (m - dec * dt)
            Completes .loadPoint s fun t =>
              (w ≠ 0 → stands t (dir * w) (moved (dir * w)) 4)
                ∧ (w = 0 → ready → stands t 0 p.pback 6) ∧ (w = 0 → ¬ ready → stands t 0 p.pback 5))
          ∧ (state = 5 → Completes .loadPoint s fun t =>
              (ready → stands t 0 p.pback 6) ∧ (¬ ready → stands t 0 p.pback 5))
          ∧ (state = 6 → s.tickLoad = false ∨ far → Completes .loadPoint s fun t =>
              stands t (toward s.vLine) (moved (toward s.vLine)) (if toward s.vLine = s.vLine then 7 else 6))
          ∧ (state = 7 → s.tickLoad = true → s.bit F.XPT_STATUS_ARMED = false → s.xpt.unsettled = false →
              let errOk := (decide (ratAbs ((pp : Rat) - moved s.vLine) * 256 ≤ (s.g F.XPT_TOL_V : Rat) * (pitch : Rat))
                :: s.xpt.errOk).take 16
              let settled := errOk.length = 16 ∧ (∀ b ∈ errOk, b = true)
                ∧ ratAbs (s.axisV - s.vLine) * (p.j + 1) * (2 ^ 48 / ((s.freq : Rat) * 1600000000)) * 65536
                    ≤ 32 * (pitch : Rat)
              Completes .loadPoint s fun t =>
                t.xpt.vref = s.vLine ∧ t.xpt.y = moved s.vLine ∧ t.xpt.errOk = errOk
                  ∧ (far → t.g F.XPT_STATUS_STATE = 7 ∧ t.bit F.XPT_STATUS_ARMED = false)
                  ∧ (¬ far → settled → t.g F.XPT_STATUS_STATE = 7 ∧ t.bit F.XPT_STATUS_ARMED = true)
                  ∧ (¬ far → ¬ settled → s.g F.XPT_STATUS_LAP < s.g F.XPT_CFG_LAPS_MAX →
                      t.g F.XPT_STATUS_STATE = 3 ∧ t.g F.XPT_STATUS_LAP = s.g F.XPT_STATUS_LAP + 1
                        ∧ t.bit F.XPT_CAUSE_PIR_LAP = true)
                  ∧ (¬ far → ¬ settled → s.g F.XPT_CFG_LAPS_MAX ≤ s.g F.XPT_STATUS_LAP →
                      t.xpt.unsettled = true)))
    ∧ (s.loadDue = false → Completes .loadPoint s fun t => t = s)
    ∧ (s.leader = true → s.g F.XPT_CFG_CMD_TMO ≤ s.xpt.staleRun → Completes .servoStale s fun t =>
        t.bit F.XPT_CAUSE_SERVO_STALE = true ∧ t.bit F.XPT_XSTOP_SERVO_STALE = true ∧ t.bit F.XPT_STATUS_XSTOP = true)
    ∧ (s.leader = false ∨ s.xpt.staleRun < s.g F.XPT_CFG_CMD_TMO → Completes .servoStale s fun t => t = s)
    ∧ (s.leader = true → 2 ≤ s.xpt.overRun → Completes .overspeed s fun t =>
        t.bit F.XPT_CAUSE_OVERSPEED = true ∧ t.bit F.XPT_XSTOP_OVERSPEED = true ∧ t.bit F.XPT_STATUS_XSTOP = true)
    ∧ (s.leader = false ∨ s.xpt.overRun < 2 → Completes .overspeed s fun t => t = s)

/-- The generator's commands (R171, R180, R181, R184, R185, R191): MODE changes only in IDLE outside pages; START,
while it is allowed, drives XEN_N low for EN_DELAY, after which RAMP begins; STOP is kept; PIR_RETRY enables the drive
from PIR_HALT, and has no effect in any other state, in follower mode or with XFLT_N low, also while a power request
holds the transport unit's commands off; a refused START sets MODE_REFUSED; SWSTOP and the latches hold XSTOP_N low; a
drive fault stops the generator. -/
def Obligations.TransportCommands : Prop :=
  ∀ s : State,
    let idle := s.g F.XPT_STATUS_STATE = 0
    (s.takes A.XPT_CFG → s.leader = false → s.anyInside = false → idle → Completes (.xptModeWrite true) s fun t =>
      s.onlyRegs t [A.XPT_CFG] ∧ t.bit F.XPT_CFG_MODE = true)
    ∧ (s.takes A.XPT_CFG → s.leader = true → s.anyInside = false → idle → Completes (.xptModeWrite false) s fun t =>
        t.bit F.XPT_CFG_MODE = false ∧ t.bit F.XPT_STATUS_XEN = false ∧ t.xpt.pin = 0)
    ∧ (s.takes A.XPT_CFG → s.leader = true → ¬ idle → s.g F.XPT_STATUS_STATE < 10 →
        Completes (.xptModeWrite false) s fun t =>
        s.onlyRegsAndEvents t [A.XPT_CAUSE] ∧ t.bit F.XPT_CAUSE_MODE_REFUSED = true)
    ∧ (s.takes A.XPT_CTL →
        s.leader = false ∨ s.bit F.XPT_STATUS_XFLT = true
          ∨ (s.g F.XPT_STATUS_STATE ≠ 8 ∧ ¬ (9 ≤ s.g F.XPT_STATUS_STATE ∧ s.grid.paused = true)) →
        Completes .pirRetry s fun t => t = s)
    ∧ (s.takes A.XPT_CTL → s.holdsTransport = false →
        let may := s.leader = true ∧ (idle ∨ s.g F.XPT_STATUS_STATE = 9) ∧ s.bit F.XPT_STATUS_XFLT = false
          ∧ s.vLine ≤ (s.g F.XPT_VMAX_V : Rat) ∧ s.grid.paused = false
        (may → s.xpt.enable = none → Completes .xptStart s fun t =>
          t.bit F.XPT_STATUS_XEN = true ∧ t.xpt.enable = some (s.now + us (s.g F.XPT_TIMING_EN_DELAY), .ramp))
        ∧ (may → ∀ e, s.xpt.enable = some e → Completes .xptStart s fun t =>
            t.bit F.XPT_STATUS_XEN = true ∧ t.xpt.enable = some e)
        ∧ (¬ may → s.g F.XPT_STATUS_STATE < 10 → Completes .xptStart s fun t =>
            s.onlyRegsAndEvents t [A.XPT_CAUSE] ∧ t.bit F.XPT_CAUSE_MODE_REFUSED = true)
        ∧ (s.leader = true → s.g F.XPT_STATUS_STATE = 8 → s.bit F.XPT_STATUS_XFLT = false → s.xpt.plan ≠ none →
            s.xpt.enable = none → Completes .pirRetry s fun t =>
              t.bit F.XPT_STATUS_XEN = true ∧ t.xpt.enable = some (s.now + us (s.g F.XPT_TIMING_EN_DELAY), .reverse)))
    ∧ (∀ d, s.xpt.enable = some (d, .ramp) → d ≤ s.now → s.xptLive = true → idle → Completes .enDelayExpiry s fun t =>
        t.g F.XPT_STATUS_STATE = 1 ∧ t.xpt.enable = none)
    ∧ (s.takes A.XPT_CTL →
        (s.g F.XPT_STATUS_STATE = 1 ∨ s.g F.XPT_STATUS_STATE = 2 → Completes .xptStop s fun t =>
          t = { s with xpt := { s.xpt with stopReq := true } })
        ∧ (idle → Completes .xptStop s fun t => t = s)
        ∧ (Completes (.swstop true) s fun t => t.bit F.XPT_CTL_SWSTOP = true ∧ t.bit F.XPT_STATUS_XSTOP = true)
        ∧ (Completes (.swstop false) s fun t => t.bit F.XPT_CTL_SWSTOP = false))
    ∧ (s.reg A.XPT_XSTOP = 0#32 → s.bit F.XPT_CTL_SWSTOP = false →
        s.xpt.xstopSince + us (s.g F.XPT_TIMING_XSTOP_MIN) ≤ s.now → Completes .xstopRelease s fun t =>
          s.onlyRegs t [A.XPT_STATUS] ∧ t.bit F.XPT_STATUS_XSTOP = false)
    ∧ (s.xptLive = true →
        (s.bit F.XPT_STATUS_XFLT = false → Completes .driveFault s fun t =>
          t.bit F.XPT_STATUS_XFLT = true ∧ t.bit F.XPT_CAUSE_DRIVE_FLT = true
            ∧ (s.leader = true → t.g F.XPT_STATUS_STATE = 9 ∧ t.bit F.XPT_STATUS_XEN = false ∧ t.xpt.pin = 0
                ∧ t.bit F.XPT_XSTOP_DRIVE_FLT = true))
        ∧ Completes .xfltAcceptedHigh s fun t => s.onlyRegs t [A.XPT_STATUS] ∧ t.bit F.XPT_STATUS_XFLT = false)

/-- The end of a Pirouette's approach (R188 to R190): the re-entry tick counts, with Y at P_re; an armed approach that
comes too soon after the last tick is a lap; one left unsettled after LAPS_MAX laps halts and stops the machine. Where
the rules leave a choice: log entries 29, 31. -/
def Obligations.ReentryLapsAndHalt : Prop :=
  ∀ (s : State) (isns : Vector (List (Nat × Rat)) 32) (p : PirPlan),
    (s.xpt.plan = some p → s.xptLive = true → s.up .core = true → s.bit F.XPT_STATUS_ARMED = true →
        p.pre ≤ s.ppNow.1 →
      (s.grid.tickT + periodOf s.freq * gridCycle ≤ s.now → Completes (.reentryTick isns) s fun t =>
        t.tick = s.tick + 1 ∧ t.grid.tickT = s.now ∧ t.xpt.y = (p.pre : Rat))
      ∧ (s.now < s.grid.tickT + periodOf s.freq * gridCycle → s.g F.XPT_STATUS_LAP < s.g F.XPT_CFG_LAPS_MAX →
          Completes (.reentryTick isns) s fun t =>
            t.tick = s.tick ∧ t.g F.XPT_STATUS_STATE = 3 ∧ t.g F.XPT_STATUS_LAP = s.g F.XPT_STATUS_LAP + 1
              ∧ t.bit F.XPT_STATUS_ARMED = false ∧ t.bit F.XPT_CAUSE_PIR_LAP = true))
    ∧ (s.xptLive = true → s.g F.XPT_STATUS_STATE = 7 → s.xpt.unsettled = true → Completes .pirHalt s fun t =>
        t.g F.XPT_STATUS_STATE = 8 ∧ t.bit F.XPT_CAUSE_PIR_FAIL = true ∧ t.bit F.XPT_XSTOP_PIR_FAIL = true
          ∧ t.bit F.XPT_STATUS_XSTOP = true)

/-! ## Calibration and thermal (chapter 08) -/

/-- Calibration pairs (R227 to R232, R237): a class whose period has passed starts a pair on its next instance; two
measurements, each with an opportunity of its kind, within the tolerance of Table 8.2 make their mean the value,
farther ones count as a disagreement, the third of which makes the instance stale; a pair whose second measurement
does not complete within 100 ms of the first ends with TIMEOUT; requests and written values; a read of the test FIFO
pops its oldest record, and a record that waits takes its place. Where the rules leave a choice: log entries 76, 92.
-/
def Obligations.CalibrationPairs : Prop :=
  ∀ (s : State) (k : Fin 8) (i : Fin 512) (m1 m2 g1 g2 : Rat) (w : Word),
    let x := calIndex k i
    let c := s.calOf x
    let n := s.cal.next[k]
    let y := calIndex k n
    let tol := calTol k
    let range := calRange k
    let grid := k.val = 2 ∨ k.val = 4 ∨ k.val = 5 ∨ k.val = 6
    (s.seqRun = false → s.bit F.CAL_CTL_EN = true → (s.g F.CAL_CLASS_EN_V).testBit k = true →
      s.cal.lastT[k] + ms (10 * s.g (F.CAL_PERIODk_V k)) ≤ s.now → (s.calOf y).pair = none →
      (grid → s.running = true) → s.calPowered k n = true → Completes (.calPairStart k) s fun t =>
        t = { s with cal := t.cal, bars := t.bars }
          ∧ t.calOf y = { s.calOf y with pair := some { start := s.now, requested := false, t0 := s.now } }
          ∧ (∀ z, z ≠ y → t.calOf z = s.calOf z) ∧ t.cal.lastT[k] = s.now
          ∧ t.cal.next[k] = (n + 1) % calCount k ∧ (k.val ≠ 2 → t.bars = s.bars))
    ∧ (grid → s.running = false → Completes (.calPairStart k) s fun t => t = s)
    ∧ (∀ p, c.pair = some p → s.seqRun = false → i.val < calCount k → s.calPowered k i = true →
        let late := ∃ t1, s.m1Time k i p = some t1 ∧ t1 + ms 100 < s.now
        let timesOut := fun (t : State) => (t.calOf x).pair = none ∧ (t.calOf x).last = 7 ∧ (t.calOf x).value = c.value
          ∧ s.counted t F.CAL_TIMEOUTS_V ∧ t.bit F.CAL_CAUSE_TIMEOUT = true
        (¬ late → s.measured k i p < 2 → Completes (.calPairEnd k i m1 m2 g1 g2) s fun t => t = s)
        ∧ (late → Completes (.calPairEnd k i m1 m2 g1 g2) s timesOut)
        ∧ (∀ v g : Int, ¬ late → 2 ≤ s.measured k i p → ratAbs (m1 - m2) ≤ tol.1 → (k.val = 2 → ratAbs (g1 - g2) ≤ tol.2) →
          (m1 + m2) / 2 = (v : Rat) → (k.val = 2 → (g1 + g2) / 2 = (g : Rat)) → range.1 ≤ v → v ≤ range.2 →
          (k.val = 2 → range.1 ≤ g ∧ g ≤ range.2) → Completes (.calPairEnd k i m1 m2 g1 g2) s fun t =>
            let d := t.calOf x
            d.pair = none ∧ d.last = 0 ∧ d.stale = false ∧ d.dis = 0 ∧ d.agreeT = s.now
              ∧ (k.val = 3 → d.value = v)
              ∧ (k.val ≠ 3 → k.val ≠ 7 → d.target = some (v, if k.val = 2 then g else 0) ∧ d.value = c.value)
              ∧ s.counted t F.CAL_PAIRS_V)
        ∧ (¬ late → 2 ≤ s.measured k i p → tol.1 < ratAbs (m1 - m2) → Completes (.calPairEnd k i m1 m2 g1 g2) s fun t =>
            let d := t.calOf x
            d.pair = none ∧ d.last = 8 ∧ d.dis = min 3 (c.dis + 1) ∧ d.stale = (c.stale || decide (3 ≤ c.dis + 1))
              ∧ d.value = c.value ∧ d.target = c.target ∧ s.counted t F.CAL_DISAGREES_V)
        ∧ (∀ t1, s.m1Time k i p = some t1 → t1 + ms 100 ≤ s.now → Completes (.calTimeout k i) s timesOut)
        ∧ ((∀ t1, s.m1Time k i p = some t1 → s.now < t1 + ms 100) →
            Completes (.calTimeout k i) s fun t => t = s))
    ∧ (s.takes A.CAL_REQ →
        let result := fun (status : Nat) => Completes (.calReq k i) s fun t =>
          s.onlyRegsAndEvents t [A.CAL_RESULT, A.CAL_CAUSE] ∧ t.g F.CAL_RESULT_STATUS = status
            ∧ t.g F.CAL_RESULT_CLASS = k.val ∧ t.g F.CAL_RESULT_INST = i.val ∧ t.bit F.CAL_CAUSE_REQ_DONE = true
        (calCount k ≤ i.val → result 5)
        ∧ (i.val < calCount k → s.calPowered k i = false → result 6)
        ∧ (i.val < calCount k → s.calPowered k i = true → Completes (.calReq k i) s fun t =>
            t = { s with cal := t.cal, bars := t.bars }
              ∧ (∀ p, c.pair = some p → (t.calOf x).pair = some { p with requested := true })
              ∧ (c.pair = none → (t.calOf x).pair = some { start := s.now, requested := true, t0 := s.now })
              ∧ ∀ z, z ≠ x → t.calOf z = s.calOf z))
    ∧ (s.takes A.CAL_QVAL → s.g F.CAL_QSEL_CLASS = k.val → s.g F.CAL_QSEL_INST = i.val → i.val < calCount k →
        Completes (.calQval w) s fun t =>
          let v := max range.1 (min range.2 (w.extractLsb' 0 16).toInt)
          let g := max range.1 (min range.2 (w.extractLsb' 16 16).toInt)
          let d := t.calOf x
          d.pair = none ∧ (c.pair ≠ none → d.last = 1) ∧ (k.val = 3 → d.value = v)
            ∧ (k.val ≠ 3 → k.val ≠ 7 → d.target = some (v, if k.val = 2 then g else 0) ∧ d.value = c.value)
            ∧ ∀ z, z ≠ x → t.calOf z = s.calOf z)
    ∧ (s.seqRun = false → s.up .ana = true →
        (∀ r l, s.cal.etFifo = r :: l →
          (s.cal.etWait = [] → Completes .etRecordPop s fun t =>
            t.cal = { s.cal with etFifo := l, etPops := s.cal.etPops + 1 } ∧ t.resp = ⟨leBytes 8 r.toNat, false, 0⟩
              ∧ (s.ceBad = [] → s.ueBad = [] → t = { s with cal := t.cal, resp := t.resp }))
          ∧ ∀ w ws, s.cal.etWait = w :: ws → l.length < 256 → Completes .etRecordPop s fun t =>
              t.cal.etFifo = l ++ [w] ∧ t.cal.etWait = ws ∧ t.resp = ⟨leBytes 8 r.toNat, false, 0⟩)
        ∧ (s.cal.etFifo = [] → Completes .etRecordPop s fun t =>
            t = { s with resp := ⟨List.replicate 8 0#8, false, 0⟩ }))

/-- Electrical test lines in bar gaps and their records (08 R233 to R237, R52, 17 R476). With no class 2 measurement
claiming the line, a gap of a bar that CAL_ET_BARS names gets, while WW is 0.200 us or more and the test FIFO has room,
blocks of a reference line, all bits 0, and 16 test lines, at most BLOCKS of them; each test line takes the cursor's
next step, group g of it one nozzle, unless that is retired or disabled. The mean of a strobe is that of its samples
from 100 ns after its rise to before its fall; the step against the reference line, truncated toward zero, is OPEN,
SHORT or normal, and VOID of a line not latched; a record enters the FIFO unless it is normal with ALL = 0. Where the
rules leave a choice: log entry 92. -/
def Obligations.TestLinesAndTheirRecords : Prop :=
  (∀ (s : State) (n : Fin 32),
    let e := (s.bar n).et
    let gap := s.up (barDomain n) = true ∧ (s.bar n).page = none ∧ s.grid.paused = false ∧ s.portKilled n = false
      ∧ s.bit (F.FPE_CTL_EN n) = true
    let asked := s.up .ana = true ∧ s.bit ⟨A.CAL_ET_BARS, n, 1⟩ = true
    let room := s.cal.etFifo.length < 256 ∧ s.cal.etWait = []
    let wide := 40 ≤ s.g F.GRID_WARM_LIVE_WW
    let blocks := if e.gap = true then e.blocks else 0
    let line := if e.gap = true then e.line else none
    let r := s.etLine n
    let t := (r.1.bar n).et
    let begins := r.2 = some .reference ∧ t.blocks = blocks + 1 ∧ t.line = some 1
      ∧ t.cur = s.g (F.CAL_ET_CURn_CUR n)
    e.claimed = 0 →
      (¬ gap → r.2 = none ∧ t.gap = false ∧ t.blocks = 0 ∧ t.line = none ∧ t.wwTold = false)
      ∧ (gap → ¬ asked → r.2 = none)
      ∧ (gap → asked → ¬ wide → r.2 = none
          ∧ (¬ (e.gap = true ∧ e.wwTold = true) → r.1.bit F.CAL_ET_CAUSE_ET_WW = true ∧ t.wwTold = true)
          ∧ (e.gap = true → e.wwTold = true → r.1 = s))
      ∧ (gap → asked → wide → ¬ room → r.2 = none)
      ∧ (gap → asked → wide → room → line = none → begins)
      ∧ (gap → asked → wide → room → ∀ l, line = some l → 16 < l →
          (blocks < s.g F.CAL_ET_CFG_BLOCKS → begins) ∧ (s.g F.CAL_ET_CFG_BLOCKS ≤ blocks → r.2 = none))
      ∧ (gap → asked → wide → room → ∀ l, line = some l → l ≤ 16 →
          let next := if e.cur + 1 = 10240 then 0 else e.cur + 1
          r.2 = some (.step e.cur (s.g (F.CAL_ET_CURn_SWEEP n))) ∧ t.line = some (l + 1) ∧ t.cur = next
            ∧ (e.curWritten = false → e.cur < 10240 → r.1.g (F.CAL_ET_CURn_CUR n) = next)
            ∧ (next = 0 → r.1.bit F.CAL_ET_CAUSE_SWEEP_DONE = true
                ∧ r.1.g (F.CAL_ET_CURn_SWEEP n)
                    = (s.g (F.CAL_ET_CURn_SWEEP n) + 1) % 2 ^ (F.CAL_ET_CURn_SWEEP n).w)))
    ∧ (∀ (s : State) (n : Fin 32) (t seg i : Nat), s.ueBad = [] → t < 10240 → seg < 8 → i < 20480 →
    ((s.etData n t seg).testBit i = true ↔ ∃ g, g < 16 ∧ seg = t / 1280
      ∧ i = g % 4 * 5120 + 4 * (t % 1280) + g / 4 ∧ s.segOn n seg = true
      ∧ (s.byteAt (0x02000000 + n.val * 0x40000 + seg * 20480 + i)).toNat % 4 ≠ 3))
    ∧ (∀ (s : State) (n : Fin 32), s.up (barDomain n) = true → s.ceBad = [] → s.ueBad = [] → (s.bar n).sel = none →
    ∃ f, ((s.buildFrames n).bar n).shifting = some f ∧ f.idx = none ∧ f.test = (s.etLine n).2
      ∧ ∀ k, k < 8 → ∃ x, f.segs[k]? = some x
        ∧ (s.segOn n k = false → x.mode = .idle ∧ x.data = 0)
        ∧ (s.segOn n k = true → f.test = some .reference → x.mode = .test ∧ x.warm = 0 ∧ x.data = 0)
        ∧ (s.segOn n k = true → ∀ c w, f.test = some (.step c w) → x.mode = .test ∧ x.warm = 0
            ∧ ∀ i, i < 20480 → x.data.getLsbD i = (s.etData n c k).testBit i)
        ∧ (s.segOn n k = true → f.test = none → s.bit (F.FPE_CTL_EN n) = true → k ∉ (s.bar n).unserved →
            x.mode = .warm ∧ x.data = 0))
    ∧ (∀ (s : State) (out : LineOut) (xs : List (Nat × Rat)) (g : Nat),
    let rise := out.gts.getD g 0 * 40960
    let inside := (xs.filter fun x => decide (rise + ns 100 ≤ ns x.1) && decide (ns (x.1 + 50) < rise + out.w * 40960)).map
      fun x => max 0 (min 3200 x.2)
    inside ≠ [] → s.strobeMean out xs g = (s, inside.foldl (· + ·) 0 / (inside.length : Rat)))
    ∧ (∀ (a b : Rat),
    let d := ((etDelta a b : Int) : Rat)
    (0 ≤ a - b → 0 ≤ d ∧ d ≤ a - b ∧ a - b < d + 1) ∧ (a - b < 0 → d ≤ 0 ∧ a - b ≤ d ∧ d < a - b + 1))
    ∧ ∀ (s : State) (n : Fin 32) (l : LineFrame) (t sweep g void : Nat) (i : Rat) (x : SegFrame),
      t < 10240 → g < 16 → l.segs[t / 1280]? = some x →
      let noz := g % 4 * 5120 + 4 * (t % 1280) + g / 4
      let delta := etDelta i ((s.bar n).et.refI.getD g 0)
      let result := if void.testBit (t / 1280) = true then 3
        else if delta < s.g F.CAL_ET_TH_OPEN then 1 else if (s.g F.CAL_ET_TH_SHORT : Int) < delta then 2 else 0
      let u := s.etStrobe n l t sweep g i void
      let record : DWord := BitVec.ofNat 64 (n.val * 2 ^ 18 + t / 1280 * 2 ^ 15 + noz + result * 2 ^ 23 + 2 ^ 25
        + unsigned 16 delta * 2 ^ 32 + sweep % 2 ^ 16 * 2 ^ 48)
      (x.data.getLsbD noz = false → u = s)
        ∧ (x.data.getLsbD noz = true → s.counted u F.CAL_ET_TESTED_V
            ∧ (result = 1 → s.counted u F.CAL_ET_OPENS_V) ∧ (result = 2 → s.counted u F.CAL_ET_SHORTS_V)
            ∧ (result = 3 → s.counted u F.CAL_ET_VOIDS_V)
            ∧ (result = 0 → s.bit F.CAL_ET_CFG_ALL = false → u.cal.etFifo = s.cal.etFifo)
            ∧ (result ≠ 0 ∨ s.bit F.CAL_ET_CFG_ALL = true → s.cal.etFifo.length < 256 → s.cal.etWait = [] →
                u.cal.etFifo = s.cal.etFifo ++ [record] ∧ u.bit F.CAL_ET_CAUSE_RECORD = true
                  ∧ (s.cal.etFifo.length = 255 → u.bit F.CAL_ET_CAUSE_FULL = true)))

/-- Thermal channels (R238 to R240, R242, R243, R246, R480): a channel is read once in a scan frame of 100 us; a good
reading of a healthy channel is reported, with the rate of its last eight once there are eight; a reading at CEIL
trips the bar; the third open reading in a row fails the channel, as a condition that is due does; 1,000 clean
readings make it healthy; a channel enabled again starts afresh. Where the rules leave a choice: log entries 41, 92
(the place of the frames in time). -/
def Obligations.ThermalChannels : Prop :=
  ∀ (s : State) (ch : Fin 260) (v10 v160 : Nat),
    let x := s.thc ch
    let v := s.convert ch v10 v160
    let n : Fin 32 := Fin.ofNat 32 (ch / 8)
    let reads := fun P => Completes (.thermalReading ch v10 v160) s P
    (x.frame = some (s.now / us 100) → reads fun t => t = s)
    ∧ (s.thmLive = true → s.healthy ch = true → x.frame ≠ some (s.now / us 100) →
      (s.showsOpen ch v160 = false → s.showsShort ch v10 v160 = false → s.showsNdis ch v = false →
        (∀ q, x.prev = some q → (v - q).natAbs ≤ 320) →
        reads (fun t =>
          t.gi (F.THM_Tch_T ch) = v ∧ t.bit (F.THM_Sch_VALID ch) = true ∧ t.bit (F.THM_Sch_FAILED ch) = false
            ∧ t.bit (F.THM_Sch_RATE_VALID ch) = decide (7 ≤ x.win.length)
            ∧ (7 ≤ x.win.length → t.g (F.THM_RATEch_V ch) = unsigned 32 (rateOf ((v :: x.win).take 8).reverse)))
        ∧ (ch.val < 256 → s.gi F.THM_TEMP_LIM_CEIL ≤ v → s.stage n < 3 → reads fun t =>
            t.stage n = 3 ∧ t.bit ⟨A.THM_TRIPPED, n.val, 1⟩ = true))
      ∧ (s.showsOpen ch v160 = true →
          (x.openRun < 2 → s.showsShort ch v10 v160 = false → x.ndisSince = none → reads fun t =>
            t.bit (F.THM_Sch_FAILED ch) = false ∧ (t.thc ch).openRun = x.openRun + 1
              ∧ t.g (F.THM_Tch_T ch) = s.g (F.THM_Tch_T ch))
          ∧ (2 ≤ x.openRun → reads fun t =>
            t.bit (F.THM_Sch_FAILED ch) = true ∧ t.bit (F.THM_Sch_OPEN ch) = true
              ∧ t.bit (F.THM_Sch_RATE_VALID ch) = false ∧ t.bit F.THM_SCAUSE_OPEN = true
              ∧ s.counted t F.THM_SFAULTS_V)))
    ∧ (∀ c, s.thmLive = true → s.healthy ch = true → s.sensorDue ch = some c →
        Completes (.channelFail ch) s fun t => t.bit (F.THM_Sch_FAILED ch) = true ∧ t.bit (sensorBit ch c) = true
            ∧ t.bit (sensorCause c) = true
            ∧ s.counted t F.THM_SFAULTS_V)
    ∧ (s.thmLive = true → s.chEn ch = true → s.failed ch = true → 1000 ≤ x.cleanRun →
        Completes (.channelRecover ch) s fun t =>
          t.bit (F.THM_Sch_FAILED ch) = false ∧ t.bit (F.THM_Sch_VALID ch) = false ∧ t.g (F.THM_Tch_T ch) = 0
            ∧ (t.thc ch).win = [] ∧ t.bit F.THM_SCAUSE_RECOVERED = true)
    ∧ ∀ (p : Fin 33) (en : BitVec 8) (i : Nat), s.takes (chenOff p) →
        let board := p.val = 32
        let f := if board then F.THM_BRD_CFG_CHEN else F.THM_Pp_CFG_CHEN p
        let ch := Fin.ofNat 260 (8 * p.val + i)
        Completes (.chenWrite p en) s fun t =>
          t.g f = en.toNat % 2 ^ f.w
            ∧ (i < f.w → en.getLsbD i = true → (s.g f).testBit i = false → s.failed ch = false →
                t.thc ch = { frame := (s.thc ch).frame } ∧ t.g (F.THM_Tch_T ch) = 0
                    ∧ t.bit (F.THM_Sch_VALID ch) = false)

/-- Throttle stages (R244, R247, R249, R250): a warn condition held for PERSIST ms takes a bar from stage 1 to 2,
where a reduction falls due, and a follower's machine is asked to slow down; one false for CLEAR ms clears it, and a
frozen bar keeps its stage; the acknowledgements of THM_ACK and THM_TRIPPED. Where the rules leave a choice: log
entries 41, 42. -/
def Obligations.ThrottleStages : Prop :=
  ∀ (s : State) (n : Fin 32),
    let frozen := s.bit ⟨A.THM_FROZEN, n.val, 1⟩
    let b := s.thm.bars[n]
    (s.thmLive = true →
      (∀ t0, s.stage n = 1 → b.heldSince = some t0 → t0 + ms (s.g F.THM_CFG_PERSIST) ≤ s.now →
        Completes (.stage2 n) s fun t =>
          t.stage n = 2 ∧ t.bit F.THM_CAUSE_STAGE2 = true ∧ s.counted t F.THM_STAGE2S_V
            ∧ t.thm.bars[n] = { b with redDue := true, redT := none }
            ∧ (s.leader = false → t.bit F.XPT_XSTOP_THERMAL = true ∧ t.bit F.XPT_STATUS_XSTOP = true)
            ∧ (s.leader = true → t.reg A.XPT_XSTOP = s.reg A.XPT_XSTOP))
      ∧ (∀ t0 t1, s.stage n = 2 → b.redDue = false → b.heldSince = some t0 →
          t0 + ms (s.g F.THM_CFG_PERSIST) ≤ s.now → b.redT = some t1 → t1 + ms (s.g F.THM_CFG_PERSIST) ≤ s.now →
          Completes (.furtherReductionDue n) s fun t =>
            t = { s with thm := t.thm } ∧ t.thm.bars[n] = { b with redDue := true, redT := none })
      ∧ (∀ t0, s.bit ⟨A.THM_WARN, n.val, 1⟩ = true → b.falseSince = some t0 →
          t0 + ms (s.g F.THM_CFG_CLEAR) ≤ s.now → Completes (.warnClear n) s fun t =>
            t.bit ⟨A.THM_WARN, n.val, 1⟩ = false
              ∧ (s.stage n = 1 ∨ s.stage n = 2 → frozen = false →
                  t.stage n = 0 ∧ (t.thm.bars[n]).redDue = false ∧ t.bit F.THM_CAUSE_CLEARED = true)
              ∧ (frozen = true ∨ s.stage n = 0 ∨ s.stage n = 3 → t.stage n = s.stage n)))
    ∧ (s.takes A.THM_ACK →
        ((∀ ch ∈ portChans n, s.bit (F.THM_Sch_FROZEN_SRC ch) = true → s.healthy ch = true) →
          Completes (.thmAck n) s fun t =>
            s.onlyRegs t (A.THM_FROZEN :: (portChans n).map A.THM_Sch) ∧ t.bit ⟨A.THM_FROZEN, n.val, 1⟩ = false
              ∧ ∀ ch ∈ portChans n, t.bit (F.THM_Sch_FROZEN_SRC ch) = false)
        ∧ ((∃ ch ∈ portChans n, s.bit (F.THM_Sch_FROZEN_SRC ch) = true ∧ s.healthy ch = false) →
            Completes (.thmAck n) s fun t => t = s))
    ∧ (s.takes A.THM_TRIPPED →
        (s.stage n = 3 → b.trip = false → frozen = false → Completes (.thmTrippedClear n) s fun t =>
          t.bit ⟨A.THM_TRIPPED, n.val, 1⟩ = false ∧ t.stage n = 1 ∧ t.bit ⟨A.THM_WARN, n.val, 1⟩ = true
            ∧ t = { s with regs := t.regs, thm := t.thm })
        ∧ (s.stage n ≠ 3 ∨ b.trip = true ∨ frozen = true → Completes (.thmTrippedClear n) s fun t => t = s))

/-! ## Cameras and inspection (chapter 07) -/

/-- Frames (R196, R197, R202, R211, R215 to R217): a frame start opens a frame with the tags of the oldest outstanding
trigger, or UNTRIGGERED, closing one that is open; its image lines are counted and stored while they fit; a line
beyond FRAME_LINES is discarded; a frame end, or no line for LINE_TIMEOUT, closes it and writes its record; a header
that cannot be corrected is a violation; the deskew and ULPS flags of the lanes. Where the rules leave a choice: log
entry 33.

Triggers, strobes and the CCI masters (R209 to R214, Table 7.4): a trigger that its port may issue takes the next
sequence number and schedules its strobe, by the registers without a write of the same CAM cycle, another is refused;
the edges of the outputs, and the expiry of the oldest trigger; CCI commands queue up to eight, go out on the bus, end
with a result, are flushed with ABORTED, and their results are read. A push is held off once the unit has accepted that
its domain goes off (R405), and no trigger or strobe asserts during a state entry (R456; log entry 65). Where the rules
leave a choice: log entry 36. -/
def Obligations.CameraFramesTriggersAndCci : Prop :=
  (∀ (s : State) (p vc : Fin 4) (k : LongPacket) (on : Bool),
     let c := s.cam p
     let max := s.g (F.CAM_Pp_FRAME_FRAME_LINES p)
     let closes := fun (t : State) (f : CamFrame) =>
       (t.cam p).frame = none ∧ (t.cam p).closed = c.closed + 1 ∧ s.counted t (F.CAM_Pp_FRAMES_V p)
         ∧ t.bit (F.CAM_Pp_CAUSE_FRAME_DONE p) = true
         ∧ ((∀ g ∈ c.store, g.k % 8 ≠ c.closed % 8) →
             t.reg (A.CAM_RING p (c.closed % 8) 0) = BitVec.ofNat 32 (f.tseq + f.gen * 2 ^ 16))
         ∧ (f.lines < max → t.bit (F.CAM_Pp_CAUSE_FRAME_SHORT p) = true)
     (s.camLive p = true →
       (s.g (F.CAM_Pp_CFG_VC p) = vc.val →
         (c.frame = none → Completes (.frameStart p vc false) s fun t =>
           (c.oldest = none → t = { s with ins := t.ins, regs := t.regs }) ∧ (t.cam p).trigs = c.trigs.drop 1 ∧ (t.cam p).lateWait = false
             ∧ ∃ f, (t.cam p).frame = some f ∧ f.cfg = s.reg (A.CAM_Pp_CFG p) ∧ f.lines = 0 ∧ f.img = []
               ∧ f.fsTs = s.ts % 2 ^ 32 ∧ f.lastT = s.now
               ∧ (∀ g r, c.trigs = g :: r → f.tseq = g.tseq ∧ f.gen = g.gen ∧ f.trigTs = g.ts % 2 ^ 32
                   ∧ f.has .untriggered = false ∧ f.has .uncertain = g.uncertain)
               ∧ (c.trigs = [] → f.has .untriggered = true))
         ∧ (c.frame ≠ none → Completes (.frameStart p vc false) s fun t =>
             (t.cam p).closed = c.closed + 1 ∧ s.counted t (F.CAM_Pp_VIOL_V p)
               ∧ ∃ f, (t.cam p).frame = some f ∧ f.lines = 0 ∧ f.img = []))
       ∧ (∀ f, c.frame = some f → c.lateWait = false → f.req = none → k.sot = false → k.ecc = .clean →
           k.crcBad = false → k.data.length = Word.field c.cfg 16 14 → k.vc.val = Word.field c.cfg 4 2 →
           k.dt.val = imageType c.cfg →
           (f.lines < max → Completes (.imageLine p k) s fun t =>
             ∃ g, (t.cam p).frame = some g ∧ g.lines = f.lines + 1 ∧ g.lastT = s.now
               ∧ g.img = f.img ++ [⟨k.data, false, f.store && decide (c.used + f.lineBytes ≤ 262144)⟩]
               ∧ g.tseq = f.tseq)
           ∧ (max ≤ f.lines → Completes (.imageLine p k) s fun t =>
             s.counted t (F.CAM_Pp_DISCARDED_V p) ∧ t.bit (F.CAM_Pp_CAUSE_FRAME_LONG p) = true
               ∧ ∃ g, (t.cam p).frame = some g ∧ g.lines = f.lines ∧ g.img = f.img ∧ g.has .long = true))
       ∧ (c.frame = none → k.sot = false → k.ecc = .bad → Completes (.imageLine p k) s fun t =>
           s.counted t (F.CAM_Pp_ECC_BAD_V p) ∧ s.counted t (F.CAM_Pp_VIOL_V p) ∧ t.cam p = c)
       ∧ (∀ f, c.frame = some f → Word.field c.cfg 4 2 = vc.val → c.lateWait = false →
           Completes (.frameEnd p vc false) s fun t => closes t f)
       ∧ (c.frame = none → Word.field c.cfg 4 2 = vc.val → c.lateWait = false →
           Completes (.frameEnd p vc false) s fun t => s.counted t (F.CAM_Pp_VIOL_V p) ∧ t.cam p = c)
       ∧ (Completes (.deskewSequence p) s fun t =>
           s.onlyRegs t [A.CAM_Pp_STATUS p] ∧ t.bit (F.CAM_Pp_STATUS_DESKEWED p) = true)
       ∧ (Completes (.ulpsChange p on) s fun t =>
           s.onlyRegs t [A.CAM_Pp_STATUS p] ∧ t.bit (F.CAM_Pp_STATUS_ULPS p) = on))
     ∧ (∀ f, c.frame = some f →
         (f.lastT + us (s.g (F.CAM_Pp_FRAME_LINE_TIMEOUT p)) ≤ s.now → Completes (.lineTimeout p) s fun t =>
           closes t f ∧ (t.cam p).lateWait = true ∧ t.bit (F.CAM_Pp_CAUSE_LATE p) = true)
         ∧ (s.now < f.lastT + us (s.g (F.CAM_Pp_FRAME_LINE_TIMEOUT p)) →
             Completes (.lineTimeout p) s fun t => t = s)))
  ∧ ∀ (s : State) (p : Fin 4),
      let c := s.cam p
      let port := fun (t : State) (d : CamPort) => t = { s with ins := t.ins } ∧ t.cam p = d ∧ ∀ q, q ≠ p →
          t.cam q = s.cam q
      (s.takes (A.CAM_Pp_CTL p) → c.lastReq ≠ some (s.now / 163840) →
        let spaced := ∀ x, c.lastIssue = some x → x + us (10 * s.g (F.CAM_Pp_TRIG_TRIG_MIN p)) ≤ s.now
        let may := s.bit (F.CAM_Pp_CTL_EN p) = true ∧ c.trigs.length < 4 ∧ c.strobe = none ∧ spaced
          ∧ s.entryRuns = false
        let latched := ((c.strbWas.filter fun x => x.1 == s.now / 163840).map (·.2)).getD
          (s.g (F.CAM_Pp_STRB_DLY_V p), s.g (F.CAM_Pp_STRB_W_V p))
        let seq := if s.bit (F.CAM_Pp_TSEQ_ANY p) then (s.g (F.CAM_Pp_TSEQ_SEQ p) + 1) % 65536 else 0
        (may → Completes (.swtrig p) s fun t =>
          (t.cam p).trigHigh = true ∧ (t.cam p).lastIssue = some s.now ∧ t.g (F.CAM_Pp_TSEQ_SEQ p) = seq
            ∧ (t.cam p).strobe = some ⟨s.now + ns (5 * latched.1), ns (5 * latched.2), false⟩
            ∧ ∃ g, (t.cam p).trigs = c.trigs ++ [g] ∧ g.tseq = seq ∧ g.ts = s.ts ∧ g.gen = t.g (F.CAM_Pp_GEN_V p))
        ∧ (¬ may → Completes (.swtrig p) s fun t =>
            (t.cam p).trigs = c.trigs ∧ (t.cam p).strobe = c.strobe ∧ s.counted t (F.CAM_Pp_TRIG_REF_V p)
              ∧ t.bit (F.CAM_Pp_CAUSE_TRIG_REFUSED p) = true))
      ∧ (∀ x, c.trigHigh = true → c.lastIssue = some x → x + ns (10 * s.g (F.CAM_Pp_TRIG_TRIG_W p)) ≤ s.now →
          Completes (.trigFall p) s fun t => port t { c with trigHigh := false })
      ∧ (∀ x, c.strobe = some x →
          (x.high = false → x.rise ≤ s.now → s.entryRuns = false → Completes (.strobeRise p) s fun t =>
            port t { c with strobe := some { x with high := true } })
          ∧ (s.entryRuns = true ∨ s.now < x.rise → Completes (.strobeRise p) s fun t => t = s)
          ∧ (x.high = true → x.rise + x.width ≤ s.now → Completes (.strobeFall p) s fun t =>
            port t { c with strobe := none }))
      ∧ (∀ g r, c.trigs = g :: r →
          (g.t + ms (s.g (F.CAM_Pp_TRIG_TRIG_TMO p)) ≤ s.now → Completes (.triggerExpire p) s fun t =>
            t.cam p = { c with trigs := r } ∧ s.counted t (F.CAM_Pp_TRIG_EXP_V p)
              ∧ t.bit (F.CAM_Pp_CAUSE_TRIG_EXPIRED p) = true)
          ∧ (s.now < g.t + ms (s.g (F.CAM_Pp_TRIG_TRIG_TMO p)) → Completes (.triggerExpire p) s fun t => t = s))
      ∧ (s.takes (A.CAM_Pp_CTL p) →
          (c.cciQ.length < 8 → c.cciRun ≠ none → s.holdsCamera = false → Completes (.cciPush p) s fun t =>
            port t { c with cciQ := c.cciQ ++ [s.cciCmd p] })
          ∧ (c.cciQ = [] → c.cciRun = none → s.holdsCamera = false → Completes (.cciPush p) s fun t =>
            port t { c with cciRun := some (s.cciCmd p), cciBus := (s.cciCmd p).wire })
          ∧ (c.cciQ.length < 8 → s.holdsCamera = true → Completes (.cciPush p) s fun t =>
            t.ins = s.ins ∧ t.bit F.PWR_CAUSE_BLOCKED_WRITE = true)
          ∧ (8 ≤ c.cciQ.length → Completes (.cciPush p) s fun t =>
            s.onlyRegsAndEvents t [A.CAM_Pp_CAUSE p] ∧ t.bit (F.CAM_Pp_CAUSE_CCI_FULL p) = true)
          ∧ (c.cciRes.length + c.cciQ.length ≤ 8 → Completes (.cciFlush p) s fun t =>
            t.cam p = { c with cciQ := [], cciRes := c.cciRes ++ c.cciQ.map fun x => ⟨x.tag, 1, 0#32⟩ }))
      ∧ (∀ x e, c.cciRun = some x → s.seqRun = false → s.up .cam = true → c.cciRes.length < 8 →
          Completes (.cciCommandDone p e) s fun t =>
            let status := match e with | .ok _ => 0 | .addrNack => 2 | .dataNack => 2 | _ => 7
            let data := match e with
              | .ok d => if x.rd then BitVec.ofNat 32 (d.toNat % 2 ^ (8 * x.n)) else 0#32
              | _ => 0#32
            (t.cam p).cciRes = c.cciRes ++ [⟨x.tag, status, data⟩] ∧ (t.cam p).cciRun = c.cciQ.head?
              ∧ (t.cam p).cciQ = c.cciQ.tail ∧ (t.cam p).cciBus = (c.cciQ.head?.map CciCmd.wire).getD []
                  ∧ t.bit (F.CAM_Pp_CAUSE_CCI_DONE p) = true
              ∧ (status ≠ 0 → t.bit (F.CAM_Pp_CAUSE_CCI_ERR p) = true))
      ∧ (s.seqRun = false → s.up .cam = true →
          (∀ r l, c.cciRes = r :: l → Completes (.cciResultPop p) s fun t =>
            t.cam p = { c with cciRes := l } ∧ t.reg (A.CAM_Pp_CCI_RDATA p) = r.data
              ∧ t.resp = ⟨leBytes 4 ((r.tag + r.status * 2 ^ 8) % 2 ^ 32), false, 0⟩)
          ∧ (c.cciRes = [] → Completes (.cciResultPop p) s fun t =>
              t = { s with resp := ⟨List.replicate 4 0#8, false, 0⟩ }))

/-- The pipeline's queues and tables (R199 to R202, R204, R205, R217, R218, R220): requests queue up to eight; a read
of the verdict window pops the oldest record; a table access moves IDX on; the live port changes between frames; a
replay begins on the next waiting frame with the geometry of that moment, goes on line by line through the tables as
they stand while the FIFO has room, and ends with its record. Where the rules leave a choice: log entries 34, 35. -/
def Obligations.InspectionQueuesAndTables : Prop :=
  ∀ s : State,
    let p : Fin 4 := Fin.ofNat 4 ((s.reg A.INS_AREQ_W0).toNat % 4)
    let w0 := s.reg A.INS_AREQ_W0
    let table := s.g F.INS_TBL_SEL_TABLE
    let port := s.g F.INS_TBL_SEL_PORT
    let size := if table = 2 then 64 else if table = 3 then 256 else 8192
    let i := s.g F.INS_TBL_IDX_V % size
    let new : Fin 4 := Fin.ofNat 4 (s.g F.INS_CTL_LIVE)
    let clean := s.ceBad = [] ∧ s.ueBad = []
    (s.takes A.INS_CTL →
      ((s.cam p).areqs.length < 8 → (s.cam p).store = [] →
        (∀ f, (s.cam p).frame = some f → f.live = false ∧ f.req = none) → Completes .insAreqPush s fun t =>
        t = { s with ins := t.ins } ∧ (∀ q, q ≠ p → t.cam q = s.cam q)
          ∧ t.cam p = { s.cam p with areqs := (s.cam p).areqs
              ++ [⟨Word.field w0 2 5, Word.field w0 7 1, Word.field w0 8 2, Word.field w0 16 16,
                (s.reg A.INS_AREQ_W1).toNat % 2 ^ 7, false⟩] })
      ∧ (8 ≤ (s.cam p).areqs.length → Completes .insAreqPush s fun t =>
          s.onlyRegsAndEvents t [A.INS_CAUSE] ∧ t.bit F.INS_CAUSE_AREQ_FULL = true))
    ∧ (s.seqRun = false → s.up .cam = true →
        (∀ r l, s.ins.replay = none → s.ins.fifo = r :: l → Completes .verdictPop s fun t =>
          t.ins = { s.ins with fifo := l, pops := s.ins.pops + 1 } ∧ t.resp = ⟨leBytes 8 r.toNat, false, 0⟩
            ∧ (clean → t = { s with ins := t.ins, resp := t.resp }))
        ∧ (s.ins.replay = none → s.ins.fifo = [] → Completes .verdictPop s fun t =>
            t = { s with resp := ⟨List.replicate 8 0#8, false, 0⟩ })
        ∧ (Completes (.insTblData none) s fun t =>
            t.resp = ⟨leBytes 4 (s.tbl table port i).toNat, false, 0⟩ ∧ t.g F.INS_TBL_IDX_V = (i + 1) % size
              ∧ (s.ins.replay = none → clean → t = { s with regs := t.regs, resp := t.resp }
                  ∧ ∀ a, a ≠ A.INS_TBL_IDX → t.reg a = s.reg a))
        ∧ (∀ w : Word, Completes (.insTblData (some w)) s fun t =>
            t.tbl table port i = w &&& BitVec.ofNat 32 (if table = 2 then 0x3FFFFFFF else if table = 3 then 0x1FFFF else 0xFFFF)
              ∧ (∀ u q n, tblKey u q n ≠ tblKey table port i → t.tbl u q n = s.tbl u q n)
              ∧ t.g F.INS_TBL_IDX_V = (i + 1) % size ∧ (s.ins.replay = none → t.ins.fifo = s.ins.fifo))
        ∧ ((s.cam s.ins.live).frame = none → (s.cam new).frame = none → s.ins.replay = none →
            Completes .liveSwitch s fun t => t = { s with ins := { s.ins with live := new } })
        ∧ ((s.cam s.ins.live).frame ≠ none ∨ (s.cam new).frame ≠ none ∨ s.ins.replay ≠ none →
            Completes .liveSwitch s fun t => t = s)
        ∧ (s.bit F.INS_CTL_EN = true → s.bit F.INS_CTL_REPLAY_EN = true → s.ins.replay = none →
            (s.cam s.ins.live).frame = none → s.holdsCamera = false →
            (∀ q f, s.nextReplay = some (q, f) → Completes .replayStart s fun t =>
              ∃ r, t.ins.replay = some r ∧ r.port = q ∧ r.frame.tseq = f.tseq ∧ r.frame.k = f.k
                ∧ r.frame.geo = s.geoNow ∧ r.frame.flat = [] ∧ r.frame.has .analysed = true)
            ∧ (s.nextReplay = none → Completes .replayStart s fun t => t = s)))
    ∧ ∀ r, s.ins.replay = some r →
        let room := 1024 - s.ins.fifo.length
        let lines := r.frame.flat.length
        (room < r.outbox.length → Completes .replayResume s fun t =>
          t.ins.fifo = s.ins.fifo ++ r.outbox.take room
            ∧ t.ins.replay = some { r with outbox := r.outbox.drop room })
        ∧ (r.outbox = [] → lines < r.frame.img.length → s.now < r.t + r.frame.lineSpan →
            Completes .replayResume s fun t => t = s)
        ∧ (∀ l, r.outbox = [] → r.frame.img[lines]? = some l → r.t + r.frame.lineSpan ≤ s.now →
            s.now < r.t + 2 * r.frame.lineSpan →
            (∀ q, r.frame.req = some q →
                r.frame.rowDue q (lines + 1) (decide (r.frame.img.length ≤ lines + 1)) = false) →
            Completes .replayResume s fun t =>
              let frame := { r.frame with flat := r.frame.flat ++ [s.pipeLine r.port r.frame l] }
              t.ins = { s.ins with replay := some { r with frame := frame, t := r.t + r.frame.lineSpan } }
                ∧ (clean → t = { s with ins := t.ins }))
        ∧ (r.outbox = [] → r.frame.img.length ≤ lines → 16 ≤ r.frame.rows → Completes .replayEnd s fun t =>
            t.ins.replay = none ∧ s.counted t F.INS_REPLAYS_V ∧ t.bit F.INS_CAUSE_ANALYSED = true
              ∧ ((∀ g ∈ (s.cam r.port).store, g.k % 8 ≠ r.frame.k % 8
                    ∨ (g.k = r.frame.k ∧ g.tseq = r.frame.tseq ∧ g.gen = r.frame.gen)) →
                  t.reg (A.CAM_RING r.port (r.frame.k % 8) 0) = BitVec.ofNat 32 (r.frame.tseq + r.frame.gen * 2 ^ 16)))
        ∧ (r.outbox = [] → lines < r.frame.img.length → s.now < r.t + r.frame.lineSpan →
            Completes .replayEnd s fun t => t = s)
        ∧ (room < r.outbox.length → Completes .replayEnd s fun t => t.ins.replay ≠ none)

/-- The analysis pipeline's arithmetic (07 R204, R206, R208, R219, R221, Table 7.6): the flat field and the defect
list of a pixel, the camera column and slope of a print column between two knots, none outside them, the darkness, density
ratio, class and lateral error of a window, and the verdict record, not observed when the window leaves the frame or
touches missing content, or when the position prints nothing (R207). -/
def Obligations.InspectionArithmetic : Prop :=
  (∀ (s : State) (p c n : Nat),
    let off := signed 16 (s.tbl 0 p c).toNat
    let gain : Int := (s.tbl 1 p c).toNat % 65536
    let m := (((n : Int) - off) * gain + 2 ^ 13) / 2 ^ 14
    s.flatField p c n = (if m < 0 then 0 else if 4095 < m then 4095 else m.toNat))
    ∧ (∀ (s : State) (p width c x : Nat) (lpx : List (Option Nat)), c < width → lpx[c]? = some (some x) →
    let good := fun (k : Nat) => s.defectMode p k = none
    let value := fun (k v : Nat) => lpx[k]? = some (some v)
    let left := fun (k : Nat) => k < c ∧ good k ∧ ∀ j, k < j → j < c → ¬ good j
    let right := fun (k : Nat) => c < k ∧ k < width ∧ good k ∧ ∀ j, c < j → j < k → ¬ good j
    let fix := s.defectFix p width lpx c
    (good c → fix = some x)
      ∧ (s.defectMode p c = some 0 → ∀ a b v w, left a → right b → value a v → value b w → fix = some ((v + w) / 2))
      ∧ (s.defectMode p c = some 0 → (∀ a, ¬ left a) → ∀ b w, right b → value b w → fix = some w)
      ∧ (s.defectMode p c = some 0 → (∀ b, ¬ right b) → ∀ a v, left a → value a v → fix = some v)
      ∧ (s.defectMode p c = some 1 → ∀ a v, left a → value a v → fix = some v)
      ∧ (s.defectMode p c = some 2 → ∀ b w, right b → value b w → fix = some w))
    ∧ (∀ (ks before after : List (Nat × Nat)) (a b : Nat × Nat) (x : Nat), ks = before ++ a :: b :: after →
    ascending ks = true →
    (a.2 ≤ x → x < b.2 ∨ (after = [] ∧ x = b.2) →
      ∃ u slope, mapColumn ks x = some (u, slope)
        ∧ (slope = ((b.1 : Rat) - a.1) / ((b.2 : Rat) - a.2))
        ∧ (u : Rat) ≤ 256 * ((a.1 : Rat) + ((x : Rat) - a.2) * slope)
        ∧ 256 * ((a.1 : Rat) + ((x : Rat) - a.2) * slope) < (u : Rat) + 1)
      ∧ (before = [] → ∀ y : Int, y < (a.2 : Int) → mapColumn ks y = none)
      ∧ (after = [] → b.2 < x → mapColumn ks x = none))
    ∧ (∀ (px : List (Nat × Nat)) (white dref tAbs tWeak tStrong u b : Nat) (slope : Rat), 0 < dref → slope ≠ 0 →
    let dark := fun (m : Nat) => if m < white then white - m else 0
    let d := (px.map fun q => dark q.2).sum
    let mean : Rat := ((px.map fun q => q.1 * dark q.2).sum : Rat) / (d : Rat)
    let exact : Rat := 8 * (mean - (u : Rat) / 256) / slope
    let r := measure px white dref tAbs tWeak tStrong u b slope
    (∃ q : Nat, r.1 = min 63 q ∧ (32 * d : Rat) / dref - 1 / 2 < q ∧ (q : Rat) ≤ (32 * d : Rat) / dref + 1 / 2)
      ∧ (r.1 < tAbs → r.2.1 = 0 ∧ r.2.2 = 0)
      ∧ (tAbs ≤ r.1 → r.1 < tWeak → r.2.1 = 1)
      ∧ (tAbs ≤ r.1 → tWeak ≤ r.1 → (tStrong < r.1 → r.2.1 = 3) ∧ (r.1 ≤ tStrong → r.2.1 = 2))
      ∧ (tAbs ≤ r.1 → 0 < d → ∀ k : Int, (0 ≤ exact → (k : Rat) - 1 / 2 ≤ exact ∧ exact < k + 1 / 2) →
          (exact < 0 → (k : Rat) - 1 / 2 < exact ∧ exact ≤ k + 1 / 2) →
          r.2.2 = (if k < -128 then -128 else if 127 < k then 127 else k)))
    ∧ ∀ (s : State) (port : Nat) (f : CamFrame) (r : AReq) (seg p u : Nat) (slope : Rat), seg < 8 → p < 10240 →
      let b := 10240 * seg + p
      mapColumn (s.knots port) ((b : Int) - r.ovl * seg) = some (u, slope) →
      let hw := Word.field (geoWord f.geo r.gset 0) 24 5
      let centre := (u + 128) / 256
      let top := Word.field (geoWord f.geo r.gset 0) 0 16 + b % 16 * Word.field (geoWord f.geo r.gset 1) 0 16 / 16
      let height := Word.field (geoWord f.geo r.gset 0) 16 8
      let inside := hw ≤ centre ∧ centre + hw < f.width ∧ top + height ≤ f.flat.length
        ∧ ∀ y c, top ≤ y → y < top + height → centre ≤ c + hw → c ≤ centre + hw →
            ∃ row m, f.flat[y]? = some row ∧ row[c]? = some (some m)
      let prints := s.segOn r.bar seg = true ∧ s.g (F.FPE_WIN_START_LIVE_V r.bar) ≤ b ∧ b ≤ s.g (F.FPE_WIN_END_LIVE_V r.bar)
      let shared := 0 < r.ovl ∧ r.ovl % 16 = 0 ∧ ((0 < seg ∧ p < r.ovl) ∨ (seg < 7 ∧ 10240 - r.ovl ≤ p))
      let noz := (if p % 2 = 0 then p / 2 else 5120 + (p - 1) / 2) + (if r.pt = 0 then 0 else 10240)
      r.bar < 32 → f.tseq < 2 ^ 16 → ∃ w obs, s.verdict port f r seg p = some (w, obs)
        ∧ w.toNat % 2 ^ 23 = r.bar * 2 ^ 18 + seg * 2 ^ 15 + noz
        ∧ (w.getLsbD 23 = obs) ∧ (obs = true ↔ inside ∧ prints)
        ∧ (w.getLsbD 26 = true ↔ shared) ∧ w.getLsbD 47 = true ∧ w.toNat / 2 ^ 48 = f.tseq
        ∧ (obs = false → w.toNat / 2 ^ 24 % 4 = 0 ∧ w.toNat / 2 ^ 32 % 2 ^ 14 = 0)

/-! ## Memory and DMA (chapter 11) -/

/-- A DMA channel's commands and its requests (R324, R325, R331, R336, R338, R341): START in IDLE, ABORT, DOORBELL and
polling; the one channel with a request ready is served, a descriptor fetch or a read of host memory going out with a
tag, or the write-back of an ended descriptor (R335); a fetched descriptor with OWN = 1 is taken, one with OWN = 0
makes the channel wait, one fetched for an earlier run or behind an unowned one has no effect, and the last that a
stopping channel waits for leaves it IDLE; tokens accrue every 10 ns. Where the rules leave a choice: log entries 56, 57. -/
def Obligations.DmaRequests : Prop :=
  ∀ (s : State) (c : Fin 48),
    let x := s.dch c
    let k := s.chanState c
    let only := fun (t : State) => ∀ d, d ≠ c → t.dch d = s.dch d
    let steady := ∀ j, (s.pair j).stepReq = false
    (s.takes (A.DMA_Cc_CTL c) →
      (k = 0 ∨ k = 4 → s.anyGoingDown = false → Completes (.dmaStart c) s fun t =>
        t = { s with regs := t.regs, dma := t.dma, ins := t.ins } ∧ only t ∧ t.chanState c = 1
          ∧ (dmaClass c ≠ .camera → t.ins = s.ins) ∧ (∀ q ∈ (t.dch c).fetches, q.len = 0)
          ∧ (t.dch c).fetched = [] ∧ (t.dch c).landed = 0 ∧ (t.dch c).pieces = [] ∧ (t.dch c).ending = none
          ∧ ∀ a, a ≠ A.DMA_Cc_STATUS c → t.reg a = s.reg a)
      ∧ (k ≠ 0 → k ≠ 4 → s.anyGoingDown = false → Completes (.dmaStart c) s fun t => t = s)
      ∧ (∀ d l, k = 1 → x.fetched = d :: l → Completes (.dmaAbort c) s fun t =>
          t.chanState c = 3 ∧ only t ∧ t.dch c = { x with
            fetched := [d], pieces := [], fetchFail := none, abortT := s.now })
      ∧ (k = 1 ∨ k = 2 → x.fetched = [] → x.fetches = [] → Completes (.dmaAbort c) s fun t =>
          t.chanState c = 0 ∧ t.bit (F.DMA_Cc_CAUSE_ABORTED c) = true)
      ∧ (k = 1 ∨ k = 2 → x.fetched = [] → x.fetches ≠ [] → Completes (.dmaAbort c) s fun t =>
          t.chanState c = 3 ∧ (t.dch c).fetches = x.fetches)
      ∧ (k = 3 → Completes (.dmaAbort c) s fun t => t = s)
      ∧ (k = 1 ∨ k = 2 → Completes (.doorbell c) s fun t =>
          t = { s with dma := t.dma } ∧ only t ∧ t.dch c = { x with
            fetches := x.fetches.map fun q => { q with rung := true }
            stopBell := x.stopBell || (k == 1 && x.stopped)
            bell := x.bell || (k == 2 && x.live.isEmpty) })
      ∧ (k ≠ 1 → k ≠ 2 → Completes (.doorbell c) s fun t => t = s))
    ∧ (s.seqRun = false → s.up .core = true →
        (k = 2 → 0 < s.g (F.DMA_Cc_CFG_POLL c) → x.pollT + us (s.g (F.DMA_Cc_CFG_POLL c)) ≤ s.now →
          Completes (.pollExpiry c) s fun t =>
            t = { s with dma := t.dma } ∧ only t ∧ t.dch c = { x with bell := x.live.isEmpty, pollT := s.now })
        ∧ (steady → (∀ d, s.turn d = none) → Completes .dmaRequestIssue s fun t => t = s)
        ∧ (steady → s.power.stopped = false → (∀ d, d ≠ c → s.turn d = none) → s.g (F.DMA_Cc_CFG_PRIO c) ≤ 1 →
            (s.turn c = some .fetch → Completes .dmaRequestIssue s fun t =>
              t = { s with dma := t.dma, linkOut := t.linkOut, dmaTurn := t.dmaTurn } ∧ only t
                ∧ ∃ r, (t.dch c).fetches = x.fetches ++ [r] ∧ r.off = s.nextIndex c ∧ r.addr = s.descAddr c (s.nextIndex c) ∧ r.len = 32
                  ∧ t.linkOut = (if s.ringInt c then s.linkOut else s.linkOut ++ [.memRead c r.tag r.addr 32]))
            ∧ (∀ off n tries d a, s.turn c = some (.hostRead off n tries) → s.inProgress c = some d →
                d.source (dmaClass c) = .host a → Completes .dmaRequestIssue s fun t =>
                  only t ∧ ∃ tag, tag ∉ s.tagsUsed
                    ∧ (t.dch c).reads = x.reads ++ [⟨tag, a + off, n, off, tries, s.now, false⟩]
                    ∧ t.linkOut = s.linkOut ++ [.memRead c tag ((a + off) / 4 * 4)
                        ((a + off + n + 3) / 4 * 4 - (a + off) / 4 * 4)])
            ∧ (∀ d st eof, s.turn c = some (.writeBack d st eof) → Completes .dmaRequestIssue s fun t =>
                let h := s.g (F.DMA_Cc_HEAD_V c) + 1
                s.counted t (F.DMA_Cc_DESCS_V c)
                  ∧ t.g (F.DMA_Cc_HEAD_V c) = (if s.ringSize c ≤ h then 0 else h) % 2 ^ 12))
        ∧ (∀ r rest bs, x.fetches = r :: rest → r.tag < 1024 → 0 < r.len → bs.length = 32 → x.fetched = [] →
            let own := (bs.getD 0 0#8).getLsbD 0
            let others := rest.filter fun q => q.tag != r.tag
            (k = 1 ∨ k = 2 → own = true → Completes (.descriptorFetch c (.data bs)) s fun t =>
              t.chanState c = 1 ∧ only t ∧ (t.dch c).fetched = [⟨bs⟩] ∧ (t.dch c).fetches = others
                ∧ (t.dch c).landed = 0
                ∧ (Desc.bad ⟨bs⟩ (dmaClass c) = true → (t.dch c).ending = some 5))
            ∧ (k = 1 → own = false → Completes (.descriptorFetch c (.data bs)) s fun t =>
                t.chanState c = 2 ∧ (t.dch c).fetched = [] ∧ (∀ q ∈ (t.dch c).fetches, q.len = 0)
                  ∧ t.bit (F.DMA_Cc_CAUSE_EMPTY c) = true)
            ∧ (k = 3 → others = [] → Completes (.descriptorFetch c (.data bs)) s fun t =>
                t.chanState c = 0 ∧ (t.dch c).fetches = [] ∧ t.bit (F.DMA_Cc_CAUSE_ABORTED c) = true))
        ∧ (∀ r rest bs, x.fetches = r :: rest → r.tag < 1024 → r.len = 0 → k ≠ 3 →
            Completes (.descriptorFetch c (.data bs)) s fun t =>
              t = { s with dma := t.dma } ∧ only t
                ∧ t.dch c = { x with fetches := rest.filter fun q => q.tag != r.tag })
        ∧ Completes .tokenAccrual s fun t =>
            let share := s.g (F.DMA_Cc_RATE_SHARE c)
            t = { s with dma := t.dma }
              ∧ (s.now < x.tokenT + ns 10 → t.dch c = x)
              ∧ (x.tokenT + ns 10 ≤ s.now → t.dch c = { x with
                  tokenT := x.tokenT + ns 10
                  tokens := if share = 0 then x.tokens
                    else min (s.bucketLimit c) (x.tokens + share * s.g F.DMA_RL_BASE_V) }))

/-- What a completion and an ended descriptor do (R327, R328, R339): the data of a read land at the destination; a bus
error is tried again up to RETRY_MAX times, after which the descriptor ends with BUS_ERROR or RETRY_EXHAUSTED; a
completion that does not come counts as one; the write-back stores RESIDUE and then OWN = 0 and the status, and HEAD
moves on. Where the rules leave a choice: log entries 57, 58, 68.

Memory control (R347, R349, R350, R353, R354): a wipe zeroes the bank's bytes and keeps BUSY until its end, and is
refused with BAD_DESCRIPTOR, POWER_DENIED or LOCKED, or held off by a power request (R405); a queued corrected word is written back; the background test
moves on; a failing column takes a free spare of its array and its region is tested again, or leaves the bank
degraded. Where the rules leave a choice: log entries 82, 83. -/
def Obligations.DmaCompletionsAndMemoryControl : Prop :=
  (∀ (s : State) (c : Fin 48) (tag : Fin 1024) (r : DmaRead) (bs : List Byte) (e : Completion),
     let x := s.dch c
     let clean := s.ceBad = [] ∧ s.ueBad = []
     let tries := s.g (F.DMA_Cc_CFG_RETRY_MAX c)
     let fails := fun (t : State) =>
       (∀ q ∈ (t.dch c).reads, q.tag ≠ tag.val)
         ∧ (r.tries < tries → (t.dch c).pieces = x.pieces ++ [⟨r.off, r.len, r.tries + 1, none⟩]
             ∧ (t.dch c).ending = none ∧ s.counted t (F.DMA_Cc_RETRIES_V c))
         ∧ (tries ≤ r.tries → (t.dch c).pieces = x.pieces
             ∧ (t.dch c).ending = some (if tries = 0 then 2 else 3)
             ∧ t.g (F.DMA_Cc_ERRADDR_LO_V c) = r.addr % 2 ^ 32)
     let open_ := s.seqRun = false ∧ s.up .core = true
     (s.tagOwner tag = some (c, r, false) → r.len ≠ 0 →
       (open_ → clean → ∀ d a, s.inProgress c = some d → d.dest (dmaClass c) = .mem a →
         0x04000000 ≤ a + r.off → a + r.off + r.len ≤ 0x04400000 →
             Completes (.readCompletion tag (.data bs)) s fun t =>
           s.stored t (a + r.off) ((List.range r.len).map fun i => bs.getD (r.addr % 4 + i) 0#8)
             ∧ (t.dch c).landed = x.landed + r.len ∧ (∀ q ∈ (t.dch c).reads, q.tag ≠ tag.val)
             ∧ ∀ o, o ≠ c → t.dch o = s.dch o)
       ∧ (s.chanState c = 1 → x.ending = none →
           (open_ → (∀ bs, e ≠ .data bs) → Completes (.readCompletion tag e) s fails)
           ∧ (s.timeoutOff = false → Completes (.completionTimeout tag) s fun t =>
               fails t ∧ s.counted t F.SYS_HL_UNCORR_V)))
     ∧ (s.timeoutOff = true ∨ s.tagOwner tag = none → Completes (.completionTimeout tag) s fun t => t = s)
     ∧ (∀ k : Nat, 1024 ≤ k → s.tagOwner k = some (c, r, false) → r.len ≠ 0 → r.addr % 8 + r.len ≤ 8 → open_ → clean →
         ∀ d a, s.inProgress c = some d → d.dest (dmaClass c) = .mem a →
         0x04000000 ≤ a + r.off → a + r.off + r.len ≤ 0x04400000 → Completes (.readCompletion k e) s fun t =>
           s.stored t (a + r.off) ((List.range r.len).map fun i => s.peek (.dma c) (r.addr + i))
             ∧ (t.dch c).landed = x.landed + r.len ∧ ∀ q ∈ (t.dch c).reads, q.tag ≠ k)
     ∧ (∀ d, open_ → s.power.stopped = false → s.served = some c → s.chanState c = 1 → s.inProgress c = some d → x.reads = [] →
         s.pushWaits c = false →
         x.ending = none → x.fetchFail = none → x.landed = d.len → dmaClass c ≠ .camera → s.ringInt c = false →
         s.linkOpen = true → Completes (.descriptorWriteback c) s fun t =>
           let a := s.descAddr c (s.g (F.DMA_Cc_HEAD_V c))
           let h := s.g (F.DMA_Cc_HEAD_V c) + 1
           (∃ more, t.linkOut = s.linkOut ++ [.memWrite c (a + 24) (leBytes 4 0), .memWrite c a
               (leBytes 4 (d.num 0 4 / 2 % 128 * 2 + d.num 0 4 / 2 ^ 17 * 2 ^ 17))] ++ more)
             ∧ t.g (F.DMA_Cc_HEAD_V c) = (if s.ringSize c ≤ h then 0 else h) % 2 ^ 12
             ∧ t.g (F.DMA_Cc_STATUS_LAST c) = 0 ∧ (t.dch c).landed = 0
             ∧ (d.flag 2 = true → t.bit (F.DMA_Cc_CAUSE_FULL c) = true)
             ∧ (d.flag 3 = true → t.chanState c = 0 ∧ (t.dch c).fetched = [])
             ∧ (d.flag 3 = false → t.chanState c = 1 ∧ (t.dch c).fetched = x.fetched.tail)))
  ∧ ∀ (s : State) (b : Fin 116) (n : Fin 128) (array : Fin 16) (column : Fin 1152),
      let x := s.bank b
      (s.takes A.MEM_WIPE →
        let refused := fun (status : Nat) => Completes (.memWipe n) s fun t =>
          s.onlyRegs t [A.MEM_WIPE_STATUS] ∧ t.g F.MEM_WIPE_STATUS_STATUS = status
        (s.bit F.MEM_WIPE_STATUS_BUSY = true → Completes (.memWipe n) s fun t => t = s)
        ∧ (s.bit F.MEM_WIPE_STATUS_BUSY = false →
            (115 < n.val → refused 5)
            ∧ (n.val ≤ 115 → s.bankUp n = false → refused 6)
            ∧ (n.val ≤ 115 → s.bankUp n = true → s.wipeLocked n = true → refused 9)
            ∧ (n.val ≤ 115 → s.bankUp n = true → s.wipeLocked n = false → s.holdsMemory = true →
                Completes (.memWipe n) s fun t => t.wipe = s.wipe ∧ t.mem = s.mem
                  ∧ t.bit F.PWR_CAUSE_BLOCKED_WRITE = true)
            ∧ (n.val ≤ 115 → s.bankUp n = true → s.wipeLocked n = false → s.holdsMemory = false →
                Completes (.memWipe n) s fun t =>
                t.wipe = some n.val ∧ t.bit F.MEM_WIPE_STATUS_BUSY = true ∧ (t.bank (bankIx n)).wiping = true
                  ∧ ∀ a, t.byteAt a = if (bankOf a).map Prod.fst = some n.val then 0#8 else s.byteAt a)))
      ∧ (∀ w, s.wipe = some w → s.seqRun = false → Completes .wipeDone s fun t =>
          t.wipe = none ∧ t.bit F.MEM_WIPE_STATUS_BUSY = false ∧ t.g F.MEM_WIPE_STATUS_STATUS = 0
            ∧ (t.bank (bankIx w)).wiping = false ∧ t.bit F.MEM_CAUSE_WIPE_DONE = true ∧ t.mem = s.mem)
      ∧ (∀ w r, x.scrub = w :: r → s.seqRun = false → s.bankUp b = true → Completes (.scrubWriteback b) s fun t =>
          t = { s with banks := t.banks, ceBad := s.ceBad.filter (· != w) } ∧ t.bank b = { x with scrub := r }
            ∧ ∀ q, q ≠ b → t.bank q = s.bank q)
      ∧ (s.seqRun = false → s.up .core = true → s.bit F.MEM_CTL_BT_EN = true → s.bankUp b = true → x.wiping = false →
          x.btLast + us (s.g F.MEM_CTL_MIN_GAP) ≤ s.now →
          let last := bankKib b * 4 ≤ x.btPos + 1
          let moved := fun (t : State) => (t.bank b).btLast = s.now
            ∧ (t.bank b).btPos = (if last then 0 else x.btPos + 1)
            ∧ (t.bank b).btPass = if last then (x.btPass + 1) % 2 ^ 32 else x.btPass
          (Completes (.btRegion b none) s fun t =>
            moved t ∧ (s.ceBad = [] → s.ueBad = [] → t = { s with banks := t.banks }))
          ∧ (∀ sp, s.freeSpare b array = some sp → (s.reg (A.MEM_SOFTREPn 0)).getLsbD 31 = false →
              Completes (.btRegion b (some (array, column))) s fun t =>
                (t.bank b).btPos = x.btPos ∧ (t.bank b).btLast = x.btLast ∧ (t.bank b).btPass = x.btPass
                  ∧ t.bit F.MEM_CAUSE_REPAIRED = true
                  ∧ t.reg (A.MEM_SOFTREPn 0) = BitVec.ofNat 32
                      (b.val + array.val * 2 ^ 8 + column.val * 2 ^ 12 + sp * 2 ^ 23 + 2 ^ 31))
          ∧ (s.freeSpare b array = none → Completes (.btRegion b (some (array, column))) s fun t =>
              moved t ∧ (t.bank b).degraded = true ∧ t.bit F.MEM_CAUSE_NO_SPARE = true))

/-! ## Registers, events, the host (chapters 00, 12) -/

/-- Register accesses and events (00 R4, R5, R9, R479; 07 R220; 08 R237; 10 R319; 12 R366 to R368): a read answers the
register and clears its RC fields, the counters of the selected bank being the bank's; a snapshot is taken by the read
of its first register, and its other registers answer what it holds; the lower half of a record is read before the
upper one, which pops it; a write stores what the access codes let it, in the limits that the register states, acts as
the command of a register that acts, and does nothing where no register stands; software events set their slots'
pending bits; a pending word clears by writes; a held message is sent once it may. Where the rules leave a choice: log
entry 44. -/
def Obligations.RegisterAccessAndEvents : Prop :=
  ∀ (s : State) (m : Master) (w : Word), s.seqRun = false → (∀ j, (s.pair j).stepReq = false) →
    (∀ reg : Fin 0x400000,
      let off := 4 * reg.val
      let pops := ∃ p : Fin 4, off = A.CAM_Pp_CCI_RES p
      let special := windowAt off ≠ none ∨ off = A.INS_TBL_DATA ∨ pops
        ∨ off ∈ snapHeads ∨ off ∈ snapMembers ∨ off ∈ [A.MEM_BANK_CE, A.MEM_BANK_UE, A.MEM_BANK_COLL]
      let word := fun (v : Word) => (⟨leBytes 4 v.toNat, false, 0⟩ : Resp)
      (s.blockUp off = true →
        (¬ special → off < A.SYS_VLOG 0 0 ∨ A.SYS_VLOG 64 0 ≤ off ∨ (s.ceBad = [] ∧ s.ueBad = []) →
          Completes (.rcRead m reg) s fun t =>
          t = { s with regs := t.regs, resp := word (s.regView m off) }
            ∧ (∀ a, a ≠ off → t.reg a = s.reg a)
            ∧ ∀ k, kindAt off = some k → ∀ f ∈ k.fields, f.acc = .rc → t.g ⟨off, f.lo, f.w⟩ = 0)
        ∧ (¬ special → Completes (.rcRead m reg) s fun t => t.resp = word (s.regView m off))
        ∧ (off ∈ snapMembers → Completes (.rcRead m reg) s fun t => t = { s with resp := word (s.snap m off) })
        ∧ (∀ i : Fin 5, off = snapHeads.getD i.val 0 → Completes (.rcRead m reg) s fun t =>
            exec (.snapshotRead m i) s = .next t)
        ∧ (off = A.INS_TBL_DATA → Completes (.rcRead m reg) s fun t => exec (.insTblData none) s = .next t)
        ∧ (∀ p : Fin 4, off = A.CAM_Pp_CCI_RES p → Completes (.rcRead m reg) s fun t =>
            exec (.cciResultPop p) s = .next t)
        ∧ (let b := bankIx (s.g F.MEM_BANK_SEL_V)
           s.g F.MEM_BANK_SEL_V ≤ 115 → off = A.MEM_BANK_CE → Completes (.rcRead m reg) s fun t =>
             t = { s with banks := t.banks, resp := word (BitVec.ofNat 32 (s.bank b).ce) }
               ∧ t.bank b = { s.bank b with ce := 0 } ∧ ∀ q, q ≠ b → t.bank q = s.bank q)
        ∧ (0xB0800 ≤ off → off < 0xB1000 →
            (off % 8 = 0 → Completes (.rcRead m reg) s fun t =>
              t.resp = word (BitVec.ofNat 32 (s.cal.etFifo.headD 0#64).toNat) ∧ t.cal.etFifo = s.cal.etFifo)
            ∧ (∀ h, off % 8 = 4 → Cells.find? s.cal.etHeld (snapKey m off) = some h →
                Completes (.rcRead m reg) s fun t =>
                  t.resp = word h.hi ∧ (h.serial ≠ some s.cal.etPops → t.cal.etFifo = s.cal.etFifo)
                    ∧ (∀ r l, h.serial = some s.cal.etPops → s.cal.etFifo = r :: l →
                        t.cal.etPops = s.cal.etPops + 1 ∧ ∃ more, t.cal.etFifo = l ++ more))
            ∧ (off % 8 = 4 → Cells.find? s.cal.etHeld (snapKey m off) = none → Completes (.rcRead m reg) s fun t =>
                t = { s with resp := word 0#32 })))
      ∧ (s.blockUp off = false →
          (Completes (.rcRead m reg) s fun t =>
            t.resp = ⟨List.replicate 4 0#8, false, 0⟩ ∧ s.counted t F.MEM_UNPWR_V ∧ t.g F.MEM_UNPWR_ADDR_V = off)
          ∧ Completes (.registerWrite m reg w) s fun t =>
            s.onlyRegsAndEvents t [A.MEM_UNPWR, A.MEM_UNPWR_ADDR, A.MEM_CAUSE] ∧ s.counted t F.MEM_UNPWR_V)
      ∧ (0x300000 ≤ off → Completes (.registerWrite m reg w) s fun t => t = s)
      ∧ (let block := off / 0x10000
         s.blockUp off = true →
         block = 4 ∨ (block = 3 ∧ off ≠ A.OTP_CMD) ∨ (block = 6 ∧ off ≠ A.DPT_CTL) →
          (kindAt off = none → Completes (.registerWrite m reg w) s fun t => t = s)
          ∧ ∀ k, kindAt off = some k → Completes (.registerWrite m reg w) s fun t =>
              s.onlyRegs t [off] ∧ ∀ f ∈ k.fields, t.g ⟨off, f.lo, f.w⟩ = match f.acc with
                | .rw => Word.field w f.lo f.w
                | .rwl => if s.fieldLocked then s.g ⟨off, f.lo, f.w⟩ else Word.field w f.lo f.w
                | .w1c => Word.field (s.reg off &&& ~~~w) f.lo f.w
                | _ => s.g ⟨off, f.lo, f.w⟩)
      ∧ (s.blockUp off = true →
          (∀ q : Fin 8, off = A.EVT_PENDw q → Completes (.registerWrite m reg w) s fun t =>
            exec (.evtPendClear q w) s = .next t)
          ∧ (off = A.SEQ_SWEV → Completes (.registerWrite m reg w) s fun t =>
              exec (.seqSwev (w.setWidth 4)) s = .next t)
          ∧ (∀ n : Fin 32, off = A.FPE_PQ_PUSH n → Completes (.registerWrite m reg w) s fun t =>
              exec (.pagePush n) s = .next t))
      ∧ (∀ e, e < 256 → off = A.EVT_MAPe e → s.up .core = true → Completes (.registerWrite m reg w) s fun t =>
          s.onlyRegs t [off] ∧ t.g (F.EVT_MAPe_VECTOR e) = w.toNat % 64 ∧ t.bit (F.EVT_MAPe_MSI e) = w.getLsbD 6
            ∧ t.g (F.EVT_MAPe_PAIRS e) = w.toNat / 256 % 16)
      ∧ (off = A.THM_FLOOR → s.up .ana = true → Completes (.registerWrite m reg w) s fun t =>
          s.onlyRegs t [off] ∧ t.g F.THM_FLOOR_V = max 1000 (min 48000 (w.toNat % 65536)))
      ∧ (off = A.THM_CAUSE → s.up .ana = true → Completes (.registerWrite m reg w) s fun t =>
          s.onlyRegs t [off] ∧ ∀ k, kindAt off = some k → ∀ f ∈ k.fields, f.acc = .w1c → f.w = 1 →
            t.bit ⟨off, f.lo, 1⟩ = (s.bit ⟨off, f.lo, 1⟩ && !w.getLsbD f.lo)))
    ∧ (∀ i : Fin 5,
        let off := snapHeads.getD i.val 0
        (s.blockUp off = true → Completes (.snapshotRead m i) s fun t =>
          t = { s with regs := t.regs, snaps := t.snaps, resp := ⟨leBytes 4 (s.regView m off).toNat, false, 0⟩ }
            ∧ (∀ a, a ≠ off → t.reg a = s.reg a) ∧ (∀ o ∈ snapGroup off, t.snap m o = s.regView m o)
            ∧ (∀ o, o < 0x1000000 → o ∉ snapGroup off → t.snap m o = s.snap m o)
            ∧ ∀ n o, o < 0x1000000 → n.key ≠ m.key → t.snap n o = s.snap n o)
        ∧ (s.blockUp off = false → Completes (.snapshotRead m i) s fun t =>
            t.resp = ⟨List.replicate 4 0#8, false, 0⟩ ∧ t.snaps = s.snaps ∧ s.counted t F.MEM_UNPWR_V))
    ∧ (∀ mask : BitVec 4, s.up .core = true → Completes (.seqSwev mask) s fun t =>
        s.onlyRegsAndEvents t [] ∧ ∀ k : Fin 4,
          t.bit (pendField (0xF4 + k.val)) = (mask.getLsbD k || s.bit (pendField (0xF4 + k.val)))
            ∧ ∀ (j : Fin 4) (i : Nat), i < 32 → mask.getLsbD k = true →
                (s.g (F.EVT_MAPe_PAIRS (0xF4 + k.val))).testBit j = true →
                    (s.pair j).slotTakes (0xF4 + k.val) i = true →
                ((t.pair j).ccr 0x012).getLsbD i = true)
    ∧ (∀ q : Fin 8, s.up .core = true → Completes (.evtPendClear q w) s fun t =>
        s.onlyRegs t [A.EVT_PENDw q] ∧ t.reg (A.EVT_PENDw q) = s.reg (A.EVT_PENDw q) &&& ~~~w)
    ∧ ∀ v : Fin 64,
        (s.bit (pbaField v) = true → s.vectorOpen v = true → Completes (.msixSend v) s fun t =>
          t = { s with regs := t.regs, linkOut := t.linkOut } ∧ t.bit (pbaField v) = false
            ∧ (∀ a, a ≠ A.EVT_PBA (v.val / 32) → t.reg a = s.reg a)
            ∧ t.linkOut = s.linkOut ++ [.msix v
                ((s.reg (A.EVT_MSIX_TABLE v 0)).toNat + 2 ^ 32 * (s.reg (A.EVT_MSIX_TABLE v 1)).toNat)
                (s.reg (A.EVT_MSIX_TABLE v 2))])
        ∧ (s.bit (pbaField v) = false ∨ s.vectorOpen v = false → Completes (.msixSend v) s fun t => t = s)

/-- Requests on the link (12 R360, R362, R364, R369, R371; 14 R414; 13 R395): BAR0 is the register space and BAR2 the
memory space; the data port accesses DPT_ADDR, which moves on, and refuses a misaligned access to the register space;
requests wait in STANDBY and behind a stalled push (03 R93), are unsupported in D3hot, and none arrives without a
link; configuration requests, with retry status until a power-on or cold sequence ends, PMCSR keeping D3hot while the
host link holds it (14 R405); violations. That every memory request, reads too, waits behind a stalled push is the
model's choice (log entry 74), and so is what a data-port access with bytes that are not enabled does (log entry 71).
Where the rules leave a choice besides: log entries 59, 68, 69. -/
def Obligations.HostRequests : Prop :=
  ∀ (s : State) (n : Nat) (bs : List Byte) (w : Word) (port : BitVec 16),
    let write := some (bs.map some)
    let advisory := if s.errorFatal .unsupported then F.SYS_HL_UNCORR_V else F.SYS_HL_CORR_V
    let steady := ∀ j, (s.pair j).stepReq = false
    let clean := s.ceBad = [] ∧ s.ueBad = [] ∧ (∀ b, (s.bank b).wiping = false) ∧ s.up .core = true
    let awake := s.seqRun = false ∧ s.g F.PWR_STATUS_STATE < 2 ∧ s.power.held = [] ∧ s.linkStalled = false
      ∧ s.power.stopped = false
    (s.linkReaches = true → s.bit F.SYS_HL_STATUS_D3HOT = false → awake → steady →
      (∀ (off : BitVec 24) (reg : Fin 0x400000), off.toNat = 4 * reg.val →
        (Completes (.bar0Access off 4 none) s fun t => exec (.rcRead .host reg) s = .next t)
        ∧ Completes (.bar0Access off 4 (some ((leBytes 4 w.toNat).map some))) s fun t =>
            exec (.registerWrite .host reg w) s = .next t)
      ∧ (∀ off : BitVec 30, clean → 0x04000000 ≤ off.toNat →
          (off.toNat + n ≤ 0x04400000 → Completes (.bar2Access off n none) s fun t =>
            t = { s with resp := ⟨(List.range n).map fun i => s.byteAt (off.toNat + i), false, 0⟩ })
          ∧ (off.toNat + bs.length ≤ 0x04400000 → Completes (.bar2Access off bs.length write) s fun t =>
              t = { s with mem := t.mem } ∧ s.stored t off.toNat bs))
      ∧ (let a := s.g F.DPT_ADDR_V
         let next := fun (k : Nat) => match s.g F.DPT_CTL_MODE with
           | 0 => (a + k) % 2 ^ 32
           | 1 => (a + s.g F.DPT_STRIDE_V) % 2 ^ 32
           | _ => a
         (clean → 0x44000000 ≤ a →
           (0 < n → a + n ≤ 0x44400000 → Completes (.dataPortAccess n none port) s fun t =>
             t.resp = ⟨(List.range n).map fun i => s.byteAt (a - 0x40000000 + i), false, 0⟩ ∧ t.mem = s.mem
               ∧ t.g F.DPT_ADDR_V = next n ∧ t.g F.DPT_STATUS_LAST = 0 ∧ s.counted t F.DPT_ACCESSES_V)
           ∧ (bs ≠ [] → a + bs.length ≤ 0x44400000 → Completes (.dataPortAccess bs.length write port) s fun t =>
             s.stored t (a - 0x40000000) bs ∧ t.g F.DPT_ADDR_V = next bs.length ∧ t.g F.DPT_STATUS_LAST = 0
               ∧ s.counted t F.DPT_ACCESSES_V))
         ∧ (0 < n → a < 0x1000000 → a % 4 ≠ 0 ∨ n % 4 ≠ 0 → Completes (.dataPortAccess n none port) s fun t =>
             t.resp = ⟨List.replicate n 0#8, false, 0⟩ ∧ t.g F.DPT_STATUS_LAST = 5 ∧ t.g F.DPT_ADDR_V = next n
               ∧ s.counted t F.DPT_ERRORS_V ∧ t.mem = s.mem)))
    ∧ (∀ off : BitVec 24,
        (s.linkReaches = false → Completes (.bar0Access off n none) s fun t => t = s)
        ∧ (s.linkReaches = true → s.bit F.SYS_HL_STATUS_D3HOT = true → Completes (.bar0Access off n none) s fun t =>
            t.resp = ⟨[], false, 1⟩ ∧ s.counted t advisory)
        ∧ (s.linkReaches = true → s.bit F.SYS_HL_STATUS_D3HOT = false → s.seqRun = false → steady →
            2 ≤ s.g F.PWR_STATUS_STATE ∨ s.linkStalled = true ∨ s.power.stopped = true → Completes (.bar0Access off n none) s fun t =>
              t = { s with power := { s.power with held := s.power.held ++ [.bar0 off.toNat n none] } }))
    ∧ (∀ r : CfgReg, s.seqRun = true → s.clk.level ≠ .warm → Completes (.configRequest r none) s fun t =>
        t = { s with resp := ⟨[], false, 2⟩ })
    ∧ (s.linkReaches = true → s.seqRun = false →
        (Word.field (s.deviceWord 0) 0 16 ≠ 0 → Completes (.configRequest .ids none) s fun t =>
          t = { s with resp := ⟨leBytes 4 (Word.field (s.deviceWord 0) 0 16 + 0x9860 * 2 ^ 16), false, 0⟩ })
        ∧ (Completes (.configRequest .command (some w)) s fun t =>
            t.bit F.SYS_HL_STATUS_BME = w.getLsbD 2 ∧ t.bit F.SYS_HL_STATUS_D3HOT = s.bit F.SYS_HL_STATUS_D3HOT)
        ∧ (s.holdsD3 = true → Word.field w 0 2 ≠ 3 → Word.field w 0 2 ≠ 1 → Word.field w 0 2 ≠ 2 →
            Completes (.configRequest .pmCsr (some w)) s fun t =>
              t.bit F.SYS_HL_STATUS_D3HOT = s.bit F.SYS_HL_STATUS_D3HOT ∧ t.hl.pmeEn = s.hl.pmeEn
                ∧ t.bit F.PWR_CAUSE_BLOCKED_WRITE = true)
        ∧ ((Word.field w 0 2 = 0 ∧ s.holdsD3 = false) ∨ Word.field w 0 2 = 3 → Completes (.configRequest .pmCsr (some w)) s fun t =>
            t.bit F.SYS_HL_STATUS_D3HOT = decide (Word.field w 0 2 = 3) ∧ t.hl.pmeEn = w.getLsbD 8)
        ∧ (Completes (.configRequest .msixCtl (some w)) s fun t =>
            t.bit F.SYS_HL_STATUS_MSIX_EN = (w.getLsbD 31 && !w.getLsbD 30))
        ∧ (Completes (.tlpViolation .malformed) s fun t => s.counted t F.SYS_HL_UNCORR_V)
        ∧ (∀ a : Word, Completes (.tlpViolation (.unsupported false a)) s fun t =>
            s.counted t advisory ∧ t.resp = ⟨[], false, 1⟩))

/-- The link and precision time measurement (11 R337; 12 R357, R362, R363, R365): training to a generation and a number
of lanes that Table 12.1 offers, its loss, a retrain, which always sets its cause, the D-state, of which the host link
holds D3hot once it has accepted that its domain goes off (14 R405); a dialog begins with a request on the link, is
recorded when its response comes, and fails after 1 ms. Where the rules leave a choice: log entries 67, 72.

The management port (12 R372 to R377): a READ or WRITE of an awake device with EN = 1 is served and answered with
its status and CRC; one whose CRC is wrong is not, and is answered with FRAME_CRC; a request behind a WRITE that waits
for its push waits in turn (R375); an aborted request counts, and the response of a running one is lost; a
transaction that wakes a sleeping device, or one in a state change, is not served (R377); the wake pattern counts while
the device is awake. Where the rules leave a choice: log entry 73. -/
def Obligations.LinkStatePtmAndManagementPort : Prop :=
  (∀ (s : State) (speed : Fin 6) (width : Fin 17) (d3hot bme : Bool) (master : DWord) (delay : Word),
     let linked := s.bit F.SYS_HL_STATUS_LINK_UP = true
     let offered := 1 ≤ speed.val ∧ width.val ∈ [1, 2, 4, 8, 16]
     (s.linkCanTrain = true → ¬ linked → offered → Completes (.linkUp speed width) s fun t =>
       t.bit F.SYS_HL_STATUS_LINK_UP = true ∧ t.g F.SYS_HL_STATUS_SPEED = speed.val
         ∧ t.g F.SYS_HL_STATUS_WIDTH = width.val ∧ s.counted t F.SYS_HL_RETRAINS_V
         ∧ t.bit F.SYS_HL_CAUSE_LINK_UP = true
         ∧ (s.seqRun = false → s.up .core = true → t.g F.DMA_RL_BASE_V = rateAt16 speed.val * width.val / 16))
     ∧ (linked → Completes .linkDown s fun t =>
         t.bit F.SYS_HL_STATUS_LINK_UP = false ∧ t.g F.SYS_HL_STATUS_SPEED = 0 ∧ t.g F.SYS_HL_STATUS_WIDTH = 0
           ∧ t.bit F.SYS_HL_CAUSE_LINK_DOWN = true)
     ∧ (¬ linked → Completes .linkDown s fun t => t = s)
     ∧ (linked → offered → Completes (.retrain speed width) s fun t =>
         t.g F.SYS_HL_STATUS_SPEED = speed.val ∧ t.g F.SYS_HL_STATUS_WIDTH = width.val
           ∧ t.bit F.SYS_HL_STATUS_LINK_UP = true ∧ s.counted t F.SYS_HL_RETRAINS_V
           ∧ t.bit F.SYS_HL_CAUSE_RETRAIN = true
           ∧ (s.g F.SYS_HL_STATUS_SPEED ≠ speed.val ∨ s.g F.SYS_HL_STATUS_WIDTH ≠ width.val → s.seqRun = false →
               s.up .core = true → t.g F.DMA_RL_BASE_V = rateAt16 speed.val * width.val / 16))
     ∧ (¬ offered → Completes (.linkUp speed width) s (fun t => t = s) ∧ Completes (.retrain speed width) s fun t =>
         t = s)
     ∧ (s.power.off = false → s.up .host = true → s.holdsD3 = true → d3hot = false →
         Completes (.dstateChange d3hot bme) s fun t => t.bit F.SYS_HL_STATUS_D3HOT = s.bit F.SYS_HL_STATUS_D3HOT
           ∧ t.bit F.SYS_HL_STATUS_BME = s.bit F.SYS_HL_STATUS_BME ∧ t.bit F.PWR_CAUSE_BLOCKED_WRITE = true)
     ∧ (s.power.off = false → s.up .host = true → s.holdsD3 = false ∨ d3hot = true →
         Completes (.dstateChange d3hot bme) s fun t =>
         t.bit F.SYS_HL_STATUS_D3HOT = d3hot ∧ t.bit F.SYS_HL_STATUS_BME = bme
           ∧ (s.bit F.SYS_HL_STATUS_D3HOT ≠ d3hot → t.bit F.SYS_HL_CAUSE_DSTATE = true))
     ∧ (let begins := fun (t : State) => t.hl.dialog = some s.now
           ∧ t.linkOut = (if s.bit F.SYS_HL_STATUS_LINK_UP then s.linkOut ++ [.ptmRequest] else s.linkOut)
        s.bit F.SYS_HL_PTM_CTL_EN = true → s.hl.ptmEn = true → s.hl.dialog = none →
         (s.takes A.SYS_HL_PTM_CTL → Completes .ptmTrig s begins)
         ∧ (s.seqRun = false → s.up .host = true → 0 < s.g F.SYS_HL_PTM_CTL_PERIOD →
             s.hl.ptmT + ms (s.g F.SYS_HL_PTM_CTL_PERIOD) ≤ s.now → Completes .ptmPeriod s fun t =>
               begins t ∧ t.hl.ptmT = s.now))
     ∧ ∀ t1, s.hl.dialog = some t1 →
         (s.now ≤ t1 + ms 1 → Completes (.ptmResponse (some (master, delay))) s fun t =>
           t.hl.dialog = none ∧ t.reg A.SYS_HL_PTM_T1_LO = BitVec.ofNat 32 (t1 / 65536)
             ∧ t.reg A.SYS_HL_PTM_T4_LO = BitVec.ofNat 32 s.ts
             ∧ t.reg A.SYS_HL_PTM_MT_LO = BitVec.ofNat 32 master.toNat ∧ t.g F.SYS_HL_PTM_PD_V = delay.toNat
             ∧ t.reg A.SYS_HL_PTM_T1P_LO = s.reg A.SYS_HL_PTM_T1_LO
             ∧ t.reg A.SYS_HL_PTM_T4P_LO = s.reg A.SYS_HL_PTM_T4_LO ∧ t.bit F.SYS_HL_CAUSE_PTM_DONE = true)
         ∧ (t1 + ms 1 < s.now → Completes (.ptmResponse (some (master, delay))) s fun t =>
             t.hl.dialog = none ∧ t.bit F.SYS_HL_CAUSE_PTM_FAIL = true
               ∧ t.reg A.SYS_HL_PTM_T1_LO = s.reg A.SYS_HL_PTM_T1_LO)
         ∧ (Completes (.ptmResponse none) s fun t =>
             t.hl.dialog = none ∧ t.bit F.SYS_HL_CAUSE_PTM_FAIL = true)
         ∧ (t1 + ms 1 ≤ s.now → Completes .ptmTimeout s fun t =>
             t.hl.dialog = none ∧ t.bit F.SYS_HL_CAUSE_PTM_FAIL = true)
         ∧ (s.now < t1 + ms 1 → Completes .ptmTimeout s fun t => t = s))
  ∧ ∀ (s : State) (addr : Word) (len : BitVec 16) (bs : List Byte) (crc : Byte) (cmd : Byte) (afterCrc : Bool),
      let open_ := s.power.off = false ∧ s.seqRun = false ∧ s.up .core = true ∧ s.power.stopped = false
      let a := addr.toNat
      let clean := s.ceBad = [] ∧ s.ueBad = [] ∧ (∀ b, (s.bank b).wiping = false)
      let steady := ∀ j, (s.pair j).stepReq = false
      let readOk := crc8 (0x0B#8 :: beBytes 4 a ++ beBytes 2 len.toNat) = crc.toNat
      let answers := fun (t : State) (body : List Byte) (status : Nat) (tail : List Byte) =>
        let r := 0x3C#8 :: body ++ [BitVec.ofNat 8 status] ++ tail
        t.resp = ⟨r ++ [BitVec.ofNat 8 (crc8 r)], false, status⟩ ∧ t.g F.MGT_STATUS_STATUS = status
          ∧ s.counted t F.MGT_REQUESTS_V
      let sampled := s.bit F.MGT_CFG_WAKE_ANY = true ∧ (s.reg A.PWR_WAKE_EN).getLsbD 2 = true
      (open_ → s.mgtWakes = false → s.bit F.MGT_CFG_EN = true → s.mgt = none →
        (clean → steady → 0x44000000 ≤ a → 0 < len.toNat → len.toNat ≤ 4096 → a + len.toNat ≤ 0x44400000 → readOk →
          Completes (.mgtRead 0x0B#8 addr len crc) s fun t =>
            answers t ((List.range len.toNat).map fun i => s.byteAt (a - 0x40000000 + i)) 0 [] ∧ t.mem = s.mem)
        ∧ (steady → ¬ readOk → Completes (.mgtRead 0x0B#8 addr len crc) s fun t =>
              answers t (List.replicate len.toNat 0#8) 0x12 [] ∧ s.counted t F.MGT_CRC_ERRS_V ∧ t.mem = s.mem)
        ∧ (clean → steady → s.mgtStalled = false → 0x44000000 ≤ a → bs ≠ [] →
            bs.length ≤ 4096 → a + bs.length ≤ 0x44400000 →
            crc8 (0x02#8 :: beBytes 4 a ++ beBytes 2 bs.length ++ bs) = crc.toNat →
            Completes (.mgtWrite addr bs crc) s fun t =>
              answers t [] 0 (beBytes 2 bs.length) ∧ s.stored t (a - 0x40000000) bs)
        ∧ Completes (.mgtAbort afterCrc cmd addr) s fun t =>
            s.counted t F.MGT_ABORTS_V ∧ t.mem = s.mem ∧ (afterCrc = true → t.resp = ⟨[], false, 0⟩))
      ∧ (∀ m, open_ → s.mgtWakes = false → s.bit F.MGT_CFG_EN = true → s.mgt = some m →
          (steady → Completes (.mgtRead 0x0B#8 addr len crc) s fun t =>
            ∃ q : MgtReq, t = { s with mgt := some { m with waiting := m.waiting ++ [q] }, regs := t.regs
                                       power := t.power }
              ∧ (¬ sampled → t.regs = s.regs ∧ t.power = s.power)
              ∧ q.addr = addr ∧ q.len = len.toNat ∧ (q.crcOk = true ↔ readOk))
          ∧ (m.waiting = [] → Completes (.mgtAbort true cmd addr) s fun t =>
              s.counted t F.MGT_ABORTS_V ∧ t.mem = s.mem ∧ t.mgt = some { m with lost := true }))
      ∧ (s.mgtWakes = true → s.bit F.MGT_CFG_WAKE_ANY = true → steady →
          Completes (.mgtRead 0x0B#8 addr len crc) s fun t =>
            t.resp = s.resp ∧ t.mem = s.mem ∧ t.mgt = s.mgt ∧ t.reg A.MGT_REQUESTS = s.reg A.MGT_REQUESTS)
      ∧ (open_ → s.mgtWakes = false → Completes .wakePattern s fun t =>
          t = { s with regs := t.regs, power := t.power } ∧ s.counted t F.MGT_WAKES_V
            ∧ ((s.reg A.PWR_WAKE_EN).getLsbD 2 = false → s.onlyRegs t [A.MGT_WAKES]))

/-! ## Clocks, resets, power (chapters 13, 14) -/

/-- Resets (R390 to R396): each source asserts a reset of its level with its cause, RST_CTL only with its key; of
causes of one AON cycle RST_LAST names that of the highest level, then the lowest code; the loss of SYSCLK, or of the
lock of the main or grid PLL, is a warm reset outside the low-power states, and each takes the status of its own clock;
the link resets; the sequence wipes the memories, locks the PLLs, records the training of each port, and starts pair 3
in the boot ROM, which waits for a load. A RESET_N pulse below 200 ns is ignored. During a device reset the balls stand
as Table 16.8 says (16 R455), a ball without its supply high-impedance (17 R463). The model's choices: the ROM's first
steps, which end with SEQ_BOOT_STATUS.STATE 1 and slot 0xF9 (R313, R314, Table 10.8), fall into the end of the sequence
(log entries 50, 51); what a removal of the supplies (R399) leaves, POWER_ON among it, is log entry 61; the supply
groups log entry 94; the rest log entries 61 and 63.

Clocks and training (R382, R386 to R389): the host PLL's loss, also in a reset sequence, holds the link's domain in
reset until it locks; the crystal's flag; the grid PLL's relock trains every powered port, in a reset sequence it is
only noted; a requested training waits for its end, which records a tap, with TRAINED where the port's last training
had found none, or finds none and clears EN; one requested during a page is refused. Where the rules leave a choice: log
entries 61 and 63. -/
def Obligations.ResetsClocksAndTraining : Prop :=
  (∀ (s : State) (m : Master) (w : Word) (lowNs : Nat) (k : LinkResetKind) (taps : Vector (Option (Fin 64)) 32)
     (late : List (Supply × Nat)) (what : ClockFault),
     (Completes (.powerOnReset late) s fun t =>
         s.resetBy t .powerOn F.RST_CAUSE_POWER_ON 1 ∧ t.power.late = late.map fun x => (x.1, ns x.2))
     ∧ (Completes .powerRemoval s fun t =>
         t.power.off = true ∧ t.seqRun = true ∧ t.mem = [] ∧ t.bit F.RST_CAUSE_POWER_ON = true)
     ∧ (s.power.off = false →
         (Completes .brownout s fun t => s.resetBy t .powerOn F.RST_CAUSE_BROWNOUT 2)
         ∧ (1000 ≤ lowNs → s.seqRun = false → Completes (.coldReset lowNs) s fun t =>
             s.resetBy t .cold F.RST_CAUSE_PIN 3)
         ∧ (lowNs < 200 → Completes (.coldReset lowNs) s fun t => t = s)
         ∧ (1000 ≤ lowNs → s.seqRun = true → s.clk.resetT / 4096000 = s.now / 4096000 →
             Completes (.coldReset lowNs) s fun t =>
               let last := s.g F.RST_LAST_V
               t.g F.RST_LAST_V = (match s.clk.cause with | .powerOn => last | .cold => min last 3 | .warm => 3)
                 ∧ t.clk.level = (if s.clk.level = .powerOn then .powerOn else .cold))
         ∧ (s.seqRun = false → s.g F.PWR_STATUS_STATE < 2 → s.power.stopped = false →
             Completes (.clockLoss what) s fun t =>
               let keeps := fun (f : Field) => t.bit f = s.bit f
               s.resetBy t .warm F.RST_CAUSE_CLOCK_LOSS 7
                 ∧ (what ≠ .gridPll → t.bit F.CLK_STATUS_MAIN_LOCK = false)
                 ∧ (what ≠ .mainPll → t.bit F.CLK_STATUS_GRID_LOCK = false)
                 ∧ (what = .sysclk → t.bit F.CLK_STATUS_SYSCLK_OK = false)
                 ∧ (what = .mainPll → keeps F.CLK_STATUS_GRID_LOCK ∧ keeps F.CLK_STATUS_SYSCLK_OK)
                 ∧ (what = .gridPll → keeps F.CLK_STATUS_MAIN_LOCK ∧ keeps F.CLK_STATUS_SYSCLK_OK))
         ∧ (2 ≤ s.g F.PWR_STATUS_STATE ∨ s.power.stopped = true → Completes (.clockLoss what) s fun t => t = s)
         ∧ (Completes (.linkReset k) s fun t =>
             t.bit F.RST_CAUSE_LINK = true ∧ (k = .perst → t.clk.perst = true ∧ t.hl.held = true)
               ∧ (s.up .host = true → t.bit F.SYS_HL_STATUS_LINK_UP = false ∧ t.bit F.SYS_HL_STATUS_D3HOT = false
                   ∧ t.bit F.SYS_HL_STATUS_BME = false ∧ t.bit F.SYS_HL_STATUS_MSIX_EN = false
                   ∧ t.hl.msixEn = false ∧ ∀ a, 0x48000 ≤ a → a < 0x49008 → t.reg a = resetWord a))
         ∧ (s.seqRun = true → Completes (.resetSequence taps) s fun t =>
             t.seqRun = false ∧ t.mem = [] ∧ t.ceBad = [] ∧ t.ueBad = [] ∧ t.bit F.CLK_STATUS_MAIN_LOCK = true
               ∧ t.bit F.CLK_STATUS_GRID_LOCK = true ∧ t.bit F.CLK_STATUS_SYSCLK_OK = true
               ∧ (t.pair 3).mode = .running ∧ (t.pair 3).pc = 0x1C000 ∧ t.g F.SEQ_BOOT_STATUS_STATE = 1
               ∧ t.bit (pendField 0xF9) = true ∧ t.now = s.now
               ∧ ∀ n : Fin 32, t.bit ⟨A.CLK_TRAIN_OK, n.val, 1⟩ = (taps[n]).isSome))
     ∧ (s.takes A.RST_CTL →
         let key := w.getLsbD 0 = true ∧ Word.field w 8 8 = 0x5A
         (key → (∀ j, m ≠ .pair j) → Completes (.rstCtlWarm m w) s fun t => s.resetBy t .warm F.RST_CAUSE_SW_EXT 5)
         ∧ (key → (∃ j, m = .pair j) → Completes (.rstCtlWarm m w) s fun t => s.resetBy t .warm F.RST_CAUSE_SW_SEQ 6)
         ∧ (¬ key → Completes (.rstCtlWarm m w) s fun t => t = s))
     ∧ (∀ b v, b.supply = some v → s.supplied v = false → s.ball b = .open)
     ∧ (s.seqRun = true → s.power.off = false → (∀ v, s.supplied v = true) → ∀ (n : Fin 32) (p : Fin 4),
         s.ball (.headData n) = .low ∧ s.ball (.headStrobe n) = .low ∧ s.ball (.supplySetpoint n) = .clamped
           ∧ s.ball .command = .code 0 ∧ s.ball .enableN = .high ∧ s.ball .stopN = .low ∧ s.ball .wakeN = .open
           ∧ s.ball (.camTrigger p) = .low ∧ s.ball (.camStrobe p) = .low ∧ s.ball .mgMiso = .open)
     ∧ Completes .perstNRelease s fun t =>
         t.clk.perst = false ∧ t.hl.held = (s.hl.held && (s.clk.hostLost || (s.seqRun && s.clk.level != .warm)))
           ∧ t.regs = s.regs)
  ∧ ∀ (s : State) (mask : Word) (n : Fin 32) (tap : Fin 64),
      let ok : Field := ⟨A.CLK_TRAIN_OK, n.val, 1⟩
      let locksItself := s.seqRun && s.clk.level != .warm
      let stopped := s.power.off = true ∨ (s.power.stopped = true ∧ s.power.undoT = none)
        ∨ (2 ≤ s.g F.PWR_STATUS_STATE ∧ s.power.exitT = none)
      (s.power.off = false →
        (s.bit F.CLK_STATUS_HOST_LOCK = true → Completes .hostUnlock s fun t =>
          t.bit F.CLK_STATUS_HOST_LOCK = false ∧ t.bit F.CLK_CAUSE_HOST_UNLOCK = true ∧ t.clk.hostLost = true
            ∧ t.hl.held = true ∧ t.bit F.SYS_HL_STATUS_LINK_UP = false)
        ∧ (s.bit F.CLK_STATUS_HOST_LOCK = false → Completes .hostUnlock s fun t =>
            t = if locksItself then { s with clk := { s.clk with hostLost := true } } else s))
      ∧ (s.clk.hostLost = true → Completes .hostPllLock s fun t =>
          t.bit F.CLK_STATUS_HOST_LOCK = true ∧ t.clk.hostLost = false
            ∧ t.hl.held = (s.clk.perst || locksItself))
      ∧ (s.clk.hostLost = false → Completes .hostPllLock s fun t => t = s)
      ∧ (s.bit F.CLK_STATUS_GRID_LOCK = true ∨ stopped → Completes .pllLock s fun t => t = s)
      ∧ (s.bit F.CLK_STATUS_GRID_LOCK = false → ¬ stopped → Completes .pllLock s fun t =>
          s.onlyRegs { t with clk := s.clk } [A.CLK_STATUS] ∧ t.bit F.CLK_STATUS_GRID_LOCK = true
            ∧ t.clk.training.testBit n.val
                = (s.clk.training.testBit n.val || (!s.seqRun && s.up (barDomain n))))
      ∧ (s.seqRun = false →
        (s.clk.training.testBit n.val = true →
            (Completes (.trainingDone n (some tap)) s fun t =>
              t.bit ok = true ∧ t.clk.training.testBit n.val = false
                ∧ t.bit F.CLK_CAUSE_TRAINED
                    = (s.bit F.CLK_CAUSE_TRAINED || Cells.find? s.clk.taps n.val == some tapFailed)
                ∧ Cells.find? t.clk.taps n.val = some tap.val
                ∧ ∀ m : Fin 32, m ≠ n → t.clk.training.testBit m.val = s.clk.training.testBit m.val)
            ∧ Completes (.trainingDone n none) s fun t =>
              t.bit ok = false ∧ t.bit (F.FPE_CTL_EN n) = false ∧ t.bit F.CLK_CAUSE_TRAIN_FAIL = true
                ∧ t.clk.training.testBit n.val = false ∧ Cells.find? t.clk.taps n.val = some tapFailed)
        ∧ (s.clk.training.testBit n.val = false → Completes (.trainingDone n (some tap)) s fun t => t = s))
      ∧ (s.bit F.CLK_CFG_XTAL_EN = true →
          (s.bit F.CLK_STATUS_XTAL_OK = true → Completes .xtalFail s fun t =>
            s.onlyRegsAndEvents t [A.CLK_STATUS, A.CLK_CAUSE] ∧ t.bit F.CLK_STATUS_XTAL_OK = false
              ∧ t.bit F.CLK_CAUSE_XTAL_FAIL = true)
          ∧ Completes .xtalRunning s fun t => s.onlyRegs t [A.CLK_STATUS] ∧ t.bit F.CLK_STATUS_XTAL_OK = true)
      ∧ (s.bit F.CLK_CFG_XTAL_EN = false → Completes .xtalFail s fun t => t = s)
      ∧ (s.takes A.CLK_TRAIN_CTL → Completes (.clkTrainCtl mask) s fun t =>
          let asked := mask.getLsbD n.val && s.up (barDomain n)
          let busy := (s.bar n).inPage || s.grid.paused
          t.clk.training.testBit n.val = (s.clk.training.testBit n.val || (asked && !busy))
            ∧ (asked = true → busy = true → t.bit F.CLK_CAUSE_RETRAIN_REFUSED = true)
            ∧ t.reg A.CLK_TRAIN_OK = s.reg A.CLK_TRAIN_OK)

/-- Power requests (R401 to R406, R412, R421, Table 14.2; 15 R445): IDLE and ON; a request for STANDBY, HIBERNATE or
domains off asks the participants of Table 14.2, whose conditions are spelled out here, FORCE overriding those of 1 to 7
(R406) and the retention load of Table 14.6 refusing above its limit (R421). It passes when all accept, is refused with
the lowest refusing participant's code, waits while one defers, and times out after 10 ms; a request for domains off
switches them when it passes, and DOM_DONE ends a domain request, a retained bank whose cells lost their contents being
found lost (11 R352). The channels that refuse are named (11 R342), wakes of the acceptance cycle count as arrived
during the entry, a request while one is in progress, or for a low-power state during an OTP command, only sets LAST.
The model's choices: PHASE, the time of the switching, what DMA_PWR_BLOCK shows (log entry 64), the level sources
sampled at the acceptance (log entry 65), the command's place among the operations (log entry 84). -/
def Obligations.PowerRequests : Prop :=
  ∀ (s : State) (force : Bool) (mask : BitVec 11) (r : PwrReq) (lost : List (Fin 116)),
    let asked := fun (q : PwrReq) (d : Domain) =>
      d ∈ allDomains ∧ s.up d = true ∧ q.target.offMask.testBit d.bit = true
    let barOn := fun (n : Fin 32) => s.bit (F.FPE_CTL_EN n) = true
    let blocks := fun (q : PwrReq) (c : Fin 48) => ∃ d, asked q d ∧
      ((s.chanState c ∈ [1, 2, 3] ∧ ∃ x ∈ (s.dch c).fetched, x.bad (dmaClass c) = false ∧ x.targets c d = true)
        ∨ (d = .host ∧ s.ringInt c = false ∧ s.chanState c ∈ [1, 3]))
    let wakeOn := fun (i : Nat) => (s.reg A.PWR_WAKE_EN).getLsbD i
    let kept := fun (b : Nat) => (s.reg (A.MEM_RET_SELw (b / 32))).getLsbD (b % 32)
    let load := 800 + 121 * (List.range' 0 32).countP kept + 20 * (List.range' 32 32).countP kept
      + 123 * (List.range' 64 4).countP kept + 16 * (List.range' 68 8).countP kept
      + 25 * [4, 5, 6, 7].countP wakeOn + 5 * [2, 8, 9, 10, 11].countP wakeOn
      + 15 * [12].countP wakeOn + 2 * [13].countP wakeOn
    let down := fun (q : PwrReq) => q.target = .standby ∨ q.target = .hibernate
    let refuses := fun (q : PwrReq) (k : Nat) =>
      (k = 1 ∧ ((q.target = .idle ∧ s.running = true) ∨ ∃ n : Fin 32, asked q (barDomain n) ∧ barOn n))
      ∨ (k = 2 ∧ ∃ c, blocks q c)
      ∨ (k = 3 ∧ (asked q .pos ∨ asked q .ana) ∧ s.leader = true ∧ s.xenLow = true)
      ∨ (k = 4 ∧ asked q .ana ∧ ∃ n, barOn n)
      ∨ (k = 5 ∧ asked q .cam ∧ ∃ p : Fin 4, s.bit (F.CAM_Pp_CTL_EN p) = true)
      ∨ (k = 6 ∧ asked q .core ∧ ∃ j : Fin 4, j ≠ 3 ∧ ((s.pair j).mode = .running ∨ ∃ w, (s.pair j).mode = .waiting w))
      ∨ (k = 8 ∧ down q ∧ s.g F.PWR_RET_LIMIT_V < load)
    let defers := fun (q : PwrReq) (k : Nat) => ¬ refuses q k ∧
      ((k = 5 ∧ asked q .cam ∧ (s.ins.replay ≠ none ∨ ∃ p, (s.cam p).cciRun ≠ none))
      ∨ (k = 6 ∧ asked q .core ∧ ∃ j : Fin 4, (∃ h, (s.pair j).mode = .halting h) ∨ (s.pair j).ready ≠ []
          ∨ (s.pair j).cur.outs ≠ [] ∨ ∃ i ∈ (s.pair j).closed, i.outs ≠ [])
      ∨ (k = 7 ∧ asked q .host ∧ s.bit F.SYS_HL_STATUS_D3HOT = false)
      ∨ (k = 8 ∧ down q ∧ s.wipe ≠ none))
    let counts := fun (q : PwrReq) (k : Nat) => q.force = false ∨ 8 ≤ k
    let refuse := fun (q : PwrReq) (k : Nat) =>
      counts q k ∧ refuses q k ∧ ∀ i, i < k → ¬ (counts q i ∧ refuses q i)
    let defer := fun (q : PwrReq) (k : Nat) => (∀ i, ¬ (counts q i ∧ refuses q i))
      ∧ counts q k ∧ defers q k ∧ ∀ i, i < k → ¬ (counts q i ∧ defers q i)
    let accept := fun (q : PwrReq) => ∀ i, counts q i → ¬ refuses q i ∧ ¬ defers q i
    let named := fun (q : PwrReq) (t : State) => ∀ c : Fin 48,
      t.bit ⟨if c.val < 32 then A.DMA_PWR_BLOCK0 else A.DMA_PWR_BLOCK1, c.val % 32, 1⟩ = true
        ↔ q.force = false ∧ blocks q c
    let ends := fun (q : PwrReq) (k status : Nat) (t : State) =>
      t.g F.PWR_STATUS_REFUSER = k ∧ s.counted t F.PWR_REFUSALS_V ∧ named q t ∧ (∀ d, t.up d = s.up d)
        ∧ ((∀ off on, q.target ≠ .domains off on) → t.g F.PWR_STATUS_LAST = status ∧ t.g F.PWR_STATUS_PHASE = 0
            ∧ t.power.req = none)
        ∧ ∀ off on, q.target = .domains off on → t.power.req = some { q with ended := some status }
    let refused := fun (q : PwrReq) (k : Nat) (t : State) => ends q k 6 t ∧ t.bit F.PWR_CAUSE_REFUSED = true
    let waits := fun (q : PwrReq) (t : State) =>
      t.power.req = some q ∧ named q t ∧ ∀ d, t.up d = s.up d
    let switched := fun (q : PwrReq) (off : Nat) (t : State) =>
      t.power.req = some { q with passed := some s.now, ended := some 0 }
        ∧ (∀ d ∈ allDomains, t.up d = (s.up d && !off.testBit d.bit))
        ∧ (q.force = true → off.testBit Domain.ana.bit = true → s.up .ana = true →
            ∀ n : Fin 32, (t.thm.bars[n]).trip = true)
    let begun := fun (q : PwrReq) (t : State) =>
      t.power.req = some { q with passed := some s.now } ∧ t.g F.PWR_STATUS_PHASE = 2 ∧ named q t
        ∧ (s.running = true → t.bars = s.bars.map (Bar.lineCut s.now))
    let state := s.g F.PWR_STATUS_STATE
    let busy := s.power.req ≠ none ∨ s.power.exitT ≠ none ∨ 2 ≤ state
    let wakeBit := fun (i : Nat) =>
      s.power.sampledT / 4096000 = s.now / 4096000 ∧ s.power.sampled.testBit i = true
        ∨ wakeOn i = true ∧ ((i = 1 ∧ s.clk.perst = true) ∨ (i = 13 ∧ s.power.xfltLow = true)
            ∨ (i = 12 ∧ ∃ x, s.power.dieTemp = some x ∧ (s.g F.PWR_WAKE_CFG_TALARM : Int) ≤ x))
    let woken := fun (t : State) => (∀ i, t.power.wakeSrc.testBit i = true ↔ wakeBit i)
      ∧ (t.power.stale = true ↔ ∃ i, wakeBit i) ∧ (t.power.pinWake = true ↔ ∃ i, 3 ≤ i ∧ wakeBit i)
      ∧ ((∃ i, i < 3 ∧ wakeBit i) → t.power.linkWake = some s.now)
      ∧ ((∀ i, i < 3 → ¬ wakeBit i) → t.power.linkWake = none)
    (s.takes A.PWR_REQ →
      (busy → ∀ c ∈ [Instr.pwrReqOn, .pwrReqIdle, .pwrReqStandby force, .pwrReqHibernate force],
        Completes c s fun t => s.onlyRegs t [A.PWR_STATUS] ∧ t.g F.PWR_STATUS_LAST = 6)
      ∧ (¬ busy →
          (state = 1 → Completes .pwrReqOn s fun t =>
            s.onlyRegs t [A.PWR_STATUS] ∧ t.g F.PWR_STATUS_STATE = 0 ∧ t.g F.PWR_STATUS_LAST = 0)
          ∧ (state = 0 → Completes .pwrReqOn s fun t => t = s)
          ∧ (state = 1 → Completes .pwrReqIdle s fun t =>
            s.onlyRegs t [A.PWR_STATUS] ∧ t.g F.PWR_STATUS_STATE = 1 ∧ t.g F.PWR_STATUS_LAST = 0)
          ∧ (state = 0 → s.running = false → Completes .pwrReqIdle s fun t =>
              t.g F.PWR_STATUS_STATE = 1 ∧ t.g F.PWR_STATUS_LAST = 0 ∧ t.g F.PWR_STATUS_PHASE = 0
                ∧ t.power.req = none)
          ∧ (state = 0 → s.running = true →
              Completes .pwrReqIdle s (refused { target := .idle, force := false, t := s.now } 1))
          ∧ ∀ x ∈ [(Instr.pwrReqStandby force, PwrTarget.standby), (.pwrReqHibernate force, .hibernate)],
              let q : PwrReq := { target := x.2, force := force, t := s.now }
              (s.bit F.OTP_STATUS_BUSY = true → Completes x.1 s fun t =>
                s.onlyRegs t [A.PWR_STATUS] ∧ t.g F.PWR_STATUS_LAST = 6)
              ∧ (s.bit F.OTP_STATUS_BUSY = false →
                  (accept q → Completes x.1 s fun t =>
                    begun q t ∧ woken t ∧ t.g F.PWR_RET_LOAD_V = min load 65535)
                  ∧ ∀ k, (refuse q k → Completes x.1 s fun t => refused q k t ∧ t.g F.PWR_RET_LOAD_V = min load 65535)
                      ∧ (defer q k → Completes x.1 s fun t => waits q t ∧ woken t
                          ∧ t.g F.PWR_STATUS_PHASE = 1 ∧ t.g F.PWR_STATUS_REFUSER = 0))))
    ∧ (s.takes A.PWR_DOM_CTL → busy → ∀ c ∈ [Instr.domainOffRequest mask force, .domainOnRequest mask],
        Completes c s fun t => s.onlyRegs t [A.PWR_STATUS] ∧ t.g F.PWR_STATUS_LAST = 6)
    ∧ (s.takes A.PWR_DOM_CTL → ¬ busy →
        let cur := s.actualDoms
        let off := cur &&& mask.toNat
        let on := mask.toNat &&& ((2 ^ 11 - 1) - cur)
        let q : PwrReq := { target := .domains off 0, force := force, t := s.now }
        let asks := fun (P : State → Prop) => Completes (.domainOffRequest mask force) s fun t =>
          t.g F.PWR_STATUS_PHASE = 1 ∧ P t
        (off = 0 → Completes (.domainOffRequest mask force) s fun t => t = s)
        ∧ (off ≠ 0 → (accept q → asks (switched q off)) ∧ ∀ k, (refuse q k → asks (refused q k))
            ∧ (defer q k → asks (waits q)))
        ∧ (on = 0 → Completes (.domainOnRequest mask) s fun t => t = s)
        ∧ (on ≠ 0 → Completes (.domainOnRequest mask) s fun t =>
            t.g F.PWR_STATUS_PHASE = 1 ∧ (∀ d, t.up d = s.up d)
              ∧ t.power.req = some { target := .domains 0 on, force := false, t := s.now, passed := some s.now, ended := some 0 }
              ∧ ∀ n : Fin 32, t.clk.training.testBit n.val
                  = (s.clk.training.testBit n.val || on.testBit (n.val / 4))))
    ∧ (∀ off on st, s.power.req = some r → r.target = .domains off on → r.ended = some st → st < 256 →
        s.seqRun = false →
        s.clk.training = 0 → Completes (.domDone lost) s fun t =>
          t.power.req = none ∧ t.g F.PWR_STATUS_LAST = st ∧ t.g F.PWR_STATUS_PHASE = 0
            ∧ t.bit F.PWR_CAUSE_DOM_DONE = true ∧ (∀ d ∈ allDomains, t.up d = (s.up d || on.testBit d.bit))
            ∧ ∀ b ∈ lost, (s.bank b).power = 2 → (∃ d ∈ bankDomains b, on.testBit d.bit = true) →
                (t.bank b).lost = true)
    ∧ (s.power.req = some r → r.passed = none → r.ended = none → s.seqRun = false →
        (down r → accept r → Completes .deferEnd s (begun r))
        ∧ (∀ off on, r.target = .domains off on → accept r → Completes .deferEnd s (switched r off))
        ∧ ∀ k, k < 16 → (refuse r k → Completes .deferEnd s (refused r k))
            ∧ (defer r k →
                (Completes .deferEnd s fun t => s.onlyRegs t [A.DMA_PWR_BLOCK0, A.DMA_PWR_BLOCK1] ∧ named r t)
                ∧ (r.t + ms 10 ≤ s.now → Completes .handshakeTimeout s fun t =>
                    t.g F.PWR_STATUS_REFUSER = k ∧ s.counted t F.PWR_REFUSALS_V ∧ (∀ d, t.up d = s.up d)
                      ∧ (down r → t.g F.PWR_STATUS_LAST = 7 ∧ t.g F.PWR_STATUS_PHASE = 0 ∧ t.power.req = none)
                      ∧ ∀ off on, r.target = .domains off on → t.power.req = some { r with ended := some 7 }))
            ∧ (s.now < r.t + ms 10 → Completes .handshakeTimeout s fun t => t = s))

/-- Entry, abandon, wake and exit (R407 to R418, Tables 14.3 to 14.5): while no command waits the phases of an entry
follow one another by time, up to the abort point of a link wake; the entry ends in its state with its domains off, and
a wake that came during it begins the exit at once; a link wake in time abandons it, which undoes the phases; an enabled
wake source begins the exit of a sleeping device when its condition is met, a pin or management-port wake of HIBERNATE
signals WAKE_N and PME_Status; the exit brings back the domains and starts pair 3, at the resume address where its
memories were kept. That the latest times of Table 14.3 are the times, PHASE 6 up to the abandon's end and what PIN_WAKE
carries are the model's choices (log entry 65), the exit in one command log entry 66. -/
def Obligations.EntryWakeAndExit : Prop :=
  ∀ (s : State) (r : PwrReq) (h t0 : Nat) (lost : List (Fin 116)) (taps : Vector (Option (Fin 64)) 32),
    let number := if r.target = .hibernate then 3 else 2
    let steady := s.power.held = [] ∧ ∀ j, (s.pair j).stepReq = false
    let srcs := s.g F.PWR_WAKE_SRC_SRC
    (s.entering = some (r, h) → s.seqRun = false → s.power.undoT = none →
      (s.pending = [] → s.power.off = false → (∀ n, (s.bar n).closing = none) →
        (∀ i ∈ [1, 12, 13], s.levelActive i = false) → ∃ t, step s = .next t ∧
          let stops := t.g F.PWR_STATUS_PHASE ≥ 3 ∧ t.bit F.CLK_STATUS_MAIN_LOCK = false
            ∧ t.bit F.CLK_STATUS_GRID_LOCK = false ∧ t.power.stopped = true
            ∧ (r.target = .hibernate → t.bit F.CLK_STATUS_HOST_LOCK = false)
          (s.power.linkWake = none → t.power.undoT = none
              ∧ (t.now < h + us 142 → t.g F.PWR_STATUS_PHASE = s.g F.PWR_STATUS_PHASE)
              ∧ (h + us 142 ≤ t.now → t.now < h + us 162 → stops ∧ t.g F.PWR_STATUS_PHASE = 3)
              ∧ (h + us 162 ≤ t.now → stops ∧ t.g F.PWR_STATUS_PHASE = 4))
          ∧ ∀ w, s.power.linkWake = some w → w ≤ h + us 162 →
              let point := if w ≤ h then h else if w ≤ h + us 142 then h + us 142 else h + us 162
              (t.now < point → t.power.undoT = none)
                ∧ (point ≤ t.now → t.power.undoT = some t.now ∧ t.g F.PWR_STATUS_PHASE = 6
                    ∧ (h < w → t.bit F.CLK_STATUS_MAIN_LOCK = false ∧ t.power.stopped = true)))
      ∧ ((∀ w, s.power.linkWake = some w → h + us 162 < w) →
        let entered := fun (t : State) =>
          t.g F.PWR_STATUS_STATE = number ∧ s.counted t F.PWR_ENTRIES_V ∧ t.bit F.PWR_CAUSE_ENTERED = true
            ∧ t.g F.PWR_TIMES_ENTRY = min ((s.now - r.t) / us 1) 65535 ∧ t.power.req = none
            ∧ t.power.stopped = false ∧ t.power.savedDoms = s.actualDoms
            ∧ t.bit F.CLK_STATUS_MAIN_LOCK = false ∧ t.bit F.CLK_STATUS_GRID_LOCK = false
            ∧ t.bit F.CLK_STATUS_HOST_LOCK = (s.bit F.CLK_STATUS_HOST_LOCK && r.target != .hibernate)
            ∧ (∀ d ∈ allDomains, t.up d = (s.up d && !r.target.offMask.testBit d.bit))
        (s.power.linkWake = none → s.power.pinWake = false → Completes .stateEntry s fun t => entered t
          ∧ t.g F.PWR_STATUS_PHASE = 0 ∧ t.g F.PWR_STATUS_LAST = 0 ∧ t.power.exitT = s.power.exitT
          ∧ t.g F.PWR_WAKE_SRC_SRC = srcs)
        ∧ (s.power.linkWake ≠ none ∨ s.power.pinWake = true → Completes .stateEntry s fun t => entered t
            ∧ t.g F.PWR_STATUS_PHASE = 5 ∧ t.power.exitT = some s.now ∧ t.power.pinWake = false
            ∧ t.bit F.PWR_WAKE_SRC_DURING_ENTRY = true
            ∧ t.g F.PWR_WAKE_SRC_SRC = (srcs ||| s.power.wakeSrc) % 2 ^ 14
            ∧ (s.power.stale = true → t.bit F.PWR_WAKE_SRC_STALEMATE = true)
            ∧ (r.target = .hibernate → 4 ≤ s.power.wakeSrc → t.hl.wakeLow = true ∧ t.hl.pme = true))))
    ∧ (s.entering = some (r, h) → s.seqRun = false → ∀ w, s.power.linkWake = some w → w ≤ h + us 162 → steady →
        Completes .entryAbandon s fun t =>
          t.g F.PWR_STATUS_LAST = 1 ∧ t.g F.PWR_STATUS_PHASE = 0 ∧ t.power.req = none ∧ t.power.undoT = none
            ∧ t.power.stopped = false ∧ t.power.linkWake = none
            ∧ t.g F.PWR_STATUS_STATE = s.g F.PWR_STATUS_STATE ∧ s.counted t F.PWR_ABANDONS_V
            ∧ t.bit F.PWR_CAUSE_ABANDONED = true ∧ t.boot.kickT = s.boot.kickT + (s.now - h)
            ∧ t.g F.PWR_WAKE_SRC_SRC = srcs ||| s.power.wakeSrc % 8 ∧ t.bit F.PWR_WAKE_SRC_DURING_ENTRY = true
            ∧ (s.power.stopped = true → t.bit F.CLK_STATUS_MAIN_LOCK = true ∧ t.bit F.CLK_STATUS_GRID_LOCK = true)
            ∧ (s.power.undoT = none → h < w → t.bit F.CLK_STATUS_MAIN_LOCK = true)
            ∧ ∀ d, t.up d = s.up d)
    ∧ (s.seqRun = false → s.power.off = false → s.power.exitT = none → s.power.undoT = none →
        2 ≤ s.g F.PWR_STATUS_STATE →
        let wakes := fun (c : Instr) (i : Nat) => Completes c s fun t =>
          t.g F.PWR_STATUS_PHASE = 5 ∧ t.power.exitT = some s.now
            ∧ t.g F.PWR_WAKE_SRC_SRC = srcs ||| 2 ^ i
            ∧ t.g F.PWR_STATUS_STATE = s.g F.PWR_STATUS_STATE
            ∧ (2 ≤ i → s.g F.PWR_STATUS_STATE = 3 → t.hl.wakeLow = true ∧ t.hl.pme = true)
        let enabled := fun (i : Nat) => (s.reg A.PWR_WAKE_EN).getLsbD i
        let any := s.bit F.MGT_CFG_WAKE_ANY
        let samples := fun (i : Fin 10) (x : WakeInput) (met : Prop) =>
          (met → enabled (4 + i.val) = true → wakes (.pinWake i x) (4 + i.val))
            ∧ (¬ met ∨ enabled (4 + i.val) = false → Completes (.pinWake i x) s fun t => t = { s with power := t.power }
                ∧ t.power.exitT = none)
        (∀ i : Fin 3, enabled i.val = true → (i = 2 → any = true) → wakes (.linkWake i) i.val)
        ∧ (∀ i : Fin 3, enabled i.val = false ∨ (i = 2 ∧ any = false) → Completes (.linkWake i) s fun t => t = s)
        ∧ (enabled 1 = true → wakes (.linkReset .perst) 1)
        ∧ (enabled 2 = true → wakes .wakePattern 2)
        ∧ (∀ i, samples i .active True)
        ∧ (∀ i n, samples i (.changes n)
            (i.val < 4 ∧ s.g F.PWR_WAKE_CFG_ENC_COUNT ≤ s.power.motion.getD i.val 0 + n))
        ∧ (∀ i rising n, samples i (.edge rising n) (4 ≤ i.val ∧ i.val < 8 ∧ 2 ≤ n
            ∧ rising ≠ (s.g F.PWR_WAKE_CFG_TOF_EDGE).testBit (i.val - 4)))
        ∧ (∀ i x, samples i (.celsius x) (i = 8 ∧ (s.g F.PWR_WAKE_CFG_TALARM : Int) ≤ x))
        ∧ ∀ i n, samples i (.low n) (i = 9 ∧ 2 ≤ n))
    ∧ (s.power.exitT = some t0 → s.seqRun = false → s.power.off = false → steady →
        Completes (.stateExit lost taps) s fun t =>
          let kept := s.power.savedLoaded.testBit 3 = true ∧ s.pairKept lost 3 = true
          t.g F.PWR_STATUS_STATE = 0 ∧ t.g F.PWR_STATUS_PHASE = 0 ∧ t.bit F.PWR_STATUS_RESUME = true
            ∧ t.power.exitT = none ∧ t.bit F.PWR_CAUSE_EXITED = true ∧ t.up .core = true
            ∧ t.g F.PWR_TIMES_EXIT = min ((s.now - t0) / us 1) 65535
            ∧ (∀ d ∈ allDomains, s.power.savedDoms.testBit d.bit = true → t.up d = true)
            ∧ t.bit F.CLK_STATUS_MAIN_LOCK = true ∧ (t.pair 3).mode = .running
            ∧ (¬ kept → (t.pair 3).pc = 0x1C000 ∧ t.g F.SEQ_BOOT_STATUS_STATE = 1)
            ∧ (kept → (t.pair 3).pc = s.g F.PWR_RESUME_PC_V / 4 * 4 ∧ t.g F.SEQ_BOOT_STATUS_STATE = 3
                ∧ (t.pair 3).kr 14 = BitVec.ofNat 32 (s.g F.PWR_RESUME_SP_V / 8 * 8)))

/-! ## OTP (chapter 15) -/

/-- OTP (R426, R428 to R433, R437, R439, R440, R442, R443, R445; Tables 15.1, 15.3, 15.6): a command starts, or is noted
as refused with its status, while none runs; its end burns the bits of both copies, but for those that still fail, takes
the margin results, seals a slot or leaves it INCOMPLETE, advances a counter, or begins the reset of a life-cycle
advance; reads of words and counters. Where the rules leave a choice (weak bits, the moment of the first life-cycle
step, a slot left INCOMPLETE): log entry 75. -/
def Obligations.OtpCommands : Prop :=
  ∀ (s : State) (m : Master) (word : BitVec 10) (expect : Bool) (region : Fin 8) (slot : Fin 2) (k : Fin 4)
    (n : BitVec 8) (arg : BitVec 8) (fails : List (Nat × Word × Word)),
    let d := s.reg A.OTP_DATA
    let lc := s.g F.SYS_LC_STATE
    let inSlot := fun (w r sl : Nat) => r < 6 ∧ sl < 2 ∧ slotBase r sl ≤ w ∧ w < slotBase r sl + slotWords r
    let hidden := fun (w : Nat) => ∃ r sl, inSlot w r sl
      ∧ ((lc = 4 ∧ r ∈ [1, 5]) ∨ (lc = 3 ∧ r = 5 ∧ m ≠ .pair 3))
    let may := fun (r : Nat) => lc ≤ 1 ∨ (lc = 2 ∧ r ∈ [1, 2, 4, 5]) ∨ (lc = 3 ∧ r ∈ [2, 4, 5])
    let lockBit := fun (r sl : Nat) =>
      (s.otpWord 0x011).getLsbD (2 * r + sl) = true ∧ s.otp.left.testBit (2 * r + sl) = false
    let digest := fun (r sl i : Nat) => (digestOf r sl (s.slotRead r sl)).getD i 0
    let digestAt := fun (r sl i : Nat) => slotBase r sl + slotWords r - 4 + i
    let isOpen := fun (r sl : Nat) => (s.otpWord 0x011).getLsbD (2 * r + sl) = false
      ∧ s.otp.left.testBit (2 * r + sl) = false ∧ ∀ i < 4, s.otpWord (digestAt r sl i) = 0
    let valid := fun (r sl : Nat) => lockBit r sl ∧ ∀ i < 4, s.otpWord (digestAt r sl i) = digest r sl i
    let weak := fun (w : Nat) => s.otpLow 0 w ≠ s.otpStrong 0 w ∨ s.otpLow 1 w ≠ s.otpStrong 1 w
    let steps := fun (h : Nat) => h ≤ 8 ∧ (h = 0 ∨ (s.otpWord 0x010).getLsbD (h - 1) = true)
      ∧ ∀ b, h ≤ b → b < 8 → (s.otpWord 0x010).getLsbD b = false
    let value := fun (v : Nat) =>
      let reads := fun (b : Nat) => (s.otpWord (4 * k.val + b / 32)).getLsbD (b % 32)
      v ≤ 128 ∧ (v = 0 ∨ reads (v - 1) = true) ∧ ∀ b, v ≤ b → b < 128 → reads b = false
    let sleeping := 2 ≤ s.g F.PWR_STATUS_STATE
      ∨ ∃ q, s.power.req = some q ∧ (q.target = .standby ∨ q.target = .hibernate)
    (s.takes A.OTP_CMD →
      let starts := fun (c : Instr) (code : Nat) (op : OtpOp) (bad lock integ : Prop) =>
        let owner := lc < 3 ∨ m = .pair 3
        let runs := fun (st : Option Nat) (t : State) =>
          t.bit F.OTP_STATUS_BUSY = true ∧ t.g F.OTP_STATUS_OP = code ∧ t.otp.cmd = some ⟨op, st⟩
            ∧ (st ≠ none → t.otp = { s.otp with cmd := t.otp.cmd })
        (s.bit F.OTP_STATUS_BUSY = true → Completes c s fun t =>
          s.onlyRegsAndEvents t [A.OTP_CAUSE] ∧ t.bit F.OTP_CAUSE_REJECTED = true)
        ∧ (s.bit F.OTP_STATUS_BUSY = false → sleeping → Completes c s fun t =>
            t.g F.OTP_STATUS_LAST = 6 ∧ t.bit F.OTP_CAUSE_DONE = true ∧ t.otp = s.otp)
        ∧ (s.bit F.OTP_STATUS_BUSY = false → ¬ sleeping →
            (¬ owner → Completes c s (runs (some 4)))
            ∧ (owner → bad → Completes c s (runs (some 5)))
            ∧ (owner → ¬ bad → lock → Completes c s (runs (some 9)))
            ∧ (owner → ¬ bad → ¬ lock → integ → Completes c s (runs (some 0x0F)))
            ∧ (owner → ¬ bad → ¬ lock → ¬ integ → Completes c s fun t => runs none t
                ∧ ((∀ x, op ≠ .life x) → t.otp = { s.otp with cmd := t.otp.cmd })
                ∧ ∀ x, op = .life x → ∀ h, steps h → h < 8 →
                    t.g F.SYS_LC_STATE = (h + 2) / 2 ∧ t.g F.SYS_LC_STEPS = h + 1
                      ∧ (∀ copy, (t.otpStrong copy 0x010).getLsbD h = true)
                      ∧ (6 ≤ h → ∀ b : Fin 32, t.bit (F.FPE_CTL_EN b) = false)))
      let target := if 0xA0 ≤ arg.toNat then arg.toNat - 0xA0 else 0
      let partly := s.bit F.SYS_LC_PARTIAL = true
      starts (.program m word) 1 (.program word.toNat d)
          (word.toNat < 0x20 ∨ ∃ r sl, inSlot word.toNat r sl ∧ slotBase r sl + slotWords r - 4 ≤ word.toNat)
          (∃ r sl, inSlot word.toNat r sl ∧ (¬ may r ∨ ¬ isOpen r sl)) False
        ∧ starts (.margin m word expect) 2 (.margin word.toNat (if expect then some d else none))
            False (hidden word.toNat) False
        ∧ starts (.sealSlot m region slot) 3 (.seal region slot) (5 < region.val) (lockBit region slot ∨ ¬ may region)
            False
        ∧ starts (.cntAdvance m k n) 4 (.count k n.toNat) (128 < n.toNat) (lc = 4) False
        ∧ starts (.lcAdvance m arg) 5 (.life target)
            (target = 0 ∨ 4 < target ∨ ¬ (target = lc + 1 ∨ target = 4 ∨ (target = lc ∧ partly)))
            ((lc = 4 ∧ ¬ (partly ∧ target = 4)) ∨ s.anyInside = true)
            ((target = 2 ∧ ((∀ sl < 2, ¬ valid 0 sl) ∨ ∀ sl < 2, ¬ valid 3 sl)) ∨ (target = 3 ∧ ∀ sl < 2, ¬ valid 1 sl)))
    ∧ (s.otp.cmd = none → Completes (.otpCommandDone fails) s fun t => t = s)
    ∧ (∀ c, s.otp.cmd = some c → s.seqRun = false →
        let ends := fun (t : State) (status : Nat) => t.otp.cmd = none ∧ t.bit F.OTP_STATUS_BUSY = false
          ∧ t.g F.OTP_STATUS_LAST = status ∧ t.bit F.OTP_CAUSE_DONE = true
          ∧ (status = 0x0A → t.bit F.OTP_CAUSE_WEAK = true)
        let fail := fun (copy w : Nat) => if copy = 0 then (failBits fails w).1 else (failBits fails w).2
        let left := fun (copy w : Nat) (v : Word) => v &&& fail copy w &&& ~~~ s.otpStrong copy w
        let burned := fun (t : State) (w : Nat) (v : Word) => ∀ copy < 2,
          t.otpStrong copy w = s.otpStrong copy w ||| (v &&& ~~~ left copy w v)
            ∧ t.otpWeak copy w = (s.otpWeak copy w &&& ~~~ v) ||| left copy w v
        let as := fun (t : State) (w : Nat) => ∀ copy < 2,
          t.otpStrong copy w = s.otpStrong copy w ∧ t.otpWeak copy w = s.otpWeak copy w
        let shows := fun (t : State) (w : Nat) =>
          t.reg A.OTP_MLOW0 = t.otpLow 0 w ∧ t.reg A.OTP_MHIGH0 = t.otpStrong 0 w
            ∧ t.reg A.OTP_MLOW1 = t.otpLow 1 w ∧ t.reg A.OTP_MHIGH1 = t.otpStrong 1 w
        let kept := fun (t : State) => t.otp = { s.otp with cmd := none }
        (∀ st, c.refused = some st → st < 256 → Completes (.otpCommandDone fails) s fun t => ends t st ∧ kept t)
        ∧ (∀ w v, c = ⟨.program w v, none⟩ → Completes (.otpCommandDone fails) s fun t =>
            ends t (if left 0 w v = 0 ∧ left 1 w v = 0 then 0 else 0x0A)
              ∧ burned t w v ∧ (∀ x, x ≠ w → as t x)
              ∧ (v &&& ~~~(s.otpStrong 0 w &&& s.otpStrong 1 w) ≠ 0 → s.counted t F.OTP_WORDS_BURNED_V)
              ∧ (v &&& ~~~(s.otpStrong 0 w &&& s.otpStrong 1 w) = 0 →
                  t.g F.OTP_WORDS_BURNED_V = s.g F.OTP_WORDS_BURNED_V))
        ∧ (∀ w e, c = ⟨.margin w e, none⟩ →
            let differs := ∃ x, e = some x ∧
              (s.otpLow 0 w ≠ x ∨ s.otpStrong 0 w ≠ x ∨ s.otpLow 1 w ≠ x ∨ s.otpStrong 1 w ≠ x)
            (weak w ∨ differs → Completes (.otpCommandDone fails) s fun t => ends t 0x0A ∧ kept t ∧ shows t w)
            ∧ (¬ weak w → ¬ differs → Completes (.otpCommandDone fails) s fun t => ends t 0 ∧ kept t ∧ shows t w))
        ∧ (∀ (r : Fin 6) (sl : Fin 2), c = ⟨.seal r sl, none⟩ →
            let base := slotBase r sl
            let dig := digest r sl
            let at_ := digestAt r sl
            let bit := 2 * r.val + sl.val
            let lock : Word := BitVec.ofNat 32 (2 ^ bit)
            let reports := fun (t : State) => t.g ⟨A.OTP_REGIONr r, 2 * sl.val, 2⟩
            let clash := ∃ i < 4, s.otpWord (at_ i) &&& ~~~ dig i ≠ 0
            let bad := fun (i : Nat) => ∃ copy < 2, left copy (at_ i) (dig i) ≠ 0 ∨ s.otpLow copy (at_ i) &&& ~~~ dig i ≠ 0
            let lockFails := ∃ copy < 2, left copy 0x011 lock ≠ 0
            (∀ i, i < slotWords r - 4 → weak (base + i) → (∀ j, j < i → ¬ weak (base + j)) →
              Completes (.otpCommandDone fails) s fun t => ends t 0x0A ∧ kept t ∧ shows t (base + i))
            ∧ ((∀ i, i < slotWords r - 4 → ¬ weak (base + i)) →
                (clash → Completes (.otpCommandDone fails) s fun t => ends t 0x0F ∧ kept t)
                ∧ (∀ i, i < 4 → ¬ clash → bad i → (∀ j, j < i → ¬ bad j) → Completes (.otpCommandDone fails) s fun t =>
                    ends t 0x0A ∧ reports t = 3 ∧ t.otp.left.testBit bit = true ∧ as t 0x011 ∧ shows t (at_ i)
                      ∧ (∀ j, j ≤ i → burned t (at_ j) (dig j)) ∧ ∀ j, i < j → j < 4 → as t (at_ j))
                ∧ (¬ clash → (∀ i, i < 4 → ¬ bad i) → Completes (.otpCommandDone fails) s fun t =>
                    (lockFails → ends t 0x0A ∧ reports t = 3 ∧ t.otp.left.testBit bit = true)
                      ∧ (¬ lockFails → ends t 0 ∧ reports t = 1 ∧ t.otp.left.testBit bit = false)
                      ∧ burned t 0x011 lock ∧ shows t 0x011
                      ∧ ∀ i, i < 4 → ∀ copy < 2, t.otpStrong copy (at_ i) = dig i ∧ t.otpLow copy (at_ i) = dig i)))
        ∧ (∀ v, c = ⟨.count k n.toNat, none⟩ → value v →
            let bits := fun (i : Nat) (x : Word) => ∀ b, b < 32 →
              x.getLsbD b = decide (v ≤ 32 * i + b ∧ 32 * i + b < n.toNat)
            ∀ x : Fin 4 → Word, (∀ i : Fin 4, bits i.val (x i)) →
              let bad := fun (i : Fin 4) => left 0 (4 * k.val + i.val) (x i) ≠ 0 ∨ left 1 (4 * k.val + i.val) (x i) ≠ 0
              ((∀ i, ¬ bad i) → Completes (.otpCommandDone fails) s fun t =>
                ends t 0 ∧ (∀ i : Fin 4, burned t (4 * k.val + i.val) (x i))
                  ∧ ∀ w, (∀ i : Fin 4, w ≠ 4 * k.val + i.val) → as t w)
              ∧ ∀ i, bad i → (∀ j, j < i → ¬ bad j) → Completes (.otpCommandDone fails) s fun t =>
                  ends t 0x0A ∧ (∀ j, j ≤ i → burned t (4 * k.val + j.val) (x j))
                    ∧ ∀ j, i < j → as t (4 * k.val + j.val))
        ∧ (∀ target h, c = ⟨.life target, none⟩ → steps h → Completes (.otpCommandDone []) s fun t =>
            t.seqRun = true ∧ t.clk.level = .warm ∧ t.bit F.RST_CAUSE_LIFECYCLE = true ∧ t.g F.RST_LAST_V = 8
              ∧ t.mem = [] ∧ t.otp.cmd = none
              ∧ ∀ copy b, h ≤ b → b < 2 * target → b < 8 → (t.otpStrong copy 0x010).getLsbD b = true))
    ∧ (s.seqRun = false →
        (¬ hidden word.toNat → Completes (.otpWordRead m word) s fun t =>
          t = { s with resp := ⟨leBytes 4 (s.otpWord word.toNat).toNat, false, 0⟩ }
            ∧ (¬ weak word.toNat →
                t.resp.bytes = leBytes 4 (s.otpStrong 0 word.toNat ||| s.otpStrong 1 word.toNat).toNat))
        ∧ (hidden word.toNat → Completes (.otpWordRead m word) s fun t =>
            t = { s with resp := ⟨List.replicate 4 0#8, false, 0⟩ })
        ∧ ∀ v, value v → Completes (.otpCntRead k) s fun t => t = { s with resp := ⟨leBytes 4 v, false, 0⟩ })

/-! ## Krytis instruction words (chapter 09) -/

/-- Words written out from Tables 9.3 to 9.10 decode to the instructions they stand for; a word whose OP is not one of
those assigned decodes to none (09 R262, R263). -/
def Obligations.SampleWordsDecode : Prop :=
  decodeK 0x119C2006#32 = some (.load .lw 6 7 6)
    ∧ decodeK 0x0C998008#32 = some (.mul .mac 2 6 6)
    ∧ decodeK 0x09540FFF#32 = some (.aluI .add 5 5 0xFFF)
    ∧ decodeK 0x21403FFC#32 = some (.branch .ne 5 0 0x1FFC)
    ∧ decodeK 0x37C000C0#32 = some (.jal 15 0xC0)
    ∧ decodeK 0x283C0000#32 = some (.jalr 0 15 0)
    ∧ decodeK 0x40114000#32 = some (.cmd 4 5)
    ∧ decodeK 0x4099C400#32 = some (.waite 2 6 7)
    ∧ decodeK 0x40002000#32 = some .pass
    ∧ ∀ w : Word, w.toNat / 2 ^ 26 ∉ [0x01, 0x02, 0x03, 0x04, 0x05, 0x06, 0x08, 0x0A, 0x0C, 0x0D, 0x10] →
        decodeK w = none

/-- The encoding and the decoding of Tables 9.3 to 9.10 agree: every legal instruction, with every operand at every
value, decodes from its word to itself, and a word that decodes is the word of its instruction, so that no word has
two meanings and no bit is dropped. -/
def Obligations.InstructionWordsRoundTrip : Prop :=
  (∀ i : KInstr, i.legal = true → decodeK i.encode = some i) ∧ ∀ (w : Word) (i : KInstr), decodeK w = some i →
      i.encode = w

/-! ## The whole machine -/

/-- The machine right after a power-on reset asserts: the reset sequence runs, no command waits, and the registers
hold the values of the Reset columns (00 R8), those of an index among them; the sequencer pairs are halted. That K0 to
K15 hold 0 and that memory lists nothing are the model's choices (log entries 5 and 8). -/
def Obligations.ResetStateHoldsTheResetValues : Prop :=
  let s := State.reset
  s.pending = [] ∧ s.seqRun = true ∧ s.canonical = true ∧ s.mem = []
    ∧ (∀ j, s.halted j = true ∧ (∀ r, (s.pair j).kr r = 0#32) ∧ (s.pair j).ccr 0x010 = 8#32)
    ∧ s.reg A.SYS_ID = 0x98600A01#32 ∧ s.g F.RST_LAST_V = 1
    ∧ s.reg A.PWR_DOM_STATUS = 0x1FFF#32 ∧ s.reg A.PWR_WAKE_EN = 7#32 ∧ s.g F.PWR_RET_LIMIT_V = 2600
    ∧ (∀ e, e < 256 → s.g (F.EVT_MAPe_VECTOR e) = e % 64 ∧ s.bit (F.EVT_MAPe_MSI e) = false)
    ∧ (∀ c, c < 48 → s.g (F.DMA_Cc_CFG_PRIO c) = (if c < 32 then 1 else 0) ∧ s.g (F.DMA_Cc_RING_SIZE_V c) = 2)
    ∧ s.reg A.POS_SEC_RATIO = 0x1000000#32 ∧ s.g F.POS_EST_CFG_STANDSTILL = 1000 ∧ s.g F.POS_FO_CFG_DIVERGE = 16
    ∧ s.g F.XPT_ACC_V = 100000 ∧ s.gi F.XPT_CLAMP_MIN = -32768 ∧ s.gi F.XPT_CLAMP_MAX = 32767
    ∧ s.g F.THM_FLOOR_V = 10000 ∧ s.g F.THM_TEMP_LIM_TWARN = 4480 ∧ s.g F.THM_TEMP_LIM_CEIL = 5440
    ∧ s.g F.CAL_CLASS_EN_V = 255 ∧ s.g F.SEQ_WD_CFG_PERIOD = 1000 ∧ s.g F.SEQ_WD_CFG_HALT_GRACE = 50
    ∧ s.reg A.GRID_FREQ_LO = 0xD1B71759#32 ∧ s.g F.GRID_PITCH_V = 256
    ∧ (∀ p : Fin 4, s.g (F.CAM_Pp_CFG_WIDTH p) = 4096 ∧ s.g (F.CAM_Pp_FRAME_FRAME_LINES p) = 64)
    ∧ ∀ n : Fin 32, s.g (F.FPE_WIN_END_V n) = 81919 ∧ s.g (F.FPE_SEGMASK_V n) = 255 ∧ s.g (F.NST_WATER_WATER n) = 256
        ∧ s.bit (F.FPE_CTL_EN n) = false

/-- Every command completes in every state, on its own: it answers a next state, leaves the commands that wait where
they are, and takes no time, but that a power-on reset starts the timestamp base again (14 R399; log entry 1). -/
def Obligations.EveryCommandCompletes : Prop :=
  ∀ (c : Instr) (s : State), ∃ t, exec c s = .next t ∧ t.pending = s.pending
    ∧ (t.now = s.now ∨ (t.now = 0 ∧ ((∃ late, c = .powerOnReset late) ∨ c = .brownout ∨ c = .powerRemoval)))

/-- Every step keeps the canonical form of the memory, the register file and the snapshots. -/
def Obligations.StepKeepsCanonicalForm : Prop :=
  ∀ s t : State, s.canonical = true → step s = .next t → t.canonical = true

/-- A burned bit stays 1 for ever (15 R423): no step, no reset and no loss of power clears a bit of either copy of the
OTP array that reads 1 at both references. -/
def Obligations.BurnedBitsStay : Prop :=
  ∀ s t : State, step s = .next t → ∀ (copy w i : Nat),
    (s.otpStrong copy w).getLsbD i = true → (t.otpStrong copy w).getLsbD i = true
end

