-- ==== Sys2Proof/Laws/Bits.lean ====
section
/-!
SUPPORT. The laws of bit fields: a field reads what was inserted in it, and an insertion leaves the fields
that it does not overlap alone.
-/

namespace Sys2Proof.Machine

/-- What an insertion makes of a word, as a number. -/
theorem Word.insert_toNat (w : Word) (lo n v : Nat) (h : lo + n ≤ 32) :
    (Word.insert w lo n v).toNat
      = w.toNat % 2 ^ lo + (v % 2 ^ n) * 2 ^ lo + w.toNat / 2 ^ (lo + n) * 2 ^ (lo + n) := by
  unfold Word.insert
  rw [BitVec.toNat_ofNat, Nat.mod_eq_of_lt]
  have hw : w.toNat < 2 ^ 32 := w.isLt
  have h32 : (2 : Nat) ^ 32 = 2 ^ (lo + n) * 2 ^ (32 - (lo + n)) := by rw [← Nat.pow_add]; congr 1; omega
  have hln : (2 : Nat) ^ (lo + n) = 2 ^ n * 2 ^ lo := by rw [Nat.pow_add, Nat.mul_comm]
  have h1 : w.toNat % 2 ^ lo < 2 ^ lo := Nat.mod_lt _ (by positivity)
  have h2 : v % 2 ^ n + 1 ≤ 2 ^ n := Nat.mod_lt _ (by positivity)
  have h3 : w.toNat / 2 ^ (lo + n) + 1 ≤ 2 ^ (32 - (lo + n)) := by
    rw [Nat.succ_le_iff, Nat.div_lt_iff_lt_mul (by positivity), Nat.mul_comm, ← h32]; exact hw
  have h4 : (v % 2 ^ n + 1) * 2 ^ lo ≤ 2 ^ (lo + n) := by rw [hln]; exact Nat.mul_le_mul_right _ h2
  have h5 : (w.toNat / 2 ^ (lo + n) + 1) * 2 ^ (lo + n) ≤ 2 ^ 32 := by
    rw [h32, Nat.mul_comm]; exact Nat.mul_le_mul_left _ h3
  rw [Nat.succ_mul] at h4 h5
  omega

/-- A field reads what was inserted in it. -/
@[simp] theorem Word.field_insert_same (w : Word) (lo n v : Nat) (h : lo + n ≤ 32) :
    Word.field (Word.insert w lo n v) lo n = v % 2 ^ n := by
  unfold Word.field
  rw [Word.insert_toNat w lo n v h]
  have hln : (2 : Nat) ^ (lo + n) = 2 ^ n * 2 ^ lo := by rw [Nat.pow_add, Nat.mul_comm]
  have h1 : w.toNat % 2 ^ lo < 2 ^ lo := Nat.mod_lt _ (by positivity)
  have : w.toNat % 2 ^ lo + (v % 2 ^ n) * 2 ^ lo + w.toNat / 2 ^ (lo + n) * 2 ^ (lo + n)
      = w.toNat % 2 ^ lo + 2 ^ lo * (v % 2 ^ n + 2 ^ n * (w.toNat / 2 ^ (lo + n))) := by rw [hln]; ring
  rw [this, Nat.add_mul_div_left _ _ (by positivity), Nat.div_eq_of_lt h1, Nat.zero_add,
    Nat.add_mul_mod_self_left, Nat.mod_mod]

/-- A field below an insertion reads as before. -/
theorem Word.field_insert_below (w : Word) (lo n v lo' n' : Nat) (h : lo + n ≤ 32) (hd : lo' + n' ≤ lo) :
    Word.field (Word.insert w lo n v) lo' n' = Word.field w lo' n' := by
  unfold Word.field
  rw [Word.insert_toNat w lo n v h]
  have e1 : (2 : Nat) ^ lo = 2 ^ (lo' + n') * 2 ^ (lo - (lo' + n')) := by rw [← Nat.pow_add]; congr 1; omega
  have e2 : (2 : Nat) ^ (lo + n) = 2 ^ (lo' + n') * 2 ^ (lo + n - (lo' + n')) := by
    rw [← Nat.pow_add]; congr 1; omega
  have key : ∀ x : Nat, x / 2 ^ lo' % 2 ^ n' = x % 2 ^ (lo' + n') / 2 ^ lo' := by
    intro x; rw [Nat.pow_add, Nat.mod_mul_right_div_self]
  rw [key, key]
  congr 1
  have : w.toNat % 2 ^ lo + v % 2 ^ n * 2 ^ lo + w.toNat / 2 ^ (lo + n) * 2 ^ (lo + n)
      = w.toNat % 2 ^ lo + 2 ^ (lo' + n') * (v % 2 ^ n * 2 ^ (lo - (lo' + n'))
          + w.toNat / 2 ^ (lo + n) * 2 ^ (lo + n - (lo' + n'))) := by
    conv_lhs => rw [e1, e2]
    conv_rhs => rw [e1, e2]
    ring
  rw [this, Nat.add_mul_mod_self_left, Nat.mod_mod_of_dvd]
  exact Nat.pow_dvd_pow 2 hd

/-- A field above an insertion reads as before. -/
theorem Word.field_insert_above (w : Word) (lo n v lo' n' : Nat) (h : lo + n ≤ 32) (hd : lo + n ≤ lo') :
    Word.field (Word.insert w lo n v) lo' n' = Word.field w lo' n' := by
  unfold Word.field
  rw [Word.insert_toNat w lo n v h]
  have e : (2 : Nat) ^ lo' = 2 ^ (lo + n) * 2 ^ (lo' - (lo + n)) := by rw [← Nat.pow_add]; congr 1; omega
  have hln : (2 : Nat) ^ (lo + n) = 2 ^ n * 2 ^ lo := by rw [Nat.pow_add, Nat.mul_comm]
  have h1 : w.toNat % 2 ^ lo < 2 ^ lo := Nat.mod_lt _ (by positivity)
  have h2 : v % 2 ^ n + 1 ≤ 2 ^ n := Nat.mod_lt _ (by positivity)
  have h4 : (v % 2 ^ n + 1) * 2 ^ lo ≤ 2 ^ (lo + n) := by rw [hln]; exact Nat.mul_le_mul_right _ h2
  rw [Nat.succ_mul] at h4
  have h5 : w.toNat % 2 ^ lo + v % 2 ^ n * 2 ^ lo < 2 ^ (lo + n) := by omega
  rw [e, ← Nat.div_div_eq_div_mul, ← Nat.div_div_eq_div_mul]
  congr 2
  rw [Nat.mul_comm (w.toNat / 2 ^ (lo + n)), Nat.add_mul_div_left _ _ (by positivity), Nat.div_eq_of_lt h5,
    Nat.zero_add]

/-- A field of a word is below its bound. -/
theorem Word.field_lt (w : Word) (lo n : Nat) : Word.field w lo n < 2 ^ n := Nat.mod_lt _ (by positivity)

/-- The bytes of a number are as many as asked for. -/
@[simp] theorem leBytes_length (k v : Nat) : (leBytes k v).length = k := by
  induction k generalizing v with
  | zero => rfl
  | succ k ih => simp [leBytes, ih]

/-- Bytes spell the number they were made of, modulo their range. -/
@[simp] theorem leNat_leBytes (k v : Nat) : leNat (leBytes k v) = v % 2 ^ (8 * k) := by
  induction k generalizing v with
  | zero => simp [leBytes, leNat, Nat.mod_one]
  | succ k ih =>
    simp only [leBytes, leNat, ih, BitVec.toNat_ofNat]
    rw [show (2 : Nat) ^ (8 * (k + 1)) = 256 * 2 ^ (8 * k) by rw [Nat.mul_succ, Nat.pow_add, Nat.mul_comm],
      Nat.mod_mul]

/-- The unsigned pattern of an integer reads back as it, modulo its range. -/
theorem unsigned_lt (n : Nat) (x : Int) : unsigned n x < 2 ^ n := by
  unfold unsigned
  have h : (0 : Int) < (2 ^ n : Nat) := by exact_mod_cast Nat.pos_of_ne_zero (by positivity)
  have h1 := Int.emod_lt_of_pos x h
  have h2 := Int.emod_nonneg x (Int.ne_of_gt h)
  omega

/-- A clamped value lies within its bounds. -/
theorem clamp_bounds {lo hi : Int} (h : lo ≤ hi) (x : Int) : lo ≤ clamp lo hi x ∧ clamp lo hi x ≤ hi := by
  unfold clamp
  split
  · exact ⟨Int.le_refl _, h⟩
  · split <;> constructor <;> omega

/-- A value within the bounds is its own clamp. -/
theorem clamp_of_mem {lo hi x : Int} (h1 : lo ≤ x) (h2 : x ≤ hi) : clamp lo hi x = x := by
  unfold clamp
  split
  · omega
  · split <;> omega

end Sys2Proof.Machine
end

