-- ==== Sys2Proof/Laws/Cells.lean ====
section
/-!
SUPPORT. The laws of the sparse maps: what a canonical form is, that every operation keeps it, and that a
read after a write gives the value written at its key and what stood there before at every other.
-/

namespace Sys2Proof.Machine

variable {α : Type}

/-- A canonical form in the words of lists: keys strictly rising, no entry that equals its default. -/
theorem Cells.wf_iff [DecidableEq α] (d : Nat → α) (m : Cells α) :
    Cells.wf d m = true ↔ m.Pairwise (fun a b => a.1 < b.1) ∧ ∀ e ∈ m, e.2 ≠ d e.1 := by
  induction m with
  | nil => simp [Cells.wf]
  | cons a r ih =>
    cases r with
    | nil => simp [Cells.wf]
    | cons b r =>
      obtain ⟨ka, va⟩ := a
      obtain ⟨kb, vb⟩ := b
      simp only [Cells.wf, Bool.and_eq_true, decide_eq_true_eq, ih]
      constructor
      · rintro ⟨⟨h1, h2⟩, hp, hd⟩
        refine ⟨List.pairwise_cons.2 ⟨?_, hp⟩, ?_⟩
        · intro e he
          rcases List.mem_cons.1 he with rfl | he
          · exact h2
          · exact Nat.lt_trans h2 ((List.pairwise_cons.1 hp).1 e he)
        · intro e he
          rcases List.mem_cons.1 he with rfl | he
          · exact h1
          · exact hd e he
      · rintro ⟨hp, hd⟩
        have hp' := List.pairwise_cons.1 hp
        exact ⟨⟨hd (ka, va) (by simp), hp'.1 (kb, vb) (by simp)⟩, hp'.2,
          fun e he => hd e (List.mem_cons_of_mem _ he)⟩

/-- The empty map is canonical. -/
@[simp] theorem Cells.wf_nil [DecidableEq α] (d : Nat → α) : Cells.wf d [] = true := rfl

/-- Taking entries out keeps the canonical form. -/
theorem Cells.wf_filter [DecidableEq α] {d : Nat → α} {m : Cells α} (p : Nat × α → Bool)
    (h : Cells.wf d m = true) : Cells.wf d (m.filter p) = true := by
  rw [Cells.wf_iff] at h ⊢
  exact ⟨h.1.filter p, fun e he => h.2 e (List.mem_of_mem_filter he)⟩

/-- Dropping a key is a filter. -/
theorem Cells.drop_eq (k : Nat) (m : Cells α) : Cells.drop k m = m.filter fun e => decide (e.1 ≠ k) := by
  induction m with
  | nil => rfl
  | cons a r ih =>
    obtain ⟨ka, va⟩ := a
    by_cases h : ka = k <;> simp [Cells.drop, h, ih]

/-- The entries after an insertion. -/
theorem Cells.mem_insertSorted (k : Nat) (v : α) (m : Cells α) (e : Nat × α) :
    e ∈ Cells.insertSorted k v m ↔ e = (k, v) ∨ e ∈ m := by
  induction m with
  | nil => simp [Cells.insertSorted]
  | cons a r ih =>
    obtain ⟨ka, va⟩ := a
    unfold Cells.insertSorted
    split
    · simp
    · simp only [List.mem_cons, ih]
      tauto

/-- Inserting a key that is not listed keeps the keys rising. -/
theorem Cells.pairwise_insertSorted (k : Nat) (v : α) (m : Cells α)
    (h : m.Pairwise (fun a b => a.1 < b.1)) (hk : ∀ e ∈ m, e.1 ≠ k) :
    (Cells.insertSorted k v m).Pairwise (fun a b => a.1 < b.1) := by
  induction m with
  | nil => simp [Cells.insertSorted]
  | cons a r ih =>
    obtain ⟨ka, va⟩ := a
    have hp := List.pairwise_cons.1 h
    unfold Cells.insertSorted
    split
    · rename_i hlt
      refine List.pairwise_cons.2 ⟨?_, h⟩
      intro e he
      rcases List.mem_cons.1 he with rfl | he
      · exact hlt
      · exact Nat.lt_trans hlt (hp.1 e he)
    · rename_i hge
      have hne : ka ≠ k := hk (ka, va) (by simp)
      refine List.pairwise_cons.2 ⟨?_, ih hp.2 fun e he => hk e (List.mem_cons_of_mem _ he)⟩
      intro e he
      rcases (Cells.mem_insertSorted k v r e).1 he with rfl | he
      · simp only; omega
      · exact hp.1 e he

/-- A write keeps the canonical form. -/
theorem Cells.wf_set [DecidableEq α] {d : Nat → α} {m : Cells α} (k : Nat) (v : α)
    (h : Cells.wf d m = true) : Cells.wf d (Cells.set d m k v) = true := by
  have hd : Cells.wf d (Cells.drop k m) = true := by
    rw [Cells.drop_eq]; exact Cells.wf_filter _ h
  unfold Cells.set
  split
  · exact hd
  · rename_i hv
    rw [Cells.wf_iff] at hd ⊢
    refine ⟨Cells.pairwise_insertSorted k v _ hd.1 ?_, ?_⟩
    · intro e he
      rw [Cells.drop_eq] at he
      simpa using (List.mem_filter.1 he).2
    · intro e he
      rcases (Cells.mem_insertSorted k v _ e).1 he with rfl | he
      · exact hv
      · exact hd.2 e he

/-- A dropped key reads its default. -/
theorem Cells.get_drop_same (d : Nat → α) (m : Cells α) (k : Nat) : Cells.get d (Cells.drop k m) k = d k := by
  induction m with
  | nil => rfl
  | cons a r ih =>
    obtain ⟨ka, va⟩ := a
    by_cases h : ka = k <;> simp [Cells.drop, Cells.get, h, ih]

/-- Dropping a key leaves every other as it was. -/
theorem Cells.get_drop_other (d : Nat → α) (m : Cells α) {k k' : Nat} (hk : k' ≠ k) :
    Cells.get d (Cells.drop k m) k' = Cells.get d m k' := by
  induction m with
  | nil => rfl
  | cons a r ih =>
    obtain ⟨ka, va⟩ := a
    by_cases h : ka = k
    · subst h
      simp [Cells.drop, Cells.get, ih, hk.symm]
    · simp [Cells.drop, Cells.get, h, ih]

/-- What an inserted key reads where the map does not list it. -/
theorem Cells.get_insertSorted_same (d : Nat → α) (m : Cells α) (k : Nat) (v : α) (hk : ∀ e ∈ m, e.1 ≠ k) :
    Cells.get d (Cells.insertSorted k v m) k = v := by
  induction m with
  | nil => simp [Cells.insertSorted, Cells.get]
  | cons a r ih =>
    obtain ⟨ka, va⟩ := a
    have hne : ka ≠ k := hk (ka, va) (by simp)
    unfold Cells.insertSorted
    split
    · simp [Cells.get]
    · simp [Cells.get, hne, ih fun e he => hk e (List.mem_cons_of_mem _ he)]

/-- An insertion leaves every other key as it was. -/
theorem Cells.get_insertSorted_other (d : Nat → α) (m : Cells α) {k k' : Nat} (v : α) (hk : k' ≠ k) :
    Cells.get d (Cells.insertSorted k v m) k' = Cells.get d m k' := by
  induction m with
  | nil => simp [Cells.insertSorted, Cells.get, hk.symm]
  | cons a r ih =>
    obtain ⟨ka, va⟩ := a
    unfold Cells.insertSorted
    split
    · simp [Cells.get, hk.symm]
    · simp [Cells.get, ih]

/-- A read after a write gives the value written at its key. -/
@[simp] theorem Cells.get_set_same [DecidableEq α] (d : Nat → α) (m : Cells α) (k : Nat) (v : α) :
    Cells.get d (Cells.set d m k v) k = v := by
  unfold Cells.set
  split
  · rename_i h
    rw [Cells.get_drop_same, h]
  · refine Cells.get_insertSorted_same d _ k v ?_
    intro e he
    rw [Cells.drop_eq] at he
    simpa using (List.mem_filter.1 he).2

/-- A write leaves every other key as it was. -/
theorem Cells.get_set_other [DecidableEq α] (d : Nat → α) (m : Cells α) {k k' : Nat} (v : α) (hk : k' ≠ k) :
    Cells.get d (Cells.set d m k v) k' = Cells.get d m k' := by
  unfold Cells.set
  split
  · exact Cells.get_drop_other d m hk
  · rw [Cells.get_insertSorted_other d _ v hk, Cells.get_drop_other d m hk]

/-- The two in one. -/
theorem Cells.get_set [DecidableEq α] (d : Nat → α) (m : Cells α) (k k' : Nat) (v : α) :
    Cells.get d (Cells.set d m k v) k' = if k' = k then v else Cells.get d m k' := by
  split
  · rename_i h; subst h; exact Cells.get_set_same d m k' v
  · rename_i h; exact Cells.get_set_other d m v h

/-- Of a canonical map, a key is listed exactly where it reads other than its default. -/
theorem Cells.get_of_mem [DecidableEq α] {d : Nat → α} {m : Cells α} (h : Cells.wf d m = true)
    {e : Nat × α} (he : e ∈ m) : Cells.get d m e.1 = e.2 := by
  rw [Cells.wf_iff] at h
  induction m with
  | nil => simp at he
  | cons a r ih =>
    obtain ⟨ka, va⟩ := a
    have hp := List.pairwise_cons.1 h.1
    rcases List.mem_cons.1 he with rfl | he
    · simp [Cells.get]
    · have hlt := hp.1 e he
      have : ka ≠ e.1 := by simp only at hlt; omega
      simp [Cells.get, this, ih ⟨hp.2, fun x hx => h.2 x (List.mem_cons_of_mem _ hx)⟩ he]

end Sys2Proof.Machine
end

