-- ==== Sys2Proof/Laws/State.lean ====
section
/-!
SUPPORT. What each update of the state leaves alone, field by field, and what a read finds after it: no
later proof unfolds a record update.
-/

namespace Sys2Proof.Machine

/-! ## After the answer to an access -/

@[simp] theorem State.answer_pending (s : State) (bytes : List Byte) (p : Bool) (st : Nat) : (s.answer bytes p st).pending = s.pending := rfl
@[simp] theorem State.answer_fresh (s : State) (bytes : List Byte) (p : Bool) (st : Nat) : (s.answer bytes p st).fresh = s.fresh := rfl
@[simp] theorem State.answer_linkOut (s : State) (bytes : List Byte) (p : Bool) (st : Nat) : (s.answer bytes p st).linkOut = s.linkOut := rfl
@[simp] theorem State.answer_now (s : State) (bytes : List Byte) (p : Bool) (st : Nat) : (s.answer bytes p st).now = s.now := rfl
@[simp] theorem State.answer_regs (s : State) (bytes : List Byte) (p : Bool) (st : Nat) : (s.answer bytes p st).regs = s.regs := rfl
@[simp] theorem State.answer_snaps (s : State) (bytes : List Byte) (p : Bool) (st : Nat) : (s.answer bytes p st).snaps = s.snaps := rfl
@[simp] theorem State.answer_mem (s : State) (bytes : List Byte) (p : Bool) (st : Nat) : (s.answer bytes p st).mem = s.mem := rfl
@[simp] theorem State.answer_ceBad (s : State) (bytes : List Byte) (p : Bool) (st : Nat) : (s.answer bytes p st).ceBad = s.ceBad := rfl
@[simp] theorem State.answer_ueBad (s : State) (bytes : List Byte) (p : Bool) (st : Nat) : (s.answer bytes p st).ueBad = s.ueBad := rfl
@[simp] theorem State.answer_vlogLast (s : State) (bytes : List Byte) (p : Bool) (st : Nat) : (s.answer bytes p st).vlogLast = s.vlogLast := rfl
@[simp] theorem State.answer_vlogK (s : State) (bytes : List Byte) (p : Bool) (st : Nat) : (s.answer bytes p st).vlogK = s.vlogK := rfl
@[simp] theorem State.answer_seqRun (s : State) (bytes : List Byte) (p : Bool) (st : Nat) : (s.answer bytes p st).seqRun = s.seqRun := rfl
@[simp] theorem State.answer_grid (s : State) (bytes : List Byte) (p : Bool) (st : Nat) : (s.answer bytes p st).grid = s.grid := rfl
@[simp] theorem State.answer_bars (s : State) (bytes : List Byte) (p : Bool) (st : Nat) : (s.answer bytes p st).bars = s.bars := rfl
@[simp] theorem State.answer_pos (s : State) (bytes : List Byte) (p : Bool) (st : Nat) : (s.answer bytes p st).pos = s.pos := rfl
@[simp] theorem State.answer_xpt (s : State) (bytes : List Byte) (p : Bool) (st : Nat) : (s.answer bytes p st).xpt = s.xpt := rfl
@[simp] theorem State.answer_hkillLow (s : State) (bytes : List Byte) (p : Bool) (st : Nat) : (s.answer bytes p st).hkillLow = s.hkillLow := rfl
@[simp] theorem State.answer_graceSince (s : State) (bytes : List Byte) (p : Bool) (st : Nat) : (s.answer bytes p st).graceSince = s.graceSince := rfl
@[simp] theorem State.answer_graceMet (s : State) (bytes : List Byte) (p : Bool) (st : Nat) : (s.answer bytes p st).graceMet = s.graceMet := rfl
@[simp] theorem State.answer_thm (s : State) (bytes : List Byte) (p : Bool) (st : Nat) : (s.answer bytes p st).thm = s.thm := rfl
@[simp] theorem State.answer_cal (s : State) (bytes : List Byte) (p : Bool) (st : Nat) : (s.answer bytes p st).cal = s.cal := rfl
@[simp] theorem State.answer_ins (s : State) (bytes : List Byte) (p : Bool) (st : Nat) : (s.answer bytes p st).ins = s.ins := rfl
@[simp] theorem State.answer_pairs (s : State) (bytes : List Byte) (p : Bool) (st : Nat) : (s.answer bytes p st).pairs = s.pairs := rfl
@[simp] theorem State.answer_banks (s : State) (bytes : List Byte) (p : Bool) (st : Nat) : (s.answer bytes p st).banks = s.banks := rfl
@[simp] theorem State.answer_wipe (s : State) (bytes : List Byte) (p : Bool) (st : Nat) : (s.answer bytes p st).wipe = s.wipe := rfl
@[simp] theorem State.answer_boot (s : State) (bytes : List Byte) (p : Bool) (st : Nat) : (s.answer bytes p st).boot = s.boot := rfl
@[simp] theorem State.answer_dma (s : State) (bytes : List Byte) (p : Bool) (st : Nat) : (s.answer bytes p st).dma = s.dma := rfl
@[simp] theorem State.answer_dmaTurn (s : State) (bytes : List Byte) (p : Bool) (st : Nat) : (s.answer bytes p st).dmaTurn = s.dmaTurn := rfl
@[simp] theorem State.answer_otp (s : State) (bytes : List Byte) (p : Bool) (st : Nat) : (s.answer bytes p st).otp = s.otp := rfl
@[simp] theorem State.answer_power (s : State) (bytes : List Byte) (p : Bool) (st : Nat) : (s.answer bytes p st).power = s.power := rfl
@[simp] theorem State.answer_clk (s : State) (bytes : List Byte) (p : Bool) (st : Nat) : (s.answer bytes p st).clk = s.clk := rfl
@[simp] theorem State.answer_hl (s : State) (bytes : List Byte) (p : Bool) (st : Nat) : (s.answer bytes p st).hl = s.hl := rfl
@[simp] theorem State.answer_mgt (s : State) (bytes : List Byte) (p : Bool) (st : Nat) : (s.answer bytes p st).mgt = s.mgt := rfl

/-! ## After a byte of memory -/

@[simp] theorem State.setByte_pending (s : State) (a : Nat) (b : Byte) : (s.setByte a b).pending = s.pending := rfl
@[simp] theorem State.setByte_fresh (s : State) (a : Nat) (b : Byte) : (s.setByte a b).fresh = s.fresh := rfl
@[simp] theorem State.setByte_resp (s : State) (a : Nat) (b : Byte) : (s.setByte a b).resp = s.resp := rfl
@[simp] theorem State.setByte_linkOut (s : State) (a : Nat) (b : Byte) : (s.setByte a b).linkOut = s.linkOut := rfl
@[simp] theorem State.setByte_now (s : State) (a : Nat) (b : Byte) : (s.setByte a b).now = s.now := rfl
@[simp] theorem State.setByte_regs (s : State) (a : Nat) (b : Byte) : (s.setByte a b).regs = s.regs := rfl
@[simp] theorem State.setByte_snaps (s : State) (a : Nat) (b : Byte) : (s.setByte a b).snaps = s.snaps := rfl
@[simp] theorem State.setByte_ceBad (s : State) (a : Nat) (b : Byte) : (s.setByte a b).ceBad = s.ceBad := rfl
@[simp] theorem State.setByte_ueBad (s : State) (a : Nat) (b : Byte) : (s.setByte a b).ueBad = s.ueBad := rfl
@[simp] theorem State.setByte_vlogLast (s : State) (a : Nat) (b : Byte) : (s.setByte a b).vlogLast = s.vlogLast := rfl
@[simp] theorem State.setByte_vlogK (s : State) (a : Nat) (b : Byte) : (s.setByte a b).vlogK = s.vlogK := rfl
@[simp] theorem State.setByte_seqRun (s : State) (a : Nat) (b : Byte) : (s.setByte a b).seqRun = s.seqRun := rfl
@[simp] theorem State.setByte_grid (s : State) (a : Nat) (b : Byte) : (s.setByte a b).grid = s.grid := rfl
@[simp] theorem State.setByte_bars (s : State) (a : Nat) (b : Byte) : (s.setByte a b).bars = s.bars := rfl
@[simp] theorem State.setByte_pos (s : State) (a : Nat) (b : Byte) : (s.setByte a b).pos = s.pos := rfl
@[simp] theorem State.setByte_xpt (s : State) (a : Nat) (b : Byte) : (s.setByte a b).xpt = s.xpt := rfl
@[simp] theorem State.setByte_hkillLow (s : State) (a : Nat) (b : Byte) : (s.setByte a b).hkillLow = s.hkillLow := rfl
@[simp] theorem State.setByte_graceSince (s : State) (a : Nat) (b : Byte) : (s.setByte a b).graceSince = s.graceSince := rfl
@[simp] theorem State.setByte_graceMet (s : State) (a : Nat) (b : Byte) : (s.setByte a b).graceMet = s.graceMet := rfl
@[simp] theorem State.setByte_thm (s : State) (a : Nat) (b : Byte) : (s.setByte a b).thm = s.thm := rfl
@[simp] theorem State.setByte_cal (s : State) (a : Nat) (b : Byte) : (s.setByte a b).cal = s.cal := rfl
@[simp] theorem State.setByte_ins (s : State) (a : Nat) (b : Byte) : (s.setByte a b).ins = s.ins := rfl
@[simp] theorem State.setByte_pairs (s : State) (a : Nat) (b : Byte) : (s.setByte a b).pairs = s.pairs := rfl
@[simp] theorem State.setByte_banks (s : State) (a : Nat) (b : Byte) : (s.setByte a b).banks = s.banks := rfl
@[simp] theorem State.setByte_wipe (s : State) (a : Nat) (b : Byte) : (s.setByte a b).wipe = s.wipe := rfl
@[simp] theorem State.setByte_boot (s : State) (a : Nat) (b : Byte) : (s.setByte a b).boot = s.boot := rfl
@[simp] theorem State.setByte_dma (s : State) (a : Nat) (b : Byte) : (s.setByte a b).dma = s.dma := rfl
@[simp] theorem State.setByte_dmaTurn (s : State) (a : Nat) (b : Byte) : (s.setByte a b).dmaTurn = s.dmaTurn := rfl
@[simp] theorem State.setByte_otp (s : State) (a : Nat) (b : Byte) : (s.setByte a b).otp = s.otp := rfl
@[simp] theorem State.setByte_power (s : State) (a : Nat) (b : Byte) : (s.setByte a b).power = s.power := rfl
@[simp] theorem State.setByte_clk (s : State) (a : Nat) (b : Byte) : (s.setByte a b).clk = s.clk := rfl
@[simp] theorem State.setByte_hl (s : State) (a : Nat) (b : Byte) : (s.setByte a b).hl = s.hl := rfl
@[simp] theorem State.setByte_mgt (s : State) (a : Nat) (b : Byte) : (s.setByte a b).mgt = s.mgt := rfl

/-! ## After a register word -/

@[simp] theorem State.setReg_pending (s : State) (off : Nat) (w : Word) : (s.setReg off w).pending = s.pending := rfl
@[simp] theorem State.setReg_fresh (s : State) (off : Nat) (w : Word) : (s.setReg off w).fresh = s.fresh := rfl
@[simp] theorem State.setReg_resp (s : State) (off : Nat) (w : Word) : (s.setReg off w).resp = s.resp := rfl
@[simp] theorem State.setReg_linkOut (s : State) (off : Nat) (w : Word) : (s.setReg off w).linkOut = s.linkOut := rfl
@[simp] theorem State.setReg_now (s : State) (off : Nat) (w : Word) : (s.setReg off w).now = s.now := rfl
@[simp] theorem State.setReg_snaps (s : State) (off : Nat) (w : Word) : (s.setReg off w).snaps = s.snaps := rfl
@[simp] theorem State.setReg_mem (s : State) (off : Nat) (w : Word) : (s.setReg off w).mem = s.mem := rfl
@[simp] theorem State.setReg_ceBad (s : State) (off : Nat) (w : Word) : (s.setReg off w).ceBad = s.ceBad := rfl
@[simp] theorem State.setReg_ueBad (s : State) (off : Nat) (w : Word) : (s.setReg off w).ueBad = s.ueBad := rfl
@[simp] theorem State.setReg_vlogLast (s : State) (off : Nat) (w : Word) : (s.setReg off w).vlogLast = s.vlogLast := rfl
@[simp] theorem State.setReg_vlogK (s : State) (off : Nat) (w : Word) : (s.setReg off w).vlogK = s.vlogK := rfl
@[simp] theorem State.setReg_seqRun (s : State) (off : Nat) (w : Word) : (s.setReg off w).seqRun = s.seqRun := rfl
@[simp] theorem State.setReg_grid (s : State) (off : Nat) (w : Word) : (s.setReg off w).grid = s.grid := rfl
@[simp] theorem State.setReg_bars (s : State) (off : Nat) (w : Word) : (s.setReg off w).bars = s.bars := rfl
@[simp] theorem State.setReg_pos (s : State) (off : Nat) (w : Word) : (s.setReg off w).pos = s.pos := rfl
@[simp] theorem State.setReg_xpt (s : State) (off : Nat) (w : Word) : (s.setReg off w).xpt = s.xpt := rfl
@[simp] theorem State.setReg_hkillLow (s : State) (off : Nat) (w : Word) : (s.setReg off w).hkillLow = s.hkillLow := rfl
@[simp] theorem State.setReg_graceSince (s : State) (off : Nat) (w : Word) : (s.setReg off w).graceSince = s.graceSince := rfl
@[simp] theorem State.setReg_graceMet (s : State) (off : Nat) (w : Word) : (s.setReg off w).graceMet = s.graceMet := rfl
@[simp] theorem State.setReg_thm (s : State) (off : Nat) (w : Word) : (s.setReg off w).thm = s.thm := rfl
@[simp] theorem State.setReg_cal (s : State) (off : Nat) (w : Word) : (s.setReg off w).cal = s.cal := rfl
@[simp] theorem State.setReg_ins (s : State) (off : Nat) (w : Word) : (s.setReg off w).ins = s.ins := rfl
@[simp] theorem State.setReg_pairs (s : State) (off : Nat) (w : Word) : (s.setReg off w).pairs = s.pairs := rfl
@[simp] theorem State.setReg_banks (s : State) (off : Nat) (w : Word) : (s.setReg off w).banks = s.banks := rfl
@[simp] theorem State.setReg_wipe (s : State) (off : Nat) (w : Word) : (s.setReg off w).wipe = s.wipe := rfl
@[simp] theorem State.setReg_boot (s : State) (off : Nat) (w : Word) : (s.setReg off w).boot = s.boot := rfl
@[simp] theorem State.setReg_dma (s : State) (off : Nat) (w : Word) : (s.setReg off w).dma = s.dma := rfl
@[simp] theorem State.setReg_dmaTurn (s : State) (off : Nat) (w : Word) : (s.setReg off w).dmaTurn = s.dmaTurn := rfl
@[simp] theorem State.setReg_otp (s : State) (off : Nat) (w : Word) : (s.setReg off w).otp = s.otp := rfl
@[simp] theorem State.setReg_power (s : State) (off : Nat) (w : Word) : (s.setReg off w).power = s.power := rfl
@[simp] theorem State.setReg_clk (s : State) (off : Nat) (w : Word) : (s.setReg off w).clk = s.clk := rfl
@[simp] theorem State.setReg_hl (s : State) (off : Nat) (w : Word) : (s.setReg off w).hl = s.hl := rfl
@[simp] theorem State.setReg_mgt (s : State) (off : Nat) (w : Word) : (s.setReg off w).mgt = s.mgt := rfl

/-! ## After a field -/

@[simp] theorem State.put_pending (s : State) (f : Field) (v : Nat) : (s.put f v).pending = s.pending := rfl
@[simp] theorem State.put_fresh (s : State) (f : Field) (v : Nat) : (s.put f v).fresh = s.fresh := rfl
@[simp] theorem State.put_resp (s : State) (f : Field) (v : Nat) : (s.put f v).resp = s.resp := rfl
@[simp] theorem State.put_linkOut (s : State) (f : Field) (v : Nat) : (s.put f v).linkOut = s.linkOut := rfl
@[simp] theorem State.put_now (s : State) (f : Field) (v : Nat) : (s.put f v).now = s.now := rfl
@[simp] theorem State.put_snaps (s : State) (f : Field) (v : Nat) : (s.put f v).snaps = s.snaps := rfl
@[simp] theorem State.put_mem (s : State) (f : Field) (v : Nat) : (s.put f v).mem = s.mem := rfl
@[simp] theorem State.put_ceBad (s : State) (f : Field) (v : Nat) : (s.put f v).ceBad = s.ceBad := rfl
@[simp] theorem State.put_ueBad (s : State) (f : Field) (v : Nat) : (s.put f v).ueBad = s.ueBad := rfl
@[simp] theorem State.put_vlogLast (s : State) (f : Field) (v : Nat) : (s.put f v).vlogLast = s.vlogLast := rfl
@[simp] theorem State.put_vlogK (s : State) (f : Field) (v : Nat) : (s.put f v).vlogK = s.vlogK := rfl
@[simp] theorem State.put_seqRun (s : State) (f : Field) (v : Nat) : (s.put f v).seqRun = s.seqRun := rfl
@[simp] theorem State.put_grid (s : State) (f : Field) (v : Nat) : (s.put f v).grid = s.grid := rfl
@[simp] theorem State.put_bars (s : State) (f : Field) (v : Nat) : (s.put f v).bars = s.bars := rfl
@[simp] theorem State.put_pos (s : State) (f : Field) (v : Nat) : (s.put f v).pos = s.pos := rfl
@[simp] theorem State.put_xpt (s : State) (f : Field) (v : Nat) : (s.put f v).xpt = s.xpt := rfl
@[simp] theorem State.put_hkillLow (s : State) (f : Field) (v : Nat) : (s.put f v).hkillLow = s.hkillLow := rfl
@[simp] theorem State.put_graceSince (s : State) (f : Field) (v : Nat) : (s.put f v).graceSince = s.graceSince := rfl
@[simp] theorem State.put_graceMet (s : State) (f : Field) (v : Nat) : (s.put f v).graceMet = s.graceMet := rfl
@[simp] theorem State.put_thm (s : State) (f : Field) (v : Nat) : (s.put f v).thm = s.thm := rfl
@[simp] theorem State.put_cal (s : State) (f : Field) (v : Nat) : (s.put f v).cal = s.cal := rfl
@[simp] theorem State.put_ins (s : State) (f : Field) (v : Nat) : (s.put f v).ins = s.ins := rfl
@[simp] theorem State.put_pairs (s : State) (f : Field) (v : Nat) : (s.put f v).pairs = s.pairs := rfl
@[simp] theorem State.put_banks (s : State) (f : Field) (v : Nat) : (s.put f v).banks = s.banks := rfl
@[simp] theorem State.put_wipe (s : State) (f : Field) (v : Nat) : (s.put f v).wipe = s.wipe := rfl
@[simp] theorem State.put_boot (s : State) (f : Field) (v : Nat) : (s.put f v).boot = s.boot := rfl
@[simp] theorem State.put_dma (s : State) (f : Field) (v : Nat) : (s.put f v).dma = s.dma := rfl
@[simp] theorem State.put_dmaTurn (s : State) (f : Field) (v : Nat) : (s.put f v).dmaTurn = s.dmaTurn := rfl
@[simp] theorem State.put_otp (s : State) (f : Field) (v : Nat) : (s.put f v).otp = s.otp := rfl
@[simp] theorem State.put_power (s : State) (f : Field) (v : Nat) : (s.put f v).power = s.power := rfl
@[simp] theorem State.put_clk (s : State) (f : Field) (v : Nat) : (s.put f v).clk = s.clk := rfl
@[simp] theorem State.put_hl (s : State) (f : Field) (v : Nat) : (s.put f v).hl = s.hl := rfl
@[simp] theorem State.put_mgt (s : State) (f : Field) (v : Nat) : (s.put f v).mgt = s.mgt := rfl

/-! ## After a signed field -/

@[simp] theorem State.puti_pending (s : State) (f : Field) (v : Int) : (s.puti f v).pending = s.pending := rfl
@[simp] theorem State.puti_fresh (s : State) (f : Field) (v : Int) : (s.puti f v).fresh = s.fresh := rfl
@[simp] theorem State.puti_resp (s : State) (f : Field) (v : Int) : (s.puti f v).resp = s.resp := rfl
@[simp] theorem State.puti_linkOut (s : State) (f : Field) (v : Int) : (s.puti f v).linkOut = s.linkOut := rfl
@[simp] theorem State.puti_now (s : State) (f : Field) (v : Int) : (s.puti f v).now = s.now := rfl
@[simp] theorem State.puti_snaps (s : State) (f : Field) (v : Int) : (s.puti f v).snaps = s.snaps := rfl
@[simp] theorem State.puti_mem (s : State) (f : Field) (v : Int) : (s.puti f v).mem = s.mem := rfl
@[simp] theorem State.puti_ceBad (s : State) (f : Field) (v : Int) : (s.puti f v).ceBad = s.ceBad := rfl
@[simp] theorem State.puti_ueBad (s : State) (f : Field) (v : Int) : (s.puti f v).ueBad = s.ueBad := rfl
@[simp] theorem State.puti_vlogLast (s : State) (f : Field) (v : Int) : (s.puti f v).vlogLast = s.vlogLast := rfl
@[simp] theorem State.puti_vlogK (s : State) (f : Field) (v : Int) : (s.puti f v).vlogK = s.vlogK := rfl
@[simp] theorem State.puti_seqRun (s : State) (f : Field) (v : Int) : (s.puti f v).seqRun = s.seqRun := rfl
@[simp] theorem State.puti_grid (s : State) (f : Field) (v : Int) : (s.puti f v).grid = s.grid := rfl
@[simp] theorem State.puti_bars (s : State) (f : Field) (v : Int) : (s.puti f v).bars = s.bars := rfl
@[simp] theorem State.puti_pos (s : State) (f : Field) (v : Int) : (s.puti f v).pos = s.pos := rfl
@[simp] theorem State.puti_xpt (s : State) (f : Field) (v : Int) : (s.puti f v).xpt = s.xpt := rfl
@[simp] theorem State.puti_hkillLow (s : State) (f : Field) (v : Int) : (s.puti f v).hkillLow = s.hkillLow := rfl
@[simp] theorem State.puti_graceSince (s : State) (f : Field) (v : Int) : (s.puti f v).graceSince = s.graceSince := rfl
@[simp] theorem State.puti_graceMet (s : State) (f : Field) (v : Int) : (s.puti f v).graceMet = s.graceMet := rfl
@[simp] theorem State.puti_thm (s : State) (f : Field) (v : Int) : (s.puti f v).thm = s.thm := rfl
@[simp] theorem State.puti_cal (s : State) (f : Field) (v : Int) : (s.puti f v).cal = s.cal := rfl
@[simp] theorem State.puti_ins (s : State) (f : Field) (v : Int) : (s.puti f v).ins = s.ins := rfl
@[simp] theorem State.puti_pairs (s : State) (f : Field) (v : Int) : (s.puti f v).pairs = s.pairs := rfl
@[simp] theorem State.puti_banks (s : State) (f : Field) (v : Int) : (s.puti f v).banks = s.banks := rfl
@[simp] theorem State.puti_wipe (s : State) (f : Field) (v : Int) : (s.puti f v).wipe = s.wipe := rfl
@[simp] theorem State.puti_boot (s : State) (f : Field) (v : Int) : (s.puti f v).boot = s.boot := rfl
@[simp] theorem State.puti_dma (s : State) (f : Field) (v : Int) : (s.puti f v).dma = s.dma := rfl
@[simp] theorem State.puti_dmaTurn (s : State) (f : Field) (v : Int) : (s.puti f v).dmaTurn = s.dmaTurn := rfl
@[simp] theorem State.puti_otp (s : State) (f : Field) (v : Int) : (s.puti f v).otp = s.otp := rfl
@[simp] theorem State.puti_power (s : State) (f : Field) (v : Int) : (s.puti f v).power = s.power := rfl
@[simp] theorem State.puti_clk (s : State) (f : Field) (v : Int) : (s.puti f v).clk = s.clk := rfl
@[simp] theorem State.puti_hl (s : State) (f : Field) (v : Int) : (s.puti f v).hl = s.hl := rfl
@[simp] theorem State.puti_mgt (s : State) (f : Field) (v : Int) : (s.puti f v).mgt = s.mgt := rfl

/-! ## After a one-bit field -/

@[simp] theorem State.putb_pending (s : State) (f : Field) (b : Bool) : (s.putb f b).pending = s.pending := rfl
@[simp] theorem State.putb_fresh (s : State) (f : Field) (b : Bool) : (s.putb f b).fresh = s.fresh := rfl
@[simp] theorem State.putb_resp (s : State) (f : Field) (b : Bool) : (s.putb f b).resp = s.resp := rfl
@[simp] theorem State.putb_linkOut (s : State) (f : Field) (b : Bool) : (s.putb f b).linkOut = s.linkOut := rfl
@[simp] theorem State.putb_now (s : State) (f : Field) (b : Bool) : (s.putb f b).now = s.now := rfl
@[simp] theorem State.putb_snaps (s : State) (f : Field) (b : Bool) : (s.putb f b).snaps = s.snaps := rfl
@[simp] theorem State.putb_mem (s : State) (f : Field) (b : Bool) : (s.putb f b).mem = s.mem := rfl
@[simp] theorem State.putb_ceBad (s : State) (f : Field) (b : Bool) : (s.putb f b).ceBad = s.ceBad := rfl
@[simp] theorem State.putb_ueBad (s : State) (f : Field) (b : Bool) : (s.putb f b).ueBad = s.ueBad := rfl
@[simp] theorem State.putb_vlogLast (s : State) (f : Field) (b : Bool) : (s.putb f b).vlogLast = s.vlogLast := rfl
@[simp] theorem State.putb_vlogK (s : State) (f : Field) (b : Bool) : (s.putb f b).vlogK = s.vlogK := rfl
@[simp] theorem State.putb_seqRun (s : State) (f : Field) (b : Bool) : (s.putb f b).seqRun = s.seqRun := rfl
@[simp] theorem State.putb_grid (s : State) (f : Field) (b : Bool) : (s.putb f b).grid = s.grid := rfl
@[simp] theorem State.putb_bars (s : State) (f : Field) (b : Bool) : (s.putb f b).bars = s.bars := rfl
@[simp] theorem State.putb_pos (s : State) (f : Field) (b : Bool) : (s.putb f b).pos = s.pos := rfl
@[simp] theorem State.putb_xpt (s : State) (f : Field) (b : Bool) : (s.putb f b).xpt = s.xpt := rfl
@[simp] theorem State.putb_hkillLow (s : State) (f : Field) (b : Bool) : (s.putb f b).hkillLow = s.hkillLow := rfl
@[simp] theorem State.putb_graceSince (s : State) (f : Field) (b : Bool) : (s.putb f b).graceSince = s.graceSince := rfl
@[simp] theorem State.putb_graceMet (s : State) (f : Field) (b : Bool) : (s.putb f b).graceMet = s.graceMet := rfl
@[simp] theorem State.putb_thm (s : State) (f : Field) (b : Bool) : (s.putb f b).thm = s.thm := rfl
@[simp] theorem State.putb_cal (s : State) (f : Field) (b : Bool) : (s.putb f b).cal = s.cal := rfl
@[simp] theorem State.putb_ins (s : State) (f : Field) (b : Bool) : (s.putb f b).ins = s.ins := rfl
@[simp] theorem State.putb_pairs (s : State) (f : Field) (b : Bool) : (s.putb f b).pairs = s.pairs := rfl
@[simp] theorem State.putb_banks (s : State) (f : Field) (b : Bool) : (s.putb f b).banks = s.banks := rfl
@[simp] theorem State.putb_wipe (s : State) (f : Field) (b : Bool) : (s.putb f b).wipe = s.wipe := rfl
@[simp] theorem State.putb_boot (s : State) (f : Field) (b : Bool) : (s.putb f b).boot = s.boot := rfl
@[simp] theorem State.putb_dma (s : State) (f : Field) (b : Bool) : (s.putb f b).dma = s.dma := rfl
@[simp] theorem State.putb_dmaTurn (s : State) (f : Field) (b : Bool) : (s.putb f b).dmaTurn = s.dmaTurn := rfl
@[simp] theorem State.putb_otp (s : State) (f : Field) (b : Bool) : (s.putb f b).otp = s.otp := rfl
@[simp] theorem State.putb_power (s : State) (f : Field) (b : Bool) : (s.putb f b).power = s.power := rfl
@[simp] theorem State.putb_clk (s : State) (f : Field) (b : Bool) : (s.putb f b).clk = s.clk := rfl
@[simp] theorem State.putb_hl (s : State) (f : Field) (b : Bool) : (s.putb f b).hl = s.hl := rfl
@[simp] theorem State.putb_mgt (s : State) (f : Field) (b : Bool) : (s.putb f b).mgt = s.mgt := rfl

/-! ## After a 48-bit value -/

@[simp] theorem State.put48_pending (s : State) (lo hi : Field) (v : Int) : (s.put48 lo hi v).pending = s.pending := rfl
@[simp] theorem State.put48_fresh (s : State) (lo hi : Field) (v : Int) : (s.put48 lo hi v).fresh = s.fresh := rfl
@[simp] theorem State.put48_resp (s : State) (lo hi : Field) (v : Int) : (s.put48 lo hi v).resp = s.resp := rfl
@[simp] theorem State.put48_linkOut (s : State) (lo hi : Field) (v : Int) : (s.put48 lo hi v).linkOut = s.linkOut := rfl
@[simp] theorem State.put48_now (s : State) (lo hi : Field) (v : Int) : (s.put48 lo hi v).now = s.now := rfl
@[simp] theorem State.put48_snaps (s : State) (lo hi : Field) (v : Int) : (s.put48 lo hi v).snaps = s.snaps := rfl
@[simp] theorem State.put48_mem (s : State) (lo hi : Field) (v : Int) : (s.put48 lo hi v).mem = s.mem := rfl
@[simp] theorem State.put48_ceBad (s : State) (lo hi : Field) (v : Int) : (s.put48 lo hi v).ceBad = s.ceBad := rfl
@[simp] theorem State.put48_ueBad (s : State) (lo hi : Field) (v : Int) : (s.put48 lo hi v).ueBad = s.ueBad := rfl
@[simp] theorem State.put48_vlogLast (s : State) (lo hi : Field) (v : Int) : (s.put48 lo hi v).vlogLast = s.vlogLast := rfl
@[simp] theorem State.put48_vlogK (s : State) (lo hi : Field) (v : Int) : (s.put48 lo hi v).vlogK = s.vlogK := rfl
@[simp] theorem State.put48_seqRun (s : State) (lo hi : Field) (v : Int) : (s.put48 lo hi v).seqRun = s.seqRun := rfl
@[simp] theorem State.put48_grid (s : State) (lo hi : Field) (v : Int) : (s.put48 lo hi v).grid = s.grid := rfl
@[simp] theorem State.put48_bars (s : State) (lo hi : Field) (v : Int) : (s.put48 lo hi v).bars = s.bars := rfl
@[simp] theorem State.put48_pos (s : State) (lo hi : Field) (v : Int) : (s.put48 lo hi v).pos = s.pos := rfl
@[simp] theorem State.put48_xpt (s : State) (lo hi : Field) (v : Int) : (s.put48 lo hi v).xpt = s.xpt := rfl
@[simp] theorem State.put48_hkillLow (s : State) (lo hi : Field) (v : Int) : (s.put48 lo hi v).hkillLow = s.hkillLow := rfl
@[simp] theorem State.put48_graceSince (s : State) (lo hi : Field) (v : Int) : (s.put48 lo hi v).graceSince = s.graceSince := rfl
@[simp] theorem State.put48_graceMet (s : State) (lo hi : Field) (v : Int) : (s.put48 lo hi v).graceMet = s.graceMet := rfl
@[simp] theorem State.put48_thm (s : State) (lo hi : Field) (v : Int) : (s.put48 lo hi v).thm = s.thm := rfl
@[simp] theorem State.put48_cal (s : State) (lo hi : Field) (v : Int) : (s.put48 lo hi v).cal = s.cal := rfl
@[simp] theorem State.put48_ins (s : State) (lo hi : Field) (v : Int) : (s.put48 lo hi v).ins = s.ins := rfl
@[simp] theorem State.put48_pairs (s : State) (lo hi : Field) (v : Int) : (s.put48 lo hi v).pairs = s.pairs := rfl
@[simp] theorem State.put48_banks (s : State) (lo hi : Field) (v : Int) : (s.put48 lo hi v).banks = s.banks := rfl
@[simp] theorem State.put48_wipe (s : State) (lo hi : Field) (v : Int) : (s.put48 lo hi v).wipe = s.wipe := rfl
@[simp] theorem State.put48_boot (s : State) (lo hi : Field) (v : Int) : (s.put48 lo hi v).boot = s.boot := rfl
@[simp] theorem State.put48_dma (s : State) (lo hi : Field) (v : Int) : (s.put48 lo hi v).dma = s.dma := rfl
@[simp] theorem State.put48_dmaTurn (s : State) (lo hi : Field) (v : Int) : (s.put48 lo hi v).dmaTurn = s.dmaTurn := rfl
@[simp] theorem State.put48_otp (s : State) (lo hi : Field) (v : Int) : (s.put48 lo hi v).otp = s.otp := rfl
@[simp] theorem State.put48_power (s : State) (lo hi : Field) (v : Int) : (s.put48 lo hi v).power = s.power := rfl
@[simp] theorem State.put48_clk (s : State) (lo hi : Field) (v : Int) : (s.put48 lo hi v).clk = s.clk := rfl
@[simp] theorem State.put48_hl (s : State) (lo hi : Field) (v : Int) : (s.put48 lo hi v).hl = s.hl := rfl
@[simp] theorem State.put48_mgt (s : State) (lo hi : Field) (v : Int) : (s.put48 lo hi v).mgt = s.mgt := rfl

/-! ## After an addition to a counter -/

@[simp] theorem State.bumpBy_pending (s : State) (f : Field) (k : Nat) : (s.bumpBy f k).pending = s.pending := rfl
@[simp] theorem State.bumpBy_fresh (s : State) (f : Field) (k : Nat) : (s.bumpBy f k).fresh = s.fresh := rfl
@[simp] theorem State.bumpBy_resp (s : State) (f : Field) (k : Nat) : (s.bumpBy f k).resp = s.resp := rfl
@[simp] theorem State.bumpBy_linkOut (s : State) (f : Field) (k : Nat) : (s.bumpBy f k).linkOut = s.linkOut := rfl
@[simp] theorem State.bumpBy_now (s : State) (f : Field) (k : Nat) : (s.bumpBy f k).now = s.now := rfl
@[simp] theorem State.bumpBy_snaps (s : State) (f : Field) (k : Nat) : (s.bumpBy f k).snaps = s.snaps := rfl
@[simp] theorem State.bumpBy_mem (s : State) (f : Field) (k : Nat) : (s.bumpBy f k).mem = s.mem := rfl
@[simp] theorem State.bumpBy_ceBad (s : State) (f : Field) (k : Nat) : (s.bumpBy f k).ceBad = s.ceBad := rfl
@[simp] theorem State.bumpBy_ueBad (s : State) (f : Field) (k : Nat) : (s.bumpBy f k).ueBad = s.ueBad := rfl
@[simp] theorem State.bumpBy_vlogLast (s : State) (f : Field) (k : Nat) : (s.bumpBy f k).vlogLast = s.vlogLast := rfl
@[simp] theorem State.bumpBy_vlogK (s : State) (f : Field) (k : Nat) : (s.bumpBy f k).vlogK = s.vlogK := rfl
@[simp] theorem State.bumpBy_seqRun (s : State) (f : Field) (k : Nat) : (s.bumpBy f k).seqRun = s.seqRun := rfl
@[simp] theorem State.bumpBy_grid (s : State) (f : Field) (k : Nat) : (s.bumpBy f k).grid = s.grid := rfl
@[simp] theorem State.bumpBy_bars (s : State) (f : Field) (k : Nat) : (s.bumpBy f k).bars = s.bars := rfl
@[simp] theorem State.bumpBy_pos (s : State) (f : Field) (k : Nat) : (s.bumpBy f k).pos = s.pos := rfl
@[simp] theorem State.bumpBy_xpt (s : State) (f : Field) (k : Nat) : (s.bumpBy f k).xpt = s.xpt := rfl
@[simp] theorem State.bumpBy_hkillLow (s : State) (f : Field) (k : Nat) : (s.bumpBy f k).hkillLow = s.hkillLow := rfl
@[simp] theorem State.bumpBy_graceSince (s : State) (f : Field) (k : Nat) : (s.bumpBy f k).graceSince = s.graceSince := rfl
@[simp] theorem State.bumpBy_graceMet (s : State) (f : Field) (k : Nat) : (s.bumpBy f k).graceMet = s.graceMet := rfl
@[simp] theorem State.bumpBy_thm (s : State) (f : Field) (k : Nat) : (s.bumpBy f k).thm = s.thm := rfl
@[simp] theorem State.bumpBy_cal (s : State) (f : Field) (k : Nat) : (s.bumpBy f k).cal = s.cal := rfl
@[simp] theorem State.bumpBy_ins (s : State) (f : Field) (k : Nat) : (s.bumpBy f k).ins = s.ins := rfl
@[simp] theorem State.bumpBy_pairs (s : State) (f : Field) (k : Nat) : (s.bumpBy f k).pairs = s.pairs := rfl
@[simp] theorem State.bumpBy_banks (s : State) (f : Field) (k : Nat) : (s.bumpBy f k).banks = s.banks := rfl
@[simp] theorem State.bumpBy_wipe (s : State) (f : Field) (k : Nat) : (s.bumpBy f k).wipe = s.wipe := rfl
@[simp] theorem State.bumpBy_boot (s : State) (f : Field) (k : Nat) : (s.bumpBy f k).boot = s.boot := rfl
@[simp] theorem State.bumpBy_dma (s : State) (f : Field) (k : Nat) : (s.bumpBy f k).dma = s.dma := rfl
@[simp] theorem State.bumpBy_dmaTurn (s : State) (f : Field) (k : Nat) : (s.bumpBy f k).dmaTurn = s.dmaTurn := rfl
@[simp] theorem State.bumpBy_otp (s : State) (f : Field) (k : Nat) : (s.bumpBy f k).otp = s.otp := rfl
@[simp] theorem State.bumpBy_power (s : State) (f : Field) (k : Nat) : (s.bumpBy f k).power = s.power := rfl
@[simp] theorem State.bumpBy_clk (s : State) (f : Field) (k : Nat) : (s.bumpBy f k).clk = s.clk := rfl
@[simp] theorem State.bumpBy_hl (s : State) (f : Field) (k : Nat) : (s.bumpBy f k).hl = s.hl := rfl
@[simp] theorem State.bumpBy_mgt (s : State) (f : Field) (k : Nat) : (s.bumpBy f k).mgt = s.mgt := rfl

/-! ## After a count -/

@[simp] theorem State.bump_pending (s : State) (f : Field) : (s.bump f).pending = s.pending := rfl
@[simp] theorem State.bump_fresh (s : State) (f : Field) : (s.bump f).fresh = s.fresh := rfl
@[simp] theorem State.bump_resp (s : State) (f : Field) : (s.bump f).resp = s.resp := rfl
@[simp] theorem State.bump_linkOut (s : State) (f : Field) : (s.bump f).linkOut = s.linkOut := rfl
@[simp] theorem State.bump_now (s : State) (f : Field) : (s.bump f).now = s.now := rfl
@[simp] theorem State.bump_snaps (s : State) (f : Field) : (s.bump f).snaps = s.snaps := rfl
@[simp] theorem State.bump_mem (s : State) (f : Field) : (s.bump f).mem = s.mem := rfl
@[simp] theorem State.bump_ceBad (s : State) (f : Field) : (s.bump f).ceBad = s.ceBad := rfl
@[simp] theorem State.bump_ueBad (s : State) (f : Field) : (s.bump f).ueBad = s.ueBad := rfl
@[simp] theorem State.bump_vlogLast (s : State) (f : Field) : (s.bump f).vlogLast = s.vlogLast := rfl
@[simp] theorem State.bump_vlogK (s : State) (f : Field) : (s.bump f).vlogK = s.vlogK := rfl
@[simp] theorem State.bump_seqRun (s : State) (f : Field) : (s.bump f).seqRun = s.seqRun := rfl
@[simp] theorem State.bump_grid (s : State) (f : Field) : (s.bump f).grid = s.grid := rfl
@[simp] theorem State.bump_bars (s : State) (f : Field) : (s.bump f).bars = s.bars := rfl
@[simp] theorem State.bump_pos (s : State) (f : Field) : (s.bump f).pos = s.pos := rfl
@[simp] theorem State.bump_xpt (s : State) (f : Field) : (s.bump f).xpt = s.xpt := rfl
@[simp] theorem State.bump_hkillLow (s : State) (f : Field) : (s.bump f).hkillLow = s.hkillLow := rfl
@[simp] theorem State.bump_graceSince (s : State) (f : Field) : (s.bump f).graceSince = s.graceSince := rfl
@[simp] theorem State.bump_graceMet (s : State) (f : Field) : (s.bump f).graceMet = s.graceMet := rfl
@[simp] theorem State.bump_thm (s : State) (f : Field) : (s.bump f).thm = s.thm := rfl
@[simp] theorem State.bump_cal (s : State) (f : Field) : (s.bump f).cal = s.cal := rfl
@[simp] theorem State.bump_ins (s : State) (f : Field) : (s.bump f).ins = s.ins := rfl
@[simp] theorem State.bump_pairs (s : State) (f : Field) : (s.bump f).pairs = s.pairs := rfl
@[simp] theorem State.bump_banks (s : State) (f : Field) : (s.bump f).banks = s.banks := rfl
@[simp] theorem State.bump_wipe (s : State) (f : Field) : (s.bump f).wipe = s.wipe := rfl
@[simp] theorem State.bump_boot (s : State) (f : Field) : (s.bump f).boot = s.boot := rfl
@[simp] theorem State.bump_dma (s : State) (f : Field) : (s.bump f).dma = s.dma := rfl
@[simp] theorem State.bump_dmaTurn (s : State) (f : Field) : (s.bump f).dmaTurn = s.dmaTurn := rfl
@[simp] theorem State.bump_otp (s : State) (f : Field) : (s.bump f).otp = s.otp := rfl
@[simp] theorem State.bump_power (s : State) (f : Field) : (s.bump f).power = s.power := rfl
@[simp] theorem State.bump_clk (s : State) (f : Field) : (s.bump f).clk = s.clk := rfl
@[simp] theorem State.bump_hl (s : State) (f : Field) : (s.bump f).hl = s.hl := rfl
@[simp] theorem State.bump_mgt (s : State) (f : Field) : (s.bump f).mgt = s.mgt := rfl

/-! ## After a change of a bar -/

@[simp] theorem State.modBar_pending (s : State) (n : Fin 32) (f : Bar → Bar) : (s.modBar n f).pending = s.pending := rfl
@[simp] theorem State.modBar_fresh (s : State) (n : Fin 32) (f : Bar → Bar) : (s.modBar n f).fresh = s.fresh := rfl
@[simp] theorem State.modBar_resp (s : State) (n : Fin 32) (f : Bar → Bar) : (s.modBar n f).resp = s.resp := rfl
@[simp] theorem State.modBar_linkOut (s : State) (n : Fin 32) (f : Bar → Bar) : (s.modBar n f).linkOut = s.linkOut := rfl
@[simp] theorem State.modBar_now (s : State) (n : Fin 32) (f : Bar → Bar) : (s.modBar n f).now = s.now := rfl
@[simp] theorem State.modBar_regs (s : State) (n : Fin 32) (f : Bar → Bar) : (s.modBar n f).regs = s.regs := rfl
@[simp] theorem State.modBar_snaps (s : State) (n : Fin 32) (f : Bar → Bar) : (s.modBar n f).snaps = s.snaps := rfl
@[simp] theorem State.modBar_mem (s : State) (n : Fin 32) (f : Bar → Bar) : (s.modBar n f).mem = s.mem := rfl
@[simp] theorem State.modBar_ceBad (s : State) (n : Fin 32) (f : Bar → Bar) : (s.modBar n f).ceBad = s.ceBad := rfl
@[simp] theorem State.modBar_ueBad (s : State) (n : Fin 32) (f : Bar → Bar) : (s.modBar n f).ueBad = s.ueBad := rfl
@[simp] theorem State.modBar_vlogLast (s : State) (n : Fin 32) (f : Bar → Bar) : (s.modBar n f).vlogLast = s.vlogLast := rfl
@[simp] theorem State.modBar_vlogK (s : State) (n : Fin 32) (f : Bar → Bar) : (s.modBar n f).vlogK = s.vlogK := rfl
@[simp] theorem State.modBar_seqRun (s : State) (n : Fin 32) (f : Bar → Bar) : (s.modBar n f).seqRun = s.seqRun := rfl
@[simp] theorem State.modBar_grid (s : State) (n : Fin 32) (f : Bar → Bar) : (s.modBar n f).grid = s.grid := rfl
@[simp] theorem State.modBar_pos (s : State) (n : Fin 32) (f : Bar → Bar) : (s.modBar n f).pos = s.pos := rfl
@[simp] theorem State.modBar_xpt (s : State) (n : Fin 32) (f : Bar → Bar) : (s.modBar n f).xpt = s.xpt := rfl
@[simp] theorem State.modBar_hkillLow (s : State) (n : Fin 32) (f : Bar → Bar) : (s.modBar n f).hkillLow = s.hkillLow := rfl
@[simp] theorem State.modBar_graceSince (s : State) (n : Fin 32) (f : Bar → Bar) : (s.modBar n f).graceSince = s.graceSince := rfl
@[simp] theorem State.modBar_graceMet (s : State) (n : Fin 32) (f : Bar → Bar) : (s.modBar n f).graceMet = s.graceMet := rfl
@[simp] theorem State.modBar_thm (s : State) (n : Fin 32) (f : Bar → Bar) : (s.modBar n f).thm = s.thm := rfl
@[simp] theorem State.modBar_cal (s : State) (n : Fin 32) (f : Bar → Bar) : (s.modBar n f).cal = s.cal := rfl
@[simp] theorem State.modBar_ins (s : State) (n : Fin 32) (f : Bar → Bar) : (s.modBar n f).ins = s.ins := rfl
@[simp] theorem State.modBar_pairs (s : State) (n : Fin 32) (f : Bar → Bar) : (s.modBar n f).pairs = s.pairs := rfl
@[simp] theorem State.modBar_banks (s : State) (n : Fin 32) (f : Bar → Bar) : (s.modBar n f).banks = s.banks := rfl
@[simp] theorem State.modBar_wipe (s : State) (n : Fin 32) (f : Bar → Bar) : (s.modBar n f).wipe = s.wipe := rfl
@[simp] theorem State.modBar_boot (s : State) (n : Fin 32) (f : Bar → Bar) : (s.modBar n f).boot = s.boot := rfl
@[simp] theorem State.modBar_dma (s : State) (n : Fin 32) (f : Bar → Bar) : (s.modBar n f).dma = s.dma := rfl
@[simp] theorem State.modBar_dmaTurn (s : State) (n : Fin 32) (f : Bar → Bar) : (s.modBar n f).dmaTurn = s.dmaTurn := rfl
@[simp] theorem State.modBar_otp (s : State) (n : Fin 32) (f : Bar → Bar) : (s.modBar n f).otp = s.otp := rfl
@[simp] theorem State.modBar_power (s : State) (n : Fin 32) (f : Bar → Bar) : (s.modBar n f).power = s.power := rfl
@[simp] theorem State.modBar_clk (s : State) (n : Fin 32) (f : Bar → Bar) : (s.modBar n f).clk = s.clk := rfl
@[simp] theorem State.modBar_hl (s : State) (n : Fin 32) (f : Bar → Bar) : (s.modBar n f).hl = s.hl := rfl
@[simp] theorem State.modBar_mgt (s : State) (n : Fin 32) (f : Bar → Bar) : (s.modBar n f).mgt = s.mgt := rfl

/-! ## After a change of a calibration instance -/

@[simp] theorem State.modCal_pending (s : State) (x : Fin 417) (f : CalInst → CalInst) : (s.modCal x f).pending = s.pending := rfl
@[simp] theorem State.modCal_fresh (s : State) (x : Fin 417) (f : CalInst → CalInst) : (s.modCal x f).fresh = s.fresh := rfl
@[simp] theorem State.modCal_resp (s : State) (x : Fin 417) (f : CalInst → CalInst) : (s.modCal x f).resp = s.resp := rfl
@[simp] theorem State.modCal_linkOut (s : State) (x : Fin 417) (f : CalInst → CalInst) : (s.modCal x f).linkOut = s.linkOut := rfl
@[simp] theorem State.modCal_now (s : State) (x : Fin 417) (f : CalInst → CalInst) : (s.modCal x f).now = s.now := rfl
@[simp] theorem State.modCal_regs (s : State) (x : Fin 417) (f : CalInst → CalInst) : (s.modCal x f).regs = s.regs := rfl
@[simp] theorem State.modCal_snaps (s : State) (x : Fin 417) (f : CalInst → CalInst) : (s.modCal x f).snaps = s.snaps := rfl
@[simp] theorem State.modCal_mem (s : State) (x : Fin 417) (f : CalInst → CalInst) : (s.modCal x f).mem = s.mem := rfl
@[simp] theorem State.modCal_ceBad (s : State) (x : Fin 417) (f : CalInst → CalInst) : (s.modCal x f).ceBad = s.ceBad := rfl
@[simp] theorem State.modCal_ueBad (s : State) (x : Fin 417) (f : CalInst → CalInst) : (s.modCal x f).ueBad = s.ueBad := rfl
@[simp] theorem State.modCal_vlogLast (s : State) (x : Fin 417) (f : CalInst → CalInst) : (s.modCal x f).vlogLast = s.vlogLast := rfl
@[simp] theorem State.modCal_vlogK (s : State) (x : Fin 417) (f : CalInst → CalInst) : (s.modCal x f).vlogK = s.vlogK := rfl
@[simp] theorem State.modCal_seqRun (s : State) (x : Fin 417) (f : CalInst → CalInst) : (s.modCal x f).seqRun = s.seqRun := rfl
@[simp] theorem State.modCal_grid (s : State) (x : Fin 417) (f : CalInst → CalInst) : (s.modCal x f).grid = s.grid := rfl
@[simp] theorem State.modCal_bars (s : State) (x : Fin 417) (f : CalInst → CalInst) : (s.modCal x f).bars = s.bars := rfl
@[simp] theorem State.modCal_pos (s : State) (x : Fin 417) (f : CalInst → CalInst) : (s.modCal x f).pos = s.pos := rfl
@[simp] theorem State.modCal_xpt (s : State) (x : Fin 417) (f : CalInst → CalInst) : (s.modCal x f).xpt = s.xpt := rfl
@[simp] theorem State.modCal_hkillLow (s : State) (x : Fin 417) (f : CalInst → CalInst) : (s.modCal x f).hkillLow = s.hkillLow := rfl
@[simp] theorem State.modCal_graceSince (s : State) (x : Fin 417) (f : CalInst → CalInst) : (s.modCal x f).graceSince = s.graceSince := rfl
@[simp] theorem State.modCal_graceMet (s : State) (x : Fin 417) (f : CalInst → CalInst) : (s.modCal x f).graceMet = s.graceMet := rfl
@[simp] theorem State.modCal_thm (s : State) (x : Fin 417) (f : CalInst → CalInst) : (s.modCal x f).thm = s.thm := rfl
@[simp] theorem State.modCal_ins (s : State) (x : Fin 417) (f : CalInst → CalInst) : (s.modCal x f).ins = s.ins := rfl
@[simp] theorem State.modCal_pairs (s : State) (x : Fin 417) (f : CalInst → CalInst) : (s.modCal x f).pairs = s.pairs := rfl
@[simp] theorem State.modCal_banks (s : State) (x : Fin 417) (f : CalInst → CalInst) : (s.modCal x f).banks = s.banks := rfl
@[simp] theorem State.modCal_wipe (s : State) (x : Fin 417) (f : CalInst → CalInst) : (s.modCal x f).wipe = s.wipe := rfl
@[simp] theorem State.modCal_boot (s : State) (x : Fin 417) (f : CalInst → CalInst) : (s.modCal x f).boot = s.boot := rfl
@[simp] theorem State.modCal_dma (s : State) (x : Fin 417) (f : CalInst → CalInst) : (s.modCal x f).dma = s.dma := rfl
@[simp] theorem State.modCal_dmaTurn (s : State) (x : Fin 417) (f : CalInst → CalInst) : (s.modCal x f).dmaTurn = s.dmaTurn := rfl
@[simp] theorem State.modCal_otp (s : State) (x : Fin 417) (f : CalInst → CalInst) : (s.modCal x f).otp = s.otp := rfl
@[simp] theorem State.modCal_power (s : State) (x : Fin 417) (f : CalInst → CalInst) : (s.modCal x f).power = s.power := rfl
@[simp] theorem State.modCal_clk (s : State) (x : Fin 417) (f : CalInst → CalInst) : (s.modCal x f).clk = s.clk := rfl
@[simp] theorem State.modCal_hl (s : State) (x : Fin 417) (f : CalInst → CalInst) : (s.modCal x f).hl = s.hl := rfl
@[simp] theorem State.modCal_mgt (s : State) (x : Fin 417) (f : CalInst → CalInst) : (s.modCal x f).mgt = s.mgt := rfl

/-! ## After a change of the transport unit -/

@[simp] theorem State.modXpt_pending (s : State) (f : Xpt → Xpt) : (s.modXpt f).pending = s.pending := rfl
@[simp] theorem State.modXpt_fresh (s : State) (f : Xpt → Xpt) : (s.modXpt f).fresh = s.fresh := rfl
@[simp] theorem State.modXpt_resp (s : State) (f : Xpt → Xpt) : (s.modXpt f).resp = s.resp := rfl
@[simp] theorem State.modXpt_linkOut (s : State) (f : Xpt → Xpt) : (s.modXpt f).linkOut = s.linkOut := rfl
@[simp] theorem State.modXpt_now (s : State) (f : Xpt → Xpt) : (s.modXpt f).now = s.now := rfl
@[simp] theorem State.modXpt_regs (s : State) (f : Xpt → Xpt) : (s.modXpt f).regs = s.regs := rfl
@[simp] theorem State.modXpt_snaps (s : State) (f : Xpt → Xpt) : (s.modXpt f).snaps = s.snaps := rfl
@[simp] theorem State.modXpt_mem (s : State) (f : Xpt → Xpt) : (s.modXpt f).mem = s.mem := rfl
@[simp] theorem State.modXpt_ceBad (s : State) (f : Xpt → Xpt) : (s.modXpt f).ceBad = s.ceBad := rfl
@[simp] theorem State.modXpt_ueBad (s : State) (f : Xpt → Xpt) : (s.modXpt f).ueBad = s.ueBad := rfl
@[simp] theorem State.modXpt_vlogLast (s : State) (f : Xpt → Xpt) : (s.modXpt f).vlogLast = s.vlogLast := rfl
@[simp] theorem State.modXpt_vlogK (s : State) (f : Xpt → Xpt) : (s.modXpt f).vlogK = s.vlogK := rfl
@[simp] theorem State.modXpt_seqRun (s : State) (f : Xpt → Xpt) : (s.modXpt f).seqRun = s.seqRun := rfl
@[simp] theorem State.modXpt_grid (s : State) (f : Xpt → Xpt) : (s.modXpt f).grid = s.grid := rfl
@[simp] theorem State.modXpt_bars (s : State) (f : Xpt → Xpt) : (s.modXpt f).bars = s.bars := rfl
@[simp] theorem State.modXpt_pos (s : State) (f : Xpt → Xpt) : (s.modXpt f).pos = s.pos := rfl
@[simp] theorem State.modXpt_hkillLow (s : State) (f : Xpt → Xpt) : (s.modXpt f).hkillLow = s.hkillLow := rfl
@[simp] theorem State.modXpt_graceSince (s : State) (f : Xpt → Xpt) : (s.modXpt f).graceSince = s.graceSince := rfl
@[simp] theorem State.modXpt_graceMet (s : State) (f : Xpt → Xpt) : (s.modXpt f).graceMet = s.graceMet := rfl
@[simp] theorem State.modXpt_thm (s : State) (f : Xpt → Xpt) : (s.modXpt f).thm = s.thm := rfl
@[simp] theorem State.modXpt_cal (s : State) (f : Xpt → Xpt) : (s.modXpt f).cal = s.cal := rfl
@[simp] theorem State.modXpt_ins (s : State) (f : Xpt → Xpt) : (s.modXpt f).ins = s.ins := rfl
@[simp] theorem State.modXpt_pairs (s : State) (f : Xpt → Xpt) : (s.modXpt f).pairs = s.pairs := rfl
@[simp] theorem State.modXpt_banks (s : State) (f : Xpt → Xpt) : (s.modXpt f).banks = s.banks := rfl
@[simp] theorem State.modXpt_wipe (s : State) (f : Xpt → Xpt) : (s.modXpt f).wipe = s.wipe := rfl
@[simp] theorem State.modXpt_boot (s : State) (f : Xpt → Xpt) : (s.modXpt f).boot = s.boot := rfl
@[simp] theorem State.modXpt_dma (s : State) (f : Xpt → Xpt) : (s.modXpt f).dma = s.dma := rfl
@[simp] theorem State.modXpt_dmaTurn (s : State) (f : Xpt → Xpt) : (s.modXpt f).dmaTurn = s.dmaTurn := rfl
@[simp] theorem State.modXpt_otp (s : State) (f : Xpt → Xpt) : (s.modXpt f).otp = s.otp := rfl
@[simp] theorem State.modXpt_power (s : State) (f : Xpt → Xpt) : (s.modXpt f).power = s.power := rfl
@[simp] theorem State.modXpt_clk (s : State) (f : Xpt → Xpt) : (s.modXpt f).clk = s.clk := rfl
@[simp] theorem State.modXpt_hl (s : State) (f : Xpt → Xpt) : (s.modXpt f).hl = s.hl := rfl
@[simp] theorem State.modXpt_mgt (s : State) (f : Xpt → Xpt) : (s.modXpt f).mgt = s.mgt := rfl

/-! ## After a change of a channel -/

@[simp] theorem State.modChan_pending (s : State) (c : Fin 5) (f : Chan → Chan) : (s.modChan c f).pending = s.pending := rfl
@[simp] theorem State.modChan_fresh (s : State) (c : Fin 5) (f : Chan → Chan) : (s.modChan c f).fresh = s.fresh := rfl
@[simp] theorem State.modChan_resp (s : State) (c : Fin 5) (f : Chan → Chan) : (s.modChan c f).resp = s.resp := rfl
@[simp] theorem State.modChan_linkOut (s : State) (c : Fin 5) (f : Chan → Chan) : (s.modChan c f).linkOut = s.linkOut := rfl
@[simp] theorem State.modChan_now (s : State) (c : Fin 5) (f : Chan → Chan) : (s.modChan c f).now = s.now := rfl
@[simp] theorem State.modChan_regs (s : State) (c : Fin 5) (f : Chan → Chan) : (s.modChan c f).regs = s.regs := rfl
@[simp] theorem State.modChan_snaps (s : State) (c : Fin 5) (f : Chan → Chan) : (s.modChan c f).snaps = s.snaps := rfl
@[simp] theorem State.modChan_mem (s : State) (c : Fin 5) (f : Chan → Chan) : (s.modChan c f).mem = s.mem := rfl
@[simp] theorem State.modChan_ceBad (s : State) (c : Fin 5) (f : Chan → Chan) : (s.modChan c f).ceBad = s.ceBad := rfl
@[simp] theorem State.modChan_ueBad (s : State) (c : Fin 5) (f : Chan → Chan) : (s.modChan c f).ueBad = s.ueBad := rfl
@[simp] theorem State.modChan_vlogLast (s : State) (c : Fin 5) (f : Chan → Chan) : (s.modChan c f).vlogLast = s.vlogLast := rfl
@[simp] theorem State.modChan_vlogK (s : State) (c : Fin 5) (f : Chan → Chan) : (s.modChan c f).vlogK = s.vlogK := rfl
@[simp] theorem State.modChan_seqRun (s : State) (c : Fin 5) (f : Chan → Chan) : (s.modChan c f).seqRun = s.seqRun := rfl
@[simp] theorem State.modChan_grid (s : State) (c : Fin 5) (f : Chan → Chan) : (s.modChan c f).grid = s.grid := rfl
@[simp] theorem State.modChan_bars (s : State) (c : Fin 5) (f : Chan → Chan) : (s.modChan c f).bars = s.bars := rfl
@[simp] theorem State.modChan_xpt (s : State) (c : Fin 5) (f : Chan → Chan) : (s.modChan c f).xpt = s.xpt := rfl
@[simp] theorem State.modChan_hkillLow (s : State) (c : Fin 5) (f : Chan → Chan) : (s.modChan c f).hkillLow = s.hkillLow := rfl
@[simp] theorem State.modChan_graceSince (s : State) (c : Fin 5) (f : Chan → Chan) : (s.modChan c f).graceSince = s.graceSince := rfl
@[simp] theorem State.modChan_graceMet (s : State) (c : Fin 5) (f : Chan → Chan) : (s.modChan c f).graceMet = s.graceMet := rfl
@[simp] theorem State.modChan_thm (s : State) (c : Fin 5) (f : Chan → Chan) : (s.modChan c f).thm = s.thm := rfl
@[simp] theorem State.modChan_cal (s : State) (c : Fin 5) (f : Chan → Chan) : (s.modChan c f).cal = s.cal := rfl
@[simp] theorem State.modChan_ins (s : State) (c : Fin 5) (f : Chan → Chan) : (s.modChan c f).ins = s.ins := rfl
@[simp] theorem State.modChan_pairs (s : State) (c : Fin 5) (f : Chan → Chan) : (s.modChan c f).pairs = s.pairs := rfl
@[simp] theorem State.modChan_banks (s : State) (c : Fin 5) (f : Chan → Chan) : (s.modChan c f).banks = s.banks := rfl
@[simp] theorem State.modChan_wipe (s : State) (c : Fin 5) (f : Chan → Chan) : (s.modChan c f).wipe = s.wipe := rfl
@[simp] theorem State.modChan_boot (s : State) (c : Fin 5) (f : Chan → Chan) : (s.modChan c f).boot = s.boot := rfl
@[simp] theorem State.modChan_dma (s : State) (c : Fin 5) (f : Chan → Chan) : (s.modChan c f).dma = s.dma := rfl
@[simp] theorem State.modChan_dmaTurn (s : State) (c : Fin 5) (f : Chan → Chan) : (s.modChan c f).dmaTurn = s.dmaTurn := rfl
@[simp] theorem State.modChan_otp (s : State) (c : Fin 5) (f : Chan → Chan) : (s.modChan c f).otp = s.otp := rfl
@[simp] theorem State.modChan_power (s : State) (c : Fin 5) (f : Chan → Chan) : (s.modChan c f).power = s.power := rfl
@[simp] theorem State.modChan_clk (s : State) (c : Fin 5) (f : Chan → Chan) : (s.modChan c f).clk = s.clk := rfl
@[simp] theorem State.modChan_hl (s : State) (c : Fin 5) (f : Chan → Chan) : (s.modChan c f).hl = s.hl := rfl
@[simp] theorem State.modChan_mgt (s : State) (c : Fin 5) (f : Chan → Chan) : (s.modChan c f).mgt = s.mgt := rfl

/-! ## After a top-of-form input -/

@[simp] theorem State.setTof_pending (s : State) (t : Fin 4) (x : Tof) : (s.setTof t x).pending = s.pending := rfl
@[simp] theorem State.setTof_fresh (s : State) (t : Fin 4) (x : Tof) : (s.setTof t x).fresh = s.fresh := rfl
@[simp] theorem State.setTof_resp (s : State) (t : Fin 4) (x : Tof) : (s.setTof t x).resp = s.resp := rfl
@[simp] theorem State.setTof_linkOut (s : State) (t : Fin 4) (x : Tof) : (s.setTof t x).linkOut = s.linkOut := rfl
@[simp] theorem State.setTof_now (s : State) (t : Fin 4) (x : Tof) : (s.setTof t x).now = s.now := rfl
@[simp] theorem State.setTof_regs (s : State) (t : Fin 4) (x : Tof) : (s.setTof t x).regs = s.regs := rfl
@[simp] theorem State.setTof_snaps (s : State) (t : Fin 4) (x : Tof) : (s.setTof t x).snaps = s.snaps := rfl
@[simp] theorem State.setTof_mem (s : State) (t : Fin 4) (x : Tof) : (s.setTof t x).mem = s.mem := rfl
@[simp] theorem State.setTof_ceBad (s : State) (t : Fin 4) (x : Tof) : (s.setTof t x).ceBad = s.ceBad := rfl
@[simp] theorem State.setTof_ueBad (s : State) (t : Fin 4) (x : Tof) : (s.setTof t x).ueBad = s.ueBad := rfl
@[simp] theorem State.setTof_vlogLast (s : State) (t : Fin 4) (x : Tof) : (s.setTof t x).vlogLast = s.vlogLast := rfl
@[simp] theorem State.setTof_vlogK (s : State) (t : Fin 4) (x : Tof) : (s.setTof t x).vlogK = s.vlogK := rfl
@[simp] theorem State.setTof_seqRun (s : State) (t : Fin 4) (x : Tof) : (s.setTof t x).seqRun = s.seqRun := rfl
@[simp] theorem State.setTof_grid (s : State) (t : Fin 4) (x : Tof) : (s.setTof t x).grid = s.grid := rfl
@[simp] theorem State.setTof_bars (s : State) (t : Fin 4) (x : Tof) : (s.setTof t x).bars = s.bars := rfl
@[simp] theorem State.setTof_xpt (s : State) (t : Fin 4) (x : Tof) : (s.setTof t x).xpt = s.xpt := rfl
@[simp] theorem State.setTof_hkillLow (s : State) (t : Fin 4) (x : Tof) : (s.setTof t x).hkillLow = s.hkillLow := rfl
@[simp] theorem State.setTof_graceSince (s : State) (t : Fin 4) (x : Tof) : (s.setTof t x).graceSince = s.graceSince := rfl
@[simp] theorem State.setTof_graceMet (s : State) (t : Fin 4) (x : Tof) : (s.setTof t x).graceMet = s.graceMet := rfl
@[simp] theorem State.setTof_thm (s : State) (t : Fin 4) (x : Tof) : (s.setTof t x).thm = s.thm := rfl
@[simp] theorem State.setTof_cal (s : State) (t : Fin 4) (x : Tof) : (s.setTof t x).cal = s.cal := rfl
@[simp] theorem State.setTof_ins (s : State) (t : Fin 4) (x : Tof) : (s.setTof t x).ins = s.ins := rfl
@[simp] theorem State.setTof_pairs (s : State) (t : Fin 4) (x : Tof) : (s.setTof t x).pairs = s.pairs := rfl
@[simp] theorem State.setTof_banks (s : State) (t : Fin 4) (x : Tof) : (s.setTof t x).banks = s.banks := rfl
@[simp] theorem State.setTof_wipe (s : State) (t : Fin 4) (x : Tof) : (s.setTof t x).wipe = s.wipe := rfl
@[simp] theorem State.setTof_boot (s : State) (t : Fin 4) (x : Tof) : (s.setTof t x).boot = s.boot := rfl
@[simp] theorem State.setTof_dma (s : State) (t : Fin 4) (x : Tof) : (s.setTof t x).dma = s.dma := rfl
@[simp] theorem State.setTof_dmaTurn (s : State) (t : Fin 4) (x : Tof) : (s.setTof t x).dmaTurn = s.dmaTurn := rfl
@[simp] theorem State.setTof_otp (s : State) (t : Fin 4) (x : Tof) : (s.setTof t x).otp = s.otp := rfl
@[simp] theorem State.setTof_power (s : State) (t : Fin 4) (x : Tof) : (s.setTof t x).power = s.power := rfl
@[simp] theorem State.setTof_clk (s : State) (t : Fin 4) (x : Tof) : (s.setTof t x).clk = s.clk := rfl
@[simp] theorem State.setTof_hl (s : State) (t : Fin 4) (x : Tof) : (s.setTof t x).hl = s.hl := rfl
@[simp] theorem State.setTof_mgt (s : State) (t : Fin 4) (x : Tof) : (s.setTof t x).mgt = s.mgt := rfl

/-! ## After a change of a camera port -/

@[simp] theorem State.modCam_pending (s : State) (p : Fin 4) (f : CamPort → CamPort) : (s.modCam p f).pending = s.pending := rfl
@[simp] theorem State.modCam_fresh (s : State) (p : Fin 4) (f : CamPort → CamPort) : (s.modCam p f).fresh = s.fresh := rfl
@[simp] theorem State.modCam_resp (s : State) (p : Fin 4) (f : CamPort → CamPort) : (s.modCam p f).resp = s.resp := rfl
@[simp] theorem State.modCam_linkOut (s : State) (p : Fin 4) (f : CamPort → CamPort) : (s.modCam p f).linkOut = s.linkOut := rfl
@[simp] theorem State.modCam_now (s : State) (p : Fin 4) (f : CamPort → CamPort) : (s.modCam p f).now = s.now := rfl
@[simp] theorem State.modCam_regs (s : State) (p : Fin 4) (f : CamPort → CamPort) : (s.modCam p f).regs = s.regs := rfl
@[simp] theorem State.modCam_snaps (s : State) (p : Fin 4) (f : CamPort → CamPort) : (s.modCam p f).snaps = s.snaps := rfl
@[simp] theorem State.modCam_mem (s : State) (p : Fin 4) (f : CamPort → CamPort) : (s.modCam p f).mem = s.mem := rfl
@[simp] theorem State.modCam_ceBad (s : State) (p : Fin 4) (f : CamPort → CamPort) : (s.modCam p f).ceBad = s.ceBad := rfl
@[simp] theorem State.modCam_ueBad (s : State) (p : Fin 4) (f : CamPort → CamPort) : (s.modCam p f).ueBad = s.ueBad := rfl
@[simp] theorem State.modCam_vlogLast (s : State) (p : Fin 4) (f : CamPort → CamPort) : (s.modCam p f).vlogLast = s.vlogLast := rfl
@[simp] theorem State.modCam_vlogK (s : State) (p : Fin 4) (f : CamPort → CamPort) : (s.modCam p f).vlogK = s.vlogK := rfl
@[simp] theorem State.modCam_seqRun (s : State) (p : Fin 4) (f : CamPort → CamPort) : (s.modCam p f).seqRun = s.seqRun := rfl
@[simp] theorem State.modCam_grid (s : State) (p : Fin 4) (f : CamPort → CamPort) : (s.modCam p f).grid = s.grid := rfl
@[simp] theorem State.modCam_bars (s : State) (p : Fin 4) (f : CamPort → CamPort) : (s.modCam p f).bars = s.bars := rfl
@[simp] theorem State.modCam_pos (s : State) (p : Fin 4) (f : CamPort → CamPort) : (s.modCam p f).pos = s.pos := rfl
@[simp] theorem State.modCam_xpt (s : State) (p : Fin 4) (f : CamPort → CamPort) : (s.modCam p f).xpt = s.xpt := rfl
@[simp] theorem State.modCam_hkillLow (s : State) (p : Fin 4) (f : CamPort → CamPort) : (s.modCam p f).hkillLow = s.hkillLow := rfl
@[simp] theorem State.modCam_graceSince (s : State) (p : Fin 4) (f : CamPort → CamPort) : (s.modCam p f).graceSince = s.graceSince := rfl
@[simp] theorem State.modCam_graceMet (s : State) (p : Fin 4) (f : CamPort → CamPort) : (s.modCam p f).graceMet = s.graceMet := rfl
@[simp] theorem State.modCam_thm (s : State) (p : Fin 4) (f : CamPort → CamPort) : (s.modCam p f).thm = s.thm := rfl
@[simp] theorem State.modCam_cal (s : State) (p : Fin 4) (f : CamPort → CamPort) : (s.modCam p f).cal = s.cal := rfl
@[simp] theorem State.modCam_pairs (s : State) (p : Fin 4) (f : CamPort → CamPort) : (s.modCam p f).pairs = s.pairs := rfl
@[simp] theorem State.modCam_banks (s : State) (p : Fin 4) (f : CamPort → CamPort) : (s.modCam p f).banks = s.banks := rfl
@[simp] theorem State.modCam_wipe (s : State) (p : Fin 4) (f : CamPort → CamPort) : (s.modCam p f).wipe = s.wipe := rfl
@[simp] theorem State.modCam_boot (s : State) (p : Fin 4) (f : CamPort → CamPort) : (s.modCam p f).boot = s.boot := rfl
@[simp] theorem State.modCam_dma (s : State) (p : Fin 4) (f : CamPort → CamPort) : (s.modCam p f).dma = s.dma := rfl
@[simp] theorem State.modCam_dmaTurn (s : State) (p : Fin 4) (f : CamPort → CamPort) : (s.modCam p f).dmaTurn = s.dmaTurn := rfl
@[simp] theorem State.modCam_otp (s : State) (p : Fin 4) (f : CamPort → CamPort) : (s.modCam p f).otp = s.otp := rfl
@[simp] theorem State.modCam_power (s : State) (p : Fin 4) (f : CamPort → CamPort) : (s.modCam p f).power = s.power := rfl
@[simp] theorem State.modCam_clk (s : State) (p : Fin 4) (f : CamPort → CamPort) : (s.modCam p f).clk = s.clk := rfl
@[simp] theorem State.modCam_hl (s : State) (p : Fin 4) (f : CamPort → CamPort) : (s.modCam p f).hl = s.hl := rfl
@[simp] theorem State.modCam_mgt (s : State) (p : Fin 4) (f : CamPort → CamPort) : (s.modCam p f).mgt = s.mgt := rfl

/-! ## After a change of a pair -/

@[simp] theorem State.modPair_pending (s : State) (j : Fin 4) (f : Pair → Pair) : (s.modPair j f).pending = s.pending := rfl
@[simp] theorem State.modPair_fresh (s : State) (j : Fin 4) (f : Pair → Pair) : (s.modPair j f).fresh = s.fresh := rfl
@[simp] theorem State.modPair_resp (s : State) (j : Fin 4) (f : Pair → Pair) : (s.modPair j f).resp = s.resp := rfl
@[simp] theorem State.modPair_linkOut (s : State) (j : Fin 4) (f : Pair → Pair) : (s.modPair j f).linkOut = s.linkOut := rfl
@[simp] theorem State.modPair_now (s : State) (j : Fin 4) (f : Pair → Pair) : (s.modPair j f).now = s.now := rfl
@[simp] theorem State.modPair_regs (s : State) (j : Fin 4) (f : Pair → Pair) : (s.modPair j f).regs = s.regs := rfl
@[simp] theorem State.modPair_snaps (s : State) (j : Fin 4) (f : Pair → Pair) : (s.modPair j f).snaps = s.snaps := rfl
@[simp] theorem State.modPair_mem (s : State) (j : Fin 4) (f : Pair → Pair) : (s.modPair j f).mem = s.mem := rfl
@[simp] theorem State.modPair_ceBad (s : State) (j : Fin 4) (f : Pair → Pair) : (s.modPair j f).ceBad = s.ceBad := rfl
@[simp] theorem State.modPair_ueBad (s : State) (j : Fin 4) (f : Pair → Pair) : (s.modPair j f).ueBad = s.ueBad := rfl
@[simp] theorem State.modPair_vlogLast (s : State) (j : Fin 4) (f : Pair → Pair) : (s.modPair j f).vlogLast = s.vlogLast := rfl
@[simp] theorem State.modPair_vlogK (s : State) (j : Fin 4) (f : Pair → Pair) : (s.modPair j f).vlogK = s.vlogK := rfl
@[simp] theorem State.modPair_seqRun (s : State) (j : Fin 4) (f : Pair → Pair) : (s.modPair j f).seqRun = s.seqRun := rfl
@[simp] theorem State.modPair_grid (s : State) (j : Fin 4) (f : Pair → Pair) : (s.modPair j f).grid = s.grid := rfl
@[simp] theorem State.modPair_bars (s : State) (j : Fin 4) (f : Pair → Pair) : (s.modPair j f).bars = s.bars := rfl
@[simp] theorem State.modPair_pos (s : State) (j : Fin 4) (f : Pair → Pair) : (s.modPair j f).pos = s.pos := rfl
@[simp] theorem State.modPair_xpt (s : State) (j : Fin 4) (f : Pair → Pair) : (s.modPair j f).xpt = s.xpt := rfl
@[simp] theorem State.modPair_hkillLow (s : State) (j : Fin 4) (f : Pair → Pair) : (s.modPair j f).hkillLow = s.hkillLow := rfl
@[simp] theorem State.modPair_graceSince (s : State) (j : Fin 4) (f : Pair → Pair) : (s.modPair j f).graceSince = s.graceSince := rfl
@[simp] theorem State.modPair_graceMet (s : State) (j : Fin 4) (f : Pair → Pair) : (s.modPair j f).graceMet = s.graceMet := rfl
@[simp] theorem State.modPair_thm (s : State) (j : Fin 4) (f : Pair → Pair) : (s.modPair j f).thm = s.thm := rfl
@[simp] theorem State.modPair_cal (s : State) (j : Fin 4) (f : Pair → Pair) : (s.modPair j f).cal = s.cal := rfl
@[simp] theorem State.modPair_ins (s : State) (j : Fin 4) (f : Pair → Pair) : (s.modPair j f).ins = s.ins := rfl
@[simp] theorem State.modPair_banks (s : State) (j : Fin 4) (f : Pair → Pair) : (s.modPair j f).banks = s.banks := rfl
@[simp] theorem State.modPair_wipe (s : State) (j : Fin 4) (f : Pair → Pair) : (s.modPair j f).wipe = s.wipe := rfl
@[simp] theorem State.modPair_boot (s : State) (j : Fin 4) (f : Pair → Pair) : (s.modPair j f).boot = s.boot := rfl
@[simp] theorem State.modPair_dma (s : State) (j : Fin 4) (f : Pair → Pair) : (s.modPair j f).dma = s.dma := rfl
@[simp] theorem State.modPair_dmaTurn (s : State) (j : Fin 4) (f : Pair → Pair) : (s.modPair j f).dmaTurn = s.dmaTurn := rfl
@[simp] theorem State.modPair_otp (s : State) (j : Fin 4) (f : Pair → Pair) : (s.modPair j f).otp = s.otp := rfl
@[simp] theorem State.modPair_power (s : State) (j : Fin 4) (f : Pair → Pair) : (s.modPair j f).power = s.power := rfl
@[simp] theorem State.modPair_clk (s : State) (j : Fin 4) (f : Pair → Pair) : (s.modPair j f).clk = s.clk := rfl
@[simp] theorem State.modPair_hl (s : State) (j : Fin 4) (f : Pair → Pair) : (s.modPair j f).hl = s.hl := rfl
@[simp] theorem State.modPair_mgt (s : State) (j : Fin 4) (f : Pair → Pair) : (s.modPair j f).mgt = s.mgt := rfl

/-! ## After a change of a bank -/

@[simp] theorem State.modBank_pending (s : State) (b : Fin 116) (f : BankS → BankS) : (s.modBank b f).pending = s.pending := rfl
@[simp] theorem State.modBank_fresh (s : State) (b : Fin 116) (f : BankS → BankS) : (s.modBank b f).fresh = s.fresh := rfl
@[simp] theorem State.modBank_resp (s : State) (b : Fin 116) (f : BankS → BankS) : (s.modBank b f).resp = s.resp := rfl
@[simp] theorem State.modBank_linkOut (s : State) (b : Fin 116) (f : BankS → BankS) : (s.modBank b f).linkOut = s.linkOut := rfl
@[simp] theorem State.modBank_now (s : State) (b : Fin 116) (f : BankS → BankS) : (s.modBank b f).now = s.now := rfl
@[simp] theorem State.modBank_regs (s : State) (b : Fin 116) (f : BankS → BankS) : (s.modBank b f).regs = s.regs := rfl
@[simp] theorem State.modBank_snaps (s : State) (b : Fin 116) (f : BankS → BankS) : (s.modBank b f).snaps = s.snaps := rfl
@[simp] theorem State.modBank_mem (s : State) (b : Fin 116) (f : BankS → BankS) : (s.modBank b f).mem = s.mem := rfl
@[simp] theorem State.modBank_ceBad (s : State) (b : Fin 116) (f : BankS → BankS) : (s.modBank b f).ceBad = s.ceBad := rfl
@[simp] theorem State.modBank_ueBad (s : State) (b : Fin 116) (f : BankS → BankS) : (s.modBank b f).ueBad = s.ueBad := rfl
@[simp] theorem State.modBank_vlogLast (s : State) (b : Fin 116) (f : BankS → BankS) : (s.modBank b f).vlogLast = s.vlogLast := rfl
@[simp] theorem State.modBank_vlogK (s : State) (b : Fin 116) (f : BankS → BankS) : (s.modBank b f).vlogK = s.vlogK := rfl
@[simp] theorem State.modBank_seqRun (s : State) (b : Fin 116) (f : BankS → BankS) : (s.modBank b f).seqRun = s.seqRun := rfl
@[simp] theorem State.modBank_grid (s : State) (b : Fin 116) (f : BankS → BankS) : (s.modBank b f).grid = s.grid := rfl
@[simp] theorem State.modBank_bars (s : State) (b : Fin 116) (f : BankS → BankS) : (s.modBank b f).bars = s.bars := rfl
@[simp] theorem State.modBank_pos (s : State) (b : Fin 116) (f : BankS → BankS) : (s.modBank b f).pos = s.pos := rfl
@[simp] theorem State.modBank_xpt (s : State) (b : Fin 116) (f : BankS → BankS) : (s.modBank b f).xpt = s.xpt := rfl
@[simp] theorem State.modBank_hkillLow (s : State) (b : Fin 116) (f : BankS → BankS) : (s.modBank b f).hkillLow = s.hkillLow := rfl
@[simp] theorem State.modBank_graceSince (s : State) (b : Fin 116) (f : BankS → BankS) : (s.modBank b f).graceSince = s.graceSince := rfl
@[simp] theorem State.modBank_graceMet (s : State) (b : Fin 116) (f : BankS → BankS) : (s.modBank b f).graceMet = s.graceMet := rfl
@[simp] theorem State.modBank_thm (s : State) (b : Fin 116) (f : BankS → BankS) : (s.modBank b f).thm = s.thm := rfl
@[simp] theorem State.modBank_cal (s : State) (b : Fin 116) (f : BankS → BankS) : (s.modBank b f).cal = s.cal := rfl
@[simp] theorem State.modBank_ins (s : State) (b : Fin 116) (f : BankS → BankS) : (s.modBank b f).ins = s.ins := rfl
@[simp] theorem State.modBank_pairs (s : State) (b : Fin 116) (f : BankS → BankS) : (s.modBank b f).pairs = s.pairs := rfl
@[simp] theorem State.modBank_wipe (s : State) (b : Fin 116) (f : BankS → BankS) : (s.modBank b f).wipe = s.wipe := rfl
@[simp] theorem State.modBank_boot (s : State) (b : Fin 116) (f : BankS → BankS) : (s.modBank b f).boot = s.boot := rfl
@[simp] theorem State.modBank_dma (s : State) (b : Fin 116) (f : BankS → BankS) : (s.modBank b f).dma = s.dma := rfl
@[simp] theorem State.modBank_dmaTurn (s : State) (b : Fin 116) (f : BankS → BankS) : (s.modBank b f).dmaTurn = s.dmaTurn := rfl
@[simp] theorem State.modBank_otp (s : State) (b : Fin 116) (f : BankS → BankS) : (s.modBank b f).otp = s.otp := rfl
@[simp] theorem State.modBank_power (s : State) (b : Fin 116) (f : BankS → BankS) : (s.modBank b f).power = s.power := rfl
@[simp] theorem State.modBank_clk (s : State) (b : Fin 116) (f : BankS → BankS) : (s.modBank b f).clk = s.clk := rfl
@[simp] theorem State.modBank_hl (s : State) (b : Fin 116) (f : BankS → BankS) : (s.modBank b f).hl = s.hl := rfl
@[simp] theorem State.modBank_mgt (s : State) (b : Fin 116) (f : BankS → BankS) : (s.modBank b f).mgt = s.mgt := rfl

/-! ## After a change of a DMA channel -/

@[simp] theorem State.modDch_pending (s : State) (c : Fin 48) (f : DmaChan → DmaChan) : (s.modDch c f).pending = s.pending := rfl
@[simp] theorem State.modDch_fresh (s : State) (c : Fin 48) (f : DmaChan → DmaChan) : (s.modDch c f).fresh = s.fresh := rfl
@[simp] theorem State.modDch_resp (s : State) (c : Fin 48) (f : DmaChan → DmaChan) : (s.modDch c f).resp = s.resp := rfl
@[simp] theorem State.modDch_linkOut (s : State) (c : Fin 48) (f : DmaChan → DmaChan) : (s.modDch c f).linkOut = s.linkOut := rfl
@[simp] theorem State.modDch_now (s : State) (c : Fin 48) (f : DmaChan → DmaChan) : (s.modDch c f).now = s.now := rfl
@[simp] theorem State.modDch_regs (s : State) (c : Fin 48) (f : DmaChan → DmaChan) : (s.modDch c f).regs = s.regs := rfl
@[simp] theorem State.modDch_snaps (s : State) (c : Fin 48) (f : DmaChan → DmaChan) : (s.modDch c f).snaps = s.snaps := rfl
@[simp] theorem State.modDch_mem (s : State) (c : Fin 48) (f : DmaChan → DmaChan) : (s.modDch c f).mem = s.mem := rfl
@[simp] theorem State.modDch_ceBad (s : State) (c : Fin 48) (f : DmaChan → DmaChan) : (s.modDch c f).ceBad = s.ceBad := rfl
@[simp] theorem State.modDch_ueBad (s : State) (c : Fin 48) (f : DmaChan → DmaChan) : (s.modDch c f).ueBad = s.ueBad := rfl
@[simp] theorem State.modDch_vlogLast (s : State) (c : Fin 48) (f : DmaChan → DmaChan) : (s.modDch c f).vlogLast = s.vlogLast := rfl
@[simp] theorem State.modDch_vlogK (s : State) (c : Fin 48) (f : DmaChan → DmaChan) : (s.modDch c f).vlogK = s.vlogK := rfl
@[simp] theorem State.modDch_seqRun (s : State) (c : Fin 48) (f : DmaChan → DmaChan) : (s.modDch c f).seqRun = s.seqRun := rfl
@[simp] theorem State.modDch_grid (s : State) (c : Fin 48) (f : DmaChan → DmaChan) : (s.modDch c f).grid = s.grid := rfl
@[simp] theorem State.modDch_bars (s : State) (c : Fin 48) (f : DmaChan → DmaChan) : (s.modDch c f).bars = s.bars := rfl
@[simp] theorem State.modDch_pos (s : State) (c : Fin 48) (f : DmaChan → DmaChan) : (s.modDch c f).pos = s.pos := rfl
@[simp] theorem State.modDch_xpt (s : State) (c : Fin 48) (f : DmaChan → DmaChan) : (s.modDch c f).xpt = s.xpt := rfl
@[simp] theorem State.modDch_hkillLow (s : State) (c : Fin 48) (f : DmaChan → DmaChan) : (s.modDch c f).hkillLow = s.hkillLow := rfl
@[simp] theorem State.modDch_graceSince (s : State) (c : Fin 48) (f : DmaChan → DmaChan) : (s.modDch c f).graceSince = s.graceSince := rfl
@[simp] theorem State.modDch_graceMet (s : State) (c : Fin 48) (f : DmaChan → DmaChan) : (s.modDch c f).graceMet = s.graceMet := rfl
@[simp] theorem State.modDch_thm (s : State) (c : Fin 48) (f : DmaChan → DmaChan) : (s.modDch c f).thm = s.thm := rfl
@[simp] theorem State.modDch_cal (s : State) (c : Fin 48) (f : DmaChan → DmaChan) : (s.modDch c f).cal = s.cal := rfl
@[simp] theorem State.modDch_ins (s : State) (c : Fin 48) (f : DmaChan → DmaChan) : (s.modDch c f).ins = s.ins := rfl
@[simp] theorem State.modDch_pairs (s : State) (c : Fin 48) (f : DmaChan → DmaChan) : (s.modDch c f).pairs = s.pairs := rfl
@[simp] theorem State.modDch_banks (s : State) (c : Fin 48) (f : DmaChan → DmaChan) : (s.modDch c f).banks = s.banks := rfl
@[simp] theorem State.modDch_wipe (s : State) (c : Fin 48) (f : DmaChan → DmaChan) : (s.modDch c f).wipe = s.wipe := rfl
@[simp] theorem State.modDch_boot (s : State) (c : Fin 48) (f : DmaChan → DmaChan) : (s.modDch c f).boot = s.boot := rfl
@[simp] theorem State.modDch_dmaTurn (s : State) (c : Fin 48) (f : DmaChan → DmaChan) : (s.modDch c f).dmaTurn = s.dmaTurn := rfl
@[simp] theorem State.modDch_otp (s : State) (c : Fin 48) (f : DmaChan → DmaChan) : (s.modDch c f).otp = s.otp := rfl
@[simp] theorem State.modDch_power (s : State) (c : Fin 48) (f : DmaChan → DmaChan) : (s.modDch c f).power = s.power := rfl
@[simp] theorem State.modDch_clk (s : State) (c : Fin 48) (f : DmaChan → DmaChan) : (s.modDch c f).clk = s.clk := rfl
@[simp] theorem State.modDch_hl (s : State) (c : Fin 48) (f : DmaChan → DmaChan) : (s.modDch c f).hl = s.hl := rfl
@[simp] theorem State.modDch_mgt (s : State) (c : Fin 48) (f : DmaChan → DmaChan) : (s.modDch c f).mgt = s.mgt := rfl

/-! ## After a change of a temperature channel -/

@[simp] theorem State.modThc_pending (s : State) (ch : Fin 260) (f : ThmChan → ThmChan) : (s.modThc ch f).pending = s.pending := rfl
@[simp] theorem State.modThc_fresh (s : State) (ch : Fin 260) (f : ThmChan → ThmChan) : (s.modThc ch f).fresh = s.fresh := rfl
@[simp] theorem State.modThc_resp (s : State) (ch : Fin 260) (f : ThmChan → ThmChan) : (s.modThc ch f).resp = s.resp := rfl
@[simp] theorem State.modThc_linkOut (s : State) (ch : Fin 260) (f : ThmChan → ThmChan) : (s.modThc ch f).linkOut = s.linkOut := rfl
@[simp] theorem State.modThc_now (s : State) (ch : Fin 260) (f : ThmChan → ThmChan) : (s.modThc ch f).now = s.now := rfl
@[simp] theorem State.modThc_regs (s : State) (ch : Fin 260) (f : ThmChan → ThmChan) : (s.modThc ch f).regs = s.regs := rfl
@[simp] theorem State.modThc_snaps (s : State) (ch : Fin 260) (f : ThmChan → ThmChan) : (s.modThc ch f).snaps = s.snaps := rfl
@[simp] theorem State.modThc_mem (s : State) (ch : Fin 260) (f : ThmChan → ThmChan) : (s.modThc ch f).mem = s.mem := rfl
@[simp] theorem State.modThc_ceBad (s : State) (ch : Fin 260) (f : ThmChan → ThmChan) : (s.modThc ch f).ceBad = s.ceBad := rfl
@[simp] theorem State.modThc_ueBad (s : State) (ch : Fin 260) (f : ThmChan → ThmChan) : (s.modThc ch f).ueBad = s.ueBad := rfl
@[simp] theorem State.modThc_vlogLast (s : State) (ch : Fin 260) (f : ThmChan → ThmChan) : (s.modThc ch f).vlogLast = s.vlogLast := rfl
@[simp] theorem State.modThc_vlogK (s : State) (ch : Fin 260) (f : ThmChan → ThmChan) : (s.modThc ch f).vlogK = s.vlogK := rfl
@[simp] theorem State.modThc_seqRun (s : State) (ch : Fin 260) (f : ThmChan → ThmChan) : (s.modThc ch f).seqRun = s.seqRun := rfl
@[simp] theorem State.modThc_grid (s : State) (ch : Fin 260) (f : ThmChan → ThmChan) : (s.modThc ch f).grid = s.grid := rfl
@[simp] theorem State.modThc_bars (s : State) (ch : Fin 260) (f : ThmChan → ThmChan) : (s.modThc ch f).bars = s.bars := rfl
@[simp] theorem State.modThc_pos (s : State) (ch : Fin 260) (f : ThmChan → ThmChan) : (s.modThc ch f).pos = s.pos := rfl
@[simp] theorem State.modThc_xpt (s : State) (ch : Fin 260) (f : ThmChan → ThmChan) : (s.modThc ch f).xpt = s.xpt := rfl
@[simp] theorem State.modThc_hkillLow (s : State) (ch : Fin 260) (f : ThmChan → ThmChan) : (s.modThc ch f).hkillLow = s.hkillLow := rfl
@[simp] theorem State.modThc_graceSince (s : State) (ch : Fin 260) (f : ThmChan → ThmChan) : (s.modThc ch f).graceSince = s.graceSince := rfl
@[simp] theorem State.modThc_graceMet (s : State) (ch : Fin 260) (f : ThmChan → ThmChan) : (s.modThc ch f).graceMet = s.graceMet := rfl
@[simp] theorem State.modThc_cal (s : State) (ch : Fin 260) (f : ThmChan → ThmChan) : (s.modThc ch f).cal = s.cal := rfl
@[simp] theorem State.modThc_ins (s : State) (ch : Fin 260) (f : ThmChan → ThmChan) : (s.modThc ch f).ins = s.ins := rfl
@[simp] theorem State.modThc_pairs (s : State) (ch : Fin 260) (f : ThmChan → ThmChan) : (s.modThc ch f).pairs = s.pairs := rfl
@[simp] theorem State.modThc_banks (s : State) (ch : Fin 260) (f : ThmChan → ThmChan) : (s.modThc ch f).banks = s.banks := rfl
@[simp] theorem State.modThc_wipe (s : State) (ch : Fin 260) (f : ThmChan → ThmChan) : (s.modThc ch f).wipe = s.wipe := rfl
@[simp] theorem State.modThc_boot (s : State) (ch : Fin 260) (f : ThmChan → ThmChan) : (s.modThc ch f).boot = s.boot := rfl
@[simp] theorem State.modThc_dma (s : State) (ch : Fin 260) (f : ThmChan → ThmChan) : (s.modThc ch f).dma = s.dma := rfl
@[simp] theorem State.modThc_dmaTurn (s : State) (ch : Fin 260) (f : ThmChan → ThmChan) : (s.modThc ch f).dmaTurn = s.dmaTurn := rfl
@[simp] theorem State.modThc_otp (s : State) (ch : Fin 260) (f : ThmChan → ThmChan) : (s.modThc ch f).otp = s.otp := rfl
@[simp] theorem State.modThc_power (s : State) (ch : Fin 260) (f : ThmChan → ThmChan) : (s.modThc ch f).power = s.power := rfl
@[simp] theorem State.modThc_clk (s : State) (ch : Fin 260) (f : ThmChan → ThmChan) : (s.modThc ch f).clk = s.clk := rfl
@[simp] theorem State.modThc_hl (s : State) (ch : Fin 260) (f : ThmChan → ThmChan) : (s.modThc ch f).hl = s.hl := rfl
@[simp] theorem State.modThc_mgt (s : State) (ch : Fin 260) (f : ThmChan → ThmChan) : (s.modThc ch f).mgt = s.mgt := rfl

/-! ## Registers and fields -/

/-- A register word reads what was stored in it; every other is as before. -/
theorem State.reg_setReg (s : State) (a b : Nat) (w : Word) :
    (s.setReg a w).reg b = if b = a then w else s.reg b := Cells.get_set resetWord s.regs a b w

@[simp] theorem State.reg_setReg_same (s : State) (a : Nat) (w : Word) : (s.setReg a w).reg a = w := by
  rw [State.reg_setReg]; simp

theorem State.reg_setReg_other (s : State) {a b : Nat} (w : Word) (h : b ≠ a) : (s.setReg a w).reg b = s.reg b := by
  rw [State.reg_setReg]; simp [h]

/-- The word of a register after a field of one is stored. -/
theorem State.reg_put (s : State) (f : Field) (v a : Nat) :
    (s.put f v).reg a = if a = f.off then Word.insert (s.reg f.off) f.lo f.w v else s.reg a :=
  State.reg_setReg s f.off a _

/-- A field reads what was stored in it, modulo its width. -/
@[simp] theorem State.g_put_same (s : State) (f : Field) (v : Nat) (h : f.lo + f.w ≤ 32) :
    (s.put f v).g f = v % 2 ^ f.w := by
  unfold State.g
  rw [State.reg_put]
  simp [h]

/-- A field of another register is as before. -/
theorem State.g_put_other (s : State) (f e : Field) (v : Nat) (h : e.off ≠ f.off) : (s.put f v).g e = s.g e := by
  unfold State.g
  rw [State.reg_put]
  simp [h]

/-- A field of the same register that lies apart is as before. -/
theorem State.g_put_apart (s : State) (f e : Field) (v : Nat) (h : f.lo + f.w ≤ 32)
    (hd : e.lo + e.w ≤ f.lo ∨ f.lo + f.w ≤ e.lo) : (s.put f v).g e = s.g e := by
  by_cases ho : e.off = f.off
  · unfold State.g
    rw [State.reg_put, if_pos ho, ho]
    rcases hd with hd | hd
    · exact Word.field_insert_below _ _ _ _ _ _ h hd
    · exact Word.field_insert_above _ _ _ _ _ _ h hd
  · exact State.g_put_other s f e v ho

/-- A counter after a count: one more, held at its largest value. -/
theorem State.g_bump (s : State) (f : Field) (h : f.lo + f.w ≤ 32) :
    (s.bump f).g f = min (s.g f + 1) (2 ^ f.w - 1) := by
  unfold State.bump State.bumpBy
  rw [State.g_put_same _ _ _ h, Nat.mod_eq_of_lt]
  have : 0 < 2 ^ f.w := by positivity
  omega

/-- A one-bit field that was set to 1 is set. -/
@[simp] theorem State.bit_put_one (s : State) (f : Field) (h : f.lo + 1 ≤ 32) (hw : f.w = 1) :
    (s.put f 1).bit f = true := by
  unfold State.bit
  rw [State.g_put_same s f 1 (by omega), hw]
  rfl

/-! ## Memory -/

/-- A byte of memory reads what was stored in it; every other is as before. -/
theorem State.byteAt_setByte (s : State) (a x : Nat) (b : Byte) :
    (s.setByte a b).byteAt x = if x = a then b else s.byteAt x := Cells.get_set memDefault s.mem a x b

/-- Bytes stored at consecutive offsets leave every byte outside them alone. -/
theorem State.byteAt_setBytes_other (s : State) (a x : Nat) (bs : List Byte) (h : x < a ∨ a + bs.length ≤ x) :
    (s.setBytes a bs).byteAt x = s.byteAt x := by
  induction bs generalizing s a with
  | nil => rfl
  | cons b r ih =>
    simp only [List.length_cons] at h
    rw [State.setBytes, ih _ _ (by omega), State.byteAt_setByte, if_neg (by omega)]

/-- Bytes stored at consecutive offsets read back in their order. -/
theorem State.byteAt_setBytes_same (s : State) (a i : Nat) (bs : List Byte) (h : i < bs.length) :
    (s.setBytes a bs).byteAt (a + i) = bs[i] := by
  induction bs generalizing s a i with
  | nil => simp at h
  | cons b r ih =>
    cases i with
    | zero =>
      rw [State.setBytes, State.byteAt_setBytes_other _ _ _ _ (by omega), State.byteAt_setByte]
      simp
    | succ i =>
      simp only [List.length_cons] at h
      rw [State.setBytes, show a + (i + 1) = a + 1 + i by omega, ih _ _ _ (by omega)]
      simp

/-- Reading many bytes after storing them gives them back. -/
theorem State.bytesAt_setBytes (s : State) (a : Nat) (bs : List Byte) :
    (s.setBytes a bs).bytesAt a bs.length = bs := by
  induction bs generalizing s a with
  | nil => rfl
  | cons b r ih =>
    rw [State.setBytes, List.length_cons, State.bytesAt, ih, State.byteAt_setBytes_other _ _ _ _ (by omega),
      State.byteAt_setByte]
    simp

/-! ## Parts of the state that are kept in vectors -/

@[simp] theorem State.bar_modBar_same (s : State) (n : Fin 32) (f : Bar → Bar) :
    (s.modBar n f).bar n = f (s.bar n) := by
  simp [State.modBar, State.setBar, State.bar]

theorem State.bar_modBar_other (s : State) {n m : Fin 32} (f : Bar → Bar) (h : m ≠ n) :
    (s.modBar n f).bar m = s.bar m := by
  simp only [State.modBar, State.setBar, State.bar, Fin.getElem_fin]
  exact Vector.getElem_set_ne _ _ fun e => h (Fin.ext e.symm)

@[simp] theorem State.pair_modPair_same (s : State) (j : Fin 4) (f : Pair → Pair) :
    (s.modPair j f).pair j = f (s.pair j) := by
  simp [State.modPair, State.pair]

theorem State.pair_modPair_other (s : State) {j k : Fin 4} (f : Pair → Pair) (h : k ≠ j) :
    (s.modPair j f).pair k = s.pair k := by
  simp only [State.modPair, State.pair, Fin.getElem_fin]
  exact Vector.getElem_set_ne _ _ fun e => h (Fin.ext e.symm)

@[simp] theorem State.dch_modDch_same (s : State) (c : Fin 48) (f : DmaChan → DmaChan) :
    (s.modDch c f).dch c = f (s.dch c) := by
  simp [State.modDch, State.dch]

theorem State.dch_modDch_other (s : State) {c d : Fin 48} (f : DmaChan → DmaChan) (h : d ≠ c) :
    (s.modDch c f).dch d = s.dch d := by
  simp only [State.modDch, State.dch, Fin.getElem_fin]
  exact Vector.getElem_set_ne _ _ fun e => h (Fin.ext e.symm)

@[simp] theorem State.cam_modCam_same (s : State) (p : Fin 4) (f : CamPort → CamPort) :
    (s.modCam p f).cam p = f (s.cam p) := by
  simp [State.modCam, State.cam]

theorem State.cam_modCam_other (s : State) {p q : Fin 4} (f : CamPort → CamPort) (h : q ≠ p) :
    (s.modCam p f).cam q = s.cam q := by
  simp only [State.modCam, State.cam, Fin.getElem_fin]
  exact Vector.getElem_set_ne _ _ fun e => h (Fin.ext e.symm)

@[simp] theorem State.chan_modChan_same (s : State) (c : Fin 5) (f : Chan → Chan) :
    (s.modChan c f).chan c = f (s.chan c) := by
  simp [State.modChan, State.setChan, State.chan]

@[simp] theorem State.inst_modCal_same (s : State) (x : Fin 417) (f : CalInst → CalInst) :
    (s.modCal x f).cal.inst[x] = f (s.calOf x) := by
  simp [State.modCal]

theorem State.calOf_modCal_same (s : State) (x : Fin 417) (f : CalInst → CalInst) (h : 16 ≤ x.val) :
    (s.modCal x f).calOf x = f (s.calOf x) := by
  have hx : ¬ x.val < 16 := by omega
  rw [State.calOf, State.inst_modCal_same]
  simp [hx]

@[simp] theorem State.bank_modBank_same (s : State) (b : Fin 116) (f : BankS → BankS) :
    (s.modBank b f).bank b = f (s.bank b) := by
  simp [State.modBank, State.bank]

/-! ## Registers of a pair -/

/-- A register reads what was written to it; K0 reads 0 (09 R260). -/
theorem Pair.kr_setK (p : Pair) (r x : Fin 16) (w : Word) :
    (p.setK r w).kr x = if x = r ∧ r ≠ 0 then w else p.kr x := by
  unfold Pair.setK Pair.kr
  by_cases hr : r = 0
  · subst hr; simp
  · by_cases hx : x = 0
    · subst hx; simp [hr, Ne.symm hr]
    · by_cases h : x = r
      · subst h; simp [hr]
      · simp only [hr, hx, h, if_false, false_and, Fin.getElem_fin]
        exact Vector.getElem_set_ne _ _ fun e => h (Fin.ext e.symm)

/-- A core control register reads what was stored in it. -/
theorem Pair.ccr_setCcr (p : Pair) (n m : Nat) (w : Word) :
    (p.setCcr n w).ccr m = if m = n then w else p.ccr m := Cells.get_set ccrReset p.cr n m w

@[simp] theorem Pair.setCcr_k (p : Pair) (n : Nat) (w : Word) : (p.setCcr n w).k = p.k := rfl
@[simp] theorem Pair.setCcr_pc (p : Pair) (n : Nat) (w : Word) : (p.setCcr n w).pc = p.pc := rfl
@[simp] theorem Pair.setCcr_mode (p : Pair) (n : Nat) (w : Word) : (p.setCcr n w).mode = p.mode := rfl
@[simp] theorem Pair.setCcr_kr (p : Pair) (n : Nat) (w : Word) (r : Fin 16) : (p.setCcr n w).kr r = p.kr r := rfl
@[simp] theorem Pair.setK_pc (p : Pair) (r : Fin 16) (w : Word) : (p.setK r w).pc = p.pc := by
  unfold Pair.setK; split <;> rfl
@[simp] theorem Pair.setK_mode (p : Pair) (r : Fin 16) (w : Word) : (p.setK r w).mode = p.mode := by
  unfold Pair.setK; split <;> rfl
@[simp] theorem Pair.setK_cr (p : Pair) (r : Fin 16) (w : Word) : (p.setK r w).cr = p.cr := by
  unfold Pair.setK; split <;> rfl


end Sys2Proof.Machine
end

