-- ==== Sys2Proof/Laws/Events.lean ====
section
/-!
SUPPORT. What raising an event and setting a cause bit change: router registers, the slots of the pairs and
the messages sent, and the cause bit itself; nothing else (01 R28; 12 R366, R367).
-/

namespace Sys2Proof.Machine

/-- Whether two states agree on all that raising events leaves alone: everything but router registers,
the pairs' slots and the messages sent. -/
structure SameButEvents (s t : State) : Prop where
  frame : t = { s with regs := t.regs, pairs := t.pairs, linkOut := t.linkOut }
  regs : ∀ a, ¬ routerReg a → t.reg a = s.reg a
  pairs : ∀ j : Fin 4, t.pair j = { s.pair j with cr := (t.pair j).cr }
  slots : ∀ (j : Fin 4) (n : Nat), n ≠ 0x012 → (t.pair j).ccr n = (s.pair j).ccr n

/-- Nothing raised. -/
theorem SameButEvents.refl (s : State) : SameButEvents s s := ⟨rfl, fun _ _ => rfl, fun _ => rfl, fun _ _ _ => rfl⟩

/-- One raise after another. -/
theorem SameButEvents.trans {s t u : State} (h : SameButEvents s t) (k : SameButEvents t u) : SameButEvents s u := by
  refine ⟨?_, fun a ha => (k.regs a ha).trans (h.regs a ha), fun j => ?_,
    fun j n hn => (k.slots j n hn).trans (h.slots j n hn)⟩
  · rw [k.frame, h.frame]
  · rw [k.pairs j, h.pairs j]

/-- A store to a router register. -/
theorem SameButEvents.put {s t : State} (h : SameButEvents s t) (f : Field) (v : Nat) (hf : routerReg f.off) :
    SameButEvents s (t.put f v) := by
  refine h.trans ⟨rfl, fun a ha => ?_, fun _ => rfl, fun _ _ _ => rfl⟩
  rw [State.reg_put, if_neg]
  rintro rfl
  exact ha hf

/-- A message sent. -/
theorem SameButEvents.sendMsix {s t : State} (h : SameButEvents s t) (v : Nat) : SameButEvents s (t.sendMsix v) :=
  h.trans ⟨rfl, fun _ _ => rfl, fun _ => rfl, fun _ _ _ => rfl⟩

/-- What a raise does to a pair: its pending slots. -/
theorem Pair.raiseSlots_frame (p : Pair) (e : Nat) :
    p.raiseSlots e = { p with cr := (p.raiseSlots e).cr } ∧ ∀ n, n ≠ 0x012 → (p.raiseSlots e).ccr n = p.ccr n := by
  refine ⟨rfl, fun n hn => ?_⟩
  unfold Pair.raiseSlots
  rw [Pair.ccr_setCcr, if_neg hn]

/-- What a raise does to the pairs. -/
theorem State.raiseSlots_same (s : State) (e : Nat) : SameButEvents s (s.raiseSlots e) := by
  have hp : ∀ j : Fin 4, (s.raiseSlots e).pair j
      = if (s.g (F.EVT_MAPe_PAIRS e)).testBit j then (s.pair j).raiseSlots e else s.pair j := by
    intro j
    simp [State.raiseSlots, State.pair]
  refine ⟨rfl, fun _ _ => rfl, fun j => ?_, fun j n hn => ?_⟩
  · rw [hp j]
    split
    · exact (Pair.raiseSlots_frame _ e).1
    · rfl
  · rw [hp j]
    split
    · exact (Pair.raiseSlots_frame _ e).2 n hn
    · rfl

/-- What requesting a message changes. -/
theorem State.requestMsix_same (s : State) (v : Nat) (hv : v < 64) : SameButEvents s (s.requestMsix v) := by
  unfold State.requestMsix
  split
  · exact (SameButEvents.refl s).sendMsix v
  · refine (SameButEvents.refl s).put _ _ (.inr ?_)
    simp only [pbaField, A.EVT_PBA]
    omega

/-- A vector number of the event map is below 64. -/
theorem State.vector_lt (s : State) (e : Nat) : s.g (F.EVT_MAPe_VECTOR e) < 64 := Word.field_lt _ _ _

/-- The two ways an if-then-else can have a value. -/
theorem ite_cases {α : Type _} {c : Prop} [Decidable c] {a b r : α} (h : (if c then a else b) = r) :
    (c ∧ a = r) ∨ (¬c ∧ b = r) := by
  by_cases hc : c
  · exact .inl ⟨hc, by rwa [if_pos hc] at h⟩
  · exact .inr ⟨hc, by rwa [if_neg hc] at h⟩

/-- Every event that a cause register raises is one of the 256 events (R29). -/
theorem causeRoute_lt {off en e : Nat} (h : causeRoute off = some (en, e)) : e < 256 := by
  unfold causeRoute at h
  rcases ite_cases h with ⟨hc, h⟩ | ⟨-, h⟩
  · rcases ite_cases h with ⟨-, h⟩ | ⟨-, h⟩
    · cases h; omega
    · rcases ite_cases h with ⟨-, h⟩ | ⟨-, h⟩
      · cases h; omega
      · rcases ite_cases h with ⟨-, h⟩ | ⟨-, h⟩
        · cases h; omega
        · cases h
  · rcases ite_cases h with ⟨-, h⟩ | ⟨-, h⟩
    · cases h; decide
    rcases ite_cases h with ⟨-, h⟩ | ⟨-, h⟩
    · cases h; decide
    rcases ite_cases h with ⟨-, h⟩ | ⟨-, h⟩
    · cases h; decide
    rcases ite_cases h with ⟨-, h⟩ | ⟨-, h⟩
    · cases h; decide
    rcases ite_cases h with ⟨-, h⟩ | ⟨-, h⟩
    · cases h; decide
    rcases ite_cases h with ⟨-, h⟩ | ⟨-, h⟩
    · cases h; decide
    rcases ite_cases h with ⟨-, h⟩ | ⟨-, h⟩
    · cases h; decide
    rcases ite_cases h with ⟨-, h⟩ | ⟨-, h⟩
    · cases h; decide
    rcases ite_cases h with ⟨-, h⟩ | ⟨-, h⟩
    · cases h; decide
    rcases ite_cases h with ⟨-, h⟩ | ⟨-, h⟩
    · cases h; decide
    rcases ite_cases h with ⟨-, h⟩ | ⟨-, h⟩
    · cases h; decide
    rcases ite_cases h with ⟨-, h⟩ | ⟨-, h⟩
    · cases h; decide
    rcases ite_cases h with ⟨-, h⟩ | ⟨-, h⟩
    · cases h; decide
    rcases ite_cases h with ⟨-, h⟩ | ⟨-, h⟩
    · cases h; decide
    rcases ite_cases h with ⟨-, h⟩ | ⟨-, h⟩
    · cases h; decide
    rcases ite_cases h with ⟨-, h⟩ | ⟨-, h⟩
    · cases h; decide
    rcases ite_cases h with ⟨-, h⟩ | ⟨-, h⟩
    · cases h; decide
    rcases ite_cases h with ⟨hb, h⟩ | ⟨-, h⟩
    · simp only [A.SEQ_Pj_CAUSE] at hb h
      cases h; omega
    · rcases ite_cases h with ⟨hb, h⟩ | ⟨-, h⟩
      · simp only [A.CAM_Pp_CAUSE] at hb h
        cases h; omega
      · rcases ite_cases h with ⟨hb, h⟩ | ⟨-, h⟩
        · simp only [A.DMA_Cc_CAUSE] at hb h
          cases h; omega
        · cases h

/-- What raising an event changes. -/
theorem State.raiseEvent_same (s : State) (e : Nat) (he : e < 256) : SameButEvents s (s.raiseEvent e) := by
  unfold State.raiseEvent
  extract_lets u v
  have hu : SameButEvents s u := State.raiseSlots_same s e
  split
  · exact hu
  · have hv : SameButEvents s v := by
      refine hu.put _ _ (.inl ?_)
      simp only [pendField, A.EVT_PENDw]
      omega
    split
    · exact hv.trans (State.requestMsix_same _ _ (State.vector_lt _ _))
    · exact hv

/-- What setting a cause bit changes: the bit, and what its event changes. -/
theorem State.setCause_same (s : State) (f : Field) (h : s.bit f = false) :
    SameButEvents (s.put f 1) (s.setCause f) := by
  unfold State.setCause
  rw [if_neg (by simp [h])]
  extract_lets u
  split
  · rename_i hc
    split
    · exact State.raiseEvent_same _ _ (causeRoute_lt hc)
    · exact SameButEvents.refl _
  · exact SameButEvents.refl _

/-- A cause bit that is set stays as it is. -/
theorem State.setCause_set (s : State) (f : Field) (h : s.bit f = true) : s.setCause f = s := by
  unfold State.setCause
  rw [if_pos h]

/-- A cause bit is 1 once it has been set. -/
theorem State.bit_setCause (s : State) (f : Field) (hl : f.lo + 1 ≤ 32) (hw : f.w = 1) (hr : ¬ routerReg f.off) :
    (s.setCause f).bit f = true := by
  cases hb : s.bit f
  · have h := State.setCause_same s f hb
    have : (s.setCause f).bit f = (s.put f 1).bit f := by
      unfold State.bit State.g
      rw [h.regs _ hr]
    rw [this, State.bit_put_one s f hl hw]
  · rw [State.setCause_set s f hb, hb]

/-- Setting a cause bit leaves every register alone but its own and the router's. -/
theorem State.reg_setCause_other (s : State) (f : Field) {a : Nat} (ha : a ≠ f.off) (hr : ¬ routerReg a) :
    (s.setCause f).reg a = s.reg a := by
  cases hb : s.bit f
  · rw [(State.setCause_same s f hb).regs a hr, State.reg_put, if_neg ha]
  · rw [State.setCause_set s f hb]

/-- What setting a cause bit leaves alone. -/
theorem State.setCause_frame (s : State) (f : Field) :
    s.setCause f = { s with regs := (s.setCause f).regs, pairs := (s.setCause f).pairs, linkOut := (s.setCause f).linkOut } := by
  cases hb : s.bit f
  · exact (State.setCause_same s f hb).frame
  · rw [State.setCause_set s f hb]

/-- What setting a cause bit leaves of a pair. -/
theorem State.setCause_pair (s : State) (f : Field) (j : Fin 4) :
    (s.setCause f).pair j = { s.pair j with cr := ((s.setCause f).pair j).cr } := by
  cases hb : s.bit f
  · exact (State.setCause_same s f hb).pairs j
  · rw [State.setCause_set s f hb]

end Sys2Proof.Machine
end

