-- ==== Sys2Proof/Laws/Keeps.lean ====
section
/-!
SUPPORT. What every operation keeps, said once: the queue is left alone, time stands still or starts again
at a power-on reset, free values are drawn in order, what the link has sent stays sent, and the sparse maps
stay canonical. `Keeps` is reflexive and transitive; the files beside this one say it of every operation.
-/

namespace Sys2Proof.Machine

/-- What holds of the state after any operation on `s`. -/
structure Keeps (s t : State) : Prop where
  /-- The queue is unchanged. -/
  pending : t.pending = s.pending
  /-- No time passes; a power-on reset starts the timestamp base again. -/
  now : t.now = s.now ∨ t.now = 0
  /-- Free values are drawn in order. -/
  fresh : s.fresh ≤ t.fresh
  /-- What has been sent on the link stays sent. -/
  linkOut : s.linkOut <+: t.linkOut
  /-- A burned bit stays burned. -/
  burned : s.otp.within t.otp
  /-- The sparse maps stay canonical. -/
  canonical : s.canonical = true → t.canonical = true

/-- An OTP array holds its own burned bits. -/
theorem Otp.within_refl (o : Otp) : o.within o := ⟨fun _ _ h => h, fun _ _ h => h⟩

/-- Burned bits from one array to the next. -/
theorem Otp.within_trans {a b c : Otp} (h : a.within b) (k : b.within c) : a.within c :=
  ⟨fun w i e => k.1 w i (h.1 w i e), fun w i e => k.2 w i (h.2 w i e)⟩

/-- Nothing changed. -/
theorem Keeps.refl (s : State) : Keeps s s :=
  ⟨rfl, .inl rfl, Nat.le_refl _, List.prefix_refl _, Otp.within_refl _, id⟩

/-- One operation after another. -/
theorem Keeps.trans {s t u : State} (h : Keeps s t) (k : Keeps t u) : Keeps s u :=
  ⟨k.pending.trans h.pending, by rcases k.now with e | e
                                 · rw [e]; exact h.now
                                 · exact .inr e,
    Nat.le_trans h.fresh k.fresh, h.linkOut.trans k.linkOut, Otp.within_trans h.burned k.burned,
    fun c => k.canonical (h.canonical c)⟩

/-- An update of fields that `Keeps` does not speak of. -/
theorem Keeps.mk' {s t : State} (h : Keeps s t)
    {x1 x2 x3 x4 x5 x6 x7 x8 x9 x10 x11 x12 x13 x14
      x15 x16 x17 x18 x19 x20 x21 x22 x24 x25 x26 x27} :
    Keeps s ⟨t.pending, t.fresh, x1, t.linkOut, t.now, t.regs, t.snaps, t.mem, x2, x3, x4, x5, x6, x7, x8, x9, x10, x11,
      x12, x13, x14, x15, x16, x17, x18, x19, x20, x21, x22, t.otp, x24, x25, x26, x27⟩ :=
  h.trans ⟨rfl, .inl rfl, Nat.le_refl _, List.prefix_refl _, Otp.within_refl _, id⟩

/-- An update of the OTP's fields beside its burned bits. -/
theorem Keeps.mkOtp {s t : State} (h : Keeps s t) {o : Otp} (h0 : o.strong0 = t.otp.strong0)
    (h1 : o.strong1 = t.otp.strong1) : Keeps s { t with otp := o } :=
  h.trans ⟨rfl, .inl rfl, Nat.le_refl _, List.prefix_refl _, ⟨fun _ _ e => h0 ▸ e, fun _ _ e => h1 ▸ e⟩, id⟩

/-- Either branch. -/
theorem Keeps.ite {s a b : State} {c : Prop} [Decidable c] (ha : Keeps s a) (hb : Keeps s b) :
    Keeps s (if c then a else b) := by split <;> assumption

/-- A value named in between. -/
theorem Keeps.bind {α : Sort _} {s : State} {P : α → Prop} {f : α → State} {v : α} (hv : P v)
    (hf : ∀ x, P x → Keeps s (f x)) : Keeps s (f v) := hf v hv

/-- A fold of operations. -/
theorem Keeps.foldl {α : Type _} {s : State} {f : State → α → State} (l : List α)
    (hf : ∀ x a, Keeps s x → Keeps s (f x a)) : ∀ {t : State}, Keeps s t → Keeps s (l.foldl f t) := by
  induction l with
  | nil => exact fun h => h
  | cons a r ih => exact fun h => ih (hf _ a h)

/-- A fold that carries something beside the state. -/
theorem Keeps.foldlFst {α β : Type _} {s : State} {f : State × β → α → State × β} (l : List α)
    (hf : ∀ x a, Keeps s x.1 → Keeps s (f x a).1) :
    ∀ {t : State × β}, Keeps s t.1 → Keeps s (l.foldl f t).1 := by
  induction l with
  | nil => exact fun h => h
  | cons a r ih => exact fun h => ih (hf _ a h)

/-- The three canonical forms apart. -/
theorem State.canonical_iff (s : State) : s.canonical = true ↔
    Memory.wf s.mem = true ∧ Cells.wf resetWord s.regs = true ∧ Cells.wf (fun _ => 0#32) s.snaps = true := by
  simp [State.canonical, and_assoc]

/-- Another canonical form of each map, and more said on the link. -/
theorem Keeps.maps {s t u : State} (h : Keeps s t) (e1 : u.pending = t.pending) (e2 : u.now = t.now ∨ u.now = 0)
    (e3 : t.fresh ≤ u.fresh) (e4 : t.linkOut <+: u.linkOut) (hm : Memory.wf t.mem = true → Memory.wf u.mem = true)
    (hr : Cells.wf resetWord t.regs = true → Cells.wf resetWord u.regs = true)
    (hs : Cells.wf (fun _ => 0#32) t.snaps = true → Cells.wf (fun _ => 0#32) u.snaps = true)
    (ho : t.otp.within u.otp := by exact ⟨fun _ _ e => e, fun _ _ e => e⟩) : Keeps s u := by
  refine h.trans ⟨e1, e2, e3, e4, ho, fun c => ?_⟩
  rw [State.canonical_iff] at c ⊢
  exact ⟨hm c.1, hr c.2.1, hs c.2.2⟩

/-- An operation for each number below a bound. -/
theorem Keeps.forUpto {s : State} {f : Nat → State → State} (hf : ∀ a x, Keeps s x → Keeps s (f a x)) (n : Nat)
    {t : State} (h : Keeps s t) : Keeps s (forUpto n f t) := by
  induction n with
  | zero => exact h
  | succ n ih => exact hf n _ ih

/-! ## The operations that touch what `Keeps` speaks of -/

/-- Storing a register word. -/
theorem State.setReg_keeps {s t : State} (h : Keeps s t) (off : Nat) (w : Word) : Keeps s (t.setReg off w) :=
  h.maps rfl (.inl rfl) (Nat.le_refl _) (List.prefix_refl _) id (fun c => Cells.wf_set off w c) id

/-- Storing a byte of memory. -/
theorem State.setByte_keeps {s t : State} (h : Keeps s t) (a : Nat) (b : Byte) : Keeps s (t.setByte a b) :=
  h.maps rfl (.inl rfl) (Nat.le_refl _) (List.prefix_refl _) (fun c => Cells.wf_set a b c) id id

/-- Storing bytes of memory. -/
theorem State.setBytes_keeps {s t : State} (h : Keeps s t) (a : Nat) (bs : List Byte) :
    Keeps s (t.setBytes a bs) := by
  induction bs generalizing a t with
  | nil => exact h
  | cons b r ih => exact ih (State.setByte_keeps h a b) (a + 1)

/-- Zeroing a range of memory. -/
theorem State.wipeRange_keeps {s t : State} (h : Keeps s t) (lo hi : Nat) : Keeps s (t.wipeRange lo hi) :=
  h.maps rfl (.inl rfl) (Nat.le_refl _) (List.prefix_refl _) (fun c => Cells.wf_filter _ c) id id

/-- Zeroing what lies in a bank. -/
theorem State.zeroMapped_keeps {s t : State} (h : Keeps s t) (b : Nat) : Keeps s (t.zeroMapped b) :=
  h.maps rfl (.inl rfl) (Nat.le_refl _) (List.prefix_refl _) (fun c => Cells.wf_filter _ c) id id

/-- Wiping every bank. -/
theorem State.wipeAll_keeps {s t : State} (h : Keeps s t) : Keeps s t.wipeAll :=
  h.maps rfl (.inl rfl) (Nat.le_refl _) (List.prefix_refl _) (fun _ => rfl) id id

/-- Drawing a free value. -/
theorem State.draw_keeps {s t : State} (h : Keeps s t) : Keeps s t.draw.2 :=
  h.maps rfl (.inl rfl) (Nat.le_succ _) (List.prefix_refl _) id id id

/-- A message leaves. -/
theorem State.sendMsix_keeps {s t : State} (h : Keeps s t) (v : Nat) : Keeps s (t.sendMsix v) :=
  h.maps rfl (.inl rfl) (Nat.le_refl _) (List.prefix_append _ _) id id id

/-- A request leaves. -/
theorem State.sendLink_keeps {s t : State} (h : Keeps s t) (m : LinkMsg) : Keeps s (t.sendLink m) :=
  h.maps rfl (.inl rfl) (Nat.le_refl _) (List.prefix_append _ _) id id id

/-- A group of registers enters a snapshot. -/
theorem State.takeSnap_keeps {s t : State} (h : Keeps s t) (m : Master) (group : List Nat) :
    Keeps s (t.takeSnap m group) := by
  unfold State.takeSnap
  refine Keeps.foldl _ (fun x a hx => ?_) h
  exact hx.maps rfl (.inl rfl) (Nat.le_refl _) (List.prefix_refl _) id id fun c => Cells.wf_set _ _ c

end Sys2Proof.Machine
end

