-- ==== Sys2Proof/Laws/Keeps/Flags.lean ====
section
/-!
SUPPORT. What every operation of Machine/Flags.lean keeps (Laws/Keeps.lean).
-/

namespace Sys2Proof.Machine

theorem State.put_keeps {s t : State} (h : Keeps s t) (f : Field) (v : Nat) :
    Keeps s (State.put t f v) := by
  unfold State.put
  repeat' first
    | with_reducible assumption
    | with_reducible apply State.setReg_keeps

theorem State.bumpBy_keeps {s t : State} (h : Keeps s t) (f : Field) (k : Nat) :
    Keeps s (State.bumpBy t f k) := by
  unfold State.bumpBy
  repeat' first
    | with_reducible assumption
    | with_reducible apply State.put_keeps

theorem State.bump_keeps {s t : State} (h : Keeps s t) (f : Field) :
    Keeps s (State.bump t f) := by
  unfold State.bump
  repeat' first
    | with_reducible assumption
    | with_reducible apply State.bumpBy_keeps

theorem State.put48_keeps {s t : State} (h : Keeps s t) (lo : Field) (hi : Field) (x0 : Int) :
    Keeps s (State.put48 t lo hi x0) := by
  unfold State.put48
  repeat' first
    | with_reducible assumption
    | with_reducible apply State.put_keeps

theorem State.putb_keeps {s t : State} (h : Keeps s t) (f : Field) (b : Bool) :
    Keeps s (State.putb t f b) := by
  unfold State.putb
  repeat' first
    | with_reducible assumption
    | with_reducible apply State.put_keeps

theorem State.puti_keeps {s t : State} (h : Keeps s t) (f : Field) (v : Int) :
    Keeps s (State.puti t f v) := by
  unfold State.puti
  repeat' first
    | with_reducible assumption
    | with_reducible apply State.put_keeps

theorem State.raiseSlots_keeps {s t : State} (h : Keeps s t) (e : Nat) :
    Keeps s (State.raiseSlots t e) := by
  unfold State.raiseSlots
  repeat' first
    | with_reducible assumption
    | ((fail_if_no_progress extract_lets +onlyGivenNames x); clear_value x)
    | with_reducible refine Keeps.mk' ?_

theorem State.requestMsix_keeps {s t : State} (h : Keeps s t) (v : Nat) :
    Keeps s (State.requestMsix t v) := by
  unfold State.requestMsix
  repeat' first
    | with_reducible assumption
    | with_reducible apply State.sendMsix_keeps
    | with_reducible apply State.put_keeps
    | with_reducible refine Keeps.ite ?_ ?_

theorem State.raiseEvent_keeps {s t : State} (h : Keeps s t) (e : Nat) :
    Keeps s (State.raiseEvent t e) := by
  unfold State.raiseEvent
  repeat' first
    | with_reducible assumption
    | with_reducible apply State.raiseSlots_keeps
    | with_reducible apply State.put_keeps
    | with_reducible apply State.requestMsix_keeps
    | ((fail_if_no_progress extract_lets +onlyGivenNames x); refine (fun (hx : Keeps s x) => ?_) ?_; on_goal 2 => unfold x; on_goal 1 => clear_value x)
    | with_reducible refine Keeps.ite ?_ ?_

theorem State.setCause_keeps {s t : State} (h : Keeps s t) (f : Field) :
    Keeps s (State.setCause t f) := by
  unfold State.setCause
  repeat' first
    | with_reducible assumption
    | with_reducible apply State.put_keeps
    | with_reducible apply State.raiseEvent_keeps
    | ((fail_if_no_progress extract_lets +onlyGivenNames x); refine (fun (hx : Keeps s x) => ?_) ?_; on_goal 2 => unfold x; on_goal 1 => clear_value x)
    | with_reducible refine Keeps.ite ?_ ?_
    | split

theorem State.setCauseIf_keeps {s t : State} (h : Keeps s t) (c : Bool) (f : Field) :
    Keeps s (State.setCauseIf t c f) := by
  unfold State.setCauseIf
  repeat' first
    | with_reducible assumption
    | with_reducible apply State.setCause_keeps
    | with_reducible refine Keeps.ite ?_ ?_

theorem State.vlogWrite_keeps {s t : State} (h : Keeps s t) (key : Nat) (source : Nat) (code : Nat) (detail : Nat) :
    Keeps s (State.vlogWrite t key source code detail) := by
  unfold State.vlogWrite
  repeat' first
    | with_reducible assumption
    | with_reducible apply State.setReg_keeps
    | with_reducible apply State.setCause_keeps
    | with_reducible apply State.put_keeps
    | with_reducible refine Keeps.mk' ?_

theorem State.vlog_keeps {s t : State} (h : Keeps s t) (source : Nat) (code : Nat) (detail : Nat) :
    Keeps s (State.vlog t source code detail) := by
  unfold State.vlog
  repeat' first
    | with_reducible assumption
    | with_reducible apply State.bump_keeps
    | with_reducible apply State.vlogWrite_keeps
    | ((fail_if_no_progress extract_lets +onlyGivenNames x); clear_value x)
    | with_reducible refine Keeps.ite ?_ ?_
    | split

end Sys2Proof.Machine
end

