-- ==== Sys2Proof/Laws/Keeps/Ops.lean ====
section
/-!
SUPPORT. What every operation of Machine/Ops.lean keeps (Laws/Keeps.lean).
-/

namespace Sys2Proof.Machine

theorem State.answer_keeps {s t : State} (h : Keeps s t) (bytes : List Byte) (poisoned : Bool) (status : Nat) :
    Keeps s (State.answer t bytes poisoned status) := by
  unfold State.answer
  repeat' first
    | with_reducible assumption
    | with_reducible refine Keeps.mk' ?_

theorem State.unpowered_keeps {s t : State} (h : Keeps s t) (addr : Nat) :
    Keeps s (State.unpowered t addr) := by
  unfold State.unpowered
  repeat' first
    | with_reducible assumption
    | with_reducible apply State.setCause_keeps
    | with_reducible apply State.put_keeps
    | with_reducible apply State.bump_keeps

theorem State.atBlock_keeps {s t : State} (h : Keeps s t) (off : Nat) (f : State → State) (hf : ∀ x, Keeps s x → Keeps s (f x)) :
    Keeps s (State.atBlock t off f) := by
  unfold State.atBlock
  repeat' first
    | with_reducible assumption
    | with_reducible apply hf
    | with_reducible apply State.unpowered_keeps
    | with_reducible refine Keeps.ite ?_ ?_

theorem State.modCal_keeps {s t : State} (h : Keeps s t) (x0 : Fin 417) (f : CalInst → CalInst) :
    Keeps s (State.modCal t x0 f) := by
  unfold State.modCal
  repeat' first
    | with_reducible assumption
    | ((fail_if_no_progress extract_lets +onlyGivenNames x); clear_value x)
    | with_reducible refine Keeps.mk' ?_

theorem State.calUse_keeps {s t : State} (h : Keeps s t) (k : Nat) (i : Nat) (n : Nat) :
    Keeps s (State.calUse t k i n) := by
  unfold State.calUse
  repeat' first
    | with_reducible assumption
    | with_reducible apply State.modCal_keeps

theorem State.graceCheckMet_keeps {s t : State} (h : Keeps s t)  :
    Keeps s (State.graceCheckMet t) := by
  unfold State.graceCheckMet
  repeat' first
    | with_reducible assumption
    | with_reducible refine Keeps.ite ?_ ?_
    | with_reducible refine Keeps.mk' ?_

theorem State.xstopEval_keeps {s t : State} (h : Keeps s t)  :
    Keeps s (State.xstopEval t) := by
  unfold State.xstopEval
  repeat' first
    | with_reducible assumption
    | with_reducible apply State.put_keeps
    | ((fail_if_no_progress extract_lets +onlyGivenNames x); refine (fun (hx : Keeps s x) => ?_) ?_; on_goal 2 => unfold x; on_goal 1 => clear_value x)
    | ((fail_if_no_progress extract_lets +onlyGivenNames x); clear_value x)
    | with_reducible refine Keeps.ite ?_ ?_
    | with_reducible refine Keeps.mk' ?_

theorem State.latchXstop_keeps {s t : State} (h : Keeps s t) (f : Field) :
    Keeps s (State.latchXstop t f) := by
  unfold State.latchXstop
  repeat' first
    | with_reducible assumption
    | with_reducible apply State.xstopEval_keeps
    | with_reducible apply State.put_keeps

theorem State.setBar_keeps {s t : State} (h : Keeps s t) (n : Fin 32) (b : Bar) :
    Keeps s (State.setBar t n b) := by
  unfold State.setBar
  repeat' first
    | with_reducible assumption
    | with_reducible refine Keeps.mk' ?_

theorem State.modBar_keeps {s t : State} (h : Keeps s t) (n : Fin 32) (f : Bar → Bar) :
    Keeps s (State.modBar t n f) := by
  unfold State.modBar
  repeat' first
    | with_reducible assumption
    | with_reducible apply State.setBar_keeps

end Sys2Proof.Machine
end

