-- ==== Sys2Proof/Laws/Keeps/Bank.lean ====
section
/-!
SUPPORT. What every operation of Machine/Bank.lean keeps (Laws/Keeps.lean).
-/

namespace Sys2Proof.Machine

theorem State.modBank_keeps {s t : State} (h : Keeps s t) (b : Fin 116) (f : BankS → BankS) :
    Keeps s (State.modBank t b f) := by
  unfold State.modBank
  repeat' first
    | with_reducible assumption
    | with_reducible refine Keeps.mk' ?_

theorem State.cleanWord_keeps {s t : State} (h : Keeps s t) (w : Nat) :
    Keeps s (State.cleanWord t w) := by
  unfold State.cleanWord
  repeat' first
    | with_reducible assumption
    | with_reducible apply State.modBank_keeps
    | ((fail_if_no_progress extract_lets +onlyGivenNames x); refine (fun (hx : Keeps s x) => ?_) ?_; on_goal 2 => unfold x; on_goal 1 => clear_value x)
    | with_reducible refine Keeps.ite ?_ ?_
    | split
    | with_reducible refine Keeps.mk' ?_

theorem State.cleanCells_keeps {s t : State} (h : Keeps s t) (ws : List Nat) :
    Keeps s (State.cleanCells t ws) := by
  unfold State.cleanCells
  repeat' first
    | with_reducible assumption
    | with_reducible apply State.cleanWord_keeps
    | with_reducible refine Keeps.foldl _ (fun x a hx => ?_) ?_
    | with_reducible refine Keeps.ite ?_ ?_

theorem State.countColl_keeps {s t : State} (h : Keeps s t) (b : Fin 116) :
    Keeps s (State.countColl t b) := by
  unfold State.countColl
  repeat' first
    | with_reducible assumption
    | with_reducible apply State.modBank_keeps

theorem State.readWord_keeps {s t : State} (h : Keeps s t) (w : Nat) :
    Keeps s (State.readWord t w) := by
  unfold State.readWord
  repeat' first
    | with_reducible assumption
    | with_reducible apply State.modBank_keeps
    | with_reducible apply State.setCause_keeps
    | with_reducible apply State.put_keeps
    | ((fail_if_no_progress extract_lets +onlyGivenNames x); refine (fun (hx : Keeps s x) => ?_) ?_; on_goal 2 => unfold x; on_goal 1 => clear_value x)
    | ((fail_if_no_progress extract_lets +onlyGivenNames x); clear_value x)
    | with_reducible refine Keeps.ite ?_ ?_
    | split

theorem State.storeBytes_keeps {s t : State} (h : Keeps s t) (a : Nat) (bs : List Byte) :
    Keeps s (State.storeBytes t a bs) := by
  unfold State.storeBytes
  repeat' first
    | with_reducible assumption
    | with_reducible apply State.setBytes_keeps
    | with_reducible apply State.readWord_keeps
    | with_reducible apply State.cleanWord_keeps
    | with_reducible refine Keeps.foldl _ (fun x a hx => ?_) ?_
    | ((fail_if_no_progress extract_lets +onlyGivenNames x); refine (fun (hx : Keeps s x) => ?_) ?_; on_goal 2 => unfold x; on_goal 1 => clear_value x)
    | ((fail_if_no_progress extract_lets +onlyGivenNames x); clear_value x)
    | with_reducible refine Keeps.ite ?_ ?_

theorem State.portB_keeps {s t : State} (h : Keeps s t) (b : Fin 116) (pb : List PortBWrite) (k : Nat) (wrote : Option Nat) :
    Keeps s (State.portB t b pb k wrote) := by
  unfold State.portB
  repeat' first
    | with_reducible assumption
    | with_reducible apply State.storeBytes_keeps
    | with_reducible apply State.countColl_keeps
    | ((fail_if_no_progress extract_lets +onlyGivenNames x); refine (fun (hx : Keeps s x) => ?_) ?_; on_goal 2 => unfold x; on_goal 1 => clear_value x)
    | with_reducible refine Keeps.ite ?_ ?_
    | split

theorem State.readCells_keeps {s t : State} (h : Keeps s t) (ws : List Nat) :
    Keeps s (State.readCells t ws) := by
  unfold State.readCells
  repeat' first
    | with_reducible assumption
    | with_reducible apply State.readWord_keeps
    | with_reducible refine Keeps.foldl _ (fun x a hx => ?_) ?_
    | with_reducible refine Keeps.ite ?_ ?_

theorem State.readErrs_keeps {s t : State} (h : Keeps s t) (a : Nat) (n : Nat) :
    Keeps s (State.readErrs t a n) := by
  unfold State.readErrs
  repeat' first
    | with_reducible assumption
    | with_reducible apply State.readWord_keeps
    | with_reducible refine Keeps.foldl _ (fun x a hx => ?_) ?_
    | with_reducible refine Keeps.ite ?_ ?_

theorem State.readErrsIf_keeps {s t : State} (h : Keeps s t) (p : Nat → Bool) :
    Keeps s (State.readErrsIf t p) := by
  unfold State.readErrsIf
  repeat' first
    | with_reducible assumption
    | with_reducible apply State.readWord_keeps
    | with_reducible refine Keeps.foldl _ (fun x a hx => ?_) ?_

theorem State.zeroUnmapped_keeps {s t : State} (h : Keeps s t) (b : Nat) :
    Keeps s (State.zeroUnmapped t b) := by
  unfold State.zeroUnmapped
  repeat' first
    | with_reducible assumption
    | with_reducible apply State.modBar_keeps
    | with_reducible apply State.setReg_keeps
    | with_reducible refine Keeps.foldl _ (fun x a hx => ?_) ?_
    | ((fail_if_no_progress extract_lets +onlyGivenNames x); clear_value x)
    | with_reducible refine Keeps.ite ?_ ?_
    | with_reducible refine Keeps.mk' ?_

theorem State.zeroBank_keeps {s t : State} (h : Keeps s t) (b : Nat) :
    Keeps s (State.zeroBank t b) := by
  unfold State.zeroBank
  repeat' first
    | with_reducible assumption
    | with_reducible apply State.zeroUnmapped_keeps
    | with_reducible apply State.zeroMapped_keeps
    | with_reducible apply State.modBank_keeps
    | with_reducible apply State.put_keeps
    | ((fail_if_no_progress extract_lets +onlyGivenNames x); refine (fun (hx : Keeps s x) => ?_) ?_; on_goal 2 => unfold x; on_goal 1 => clear_value x)
    | ((fail_if_no_progress extract_lets +onlyGivenNames x); clear_value x)
    | with_reducible refine Keeps.ite ?_ ?_
    | with_reducible refine Keeps.mk' ?_

end Sys2Proof.Machine
end

