-- ==== Sys2Proof/Laws/Keeps/Axis.lean ====
section
/-!
SUPPORT. What every operation of Machine/Axis.lean keeps (Laws/Keeps.lean).
-/

namespace Sys2Proof.Machine

theorem State.setC_keeps {s t : State} (h : Keeps s t) (c : Int) :
    Keeps s (State.setC t c) := by
  unfold State.setC
  repeat' first
    | with_reducible assumption
    | ((fail_if_no_progress extract_lets +onlyGivenNames x); clear_value x)
    | with_reducible refine Keeps.mk' ?_

theorem State.axisAdd_keeps {s t : State} (h : Keeps s t) (x0 : Int) :
    Keeps s (State.axisAdd t x0) := by
  unfold State.axisAdd
  repeat' first
    | with_reducible assumption
    | with_reducible apply State.setCause_keeps
    | with_reducible apply State.bump_keeps
    | with_reducible apply State.setC_keeps
    | ((fail_if_no_progress extract_lets +onlyGivenNames x); clear_value x)
    | with_reducible refine Keeps.ite ?_ ?_

theorem State.setChan_keeps {s t : State} (h : Keeps s t) (c : Fin 5) (x0 : Chan) :
    Keeps s (State.setChan t c x0) := by
  unfold State.setChan
  repeat' first
    | with_reducible assumption
    | ((fail_if_no_progress extract_lets +onlyGivenNames x); clear_value x)
    | with_reducible refine Keeps.mk' ?_

theorem State.modChan_keeps {s t : State} (h : Keeps s t) (c : Fin 5) (f : Chan → Chan) :
    Keeps s (State.modChan t c f) := by
  unfold State.modChan
  repeat' first
    | with_reducible assumption
    | with_reducible apply State.setChan_keeps

theorem State.settlePP_keeps {s t : State} (h : Keeps s t)  :
    Keeps s (State.settlePP t) := by
  unfold State.settlePP
  repeat' first
    | with_reducible assumption
    | with_reducible apply State.setCause_keeps
    | with_reducible apply State.bump_keeps
    | ((fail_if_no_progress extract_lets +onlyGivenNames x); refine (fun (hx : Keeps s x) => ?_) ?_; on_goal 2 => unfold x; on_goal 1 => clear_value x)
    | ((fail_if_no_progress extract_lets +onlyGivenNames x); clear_value x)
    | with_reducible refine Keeps.ite ?_ ?_
    | with_reducible refine Keeps.mk' ?_

theorem State.watchValid_keeps {s t : State} (h : Keeps s t) (f : State → State) (hf : ∀ x, Keeps s x → Keeps s (f x)) :
    Keeps s (State.watchValid f t) := by
  unfold State.watchValid
  repeat' first
    | with_reducible assumption
    | with_reducible apply hf
    | with_reducible apply State.setCauseIf_keeps

theorem State.withPP_keeps {s t : State} (h : Keeps s t) (f : State → State) (hf : ∀ x, Keeps s x → Keeps s (f x)) :
    Keeps s (State.withPP f t) := by
  unfold State.withPP
  repeat' first
    | with_reducible assumption
    | with_reducible apply hf
    | with_reducible apply State.settlePP_keeps

end Sys2Proof.Machine
end

