-- ==== Sys2Proof/Laws/Keeps/Hold.lean ====
section
/-!
SUPPORT. What every operation of Machine/Hold.lean keeps (Laws/Keeps.lean).
-/

namespace Sys2Proof.Machine

theorem State.blocked_keeps {s t : State} (h : Keeps s t)  :
    Keeps s (State.blocked t) := by
  unfold State.blocked
  repeat' first
    | with_reducible assumption
    | with_reducible apply State.setCause_keeps
    | with_reducible apply State.bump_keeps

theorem State.unlessHeld_keeps {s t : State} (h : Keeps s t) (held : Bool) (f : State → State) (hf : ∀ x, Keeps s x → Keeps s (f x)) :
    Keeps s (State.unlessHeld held f t) := by
  unfold State.unlessHeld
  repeat' first
    | with_reducible assumption
    | with_reducible apply hf
    | with_reducible apply State.blocked_keeps
    | with_reducible refine Keeps.ite ?_ ?_

end Sys2Proof.Machine
end

