-- ==== Sys2Proof/Laws/Keeps/Kill.lean ====
section
/-!
SUPPORT. What every operation of Machine/Kill.lean keeps (Laws/Keeps.lean).
-/

namespace Sys2Proof.Machine

theorem State.killPort_keeps {s t : State} (h : Keeps s t) (cause : Field) (n : Fin 32) :
    Keeps s (State.killPort cause t n) := by
  unfold State.killPort
  repeat' first
    | with_reducible assumption
    | with_reducible apply State.modBar_keeps
    | with_reducible apply State.setCause_keeps
    | with_reducible refine Keeps.ite ?_ ?_

theorem State.fpeSwkill_keeps {s t : State} (h : Keeps s t) (n : Fin 32) (on : Bool) :
    Keeps s (State.fpeSwkill t n on) := by
  unfold State.fpeSwkill
  repeat' first
    | with_reducible assumption
    | with_reducible apply State.putb_keeps
    | with_reducible apply State.killPort_keeps
    | ((fail_if_no_progress extract_lets +onlyGivenNames x); refine (fun (hx : Keeps s x) => ?_) ?_; on_goal 2 => unfold x; on_goal 1 => clear_value x)
    | with_reducible refine Keeps.ite ?_ ?_

theorem State.gridSwkill_keeps {s t : State} (h : Keeps s t) (on : Bool) :
    Keeps s (State.gridSwkill t on) := by
  unfold State.gridSwkill
  repeat' first
    | with_reducible assumption
    | with_reducible apply State.putb_keeps
    | with_reducible apply State.killPort_keeps
    | with_reducible refine Keeps.foldl _ (fun x a hx => ?_) ?_
    | ((fail_if_no_progress extract_lets +onlyGivenNames x); refine (fun (hx : Keeps s x) => ?_) ?_; on_goal 2 => unfold x; on_goal 1 => clear_value x)
    | with_reducible refine Keeps.ite ?_ ?_

theorem State.hkill_keeps {s t : State} (h : Keeps s t) (low : Bool) :
    Keeps s (State.hkill t low) := by
  unfold State.hkill
  repeat' first
    | with_reducible assumption
    | with_reducible apply State.killPort_keeps
    | with_reducible apply State.put_keeps
    | with_reducible refine Keeps.foldl _ (fun x a hx => ?_) ?_
    | ((fail_if_no_progress extract_lets +onlyGivenNames x); refine (fun (hx : Keeps s x) => ?_) ?_; on_goal 2 => unfold x; on_goal 1 => clear_value x)
    | with_reducible refine Keeps.ite ?_ ?_
    | with_reducible refine Keeps.mk' ?_

theorem State.killLatchClear_keeps {s t : State} (h : Keeps s t) (l : KillLatch) :
    Keeps s (State.killLatchClear t l) := by
  unfold State.killLatchClear
  repeat' first
    | with_reducible assumption
    | with_reducible apply State.put_keeps
    | with_reducible refine Keeps.ite ?_ ?_
    | split

theorem State.setStage_keeps {s t : State} (h : Keeps s t) (n : Nat) (v : Nat) :
    Keeps s (State.setStage t n v) := by
  unfold State.setStage
  repeat' first
    | with_reducible assumption
    | with_reducible apply State.put_keeps

theorem State.tripKill_keeps {s t : State} (h : Keeps s t) (n : Fin 32) :
    Keeps s (State.tripKill t n) := by
  unfold State.tripKill
  repeat' first
    | with_reducible assumption
    | with_reducible apply State.killPort_keeps
    | with_reducible apply State.put_keeps
    | with_reducible refine Keeps.ite ?_ ?_

theorem State.tripHeld_keeps {s t : State} (h : Keeps s t) (n : Fin 32) :
    Keeps s (State.tripHeld t n) := by
  unfold State.tripHeld
  repeat' first
    | with_reducible assumption
    | with_reducible apply State.tripKill_keeps
    | with_reducible refine Keeps.ite ?_ ?_

theorem execFpeSwkill_keeps {s t : State} (h : Keeps s t) (n : Fin 32) (on : Bool) :
    ∃ u, (execFpeSwkill n on t) = .next u ∧ Keeps s u := by
  unfold execFpeSwkill
  repeat' first
    | with_reducible assumption
    | with_reducible apply State.atBlock_keeps
    | with_reducible apply State.fpeSwkill_keeps
    | with_reducible refine ⟨_, rfl, ?_⟩
    | (intro y hy)

theorem execGridSwkill_keeps {s t : State} (h : Keeps s t) (on : Bool) :
    ∃ u, (execGridSwkill on t) = .next u ∧ Keeps s u := by
  unfold execGridSwkill
  repeat' first
    | with_reducible assumption
    | with_reducible apply State.atBlock_keeps
    | with_reducible apply State.gridSwkill_keeps
    | with_reducible refine ⟨_, rfl, ?_⟩
    | (intro y hy)

theorem execHkill_keeps {s t : State} (h : Keeps s t) (low : Bool) :
    ∃ u, (execHkill low t) = .next u ∧ Keeps s u := by
  unfold execHkill
  repeat' first
    | with_reducible assumption
    | with_reducible apply State.hkill_keeps
    | with_reducible refine ⟨_, rfl, ?_⟩

theorem execKillLatchClear_keeps {s t : State} (h : Keeps s t) (l : KillLatch) :
    ∃ u, (execKillLatchClear l t) = .next u ∧ Keeps s u := by
  unfold execKillLatchClear
  repeat' first
    | with_reducible assumption
    | with_reducible apply State.atBlock_keeps
    | with_reducible apply State.killLatchClear_keeps
    | with_reducible refine ⟨_, rfl, ?_⟩
    | (intro y hy)

end Sys2Proof.Machine
end

