-- ==== Sys2Proof/Laws/Keeps/Raster.lean ====
section
/-!
SUPPORT. What every operation of Machine/Raster.lean keeps (Laws/Keeps.lean).
-/

namespace Sys2Proof.Machine

theorem State.abandonWrite_keeps {s t : State} (h : Keeps s t) (n : Fin 32) :
    Keeps s (State.abandonWrite t n) := by
  unfold State.abandonWrite
  repeat' first
    | with_reducible assumption
    | with_reducible apply State.modBar_keeps
    | with_reducible refine Keeps.ite ?_ ?_

theorem State.modRsp_keeps {s t : State} (h : Keeps s t) (n : Fin 32) (f : Rsp → Rsp) :
    Keeps s (State.modRsp t n f) := by
  unfold State.modRsp
  repeat' first
    | with_reducible assumption
    | with_reducible apply State.modBar_keeps

theorem State.storeStage_keeps {s t : State} (h : Keeps s t) (n : Fin 32) (off : Nat) (bytes : List Byte) :
    Keeps s (State.storeStage t n off bytes) := by
  unfold State.storeStage
  repeat' first
    | with_reducible assumption
    | with_reducible apply State.storeBytes_keeps
    | ((fail_if_no_progress extract_lets +onlyGivenNames x); refine (fun (hx : Keeps s x) => ?_) ?_; on_goal 2 => unfold x; on_goal 1 => clear_value x)
    | ((fail_if_no_progress extract_lets +onlyGivenNames x); clear_value x)
    | with_reducible refine Keeps.ite ?_ ?_

theorem State.landPacked_keeps {s t : State} (h : Keeps s t) (n : Fin 32) (off : Nat) (bytes : List Byte) :
    Keeps s (State.landPacked t n off bytes) := by
  unfold State.landPacked
  repeat' first
    | with_reducible assumption
    | with_reducible apply State.modRsp_keeps
    | with_reducible apply State.storeStage_keeps
    | ((fail_if_no_progress extract_lets +onlyGivenNames x); clear_value x)
    | with_reducible refine Keeps.ite ?_ ?_

theorem State.lineBecomesReady_keeps {s t : State} (h : Keeps s t) (n : Fin 32) (j : Nat) :
    Keeps s (State.lineBecomesReady t n j) := by
  unfold State.lineBecomesReady
  repeat' first
    | with_reducible assumption
    | with_reducible apply State.modRsp_keeps
    | with_reducible apply State.put_keeps

theorem State.landInSlot_keeps {s t : State} (h : Keeps s t) (n : Fin 32) (j : Nat) (b : Nat) (bytes : List Byte) :
    Keeps s (State.landInSlot t n j b bytes) := by
  unfold State.landInSlot
  repeat' first
    | with_reducible assumption
    | with_reducible apply State.storeBytes_keeps
    | with_reducible apply State.modRsp_keeps
    | with_reducible apply State.lineBecomesReady_keeps
    | ((fail_if_no_progress extract_lets +onlyGivenNames x); refine (fun (hx : Keeps s x) => ?_) ?_; on_goal 2 => unfold x; on_goal 1 => clear_value x)
    | ((fail_if_no_progress extract_lets +onlyGivenNames x); clear_value x)
    | with_reducible refine Keeps.ite ?_ ?_

theorem State.landPlain_keeps {s t : State} (h : Keeps s t) (n : Fin 32) (N : Nat) (a2 : Nat) (a3 : List Byte) :
    Keeps s (State.landPlain n N a2 a3 t) := by
  induction N generalizing t a2 a3 with
  | zero =>
    unfold State.landPlain
    repeat' first
      | with_reducible assumption
  | succ k ih =>
    unfold State.landPlain
    repeat' first
      | with_reducible apply ih
      | (cases ‹k + 1 = _›)
      | with_reducible assumption
      | with_reducible apply State.landInSlot_keeps
      | with_reducible apply State.modRsp_keeps
      | ((fail_if_no_progress extract_lets +onlyGivenNames x); clear_value x)
      | with_reducible refine Keeps.ite ?_ ?_
      | split

theorem State.landRaster_keeps {s t : State} (h : Keeps s t) (n : Fin 32) (off : Nat) (bytes : List Byte) :
    Keeps s (State.landRaster t n off bytes) := by
  unfold State.landRaster
  repeat' first
    | with_reducible assumption
    | with_reducible apply State.landPacked_keeps
    | with_reducible apply State.landPlain_keeps
    | with_reducible refine Keeps.ite ?_ ?_

theorem State.retryRaster_keeps {s t : State} (h : Keeps s t) (n : Fin 32) :
    Keeps s (State.retryRaster t n) := by
  unfold State.retryRaster
  repeat' first
    | with_reducible assumption
    | with_reducible apply State.landRaster_keeps
    | with_reducible apply State.modRsp_keeps
    | with_reducible refine Keeps.foldl _ (fun x a hx => ?_) ?_

theorem State.consumeStage_keeps {s t : State} (h : Keeps s t) (n : Fin 32) (k : Nat) :
    Keeps s (State.consumeStage t n k) := by
  unfold State.consumeStage
  repeat' first
    | with_reducible assumption
    | with_reducible apply State.readErrs_keeps
    | with_reducible apply State.modRsp_keeps
    | with_reducible apply State.retryRaster_keeps
    | with_reducible refine Keeps.foldl _ (fun x a hx => ?_) ?_
    | ((fail_if_no_progress extract_lets +onlyGivenNames x); refine (fun (hx : Keeps s x) => ?_) ?_; on_goal 2 => unfold x; on_goal 1 => clear_value x)
    | ((fail_if_no_progress extract_lets +onlyGivenNames x); clear_value x)
    | with_reducible refine Keeps.ite ?_ ?_

theorem State.streamError_keeps {s t : State} (h : Keeps s t) (n : Fin 32) (detail : Nat) :
    Keeps s (State.streamError t n detail) := by
  unfold State.streamError
  repeat' first
    | with_reducible assumption
    | with_reducible apply State.modRsp_keeps
    | with_reducible apply State.put_keeps
    | with_reducible apply State.setCause_keeps
    | with_reducible apply State.bump_keeps

theorem State.stageErrs_keeps {s t : State} (h : Keeps s t) (n : Fin 32) :
    Keeps s (State.stageErrs t n) := by
  unfold State.stageErrs
  repeat' first
    | with_reducible assumption
    | with_reducible apply State.readErrs_keeps
    | with_reducible refine Keeps.foldl _ (fun x a hx => ?_) ?_
    | ((fail_if_no_progress extract_lets +onlyGivenNames x); clear_value x)
    | with_reducible refine Keeps.ite ?_ ?_

theorem State.decodeHeader_keeps {s t : State} (h : Keeps s t) (n : Fin 32) :
    Keeps s (State.decodeHeader t n) := by
  unfold State.decodeHeader
  repeat' first
    | with_reducible assumption
    | with_reducible apply State.put_keeps
    | with_reducible apply State.streamError_keeps
    | with_reducible apply State.stageErrs_keeps
    | with_reducible apply State.consumeStage_keeps
    | with_reducible apply State.modRsp_keeps
    | ((fail_if_no_progress extract_lets +onlyGivenNames x); refine (fun (hx : Keeps s x) => ?_) ?_; on_goal 2 => unfold x; on_goal 1 => clear_value x)
    | ((fail_if_no_progress extract_lets +onlyGivenNames x); clear_value x)
    | with_reducible refine Keeps.ite ?_ ?_
    | split

theorem State.discardPage_keeps {s t : State} (h : Keeps s t) (n : Fin 32) (d : PageDesc) :
    Keeps s (State.discardPage t n d) := by
  unfold State.discardPage
  repeat' first
    | with_reducible assumption
    | with_reducible apply State.modRsp_keeps

theorem State.readPrevious_keeps {s t : State} (h : Keeps s t) (n : Fin 32) (d : DescCopy) (word : Nat) :
    Keeps s (State.readPrevious t n d word) := by
  unfold State.readPrevious
  repeat' first
    | with_reducible assumption
    | with_reducible apply State.readErrs_keeps
    | ((fail_if_no_progress extract_lets +onlyGivenNames x); clear_value x)
    | with_reducible refine Keeps.ite ?_ ?_

theorem State.releaseLines_keeps {s t : State} (h : Keeps s t) (n : Fin 32) :
    Keeps s (State.releaseLines t n) := by
  unfold State.releaseLines
  repeat' first
    | with_reducible assumption
    | with_reducible apply State.modRsp_keeps
    | with_reducible apply State.retryRaster_keeps
    | ((fail_if_no_progress extract_lets +onlyGivenNames x); refine (fun (hx : Keeps s x) => ?_) ?_; on_goal 2 => unfold x; on_goal 1 => clear_value x)
    | ((fail_if_no_progress extract_lets +onlyGivenNames x); clear_value x)
    | with_reducible refine Keeps.ite ?_ ?_

theorem State.resetStream_keeps {s t : State} (h : Keeps s t) (n : Fin 32) (fmt : Bool) :
    Keeps s (State.resetStream t n fmt) := by
  unfold State.resetStream
  repeat' first
    | with_reducible assumption
    | with_reducible apply State.modBar_keeps
    | with_reducible apply State.put_keeps
    | with_reducible apply State.putb_keeps
    | ((fail_if_no_progress extract_lets +onlyGivenNames x); refine (fun (hx : Keeps s x) => ?_) ?_; on_goal 2 => unfold x; on_goal 1 => clear_value x)
    | with_reducible refine Keeps.ite ?_ ?_

theorem State.runWords_keeps {s t : State} (h : Keeps s t) (n : Fin 32) (pb : List PortBWrite) (N : Nat) (a3 : Nat) :
    Keeps s (State.runWords n pb N a3 t) := by
  induction N generalizing t a3 with
  | zero =>
    unfold State.runWords
    repeat' first
      | with_reducible assumption
  | succ k ih =>
    unfold State.runWords
    repeat' first
      | with_reducible apply ih
      | with_reducible assumption
      | with_reducible apply State.modRsp_keeps
      | with_reducible apply State.streamError_keeps
      | with_reducible apply State.stageErrs_keeps
      | with_reducible apply State.readPrevious_keeps
      | with_reducible apply State.portB_keeps
      | with_reducible apply State.storeBytes_keeps
      | with_reducible apply State.consumeStage_keeps
      | ((fail_if_no_progress extract_lets +onlyGivenNames x); refine (fun (hx : Keeps s x) => ?_) ?_; on_goal 2 => unfold x; on_goal 1 => clear_value x)
      | ((fail_if_no_progress extract_lets +onlyGivenNames x); clear_value x)
      | with_reducible refine Keeps.ite ?_ ?_
      | split

theorem State.tokenHeader_keeps {s t : State} (h : Keeps s t) (n : Fin 32) (d : DescCopy) (word : Nat) (line : Option Nat) :
    Keeps s (State.tokenHeader t n d word line) := by
  unfold State.tokenHeader
  repeat' first
    | with_reducible assumption
    | with_reducible apply State.streamError_keeps
    | with_reducible apply State.stageErrs_keeps
    | with_reducible apply State.modRsp_keeps
    | with_reducible apply State.put_keeps
    | with_reducible apply State.consumeStage_keeps
    | ((fail_if_no_progress extract_lets +onlyGivenNames x); clear_value x)
    | with_reducible refine Keeps.ite ?_ ?_

theorem State.watchLines_keeps {s t : State} (h : Keeps s t) (n : Fin 32) (f : State → State) (hf : ∀ x, Keeps s x → Keeps s (f x)) :
    Keeps s (State.watchLines n f t) := by
  unfold State.watchLines
  repeat' first
    | with_reducible assumption
    | with_reducible apply hf
    | with_reducible apply State.setCauseIf_keeps

theorem execAbandon_keeps {s t : State} (h : Keeps s t) (n : Fin 32) :
    ∃ u, (execAbandon n t) = .next u ∧ Keeps s u := by
  unfold execAbandon
  repeat' first
    | with_reducible assumption
    | with_reducible apply State.atBlock_keeps
    | with_reducible apply State.abandonWrite_keeps
    | with_reducible refine ⟨_, rfl, ?_⟩
    | (intro y hy)

theorem execDecodeLineBegin_keeps {s t : State} (h : Keeps s t) (n : Fin 32) :
    ∃ u, (execDecodeLineBegin n t) = .next u ∧ Keeps s u := by
  unfold execDecodeLineBegin
  repeat' first
    | with_reducible assumption
    | with_reducible apply State.watchLines_keeps
    | with_reducible apply State.modRsp_keeps
    | with_reducible refine ⟨_, rfl, ?_⟩
    | ((fail_if_no_progress extract_lets +onlyGivenNames x); clear_value x)
    | split
    | (intro y hy)

theorem execLineDecoded_keeps {s t : State} (h : Keeps s t) (n : Fin 32) :
    ∃ u, (execLineDecoded n t) = .next u ∧ Keeps s u := by
  unfold execLineDecoded
  repeat' first
    | with_reducible assumption
    | with_reducible apply State.watchLines_keeps
    | with_reducible apply State.modRsp_keeps
    | with_reducible apply State.lineBecomesReady_keeps
    | with_reducible refine ⟨_, rfl, ?_⟩
    | split
    | (intro y hy)

theorem execPackedPageHeader_keeps {s t : State} (h : Keeps s t) (n : Fin 32) :
    ∃ u, (execPackedPageHeader n t) = .next u ∧ Keeps s u := by
  unfold execPackedPageHeader
  repeat' first
    | with_reducible assumption
    | with_reducible apply State.decodeHeader_keeps
    | with_reducible refine ⟨_, rfl, ?_⟩
    | split

theorem execPackedToken_keeps {s t : State} (h : Keeps s t) (n : Fin 32) (pb : optParam (List PortBWrite) []) :
    ∃ u, (execPackedToken n t pb) = .next u ∧ Keeps s u := by
  unfold execPackedToken
  repeat' first
    | with_reducible assumption
    | with_reducible apply State.watchLines_keeps
    | with_reducible apply State.runWords_keeps
    | with_reducible apply State.tokenHeader_keeps
    | with_reducible refine ⟨_, rfl, ?_⟩
    | split
    | (intro y hy)

theorem execRasterWrite_keeps {s t : State} (h : Keeps s t) (n : Fin 32) (off : Nat) (bytes : List Byte) :
    ∃ u, (execRasterWrite n off bytes t) = .next u ∧ Keeps s u := by
  unfold execRasterWrite
  repeat' first
    | with_reducible assumption
    | with_reducible apply State.watchLines_keeps
    | with_reducible apply State.landRaster_keeps
    | with_reducible refine ⟨_, rfl, ?_⟩
    | split
    | (intro y hy)

theorem execResetStream_keeps {s t : State} (h : Keeps s t) (n : Fin 32) (fmt : Bool) :
    ∃ u, (execResetStream n fmt t) = .next u ∧ Keeps s u := by
  unfold execResetStream
  repeat' first
    | with_reducible assumption
    | with_reducible apply State.atBlock_keeps
    | with_reducible apply State.resetStream_keeps
    | with_reducible refine ⟨_, rfl, ?_⟩
    | (intro y hy)

theorem execWaitDescEnd_keeps {s t : State} (h : Keeps s t) (n : Fin 32) :
    ∃ u, (execWaitDescEnd n t) = .next u ∧ Keeps s u := by
  unfold execWaitDescEnd
  repeat' first
    | with_reducible assumption
    | with_reducible apply State.decodeHeader_keeps
    | with_reducible refine ⟨_, rfl, ?_⟩
    | split

end Sys2Proof.Machine
end

