-- ==== Sys2Proof/Laws/Keeps/Position.lean ====
section
/-!
SUPPORT. What every operation of Machine/Position.lean keeps (Laws/Keeps.lean).
-/

namespace Sys2Proof.Machine

theorem State.adjustCaptures_keeps {s t : State} (h : Keeps s t) (x0 : Int) (ts : Nat) :
    Keeps s (State.adjustCaptures t x0 ts) := by
  unfold State.adjustCaptures
  repeat' first
    | with_reducible assumption
    | ((fail_if_no_progress extract_lets +onlyGivenNames x); clear_value x)
    | with_reducible refine Keeps.mk' ?_

theorem State.markSec_keeps {s t : State} (h : Keeps s t)  :
    Keeps s (State.markSec t) := by
  unfold State.markSec
  repeat' first
    | with_reducible assumption
    | ((fail_if_no_progress extract_lets +onlyGivenNames x); clear_value x)
    | split
    | with_reducible refine Keeps.mk' ?_

theorem State.switchToSec_keeps {s t : State} (h : Keeps s t) (a : Anchor) (q : Fin 5) (reason : Nat) :
    Keeps s (State.switchToSec t a q reason) := by
  unfold State.switchToSec
  repeat' first
    | with_reducible assumption
    | with_reducible apply State.setC_keeps
    | with_reducible apply State.put_keeps
    | with_reducible apply State.setCause_keeps
    | with_reducible apply State.bump_keeps

theorem State.loseAxis_keeps {s t : State} (h : Keeps s t) (reason : Nat) :
    Keeps s (State.loseAxis t reason) := by
  unfold State.loseAxis
  repeat' first
    | with_reducible assumption
    | with_reducible apply State.setCause_keeps
    | with_reducible apply State.put_keeps
    | with_reducible refine Keeps.ite ?_ ?_

theorem State.onFailure_keeps {s t : State} (h : Keeps s t)  :
    Keeps s (State.onFailure t) := by
  unfold State.onFailure
  repeat' first
    | with_reducible assumption
    | with_reducible apply State.put_keeps
    | with_reducible apply State.watchValid_keeps
    | with_reducible apply State.withPP_keeps
    | with_reducible apply State.switchToSec_keeps
    | with_reducible apply State.loseAxis_keeps
    | ((fail_if_no_progress extract_lets +onlyGivenNames x); clear_value x)
    | with_reducible refine Keeps.ite ?_ ?_
    | split
    | (intro y hy)

theorem State.axisCfgChanged_keeps {s t : State} (h : Keeps s t) (old : Option (Fin 5) × Option (Fin 5)) :
    Keeps s (State.axisCfgChanged t old) := by
  unfold State.axisCfgChanged
  repeat' first
    | with_reducible assumption
    | with_reducible apply State.markSec_keeps
    | with_reducible apply State.put_keeps
    | with_reducible apply State.onFailure_keeps
    | ((fail_if_no_progress extract_lets +onlyGivenNames x); clear_value x)
    | with_reducible refine Keeps.ite ?_ ?_
    | with_reducible refine Keeps.mk' ?_

theorem State.revFollow_keeps {s t : State} (h : Keeps s t) (c : Fin 4) (d : Int) :
    Keeps s (State.revFollow t c d) := by
  unfold State.revFollow
  repeat' first
    | with_reducible assumption
    | with_reducible apply State.put_keeps
    | with_reducible apply State.modChan_keeps
    | with_reducible apply State.setCause_keeps
    | ((fail_if_no_progress extract_lets +onlyGivenNames x); refine (fun (hx : Keeps s x) => ?_) ?_; on_goal 2 => unfold x; on_goal 1 => clear_value x)
    | ((fail_if_no_progress extract_lets +onlyGivenNames x); clear_value x)
    | with_reducible refine Keeps.ite ?_ ?_

theorem State.sourceCount_keeps {s t : State} (h : Keeps s t) (c : Fin 5) (d : Int) (m : Nat) (ts : Nat) :
    Keeps s (State.sourceCount t c d m ts) := by
  unfold State.sourceCount
  repeat' first
    | with_reducible assumption
    | with_reducible apply State.modChan_keeps
    | with_reducible apply State.markSec_keeps
    | with_reducible apply State.axisAdd_keeps
    | with_reducible apply State.adjustCaptures_keeps
    | ((fail_if_no_progress extract_lets +onlyGivenNames x); refine (fun (hx : Keeps s x) => ?_) ?_; on_goal 2 => unfold x; on_goal 1 => clear_value x)
    | ((fail_if_no_progress extract_lets +onlyGivenNames x); clear_value x)
    | with_reducible refine Keeps.ite ?_ ?_

theorem State.encCount_keeps {s t : State} (h : Keeps s t) (c : Fin 4) (d : Int) (ts : Nat) :
    Keeps s (State.encCount t c d ts) := by
  unfold State.encCount
  repeat' first
    | with_reducible assumption
    | with_reducible apply State.revFollow_keeps
    | with_reducible apply State.sourceCount_keeps

theorem State.illegalTransition_keeps {s t : State} (h : Keeps s t) (c : Fin 4) :
    Keeps s (State.illegalTransition t c) := by
  unfold State.illegalTransition
  repeat' first
    | with_reducible assumption
    | with_reducible apply State.modChan_keeps
    | with_reducible apply State.vlog_keeps
    | with_reducible apply State.setCause_keeps
    | with_reducible apply State.bump_keeps

theorem State.indexCorrect_keeps {s t : State} (h : Keeps s t) (c : Fin 4) (e : Int) :
    Keeps s (State.indexCorrect t c e) := by
  unfold State.indexCorrect
  repeat' first
    | with_reducible assumption
    | with_reducible apply State.withPP_keeps
    | with_reducible apply State.modChan_keeps
    | with_reducible apply State.axisAdd_keeps
    | ((fail_if_no_progress extract_lets +onlyGivenNames x); refine (fun (hx : Keeps s x) => ?_) ?_; on_goal 2 => unfold x; on_goal 1 => clear_value x)
    | with_reducible refine Keeps.ite ?_ ?_
    | (intro y hy)

theorem State.setTof_keeps {s t : State} (h : Keeps s t) (t0 : Fin 4) (x0 : Tof) :
    Keeps s (State.setTof t t0 x0) := by
  unfold State.setTof
  repeat' first
    | with_reducible assumption
    | ((fail_if_no_progress extract_lets +onlyGivenNames x); clear_value x)
    | with_reducible refine Keeps.mk' ?_

theorem State.publishCapture_keeps {s t : State} (h : Keeps s t) (t0 : Fin 4) (p : Capture) :
    Keeps s (State.publishCapture t t0 p) := by
  unfold State.publishCapture
  repeat' first
    | with_reducible assumption
    | with_reducible apply State.setReg_keeps
    | with_reducible apply State.put_keeps
    | with_reducible apply State.setTof_keeps
    | with_reducible apply State.setC_keeps
    | with_reducible apply State.setCause_keeps

theorem State.sub48_keeps {s t : State} (h : Keeps s t) (lo : Field) (hi : Field) (b : Int) :
    Keeps s (State.sub48 t lo hi b) := by
  unfold State.sub48
  repeat' first
    | with_reducible assumption
    | with_reducible apply State.put48_keeps

theorem State.subLimit_keeps {s t : State} (h : Keeps s t) (lo : Field) (hi : Field) (b : Int) :
    Keeps s (State.subLimit t lo hi b) := by
  unfold State.subLimit
  repeat' first
    | with_reducible assumption
    | with_reducible apply State.put48_keeps

theorem State.rebase_keeps {s t : State} (h : Keeps s t)  :
    Keeps s (State.rebase t) := by
  unfold State.rebase
  repeat' first
    | with_reducible assumption
    | with_reducible apply State.setCause_keeps
    | with_reducible apply State.settlePP_keeps
    | with_reducible apply State.sub48_keeps
    | with_reducible apply State.subLimit_keeps
    | with_reducible refine Keeps.forUpto (fun a x hx => ?_) _ ?_
    | ((fail_if_no_progress extract_lets +onlyGivenNames x); refine (fun (hx : Keeps s x) => ?_) ?_; on_goal 2 => unfold x; on_goal 1 => clear_value x)
    | ((fail_if_no_progress extract_lets +onlyGivenNames x); clear_value x)
    | with_reducible refine Keeps.ite ?_ ?_
    | with_reducible refine Keeps.mk' ?_

theorem State.returnToPri_keeps {s t : State} (h : Keeps s t)  :
    Keeps s (State.returnToPri t) := by
  unfold State.returnToPri
  repeat' first
    | with_reducible assumption
    | with_reducible apply State.watchValid_keeps
    | with_reducible apply State.withPP_keeps
    | with_reducible apply State.put_keeps
    | ((fail_if_no_progress extract_lets +onlyGivenNames x); refine (fun (hx : Keeps s x) => ?_) ?_; on_goal 2 => unfold x; on_goal 1 => clear_value x)
    | ((fail_if_no_progress extract_lets +onlyGivenNames x); clear_value x)
    | (intro y hy)
    | with_reducible refine Keeps.mk' ?_

theorem State.revRestart_keeps {s t : State} (h : Keeps s t) (c : Fin 4) :
    Keeps s (State.revRestart t c) := by
  unfold State.revRestart
  repeat' first
    | with_reducible assumption
    | with_reducible apply State.modChan_keeps
    | with_reducible apply State.put_keeps

theorem State.setPend_keeps {s t : State} (h : Keeps s t) (t0 : Fin 4) (l : List Capture) :
    Keeps s (State.setPend t t0 l) := by
  unfold State.setPend
  repeat' first
    | with_reducible assumption
    | with_reducible apply State.setTof_keeps
    | with_reducible apply State.modCal_keeps
    | ((fail_if_no_progress extract_lets +onlyGivenNames x); refine (fun (hx : Keeps s x) => ?_) ?_; on_goal 2 => unfold x; on_goal 1 => clear_value x)
    | ((fail_if_no_progress extract_lets +onlyGivenNames x); clear_value x)
    | with_reducible refine Keeps.ite ?_ ?_

theorem State.ssiAccept_keeps {s t : State} (h : Keeps s t) (v : Nat) (delta : Int) :
    Keeps s (State.ssiAccept t v delta) := by
  unfold State.ssiAccept
  repeat' first
    | with_reducible assumption
    | with_reducible apply State.put_keeps
    | with_reducible apply State.modChan_keeps
    | with_reducible apply State.sourceCount_keeps
    | ((fail_if_no_progress extract_lets +onlyGivenNames x); refine (fun (hx : Keeps s x) => ?_) ?_; on_goal 2 => unfold x; on_goal 1 => clear_value x)
    | ((fail_if_no_progress extract_lets +onlyGivenNames x); clear_value x)
    | with_reducible refine Keeps.ite ?_ ?_
    | with_reducible refine Keeps.mk' ?_

theorem State.ssiReject_keeps {s t : State} (h : Keeps s t) (code : Nat) (cause : Field) (rawBits : Nat) :
    Keeps s (State.ssiReject t code cause rawBits) := by
  unfold State.ssiReject
  repeat' first
    | with_reducible assumption
    | with_reducible apply State.vlog_keeps
    | with_reducible apply State.setCause_keeps
    | with_reducible apply State.bump_keeps
    | ((fail_if_no_progress extract_lets +onlyGivenNames x); clear_value x)
    | with_reducible refine Keeps.mk' ?_

theorem State.standstill_keeps {s t : State} (h : Keeps s t) (c : Fin 5) :
    Keeps s (State.standstill t c) := by
  unfold State.standstill
  repeat' first
    | with_reducible assumption
    | with_reducible apply State.withPP_keeps
    | with_reducible apply State.modChan_keeps
    | with_reducible apply State.setCauseIf_keeps
    | (intro y hy)

theorem State.tofLatch_keeps {s t : State} (h : Keeps s t) (t0 : Fin 4) (cross : Nat) :
    Keeps s (State.tofLatch t t0 cross) := by
  unfold State.tofLatch
  repeat' first
    | with_reducible assumption
    | with_reducible apply State.modCal_keeps
    | with_reducible apply State.setTof_keeps
    | with_reducible refine Keeps.ite ?_ ?_

theorem State.tofReject_keeps {s t : State} (h : Keeps s t) (t0 : Fin 4) :
    Keeps s (State.tofReject t t0) := by
  unfold State.tofReject
  repeat' first
    | with_reducible assumption
    | with_reducible apply State.setCause_keeps
    | with_reducible apply State.bump_keeps

theorem State.tofLevel_keeps {s t : State} (h : Keeps s t) (t0 : Fin 4) (level : Bool) (cross : Nat) :
    Keeps s (State.tofLevel t t0 level cross) := by
  unfold State.tofLevel
  repeat' first
    | with_reducible assumption
    | with_reducible apply State.setTof_keeps
    | with_reducible apply State.tofReject_keeps
    | with_reducible apply State.setPend_keeps
    | with_reducible refine Keeps.foldl _ (fun x a hx => ?_) ?_
    | with_reducible refine Keeps.ite ?_ ?_

theorem State.tofSettle_keeps {s t : State} (h : Keeps s t) (t0 : Fin 4) :
    Keeps s (State.tofSettle t t0) := by
  unfold State.tofSettle
  repeat' first
    | with_reducible assumption
    | with_reducible apply State.setPend_keeps
    | with_reducible apply State.publishCapture_keeps
    | with_reducible refine Keeps.ite ?_ ?_
    | split

theorem State.tofSettleAll_keeps {s t : State} (h : Keeps s t) (t0 : Fin 4) :
    Keeps s (State.tofSettleAll t t0) := by
  unfold State.tofSettleAll
  repeat' first
    | with_reducible assumption
    | with_reducible apply State.tofSettle_keeps
    | with_reducible refine Keeps.foldl _ (fun x a hx => ?_) ?_

theorem State.usePriAtTick_keeps {s t : State} (h : Keeps s t)  :
    Keeps s (State.usePriAtTick t) := by
  unfold State.usePriAtTick
  repeat' first
    | with_reducible assumption
    | with_reducible apply State.returnToPri_keeps
    | with_reducible apply State.onFailure_keeps
    | ((fail_if_no_progress extract_lets +onlyGivenNames x); clear_value x)
    | with_reducible refine Keeps.ite ?_ ?_
    | with_reducible refine Keeps.mk' ?_

theorem State.usePriWrite_keeps {s t : State} (h : Keeps s t)  :
    Keeps s (State.usePriWrite t) := by
  unfold State.usePriWrite
  repeat' first
    | with_reducible assumption
    | with_reducible apply State.returnToPri_keeps
    | ((fail_if_no_progress extract_lets +onlyGivenNames x); clear_value x)
    | with_reducible refine Keeps.ite ?_ ?_
    | with_reducible refine Keeps.mk' ?_

theorem State.watchArm_keeps {s t : State} (h : Keeps s t) (c : Fin 16) (f : State → State) (hf : ∀ x, Keeps s x → Keeps s (f x)) :
    Keeps s (State.watchArm c f t) := by
  unfold State.watchArm
  repeat' first
    | with_reducible assumption
    | with_reducible apply hf
    | ((fail_if_no_progress extract_lets +onlyGivenNames x); refine (fun (hx : Keeps s x) => ?_) ?_; on_goal 2 => unfold x; on_goal 1 => clear_value x)
    | ((fail_if_no_progress extract_lets +onlyGivenNames x); clear_value x)
    | with_reducible refine Keeps.ite ?_ ?_
    | with_reducible refine Keeps.mk' ?_

theorem State.wireClear_keeps {s t : State} (h : Keeps s t) (c : Fin 4) :
    Keeps s (State.wireClear t c) := by
  unfold State.wireClear
  repeat' first
    | with_reducible assumption
    | with_reducible apply State.modChan_keeps
    | with_reducible apply State.put_keeps
    | ((fail_if_no_progress extract_lets +onlyGivenNames x); clear_value x)
    | with_reducible refine Keeps.ite ?_ ?_

theorem State.wireFails_keeps {s t : State} (h : Keeps s t) (c : Fin 4) (k : Nat) :
    Keeps s (State.wireFails t c k) := by
  unfold State.wireFails
  repeat' first
    | with_reducible assumption
    | with_reducible apply State.modChan_keeps
    | with_reducible apply State.vlog_keeps
    | with_reducible apply State.setCause_keeps

theorem execEncoderCount_keeps {s t : State} (h : Keeps s t) (c : Fin 4) (a : Bool) (b : Bool) :
    ∃ u, (execEncoderCount c a b t) = .next u ∧ Keeps s u := by
  unfold execEncoderCount
  repeat' first
    | with_reducible assumption
    | with_reducible apply State.modChan_keeps
    | with_reducible apply State.illegalTransition_keeps
    | with_reducible apply State.watchValid_keeps
    | with_reducible apply State.withPP_keeps
    | with_reducible apply State.encCount_keeps
    | with_reducible refine ⟨_, rfl, ?_⟩
    | ((fail_if_no_progress extract_lets +onlyGivenNames x); refine (fun (hx : Keeps s x) => ?_) ?_; on_goal 2 => unfold x; on_goal 1 => clear_value x)
    | ((fail_if_no_progress extract_lets +onlyGivenNames x); clear_value x)
    | split
    | (intro y hy)

theorem execEncoderIndex_keeps {s t : State} (h : Keeps s t) (c : Fin 4) :
    ∃ u, (execEncoderIndex c t) = .next u ∧ Keeps s u := by
  unfold execEncoderIndex
  repeat' first
    | with_reducible assumption
    | with_reducible apply State.modChan_keeps
    | with_reducible apply State.put_keeps
    | with_reducible apply State.setCause_keeps
    | with_reducible apply State.indexCorrect_keeps
    | with_reducible refine ⟨_, rfl, ?_⟩
    | ((fail_if_no_progress extract_lets +onlyGivenNames x); refine (fun (hx : Keeps s x) => ?_) ?_; on_goal 2 => unfold x; on_goal 1 => clear_value x)
    | ((fail_if_no_progress extract_lets +onlyGivenNames x); clear_value x)
    | split

theorem execFailover_keeps {s t : State} (h : Keeps s t)  :
    ∃ u, (execFailover t) = .next u ∧ Keeps s u := by
  unfold execFailover
  repeat' first
    | with_reducible assumption
    | with_reducible apply State.onFailure_keeps
    | with_reducible refine ⟨_, rfl, ?_⟩
    | split

theorem execFailoverAnchor_keeps {s t : State} (h : Keeps s t)  :
    ∃ u, (execFailoverAnchor t) = .next u ∧ Keeps s u := by
  unfold execFailoverAnchor
  repeat' first
    | with_reducible assumption
    | with_reducible apply State.setCause_keeps
    | with_reducible apply State.bump_keeps
    | with_reducible refine ⟨_, rfl, ?_⟩
    | ((fail_if_no_progress extract_lets +onlyGivenNames x); refine (fun (hx : Keeps s x) => ?_) ?_; on_goal 2 => unfold x; on_goal 1 => clear_value x)
    | ((fail_if_no_progress extract_lets +onlyGivenNames x); clear_value x)
    | split
    | with_reducible refine Keeps.mk' ?_

theorem execIndexCorrection_keeps {s t : State} (h : Keeps s t) (c : Fin 4) :
    ∃ u, (execIndexCorrection c t) = .next u ∧ Keeps s u := by
  unfold execIndexCorrection
  repeat' first
    | with_reducible assumption
    | with_reducible apply State.indexCorrect_keeps
    | with_reducible apply State.modChan_keeps
    | with_reducible refine ⟨_, rfl, ?_⟩
    | ((fail_if_no_progress extract_lets +onlyGivenNames x); clear_value x)
    | split

theorem execRebase_keeps {s t : State} (h : Keeps s t)  :
    ∃ u, (execRebase t) = .next u ∧ Keeps s u := by
  unfold execRebase
  repeat' first
    | with_reducible assumption
    | with_reducible apply State.atBlock_keeps
    | with_reducible apply State.rebase_keeps
    | with_reducible refine ⟨_, rfl, ?_⟩

theorem execSpeedReeval_keeps {s t : State} (h : Keeps s t)  :
    ∃ u, (execSpeedReeval t) = .next u ∧ Keeps s u := by
  unfold execSpeedReeval
  repeat' first
    | with_reducible assumption
    | with_reducible apply State.withPP_keeps
    | with_reducible refine ⟨_, rfl, ?_⟩
    | ((fail_if_no_progress extract_lets +onlyGivenNames x); clear_value x)
    | (intro y hy)
    | with_reducible refine Keeps.mk' ?_

theorem execSsiFail_keeps {s t : State} (h : Keeps s t)  :
    ∃ u, (execSsiFail t) = .next u ∧ Keeps s u := by
  unfold execSsiFail
  repeat' first
    | with_reducible assumption
    | with_reducible apply State.setCauseIf_keeps
    | with_reducible refine ⟨_, rfl, ?_⟩

theorem execSsiFrame_keeps {s t : State} (h : Keeps s t) (bits : BitVec 48) (parity : Bool) (mono : Bool) :
    ∃ u, (execSsiFrame bits parity mono t) = .next u ∧ Keeps s u := by
  unfold execSsiFrame
  repeat' first
    | with_reducible assumption
    | with_reducible apply State.ssiReject_keeps
    | with_reducible apply State.watchValid_keeps
    | with_reducible apply State.withPP_keeps
    | with_reducible apply State.ssiAccept_keeps
    | with_reducible refine ⟨_, rfl, ?_⟩
    | ((fail_if_no_progress extract_lets +onlyGivenNames x); refine (fun (hx : Keeps s x) => ?_) ?_; on_goal 2 => unfold x; on_goal 1 => clear_value x)
    | ((fail_if_no_progress extract_lets +onlyGivenNames x); clear_value x)
    | split
    | (intro y hy)
    | with_reducible refine Keeps.mk' ?_

theorem execSsiFrameStart_keeps {s t : State} (h : Keeps s t) (data : Bool) :
    ∃ u, (execSsiFrameStart data t) = .next u ∧ Keeps s u := by
  unfold execSsiFrameStart
  repeat' first
    | with_reducible assumption
    | with_reducible refine ⟨_, rfl, ?_⟩
    | ((fail_if_no_progress extract_lets +onlyGivenNames x); clear_value x)
    | split
    | with_reducible refine Keeps.mk' ?_

theorem execStandstill_keeps {s t : State} (h : Keeps s t) (c : Fin 5) :
    ∃ u, (execStandstill c t) = .next u ∧ Keeps s u := by
  unfold execStandstill
  repeat' first
    | with_reducible assumption
    | with_reducible apply State.standstill_keeps
    | with_reducible refine ⟨_, rfl, ?_⟩
    | split

theorem execTofCapture_keeps {s t : State} (h : Keeps s t) (t0 : Fin 4) (level : Bool) (sub : Fin 13) :
    ∃ u, (execTofCapture t0 level sub t) = .next u ∧ Keeps s u := by
  unfold execTofCapture
  repeat' first
    | with_reducible assumption
    | with_reducible apply State.tofSettleAll_keeps
    | with_reducible apply State.tofLevel_keeps
    | with_reducible apply State.tofReject_keeps
    | with_reducible apply State.tofLatch_keeps
    | with_reducible refine ⟨_, rfl, ?_⟩
    | ((fail_if_no_progress extract_lets +onlyGivenNames x); refine (fun (hx : Keeps s x) => ?_) ?_; on_goal 2 => unfold x; on_goal 1 => clear_value x)
    | ((fail_if_no_progress extract_lets +onlyGivenNames x); clear_value x)
    | split

theorem execTofPublish_keeps {s t : State} (h : Keeps s t) (t0 : Fin 4) :
    ∃ u, (execTofPublish t0 t) = .next u ∧ Keeps s u := by
  unfold execTofPublish
  repeat' first
    | with_reducible assumption
    | with_reducible apply State.tofSettle_keeps
    | with_reducible refine ⟨_, rfl, ?_⟩

theorem execUsePri_keeps {s t : State} (h : Keeps s t)  :
    ∃ u, (execUsePri t) = .next u ∧ Keeps s u := by
  unfold execUsePri
  repeat' first
    | with_reducible assumption
    | with_reducible apply State.atBlock_keeps
    | with_reducible apply State.usePriWrite_keeps
    | with_reducible refine ⟨_, rfl, ?_⟩

theorem execWireClear_keeps {s t : State} (h : Keeps s t) (c : Fin 4) :
    ∃ u, (execWireClear c t) = .next u ∧ Keeps s u := by
  unfold execWireClear
  repeat' first
    | with_reducible assumption
    | with_reducible apply State.atBlock_keeps
    | with_reducible apply State.wireClear_keeps
    | with_reducible refine ⟨_, rfl, ?_⟩
    | (intro y hy)

theorem execWireDisagree_keeps {s t : State} (h : Keeps s t) (c : Fin 4) (w : WirePair) (same : Bool) :
    ∃ u, (execWireDisagree c w same t) = .next u ∧ Keeps s u := by
  unfold execWireDisagree
  repeat' first
    | with_reducible assumption
    | with_reducible apply State.modChan_keeps
    | with_reducible apply State.wireFails_keeps
    | with_reducible refine ⟨_, rfl, ?_⟩
    | ((fail_if_no_progress extract_lets +onlyGivenNames x); clear_value x)
    | split

end Sys2Proof.Machine
end

