-- ==== Sys2Proof/Laws/Keeps/Schedule.lean ====
section
/-!
SUPPORT. What every operation of Machine/Schedule.lean keeps (Laws/Keeps.lean).
-/

namespace Sys2Proof.Machine

theorem State.showPeriod_keeps {s t : State} (h : Keeps s t)  :
    Keeps s (State.showPeriod t) := by
  unfold State.showPeriod
  repeat' first
    | with_reducible assumption
    | with_reducible apply State.put_keeps

theorem State.setFreq_keeps {s t : State} (h : Keeps s t) (w : Nat) :
    Keeps s (State.setFreq t w) := by
  unfold State.setFreq
  repeat' first
    | with_reducible assumption
    | with_reducible apply State.showPeriod_keeps
    | with_reducible apply State.put_keeps

theorem State.autotuneLoad_keeps {s t : State} (h : Keeps s t)  :
    Keeps s (State.autotuneLoad t) := by
  unfold State.autotuneLoad
  repeat' first
    | with_reducible assumption
    | with_reducible apply State.setFreq_keeps
    | ((fail_if_no_progress extract_lets +onlyGivenNames x); clear_value x)
    | with_reducible refine Keeps.ite ?_ ?_

theorem State.autotuneTick_keeps {s t : State} (h : Keeps s t) (handed : Bool) :
    Keeps s (State.autotuneTick t handed) := by
  unfold State.autotuneTick
  repeat' first
    | with_reducible assumption
    | with_reducible apply State.autotuneLoad_keeps
    | ((fail_if_no_progress extract_lets +onlyGivenNames x); refine (fun (hx : Keeps s x) => ?_) ?_; on_goal 2 => unfold x; on_goal 1 => clear_value x)
    | ((fail_if_no_progress extract_lets +onlyGivenNames x); clear_value x)
    | with_reducible refine Keeps.ite ?_ ?_
    | with_reducible refine Keeps.mk' ?_

theorem State.keepWas_keeps {s t : State} (h : Keeps s t) (was : Cells Word) :
    Keeps s (State.keepWas t was) := by
  unfold State.keepWas
  repeat' first
    | with_reducible assumption
    | with_reducible apply State.setReg_keeps
    | with_reducible refine Keeps.foldl _ (fun x a hx => ?_) ?_

theorem State.copyReg_keeps {s t : State} (h : Keeps s t) (src : Nat) (dst : Nat) :
    Keeps s (State.copyReg t src dst) := by
  unfold State.copyReg
  repeat' first
    | with_reducible assumption
    | with_reducible apply State.setReg_keeps

theorem State.copyLive_keeps {s t : State} (h : Keeps s t) (offs : List Nat) :
    Keeps s (State.copyLive t offs) := by
  unfold State.copyLive
  repeat' first
    | with_reducible assumption
    | with_reducible apply State.copyReg_keeps
    | with_reducible refine Keeps.foldl _ (fun x a hx => ?_) ?_

theorem State.barBecomesLive_keeps {s t : State} (h : Keeps s t) (n : Fin 32) :
    Keeps s (State.barBecomesLive t n) := by
  unfold State.barBecomesLive
  repeat' first
    | with_reducible assumption
    | with_reducible apply State.putb_keeps
    | with_reducible apply State.keepWas_keeps
    | with_reducible apply State.copyLive_keeps
    | with_reducible apply State.put_keeps
    | with_reducible apply State.modBar_keeps
    | with_reducible refine Keeps.ite ?_ ?_

theorem State.barHandover_keeps {s t : State} (h : Keeps s t) (n : Fin 32) :
    Keeps s (State.barHandover t n) := by
  unfold State.barHandover
  repeat' first
    | with_reducible assumption
    | with_reducible apply State.put_keeps
    | with_reducible apply State.modBar_keeps
    | with_reducible apply State.barBecomesLive_keeps
    | with_reducible refine Keeps.ite ?_ ?_

theorem State.startBarCheck_keeps {s t : State} (h : Keeps s t) (n : Fin 32) (arming : Bool) :
    Keeps s (State.startBarCheck t n arming) := by
  unfold State.startBarCheck
  repeat' first
    | with_reducible assumption
    | with_reducible apply State.put_keeps
    | with_reducible apply State.modBar_keeps
    | ((fail_if_no_progress extract_lets +onlyGivenNames x); refine (fun (hx : Keeps s x) => ?_) ?_; on_goal 2 => unfold x; on_goal 1 => clear_value x)
    | ((fail_if_no_progress extract_lets +onlyGivenNames x); clear_value x)
    | with_reducible refine Keeps.ite ?_ ?_

theorem State.barShadowWrite_keeps {s t : State} (h : Keeps s t) (n : Fin 32) (r : BarShadow) (v : Word) :
    Keeps s (State.barShadowWrite t n r v) := by
  unfold State.barShadowWrite
  repeat' first
    | with_reducible assumption
    | with_reducible apply State.setReg_keeps
    | with_reducible apply State.modBar_keeps
    | with_reducible apply State.put_keeps
    | with_reducible apply State.startBarCheck_keeps
    | ((fail_if_no_progress extract_lets +onlyGivenNames x); refine (fun (hx : Keeps s x) => ?_) ?_; on_goal 2 => unfold x; on_goal 1 => clear_value x)
    | ((fail_if_no_progress extract_lets +onlyGivenNames x); clear_value x)
    | with_reducible refine Keeps.ite ?_ ?_

theorem State.completeBar_keeps {s t : State} (h : Keeps s t) (n : Fin 32) (c : BarCheck) :
    Keeps s (State.completeBar t n c) := by
  unfold State.completeBar
  repeat' first
    | with_reducible assumption
    | with_reducible apply State.put_keeps
    | with_reducible apply State.modBar_keeps
    | with_reducible apply State.setCause_keeps
    | ((fail_if_no_progress extract_lets +onlyGivenNames x); refine (fun (hx : Keeps s x) => ?_) ?_; on_goal 2 => unfold x; on_goal 1 => clear_value x)
    | ((fail_if_no_progress extract_lets +onlyGivenNames x); clear_value x)
    | with_reducible refine Keeps.ite ?_ ?_

theorem State.forceEval_keeps {s t : State} (h : Keeps s t)  :
    Keeps s (State.forceEval t) := by
  unfold State.forceEval
  repeat' first
    | with_reducible assumption
    | with_reducible apply State.put_keeps
    | ((fail_if_no_progress extract_lets +onlyGivenNames x); clear_value x)
    | with_reducible refine Keeps.ite ?_ ?_

theorem State.completeGrid_keeps {s t : State} (h : Keeps s t) (c : GridCheck) :
    Keeps s (State.completeGrid t c) := by
  unfold State.completeGrid
  repeat' first
    | with_reducible assumption
    | with_reducible apply State.put_keeps
    | with_reducible apply State.forceEval_keeps
    | ((fail_if_no_progress extract_lets +onlyGivenNames x); refine (fun (hx : Keeps s x) => ?_) ?_; on_goal 2 => unfold x; on_goal 1 => clear_value x)
    | ((fail_if_no_progress extract_lets +onlyGivenNames x); clear_value x)
    | with_reducible refine Keeps.ite ?_ ?_
    | with_reducible refine Keeps.mk' ?_

theorem State.rateChanged_keeps {s t : State} (h : Keeps s t)  :
    Keeps s (State.rateChanged t) := by
  unfold State.rateChanged
  repeat' first
    | with_reducible assumption
    | with_reducible apply State.put_keeps
    | ((fail_if_no_progress extract_lets +onlyGivenNames x); clear_value x)
    | with_reducible refine Keeps.ite ?_ ?_
    | with_reducible refine Keeps.mk' ?_

theorem State.gridBecomesLive_keeps {s t : State} (h : Keeps s t)  :
    Keeps s (State.gridBecomesLive t) := by
  unfold State.gridBecomesLive
  repeat' first
    | with_reducible assumption
    | with_reducible apply State.putb_keeps
    | with_reducible apply State.keepWas_keeps
    | with_reducible apply State.copyLive_keeps
    | with_reducible apply State.put_keeps
    | with_reducible apply State.rateChanged_keeps
    | with_reducible apply State.showPeriod_keeps
    | ((fail_if_no_progress extract_lets +onlyGivenNames x); refine (fun (hx : Keeps s x) => ?_) ?_; on_goal 2 => unfold x; on_goal 1 => clear_value x)
    | ((fail_if_no_progress extract_lets +onlyGivenNames x); clear_value x)
    | with_reducible refine Keeps.ite ?_ ?_
    | split
    | with_reducible refine Keeps.mk' ?_

theorem State.gridHandover_keeps {s t : State} (h : Keeps s t)  :
    Keeps s (State.gridHandover t) := by
  unfold State.gridHandover
  repeat' first
    | with_reducible assumption
    | with_reducible apply State.put_keeps
    | with_reducible apply State.gridBecomesLive_keeps
    | with_reducible refine Keeps.ite ?_ ?_

theorem State.startGridCheck_keeps {s t : State} (h : Keeps s t) (arming : Bool) :
    Keeps s (State.startGridCheck t arming) := by
  unfold State.startGridCheck
  repeat' first
    | with_reducible assumption
    | with_reducible apply State.put_keeps
    | ((fail_if_no_progress extract_lets +onlyGivenNames x); refine (fun (hx : Keeps s x) => ?_) ?_; on_goal 2 => unfold x; on_goal 1 => clear_value x)
    | ((fail_if_no_progress extract_lets +onlyGivenNames x); clear_value x)
    | with_reducible refine Keeps.ite ?_ ?_
    | with_reducible refine Keeps.mk' ?_

theorem State.gridShadowWrite_keeps {s t : State} (h : Keeps s t) (r : GridShadow) (v : Word) :
    Keeps s (State.gridShadowWrite t r v) := by
  unfold State.gridShadowWrite
  repeat' first
    | with_reducible assumption
    | with_reducible apply State.setReg_keeps
    | with_reducible apply State.put_keeps
    | with_reducible apply State.startGridCheck_keeps
    | ((fail_if_no_progress extract_lets +onlyGivenNames x); refine (fun (hx : Keeps s x) => ?_) ?_; on_goal 2 => unfold x; on_goal 1 => clear_value x)
    | ((fail_if_no_progress extract_lets +onlyGivenNames x); clear_value x)
    | with_reducible refine Keeps.ite ?_ ?_
    | with_reducible refine Keeps.mk' ?_

theorem State.handoversAt_keeps {s t : State} (h : Keeps s t) (n : Fin 32) (k : Nat) :
    Keeps s (State.handoversAt t n k) := by
  unfold State.handoversAt
  repeat' first
    | with_reducible assumption
    | with_reducible apply State.barHandover_keeps
    | with_reducible apply State.gridHandover_keeps
    | ((fail_if_no_progress extract_lets +onlyGivenNames x); refine (fun (hx : Keeps s x) => ?_) ?_; on_goal 2 => unfold x; on_goal 1 => clear_value x)
    | with_reducible refine Keeps.ite ?_ ?_
    | split

theorem execArm_keeps {s t : State} (h : Keeps s t) (n : Fin 32) :
    ∃ u, (execArm n t) = .next u ∧ Keeps s u := by
  unfold execArm
  repeat' first
    | with_reducible assumption
    | with_reducible apply State.atBlock_keeps
    | with_reducible apply State.startBarCheck_keeps
    | with_reducible refine ⟨_, rfl, ?_⟩
    | (intro y hy)

theorem execGarm_keeps {s t : State} (h : Keeps s t)  :
    ∃ u, (execGarm t) = .next u ∧ Keeps s u := by
  unfold execGarm
  repeat' first
    | with_reducible assumption
    | with_reducible apply State.atBlock_keeps
    | with_reducible apply State.startGridCheck_keeps
    | with_reducible refine ⟨_, rfl, ?_⟩
    | (intro y hy)

theorem execGlobalShadowWrite_keeps {s t : State} (h : Keeps s t) (r : GridShadow) (v : Word) :
    ∃ u, (execGlobalShadowWrite r v t) = .next u ∧ Keeps s u := by
  unfold execGlobalShadowWrite
  repeat' first
    | with_reducible assumption
    | with_reducible apply State.atBlock_keeps
    | with_reducible apply State.gridShadowWrite_keeps
    | with_reducible refine ⟨_, rfl, ?_⟩
    | (intro y hy)

theorem execSchedCheck_keeps {s t : State} (h : Keeps s t) (t0 : CheckTarget) :
    ∃ u, (execSchedCheck t0 t) = .next u ∧ Keeps s u := by
  unfold execSchedCheck
  repeat' first
    | with_reducible assumption
    | with_reducible apply State.completeBar_keeps
    | with_reducible apply State.completeGrid_keeps
    | with_reducible refine ⟨_, rfl, ?_⟩
    | split

theorem execShadowWrite_keeps {s t : State} (h : Keeps s t) (n : Fin 32) (r : BarShadow) (v : Word) :
    ∃ u, (execShadowWrite n r v t) = .next u ∧ Keeps s u := by
  unfold execShadowWrite
  repeat' first
    | with_reducible assumption
    | with_reducible apply State.atBlock_keeps
    | with_reducible apply State.barShadowWrite_keeps
    | with_reducible refine ⟨_, rfl, ?_⟩
    | (intro y hy)

end Sys2Proof.Machine
end

