-- ==== Sys2Proof/Laws/Keeps/Page.lean ====
section
/-!
SUPPORT. What every operation of Machine/Page.lean keeps (Laws/Keeps.lean).
-/

namespace Sys2Proof.Machine

theorem State.resumeRecord_keeps {s t : State} (h : Keeps s t) (n : Fin 32) :
    Keeps s (State.resumeRecord t n) := by
  unfold State.resumeRecord
  repeat' first
    | with_reducible assumption
    | with_reducible apply State.put48_keeps
    | with_reducible apply State.put_keeps
    | split

theorem State.modPage_keeps {s t : State} (h : Keeps s t) (n : Fin 32) (f : Page → Page) :
    Keeps s (State.modPage t n f) := by
  unfold State.modPage
  repeat' first
    | with_reducible assumption
    | with_reducible apply State.modBar_keeps

theorem State.modRec_keeps {s t : State} (h : Keeps s t) (n : Fin 32) (f : PageRec → PageRec) :
    Keeps s (State.modRec t n f) := by
  unfold State.modRec
  repeat' first
    | with_reducible assumption
    | with_reducible apply State.modPage_keeps

theorem State.pauseBar_keeps {s t : State} (h : Keeps s t) (n : Fin 32) :
    Keeps s (State.pauseBar t n) := by
  unfold State.pauseBar
  repeat' first
    | with_reducible assumption
    | with_reducible apply State.setCause_keeps
    | with_reducible apply State.bump_keeps
    | with_reducible apply State.resumeRecord_keeps
    | with_reducible apply State.modRec_keeps
    | ((fail_if_no_progress extract_lets +onlyGivenNames x); refine (fun (hx : Keeps s x) => ?_) ?_; on_goal 2 => unfold x; on_goal 1 => clear_value x)
    | with_reducible refine Keeps.ite ?_ ?_

theorem State.beginPause_keeps {s t : State} (h : Keeps s t)  :
    Keeps s (State.beginPause t) := by
  unfold State.beginPause
  repeat' first
    | with_reducible assumption
    | with_reducible apply State.pauseBar_keeps
    | with_reducible refine Keeps.foldl _ (fun x a hx => ?_) ?_
    | ((fail_if_no_progress extract_lets +onlyGivenNames x); clear_value x)
    | with_reducible refine Keeps.mk' ?_

theorem State.recordRegs_keeps {s t : State} (h : Keeps s t) (n : Fin 32) (d : PageDesc) (r : PageRec) :
    Keeps s (State.recordRegs t n d r) := by
  unfold State.recordRegs
  repeat' first
    | with_reducible assumption
    | with_reducible apply State.put_keeps
    | with_reducible apply State.setReg_keeps

theorem State.writeRecord_keeps {s t : State} (h : Keeps s t) (n : Fin 32) (d : PageDesc) (r : PageRec) :
    Keeps s (State.writeRecord t n d r) := by
  unfold State.writeRecord
  repeat' first
    | with_reducible assumption
    | with_reducible apply State.modBar_keeps
    | with_reducible apply State.recordRegs_keeps
    | with_reducible apply State.setCause_keeps
    | with_reducible apply State.setCauseIf_keeps

theorem State.captureTest_keeps {s t : State} (h : Keeps s t) (n : Fin 32) :
    Keeps s (State.captureTest t n) := by
  unfold State.captureTest
  repeat' first
    | with_reducible assumption
    | with_reducible apply State.writeRecord_keeps
    | with_reducible apply State.modBar_keeps
    | ((fail_if_no_progress extract_lets +onlyGivenNames x); clear_value x)
    | with_reducible refine Keeps.ite ?_ ?_
    | split

theorem State.closePage_keeps {s t : State} (h : Keeps s t) (n : Fin 32) :
    Keeps s (State.closePage t n) := by
  unfold State.closePage
  repeat' first
    | with_reducible assumption
    | with_reducible apply State.writeRecord_keeps
    | with_reducible apply State.modBar_keeps
    | split

theorem State.noteLast_keeps {s t : State} (h : Keeps s t) (n : Fin 32) (at_ : Nat) :
    Keeps s (State.noteLast t n at_) := by
  unfold State.noteLast
  repeat' first
    | with_reducible assumption
    | with_reducible apply State.modPage_keeps

theorem State.dropIndex_keeps {s t : State} (h : Keeps s t) (n : Fin 32) (k : Nat) :
    Keeps s (State.dropIndex t n k) := by
  unfold State.dropIndex
  repeat' first
    | with_reducible assumption
    | with_reducible apply State.setCause_keeps
    | with_reducible apply State.bump_keeps
    | with_reducible apply State.modPage_keeps
    | with_reducible apply State.latchXstop_keeps
    | with_reducible apply State.noteLast_keeps
    | with_reducible refine Keeps.ite ?_ ?_

theorem State.markKilled_keeps {s t : State} (h : Keeps s t) (n : Fin 32) (p : Page) :
    Keeps s (State.markKilled t n p) := by
  unfold State.markKilled
  repeat' first
    | with_reducible assumption
    | with_reducible apply State.modRec_keeps
    | with_reducible apply State.bumpBy_keeps

theorem State.leavePage_keeps {s t : State} (h : Keeps s t) (n : Fin 32) (f : PageRec → PageRec) :
    Keeps s (State.leavePage t n f) := by
  unfold State.leavePage
  repeat' first
    | with_reducible assumption
    | with_reducible apply State.modBar_keeps
    | with_reducible apply State.put_keeps
    | ((fail_if_no_progress extract_lets +onlyGivenNames x); refine (fun (hx : Keeps s x) => ?_) ?_; on_goal 2 => unfold x; on_goal 1 => clear_value x)
    | ((fail_if_no_progress extract_lets +onlyGivenNames x); clear_value x)
    | with_reducible refine Keeps.ite ?_ ?_
    | split

theorem State.endPage_keeps {s t : State} (h : Keeps s t) (n : Fin 32) (f : PageRec → PageRec) :
    Keeps s (State.endPage t n f) := by
  unfold State.endPage
  repeat' first
    | with_reducible assumption
    | with_reducible apply State.closePage_keeps
    | with_reducible apply State.leavePage_keeps

theorem State.markAbandoned_keeps {s t : State} (h : Keeps s t) (n : Fin 32) (p : Page) :
    Keeps s (State.markAbandoned t n p) := by
  unfold State.markAbandoned
  repeat' first
    | with_reducible assumption
    | with_reducible apply State.setCause_keeps
    | with_reducible apply State.bump_keeps
    | with_reducible apply State.discardPage_keeps
    | with_reducible apply State.modRec_keeps

theorem State.endCheck_keeps {s t : State} (h : Keeps s t) (n : Fin 32) :
    Keeps s (State.endCheck t n) := by
  unfold State.endCheck
  repeat' first
    | with_reducible assumption
    | with_reducible apply State.markKilled_keeps
    | with_reducible apply State.endPage_keeps
    | with_reducible apply State.markAbandoned_keeps
    | with_reducible apply State.leavePage_keeps
    | ((fail_if_no_progress extract_lets +onlyGivenNames x); refine (fun (hx : Keeps s x) => ?_) ?_; on_goal 2 => unfold x; on_goal 1 => clear_value x)
    | ((fail_if_no_progress extract_lets +onlyGivenNames x); clear_value x)
    | with_reducible refine Keeps.ite ?_ ?_
    | split

theorem State.endPause_keeps {s t : State} (h : Keeps s t)  :
    Keeps s (State.endPause t) := by
  unfold State.endPause
  repeat' first
    | with_reducible assumption
    | ((fail_if_no_progress extract_lets +onlyGivenNames x); clear_value x)
    | with_reducible refine Keeps.mk' ?_

theorem State.holdIndex_keeps {s t : State} (h : Keeps s t) (n : Fin 32) :
    Keeps s (State.holdIndex t n) := by
  unfold State.holdIndex
  repeat' first
    | with_reducible assumption
    | with_reducible apply State.modRec_keeps
    | with_reducible apply State.bump_keeps

theorem State.markUnderrun_keeps {s t : State} (h : Keeps s t) (n : Fin 32) :
    Keeps s (State.markUnderrun t n) := by
  unfold State.markUnderrun
  repeat' first
    | with_reducible assumption
    | with_reducible apply State.setCause_keeps
    | with_reducible apply State.bump_keeps
    | with_reducible apply State.modRec_keeps
    | with_reducible apply State.modBar_keeps
    | ((fail_if_no_progress extract_lets +onlyGivenNames x); refine (fun (hx : Keeps s x) => ?_) ?_; on_goal 2 => unfold x; on_goal 1 => clear_value x)
    | with_reducible refine Keeps.ite ?_ ?_

theorem State.pagePush_keeps {s t : State} (h : Keeps s t) (n : Fin 32) :
    Keeps s (State.pagePush t n) := by
  unfold State.pagePush
  repeat' first
    | with_reducible assumption
    | with_reducible apply State.put_keeps
    | with_reducible apply State.setCause_keeps
    | with_reducible apply State.modBar_keeps
    | ((fail_if_no_progress extract_lets +onlyGivenNames x); refine (fun (hx : Keeps s x) => ?_) ?_; on_goal 2 => unfold x; on_goal 1 => clear_value x)
    | ((fail_if_no_progress extract_lets +onlyGivenNames x); clear_value x)
    | with_reducible refine Keeps.ite ?_ ?_

theorem State.planPir_keeps {s t : State} (h : Keeps s t) (ps : Int) :
    Keeps s (State.planPir t ps) := by
  unfold State.planPir
  repeat' first
    | with_reducible assumption
    | with_reducible apply State.put_keeps
    | with_reducible apply State.put48_keeps
    | with_reducible apply State.setCause_keeps
    | with_reducible apply State.bump_keeps
    | ((fail_if_no_progress extract_lets +onlyGivenNames x); clear_value x)
    | with_reducible refine Keeps.mk' ?_

theorem State.pausedTick_keeps {s t : State} (h : Keeps s t)  :
    Keeps s (State.pausedTick t) := by
  unfold State.pausedTick
  repeat' first
    | with_reducible assumption
    | with_reducible apply State.bump_keeps
    | with_reducible apply State.planPir_keeps
    | with_reducible refine Keeps.foldl _ (fun x a hx => ?_) ?_
    | ((fail_if_no_progress extract_lets +onlyGivenNames x); refine (fun (hx : Keeps s x) => ?_) ?_; on_goal 2 => unfold x; on_goal 1 => clear_value x)
    | ((fail_if_no_progress extract_lets +onlyGivenNames x); clear_value x)
    | with_reducible refine Keeps.ite ?_ ?_
    | with_reducible refine Keeps.mk' ?_

theorem State.resumeBar_keeps {s t : State} (h : Keeps s t) (n : Fin 32) :
    Keeps s (State.resumeBar t n) := by
  unfold State.resumeBar
  repeat' first
    | with_reducible assumption
    | with_reducible apply State.modPage_keeps

theorem State.takeIndex_keeps {s t : State} (h : Keeps s t) (n : Fin 32) (k : Nat) :
    Keeps s (State.takeIndex t n k) := by
  unfold State.takeIndex
  repeat' first
    | with_reducible assumption
    | with_reducible apply State.handoversAt_keeps
    | with_reducible apply State.modPage_keeps
    | with_reducible apply State.put_keeps
    | with_reducible refine Keeps.ite ?_ ?_

theorem State.sendIndex_keeps {s t : State} (h : Keeps s t) (n : Fin 32) (k : Nat) (first : Bool) :
    Keeps s (State.sendIndex t n k first) := by
  unfold State.sendIndex
  repeat' first
    | with_reducible assumption
    | with_reducible apply State.setCauseIf_keeps
    | with_reducible apply State.bumpBy_keeps
    | with_reducible apply State.modPage_keeps
    | with_reducible apply State.noteLast_keeps
    | with_reducible apply State.modBar_keeps
    | split

theorem State.skipIndex_keeps {s t : State} (h : Keeps s t) (n : Fin 32) :
    Keeps s (State.skipIndex t n) := by
  unfold State.skipIndex
  repeat' first
    | with_reducible assumption
    | with_reducible apply State.setCause_keeps
    | with_reducible apply State.bump_keeps
    | with_reducible apply State.modRec_keeps
    | with_reducible apply State.noteLast_keeps
    | with_reducible apply State.latchXstop_keeps

theorem State.selectLoop_keeps {s t : State} (h : Keeps s t) (n : Fin 32) (N : Nat) :
    Keeps s (State.selectLoop n N t).1 := by
  induction N generalizing t with
  | zero =>
    unfold State.selectLoop
    repeat' first
      | with_reducible assumption
  | succ k ih =>
    unfold State.selectLoop
    repeat' first
      | with_reducible apply ih
      | with_reducible assumption
      | with_reducible apply State.noteLast_keeps
      | with_reducible apply State.dropIndex_keeps
      | with_reducible apply State.takeIndex_keeps
      | with_reducible apply State.holdIndex_keeps
      | with_reducible apply State.sendIndex_keeps
      | with_reducible apply State.skipIndex_keeps
      | with_reducible apply State.markUnderrun_keeps
      | ((fail_if_no_progress extract_lets +onlyGivenNames x); refine (fun (hx : Keeps s x) => ?_) ?_; on_goal 2 => unfold x; on_goal 1 => clear_value x)
      | ((fail_if_no_progress extract_lets +onlyGivenNames x); clear_value x)
      | split

theorem State.startPage_keeps {s t : State} (h : Keeps s t) (n : Fin 32) (d : PageDesc) (rest : List PageDesc) (start : Int) :
    Keeps s (State.startPage t n d rest start) := by
  unfold State.startPage
  repeat' first
    | with_reducible assumption
    | with_reducible apply State.put_keeps
    | with_reducible apply State.modBar_keeps

theorem State.selectBar_keeps {s t : State} (h : Keeps s t) (n : Fin 32) :
    Keeps s (State.selectBar t n).1 := by
  unfold State.selectBar
  repeat' first
    | with_reducible assumption
    | with_reducible apply State.selectLoop_keeps
    | with_reducible apply State.startPage_keeps
    | ((fail_if_no_progress extract_lets +onlyGivenNames x); refine (fun (hx : Keeps s x) => ?_) ?_; on_goal 2 => unfold x; on_goal 1 => clear_value x)
    | ((fail_if_no_progress extract_lets +onlyGivenNames x); refine (fun (hx : Keeps s x.1) => ?_) ?_; on_goal 2 => unfold x; on_goal 1 => clear_value x)
    | ((fail_if_no_progress extract_lets +onlyGivenNames x); clear_value x)
    | split

theorem State.selectAll_keeps {s t : State} (h : Keeps s t)  :
    Keeps s (State.selectAll t).1 := by
  unfold State.selectAll
  repeat' first
    | with_reducible assumption
    | with_reducible apply State.selectBar_keeps
    | with_reducible refine Keeps.foldlFst _ (fun x a hx => ?_) ?_
    | ((fail_if_no_progress extract_lets +onlyGivenNames x); refine (fun (hx : Keeps s x.1) => ?_) ?_; on_goal 2 => unfold x; on_goal 1 => clear_value x)
    | split

theorem State.stopRequest_keeps {s t : State} (h : Keeps s t) (t0 : Nat) :
    Keeps s (State.stopRequest t t0) := by
  unfold State.stopRequest
  repeat' first
    | with_reducible assumption
    | ((fail_if_no_progress extract_lets +onlyGivenNames x); clear_value x)
    | with_reducible refine Keeps.ite ?_ ?_
    | with_reducible refine Keeps.mk' ?_

theorem execPagePush_keeps {s t : State} (h : Keeps s t) (n : Fin 32) :
    ∃ u, (execPagePush n t) = .next u ∧ Keeps s u := by
  unfold execPagePush
  repeat' first
    | with_reducible assumption
    | with_reducible apply State.atBlock_keeps
    | with_reducible apply State.pagePush_keeps
    | with_reducible refine ⟨_, rfl, ?_⟩
    | (intro y hy)

end Sys2Proof.Machine
end

