-- ==== Sys2Proof/Laws/Keeps/Inspect.lean ====
section
/-!
SUPPORT. What every operation of Machine/Inspect.lean keeps (Laws/Keeps.lean).
-/

namespace Sys2Proof.Machine

theorem State.readKnots_keeps {s t : State} (h : Keeps s t) (p : Nat) :
    Keeps s (State.readKnots t p) := by
  unfold State.readKnots
  repeat' first
    | with_reducible assumption
    | with_reducible apply State.readCells_keeps

theorem State.vfPush_keeps {s t : State} (h : Keeps s t) (w : DWord) :
    Keeps s (State.vfPush t w) := by
  unfold State.vfPush
  repeat' first
    | with_reducible assumption
    | with_reducible apply State.cleanCells_keeps
    | with_reducible apply State.setCauseIf_keeps
    | with_reducible apply State.bump_keeps
    | ((fail_if_no_progress extract_lets +onlyGivenNames x); clear_value x)
    | with_reducible refine Keeps.mk' ?_

theorem State.modCam_keeps {s t : State} (h : Keeps s t) (p : Fin 4) (f : CamPort → CamPort) :
    Keeps s (State.modCam t p f) := by
  unfold State.modCam
  repeat' first
    | with_reducible assumption
    | ((fail_if_no_progress extract_lets +onlyGivenNames x); clear_value x)
    | with_reducible refine Keeps.mk' ?_

theorem State.modFrame_keeps {s t : State} (h : Keeps s t) (p : Fin 4) (f : CamFrame → CamFrame) :
    Keeps s (State.modFrame t p f) := by
  unfold State.modFrame
  repeat' first
    | with_reducible assumption
    | with_reducible apply State.modCam_keeps

theorem State.vfLive_keeps {s t : State} (h : Keeps s t) (p : Fin 4) (w : DWord) :
    Keeps s (State.vfLive t p w) := by
  unfold State.vfLive
  repeat' first
    | with_reducible assumption
    | with_reducible apply State.vfPush_keeps
    | with_reducible apply State.modFrame_keeps
    | with_reducible apply State.setCause_keeps
    | with_reducible apply State.bump_keeps
    | with_reducible refine Keeps.ite ?_ ?_

theorem State.emitRows_keeps {s t : State} (h : Keeps s t) (p : Fin 4) (all : Bool) (N : Nat) :
    Keeps s (State.emitRows p all N t) := by
  induction N generalizing t with
  | zero =>
    unfold State.emitRows
    repeat' first
      | with_reducible assumption
  | succ k ih =>
    unfold State.emitRows
    repeat' first
      | with_reducible apply ih
      | with_reducible assumption
      | with_reducible apply State.readKnots_keeps
      | with_reducible apply State.vfLive_keeps
      | with_reducible apply State.modFrame_keeps
      | with_reducible refine Keeps.foldl _ (fun x a hx => ?_) ?_
      | ((fail_if_no_progress extract_lets +onlyGivenNames x); refine (fun (hx : Keeps s x) => ?_) ?_; on_goal 2 => unfold x; on_goal 1 => clear_value x)
      | ((fail_if_no_progress extract_lets +onlyGivenNames x); clear_value x)
      | with_reducible refine Keeps.ite ?_ ?_
      | split

theorem State.readTables_keeps {s t : State} (h : Keeps s t) (p : Nat) (n : Nat) :
    Keeps s (State.readTables t p n) := by
  unfold State.readTables
  repeat' first
    | with_reducible assumption
    | with_reducible apply State.readCells_keeps

theorem State.setTbl_keeps {s t : State} (h : Keeps s t) (t0 : Nat) (port : Nat) (idx : Nat) (w : Word) :
    Keeps s (State.setTbl t t0 port idx w) := by
  unfold State.setTbl
  repeat' first
    | with_reducible assumption
    | ((fail_if_no_progress extract_lets +onlyGivenNames x); clear_value x)
    | with_reducible refine Keeps.mk' ?_

theorem State.vfPop_keeps {s t : State} (h : Keeps s t)  :
    Keeps s (State.vfPop t).1 := by
  unfold State.vfPop
  repeat' first
    | with_reducible assumption
    | ((fail_if_no_progress extract_lets +onlyGivenNames x); clear_value x)
    | split
    | with_reducible refine Keeps.mk' ?_

end Sys2Proof.Machine
end

