-- ==== Sys2Proof/Laws/Keeps/Camera.lean ====
section
/-!
SUPPORT. What every operation of Machine/Camera.lean keeps (Laws/Keeps.lean).
-/

namespace Sys2Proof.Machine

theorem State.discardLine_keeps {s t : State} (h : Keeps s t) (p : Fin 4) :
    Keeps s (State.discardLine t p) := by
  unfold State.discardLine
  repeat' first
    | with_reducible assumption
    | with_reducible apply State.modFrame_keeps
    | with_reducible apply State.bump_keeps

theorem State.storeOverflow_keeps {s t : State} (h : Keeps s t) (p : Fin 4) :
    Keeps s (State.storeOverflow t p) := by
  unfold State.storeOverflow
  repeat' first
    | with_reducible assumption
    | with_reducible apply State.modFrame_keeps
    | with_reducible apply State.discardLine_keeps
    | with_reducible apply State.setCause_keeps

theorem State.addLine_keeps {s t : State} (h : Keeps s t) (p : Fin 4) (l : CamLine) :
    Keeps s (State.addLine t p l) := by
  unfold State.addLine
  repeat' first
    | with_reducible assumption
    | with_reducible apply State.modFrame_keeps
    | with_reducible apply State.setCause_keeps
    | with_reducible apply State.discardLine_keeps
    | with_reducible apply State.readTables_keeps
    | with_reducible apply State.cleanCells_keeps
    | with_reducible apply State.storeOverflow_keeps
    | with_reducible apply State.emitRows_keeps
    | ((fail_if_no_progress extract_lets +onlyGivenNames x); refine (fun (hx : Keeps s x) => ?_) ?_; on_goal 2 => unfold x; on_goal 1 => clear_value x)
    | ((fail_if_no_progress extract_lets +onlyGivenNames x); clear_value x)
    | with_reducible refine Keeps.ite ?_ ?_
    | split

theorem State.camViolation_keeps {s t : State} (h : Keeps s t) (p : Fin 4) (code : Nat) (dt : Nat) (vc : Nat) :
    Keeps s (State.camViolation t p code dt vc) := by
  unfold State.camViolation
  repeat' first
    | with_reducible assumption
    | with_reducible apply State.vlog_keeps
    | with_reducible apply State.bump_keeps

theorem State.cciResult_keeps {s t : State} (h : Keeps s t) (p : Fin 4) (r : CciRes) :
    Keeps s (State.cciResult t p r) := by
  unfold State.cciResult
  repeat' first
    | with_reducible assumption
    | with_reducible apply State.setCauseIf_keeps
    | with_reducible apply State.setCause_keeps
    | with_reducible apply State.modCam_keeps
    | ((fail_if_no_progress extract_lets +onlyGivenNames x); refine (fun (hx : Keeps s x) => ?_) ?_; on_goal 2 => unfold x; on_goal 1 => clear_value x)
    | with_reducible refine Keeps.ite ?_ ?_

theorem State.cciDone_keeps {s t : State} (h : Keeps s t) (p : Fin 4) (x0 : CciCmd) (e : CciEnd) :
    Keeps s (State.cciDone t p x0 e) := by
  unfold State.cciDone
  repeat' first
    | with_reducible assumption
    | with_reducible apply State.vlog_keeps
    | with_reducible apply State.modCam_keeps
    | with_reducible apply State.put_keeps
    | with_reducible apply State.cciResult_keeps
    | with_reducible refine Keeps.ite ?_ ?_

theorem State.cciFlush_keeps {s t : State} (h : Keeps s t) (p : Fin 4) :
    Keeps s (State.cciFlush t p) := by
  unfold State.cciFlush
  repeat' first
    | with_reducible assumption
    | with_reducible apply State.cciResult_keeps
    | with_reducible apply State.modCam_keeps
    | with_reducible refine Keeps.foldl _ (fun x a hx => ?_) ?_

theorem State.cciPop_keeps {s t : State} (h : Keeps s t) (p : Fin 4) :
    Keeps s (State.cciPop t p).1 := by
  unfold State.cciPop
  repeat' first
    | with_reducible assumption
    | with_reducible apply State.setReg_keeps
    | with_reducible apply State.modCam_keeps
    | split

theorem State.cciPush_keeps {s t : State} (h : Keeps s t) (p : Fin 4) :
    Keeps s (State.cciPush t p) := by
  unfold State.cciPush
  repeat' first
    | with_reducible assumption
    | with_reducible apply State.setCause_keeps
    | with_reducible apply State.unlessHeld_keeps
    | with_reducible apply State.modCam_keeps
    | with_reducible refine Keeps.ite ?_ ?_
    | (intro y hy)

theorem State.checkCrc_keeps {s t : State} (h : Keeps s t) (p : Fin 4) (k : LongPacket) :
    Keeps s (State.checkCrc t p k) := by
  unfold State.checkCrc
  repeat' first
    | with_reducible assumption
    | with_reducible apply State.modFrame_keeps
    | with_reducible apply State.camViolation_keeps
    | with_reducible apply State.bump_keeps
    | with_reducible apply State.setCauseIf_keeps
    | ((fail_if_no_progress extract_lets +onlyGivenNames x); refine (fun (hx : Keeps s x) => ?_) ?_; on_goal 2 => unfold x; on_goal 1 => clear_value x)
    | with_reducible refine Keeps.ite ?_ ?_

theorem State.claimLive_keeps {s t : State} (h : Keeps s t) (p : Fin 4) :
    Keeps s (State.claimLive t p) := by
  unfold State.claimLive
  repeat' first
    | with_reducible assumption
    | with_reducible apply State.modCam_keeps
    | with_reducible refine Keeps.ite ?_ ?_
    | split

theorem State.missRequests_keeps {s t : State} (h : Keeps s t) (p : Fin 4) (tseq : Nat) (N : Nat) :
    Keeps s (State.missRequests p tseq N t) := by
  induction N generalizing t with
  | zero =>
    unfold State.missRequests
    repeat' first
      | with_reducible assumption
  | succ k ih =>
    unfold State.missRequests
    repeat' first
      | with_reducible apply ih
      | with_reducible assumption
      | with_reducible apply State.modCam_keeps
      | with_reducible apply State.setCause_keeps
      | with_reducible apply State.bump_keeps
      | ((fail_if_no_progress extract_lets +onlyGivenNames x); refine (fun (hx : Keeps s x) => ?_) ?_; on_goal 2 => unfold x; on_goal 1 => clear_value x)
      | ((fail_if_no_progress extract_lets +onlyGivenNames x); clear_value x)
      | with_reducible refine Keeps.ite ?_ ?_
      | split

theorem State.judgeClosed_keeps {s t : State} (h : Keeps s t) (p : Fin 4) (f : CamFrame) :
    Keeps s (State.judgeClosed t p f).1 := by
  unfold State.judgeClosed
  repeat' first
    | with_reducible assumption
    | with_reducible apply State.modCam_keeps
    | with_reducible apply State.setCause_keeps
    | split

theorem State.freeStore_keeps {s t : State} (h : Keeps s t) (p : Fin 4) :
    Keeps s (State.freeStore t p) := by
  unfold State.freeStore
  repeat' first
    | with_reducible assumption
    | with_reducible apply State.modCam_keeps

theorem State.writeStats_keeps {s t : State} (h : Keeps s t) (p : Fin 4) (f : CamFrame) :
    Keeps s (State.writeStats t p f) := by
  unfold State.writeStats
  repeat' first
    | with_reducible assumption
    | with_reducible apply State.setReg_keeps
    | with_reducible apply State.setCause_keeps

theorem State.notAnalysable_keeps {s t : State} (h : Keeps s t) (p : Fin 4) (f : CamFrame) :
    Keeps s (State.notAnalysable t p f) := by
  unfold State.notAnalysable
  repeat' first
    | with_reducible assumption
    | with_reducible apply State.writeStats_keeps
    | with_reducible apply State.modCam_keeps

theorem State.matchStored_keeps {s t : State} (h : Keeps s t) (p : Fin 4) (N : Nat) :
    Keeps s (State.matchStored p N t) := by
  induction N generalizing t with
  | zero =>
    unfold State.matchStored
    repeat' first
      | with_reducible assumption
  | succ k ih =>
    unfold State.matchStored
    repeat' first
      | with_reducible apply ih
      | with_reducible assumption
      | with_reducible apply State.modCam_keeps
      | with_reducible apply State.notAnalysable_keeps
      | with_reducible refine Keeps.ite ?_ ?_
      | split

theorem State.matchRequests_keeps {s t : State} (h : Keeps s t) (p : Fin 4) :
    Keeps s (State.matchRequests t p) := by
  unfold State.matchRequests
  repeat' first
    | with_reducible assumption
    | with_reducible apply State.claimLive_keeps
    | with_reducible apply State.matchStored_keeps
    | ((fail_if_no_progress extract_lets +onlyGivenNames x); refine (fun (hx : Keeps s x) => ?_) ?_; on_goal 2 => unfold x; on_goal 1 => clear_value x)
    | with_reducible refine Keeps.ite ?_ ?_

theorem State.closeFrame_keeps {s t : State} (h : Keeps s t) (p : Fin 4) (late : Bool) :
    Keeps s (State.closeFrame t p late) := by
  unfold State.closeFrame
  repeat' first
    | with_reducible assumption
    | with_reducible apply State.missRequests_keeps
    | with_reducible apply State.emitRows_keeps
    | with_reducible apply State.claimLive_keeps
    | with_reducible apply State.judgeClosed_keeps
    | with_reducible apply State.modCam_keeps
    | with_reducible apply State.setCauseIf_keeps
    | with_reducible apply State.freeStore_keeps
    | with_reducible apply State.matchRequests_keeps
    | with_reducible apply State.writeStats_keeps
    | with_reducible apply State.bump_keeps
    | ((fail_if_no_progress extract_lets +onlyGivenNames x); refine (fun (hx : Keeps s x) => ?_) ?_; on_goal 2 => unfold x; on_goal 1 => clear_value x)
    | with_reducible refine Keeps.ite ?_ ?_
    | split

theorem State.issueTrigger_keeps {s t : State} (h : Keeps s t) (p : Fin 4) :
    Keeps s (State.issueTrigger t p) := by
  unfold State.issueTrigger
  repeat' first
    | with_reducible assumption
    | with_reducible apply State.put_keeps
    | with_reducible apply State.modCam_keeps
    | with_reducible refine Keeps.ite ?_ ?_

theorem State.triggerRequest_keeps {s t : State} (h : Keeps s t) (p : Fin 4) :
    Keeps s (State.triggerRequest t p) := by
  unfold State.triggerRequest
  repeat' first
    | with_reducible assumption
    | with_reducible apply State.modCam_keeps
    | with_reducible apply State.issueTrigger_keeps
    | with_reducible apply State.setCause_keeps
    | with_reducible apply State.bump_keeps
    | ((fail_if_no_progress extract_lets +onlyGivenNames x); refine (fun (hx : Keeps s x) => ?_) ?_; on_goal 2 => unfold x; on_goal 1 => clear_value x)
    | ((fail_if_no_progress extract_lets +onlyGivenNames x); clear_value x)
    | with_reducible refine Keeps.ite ?_ ?_

theorem State.cmpHit_keeps {s t : State} (h : Keeps s t) (c : Fin 16) :
    Keeps s (State.cmpHit t c) := by
  unfold State.cmpHit
  repeat' first
    | with_reducible assumption
    | with_reducible apply State.put_keeps
    | with_reducible apply State.putb_keeps
    | with_reducible apply State.setCause_keeps
    | with_reducible apply State.triggerRequest_keeps
    | ((fail_if_no_progress extract_lets +onlyGivenNames x); refine (fun (hx : Keeps s x) => ?_) ?_; on_goal 2 => unfold x; on_goal 1 => clear_value x)
    | ((fail_if_no_progress extract_lets +onlyGivenNames x); clear_value x)
    | with_reducible refine Keeps.ite ?_ ?_
    | with_reducible refine Keeps.mk' ?_

theorem State.eccCorrected_keeps {s t : State} (h : Keeps s t) (p : Fin 4) :
    Keeps s (State.eccCorrected t p) := by
  unfold State.eccCorrected
  repeat' first
    | with_reducible assumption
    | with_reducible apply State.modFrame_keeps
    | with_reducible apply State.bump_keeps

theorem State.embeddedLine_keeps {s t : State} (h : Keeps s t) (p : Fin 4) (bytes : List Nat) :
    Keeps s (State.embeddedLine t p bytes) := by
  unfold State.embeddedLine
  repeat' first
    | with_reducible assumption
    | with_reducible apply State.discardLine_keeps
    | with_reducible apply State.modFrame_keeps
    | with_reducible apply State.storeOverflow_keeps
    | with_reducible apply State.cleanCells_keeps
    | with_reducible refine Keeps.ite ?_ ?_
    | split

theorem State.endReplay_keeps {s t : State} (h : Keeps s t) (r : Replay) :
    Keeps s (State.endReplay t r) := by
  unfold State.endReplay
  repeat' first
    | with_reducible assumption
    | with_reducible apply State.modCam_keeps
    | with_reducible apply State.setCause_keeps
    | with_reducible apply State.bump_keeps
    | with_reducible apply State.freeStore_keeps
    | with_reducible apply State.matchRequests_keeps
    | with_reducible apply State.writeStats_keeps
    | ((fail_if_no_progress extract_lets +onlyGivenNames x); clear_value x)
    | with_reducible refine Keeps.mk' ?_

theorem State.frameWritten_keeps {s t : State} (h : Keeps s t) (p : Fin 4) (n : Nat) :
    Keeps s (State.frameWritten t p n) := by
  unfold State.frameWritten
  repeat' first
    | with_reducible assumption
    | with_reducible apply State.freeStore_keeps
    | with_reducible apply State.modCam_keeps

theorem State.imagePacket_keeps {s t : State} (h : Keeps s t) (p : Fin 4) (k : LongPacket) :
    Keeps s (State.imagePacket t p k) := by
  unfold State.imagePacket
  repeat' first
    | with_reducible assumption
    | with_reducible apply State.modFrame_keeps
    | with_reducible apply State.camViolation_keeps
    | with_reducible apply State.addLine_keeps
    | with_reducible refine Keeps.ite ?_ ?_

theorem State.longPacket_keeps {s t : State} (h : Keeps s t) (p : Fin 4) (k : LongPacket) :
    Keeps s (State.longPacket t p k) := by
  unfold State.longPacket
  repeat' first
    | with_reducible assumption
    | with_reducible apply State.checkCrc_keeps
    | with_reducible apply State.bump_keeps
    | with_reducible apply State.camViolation_keeps
    | with_reducible apply State.imagePacket_keeps
    | with_reducible apply State.embeddedLine_keeps
    | ((fail_if_no_progress extract_lets +onlyGivenNames x); refine (fun (hx : Keeps s x) => ?_) ?_; on_goal 2 => unfold x; on_goal 1 => clear_value x)
    | ((fail_if_no_progress extract_lets +onlyGivenNames x); clear_value x)
    | with_reducible refine Keeps.ite ?_ ?_

theorem State.missingLine_keeps {s t : State} (h : Keeps s t) (p : Fin 4) :
    Keeps s (State.missingLine t p) := by
  unfold State.missingLine
  repeat' first
    | with_reducible assumption
    | with_reducible apply State.modFrame_keeps
    | with_reducible apply State.bump_keeps
    | with_reducible apply State.addLine_keeps
    | with_reducible apply State.setCause_keeps
    | ((fail_if_no_progress extract_lets +onlyGivenNames x); refine (fun (hx : Keeps s x) => ?_) ?_; on_goal 2 => unfold x; on_goal 1 => clear_value x)
    | with_reducible refine Keeps.ite ?_ ?_

theorem State.openFrame_keeps {s t : State} (h : Keeps s t) (p : Fin 4) :
    Keeps s (State.openFrame t p) := by
  unfold State.openFrame
  repeat' first
    | with_reducible assumption
    | with_reducible apply State.matchRequests_keeps
    | with_reducible apply State.modCam_keeps
    | with_reducible apply State.bump_keeps
    | ((fail_if_no_progress extract_lets +onlyGivenNames x); refine (fun (hx : Keeps s x) => ?_) ?_; on_goal 2 => unfold x; on_goal 1 => clear_value x)
    | ((fail_if_no_progress extract_lets +onlyGivenNames x); clear_value x)
    | with_reducible refine Keeps.ite ?_ ?_

theorem State.pushAreq_keeps {s t : State} (h : Keeps s t) (w0 : Word) (w1 : Word) :
    Keeps s (State.pushAreq t w0 w1) := by
  unfold State.pushAreq
  repeat' first
    | with_reducible assumption
    | with_reducible apply State.setCause_keeps
    | with_reducible apply State.matchRequests_keeps
    | with_reducible apply State.modCam_keeps
    | with_reducible apply State.emitRows_keeps
    | ((fail_if_no_progress extract_lets +onlyGivenNames x); refine (fun (hx : Keeps s x) => ?_) ?_; on_goal 2 => unfold x; on_goal 1 => clear_value x)
    | ((fail_if_no_progress extract_lets +onlyGivenNames x); clear_value x)
    | with_reducible refine Keeps.ite ?_ ?_

theorem State.replayFill_keeps {s t : State} (h : Keeps s t) (N : Nat) :
    Keeps s (State.replayFill N t) := by
  induction N generalizing t with
  | zero =>
    unfold State.replayFill
    repeat' first
      | with_reducible assumption
  | succ k ih =>
    unfold State.replayFill
    repeat' first
      | with_reducible apply ih
      | with_reducible assumption
      | with_reducible apply State.vfPush_keeps
      | ((fail_if_no_progress extract_lets +onlyGivenNames x); refine (fun (hx : Keeps s x) => ?_) ?_; on_goal 2 => unfold x; on_goal 1 => clear_value x)
      | ((fail_if_no_progress extract_lets +onlyGivenNames x); clear_value x)
      | with_reducible refine Keeps.ite ?_ ?_
      | split
      | with_reducible refine Keeps.mk' ?_

theorem State.replayRows_keeps {s t : State} (h : Keeps s t) (N : Nat) :
    Keeps s (State.replayRows N t) := by
  induction N generalizing t with
  | zero =>
    unfold State.replayRows
    repeat' first
      | with_reducible assumption
  | succ k ih =>
    unfold State.replayRows
    repeat' first
      | with_reducible apply ih
      | with_reducible assumption
      | with_reducible apply State.readKnots_keeps
      | with_reducible apply State.replayFill_keeps
      | ((fail_if_no_progress extract_lets +onlyGivenNames x); refine (fun (hx : Keeps s x) => ?_) ?_; on_goal 2 => unfold x; on_goal 1 => clear_value x)
      | ((fail_if_no_progress extract_lets +onlyGivenNames x); clear_value x)
      | with_reducible refine Keeps.ite ?_ ?_
      | split
      | with_reducible refine Keeps.mk' ?_

theorem State.replayLines_keeps {s t : State} (h : Keeps s t) (N : Nat) :
    Keeps s (State.replayLines N t) := by
  induction N generalizing t with
  | zero =>
    unfold State.replayLines
    repeat' first
      | with_reducible assumption
  | succ k ih =>
    unfold State.replayLines
    repeat' first
      | with_reducible apply ih
      | with_reducible assumption
      | with_reducible apply State.replayFill_keeps
      | with_reducible apply State.replayRows_keeps
      | with_reducible apply State.readCells_keeps
      | with_reducible apply State.readTables_keeps
      | ((fail_if_no_progress extract_lets +onlyGivenNames x); refine (fun (hx : Keeps s x) => ?_) ?_; on_goal 2 => unfold x; on_goal 1 => clear_value x)
      | ((fail_if_no_progress extract_lets +onlyGivenNames x); clear_value x)
      | with_reducible refine Keeps.ite ?_ ?_
      | split
      | with_reducible refine Keeps.mk' ?_

theorem State.replayOn_keeps {s t : State} (h : Keeps s t)  :
    Keeps s (State.replayOn t) := by
  unfold State.replayOn
  repeat' first
    | with_reducible assumption
    | with_reducible apply State.replayLines_keeps
    | split

theorem State.startReplay_keeps {s t : State} (h : Keeps s t) (p : Fin 4) (f : CamFrame) :
    Keeps s (State.startReplay t p f) := by
  unfold State.startReplay
  repeat' first
    | with_reducible assumption
    | with_reducible apply State.replayRows_keeps
    | ((fail_if_no_progress extract_lets +onlyGivenNames x); clear_value x)
    | with_reducible refine Keeps.mk' ?_

theorem State.strobeWrite_keeps {s t : State} (h : Keeps s t) (p : Fin 4) :
    Keeps s (State.strobeWrite t p) := by
  unfold State.strobeWrite
  repeat' first
    | with_reducible assumption
    | with_reducible apply State.modCam_keeps

theorem State.tablesChanged_keeps {s t : State} (h : Keeps s t) (t0 : Nat) (port : Nat) :
    Keeps s (State.tablesChanged t t0 port) := by
  unfold State.tablesChanged
  repeat' first
    | with_reducible assumption
    | with_reducible apply State.modFrame_keeps
    | ((fail_if_no_progress extract_lets +onlyGivenNames x); refine (fun (hx : Keeps s x) => ?_) ?_; on_goal 2 => unfold x; on_goal 1 => clear_value x)
    | ((fail_if_no_progress extract_lets +onlyGivenNames x); clear_value x)
    | with_reducible refine Keeps.ite ?_ ?_
    | split
    | with_reducible refine Keeps.mk' ?_

theorem State.tblAccess_keeps {s t : State} (h : Keeps s t) (write : Option Word) :
    Keeps s (State.tblAccess t write).1 := by
  unfold State.tblAccess
  repeat' first
    | with_reducible assumption
    | with_reducible apply State.readCells_keeps
    | with_reducible apply State.replayOn_keeps
    | with_reducible apply State.tablesChanged_keeps
    | with_reducible apply State.cleanCells_keeps
    | with_reducible apply State.setTbl_keeps
    | with_reducible apply State.put_keeps
    | split

theorem execCciCommandDone_keeps {s t : State} (h : Keeps s t) (p : Fin 4) (e : CciEnd) :
    ∃ u, (execCciCommandDone p e t) = .next u ∧ Keeps s u := by
  unfold execCciCommandDone
  repeat' first
    | with_reducible assumption
    | with_reducible apply State.cciDone_keeps
    | with_reducible refine ⟨_, rfl, ?_⟩
    | split

theorem execCciFlush_keeps {s t : State} (h : Keeps s t) (p : Fin 4) :
    ∃ u, (execCciFlush p t) = .next u ∧ Keeps s u := by
  unfold execCciFlush
  repeat' first
    | with_reducible assumption
    | with_reducible apply State.atBlock_keeps
    | with_reducible apply State.cciFlush_keeps
    | with_reducible refine ⟨_, rfl, ?_⟩
    | (intro y hy)

theorem execCciPush_keeps {s t : State} (h : Keeps s t) (p : Fin 4) :
    ∃ u, (execCciPush p t) = .next u ∧ Keeps s u := by
  unfold execCciPush
  repeat' first
    | with_reducible assumption
    | with_reducible apply State.atBlock_keeps
    | with_reducible apply State.cciPush_keeps
    | with_reducible refine ⟨_, rfl, ?_⟩
    | (intro y hy)

theorem execCciResultPop_keeps {s t : State} (h : Keeps s t) (p : Fin 4) :
    ∃ u, (execCciResultPop p t) = .next u ∧ Keeps s u := by
  unfold execCciResultPop
  repeat' first
    | with_reducible assumption
    | with_reducible apply State.answer_keeps
    | with_reducible apply State.unpowered_keeps
    | with_reducible apply State.cciPop_keeps
    | with_reducible refine ⟨_, rfl, ?_⟩
    | ((fail_if_no_progress extract_lets +onlyGivenNames x); refine (fun (hx : Keeps s x.1) => ?_) ?_; on_goal 2 => unfold x; on_goal 1 => clear_value x)
    | split

theorem execComparatorHit_keeps {s t : State} (h : Keeps s t) (c : Fin 16) :
    ∃ u, (execComparatorHit c t) = .next u ∧ Keeps s u := by
  unfold execComparatorHit
  repeat' first
    | with_reducible assumption
    | with_reducible apply State.cmpHit_keeps
    | with_reducible refine ⟨_, rfl, ?_⟩
    | split

theorem execDeskewSequence_keeps {s t : State} (h : Keeps s t) (p : Fin 4) :
    ∃ u, (execDeskewSequence p t) = .next u ∧ Keeps s u := by
  unfold execDeskewSequence
  repeat' first
    | with_reducible assumption
    | with_reducible apply State.put_keeps
    | with_reducible refine ⟨_, rfl, ?_⟩
    | split

theorem execFrameEnd_keeps {s t : State} (h : Keeps s t) (p : Fin 4) (vc : Fin 4) (corrected : Bool) :
    ∃ u, (execFrameEnd p vc corrected t) = .next u ∧ Keeps s u := by
  unfold execFrameEnd
  repeat' first
    | with_reducible assumption
    | with_reducible apply State.eccCorrected_keeps
    | with_reducible apply State.camViolation_keeps
    | with_reducible apply State.closeFrame_keeps
    | with_reducible refine ⟨_, rfl, ?_⟩
    | ((fail_if_no_progress extract_lets +onlyGivenNames x); refine (fun (hx : Keeps s x) => ?_) ?_; on_goal 2 => unfold x; on_goal 1 => clear_value x)
    | split

theorem execFrameStart_keeps {s t : State} (h : Keeps s t) (p : Fin 4) (vc : Fin 4) (corrected : Bool) :
    ∃ u, (execFrameStart p vc corrected t) = .next u ∧ Keeps s u := by
  unfold execFrameStart
  repeat' first
    | with_reducible assumption
    | with_reducible apply State.eccCorrected_keeps
    | with_reducible apply State.closeFrame_keeps
    | with_reducible apply State.camViolation_keeps
    | with_reducible apply State.openFrame_keeps
    | with_reducible refine ⟨_, rfl, ?_⟩
    | ((fail_if_no_progress extract_lets +onlyGivenNames x); refine (fun (hx : Keeps s x) => ?_) ?_; on_goal 2 => unfold x; on_goal 1 => clear_value x)
    | split

theorem execImageLine_keeps {s t : State} (h : Keeps s t) (p : Fin 4) (k : LongPacket) :
    ∃ u, (execImageLine p k t) = .next u ∧ Keeps s u := by
  unfold execImageLine
  repeat' first
    | with_reducible assumption
    | with_reducible apply State.missingLine_keeps
    | with_reducible apply State.camViolation_keeps
    | with_reducible apply State.longPacket_keeps
    | with_reducible apply State.eccCorrected_keeps
    | with_reducible refine ⟨_, rfl, ?_⟩
    | split

theorem execInsAreqPush_keeps {s t : State} (h : Keeps s t)  :
    ∃ u, (execInsAreqPush t) = .next u ∧ Keeps s u := by
  unfold execInsAreqPush
  repeat' first
    | with_reducible assumption
    | with_reducible apply State.atBlock_keeps
    | with_reducible apply State.pushAreq_keeps
    | with_reducible refine ⟨_, rfl, ?_⟩
    | (intro y hy)

theorem execInsTblData_keeps {s t : State} (h : Keeps s t) (write : Option Word) :
    ∃ u, (execInsTblData write t) = .next u ∧ Keeps s u := by
  unfold execInsTblData
  repeat' first
    | with_reducible assumption
    | with_reducible apply State.answer_keeps
    | with_reducible apply State.unpowered_keeps
    | with_reducible apply State.tblAccess_keeps
    | with_reducible refine ⟨_, rfl, ?_⟩
    | ((fail_if_no_progress extract_lets +onlyGivenNames x); refine (fun (hx : Keeps s x) => ?_) ?_; on_goal 2 => unfold x; on_goal 1 => clear_value x)
    | ((fail_if_no_progress extract_lets +onlyGivenNames x); refine (fun (hx : Keeps s x.1) => ?_) ?_; on_goal 2 => unfold x; on_goal 1 => clear_value x)
    | split

theorem execLineTimeout_keeps {s t : State} (h : Keeps s t) (p : Fin 4) :
    ∃ u, (execLineTimeout p t) = .next u ∧ Keeps s u := by
  unfold execLineTimeout
  repeat' first
    | with_reducible assumption
    | with_reducible apply State.closeFrame_keeps
    | with_reducible refine ⟨_, rfl, ?_⟩
    | split

theorem execLiveSwitch_keeps {s t : State} (h : Keeps s t)  :
    ∃ u, (execLiveSwitch t) = .next u ∧ Keeps s u := by
  unfold execLiveSwitch
  repeat' first
    | with_reducible assumption
    | with_reducible refine ⟨_, rfl, ?_⟩
    | ((fail_if_no_progress extract_lets +onlyGivenNames x); clear_value x)
    | split
    | with_reducible refine Keeps.mk' ?_

theorem execReplayEnd_keeps {s t : State} (h : Keeps s t)  :
    ∃ u, (execReplayEnd t) = .next u ∧ Keeps s u := by
  unfold execReplayEnd
  repeat' first
    | with_reducible assumption
    | with_reducible apply State.replayOn_keeps
    | with_reducible apply State.endReplay_keeps
    | with_reducible refine ⟨_, rfl, ?_⟩
    | ((fail_if_no_progress extract_lets +onlyGivenNames x); refine (fun (hx : Keeps s x) => ?_) ?_; on_goal 2 => unfold x; on_goal 1 => clear_value x)
    | split

theorem execReplayResume_keeps {s t : State} (h : Keeps s t)  :
    ∃ u, (execReplayResume t) = .next u ∧ Keeps s u := by
  unfold execReplayResume
  repeat' first
    | with_reducible assumption
    | with_reducible apply State.replayOn_keeps
    | with_reducible refine ⟨_, rfl, ?_⟩

theorem execReplayStart_keeps {s t : State} (h : Keeps s t)  :
    ∃ u, (execReplayStart t) = .next u ∧ Keeps s u := by
  unfold execReplayStart
  repeat' first
    | with_reducible assumption
    | with_reducible apply State.startReplay_keeps
    | with_reducible refine ⟨_, rfl, ?_⟩
    | ((fail_if_no_progress extract_lets +onlyGivenNames x); clear_value x)
    | split

theorem execStrobeFall_keeps {s t : State} (h : Keeps s t) (p : Fin 4) :
    ∃ u, (execStrobeFall p t) = .next u ∧ Keeps s u := by
  unfold execStrobeFall
  repeat' first
    | with_reducible assumption
    | with_reducible apply State.modCam_keeps
    | with_reducible refine ⟨_, rfl, ?_⟩
    | split

theorem execStrobeRise_keeps {s t : State} (h : Keeps s t) (p : Fin 4) :
    ∃ u, (execStrobeRise p t) = .next u ∧ Keeps s u := by
  unfold execStrobeRise
  repeat' first
    | with_reducible assumption
    | with_reducible apply State.modCam_keeps
    | with_reducible refine ⟨_, rfl, ?_⟩
    | split

theorem execSwtrig_keeps {s t : State} (h : Keeps s t) (p : Fin 4) :
    ∃ u, (execSwtrig p t) = .next u ∧ Keeps s u := by
  unfold execSwtrig
  repeat' first
    | with_reducible assumption
    | with_reducible apply State.atBlock_keeps
    | with_reducible apply State.triggerRequest_keeps
    | with_reducible refine ⟨_, rfl, ?_⟩
    | (intro y hy)

theorem execTrigFall_keeps {s t : State} (h : Keeps s t) (p : Fin 4) :
    ∃ u, (execTrigFall p t) = .next u ∧ Keeps s u := by
  unfold execTrigFall
  repeat' first
    | with_reducible assumption
    | with_reducible apply State.modCam_keeps
    | with_reducible refine ⟨_, rfl, ?_⟩
    | split

theorem execTriggerExpire_keeps {s t : State} (h : Keeps s t) (p : Fin 4) :
    ∃ u, (execTriggerExpire p t) = .next u ∧ Keeps s u := by
  unfold execTriggerExpire
  repeat' first
    | with_reducible assumption
    | with_reducible apply State.modCam_keeps
    | with_reducible apply State.setCause_keeps
    | with_reducible apply State.bump_keeps
    | with_reducible refine ⟨_, rfl, ?_⟩
    | ((fail_if_no_progress extract_lets +onlyGivenNames x); refine (fun (hx : Keeps s x) => ?_) ?_; on_goal 2 => unfold x; on_goal 1 => clear_value x)
    | split

theorem execUlpsChange_keeps {s t : State} (h : Keeps s t) (p : Fin 4) (on : Bool) :
    ∃ u, (execUlpsChange p on t) = .next u ∧ Keeps s u := by
  unfold execUlpsChange
  repeat' first
    | with_reducible assumption
    | with_reducible apply State.putb_keeps
    | with_reducible refine ⟨_, rfl, ?_⟩
    | split

theorem execVerdictPop_keeps {s t : State} (h : Keeps s t)  :
    ∃ u, (execVerdictPop t) = .next u ∧ Keeps s u := by
  unfold execVerdictPop
  repeat' first
    | with_reducible assumption
    | with_reducible apply State.answer_keeps
    | with_reducible apply State.unpowered_keeps
    | with_reducible apply State.replayOn_keeps
    | with_reducible apply State.vfPop_keeps
    | with_reducible apply State.readCells_keeps
    | with_reducible refine ⟨_, rfl, ?_⟩
    | ((fail_if_no_progress extract_lets +onlyGivenNames x); refine (fun (hx : Keeps s x) => ?_) ?_; on_goal 2 => unfold x; on_goal 1 => clear_value x)
    | ((fail_if_no_progress extract_lets +onlyGivenNames x); refine (fun (hx : Keeps s x.1) => ?_) ?_; on_goal 2 => unfold x; on_goal 1 => clear_value x)
    | split

end Sys2Proof.Machine
end

