-- ==== Sys2Proof/Laws/Keeps/ETest.lean ====
section
/-!
SUPPORT. What every operation of Machine/ETest.lean keeps (Laws/Keeps.lean).
-/

namespace Sys2Proof.Machine

theorem State.modEt_keeps {s t : State} (h : Keeps s t) (n : Fin 32) (f : Et → Et) :
    Keeps s (State.modEt t n f) := by
  unfold State.modEt
  repeat' first
    | with_reducible assumption
    | with_reducible apply State.modBar_keeps

theorem State.calLine_keeps {s t : State} (h : Keeps s t) (n : Fin 32) :
    Keeps s (State.calLine t n) := by
  unfold State.calLine
  repeat' first
    | with_reducible assumption
    | with_reducible apply State.calUse_keeps
    | with_reducible apply State.modEt_keeps

theorem State.calLineEnd_keeps {s t : State} (h : Keeps s t) (n : Fin 32) :
    Keeps s (State.calLineEnd t n) := by
  unfold State.calLineEnd
  repeat' first
    | with_reducible assumption
    | with_reducible apply State.calUse_keeps
    | with_reducible refine Keeps.foldl _ (fun x a hx => ?_) ?_
    | ((fail_if_no_progress extract_lets +onlyGivenNames x); refine (fun (hx : Keeps s x) => ?_) ?_; on_goal 2 => unfold x; on_goal 1 => clear_value x)
    | ((fail_if_no_progress extract_lets +onlyGivenNames x); clear_value x)
    | with_reducible refine Keeps.ite ?_ ?_

theorem State.calTick_keeps {s t : State} (h : Keeps s t) (n : Fin 32) :
    Keeps s (State.calTick t n) := by
  unfold State.calTick
  repeat' first
    | with_reducible assumption
    | with_reducible apply State.modCal_keeps
    | with_reducible refine Keeps.foldl _ (fun x a hx => ?_) ?_
    | ((fail_if_no_progress extract_lets +onlyGivenNames x); refine (fun (hx : Keeps s x) => ?_) ?_; on_goal 2 => unfold x; on_goal 1 => clear_value x)
    | with_reducible refine Keeps.ite ?_ ?_

theorem State.etBlock_keeps {s t : State} (h : Keeps s t) (n : Fin 32) :
    Keeps s (State.etBlock t n) := by
  unfold State.etBlock
  repeat' first
    | with_reducible assumption
    | with_reducible apply State.modEt_keeps

theorem State.etGap_keeps {s t : State} (h : Keeps s t) (n : Fin 32) :
    Keeps s (State.etGap t n) := by
  unfold State.etGap
  repeat' first
    | with_reducible assumption
    | with_reducible apply State.modEt_keeps

theorem State.etStep_keeps {s t : State} (h : Keeps s t) (n : Fin 32) :
    Keeps s (State.etStep t n) := by
  unfold State.etStep
  repeat' first
    | with_reducible assumption
    | with_reducible apply State.put_keeps
    | with_reducible apply State.setCause_keeps
    | with_reducible apply State.modEt_keeps
    | with_reducible refine Keeps.ite ?_ ?_

theorem State.etLine_keeps {s t : State} (h : Keeps s t) (n : Fin 32) :
    Keeps s (State.etLine t n).1 := by
  unfold State.etLine
  repeat' first
    | with_reducible assumption
    | with_reducible apply State.etGap_keeps
    | with_reducible apply State.calLine_keeps
    | with_reducible apply State.setCause_keeps
    | with_reducible apply State.modEt_keeps
    | with_reducible apply State.etStep_keeps
    | with_reducible apply State.etBlock_keeps
    | ((fail_if_no_progress extract_lets +onlyGivenNames x); refine (fun (hx : Keeps s x) => ?_) ?_; on_goal 2 => unfold x; on_goal 1 => clear_value x)
    | ((fail_if_no_progress extract_lets +onlyGivenNames x); clear_value x)
    | with_reducible refine Keeps.ite ?_ ?_
    | split

theorem State.etPush_keeps {s t : State} (h : Keeps s t) (w : DWord) :
    Keeps s (State.etPush t w) := by
  unfold State.etPush
  repeat' first
    | with_reducible assumption
    | with_reducible apply State.cleanCells_keeps
    | with_reducible apply State.setCauseIf_keeps
    | with_reducible apply State.setCause_keeps
    | ((fail_if_no_progress extract_lets +onlyGivenNames x); refine (fun (hx : Keeps s x) => ?_) ?_; on_goal 2 => unfold x; on_goal 1 => clear_value x)
    | ((fail_if_no_progress extract_lets +onlyGivenNames x); clear_value x)
    | with_reducible refine Keeps.ite ?_ ?_
    | with_reducible refine Keeps.mk' ?_

theorem State.etRefill_keeps {s t : State} (h : Keeps s t)  :
    Keeps s (State.etRefill t) := by
  unfold State.etRefill
  repeat' first
    | with_reducible assumption
    | with_reducible apply State.etPush_keeps
    | ((fail_if_no_progress extract_lets +onlyGivenNames x); clear_value x)
    | split
    | with_reducible refine Keeps.mk' ?_

theorem State.etPop_keeps {s t : State} (h : Keeps s t)  :
    Keeps s (State.etPop t).1 := by
  unfold State.etPop
  repeat' first
    | with_reducible assumption
    | with_reducible apply State.etRefill_keeps
    | ((fail_if_no_progress extract_lets +onlyGivenNames x); clear_value x)
    | split
    | with_reducible refine Keeps.mk' ?_

theorem State.strobeMean_keeps {s t : State} (h : Keeps s t) (out : LineOut) (xs : List (Nat × Rat)) (g : Nat) :
    Keeps s (State.strobeMean t out xs g).1 := by
  unfold State.strobeMean
  repeat' first
    | with_reducible assumption
    | with_reducible apply State.draw_keeps
    | split

theorem State.strobeMeans_keeps {s t : State} (h : Keeps s t) (out : LineOut) (xs : List (Nat × Rat)) :
    Keeps s (State.strobeMeans t out xs).1 := by
  unfold State.strobeMeans
  repeat' first
    | with_reducible assumption
    | with_reducible apply State.strobeMean_keeps
    | with_reducible refine Keeps.foldlFst _ (fun x a hx => ?_) ?_

theorem State.etStrobe_keeps {s t : State} (h : Keeps s t) (n : Fin 32) (l : LineFrame) (t0 : Nat) (sweep : Nat) (g : Nat) (i : Rat) (void : Nat) :
    Keeps s (State.etStrobe t n l t0 sweep g i void) := by
  unfold State.etStrobe
  repeat' first
    | with_reducible assumption
    | with_reducible apply State.bump_keeps
    | with_reducible apply State.etPush_keeps
    | ((fail_if_no_progress extract_lets +onlyGivenNames x); refine (fun (hx : Keeps s x) => ?_) ?_; on_goal 2 => unfold x; on_goal 1 => clear_value x)
    | ((fail_if_no_progress extract_lets +onlyGivenNames x); clear_value x)
    | with_reducible refine Keeps.ite ?_ ?_
    | split

theorem State.etRecords_keeps {s t : State} (h : Keeps s t) (n : Fin 32) (isns : List (Nat × Rat)) :
    Keeps s (State.etRecords t n isns) := by
  unfold State.etRecords
  repeat' first
    | with_reducible assumption
    | with_reducible apply State.strobeMeans_keeps
    | with_reducible apply State.modEt_keeps
    | with_reducible apply State.etStrobe_keeps
    | with_reducible refine Keeps.foldl _ (fun x a hx => ?_) ?_
    | ((fail_if_no_progress extract_lets +onlyGivenNames x); refine (fun (hx : Keeps s x.1) => ?_) ?_; on_goal 2 => unfold x; on_goal 1 => clear_value x)
    | ((fail_if_no_progress extract_lets +onlyGivenNames x); clear_value x)
    | split

end Sys2Proof.Machine
end

