-- ==== Sys2Proof/Laws/Keeps/Fire.lean ====
section
/-!
SUPPORT. What every operation of Machine/Fire.lean keeps (Laws/Keeps.lean).
-/

namespace Sys2Proof.Machine

theorem State.amendRecord_keeps {s t : State} (h : Keeps s t) (n : Fin 32) (serial : Nat) (f : PageRec → PageRec) :
    Keeps s (State.amendRecord t n serial f) := by
  unfold State.amendRecord
  repeat' first
    | with_reducible assumption
    | with_reducible apply State.modRec_keeps
    | with_reducible apply State.modBar_keeps
    | with_reducible apply State.put_keeps
    | with_reducible apply State.setReg_keeps
    | ((fail_if_no_progress extract_lets +onlyGivenNames x); refine (fun (hx : Keeps s x) => ?_) ?_; on_goal 2 => unfold x; on_goal 1 => clear_value x)
    | ((fail_if_no_progress extract_lets +onlyGivenNames x); clear_value x)
    | with_reducible refine Keeps.ite ?_ ?_
    | split

theorem State.assignD8_keeps {s t : State} (h : Keeps s t) (n : Fin 32) (seg : Nat) (en : Bool) :
    Keeps s (State.assignD8 t n seg en) := by
  unfold State.assignD8
  repeat' first
    | with_reducible assumption
    | with_reducible apply State.putb_keeps
    | with_reducible apply State.put_keeps
    | with_reducible apply State.modBar_keeps

theorem State.clampTick_keeps {s t : State} (h : Keeps s t)  :
    Keeps s (State.clampTick t) := by
  unfold State.clampTick
  repeat' first
    | with_reducible assumption
    | ((fail_if_no_progress extract_lets +onlyGivenNames x); clear_value x)
    | with_reducible refine Keeps.ite ?_ ?_
    | with_reducible refine Keeps.mk' ?_

theorem State.clearDue_keeps {s t : State} (h : Keeps s t)  :
    Keeps s (State.clearDue t) := by
  unfold State.clearDue
  repeat' first
    | with_reducible assumption
    | ((fail_if_no_progress extract_lets +onlyGivenNames x); clear_value x)
    | with_reducible refine Keeps.mk' ?_

theorem State.thermalReduction_keeps {s t : State} (h : Keeps s t)  :
    Keeps s (State.thermalReduction t) := by
  unfold State.thermalReduction
  repeat' first
    | with_reducible assumption
    | with_reducible apply State.clearDue_keeps
    | with_reducible apply State.setCause_keeps
    | with_reducible apply State.bump_keeps
    | with_reducible apply State.rateChanged_keeps
    | with_reducible apply State.setFreq_keeps
    | ((fail_if_no_progress extract_lets +onlyGivenNames x); refine (fun (hx : Keeps s x) => ?_) ?_; on_goal 2 => unfold x; on_goal 1 => clear_value x)
    | ((fail_if_no_progress extract_lets +onlyGivenNames x); clear_value x)
    | with_reducible refine Keeps.ite ?_ ?_
    | with_reducible refine Keeps.mk' ?_

theorem State.boundary_keeps {s t : State} (h : Keeps s t)  :
    Keeps s (State.boundary t) := by
  unfold State.boundary
  repeat' first
    | with_reducible assumption
    | with_reducible apply State.clampTick_keeps
    | with_reducible apply State.forceEval_keeps
    | with_reducible apply State.autotuneTick_keeps
    | with_reducible apply State.gridHandover_keeps
    | with_reducible apply State.thermalReduction_keeps
    | ((fail_if_no_progress extract_lets +onlyGivenNames x); refine (fun (hx : Keeps s x) => ?_) ?_; on_goal 2 => unfold x; on_goal 1 => clear_value x)
    | ((fail_if_no_progress extract_lets +onlyGivenNames x); clear_value x)
    | with_reducible refine Keeps.ite ?_ ?_

theorem State.frameReads_keeps {s t : State} (h : Keeps s t) (n : Fin 32) (idx : Option FrameIdx) (data : List Nat) :
    Keeps s (State.frameReads t n idx data) := by
  unfold State.frameReads
  repeat' first
    | with_reducible assumption
    | with_reducible apply State.readErrsIf_keeps
    | split

theorem State.buildFrames_keeps {s t : State} (h : Keeps s t) (n : Fin 32) :
    Keeps s (State.buildFrames t n) := by
  unfold State.buildFrames
  repeat' first
    | with_reducible assumption
    | with_reducible apply State.etGap_keeps
    | with_reducible apply State.etLine_keeps
    | with_reducible apply State.frameReads_keeps
    | with_reducible apply State.modBar_keeps
    | with_reducible apply State.bumpBy_keeps
    | with_reducible apply State.modRec_keeps
    | ((fail_if_no_progress extract_lets +onlyGivenNames x); refine (fun (hx : Keeps s x) => ?_) ?_; on_goal 2 => unfold x; on_goal 1 => clear_value x)
    | ((fail_if_no_progress extract_lets +onlyGivenNames x); refine (fun (hx : Keeps s x.1) => ?_) ?_; on_goal 2 => unfold x; on_goal 1 => clear_value x)
    | ((fail_if_no_progress extract_lets +onlyGivenNames x); clear_value x)
    | with_reducible refine Keeps.ite ?_ ?_
    | split

theorem State.carry_keeps {s t : State} (h : Keeps s t)  :
    Keeps s (State.carry t) := by
  unfold State.carry
  repeat' first
    | with_reducible assumption
    | with_reducible apply State.put_keeps
    | ((fail_if_no_progress extract_lets +onlyGivenNames x); clear_value x)
    | with_reducible refine Keeps.mk' ?_

theorem State.closeLate_keeps {s t : State} (h : Keeps s t)  :
    Keeps s (State.closeLate t) := by
  unfold State.closeLate
  repeat' first
    | with_reducible assumption
    | with_reducible apply State.closePage_keeps
    | with_reducible refine Keeps.foldl _ (fun x a hx => ?_) ?_
    | with_reducible refine Keeps.ite ?_ ?_

theorem State.feedBar_keeps {s t : State} (h : Keeps s t) (n : Fin 32) :
    Keeps s (State.feedBar t n) := by
  unfold State.feedBar
  repeat' first
    | with_reducible assumption
    | with_reducible apply State.releaseLines_keeps
    | with_reducible apply State.modRsp_keeps
    | ((fail_if_no_progress extract_lets +onlyGivenNames x); refine (fun (hx : Keeps s x) => ?_) ?_; on_goal 2 => unfold x; on_goal 1 => clear_value x)
    | with_reducible refine Keeps.ite ?_ ?_

theorem State.fireIndex_keeps {s t : State} (h : Keeps s t) (n : Fin 32) (i : FrameIdx) :
    Keeps s (State.fireIndex t n i) := by
  unfold State.fireIndex
  repeat' first
    | with_reducible assumption
    | with_reducible apply State.modRec_keeps
    | ((fail_if_no_progress extract_lets +onlyGivenNames x); clear_value x)
    | with_reducible refine Keeps.ite ?_ ?_
    | split

theorem State.gridOff_keeps {s t : State} (h : Keeps s t)  :
    Keeps s (State.gridOff t) := by
  unfold State.gridOff
  repeat' first
    | with_reducible assumption
    | with_reducible apply State.put_keeps
    | ((fail_if_no_progress extract_lets +onlyGivenNames x); refine (fun (hx : Keeps s x) => ?_) ?_; on_goal 2 => unfold x; on_goal 1 => clear_value x)
    | ((fail_if_no_progress extract_lets +onlyGivenNames x); clear_value x)
    | with_reducible refine Keeps.mk' ?_

theorem State.heldStopEnds_keeps {s t : State} (h : Keeps s t)  :
    Keeps s (State.heldStopEnds t) := by
  unfold State.heldStopEnds
  repeat' first
    | with_reducible assumption
    | with_reducible apply State.gridOff_keeps
    | with_reducible refine Keeps.ite ?_ ?_

theorem State.unservedLine_keeps {s t : State} (h : Keeps s t) (n : Fin 32) (serial : Nat) :
    Keeps s (State.unservedLine t n serial) := by
  unfold State.unservedLine
  repeat' first
    | with_reducible assumption
    | with_reducible apply State.amendRecord_keeps
    | with_reducible apply State.bump_keeps

theorem State.latchBar_keeps {s t : State} (h : Keeps s t) (n : Fin 32) :
    Keeps s (State.latchBar t n) := by
  unfold State.latchBar
  repeat' first
    | with_reducible assumption
    | with_reducible apply State.modBar_keeps
    | with_reducible apply State.fireIndex_keeps
    | with_reducible apply State.unservedLine_keeps
    | with_reducible refine Keeps.foldl _ (fun x a hx => ?_) ?_
    | ((fail_if_no_progress extract_lets +onlyGivenNames x); refine (fun (hx : Keeps s x) => ?_) ?_; on_goal 2 => unfold x; on_goal 1 => clear_value x)
    | ((fail_if_no_progress extract_lets +onlyGivenNames x); clear_value x)
    | with_reducible refine Keeps.ite ?_ ?_
    | split

theorem State.linesChanged_keeps {s t : State} (h : Keeps s t) (was : Nat × Bool) (n : Fin 32) :
    Keeps s (State.linesChanged was t n) := by
  unfold State.linesChanged
  repeat' first
    | with_reducible assumption
    | with_reducible apply State.setCauseIf_keeps

theorem State.lostFrame_keeps {s t : State} (h : Keeps s t) (n : Fin 32) (i : FrameIdx) (seg : Nat) :
    Keeps s (State.lostFrame t n i seg) := by
  unfold State.lostFrame
  repeat' first
    | with_reducible assumption
    | with_reducible apply State.amendRecord_keeps
    | with_reducible apply State.bump_keeps
    | with_reducible apply State.modPage_keeps
    | with_reducible apply State.stopRequest_keeps
    | with_reducible apply State.resumeRecord_keeps
    | ((fail_if_no_progress extract_lets +onlyGivenNames x); refine (fun (hx : Keeps s x) => ?_) ?_; on_goal 2 => unfold x; on_goal 1 => clear_value x)
    | ((fail_if_no_progress extract_lets +onlyGivenNames x); clear_value x)
    | with_reducible refine Keeps.ite ?_ ?_

theorem State.markLane_keeps {s t : State} (h : Keeps s t) (n : Fin 32) (lane : Nat) :
    Keeps s (State.markLane t n lane) := by
  unfold State.markLane
  repeat' first
    | with_reducible assumption
    | with_reducible apply State.put_keeps

theorem State.noSpare_keeps {s t : State} (h : Keeps s t) (n : Fin 32) (lane : Nat) (seg : Nat) :
    Keeps s (State.noSpare t n lane seg) := by
  unfold State.noSpare
  repeat' first
    | with_reducible assumption
    | with_reducible apply State.setCause_keeps
    | with_reducible apply State.modBar_keeps
    | with_reducible apply State.markLane_keeps

theorem State.settleInflight_keeps {s t : State} (h : Keeps s t) (n : Fin 32) :
    Keeps s (State.settleInflight t n) := by
  unfold State.settleInflight
  repeat' first
    | with_reducible assumption
    | with_reducible apply State.modPage_keeps

theorem State.openTick_keeps {s t : State} (h : Keeps s t) (isns : List (Nat × Rat)) (n : Fin 32) :
    Keeps s (State.openTick isns t n) := by
  unfold State.openTick
  repeat' first
    | with_reducible assumption
    | with_reducible apply State.endCheck_keeps
    | with_reducible apply State.settleInflight_keeps
    | with_reducible apply State.latchBar_keeps
    | with_reducible apply State.calLineEnd_keeps
    | with_reducible apply State.etRecords_keeps
    | with_reducible apply State.closePage_keeps
    | with_reducible apply State.modBar_keeps
    | ((fail_if_no_progress extract_lets +onlyGivenNames x); refine (fun (hx : Keeps s x) => ?_) ?_; on_goal 2 => unfold x; on_goal 1 => clear_value x)
    | with_reducible refine Keeps.ite ?_ ?_

theorem State.runStart_keeps {s t : State} (h : Keeps s t)  :
    Keeps s (State.runStart t) := by
  unfold State.runStart
  repeat' first
    | with_reducible assumption
    | with_reducible apply State.put_keeps
    | with_reducible apply State.showPeriod_keeps
    | ((fail_if_no_progress extract_lets +onlyGivenNames x); refine (fun (hx : Keeps s x) => ?_) ?_; on_goal 2 => unfold x; on_goal 1 => clear_value x)
    | ((fail_if_no_progress extract_lets +onlyGivenNames x); clear_value x)
    | with_reducible refine Keeps.ite ?_ ?_
    | with_reducible refine Keeps.mk' ?_

theorem State.runStop_keeps {s t : State} (h : Keeps s t)  :
    Keeps s (State.runStop t) := by
  unfold State.runStop
  repeat' first
    | with_reducible assumption
    | with_reducible apply State.gridOff_keeps
    | ((fail_if_no_progress extract_lets +onlyGivenNames x); refine (fun (hx : Keeps s x) => ?_) ?_; on_goal 2 => unfold x; on_goal 1 => clear_value x)
    | ((fail_if_no_progress extract_lets +onlyGivenNames x); clear_value x)
    | with_reducible refine Keeps.ite ?_ ?_
    | with_reducible refine Keeps.mk' ?_

theorem State.segFailed_keeps {s t : State} (h : Keeps s t) (n : Fin 32) (seg : Nat) (onSpare : Bool) (spareLock : Bool) :
    Keeps s (State.segFailed t n seg onSpare spareLock) := by
  unfold State.segFailed
  repeat' first
    | with_reducible assumption
    | with_reducible apply State.setCause_keeps
    | with_reducible apply State.assignD8_keeps
    | with_reducible apply State.markLane_keeps
    | with_reducible apply State.noSpare_keeps
    | with_reducible refine Keeps.ite ?_ ?_

theorem State.segReport_keeps {s t : State} (h : Keeps s t) (n : Fin 32) (seg : Nat) (st : Nat) (spareLock : Bool) :
    Keeps s (State.segReport t n seg st spareLock) := by
  unfold State.segReport
  repeat' first
    | with_reducible assumption
    | with_reducible apply State.modBar_keeps
    | with_reducible apply State.segFailed_keeps
    | with_reducible apply State.unservedLine_keeps
    | with_reducible apply State.lostFrame_keeps
    | with_reducible apply State.amendRecord_keeps
    | with_reducible apply State.bump_keeps
    | ((fail_if_no_progress extract_lets +onlyGivenNames x); refine (fun (hx : Keeps s x) => ?_) ?_; on_goal 2 => unfold x; on_goal 1 => clear_value x)
    | ((fail_if_no_progress extract_lets +onlyGivenNames x); clear_value x)
    | with_reducible refine Keeps.ite ?_ ?_
    | split

theorem State.selectionPhase_keeps {s t : State} (h : Keeps s t)  :
    Keeps s (State.selectionPhase t) := by
  unfold State.selectionPhase
  repeat' first
    | with_reducible assumption
    | with_reducible apply State.endPause_keeps
    | with_reducible apply State.pausedTick_keeps
    | with_reducible apply State.beginPause_keeps
    | with_reducible apply State.captureTest_keeps
    | with_reducible apply State.selectAll_keeps
    | with_reducible apply State.endPage_keeps
    | with_reducible apply State.markUnderrun_keeps
    | with_reducible refine Keeps.foldl _ (fun x a hx => ?_) ?_
    | ((fail_if_no_progress extract_lets +onlyGivenNames x); refine (fun (hx : Keeps s x) => ?_) ?_; on_goal 2 => unfold x; on_goal 1 => clear_value x)
    | ((fail_if_no_progress extract_lets +onlyGivenNames x); refine (fun (hx : Keeps s x.1) => ?_) ?_; on_goal 2 => unfold x; on_goal 1 => clear_value x)
    | ((fail_if_no_progress extract_lets +onlyGivenNames x); clear_value x)
    | with_reducible refine Keeps.ite ?_ ?_

theorem State.spareLane_keeps {s t : State} (h : Keeps s t) (n : Fin 32) (seg : Fin 8) (en : Bool) :
    Keeps s (State.spareLane t n seg en) := by
  unfold State.spareLane
  repeat' first
    | with_reducible assumption
    | with_reducible apply State.assignD8_keeps

theorem State.srDiscard_keeps {s t : State} (h : Keeps s t) (n : Fin 32) (code : Nat) :
    Keeps s (State.srDiscard t n code) := by
  unfold State.srDiscard
  repeat' first
    | with_reducible assumption
    | with_reducible apply State.modBar_keeps
    | with_reducible apply State.vlog_keeps
    | with_reducible apply State.bump_keeps

theorem State.srTake_keeps {s t : State} (h : Keeps s t) (n : Fin 32) (f : BitVec 128) :
    Keeps s (State.srTake t n f) := by
  unfold State.srTake
  repeat' first
    | with_reducible assumption
    | with_reducible apply State.modBar_keeps
    | with_reducible apply State.put_keeps
    | with_reducible apply State.markLane_keeps
    | with_reducible apply State.segReport_keeps
    | with_reducible refine Keeps.foldl _ (fun x a hx => ?_) ?_
    | with_reducible refine Keeps.ite ?_ ?_

theorem State.strobeBar_keeps {s t : State} (h : Keeps s t) (n : Fin 32) :
    Keeps s (State.strobeBar t n) := by
  unfold State.strobeBar
  repeat' first
    | with_reducible assumption
    | with_reducible apply State.modBar_keeps
    | with_reducible refine Keeps.ite ?_ ?_

theorem State.tickBody_keeps {s t : State} (h : Keeps s t) (reentry : Bool) (isns : Vector (List (Nat × Rat)) 32) :
    Keeps s (State.tickBody reentry isns t) := by
  unfold State.tickBody
  repeat' first
    | with_reducible assumption
    | with_reducible apply State.usePriAtTick_keeps
    | with_reducible apply State.openTick_keeps
    | with_reducible apply State.resumeBar_keeps
    | with_reducible apply State.endPause_keeps
    | with_reducible apply State.boundary_keeps
    | with_reducible apply State.selectionPhase_keeps
    | with_reducible apply State.strobeBar_keeps
    | with_reducible apply State.feedBar_keeps
    | with_reducible apply State.calTick_keeps
    | with_reducible apply State.buildFrames_keeps
    | with_reducible apply State.heldStopEnds_keeps
    | with_reducible apply State.linesChanged_keeps
    | with_reducible refine Keeps.foldl _ (fun x a hx => ?_) ?_
    | with_reducible refine Keeps.ite ?_ ?_

theorem execLineTick_keeps {s t : State} (h : Keeps s t) (isns : Vector (List (Nat × Rat)) 32) :
    ∃ u, (execLineTick isns t) = .next u ∧ Keeps s u := by
  unfold execLineTick
  repeat' first
    | with_reducible assumption
    | with_reducible apply State.withPP_keeps
    | with_reducible apply State.graceCheckMet_keeps
    | with_reducible apply State.tickBody_keeps
    | with_reducible apply State.carry_keeps
    | with_reducible refine ⟨_, rfl, ?_⟩
    | split
    | (intro y hy)

theorem execRunStart_keeps {s t : State} (h : Keeps s t)  :
    ∃ u, (execRunStart t) = .next u ∧ Keeps s u := by
  unfold execRunStart
  repeat' first
    | with_reducible assumption
    | with_reducible apply State.atBlock_keeps
    | with_reducible apply State.runStart_keeps
    | with_reducible refine ⟨_, rfl, ?_⟩

theorem execRunStop_keeps {s t : State} (h : Keeps s t)  :
    ∃ u, (execRunStop t) = .next u ∧ Keeps s u := by
  unfold execRunStop
  repeat' first
    | with_reducible assumption
    | with_reducible apply State.atBlock_keeps
    | with_reducible apply State.runStop_keeps
    | with_reducible refine ⟨_, rfl, ?_⟩

theorem execSpareLaneWrite_keeps {s t : State} (h : Keeps s t) (n : Fin 32) (seg : Fin 8) (en : Bool) :
    ∃ u, (execSpareLaneWrite n seg en t) = .next u ∧ Keeps s u := by
  unfold execSpareLaneWrite
  repeat' first
    | with_reducible assumption
    | with_reducible apply State.atBlock_keeps
    | with_reducible apply State.spareLane_keeps
    | with_reducible refine ⟨_, rfl, ?_⟩
    | (intro y hy)

theorem execStatusFrame_keeps {s t : State} (h : Keeps s t) (n : Fin 32) (f : BitVec 128) :
    ∃ u, (execStatusFrame n f t) = .next u ∧ Keeps s u := by
  unfold execStatusFrame
  repeat' first
    | with_reducible assumption
    | with_reducible apply State.modBar_keeps
    | with_reducible apply State.closePage_keeps
    | with_reducible apply State.srDiscard_keeps
    | with_reducible apply State.watchLines_keeps
    | with_reducible apply State.srTake_keeps
    | with_reducible refine ⟨_, rfl, ?_⟩
    | ((fail_if_no_progress extract_lets +onlyGivenNames x); refine (fun (hx : Keeps s x) => ?_) ?_; on_goal 2 => unfold x; on_goal 1 => clear_value x)
    | ((fail_if_no_progress extract_lets +onlyGivenNames x); clear_value x)
    | split
    | (intro y hy)

theorem execStatusLost_keeps {s t : State} (h : Keeps s t) (n : Fin 32) :
    ∃ u, (execStatusLost n t) = .next u ∧ Keeps s u := by
  unfold execStatusLost
  repeat' first
    | with_reducible assumption
    | with_reducible apply State.setCauseIf_keeps
    | with_reducible refine ⟨_, rfl, ?_⟩

end Sys2Proof.Machine
end

