-- ==== Sys2Proof/Laws/Keeps/Memory.lean ====
section
/-!
SUPPORT. What every operation of Machine/Memory.lean keeps (Laws/Keeps.lean).
-/

namespace Sys2Proof.Machine

theorem State.countDark_keeps {s t : State} (h : Keeps s t) (a : Nat) (n : Nat) :
    Keeps s (State.countDark t a n) := by
  unfold State.countDark
  repeat' first
    | with_reducible assumption
    | with_reducible apply State.unpowered_keeps
    | split

theorem State.memRead_keeps {s t : State} (h : Keeps s t) (m : Master) (a : Nat) (n : Nat) :
    Keeps s (State.memRead t m a n).1 := by
  unfold State.memRead
  repeat' first
    | with_reducible assumption
    | with_reducible apply State.readWord_keeps
    | with_reducible apply State.countDark_keeps
    | with_reducible refine Keeps.foldl _ (fun x a hx => ?_) ?_
    | ((fail_if_no_progress extract_lets +onlyGivenNames x); clear_value x)
    | split

theorem State.memWrite_keeps {s t : State} (h : Keeps s t) (m : Master) (a : Nat) (bs : List (Option Byte)) :
    Keeps s (State.memWrite t m a bs) := by
  unfold State.memWrite
  repeat' first
    | with_reducible assumption
    | with_reducible apply State.countDark_keeps
    | with_reducible apply State.put_keeps
    | with_reducible apply State.readWord_keeps
    | with_reducible apply State.setByte_keeps
    | with_reducible apply State.cleanWord_keeps
    | with_reducible refine Keeps.foldl _ (fun x a hx => ?_) ?_
    | ((fail_if_no_progress extract_lets +onlyGivenNames x); refine (fun (hx : Keeps s x) => ?_) ?_; on_goal 2 => unfold x; on_goal 1 => clear_value x)
    | ((fail_if_no_progress extract_lets +onlyGivenNames x); clear_value x)
    | with_reducible refine Keeps.ite ?_ ?_

theorem State.modPair_keeps {s t : State} (h : Keeps s t) (j : Fin 4) (f : Pair → Pair) :
    Keeps s (State.modPair t j f) := by
  unfold State.modPair
  repeat' first
    | with_reducible assumption
    | with_reducible refine Keeps.mk' ?_

theorem State.readRegion_keeps {s t : State} (h : Keeps s t) (b : Fin 116) (r : Nat) :
    Keeps s (State.readRegion t b r) := by
  unfold State.readRegion
  repeat' first
    | with_reducible assumption
    | with_reducible apply State.readCells_keeps

theorem State.rebuild_keeps {s t : State} (h : Keeps s t) (b : Fin 116) (array : Nat) :
    Keeps s (State.rebuild t b array) := by
  unfold State.rebuild
  repeat' first
    | with_reducible assumption
    | with_reducible apply State.readWord_keeps
    | with_reducible apply State.cleanWord_keeps
    | with_reducible refine Keeps.foldl _ (fun x a hx => ?_) ?_
    | ((fail_if_no_progress extract_lets +onlyGivenNames x); refine (fun (hx : Keeps s x) => ?_) ?_; on_goal 2 => unfold x; on_goal 1 => clear_value x)
    | with_reducible refine Keeps.ite ?_ ?_

theorem State.regionTested_keeps {s t : State} (h : Keeps s t) (b : Fin 116) :
    Keeps s (State.regionTested t b) := by
  unfold State.regionTested
  repeat' first
    | with_reducible assumption
    | with_reducible apply State.modBank_keeps

theorem State.repairColumn_keeps {s t : State} (h : Keeps s t) (b : Fin 116) (array : Nat) (column : Nat) :
    Keeps s (State.repairColumn t b array column) := by
  unfold State.repairColumn
  repeat' first
    | with_reducible assumption
    | with_reducible apply State.setCause_keeps
    | with_reducible apply State.rebuild_keeps
    | with_reducible apply State.setReg_keeps
    | with_reducible apply State.modBank_keeps
    | split

theorem State.wipeEnds_keeps {s t : State} (h : Keeps s t) (st : Status) :
    Keeps s (State.wipeEnds t st) := by
  unfold State.wipeEnds
  repeat' first
    | with_reducible assumption
    | with_reducible apply State.put_keeps

theorem State.wipeDone_keeps {s t : State} (h : Keeps s t) (st : Status) :
    Keeps s (State.wipeDone t st) := by
  unfold State.wipeDone
  repeat' first
    | with_reducible assumption
    | with_reducible apply State.modBank_keeps
    | with_reducible apply State.wipeEnds_keeps
    | with_reducible apply State.put_keeps
    | ((fail_if_no_progress extract_lets +onlyGivenNames x); refine (fun (hx : Keeps s x) => ?_) ?_; on_goal 2 => unfold x; on_goal 1 => clear_value x)
    | split
    | with_reducible refine Keeps.mk' ?_

theorem State.wipeRequest_keeps {s t : State} (h : Keeps s t) (b : Nat) :
    Keeps s (State.wipeRequest t b) := by
  unfold State.wipeRequest
  repeat' first
    | with_reducible assumption
    | with_reducible apply State.wipeEnds_keeps
    | with_reducible apply State.unlessHeld_keeps
    | with_reducible apply State.modBank_keeps
    | with_reducible apply State.zeroBank_keeps
    | with_reducible apply State.put_keeps
    | ((fail_if_no_progress extract_lets +onlyGivenNames x); refine (fun (hx : Keeps s x) => ?_) ?_; on_goal 2 => unfold x; on_goal 1 => clear_value x)
    | with_reducible refine Keeps.ite ?_ ?_
    | (intro y hy)
    | with_reducible refine Keeps.mk' ?_

theorem execBtRegion_keeps {s t : State} (h : Keeps s t) (b : Fin 116) (found : Option (Fin 16 × Fin 1152)) :
    ∃ u, (execBtRegion b found t) = .next u ∧ Keeps s u := by
  unfold execBtRegion
  repeat' first
    | with_reducible assumption
    | with_reducible apply State.readRegion_keeps
    | with_reducible apply State.repairColumn_keeps
    | with_reducible apply State.regionTested_keeps
    | with_reducible refine ⟨_, rfl, ?_⟩
    | ((fail_if_no_progress extract_lets +onlyGivenNames x); refine (fun (hx : Keeps s x) => ?_) ?_; on_goal 2 => unfold x; on_goal 1 => clear_value x)
    | ((fail_if_no_progress extract_lets +onlyGivenNames x); clear_value x)
    | split

theorem execMemWipe_keeps {s t : State} (h : Keeps s t) (b : Fin 128) :
    ∃ u, (execMemWipe b t) = .next u ∧ Keeps s u := by
  unfold execMemWipe
  repeat' first
    | with_reducible assumption
    | with_reducible apply State.atBlock_keeps
    | with_reducible apply State.wipeRequest_keeps
    | with_reducible refine ⟨_, rfl, ?_⟩
    | (intro y hy)

theorem execScrubWriteback_keeps {s t : State} (h : Keeps s t) (b : Fin 116) :
    ∃ u, (execScrubWriteback b t) = .next u ∧ Keeps s u := by
  unfold execScrubWriteback
  repeat' first
    | with_reducible assumption
    | with_reducible apply State.modBank_keeps
    | with_reducible refine ⟨_, rfl, ?_⟩
    | ((fail_if_no_progress extract_lets +onlyGivenNames x); refine (fun (hx : Keeps s x) => ?_) ?_; on_goal 2 => unfold x; on_goal 1 => clear_value x)
    | split
    | with_reducible refine Keeps.mk' ?_

theorem execWipeDone_keeps {s t : State} (h : Keeps s t)  :
    ∃ u, (execWipeDone t) = .next u ∧ Keeps s u := by
  unfold execWipeDone
  repeat' first
    | with_reducible assumption
    | with_reducible apply State.setCause_keeps
    | with_reducible apply State.wipeDone_keeps
    | with_reducible refine ⟨_, rfl, ?_⟩
    | split

end Sys2Proof.Machine
end

