-- ==== Sys2Proof/Laws/Keeps/Transport.lean ====
section
/-!
SUPPORT. What every operation of Machine/Transport.lean keeps (Laws/Keeps.lean).
-/

namespace Sys2Proof.Machine

theorem State.cancelArmed_keeps {s t : State} (h : Keeps s t)  :
    Keeps s (State.cancelArmed t) := by
  unfold State.cancelArmed
  repeat' first
    | with_reducible assumption
    | with_reducible apply State.put_keeps
    | ((fail_if_no_progress extract_lets +onlyGivenNames x); refine (fun (hx : Keeps s x) => ?_) ?_; on_goal 2 => unfold x; on_goal 1 => clear_value x)
    | ((fail_if_no_progress extract_lets +onlyGivenNames x); clear_value x)
    | with_reducible refine Keeps.ite ?_ ?_
    | with_reducible refine Keeps.mk' ?_

theorem State.setGen_keeps {s t : State} (h : Keeps s t) (g : Gen) :
    Keeps s (State.setGen t g) := by
  unfold State.setGen
  repeat' first
    | with_reducible assumption
    | with_reducible apply State.put_keeps

theorem State.modXpt_keeps {s t : State} (h : Keeps s t) (f : Xpt → Xpt) :
    Keeps s (State.modXpt t f) := by
  unfold State.modXpt
  repeat' first
    | with_reducible assumption
    | with_reducible refine Keeps.mk' ?_

theorem State.unsettled_keeps {s t : State} (h : Keeps s t)  :
    Keeps s (State.unsettled t) := by
  unfold State.unsettled
  repeat' first
    | with_reducible assumption
    | with_reducible apply State.cancelArmed_keeps
    | with_reducible apply State.setGen_keeps
    | with_reducible apply State.setCause_keeps
    | with_reducible apply State.bump_keeps
    | with_reducible apply State.put_keeps
    | with_reducible apply State.modXpt_keeps
    | ((fail_if_no_progress extract_lets +onlyGivenNames x); refine (fun (hx : Keeps s x) => ?_) ?_; on_goal 2 => unfold x; on_goal 1 => clear_value x)
    | ((fail_if_no_progress extract_lets +onlyGivenNames x); clear_value x)
    | with_reducible refine Keeps.ite ?_ ?_

theorem State.settleTest_keeps {s t : State} (h : Keeps s t) (p : PirPlan) :
    Keeps s (State.settleTest t p) := by
  unfold State.settleTest
  repeat' first
    | with_reducible assumption
    | with_reducible apply State.put_keeps
    | with_reducible apply State.unsettled_keeps
    | with_reducible refine Keeps.ite ?_ ?_

theorem State.approachTest_keeps {s t : State} (h : Keeps s t) (tick : Bool) :
    Keeps s (State.approachTest t tick) := by
  unfold State.approachTest
  repeat' first
    | with_reducible assumption
    | with_reducible apply State.settleTest_keeps
    | with_reducible refine Keeps.ite ?_ ?_
    | split

theorem State.xenHigh_keeps {s t : State} (h : Keeps s t)  :
    Keeps s (State.xenHigh t) := by
  unfold State.xenHigh
  repeat' first
    | with_reducible assumption
    | with_reducible apply State.modXpt_keeps
    | with_reducible apply State.put_keeps

theorem State.enterFault_keeps {s t : State} (h : Keeps s t)  :
    Keeps s (State.enterFault t) := by
  unfold State.enterFault
  repeat' first
    | with_reducible assumption
    | with_reducible apply State.modXpt_keeps
    | with_reducible apply State.setGen_keeps
    | with_reducible apply State.xenHigh_keeps
    | with_reducible apply State.cancelArmed_keeps

theorem State.driveFault_keeps {s t : State} (h : Keeps s t)  :
    Keeps s (State.driveFault t) := by
  unfold State.driveFault
  repeat' first
    | with_reducible assumption
    | with_reducible apply State.setCause_keeps
    | with_reducible apply State.put_keeps
    | with_reducible apply State.latchXstop_keeps
    | with_reducible apply State.enterFault_keeps
    | ((fail_if_no_progress extract_lets +onlyGivenNames x); refine (fun (hx : Keeps s x) => ?_) ?_; on_goal 2 => unfold x; on_goal 1 => clear_value x)
    | with_reducible refine Keeps.ite ?_ ?_

theorem State.followPP_keeps {s t : State} (h : Keeps s t) (v : Rat) :
    Keeps s (State.followPP t v) := by
  unfold State.followPP
  repeat' first
    | with_reducible assumption
    | with_reducible apply State.modXpt_keeps

theorem State.enableDone_keeps {s t : State} (h : Keeps s t) (next : AfterEnable) :
    Keeps s (State.enableDone t next) := by
  unfold State.enableDone
  repeat' first
    | with_reducible assumption
    | with_reducible apply State.modXpt_keeps
    | with_reducible apply State.setGen_keeps
    | with_reducible apply State.put_keeps
    | with_reducible apply State.followPP_keeps
    | ((fail_if_no_progress extract_lets +onlyGivenNames x); refine (fun (hx : Keeps s x) => ?_) ?_; on_goal 2 => unfold x; on_goal 1 => clear_value x)
    | split

theorem State.enableDrive_keeps {s t : State} (h : Keeps s t) (next : AfterEnable) :
    Keeps s (State.enableDrive t next) := by
  unfold State.enableDrive
  repeat' first
    | with_reducible assumption
    | with_reducible apply State.modXpt_keeps
    | with_reducible apply State.put_keeps

theorem State.forceDrive_keeps {s t : State} (h : Keeps s t)  :
    Keeps s (State.forceDrive t) := by
  unfold State.forceDrive
  repeat' first
    | with_reducible assumption
    | with_reducible apply State.enterFault_keeps
    | with_reducible apply State.xenHigh_keeps
    | with_reducible refine Keeps.ite ?_ ?_

theorem State.pauseOver_keeps {s t : State} (h : Keeps s t)  :
    Keeps s (State.pauseOver t) := by
  unfold State.pauseOver
  repeat' first
    | with_reducible assumption
    | with_reducible apply State.setGen_keeps
    | with_reducible apply State.endPause_keeps
    | with_reducible refine Keeps.ite ?_ ?_
    | split

theorem State.rampStep_keeps {s t : State} (h : Keeps s t) (dt : Rat) :
    Keeps s (State.rampStep t dt) := by
  unfold State.rampStep
  repeat' first
    | with_reducible assumption
    | with_reducible apply State.followPP_keeps
    | with_reducible apply State.setGen_keeps
    | with_reducible apply State.setCause_keeps
    | ((fail_if_no_progress extract_lets +onlyGivenNames x); refine (fun (hx : Keeps s x) => ?_) ?_; on_goal 2 => unfold x; on_goal 1 => clear_value x)
    | ((fail_if_no_progress extract_lets +onlyGivenNames x); clear_value x)
    | with_reducible refine Keeps.ite ?_ ?_

theorem State.stopRamp_keeps {s t : State} (h : Keeps s t) (dt : Rat) :
    Keeps s (State.stopRamp t dt) := by
  unfold State.stopRamp
  repeat' first
    | with_reducible assumption
    | with_reducible apply State.modXpt_keeps
    | with_reducible apply State.setGen_keeps
    | with_reducible apply State.followPP_keeps
    | with_reducible apply State.rampStep_keeps
    | ((fail_if_no_progress extract_lets +onlyGivenNames x); refine (fun (hx : Keeps s x) => ?_) ?_; on_goal 2 => unfold x; on_goal 1 => clear_value x)
    | with_reducible refine Keeps.ite ?_ ?_

theorem State.trackStep_keeps {s t : State} (h : Keeps s t) (tick : Bool) :
    Keeps s (State.trackStep t tick) := by
  unfold State.trackStep
  repeat' first
    | with_reducible assumption
    | with_reducible apply State.modXpt_keeps

theorem State.integrate_keeps {s t : State} (h : Keeps s t) (v : Rat) (dt : Rat) :
    Keeps s (State.integrate t v dt) := by
  unfold State.integrate
  repeat' first
    | with_reducible assumption
    | with_reducible apply State.modXpt_keeps

theorem State.reverseStep_keeps {s t : State} (h : Keeps s t) (p : PirPlan) (dt : Rat) :
    Keeps s (State.reverseStep t p dt) := by
  unfold State.reverseStep
  repeat' first
    | with_reducible assumption
    | with_reducible apply State.integrate_keeps
    | with_reducible apply State.setGen_keeps
    | with_reducible apply State.modXpt_keeps
    | ((fail_if_no_progress extract_lets +onlyGivenNames x); refine (fun (hx : Keeps s x) => ?_) ?_; on_goal 2 => unfold x; on_goal 1 => clear_value x)
    | ((fail_if_no_progress extract_lets +onlyGivenNames x); clear_value x)
    | with_reducible refine Keeps.ite ?_ ?_

theorem State.profile_keeps {s t : State} (h : Keeps s t) (tick : Bool) (dt : Rat) :
    Keeps s (State.profile t tick dt) := by
  unfold State.profile
  repeat' first
    | with_reducible assumption
    | with_reducible apply State.followPP_keeps
    | with_reducible apply State.stopRamp_keeps
    | with_reducible apply State.rampStep_keeps
    | with_reducible apply State.trackStep_keeps
    | with_reducible apply State.integrate_keeps
    | with_reducible apply State.setGen_keeps
    | with_reducible apply State.reverseStep_keeps
    | with_reducible apply State.modXpt_keeps
    | ((fail_if_no_progress extract_lets +onlyGivenNames x); refine (fun (hx : Keeps s x) => ?_) ?_; on_goal 2 => unfold x; on_goal 1 => clear_value x)
    | with_reducible refine Keeps.ite ?_ ?_
    | split

theorem State.pirStart_keeps {s t : State} (h : Keeps s t) (dt : Rat) :
    Keeps s (State.pirStart t dt) := by
  unfold State.pirStart
  repeat' first
    | with_reducible assumption
    | with_reducible apply State.modXpt_keeps
    | with_reducible apply State.profile_keeps
    | with_reducible apply State.endPause_keeps
    | with_reducible apply State.planPir_keeps
    | with_reducible apply State.followPP_keeps
    | with_reducible apply State.setGen_keeps
    | ((fail_if_no_progress extract_lets +onlyGivenNames x); refine (fun (hx : Keeps s x) => ?_) ?_; on_goal 2 => unfold x; on_goal 1 => clear_value x)
    | ((fail_if_no_progress extract_lets +onlyGivenNames x); clear_value x)
    | with_reducible refine Keeps.ite ?_ ?_

theorem State.noteError_keeps {s t : State} (h : Keeps s t)  :
    Keeps s (State.noteError t) := by
  unfold State.noteError
  repeat' first
    | with_reducible assumption
    | with_reducible apply State.modXpt_keeps

theorem State.genStep_keeps {s t : State} (h : Keeps s t) (tick : Bool) (dt : Rat) :
    Keeps s (State.genStep t tick dt) := by
  unfold State.genStep
  repeat' first
    | with_reducible assumption
    | with_reducible apply State.pauseOver_keeps
    | with_reducible apply State.followPP_keeps
    | with_reducible apply State.pirStart_keeps
    | with_reducible apply State.profile_keeps
    | with_reducible apply State.approachTest_keeps
    | with_reducible apply State.noteError_keeps
    | ((fail_if_no_progress extract_lets +onlyGivenNames x); refine (fun (hx : Keeps s x) => ?_) ?_; on_goal 2 => unfold x; on_goal 1 => clear_value x)
    | with_reducible refine Keeps.ite ?_ ?_

theorem State.loadCode_keeps {s t : State} (h : Keeps s t)  :
    Keeps s (State.loadCode t) := by
  unfold State.loadCode
  repeat' first
    | with_reducible assumption
    | with_reducible apply State.modXpt_keeps
    | with_reducible apply State.bump_keeps
    | ((fail_if_no_progress extract_lets +onlyGivenNames x); refine (fun (hx : Keeps s x) => ?_) ?_; on_goal 2 => unfold x; on_goal 1 => clear_value x)
    | ((fail_if_no_progress extract_lets +onlyGivenNames x); clear_value x)
    | with_reducible refine Keeps.ite ?_ ?_

theorem State.noteSpeed_keeps {s t : State} (h : Keeps s t)  :
    Keeps s (State.noteSpeed t) := by
  unfold State.noteSpeed
  repeat' first
    | with_reducible assumption
    | with_reducible apply State.modXpt_keeps

theorem State.settleU_keeps {s t : State} (h : Keeps s t)  :
    Keeps s (State.settleU t) := by
  unfold State.settleU
  repeat' first
    | with_reducible assumption
    | with_reducible apply State.modXpt_keeps
    | with_reducible refine Keeps.ite ?_ ?_
    | split

theorem State.takeU_keeps {s t : State} (h : Keeps s t)  :
    Keeps s (State.takeU t) := by
  unfold State.takeU
  repeat' first
    | with_reducible assumption
    | with_reducible apply State.settleU_keeps
    | with_reducible apply State.modXpt_keeps
    | with_reducible apply State.bump_keeps
    | ((fail_if_no_progress extract_lets +onlyGivenNames x); refine (fun (hx : Keeps s x) => ?_) ?_; on_goal 2 => unfold x; on_goal 1 => clear_value x)
    | ((fail_if_no_progress extract_lets +onlyGivenNames x); clear_value x)
    | with_reducible refine Keeps.ite ?_ ?_

theorem State.servoSample_keeps {s t : State} (h : Keeps s t) (tick : Bool) :
    Keeps s (State.servoSample t tick) := by
  unfold State.servoSample
  repeat' first
    | with_reducible assumption
    | with_reducible apply State.put_keeps
    | with_reducible apply State.put48_keeps
    | with_reducible apply State.putb_keeps
    | with_reducible apply State.raiseEvent_keeps

theorem State.loadPoint_keeps {s t : State} (h : Keeps s t)  :
    Keeps s (State.loadPoint t) := by
  unfold State.loadPoint
  repeat' first
    | with_reducible assumption
    | with_reducible apply State.genStep_keeps
    | with_reducible apply State.noteSpeed_keeps
    | with_reducible apply State.takeU_keeps
    | with_reducible apply State.servoSample_keeps
    | with_reducible apply State.loadCode_keeps
    | with_reducible apply State.modXpt_keeps

theorem State.modeWrite_keeps {s t : State} (h : Keeps s t) (leader : Bool) :
    Keeps s (State.modeWrite t leader) := by
  unfold State.modeWrite
  repeat' first
    | with_reducible assumption
    | with_reducible apply State.setCause_keeps
    | with_reducible apply State.put_keeps
    | with_reducible apply State.xenHigh_keeps
    | with_reducible refine Keeps.ite ?_ ?_

theorem State.pirHalt_keeps {s t : State} (h : Keeps s t)  :
    Keeps s (State.pirHalt t) := by
  unfold State.pirHalt
  repeat' first
    | with_reducible assumption
    | with_reducible apply State.setGen_keeps
    | with_reducible apply State.modXpt_keeps
    | with_reducible apply State.latchXstop_keeps
    | with_reducible apply State.setCause_keeps

theorem State.reenter_keeps {s t : State} (h : Keeps s t) (p : PirPlan) (isns : Vector (List (Nat × Rat)) 32) :
    Keeps s (State.reenter t p isns) := by
  unfold State.reenter
  repeat' first
    | with_reducible assumption
    | with_reducible apply State.put_keeps
    | with_reducible apply State.modXpt_keeps
    | with_reducible apply State.setGen_keeps
    | with_reducible apply State.setCause_keeps
    | with_reducible apply State.tickBody_keeps
    | ((fail_if_no_progress extract_lets +onlyGivenNames x); clear_value x)
    | with_reducible refine Keeps.mk' ?_

theorem State.retryTaken_keeps {s t : State} (h : Keeps s t)  :
    Keeps s (State.retryTaken t) := by
  unfold State.retryTaken
  repeat' first
    | with_reducible assumption
    | with_reducible apply State.planPir_keeps
    | with_reducible apply State.enableDrive_keeps
    | with_reducible refine Keeps.ite ?_ ?_

theorem State.retryWrite_keeps {s t : State} (h : Keeps s t)  :
    Keeps s (State.retryWrite t) := by
  unfold State.retryWrite
  repeat' first
    | with_reducible assumption
    | with_reducible apply State.unlessHeld_keeps
    | with_reducible apply State.retryTaken_keeps
    | with_reducible refine Keeps.ite ?_ ?_

theorem State.startWrite_keeps {s t : State} (h : Keeps s t)  :
    Keeps s (State.startWrite t) := by
  unfold State.startWrite
  repeat' first
    | with_reducible assumption
    | with_reducible apply State.unlessHeld_keeps
    | with_reducible apply State.enableDrive_keeps
    | with_reducible apply State.setCause_keeps
    | with_reducible refine Keeps.ite ?_ ?_
    | (intro y hy)

theorem State.stopWrite_keeps {s t : State} (h : Keeps s t)  :
    Keeps s (State.stopWrite t) := by
  unfold State.stopWrite
  repeat' first
    | with_reducible assumption
    | with_reducible apply State.modXpt_keeps
    | with_reducible refine Keeps.ite ?_ ?_

theorem State.swstopWrite_keeps {s t : State} (h : Keeps s t) (on : Bool) :
    Keeps s (State.swstopWrite t on) := by
  unfold State.swstopWrite
  repeat' first
    | with_reducible assumption
    | with_reducible apply State.xstopEval_keeps
    | with_reducible apply State.putb_keeps

theorem State.writeU_keeps {s t : State} (h : Keeps s t) (v : Int) :
    Keeps s (State.writeU t v) := by
  unfold State.writeU
  repeat' first
    | with_reducible assumption
    | with_reducible apply State.modXpt_keeps
    | with_reducible apply State.settleU_keeps

theorem State.xfltLevel_keeps {s t : State} (h : Keeps s t) (low : Bool) :
    Keeps s (State.xfltLevel t low) := by
  unfold State.xfltLevel
  repeat' first
    | with_reducible assumption
    | ((fail_if_no_progress extract_lets +onlyGivenNames x); clear_value x)
    | with_reducible refine Keeps.mk' ?_

theorem execDriveFault_keeps {s t : State} (h : Keeps s t)  :
    ∃ u, (execDriveFault t) = .next u ∧ Keeps s u := by
  unfold execDriveFault
  repeat' first
    | with_reducible assumption
    | with_reducible apply State.xfltLevel_keeps
    | with_reducible apply State.driveFault_keeps
    | with_reducible refine ⟨_, rfl, ?_⟩
    | split

theorem execEnDelayExpiry_keeps {s t : State} (h : Keeps s t)  :
    ∃ u, (execEnDelayExpiry t) = .next u ∧ Keeps s u := by
  unfold execEnDelayExpiry
  repeat' first
    | with_reducible assumption
    | with_reducible apply State.enableDone_keeps
    | with_reducible refine ⟨_, rfl, ?_⟩
    | split

theorem execLoadPoint_keeps {s t : State} (h : Keeps s t)  :
    ∃ u, (execLoadPoint t) = .next u ∧ Keeps s u := by
  unfold execLoadPoint
  repeat' first
    | with_reducible assumption
    | with_reducible apply State.withPP_keeps
    | with_reducible apply State.loadPoint_keeps
    | with_reducible refine ⟨_, rfl, ?_⟩
    | split

theorem execOverspeed_keeps {s t : State} (h : Keeps s t)  :
    ∃ u, (execOverspeed t) = .next u ∧ Keeps s u := by
  unfold execOverspeed
  repeat' first
    | with_reducible assumption
    | with_reducible apply State.latchXstop_keeps
    | with_reducible apply State.setCause_keeps
    | with_reducible refine ⟨_, rfl, ?_⟩
    | split

theorem execPirHalt_keeps {s t : State} (h : Keeps s t)  :
    ∃ u, (execPirHalt t) = .next u ∧ Keeps s u := by
  unfold execPirHalt
  repeat' first
    | with_reducible assumption
    | with_reducible apply State.pirHalt_keeps
    | with_reducible refine ⟨_, rfl, ?_⟩
    | split

theorem execPirRetry_keeps {s t : State} (h : Keeps s t)  :
    ∃ u, (execPirRetry t) = .next u ∧ Keeps s u := by
  unfold execPirRetry
  repeat' first
    | with_reducible assumption
    | with_reducible apply State.atBlock_keeps
    | with_reducible apply State.retryWrite_keeps
    | with_reducible refine ⟨_, rfl, ?_⟩

theorem execReentryTick_keeps {s t : State} (h : Keeps s t) (isns : Vector (List (Nat × Rat)) 32) :
    ∃ u, (execReentryTick isns t) = .next u ∧ Keeps s u := by
  unfold execReentryTick
  repeat' first
    | with_reducible assumption
    | with_reducible apply State.unsettled_keeps
    | with_reducible apply State.withPP_keeps
    | with_reducible apply State.reenter_keeps
    | with_reducible refine ⟨_, rfl, ?_⟩
    | split
    | (intro y hy)

theorem execServoStale_keeps {s t : State} (h : Keeps s t)  :
    ∃ u, (execServoStale t) = .next u ∧ Keeps s u := by
  unfold execServoStale
  repeat' first
    | with_reducible assumption
    | with_reducible apply State.latchXstop_keeps
    | with_reducible apply State.setCause_keeps
    | with_reducible refine ⟨_, rfl, ?_⟩
    | split

theorem execSwstop_keeps {s t : State} (h : Keeps s t) (on : Bool) :
    ∃ u, (execSwstop on t) = .next u ∧ Keeps s u := by
  unfold execSwstop
  repeat' first
    | with_reducible assumption
    | with_reducible apply State.atBlock_keeps
    | with_reducible apply State.swstopWrite_keeps
    | with_reducible refine ⟨_, rfl, ?_⟩
    | (intro y hy)

theorem execXfltAcceptedHigh_keeps {s t : State} (h : Keeps s t)  :
    ∃ u, (execXfltAcceptedHigh t) = .next u ∧ Keeps s u := by
  unfold execXfltAcceptedHigh
  repeat' first
    | with_reducible assumption
    | with_reducible apply State.xfltLevel_keeps
    | with_reducible apply State.put_keeps
    | with_reducible refine ⟨_, rfl, ?_⟩
    | split

theorem execXptModeWrite_keeps {s t : State} (h : Keeps s t) (leader : Bool) :
    ∃ u, (execXptModeWrite leader t) = .next u ∧ Keeps s u := by
  unfold execXptModeWrite
  repeat' first
    | with_reducible assumption
    | with_reducible apply State.atBlock_keeps
    | with_reducible apply State.modeWrite_keeps
    | with_reducible refine ⟨_, rfl, ?_⟩
    | (intro y hy)

theorem execXptStart_keeps {s t : State} (h : Keeps s t)  :
    ∃ u, (execXptStart t) = .next u ∧ Keeps s u := by
  unfold execXptStart
  repeat' first
    | with_reducible assumption
    | with_reducible apply State.atBlock_keeps
    | with_reducible apply State.startWrite_keeps
    | with_reducible refine ⟨_, rfl, ?_⟩

theorem execXptStop_keeps {s t : State} (h : Keeps s t)  :
    ∃ u, (execXptStop t) = .next u ∧ Keeps s u := by
  unfold execXptStop
  repeat' first
    | with_reducible assumption
    | with_reducible apply State.atBlock_keeps
    | with_reducible apply State.stopWrite_keeps
    | with_reducible refine ⟨_, rfl, ?_⟩

theorem execXstopRelease_keeps {s t : State} (h : Keeps s t)  :
    ∃ u, (execXstopRelease t) = .next u ∧ Keeps s u := by
  unfold execXstopRelease
  repeat' first
    | with_reducible assumption
    | with_reducible apply State.put_keeps
    | with_reducible refine ⟨_, rfl, ?_⟩
    | split

end Sys2Proof.Machine
end

