-- ==== Sys2Proof/Laws/Keeps/Thermal.lean ====
section
/-!
SUPPORT. What every operation of Machine/Thermal.lean keeps (Laws/Keeps.lean).
-/

namespace Sys2Proof.Machine

theorem State.modThb_keeps {s t : State} (h : Keeps s t) (n : Fin 32) (f : ThmBar → ThmBar) :
    Keeps s (State.modThb t n f) := by
  unfold State.modThb
  repeat' first
    | with_reducible assumption
    | ((fail_if_no_progress extract_lets +onlyGivenNames x); clear_value x)
    | with_reducible refine Keeps.mk' ?_

theorem State.lapse_keeps {s t : State} (h : Keeps s t) (n : Fin 32) :
    Keeps s (State.lapse t n) := by
  unfold State.lapse
  repeat' first
    | with_reducible assumption
    | with_reducible apply State.modThb_keeps

theorem State.enterStage3_keeps {s t : State} (h : Keeps s t) (n : Fin 32) :
    Keeps s (State.enterStage3 t n) := by
  unfold State.enterStage3
  repeat' first
    | with_reducible assumption
    | with_reducible apply State.bump_keeps
    | with_reducible apply State.put_keeps
    | with_reducible apply State.setStage_keeps
    | with_reducible apply State.lapse_keeps
    | with_reducible apply State.tripKill_keeps
    | with_reducible apply State.setCause_keeps

theorem State.tripEval_keeps {s t : State} (h : Keeps s t) (n : Fin 32) :
    Keeps s (State.tripEval t n) := by
  unfold State.tripEval
  repeat' first
    | with_reducible assumption
    | with_reducible apply State.putb_keeps
    | with_reducible apply State.setCauseIf_keeps
    | with_reducible apply State.modThb_keeps
    | with_reducible apply State.enterStage3_keeps
    | ((fail_if_no_progress extract_lets +onlyGivenNames x); refine (fun (hx : Keeps s x) => ?_) ?_; on_goal 2 => unfold x; on_goal 1 => clear_value x)
    | ((fail_if_no_progress extract_lets +onlyGivenNames x); clear_value x)
    | with_reducible refine Keeps.ite ?_ ?_

theorem State.tripAll_keeps {s t : State} (h : Keeps s t)  :
    Keeps s (State.tripAll t) := by
  unfold State.tripAll
  repeat' first
    | with_reducible assumption
    | with_reducible apply State.tripEval_keeps
    | with_reducible refine Keeps.foldl _ (fun x a hx => ?_) ?_

theorem State.boardEval_keeps {s t : State} (h : Keeps s t)  :
    Keeps s (State.boardEval t) := by
  unfold State.boardEval
  repeat' first
    | with_reducible assumption
    | with_reducible apply State.setCauseIf_keeps
    | with_reducible apply State.tripAll_keeps
    | ((fail_if_no_progress extract_lets +onlyGivenNames x); clear_value x)
    | with_reducible refine Keeps.mk' ?_

theorem State.boardMonitor_keeps {s t : State} (h : Keeps s t) (ch : Nat) :
    Keeps s (State.boardMonitor t ch) := by
  unfold State.boardMonitor
  repeat' first
    | with_reducible assumption
    | with_reducible apply State.setCauseIf_keeps
    | split

theorem State.enterStage1_keeps {s t : State} (h : Keeps s t) (n : Fin 32) :
    Keeps s (State.enterStage1 t n) := by
  unfold State.enterStage1
  repeat' first
    | with_reducible assumption
    | with_reducible apply State.setCause_keeps
    | with_reducible apply State.bump_keeps
    | with_reducible apply State.setStage_keeps

theorem State.enterStage2_keeps {s t : State} (h : Keeps s t) (n : Fin 32) :
    Keeps s (State.enterStage2 t n) := by
  unfold State.enterStage2
  repeat' first
    | with_reducible assumption
    | with_reducible apply State.setCause_keeps
    | with_reducible apply State.bump_keeps
    | with_reducible apply State.setStage_keeps
    | with_reducible apply State.modThb_keeps
    | with_reducible apply State.latchXstop_keeps
    | ((fail_if_no_progress extract_lets +onlyGivenNames x); refine (fun (hx : Keeps s x) => ?_) ?_; on_goal 2 => unfold x; on_goal 1 => clear_value x)
    | with_reducible refine Keeps.ite ?_ ?_

theorem State.furtherReduction_keeps {s t : State} (h : Keeps s t) (n : Fin 32) :
    Keeps s (State.furtherReduction t n) := by
  unfold State.furtherReduction
  repeat' first
    | with_reducible assumption
    | with_reducible apply State.modThb_keeps

theorem State.enterStage0_keeps {s t : State} (h : Keeps s t) (n : Fin 32) :
    Keeps s (State.enterStage0 t n) := by
  unfold State.enterStage0
  repeat' first
    | with_reducible assumption
    | with_reducible apply State.setCause_keeps
    | with_reducible apply State.setStage_keeps
    | with_reducible apply State.lapse_keeps

theorem State.warnClear_keeps {s t : State} (h : Keeps s t) (n : Fin 32) :
    Keeps s (State.warnClear t n) := by
  unfold State.warnClear
  repeat' first
    | with_reducible assumption
    | with_reducible apply State.put_keeps
    | with_reducible apply State.enterStage0_keeps
    | ((fail_if_no_progress extract_lets +onlyGivenNames x); refine (fun (hx : Keeps s x) => ?_) ?_; on_goal 2 => unfold x; on_goal 1 => clear_value x)
    | with_reducible refine Keeps.ite ?_ ?_

theorem State.warnEval_keeps {s t : State} (h : Keeps s t) (n : Fin 32) :
    Keeps s (State.warnEval t n) := by
  unfold State.warnEval
  repeat' first
    | with_reducible assumption
    | with_reducible apply State.modThb_keeps
    | with_reducible apply State.put_keeps
    | with_reducible apply State.enterStage1_keeps
    | with_reducible apply State.enterStage2_keeps
    | with_reducible apply State.furtherReduction_keeps
    | with_reducible apply State.warnClear_keeps
    | ((fail_if_no_progress extract_lets +onlyGivenNames x); refine (fun (hx : Keeps s x) => ?_) ?_; on_goal 2 => unfold x; on_goal 1 => clear_value x)
    | ((fail_if_no_progress extract_lets +onlyGivenNames x); clear_value x)
    | with_reducible refine Keeps.ite ?_ ?_

theorem State.monitor_keeps {s t : State} (h : Keeps s t) (n : Fin 32) :
    Keeps s (State.monitor t n) := by
  unfold State.monitor
  repeat' first
    | with_reducible assumption
    | with_reducible apply State.tripEval_keeps
    | with_reducible apply State.putb_keeps
    | with_reducible apply State.modThb_keeps
    | with_reducible apply State.warnEval_keeps
    | ((fail_if_no_progress extract_lets +onlyGivenNames x); refine (fun (hx : Keeps s x) => ?_) ?_; on_goal 2 => unfold x; on_goal 1 => clear_value x)
    | ((fail_if_no_progress extract_lets +onlyGivenNames x); clear_value x)
    | with_reducible refine Keeps.ite ?_ ?_

theorem State.substitutes_keeps {s t : State} (h : Keeps s t) (p : Nat) :
    Keeps s (State.substitutes t p) := by
  unfold State.substitutes
  repeat' first
    | with_reducible assumption
    | with_reducible apply State.put_keeps
    | with_reducible apply State.puti_keeps
    | with_reducible apply State.draw_keeps
    | with_reducible refine Keeps.foldl _ (fun x a hx => ?_) ?_
    | with_reducible refine Keeps.ite ?_ ?_
    | split

theorem State.afterReading_keeps {s t : State} (h : Keeps s t) (ch : Fin 260) :
    Keeps s (State.afterReading t ch) := by
  unfold State.afterReading
  repeat' first
    | with_reducible assumption
    | with_reducible apply State.boardEval_keeps
    | with_reducible apply State.boardMonitor_keeps
    | with_reducible apply State.monitor_keeps
    | with_reducible apply State.substitutes_keeps
    | with_reducible refine Keeps.ite ?_ ?_

theorem State.modThc_keeps {s t : State} (h : Keeps s t) (ch : Fin 260) (f : ThmChan → ThmChan) :
    Keeps s (State.modThc t ch f) := by
  unfold State.modThc
  repeat' first
    | with_reducible assumption
    | ((fail_if_no_progress extract_lets +onlyGivenNames x); clear_value x)
    | with_reducible refine Keeps.mk' ?_

theorem State.badReading_keeps {s t : State} (h : Keeps s t) (ch : Fin 260) (o : Bool) (h0 : Bool) :
    Keeps s (State.badReading t ch o h0) := by
  unfold State.badReading
  repeat' first
    | with_reducible assumption
    | with_reducible apply State.modThc_keeps

theorem State.freshChannel_keeps {s t : State} (h : Keeps s t) (ch : Fin 260) :
    Keeps s (State.freshChannel t ch) := by
  unfold State.freshChannel
  repeat' first
    | with_reducible assumption
    | with_reducible apply State.put_keeps
    | with_reducible apply State.modThc_keeps
    | with_reducible refine Keeps.foldl _ (fun x a hx => ?_) ?_

theorem State.chenWrite_keeps {s t : State} (h : Keeps s t) (p : Fin 33) (v : BitVec 8) :
    Keeps s (State.chenWrite t p v) := by
  unfold State.chenWrite
  repeat' first
    | with_reducible assumption
    | with_reducible apply State.put_keeps
    | with_reducible apply State.freshChannel_keeps
    | with_reducible apply State.boardEval_keeps
    | with_reducible apply State.tripEval_keeps
    | with_reducible apply State.substitutes_keeps
    | with_reducible refine Keeps.foldl _ (fun x a hx => ?_) ?_
    | ((fail_if_no_progress extract_lets +onlyGivenNames x); refine (fun (hx : Keeps s x) => ?_) ?_; on_goal 2 => unfold x; on_goal 1 => clear_value x)
    | ((fail_if_no_progress extract_lets +onlyGivenNames x); clear_value x)
    | with_reducible refine Keeps.ite ?_ ?_

theorem State.countReading_keeps {s t : State} (h : Keeps s t) (ch : Fin 260) (t0 : Int) :
    Keeps s (State.countReading t ch t0) := by
  unfold State.countReading
  repeat' first
    | with_reducible assumption
    | with_reducible apply State.modThc_keeps

theorem State.freezeIf_keeps {s t : State} (h : Keeps s t) (ch : Nat) (last : Option Int) :
    Keeps s (State.freezeIf t ch last) := by
  unfold State.freezeIf
  repeat' first
    | with_reducible assumption
    | with_reducible apply State.put_keeps
    | ((fail_if_no_progress extract_lets +onlyGivenNames x); clear_value x)
    | with_reducible refine Keeps.ite ?_ ?_
    | split

theorem State.failChannel_keeps {s t : State} (h : Keeps s t) (ch : Fin 260) (c : Sensor) :
    Keeps s (State.failChannel t ch c) := by
  unfold State.failChannel
  repeat' first
    | with_reducible assumption
    | with_reducible apply State.setCause_keeps
    | with_reducible apply State.put_keeps
    | with_reducible apply State.bump_keeps
    | with_reducible apply State.modThc_keeps
    | with_reducible apply State.freezeIf_keeps
    | with_reducible apply State.substitutes_keeps
    | ((fail_if_no_progress extract_lets +onlyGivenNames x); refine (fun (hx : Keeps s x) => ?_) ?_; on_goal 2 => unfold x; on_goal 1 => clear_value x)
    | ((fail_if_no_progress extract_lets +onlyGivenNames x); clear_value x)
    | with_reducible refine Keeps.ite ?_ ?_

theorem State.recoverChannel_keeps {s t : State} (h : Keeps s t) (ch : Fin 260) :
    Keeps s (State.recoverChannel t ch) := by
  unfold State.recoverChannel
  repeat' first
    | with_reducible assumption
    | with_reducible apply State.put_keeps
    | with_reducible apply State.modThc_keeps
    | with_reducible apply State.setCause_keeps
    | with_reducible refine Keeps.foldl _ (fun x a hx => ?_) ?_

theorem State.judge_keeps {s t : State} (h : Keeps s t) (ch : Fin 260) :
    Keeps s (State.judge t ch) := by
  unfold State.judge
  repeat' first
    | with_reducible assumption
    | with_reducible apply State.recoverChannel_keeps
    | with_reducible apply State.failChannel_keeps
    | with_reducible refine Keeps.ite ?_ ?_
    | split

theorem State.reportReading_keeps {s t : State} (h : Keeps s t) (ch : Fin 260) (t0 : Int) :
    Keeps s (State.reportReading t ch t0) := by
  unfold State.reportReading
  repeat' first
    | with_reducible assumption
    | with_reducible apply State.modThc_keeps
    | with_reducible apply State.put_keeps
    | with_reducible apply State.puti_keeps
    | with_reducible apply State.putb_keeps

theorem State.takeReading_keeps {s t : State} (h : Keeps s t) (ch : Fin 260) (v10 : Nat) (v160 : Nat) :
    Keeps s (State.takeReading t ch v10 v160) := by
  unfold State.takeReading
  repeat' first
    | with_reducible assumption
    | with_reducible apply State.judge_keeps
    | with_reducible apply State.badReading_keeps
    | with_reducible apply State.countReading_keeps
    | with_reducible apply State.puti_keeps
    | with_reducible apply State.put_keeps
    | with_reducible apply State.reportReading_keeps
    | ((fail_if_no_progress extract_lets +onlyGivenNames x); refine (fun (hx : Keeps s x) => ?_) ?_; on_goal 2 => unfold x; on_goal 1 => clear_value x)
    | ((fail_if_no_progress extract_lets +onlyGivenNames x); clear_value x)
    | with_reducible refine Keeps.ite ?_ ?_

theorem State.thmAck_keeps {s t : State} (h : Keeps s t) (n : Fin 32) :
    Keeps s (State.thmAck t n) := by
  unfold State.thmAck
  repeat' first
    | with_reducible assumption
    | with_reducible apply State.put_keeps
    | with_reducible refine Keeps.foldl _ (fun x a hx => ?_) ?_
    | ((fail_if_no_progress extract_lets +onlyGivenNames x); clear_value x)
    | with_reducible refine Keeps.ite ?_ ?_

theorem State.thmTripped_keeps {s t : State} (h : Keeps s t) (n : Fin 32) :
    Keeps s (State.thmTripped t n) := by
  unfold State.thmTripped
  repeat' first
    | with_reducible assumption
    | with_reducible apply State.put_keeps
    | with_reducible apply State.setStage_keeps
    | with_reducible apply State.modThb_keeps
    | ((fail_if_no_progress extract_lets +onlyGivenNames x); refine (fun (hx : Keeps s x) => ?_) ?_; on_goal 2 => unfold x; on_goal 1 => clear_value x)
    | with_reducible refine Keeps.ite ?_ ?_

theorem execChannelFail_keeps {s t : State} (h : Keeps s t) (ch : Fin 260) :
    ∃ u, (execChannelFail ch t) = .next u ∧ Keeps s u := by
  unfold execChannelFail
  repeat' first
    | with_reducible assumption
    | with_reducible apply State.afterReading_keeps
    | with_reducible apply State.failChannel_keeps
    | with_reducible refine ⟨_, rfl, ?_⟩
    | split

theorem execChannelRecover_keeps {s t : State} (h : Keeps s t) (ch : Fin 260) :
    ∃ u, (execChannelRecover ch t) = .next u ∧ Keeps s u := by
  unfold execChannelRecover
  repeat' first
    | with_reducible assumption
    | with_reducible apply State.afterReading_keeps
    | with_reducible apply State.recoverChannel_keeps
    | with_reducible refine ⟨_, rfl, ?_⟩
    | split

theorem execChenWrite_keeps {s t : State} (h : Keeps s t) (p : Fin 33) (v : BitVec 8) :
    ∃ u, (execChenWrite p v t) = .next u ∧ Keeps s u := by
  unfold execChenWrite
  repeat' first
    | with_reducible assumption
    | with_reducible apply State.atBlock_keeps
    | with_reducible apply State.chenWrite_keeps
    | with_reducible refine ⟨_, rfl, ?_⟩
    | (intro y hy)

theorem execFurtherReductionDue_keeps {s t : State} (h : Keeps s t) (n : Fin 32) :
    ∃ u, (execFurtherReductionDue n t) = .next u ∧ Keeps s u := by
  unfold execFurtherReductionDue
  repeat' first
    | with_reducible assumption
    | with_reducible apply State.furtherReduction_keeps
    | with_reducible refine ⟨_, rfl, ?_⟩
    | split

theorem execStage2_keeps {s t : State} (h : Keeps s t) (n : Fin 32) :
    ∃ u, (execStage2 n t) = .next u ∧ Keeps s u := by
  unfold execStage2
  repeat' first
    | with_reducible assumption
    | with_reducible apply State.enterStage2_keeps
    | with_reducible refine ⟨_, rfl, ?_⟩
    | split

theorem execThermalReading_keeps {s t : State} (h : Keeps s t) (ch : Fin 260) (v10 : Nat) (v160 : Nat) :
    ∃ u, (execThermalReading ch v10 v160 t) = .next u ∧ Keeps s u := by
  unfold execThermalReading
  repeat' first
    | with_reducible assumption
    | with_reducible apply State.modThc_keeps
    | with_reducible apply State.afterReading_keeps
    | with_reducible apply State.takeReading_keeps
    | with_reducible refine ⟨_, rfl, ?_⟩
    | ((fail_if_no_progress extract_lets +onlyGivenNames x); refine (fun (hx : Keeps s x) => ?_) ?_; on_goal 2 => unfold x; on_goal 1 => clear_value x)
    | split

theorem execThmAck_keeps {s t : State} (h : Keeps s t) (n : Fin 32) :
    ∃ u, (execThmAck n t) = .next u ∧ Keeps s u := by
  unfold execThmAck
  repeat' first
    | with_reducible assumption
    | with_reducible apply State.atBlock_keeps
    | with_reducible apply State.thmAck_keeps
    | with_reducible refine ⟨_, rfl, ?_⟩
    | (intro y hy)

theorem execThmTrippedClear_keeps {s t : State} (h : Keeps s t) (n : Fin 32) :
    ∃ u, (execThmTrippedClear n t) = .next u ∧ Keeps s u := by
  unfold execThmTrippedClear
  repeat' first
    | with_reducible assumption
    | with_reducible apply State.atBlock_keeps
    | with_reducible apply State.thmTripped_keeps
    | with_reducible refine ⟨_, rfl, ?_⟩
    | (intro y hy)

theorem execWarnClear_keeps {s t : State} (h : Keeps s t) (n : Fin 32) :
    ∃ u, (execWarnClear n t) = .next u ∧ Keeps s u := by
  unfold execWarnClear
  repeat' first
    | with_reducible assumption
    | with_reducible apply State.warnClear_keeps
    | with_reducible refine ⟨_, rfl, ?_⟩
    | split

end Sys2Proof.Machine
end

