-- ==== Sys2Proof/Laws/Keeps/Calib.lean ====
section
/-!
SUPPORT. What every operation of Machine/Calib.lean keeps (Laws/Keeps.lean).
-/

namespace Sys2Proof.Machine

theorem State.calApply_keeps {s t : State} (h : Keeps s t) (k : Nat) (i : Nat) (v : Int) (g : Int) :
    Keeps s (State.calApply t k i v g) := by
  unfold State.calApply
  repeat' first
    | with_reducible assumption
    | with_reducible apply State.modCal_keeps
    | ((fail_if_no_progress extract_lets +onlyGivenNames x); refine (fun (hx : Keeps s x) => ?_) ?_; on_goal 2 => unfold x; on_goal 1 => clear_value x)
    | ((fail_if_no_progress extract_lets +onlyGivenNames x); clear_value x)
    | with_reducible refine Keeps.ite ?_ ?_

theorem State.calResult_keeps {s t : State} (h : Keeps s t) (k : Nat) (i : Nat) (status : Nat) :
    Keeps s (State.calResult t k i status) := by
  unfold State.calResult
  repeat' first
    | with_reducible assumption
    | with_reducible apply State.setCause_keeps
    | with_reducible apply State.put_keeps

theorem State.endPair_keeps {s t : State} (h : Keeps s t) (k : Nat) (i : Nat) (st : Status) :
    Keeps s (State.endPair t k i st) := by
  unfold State.endPair
  repeat' first
    | with_reducible assumption
    | with_reducible apply State.bump_keeps
    | with_reducible apply State.modCal_keeps
    | with_reducible apply State.modBar_keeps
    | with_reducible apply State.calResult_keeps
    | ((fail_if_no_progress extract_lets +onlyGivenNames x); refine (fun (hx : Keeps s x) => ?_) ?_; on_goal 2 => unfold x; on_goal 1 => clear_value x)
    | ((fail_if_no_progress extract_lets +onlyGivenNames x); clear_value x)
    | with_reducible refine Keeps.ite ?_ ?_
    | split

theorem State.calAgree_keeps {s t : State} (h : Keeps s t) (k : Nat) (i : Nat) (v : Int) (g : Int) :
    Keeps s (State.calAgree t k i v g) := by
  unfold State.calAgree
  repeat' first
    | with_reducible assumption
    | with_reducible apply State.modCal_keeps
    | with_reducible apply State.calApply_keeps
    | with_reducible apply State.setCauseIf_keeps
    | with_reducible apply State.endPair_keeps
    | with_reducible apply State.setCause_keeps
    | with_reducible apply State.put_keeps
    | ((fail_if_no_progress extract_lets +onlyGivenNames x); refine (fun (hx : Keeps s x) => ?_) ?_; on_goal 2 => unfold x; on_goal 1 => clear_value x)
    | ((fail_if_no_progress extract_lets +onlyGivenNames x); clear_value x)
    | with_reducible refine Keeps.ite ?_ ?_

theorem State.calDisagree_keeps {s t : State} (h : Keeps s t) (k : Nat) (i : Nat) :
    Keeps s (State.calDisagree t k i) := by
  unfold State.calDisagree
  repeat' first
    | with_reducible assumption
    | with_reducible apply State.modCal_keeps
    | with_reducible apply State.bump_keeps
    | with_reducible apply State.setCauseIf_keeps
    | with_reducible apply State.endPair_keeps

theorem State.calDomainLost_keeps {s t : State} (h : Keeps s t) (d : Domain) :
    Keeps s (State.calDomainLost t d) := by
  unfold State.calDomainLost
  repeat' first
    | with_reducible assumption
    | with_reducible apply State.endPair_keeps
    | with_reducible refine Keeps.foldl _ (fun x a hx => ?_) ?_
    | with_reducible refine Keeps.ite ?_ ?_

theorem State.calFinish_keeps {s t : State} (h : Keeps s t) (k : Nat) (i : Nat) (m : Measured) :
    Keeps s (State.calFinish t k i m) := by
  unfold State.calFinish
  repeat' first
    | with_reducible assumption
    | with_reducible apply State.calAgree_keeps
    | with_reducible apply State.calDisagree_keeps
    | ((fail_if_no_progress extract_lets +onlyGivenNames x); clear_value x)
    | with_reducible refine Keeps.ite ?_ ?_

theorem State.startPair_keeps {s t : State} (h : Keeps s t) (k : Nat) (i : Nat) (requested : Bool) :
    Keeps s (State.startPair t k i requested) := by
  unfold State.startPair
  repeat' first
    | with_reducible assumption
    | with_reducible apply State.modCal_keeps
    | with_reducible apply State.modBar_keeps
    | ((fail_if_no_progress extract_lets +onlyGivenNames x); refine (fun (hx : Keeps s x) => ?_) ?_; on_goal 2 => unfold x; on_goal 1 => clear_value x)
    | with_reducible refine Keeps.ite ?_ ?_

theorem State.calRequest_keeps {s t : State} (h : Keeps s t) (k : Fin 8) (i : Fin 512) :
    Keeps s (State.calRequest t k i) := by
  unfold State.calRequest
  repeat' first
    | with_reducible assumption
    | with_reducible apply State.calResult_keeps
    | with_reducible apply State.modCal_keeps
    | with_reducible apply State.startPair_keeps
    | ((fail_if_no_progress extract_lets +onlyGivenNames x); clear_value x)
    | with_reducible refine Keeps.ite ?_ ?_

theorem State.calTimeout_keeps {s t : State} (h : Keeps s t) (k : Nat) (i : Nat) :
    Keeps s (State.calTimeout t k i) := by
  unfold State.calTimeout
  repeat' first
    | with_reducible assumption
    | with_reducible apply State.endPair_keeps
    | with_reducible apply State.setCause_keeps
    | with_reducible apply State.bump_keeps

theorem State.calWrite_keeps {s t : State} (h : Keeps s t) (w : Word) :
    Keeps s (State.calWrite t w) := by
  unfold State.calWrite
  repeat' first
    | with_reducible assumption
    | with_reducible apply State.calApply_keeps
    | with_reducible apply State.endPair_keeps
    | ((fail_if_no_progress extract_lets +onlyGivenNames x); clear_value x)
    | with_reducible refine Keeps.ite ?_ ?_

theorem execCalPairEnd_keeps {s t : State} (h : Keeps s t) (k : Fin 8) (idx : Fin 512) (m1 : Rat) (m2 : Rat) (g1 : Rat) (g2 : Rat) :
    ∃ u, (execCalPairEnd k idx m1 m2 g1 g2 t) = .next u ∧ Keeps s u := by
  unfold execCalPairEnd
  repeat' first
    | with_reducible assumption
    | with_reducible apply State.calTimeout_keeps
    | with_reducible apply State.calFinish_keeps
    | with_reducible refine ⟨_, rfl, ?_⟩
    | split

theorem execCalPairStart_keeps {s t : State} (h : Keeps s t) (k : Fin 8) :
    ∃ u, (execCalPairStart k t) = .next u ∧ Keeps s u := by
  unfold execCalPairStart
  repeat' first
    | with_reducible assumption
    | with_reducible apply State.startPair_keeps
    | with_reducible refine ⟨_, rfl, ?_⟩
    | ((fail_if_no_progress extract_lets +onlyGivenNames x); refine (fun (hx : Keeps s x) => ?_) ?_; on_goal 2 => unfold x; on_goal 1 => clear_value x)
    | ((fail_if_no_progress extract_lets +onlyGivenNames x); clear_value x)
    | split
    | with_reducible refine Keeps.mk' ?_

theorem execCalQval_keeps {s t : State} (h : Keeps s t) (w : Word) :
    ∃ u, (execCalQval w t) = .next u ∧ Keeps s u := by
  unfold execCalQval
  repeat' first
    | with_reducible assumption
    | with_reducible apply State.atBlock_keeps
    | with_reducible apply State.calWrite_keeps
    | with_reducible refine ⟨_, rfl, ?_⟩
    | (intro y hy)

theorem execCalReq_keeps {s t : State} (h : Keeps s t) (k : Fin 8) (i : Fin 512) :
    ∃ u, (execCalReq k i t) = .next u ∧ Keeps s u := by
  unfold execCalReq
  repeat' first
    | with_reducible assumption
    | with_reducible apply State.atBlock_keeps
    | with_reducible apply State.calRequest_keeps
    | with_reducible refine ⟨_, rfl, ?_⟩
    | (intro y hy)

theorem execCalTimeout_keeps {s t : State} (h : Keeps s t) (k : Fin 8) (idx : Fin 512) :
    ∃ u, (execCalTimeout k idx t) = .next u ∧ Keeps s u := by
  unfold execCalTimeout
  repeat' first
    | with_reducible assumption
    | with_reducible apply State.calTimeout_keeps
    | with_reducible refine ⟨_, rfl, ?_⟩
    | split

theorem execEtRecordPop_keeps {s t : State} (h : Keeps s t)  :
    ∃ u, (execEtRecordPop t) = .next u ∧ Keeps s u := by
  unfold execEtRecordPop
  repeat' first
    | with_reducible assumption
    | with_reducible apply State.answer_keeps
    | with_reducible apply State.unpowered_keeps
    | with_reducible apply State.etPop_keeps
    | with_reducible apply State.readCells_keeps
    | with_reducible refine ⟨_, rfl, ?_⟩
    | ((fail_if_no_progress extract_lets +onlyGivenNames x); refine (fun (hx : Keeps s x.1) => ?_) ?_; on_goal 2 => unfold x; on_goal 1 => clear_value x)
    | split

end Sys2Proof.Machine
end

