-- ==== Sys2Proof/Laws/Keeps/LinkErrors.lean ====
section
/-!
SUPPORT. What every operation of Machine/LinkErrors.lean keeps (Laws/Keeps.lean).
-/

namespace Sys2Proof.Machine

theorem State.setCap_keeps {s t : State} (h : Keeps s t) (c : CapReg) (w : Word) :
    Keeps s (State.setCap t c w) := by
  unfold State.setCap
  repeat' first
    | with_reducible assumption
    | ((fail_if_no_progress extract_lets +onlyGivenNames x); clear_value x)
    | with_reducible refine Keeps.mk' ?_

theorem State.logHeader_keeps {s t : State} (h : Keeps s t) (e : LinkError) :
    Keeps s (State.logHeader t e) := by
  unfold State.logHeader
  repeat' first
    | with_reducible assumption
    | with_reducible apply State.setCap_keeps
    | with_reducible apply State.draw_keeps
    | with_reducible refine Keeps.foldl _ (fun x a hx => ?_) ?_
    | ((fail_if_no_progress extract_lets +onlyGivenNames x); refine (fun (hx : Keeps s x) => ?_) ?_; on_goal 2 => unfold x; on_goal 1 => clear_value x)
    | ((fail_if_no_progress extract_lets +onlyGivenNames x); clear_value x)
    | with_reducible refine Keeps.ite ?_ ?_

theorem State.orCap_keeps {s t : State} (h : Keeps s t) (c : CapReg) (w : Word) :
    Keeps s (State.orCap t c w) := by
  unfold State.orCap
  repeat' first
    | with_reducible assumption
    | with_reducible apply State.setCap_keeps

theorem State.orStatus_keeps {s t : State} (h : Keeps s t) (w : Word) :
    Keeps s (State.orStatus t w) := by
  unfold State.orStatus
  repeat' first
    | with_reducible assumption
    | with_reducible refine Keeps.mk' ?_

theorem State.sendError_keeps {s t : State} (h : Keeps s t) (m : Option ErrorMsg) :
    Keeps s (State.sendError t m) := by
  unfold State.sendError
  repeat' first
    | with_reducible assumption
    | with_reducible apply State.sendLink_keeps
    | with_reducible apply State.orStatus_keeps
    | ((fail_if_no_progress extract_lets +onlyGivenNames x); refine (fun (hx : Keeps s x) => ?_) ?_; on_goal 2 => unfold x; on_goal 1 => clear_value x)
    | with_reducible refine Keeps.ite ?_ ?_
    | split

theorem State.reportError_keeps {s t : State} (h : Keeps s t) (e : LinkError) (soft : Bool) :
    Keeps s (State.reportError t e soft) := by
  unfold State.reportError
  repeat' first
    | with_reducible assumption
    | with_reducible apply State.orCap_keeps
    | with_reducible apply State.logHeader_keeps
    | with_reducible apply State.bump_keeps
    | with_reducible apply State.sendError_keeps
    | with_reducible refine Keeps.ite ?_ ?_

theorem State.writeCap_keeps {s t : State} (h : Keeps s t) (c : CapReg) (w : Word) :
    Keeps s (State.writeCap t c w) := by
  unfold State.writeCap
  repeat' first
    | with_reducible assumption
    | with_reducible apply State.setCap_keeps

end Sys2Proof.Machine
end

