-- ==== Sys2Proof/Laws/Keeps/DmaCore.lean ====
section
/-!
SUPPORT. What every operation of Machine/DmaCore.lean keeps (Laws/Keeps.lean).
-/

namespace Sys2Proof.Machine

theorem State.modDch_keeps {s t : State} (h : Keeps s t) (c : Fin 48) (f : DmaChan → DmaChan) :
    Keeps s (State.modDch t c f) := by
  unfold State.modDch
  repeat' first
    | with_reducible assumption
    | with_reducible refine Keeps.mk' ?_

theorem State.accrue_keeps {s t : State} (h : Keeps s t) (c : Fin 48) :
    Keeps s (State.accrue t c) := by
  unfold State.accrue
  repeat' first
    | with_reducible assumption
    | with_reducible apply State.modDch_keeps
    | ((fail_if_no_progress extract_lets +onlyGivenNames x); clear_value x)
    | with_reducible refine Keeps.ite ?_ ?_

theorem State.setChanState_keeps {s t : State} (h : Keeps s t) (c : Fin 48) (x0 : Nat) :
    Keeps s (State.setChanState t c x0) := by
  unfold State.setChanState
  repeat' first
    | with_reducible assumption
    | with_reducible apply State.put_keeps
    | with_reducible apply State.freeStore_keeps
    | ((fail_if_no_progress extract_lets +onlyGivenNames x); refine (fun (hx : Keeps s x) => ?_) ?_; on_goal 2 => unfold x; on_goal 1 => clear_value x)
    | with_reducible refine Keeps.ite ?_ ?_

theorem State.idleIfStopped_keeps {s t : State} (h : Keeps s t) (c : Fin 48) :
    Keeps s (State.idleIfStopped t c) := by
  unfold State.idleIfStopped
  repeat' first
    | with_reducible assumption
    | with_reducible apply State.setCause_keeps
    | with_reducible apply State.setChanState_keeps
    | ((fail_if_no_progress extract_lets +onlyGivenNames x); clear_value x)
    | with_reducible refine Keeps.ite ?_ ?_

theorem State.beginHead_keeps {s t : State} (h : Keeps s t) (c : Fin 48) :
    Keeps s (State.beginHead t c) := by
  unfold State.beginHead
  repeat' first
    | with_reducible assumption
    | with_reducible apply State.modDch_keeps
    | with_reducible apply State.readCells_keeps
    | split

theorem State.haltOnFetch_keeps {s t : State} (h : Keeps s t) (c : Fin 48) (st : Nat) :
    Keeps s (State.haltOnFetch t c st) := by
  unfold State.haltOnFetch
  repeat' first
    | with_reducible assumption
    | with_reducible apply State.modDch_keeps
    | with_reducible apply State.setCause_keeps
    | with_reducible apply State.setChanState_keeps
    | with_reducible apply State.put_keeps

theorem State.afterWriteback_keeps {s t : State} (h : Keeps s t) (c : Fin 48) (d : Desc) (st : Nat) :
    Keeps s (State.afterWriteback t c d st) := by
  unfold State.afterWriteback
  repeat' first
    | with_reducible assumption
    | with_reducible apply State.setCauseIf_keeps
    | with_reducible apply State.idleIfStopped_keeps
    | with_reducible apply State.modDch_keeps
    | with_reducible apply State.setChanState_keeps
    | with_reducible apply State.beginHead_keeps
    | with_reducible apply State.haltOnFetch_keeps
    | with_reducible apply State.setCause_keeps
    | ((fail_if_no_progress extract_lets +onlyGivenNames x); refine (fun (hx : Keeps s x) => ?_) ?_; on_goal 2 => unfold x; on_goal 1 => clear_value x)
    | ((fail_if_no_progress extract_lets +onlyGivenNames x); clear_value x)
    | with_reducible refine Keeps.ite ?_ ?_
    | split

theorem State.setErrAddr_keeps {s t : State} (h : Keeps s t) (c : Fin 48) (a : Nat) :
    Keeps s (State.setErrAddr t c a) := by
  unfold State.setErrAddr
  repeat' first
    | with_reducible assumption
    | with_reducible apply State.put_keeps

theorem State.readFails_keeps {s t : State} (h : Keeps s t) (c : Fin 48) (r : DmaRead) :
    Keeps s (State.readFails t c r) := by
  unfold State.readFails
  repeat' first
    | with_reducible assumption
    | with_reducible apply State.modDch_keeps
    | with_reducible apply State.bump_keeps
    | with_reducible apply State.setErrAddr_keeps
    | ((fail_if_no_progress extract_lets +onlyGivenNames x); clear_value x)
    | with_reducible refine Keeps.ite ?_ ?_

theorem State.dropRead_keeps {s t : State} (h : Keeps s t) (c : Fin 48) (tag : Nat) :
    Keeps s (State.dropRead t c tag) := by
  unfold State.dropRead
  repeat' first
    | with_reducible assumption
    | with_reducible apply State.modDch_keeps

theorem State.fetchTakes_keeps {s t : State} (h : Keeps s t) (c : Fin 48) (r : DmaRead) (raw : List Byte) :
    Keeps s (State.fetchTakes t c r raw) := by
  unfold State.fetchTakes
  repeat' first
    | with_reducible assumption
    | with_reducible apply State.modDch_keeps
    | with_reducible apply State.cleanCells_keeps
    | with_reducible apply State.beginHead_keeps
    | with_reducible apply State.setChanState_keeps
    | with_reducible apply State.setCause_keeps
    | ((fail_if_no_progress extract_lets +onlyGivenNames x); refine (fun (hx : Keeps s x) => ?_) ?_; on_goal 2 => unfold x; on_goal 1 => clear_value x)
    | ((fail_if_no_progress extract_lets +onlyGivenNames x); clear_value x)
    | with_reducible refine Keeps.ite ?_ ?_

theorem State.fetchFails_keeps {s t : State} (h : Keeps s t) (c : Fin 48) (r : DmaRead) :
    Keeps s (State.fetchFails t c r) := by
  unfold State.fetchFails
  repeat' first
    | with_reducible assumption
    | with_reducible apply State.modDch_keeps
    | with_reducible apply State.bump_keeps
    | with_reducible apply State.setErrAddr_keeps
    | with_reducible apply State.haltOnFetch_keeps
    | ((fail_if_no_progress extract_lets +onlyGivenNames x); refine (fun (hx : Keeps s x) => ?_) ?_; on_goal 2 => unfold x; on_goal 1 => clear_value x)
    | ((fail_if_no_progress extract_lets +onlyGivenNames x); clear_value x)
    | with_reducible refine Keeps.ite ?_ ?_

theorem State.fetchReturn_keeps {s t : State} (h : Keeps s t) (c : Fin 48) (r : DmaRead) (data : Option (List Byte)) :
    Keeps s (State.fetchReturn t c r data) := by
  unfold State.fetchReturn
  repeat' first
    | with_reducible assumption
    | with_reducible apply State.modDch_keeps
    | with_reducible apply State.idleIfStopped_keeps
    | with_reducible apply State.fetchTakes_keeps
    | with_reducible apply State.fetchFails_keeps
    | ((fail_if_no_progress extract_lets +onlyGivenNames x); refine (fun (hx : Keeps s x) => ?_) ?_; on_goal 2 => unfold x; on_goal 1 => clear_value x)
    | ((fail_if_no_progress extract_lets +onlyGivenNames x); clear_value x)
    | with_reducible refine Keeps.ite ?_ ?_
    | split

theorem State.busError_keeps {s t : State} (h : Keeps s t) (tag : Nat) :
    Keeps s (State.busError t tag) := by
  unfold State.busError
  repeat' first
    | with_reducible assumption
    | with_reducible apply State.readFails_keeps
    | with_reducible apply State.dropRead_keeps
    | with_reducible apply State.fetchReturn_keeps
    | split

theorem State.writeRing_keeps {s t : State} (h : Keeps s t) (c : Fin 48) (d : Desc) (st : Nat) (residue : Nat) (eof : Bool) :
    Keeps s (State.writeRing t c d st residue eof) := by
  unfold State.writeRing
  repeat' first
    | with_reducible assumption
    | with_reducible apply State.memWrite_keeps
    | with_reducible apply State.sendLink_keeps
    | ((fail_if_no_progress extract_lets +onlyGivenNames x); clear_value x)
    | with_reducible refine Keeps.ite ?_ ?_

theorem State.passDescriptor_keeps {s t : State} (h : Keeps s t) (c : Fin 48) (st : Nat) (eof : Bool) :
    Keeps s (State.passDescriptor t c st eof) := by
  unfold State.passDescriptor
  repeat' first
    | with_reducible assumption
    | with_reducible apply State.put_keeps
    | with_reducible apply State.modRsp_keeps
    | with_reducible apply State.freeStore_keeps
    | with_reducible apply State.modCam_keeps
    | with_reducible apply State.modDch_keeps
    | with_reducible refine Keeps.ite ?_ ?_

theorem State.writeBack_keeps {s t : State} (h : Keeps s t) (c : Fin 48) (d : Desc) (st : Nat) (eof : Bool) :
    Keeps s (State.writeBack t c d st eof) := by
  unfold State.writeBack
  repeat' first
    | with_reducible assumption
    | with_reducible apply State.bump_keeps
    | with_reducible apply State.writeRing_keeps
    | with_reducible apply State.afterWriteback_keeps
    | with_reducible apply State.passDescriptor_keeps

theorem State.loseDescriptor_keeps {s t : State} (h : Keeps s t) (c : Fin 48) (d : Desc) :
    Keeps s (State.loseDescriptor t c d) := by
  unfold State.loseDescriptor
  repeat' first
    | with_reducible assumption
    | with_reducible apply State.writeBack_keeps
    | with_reducible apply State.afterWriteback_keeps
    | with_reducible apply State.passDescriptor_keeps
    | ((fail_if_no_progress extract_lets +onlyGivenNames x); clear_value x)
    | with_reducible refine Keeps.ite ?_ ?_

theorem State.chanLoses_keeps {s t : State} (h : Keeps s t) (c : Fin 48) (d : Domain) :
    Keeps s (State.chanLoses t c d) := by
  unfold State.chanLoses
  repeat' first
    | with_reducible assumption
    | with_reducible apply State.modDch_keeps
    | with_reducible apply State.loseDescriptor_keeps
    | ((fail_if_no_progress extract_lets +onlyGivenNames x); refine (fun (hx : Keeps s x) => ?_) ?_; on_goal 2 => unfold x; on_goal 1 => clear_value x)
    | with_reducible refine Keeps.ite ?_ ?_
    | split

theorem State.chanStart_keeps {s t : State} (h : Keeps s t) (c : Fin 48) :
    Keeps s (State.chanStart t c) := by
  unfold State.chanStart
  repeat' first
    | with_reducible assumption
    | with_reducible apply State.modDch_keeps
    | with_reducible apply State.setChanState_keeps
    | ((fail_if_no_progress extract_lets +onlyGivenNames x); refine (fun (hx : Keeps s x) => ?_) ?_; on_goal 2 => unfold x; on_goal 1 => clear_value x)
    | with_reducible refine Keeps.ite ?_ ?_

theorem State.dmaAbort_keeps {s t : State} (h : Keeps s t) (c : Fin 48) :
    Keeps s (State.dmaAbort t c) := by
  unfold State.dmaAbort
  repeat' first
    | with_reducible assumption
    | with_reducible apply State.modDch_keeps
    | with_reducible apply State.setChanState_keeps
    | with_reducible apply State.idleIfStopped_keeps
    | with_reducible refine Keeps.ite ?_ ?_

theorem State.dmaBell_keeps {s t : State} (h : Keeps s t) (c : Fin 48) :
    Keeps s (State.dmaBell t c) := by
  unfold State.dmaBell
  repeat' first
    | with_reducible assumption
    | with_reducible apply State.modDch_keeps
    | ((fail_if_no_progress extract_lets +onlyGivenNames x); clear_value x)
    | with_reducible refine Keeps.ite ?_ ?_

theorem State.loseRing_keeps {s t : State} (h : Keeps s t) (c : Fin 48) :
    Keeps s (State.loseRing t c) := by
  unfold State.loseRing
  repeat' first
    | with_reducible assumption
    | with_reducible apply State.modDch_keeps
    | with_reducible apply State.setCause_keeps
    | with_reducible apply State.setChanState_keeps
    | with_reducible apply State.put_keeps
    | ((fail_if_no_progress extract_lets +onlyGivenNames x); refine (fun (hx : Keeps s x) => ?_) ?_; on_goal 2 => unfold x; on_goal 1 => clear_value x)
    | with_reducible refine Keeps.ite ?_ ?_

theorem State.dmaLoses_keeps {s t : State} (h : Keeps s t) (d : Domain) :
    Keeps s (State.dmaLoses t d) := by
  unfold State.dmaLoses
  repeat' first
    | with_reducible assumption
    | with_reducible apply State.chanLoses_keeps
    | with_reducible apply State.loseRing_keeps
    | with_reducible refine Keeps.foldl _ (fun x a hx => ?_) ?_
    | ((fail_if_no_progress extract_lets +onlyGivenNames x); refine (fun (hx : Keeps s x) => ?_) ?_; on_goal 2 => unfold x; on_goal 1 => clear_value x)
    | ((fail_if_no_progress extract_lets +onlyGivenNames x); clear_value x)
    | with_reducible refine Keeps.ite ?_ ?_

theorem State.dmaStart_keeps {s t : State} (h : Keeps s t) (c : Fin 48) :
    Keeps s (State.dmaStart t c) := by
  unfold State.dmaStart
  repeat' first
    | with_reducible assumption
    | with_reducible apply State.unlessHeld_keeps
    | with_reducible apply State.chanStart_keeps
    | (intro y hy)

theorem State.fetchBegin_keeps {s t : State} (h : Keeps s t) (c : Fin 48) :
    Keeps s (State.fetchBegin t c) := by
  unfold State.fetchBegin
  repeat' first
    | with_reducible assumption
    | with_reducible apply State.modDch_keeps
    | with_reducible apply State.sendLink_keeps
    | ((fail_if_no_progress extract_lets +onlyGivenNames x); refine (fun (hx : Keeps s x) => ?_) ?_; on_goal 2 => unfold x; on_goal 1 => clear_value x)
    | ((fail_if_no_progress extract_lets +onlyGivenNames x); clear_value x)
    | with_reducible refine Keeps.ite ?_ ?_

theorem State.landedBytes_keeps {s t : State} (h : Keeps s t) (c : Fin 48) (n : Nat) :
    Keeps s (State.landedBytes t c n) := by
  unfold State.landedBytes
  repeat' first
    | with_reducible assumption
    | with_reducible apply State.bumpBy_keeps
    | with_reducible apply State.modDch_keeps
    | with_reducible apply State.frameWritten_keeps
    | with_reducible apply State.setCause_keeps
    | ((fail_if_no_progress extract_lets +onlyGivenNames x); refine (fun (hx : Keeps s x) => ?_) ?_; on_goal 2 => unfold x; on_goal 1 => clear_value x)
    | ((fail_if_no_progress extract_lets +onlyGivenNames x); clear_value x)
    | with_reducible refine Keeps.ite ?_ ?_
    | split

theorem State.linkLost_keeps {s t : State} (h : Keeps s t)  :
    Keeps s (State.linkLost t) := by
  unfold State.linkLost
  repeat' first
    | with_reducible assumption
    | with_reducible apply State.busError_keeps
    | with_reducible refine Keeps.foldl _ (fun x a hx => ?_) ?_

theorem State.loadRlBase_keeps {s t : State} (h : Keeps s t)  :
    Keeps s (State.loadRlBase t) := by
  unfold State.loadRlBase
  repeat' first
    | with_reducible assumption
    | with_reducible apply State.put_keeps
    | with_reducible refine Keeps.ite ?_ ?_

theorem execCompletionTimeout_keeps {s t : State} (h : Keeps s t) (tag : Fin 1024) :
    ∃ u, (execCompletionTimeout tag t) = .next u ∧ Keeps s u := by
  unfold execCompletionTimeout
  repeat' first
    | with_reducible assumption
    | with_reducible apply State.busError_keeps
    | with_reducible apply State.reportError_keeps
    | with_reducible apply State.vlog_keeps
    | with_reducible refine ⟨_, rfl, ?_⟩
    | split

theorem execDmaAbort_keeps {s t : State} (h : Keeps s t) (c : Fin 48) :
    ∃ u, (execDmaAbort c t) = .next u ∧ Keeps s u := by
  unfold execDmaAbort
  repeat' first
    | with_reducible assumption
    | with_reducible apply State.atBlock_keeps
    | with_reducible apply State.dmaAbort_keeps
    | with_reducible refine ⟨_, rfl, ?_⟩
    | (intro y hy)

theorem execDmaStart_keeps {s t : State} (h : Keeps s t) (c : Fin 48) :
    ∃ u, (execDmaStart c t) = .next u ∧ Keeps s u := by
  unfold execDmaStart
  repeat' first
    | with_reducible assumption
    | with_reducible apply State.atBlock_keeps
    | with_reducible apply State.dmaStart_keeps
    | with_reducible refine ⟨_, rfl, ?_⟩
    | (intro y hy)

theorem execDoorbell_keeps {s t : State} (h : Keeps s t) (c : Fin 48) :
    ∃ u, (execDoorbell c t) = .next u ∧ Keeps s u := by
  unfold execDoorbell
  repeat' first
    | with_reducible assumption
    | with_reducible apply State.atBlock_keeps
    | with_reducible apply State.dmaBell_keeps
    | with_reducible refine ⟨_, rfl, ?_⟩
    | (intro y hy)

theorem execPollExpiry_keeps {s t : State} (h : Keeps s t) (c : Fin 48) :
    ∃ u, (execPollExpiry c t) = .next u ∧ Keeps s u := by
  unfold execPollExpiry
  repeat' first
    | with_reducible assumption
    | with_reducible apply State.modDch_keeps
    | with_reducible refine ⟨_, rfl, ?_⟩
    | split

theorem execTokenAccrual_keeps {s t : State} (h : Keeps s t)  :
    ∃ u, (execTokenAccrual t) = .next u ∧ Keeps s u := by
  unfold execTokenAccrual
  repeat' first
    | with_reducible assumption
    | with_reducible apply State.accrue_keeps
    | with_reducible refine Keeps.foldl _ (fun x a hx => ?_) ?_
    | with_reducible refine ⟨_, rfl, ?_⟩
    | split

end Sys2Proof.Machine
end

