-- ==== Sys2Proof/Laws/Keeps/Nozzle.lean ====
section
/-!
SUPPORT. What every operation of Machine/Nozzle.lean keeps (Laws/Keeps.lean).
-/

namespace Sys2Proof.Machine

theorem State.discardVoid_keeps {s t : State} (h : Keeps s t) (n : Fin 32) (k : Nat) :
    Keeps s (State.discardVoid t n k) := by
  unfold State.discardVoid
  repeat' first
    | with_reducible assumption
    | with_reducible apply State.setCause_keeps
    | with_reducible apply State.bumpBy_keeps

theorem State.countSkip_keeps {s t : State} (h : Keeps s t) (n : Fin 32) (k : Nat) :
    Keeps s (State.countSkip t n k) := by
  unfold State.countSkip
  repeat' first
    | with_reducible assumption
    | with_reducible apply State.setCause_keeps
    | with_reducible apply State.bumpBy_keeps

theorem State.readUpd_keeps {s t : State} (h : Keeps s t) (n : Nat) (w : DWord) :
    Keeps s (State.readUpd t n w) := by
  unfold State.readUpd
  repeat' first
    | with_reducible assumption
    | with_reducible apply State.readErrs_keeps

theorem State.setEntry_keeps {s t : State} (h : Keeps s t) (a : Nat) (b : Byte) :
    Keeps s (State.setEntry t a b) := by
  unfold State.setEntry
  repeat' first
    | with_reducible assumption
    | with_reducible apply State.setBytes_keeps
    | with_reducible apply State.setByte_keeps
    | with_reducible apply State.cleanWord_keeps
    | with_reducible refine Keeps.ite ?_ ?_

theorem State.writeUpd_keeps {s t : State} (h : Keeps s t) (n : Fin 32) (w : DWord) :
    Keeps s (State.writeUpd t n w) := by
  unfold State.writeUpd
  repeat' first
    | with_reducible assumption
    | with_reducible apply State.bump_keeps
    | with_reducible apply State.setEntry_keeps

theorem State.applyUpd_keeps {s t : State} (h : Keeps s t) (n : Fin 32) (w : DWord) :
    Keeps s (State.applyUpd t n w) := by
  unfold State.applyUpd
  repeat' first
    | with_reducible assumption
    | with_reducible apply State.countSkip_keeps
    | with_reducible apply State.readUpd_keeps
    | with_reducible apply State.writeUpd_keeps
    | with_reducible refine Keeps.ite ?_ ?_

theorem State.applyOne_keeps {s t : State} (h : Keeps s t) (n : Fin 32) (w : DWord) :
    Keeps s (State.applyOne t n w) := by
  unfold State.applyOne
  repeat' first
    | with_reducible assumption
    | with_reducible apply State.discardVoid_keeps
    | with_reducible apply State.applyUpd_keeps
    | with_reducible refine Keeps.ite ?_ ?_

theorem State.tablePortB_keeps {s t : State} (h : Keeps s t) (n : Fin 32) (pb : List PortBWrite) (k : Nat) (wrote : Option Nat) :
    Keeps s (State.tablePortB t n pb k wrote) := by
  unfold State.tablePortB
  repeat' first
    | with_reducible assumption
    | with_reducible apply State.portB_keeps
    | with_reducible apply State.setCause_keeps
    | with_reducible apply State.bump_keeps
    | ((fail_if_no_progress extract_lets +onlyGivenNames x); refine (fun (hx : Keeps s x) => ?_) ?_; on_goal 2 => unfold x; on_goal 1 => clear_value x)
    | with_reducible refine Keeps.ite ?_ ?_

theorem State.applyPair_keeps {s t : State} (h : Keeps s t) (n : Fin 32) (pb : List PortBWrite) (k : Nat) (a : DWord) (b : DWord) :
    Keeps s (State.applyPair t n pb k a b) := by
  unfold State.applyPair
  repeat' first
    | with_reducible assumption
    | with_reducible apply State.tablePortB_keeps
    | with_reducible apply State.discardVoid_keeps
    | with_reducible apply State.readUpd_keeps
    | with_reducible apply State.countSkip_keeps
    | with_reducible apply State.writeUpd_keeps
    | ((fail_if_no_progress extract_lets +onlyGivenNames x); refine (fun (hx : Keeps s x) => ?_) ?_; on_goal 2 => unfold x; on_goal 1 => clear_value x)
    | with_reducible refine Keeps.ite ?_ ?_

theorem State.dptDone_keeps {s t : State} (h : Keeps s t) (st : Status) :
    Keeps s (State.dptDone t st) := by
  unfold State.dptDone
  repeat' first
    | with_reducible assumption
    | with_reducible apply State.bump_keeps
    | with_reducible apply State.put_keeps
    | ((fail_if_no_progress extract_lets +onlyGivenNames x); refine (fun (hx : Keeps s x) => ?_) ?_; on_goal 2 => unfold x; on_goal 1 => clear_value x)
    | with_reducible refine Keeps.ite ?_ ?_

theorem State.dptSettle_keeps {s t : State} (h : Keeps s t) (f : State → State) (hf : ∀ x, Keeps s x → Keeps s (f x)) :
    Keeps s (State.dptSettle f t) := by
  unfold State.dptSettle
  repeat' first
    | with_reducible assumption
    | with_reducible apply hf
    | with_reducible apply State.dptDone_keeps
    | ((fail_if_no_progress extract_lets +onlyGivenNames x); refine (fun (hx : Keeps s x) => ?_) ?_; on_goal 2 => unfold x; on_goal 1 => clear_value x)
    | with_reducible refine Keeps.ite ?_ ?_

theorem State.modNst_keeps {s t : State} (h : Keeps s t) (n : Fin 32) (f : Nst → Nst) :
    Keeps s (State.modNst t n f) := by
  unfold State.modNst
  repeat' first
    | with_reducible assumption
    | with_reducible apply State.modBar_keeps
    | with_reducible apply State.setCauseIf_keeps

theorem State.enterUpd_keeps {s t : State} (h : Keeps s t) (n : Fin 32) (f : Nst → Nst) (w : DWord) :
    Keeps s (State.enterUpd t n f w) := by
  unfold State.enterUpd
  repeat' first
    | with_reducible assumption
    | with_reducible apply State.modNst_keeps
    | with_reducible apply State.cleanCells_keeps

theorem State.flushNst_keeps {s t : State} (h : Keeps s t) (n : Fin 32) :
    Keeps s (State.flushNst t n) := by
  unfold State.flushNst
  repeat' first
    | with_reducible assumption
    | with_reducible apply State.setCauseIf_keeps
    | with_reducible apply State.bumpBy_keeps
    | with_reducible apply State.modNst_keeps

theorem State.openWindow_keeps {s t : State} (h : Keeps s t) (n : Fin 32) :
    Keeps s (State.openWindow t n) := by
  unfold State.openWindow
  repeat' first
    | with_reducible assumption
    | with_reducible apply State.modBar_keeps

theorem State.pushUpd_keeps {s t : State} (h : Keeps s t) (m : Master) (n : Fin 32) (w : DWord) :
    Keeps s (State.pushUpd t m n w) := by
  unfold State.pushUpd
  repeat' first
    | with_reducible assumption
    | with_reducible apply State.enterUpd_keeps
    | with_reducible apply State.modNst_keeps
    | ((fail_if_no_progress extract_lets +onlyGivenNames x); clear_value x)
    | with_reducible refine Keeps.ite ?_ ?_

theorem State.stalledPush_keeps {s t : State} (h : Keeps s t) (n : Fin 32) :
    Keeps s (State.stalledPush t n) := by
  unfold State.stalledPush
  repeat' first
    | with_reducible assumption
    | with_reducible apply State.enterUpd_keeps
    | with_reducible refine Keeps.ite ?_ ?_
    | split

theorem State.takeOne_keeps {s t : State} (h : Keeps s t) (n : Fin 32) (pb : List PortBWrite) (k : Nat) (w : DWord) :
    Keeps s (State.takeOne t n pb k w) := by
  unfold State.takeOne
  repeat' first
    | with_reducible assumption
    | with_reducible apply State.tablePortB_keeps
    | with_reducible apply State.applyOne_keeps

theorem State.takeHead_keeps {s t : State} (h : Keeps s t) (n : Fin 32) (pb : List PortBWrite) (k : Nat) (budget : Nat) :
    ∀ r, (State.takeHead t n pb k budget) = some r → Keeps s r.1 := by
  intro r hr
  unfold State.takeHead at hr
  dsimp only at hr
  split at hr
  · cases hr
  · by_cases hb : budget = 0
    · rw [if_pos hb] at hr; cases hr
    · rw [if_neg hb] at hr
      split at hr
      · split at hr
        · cases hr
        · by_cases hc : budget < 2
          · rw [if_pos hc] at hr; cases hr
          · rw [if_neg hc] at hr
            cases hr
            exact State.applyPair_keeps (State.modNst_keeps (State.readCells_keeps h _) _ _) _ _ _ _ _
      · cases hr
        exact State.takeOne_keeps (State.modNst_keeps (State.readCells_keeps h _) _ _) _ _ _ _

theorem State.updHi_keeps {s t : State} (h : Keeps s t) (m : Master) (n : Fin 32) (w : Word) :
    Keeps s (State.updHi t m n w) := by
  unfold State.updHi
  repeat' first
    | with_reducible assumption
    | with_reducible apply State.pushUpd_keeps

theorem State.updLo_keeps {s t : State} (h : Keeps s t) (m : Master) (n : Fin 32) (w : Word) :
    Keeps s (State.updLo t m n w) := by
  unfold State.updLo
  repeat' first
    | with_reducible assumption
    | with_reducible apply State.modBar_keeps

theorem State.windowLoop_keeps {s t : State} (h : Keeps s t) (n : Fin 32) (limit : Nat) (pb : List PortBWrite) (N : Nat) (a4 : Nat) :
    Keeps s (State.windowLoop n limit pb N a4 t) := by
  induction N generalizing t a4 with
  | zero => exact h
  | succ k ih =>
    unfold State.windowLoop
    split
    · exact h
    · rename_i he
      exact ih (State.modBar_keeps (State.takeHead_keeps h _ _ _ _ _ he) _ _) _

theorem execFlush_keeps {s t : State} (h : Keeps s t) (n : Fin 32) :
    ∃ u, (execFlush n t) = .next u ∧ Keeps s u := by
  unfold execFlush
  repeat' first
    | with_reducible assumption
    | with_reducible apply State.atBlock_keeps
    | with_reducible apply State.flushNst_keeps
    | with_reducible refine ⟨_, rfl, ?_⟩
    | (intro y hy)

theorem execNstUpdHiPush_keeps {s t : State} (h : Keeps s t) (m : Master) (n : Fin 32) (w : Word) :
    ∃ u, (execNstUpdHiPush m n w t) = .next u ∧ Keeps s u := by
  unfold execNstUpdHiPush
  repeat' first
    | with_reducible assumption
    | with_reducible apply State.atBlock_keeps
    | with_reducible apply State.updHi_keeps
    | with_reducible refine ⟨_, rfl, ?_⟩
    | (intro y hy)

theorem execNstUpdLoWrite_keeps {s t : State} (h : Keeps s t) (m : Master) (n : Fin 32) (w : Word) :
    ∃ u, (execNstUpdLoWrite m n w t) = .next u ∧ Keeps s u := by
  unfold execNstUpdLoWrite
  repeat' first
    | with_reducible assumption
    | with_reducible apply State.atBlock_keeps
    | with_reducible apply State.updLo_keeps
    | with_reducible refine ⟨_, rfl, ?_⟩
    | (intro y hy)

theorem execPairAlone_keeps {s t : State} (h : Keeps s t) (n : Fin 32) (pb : optParam (List PortBWrite) []) :
    ∃ u, (execPairAlone n t pb) = .next u ∧ Keeps s u := by
  unfold execPairAlone
  repeat' first
    | with_reducible assumption
    | with_reducible apply State.modNst_keeps
    | with_reducible apply State.readCells_keeps
    | with_reducible apply State.takeOne_keeps
    | with_reducible apply State.setCause_keeps
    | with_reducible apply State.bump_keeps
    | with_reducible refine ⟨_, rfl, ?_⟩
    | ((fail_if_no_progress extract_lets +onlyGivenNames x); refine (fun (hx : Keeps s x) => ?_) ?_; on_goal 2 => unfold x; on_goal 1 => clear_value x)
    | ((fail_if_no_progress extract_lets +onlyGivenNames x); clear_value x)
    | split

theorem execUpdateApplyImmediate_keeps {s t : State} (h : Keeps s t) (n : Fin 32) (pb : optParam (List PortBWrite) []) :
    ∃ u, (execUpdateApplyImmediate n t pb) = .next u ∧ Keeps s u := by
  unfold execUpdateApplyImmediate
  split
  · exact ⟨_, rfl, h⟩
  · split
    · rename_i he
      exact ⟨_, rfl, State.takeHead_keeps h _ _ _ _ _ he⟩
    · exact ⟨_, rfl, h⟩

theorem execUpdateWindow_keeps {s t : State} (h : Keeps s t) (n : Fin 32) (pb : List PortBWrite) :
    ∃ u, (execUpdateWindow n pb t) = .next u ∧ Keeps s u := by
  unfold execUpdateWindow
  repeat' first
    | with_reducible assumption
    | with_reducible apply State.openWindow_keeps
    | with_reducible apply State.windowLoop_keeps
    | with_reducible refine ⟨_, rfl, ?_⟩
    | ((fail_if_no_progress extract_lets +onlyGivenNames x); refine (fun (hx : Keeps s x) => ?_) ?_; on_goal 2 => unfold x; on_goal 1 => clear_value x)
    | ((fail_if_no_progress extract_lets +onlyGivenNames x); clear_value x)
    | split

end Sys2Proof.Machine
end

