-- ==== Sys2Proof/Laws/Keeps/Pairs.lean ====
section
/-!
SUPPORT. What every operation of Machine/Pairs.lean keeps (Laws/Keeps.lean).
-/

namespace Sys2Proof.Machine

theorem State.kick_keeps {s t : State} (h : Keeps s t)  :
    Keeps s (State.kick t) := by
  unfold State.kick
  repeat' first
    | with_reducible assumption
    | ((fail_if_no_progress extract_lets +onlyGivenNames x); clear_value x)
    | with_reducible refine Keeps.mk' ?_

theorem State.romKicks_keeps {s t : State} (h : Keeps s t) (j : Fin 4) :
    Keeps s (State.romKicks t j) := by
  unfold State.romKicks
  repeat' first
    | with_reducible assumption
    | with_reducible apply State.kick_keeps
    | with_reducible refine Keeps.ite ?_ ?_

theorem State.graceCheck_keeps {s t : State} (h : Keeps s t) (j : Fin 4) :
    Keeps s (State.graceCheck t j) := by
  unfold State.graceCheck
  repeat' first
    | with_reducible assumption
    | with_reducible apply State.graceCheckMet_keeps
    | with_reducible apply State.setCause_keeps
    | with_reducible refine Keeps.ite ?_ ?_
    | with_reducible refine Keeps.mk' ?_

theorem State.haltPair_keeps {s t : State} (h : Keeps s t) (j : Fin 4) (cause : Nat) :
    Keeps s (State.haltPair t j cause) := by
  unfold State.haltPair
  repeat' first
    | with_reducible assumption
    | with_reducible apply State.modPair_keeps
    | with_reducible apply State.romKicks_keeps
    | with_reducible apply State.setCause_keeps
    | with_reducible apply State.put_keeps
    | with_reducible apply State.graceCheck_keeps

theorem State.releaseSlot_keeps {s t : State} (h : Keeps s t) (j : Fin 4) (o : Output) :
    Keeps s (State.releaseSlot t j o) := by
  unfold State.releaseSlot
  repeat' first
    | with_reducible assumption
    | with_reducible apply State.modNst_keeps
    | split

theorem State.undoWrites_keeps {s t : State} (h : Keeps s t) (j : Fin 4) (i : Interval) :
    Keeps s (State.undoWrites t j i) := by
  unfold State.undoWrites
  repeat' first
    | with_reducible assumption
    | with_reducible apply State.storeBytes_keeps
    | with_reducible refine Keeps.foldl _ (fun x a hx => ?_) ?_

theorem State.rewind_keeps {s t : State} (h : Keeps s t) (j : Fin 4) (i : Interval) :
    Keeps s (State.rewind t j i) := by
  unfold State.rewind
  repeat' first
    | with_reducible assumption
    | with_reducible apply State.releaseSlot_keeps
    | with_reducible apply State.undoWrites_keeps
    | with_reducible apply State.modPair_keeps
    | with_reducible refine Keeps.foldl _ (fun x a hx => ?_) ?_

theorem State.lockstepHalt_keeps {s t : State} (h : Keeps s t) (j : Fin 4) (i : Interval) :
    Keeps s (State.lockstepHalt t j i) := by
  unfold State.lockstepHalt
  repeat' first
    | with_reducible assumption
    | with_reducible apply State.put_keeps
    | with_reducible apply State.haltPair_keeps
    | with_reducible apply State.rewind_keeps

theorem State.rollback_keeps {s t : State} (h : Keeps s t) (j : Fin 4) (i : Interval) :
    Keeps s (State.rollback t j i) := by
  unfold State.rollback
  repeat' first
    | with_reducible assumption
    | with_reducible apply State.modPair_keeps
    | with_reducible apply State.rewind_keeps
    | with_reducible apply State.setCause_keeps
    | with_reducible apply State.bump_keeps

theorem State.compareFails_keeps {s t : State} (h : Keeps s t) (j : Fin 4) (i : Interval) :
    Keeps s (State.compareFails t j i) := by
  unfold State.compareFails
  repeat' first
    | with_reducible assumption
    | with_reducible apply State.modPair_keeps
    | with_reducible apply State.bump_keeps
    | with_reducible apply State.lockstepHalt_keeps
    | with_reducible apply State.rollback_keeps
    | ((fail_if_no_progress extract_lets +onlyGivenNames x); refine (fun (hx : Keeps s x) => ?_) ?_; on_goal 2 => unfold x; on_goal 1 => clear_value x)
    | ((fail_if_no_progress extract_lets +onlyGivenNames x); clear_value x)
    | with_reducible refine Keeps.ite ?_ ?_

theorem State.dmemStore_keeps {s t : State} (h : Keeps s t) (j : Fin 4) (off : Nat) (bs : List Byte) :
    Keeps s (State.dmemStore t j off bs) := by
  unfold State.dmemStore
  repeat' first
    | with_reducible assumption
    | with_reducible apply State.modPair_keeps
    | with_reducible apply State.storeBytes_keeps

theorem State.stopHere_keeps {s t : State} (h : Keeps s t) (j : Fin 4) (cause : Nat) :
    Keeps s (State.stopHere t j cause) := by
  unfold State.stopHere
  repeat' first
    | with_reducible assumption
    | with_reducible apply State.modPair_keeps

theorem State.finishWait_keeps {s t : State} (h : Keeps s t) (j : Fin 4) (w : Wait) (code : Word) :
    Keeps s (State.finishWait t j w code) := by
  unfold State.finishWait
  repeat' first
    | with_reducible assumption
    | with_reducible apply State.modPair_keeps
    | with_reducible apply State.stopHere_keeps
    | ((fail_if_no_progress extract_lets +onlyGivenNames x); refine (fun (hx : Keeps s x) => ?_) ?_; on_goal 2 => unfold x; on_goal 1 => clear_value x)
    | with_reducible refine Keeps.ite ?_ ?_

theorem State.haltRequest_keeps {s t : State} (h : Keeps s t) (j : Fin 4) (cause : Nat) :
    Keeps s (State.haltRequest t j cause) := by
  unfold State.haltRequest
  repeat' first
    | with_reducible assumption
    | with_reducible apply State.modPair_keeps
    | split

theorem State.kdataWrite_keeps {s t : State} (h : Keeps s t) (j : Fin 4) (w : Word) :
    Keeps s (State.kdataWrite t j w) := by
  unfold State.kdataWrite
  repeat' first
    | with_reducible assumption
    | with_reducible apply State.modPair_keeps
    | ((fail_if_no_progress extract_lets +onlyGivenNames x); clear_value x)
    | with_reducible refine Keeps.ite ?_ ?_

theorem State.launch_keeps {s t : State} (h : Keeps s t) (j : Fin 4) (how : Nat) :
    Keeps s (State.launch t j how) := by
  unfold State.launch
  repeat' first
    | with_reducible assumption
    | with_reducible apply State.modPair_keeps
    | with_reducible apply State.put_keeps
    | ((fail_if_no_progress extract_lets +onlyGivenNames x); refine (fun (hx : Keeps s x) => ?_) ?_; on_goal 2 => unfold x; on_goal 1 => clear_value x)
    | ((fail_if_no_progress extract_lets +onlyGivenNames x); clear_value x)
    | with_reducible refine Keeps.ite ?_ ?_
    | with_reducible refine Keeps.mk' ?_

theorem State.reserveSlot_keeps {s t : State} (h : Keeps s t) (j : Fin 4) (o : Output) :
    ∀ r, (State.reserveSlot t j o) = some r → Keeps s r := by
  intro r hr
  unfold State.reserveSlot at hr
  split at hr
  · cases hr; exact h
  · split at hr
    · cases hr; exact h
    · split at hr
      · cases hr
      · cases hr; exact State.modNst_keeps h _ _

theorem State.resumePair_keeps {s t : State} (h : Keeps s t) (j : Fin 4) :
    Keeps s (State.resumePair t j) := by
  unfold State.resumePair
  repeat' first
    | with_reducible assumption
    | with_reducible apply State.unlessHeld_keeps
    | with_reducible apply State.modPair_keeps
    | with_reducible apply State.put_keeps
    | ((fail_if_no_progress extract_lets +onlyGivenNames x); refine (fun (hx : Keeps s x) => ?_) ?_; on_goal 2 => unfold x; on_goal 1 => clear_value x)
    | with_reducible refine Keeps.ite ?_ ?_
    | split
    | (intro y hy)
    | with_reducible refine Keeps.mk' ?_

theorem State.seqHalt_keeps {s t : State} (h : Keeps s t) (j : Fin 4) :
    Keeps s (State.seqHalt t j) := by
  unfold State.seqHalt
  repeat' first
    | with_reducible assumption
    | with_reducible apply State.haltRequest_keeps
    | with_reducible refine Keeps.ite ?_ ?_

theorem State.startPairAt_keeps {s t : State} (h : Keeps s t) (j : Fin 4) (command : Bool) :
    Keeps s (State.startPairAt t j command) := by
  unfold State.startPairAt
  repeat' first
    | with_reducible assumption
    | with_reducible apply State.setCause_keeps
    | with_reducible apply State.launch_keeps
    | with_reducible refine Keeps.ite ?_ ?_

theorem State.stepRequest_keeps {s t : State} (h : Keeps s t) (j : Fin 4) :
    Keeps s (State.stepRequest t j) := by
  unfold State.stepRequest
  repeat' first
    | with_reducible assumption
    | with_reducible apply State.unlessHeld_keeps
    | with_reducible apply State.modPair_keeps
    | with_reducible refine Keeps.ite ?_ ?_
    | (intro y hy)

theorem State.swEvents_keeps {s t : State} (h : Keeps s t) (mask : Nat) :
    Keeps s (State.swEvents t mask) := by
  unfold State.swEvents
  repeat' first
    | with_reducible assumption
    | with_reducible apply State.raiseEvent_keeps
    | with_reducible refine Keeps.foldl _ (fun x a hx => ?_) ?_
    | with_reducible refine Keeps.ite ?_ ?_

theorem State.trap_keeps {s t : State} (h : Keeps s t) (j : Fin 4) (t0 : Trap) (addr : Nat) :
    Keeps s (State.trap t j t0 addr) := by
  unfold State.trap
  repeat' first
    | with_reducible assumption
    | with_reducible apply State.modPair_keeps
    | with_reducible apply State.stopHere_keeps
    | ((fail_if_no_progress extract_lets +onlyGivenNames x); refine (fun (hx : Keeps s x) => ?_) ?_; on_goal 2 => unfold x; on_goal 1 => clear_value x)
    | ((fail_if_no_progress extract_lets +onlyGivenNames x); clear_value x)
    | with_reducible refine Keeps.ite ?_ ?_

theorem execBreakpoint_keeps {s t : State} (h : Keeps s t) (j : Fin 4) :
    ∃ u, (execBreakpoint j t) = .next u ∧ Keeps s u := by
  unfold execBreakpoint
  repeat' first
    | with_reducible assumption
    | with_reducible apply State.stopHere_keeps
    | with_reducible refine ⟨_, rfl, ?_⟩
    | split

theorem execCheckpointCompare_keeps {s t : State} (h : Keeps s t) (j : Fin 4) (agree : Bool) :
    ∃ u, (execCheckpointCompare j agree t) = .next u ∧ Keeps s u := by
  unfold execCheckpointCompare
  repeat' first
    | with_reducible assumption
    | with_reducible apply State.modPair_keeps
    | with_reducible apply State.compareFails_keeps
    | with_reducible refine ⟨_, rfl, ?_⟩
    | ((fail_if_no_progress extract_lets +onlyGivenNames x); clear_value x)
    | split

theorem execHaltComplete_keeps {s t : State} (h : Keeps s t) (j : Fin 4) :
    ∃ u, (execHaltComplete j t) = .next u ∧ Keeps s u := by
  unfold execHaltComplete
  repeat' first
    | with_reducible assumption
    | with_reducible apply State.haltPair_keeps
    | with_reducible refine ⟨_, rfl, ?_⟩
    | ((fail_if_no_progress extract_lets +onlyGivenNames x); clear_value x)
    | split

theorem execHandlerEntry_keeps {s t : State} (h : Keeps s t) (j : Fin 4) :
    ∃ u, (execHandlerEntry j t) = .next u ∧ Keeps s u := by
  unfold execHandlerEntry
  repeat' first
    | with_reducible assumption
    | with_reducible apply State.modPair_keeps
    | with_reducible apply State.romKicks_keeps
    | with_reducible refine ⟨_, rfl, ?_⟩
    | ((fail_if_no_progress extract_lets +onlyGivenNames x); clear_value x)
    | split

theorem execKdata_keeps {s t : State} (h : Keeps s t) (j : Fin 4) (write : Option Word) :
    ∃ u, (execKdata j write t) = .next u ∧ Keeps s u := by
  unfold execKdata
  repeat' first
    | with_reducible assumption
    | with_reducible apply State.atBlock_keeps
    | with_reducible apply State.kdataWrite_keeps
    | with_reducible apply State.answer_keeps
    | with_reducible apply State.unpowered_keeps
    | with_reducible refine ⟨_, rfl, ?_⟩
    | split
    | (intro y hy)

theorem execLockstepHalt_keeps {s t : State} (h : Keeps s t) (j : Fin 4) :
    ∃ u, (execLockstepHalt j t) = .next u ∧ Keeps s u := by
  unfold execLockstepHalt
  repeat' first
    | with_reducible assumption
    | with_reducible apply State.compareFails_keeps
    | with_reducible refine ⟨_, rfl, ?_⟩
    | ((fail_if_no_progress extract_lets +onlyGivenNames x); clear_value x)
    | split

theorem execRestoreDone_keeps {s t : State} (h : Keeps s t) (j : Fin 4) :
    ∃ u, (execRestoreDone j t) = .next u ∧ Keeps s u := by
  unfold execRestoreDone
  repeat' first
    | with_reducible assumption
    | with_reducible apply State.put_keeps
    | with_reducible apply State.modPair_keeps
    | with_reducible refine ⟨_, rfl, ?_⟩
    | ((fail_if_no_progress extract_lets +onlyGivenNames x); refine (fun (hx : Keeps s x) => ?_) ?_; on_goal 2 => unfold x; on_goal 1 => clear_value x)
    | ((fail_if_no_progress extract_lets +onlyGivenNames x); clear_value x)
    | split

theorem execSeqHalt_keeps {s t : State} (h : Keeps s t) (j : Fin 4) :
    ∃ u, (execSeqHalt j t) = .next u ∧ Keeps s u := by
  unfold execSeqHalt
  repeat' first
    | with_reducible assumption
    | with_reducible apply State.atBlock_keeps
    | with_reducible apply State.seqHalt_keeps
    | with_reducible refine ⟨_, rfl, ?_⟩
    | (intro y hy)

theorem execSeqResume_keeps {s t : State} (h : Keeps s t) (j : Fin 4) :
    ∃ u, (execSeqResume j t) = .next u ∧ Keeps s u := by
  unfold execSeqResume
  repeat' first
    | with_reducible assumption
    | with_reducible apply State.atBlock_keeps
    | with_reducible apply State.resumePair_keeps
    | with_reducible refine ⟨_, rfl, ?_⟩
    | (intro y hy)

theorem execSeqStart_keeps {s t : State} (h : Keeps s t) (j : Fin 4) :
    ∃ u, (execSeqStart j t) = .next u ∧ Keeps s u := by
  unfold execSeqStart
  repeat' first
    | with_reducible assumption
    | with_reducible apply State.atBlock_keeps
    | with_reducible apply State.unlessHeld_keeps
    | with_reducible apply State.startPairAt_keeps
    | with_reducible refine ⟨_, rfl, ?_⟩
    | (intro y hy)

theorem execSeqSwev_keeps {s t : State} (h : Keeps s t) (mask : BitVec 4) :
    ∃ u, (execSeqSwev mask t) = .next u ∧ Keeps s u := by
  unfold execSeqSwev
  repeat' first
    | with_reducible assumption
    | with_reducible apply State.atBlock_keeps
    | with_reducible apply State.swEvents_keeps
    | with_reducible refine ⟨_, rfl, ?_⟩
    | (intro y hy)

theorem execSeqWdKick_keeps {s t : State} (h : Keeps s t) (m : Master) :
    ∃ u, (execSeqWdKick m t) = .next u ∧ Keeps s u := by
  unfold execSeqWdKick
  repeat' first
    | with_reducible assumption
    | with_reducible apply State.atBlock_keeps
    | with_reducible apply State.kick_keeps
    | with_reducible refine ⟨_, rfl, ?_⟩
    | split
    | (intro y hy)

theorem execWaitComplete_keeps {s t : State} (h : Keeps s t) (j : Fin 4) :
    ∃ u, (execWaitComplete j t) = .next u ∧ Keeps s u := by
  unfold execWaitComplete
  repeat' first
    | with_reducible assumption
    | with_reducible apply State.finishWait_keeps
    | with_reducible refine ⟨_, rfl, ?_⟩
    | split

theorem execWaitTimeout_keeps {s t : State} (h : Keeps s t) (j : Fin 4) :
    ∃ u, (execWaitTimeout j t) = .next u ∧ Keeps s u := by
  unfold execWaitTimeout
  repeat' first
    | with_reducible assumption
    | with_reducible apply State.finishWait_keeps
    | with_reducible refine ⟨_, rfl, ?_⟩
    | ((fail_if_no_progress extract_lets +onlyGivenNames x); clear_value x)
    | split

theorem execWdWarn_keeps {s t : State} (h : Keeps s t)  :
    ∃ u, (execWdWarn t) = .next u ∧ Keeps s u := by
  unfold execWdWarn
  repeat' first
    | with_reducible assumption
    | with_reducible apply State.setCause_keeps
    | with_reducible refine ⟨_, rfl, ?_⟩
    | ((fail_if_no_progress extract_lets +onlyGivenNames x); clear_value x)
    | split
    | with_reducible refine Keeps.mk' ?_

end Sys2Proof.Machine
end

