-- ==== Sys2Proof/Laws/Keeps/Otp.lean ====
section
/-!
SUPPORT. What every operation of Machine/Otp.lean keeps (Laws/Keeps.lean).
-/

namespace Sys2Proof.Machine

theorem State.setOtp_keeps {s t : State} (h : Keeps s t) (copy : Nat) (w : Nat) (strong : Word) (weak : Word)
    (hs : ∀ i, (t.otpStrong copy w).getLsbD i = true → strong.getLsbD i = true) :
    Keeps s (State.setOtp t copy w strong weak) := by
  unfold State.otpStrong at hs
  unfold State.setOtp
  have grows : ∀ (m : Cells Word), (∀ i, (Cells.get otpBlank m w).getLsbD i = true → strong.getLsbD i = true) →
      ∀ x i, (Cells.get otpBlank m x).getLsbD i = true →
        (Cells.get otpBlank (Cells.set otpBlank m w strong) x).getLsbD i = true := by
    intro m hm x i e
    rw [Cells.get_set]
    split
    · subst x; exact hm i e
    · exact e
  split
  · rename_i c
    rw [if_pos c] at hs
    exact h.maps rfl (.inl rfl) (Nat.le_refl _) (List.prefix_refl _) id id id ⟨grows _ hs, fun _ _ e => e⟩
  · rename_i c
    rw [if_neg c] at hs
    exact h.maps rfl (.inl rfl) (Nat.le_refl _) (List.prefix_refl _) id id id ⟨fun _ _ e => e, grows _ hs⟩

theorem State.burnEnd_keeps {s t : State} (h : Keeps s t) (copy : Nat) (w : Nat) (bits : Word) (fail : Word) :
    Keeps s (State.burnEnd t copy w bits fail) := by
  unfold State.burnEnd
  exact State.setOtp_keeps h _ _ _ _ fun i e => by simp [e]

theorem State.burnWord_keeps {s t : State} (h : Keeps s t) (fails : List (Nat × Word × Word)) (w : Nat) (bits : Word) :
    Keeps s (State.burnWord t fails w bits).1 := by
  unfold State.burnWord
  repeat' first
    | with_reducible assumption
    | with_reducible apply State.bump_keeps
    | with_reducible apply State.burnEnd_keeps
    | with_reducible refine Keeps.ite ?_ ?_

theorem State.burnAll_keeps {s t : State} (h : Keeps s t) (fails : List (Nat × Word × Word))
    (L : List (Nat × Word)) : Keeps s (State.burnAll t fails L).1 := by
  induction L generalizing t with
  | nil => exact h
  | cons b r ih =>
    obtain ⟨w, d⟩ := b
    unfold State.burnAll
    have hk := State.burnWord_keeps h fails w d
    generalize t.burnWord fails w d = x at hk ⊢
    obtain ⟨u, bad⟩ := x
    dsimp only at hk ⊢
    split
    · exact hk
    · exact ih hk

theorem State.noteMargin_keeps {s t : State} (h : Keeps s t) (w : Nat) : Keeps s (State.noteMargin t w) := by
  unfold State.noteMargin
  repeat' first
    | with_reducible assumption
    | with_reducible apply State.setReg_keeps

theorem State.burnDigest_keeps {s t : State} (h : Keeps s t) (fails : List (Nat × Word × Word))
    (L : List (Nat × Word)) : Keeps s (State.burnDigest t fails L).1 := by
  induction L generalizing t with
  | nil => exact h
  | cons b r ih =>
    obtain ⟨w, d⟩ := b
    unfold State.burnDigest
    have hk := State.burnWord_keeps h fails w d
    generalize t.burnWord fails w d = x at hk ⊢
    obtain ⟨u, bad⟩ := x
    dsimp only at hk ⊢
    split
    · exact State.noteMargin_keeps hk w
    · exact ih (State.noteMargin_keeps hk w)

theorem State.loadShadow_keeps {s t : State} (h : Keeps s t) (r : Nat) (sl : Option Nat) :
    Keeps s (State.loadShadow t r sl) := by
  unfold State.loadShadow
  exact h.mkOtp (by dsimp only; split <;> rfl) (by dsimp only; split <;> rfl)

theorem State.marginEnd_keeps {s t : State} (h : Keeps s t) (w : Nat) (expect : Option Word) :
    Keeps s (State.marginEnd t w expect).1 := by
  unfold State.marginEnd
  exact State.noteMargin_keeps h w

theorem State.barsRetired_keeps {s t : State} (h : Keeps s t) : Keeps s (State.barsRetired t) := by
  unfold State.barsRetired
  exact Keeps.ite (Keeps.foldl _ (fun x a hx => State.tripEval_keeps (State.put_keeps hx _ _) _) h) h

theorem State.otpBegin_keeps {s t : State} (h : Keeps s t) (op : OtpOp) :
    Keeps s (State.otpBegin t op) := by
  unfold State.otpBegin
  repeat' first
    | with_reducible assumption
    | with_reducible apply State.barsRetired_keeps
    | with_reducible apply State.burnEnd_keeps
    | with_reducible apply State.setReg_keeps
    | ((fail_if_no_progress extract_lets +onlyGivenNames x); refine (fun (hx : Keeps s x) => ?_) ?_; on_goal 2 => unfold x; on_goal 1 => clear_value x)
    | ((fail_if_no_progress extract_lets +onlyGivenNames x); clear_value x)
    | with_reducible refine Keeps.ite ?_ ?_
    | split

theorem State.sealWeak_keeps {s t : State} (h : Keeps s t) (r sl : Nat) : Keeps s (State.sealWeak t r sl).1 := by
  unfold State.sealWeak State.showSlot
  exact State.put_keeps (h.mkOtp (o := { t.otp with left := t.otp.left ||| 2 ^ (2 * r + sl) }) rfl rfl) _ _

theorem State.sealOk_keeps {s t : State} (h : Keeps s t) (r sl : Nat) : Keeps s (State.sealOk t r sl).1 := by
  unfold State.sealOk State.showSlot
  exact State.put_keeps (h.mkOtp (o := { t.otp with
    left := if t.leftIncomplete r sl then t.otp.left - 2 ^ (2 * r + sl) else t.otp.left }) rfl rfl) _ _

theorem State.sealEnd_keeps {s t : State} (h : Keeps s t) (fails : List (Nat × Word × Word)) (r : Nat) (sl : Nat) :
    Keeps s (State.sealEnd t fails r sl).1 := by
  unfold State.sealEnd
  split
  · exact State.noteMargin_keeps h _
  · have hm := State.noteMargin_keeps h (slotBase r sl + slotData r - 1)
    generalize t.noteMargin (slotBase r sl + slotData r - 1) = u at hm ⊢
    dsimp only
    split
    · exact hm
    · have hk := State.burnDigest_keeps hm fails (u.sealDigest r sl)
      generalize u.burnDigest fails (u.sealDigest r sl) = x at hk ⊢
      obtain ⟨v, weak⟩ := x
      dsimp only at hk ⊢
      split
      · exact State.sealWeak_keeps hk _ _
      · have hk2 := State.burnWord_keeps hk fails 0x011 (BitVec.ofNat 32 (2 ^ (2 * r + sl)))
        generalize v.burnWord fails 0x011 (BitVec.ofNat 32 (2 ^ (2 * r + sl))) = x at hk2 ⊢
        obtain ⟨z, weak2⟩ := x
        dsimp only at hk2 ⊢
        split
        · exact State.sealWeak_keeps (State.noteMargin_keeps hk2 _) _ _
        · exact State.sealOk_keeps (State.noteMargin_keeps hk2 _) _ _

theorem State.otpFinish_keeps {s t : State} (h : Keeps s t) (fails : List (Nat × Word × Word)) (op : OtpOp) :
    Keeps s (State.otpFinish t fails op).1 := by
  unfold State.otpFinish
  split
  · exact State.burnWord_keeps h _ _ _
  · exact State.marginEnd_keeps h _ _
  · exact State.sealEnd_keeps h _ _ _
  · exact State.burnAll_keeps h _ _
  · exact State.setReg_keeps (by split <;> first | exact h | exact State.burnWord_keeps h _ _ _) _ _
  · exact h

theorem State.otpStart_keeps {s t : State} (h : Keeps s t) (m : Master) (raw : Nat) (op : OtpOp) :
    Keeps s (State.otpStart t m raw op) := by
  unfold State.otpStart
  refine Keeps.ite (State.setCause_keeps h _) ?_
  have hp := State.put_keeps h F.OTP_STATUS_OP (op.code raw)
  refine Keeps.ite (State.setCause_keeps (State.put_keeps hp _ _) _) ?_
  have hb := (State.put_keeps hp F.OTP_STATUS_BUSY 1).mkOtp
    (o := { ((t.put F.OTP_STATUS_OP (op.code raw)).put F.OTP_STATUS_BUSY 1).otp with
      cmd := some ⟨op, ((t.put F.OTP_STATUS_OP (op.code raw)).otpRefusal m op).map Status.code⟩ }) rfl rfl
  exact Keeps.ite hb (State.otpBegin_keeps hb op)

theorem State.otpWrite_keeps {s t : State} (h : Keeps s t) (m : Master) (w : Word) :
    Keeps s (State.otpWrite t m w) := by
  unfold State.otpWrite
  repeat' first
    | with_reducible assumption
    | with_reducible apply State.otpStart_keeps

theorem State.shadowLoad_keeps {s t : State} (h : Keeps s t)  :
    Keeps s (State.shadowLoad t) := by
  unfold State.shadowLoad
  refine Keeps.foldl _ (fun x a hx => State.loadShadow_keeps hx _ _) (State.setReg_keeps ?_ _ _)
  exact h.mkOtp rfl rfl

theorem State.showIds_keeps {s t : State} (h : Keeps s t)  :
    Keeps s (State.showIds t) := by
  unfold State.showIds
  repeat' first
    | with_reducible assumption
    | with_reducible apply State.setReg_keeps

theorem State.burnPart_keeps {s t : State} (h : Keeps s t) (copy : Nat) (w : Nat) (burned : Word) (weak : Word) :
    Keeps s (State.burnPart t copy w burned weak) := by
  unfold State.burnPart
  exact State.setOtp_keeps h _ _ _ _ fun i e => by simp [e]

theorem State.stopWord_keeps {s t : State} (h : Keeps s t) (k : Nat) (n : Nat) (x : Nat × (Nat × Word)) :
    Keeps s (State.stopWord t k n x) := by
  unfold State.stopWord
  refine Keeps.ite ?_ (Keeps.ite ?_ h)
  all_goals exact State.burnPart_keeps (State.burnPart_keeps h _ _ _ _) _ _ _ _

theorem State.stopSeal_keeps {s t : State} (h : Keeps s t) (op : OtpOp) (ws : List (Nat × Word)) :
    Keeps s (State.stopSeal t op ws) := by
  unfold State.stopSeal
  split
  · exact State.burnPart_keeps h _ _ _ _
  · exact h

theorem State.otpStop_keeps {s t : State} (h : Keeps s t) : Keeps s (State.otpStop t) := by
  unfold State.otpStop
  split
  · rename_i op _
    have hd : Keeps s t.draw.2 := State.draw_keeps h
    generalize t.draw = d at hd ⊢
    obtain ⟨k, u⟩ := d
    dsimp only at hd ⊢
    have h1 : Keeps s ((List.range (t.burnList op).length).zip (t.burnList op) |>.foldl
        (fun (s : State) x => s.stopWord k (Config.stopWords k) x) u) :=
      Keeps.foldl _ (fun x a hx => State.stopWord_keeps hx _ _ _) hd
    exact Keeps.ite (State.stopSeal_keeps h1 _ _) h1
  · exact h

theorem State.startupChecks_keeps {s t : State} (h : Keeps s t)  :
    Keeps s (State.startupChecks t) := by
  unfold State.startupChecks
  have h0 : Keeps s { t with otp := { t.otp with left := 0 } } := h.mkOtp rfl rfl
  generalize ({ t with otp := { t.otp with left := 0 } } : State) = t at h0 ⊢
  repeat' first
    | with_reducible assumption
    | with_reducible apply State.setReg_keeps
    | with_reducible apply State.loadShadow_keeps
    | with_reducible apply State.putb_keeps
    | with_reducible apply State.setCauseIf_keeps
    | with_reducible refine Keeps.foldl _ (fun x a hx => ?_) ?_
    | ((fail_if_no_progress extract_lets +onlyGivenNames x); clear_value x)
    | with_reducible refine Keeps.ite ?_ ?_

theorem execCntAdvance_keeps {s t : State} (h : Keeps s t) (m : Master) (cnt : Fin 4) (n : BitVec 8) :
    ∃ u, (execCntAdvance m cnt n t) = .next u ∧ Keeps s u := by
  unfold execCntAdvance
  repeat' first
    | with_reducible assumption
    | with_reducible apply State.atBlock_keeps
    | with_reducible apply State.otpStart_keeps
    | with_reducible refine ⟨_, rfl, ?_⟩
    | (intro y hy)

theorem execLcAdvance_keeps {s t : State} (h : Keeps s t) (m : Master) (arg : BitVec 8) :
    ∃ u, (execLcAdvance m arg t) = .next u ∧ Keeps s u := by
  unfold execLcAdvance
  repeat' first
    | with_reducible assumption
    | with_reducible apply State.atBlock_keeps
    | with_reducible apply State.otpStart_keeps
    | with_reducible refine ⟨_, rfl, ?_⟩
    | split
    | (intro y hy)

theorem execMargin_keeps {s t : State} (h : Keeps s t) (m : Master) (word : BitVec 10) (expect : Bool) :
    ∃ u, (execMargin m word expect t) = .next u ∧ Keeps s u := by
  unfold execMargin
  repeat' first
    | with_reducible assumption
    | with_reducible apply State.atBlock_keeps
    | with_reducible apply State.otpStart_keeps
    | with_reducible refine ⟨_, rfl, ?_⟩
    | split
    | (intro y hy)

theorem execOtpCntRead_keeps {s t : State} (h : Keeps s t) (k : Fin 4) :
    ∃ u, (execOtpCntRead k t) = .next u ∧ Keeps s u := by
  unfold execOtpCntRead
  repeat' first
    | with_reducible assumption
    | with_reducible apply State.answer_keeps
    | with_reducible refine ⟨_, rfl, ?_⟩

theorem execOtpWordRead_keeps {s t : State} (h : Keeps s t) (m : Master) (word : BitVec 10) :
    ∃ u, (execOtpWordRead m word t) = .next u ∧ Keeps s u := by
  unfold execOtpWordRead
  repeat' first
    | with_reducible assumption
    | with_reducible apply State.answer_keeps
    | with_reducible refine ⟨_, rfl, ?_⟩

theorem execProgram_keeps {s t : State} (h : Keeps s t) (m : Master) (word : BitVec 10) :
    ∃ u, (execProgram m word t) = .next u ∧ Keeps s u := by
  unfold execProgram
  repeat' first
    | with_reducible assumption
    | with_reducible apply State.atBlock_keeps
    | with_reducible apply State.otpStart_keeps
    | with_reducible refine ⟨_, rfl, ?_⟩
    | (intro y hy)

theorem execSeal_keeps {s t : State} (h : Keeps s t) (m : Master) (region : Fin 8) (slot : Fin 2) :
    ∃ u, (execSeal m region slot t) = .next u ∧ Keeps s u := by
  unfold execSeal
  repeat' first
    | with_reducible assumption
    | with_reducible apply State.atBlock_keeps
    | with_reducible apply State.otpStart_keeps
    | with_reducible refine ⟨_, rfl, ?_⟩
    | (intro y hy)

end Sys2Proof.Machine
end

