-- ==== Sys2Proof/Laws/Keeps/Reset.lean ====
section
/-!
SUPPORT. What every operation of Machine/Reset.lean keeps (Laws/Keeps.lean).
-/

namespace Sys2Proof.Machine

theorem State.noteLastRun_keeps {s t : State} (h : Keeps s t)  :
    Keeps s (State.noteLastRun t) := by
  unfold State.noteLastRun
  repeat' first
    | with_reducible assumption
    | with_reducible apply State.setReg_keeps
    | with_reducible apply State.put_keeps
    | with_reducible apply State.putb_keeps

theorem State.cleared_keeps {s t : State} (h : Keeps s t) (l : ResetLevel) (t0 : Nat) (h0 : t0 = t.now ∨ t0 = 0) :
    Keeps s (State.cleared t l t0) := by
  unfold State.cleared
  extract_lets xtal u
  refine State.putb_keeps ?_ _ _
  exact h.maps rfl h0 (Nat.le_refl _) (List.prefix_refl _) (fun _ => rfl) (fun c => Cells.wf_filter _ c) fun _ => rfl

theorem State.assertReset_keeps {s t : State} (h : Keeps s t) (l : ResetLevel) (cause : Field) (code : Nat) :
    Keeps s (State.assertReset t l cause code) := by
  unfold State.assertReset
  extract_lets l' u held last c c2 r v k c3
  have hu : Keeps s u := State.otpStop_keeps (Keeps.ite h (State.noteLastRun_keeps h))
  have hc : Keeps s c := by
    refine State.cleared_keeps hu _ _ ?_
    split
    · exact .inr rfl
    · exact .inl rfl
  have hc2 : Keeps s c2 :=
    Keeps.ite (State.setReg_keeps hc _ _) (State.setReg_keeps (State.setReg_keeps hc _ _) _ _)
  have hv : Keeps s v := State.put_keeps (State.put_keeps hc2 _ _) _ _
  clear_value v
  have hc3 : Keeps s c3 := hv.mk'
  exact Keeps.ite (State.bump_keeps hc3 _) hc3

theorem State.beginTraining_keeps {s t : State} (h : Keeps s t) (mask : Nat) :
    Keeps s (State.beginTraining t mask) := by
  unfold State.beginTraining
  repeat' first
    | with_reducible assumption
    | ((fail_if_no_progress extract_lets +onlyGivenNames x); clear_value x)
    | with_reducible refine Keeps.mk' ?_

theorem State.clockGone_keeps {s t : State} (h : Keeps s t) (a1 : ClockFault) :
    Keeps s (State.clockGone t a1) := by
  unfold State.clockGone
  repeat' first
    | with_reducible assumption
    | with_reducible apply State.put_keeps
    | split

theorem State.linkCause_keeps {s t : State} (h : Keeps s t) (f : Field) :
    Keeps s (State.linkCause t f) := by
  unfold State.linkCause
  repeat' first
    | with_reducible assumption
    | with_reducible apply State.put_keeps
    | with_reducible apply State.setCause_keeps
    | with_reducible refine Keeps.ite ?_ ?_

theorem State.linkDown_keeps {s t : State} (h : Keeps s t)  :
    Keeps s (State.linkDown t) := by
  unfold State.linkDown
  repeat' first
    | with_reducible assumption
    | with_reducible apply State.put_keeps
    | with_reducible apply State.linkCause_keeps
    | with_reducible apply State.linkLost_keeps
    | with_reducible apply State.vlog_keeps
    | ((fail_if_no_progress extract_lets +onlyGivenNames x); refine (fun (hx : Keeps s x) => ?_) ?_; on_goal 2 => unfold x; on_goal 1 => clear_value x)
    | ((fail_if_no_progress extract_lets +onlyGivenNames x); clear_value x)
    | with_reducible refine Keeps.ite ?_ ?_

theorem State.resetFunction_keeps {s t : State} (h : Keeps s t) (held : Bool) :
    Keeps s (State.resetFunction t held) := by
  unfold State.resetFunction
  refine State.put_keeps (State.put_keeps (State.put_keeps ?_ _ _) _ _) _ _
  exact h.maps rfl (.inl rfl) (Nat.le_refl _) (List.prefix_refl _) id (fun c => Cells.wf_filter _ c) id

theorem State.linkReset_keeps {s t : State} (h : Keeps s t)  :
    Keeps s (State.linkReset t) := by
  unfold State.linkReset
  repeat' first
    | with_reducible assumption
    | with_reducible apply State.resetFunction_keeps
    | with_reducible apply State.linkDown_keeps

theorem State.linkResets_keeps {s t : State} (h : Keeps s t) (k : LinkResetKind) :
    Keeps s (State.linkResets t k) := by
  unfold State.linkResets
  repeat' first
    | with_reducible assumption
    | with_reducible apply State.put_keeps
    | with_reducible apply State.linkReset_keeps
    | ((fail_if_no_progress extract_lets +onlyGivenNames x); refine (fun (hx : Keeps s x) => ?_) ?_; on_goal 2 => unfold x; on_goal 1 => clear_value x)
    | ((fail_if_no_progress extract_lets +onlyGivenNames x); clear_value x)
    | with_reducible refine Keeps.ite ?_ ?_
    | with_reducible refine Keeps.mk' ?_

theorem State.loadTrims_keeps {s t : State} (h : Keeps s t)  :
    Keeps s (State.loadTrims t) := by
  unfold State.loadTrims
  repeat' first
    | with_reducible assumption
    | with_reducible apply State.modCal_keeps
    | with_reducible refine Keeps.foldl _ (fun x a hx => ?_) ?_

theorem State.romWaits_keeps {s t : State} (h : Keeps s t)  :
    Keeps s (State.romWaits t) := by
  unfold State.romWaits
  repeat' first
    | with_reducible assumption
    | with_reducible apply State.raiseEvent_keeps
    | with_reducible apply State.put_keeps

theorem State.rstCtlWrite_keeps {s t : State} (h : Keeps s t) (m : Master) (w : Word) :
    Keeps s (State.rstCtlWrite t m w) := by
  unfold State.rstCtlWrite
  repeat' first
    | with_reducible assumption
    | with_reducible apply State.assertReset_keeps
    | with_reducible refine Keeps.ite ?_ ?_

theorem State.startRom_keeps {s t : State} (h : Keeps s t)  :
    Keeps s (State.startRom t) := by
  unfold State.startRom
  repeat' first
    | with_reducible assumption
    | with_reducible apply State.modPair_keeps
    | with_reducible apply State.put_keeps
    | ((fail_if_no_progress extract_lets +onlyGivenNames x); refine (fun (hx : Keeps s x) => ?_) ?_; on_goal 2 => unfold x; on_goal 1 => clear_value x)
    | ((fail_if_no_progress extract_lets +onlyGivenNames x); clear_value x)
    | with_reducible refine Keeps.mk' ?_

theorem State.startTimers_keeps {s t : State} (h : Keeps s t)  :
    Keeps s (State.startTimers t) := by
  unfold State.startTimers
  repeat' first
    | with_reducible assumption
    | ((fail_if_no_progress extract_lets +onlyGivenNames x); clear_value x)
    | with_reducible refine Keeps.mk' ?_

theorem State.sequenceEnds_keeps {s t : State} (h : Keeps s t)  :
    Keeps s (State.sequenceEnds t) := by
  unfold State.sequenceEnds
  repeat' first
    | with_reducible assumption
    | with_reducible apply State.put_keeps
    | with_reducible apply State.setCauseIf_keeps
    | with_reducible apply State.romWaits_keeps
    | with_reducible apply State.startRom_keeps
    | with_reducible apply State.startTimers_keeps
    | with_reducible apply State.loadRlBase_keeps
    | with_reducible refine Keeps.ite ?_ ?_
    | with_reducible refine Keeps.mk' ?_

theorem State.trainPort_keeps {s t : State} (h : Keeps s t) (n : Fin 32) (tap : Option (Fin 64)) :
    Keeps s (State.trainPort t n tap) := by
  unfold State.trainPort
  repeat' first
    | with_reducible assumption
    | with_reducible apply State.setCauseIf_keeps
    | with_reducible apply State.put_keeps
    | with_reducible apply State.tripEval_keeps
    | with_reducible apply State.setCause_keeps
    | ((fail_if_no_progress extract_lets +onlyGivenNames x); refine (fun (hx : Keeps s x) => ?_) ?_; on_goal 2 => unfold x; on_goal 1 => clear_value x)
    | ((fail_if_no_progress extract_lets +onlyGivenNames x); clear_value x)
    | split
    | with_reducible refine Keeps.mk' ?_

theorem State.sequenceSteps_keeps {s t : State} (h : Keeps s t) (taps : Vector (Option (Fin 64)) 32) :
    Keeps s (State.sequenceSteps t taps) := by
  unfold State.sequenceSteps
  repeat' first
    | with_reducible assumption
    | with_reducible apply State.put_keeps
    | with_reducible apply State.loadTrims_keeps
    | with_reducible apply State.showIds_keeps
    | with_reducible apply State.startupChecks_keeps
    | with_reducible apply State.wipeAll_keeps
    | with_reducible apply State.shadowLoad_keeps
    | with_reducible apply State.trainPort_keeps
    | with_reducible refine Keeps.foldl _ (fun x a hx => ?_) ?_
    | ((fail_if_no_progress extract_lets +onlyGivenNames x); clear_value x)
    | split
    | with_reducible refine Keeps.mk' ?_

theorem State.trainWrite_keeps {s t : State} (h : Keeps s t) (mask : Nat) :
    Keeps s (State.trainWrite t mask) := by
  unfold State.trainWrite
  repeat' first
    | with_reducible assumption
    | with_reducible apply State.setCause_keeps
    | with_reducible apply State.beginTraining_keeps
    | with_reducible refine Keeps.foldl _ (fun x a hx => ?_) ?_
    | with_reducible refine Keeps.ite ?_ ?_

theorem execBrownout_keeps {s t : State} (h : Keeps s t)  :
    ∃ u, (execBrownout t) = .next u ∧ Keeps s u := by
  unfold execBrownout
  repeat' first
    | with_reducible assumption
    | with_reducible apply State.assertReset_keeps
    | with_reducible refine ⟨_, rfl, ?_⟩
    | split

theorem execClkTrainCtl_keeps {s t : State} (h : Keeps s t) (mask : Word) :
    ∃ u, (execClkTrainCtl mask t) = .next u ∧ Keeps s u := by
  unfold execClkTrainCtl
  repeat' first
    | with_reducible assumption
    | with_reducible apply State.atBlock_keeps
    | with_reducible apply State.trainWrite_keeps
    | with_reducible refine ⟨_, rfl, ?_⟩
    | (intro y hy)

theorem execClockLoss_keeps {s t : State} (h : Keeps s t) (what : optParam ClockFault ClockFault.sysclk) :
    ∃ u, (execClockLoss t what) = .next u ∧ Keeps s u := by
  unfold execClockLoss
  repeat' first
    | with_reducible assumption
    | with_reducible apply State.clockGone_keeps
    | with_reducible apply State.assertReset_keeps
    | with_reducible refine ⟨_, rfl, ?_⟩
    | split

theorem execColdReset_keeps {s t : State} (h : Keeps s t) (lowNs : Nat) :
    ∃ u, (execColdReset lowNs t) = .next u ∧ Keeps s u := by
  unfold execColdReset
  repeat' first
    | with_reducible assumption
    | with_reducible apply State.draw_keeps
    | with_reducible apply State.assertReset_keeps
    | with_reducible refine ⟨_, rfl, ?_⟩
    | split

theorem execGraceExpire_keeps {s t : State} (h : Keeps s t)  :
    ∃ u, (execGraceExpire t) = .next u ∧ Keeps s u := by
  unfold execGraceExpire
  repeat' first
    | with_reducible assumption
    | with_reducible apply State.assertReset_keeps
    | with_reducible refine ⟨_, rfl, ?_⟩
    | split

theorem execHostPllLock_keeps {s t : State} (h : Keeps s t)  :
    ∃ u, (execHostPllLock t) = .next u ∧ Keeps s u := by
  unfold execHostPllLock
  repeat' first
    | with_reducible assumption
    | with_reducible apply State.put_keeps
    | with_reducible refine ⟨_, rfl, ?_⟩
    | ((fail_if_no_progress extract_lets +onlyGivenNames x); refine (fun (hx : Keeps s x) => ?_) ?_; on_goal 2 => unfold x; on_goal 1 => clear_value x)
    | ((fail_if_no_progress extract_lets +onlyGivenNames x); clear_value x)
    | split
    | with_reducible refine Keeps.mk' ?_

theorem execHostUnlock_keeps {s t : State} (h : Keeps s t)  :
    ∃ u, (execHostUnlock t) = .next u ∧ Keeps s u := by
  unfold execHostUnlock
  repeat' first
    | with_reducible assumption
    | with_reducible apply State.linkCause_keeps
    | with_reducible apply State.put_keeps
    | with_reducible apply State.linkReset_keeps
    | with_reducible refine ⟨_, rfl, ?_⟩
    | ((fail_if_no_progress extract_lets +onlyGivenNames x); refine (fun (hx : Keeps s x) => ?_) ?_; on_goal 2 => unfold x; on_goal 1 => clear_value x)
    | ((fail_if_no_progress extract_lets +onlyGivenNames x); clear_value x)
    | split
    | with_reducible refine Keeps.mk' ?_

theorem execOtpCommandDone_keeps {s t : State} (h : Keeps s t) (fails : List (Nat × Word × Word)) :
    ∃ u, (execOtpCommandDone fails t) = .next u ∧ Keeps s u := by
  unfold execOtpCommandDone
  split
  · exact ⟨_, rfl, h⟩
  · rename_i c hc
    split
    · exact ⟨_, rfl, h⟩
    · obtain ⟨op, refused⟩ := c
      cases refused with
      | none =>
        have hk := State.otpFinish_keeps h fails op
        dsimp only
        split
        all_goals
          refine ⟨_, rfl, ?_⟩
          repeat' first
            | with_reducible exact hk
            | with_reducible refine Keeps.ite ?_ ?_
            | with_reducible apply State.assertReset_keeps
            | with_reducible apply State.wipeAll_keeps
            | with_reducible apply State.setCauseIf_keeps
            | with_reducible apply State.setCause_keeps
            | with_reducible apply State.put_keeps
            | with_reducible refine Keeps.mkOtp ?_ rfl rfl
      | some st =>
        dsimp only
        split
        all_goals
          refine ⟨_, rfl, ?_⟩
          repeat' first
            | with_reducible exact h
            | with_reducible refine Keeps.ite ?_ ?_
            | with_reducible apply State.assertReset_keeps
            | with_reducible apply State.wipeAll_keeps
            | with_reducible apply State.setCauseIf_keeps
            | with_reducible apply State.setCause_keeps
            | with_reducible apply State.put_keeps
            | with_reducible refine Keeps.mkOtp ?_ rfl rfl

theorem execPerstNRelease_keeps {s t : State} (h : Keeps s t)  :
    ∃ u, (execPerstNRelease t) = .next u ∧ Keeps s u := by
  unfold execPerstNRelease
  repeat' first
    | with_reducible assumption
    | with_reducible refine ⟨_, rfl, ?_⟩
    | ((fail_if_no_progress extract_lets +onlyGivenNames x); clear_value x)
    | with_reducible refine Keeps.mk' ?_

theorem execPllLock_keeps {s t : State} (h : Keeps s t)  :
    ∃ u, (execPllLock t) = .next u ∧ Keeps s u := by
  unfold execPllLock
  repeat' first
    | with_reducible assumption
    | with_reducible apply State.put_keeps
    | with_reducible apply State.beginTraining_keeps
    | with_reducible refine ⟨_, rfl, ?_⟩
    | ((fail_if_no_progress extract_lets +onlyGivenNames x); refine (fun (hx : Keeps s x) => ?_) ?_; on_goal 2 => unfold x; on_goal 1 => clear_value x)
    | split

theorem execPowerOnReset_keeps {s t : State} (h : Keeps s t) (late : optParam (List (Supply × Nat)) []) :
    ∃ u, (execPowerOnReset t late) = .next u ∧ Keeps s u := by
  unfold execPowerOnReset
  repeat' first
    | with_reducible assumption
    | with_reducible apply State.assertReset_keeps
    | with_reducible refine ⟨_, rfl, ?_⟩
    | ((fail_if_no_progress extract_lets +onlyGivenNames x); clear_value x)
    | with_reducible refine Keeps.mk' ?_

theorem execPowerRemoval_keeps {s t : State} (h : Keeps s t)  :
    ∃ u, (execPowerRemoval t) = .next u ∧ Keeps s u := by
  unfold execPowerRemoval
  repeat' first
    | with_reducible assumption
    | with_reducible apply State.assertReset_keeps
    | with_reducible refine ⟨_, rfl, ?_⟩
    | ((fail_if_no_progress extract_lets +onlyGivenNames x); clear_value x)
    | with_reducible refine Keeps.mk' ?_

theorem execResetSequence_keeps {s t : State} (h : Keeps s t) (taps : Vector (Option (Fin 64)) 32) :
    ∃ u, (execResetSequence taps t) = .next u ∧ Keeps s u := by
  unfold execResetSequence
  repeat' first
    | with_reducible assumption
    | with_reducible apply State.sequenceEnds_keeps
    | with_reducible apply State.sequenceSteps_keeps
    | with_reducible refine ⟨_, rfl, ?_⟩
    | split

theorem execRstCtlWarm_keeps {s t : State} (h : Keeps s t) (m : Master) (w : Word) :
    ∃ u, (execRstCtlWarm m w t) = .next u ∧ Keeps s u := by
  unfold execRstCtlWarm
  repeat' first
    | with_reducible assumption
    | with_reducible apply State.atBlock_keeps
    | with_reducible apply State.rstCtlWrite_keeps
    | with_reducible refine ⟨_, rfl, ?_⟩
    | (intro y hy)

theorem execTrainingDone_keeps {s t : State} (h : Keeps s t) (n : Fin 32) (tap : Option (Fin 64)) :
    ∃ u, (execTrainingDone n tap t) = .next u ∧ Keeps s u := by
  unfold execTrainingDone
  repeat' first
    | with_reducible assumption
    | with_reducible apply State.trainPort_keeps
    | with_reducible refine ⟨_, rfl, ?_⟩
    | split

theorem execWatchdogExpire_keeps {s t : State} (h : Keeps s t)  :
    ∃ u, (execWatchdogExpire t) = .next u ∧ Keeps s u := by
  unfold execWatchdogExpire
  repeat' first
    | with_reducible assumption
    | with_reducible apply State.assertReset_keeps
    | with_reducible refine ⟨_, rfl, ?_⟩
    | split

theorem execXtalFail_keeps {s t : State} (h : Keeps s t)  :
    ∃ u, (execXtalFail t) = .next u ∧ Keeps s u := by
  unfold execXtalFail
  repeat' first
    | with_reducible assumption
    | with_reducible apply State.linkCause_keeps
    | with_reducible apply State.put_keeps
    | with_reducible refine ⟨_, rfl, ?_⟩
    | split

theorem execXtalRunning_keeps {s t : State} (h : Keeps s t)  :
    ∃ u, (execXtalRunning t) = .next u ∧ Keeps s u := by
  unfold execXtalRunning
  repeat' first
    | with_reducible assumption
    | with_reducible apply State.put_keeps
    | with_reducible refine ⟨_, rfl, ?_⟩
    | split

end Sys2Proof.Machine
end

