-- ==== Sys2Proof/Laws/Keeps/Power.lean ====
section
/-!
SUPPORT. What every operation of Machine/Power.lean keeps (Laws/Keeps.lean).
-/

namespace Sys2Proof.Machine

theorem State.recordWakes_keeps {s t : State} (h : Keeps s t) (mask : Nat) :
    Keeps s (State.recordWakes t mask) := by
  unfold State.recordWakes
  repeat' first
    | with_reducible assumption
    | with_reducible apply State.put_keeps
    | ((fail_if_no_progress extract_lets +onlyGivenNames x); refine (fun (hx : Keeps s x) => ?_) ?_; on_goal 2 => unfold x; on_goal 1 => clear_value x)
    | with_reducible refine Keeps.ite ?_ ?_

theorem State.undoPhases_keeps {s t : State} (h : Keeps s t) (r : PwrReq) :
    Keeps s (State.undoPhases t r) := by
  unfold State.undoPhases
  repeat' first
    | with_reducible assumption
    | with_reducible apply State.put_keeps
    | with_reducible apply State.beginTraining_keeps
    | ((fail_if_no_progress extract_lets +onlyGivenNames x); refine (fun (hx : Keeps s x) => ?_) ?_; on_goal 2 => unfold x; on_goal 1 => clear_value x)
    | with_reducible refine Keeps.ite ?_ ?_

theorem State.abandonEnds_keeps {s t : State} (h : Keeps s t) (r : PwrReq) (h0 : Nat) :
    Keeps s (State.abandonEnds t r h0) := by
  unfold State.abandonEnds
  repeat' first
    | with_reducible assumption
    | with_reducible apply State.recordWakes_keeps
    | with_reducible apply State.put_keeps
    | with_reducible apply State.undoPhases_keeps
    | with_reducible apply State.setCause_keeps
    | with_reducible apply State.bump_keeps
    | ((fail_if_no_progress extract_lets +onlyGivenNames x); refine (fun (hx : Keeps s x) => ?_) ?_; on_goal 2 => unfold x; on_goal 1 => clear_value x)
    | ((fail_if_no_progress extract_lets +onlyGivenNames x); clear_value x)
    | with_reducible refine Keeps.mk' ?_

theorem State.readBank_keeps {s t : State} (h : Keeps s t) (b : Nat) :
    Keeps s (State.readBank t b) := by
  unfold State.readBank
  repeat' first
    | with_reducible assumption
    | with_reducible apply State.readErrsIf_keeps

theorem State.bankDown_keeps {s t : State} (h : Keeps s t) (d : Domain) (b : Fin 116) :
    Keeps s (State.bankDown t d b) := by
  unfold State.bankDown
  repeat' first
    | with_reducible assumption
    | with_reducible apply State.modBank_keeps
    | with_reducible apply State.readBank_keeps
    | with_reducible apply State.zeroBank_keeps
    | with_reducible refine Keeps.ite ?_ ?_

theorem State.bankLost_keeps {s t : State} (h : Keeps s t) (b : Fin 116) :
    Keeps s (State.bankLost t b) := by
  unfold State.bankLost
  repeat' first
    | with_reducible assumption
    | with_reducible apply State.modBank_keeps
    | with_reducible apply State.zeroBank_keeps
    | with_reducible apply State.put_keeps
    | with_reducible apply State.setCause_keeps

theorem State.bankWakes_keeps {s t : State} (h : Keeps s t) (decayed : Bool) (b : Fin 116) :
    Keeps s (State.bankWakes t decayed b) := by
  unfold State.bankWakes
  repeat' first
    | with_reducible assumption
    | with_reducible apply State.readBank_keeps
    | with_reducible apply State.bankLost_keeps
    | with_reducible apply State.setCause_keeps
    | with_reducible apply State.modBank_keeps
    | with_reducible refine Keeps.ite ?_ ?_

theorem State.banksDown_keeps {s t : State} (h : Keeps s t) (d : Domain) :
    Keeps s (State.banksDown t d) := by
  unfold State.banksDown
  repeat' first
    | with_reducible assumption
    | with_reducible apply State.bankDown_keeps
    | with_reducible refine Keeps.foldl _ (fun x a hx => ?_) ?_

theorem State.banksUp_keeps {s t : State} (h : Keeps s t) (decayed : List (Fin 116)) (d : Domain) :
    Keeps s (State.banksUp t decayed d) := by
  unfold State.banksUp
  repeat' first
    | with_reducible assumption
    | with_reducible apply State.bankWakes_keeps
    | with_reducible refine Keeps.foldl _ (fun x a hx => ?_) ?_

theorem State.wakeSignals_keeps {s t : State} (h : Keeps s t) (src : Nat) :
    Keeps s (State.wakeSignals t src) := by
  unfold State.wakeSignals
  repeat' first
    | with_reducible assumption
    | ((fail_if_no_progress extract_lets +onlyGivenNames x); clear_value x)
    | with_reducible refine Keeps.ite ?_ ?_
    | with_reducible refine Keeps.mk' ?_

theorem State.beginExit_keeps {s t : State} (h : Keeps s t) (src : Nat) :
    Keeps s (State.beginExit t src) := by
  unfold State.beginExit
  repeat' first
    | with_reducible assumption
    | with_reducible apply State.put_keeps
    | with_reducible apply State.wakeSignals_keeps
    | ((fail_if_no_progress extract_lets +onlyGivenNames x); refine (fun (hx : Keeps s x) => ?_) ?_; on_goal 2 => unfold x; on_goal 1 => clear_value x)
    | ((fail_if_no_progress extract_lets +onlyGivenNames x); clear_value x)
    | with_reducible refine Keeps.mk' ?_

theorem State.blocksLost_keeps {s t : State} (h : Keeps s t) (d : Domain) :
    Keeps s (State.blocksLost t d) := by
  unfold State.blocksLost
  repeat' first
    | with_reducible assumption
    | with_reducible apply State.put_keeps
    | with_reducible apply State.resetFunction_keeps
    | with_reducible apply State.linkDown_keeps
    | with_reducible refine Keeps.foldl _ (fun x a hx => ?_) ?_
    | ((fail_if_no_progress extract_lets +onlyGivenNames x); refine (fun (hx : Keeps s x) => ?_) ?_; on_goal 2 => unfold x; on_goal 1 => clear_value x)
    | ((fail_if_no_progress extract_lets +onlyGivenNames x); clear_value x)
    | with_reducible refine Keeps.ite ?_ ?_
    | split
    | with_reducible refine Keeps.mk' ?_

theorem State.powerDenied_keeps {s t : State} (h : Keeps s t)  :
    Keeps s (State.powerDenied t) := by
  unfold State.powerDenied
  repeat' first
    | with_reducible assumption
    | with_reducible apply State.put_keeps

theorem State.nameBlockers_keeps {s t : State} (h : Keeps s t) (r : PwrReq) :
    Keeps s (State.nameBlockers t r) := by
  unfold State.nameBlockers
  repeat' first
    | with_reducible assumption
    | with_reducible apply State.put_keeps

theorem State.reqEnds_keeps {s t : State} (h : Keeps s t) (r : PwrReq) (st : Status) (refuser : Nat) :
    Keeps s (State.reqEnds t r st refuser) := by
  unfold State.reqEnds
  repeat' first
    | with_reducible assumption
    | with_reducible apply State.bump_keeps
    | with_reducible apply State.put_keeps
    | ((fail_if_no_progress extract_lets +onlyGivenNames x); refine (fun (hx : Keeps s x) => ?_) ?_; on_goal 2 => unfold x; on_goal 1 => clear_value x)
    | ((fail_if_no_progress extract_lets +onlyGivenNames x); clear_value x)
    | split
    | with_reducible refine Keeps.mk' ?_

theorem State.keepStop_keeps {s t : State} (h : Keeps s t)  :
    Keeps s (State.keepStop t) := by
  unfold State.keepStop
  repeat' first
    | with_reducible assumption
    | ((fail_if_no_progress extract_lets +onlyGivenNames x); clear_value x)
    | with_reducible refine Keeps.mk' ?_

theorem State.switchOff_keeps {s t : State} (h : Keeps s t) (d : Domain) :
    Keeps s (State.switchOff t d) := by
  unfold State.switchOff
  extract_lets t0 u v w
  have h0 : Keeps s t0 := Keeps.ite (State.keepStop_keeps h) h
  have hv : Keeps s v := State.blocksLost_keeps (State.banksDown_keeps (State.calDomainLost_keeps h0 _) _) _
  refine State.tripAll_keeps (State.put_keeps (t := w) ?_ _ _)
  exact hv.maps (u := w) rfl (.inl rfl) (Nat.le_refl _) (List.prefix_refl _) id
    (fun c => Cells.wf_filter _ c) (fun c => Cells.wf_filter _ c)

theorem State.forcedActions_keeps {s t : State} (h : Keeps s t) (d : Domain) :
    Keeps s (State.forcedActions t d) := by
  unfold State.forcedActions
  repeat' first
    | with_reducible assumption
    | with_reducible apply State.dmaLoses_keeps
    | with_reducible apply State.forceDrive_keeps
    | with_reducible apply State.tripKill_keeps
    | with_reducible refine Keeps.foldl _ (fun x a hx => ?_) ?_
    | ((fail_if_no_progress extract_lets +onlyGivenNames x); refine (fun (hx : Keeps s x) => ?_) ?_; on_goal 2 => unfold x; on_goal 1 => clear_value x)
    | split

theorem State.holdTrips_keeps {s t : State} (h : Keeps s t)  :
    Keeps s (State.holdTrips t) := by
  unfold State.holdTrips
  repeat' first
    | with_reducible assumption
    | ((fail_if_no_progress extract_lets +onlyGivenNames x); clear_value x)
    | with_reducible refine Keeps.mk' ?_

theorem State.takeDown_keeps {s t : State} (h : Keeps s t) (force : Bool) (d : Domain) :
    Keeps s (State.takeDown force t d) := by
  unfold State.takeDown
  repeat' first
    | with_reducible assumption
    | with_reducible apply State.dptSettle_keeps
    | with_reducible apply State.switchOff_keeps
    | with_reducible apply State.forcedActions_keeps
    | with_reducible apply State.holdTrips_keeps
    | ((fail_if_no_progress extract_lets +onlyGivenNames x); refine (fun (hx : Keeps s x) => ?_) ?_; on_goal 2 => unfold x; on_goal 1 => clear_value x)
    | with_reducible refine Keeps.ite ?_ ?_
    | split
    | (intro y hy)

theorem State.reqPasses_keeps {s t : State} (h : Keeps s t) (r : PwrReq) :
    Keeps s (State.reqPasses t r) := by
  unfold State.reqPasses
  repeat' first
    | with_reducible assumption
    | with_reducible apply State.put_keeps
    | with_reducible apply State.graceCheckMet_keeps
    | with_reducible apply State.takeDown_keeps
    | with_reducible refine Keeps.foldl _ (fun x a hx => ?_) ?_
    | ((fail_if_no_progress extract_lets +onlyGivenNames x); refine (fun (hx : Keeps s x) => ?_) ?_; on_goal 2 => unfold x; on_goal 1 => clear_value x)
    | ((fail_if_no_progress extract_lets +onlyGivenNames x); clear_value x)
    | with_reducible refine Keeps.ite ?_ ?_
    | split
    | with_reducible refine Keeps.mk' ?_

theorem State.handshake_keeps {s t : State} (h : Keeps s t)  :
    Keeps s (State.handshake t) := by
  unfold State.handshake
  repeat' first
    | with_reducible assumption
    | with_reducible apply State.nameBlockers_keeps
    | with_reducible apply State.setCause_keeps
    | with_reducible apply State.reqEnds_keeps
    | with_reducible apply State.reqPasses_keeps
    | ((fail_if_no_progress extract_lets +onlyGivenNames x); refine (fun (hx : Keeps s x) => ?_) ?_; on_goal 2 => unfold x; on_goal 1 => clear_value x)
    | with_reducible refine Keeps.ite ?_ ?_
    | split

theorem State.requestPower_keeps {s t : State} (h : Keeps s t) (t0 : PwrTarget) (force : Bool) :
    Keeps s (State.requestPower t t0 force) := by
  unfold State.requestPower
  repeat' first
    | with_reducible assumption
    | with_reducible apply State.put_keeps
    | with_reducible apply State.handshake_keeps
    | ((fail_if_no_progress extract_lets +onlyGivenNames x); clear_value x)
    | split
    | with_reducible refine Keeps.mk' ?_

theorem State.domWrite_keeps {s t : State} (h : Keeps s t) (v : Nat) (force : Bool) :
    Keeps s (State.domWrite t v force) := by
  unfold State.domWrite
  repeat' first
    | with_reducible assumption
    | with_reducible apply State.powerDenied_keeps
    | with_reducible apply State.beginTraining_keeps
    | with_reducible apply State.setReg_keeps
    | with_reducible apply State.requestPower_keeps
    | ((fail_if_no_progress extract_lets +onlyGivenNames x); refine (fun (hx : Keeps s x) => ?_) ?_; on_goal 2 => unfold x; on_goal 1 => clear_value x)
    | ((fail_if_no_progress extract_lets +onlyGivenNames x); clear_value x)
    | with_reducible refine Keeps.ite ?_ ?_

theorem State.stopClocks_keeps {s t : State} (h : Keeps s t) (r : PwrReq) :
    Keeps s (State.stopClocks t r) := by
  unfold State.stopClocks
  repeat' first
    | with_reducible assumption
    | with_reducible apply State.put_keeps
    | ((fail_if_no_progress extract_lets +onlyGivenNames x); refine (fun (hx : Keeps s x) => ?_) ?_; on_goal 2 => unfold x; on_goal 1 => clear_value x)
    | ((fail_if_no_progress extract_lets +onlyGivenNames x); clear_value x)
    | with_reducible refine Keeps.ite ?_ ?_
    | with_reducible refine Keeps.mk' ?_

theorem State.enterState_keeps {s t : State} (h : Keeps s t) (r : PwrReq) :
    Keeps s (State.enterState t r) := by
  unfold State.enterState
  repeat' first
    | with_reducible assumption
    | with_reducible apply State.takeDown_keeps
    | with_reducible apply State.stopClocks_keeps
    | with_reducible apply State.put_keeps
    | with_reducible apply State.bump_keeps
    | with_reducible apply State.linkCause_keeps
    | with_reducible refine Keeps.foldl _ (fun x a hx => ?_) ?_
    | ((fail_if_no_progress extract_lets +onlyGivenNames x); clear_value x)
    | split
    | with_reducible refine Keeps.mk' ?_

theorem State.phasesTo_keeps {s t : State} (h : Keeps s t) (r : PwrReq) (h0 : Nat) (t0 : Nat) :
    Keeps s (State.phasesTo t r h0 t0) := by
  unfold State.phasesTo
  repeat' first
    | with_reducible assumption
    | with_reducible apply State.stopClocks_keeps
    | with_reducible apply State.put_keeps
    | ((fail_if_no_progress extract_lets +onlyGivenNames x); refine (fun (hx : Keeps s x) => ?_) ?_; on_goal 2 => unfold x; on_goal 1 => clear_value x)
    | with_reducible refine Keeps.ite ?_ ?_

theorem State.runPhases_keeps {s t : State} (h : Keeps s t)  :
    Keeps s (State.runPhases t) := by
  unfold State.runPhases
  repeat' first
    | with_reducible assumption
    | with_reducible apply State.phasesTo_keeps
    | with_reducible apply State.put_keeps
    | ((fail_if_no_progress extract_lets +onlyGivenNames x); refine (fun (hx : Keeps s x) => ?_) ?_; on_goal 2 => unfold x; on_goal 1 => clear_value x)
    | ((fail_if_no_progress extract_lets +onlyGivenNames x); clear_value x)
    | with_reducible refine Keeps.ite ?_ ?_
    | split
    | with_reducible refine Keeps.mk' ?_

theorem State.noteWake_keeps {s t : State} (h : Keeps s t) (src : Nat) :
    Keeps s (State.noteWake t src) := by
  unfold State.noteWake
  repeat' first
    | with_reducible assumption
    | ((fail_if_no_progress extract_lets +onlyGivenNames x); clear_value x)
    | split
    | with_reducible refine Keeps.mk' ?_

theorem State.wake_keeps {s t : State} (h : Keeps s t) (src : Nat) (link : Bool) :
    Keeps s (State.wake t src link) := by
  unfold State.wake
  repeat' first
    | with_reducible assumption
    | with_reducible apply State.put_keeps
    | with_reducible apply State.beginExit_keeps
    | with_reducible apply State.noteWake_keeps
    | ((fail_if_no_progress extract_lets +onlyGivenNames x); clear_value x)
    | with_reducible refine Keeps.ite ?_ ?_
    | split
    | with_reducible refine Keeps.mk' ?_

theorem State.sampleLevels_keeps {s t : State} (h : Keeps s t)  :
    Keeps s (State.sampleLevels t) := by
  unfold State.sampleLevels
  repeat' first
    | with_reducible assumption
    | with_reducible apply State.wake_keeps
    | with_reducible refine Keeps.foldl _ (fun x a hx => ?_) ?_
    | with_reducible refine Keeps.ite ?_ ?_

theorem State.pinSample_keeps {s t : State} (h : Keeps s t) (src : Fin 10) (a2 : WakeInput) :
    Keeps s (State.pinSample t src a2).1 := by
  unfold State.pinSample
  repeat' first
    | with_reducible assumption
    | with_reducible apply State.xfltLevel_keeps
    | ((fail_if_no_progress extract_lets +onlyGivenNames x); clear_value x)
    | split
    | with_reducible refine Keeps.mk' ?_

theorem State.pwrReq_keeps {s t : State} (h : Keeps s t) (st : Nat) (force : Bool) :
    Keeps s (State.pwrReq t st force) := by
  unfold State.pwrReq
  repeat' first
    | with_reducible assumption
    | with_reducible apply State.powerDenied_keeps
    | with_reducible apply State.put_keeps
    | with_reducible apply State.requestPower_keeps
    | ((fail_if_no_progress extract_lets +onlyGivenNames x); refine (fun (hx : Keeps s x) => ?_) ?_; on_goal 2 => unfold x; on_goal 1 => clear_value x)
    | with_reducible refine Keeps.ite ?_ ?_
    | split

theorem State.release_keeps {s t : State} (h : Keeps s t) (lost : List (Fin 116)) (d : Domain) :
    Keeps s (State.release lost t d) := by
  unfold State.release
  repeat' first
    | with_reducible assumption
    | with_reducible apply State.banksUp_keeps
    | with_reducible apply State.put_keeps
    | with_reducible apply State.tripHeld_keeps
    | with_reducible apply State.tripAll_keeps
    | with_reducible apply State.loadTrims_keeps
    | with_reducible refine Keeps.foldl _ (fun x a hx => ?_) ?_
    | ((fail_if_no_progress extract_lets +onlyGivenNames x); refine (fun (hx : Keeps s x) => ?_) ?_; on_goal 2 => unfold x; on_goal 1 => clear_value x)
    | with_reducible refine Keeps.ite ?_ ?_
    | with_reducible refine Keeps.mk' ?_

theorem execDeferEnd_keeps {s t : State} (h : Keeps s t)  :
    ∃ u, (execDeferEnd t) = .next u ∧ Keeps s u := by
  unfold execDeferEnd
  repeat' first
    | with_reducible assumption
    | with_reducible apply State.handshake_keeps
    | with_reducible refine ⟨_, rfl, ?_⟩
    | split

theorem execDomDone_keeps {s t : State} (h : Keeps s t) (lost : optParam (List (Fin 116)) []) :
    ∃ u, (execDomDone t lost) = .next u ∧ Keeps s u := by
  unfold execDomDone
  repeat' first
    | with_reducible assumption
    | with_reducible apply State.release_keeps
    | with_reducible apply State.put_keeps
    | with_reducible apply State.setCause_keeps
    | with_reducible apply State.setReg_keeps
    | with_reducible refine Keeps.foldl _ (fun x a hx => ?_) ?_
    | with_reducible refine ⟨_, rfl, ?_⟩
    | ((fail_if_no_progress extract_lets +onlyGivenNames x); refine (fun (hx : Keeps s x) => ?_) ?_; on_goal 2 => unfold x; on_goal 1 => clear_value x)
    | ((fail_if_no_progress extract_lets +onlyGivenNames x); clear_value x)
    | split
    | with_reducible refine Keeps.mk' ?_

theorem execDomainOffRequest_keeps {s t : State} (h : Keeps s t) (mask : BitVec 11) (force : Bool) :
    ∃ u, (execDomainOffRequest mask force t) = .next u ∧ Keeps s u := by
  unfold execDomainOffRequest
  repeat' first
    | with_reducible assumption
    | with_reducible apply State.atBlock_keeps
    | with_reducible apply State.domWrite_keeps
    | with_reducible refine ⟨_, rfl, ?_⟩
    | (intro y hy)

theorem execDomainOnRequest_keeps {s t : State} (h : Keeps s t) (mask : BitVec 11) :
    ∃ u, (execDomainOnRequest mask t) = .next u ∧ Keeps s u := by
  unfold execDomainOnRequest
  repeat' first
    | with_reducible assumption
    | with_reducible apply State.atBlock_keeps
    | with_reducible apply State.domWrite_keeps
    | with_reducible refine ⟨_, rfl, ?_⟩
    | (intro y hy)

theorem execHandshakeTimeout_keeps {s t : State} (h : Keeps s t)  :
    ∃ u, (execHandshakeTimeout t) = .next u ∧ Keeps s u := by
  unfold execHandshakeTimeout
  repeat' first
    | with_reducible assumption
    | with_reducible apply State.reqEnds_keeps
    | with_reducible apply State.handshake_keeps
    | with_reducible refine ⟨_, rfl, ?_⟩
    | split

theorem execLinkReset_keeps {s t : State} (h : Keeps s t) (k : LinkResetKind) :
    ∃ u, (execLinkReset k t) = .next u ∧ Keeps s u := by
  unfold execLinkReset
  repeat' first
    | with_reducible assumption
    | with_reducible apply State.wake_keeps
    | with_reducible apply State.linkResets_keeps
    | with_reducible refine ⟨_, rfl, ?_⟩
    | split

theorem execLinkWake_keeps {s t : State} (h : Keeps s t) (src : Fin 3) :
    ∃ u, (execLinkWake src t) = .next u ∧ Keeps s u := by
  unfold execLinkWake
  repeat' first
    | with_reducible assumption
    | with_reducible apply State.wake_keeps
    | with_reducible refine ⟨_, rfl, ?_⟩
    | split

theorem execPinWake_keeps {s t : State} (h : Keeps s t) (src : Fin 10) (x0 : optParam WakeInput WakeInput.active) :
    ∃ u, (execPinWake src t x0) = .next u ∧ Keeps s u := by
  unfold execPinWake
  repeat' first
    | with_reducible assumption
    | with_reducible apply State.pinSample_keeps
    | with_reducible apply State.wake_keeps
    | with_reducible refine ⟨_, rfl, ?_⟩
    | split

theorem execPwrReqHibernate_keeps {s t : State} (h : Keeps s t) (force : Bool) :
    ∃ u, (execPwrReqHibernate force t) = .next u ∧ Keeps s u := by
  unfold execPwrReqHibernate
  repeat' first
    | with_reducible assumption
    | with_reducible apply State.atBlock_keeps
    | with_reducible apply State.pwrReq_keeps
    | with_reducible refine ⟨_, rfl, ?_⟩
    | (intro y hy)

theorem execPwrReqIdle_keeps {s t : State} (h : Keeps s t)  :
    ∃ u, (execPwrReqIdle t) = .next u ∧ Keeps s u := by
  unfold execPwrReqIdle
  repeat' first
    | with_reducible assumption
    | with_reducible apply State.atBlock_keeps
    | with_reducible apply State.pwrReq_keeps
    | with_reducible refine ⟨_, rfl, ?_⟩
    | (intro y hy)

theorem execPwrReqOn_keeps {s t : State} (h : Keeps s t)  :
    ∃ u, (execPwrReqOn t) = .next u ∧ Keeps s u := by
  unfold execPwrReqOn
  repeat' first
    | with_reducible assumption
    | with_reducible apply State.atBlock_keeps
    | with_reducible apply State.pwrReq_keeps
    | with_reducible refine ⟨_, rfl, ?_⟩
    | (intro y hy)

theorem execPwrReqStandby_keeps {s t : State} (h : Keeps s t) (force : Bool) :
    ∃ u, (execPwrReqStandby force t) = .next u ∧ Keeps s u := by
  unfold execPwrReqStandby
  repeat' first
    | with_reducible assumption
    | with_reducible apply State.atBlock_keeps
    | with_reducible apply State.pwrReq_keeps
    | with_reducible refine ⟨_, rfl, ?_⟩
    | (intro y hy)

theorem execStateEntry_keeps {s t : State} (h : Keeps s t)  :
    ∃ u, (execStateEntry t) = .next u ∧ Keeps s u := by
  unfold execStateEntry
  repeat' first
    | with_reducible assumption
    | with_reducible apply State.enterState_keeps
    | with_reducible apply State.beginExit_keeps
    | with_reducible apply State.recordWakes_keeps
    | with_reducible refine ⟨_, rfl, ?_⟩
    | ((fail_if_no_progress extract_lets +onlyGivenNames x); refine (fun (hx : Keeps s x) => ?_) ?_; on_goal 2 => unfold x; on_goal 1 => clear_value x)
    | ((fail_if_no_progress extract_lets +onlyGivenNames x); clear_value x)
    | split
    | with_reducible refine Keeps.mk' ?_

end Sys2Proof.Machine
end

