-- ==== Sys2Proof/Laws/Keeps/Write.lean ====
section
/-!
SUPPORT. What every operation of Machine/Write.lean keeps (Laws/Keeps.lean).
-/

namespace Sys2Proof.Machine

theorem State.bootGo_keeps {s t : State} (h : Keeps s t)  :
    Keeps s (State.bootGo t) := by
  unfold State.bootGo
  repeat' first
    | with_reducible assumption
    | with_reducible apply State.raiseEvent_keeps
    | with_reducible apply State.put_keeps
    | ((fail_if_no_progress extract_lets +onlyGivenNames x); refine (fun (hx : Keeps s x) => ?_) ?_; on_goal 2 => unfold x; on_goal 1 => clear_value x)
    | ((fail_if_no_progress extract_lets +onlyGivenNames x); clear_value x)
    | with_reducible refine Keeps.ite ?_ ?_
    | with_reducible refine Keeps.mk' ?_

theorem State.eachBit_keeps {s t : State} (h : Keeps s t) {n : Nat} [NeZero n] (w : Word) (f : State → Fin n → State) (hf : ∀ y0 x, Keeps s x → Keeps s (f x y0)) :
    Keeps s (State.eachBit t w f) := by
  unfold State.eachBit
  repeat' first
    | with_reducible assumption
    | with_reducible apply hf
    | with_reducible refine Keeps.foldl _ (fun x a hx => ?_) ?_
    | with_reducible refine Keeps.ite ?_ ?_

theorem State.enableBar_keeps {s t : State} (h : Keeps s t) (n : Fin 32) (on : Bool) :
    Keeps s (State.enableBar t n on) := by
  unfold State.enableBar
  repeat' first
    | with_reducible assumption
    | with_reducible apply State.unlessHeld_keeps
    | with_reducible apply State.tripEval_keeps
    | with_reducible apply State.put_keeps
    | with_reducible refine Keeps.ite ?_ ?_
    | (intro y hy)

theorem State.plain_keeps {s t : State} (h : Keeps s t) (off : Nat) (w : Word) :
    Keeps s (State.plain t off w) := by
  unfold State.plain
  repeat' first
    | with_reducible assumption
    | with_reducible apply State.setReg_keeps
    | split

theorem State.ptmRequest_keeps {s t : State} (h : Keeps s t)  :
    Keeps s (State.ptmRequest t) := by
  unfold State.ptmRequest
  repeat' first
    | with_reducible assumption
    | with_reducible apply State.sendLink_keeps
    | ((fail_if_no_progress extract_lets +onlyGivenNames x); refine (fun (hx : Keeps s x) => ?_) ?_; on_goal 2 => unfold x; on_goal 1 => clear_value x)
    | ((fail_if_no_progress extract_lets +onlyGivenNames x); clear_value x)
    | with_reducible refine Keeps.ite ?_ ?_
    | with_reducible refine Keeps.mk' ?_

theorem State.writeSys_keeps {s t : State} (h : Keeps s t) (off : Nat) (w : Word) :
    Keeps s (State.writeSys t off w) := by
  unfold State.writeSys
  repeat' first
    | with_reducible assumption
    | with_reducible apply State.plain_keeps
    | with_reducible apply State.ptmRequest_keeps
    | ((fail_if_no_progress extract_lets +onlyGivenNames x); refine (fun (hx : Keeps s x) => ?_) ?_; on_goal 2 => unfold x; on_goal 1 => clear_value x)
    | with_reducible refine Keeps.ite ?_ ?_

theorem State.unlessOverload_keeps {s t : State} (h : Keeps s t) (f : State → State) (hf : ∀ x, Keeps s x → Keeps s (f x)) :
    Keeps s (State.unlessOverload f t) := by
  unfold State.unlessOverload
  repeat' first
    | with_reducible assumption
    | with_reducible apply hf
    | with_reducible apply State.blocked_keeps
    | ((fail_if_no_progress extract_lets +onlyGivenNames x); refine (fun (hx : Keeps s x) => ?_) ?_; on_goal 2 => unfold x; on_goal 1 => clear_value x)
    | with_reducible refine Keeps.ite ?_ ?_

theorem State.writePwr_keeps {s t : State} (h : Keeps s t) (m : Master) (off : Nat) (w : Word) :
    Keeps s (State.writePwr t m off w) := by
  unfold State.writePwr
  repeat' first
    | with_reducible assumption
    | with_reducible apply State.pwrReq_keeps
    | with_reducible apply State.domWrite_keeps
    | with_reducible apply State.unlessOverload_keeps
    | with_reducible apply State.plain_keeps
    | with_reducible refine Keeps.ite ?_ ?_
    | (intro y hy)

theorem State.writeClk_keeps {s t : State} (h : Keeps s t) (m : Master) (off : Nat) (w : Word) :
    Keeps s (State.writeClk t m off w) := by
  unfold State.writeClk
  repeat' first
    | with_reducible assumption
    | with_reducible apply State.trainWrite_keeps
    | with_reducible apply State.plain_keeps
    | with_reducible apply State.put_keeps
    | with_reducible apply State.rstCtlWrite_keeps
    | ((fail_if_no_progress extract_lets +onlyGivenNames x); refine (fun (hx : Keeps s x) => ?_) ?_; on_goal 2 => unfold x; on_goal 1 => clear_value x)
    | with_reducible refine Keeps.ite ?_ ?_

theorem State.writeDmaCfg_keeps {s t : State} (h : Keeps s t) (c : Fin 48) (w : Word) :
    Keeps s (State.writeDmaCfg t c w) := by
  unfold State.writeDmaCfg
  repeat' first
    | with_reducible assumption
    | with_reducible apply State.plain_keeps

theorem State.writeDmaChan_keeps {s t : State} (h : Keeps s t) (c : Fin 48) (off : Nat) (w : Word) :
    Keeps s (State.writeDmaChan t c off w) := by
  unfold State.writeDmaChan
  repeat' first
    | with_reducible assumption
    | with_reducible apply State.dmaStart_keeps
    | with_reducible apply State.dmaAbort_keeps
    | with_reducible apply State.dmaBell_keeps
    | with_reducible apply State.writeDmaCfg_keeps
    | with_reducible apply State.plain_keeps
    | ((fail_if_no_progress extract_lets +onlyGivenNames x); refine (fun (hx : Keeps s x) => ?_) ?_; on_goal 2 => unfold x; on_goal 1 => clear_value x)
    | with_reducible refine Keeps.ite ?_ ?_

theorem State.writeDma_keeps {s t : State} (h : Keeps s t) (off : Nat) (w : Word) :
    Keeps s (State.writeDma t off w) := by
  unfold State.writeDma
  repeat' first
    | with_reducible assumption
    | with_reducible apply State.writeDmaChan_keeps
    | with_reducible apply State.plain_keeps
    | with_reducible refine Keeps.ite ?_ ?_

theorem State.writePosCtl_keeps {s t : State} (h : Keeps s t) (w : Word) :
    Keeps s (State.writePosCtl t w) := by
  unfold State.writePosCtl
  repeat' first
    | with_reducible assumption
    | with_reducible apply State.putb_keeps
    | with_reducible apply State.standstill_keeps
    | with_reducible apply State.rebase_keeps
    | with_reducible apply State.usePriWrite_keeps
    | with_reducible refine Keeps.foldl _ (fun x a hx => ?_) ?_
    | ((fail_if_no_progress extract_lets +onlyGivenNames x); refine (fun (hx : Keeps s x) => ?_) ?_; on_goal 2 => unfold x; on_goal 1 => clear_value x)
    | ((fail_if_no_progress extract_lets +onlyGivenNames x); clear_value x)
    | with_reducible refine Keeps.ite ?_ ?_

theorem State.writeAxisCfg_keeps {s t : State} (h : Keeps s t) (w : Word) :
    Keeps s (State.writeAxisCfg t w) := by
  unfold State.writeAxisCfg
  repeat' first
    | with_reducible assumption
    | with_reducible apply State.watchValid_keeps
    | with_reducible apply State.withPP_keeps
    | with_reducible apply State.axisCfgChanged_keeps
    | with_reducible apply State.plain_keeps
    | (intro y hy)

theorem State.writeEncCause_keeps {s t : State} (h : Keeps s t) (w : Word) :
    Keeps s (State.writeEncCause t w) := by
  unfold State.writeEncCause
  repeat' first
    | with_reducible assumption
    | with_reducible apply State.wireClear_keeps
    | with_reducible apply State.plain_keeps
    | with_reducible refine Keeps.foldl _ (fun x a hx => ?_) ?_
    | with_reducible refine Keeps.ite ?_ ?_

theorem State.writeSsiCfg_keeps {s t : State} (h : Keeps s t) (w : Word) :
    Keeps s (State.writeSsiCfg t w) := by
  unfold State.writeSsiCfg
  repeat' first
    | with_reducible assumption
    | with_reducible apply State.plain_keeps
    | ((fail_if_no_progress extract_lets +onlyGivenNames x); refine (fun (hx : Keeps s x) => ?_) ?_; on_goal 2 => unfold x; on_goal 1 => clear_value x)
    | ((fail_if_no_progress extract_lets +onlyGivenNames x); clear_value x)
    | with_reducible refine Keeps.ite ?_ ?_
    | with_reducible refine Keeps.mk' ?_

theorem State.writeEnc_keeps {s t : State} (h : Keeps s t) (c : Fin 4) (off : Nat) (w : Word) :
    Keeps s (State.writeEnc t c off w) := by
  unfold State.writeEnc
  repeat' first
    | with_reducible assumption
    | with_reducible apply State.plain_keeps
    | with_reducible apply State.revRestart_keeps
    | ((fail_if_no_progress extract_lets +onlyGivenNames x); refine (fun (hx : Keeps s x) => ?_) ?_; on_goal 2 => unfold x; on_goal 1 => clear_value x)
    | with_reducible refine Keeps.ite ?_ ?_

theorem State.writeCmp_keeps {s t : State} (h : Keeps s t) (off : Nat) (w : Word) :
    Keeps s (State.writeCmp t off w) := by
  unfold State.writeCmp
  repeat' first
    | with_reducible assumption
    | with_reducible apply State.withPP_keeps
    | with_reducible apply State.plain_keeps
    | with_reducible apply State.watchArm_keeps
    | ((fail_if_no_progress extract_lets +onlyGivenNames x); refine (fun (hx : ∀ y, Keeps s y → Keeps s (x y)) => ?_) ?_; on_goal 2 => unfold x; on_goal 1 => clear_value x)
    | with_reducible refine Keeps.ite ?_ ?_
    | (intro y hy)

theorem State.writePos_keeps {s t : State} (h : Keeps s t) (off : Nat) (w : Word) :
    Keeps s (State.writePos t off w) := by
  unfold State.writePos
  repeat' first
    | with_reducible assumption
    | with_reducible apply State.writePosCtl_keeps
    | with_reducible apply State.writeAxisCfg_keeps
    | with_reducible apply State.writeEncCause_keeps
    | with_reducible apply State.writeSsiCfg_keeps
    | with_reducible apply State.writeEnc_keeps
    | with_reducible apply State.writeCmp_keeps
    | with_reducible apply State.withPP_keeps
    | with_reducible apply State.plain_keeps
    | with_reducible refine Keeps.ite ?_ ?_
    | (intro y hy)

theorem State.writeXpt_keeps {s t : State} (h : Keeps s t) (off : Nat) (w : Word) :
    Keeps s (State.writeXpt t off w) := by
  unfold State.writeXpt
  repeat' first
    | with_reducible assumption
    | with_reducible apply State.startWrite_keeps
    | with_reducible apply State.stopWrite_keeps
    | with_reducible apply State.retryWrite_keeps
    | with_reducible apply State.swstopWrite_keeps
    | with_reducible apply State.modeWrite_keeps
    | with_reducible apply State.plain_keeps
    | with_reducible apply State.writeU_keeps
    | ((fail_if_no_progress extract_lets +onlyGivenNames x); refine (fun (hx : Keeps s x) => ?_) ?_; on_goal 2 => unfold x; on_goal 1 => clear_value x)
    | ((fail_if_no_progress extract_lets +onlyGivenNames x); clear_value x)
    | with_reducible refine Keeps.ite ?_ ?_

theorem State.writeThm_keeps {s t : State} (h : Keeps s t) (off : Nat) (w : Word) :
    Keeps s (State.writeThm t off w) := by
  unfold State.writeThm
  repeat' first
    | with_reducible assumption
    | with_reducible apply State.tripAll_keeps
    | with_reducible apply State.plain_keeps
    | with_reducible apply State.eachBit_keeps
    | with_reducible apply State.thmAck_keeps
    | with_reducible apply State.thmTripped_keeps
    | with_reducible apply State.chenWrite_keeps
    | ((fail_if_no_progress extract_lets +onlyGivenNames x); clear_value x)
    | with_reducible refine Keeps.ite ?_ ?_
    | (intro y z hz)

theorem State.writeCal_keeps {s t : State} (h : Keeps s t) (off : Nat) (w : Word) :
    Keeps s (State.writeCal t off w) := by
  unfold State.writeCal
  repeat' first
    | with_reducible assumption
    | with_reducible apply State.calRequest_keeps
    | with_reducible apply State.calWrite_keeps
    | with_reducible apply State.plain_keeps
    | with_reducible apply State.modEt_keeps
    | ((fail_if_no_progress extract_lets +onlyGivenNames x); clear_value x)
    | with_reducible refine Keeps.ite ?_ ?_

theorem State.writeCamCtl_keeps {s t : State} (h : Keeps s t) (p : Fin 4) (w : Word) :
    Keeps s (State.writeCamCtl t p w) := by
  unfold State.writeCamCtl
  repeat' first
    | with_reducible assumption
    | with_reducible apply State.putb_keeps
    | with_reducible apply State.unlessHeld_keeps
    | with_reducible apply State.put_keeps
    | with_reducible apply State.cciFlush_keeps
    | with_reducible apply State.triggerRequest_keeps
    | ((fail_if_no_progress extract_lets +onlyGivenNames x); refine (fun (hx : Keeps s x) => ?_) ?_; on_goal 2 => unfold x; on_goal 1 => clear_value x)
    | ((fail_if_no_progress extract_lets +onlyGivenNames x); clear_value x)
    | with_reducible refine Keeps.ite ?_ ?_
    | (intro y hy)

theorem State.writeCam_keeps {s t : State} (h : Keeps s t) (p : Fin 4) (off : Nat) (w : Word) :
    Keeps s (State.writeCam t p off w) := by
  unfold State.writeCam
  repeat' first
    | with_reducible assumption
    | with_reducible apply State.writeCamCtl_keeps
    | with_reducible apply State.cciPush_keeps
    | with_reducible apply State.plain_keeps
    | with_reducible apply State.strobeWrite_keeps
    | with_reducible refine Keeps.ite ?_ ?_

theorem State.writeIns_keeps {s t : State} (h : Keeps s t) (off : Nat) (w : Word) :
    Keeps s (State.writeIns t off w) := by
  unfold State.writeIns
  repeat' first
    | with_reducible assumption
    | with_reducible apply State.pushAreq_keeps
    | with_reducible apply State.tblAccess_keeps
    | with_reducible apply State.freeStore_keeps
    | with_reducible apply State.matchRequests_keeps
    | with_reducible apply State.plain_keeps
    | with_reducible refine Keeps.foldl _ (fun x a hx => ?_) ?_
    | ((fail_if_no_progress extract_lets +onlyGivenNames x); clear_value x)
    | with_reducible refine Keeps.ite ?_ ?_

theorem State.writeWdCfg_keeps {s t : State} (h : Keeps s t) (m : Master) (w : Word) :
    Keeps s (State.writeWdCfg t m w) := by
  unfold State.writeWdCfg
  repeat' first
    | with_reducible assumption
    | with_reducible apply State.plain_keeps

theorem State.writePairCtl_keeps {s t : State} (h : Keeps s t) (j : Fin 4) (w : Word) :
    Keeps s (State.writePairCtl t j w) := by
  unfold State.writePairCtl
  repeat' first
    | with_reducible assumption
    | with_reducible apply State.unlessHeld_keeps
    | with_reducible apply State.startPairAt_keeps
    | with_reducible apply State.seqHalt_keeps
    | with_reducible apply State.stepRequest_keeps
    | with_reducible apply State.resumePair_keeps
    | ((fail_if_no_progress extract_lets +onlyGivenNames x); refine (fun (hx : Keeps s x) => ?_) ?_; on_goal 2 => unfold x; on_goal 1 => clear_value x)
    | with_reducible refine Keeps.ite ?_ ?_
    | (intro y hy)

theorem State.writePair_keeps {s t : State} (h : Keeps s t) (j : Fin 4) (off : Nat) (w : Word) :
    Keeps s (State.writePair t j off w) := by
  unfold State.writePair
  repeat' first
    | with_reducible assumption
    | with_reducible apply State.writePairCtl_keeps
    | with_reducible apply State.kdataWrite_keeps
    | with_reducible apply State.plain_keeps
    | with_reducible refine Keeps.ite ?_ ?_

theorem State.writeSeq_keeps {s t : State} (h : Keeps s t) (m : Master) (off : Nat) (w : Word) :
    Keeps s (State.writeSeq t m off w) := by
  unfold State.writeSeq
  repeat' first
    | with_reducible assumption
    | with_reducible apply State.bootGo_keeps
    | with_reducible apply State.writeWdCfg_keeps
    | with_reducible apply State.kick_keeps
    | with_reducible apply State.swEvents_keeps
    | with_reducible apply State.writePair_keeps
    | with_reducible apply State.plain_keeps
    | with_reducible refine Keeps.ite ?_ ?_

theorem State.writeMem_keeps {s t : State} (h : Keeps s t) (off : Nat) (w : Word) :
    Keeps s (State.writeMem t off w) := by
  unfold State.writeMem
  repeat' first
    | with_reducible assumption
    | with_reducible apply State.wipeRequest_keeps
    | with_reducible apply State.unlessOverload_keeps
    | with_reducible apply State.plain_keeps
    | with_reducible apply State.modBank_keeps
    | with_reducible refine Keeps.foldl _ (fun x a hx => ?_) ?_
    | ((fail_if_no_progress extract_lets +onlyGivenNames x); refine (fun (hx : Keeps s x) => ?_) ?_; on_goal 2 => unfold x; on_goal 1 => clear_value x)
    | ((fail_if_no_progress extract_lets +onlyGivenNames x); clear_value x)
    | with_reducible refine Keeps.ite ?_ ?_
    | (intro y hy)

theorem State.writeGridCtl_keeps {s t : State} (h : Keeps s t) (w : Word) :
    Keeps s (State.writeGridCtl t w) := by
  unfold State.writeGridCtl
  repeat' first
    | with_reducible assumption
    | with_reducible apply State.putb_keeps
    | with_reducible apply State.put_keeps
    | with_reducible apply State.startGridCheck_keeps
    | with_reducible apply State.runStart_keeps
    | with_reducible apply State.runStop_keeps
    | ((fail_if_no_progress extract_lets +onlyGivenNames x); refine (fun (hx : Keeps s x) => ?_) ?_; on_goal 2 => unfold x; on_goal 1 => clear_value x)
    | with_reducible refine Keeps.ite ?_ ?_

theorem State.writeGrid_keeps {s t : State} (h : Keeps s t) (off : Nat) (w : Word) :
    Keeps s (State.writeGrid t off w) := by
  unfold State.writeGrid
  repeat' first
    | with_reducible assumption
    | with_reducible apply State.writeGridCtl_keeps
    | with_reducible apply State.killLatchClear_keeps
    | with_reducible apply State.gridSwkill_keeps
    | with_reducible apply State.gridShadowWrite_keeps
    | with_reducible apply State.plain_keeps
    | ((fail_if_no_progress extract_lets +onlyGivenNames x); refine (fun (hx : Keeps s x) => ?_) ?_; on_goal 2 => unfold x; on_goal 1 => clear_value x)
    | with_reducible refine Keeps.ite ?_ ?_
    | split

theorem State.writeFpeCtl_keeps {s t : State} (h : Keeps s t) (n : Fin 32) (w : Word) :
    Keeps s (State.writeFpeCtl t n w) := by
  unfold State.writeFpeCtl
  repeat' first
    | with_reducible assumption
    | with_reducible apply State.putb_keeps
    | with_reducible apply State.fpeSwkill_keeps
    | with_reducible apply State.enableBar_keeps
    | with_reducible apply State.startBarCheck_keeps
    | ((fail_if_no_progress extract_lets +onlyGivenNames x); refine (fun (hx : Keeps s x) => ?_) ?_; on_goal 2 => unfold x; on_goal 1 => clear_value x)
    | with_reducible refine Keeps.ite ?_ ?_

theorem State.writeRspCtl_keeps {s t : State} (h : Keeps s t) (n : Fin 32) (w : Word) :
    Keeps s (State.writeRspCtl t n w) := by
  unfold State.writeRspCtl
  repeat' first
    | with_reducible assumption
    | with_reducible apply State.abandonWrite_keeps
    | with_reducible apply State.resetStream_keeps
    | ((fail_if_no_progress extract_lets +onlyGivenNames x); refine (fun (hx : Keeps s x) => ?_) ?_; on_goal 2 => unfold x; on_goal 1 => clear_value x)
    | with_reducible refine Keeps.ite ?_ ?_

theorem State.writeBarReg_keeps {s t : State} (h : Keeps s t) (n : Fin 32) (off : Nat) (w : Word) :
    Keeps s (State.writeBarReg t n off w) := by
  unfold State.writeBarReg
  repeat' first
    | with_reducible assumption
    | with_reducible apply State.writeFpeCtl_keeps
    | with_reducible apply State.killLatchClear_keeps
    | with_reducible apply State.plain_keeps
    | with_reducible apply State.setReg_keeps
    | with_reducible apply State.pagePush_keeps
    | with_reducible apply State.spareLane_keeps
    | with_reducible apply State.flushNst_keeps
    | with_reducible apply State.writeRspCtl_keeps
    | with_reducible apply State.watchLines_keeps
    | ((fail_if_no_progress extract_lets +onlyGivenNames x); refine (fun (hx : Keeps s x) => ?_) ?_; on_goal 2 => unfold x; on_goal 1 => clear_value x)
    | with_reducible refine Keeps.ite ?_ ?_
    | (intro y hy)

theorem State.writeBar_keeps {s t : State} (h : Keeps s t) (m : Master) (n : Fin 32) (off : Nat) (w : Word) :
    Keeps s (State.writeBar t m n off w) := by
  unfold State.writeBar
  repeat' first
    | with_reducible assumption
    | with_reducible apply State.barShadowWrite_keeps
    | with_reducible apply State.updLo_keeps
    | with_reducible apply State.updHi_keeps
    | with_reducible apply State.writeBarReg_keeps
    | split

theorem State.regWrite_keeps {s t : State} (h : Keeps s t) (m : Master) (off : Nat) (w : Word) :
    Keeps s (State.regWrite t m off w) := by
  unfold State.regWrite
  repeat' first
    | with_reducible assumption
    | with_reducible apply State.writeSys_keeps
    | with_reducible apply State.writePwr_keeps
    | with_reducible apply State.writeClk_keeps
    | with_reducible apply State.otpWrite_keeps
    | with_reducible apply State.plain_keeps
    | with_reducible apply State.writeDma_keeps
    | with_reducible apply State.writePos_keeps
    | with_reducible apply State.writeXpt_keeps
    | with_reducible apply State.writeThm_keeps
    | with_reducible apply State.writeCal_keeps
    | with_reducible apply State.writeCam_keeps
    | with_reducible apply State.writeIns_keeps
    | with_reducible apply State.writeSeq_keeps
    | with_reducible apply State.writeMem_keeps
    | with_reducible apply State.writeGrid_keeps
    | with_reducible apply State.writeBar_keeps
    | with_reducible refine Keeps.ite ?_ ?_
    | split

end Sys2Proof.Machine
end

