-- ==== Sys2Proof/Laws/Keeps/Bus.lean ====
section
/-!
SUPPORT. What every operation of Machine/Bus.lean keeps (Laws/Keeps.lean).
-/

namespace Sys2Proof.Machine

theorem State.clearRead_keeps {s t : State} (h : Keeps s t) (off : Nat) :
    Keeps s (State.clearRead t off) := by
  unfold State.clearRead
  repeat' first
    | with_reducible assumption
    | with_reducible apply State.modBank_keeps
    | with_reducible apply State.setReg_keeps
    | ((fail_if_no_progress extract_lets +onlyGivenNames x); clear_value x)
    | with_reducible refine Keeps.ite ?_ ?_
    | split

theorem State.missed_keeps {s t : State} (h : Keeps s t) (off : Nat) :
    Keeps s (State.missed t off) := by
  unfold State.missed
  repeat' first
    | with_reducible assumption
    | with_reducible apply State.unpowered_keeps
    | with_reducible refine Keeps.ite ?_ ?_

theorem State.setWindowHeld_keeps {s t : State} (h : Keeps s t) (verdict : Bool) (h0 : Cells HeldHalf) :
    Keeps s (State.setWindowHeld t verdict h0) := by
  unfold State.setWindowHeld
  repeat' first
    | with_reducible assumption
    | ((fail_if_no_progress extract_lets +onlyGivenNames x); clear_value x)
    | with_reducible refine Keeps.ite ?_ ?_
    | with_reducible refine Keeps.mk' ?_

theorem State.windowPop_keeps {s t : State} (h : Keeps s t) (verdict : Bool) :
    Keeps s (State.windowPop t verdict).1 := by
  unfold State.windowPop
  repeat' first
    | with_reducible assumption
    | with_reducible apply State.vfPop_keeps
    | with_reducible apply State.replayOn_keeps
    | with_reducible apply State.etPop_keeps
    | split

theorem State.windowRead_keeps {s t : State} (h : Keeps s t) (m : Master) (verdict : Bool) (off : Nat) :
    Keeps s (State.windowRead t m verdict off).1 := by
  unfold State.windowRead
  repeat' first
    | with_reducible assumption
    | with_reducible apply State.replayOn_keeps
    | with_reducible apply State.readCells_keeps
    | with_reducible apply State.setWindowHeld_keeps
    | with_reducible apply State.windowPop_keeps
    | ((fail_if_no_progress extract_lets +onlyGivenNames x); refine (fun (hx : Keeps s x) => ?_) ?_; on_goal 2 => unfold x; on_goal 1 => clear_value x)
    | ((fail_if_no_progress extract_lets +onlyGivenNames x); clear_value x)
    | with_reducible refine Keeps.ite ?_ ?_
    | split

theorem State.regRead_keeps {s t : State} (h : Keeps s t) (m : Master) (off : Nat) :
    Keeps s (State.regRead t m off).1 := by
  unfold State.regRead
  repeat' first
    | with_reducible assumption
    | with_reducible apply State.windowRead_keeps
    | with_reducible apply State.tblAccess_keeps
    | with_reducible apply State.cciPop_keeps
    | with_reducible apply State.readCells_keeps
    | with_reducible apply State.clearRead_keeps
    | with_reducible apply State.takeSnap_keeps
    | ((fail_if_no_progress extract_lets +onlyGivenNames x); refine (fun (hx : Keeps s x) => ?_) ?_; on_goal 2 => unfold x; on_goal 1 => clear_value x)
    | ((fail_if_no_progress extract_lets +onlyGivenNames x); clear_value x)
    | split

theorem State.regsRead_keeps {s t : State} (h : Keeps s t) (m : Master) (off : Nat) (n : Nat) :
    Keeps s (State.regsRead t m off n).1 := by
  unfold State.regsRead
  repeat' first
    | with_reducible assumption
    | with_reducible apply State.missed_keeps
    | with_reducible apply State.regRead_keeps
    | with_reducible apply State.replayOn_keeps
    | with_reducible apply State.windowPop_keeps
    | with_reducible apply State.readCells_keeps
    | ((fail_if_no_progress extract_lets +onlyGivenNames x); refine (fun (hx : Keeps s x.1) => ?_) ?_; on_goal 2 => unfold x; on_goal 1 => clear_value x)
    | with_reducible refine Keeps.ite ?_ ?_
    | split

theorem State.regsWrite_keeps {s t : State} (h : Keeps s t) (m : Master) (off : Nat) (bs : List Byte) :
    Keeps s (State.regsWrite t m off bs) := by
  unfold State.regsWrite
  repeat' first
    | with_reducible assumption
    | with_reducible apply State.missed_keeps
    | with_reducible apply State.regWrite_keeps
    | ((fail_if_no_progress extract_lets +onlyGivenNames x); refine (fun (hx : Keeps s x) => ?_) ?_; on_goal 2 => unfold x; on_goal 1 => clear_value x)
    | ((fail_if_no_progress extract_lets +onlyGivenNames x); clear_value x)
    | with_reducible refine Keeps.ite ?_ ?_

theorem State.regsWriteSome_keeps {s t : State} (h : Keeps s t) (m : Master) (off : Nat) (bs : List (Option Byte)) :
    Keeps s (State.regsWriteSome t m off bs) := by
  unfold State.regsWriteSome
  repeat' first
    | with_reducible assumption
    | with_reducible apply State.regsWrite_keeps
    | with_reducible apply State.missed_keeps
    | with_reducible apply State.regWrite_keeps
    | with_reducible refine Keeps.foldl _ (fun x a hx => ?_) ?_
    | ((fail_if_no_progress extract_lets +onlyGivenNames x); clear_value x)
    | with_reducible refine Keeps.ite ?_ ?_

theorem State.runRead_keeps {s t : State} (h : Keeps s t) (m : Master) (wide : Bool) (a : Nat) (n : Nat) :
    Keeps s (State.runRead t m wide a n).1 := by
  unfold State.runRead
  repeat' first
    | with_reducible assumption
    | with_reducible apply State.regsRead_keeps
    | with_reducible refine Keeps.foldlFst _ (fun x a hx => ?_) ?_

theorem State.runWrite_keeps {s t : State} (h : Keeps s t) (m : Master) (wide : Bool) (a : Nat) (bs : List (Option Byte)) :
    Keeps s (State.runWrite t m wide a bs) := by
  unfold State.runWrite
  repeat' first
    | with_reducible assumption
    | with_reducible apply State.regsWriteSome_keeps
    | with_reducible refine Keeps.foldl _ (fun x a hx => ?_) ?_

theorem execRcRead_keeps {s t : State} (h : Keeps s t) (m : Master) (reg : Fin 4194304) :
    ∃ u, (execRcRead m reg t) = .next u ∧ Keeps s u := by
  unfold execRcRead
  repeat' first
    | with_reducible assumption
    | with_reducible apply State.regsRead_keeps
    | with_reducible apply State.answer_keeps
    | with_reducible refine ⟨_, rfl, ?_⟩

theorem execSnapshotRead_keeps {s t : State} (h : Keeps s t) (m : Master) (which : Fin 5) :
    ∃ u, (execSnapshotRead m which t) = .next u ∧ Keeps s u := by
  unfold execSnapshotRead
  repeat' first
    | with_reducible assumption
    | with_reducible apply State.regsRead_keeps
    | with_reducible apply State.answer_keeps
    | with_reducible refine ⟨_, rfl, ?_⟩

end Sys2Proof.Machine
end

