-- ==== Sys2Proof/Laws/Keeps/Outputs.lean ====
section
/-!
SUPPORT. What every operation of Machine/Outputs.lean keeps (Laws/Keeps.lean).
-/

namespace Sys2Proof.Machine

theorem State.cmdRefused_keeps {s t : State} (h : Keeps s t) (j : Fin 4) (unit : Nat) (op : Nat) (st : Status) :
    Keeps s (State.cmdRefused t j unit op st) := by
  unfold State.cmdRefused
  repeat' first
    | with_reducible assumption
    | with_reducible apply State.setCause_keeps
    | with_reducible apply State.put_keeps

theorem State.cmdBars_keeps {s t : State} (h : Keeps s t) (j : Fin 4) (op : Nat) (mask : Word) (f : State → Fin 32 → State) (hf : ∀ y0 x, Keeps s x → Keeps s (f x y0)) :
    Keeps s (State.cmdBars t j op mask f) := by
  unfold State.cmdBars
  repeat' first
    | with_reducible assumption
    | with_reducible apply hf
    | with_reducible apply State.cmdRefused_keeps
    | with_reducible refine Keeps.foldl _ (fun x a hx => ?_) ?_
    | ((fail_if_no_progress extract_lets +onlyGivenNames x); refine (fun (hx : Keeps s x) => ?_) ?_; on_goal 2 => unfold x; on_goal 1 => clear_value x)
    | ((fail_if_no_progress extract_lets +onlyGivenNames x); clear_value x)
    | with_reducible refine Keeps.ite ?_ ?_

theorem State.cmdCmpArm_keeps {s t : State} (h : Keeps s t) (j : Fin 4) (w : Fin 4) (mode : Nat) (src : Bool) (trig : Bool) (cam : Fin 4) (target : BitVec 48) :
    Keeps s (State.cmdCmpArm t j w mode src trig cam target) := by
  unfold State.cmdCmpArm
  repeat' first
    | with_reducible assumption
    | with_reducible apply State.cmdRefused_keeps
    | with_reducible apply State.watchArm_keeps
    | with_reducible apply State.put48_keeps
    | with_reducible apply State.putb_keeps
    | with_reducible apply State.put_keeps
    | ((fail_if_no_progress extract_lets +onlyGivenNames x); clear_value x)
    | with_reducible refine Keeps.ite ?_ ?_
    | (intro y hy)

theorem State.cmdEvtRaise_keeps {s t : State} (h : Keeps s t) (k : Nat) :
    Keeps s (State.cmdEvtRaise t k) := by
  unfold State.cmdEvtRaise
  repeat' first
    | with_reducible assumption
    | with_reducible apply State.raiseEvent_keeps

theorem State.cmdFpeArm_keeps {s t : State} (h : Keeps s t) (j : Fin 4) (mask : Word) :
    Keeps s (State.cmdFpeArm t j mask) := by
  unfold State.cmdFpeArm
  repeat' first
    | with_reducible assumption
    | with_reducible apply State.cmdBars_keeps
    | with_reducible apply State.startBarCheck_keeps
    | (intro y z hz)

theorem State.cmdGridGarm_keeps {s t : State} (h : Keeps s t) (bar : Fin 32) (force : Bool) (line : Word) :
    Keeps s (State.cmdGridGarm t bar force line) := by
  unfold State.cmdGridGarm
  repeat' first
    | with_reducible assumption
    | with_reducible apply State.put_keeps
    | with_reducible apply State.startGridCheck_keeps
    | with_reducible apply State.putb_keeps
    | with_reducible refine Keeps.ite ?_ ?_

theorem State.cmdInsAreq_keeps {s t : State} (h : Keeps s t) (j : Fin 4) (w0 : Word) (ovl : BitVec 7) :
    Keeps s (State.cmdInsAreq t j w0 ovl) := by
  unfold State.cmdInsAreq
  repeat' first
    | with_reducible assumption
    | with_reducible apply State.pushAreq_keeps
    | with_reducible apply State.cmdRefused_keeps
    | with_reducible refine Keeps.ite ?_ ?_

theorem State.cmdNstPush_keeps {s t : State} (h : Keeps s t) (j : Fin 4) (n : Fin 32) (w : DWord) :
    Keeps s (State.cmdNstPush t j n w) := by
  unfold State.cmdNstPush
  repeat' first
    | with_reducible assumption
    | with_reducible apply State.pushUpd_keeps
    | with_reducible apply State.cmdRefused_keeps
    | with_reducible refine Keeps.ite ?_ ?_

theorem State.cmdPairHalt_keeps {s t : State} (h : Keeps s t) (j : Fin 4) (pair : Fin 4) :
    Keeps s (State.cmdPairHalt t j pair) := by
  unfold State.cmdPairHalt
  repeat' first
    | with_reducible assumption
    | with_reducible apply State.haltRequest_keeps
    | with_reducible apply State.cmdRefused_keeps
    | with_reducible refine Keeps.ite ?_ ?_

theorem State.cmdPairStart_keeps {s t : State} (h : Keeps s t) (j : Fin 4) (pair : Fin 4) (entry : Word) :
    Keeps s (State.cmdPairStart t j pair entry) := by
  unfold State.cmdPairStart
  repeat' first
    | with_reducible assumption
    | with_reducible apply State.cmdRefused_keeps
    | with_reducible apply State.unlessHeld_keeps
    | with_reducible apply State.startPairAt_keeps
    | with_reducible apply State.setReg_keeps
    | with_reducible refine Keeps.ite ?_ ?_
    | (intro y hy)

theorem State.cmdRspAbandon_keeps {s t : State} (h : Keeps s t) (j : Fin 4) (mask : Word) :
    Keeps s (State.cmdRspAbandon t j mask) := by
  unfold State.cmdRspAbandon
  repeat' first
    | with_reducible assumption
    | with_reducible apply State.cmdBars_keeps
    | with_reducible apply State.abandonWrite_keeps
    | (intro y z hz)

theorem State.cmdWdKick_keeps {s t : State} (h : Keeps s t) (j : Fin 4) :
    Keeps s (State.cmdWdKick t j) := by
  unfold State.cmdWdKick
  repeat' first
    | with_reducible assumption
    | with_reducible apply State.kick_keeps
    | with_reducible apply State.cmdRefused_keeps
    | with_reducible refine Keeps.ite ?_ ?_

theorem State.runCommand_keeps {s t : State} (h : Keeps s t) (j : Fin 4) (w : DWord) :
    Keeps s (State.runCommand t j w) := by
  unfold State.runCommand
  repeat' first
    | with_reducible assumption
    | with_reducible apply State.cmdRefused_keeps
    | with_reducible apply State.cmdEvtRaise_keeps
    | with_reducible apply State.cmdWdKick_keeps
    | with_reducible apply State.cmdPairHalt_keeps
    | with_reducible apply State.cmdPairStart_keeps
    | with_reducible apply State.cmdFpeArm_keeps
    | with_reducible apply State.cmdRspAbandon_keeps
    | with_reducible apply State.cmdNstPush_keeps
    | with_reducible apply State.cmdCmpArm_keeps
    | with_reducible apply State.cmdInsAreq_keeps
    | with_reducible apply State.cmdGridGarm_keeps
    | ((fail_if_no_progress extract_lets +onlyGivenNames x); refine (fun (hx : Keeps s x) => ?_) ?_; on_goal 2 => unfold x; on_goal 1 => clear_value x)
    | ((fail_if_no_progress extract_lets +onlyGivenNames x); clear_value x)
    | with_reducible refine Keeps.ite ?_ ?_

theorem State.deliver_keeps {s t : State} (h : Keeps s t) (j : Fin 4) (o : Output) :
    Keeps s (State.deliver t j o) := by
  unfold State.deliver
  repeat' first
    | with_reducible assumption
    | with_reducible apply State.releaseSlot_keeps
    | with_reducible apply State.regsWrite_keeps
    | with_reducible apply State.memWrite_keeps
    | with_reducible apply State.runCommand_keeps
    | ((fail_if_no_progress extract_lets +onlyGivenNames x); refine (fun (hx : Keeps s x) => ?_) ?_; on_goal 2 => unfold x; on_goal 1 => clear_value x)
    | with_reducible refine Keeps.ite ?_ ?_
    | split

theorem State.outError_keeps {s t : State} (h : Keeps s t) (j : Fin 4) (o : Output) :
    Keeps s (State.outError t j o) := by
  unfold State.outError
  repeat' first
    | with_reducible assumption
    | with_reducible apply State.setCause_keeps
    | with_reducible apply State.put_keeps
    | with_reducible apply State.releaseSlot_keeps
    | with_reducible apply State.deliver_keeps
    | split

theorem State.deliverOne_keeps {s t : State} (h : Keeps s t) (j : Fin 4) (bad : Bool) :
    Keeps s (State.deliverOne t j bad) := by
  unfold State.deliverOne
  repeat' first
    | with_reducible assumption
    | with_reducible apply State.modPair_keeps
    | with_reducible apply State.outError_keeps
    | with_reducible apply State.deliver_keeps
    | ((fail_if_no_progress extract_lets +onlyGivenNames x); refine (fun (hx : Keeps s x) => ?_) ?_; on_goal 2 => unfold x; on_goal 1 => clear_value x)
    | with_reducible refine Keeps.ite ?_ ?_
    | split

theorem State.deliverN_keeps {s t : State} (h : Keeps s t) (j : Fin 4) (bad : Nat → Bool) (n : Nat) :
    Keeps s (State.deliverN t j bad n) := by
  unfold State.deliverN
  repeat' first
    | with_reducible assumption
    | with_reducible apply State.deliverOne_keeps
    | with_reducible refine Keeps.foldl _ (fun x a hx => ?_) ?_

end Sys2Proof.Machine
end

