-- ==== Sys2Proof/Laws/Keeps/KStep.lean ====
section
/-!
SUPPORT. What every operation of Machine/KStep.lean keeps (Laws/Keeps.lean).
-/

namespace Sys2Proof.Machine

theorem State.trapped_keeps {s t : State} (h : Keeps s t) (j : Fin 4) (t0 : Trap) (addr : Nat) :
    Keeps s (State.trapped t j t0 addr) := by
  unfold State.trapped
  repeat' first
    | with_reducible assumption
    | with_reducible apply State.trap_keeps
    | with_reducible apply State.modPair_keeps
    | with_reducible apply State.stopHere_keeps
    | ((fail_if_no_progress extract_lets +onlyGivenNames x); refine (fun (hx : Keeps s x) => ?_) ?_; on_goal 2 => unfold x; on_goal 1 => clear_value x)
    | with_reducible refine Keeps.ite ?_ ?_

theorem State.retire_keeps {s t : State} (h : Keeps s t) (j : Fin 4) (pc : Nat) :
    Keeps s (State.retire t j pc) := by
  unfold State.retire
  repeat' first
    | with_reducible assumption
    | with_reducible apply State.modPair_keeps
    | with_reducible apply State.stopHere_keeps
    | ((fail_if_no_progress extract_lets +onlyGivenNames x); refine (fun (hx : Keeps s x) => ?_) ?_; on_goal 2 => unfold x; on_goal 1 => clear_value x)
    | with_reducible refine Keeps.ite ?_ ?_

theorem State.retireWith_keeps {s t : State} (h : Keeps s t) (j : Fin 4) (f : Pair → Pair) :
    Keeps s (State.retireWith t j f) := by
  unfold State.retireWith
  repeat' first
    | with_reducible assumption
    | with_reducible apply State.retire_keeps
    | with_reducible apply State.modPair_keeps

theorem State.closeFor_keeps {s t : State} (h : Keeps s t) (j : Fin 4) :
    Keeps s (State.closeFor t j) := by
  unfold State.closeFor
  repeat' first
    | with_reducible assumption
    | with_reducible apply State.modPair_keeps

theorem State.whenSettled_keeps {s t : State} (h : Keeps s t) (j : Fin 4) (f : State → State) (hf : ∀ x, Keeps s x → Keeps s (f x)) :
    Keeps s (State.whenSettled t j f) := by
  unfold State.whenSettled
  repeat' first
    | with_reducible assumption
    | with_reducible apply hf
    | with_reducible apply State.closeFor_keeps
    | with_reducible refine Keeps.ite ?_ ?_

theorem State.unitAccess_keeps {s t : State} (h : Keeps s t) (j : Fin 4) (f : State → State × List Byte × Bool) (g : Pair → List Byte → Pair) (addr : Nat) (ans : TargetAnswer) (hf : ∀ x, Keeps s x → Keeps s (f x).1) :
    Keeps s (State.unitAccess t j f g addr ans) := by
  unfold State.unitAccess
  repeat' first
    | with_reducible assumption
    | with_reducible apply hf
    | with_reducible apply State.retireWith_keeps
    | with_reducible apply State.whenSettled_keeps
    | with_reducible apply State.trapped_keeps
    | ((fail_if_no_progress extract_lets +onlyGivenNames x); refine (fun (hx : Keeps s x.1) => ?_) ?_; on_goal 2 => unfold x; on_goal 1 => clear_value x)
    | with_reducible refine Keeps.ite ?_ ?_
    | split
    | (intro y hy)

theorem State.atomic_keeps {s t : State} (h : Keeps s t) (j : Fin 4) (rd : Fin 16) (rs1 : Fin 16) (f : Word → Word) (ans : TargetAnswer) :
    Keeps s (State.atomic t j rd rs1 f ans) := by
  unfold State.atomic
  repeat' first
    | with_reducible assumption
    | with_reducible apply State.trapped_keeps
    | with_reducible apply State.unitAccess_keeps
    | with_reducible apply State.memRead_keeps
    | with_reducible apply State.memWrite_keeps
    | ((fail_if_no_progress extract_lets +onlyGivenNames x); refine (fun (hx : Keeps s x.1) => ?_) ?_; on_goal 2 => unfold x; on_goal 1 => clear_value x)
    | ((fail_if_no_progress extract_lets +onlyGivenNames x); clear_value x)
    | with_reducible refine Keeps.ite ?_ ?_
    | split
    | (intro y hy)

theorem State.quadRead_keeps {s t : State} (h : Keeps s t) (m : Master) (off : Nat) (n : Nat) (ans : TargetAnswer) :
    Keeps s (State.quadRead t m off n ans).1 := by
  unfold State.quadRead
  repeat' first
    | with_reducible assumption
    | with_reducible apply State.memRead_keeps
    | with_reducible apply State.memWrite_keeps
    | ((fail_if_no_progress extract_lets +onlyGivenNames x); refine (fun (hx : Keeps s x) => ?_) ?_; on_goal 2 => unfold x; on_goal 1 => clear_value x)
    | ((fail_if_no_progress extract_lets +onlyGivenNames x); refine (fun (hx : Keeps s x.1) => ?_) ?_; on_goal 2 => unfold x; on_goal 1 => clear_value x)
    | ((fail_if_no_progress extract_lets +onlyGivenNames x); clear_value x)
    | split

theorem State.fabricLoad_keeps {s t : State} (h : Keeps s t) (j : Fin 4) (op : Load) (rt : Fin 16) (a : Nat)
    (r : State × List Byte × Bool) (ans : TargetAnswer) (hr : Keeps s r.1) :
    Keeps s (State.fabricLoad t j op rt a r ans) := by
  unfold State.fabricLoad
  exact Keeps.ite (State.trapped_keeps hr _ _ _)
    (Keeps.ite (State.trapped_keeps h _ _ _) (State.retireWith_keeps hr _ _))


theorem State.load_keeps {s t : State} (h : Keeps s t) (j : Fin 4) (op : Load) (rt : Fin 16) (rb : Fin 16) (off : BitVec 12) (ans : TargetAnswer) :
    Keeps s (State.load t j op rt rb off ans) := by
  unfold State.load
  repeat' first
    | with_reducible assumption
    | with_reducible apply State.trapped_keeps
    | with_reducible apply State.unitAccess_keeps
    | with_reducible apply State.regsRead_keeps
    | with_reducible apply State.readErrs_keeps
    | with_reducible apply State.retireWith_keeps
    | with_reducible apply State.quadRead_keeps
    | with_reducible apply State.fabricLoad_keeps
    | with_reducible apply State.memRead_keeps
    | ((fail_if_no_progress extract_lets +onlyGivenNames x); refine (fun (hx : Keeps s x) => ?_) ?_; on_goal 2 => unfold x; on_goal 1 => clear_value x)
    | ((fail_if_no_progress extract_lets +onlyGivenNames x); refine (fun (hx : Keeps s x.1) => ?_) ?_; on_goal 2 => unfold x; on_goal 1 => clear_value x)
    | ((fail_if_no_progress extract_lets +onlyGivenNames x); clear_value x)
    | with_reducible refine Keeps.ite ?_ ?_
    | split
    | (intro y hy)

theorem State.output_keeps {s t : State} (h : Keeps s t) (j : Fin 4) (o : Output) :
    ∀ r, (State.output t j o) = some r → Keeps s r := by
  intro r hr
  unfold State.output at hr
  cases he : t.reserveSlot j o with
  | none => rw [he] at hr; cases hr
  | some u =>
    rw [he] at hr
    cases hr
    exact State.modPair_keeps (State.reserveSlot_keeps h _ _ _ he) _ _

theorem State.issueAll_keeps {s t : State} (h : Keeps s t) (j : Fin 4) (L : List Output) :
    Keeps s (State.issueAll t j L) := by
  induction L generalizing t with
  | nil => exact State.retireWith_keeps h _ _
  | cons o r ih =>
    unfold State.issueAll
    split
    · exact h
    · rename_i u he
      exact ih (State.output_keeps h _ _ _ he)

theorem State.outputs_keeps {s t : State} (h : Keeps s t) (j : Fin 4) (os : List Output) :
    Keeps s (State.outputs t j os) := by
  unfold State.outputs
  repeat' first
    | with_reducible assumption
    | with_reducible apply State.closeFor_keeps
    | with_reducible apply State.issueAll_keeps
    | with_reducible refine Keeps.ite ?_ ?_

theorem State.store_keeps {s t : State} (h : Keeps s t) (j : Fin 4) (op : Store) (rt : Fin 16) (rb : Fin 16) (off : BitVec 12) :
    Keeps s (State.store t j op rt rb off) := by
  unfold State.store
  repeat' first
    | with_reducible assumption
    | with_reducible apply State.trapped_keeps
    | with_reducible apply State.retireWith_keeps
    | with_reducible apply State.dmemStore_keeps
    | with_reducible apply State.outputs_keeps
    | ((fail_if_no_progress extract_lets +onlyGivenNames x); clear_value x)
    | split

theorem State.wait_keeps {s t : State} (h : Keeps s t) (j : Fin 4) (rd : Fin 16) (rs2 : Fin 16) (cond : WaitFor) :
    Keeps s (State.wait t j rd rs2 cond) := by
  unfold State.wait
  repeat' first
    | with_reducible assumption
    | with_reducible apply State.retireWith_keeps
    | with_reducible apply State.modPair_keeps
    | with_reducible apply State.closeFor_keeps
    | with_reducible apply State.finishWait_keeps
    | ((fail_if_no_progress extract_lets +onlyGivenNames x); refine (fun (hx : Keeps s x) => ?_) ?_; on_goal 2 => unfold x; on_goal 1 => clear_value x)
    | ((fail_if_no_progress extract_lets +onlyGivenNames x); clear_value x)
    | with_reducible refine Keeps.ite ?_ ?_
    | split

theorem State.perform_keeps {s t : State} (h : Keeps s t) (j : Fin 4) (i : KInstr) (ans : TargetAnswer) :
    Keeps s (State.perform t j i ans) := by
  unfold State.perform
  repeat' first
    | with_reducible assumption
    | with_reducible apply State.retireWith_keeps
    | with_reducible apply State.load_keeps
    | with_reducible apply State.store_keeps
    | with_reducible apply State.atomic_keeps
    | with_reducible apply State.retire_keeps
    | with_reducible apply State.modPair_keeps
    | with_reducible apply State.outputs_keeps
    | with_reducible apply State.wait_keeps
    | with_reducible apply State.trapped_keeps
    | with_reducible apply State.whenSettled_keeps
    | ((fail_if_no_progress extract_lets +onlyGivenNames x); clear_value x)
    | with_reducible refine Keeps.ite ?_ ?_
    | split
    | (intro y hy)

theorem State.executeK_keeps {s t : State} (h : Keeps s t) (j : Fin 4) (i : Option KInstr) (ans : TargetAnswer) :
    Keeps s (State.executeK t j i ans) := by
  unfold State.executeK
  repeat' first
    | with_reducible assumption
    | with_reducible apply State.stopHere_keeps
    | with_reducible apply State.modPair_keeps
    | with_reducible apply State.trapped_keeps
    | with_reducible apply State.readErrs_keeps
    | with_reducible apply State.perform_keeps
    | ((fail_if_no_progress extract_lets +onlyGivenNames x); refine (fun (hx : Keeps s x) => ?_) ?_; on_goal 2 => unfold x; on_goal 1 => clear_value x)
    | ((fail_if_no_progress extract_lets +onlyGivenNames x); clear_value x)
    | with_reducible refine Keeps.ite ?_ ?_
    | split

theorem State.runK_keeps {s t : State} (h : Keeps s t) (j : Fin 4) (i : Option KInstr) (ans : optParam TargetAnswer TargetAnswer.data) :
    Keeps s (State.runK t j i ans) := by
  unfold State.runK
  repeat' first
    | with_reducible assumption
    | with_reducible apply State.executeK_keeps
    | with_reducible refine Keeps.ite ?_ ?_

theorem State.stepPair_keeps {s t : State} (h : Keeps s t) (j : Fin 4) :
    Keeps s (State.stepPair t j) := by
  unfold State.stepPair
  repeat' first
    | with_reducible assumption
    | with_reducible apply State.modPair_keeps
    | with_reducible apply State.put_keeps
    | with_reducible apply State.executeK_keeps
    | ((fail_if_no_progress extract_lets +onlyGivenNames x); refine (fun (hx : Keeps s x) => ?_) ?_; on_goal 2 => unfold x; on_goal 1 => clear_value x)
    | with_reducible refine Keeps.ite ?_ ?_

theorem State.runSteps_keeps {s t : State} (h : Keeps s t)  :
    Keeps s (State.runSteps t) := by
  unfold State.runSteps
  repeat' first
    | with_reducible assumption
    | with_reducible apply State.stepPair_keeps
    | with_reducible refine Keeps.foldl _ (fun x a hx => ?_) ?_

theorem execCheckpointClose_keeps {s t : State} (h : Keeps s t) (j : Fin 4) :
    ∃ u, (execCheckpointClose j t) = .next u ∧ Keeps s u := by
  unfold execCheckpointClose
  repeat' first
    | with_reducible assumption
    | with_reducible apply State.modPair_keeps
    | with_reducible refine ⟨_, rfl, ?_⟩
    | split

theorem execOutputDelivery_keeps {s t : State} (h : Keeps s t) (j : Fin 4) (bad : Option (Fin 32)) (n : optParam (Fin 33) 1) :
    ∃ u, (execOutputDelivery j bad t n) = .next u ∧ Keeps s u := by
  unfold execOutputDelivery
  repeat' first
    | with_reducible assumption
    | with_reducible apply State.runSteps_keeps
    | with_reducible apply State.deliverN_keeps
    | with_reducible refine ⟨_, rfl, ?_⟩
    | split

theorem execSeqStep_keeps {s t : State} (h : Keeps s t) (j : Fin 4) :
    ∃ u, (execSeqStep j t) = .next u ∧ Keeps s u := by
  unfold execSeqStep
  repeat' first
    | with_reducible assumption
    | with_reducible apply State.runSteps_keeps
    | with_reducible apply State.atBlock_keeps
    | with_reducible apply State.stepRequest_keeps
    | with_reducible refine ⟨_, rfl, ?_⟩
    | (intro y hy)

end Sys2Proof.Machine
end

