-- ==== Sys2Proof/Laws/Keeps/Dma.lean ====
section
/-!
SUPPORT. What every operation of Machine/Dma.lean keeps (Laws/Keeps.lean).
-/

namespace Sys2Proof.Machine

theorem State.spend_keeps {s t : State} (h : Keeps s t) (c : Fin 48) (n : Nat) :
    Keeps s (State.spend t c n) := by
  unfold State.spend
  repeat' first
    | with_reducible assumption
    | with_reducible apply State.modDch_keeps
    | with_reducible refine Keeps.ite ?_ ?_

theorem State.landOrdered_keeps {s t : State} (h : Keeps s t) (c : Fin 48) (d : Desc) (n : Nat) :
    Keeps s (State.landOrdered t c d n) := by
  unfold State.landOrdered
  repeat' first
    | with_reducible assumption
    | with_reducible apply State.spend_keeps
    | with_reducible apply State.sendLink_keeps
    | with_reducible apply State.regsWrite_keeps
    | with_reducible apply State.landedBytes_keeps
    | with_reducible apply State.modDch_keeps
    | split

theorem State.land_keeps {s t : State} (h : Keeps s t) (c : Fin 48) (d : Desc) (off : Nat) (bs : List Byte) :
    Keeps s (State.land t c d off bs) := by
  unfold State.land
  repeat' first
    | with_reducible assumption
    | with_reducible apply State.landedBytes_keeps
    | with_reducible apply State.memWrite_keeps
    | with_reducible apply State.watchLines_keeps
    | with_reducible apply State.landRaster_keeps
    | with_reducible apply State.modDch_keeps
    | ((fail_if_no_progress extract_lets +onlyGivenNames x); clear_value x)
    | with_reducible refine Keeps.ite ?_ ?_
    | split
    | (intro y hy)

theorem State.storeFails_keeps {s t : State} (h : Keeps s t) (c : Fin 48) (r : DmaRead) :
    Keeps s (State.storeFails t c r) := by
  unfold State.storeFails
  repeat' first
    | with_reducible assumption
    | with_reducible apply State.draw_keeps
    | with_reducible apply State.readFails_keeps

theorem State.storeRead_keeps {s t : State} (h : Keeps s t) (c : Fin 48) (f : CamFrame) (n : Nat) :
    Keeps s (State.storeRead t c f n) := by
  unfold State.storeRead
  repeat' first
    | with_reducible assumption
    | with_reducible apply State.readCells_keeps

theorem State.serve_keeps {s t : State} (h : Keeps s t) (c : Fin 48) (d : Desc) (t0 : DmaTurn) :
    Keeps s (State.serve t c d t0) := by
  unfold State.serve
  repeat' first
    | with_reducible assumption
    | with_reducible apply State.writeBack_keeps
    | with_reducible apply State.fetchBegin_keeps
    | with_reducible apply State.landOrdered_keeps
    | with_reducible apply State.modDch_keeps
    | with_reducible apply State.sendLink_keeps
    | with_reducible apply State.spend_keeps
    | with_reducible apply State.regsRead_keeps
    | with_reducible apply State.land_keeps
    | with_reducible apply State.storeFails_keeps
    | with_reducible apply State.storeRead_keeps
    | with_reducible apply State.modCam_keeps
    | with_reducible apply State.freeStore_keeps
    | ((fail_if_no_progress extract_lets +onlyGivenNames x); refine (fun (hx : Keeps s x) => ?_) ?_; on_goal 2 => unfold x; on_goal 1 => clear_value x)
    | ((fail_if_no_progress extract_lets +onlyGivenNames x); clear_value x)
    | with_reducible refine Keeps.ite ?_ ?_
    | split

theorem State.turnPast_keeps {s t : State} (h : Keeps s t) (c : Fin 48) :
    Keeps s (State.turnPast t c) := by
  unfold State.turnPast
  repeat' first
    | with_reducible assumption
    | split
    | with_reducible refine Keeps.mk' ?_

theorem State.dmaServe_keeps {s t : State} (h : Keeps s t)  :
    Keeps s (State.dmaServe t) := by
  unfold State.dmaServe
  repeat' first
    | with_reducible assumption
    | with_reducible apply State.serve_keeps
    | with_reducible apply State.turnPast_keeps
    | split

theorem State.logReadError_keeps {s t : State} (h : Keeps s t) (addr : Nat) (x0 : Completion) :
    Keeps s (State.logReadError t addr x0) := by
  unfold State.logReadError
  repeat' first
    | with_reducible assumption
    | with_reducible apply State.vlog_keeps
    | with_reducible apply State.orStatus_keeps
    | with_reducible apply State.reportError_keeps
    | ((fail_if_no_progress extract_lets +onlyGivenNames x); refine (fun (hx : Keeps s x) => ?_) ?_; on_goal 2 => unfold x; on_goal 1 => clear_value x)
    | split

theorem State.readLands_keeps {s t : State} (h : Keeps s t) (c : Fin 48) (r : DmaRead) (bs : List Byte) :
    Keeps s (State.readLands t c r bs) := by
  unfold State.readLands
  repeat' first
    | with_reducible assumption
    | with_reducible apply State.land_keeps
    | with_reducible refine Keeps.ite ?_ ?_
    | split

theorem execDescriptorFetch_keeps {s t : State} (h : Keeps s t) (c : Fin 48) (x0 : Completion) :
    ∃ u, (execDescriptorFetch c x0 t) = .next u ∧ Keeps s u := by
  unfold execDescriptorFetch
  repeat' first
    | with_reducible assumption
    | with_reducible apply State.memRead_keeps
    | with_reducible apply State.fetchReturn_keeps
    | with_reducible apply State.logReadError_keeps
    | with_reducible refine ⟨_, rfl, ?_⟩
    | ((fail_if_no_progress extract_lets +onlyGivenNames x); refine (fun (hx : Keeps s x.1) => ?_) ?_; on_goal 2 => unfold x; on_goal 1 => clear_value x)
    | split

theorem execDescriptorWriteback_keeps {s t : State} (h : Keeps s t) (c : Fin 48) :
    ∃ u, (execDescriptorWriteback c t) = .next u ∧ Keeps s u := by
  unfold execDescriptorWriteback
  repeat' first
    | with_reducible assumption
    | with_reducible apply State.writeBack_keeps
    | with_reducible apply State.turnPast_keeps
    | with_reducible refine ⟨_, rfl, ?_⟩
    | split

theorem execDmaRequestIssue_keeps {s t : State} (h : Keeps s t)  :
    ∃ u, (execDmaRequestIssue t) = .next u ∧ Keeps s u := by
  unfold execDmaRequestIssue
  repeat' first
    | with_reducible assumption
    | with_reducible apply State.runSteps_keeps
    | with_reducible apply State.dmaServe_keeps
    | with_reducible refine ⟨_, rfl, ?_⟩
    | split

theorem execReadCompletion_keeps {s t : State} (h : Keeps s t) (tag : Nat) (x0 : Completion) :
    ∃ u, (execReadCompletion tag x0 t) = .next u ∧ Keeps s u := by
  unfold execReadCompletion
  repeat' first
    | with_reducible assumption
    | with_reducible apply State.dropRead_keeps
    | with_reducible apply State.memRead_keeps
    | with_reducible apply State.readFails_keeps
    | with_reducible apply State.readLands_keeps
    | with_reducible apply State.logReadError_keeps
    | with_reducible apply State.reportError_keeps
    | with_reducible apply State.vlog_keeps
    | with_reducible refine ⟨_, rfl, ?_⟩
    | ((fail_if_no_progress extract_lets +onlyGivenNames x); refine (fun (hx : Keeps s x) => ?_) ?_; on_goal 2 => unfold x; on_goal 1 => clear_value x)
    | ((fail_if_no_progress extract_lets +onlyGivenNames x); refine (fun (hx : Keeps s x.1) => ?_) ?_; on_goal 2 => unfold x; on_goal 1 => clear_value x)
    | split

end Sys2Proof.Machine
end

