-- ==== Sys2Proof/Laws/Keeps/HostLink.lean ====
section
/-!
SUPPORT. What every operation of Machine/HostLink.lean keeps (Laws/Keeps.lean).
-/

namespace Sys2Proof.Machine

theorem State.capRead_keeps {s t : State} (h : Keeps s t) (c : CapReg) :
    Keeps s (State.capRead t c).1 := by
  unfold State.capRead
  repeat' first
    | with_reducible assumption
    | with_reducible apply State.draw_keeps
    | ((fail_if_no_progress extract_lets +onlyGivenNames x); clear_value x)
    | split

theorem State.cfgRead_keeps {s t : State} (h : Keeps s t) (r : CfgReg) :
    Keeps s (State.cfgRead t r).1 := by
  unfold State.cfgRead
  repeat' first
    | with_reducible assumption
    | with_reducible apply State.capRead_keeps
    | with_reducible apply State.draw_keeps
    | ((fail_if_no_progress extract_lets +onlyGivenNames x); clear_value x)
    | split

theorem State.sendHeld_keeps {s t : State} (h : Keeps s t) (v : Nat) :
    Keeps s (State.sendHeld t v) := by
  unfold State.sendHeld
  repeat' first
    | with_reducible assumption
    | with_reducible apply State.sendMsix_keeps
    | with_reducible apply State.put_keeps
    | with_reducible refine Keeps.ite ?_ ?_

theorem State.sendAllHeld_keeps {s t : State} (h : Keeps s t)  :
    Keeps s (State.sendAllHeld t) := by
  unfold State.sendAllHeld
  repeat' first
    | with_reducible assumption
    | with_reducible apply State.sendHeld_keeps
    | with_reducible refine Keeps.foldl _ (fun x a hx => ?_) ?_

theorem State.functionState_keeps {s t : State} (h : Keeps s t) (d3hot : Bool) (bme : Bool) :
    Keeps s (State.functionState t d3hot bme) := by
  unfold State.functionState
  repeat' first
    | with_reducible assumption
    | with_reducible apply State.putb_keeps
    | with_reducible apply State.sendAllHeld_keeps
    | with_reducible apply State.linkCause_keeps
    | with_reducible refine Keeps.ite ?_ ?_

theorem State.unlessD3_keeps {s t : State} (h : Keeps s t) (d3hot : Bool) (f : State → State) (hf : ∀ x, Keeps s x → Keeps s (f x)) :
    Keeps s (State.unlessD3 t d3hot f) := by
  unfold State.unlessD3
  repeat' first
    | with_reducible assumption
    | with_reducible apply State.unlessHeld_keeps

theorem State.cfgWrite_keeps {s t : State} (h : Keeps s t) (r : CfgReg) (w : Word) :
    Keeps s (State.cfgWrite t r w) := by
  unfold State.cfgWrite
  repeat' first
    | with_reducible assumption
    | with_reducible apply State.functionState_keeps
    | with_reducible apply State.unlessD3_keeps
    | with_reducible apply State.sendAllHeld_keeps
    | with_reducible apply State.putb_keeps
    | with_reducible apply State.writeCap_keeps
    | ((fail_if_no_progress extract_lets +onlyGivenNames x); refine (fun (hx : Keeps s x) => ?_) ?_; on_goal 2 => unfold x; on_goal 1 => clear_value x)
    | ((fail_if_no_progress extract_lets +onlyGivenNames x); clear_value x)
    | split
    | (intro y hy)
    | with_reducible refine Keeps.mk' ?_

theorem State.copy64_keeps {s t : State} (h : Keeps s t) (lo : Field) (hi : Field) (lo' : Field) (hi' : Field) :
    Keeps s (State.copy64 t lo hi lo' hi') := by
  unfold State.copy64
  repeat' first
    | with_reducible assumption
    | with_reducible apply State.put_keeps

theorem State.linkViolation_keeps {s t : State} (h : Keeps s t) (code : Nat) (addr : Nat) :
    Keeps s (State.linkViolation t code addr) := by
  unfold State.linkViolation
  repeat' first
    | with_reducible assumption
    | with_reducible apply State.vlog_keeps
    | with_reducible refine Keeps.ite ?_ ?_

theorem State.linkUnsupported_keeps {s t : State} (h : Keeps s t) (answers : Bool) (addr : Nat) :
    Keeps s (State.linkUnsupported t answers addr) := by
  unfold State.linkUnsupported
  repeat' first
    | with_reducible assumption
    | with_reducible apply State.reportError_keeps
    | with_reducible apply State.linkViolation_keeps
    | with_reducible apply State.answer_keeps
    | ((fail_if_no_progress extract_lets +onlyGivenNames x); refine (fun (hx : Keeps s x) => ?_) ?_; on_goal 2 => unfold x; on_goal 1 => clear_value x)
    | with_reducible refine Keeps.ite ?_ ?_

theorem State.put64_keeps {s t : State} (h : Keeps s t) (lo : Field) (hi : Field) (n : Nat) :
    Keeps s (State.put64 t lo hi n) := by
  unfold State.put64
  repeat' first
    | with_reducible assumption
    | with_reducible apply State.put_keeps

theorem State.ptmRecord_keeps {s t : State} (h : Keeps s t) (t1 : Nat) (master : DWord) (delay : Word) :
    Keeps s (State.ptmRecord t t1 master delay) := by
  unfold State.ptmRecord
  repeat' first
    | with_reducible assumption
    | with_reducible apply State.copy64_keeps
    | with_reducible apply State.put64_keeps
    | with_reducible apply State.put_keeps

theorem State.reloadBase_keeps {s t : State} (h : Keeps s t)  :
    Keeps s (State.reloadBase t) := by
  unfold State.reloadBase
  repeat' first
    | with_reducible assumption
    | with_reducible apply State.loadRlBase_keeps
    | with_reducible refine Keeps.ite ?_ ?_

theorem State.setLink_keeps {s t : State} (h : Keeps s t) (speed : Nat) (width : Nat) :
    Keeps s (State.setLink t speed width) := by
  unfold State.setLink
  repeat' first
    | with_reducible assumption
    | with_reducible apply State.put_keeps

theorem execConfigRequest_keeps {s t : State} (h : Keeps s t) (r : CfgReg) (write : Option Word) :
    ∃ u, (execConfigRequest r write t) = .next u ∧ Keeps s u := by
  unfold execConfigRequest
  repeat' first
    | with_reducible assumption
    | with_reducible apply State.answer_keeps
    | with_reducible apply State.cfgWrite_keeps
    | with_reducible apply State.cfgRead_keeps
    | with_reducible refine ⟨_, rfl, ?_⟩
    | ((fail_if_no_progress extract_lets +onlyGivenNames x); refine (fun (hx : Keeps s x.1) => ?_) ?_; on_goal 2 => unfold x; on_goal 1 => clear_value x)
    | split

theorem execDstateChange_keeps {s t : State} (h : Keeps s t) (d3hot : Bool) (bme : Bool) :
    ∃ u, (execDstateChange d3hot bme t) = .next u ∧ Keeps s u := by
  unfold execDstateChange
  repeat' first
    | with_reducible assumption
    | with_reducible apply State.unlessD3_keeps
    | with_reducible apply State.functionState_keeps
    | with_reducible refine ⟨_, rfl, ?_⟩
    | split
    | (intro y hy)

theorem execEvtPendClear_keeps {s t : State} (h : Keeps s t) (w : Fin 8) (mask : Word) :
    ∃ u, (execEvtPendClear w mask t) = .next u ∧ Keeps s u := by
  unfold execEvtPendClear
  repeat' first
    | with_reducible assumption
    | with_reducible apply State.atBlock_keeps
    | with_reducible apply State.setReg_keeps
    | with_reducible refine ⟨_, rfl, ?_⟩
    | (intro y hy)

theorem execLinkDown_keeps {s t : State} (h : Keeps s t)  :
    ∃ u, (execLinkDown t) = .next u ∧ Keeps s u := by
  unfold execLinkDown
  repeat' first
    | with_reducible assumption
    | with_reducible apply State.linkDown_keeps
    | with_reducible refine ⟨_, rfl, ?_⟩

theorem execLinkUp_keeps {s t : State} (h : Keeps s t) (speed : Fin 6) (width : Fin 17) :
    ∃ u, (execLinkUp speed width t) = .next u ∧ Keeps s u := by
  unfold execLinkUp
  repeat' first
    | with_reducible assumption
    | with_reducible apply State.bump_keeps
    | with_reducible apply State.setLink_keeps
    | with_reducible apply State.put_keeps
    | with_reducible apply State.sendAllHeld_keeps
    | with_reducible apply State.reloadBase_keeps
    | with_reducible apply State.linkCause_keeps
    | with_reducible refine ⟨_, rfl, ?_⟩
    | ((fail_if_no_progress extract_lets +onlyGivenNames x); refine (fun (hx : Keeps s x) => ?_) ?_; on_goal 2 => unfold x; on_goal 1 => clear_value x)
    | ((fail_if_no_progress extract_lets +onlyGivenNames x); clear_value x)
    | split
    | with_reducible refine Keeps.mk' ?_

theorem execMsixSend_keeps {s t : State} (h : Keeps s t) (v : Fin 64) :
    ∃ u, (execMsixSend v t) = .next u ∧ Keeps s u := by
  unfold execMsixSend
  repeat' first
    | with_reducible assumption
    | with_reducible apply State.sendHeld_keeps
    | with_reducible refine ⟨_, rfl, ?_⟩

theorem execPtmPeriod_keeps {s t : State} (h : Keeps s t)  :
    ∃ u, (execPtmPeriod t) = .next u ∧ Keeps s u := by
  unfold execPtmPeriod
  repeat' first
    | with_reducible assumption
    | with_reducible apply State.ptmRequest_keeps
    | with_reducible refine ⟨_, rfl, ?_⟩
    | ((fail_if_no_progress extract_lets +onlyGivenNames x); clear_value x)
    | split
    | with_reducible refine Keeps.mk' ?_

theorem execPtmResponse_keeps {s t : State} (h : Keeps s t) (data : Option (DWord × Word)) :
    ∃ u, (execPtmResponse data t) = .next u ∧ Keeps s u := by
  unfold execPtmResponse
  repeat' first
    | with_reducible assumption
    | with_reducible apply State.linkCause_keeps
    | with_reducible apply State.ptmRecord_keeps
    | with_reducible refine ⟨_, rfl, ?_⟩
    | ((fail_if_no_progress extract_lets +onlyGivenNames x); refine (fun (hx : Keeps s x) => ?_) ?_; on_goal 2 => unfold x; on_goal 1 => clear_value x)
    | ((fail_if_no_progress extract_lets +onlyGivenNames x); clear_value x)
    | split
    | with_reducible refine Keeps.mk' ?_

theorem execPtmTimeout_keeps {s t : State} (h : Keeps s t)  :
    ∃ u, (execPtmTimeout t) = .next u ∧ Keeps s u := by
  unfold execPtmTimeout
  repeat' first
    | with_reducible assumption
    | with_reducible apply State.linkCause_keeps
    | with_reducible refine ⟨_, rfl, ?_⟩
    | ((fail_if_no_progress extract_lets +onlyGivenNames x); clear_value x)
    | split
    | with_reducible refine Keeps.mk' ?_

theorem execPtmTrig_keeps {s t : State} (h : Keeps s t)  :
    ∃ u, (execPtmTrig t) = .next u ∧ Keeps s u := by
  unfold execPtmTrig
  repeat' first
    | with_reducible assumption
    | with_reducible apply State.atBlock_keeps
    | with_reducible apply State.ptmRequest_keeps
    | with_reducible refine ⟨_, rfl, ?_⟩

theorem execRetrain_keeps {s t : State} (h : Keeps s t) (speed : Fin 6) (width : Fin 17) :
    ∃ u, (execRetrain speed width t) = .next u ∧ Keeps s u := by
  unfold execRetrain
  repeat' first
    | with_reducible assumption
    | with_reducible apply State.linkCause_keeps
    | with_reducible apply State.setLink_keeps
    | with_reducible apply State.bump_keeps
    | with_reducible apply State.reloadBase_keeps
    | with_reducible refine ⟨_, rfl, ?_⟩
    | ((fail_if_no_progress extract_lets +onlyGivenNames x); refine (fun (hx : Keeps s x) => ?_) ?_; on_goal 2 => unfold x; on_goal 1 => clear_value x)
    | ((fail_if_no_progress extract_lets +onlyGivenNames x); clear_value x)
    | split

theorem execTlpViolation_keeps {s t : State} (h : Keeps s t) (t0 : TlpFault) :
    ∃ u, (execTlpViolation t0 t) = .next u ∧ Keeps s u := by
  unfold execTlpViolation
  repeat' first
    | with_reducible assumption
    | with_reducible apply State.reportError_keeps
    | with_reducible apply State.linkViolation_keeps
    | with_reducible apply State.linkUnsupported_keeps
    | with_reducible apply State.orStatus_keeps
    | with_reducible refine ⟨_, rfl, ?_⟩
    | split

end Sys2Proof.Machine
end

