-- ==== Sys2Proof/Laws/Keeps/Doors.lean ====
section
/-!
SUPPORT. What every operation of Machine/Doors.lean keeps (Laws/Keeps.lean).
-/

namespace Sys2Proof.Machine

theorem State.bar0_keeps {s t : State} (h : Keeps s t) (off : Nat) (n : Nat) (write : Option (List (Option Byte))) :
    Keeps s (State.bar0 t off n write) := by
  unfold State.bar0
  repeat' first
    | with_reducible assumption
    | with_reducible apply State.vlog_keeps
    | with_reducible apply State.regsRead_keeps
    | with_reducible apply State.answer_keeps
    | with_reducible apply State.regsWrite_keeps
    | ((fail_if_no_progress extract_lets +onlyGivenNames x); refine (fun (hx : Keeps s x.1) => ?_) ?_; on_goal 2 => unfold x; on_goal 1 => clear_value x)
    | ((fail_if_no_progress extract_lets +onlyGivenNames x); clear_value x)
    | with_reducible refine Keeps.ite ?_ ?_
    | split

theorem State.bar2_keeps {s t : State} (h : Keeps s t) (off : Nat) (n : Nat) (write : Option (List (Option Byte))) :
    Keeps s (State.bar2 t off n write) := by
  unfold State.bar2
  repeat' first
    | with_reducible assumption
    | with_reducible apply State.memRead_keeps
    | with_reducible apply State.answer_keeps
    | with_reducible apply State.memWrite_keeps
    | ((fail_if_no_progress extract_lets +onlyGivenNames x); refine (fun (hx : Keeps s x.1) => ?_) ?_; on_goal 2 => unfold x; on_goal 1 => clear_value x)
    | split

theorem State.dptAdvance_keeps {s t : State} (h : Keeps s t) (wrote : Bool) (next : Nat) :
    Keeps s (State.dptAdvance t wrote next) := by
  unfold State.dptAdvance
  repeat' first
    | with_reducible assumption
    | with_reducible apply State.put_keeps
    | with_reducible refine Keeps.ite ?_ ?_

theorem State.partWrite_keeps {s t : State} (h : Keeps s t) (m : Master) (wide : Bool) (a : Nat) (bs : List (Option Byte)) :
    Keeps s (State.partWrite t m wide a bs) := by
  unfold State.partWrite
  repeat' first
    | with_reducible assumption
    | with_reducible apply State.runWrite_keeps
    | with_reducible apply State.memWrite_keeps
    | with_reducible refine Keeps.foldl _ (fun x a hx => ?_) ?_
    | ((fail_if_no_progress extract_lets +onlyGivenNames x); clear_value x)
    | split

theorem State.partRead_keeps {s t : State} (h : Keeps s t) (m : Master) (wide : Bool) (a : Nat) (n : Nat) :
    Keeps s (State.partRead t m wide a n).1 := by
  unfold State.partRead
  repeat' first
    | with_reducible assumption
    | with_reducible apply State.runRead_keeps
    | with_reducible apply State.memRead_keeps
    | with_reducible refine Keeps.foldlFst _ (fun x a hx => ?_) ?_
    | ((fail_if_no_progress extract_lets +onlyGivenNames x); refine (fun (hx : Keeps s x.1) => ?_) ?_; on_goal 2 => unfold x; on_goal 1 => clear_value x)
    | split

theorem State.dataPort_keeps {s t : State} (h : Keeps s t) (n : Nat) (write : Option (List (Option Byte))) :
    Keeps s (State.dataPort t n write) := by
  unfold State.dataPort
  repeat' first
    | with_reducible assumption
    | with_reducible apply State.answer_keeps
    | with_reducible apply State.dptDone_keeps
    | with_reducible apply State.dptAdvance_keeps
    | with_reducible apply State.vlog_keeps
    | with_reducible apply State.partWrite_keeps
    | with_reducible apply State.partRead_keeps
    | ((fail_if_no_progress extract_lets +onlyGivenNames x); refine (fun (hx : Keeps s x) => ?_) ?_; on_goal 2 => unfold x; on_goal 1 => clear_value x)
    | ((fail_if_no_progress extract_lets +onlyGivenNames x); refine (fun (hx : Keeps s x.1) => ?_) ?_; on_goal 2 => unfold x; on_goal 1 => clear_value x)
    | ((fail_if_no_progress extract_lets +onlyGivenNames x); clear_value x)
    | with_reducible refine Keeps.ite ?_ ?_
    | split

theorem State.serveHost_keeps {s t : State} (h : Keeps s t) (a1 : HeldAccess) :
    Keeps s (State.serveHost t a1) := by
  unfold State.serveHost
  repeat' first
    | with_reducible assumption
    | with_reducible apply State.bar0_keeps
    | with_reducible apply State.bar2_keeps
    | with_reducible apply State.dataPort_keeps
    | split

theorem State.serveHeld_keeps {s t : State} (h : Keeps s t) (N : Nat) :
    Keeps s (State.serveHeld N t) := by
  induction N generalizing t with
  | zero =>
    unfold State.serveHeld
    repeat' first
      | with_reducible assumption
  | succ k ih =>
    unfold State.serveHeld
    repeat' first
      | with_reducible apply ih
      | with_reducible assumption
      | with_reducible apply State.serveHost_keeps
      | ((fail_if_no_progress extract_lets +onlyGivenNames x); clear_value x)
      | with_reducible refine Keeps.ite ?_ ?_
      | split
      | with_reducible refine Keeps.mk' ?_

theorem State.serveAllHeld_keeps {s t : State} (h : Keeps s t)  :
    Keeps s (State.serveAllHeld t) := by
  unfold State.serveAllHeld
  repeat' first
    | with_reducible assumption
    | with_reducible apply State.serveHeld_keeps

theorem State.hostRequest_keeps {s t : State} (h : Keeps s t) (x0 : HeldAccess) :
    Keeps s (State.hostRequest t x0) := by
  unfold State.hostRequest
  repeat' first
    | with_reducible assumption
    | with_reducible apply State.linkUnsupported_keeps
    | with_reducible apply State.runSteps_keeps
    | with_reducible apply State.serveHost_keeps
    | with_reducible apply State.serveAllHeld_keeps
    | ((fail_if_no_progress extract_lets +onlyGivenNames x); clear_value x)
    | with_reducible refine Keeps.ite ?_ ?_
    | with_reducible refine Keeps.mk' ?_

theorem State.mgtRespond_keeps {s t : State} (h : Keeps s t) (lost : Bool) (body : List Byte) (st : Nat) (tail : List Byte) :
    Keeps s (State.mgtRespond t lost body st tail) := by
  unfold State.mgtRespond
  repeat' first
    | with_reducible assumption
    | with_reducible apply State.put_keeps
    | with_reducible apply State.answer_keeps
    | with_reducible refine Keeps.ite ?_ ?_

theorem State.mgtAnswer_keeps {s t : State} (h : Keeps s t) (lost : Bool) (st : Nat) (done : Nat) :
    Keeps s (State.mgtAnswer t lost st done) := by
  unfold State.mgtAnswer
  repeat' first
    | with_reducible assumption
    | with_reducible apply State.mgtRespond_keeps

theorem State.mgtBytes_keeps {s t : State} (h : Keeps s t) (lost : Bool) (N : Nat) (a2 : Nat) (a3 : List Byte) (a4 : Nat) :
    Keeps s (State.mgtBytes lost N a2 a3 a4 t) := by
  induction N generalizing t a2 a3 a4 with
  | zero =>
    unfold State.mgtBytes
    repeat' first
      | with_reducible assumption
      | with_reducible apply State.mgtAnswer_keeps
  | succ k ih =>
    unfold State.mgtBytes
    repeat' first
      | with_reducible apply ih
      | with_reducible assumption
      | with_reducible apply State.mgtAnswer_keeps
      | with_reducible apply State.regsWrite_keeps
      | with_reducible apply State.memWrite_keeps
      | with_reducible apply State.put_keeps
      | ((fail_if_no_progress extract_lets +onlyGivenNames x); refine (fun (hx : Keeps s x) => ?_) ?_; on_goal 2 => unfold x; on_goal 1 => clear_value x)
      | ((fail_if_no_progress extract_lets +onlyGivenNames x); clear_value x)
      | with_reducible refine Keeps.ite ?_ ?_
      | split
      | with_reducible refine Keeps.mk' ?_

theorem State.mgtViolation_keeps {s t : State} (h : Keeps s t) (code : Nat) (cmd : Byte) (addr : Word) :
    Keeps s (State.mgtViolation t code cmd addr) := by
  unfold State.mgtViolation
  repeat' first
    | with_reducible assumption
    | with_reducible apply State.vlog_keeps

theorem State.mgtRefused_keeps {s t : State} (h : Keeps s t) (fault : Nat × Nat) (r : MgtReq) :
    Keeps s (State.mgtRefused t fault r) := by
  unfold State.mgtRefused
  repeat' first
    | with_reducible assumption
    | with_reducible apply State.mgtViolation_keeps
    | with_reducible apply State.bump_keeps
    | with_reducible apply State.mgtRespond_keeps
    | with_reducible refine Keeps.ite ?_ ?_

theorem State.mgtRead_keeps {s t : State} (h : Keeps s t) (lost : Bool) (a : Nat) (n : Nat) :
    Keeps s (State.mgtRead t lost a n) := by
  unfold State.mgtRead
  repeat' first
    | with_reducible assumption
    | with_reducible apply State.partRead_keeps
    | with_reducible apply State.mgtRespond_keeps

theorem State.mgtServe_keeps {s t : State} (h : Keeps s t) (r : MgtReq) :
    Keeps s (State.mgtServe t r) := by
  unfold State.mgtServe
  repeat' first
    | with_reducible assumption
    | with_reducible apply State.bump_keeps
    | with_reducible apply State.mgtRefused_keeps
    | with_reducible apply State.mgtRead_keeps
    | with_reducible apply State.mgtBytes_keeps
    | ((fail_if_no_progress extract_lets +onlyGivenNames x); refine (fun (hx : Keeps s x) => ?_) ?_; on_goal 2 => unfold x; on_goal 1 => clear_value x)
    | with_reducible refine Keeps.ite ?_ ?_
    | split

theorem State.mgtServeAll_keeps {s t : State} (h : Keeps s t) (L : List MgtReq) :
    Keeps s (State.mgtServeAll L t) := by
  induction L generalizing t with
  | nil =>
    unfold State.mgtServeAll
    repeat' first
      | with_reducible assumption
  | cons b r ih =>
    unfold State.mgtServeAll
    repeat' first
      | with_reducible apply ih
      | with_reducible assumption
      | with_reducible apply State.mgtServe_keeps
      | split
      | with_reducible refine Keeps.mk' ?_

theorem State.mgtEnded_keeps {s t : State} (h : Keeps s t) (f : MgtWrite → State → State) (hf : ∀ y0 x, Keeps s x → Keeps s (f y0 x)) :
    Keeps s (State.mgtEnded t f) := by
  unfold State.mgtEnded
  repeat' first
    | with_reducible assumption
    | with_reducible apply hf
    | with_reducible apply State.mgtServeAll_keeps
    | with_reducible apply State.put_keeps
    | split
    | with_reducible refine Keeps.mk' ?_

theorem State.mgtContinue_keeps {s t : State} (h : Keeps s t)  :
    Keeps s (State.mgtContinue t) := by
  unfold State.mgtContinue
  repeat' first
    | with_reducible assumption
    | with_reducible apply State.mgtEnded_keeps
    | with_reducible apply State.mgtBytes_keeps
    | with_reducible refine Keeps.ite ?_ ?_
    | (intro y z hz)

theorem State.mgtFalls_keeps {s t : State} (h : Keeps s t)  :
    Keeps s (State.mgtFalls t) := by
  unfold State.mgtFalls
  repeat' first
    | with_reducible assumption
    | with_reducible apply State.wake_keeps
    | with_reducible refine Keeps.ite ?_ ?_

theorem State.mgtRequest_keeps {s t : State} (h : Keeps s t) (r : MgtReq) :
    Keeps s (State.mgtRequest t r) := by
  unfold State.mgtRequest
  repeat' first
    | with_reducible assumption
    | with_reducible apply State.mgtFalls_keeps
    | with_reducible apply State.mgtServe_keeps
    | ((fail_if_no_progress extract_lets +onlyGivenNames x); refine (fun (hx : Keeps s x) => ?_) ?_; on_goal 2 => unfold x; on_goal 1 => clear_value x)
    | with_reducible refine Keeps.ite ?_ ?_
    | split
    | with_reducible refine Keeps.mk' ?_

theorem execBar0Access_keeps {s t : State} (h : Keeps s t) (off : BitVec 24) (n : Nat) (write : Option (List (Option Byte))) :
    ∃ u, (execBar0Access off n write t) = .next u ∧ Keeps s u := by
  unfold execBar0Access
  repeat' first
    | with_reducible assumption
    | with_reducible apply State.hostRequest_keeps
    | with_reducible refine ⟨_, rfl, ?_⟩

theorem execBar2Access_keeps {s t : State} (h : Keeps s t) (off : BitVec 30) (n : Nat) (write : Option (List (Option Byte))) :
    ∃ u, (execBar2Access off n write t) = .next u ∧ Keeps s u := by
  unfold execBar2Access
  repeat' first
    | with_reducible assumption
    | with_reducible apply State.hostRequest_keeps
    | with_reducible refine ⟨_, rfl, ?_⟩

theorem execDataPortAccess_keeps {s t : State} (h : Keeps s t) (n : Nat) (write : Option (List (Option Byte))) (off : optParam (BitVec 16) 0#16) :
    ∃ u, (execDataPortAccess n write t off) = .next u ∧ Keeps s u := by
  unfold execDataPortAccess
  repeat' first
    | with_reducible assumption
    | with_reducible apply State.hostRequest_keeps
    | with_reducible refine ⟨_, rfl, ?_⟩

theorem execMgtAbort_keeps {s t : State} (h : Keeps s t) (afterCrc : Bool) (cmd : Byte) (addr : Word) :
    ∃ u, (execMgtAbort afterCrc cmd addr t) = .next u ∧ Keeps s u := by
  unfold execMgtAbort
  repeat' first
    | with_reducible assumption
    | with_reducible apply State.mgtFalls_keeps
    | with_reducible apply State.mgtViolation_keeps
    | with_reducible apply State.bump_keeps
    | with_reducible apply State.answer_keeps
    | with_reducible refine ⟨_, rfl, ?_⟩
    | ((fail_if_no_progress extract_lets +onlyGivenNames x); refine (fun (hx : Keeps s x) => ?_) ?_; on_goal 2 => unfold x; on_goal 1 => clear_value x)
    | split
    | with_reducible refine Keeps.mk' ?_

theorem execMgtPushTimeout_keeps {s t : State} (h : Keeps s t) (n : Fin 32) :
    ∃ u, (execMgtPushTimeout n t) = .next u ∧ Keeps s u := by
  unfold execMgtPushTimeout
  repeat' first
    | with_reducible assumption
    | with_reducible apply State.modNst_keeps
    | with_reducible apply State.runSteps_keeps
    | with_reducible apply State.mgtEnded_keeps
    | with_reducible apply State.mgtAnswer_keeps
    | with_reducible refine ⟨_, rfl, ?_⟩
    | ((fail_if_no_progress extract_lets +onlyGivenNames x); refine (fun (hx : Keeps s x) => ?_) ?_; on_goal 2 => unfold x; on_goal 1 => clear_value x)
    | ((fail_if_no_progress extract_lets +onlyGivenNames x); clear_value x)
    | split
    | (intro y z hz)

theorem execMgtRead_keeps {s t : State} (h : Keeps s t) (cmd : Byte) (addr : Word) (len : BitVec 16) (crc : Byte) :
    ∃ u, (execMgtRead cmd addr len crc t) = .next u ∧ Keeps s u := by
  unfold execMgtRead
  repeat' first
    | with_reducible assumption
    | with_reducible apply State.runSteps_keeps
    | with_reducible apply State.mgtRequest_keeps
    | with_reducible refine ⟨_, rfl, ?_⟩
    | split

theorem execMgtWrite_keeps {s t : State} (h : Keeps s t) (addr : Word) (data : List Byte) (crc : Byte) :
    ∃ u, (execMgtWrite addr data crc t) = .next u ∧ Keeps s u := by
  unfold execMgtWrite
  repeat' first
    | with_reducible assumption
    | with_reducible apply State.runSteps_keeps
    | with_reducible apply State.mgtRequest_keeps
    | with_reducible refine ⟨_, rfl, ?_⟩

theorem execRegisterWrite_keeps {s t : State} (h : Keeps s t) (m : Master) (reg : Fin 4194304) (w : Word) :
    ∃ u, (execRegisterWrite m reg w t) = .next u ∧ Keeps s u := by
  unfold execRegisterWrite
  repeat' first
    | with_reducible assumption
    | with_reducible apply State.runSteps_keeps
    | with_reducible apply State.regsWrite_keeps
    | with_reducible refine ⟨_, rfl, ?_⟩

theorem execStalledPush_keeps {s t : State} (h : Keeps s t) (n : Fin 32) :
    ∃ u, (execStalledPush n t) = .next u ∧ Keeps s u := by
  unfold execStalledPush
  repeat' first
    | with_reducible assumption
    | with_reducible apply State.mgtContinue_keeps
    | with_reducible apply State.dptSettle_keeps
    | with_reducible apply State.stalledPush_keeps
    | with_reducible apply State.runSteps_keeps
    | with_reducible apply State.serveAllHeld_keeps
    | with_reducible refine ⟨_, rfl, ?_⟩
    | split
    | (intro y hy)

theorem execWakePattern_keeps {s t : State} (h : Keeps s t)  :
    ∃ u, (execWakePattern t) = .next u ∧ Keeps s u := by
  unfold execWakePattern
  repeat' first
    | with_reducible assumption
    | with_reducible apply State.wake_keeps
    | with_reducible apply State.bump_keeps
    | with_reducible refine ⟨_, rfl, ?_⟩
    | split

end Sys2Proof.Machine
end

