-- ==== Sys2Proof/Laws/Keeps/Boot.lean ====
section
/-!
SUPPORT. What every operation of Machine/Boot.lean keeps (Laws/Keeps.lean).
-/

namespace Sys2Proof.Machine

theorem State.clearWorkspace_keeps {s t : State} (h : Keeps s t)  :
    Keeps s (State.clearWorkspace t) := by
  unfold State.clearWorkspace
  repeat' first
    | with_reducible assumption
    | with_reducible apply State.wipeRange_keeps

theorem State.copySection_keeps {s t : State} (h : Keeps s t) (pair : Nat) (src : Nat) (x0 : Section) :
    Keeps s (State.copySection t pair src x0) := by
  unfold State.copySection
  repeat' first
    | with_reducible assumption
    | with_reducible apply State.storeBytes_keeps
    | with_reducible apply State.wipeRange_keeps
    | with_reducible refine Keeps.ite ?_ ?_

theorem State.exitPowers_keeps {s t : State} (h : Keeps s t) (lost : List (Fin 116)) :
    Keeps s (State.exitPowers t lost) := by
  unfold State.exitPowers
  repeat' first
    | with_reducible assumption
    | with_reducible apply State.release_keeps
    | with_reducible apply State.put_keeps
    | with_reducible refine Keeps.foldl _ (fun x a hx => ?_) ?_
    | ((fail_if_no_progress extract_lets +onlyGivenNames x); refine (fun (hx : Keeps s x) => ?_) ?_; on_goal 2 => unfold x; on_goal 1 => clear_value x)
    | ((fail_if_no_progress extract_lets +onlyGivenNames x); clear_value x)
    | with_reducible refine Keeps.ite ?_ ?_
    | with_reducible refine Keeps.mk' ?_

theorem State.handOver_keeps {s t : State} (h : Keeps s t)  :
    Keeps s (State.handOver t) := by
  unfold State.handOver
  repeat' first
    | with_reducible assumption
    | with_reducible apply State.put_keeps
    | with_reducible apply State.launch_keeps
    | with_reducible apply State.clearWorkspace_keeps
    | ((fail_if_no_progress extract_lets +onlyGivenNames x); clear_value x)
    | with_reducible refine Keeps.mk' ?_

theorem State.loadEnds_keeps {s t : State} (h : Keeps s t) (l : BootLoad) (st : Nat) :
    Keeps s (State.loadEnds t l st) := by
  unfold State.loadEnds
  repeat' first
    | with_reducible assumption
    | with_reducible apply State.put_keeps

theorem State.undoLoad_keeps {s t : State} (h : Keeps s t) (pair : Nat) (xs : List Section) :
    Keeps s (State.undoLoad t pair xs) := by
  unfold State.undoLoad
  repeat' first
    | with_reducible assumption
    | with_reducible apply State.wipeRange_keeps
    | with_reducible refine Keeps.foldl _ (fun x a hx => ?_) ?_
    | with_reducible refine Keeps.ite ?_ ?_

theorem State.loadImage_keeps {s t : State} (h : Keeps s t) (l : BootLoad) :
    Keeps s (State.loadImage t l).1 := by
  unfold State.loadImage
  repeat' first
    | with_reducible assumption
    | with_reducible apply State.readErrsIf_keeps
    | with_reducible apply State.copySection_keeps
    | with_reducible apply State.put_keeps
    | with_reducible apply State.undoLoad_keeps
    | with_reducible refine Keeps.foldl _ (fun x a hx => ?_) ?_
    | ((fail_if_no_progress extract_lets +onlyGivenNames x); refine (fun (hx : Keeps s x) => ?_) ?_; on_goal 2 => unfold x; on_goal 1 => clear_value x)
    | ((fail_if_no_progress extract_lets +onlyGivenNames x); clear_value x)
    | split

theorem State.restoreLoaded_keeps {s t : State} (h : Keeps s t) (kept : Nat) :
    Keeps s (State.restoreLoaded t kept) := by
  unfold State.restoreLoaded
  repeat' first
    | with_reducible assumption
    | with_reducible apply State.putb_keeps
    | with_reducible refine Keeps.foldl _ (fun x a hx => ?_) ?_

theorem State.resumeService_keeps {s t : State} (h : Keeps s t)  :
    Keeps s (State.resumeService t) := by
  unfold State.resumeService
  repeat' first
    | with_reducible assumption
    | with_reducible apply State.modPair_keeps
    | with_reducible apply State.handOver_keeps
    | with_reducible apply State.raiseEvent_keeps

theorem State.scratch_keeps {s t : State} (h : Keeps s t)  :
    Keeps s (State.scratch t).1 := by
  unfold State.scratch
  repeat' first
    | with_reducible assumption
    | with_reducible apply State.draw_keeps

theorem State.scratchStack_keeps {s t : State} (h : Keeps s t)  :
    Keeps s (State.scratchStack t) := by
  unfold State.scratchStack
  repeat' first
    | with_reducible assumption
    | with_reducible apply State.scratch_keeps
    | with_reducible apply State.storeBytes_keeps
    | with_reducible refine Keeps.foldl _ (fun x a hx => ?_) ?_
    | ((fail_if_no_progress extract_lets +onlyGivenNames x); refine (fun (hx : Keeps s x.1) => ?_) ?_; on_goal 2 => unfold x; on_goal 1 => clear_value x)
    | ((fail_if_no_progress extract_lets +onlyGivenNames x); clear_value x)
    | with_reducible refine Keeps.ite ?_ ?_

theorem State.scratchK_keeps {s t : State} (h : Keeps s t) (r : Fin 16) :
    Keeps s (State.scratchK t r) := by
  unfold State.scratchK
  repeat' first
    | with_reducible assumption
    | with_reducible apply State.scratch_keeps
    | with_reducible apply State.modPair_keeps

theorem State.romReturns_keeps {s t : State} (h : Keeps s t) (st : Nat) :
    Keeps s (State.romReturns t st) := by
  unfold State.romReturns
  repeat' first
    | with_reducible assumption
    | with_reducible apply State.scratchStack_keeps
    | with_reducible apply State.scratchK_keeps
    | with_reducible apply State.modPair_keeps
    | with_reducible refine Keeps.foldl _ (fun x a hx => ?_) ?_

theorem execBootLoadDone_keeps {s t : State} (h : Keeps s t)  :
    ∃ u, (execBootLoadDone t) = .next u ∧ Keeps s u := by
  unfold execBootLoadDone
  repeat' first
    | with_reducible assumption
    | with_reducible apply State.modPair_keeps
    | with_reducible apply State.loadImage_keeps
    | with_reducible apply State.loadEnds_keeps
    | with_reducible apply State.raiseEvent_keeps
    | with_reducible apply State.romReturns_keeps
    | with_reducible apply State.handOver_keeps
    | with_reducible apply State.put_keeps
    | with_reducible refine ⟨_, rfl, ?_⟩
    | ((fail_if_no_progress extract_lets +onlyGivenNames x); refine (fun (hx : Keeps s x) => ?_) ?_; on_goal 2 => unfold x; on_goal 1 => clear_value x)
    | ((fail_if_no_progress extract_lets +onlyGivenNames x); refine (fun (hx : Keeps s x.1) => ?_) ?_; on_goal 2 => unfold x; on_goal 1 => clear_value x)
    | ((fail_if_no_progress extract_lets +onlyGivenNames x); clear_value x)
    | split
    | with_reducible refine Keeps.mk' ?_

theorem execEntryAbandon_keeps {s t : State} (h : Keeps s t)  :
    ∃ u, (execEntryAbandon t) = .next u ∧ Keeps s u := by
  unfold execEntryAbandon
  repeat' first
    | with_reducible assumption
    | with_reducible apply State.phasesTo_keeps
    | with_reducible apply State.runSteps_keeps
    | with_reducible apply State.serveAllHeld_keeps
    | with_reducible apply State.abandonEnds_keeps
    | with_reducible refine ⟨_, rfl, ?_⟩
    | ((fail_if_no_progress extract_lets +onlyGivenNames x); refine (fun (hx : Keeps s x) => ?_) ?_; on_goal 2 => unfold x; on_goal 1 => clear_value x)
    | split

theorem execRomLoadEntry_keeps {s t : State} (h : Keeps s t)  :
    ∃ u, (execRomLoadEntry t) = .next u ∧ Keeps s u := by
  unfold execRomLoadEntry
  repeat' first
    | with_reducible assumption
    | with_reducible refine ⟨_, rfl, ?_⟩
    | ((fail_if_no_progress extract_lets +onlyGivenNames x); clear_value x)
    | split
    | with_reducible refine Keeps.mk' ?_

theorem execSeqBootGo_keeps {s t : State} (h : Keeps s t)  :
    ∃ u, (execSeqBootGo t) = .next u ∧ Keeps s u := by
  unfold execSeqBootGo
  repeat' first
    | with_reducible assumption
    | with_reducible apply State.atBlock_keeps
    | with_reducible apply State.bootGo_keeps
    | with_reducible refine ⟨_, rfl, ?_⟩

theorem execStateExit_keeps {s t : State} (h : Keeps s t) (lost : List (Fin 116)) (taps : Vector (Option (Fin 64)) 32) :
    ∃ u, (execStateExit lost taps t) = .next u ∧ Keeps s u := by
  unfold execStateExit
  repeat' first
    | with_reducible assumption
    | with_reducible apply State.exitPowers_keeps
    | with_reducible apply State.trainPort_keeps
    | with_reducible apply State.put_keeps
    | with_reducible apply State.restoreLoaded_keeps
    | with_reducible apply State.startRom_keeps
    | with_reducible apply State.startTimers_keeps
    | with_reducible apply State.resumeService_keeps
    | with_reducible apply State.romWaits_keeps
    | with_reducible apply State.setCause_keeps
    | with_reducible apply State.reloadBase_keeps
    | with_reducible apply State.runSteps_keeps
    | with_reducible apply State.serveAllHeld_keeps
    | with_reducible refine Keeps.foldl _ (fun x a hx => ?_) ?_
    | with_reducible refine ⟨_, rfl, ?_⟩
    | ((fail_if_no_progress extract_lets +onlyGivenNames x); refine (fun (hx : Keeps s x) => ?_) ?_; on_goal 2 => unfold x; on_goal 1 => clear_value x)
    | ((fail_if_no_progress extract_lets +onlyGivenNames x); clear_value x)
    | split
    | with_reducible refine Keeps.mk' ?_

end Sys2Proof.Machine
end

