-- ==== Sys2Proof/Laws/Keeps/KOps.lean ====
section
/-!
SUPPORT. What every operation of Machine/KOps.lean keeps (Laws/Keeps.lean).
-/

namespace Sys2Proof.Machine

theorem State.atSeq_keeps {s t : State} (h : Keeps s t) (f : State → State) (hf : ∀ x, Keeps s x → Keeps s (f x)) :
    Keeps s (State.atSeq t f) := by
  unfold State.atSeq
  repeat' first
    | with_reducible assumption
    | with_reducible apply hf
    | with_reducible refine Keeps.ite ?_ ?_

theorem execAdd_keeps {s t : State} (h : Keeps s t) (j : Fin 4) (rd : Fin 16) (rs1 : Fin 16) (rs2 : Fin 16) :
    ∃ u, (execAdd j rd rs1 rs2 t) = .next u ∧ Keeps s u := by
  unfold execAdd
  repeat' first
    | with_reducible assumption
    | with_reducible apply State.runK_keeps
    | with_reducible refine ⟨_, rfl, ?_⟩

theorem execAddi_keeps {s t : State} (h : Keeps s t) (j : Fin 4) (rd : Fin 16) (rs1 : Fin 16) (imm : BitVec 12) :
    ∃ u, (execAddi j rd rs1 imm t) = .next u ∧ Keeps s u := by
  unfold execAddi
  repeat' first
    | with_reducible assumption
    | with_reducible apply State.runK_keeps
    | with_reducible refine ⟨_, rfl, ?_⟩

theorem execAdds_keeps {s t : State} (h : Keeps s t) (j : Fin 4) (rd : Fin 16) (rs1 : Fin 16) (rs2 : Fin 16) :
    ∃ u, (execAdds j rd rs1 rs2 t) = .next u ∧ Keeps s u := by
  unfold execAdds
  repeat' first
    | with_reducible assumption
    | with_reducible apply State.runK_keeps
    | with_reducible refine ⟨_, rfl, ?_⟩

theorem execAddsi_keeps {s t : State} (h : Keeps s t) (j : Fin 4) (rd : Fin 16) (rs1 : Fin 16) (imm : BitVec 12) :
    ∃ u, (execAddsi j rd rs1 imm t) = .next u ∧ Keeps s u := by
  unfold execAddsi
  repeat' first
    | with_reducible assumption
    | with_reducible apply State.runK_keeps
    | with_reducible refine ⟨_, rfl, ?_⟩

theorem execAnd_keeps {s t : State} (h : Keeps s t) (j : Fin 4) (rd : Fin 16) (rs1 : Fin 16) (rs2 : Fin 16) :
    ∃ u, (execAnd j rd rs1 rs2 t) = .next u ∧ Keeps s u := by
  unfold execAnd
  repeat' first
    | with_reducible assumption
    | with_reducible apply State.runK_keeps
    | with_reducible refine ⟨_, rfl, ?_⟩

theorem execAndi_keeps {s t : State} (h : Keeps s t) (j : Fin 4) (rd : Fin 16) (rs1 : Fin 16) (imm : BitVec 12) :
    ∃ u, (execAndi j rd rs1 imm t) = .next u ∧ Keeps s u := by
  unfold execAndi
  repeat' first
    | with_reducible assumption
    | with_reducible apply State.runK_keeps
    | with_reducible refine ⟨_, rfl, ?_⟩

theorem execBeq_keeps {s t : State} (h : Keeps s t) (j : Fin 4) (rs1 : Fin 16) (rs2 : Fin 16) (off : BitVec 13) :
    ∃ u, (execBeq j rs1 rs2 off t) = .next u ∧ Keeps s u := by
  unfold execBeq
  repeat' first
    | with_reducible assumption
    | with_reducible apply State.runK_keeps
    | with_reducible refine ⟨_, rfl, ?_⟩

theorem execBge_keeps {s t : State} (h : Keeps s t) (j : Fin 4) (rs1 : Fin 16) (rs2 : Fin 16) (off : BitVec 13) :
    ∃ u, (execBge j rs1 rs2 off t) = .next u ∧ Keeps s u := by
  unfold execBge
  repeat' first
    | with_reducible assumption
    | with_reducible apply State.runK_keeps
    | with_reducible refine ⟨_, rfl, ?_⟩

theorem execBgeu_keeps {s t : State} (h : Keeps s t) (j : Fin 4) (rs1 : Fin 16) (rs2 : Fin 16) (off : BitVec 13) :
    ∃ u, (execBgeu j rs1 rs2 off t) = .next u ∧ Keeps s u := by
  unfold execBgeu
  repeat' first
    | with_reducible assumption
    | with_reducible apply State.runK_keeps
    | with_reducible refine ⟨_, rfl, ?_⟩

theorem execBlt_keeps {s t : State} (h : Keeps s t) (j : Fin 4) (rs1 : Fin 16) (rs2 : Fin 16) (off : BitVec 13) :
    ∃ u, (execBlt j rs1 rs2 off t) = .next u ∧ Keeps s u := by
  unfold execBlt
  repeat' first
    | with_reducible assumption
    | with_reducible apply State.runK_keeps
    | with_reducible refine ⟨_, rfl, ?_⟩

theorem execBltu_keeps {s t : State} (h : Keeps s t) (j : Fin 4) (rs1 : Fin 16) (rs2 : Fin 16) (off : BitVec 13) :
    ∃ u, (execBltu j rs1 rs2 off t) = .next u ∧ Keeps s u := by
  unfold execBltu
  repeat' first
    | with_reducible assumption
    | with_reducible apply State.runK_keeps
    | with_reducible refine ⟨_, rfl, ?_⟩

theorem execBne_keeps {s t : State} (h : Keeps s t) (j : Fin 4) (rs1 : Fin 16) (rs2 : Fin 16) (off : BitVec 13) :
    ∃ u, (execBne j rs1 rs2 off t) = .next u ∧ Keeps s u := by
  unfold execBne
  repeat' first
    | with_reducible assumption
    | with_reducible apply State.runK_keeps
    | with_reducible refine ⟨_, rfl, ?_⟩

theorem execClz_keeps {s t : State} (h : Keeps s t) (j : Fin 4) (rd : Fin 16) (rs1 : Fin 16) :
    ∃ u, (execClz j rd rs1 t) = .next u ∧ Keeps s u := by
  unfold execClz
  repeat' first
    | with_reducible assumption
    | with_reducible apply State.runK_keeps
    | with_reducible refine ⟨_, rfl, ?_⟩

theorem execCmd_keeps {s t : State} (h : Keeps s t) (j : Fin 4) (rs1 : Fin 16) (rs2 : Fin 16) :
    ∃ u, (execCmd j rs1 rs2 t) = .next u ∧ Keeps s u := by
  unfold execCmd
  repeat' first
    | with_reducible assumption
    | with_reducible apply State.runSteps_keeps
    | with_reducible apply State.runK_keeps
    | with_reducible refine ⟨_, rfl, ?_⟩

theorem execCmpArm_keeps {s t : State} (h : Keeps s t) (j : Fin 4) (w : Fin 4) (mode : Fin 4) (src : Bool) (trig : Bool) (cam : Fin 4) (target : BitVec 48) :
    ∃ u, (execCmpArm j w mode src trig cam target t) = .next u ∧ Keeps s u := by
  unfold execCmpArm
  repeat' first
    | with_reducible assumption
    | with_reducible apply State.atSeq_keeps
    | with_reducible apply State.cmdCmpArm_keeps
    | with_reducible refine ⟨_, rfl, ?_⟩
    | (intro y hy)

theorem execCrr_keeps {s t : State} (h : Keeps s t) (j : Fin 4) (rd : Fin 16) (num : BitVec 10) :
    ∃ u, (execCrr j rd num t) = .next u ∧ Keeps s u := by
  unfold execCrr
  repeat' first
    | with_reducible assumption
    | with_reducible apply State.runK_keeps
    | with_reducible refine ⟨_, rfl, ?_⟩

theorem execCrw_keeps {s t : State} (h : Keeps s t) (j : Fin 4) (rs1 : Fin 16) (num : BitVec 10) :
    ∃ u, (execCrw j rs1 num t) = .next u ∧ Keeps s u := by
  unfold execCrw
  repeat' first
    | with_reducible assumption
    | with_reducible apply State.runK_keeps
    | with_reducible refine ⟨_, rfl, ?_⟩

theorem execEret_keeps {s t : State} (h : Keeps s t) (j : Fin 4) :
    ∃ u, (execEret j t) = .next u ∧ Keeps s u := by
  unfold execEret
  repeat' first
    | with_reducible assumption
    | with_reducible apply State.runK_keeps
    | with_reducible refine ⟨_, rfl, ?_⟩

theorem execEvtRaise_keeps {s t : State} (h : Keeps s t) (k : Fin 4) :
    ∃ u, (execEvtRaise k t) = .next u ∧ Keeps s u := by
  unfold execEvtRaise
  repeat' first
    | with_reducible assumption
    | with_reducible apply State.atSeq_keeps
    | with_reducible apply State.cmdEvtRaise_keeps
    | with_reducible refine ⟨_, rfl, ?_⟩
    | (intro y hy)

theorem execFenceLine_keeps {s t : State} (h : Keeps s t) (j : Fin 4) (rd : Fin 16) (rs2 : Fin 16) (bar : Fin 32) :
    ∃ u, (execFenceLine j rd rs2 bar t) = .next u ∧ Keeps s u := by
  unfold execFenceLine
  repeat' first
    | with_reducible assumption
    | with_reducible apply State.runK_keeps
    | with_reducible refine ⟨_, rfl, ?_⟩

theorem execFetchFault_keeps {s t : State} (h : Keeps s t) (j : Fin 4) :
    ∃ u, (execFetchFault j t) = .next u ∧ Keeps s u := by
  unfold execFetchFault
  repeat' first
    | with_reducible assumption
    | with_reducible apply State.runK_keeps
    | with_reducible refine ⟨_, rfl, ?_⟩
    | split

theorem execFpeArm_keeps {s t : State} (h : Keeps s t) (j : Fin 4) (mask : Word) :
    ∃ u, (execFpeArm j mask t) = .next u ∧ Keeps s u := by
  unfold execFpeArm
  repeat' first
    | with_reducible assumption
    | with_reducible apply State.atSeq_keeps
    | with_reducible apply State.cmdFpeArm_keeps
    | with_reducible refine ⟨_, rfl, ?_⟩
    | (intro y hy)

theorem execGridGarm_keeps {s t : State} (h : Keeps s t) (bar : Fin 32) (force : Bool) (line : Word) :
    ∃ u, (execGridGarm bar force line t) = .next u ∧ Keeps s u := by
  unfold execGridGarm
  repeat' first
    | with_reducible assumption
    | with_reducible apply State.atSeq_keeps
    | with_reducible apply State.cmdGridGarm_keeps
    | with_reducible refine ⟨_, rfl, ?_⟩
    | (intro y hy)

theorem execIllegalInstruction_keeps {s t : State} (h : Keeps s t) (j : Fin 4) (w : Word) :
    ∃ u, (execIllegalInstruction j w t) = .next u ∧ Keeps s u := by
  unfold execIllegalInstruction
  repeat' first
    | with_reducible assumption
    | with_reducible apply State.runK_keeps
    | with_reducible refine ⟨_, rfl, ?_⟩
    | split

theorem execInsAreq_keeps {s t : State} (h : Keeps s t) (j : Fin 4) (w0 : Word) (ovl : BitVec 7) :
    ∃ u, (execInsAreq j w0 ovl t) = .next u ∧ Keeps s u := by
  unfold execInsAreq
  repeat' first
    | with_reducible assumption
    | with_reducible apply State.atSeq_keeps
    | with_reducible apply State.cmdInsAreq_keeps
    | with_reducible refine ⟨_, rfl, ?_⟩
    | (intro y hy)

theorem execJal_keeps {s t : State} (h : Keeps s t) (j : Fin 4) (rd : Fin 16) (imm : BitVec 20) :
    ∃ u, (execJal j rd imm t) = .next u ∧ Keeps s u := by
  unfold execJal
  repeat' first
    | with_reducible assumption
    | with_reducible apply State.runK_keeps
    | with_reducible refine ⟨_, rfl, ?_⟩

theorem execJalr_keeps {s t : State} (h : Keeps s t) (j : Fin 4) (rd : Fin 16) (rs1 : Fin 16) (imm : BitVec 12) :
    ∃ u, (execJalr j rd rs1 imm t) = .next u ∧ Keeps s u := by
  unfold execJalr
  repeat' first
    | with_reducible assumption
    | with_reducible apply State.runK_keeps
    | with_reducible refine ⟨_, rfl, ?_⟩

theorem execLb_keeps {s t : State} (h : Keeps s t) (j : Fin 4) (rt : Fin 16) (rb : Fin 16) (off : BitVec 12) (a : optParam TargetAnswer TargetAnswer.data) :
    ∃ u, (execLb j rt rb off t a) = .next u ∧ Keeps s u := by
  unfold execLb
  repeat' first
    | with_reducible assumption
    | with_reducible apply State.runSteps_keeps
    | with_reducible apply State.runK_keeps
    | with_reducible refine ⟨_, rfl, ?_⟩

theorem execLbu_keeps {s t : State} (h : Keeps s t) (j : Fin 4) (rt : Fin 16) (rb : Fin 16) (off : BitVec 12) (a : optParam TargetAnswer TargetAnswer.data) :
    ∃ u, (execLbu j rt rb off t a) = .next u ∧ Keeps s u := by
  unfold execLbu
  repeat' first
    | with_reducible assumption
    | with_reducible apply State.runSteps_keeps
    | with_reducible apply State.runK_keeps
    | with_reducible refine ⟨_, rfl, ?_⟩

theorem execLd_keeps {s t : State} (h : Keeps s t) (j : Fin 4) (rt : Fin 16) (rb : Fin 16) (off : BitVec 12) (a : optParam TargetAnswer TargetAnswer.data) :
    ∃ u, (execLd j rt rb off t a) = .next u ∧ Keeps s u := by
  unfold execLd
  repeat' first
    | with_reducible assumption
    | with_reducible apply State.runSteps_keeps
    | with_reducible apply State.runK_keeps
    | with_reducible refine ⟨_, rfl, ?_⟩

theorem execLh_keeps {s t : State} (h : Keeps s t) (j : Fin 4) (rt : Fin 16) (rb : Fin 16) (off : BitVec 12) (a : optParam TargetAnswer TargetAnswer.data) :
    ∃ u, (execLh j rt rb off t a) = .next u ∧ Keeps s u := by
  unfold execLh
  repeat' first
    | with_reducible assumption
    | with_reducible apply State.runSteps_keeps
    | with_reducible apply State.runK_keeps
    | with_reducible refine ⟨_, rfl, ?_⟩

theorem execLhu_keeps {s t : State} (h : Keeps s t) (j : Fin 4) (rt : Fin 16) (rb : Fin 16) (off : BitVec 12) (a : optParam TargetAnswer TargetAnswer.data) :
    ∃ u, (execLhu j rt rb off t a) = .next u ∧ Keeps s u := by
  unfold execLhu
  repeat' first
    | with_reducible assumption
    | with_reducible apply State.runSteps_keeps
    | with_reducible apply State.runK_keeps
    | with_reducible refine ⟨_, rfl, ?_⟩

theorem execLui_keeps {s t : State} (h : Keeps s t) (j : Fin 4) (rd : Fin 16) (imm : BitVec 20) :
    ∃ u, (execLui j rd imm t) = .next u ∧ Keeps s u := by
  unfold execLui
  repeat' first
    | with_reducible assumption
    | with_reducible apply State.runK_keeps
    | with_reducible refine ⟨_, rfl, ?_⟩

theorem execLw_keeps {s t : State} (h : Keeps s t) (j : Fin 4) (rt : Fin 16) (rb : Fin 16) (off : BitVec 12) (a : optParam TargetAnswer TargetAnswer.data) :
    ∃ u, (execLw j rt rb off t a) = .next u ∧ Keeps s u := by
  unfold execLw
  repeat' first
    | with_reducible assumption
    | with_reducible apply State.runSteps_keeps
    | with_reducible apply State.runK_keeps
    | with_reducible refine ⟨_, rfl, ?_⟩

theorem execMac_keeps {s t : State} (h : Keeps s t) (j : Fin 4) (rd : Fin 16) (rs1 : Fin 16) (rs2 : Fin 16) :
    ∃ u, (execMac j rd rs1 rs2 t) = .next u ∧ Keeps s u := by
  unfold execMac
  repeat' first
    | with_reducible assumption
    | with_reducible apply State.runK_keeps
    | with_reducible refine ⟨_, rfl, ?_⟩

theorem execMacu_keeps {s t : State} (h : Keeps s t) (j : Fin 4) (rd : Fin 16) (rs1 : Fin 16) (rs2 : Fin 16) :
    ∃ u, (execMacu j rd rs1 rs2 t) = .next u ∧ Keeps s u := by
  unfold execMacu
  repeat' first
    | with_reducible assumption
    | with_reducible apply State.runK_keeps
    | with_reducible refine ⟨_, rfl, ?_⟩

theorem execMax_keeps {s t : State} (h : Keeps s t) (j : Fin 4) (rd : Fin 16) (rs1 : Fin 16) (rs2 : Fin 16) :
    ∃ u, (execMax j rd rs1 rs2 t) = .next u ∧ Keeps s u := by
  unfold execMax
  repeat' first
    | with_reducible assumption
    | with_reducible apply State.runK_keeps
    | with_reducible refine ⟨_, rfl, ?_⟩

theorem execMaxu_keeps {s t : State} (h : Keeps s t) (j : Fin 4) (rd : Fin 16) (rs1 : Fin 16) (rs2 : Fin 16) :
    ∃ u, (execMaxu j rd rs1 rs2 t) = .next u ∧ Keeps s u := by
  unfold execMaxu
  repeat' first
    | with_reducible assumption
    | with_reducible apply State.runK_keeps
    | with_reducible refine ⟨_, rfl, ?_⟩

theorem execMin_keeps {s t : State} (h : Keeps s t) (j : Fin 4) (rd : Fin 16) (rs1 : Fin 16) (rs2 : Fin 16) :
    ∃ u, (execMin j rd rs1 rs2 t) = .next u ∧ Keeps s u := by
  unfold execMin
  repeat' first
    | with_reducible assumption
    | with_reducible apply State.runK_keeps
    | with_reducible refine ⟨_, rfl, ?_⟩

theorem execMinu_keeps {s t : State} (h : Keeps s t) (j : Fin 4) (rd : Fin 16) (rs1 : Fin 16) (rs2 : Fin 16) :
    ∃ u, (execMinu j rd rs1 rs2 t) = .next u ∧ Keeps s u := by
  unfold execMinu
  repeat' first
    | with_reducible assumption
    | with_reducible apply State.runK_keeps
    | with_reducible refine ⟨_, rfl, ?_⟩

theorem execMsu_keeps {s t : State} (h : Keeps s t) (j : Fin 4) (rd : Fin 16) (rs1 : Fin 16) (rs2 : Fin 16) :
    ∃ u, (execMsu j rd rs1 rs2 t) = .next u ∧ Keeps s u := by
  unfold execMsu
  repeat' first
    | with_reducible assumption
    | with_reducible apply State.runK_keeps
    | with_reducible refine ⟨_, rfl, ?_⟩

theorem execMul_keeps {s t : State} (h : Keeps s t) (j : Fin 4) (rd : Fin 16) (rs1 : Fin 16) (rs2 : Fin 16) :
    ∃ u, (execMul j rd rs1 rs2 t) = .next u ∧ Keeps s u := by
  unfold execMul
  repeat' first
    | with_reducible assumption
    | with_reducible apply State.runK_keeps
    | with_reducible refine ⟨_, rfl, ?_⟩

theorem execMulh_keeps {s t : State} (h : Keeps s t) (j : Fin 4) (rd : Fin 16) (rs1 : Fin 16) (rs2 : Fin 16) :
    ∃ u, (execMulh j rd rs1 rs2 t) = .next u ∧ Keeps s u := by
  unfold execMulh
  repeat' first
    | with_reducible assumption
    | with_reducible apply State.runK_keeps
    | with_reducible refine ⟨_, rfl, ?_⟩

theorem execMulhu_keeps {s t : State} (h : Keeps s t) (j : Fin 4) (rd : Fin 16) (rs1 : Fin 16) (rs2 : Fin 16) :
    ∃ u, (execMulhu j rd rs1 rs2 t) = .next u ∧ Keeps s u := by
  unfold execMulhu
  repeat' first
    | with_reducible assumption
    | with_reducible apply State.runK_keeps
    | with_reducible refine ⟨_, rfl, ?_⟩

theorem execNstPush_keeps {s t : State} (h : Keeps s t) (j : Fin 4) (n : Fin 32) (addr : BitVec 18) (pair : Bool) (honor : Bool) (value : Byte) (mask : Byte) :
    ∃ u, (execNstPush j n addr pair honor value mask t) = .next u ∧ Keeps s u := by
  unfold execNstPush
  refine ⟨_, rfl, State.atSeq_keeps h _ ?_⟩
  intro y hy
  split
  · rename_i he
    exact State.cmdNstPush_keeps (State.reserveSlot_keeps hy _ _ _ he) _ _ _
  · exact hy

theorem execOr_keeps {s t : State} (h : Keeps s t) (j : Fin 4) (rd : Fin 16) (rs1 : Fin 16) (rs2 : Fin 16) :
    ∃ u, (execOr j rd rs1 rs2 t) = .next u ∧ Keeps s u := by
  unfold execOr
  repeat' first
    | with_reducible assumption
    | with_reducible apply State.runK_keeps
    | with_reducible refine ⟨_, rfl, ?_⟩

theorem execOri_keeps {s t : State} (h : Keeps s t) (j : Fin 4) (rd : Fin 16) (rs1 : Fin 16) (imm : BitVec 12) :
    ∃ u, (execOri j rd rs1 imm t) = .next u ∧ Keeps s u := by
  unfold execOri
  repeat' first
    | with_reducible assumption
    | with_reducible apply State.runK_keeps
    | with_reducible refine ⟨_, rfl, ?_⟩

theorem execPairHalt_keeps {s t : State} (h : Keeps s t) (j : Fin 4) (pair : Fin 4) :
    ∃ u, (execPairHalt j pair t) = .next u ∧ Keeps s u := by
  unfold execPairHalt
  repeat' first
    | with_reducible assumption
    | with_reducible apply State.atSeq_keeps
    | with_reducible apply State.cmdPairHalt_keeps
    | with_reducible refine ⟨_, rfl, ?_⟩
    | (intro y hy)

theorem execPairStart_keeps {s t : State} (h : Keeps s t) (j : Fin 4) (pair : Fin 4) (entry : Word) :
    ∃ u, (execPairStart j pair entry t) = .next u ∧ Keeps s u := by
  unfold execPairStart
  repeat' first
    | with_reducible assumption
    | with_reducible apply State.atSeq_keeps
    | with_reducible apply State.cmdPairStart_keeps
    | with_reducible refine ⟨_, rfl, ?_⟩
    | (intro y hy)

theorem execPass_keeps {s t : State} (h : Keeps s t) (j : Fin 4) :
    ∃ u, (execPass j t) = .next u ∧ Keeps s u := by
  unfold execPass
  repeat' first
    | with_reducible assumption
    | with_reducible apply State.runK_keeps
    | with_reducible refine ⟨_, rfl, ?_⟩

theorem execPopc_keeps {s t : State} (h : Keeps s t) (j : Fin 4) (rd : Fin 16) (rs1 : Fin 16) :
    ∃ u, (execPopc j rd rs1 t) = .next u ∧ Keeps s u := by
  unfold execPopc
  repeat' first
    | with_reducible assumption
    | with_reducible apply State.runK_keeps
    | with_reducible refine ⟨_, rfl, ?_⟩

theorem execQfadd_keeps {s t : State} (h : Keeps s t) (j : Fin 4) (rd : Fin 16) (rs1 : Fin 16) (rs2 : Fin 16) (a : optParam TargetAnswer TargetAnswer.data) :
    ∃ u, (execQfadd j rd rs1 rs2 t a) = .next u ∧ Keeps s u := by
  unfold execQfadd
  repeat' first
    | with_reducible assumption
    | with_reducible apply State.runSteps_keeps
    | with_reducible apply State.runK_keeps
    | with_reducible refine ⟨_, rfl, ?_⟩

theorem execQswap_keeps {s t : State} (h : Keeps s t) (j : Fin 4) (rd : Fin 16) (rs1 : Fin 16) (rs2 : Fin 16) (a : optParam TargetAnswer TargetAnswer.data) :
    ∃ u, (execQswap j rd rs1 rs2 t a) = .next u ∧ Keeps s u := by
  unfold execQswap
  repeat' first
    | with_reducible assumption
    | with_reducible apply State.runSteps_keeps
    | with_reducible apply State.runK_keeps
    | with_reducible refine ⟨_, rfl, ?_⟩

theorem execRspAbandon_keeps {s t : State} (h : Keeps s t) (j : Fin 4) (mask : Word) :
    ∃ u, (execRspAbandon j mask t) = .next u ∧ Keeps s u := by
  unfold execRspAbandon
  repeat' first
    | with_reducible assumption
    | with_reducible apply State.atSeq_keeps
    | with_reducible apply State.cmdRspAbandon_keeps
    | with_reducible refine ⟨_, rfl, ?_⟩
    | (intro y hy)

theorem execSb_keeps {s t : State} (h : Keeps s t) (j : Fin 4) (rt : Fin 16) (rb : Fin 16) (off : BitVec 12) :
    ∃ u, (execSb j rt rb off t) = .next u ∧ Keeps s u := by
  unfold execSb
  repeat' first
    | with_reducible assumption
    | with_reducible apply State.runSteps_keeps
    | with_reducible apply State.runK_keeps
    | with_reducible refine ⟨_, rfl, ?_⟩

theorem execSd_keeps {s t : State} (h : Keeps s t) (j : Fin 4) (rt : Fin 16) (rb : Fin 16) (off : BitVec 12) :
    ∃ u, (execSd j rt rb off t) = .next u ∧ Keeps s u := by
  unfold execSd
  repeat' first
    | with_reducible assumption
    | with_reducible apply State.runSteps_keeps
    | with_reducible apply State.runK_keeps
    | with_reducible refine ⟨_, rfl, ?_⟩

theorem execSh_keeps {s t : State} (h : Keeps s t) (j : Fin 4) (rt : Fin 16) (rb : Fin 16) (off : BitVec 12) :
    ∃ u, (execSh j rt rb off t) = .next u ∧ Keeps s u := by
  unfold execSh
  repeat' first
    | with_reducible assumption
    | with_reducible apply State.runSteps_keeps
    | with_reducible apply State.runK_keeps
    | with_reducible refine ⟨_, rfl, ?_⟩

theorem execSll_keeps {s t : State} (h : Keeps s t) (j : Fin 4) (rd : Fin 16) (rs1 : Fin 16) (rs2 : Fin 16) :
    ∃ u, (execSll j rd rs1 rs2 t) = .next u ∧ Keeps s u := by
  unfold execSll
  repeat' first
    | with_reducible assumption
    | with_reducible apply State.runK_keeps
    | with_reducible refine ⟨_, rfl, ?_⟩

theorem execSlli_keeps {s t : State} (h : Keeps s t) (j : Fin 4) (rd : Fin 16) (rs1 : Fin 16) (shamt : BitVec 5) :
    ∃ u, (execSlli j rd rs1 shamt t) = .next u ∧ Keeps s u := by
  unfold execSlli
  repeat' first
    | with_reducible assumption
    | with_reducible apply State.runK_keeps
    | with_reducible refine ⟨_, rfl, ?_⟩

theorem execSlt_keeps {s t : State} (h : Keeps s t) (j : Fin 4) (rd : Fin 16) (rs1 : Fin 16) (rs2 : Fin 16) :
    ∃ u, (execSlt j rd rs1 rs2 t) = .next u ∧ Keeps s u := by
  unfold execSlt
  repeat' first
    | with_reducible assumption
    | with_reducible apply State.runK_keeps
    | with_reducible refine ⟨_, rfl, ?_⟩

theorem execSlti_keeps {s t : State} (h : Keeps s t) (j : Fin 4) (rd : Fin 16) (rs1 : Fin 16) (imm : BitVec 12) :
    ∃ u, (execSlti j rd rs1 imm t) = .next u ∧ Keeps s u := by
  unfold execSlti
  repeat' first
    | with_reducible assumption
    | with_reducible apply State.runK_keeps
    | with_reducible refine ⟨_, rfl, ?_⟩

theorem execSltiu_keeps {s t : State} (h : Keeps s t) (j : Fin 4) (rd : Fin 16) (rs1 : Fin 16) (imm : BitVec 12) :
    ∃ u, (execSltiu j rd rs1 imm t) = .next u ∧ Keeps s u := by
  unfold execSltiu
  repeat' first
    | with_reducible assumption
    | with_reducible apply State.runK_keeps
    | with_reducible refine ⟨_, rfl, ?_⟩

theorem execSltu_keeps {s t : State} (h : Keeps s t) (j : Fin 4) (rd : Fin 16) (rs1 : Fin 16) (rs2 : Fin 16) :
    ∃ u, (execSltu j rd rs1 rs2 t) = .next u ∧ Keeps s u := by
  unfold execSltu
  repeat' first
    | with_reducible assumption
    | with_reducible apply State.runK_keeps
    | with_reducible refine ⟨_, rfl, ?_⟩

theorem execSra_keeps {s t : State} (h : Keeps s t) (j : Fin 4) (rd : Fin 16) (rs1 : Fin 16) (rs2 : Fin 16) :
    ∃ u, (execSra j rd rs1 rs2 t) = .next u ∧ Keeps s u := by
  unfold execSra
  repeat' first
    | with_reducible assumption
    | with_reducible apply State.runK_keeps
    | with_reducible refine ⟨_, rfl, ?_⟩

theorem execSrai_keeps {s t : State} (h : Keeps s t) (j : Fin 4) (rd : Fin 16) (rs1 : Fin 16) (shamt : BitVec 5) :
    ∃ u, (execSrai j rd rs1 shamt t) = .next u ∧ Keeps s u := by
  unfold execSrai
  repeat' first
    | with_reducible assumption
    | with_reducible apply State.runK_keeps
    | with_reducible refine ⟨_, rfl, ?_⟩

theorem execSrl_keeps {s t : State} (h : Keeps s t) (j : Fin 4) (rd : Fin 16) (rs1 : Fin 16) (rs2 : Fin 16) :
    ∃ u, (execSrl j rd rs1 rs2 t) = .next u ∧ Keeps s u := by
  unfold execSrl
  repeat' first
    | with_reducible assumption
    | with_reducible apply State.runK_keeps
    | with_reducible refine ⟨_, rfl, ?_⟩

theorem execSrli_keeps {s t : State} (h : Keeps s t) (j : Fin 4) (rd : Fin 16) (rs1 : Fin 16) (shamt : BitVec 5) :
    ∃ u, (execSrli j rd rs1 shamt t) = .next u ∧ Keeps s u := by
  unfold execSrli
  repeat' first
    | with_reducible assumption
    | with_reducible apply State.runK_keeps
    | with_reducible refine ⟨_, rfl, ?_⟩

theorem execSub_keeps {s t : State} (h : Keeps s t) (j : Fin 4) (rd : Fin 16) (rs1 : Fin 16) (rs2 : Fin 16) :
    ∃ u, (execSub j rd rs1 rs2 t) = .next u ∧ Keeps s u := by
  unfold execSub
  repeat' first
    | with_reducible assumption
    | with_reducible apply State.runK_keeps
    | with_reducible refine ⟨_, rfl, ?_⟩

theorem execSubs_keeps {s t : State} (h : Keeps s t) (j : Fin 4) (rd : Fin 16) (rs1 : Fin 16) (rs2 : Fin 16) :
    ∃ u, (execSubs j rd rs1 rs2 t) = .next u ∧ Keeps s u := by
  unfold execSubs
  repeat' first
    | with_reducible assumption
    | with_reducible apply State.runK_keeps
    | with_reducible refine ⟨_, rfl, ?_⟩

theorem execSw_keeps {s t : State} (h : Keeps s t) (j : Fin 4) (rt : Fin 16) (rb : Fin 16) (off : BitVec 12) :
    ∃ u, (execSw j rt rb off t) = .next u ∧ Keeps s u := by
  unfold execSw
  repeat' first
    | with_reducible assumption
    | with_reducible apply State.runSteps_keeps
    | with_reducible apply State.runK_keeps
    | with_reducible refine ⟨_, rfl, ?_⟩

theorem execSync_keeps {s t : State} (h : Keeps s t) (j : Fin 4) :
    ∃ u, (execSync j t) = .next u ∧ Keeps s u := by
  unfold execSync
  repeat' first
    | with_reducible assumption
    | with_reducible apply State.runSteps_keeps
    | with_reducible apply State.runK_keeps
    | with_reducible refine ⟨_, rfl, ?_⟩

theorem execWaite_keeps {s t : State} (h : Keeps s t) (j : Fin 4) (rd : Fin 16) (rs1 : Fin 16) (rs2 : Fin 16) :
    ∃ u, (execWaite j rd rs1 rs2 t) = .next u ∧ Keeps s u := by
  unfold execWaite
  repeat' first
    | with_reducible assumption
    | with_reducible apply State.runK_keeps
    | with_reducible refine ⟨_, rfl, ?_⟩

theorem execWaitp_keeps {s t : State} (h : Keeps s t) (j : Fin 4) (rd : Fin 16) (rs2 : Fin 16) (w : Fin 4) :
    ∃ u, (execWaitp j rd rs2 w t) = .next u ∧ Keeps s u := by
  unfold execWaitp
  repeat' first
    | with_reducible assumption
    | with_reducible apply State.runK_keeps
    | with_reducible refine ⟨_, rfl, ?_⟩

theorem execWdKick_keeps {s t : State} (h : Keeps s t) (j : Fin 4) :
    ∃ u, (execWdKick j t) = .next u ∧ Keeps s u := by
  unfold execWdKick
  repeat' first
    | with_reducible assumption
    | with_reducible apply State.atSeq_keeps
    | with_reducible apply State.cmdWdKick_keeps
    | with_reducible refine ⟨_, rfl, ?_⟩
    | (intro y hy)

theorem execXor_keeps {s t : State} (h : Keeps s t) (j : Fin 4) (rd : Fin 16) (rs1 : Fin 16) (rs2 : Fin 16) :
    ∃ u, (execXor j rd rs1 rs2 t) = .next u ∧ Keeps s u := by
  unfold execXor
  repeat' first
    | with_reducible assumption
    | with_reducible apply State.runK_keeps
    | with_reducible refine ⟨_, rfl, ?_⟩

theorem execXori_keeps {s t : State} (h : Keeps s t) (j : Fin 4) (rd : Fin 16) (rs1 : Fin 16) (imm : BitVec 12) :
    ∃ u, (execXori j rd rs1 imm t) = .next u ∧ Keeps s u := by
  unfold execXori
  repeat' first
    | with_reducible assumption
    | with_reducible apply State.runK_keeps
    | with_reducible refine ⟨_, rfl, ?_⟩

end Sys2Proof.Machine
end

