-- ==== Sys2Proof/Laws/Krytis.lean ====
section
/-!
SUPPORT. What a pair that executes does with one instruction: a legal one is performed, its end is
`State.retires`, a load and a store of its own memory reach that memory alone.
-/

namespace Sys2Proof.Machine

/-- A change that leaves a pair as it is changes nothing. -/
theorem State.modPair_id (s : State) (j : Fin 4) (f : Pair → Pair) (h : f (s.pair j) = s.pair j) : s.modPair j f = s := by
  unfold State.modPair
  rw [h]
  simp only [State.pair, Fin.getElem_fin, Vector.set_getElem_self]

/-- Two changes of a pair are one. -/
theorem State.modPair_modPair (s : State) (j : Fin 4) (f g : Pair → Pair) :
    (s.modPair j f).modPair j g = s.modPair j fun p => g (f p) := by
  unfold State.modPair
  simp only [State.pair, Fin.getElem_fin, Vector.getElem_set_self, Vector.set_set]

theorem State.executes_iff (s : State) (j : Fin 4) :
    s.executes j = true ↔
      (s.runs j = true ∧ s.inRom j = false ∧ s.atBreak j = false ∧ (s.pair j).pc < 0x20000
        ∧ (s.pair j).closeDue s.now = false ∧ s.ceBad = [] ∧ s.ueBad = [] ∧ ∀ k, (s.pair k).stepReq = false) := by
  simp [State.executes, List.all_eq_true, and_assoc]

/-- A pair that executes performs a legal instruction. -/
theorem State.runK_executes (s : State) (j : Fin 4) (i : KInstr) (ans : TargetAnswer) (h : s.executes j = true)
    (hi : i.legal = true) : s.runK j (some i) ans = s.perform j i ans := by
  obtain ⟨h1, h2, h3, h4, h5, h6, h7, h8⟩ := (s.executes_iff j).1 h
  have e : (s.modPair j fun p => if p.closeDue s.now then p.close s.now else p) = s :=
    s.modPair_id j _ (by rw [h5]; rfl)
  simp [State.runK, h1, h2, State.executeK, h3, e, Nat.not_le.2 h4, State.readErrs, h6, h7, State.badAt, hi]

/-- No single step is due where none is requested. -/
theorem State.runSteps_of_none (s : State) (h : ∀ k, (s.pair k).stepReq = false) : s.runSteps = s := by
  have e : ∀ l : List (Fin 4), l.foldl State.stepPair s = s := by
    intro l
    induction l with
    | nil => rfl
    | cons k l ih => rw [List.foldl_cons, show s.stepPair k = s by simp [State.stepPair, h k]]; exact ih
  exact e _

/-- The pair after an instruction of it has executed. -/
def Pair.retired (p : Pair) (pc : Nat) : Pair :=
  { p with pc := pc, replay := none, noBrk := false, cur := { p.cur with pre := false } }

/-- An instruction ends in a pair that runs and takes no single step. -/
theorem State.retire_of_runs (s : State) (j : Fin 4) (pc : Nat) (h : (s.pair j).stepReq = false) :
    s.retire j pc = s.modPair j fun p => p.retired (pc % 2 ^ 32) := by
  have e : ((s.modPair j fun p => p.retired (pc % 2 ^ 32)).pair j).stepReq = false := by
    rw [State.pair_modPair_same]; exact h
  unfold State.retire
  change (if _ then _ else (s.modPair j fun p => p.retired (pc % 2 ^ 32))) = _
  rw [if_neg]
  intro c
  change (((s.modPair j fun p => p.retired (pc % 2 ^ 32)).pair j).stepReq && _) = true at c
  rw [e] at c
  simp at c

/-- The instruction changed the pair alone: the pair after it. -/
theorem State.retireWith_of_runs (s : State) (j : Fin 4) (f : Pair → Pair) (h : (s.pair j).stepReq = false)
    (hf : (f (s.pair j)).stepReq = (s.pair j).stepReq) :
    s.retireWith j f = s.modPair j fun p => (f p).retired (((s.pair j).pc + 4) % 2 ^ 32) := by
  unfold State.retireWith
  rw [State.retire_of_runs _ _ _ (by rw [State.pair_modPair_same, hf, h]), State.modPair_modPair]

/-- An instruction that changes its pair alone retires with what `f` leaves in the registers. -/
theorem State.retireWith_retires (s : State) (j : Fin 4) (f : Pair → Pair) (rd : Fin 16) (v : Word) (crs : List Nat)
    (h : s.executes j = true) (hs : (f (s.pair j)).stepReq = (s.pair j).stepReq)
    (hm : (f (s.pair j)).mode = (s.pair j).mode)
    (hk : ∀ r, (f (s.pair j)).kr r = if r = rd ∧ rd ≠ 0 then v else (s.pair j).kr r)
    (hc : ∀ n, n ∉ crs → (f (s.pair j)).ccr n = (s.pair j).ccr n) :
    s.retires (s.retireWith j f) j rd v ((s.pair j).pc + 4) crs := by
  obtain ⟨-, -, -, h4, -, -, -, h8⟩ := (s.executes_iff j).1 h
  rw [State.retireWith_of_runs s j f (h8 j) hs]
  refine ⟨⟨rfl, fun k hk => State.pair_modPair_other s _ hk⟩, ?_, ?_, ?_, ?_⟩ <;> rw [State.pair_modPair_same]
  · show ((s.pair j).pc + 4) % 2 ^ 32 = _
    omega
  · exact hm
  · exact hk
  · exact hc

end Sys2Proof.Machine
end

