-- ==== Sys2Proof/Tests/Slice0.lean ====
section
/-!
SUPPORT. Tests by evaluation: the refusals of the well-formedness checks, words written out from the encoding
tables, the worked examples of the manual, and for each statement with hypotheses a state and operands that
meet them (`test_met_…`). Each test's source is named where it is not the tables of its chapter.
-/

set_option maxRecDepth 20000
set_option Elab.async false

open Sys2Proof Sys2Proof.Machine

namespace Sys2Proof.Tests

/-! ## Well-formedness: each check refuses an ill-formed term -/

theorem test_wf_refuses_operands :
    (Instr.rasterWrite 0 0 []).wf = false
      ∧ (Instr.mac 1 3 1 2).wf = false ∧ (Instr.macu 1 0 1 2).wf = false ∧ (Instr.msu 1 14 1 2).wf = false
      ∧ (Instr.ld 1 5 2 0).wf = false ∧ (Instr.sd 1 15 2 0).wf = false
      ∧ (Instr.crr 1 2 0x008).wf = false ∧ (Instr.crw 1 2 0x013).wf = false
      ∧ (Instr.wdKick 2).wf = false ∧ (Instr.pairHalt 3 3).wf = false ∧ (Instr.pairHalt 1 2).wf = false
      ∧ (Instr.pairStart 3 0 0x20000).wf = false ∧ (Instr.pairStart 3 0 2).wf = false
      ∧ (Instr.cmpArm 0 1 3 true false 0 5).wf = false := by decide +kernel

theorem test_wf_refuses_events :
    (Instr.calPairEnd 0 8 0 0 0 0).wf = false ∧ (Instr.calTimeout 7 4).wf = false ∧ (Instr.calReq 3 13).wf = false
      ∧ (Instr.thermalReading 0 65536 5).wf = false ∧ (Instr.thermalReading 0 5 65536).wf = false
      ∧ (Instr.descriptorFetch 3 (.data [1#8])).wf = false ∧ (Instr.memWipe 116).wf = false
      ∧ (Instr.bar0Access 0 0 none).wf = false ∧ (Instr.bar2Access 0x3FFFFFFF 2 none).wf = false
      ∧ (Instr.dataPortAccess 4 (some [none])).wf = false
      ∧ (Instr.linkUp 0 16).wf = false ∧ (Instr.retrain 5 3).wf = false ∧ (Instr.sealSlot .host 6 0).wf = false := by
  decide +kernel

theorem test_wf_refuses_long_data (d : List Byte) (h : d.length = 65536) :
    (Instr.mgtWrite 0 d 0).wf = false ∧ ∀ k : LongPacket, k.data.length = 65536 →
        (Instr.imageLine 0 k).wf = false := by
  exact ⟨by change decide _ = _; simp [h], fun k hk => by change decide _ = _; simp [hk]⟩

theorem test_wf_accepts : (Instr.mac 1 12 1 2).wf = true ∧ (Instr.ld 1 4 2 0).wf = true
    ∧ (Instr.linkUp 5 16).wf = true ∧ (Instr.memWipe 115).wf = true := by decide +kernel

/-! ## Words of Krytis instructions (09, Table 9.15 and the examples of chapter 9) -/

theorem test_decode_crossing_load : decodeK 0x119C2006#32 = some (.load .lw 6 7 6) := by decide +kernel
theorem test_decode_jal : decodeK 0x37C000C0#32 = some (.jal 15 0xC0) := by decide +kernel
theorem test_decode_addi : decodeK 0x09540FFF#32 = some (.aluI .add 5 5 0xFFF) := by decide +kernel
theorem test_decode_mac : decodeK 0x0C998008#32 = some (.mul .mac 2 6 6) := by decide +kernel
theorem test_decode_bne : decodeK 0x21403FFC#32 = some (.branch .ne 5 0 0x1FFC) := by decide +kernel
theorem test_decode_jalr : decodeK 0x283C0000#32 = some (.jalr 0 15 0) := by decide +kernel
/-- OP 0x10, FN 0x02, other fields 0 (Table 9.10). -/
theorem test_decode_pass : decodeK 0x40002000#32 = some .pass := by decide +kernel
/-- OP 0x01 [31:26], rd 3 [25:22], rs1 4 [21:18], rs2 5 [17:14], FN 0x00 (Tables 9.3, 9.5). -/
theorem test_decode_add : decodeK 0b000001_0011_0100_0101_00000000000000#32 = some (.alu .add 3 4 5) := by decide +kernel
theorem test_decode_unassigned : decodeK 0xFC000000#32 = none := by decide +kernel

/-! ## States -/

/-- A device after its reset sequence. -/
def ready : State := { State.reset with seqRun := false, now := 20000000000000000 }

/-- Pair `j` runs at 0x100. -/
def run (j : Fin 4) (s : State) : State :=
  s.modPair j fun p => { p.openInterval s.now with mode := .running, pc := 0x100 }

/-- Pair 1 runs. -/
def run1 : State := run 1 ready

/-- Registers of pair 1. -/
def setK (s : State) (l : List (Fin 16 × Word)) : State :=
  s.modPair 1 fun p => { p with k := l.foldl (fun v x => v.set x.1 x.2) p.k }

/-- Pair 1 changed. -/
def p1 (f : Pair → Pair) (s : State) : State := s.modPair 1 f

/-- Bar 3 changed. -/
def bar3 (f : Bar → Bar) (s : State) : State := s.modBar 3 f

/-- A queued page of ten lines. -/
def desc0 : PageDesc := ⟨1, 0, 0, 0, false, 10, 0, 0#32, 0, 0#32, 0, 0⟩

/-- Bar 3 inside a page. -/
def inPg (s : State) : State := bar3 (fun b =>
    { b with page := some { desc := desc0, s := 0, next := 3, seen := 3 } }) s

/-- The grid runs. -/
def runG (s : State) : State := (s.put F.GRID_CTL_RUN 1).put F.GRID_STATUS_RUNNING 1

/-- The link is up and the function may send. -/
def link (s : State) : State := (s.put F.SYS_HL_STATUS_LINK_UP 1).put F.SYS_HL_STATUS_BME 1

/-! ## Worked examples of the manual -/

/-- 01, "finding a nozzle and its data". -/
theorem test_nozzle_addresses : globalNozzle 5 3 12345 = 0x15B039
    ∧ entryAddr 5 3 12345 = 0x02152039 := by decide +kernel

/-- 02, "a line at 48 kHz" and "a line at 20 kHz and a refused width". -/
theorem test_schedule_examples :
    let g48 := (List.range 16).map (128 + 2000 * ·)
    let g20 := (List.range 16).map (128 + 4800 * ·)
    fits g48 ⟨0x1F75104D5, 240, 10, 4, 256, 0⟩ = true ∧ fits g20 ⟨0xD1B71759, 500, 60, 7, 256, 0⟩ = true
      ∧ fits g20 ⟨0xD1B71759, 540, 60, 7, 256, 0⟩ = false ∧ fits g20 ⟨0xD1B71759, 520, 60, 7, 256, 0⟩ = true := by
  decide +kernel

/-- 03, "a missing primary found, confirmed and covered": 0x14 becomes 0x16. -/
theorem test_update_example :
    let s := (ready.setBytes 0x0214F839 [0x14#8]).modBar 5 fun b => { b with nst := { b.nst with
      fifo := [BitVec.ofNat 64 (0x00098839 + 0x0302 * 2 ^ 32)] } }
    (match execUpdateApplyImmediate 5 s with | .next t => t.byteAt 0x0214F839 | _ => 0#8) = 0x16#8 := by
  decide +kernel

/-- 08, "a hot segment throttled in leader mode": 8 units a reading are 1,250 mK/ms, 6 units are 937. -/
theorem test_rate_example : rateOf ((List.range 8).map fun (i : Nat) => 8 * (i : Int)) = 1250
    ∧ rateOf ((List.range 8).map fun (i : Nat) => 6 * (i : Int)) = 937 := by decide +kernel

/-- 09, "a crossing load from Quadrille": K6 becomes 0x9988_7766. -/
theorem test_crossing_load_example :
    let s := setK (run1.setBytes 0x04000100 ((List.range 16).map fun i =>
        BitVec.ofNat 8 (0x11 * i))) [(7, 0x44000100#32)]
    (match execLw 1 6 7 6 s with | .next t => (t.pair 1).kr 6 | _ => 0#32) = 0x99887766#32 := by decide +kernel

/-- 09 R267: MAC K2, K2, K3 multiplies the old values. -/
theorem test_mac_old_values :
    (match execMac 1 2 2 3 (setK run1 [(2, 5#32), (3, 7#32)]) with
      | .next t => ((t.pair 1).kr 2, (t.pair 1).kr 3) | _ => (0, 0)) = (40#32, 7#32) := by decide +kernel

/-- 12, "reading SYS_ID": the request CRC is 0x90, the response is 3C 01 0A 60 98 00 3C. -/
theorem test_mgt_read_example :
    let s := ready.put F.MGT_CFG_EN 1
    (match execMgtRead 0x0B#8 0 4 0x90#8 s with | .next t => t.resp.bytes | _ => [])
      = [0x3C#8, 0x01, 0x0A, 0x60, 0x98, 0x00, 0x3C] := by decide +kernel

/-- A write to K0 is discarded (R260). -/
theorem test_k0_discards :
    (match execAddi 1 0 0 5 run1 with | .next t => ((t.pair 1).kr 0, (t.pair 1).pc) | _ => (1, 0))
      = (0#32, 0x104) := by
  decide +kernel

/-- A command in front runs; an empty queue counts 62.5 ns of the RC oscillator after reset. -/
theorem test_step :
    (match step { ready with pending := [.hkill true, .hkill false] } with
      | .next t => (t.hkillLow, t.pending) | _ => (false, [])) = (true, [.hkill false])
      ∧ (match step State.reset with | .next t => t.now | _ => 0) = 4096000 := by decide +kernel

/-- No word spells a command: the table gives its rows no bits. -/
theorem test_no_table_word : decodeTableWord 32 0x119C2006 = none ∧ State.reset.withFetchWord 32 5 = State.reset :=
  ⟨rfl, rfl⟩

/-! ## States that meet the hypotheses of the statements: the machine and the Krytis cores -/

theorem test_met_EmptyQueueCountsTime :
    let xtal := (ready.put F.CLK_CFG_XTAL_EN 1).put F.CLK_STATUS_XTAL_OK 1
    let off := { ready with power := { ready.power with off := true } }
    ready.pending = [] ∧ xtal.pending = [] ∧ off.power.off = true ∧ ready.power.off = false
      ∧ (∀ n, (ready.bar n).closing = none) ∧ ready.power.req = none ∧ ready.g F.PWR_STATUS_STATE < 2
      ∧ (ready.put F.CLK_STATUS_MAIN_LOCK 1).bit F.CLK_STATUS_MAIN_LOCK = true
      ∧ xtal.bit F.CLK_STATUS_MAIN_LOCK = false
      ∧ (xtal.bit F.CLK_CFG_XTAL_EN && xtal.bit F.CLK_STATUS_XTAL_OK) = true
      ∧ (ready.bit F.CLK_CFG_XTAL_EN && ready.bit F.CLK_STATUS_XTAL_OK) = false := by decide +kernel

/-- RegisterArithmeticAndBitCountResults, ImmediateArithmeticResults, SaturatingAndMultiplyResults,
BranchAndJumpResults: a pair that executes; the count of CLZ at a word of 0 and at one with a top bit. -/
theorem test_met_RegisterArithmeticAndBitCountResults : run1.executes 1 = true
    ∧ (run1.pair 1).kr 5 = 0#32 ∧ ((setK run1 [(5, 0x10#32)]).pair 1).kr 5 = 0x10#32
    ∧ (0x10#32).getLsbD (31 - 27) = true := by decide +kernel

theorem test_met_clz_above (i : Nat) (h : 31 - 27 < i) : (0x10#32).getLsbD i = false := by
  by_cases hi : i < 32
  · exact (by decide : ∀ i, i < 32 → 4 < i → (0x10#32).getLsbD i = false) i hi (by omega)
  · exact BitVec.getLsbD_of_ge _ _ (by omega)

theorem test_met_SaturatingAndMultiplyResults :
    (∀ rd ∈ [(2 : Fin 16), 12], rd.val % 2 = 0 ∧ 2 ≤ rd.val ∧ rd.val ≤ 12)
      ∧ (∀ rd ∈ [(0 : Fin 16), 1, 13, 14], rd.val % 2 ≠ 0 ∨ rd.val < 2 ∨ 12 < rd.val)
      ∧ run1.executes 1 = true ∧ (run1.pair 1).level < 9 := by decide +kernel

/-- The effective address of pair 1. -/
def ea (s : State) (rb : Fin 16) (off : BitVec 12) : Nat := ((s.pair 1).kr rb + off.signExtend 32).toNat

/-- Base registers at the ends of the regions, K14 above SLIM. -/
def bases : State := setK run1 [(2, 0x10000000#32), (3, 0x10020000#32), (4, 0x44000000#32), (5, 0x443FFFFC#32),
  (6, 0x44000105#32), (7, 0x00FFFFFC#32), (8, 0x45040000#32), (9, 0x80000000#32), (14, 0x10001000#32)]

/-- OwnMemoryLoadResults and OwnMemoryStoreResults: the first and the last bytes of data memory, and K14 at SLIM. -/
theorem test_met_OwnMemoryAccesses : bases.executes 1 = true
    ∧ ea bases 2 0 = 0x10000000 ∧ ea bases 3 0xFFF + 1 = 0x10020000 ∧ ea bases 3 0xFFE + 2 = 0x10020000
    ∧ ea bases 3 0xFFC + 4 = 0x10020000 ∧ ea bases 3 0xFF8 + 8 = 0x10020000
    ∧ ((p1 (fun p => p.setCcr 4 0x10001000#32) bases).pair 1).ccr 4 = 0x10001000#32
    ∧ ea bases 14 0 = 0x10001000 := by decide +kernel

/-- Words pushed into the FIFO of bar 3 by CMD: NST_PUSH. -/
def pushWords : State := setK run1 [(4, 0x00300005#32), (5, 0x11010000#32)]

theorem test_met_AccessesThroughTheCommitBuffer :
    let full := bar3 (fun b => { b with nst := { b.nst with fifo := List.replicate 1024 0#64 } }) pushWords
    let push := fun (s : State) => pushesBar (.command ((s.pair 1).kr 5 ++ (s.pair 1).kr 4))
    let held := p1 (fun p => { p with cur := { p.cur with outs := [.store 0x44000000 [1]] } }) bases
    let many := p1 (fun p => { p with ready := List.replicate 31 (.command 5#64) }) bases
    let old := p1 (fun p => { p with replay := some (.value [1, 2, 3, 4]) }) bases
    let other := setK run1 [(2, 0x40000000#32), (3, 0x400FBFF8#32), (4, 0x400FC000#32), (5, 0x7FFFFFF8#32), (6, 0x4503FFF8#32)]
    let moved := p1 (fun p => { p with cur := { p.cur with pre := true } }) bases
    let mem := fun (r : Fin 16) => ea other r 0 - 0x40000000
    bases.executes 1 = true ∧ (bases.pair 1).level < 9 ∧ ea bases 4 0 = 0x44000000 ∧ ea bases 5 0 + 4 = 0x44400000
      ∧ ea bases 5 0xFFC + 8 = 0x44400000 ∧ ea bases 5 3 + 1 = 0x44400000 ∧ (held.pair 1).outputs = [.store 0x44000000 [1]]
      ∧ held.executes 1 = true ∧ (bases.pair 1).replay = none ∧ (moved.pair 1).settled = true ∧ moved.executes 1 = true
      ∧ (held.pair 1).settled = false ∧ (old.pair 1).replay = some (.value [1, 2, 3, 4]) ∧ old.executes 1 = true
      ∧ ea bases 7 0 = 0x00FFFFFC ∧ ea bases 7 0 % 4 = 0 ∧ ea bases 7 0xFFC % 8 = 0
      ∧ other.executes 1 = true ∧ bankOf (mem 2) = some (0, 0) ∧ bankOf (mem 3) = some (0, 0xFBFF8)
      ∧ other.bankUp 0 = true ∧ (other.bank 0).wiping = false ∧ mem 3 % 8 = 0
      ∧ bankOf (mem 4) = none ∧ bankOf (mem 5) = none ∧ mem 5 % 8 = 0 ∧ ea other 6 0 < 0x45000000 + 1 * 0x40000
      ∧ (bankOf (mem 6)).any (fun x => x.1 != 74 && other.bankUp x.1) = true
      ∧ 31 ≤ (many.pair 1).buffered ∧ (many.pair 1).buffered + 1 ≤ 32 ∧ many.executes 1 = true ∧ 4 < ea many 6 0 % 8
      ∧ 32 ≤ ((p1 (fun p => { p with ready := List.replicate 32 (.command 5#64) }) bases).pair 1).buffered
      ∧ (∀ b ∈ [64, 65, 66, 67], (bases.bank (bankIx b)).wiping = false)
      ∧ (bases.pair 1).buffered + 2 ≤ 32
      ∧ ea bases 7 0xFFC < 0x00FFFFFF ∧ ea bases 7 0xFFC % 4 = 0 ∧ pushesBar (.store (ea bases 7 0xFFC) []) = none
      ∧ ea bases 5 0 % 8 = 4 ∧ 4 < ea bases 6 0 % 8
      ∧ pushesBar (.command ((bases.pair 1).kr 3 ++ (bases.pair 1).kr 2)) = none
      ∧ push pushWords = some 3 ∧ pushWords.up (barDomain 3) = true ∧ pushWords.executes 1 = true
      ∧ (pushWords.bar 3).nst.level < 1024 ∧ (pushWords.pair 1).buffered < 32
      ∧ push full = some 3 ∧ 1024 ≤ (full.bar 3).nst.level ∧ full.executes 1 = true := by decide +kernel

theorem test_met_DataAccessTraps :
    let low := p1 (fun p => p.setCcr 4 0x10001008#32) bases
    low.executes 1 = true ∧ (low.pair 1).level < 9 ∧ ea low 14 0 < ((low.pair 1).ccr 4).toNat
      ∧ ea bases 7 4 = 0x01000000 ∧ ea bases 2 0xFFF < 0x10000000 ∧ ea bases 3 0 = 0x10020000
      ∧ ea bases 9 0 = 0x80000000 ∧ ea bases 8 0 = 0x45000000 + 1 * 0x40000
      ∧ (ea bases 7 3 < 0x01000000 ∧ 0x01000000 < ea bases 7 3 + 2)
      ∧ (ea bases 8 0xFFF < 0x45040000 ∧ 0x45040000 < ea bases 8 0xFFF + 8)
      ∧ ea bases 7 2 + 2 ≤ 0x01000000 ∧ ea bases 7 0xFFE % 4 ≠ 0
          ∧ ea bases 7 0xFFE + 4 ≤ 0x01000000 := by decide +kernel

theorem test_met_AtomicResults : bases.executes 1 = true ∧ (bases.pair 1).level < 9 ∧ 0x44000000 ≤ ea bases 4 0
    ∧ ea bases 5 0 + 4 ≤ 0x44400000
    ∧ ea bases 4 0 % 4 = 0 ∧ (bases.pair 1).replay = none ∧ (bases.pair 1).settled = false
    ∧ ((p1 (fun p => { p with cur := { p.cur with pre := true } }) bases).pair 1).settled = true
    ∧ ∀ b ∈ [64, 65, 66, 67], (bases.bank (bankIx b)).wiping = false := by decide +kernel

/-- BranchAndJumpResults and IllegalWordAndFetchFaultTrap: a fetch at the end of the instruction space. -/
theorem test_met_FetchFault :
    let s := p1 (fun p => { p with pc := 0x20000 }) run1
    let t := p1 (fun p => p.setLevel 9) s
    s.runs 1 = true ∧ s.inRom 1 = false ∧ s.atBreak 1 = false ∧ (s.pair 1).closeDue s.now = false
      ∧ (s.pair 1).stepReq = false ∧ 0x20000 ≤ (s.pair 1).pc ∧ (s.pair 1).level < 9
      ∧ t.runs 1 = true ∧ (t.pair 1).closeDue t.now = false ∧ 9 ≤ (t.pair 1).level
      ∧ (p1 (fun p => p.setLevel 9) run1).executes 1 = true
      ∧ decodeK 0#32 = none ∧ ((decodeK 0x0C0C0008#32).map KInstr.legal) = some false := by decide +kernel

theorem test_met_BranchAndJumpResults :
    let s := setK run1 [(1, 5#32), (2, 0xFFFFFFFF#32)]
    let a := (s.pair 1).kr 1
    let b := (s.pair 1).kr 2
    s.executes 1 = true ∧ a ≠ b ∧ b.toInt < a.toInt ∧ ¬ a.toInt < b.toInt ∧ a.toNat < b.toNat ∧ ¬ b.toNat < a.toNat
      ∧ a = (s.pair 1).kr 1 := by decide +kernel

/-- Numbers at the ends of each class of control registers, and levels of the three kinds. -/
theorem test_met_ControlRegistersAndEret : run1.executes 1 = true
    ∧ (∀ n ∈ [3, 7, 0x010, 0x013, 0x018, 0x029, 0x030, 0x032, 0x040, 0x05F],
        n ≤ 7 ∨ (0x010 ≤ n ∧ n ≤ 0x013) ∨ (0x018 ≤ n ∧ n ≤ 0x029) ∨ (0x030 ≤ n ∧ n ≤ 0x032) ∨ (0x040 ≤ n ∧ n ≤ 0x05F))
    ∧ (∀ n ∈ [0x008, 0x00F, 0x014, 0x017, 0x02A, 0x02F, 0x033, 0x03F, 0x060, 0x3FF],
        ¬ (n ≤ 7 ∨ (0x010 ≤ n ∧ n ≤ 0x013) ∨ (0x018 ≤ n ∧ n ≤ 0x029) ∨ (0x030 ≤ n ∧ n ≤ 0x032)
          ∨ (0x040 ≤ n ∧ n ≤ 0x05F)))
    ∧ (run1.pair 1).level = 8 ∧ (∀ n ∈ [0, 2, 5, 7, 0x013, 0x030, 0x032],
        n ≤ 2 ∨ (5 ≤ n ∧ n ≤ 7) ∨ n = 0x013 ∨ (0x030 ≤ n ∧ n ≤ 0x032))
    ∧ (∀ l ∈ [0, 7, 9], ((p1 (fun p => p.setLevel l) run1).pair 1).level = l
        ∧ (p1 (fun p => p.setLevel l) run1).executes 1 = true) := by decide +kernel

/-- Pair 1 waits. -/
def waitS (c : WaitFor) (d : Option Nat) (s : State) (code : Option Word := none) : State :=
  p1 (fun p => { p with mode := .waiting ⟨c, 2, d, code⟩ }) s

/-- Slots 4 to 7 of pair 1 are pending; 4 and 5 deliver at levels 2 and 3. -/
def slots (s : State) : State :=
  p1 (fun p => (((p.setCcr 0x012 0xF0#32).setCcr 0x044 0x1A00#32).setCcr 0x045 0x1B00#32).setCcr 0x010 0x18#32) s

theorem test_met_WaitsBeginAndComplete :
    let w := fun c d => (waitS c d (slots run1)).waitOf 1 = some ⟨c, 2, d, none⟩
    let kept := fun c x => (waitS c none (slots run1) (some x)).waitOf 1 = some ⟨c, 2, none, some x⟩
    let pre := p1 (fun p => { p with cur := { p.cur with pre := true } }) run1
    let shut := p1 (fun p => { p with closed := [{ p.cur with closeT := 5 }] }) pre
    let again := p1 (fun p => { p with replay := some (.code 5#32) }) run1
    let armed := (waitS (.comparator 5) (some 5) run1).put (F.POS_CMPc_CTL_ARM 5) 1
    let hit := armed.put ⟨A.POS_CMP_CAUSE, 5, 1⟩ 1
    let able := ((waitS (.line 3 0) (some 5) run1).put F.GRID_CTL_RUN 1).put (F.FPE_CTL_EN 3) 1
    let ticked := { able with grid := { able.grid with ticks := 5 } }
    let inTime := fun (s : State) (d : Option Nat) => ∀ x ∈ d, s.now ≤ x
    run1.executes 1 = true ∧ (run1.pair 1).replay = none ∧ (run1.pair 1).kr 2 = 0#32 ∧ (bases.pair 1).kr 2 ≠ 0#32
      ∧ bases.executes 1 = true ∧ (bases.pair 1).replay = none
      ∧ pre.executes 1 = true ∧ (pre.pair 1).cur.pre = true ∧ (pre.pair 1).closed = []
      ∧ (run1.pair 1).cur.pre = false ∧ shut.executes 1 = true ∧ (shut.pair 1).closed ≠ []
      ∧ again.executes 1 = true ∧ (again.pair 1).replay = some (.code 5#32)
      ∧ kept (.comparator 5) 0#32 ∧ kept (.slots 0xF0#32) 4#32 ∧ kept (.slots 0xF0#32) 0x80000001#32
      ∧ (4#32).toNat < 32 ∧ (0x80000001#32).getLsbD 31 = true ∧ ((slots run1).pair 1).stepReq = false
      ∧ inTime run1 none ∧ inTime run1 (some run1.now) ∧ w (.slots 0xF0#32) (some run1.now) ∧ 5 < run1.now
      ∧ w (.slots 0xF0#32) none ∧ w (.slots 0x01#32) (some 5)
      ∧ ((slots run1).pair 1).nextSlot = some 5 ∧ (0xF0#32).getLsbD 4 = true
      ∧ (((slots run1).pair 1).ccr 0x012).getLsbD 4 = true ∧ (((slots run1).pair 1).ccr 0x012).getLsbD 0 = false
      ∧ 5 ≤ run1.now
      ∧ armed.waitOf 1 = some ⟨.comparator 5, 2, some 5, none⟩ ∧ armed.bit (F.POS_CMPc_CTL_ARM 5) = true
      ∧ armed.bit ⟨A.POS_CMP_CAUSE, 5, 1⟩ = false ∧ hit.waitOf 1 = some ⟨.comparator 5, 2, some 5, none⟩
      ∧ hit.bit ⟨A.POS_CMP_CAUSE, 5, 1⟩ = true ∧ w (.comparator 5) none ∧ run1.bit (F.POS_CMPc_CTL_ARM 5) = false
      ∧ able.waitOf 1 = some ⟨.line 3 0, 2, some 5, none⟩ ∧ able.tick ≤ 0
      ∧ (able.bit F.GRID_CTL_RUN && able.bit (F.FPE_CTL_EN 3) && able.up (barDomain 3)) = true
      ∧ ticked.waitOf 1 = some ⟨.line 3 0, 2, some 5, none⟩ ∧ 0 < ticked.tick
      ∧ (run1.bit F.GRID_CTL_RUN && run1.bit (F.FPE_CTL_EN 3) && run1.up (barDomain 3)) = false := by decide +kernel

theorem test_met_HandlerEntryTakesTheHighestSlot :
    let pre := p1 (fun p => { p with cur := { p.cur with pre := true } }) (slots run1)
    let wait := waitS (.slots 0xF0#32) none (slots run1)
    wait.waitOf 1 ≠ none ∧ (wait.pair 1).nextSlot = some 5 ∧ (wait.pair 1).closed = [] ∧ (wait.pair 1).replay = none
      ∧ (wait.pair 1).stepReq = false ∧ (∀ s ∈ [slots run1, pre], s.runs 1 = true ∧ (s.pair 1).stepReq = false ∧ (s.pair 1).replay = none
        ∧ (s.pair 1).nextSlot = some 5)
      ∧ ((slots run1).pair 1).cur.pre = false ∧ (pre.pair 1).cur.pre = true ∧ (pre.pair 1).closed = []
      ∧ (match execHandlerEntry 1 pre with
        | .next t => t.executes 1 && decide ((pre.pair 1).pc < 2 ^ 32) | _ => false) = true := by decide +kernel

/-! ## Krytis system -/

/-- A closed interval with a written word and an output. -/
def iv : Interval :=
  { k := Vector.replicate 16 7#32, pc := 0x80, cr := [(3, 1#32), (0x10, 0x18#32)],
    undo := [(2, [1, 2, 3, 4, 5, 6, 7, 8])], outs := [.command 9#64], closeT := ready.now - ns 8 }

/-- A store to Quadrille. -/
def quadStore : Output := .store 0x44000100 [1, 2, 3, 4]

theorem test_met_CheckpointsPassAndOutputsArrive :
    let due := p1 (fun p => { p with cur := { p.cur with start := 0, outs := [.command 5#64] } }) run1
    let shut := p1 (fun p => { p with closed := [iv] }) run1
    let out := p1 (fun p => { p with ready := [quadStore] }) run1
    let cur := p1 (fun p => { p with cur := { p.cur with outs := [quadStore] } }) run1
    due.seqRun = false ∧ due.up .core = true ∧ due.runs 1 = true ∧ (due.pair 1).closeDue due.now = true
      ∧ (shut.pair 1).closed = [iv] ∧ (shut.pair 1).restoring = none ∧ iv.closeT + ns 8 ≤ shut.now
      ∧ out.ceBad = [] ∧ out.ueBad = [] ∧ (∀ k, (out.pair k).stepReq = false) ∧ (out.pair 1).ready = [quadStore]
      ∧ 0x44000000 ≤ 0x44000100 ∧ 0x44000100 + 4 ≤ 0x44400000
      ∧ cur.executes 1 = true ∧ (cur.pair 1).settled = false
      ∧ (let x := p1 (fun p => { p with cur := { p.cur with pre := true } }) run1
         x.executes 1 = true ∧ (x.pair 1).settled = true) := by decide +kernel

theorem test_met_FailedComparisonRestoresTheCheckpoint :
    let s := p1 (fun p => { p with closed := [iv] }) run1
    let third := p1 (fun p =>
        { p with closed := [{ iv with retry := true }], fails := [ready.now, ready.now - ms 1] }) run1
    let r := p1 (fun p => { p with restoring := some 5, replay := some (.handler 3 2) }) run1
    let h := p1 (fun p => { p with mode := .halted, restoring := some 5 }) run1
    s.seqRun = false ∧ s.up .core = true ∧ s.ceBad = [] ∧ s.ueBad = [] ∧ (s.pair 1).closed = [iv]
      ∧ (s.pair 1).restoring = none ∧ iv.closeT + ns 8 ≤ s.now ∧ iv.retry = false ∧ (s.pair 1).cur.undo = []
      ∧ (third.pair 1).closed = [{ iv with retry := true }]
      ∧ 2 ≤ ((third.pair 1).fails.filter fun x => decide (third.now ≤ x + ms 1)).length
      ∧ (r.pair 1).restoring ≠ none ∧ (r.pair 1).replay = some (.handler 3 2) ∧ (r.pair 1).mode = .running
      ∧ (h.pair 1).restoring ≠ none ∧ (h.pair 1).mode = .halted := by decide +kernel

theorem test_met_UnitCommandEffects :
    let s := run 2 ready
    let full := s.modCam 1 fun c => { c with areqs := List.replicate 8 ⟨0, 0, 0, 0, 0, false⟩ }
    let slotted := bar3 (fun b => { b with nst := { b.nst with reserved := [((pairMaster 2).key, 1)] } }) s
    s.seqRun = false ∧ s.up .core = true ∧ (s.pair 2).mode = .running ∧ s.holdsPair 0 = false ∧ s.halted 0 = true
      ∧ (0x1FFFC#32).toNat % 4 = 0 ∧ (0x1FFFC#32).toNat < 0x20000 ∧ s.g F.SYS_LC_STATE < 2
      ∧ (∀ n : Fin 32, s.up (barDomain n) = true) ∧ (s.bar 3).nst.level < 1024 ∧ (s.bar 3).nst.stalled = []
      ∧ 0 < (slotted.bar 3).nst.reservedOf (pairMaster 2) ∧ slotted.up (barDomain 3) = true ∧ s.up .pos = true
      ∧ s.up .cam = true ∧ (s.cam 1).areqs.length < 8 ∧ (s.cam 1).store = [] ∧ (s.cam 1).frame = none
          ∧ 8 ≤ (full.cam 1).areqs.length ∧ full.up .cam = true := by
  decide +kernel

theorem test_met_PairControls :
    let field := ready.put F.SYS_LC_STATE 3
    let pass := p1 (fun p => { p with pc := 0x100 }) (ready.setBytes (imemBase 1 + 0x100) [0x00, 0x20, 0x00, 0x40])
    let halting := p1 (fun p => { p with mode := .halting 15 }) run1
    let brk := (run1.put (F.SEQ_Pj_BRK0_EN 1) 1).put (F.SEQ_Pj_BRK0_ADDR 1) 0x40
    ready.takes (A.SEQ_Pj_CTL 1) ∧ ready.halted 1 = true ∧ ready.holdsPair 1 = false ∧ ready.g F.SYS_LC_STATE ≤ 1
      ∧ field.takes (A.SEQ_Pj_CTL 3) ∧ field.halted 1 = true ∧ field.holdsPair 1 = false
      ∧ 2 ≤ field.g F.SYS_LC_STATE ∧ field.bit (F.SEQ_Pj_STATUS_LOADED 1) = false
      ∧ (pass.pair 1).restoring = none ∧ (pass.pair 1).pc < 0x20000 ∧ pass.fetchWord 1 = 0x40002000#32
      ∧ pass.ceBad = [] ∧ pass.ueBad = [] ∧ (∀ k, (pass.pair k).stepReq = false) ∧ pass.halted 1 = true
      ∧ (ready.put (F.SEQ_Pj_KSEL_V 1) 15).g (F.SEQ_Pj_KSEL_V 1) = (15 : Fin 16).val
      ∧ (ready.put (F.SEQ_Pj_KSEL_V 1) 16).g (F.SEQ_Pj_KSEL_V 1) = 16
      ∧ run1.takes (A.SEQ_Pj_CTL 1) ∧ (run1.pair 1).mode = .running
      ∧ ((run 1 field).pair 1).mode = .running ∧ ¬ (run 1 field).g F.SYS_LC_STATE ≤ 1
      ∧ (halting.pair 1).mode = .halting 15 ∧ halting.seqRun = false ∧ halting.up .core = true
      ∧ (halting.pair 1).restoring = none ∧ (halting.pair 1).closed = [] ∧ (halting.pair 1).ready = []
      ∧ brk.runs 1 = true ∧ (brk.pair 1).noBrk = false ∧ brk.bit (F.SEQ_Pj_BRK0_EN 1) = true
      ∧ brk.g (F.SEQ_Pj_BRK0_ADDR 1) = (brk.pair 1).pc / 4 := by decide +kernel

/-- An image of one section of four bytes for a pair (09, Tables 9.17 and 9.18). -/
def image (pair : Nat) : List Byte :=
  leBytes 4 0x5459524B ++ leBytes 2 1 ++ [BitVec.ofNat 8 pair, 1#8] ++ leBytes 4 0x100 ++ leBytes 4 120
    ++ leBytes 4 0x10001000 ++ List.replicate 12 0#8 ++ [1, 0, 0, 0] ++ leBytes 4 0x100 ++ leBytes 4 4 ++ leBytes 4 48
    ++ [0x00, 0x20, 0x00, 0x40]

/-- Pair 3 executes the boot ROM. -/
def rom (s : State) : State :=
  (run 3 { s with boot := { s.boot with rom := true } }).modPair 3 fun p => { p with pc := 0x1C010 }

theorem test_met_WatchdogAndBootRom :
    let l : BootLoad := ⟨0x44001000, 0x44002000, false⟩
    let load := fun n => let s := (rom ready).setBytes 0x04001000 (image n); { s with boot := { s.boot with load := some l } }
    let wd := { ready with boot := { ready.boot with wdOn := true }, now := ms 1000 }
    let warned := { wd with boot := { wd.boot with warned := true } }
    let grace := { wd with graceSince := some 5, graceMet := some 6 }
    let go := (rom ready).put F.SEQ_BOOT_STATUS_STATE 1
    ready.takes A.SEQ_WD_KICK ∧ ready.takes A.SEQ_BOOT_GO ∧ wd.wdRuns = true
      ∧ wd.boot.warned = false ∧ wd.boot.kickT + ms (wd.g F.SEQ_WD_CFG_PERIOD) / 2 ≤ wd.now
          ∧ warned.boot.warned = true
      ∧ wd.boot.kickT + ms (wd.g F.SEQ_WD_CFG_PERIOD) ≤ wd.now ∧ wd.graceSince = none
      ∧ grace.graceMet = some 6 ∧ grace.seqRun = false ∧ grace.graceSince ≠ none ∧ grace.bit F.SEQ_WD_CFG_EN = true
      ∧ 6 + ms (grace.g F.SEQ_WD_CFG_HALT_GRACE) ≤ grace.now
      ∧ go.takes A.SEQ_BOOT_GO ∧ go.g F.SEQ_BOOT_STATUS_STATE = 1 ∧ go.boot.load = none ∧ go.halted 3 = false
      ∧ ready.g F.SEQ_BOOT_STATUS_STATE ≠ 1
      ∧ (go.put F.SEQ_BOOT_STATUS_STATE 3).romExecutes = true ∧ (go.pair 3).pc = 0x1C010
      ∧ (∀ n ∈ [1, 3], (load n).romExecutes = true ∧ (load n).loadChecks l = none ∧ (load n).g F.SYS_LC_STATE ≤ 2
          ∧ (load n).ceBad = [] ∧ ((load n).imageHeader l.src).pair = n) := by decide +kernel

/-! ## Grid, fire, nozzles, raster -/

/-- Sixteen gap times for a width of 100. -/
def gts0 : List Nat := (List.range 16).map fun i => 128 + i * (8 * 100 + 40)

theorem test_met_ScheduleRule : gts0.length = 16 ∧ fits gts0 ⟨2 ^ 48 / 13632, 100, 10, 0, 256, 0⟩ = true
    ∧ fits (gts0.set 0 127) ⟨2 ^ 40, 100, 10, 0, 256, 0⟩ = false
        ∧ fits gts0 ⟨2 ^ 48 / 13500, 100, 10, 0, 256, 0⟩ = false := by
  decide +kernel

theorem test_met_ArmingChecksAndShadows :
    let hand := { bar3 (fun b => { b with handT := some ready.now, check := some ⟨true, false, 5⟩ }) ready with
      grid := { ready.grid with handT := some ready.now, check := some ⟨true, 0, 5⟩ } }
    let later := { hand with now := hand.now + ns 1 }
    let armed := (ready.put (F.FPE_CTL_ARM 3) 1).put F.GRID_CTL_GARM 1
    let bad := (hand.put F.GRID_STROBE_V 1023).put F.GRID_STROBE_LIVE_V 1023
    let badF := (hand.put F.GRID_FREQ_LO_V 0).put F.GRID_FREQ_HI_V 0xFFFF
    let next := { hand with now := hand.now + ns 2 }
    ready.takes (A.FPE_CTL 3) ∧ ready.takes A.GRID_CTL ∧ hand.takes (A.FPE_CTL 3)
      ∧ handedNow (later.bar 3).handT later.now = true ∧ handedNow later.grid.handT later.now = true
      ∧ handedNow (next.bar 3).handT next.now = false ∧ handedNow next.grid.handT next.now = false
      ∧ handedNow (armed.bar 3).handT armed.now = false ∧ armed.bit (F.FPE_CTL_ARM 3) = true
      ∧ ready.bit (F.FPE_CTL_ARM 3) = false ∧ armed.bit F.GRID_CTL_GARM = true ∧ ready.bit F.GRID_CTL_GARM = false
      ∧ (hand.bar 3).check = some ⟨true, false, 5⟩ ∧ hand.barFits 3 = true ∧ (bad.bar 3).check = some ⟨true, false, 5⟩
      ∧ bad.barFits 3 = false ∧ hand.grid.check = some ⟨true, 0, 5⟩ ∧ hand.gridFits = true
      ∧ badF.grid.check = some ⟨true, 0, 5⟩ ∧ badF.gridFits = false := by decide +kernel

/-- GridTicksAndLineSelection: RUN and the line ticks. -/
theorem test_met_GridTicks :
    let inside := inPg (runG ready)
    ready.takes A.GRID_CTL ∧ ready.bit F.GRID_STATUS_RUNNING = false ∧ (runG ready).bit F.GRID_STATUS_RUNNING = true
      ∧ (ready.put F.PWR_STATUS_STATE 1).g F.PWR_STATUS_STATE = 1 ∧ (ready.put F.PWR_STATUS_STATE 1).takes A.GRID_CTL
      ∧ inside.running = true ∧ inside.anyInside = true ∧ inside.takes A.GRID_CTL ∧ ready.anyInside = false
      ∧ (runG ready).tickDue = true ∧ ready.tickDue = false := by decide +kernel

/-- Bar 3 inside a page that starts at `x`, its index 3 next; a pitch of one count. -/
def pgAt (x : Int) (s : State) : State :=
  bar3 (fun b => { b with page := some { desc := desc0, s := x, next := 3, seen := 3 } }) (s.put F.GRID_PITCH_LIVE_V 256)

/-- The lag of index `k` of a page that starts at `x`, in 1/256 line. -/
def lagOf (s : State) (x : Int) (k : Nat) : Rat := (s.predict - ((x + k * s.pitch : Int) : Rat)) * 256 / s.pitch

/-- A power request in progress. -/
def reqS (r : PwrReq) (s : State) : State := { s with power := { s.power with req := some r } }

/-- Line 3 of the stream is ready. -/
def line3 (s : State) : State := bar3 (fun b => { b with rsp := { b.rsp with slots := [⟨3, 0, true⟩] } }) s

/-- Leader mode. -/
def inLead (s : State) : State := s.put F.XPT_CFG_MODE 1

/-- GridTicksAndLineSelection: an index too early, on either edge, and too late; ready and not; both modes. -/
theorem test_met_LineSelection :
    let at_ := fun (x : Int) => pgAt x ready
    let inside := fun (s : State) => (s.bar 3).armed = none ∧ s.bit F.GRID_CTL_GARM = false
      ∧ ((s.bar 3).page.any fun p => decide (p.seen ≤ p.next ∧ p.resendEnd ≤ p.next
        ∧ p.next < p.desc.lines + s.maxRow 3)) = true
    let ready' := fun (s : State) => ∀ r, r < 4 → s.rowOfs 3 r ≤ 3 → 3 - s.rowOfs 3 r < desc0.lines →
      (s.bar 3).rsp.lineReady (desc0.base + (3 - s.rowOfs 3 r)) = true
    inside (at_ 0) ∧ lagOf (at_ 0) 0 3 < -128 ∧ lagOf (at_ (-640)) (-640) 3 = -128 ∧ lagOf (at_ (-896)) (-896) 3 = 128
      ∧ 128 < lagOf (at_ (-897)) (-897) 3 ∧ inside (line3 (at_ (-896))) ∧ ready' (line3 (at_ (-896)))
      ∧ ¬ ready' (at_ (-640)) ∧ (at_ (-640)).leader = false ∧ (inLead (at_ (-640))).leader = true
      ∧ inside (inLead (at_ (-640))) ∧ ¬ ready' (inLead (at_ (-640))) := by decide +kernel

/-- Bar 3, enabled, has a page in its queue. -/
def queued (d : PageDesc) (s : State) : State :=
  let s := (bar3 (fun b => { b with queue := [d] }) s).put (F.FPE_CTL_EN 3) 1
  { s with grid := { s.grid with ticks := 5 } }

/-- GridTicksAndLineSelection: the start of the head page. -/
theorem test_met_PageStart :
    let s := queued desc0 ready
    let gone := (s.put (F.POS_TOFt_SEQ_ANY 0) 1).put (F.POS_TOFt_SEQ_SEQ 0) 100
    let held := (s.put (F.POS_TOFt_SEQ_ANY 0) 1).setReg (A.POS_RING 0 0 4) 0x10000#32
    let abs := queued { desc0 with abs := true, start := -384 } ready
    let armed := bar3 (fun b => { b with armed := some .pageStart }) (abs.put (F.FPE_CTL_ARM 3) 1)
    let head := fun (s : State) => (s.bar 3).page = none ∧ s.bit (F.FPE_CTL_EN 3) = true ∧ (s.bar 3).endTick ≠ s.tick
      ∧ s.portKilled 3 = false
    head s ∧ (s.bar 3).queue = [desc0] ∧ (ready.bit (F.FPE_CTL_EN 3)) = false ∧ (inLead s).g F.XPT_STATUS_STATE ≠ 2
      ∧ s.captureClass 0 0 = .notYet ∧ head gone ∧ gone.captureClass 0 0 = .gone ∧ head held
      ∧ held.captureClass 0 0 = .held ∧ s.leader = false ∧ head abs ∧ head armed ∧ (armed.bar 3).armed = some .pageStart
      ∧ armed.bit (F.FPE_CTL_ARM 3) = true ∧ ((inLead s).put F.XPT_STATUS_STATE 2).g F.XPT_STATUS_STATE = 2 := by
  decide +kernel

/-- PageRecordsPauseAndResend: a page that goes on, ends, is killed and is abandoned, with an arming that it misses. -/
theorem test_met_PageRecords :
    let end_ := fun (f : Page → Page) => bar3 (fun b =>
      { b with page := some (f { desc := desc0, s := 0, next := 10, seen := 10 }), armed := some (.lineNow 9) }) ready
    let done := end_ fun p => { p with endAt := some 0 }
    let lost := inLead (end_ fun p => { p with endAt := some 0, lost := [(2, 1)] })
    let kill := bar3 (fun b => { b with killSeen := true }) (inPg ready)
    let drop := bar3 (fun b => { b with abandon := true }) (inPg ready)
    let late := bar3 (fun b => { b with closing := some (desc0, {}) }) ready
    let page := fun (s : State) => (s.bar 3).page.isSome = true ∧ (s.bar 3).closing = none ∧ s.portKilled 3 = false
    page done ∧ done.leader = false ∧ (0 : Nat) ≤ done.tick ∧ page lost ∧ lost.leader = true ∧ page (inPg ready)
      ∧ page kill ∧ (kill.bar 3).killSeen = true ∧ (kill.bar 3).abandon = false ∧ page drop
      ∧ (drop.bar 3).abandon = true ∧ (drop.bar 3).killSeen = false ∧ (done.bar 3).armed = some (.lineNow 9)
      ∧ late.pending = [] ∧ late.power.off = false ∧ late.power.req = none ∧ late.g F.PWR_STATUS_STATE < 2
      ∧ (late.bar 3).closing = some (desc0, {}) ∧ late.grid.tickT + ns 80 + us 2 ≤ late.now := by decide +kernel

theorem test_met_PauseAndResend :
    let go := inLead (pgAt (-768) ready)
    let stop := { go with grid := { go.grid with stopAt := some 0 } }
    let paused := { go with grid := { go.grid with paused := true, ticks := 1 } }
    let again := line3 (bar3 (fun b => { b with
      page := some { desc := desc0, s := -768, next := 3, seen := 5, resendEnd := 5, lost := [(3, 1)] } }) go)
    go.leader = true ∧ go.grid.paused = false ∧ ready.leader = false ∧ paused.grid.paused = true
      ∧ stop.grid.stopAt = some 0 ∧ 0 ≤ stop.tick ∧ stop.grid.paused = false ∧ go.grid.stopAt = none
      ∧ (allBars.foldl (fun s n => if s.up (barDomain n) then s.captureTest n else s) go).selectAll.2 ≠ []
      ∧ paused.up .pos = true ∧ paused.tick = paused.grid.stopTick + 1 ∧ paused.up (barDomain 3) = true
      ∧ ((again.bar 3).page.any fun p => decide (p.next < p.resendEnd ∧ p.next < p.seen
          ∧ p.next < p.desc.lines + again.maxRow 3)) = true
      ∧ lagOf again (-768) 3 = 0 ∧ again.indexReady 3 desc0 3 = true := by decide +kernel

theorem test_met_HandOversAndAutotune :
    let chk := bar3 (fun b => { b with check := some ⟨true, false, 5⟩ }) ready
    let sh : ShadowCycle BarCheck := { cycle := portCycleOf ready.now, was := [(A.FPE_WIN_END 3, 7#32)], arm := true }
    let wrote := bar3 (fun b => { b with shadowAt := some sh }) ready
    let garm := ready.put F.GRID_CTL_GARM 1
    let force := fun (l : Nat) => let s := (inPg garm).put F.GRID_CTL_FORCE 1
      { s with grid := { s.grid with forceBar := 3, forceLine := l } }
    let tune := ready.put F.GRID_CTL_AUTOTUNE 1
    let fast := ((tune.put F.POS_CTL_EN 1).put (F.POS_ENCc_CFG_EN 0) 1).modChan 0 fun c =>
      { c with est := { c.est with v := 100000, valid := true } }
    let exact : Rat := fast.axisV * 2 ^ 48 / (1600000000 * ((fast.pitch : Rat) / 256))
    shadowNow (ready.bar 3).shadowAt ready.now = none ∧ (ready.bar 3).check = none
      ∧ shadowNow (wrote.bar 3).shadowAt wrote.now = some sh ∧ sh.check = none ∧ (sh.was.map (·.1)).Nodup
      ∧ (∀ x ∈ sh.was, x.1 ∈ barShadowOffs 3) ∧ (chk.bar 3).check.isSome = true
      ∧ shadowNow (chk.bar 3).shadowAt chk.now = none ∧ ready.bit F.GRID_CTL_GARM = false
      ∧ ((inPg ready).bar 3).page.isSome = true ∧ ready.grid.paused = false ∧ (∀ n, (ready.bar n).page = none)
      ∧ garm.bit F.GRID_CTL_GARM = true ∧ garm.bit F.GRID_CTL_FORCE = false ∧ garm.grid.check = none
      ∧ (∀ n, (garm.bar n).page = none) ∧ (∀ n : Fin 32, garm.stage n ≠ 2)
      ∧ (force 2).bit F.GRID_CTL_GARM = true ∧ (force 2).bit F.GRID_CTL_FORCE = true
      ∧ (force 2).bar (Fin.ofNat 32 3) = (force 2).bar 3 ∧ ((force 2).bar 3).page.isSome = true ∧ (2 : Nat) < 3
      ∧ ((force 2).bar 3).armed = none ∧ shadowNow (force 2).grid.shadowAt (force 2).now = none
      ∧ tune.leader = false ∧ tune.bit F.GRID_CTL_AUTOTUNE = true ∧ tune.grid.sinceTune % 16 = 0
      ∧ tune.speedGood = false ∧ fast.speedGood = true ∧ fast.grid.clampF2 = none
      ∧ ((17592186044 : Nat) : Rat) - 1 / 2 ≤ exact ∧ exact < ((17592186044 : Nat) : Rat) + 1 / 2 := by decide +kernel

/-- The grid ticked 261 times; the port has not taken a frame. -/
def tickedS (s : State) : State :=
  let t := bar3 (fun b => { b with srTaken := false, srMiss := 300, unserved := [1, 2] }) s
  { t with grid := { t.grid with ticked := true, ticks := 260 } }

/-- A status frame with its CRC. -/
def frameOf (n : Nat) : BitVec 128 := BitVec.ofNat 128 (n + crc16 112 n * 2 ^ 112)

/-- A status frame of tick 260 with these states of the segments and head word. -/
def statusOf (segs head : Nat) : BitVec 128 := frameOf (0x5C + 4 * 2 ^ 8 + segs * 2 ^ 16 + head * 2 ^ 80)

theorem test_met_StatusFramesAndSpareLane :
    let s := tickedS ready
    let good := statusOf 0x21212121_01212101 0x1234ABCD
    let closing := bar3 (fun b => { b with closing := some (desc0, {}) }) s
    let taken := bar3 (fun b => { b with srTaken := true }) ready
    s.seqRun = false ∧ s.up (barDomain 3) = true ∧ s.grid.ticked = true ∧ (s.bar 3).srTaken = false
      ∧ s.srFault good = 0 ∧ (s.bar 3).closing = none
      ∧ (∀ k, k < 8 → let st := srField good (16 + 8 * k) 8
          st.testBit 5 = true → st.testBit 0 = true ∧ st.testBit 1 = false ∧ st.testBit 2 = false
              ∧ st.testBit 3 = false)
      ∧ closing.srFault good = 0 ∧ (closing.bar 3).closing = some (desc0, {})
      ∧ s.srFault (frameOf 0x55C) ≠ 0 ∧ closing.srFault (frameOf 0x55C) ≠ 0
      ∧ (taken.bar 3).srTaken = true
      ∧ s.g (F.FPE_SR_CFG_V 3) ≤ (s.bar 3).srMiss ∧ (taken.bar 3).srMiss < taken.g (F.FPE_SR_CFG_V 3)
      ∧ ready.takes (A.FPE_CTL 3) := by decide +kernel

/-- StatusFramesAndSpareLane: segment 3 has not latched the line of an index, or found the line before corrupt. -/
theorem test_met_FailoverOfASegment :
    let l : LineFrame := { idx := some ⟨0, 2, true⟩, data := [3, 4] }
    let s := bar3 (fun b => { b with latched := some l, previous := some l, unserved := [] }) (inPg (tickedS ready))
    let auto := s.put (F.FPE_CTL_AUTO 3) 1
    let fixed := s.put (F.FPE_CTL_AUTO 3) 0
    let used := auto.put (F.FPE_LANE_SPARE_EN 3) 1
    let st := fun (f : BitVec 128) => srField f (16 + 8 * 3) 8
    let missed := fun (k : Nat) => k.testBit 0 = false ∨ k.testBit 1 = true ∨ k.testBit 3 = true
    let f := statusOf 0x21212121_20212121 1
    let g := statusOf 0x21212121_25212121 1
    let noD8 := statusOf 0x21212121_20212121 0
    s.srFault f = 0 ∧ s.srFault g = 0 ∧ s.srFault noD8 = 0 ∧ (s.bar 3).closing = none
      ∧ (st f).testBit 5 = true ∧ (st f).testBit 2 = false ∧ missed (st f) ∧ (s.bar 3).latched = some l
      ∧ 3 ∈ l.data ∧ 3 ∉ l.unserved ∧ 3 ∉ (s.bar 3).unserved ∧ LineFrame.spare (some l) 3 = s.onD8 3 3
      ∧ ((s.bar 3).page.map fun p => p.desc.serial) = some 0
      ∧ auto.bit (F.FPE_CTL_AUTO 3) = true ∧ fixed.bit (F.FPE_CTL_AUTO 3) = false
      ∧ fixed.srFault f = 0 ∧ (fixed.bar 3).previous = some l ∧ auto.bit (F.FPE_LANE_SPARE_EN 3) = false ∧ f.getLsbD 80 = true ∧ auto.bit ⟨A.FPE_LANE 3, 4 + 8, 1⟩ = false
      ∧ used.bit (F.FPE_LANE_SPARE_EN 3) = true ∧ noD8.getLsbD 80 = false ∧ (inLead s).leader = true ∧ s.leader = false
      ∧ LineFrame.spare (some l) 3 = used.onD8 3 3
      ∧ (st g).testBit 5 = true ∧ (st g).testBit 2 = true ∧ ¬ missed (st g) ∧ (s.bar 3).previous = some l := by
  decide +kernel

theorem test_met_KillsAndTheirLatches :
    let low := { ready with hkillLow := true }
    let trip := ready.modThb 3 fun b => { b with trip := true }
    ready.seqRun = false ∧ (∀ m : Fin 32, ready.up (barDomain m) = true) ∧ ready.takes A.GRID_KILL
      ∧ ready.bit F.GRID_KILL_SWKILL = false ∧ ready.hkillLow = false ∧ low.takes A.GRID_KILL ∧ low.hkillLow = true
      ∧ ready.takes (A.FPE_CTL 3) ∧ ready.takes (A.FPE_STATUS 3) ∧ ready.bit (F.FPE_CTL_SWKILL 3) = false
      ∧ ready.tripOn 3 = false ∧ trip.tripOn 3 = true ∧ trip.takes (A.FPE_CTL 3) ∧ trip.takes (A.FPE_STATUS 3) := by
  decide +kernel

/-- The words of a page push of bar 3. -/
def pq (l : List Word) (s : State) : State := l.zipIdx.foldl (fun s x => s.setReg (A.FPE_PQ_W0 3 + 4 * x.2) x.1) s

theorem test_met_PagePushQueuesOrRefuses :
    let good := pq [0x10000005, 20, 7, 0x55, 0x1000, 2, 0xABC, 0] ready
    let full := bar3 (fun b => { b with queue := List.replicate 4 desc0 }) good
    let w := fun (s : State) (k : Nat) => s.reg (A.FPE_PQ_W0 3 + 4 * k)
    let bad := fun (s : State) => w s 1 = 0 ∨ Word.field (w s 0) 29 3 ≠ 0 ∨ Word.field (w s 2) 16 16 ≠ 0
      ∨ Word.field (w s 5) 16 16 ≠ 0 ∨ w s 7 ≠ 0
    let lock := { good.put F.SEQ_WD_CFG_EN 1 with graceSince := some 5 }
    good.takes (A.FPE_CTL 3) ∧ lock.takes (A.FPE_CTL 3) ∧ ¬ bad lock ∧ lock.graceSince ≠ none
      ∧ lock.bit F.SEQ_WD_CFG_EN = true ∧ good.graceSince = none ∧ (full.graceSince = none) ∧ ¬ bad full
      ∧ full.takes (A.FPE_CTL 3) ∧ 4 ≤ (full.bar 3).queue.length
      ∧ ¬ 4 ≤ (good.bar 3).queue.length ∧ ¬ bad good ∧ bad ready ∧ bad (pq [0x30000005, 20, 7, 0, 0, 0, 0, 0] ready)
      ∧ ready.graceSince = none ∧ ¬ 4 ≤ (ready.bar 3).queue.length := by decide +kernel

/-- Update words of the last nozzle of row 2: alone and honouring the lock; the first of a pair. -/
def upd1 : DWord := updWord (BitVec.ofNat 18 (2 * 32768 + 20479)) false true 0x5A 0xFF
/-- The first word of a pair. -/
def upd2 : DWord := updWord (BitVec.ofNat 18 (2 * 32768 + 20479)) true false 0x5A 0xF0

/-- Nozzle update state of bar 3 changed. -/
def nstS (f : Nst → Nst) (s : State) : State := bar3 (fun b => { b with nst := f b.nst }) s

theorem test_met_UpdateWordsQueue :
    let full := nstS (fun x => { x with fifo := List.replicate 1024 upd1 }) ready
    let two := nstS (fun x => { x with stalled := [⟨.host, upd1, 5⟩, ⟨.mgt, upd1, 5⟩] }) ready
    let one := nstS (fun x => { x with stalled := [⟨.mgt, upd1, 5⟩] }) ready
    let slot := nstS (fun x => { x with reserved := [(Master.key .host, 2)] }) full
    ready.takes (A.NST_CTL 3) ∧ (ready.bar 3).nst.reservedOf .host = 0 ∧ (ready.bar 3).nst.level < 1024
      ∧ (ready.bar 3).nst.stalled = []
      ∧ full.takes (A.NST_CTL 3) ∧ (full.bar 3).nst.reservedOf .host = 0 ∧ 1024 ≤ (full.bar 3).nst.level
      ∧ slot.takes (A.NST_CTL 3) ∧ 0 < (slot.bar 3).nst.reservedOf .host
      ∧ two.takes (A.NST_CTL 3) ∧ (two.bar 3).nst.reservedOf .host = 0 ∧ (two.bar 3).nst.stalled ≠ []
      ∧ (two.bar 3).nst.stalled = [⟨.host, upd1, 5⟩, ⟨.mgt, upd1, 5⟩] ∧ (two.bar 3).nst.level < 1024 ∧ two.mgt = none
      ∧ two.power.held = [] ∧ (∀ j, (two.pair j).stepReq = false) ∧ one.mgt = none
          ∧ (∀ j, (one.pair j).stepReq = false)
      ∧ (one.bar 3).nst.stalled = [⟨.mgt, upd1, 5⟩] ∧ 5 + ms 1 ≤ one.now := by decide +kernel

theorem test_met_UpdateWordsApply :
    let entry := 0x02000000 + 3 * 0x40000 + 2 * 20480 + 20479
    let s := nstS (fun x => { x with fifo := [upd1] }) ready
    let lock := s.setBytes entry [0x80]
    let win := { inPg s with grid := { s.grid with ticked := true, ticks := 5, tickT := s.now - ns (80 + 16640) } }
    let lastT := { win with grid := { win.grid with tickT := s.now - ns (80 + 17459) } }
    let late := { win with grid := { win.grid with tickT := s.now - ns (80 + 17460) } }
    let pa := nstS (fun x => { x with fifo := [upd2], pairSince := some 5 }) ready
    let pw := nstS (fun x =>
        { x with fifo := [upd2], pairWindows := 17, windowTick := some win.tick, windowUsed := 3 }) win
    let inWindow := fun (s : State) => (s.bar 3).inPage = true ∧ s.grid.ticked = true
      ∧ s.grid.tickT + ns (80 + 16640) ≤ s.now ∧ s.now < s.grid.tickT + ns (80 + 17459) + ns 1 / 5
    s.updOpen 3 = true ∧ s.ceBad = [] ∧ s.ueBad = [] ∧ (s.bar 3).nst.fifo = [upd1] ∧ updVoid upd1 = false
      ∧ (2 ^ 15 * 2 + 20479 = upd1.toNat % 2 ^ 18) ∧ updPair upd1 = false ∧ (s.bar 3).page = none
      ∧ ¬ (updHonor upd1 = true ∧ (s.byteAt entry).getLsbD 7 = true)
      ∧ (updHonor upd1 = true ∧ (lock.byteAt entry).getLsbD 7 = true) ∧ lock.updOpen 3 = true
          ∧ (lock.bar 3).page = none
      ∧ portBAt (tableBank 3) [⟨0, 2 * 20480 + 20479, [7]⟩] 0 = some (entry, [7]) ∧ (∀ x ∈ [(⟨1, 0, [7]⟩ : PortBWrite)],
          x.word ≠ 0)
      ∧ win.updOpen 3 = true ∧ (win.bar 3).nst.fifo = [upd1] ∧ inWindow win ∧ inWindow lastT ∧ ¬ inWindow late
      ∧ ¬ inWindow s ∧ late.updOpen 3 = true ∧ (win.bar 3).nst.windowTick ≠ some win.tick
      ∧ 0 < win.g (F.NST_CTL_UPD_LIMIT 3)
      ∧ pa.updOpen 3 = true ∧ (pa.bar 3).nst.fifo = [upd2] ∧ updVoid upd2 = false ∧ updPair upd2 = true
      ∧ updHonor upd2 = false ∧ (pa.bar 3).page.isSome = false
      ∧ max ((pa.bar 3).nst.pairSince.getD pa.now) (pa.bar 3).outT + us 10 ≤ pa.now
      ∧ pw.updOpen 3 = true ∧ (pw.bar 3).page.isSome = true ∧ inWindow pw ∧ (pw.bar 3).nst.windowTick = some pw.tick
      ∧ 16 < (pw.bar 3).nst.pairWindows
          ∧ (pw.bar 3).nst.windowUsed < pw.g (F.NST_CTL_UPD_LIMIT 3) := by decide +kernel

/-- UpdateWordsQueueAndApply: void words, pairs of two, a window of one unit, HOLD. -/
theorem test_met_UpdatePairs :
    let low := updWord (BitVec.ofNat 18 (2 * 32768)) false true 0x11 0xFF
    let void := updWord (BitVec.ofNat 18 20480) false false 0x5A 0xFF
    let inW := fun (s : State) => let t := inPg s
      { t with grid := { t.grid with ticked := true, ticks := 5, tickT := t.now - ns (80 + 16640) } }
    let two := fun (a b : DWord) => nstS (fun x => { x with fifo := [a, b] }) ready
    let entry := fun (w : DWord) => 0x02000000 + 3 * 0x40000 + (w.toNat / 2 ^ 15 % 8) * 20480 + w.toNat % 2 ^ 15
    let one := (inW (two upd2 low)).put (F.NST_CTL_UPD_LIMIT 3) 1
    let free := fun (s : State) (w : DWord) => ¬ (updHonor w = true ∧ (s.byteAt (entry w)).getLsbD 7 = true)
    let lock := (two upd2 low).setBytes (entry low) [0x80]
    updVoid void = true ∧ updPair void = false ∧ updPair upd2 = true ∧ updPair low = false ∧ updVoid low = false
      ∧ entry upd2 ≠ entry low ∧ (two upd2 low).updOpen 3 = true ∧ ((two upd2 low).bar 3).nst.fifo = [upd2, low]
      ∧ ((two upd2 low).bar 3).page = none ∧ ((two upd2 void).bar 3).nst.fifo = [upd2, void]
      ∧ free (two upd2 low) upd2 ∧ free (two upd2 low) low ∧ ¬ free lock low ∧ lock.updOpen 3 = true
      ∧ (inW (two upd2 low)).updOpen 3 = true ∧ 2 ≤ (inW (two upd2 low)).g (F.NST_CTL_UPD_LIMIT 3)
      ∧ one.updOpen 3 = true ∧ one.g (F.NST_CTL_UPD_LIMIT 3) = 1 ∧ (one.bar 3).nst.windowTick ≠ some one.tick
      ∧ (ready.put (F.NST_CTL_HOLD 3) 1).bit (F.NST_CTL_HOLD 3) = true := by decide +kernel

/-- FramesAndDropAllocation: an index to send, with its page; the positions of a seam. -/
theorem test_met_FramesAndDropAllocation :
    let s := bar3 (fun b => { b with sel := some (⟨0, 3, true⟩, [0, 1, 2]) }) (inPg (ready.put (F.FPE_CTL_EN 3) 1))
    let again := bar3 (fun b => { b with sel := some (⟨0, 3, false⟩, [1]), lastSent := some {} }) s
    let seam := ready.put (F.NST_STITCH_LIVE_OVERLAP 3) 64
    let f : SegFrame := { warm := 7, line := 255, pcrc := 65535 }
    s.up (barDomain 3) = true ∧ s.ceBad = [] ∧ s.ueBad = [] ∧ (s.bar 3).sel = some (⟨0, 3, true⟩, [0, 1, 2])
      ∧ (s.bar 3).page.isSome = true ∧ (again.bar 3).sel = some (⟨0, 3, false⟩, [1])
      ∧ (again.bar 3).lastSent.isSome = true ∧ (s.bar 3).lastSent = none ∧ s.segOn 3 7 = true
      ∧ 7 ∉ (s.bar 3).unserved ∧ s.stage 3 = 0 ∧ (s.put (F.FPE_LANE_SPARE_EN 3) 1).g (F.FPE_LANE_SPARE_SEG 3) = 0
      ∧ f.warm < 8 ∧ f.line < 256 ∧ f.pcrc < 2 ^ 16 ∧ 0x07 < 2 ^ 8 ∧ 0xFFFF < 2 ^ 16
      ∧ 0 < seam.g (F.NST_STITCH_LIVE_OVERLAP 3) ∧ seam.segOn 3 6 = true ∧ seam.segOn 3 7 = true ∧ desc0.kind = 0
      ∧ 10240 - 64 ≤ 10239 ∧ (63 : Nat) < 64 ∧ 20479 / 5120 = 3 := by decide +kernel

/-- Raster supply of bar 3 changed. -/
def rspS (f : Rsp → Rsp) (s : State) : State := bar3 (fun b => { b with rsp := f b.rsp }) s

theorem test_met_PlainRasterLandsInItsSlot :
    let r := (ready.bar 3).rsp
    ready.seqRun = false ∧ ready.up (barDomain 3) = true ∧ ready.bit (F.RSP_CTL_FMT 3) = false ∧ ready.ceBad = []
      ∧ ready.ueBad = [] ∧ (∀ n ∈ [2 * 20480, 2 * 20480 + 20477, 48 * 20480], n % 20480 + 3 ≤ 20480)
      ∧ (∀ l ∈ [2, 47, 48], r.discarded l = false ∧ r.release ≤ l ∧ r.lineReady l = false)
      ∧ 47 < r.release + 48 ∧ r.release + 48 ≤ 48 := by decide +kernel

/-- A packed stream in bar 3. -/
def livePk (s : State) : State := s.put (F.RSP_CTL_FMT 3) 1

/-- Staged bytes of bar 3. -/
def stageB (l : List Byte) (s : State) : State :=
  rspS (fun r => { r with stageIn := l.length }) (s.setBytes (3 * 0x100000 + 0xF0000) l)

/-- A page header of ten lines of page 7 (04). -/
def hdr : List Byte := leBytes 4 0x98604B50 ++ leBytes 3 7 ++ [0#8] ++ leBytes 4 10 ++ leBytes 4 0

/-- The descriptor it agrees with. -/
def copy0 : DescCopy := ⟨7, 0, 10, 100, 0⟩

theorem test_met_PackedDecoder :
    let none' := livePk (stageB hdr ready)
    let some' := livePk (stageB hdr (rspS (fun r => { r with copies := [copy0] }) ready))
    let wrong := livePk (stageB (hdr.set 5 9) (rspS (fun r => { r with copies := [copy0] }) ready))
    let pad := livePk (stageB [0x00, 0xC0] (rspS (fun r => { r with dec := .tokens copy0 5 none (some 0) }) ready))
    let zero := livePk (rspS (fun r =>
        { r with release := 90, dec := .tokens copy0 1281 (some (.zero, 1)) (some 1) }) ready)
    let beg := livePk (rspS (fun r => { r with release := 90, dec := .tokens copy0 1280 none none }) ready)
    let fin := livePk (rspS (fun r => { r with release := 90, dec := .tokens copy0 12800 none (some 9) }) ready)
    let open' := fun (s : State) => s.decLive 3 = true ∧ s.ceBad = [] ∧ s.ueBad = [] ∧ (s.bar 3).rsp.waiting = []
    let rr := fun (s : State) => (s.bar 3).rsp
    open' none' ∧ (rr none').dec = .header ∧ (rr none').stageOut + 16 ≤ (rr none').stageIn ∧ (rr none').copies = []
      ∧ open' some' ∧ (rr some').dec = .header ∧ (rr some').copies = [copy0]
          ∧ headerFault (some'.stagedBytes 3 16) copy0 = 0
      ∧ (some'.put (F.RSP_STATUS_DEC 3) 2).g (F.RSP_STATUS_DEC 3) = 2 ∧ open' (some'.put (F.RSP_STATUS_DEC 3) 2)
      ∧ open' wrong ∧ headerFault (wrong.stagedBytes 3 16) copy0 ≠ 0
      ∧ open' pad ∧ (rr pad).dec = .tokens copy0 5 none (some 0) ∧ (rr pad).stageOut + 2 ≤ (rr pad).stageIn
      ∧ 5 < copy0.lines * 1280 ∧ (∀ l ∈ some 0, 5 ≠ (l + 1) * 1280) ∧ leNat (pad.stagedBytes 3 2) = 0xC000
      ∧ open' zero ∧ (rr zero).dec = .tokens copy0 1281 (some (.zero, 1)) (some (1281 / 1280))
      ∧ (rr zero).discarded (copy0.base + 1281 / 1280) = false
      ∧ open' beg ∧ (rr beg).dec = .tokens copy0 1280 none none ∧ (rr beg).slotOpen (copy0.base + 1) = true
      ∧ beg.bit F.GRID_CTL_RUN = false ∧ (rr beg).discarded (copy0.base + 1) = false
      ∧ open' fin ∧ (rr fin).dec = .tokens copy0 ((9 + 1) * 1280) none (some 9) := by decide +kernel

/-- PackedDecoderAndStreamControl: tokens at each place, and a word of each kind of run. -/
theorem test_met_PackedTokens :
    let at_ := fun (word : Nat) (tok : List Byte) =>
      livePk (stageB tok (rspS (fun r => { r with dec := .tokens copy0 word none none }) ready))
    let run := fun (k : RunKind) (word : Nat) (bytes : Nat) => livePk (stageB (List.replicate bytes 5)
      (rspS (fun r => { r with dec := .tokens copy0 word (some (k, 1)) (some (word / 1280)) }) ready))
    let rr := fun (s : State) => (s.bar 3).rsp
    let open' := fun (s : State) => s.decLive 3 = true ∧ s.ceBad = [] ∧ s.ueBad = [] ∧ (rr s).waiting = []
    let tok := fun (s : State) => leNat (s.stagedBytes 3 2)
    let last := copy0.lines * 1280
    (∀ x ∈ [(5, [1, 0xC0]), (last - 1, [1, 0x00]), (5, [0xFF, 0xFF]), (last, [0, 0x40]), (last, [0xFF, 0xFF]),
        (last - 4, [3, 0x80])], open' (at_ x.1 x.2) ∧ (rr (at_ x.1 x.2)).dec = .tokens copy0 x.1 none none
          ∧ (rr (at_ x.1 x.2)).stageOut + 2 ≤ (rr (at_ x.1 x.2)).stageIn)
      ∧ tok (at_ 5 [1, 0xC0]) = 0xC001 ∧ tok (at_ (last - 1) [1, 0x00]) = 1 ∧ last < last - 1 + 1 + 1
      ∧ tok (at_ 5 [0xFF, 0xFF]) = 0xFFFF ∧ tok (at_ last [0, 0x40]) = 0x4000 ∧ last - 4 + 3 + 1 ≤ last
      ∧ (rr (at_ (last - 4) [3, 0x80])).discarded (copy0.base + (last - 4) / 1280) = false
      ∧ open' (run .literal 1281 16) ∧ (rr (run .literal 1281 16)).stageOut + 16 ≤ (rr (run .literal 1281 16)).stageIn
      ∧ (rr (run .literal 1281 15)).stageIn < (rr (run .literal 1281 15)).stageOut + 16
      ∧ (rr (run .literal 1281 16)).dec = .tokens copy0 1281 (some (.literal, 1)) (some (1281 / 1280))
      ∧ (rr (run .copy 1279 0)).dec = .tokens copy0 1279 (some (.copy, 1)) (some (1279 / 1280))
      ∧ (rr (run .copy 1280 0)).dec = .tokens copy0 1280 (some (.copy, 1)) (some (1280 / 1280))
      ∧ (rr (run .copy 1280 0)).discarded (copy0.base + 1280 / 1280) = false ∧ open' (run .copy 1280 0)
      ∧ open' (run .copy 1279 0) := by decide +kernel

theorem test_met_StreamControl : ready.takes (A.RSP_CTL 3) ∧ (ready.bar 3).page = none
    ∧ (inPg ready).takes (A.RSP_CTL 3) ∧ ((inPg ready).bar 3).page.isSome = true := by decide +kernel

/-! ## Position and transport -/

/-- The position unit runs with encoder 1 as primary and encoder 2 as secondary. -/
def pos0 : State := ((((((ready.put F.POS_CTL_EN 1).put (F.POS_ENCc_CFG_EN 1) 1).put (F.POS_ENCc_CFG_EN 2) 1).put
  F.POS_AXIS_CFG_PRI 1).put F.POS_AXIS_CFG_SEC 2).put F.POS_AXIS_CFG_AUTO_FO 1).put F.POS_SSI_CFG_EN 1

/-- A channel changed. -/
def chanS (c : Fin 5) (f : Chan → Chan) (s : State) : State := s.modChan c f

theorem test_met_EncoderInputsCount :
    let e := encChan 1
    let clean := chanS e (fun c => { c with wire := [true, false, true], cleanSince := 5 }) pos0
    let filt := pos0.put (F.POS_ENCc_CFG_FILT 1) 3
    let moved := chanS e (fun c =>
        { c with aT := some (filt.now - 4 * posCycle), zT := some (filt.now - 8 * posCycle) }) filt
    let equal := fun (t : Nat) => chanS e (fun c =>
        { c with same := [none, some t, none] }) (pos0.put (F.POS_ENCc_CFG_TDIS 1) 4)
    let long := equal (ready.now - 4 * posCycle - 1)
    let held := chanS e (fun c => { c with heldCorr := 5 }) pos0
    let z := pos0.put (F.POS_ENCc_CFG_ZEN 1) 1
    moved.encLive 1 = true ∧ (filt.chan e).aT = none ∧ filt.encLive 1 = true
      ∧ (∀ x ∈ (moved.chan e).aT, x + (moved.g (F.POS_ENCc_CFG_FILT 1) + 1) * posCycle ≤ moved.now)
      ∧ (∀ x ∈ (moved.chan e).zT, x + 2 * (moved.g (F.POS_ENCc_CFG_FILT 1) + 1) * posCycle ≤ moved.now)
      ∧ (pos0.chan e).same[1]? = some none ∧ (long.chan e).same[1]? = some (some (long.now - 4 * posCycle - 1))
      ∧ long.posLive = true ∧ (long.chan e).live[1]? = some false
      ∧ long.now - 4 * posCycle - 1 + long.g (F.POS_ENCc_CFG_TDIS 1) * posCycle < long.now
      ∧ ((equal ready.now).chan e).same[1]? = some (some ready.now) ∧ some ready.now ∈ ((equal ready.now).chan e).same
      ∧ (equal ready.now).takes A.POS_ENC_CAUSE ∧ (pos0.chan e).zT = none ∧ (∀ x ∈ (clean.chan e).same, x = none)
      ∧ pos0.encLive 1 = true ∧ ((pos0.chan e).a, (pos0.chan e).b) = (false, false) ∧ pos0.activeSrc = some e
      ∧ pos0.onSec = false ∧ pos0.axisLost = false ∧ pos0.softLo * 2 ^ 24 ≤ pos0.pos.c - 2 ^ 24
      ∧ pos0.pos.c + 2 ^ 24 ≤ pos0.softHi * 2 ^ 24 ∧ pos0.encLive 2 = true ∧ pos0.activeSrc ≠ some (encChan 2)
      ∧ z.encLive 1 = true ∧ z.bit (F.POS_ENCc_CFG_ZEN 1) = true ∧ z.bit (F.POS_ENCc_CFG_ZGATE 1) = false
      ∧ z.g (F.POS_ENCc_PER_V 1) = 0
      ∧ clean.takes A.POS_ENC_CAUSE
      ∧ (clean.chan e).cleanSince + ms 1 ≤ clean.now
      ∧ (let late := { pos0 with now := ms 1 - 1 }; late.takes A.POS_ENC_CAUSE
          ∧ late.now < (late.chan e).cleanSince + ms 1)
      ∧ held.anyInPage = false ∧ (held.chan e).heldCorr ≠ 0 := by decide +kernel

theorem test_met_SsiFramesAreTakenOrRejected :
    let ssi := fun (f : Ssi → Ssi) => { pos0 with pos := { pos0.pos with ssi := f pos0.pos.ssi } }
    let s := (ssi fun x => { x with running := true }).put F.POS_SSI_CFG_PAR 0
    let three := ssi fun x => { x with rejects := 3 }
    let x := s.pos.ssi
    let atTicks := fun (s : State) => s.running = true ∧ s.bit F.POS_SSI_CFG_TRIG = false
    let free := (ssi fun x => { x with lastStart := pos0.now - 3 * us 50 - 5 }).put F.POS_SSI_PERIOD_V 50
    let tick := fun (t : Nat) => let s := runG pos0; { s with grid := { s.grid with ticked := true, tickT := t } }
    let now := tick (ready.now - posCycle + 1)
    let late := tick (ready.now - posCycle)
    now.ssiLive = true ∧ now.pos.ssi.running = false ∧ atTicks now ∧ now.grid.ticked = true
      ∧ now.now < now.grid.tickT + posCycle ∧ atTicks late ∧ late.grid.tickT + posCycle ≤ late.now
      ∧ free.ssiLive = true ∧ free.pos.ssi.running = false ∧ ¬ atTicks free ∧ 0 < free.g F.POS_SSI_PERIOD_V
      ∧ free.now = free.pos.ssi.lastStart + 3 * us (free.g F.POS_SSI_PERIOD_V) + 5
      ∧ s.ssiLive = true ∧ x.running = true ∧ s.g F.POS_SSI_CFG_PAR = 0 ∧ s.bit F.POS_SSI_CFG_GRAY = false
      ∧ x.fallT + (2 * s.g F.POS_SSI_CFG_BITS + 1) * (s.g F.POS_SSI_CFG_DIV + 1) * posCycle ≤ s.now
      ∧ x.startLow = false ∧ x.prev = none ∧ 3 ≤ three.pos.ssi.rejects := by decide +kernel

/-- FailoverCapturesAndComparators: when an anchor is due, and one that agrees with the one before. -/
theorem test_met_AxisAnchors :
    let atTick := let s := runG pos0; { s with grid := { s.grid with ticked := true, ticks := 5 } }
    let soon := { pos0 with pos := { pos0.pos with anchorT := pos0.now } }
    let due := fun (s : State) => (s.bit F.GRID_CTL_RUN = true ∧ s.grid.ticked = true
        ∧ s.pos.anchorTick ≠ some s.tick)
      ∨ (s.bit F.GRID_CTL_RUN = false ∧ s.pos.anchorT + us 10 ≤ s.now)
    let two := fun (s : State) => s.priSrc = some (encChan 1) ∧ s.secSrc = some (encChan 2) ∧ s.posLive = true
    let none_ := pos0.put F.POS_AXIS_CFG_SEC 7
    let next := { atTick with pos := { atTick.pos with anchor := some ⟨5, 0, 0⟩ } }
    two pos0 ∧ due pos0 ∧ pos0.pos.anchor = none ∧ two atTick ∧ due atTick ∧ atTick.priOk = true ∧ two soon ∧ ¬ due soon
      ∧ two next ∧ due next ∧ next.priOk = true ∧ next.pos.anchor = some ⟨5, 0, 0⟩
      ∧ (((next.chan 1).raw - 0) * 2 ^ 24 - ((next.chan 2).raw - 0) * (next.g F.POS_SEC_RATIO_V : Int)).natAbs
          ≤ next.g F.POS_FO_CFG_DIVERGE * 2 ^ 24
      ∧ none_.secSrc = none ∧ (pos0.put F.POS_AXIS_CFG_PRI 7).priSrc = none := by decide +kernel

theorem test_met_AxisFailsOverAndRebases :
    let still := chanS 1 (fun c => { c with est := { c.est with hist := [(5, 5)], v := 7, valid := true } }) pos0
    let anchor := { pos0 with pos := { pos0.pos with anchor := some ⟨5 * 2 ^ 24, 7, 9⟩ } }
    let far := chanS 1 (fun c => { c with raw := 500 }) anchor
    let bad := fun (c : Fin 4) (s : State) =>
      (chanS (encChan c) (fun c =>
          { c with live := [true, false, false], wire := [true, false, false] }) s).put (encCause c 0) 1
    let s1 := bad 1 anchor
    let s2 := bad 2 (bad 1 pos0)
    let lost := pos0.put F.POS_AXIS_STATUS_LOST 1
    let hand := bad 1 (pos0.put F.POS_AXIS_CFG_AUTO_FO 0)
    let two := fun (s : State) => s.priSrc = some (encChan 1) ∧ s.secSrc = some (encChan 2) ∧ s.posLive = true
      ∧ s.onSec = false
    (still.chan 1).est.hist = [(5, 5)] ∧ 5 + us (still.g F.POS_EST_CFG_STANDSTILL) < still.now
      ∧ two pos0 ∧ pos0.priOk = true ∧ pos0.pos.anchor = none
      ∧ two lost ∧ lost.axisLost = true ∧ s1.axisLost = false ∧ pos0.failReason (encChan 1) true = 0
      ∧ two hand ∧ hand.axisLost = false ∧ hand.failReason (encChan 1) true ≠ 0
          ∧ hand.bit F.POS_AXIS_CFG_AUTO_FO = false
      ∧ (bad 1 pos0).secOk = true ∧ (bad 1 pos0).pos.anchor = none ∧ (bad 1 pos0).bit F.POS_AXIS_CFG_AUTO_FO = true
      ∧ two far ∧ far.priOk = true ∧ far.pos.anchor = some ⟨5 * 2 ^ 24, 7, 9⟩
      ∧ far.g F.POS_FO_CFG_DIVERGE * 2 ^ 24 < (((far.chan (encChan 1)).raw - 9) * 2 ^ 24
          - ((far.chan (encChan 2)).raw - 7) * (far.g F.POS_SEC_RATIO_V : Int)).natAbs
      ∧ two s1 ∧ s1.failReason (encChan 1) true ≠ 0 ∧ s1.bit F.POS_AXIS_CFG_AUTO_FO = true ∧ s1.secOk = true
      ∧ s1.pos.anchor = some ⟨5 * 2 ^ 24, 7, 9⟩
      ∧ two s2 ∧ s2.failReason (encChan 1) true ≠ 0 ∧ s2.secOk = false ∧ s2.axisLost = false := by decide +kernel

/-- FailoverCapturesAndComparators: USE_PRI and a rebase. -/
theorem test_met_UsePriAndRebase :
    let sick := (chanS (encChan 1) (fun c =>
      { c with live := [true, false, false], wire := [true, false, false] }) pos0).put (encCause 1 0) 1
    pos0.takes A.POS_CTL ∧ pos0.running = false ∧ pos0.priOk = true ∧ (runG pos0).takes A.POS_CTL
      ∧ (runG pos0).priOk = true ∧ (runG pos0).running = true ∧ sick.takes A.POS_CTL ∧ sick.priOk = false
      ∧ (inPg pos0).takes A.POS_CTL ∧ (inPg pos0).anyInside = true ∧ pos0.anyInside = false := by decide +kernel

theorem test_met_Captures :
    let s := pos0.put (F.POS_TOFt_CFG_EN 2) 1
    let tof := fun (f : Tof → Tof) => { s with pos := { s.pos with tof := s.pos.tof.set 2 (f s.pos.tof[2]) } }
    let cap : Capture := ⟨5 * 65536, 77, 5, 3, true, 5, 1, false⟩
    let far : Capture := { cap with t := s.now, c := 10 ^ 15 }
    let p := tof fun x => { x with pend := [cap] }
    let young := tof fun x => { x with level := true, pend := [{ cap with t := s.now - 1 }] }
    let two := (tof fun x => { x with pend := [{ far with t := s.now - 1 }] }).put (F.POS_TOFt_CFG_MINW 2) 0
    let near := (tof fun x => { x with last := some 0 }).put (F.POS_TOFt_CFG_LOCKOUT 2) 1
    let nearPend := (tof fun x => { x with pend := [{ cap with t := s.now }] }).put (F.POS_TOFt_CFG_LOCKOUT 2) 1
      |>.put (F.POS_TOFt_CFG_MINW 2) 0
    let waits := fun (s : State) (p : Capture) =>
      s.now < p.t + max (s.g (F.POS_TOFt_CFG_MINW 2)) s.captureFilter * posCycle
    let edge := fun (s : State) (level : Bool) => s.posLive = true ∧ level ≠ (s.tofIn 2).level
      ∧ ∀ p ∈ (s.tofIn 2).pend, waits s p
    let takes := fun (s : State) => edge s true ∧ s.bit (F.POS_TOFt_CFG_EN 2) = true
      ∧ true ≠ s.bit (F.POS_TOFt_CFG_EDGE 2)
      ∧ ∀ p ∈ (s.tofIn 2).pend, p.t + s.g (F.POS_TOFt_CFG_MINW 2) * posCycle ≤ s.now
    let locks := fun (s : State) (y : Int) => (s.pos.c / 2 ^ 24 - y).natAbs < s.g (F.POS_TOFt_CFG_LOCKOUT 2)
    takes s ∧ (s.tofIn 2).pend = [] ∧ (s.tofIn 2).last = none ∧ takes two ∧ ¬ locks two (10 ^ 15 / 2 ^ 24)
      ∧ takes near ∧ (near.tofIn 2).last = some 0 ∧ locks near 0
      ∧ takes nearPend ∧ nearPend.tofIn 2 = { pend := [{ cap with t := s.now }] } ∧ locks nearPend (77 / 2 ^ 24)
      ∧ edge young false ∧ (young.tofIn 2).pend = [{ cap with t := s.now - 1 }]
      ∧ false = young.bit (F.POS_TOFt_CFG_EDGE 2)
      ∧ young.now < young.now - 1 + young.g (F.POS_TOFt_CFG_MINW 2) * posCycle
      ∧ waits young { cap with t := s.now - 1 }
      ∧ (p.tofIn 2).pend = [cap] ∧ ¬ waits p cap := by decide +kernel

/-- FailoverCapturesAndComparators: comparators. -/
theorem test_met_Comparators :
    let cmp := fun (mode : Nat) => (pos0.put (F.POS_CMPc_CTL_ARM 5) 1).put (F.POS_CMPc_CTL_MODE 5) mode
    let away := (cmp 1).put (F.POS_CMPc_TGT_LO_V 5) 1
    let from_ := fun (k : Nat) => { cmp 1 with pos := { (cmp 1).pos with
      cmp := (cmp 1).pos.cmp.set 5 ⟨(cmp 1).now / posCycle + k, some ((cmp 1).now / posCycle)⟩ } }
    let target := fun (s : State) => s.g48 (F.POS_CMPc_TGT_LO_V 5) (F.POS_CMPc_TGT_HI_V 5)
    let open' := fun (s : State) => s.seqRun = false ∧ s.up .pos = true ∧ s.bit (F.POS_CMPc_CTL_ARM 5) = true
      ∧ s.bit (F.POS_CMPc_CTL_SRC 5) = false
    open' (cmp 1) ∧ ((cmp 1).g (F.POS_CMPc_CTL_MODE 5) = 1 ∧ target (cmp 1) ≤ (cmp 1).posNow.1)
      ∧ ((cmp 1).pos.cmp[5]).evalFrom ≤ (cmp 1).now / posCycle
      ∧ open' (cmp 2) ∧ ((cmp 2).g (F.POS_CMPc_CTL_MODE 5) = 2 ∧ (cmp 2).posNow.1 ≤ target (cmp 2))
      ∧ open' away ∧ away.g (F.POS_CMPc_CTL_MODE 5) = 1 ∧ ¬ target away ≤ away.posNow.1
      ∧ open' (from_ 0) ∧ ((from_ 0).pos.cmp[5]).evalFrom ≤ (from_ 0).now / posCycle
      ∧ open' (from_ 1) ∧ (from_ 1).now / posCycle < ((from_ 1).pos.cmp[5]).evalFrom := by decide +kernel

/-- The transport in leader mode. -/
def lead : State := ready.put F.XPT_CFG_MODE 1

/-- Transport changed. -/
def xptS (f : Xpt → Xpt) (s : State) : State := { s with xpt := f s.xpt }

/-- The generator in a state of Table 6.3. -/
def genS (n : Nat) (s : State) : State := s.put F.XPT_STATUS_STATE n

theorem test_met_LoadPointsDriveTheCode :
    let s := (lead.put F.XPT_STATUS_XEN 1).put F.XPT_SLEW_V 0
    let runs := xptS (fun x => { x with staleRun := 65535, overRun := 2 }) lead
    let pend := fun (t : Nat) => xptS (fun x => { x with uPend := some (t, 7) }) s
    let meets := fun (s : State) => s.loadDue = true ∧ s.leader = true ∧ s.g F.XPT_STATUS_STATE = 0
      ∧ s.bit F.XPT_STATUS_XEN = true ∧ s.up .ana = true ∧ s.xpt.pirDue = false ∧ s.g F.XPT_SLEW_V = 0
      ∧ s.bit F.XPT_CFG_INVERT = false
    meets (pend 5) ∧ 5 / posCycle < ready.now / posCycle ∧ meets (pend ready.now) ∧ s.xpt.uPend = none
        ∧ s.up .ana = true
      ∧ ready.loadDue = true ∧ ready.leader = false ∧ s.loadDue = true ∧ s.leader = true ∧ s.g F.XPT_STATUS_STATE = 0
      ∧ s.bit F.XPT_STATUS_XEN = true ∧ s.xpt.pirDue = false ∧ s.g F.XPT_SLEW_V = 0 ∧ s.bit F.XPT_CFG_INVERT = false
      ∧ (xptS (fun x => { x with lastLoad := ready.now }) ready).loadDue = false
      ∧ runs.leader = true ∧ runs.g F.XPT_CFG_CMD_TMO ≤ runs.xpt.staleRun ∧ 2 ≤ runs.xpt.overRun
      ∧ ready.xpt.staleRun < ready.g F.XPT_CFG_CMD_TMO ∧ lead.xpt.staleRun < lead.g F.XPT_CFG_CMD_TMO
      ∧ lead.xpt.overRun < 2 := by decide +kernel

/-- LoadPointsDriveTheCode: a load point that is due in each state of Table 6.2. -/
theorem test_met_LoadPointsOfEachState :
    let ticks := fun (s : State) => let s := runG s; { s with grid := { s.grid with ticked := true, ticks := 5 } }
    let stop := xptS fun x => { x with stopReq := true }
    let runs := fun (s : State) => s.loadDue = true ∧ s.leader = true ∧ s.xpt.pirDue = false
    let due := fun (n : Nat) (s : State) => runs s ∧ s.grid.paused = false ∧ s.g F.XPT_STATUS_STATE = n
    let stops := fun (s : State) => s.xpt.stopReq = true ∧ s.anyInPage = false
    due 0 lead ∧ due 9 (genS 9 lead) ∧ due 1 (genS 1 lead) ∧ ¬ stops (genS 1 lead)
      ∧ due 1 (stop (genS 1 lead)) ∧ stops (stop (genS 1 lead)) ∧ due 2 (genS 2 lead) ∧ ¬ stops (genS 2 lead)
      ∧ due 2 (ticks (genS 2 lead)) ∧ (ticks (genS 2 lead)).tickLoad = true
      ∧ due 2 (stop (genS 2 lead)) ∧ stops (stop (genS 2 lead)) := by decide +kernel

/-- LoadPointsDriveTheCode: the Pirouette's states. -/
theorem test_met_LoadPointsOfAPirouette :
    let plan := xptS (fun x => { x with plan := some ⟨5, 100 * 65536, 7⟩ })
    let ticks := fun (s : State) => let s := runG s; { s with grid := { s.grid with ticked := true, ticks := 5 } }
    let runs := fun (s : State) => s.loadDue = true ∧ s.leader = true ∧ s.xpt.pirDue = false
    let pir := fun (s : State) =>
      let s := xptS (fun x => { x with pirDue := true }) (ticks (genS 2 s))
      { s with grid := { s.grid with posFree := true } }
    let starts := fun (s : State) => s.loadDue = true ∧ s.leader = true ∧ s.xpt.pirDue = true ∧ s.tickLoad = true
      ∧ s.grid.posFree = true ∧ s.g F.XPT_STATUS_STATE = 2
    let laid := fun (n : Nat) (s : State) => runs s ∧ s.g F.XPT_STATUS_STATE = n
      ∧ s.xpt.plan = some ⟨5, 100 * 65536, 7⟩
    starts (pir lead) ∧ (pir lead).anyInPage = false ∧ (pir lead).xpt.stopReq = false
      ∧ starts (pir (inPg lead)) ∧ (pir (inPg lead)).anyInPage = true ∧ (pir (inPg lead)).earliestDue ≠ none
      ∧ runs (genS 3 lead) ∧ (genS 3 lead).g F.XPT_STATUS_STATE = 3
      ∧ runs (genS 8 (inPg lead)) ∧ (genS 8 (inPg lead)).g F.XPT_STATUS_STATE = 8 ∧ (genS 8 (inPg lead)).anyInPage = true
      ∧ laid 4 (plan (genS 4 lead)) ∧ laid 5 (plan (genS 5 lead)) ∧ (∀ n, (plan (genS 5 lead)).barReady n = true)
      ∧ (∃ n, (pgAt 0 lead).barReady n = false) ∧ laid 5 (plan (genS 5 (pgAt 0 lead)))
      ∧ laid 6 (plan (genS 6 lead)) ∧ (plan (genS 6 lead)).tickLoad = false := by decide +kernel

/-- LoadPointsDriveTheCode: the settling test of PIR_SETTLE: too far away, settled, a lap, and no lap left. -/
theorem test_met_SettlingTests :
    let s := ((runG (genS 7 lead)).put F.GRID_PITCH_LIVE_V 256).put F.GRID_FREQ_HI_LIVE_V 0x10
    let s := { s with grid := { s.grid with ticked := true, ticks := 5 } }
    let at_ := fun (pre : Int) (l : List Bool) =>
      xptS (fun x => { x with plan := some ⟨0, pre, 7⟩, errOk := l, vref := s.vLine, lastLoad := s.now }) s
    let due := fun (s : State) => s.loadDue = true ∧ s.leader = true ∧ s.xpt.pirDue = false
      ∧ s.g F.XPT_STATUS_STATE = 7 ∧ s.tickLoad = true ∧ s.bit F.XPT_STATUS_ARMED = false ∧ s.xpt.unsettled = false
    let far := fun (s : State) (pre : Int) => s.ppNow.1 < pre - 2 * (s.pitch : Int)
    let w := s.vLine
    let drift := fun (s : State) => ratAbs (s.axisV - s.vLine) * (2 ^ 48 / ((s.freq : Rat) * 1600000000)) * 65536
    let good := at_ 0 (List.replicate 15 true)
    let errOk := fun (s : State) => (decide (ratAbs ((s.ppNow.1 : Rat) - (s.xpt.y + (s.xpt.vref + w) / 2
        * seconds (s.now - s.xpt.lastLoad) * 256)) * 256 ≤ (s.g F.XPT_TOL_V : Rat) * (s.pitch : Rat))
      :: s.xpt.errOk).take 16
    let even := chanS 1 (fun c => { c with est := { c.est with v := w, valid := true } }) (good.put F.POS_AXIS_CFG_PRI 1)
    due (at_ 3000 []) ∧ far (at_ 3000 []) 3000 ∧ due (at_ 512 []) ∧ ¬ far (at_ 512 []) 512
      ∧ due good ∧ ¬ far good 0 ∧ errOk good = List.replicate 16 true
      ∧ 32 * (good.pitch : Rat) < drift good ∧ due even ∧ ¬ far even 0 ∧ errOk even = List.replicate 16 true
      ∧ drift even ≤ 32 * (even.pitch : Rat)
      ∧ (good.g F.XPT_STATUS_LAP < good.g F.XPT_CFG_LAPS_MAX)
      ∧ due (good.put F.XPT_CFG_LAPS_MAX 0)
      ∧ (good.put F.XPT_CFG_LAPS_MAX 0).g F.XPT_CFG_LAPS_MAX ≤ (good.put F.XPT_CFG_LAPS_MAX 0).g F.XPT_STATUS_LAP := by
  decide +kernel

theorem test_met_TransportCommands :
    let slow := (lead.put F.GRID_FREQ_LO_LIVE_V 0x10000000).put F.GRID_FREQ_HI_LIVE_V 0
    let plan := xptS (fun x => { x with plan := some ⟨5, 100 * 65536, 7⟩ }) (genS 8 lead)
    let en := xptS (fun x => { x with enable := some (5, .ramp) }) lead
    let idle := fun (s : State) => s.g F.XPT_STATUS_STATE = 0
    ready.takes A.XPT_CFG ∧ ready.leader = false ∧ ready.anyInside = false ∧ idle ready
      ∧ lead.takes A.XPT_CFG ∧ lead.leader = true ∧ lead.anyInside = false ∧ idle lead
      ∧ (genS 9 lead).takes A.XPT_CFG ∧ (genS 9 lead).leader = true ∧ ¬ idle (genS 9 lead)
      ∧ (genS 9 lead).g F.XPT_STATUS_STATE < 10
      ∧ slow.takes A.XPT_CTL ∧ slow.holdsTransport = false ∧ slow.leader = true ∧ idle slow
      ∧ slow.bit F.XPT_STATUS_XFLT = false ∧ slow.vLine ≤ (slow.g F.XPT_VMAX_V : Rat) ∧ slow.grid.paused = false
      ∧ slow.xpt.enable = none ∧ ready.takes A.XPT_CTL ∧ ready.holdsTransport = false
      ∧ plan.takes A.XPT_CTL ∧ plan.holdsTransport = false ∧ plan.leader = true ∧ plan.g F.XPT_STATUS_STATE = 8
      ∧ plan.bit F.XPT_STATUS_XFLT = false ∧ plan.xpt.plan ≠ none ∧ plan.xpt.enable = none
      ∧ en.xpt.enable = some (5, .ramp) ∧ 5 ≤ en.now ∧ en.xptLive = true ∧ idle en
      ∧ (genS 8 (ready.put F.XPT_STATUS_XFLT 1)).takes A.XPT_CTL ∧ lead.takes A.XPT_CTL
      ∧ lead.g F.XPT_STATUS_STATE ≠ 8 ∧ ¬ 9 ≤ lead.g F.XPT_STATUS_STATE
      ∧ (genS 9 lead).grid.paused = false
      ∧ (xptS (fun x => { x with enable := some (5, .ramp) }) slow).startOk = true
      ∧ (genS 1 lead).holdsTransport = false
      ∧ (genS 1 lead).takes A.XPT_CTL ∧ (genS 1 lead).g F.XPT_STATUS_STATE = 1
          ∧ (genS 2 lead).g F.XPT_STATUS_STATE = 2
      ∧ ready.reg A.XPT_XSTOP = 0#32 ∧ ready.bit F.XPT_CTL_SWSTOP = false
      ∧ ready.xpt.xstopSince + us (ready.g F.XPT_TIMING_XSTOP_MIN) ≤ ready.now
      ∧ ready.xptLive = true ∧ ready.bit F.XPT_STATUS_XFLT = false ∧ lead.xptLive = true
      ∧ lead.bit F.XPT_STATUS_XFLT = false := by decide +kernel

theorem test_met_ReentryLapsAndHalt :
    let p : PirPlan := ⟨5, -100, 7⟩
    let s := (xptS (fun x => { x with plan := some p }) (genS 7 (lead.put F.POS_CTL_EN 1))).put F.XPT_STATUS_ARMED 1
    let soon := { s with grid := { s.grid with tickT := s.now } }
    let armed := fun (s : State) => s.xpt.plan = some p ∧ s.xptLive = true ∧ s.up .core = true
      ∧ s.bit F.XPT_STATUS_ARMED = true ∧ p.pre ≤ s.ppNow.1
    let u := xptS (fun x => { x with unsettled := true }) (genS 7 lead)
    armed s ∧ s.grid.tickT + periodOf s.freq * gridCycle ≤ s.now
      ∧ armed soon ∧ soon.now < soon.grid.tickT + periodOf soon.freq * gridCycle
      ∧ soon.g F.XPT_STATUS_LAP < soon.g F.XPT_CFG_LAPS_MAX
      ∧ u.xptLive = true ∧ u.g F.XPT_STATUS_STATE = 7 ∧ u.xpt.unsettled = true := by decide +kernel

/-! ## Calibration and thermal -/

/-- Instance 2 of class `k` measures a pair. -/
def pairS (k : Fin 8) (p : CalPair) (s : State) : State :=
  s.modCal (calIndex k 2) fun c => { c with pair := some p, value := 7 }

/-- A pair that began long ago, after `u` of its opportunities; one that begins now. -/
def oldPair (u : Nat) : CalPair := { start := 5, requested := false, units := u, m1T := some 5 }
/-- A pair that begins now. -/
def newPair : CalPair := { start := ready.now, requested := false, t0 := ready.now }

/-- CalibrationPairs: a start that is due, without and with the grid running. -/
theorem test_met_CalibrationStarts :
    let en := ready.put F.CAL_CTL_EN 1
    let open' := fun (k : Fin 8) (s : State) => s.seqRun = false ∧ s.bit F.CAL_CTL_EN = true
      ∧ (s.g F.CAL_CLASS_EN_V).testBit k = true ∧ s.cal.lastT[k] + ms (10 * s.g (F.CAL_PERIODk_V k)) ≤ s.now
      ∧ (s.calOf (calIndex k s.cal.next[k])).pair = none ∧ s.calPowered k s.cal.next[k] = true
    open' 3 en ∧ open' 2 (runG en) ∧ (runG en).running = true ∧ ready.running = false := by decide +kernel

/-- A pair whose two measurements have just completed. -/
def donePair : CalPair := { start := ready.now - us 400, requested := false, units := 4, m1T := some ready.now }

/-- CalibrationPairs: measurements that agree, and ones that do not. -/
theorem test_met_CalibrationMeans : ∀ k ∈ [(0 : Fin 8), 2, 3], ratAbs (8 - 8) ≤ (calTol k).1
    ∧ ratAbs (8 - 8) ≤ (calTol k).2
    ∧ ((8 : Rat) + 8) / 2 = ((8 : Int) : Rat) ∧ (calRange k).1 ≤ 8 ∧ 8 ≤ (calRange k).2
    ∧ (calTol k).1 < ratAbs (100000 - 8) := by decide +kernel

theorem test_met_CalibrationPairs :
    let meets := fun (k : Fin 8) (p : CalPair) => (pairS k p ready).seqRun = false ∧ 2 < calCount k
      ∧ (pairS k p ready).calPowered k 2 = true ∧ ((pairS k p ready).calOf (calIndex k 2)).pair = some p
    let m1 := fun (k : Fin 8) (p : CalPair) => (pairS k p ready).m1Time k 2 p
    let count := fun (k : Fin 8) (p : CalPair) => (pairS k p ready).measured k 2 p
    ∀ k ∈ [(0 : Fin 8), 2, 3], meets k newPair ∧ m1 k newPair = none ∧ count k newPair < 2
      ∧ meets k donePair ∧ (∀ t ∈ m1 k donePair, ready.now ≤ t + ms 100) ∧ 2 ≤ count k donePair
      ∧ meets k (oldPair 4) ∧ (∃ t ∈ m1 k (oldPair 4), t + ms 100 < ready.now)
      ∧ meets k { donePair with start := 5, m1T := some (ready.now - ms 100) }
      ∧ (k = 2 → m1 k { donePair with m1T := some (ready.now - ms 100) } = some (ready.now - ms 100)) := by
  decide +kernel

theorem test_met_CalibrationRequests :
    let off := ready.put F.PWR_DOM_STATUS_V 0x1F00
    let q := fun (k : Nat) (s : State) => (s.put F.CAL_QSEL_CLASS k).put F.CAL_QSEL_INST 2
    let fifo := { ready with cal := { ready.cal with etFifo := [5#64] } }
    let waits := { ready with cal := { ready.cal with etFifo := 5#64 :: List.replicate 255 6#64, etWait := [7#64] } }
    ready.takes A.CAL_REQ ∧ calCount 3 ≤ (511 : Fin 512).val ∧ (2 : Fin 512).val < calCount 3
      ∧ off.takes A.CAL_REQ ∧ (2 : Fin 512).val < calCount 2 ∧ off.calPowered 2 2 = false
          ∧ ready.calPowered 2 2 = true
      ∧ (q 3 ready).takes A.CAL_QVAL ∧ (q 3 ready).g F.CAL_QSEL_CLASS = (3 : Fin 8).val
      ∧ (q 3 ready).g F.CAL_QSEL_INST = (2 : Fin 512).val
      ∧ (pairS 3 newPair (q 3 ready)).takes A.CAL_QVAL
      ∧ ((pairS 3 newPair (q 3 ready)).calOf (calIndex 3 2)).pair ≠ none
      ∧ (2 : Fin 512).val < calCount 2 ∧ (q 2 ready).takes A.CAL_QVAL
          ∧ (q 2 ready).g F.CAL_QSEL_CLASS = (2 : Fin 8).val
      ∧ fifo.cal.etWait = [] ∧ waits.cal.etFifo = 5#64 :: List.replicate 255 6#64 ∧ waits.cal.etWait = [7#64]
      ∧ waits.up .ana = true ∧ waits.seqRun = false
      ∧ ready.up .ana = true ∧ fifo.cal.etFifo = [5#64] ∧ fifo.up .ana = true
          ∧ ready.cal.etFifo = [] := by decide +kernel

/-- TestLinesAndTheirRecords: gaps of bar 3 with and without a test line. -/
theorem test_met_TestLines :
    let etS := fun (f : Et → Et) (s : State) => bar3 (fun b => { b with et := f b.et }) s
    let s := (ready.put (F.FPE_CTL_EN 3) 1).put F.GRID_WARM_LIVE_WW 40
    let ask := s.put ⟨A.CAL_ET_BARS, 3, 1⟩ 1
    let narrow := ask.put F.GRID_WARM_LIVE_WW 39
    let full := { ask with cal := { ask.cal with etFifo := List.replicate 256 5#64 } }
    let gap := fun (s : State) => (s.bar 3).et.claimed = 0 ∧ s.up (barDomain 3) = true ∧ (s.bar 3).page = none
      ∧ s.grid.paused = false ∧ s.portKilled 3 = false ∧ s.bit (F.FPE_CTL_EN 3) = true
    let asked := fun (s : State) => gap s ∧ s.up .ana = true ∧ s.bit ⟨A.CAL_ET_BARS, 3, 1⟩ = true
    let wide := fun (s : State) => asked s ∧ 40 ≤ s.g F.GRID_WARM_LIVE_WW
    let room := fun (s : State) => s.cal.etFifo.length < 256 ∧ s.cal.etWait = []
    (ready.bar 3).et.claimed = 0 ∧ ready.bit (F.FPE_CTL_EN 3) = false ∧ gap s ∧ s.bit ⟨A.CAL_ET_BARS, 3, 1⟩ = false
      ∧ asked narrow ∧ narrow.g F.GRID_WARM_LIVE_WW < 40 ∧ (narrow.bar 3).et.wwTold = false
      ∧ asked (etS (fun e => { e with gap := true, wwTold := true }) narrow) ∧ wide full ∧ ¬ room full := by decide +kernel

/-- TestLinesAndTheirRecords: gaps that get a line. -/
theorem test_met_TestLinesOfAGap :
    let etS := fun (f : Et → Et) (s : State) => bar3 (fun b => { b with et := f b.et }) s
    let s := (ready.put (F.FPE_CTL_EN 3) 1).put F.GRID_WARM_LIVE_WW 40
    let ask := s.put ⟨A.CAL_ET_BARS, 3, 1⟩ 1
    let block := fun (n l : Nat) => (etS (fun e => { e with gap := true, blocks := n, line := some l, cur := 10239 }) ask).put
      F.CAL_ET_CFG_BLOCKS 1
    let gap := fun (s : State) => (s.bar 3).et.claimed = 0 ∧ s.up (barDomain 3) = true ∧ (s.bar 3).page = none
      ∧ s.grid.paused = false ∧ s.portKilled 3 = false ∧ s.bit (F.FPE_CTL_EN 3) = true
    let asked := fun (s : State) => gap s ∧ s.up .ana = true ∧ s.bit ⟨A.CAL_ET_BARS, 3, 1⟩ = true
    let wide := fun (s : State) => asked s ∧ 40 ≤ s.g F.GRID_WARM_LIVE_WW
    let room := fun (s : State) => s.cal.etFifo.length < 256 ∧ s.cal.etWait = []
    wide ask ∧ room ask ∧ (ask.bar 3).et.line = none
      ∧ (∀ l ∈ [16, 17], ∀ n ∈ [0, 1], wide (block n l) ∧ room (block n l) ∧ ((block n l).bar 3).et.line = some l)
      ∧ 0 < ask.g F.CAL_ET_CFG_BLOCKS ∧ (block 1 17).g F.CAL_ET_CFG_BLOCKS ≤ 1 ∧ (block 0 16).ueBad = []
      ∧ (ask.bar 3).sel = none ∧ ask.ceBad = [] ∧ (ask.etLine 3).2 = some .reference
      ∧ ((block 0 16).etLine 3).2 = some (.step 10239 0) ∧ (s.etLine 3).2 = none ∧ (3 : Nat) ∉ (s.bar 3).unserved
      ∧ s.segOn 3 5 = true ∧ (s.put (F.FPE_SEGMASK_LIVE_V 3) 0).segOn 3 5 = false := by decide +kernel

/-- TestLinesAndTheirRecords: the records of a strobe of line 9 of the sweep; a sample on each edge. -/
theorem test_met_TestRecords :
    let x : SegFrame := { mode := .test, data := 2#20480 <<< 35 }
    let l : LineFrame := { idx := none, segs := [x], test := some (.step 9 0) }
    let s := (ready.put F.CAL_ET_TH_OPEN 2).put F.CAL_ET_TH_SHORT 9
    let all := s.put F.CAL_ET_CFG_ALL 1
    let near := { s with cal := { s.cal with etFifo := List.replicate 255 5#64 } }
    let out : LineOut := { gts := [5], w := 400 }
    l.segs[9 / 1280]? = some x ∧ x.data.getLsbD (0 % 4 * 5120 + 4 * (9 % 1280) + 0 / 4) = true
      ∧ x.data.getLsbD (1 % 4 * 5120 + 4 * (9 % 1280) + 1 / 4) = false
      ∧ etDelta 1 0 < s.g F.CAL_ET_TH_OPEN ∧ (s.g F.CAL_ET_TH_SHORT : Int) < etDelta 10 0
      ∧ ¬ etDelta 2 0 < s.g F.CAL_ET_TH_OPEN ∧ ¬ (s.g F.CAL_ET_TH_SHORT : Int) < etDelta 9 0
      ∧ (1 : Nat).testBit (9 / 1280) = true ∧ s.bit F.CAL_ET_CFG_ALL = false ∧ all.bit F.CAL_ET_CFG_ALL = true
      ∧ s.cal.etFifo.length < 256 ∧ s.cal.etWait = [] ∧ near.cal.etFifo.length = 255
      ∧ out.gts.getD 0 0 * 40960 + ns 100 ≤ ns 104
      ∧ ns (104 + 50) < out.gts.getD 0 0 * 40960 + out.w * 40960 := by
  decide +kernel

/-- The thermal unit runs with every channel of bar 3 and of the board enabled. -/
def thm0 : State := (((ready.put F.THM_BRD_NF_V 8192).put (F.THM_Pp_NF_V 3) 8192 |>.put F.THM_CTL_EN 1).put (F.THM_Pp_CFG_CHEN 3) 0xFF).put F.THM_BRD_CFG_CHEN 0xF

/-- Channel 25 changed. -/
def thcS (f : ThmChan → ThmChan) (s : State) : State := s.modThc 25 f

theorem test_met_ThermalChannels :
    let seven := thcS (fun x => { x with win := [1, 2, 3, 4, 5, 6, 7] }) thm0
    let two := thcS (fun x => { x with openRun := 2 }) thm0
    let jump := thcS (fun x => { x with jump := true }) thm0
    let back := (thcS (fun x => { x with cleanRun := 1000 }) thm0).put (F.THM_Sch_FAILED 25) 1
    let v := thm0.convert 25 600000000 671676000
    let again := thcS (fun x => { x with frame := some (ready.now / us 100) }) thm0
    let near := thcS (fun x => { x with prev := some (v - 320) }) thm0
    (again.thc 25).frame = some (again.now / us 100)
      ∧ (∀ s ∈ [thm0, seven, two, near, thm0.put F.THM_TEMP_LIM_CEIL 0], (s.thc 25).frame ≠ some (s.now / us 100))
      ∧ near.thmLive = true ∧ near.healthy 25 = true ∧ (∀ q ∈ (near.thc 25).prev, (v - q).natAbs ≤ 320)
      ∧ thm0.thmLive = true ∧ thm0.healthy 25 = true ∧ thm0.showsOpen 25 671676000 = false
      ∧ thm0.showsShort 25 600000000 671676000 = false ∧ thm0.showsNdis 25 v = false ∧ (thm0.thc 25).prev = none
      ∧ seven.healthy 25 = true ∧ 7 ≤ (seven.thc 25).win.length
      ∧ (thm0.put F.THM_TEMP_LIM_CEIL 0).gi F.THM_TEMP_LIM_CEIL ≤ v ∧ thm0.stage 3 < 3
      ∧ thm0.showsOpen 25 1300000000 = true ∧ (thm0.thc 25).openRun < 2 ∧ (thm0.thc 25).ndisSince = none
      ∧ thm0.showsShort 25 1250000000 1300000000 = false
      ∧ two.showsOpen 25 1300000000 = true ∧ 2 ≤ (two.thc 25).openRun ∧ two.healthy 25 = true
      ∧ (jump.sensorDue 25).isSome = true ∧ jump.healthy 25 = true
      ∧ back.thmLive = true ∧ back.chEn 25 = true ∧ back.failed 25 = true ∧ 1000 ≤ (back.thc 25).cleanRun
      ∧ (∀ p ∈ [(3 : Fin 33), 32], ready.takes (chenOff p)) ∧ (ready.g (F.THM_Pp_CFG_CHEN 3)).testBit 1 = false
      ∧ ready.failed 25 = false ∧ (0xF2#8).getLsbD 1 = true := by decide +kernel

theorem test_met_ThrottleStages :
    let stage := fun (n : Nat) => thm0.put F.THM_STAGE_LO_V (n * 4 ^ 3)
    let bar := fun (f : ThmBar → ThmBar) (s : State) => s.modThb 3 f
    let warn := fun (s : State) => s.put ⟨A.THM_WARN, 3, 1⟩ 1
    let frozen := fun (s : State) => s.put ⟨A.THM_FROZEN, 3, 1⟩ 1
    let s1 := bar (fun b => { b with heldSince := some 5 }) (stage 1)
    let s2 := bar (fun b => { b with heldSince := some 5, redT := some 6 }) (stage 2)
    let s3 := warn (bar (fun b => { b with falseSince := some 5 }) (stage 2))
    let src := (frozen thm0).put (F.THM_Sch_FROZEN_SRC 26) 1
    let sick := src.put (F.THM_Sch_FAILED 26) 1
    let trip := bar (fun b => { b with trip := true }) (stage 3)
    s1.thmLive = true ∧ s1.stage 3 = 1 ∧ s1.thm.bars[3].heldSince = some 5 ∧ 5 + ms (s1.g F.THM_CFG_PERSIST) ≤ s1.now
      ∧ s1.leader = false ∧ (s1.put F.XPT_CFG_MODE 1).leader = true ∧ (s1.put F.XPT_CFG_MODE 1).stage 3 = 1
      ∧ s2.stage 3 = 2 ∧ s2.thm.bars[3].redDue = false ∧ s2.thm.bars[3].heldSince = some 5
      ∧ s2.thm.bars[3].redT = some 6 ∧ 6 + ms (s2.g F.THM_CFG_PERSIST) ≤ s2.now ∧ s2.thmLive = true
      ∧ s3.thmLive = true ∧ s3.bit ⟨A.THM_WARN, 3, 1⟩ = true ∧ s3.thm.bars[3].falseSince = some 5
      ∧ 5 + ms (s3.g F.THM_CFG_CLEAR) ≤ s3.now ∧ s3.stage 3 = 2 ∧ s3.bit ⟨A.THM_FROZEN, 3, 1⟩ = false
      ∧ (frozen s3).bit ⟨A.THM_FROZEN, 3, 1⟩ = true
      ∧ src.takes A.THM_ACK ∧ (∀ ch ∈ portChans 3, src.bit (F.THM_Sch_FROZEN_SRC ch) = true → src.healthy ch = true)
      ∧ sick.takes A.THM_ACK
      ∧ (∃ ch ∈ portChans 3, sick.bit (F.THM_Sch_FROZEN_SRC ch) = true ∧ sick.healthy ch = false)
      ∧ (stage 3).takes A.THM_TRIPPED ∧ (stage 3).stage 3 = 3 ∧ (stage 3).thm.bars[3].trip = false
      ∧ (stage 3).bit ⟨A.THM_FROZEN, 3, 1⟩ = false
      ∧ trip.takes A.THM_TRIPPED ∧ trip.thm.bars[3].trip = true ∧ (stage 1).stage 3 ≠ 3 := by decide +kernel

/-! ## Cameras and inspection -/

/-- Port 1 enabled for lines of four pixels. -/
def cam1 : State := (ready.put (F.CAM_Pp_CTL_EN 1) 1).put (F.CAM_Pp_CFG_WIDTH 1) 4

/-- Port 1 changed. -/
def camS (f : CamPort → CamPort) (s : State) : State := s.modCam 1 f

/-- A frame of port 1. -/
def frame1 : CamFrame :=
  { tseq := 3, gen := 2, flags := 0, cfg := cam1.reg (A.CAM_Pp_CFG 1), trigTs := 5, fsTs := 6, store := true, live := false,
    lastT := 7 }

/-- A trigger. -/
def trig0 : Trigger := ⟨9, 1, 77, 5, true⟩

theorem test_met_CameraFrames :
    let two := camS (fun c => { c with trigs := [trig0, trig0] }) cam1
    let opened := camS (fun c => { c with frame := some frame1 }) cam1
    let full := camS (fun c => { c with frame := some { frame1 with lines := 64 } }) cam1
    let soon := { opened with now := 8 }
    let w := fun (s : State) => (s.cam 1).cfg
    let line (n : Nat) : LongPacket := ⟨Fin.ofNat 64 (imageType (w opened)), 0, .clean, false, false, List.replicate n 5⟩
    cam1.camLive 1 = true ∧ cam1.g (F.CAM_Pp_CFG_VC 1) = (0 : Fin 4).val ∧ (cam1.cam 1).frame = none
      ∧ two.camLive 1 = true ∧ (two.cam 1).trigs = [trig0, trig0] ∧ (two.cam 1).frame = none ∧ (cam1.cam 1).trigs = []
      ∧ opened.camLive 1 = true ∧ (opened.cam 1).frame = some frame1 ∧ opened.g (F.CAM_Pp_CFG_VC 1) = 0
      ∧ (opened.cam 1).lateWait = false ∧ frame1.req = none
      ∧ (line (Word.field (w opened) 16 14)).data.length = Word.field (w opened) 16 14 ∧ Word.field (w opened) 4 2 = 0
      ∧ (line 0).dt.val = imageType (w opened) ∧ frame1.lines < opened.g (F.CAM_Pp_FRAME_FRAME_LINES 1)
      ∧ full.camLive 1 = true ∧ (full.cam 1).lateWait = false
      ∧ full.g (F.CAM_Pp_FRAME_FRAME_LINES 1) ≤ 64 ∧ { line 3 with ecc := .bad }.sot = false
      ∧ Word.field (w cam1) 4 2 = (0 : Fin 4).val ∧ (cam1.cam 1).lateWait = false
      ∧ frame1.lastT + us (opened.g (F.CAM_Pp_FRAME_LINE_TIMEOUT 1)) ≤ opened.now
      ∧ soon.now < frame1.lastT + us (soon.g (F.CAM_Pp_FRAME_LINE_TIMEOUT 1)) := by decide +kernel

theorem test_met_CameraTriggersAndCci :
    let cc : CciCmd := ⟨0x10, false, 1, 2, true, 7, 5, 6#32⟩
    let four := camS (fun c => { c with trigs := List.replicate 4 trig0 }) cam1
    let high := camS (fun c => { c with trigHigh := true, lastIssue := some 5 }) ready
    let st := fun (h : Bool) => camS (fun c => { c with strobe := some ⟨5, 6, h⟩ }) ready
    let one := camS (fun c => { c with trigs := [trig0] }) ready
    let run := camS (fun c => { c with cciRun := some cc, cciQ := [cc, cc] }) ready
    let may := fun (s : State) => s.bit (F.CAM_Pp_CTL_EN 1) = true ∧ (s.cam 1).trigs.length < 4
        ∧ (s.cam 1).strobe = none
      ∧ s.entryRuns = false
      ∧ ∀ x, (s.cam 1).lastIssue = some x → x + us (10 * s.g (F.CAM_Pp_TRIG_TRIG_MIN 1)) ≤ s.now
    let again := camS (fun c => { c with
      lastIssue := some (cam1.now - us (10 * cam1.g (F.CAM_Pp_TRIG_TRIG_MIN 1))), strbWas := some (cam1.now / 163840, 3, 4) })
    let early := camS (fun c => { c with lastIssue := some (cam1.now - us (10 * cam1.g (F.CAM_Pp_TRIG_TRIG_MIN 1)) + 1) })
    let entry := reqS ⟨.standby, true, 5, some 6, none⟩
    let going := reqS ⟨.domains 0x100 0, false, 5, none, none⟩
    let none_ := fun (s : State) => (s.cam 1).lastIssue.isSome = true
    may (again cam1) ∧ none_ (again cam1) ∧ ¬ may (early cam1) ∧ none_ (early cam1) ∧ ¬ may (entry cam1)
      ∧ (early cam1).takes (A.CAM_Pp_CTL 1) ∧ (early cam1).g (F.CAM_Pp_TRIG_TRIG_MIN 1) ≠ 0
      ∧ ¬ may (ready) ∧ (entry (st false)).entryRuns = true ∧ (st false).entryRuns = false
      ∧ ((camS (fun c => { c with strobe := some ⟨ready.now + 1, 6, false⟩ }) ready).cam 1).strobe.isSome = true
      ∧ (going ready).holdsCamera = true ∧ (going ready).takes (A.CAM_Pp_CTL 1) ∧ ready.holdsCamera = false
      ∧ run.holdsCamera = false
      ∧ cam1.takes (A.CAM_Pp_CTL 1) ∧ (cam1.cam 1).lastReq ≠ some (cam1.now / 163840) ∧ may cam1
      ∧ four.takes (A.CAM_Pp_CTL 1) ∧ ¬ (four.cam 1).trigs.length < 4
          ∧ (four.cam 1).lastReq ≠ some (four.now / 163840)
      ∧ (high.cam 1).trigHigh = true ∧ (high.cam 1).lastIssue = some 5
      ∧ 5 + ns (10 * high.g (F.CAM_Pp_TRIG_TRIG_W 1)) ≤ high.now
      ∧ ((st false).cam 1).strobe = some ⟨5, 6, false⟩ ∧ 5 ≤ (st false).now
      ∧ ((st true).cam 1).strobe = some ⟨5, 6, true⟩ ∧ 5 + 6 ≤ (st true).now
      ∧ (one.cam 1).trigs = [trig0] ∧ trig0.t + ms (one.g (F.CAM_Pp_TRIG_TRIG_TMO 1)) ≤ one.now
      ∧ 6 < trig0.t + ms (one.g (F.CAM_Pp_TRIG_TRIG_TMO 1)) := by decide +kernel

/-- CameraFramesTriggersAndCci: the CCI masters. -/
theorem test_met_CciCommands :
    let cc : CciCmd := ⟨0x10, false, 1, 2, true, 7, 5, 6#32⟩
    let run := camS (fun c => { c with cciRun := some cc, cciQ := [cc, cc] }) ready
    let full := camS (fun c => { c with cciRun := some cc, cciQ := List.replicate 8 cc }) ready
    let res := camS (fun c => { c with cciRes := [⟨5, 2, 7#32⟩] }) ready
    run.takes (A.CAM_Pp_CTL 1) ∧ (run.cam 1).cciQ.length < 8 ∧ (run.cam 1).cciRun ≠ none
      ∧ ready.takes (A.CAM_Pp_CTL 1) ∧ (ready.cam 1).cciQ = [] ∧ (ready.cam 1).cciRun = none
      ∧ full.takes (A.CAM_Pp_CTL 1) ∧ 8 ≤ (full.cam 1).cciQ.length
      ∧ (run.cam 1).cciRes.length + (run.cam 1).cciQ.length ≤ 8
      ∧ (run.cam 1).cciRun = some cc ∧ run.seqRun = false ∧ run.up .cam = true ∧ (run.cam 1).cciRes.length < 8
      ∧ (res.cam 1).cciRes = [⟨5, 2, 7#32⟩] ∧ res.up .cam = true ∧ (ready.cam 1).cciRes = [] := by decide +kernel

theorem test_met_InspectionQueuesAndTables :
    let aw := (ready.setReg A.INS_AREQ_W0 0x12340142#32).setReg A.INS_AREQ_W1 0x7F#32
    let p : Fin 4 := Fin.ofNat 4 ((aw.reg A.INS_AREQ_W0).toNat % 4)
    let full := aw.modCam 2 fun c => { c with areqs := List.replicate 8 ⟨0, 0, 0, 0, 0, false⟩ }
    let ins := fun (f : Ins → Ins) => { ready with ins := f ready.ins }
    let rec0 := { frame1 with req := some ⟨1, 0, 0, 3, 5, true⟩ }
    let on := (ready.put F.INS_CTL_EN 1).put F.INS_CTL_REPLAY_EN 1
    let waits := on.modCam 2 fun c => { c with store := [rec0] }
    let rp : Replay := ⟨2, rec0, List.replicate 3 (5#64), 5⟩
    let full' := ins fun i => { i with fifo := List.replicate 1023 5#64, replay := some rp }
    let lines := fun (n : Nat) (t : Nat) => ({ rp with
      outbox := [], t := t, frame := { rec0 with geo := ready.geoNow, img := List.replicate n ⟨[5, 6, 7, 8], false, true⟩ } } : Replay)
    let span := (lines 2 5).frame.lineSpan
    let now := ready.now
    let fit : AReq := ⟨1, 0, 0, 3, 5, true⟩
    let live := (ready.put F.INS_CTL_LIVE 2).modCam 2 fun c => { c with frame := some rec0 }
    let edge := fun (t i : Nat) => ((ready.put F.INS_TBL_SEL_TABLE t).put F.INS_TBL_IDX_V i).g F.INS_TBL_IDX_V
    aw.takes A.INS_CTL ∧ (aw.cam p).areqs.length < 8 ∧ (aw.cam p).store = [] ∧ (aw.cam p).frame = none
      ∧ full.takes A.INS_CTL ∧ 8 ≤ (full.cam 2).areqs.length
      ∧ ready.seqRun = false ∧ ready.up .cam = true ∧ (ins fun i =>
          { i with fifo := [5#64, 6#64] }).ins.fifo = [5#64, 6#64]
      ∧ ready.ins.fifo = [] ∧ edge 0 8191 = 8191 ∧ edge 3 255 = 255
      ∧ (ready.cam ready.ins.live).frame = none ∧ ready.ins.replay = none
      ∧ (live.cam (Fin.ofNat 4 (live.g F.INS_CTL_LIVE))).frame ≠ none
      ∧ on.bit F.INS_CTL_EN = true ∧ on.bit F.INS_CTL_REPLAY_EN = true ∧ on.ins.replay = none
      ∧ (on.cam on.ins.live).frame = none ∧ on.nextReplay = none ∧ waits.nextReplay.isSome = true
      ∧ waits.ins.replay = none ∧ (waits.cam waits.ins.live).frame = none
      ∧ full'.ins.replay = some rp ∧ 1024 - full'.ins.fifo.length < rp.outbox.length
      ∧ (∀ r ∈ [lines 2 5, lines 2 now, lines 2 (now - span), lines 0 5],
          (ins fun i => { i with replay := some r }).ins.replay = some r ∧ r.outbox = [])
      ∧ now < (lines 2 now).t + span ∧ (lines 2 now).frame.flat.length < (lines 2 now).frame.img.length
      ∧ (lines 2 now).frame.img[0]? = some ⟨[5, 6, 7, 8], false, true⟩ ∧ (lines 2 (now - span)).t + span ≤ now
      ∧ now < (lines 2 (now - span)).t + 2 * span
      ∧ rec0.req = some fit ∧ (lines 2 5).frame.rowDue fit 1 (decide (2 ≤ 1)) = false
      ∧ (lines 0 5).frame.img.length ≤ (lines 0 5).frame.flat.length
      ∧ 16 ≤ ({ (lines 0 5).frame with rows := 16 } : CamFrame).rows := by decide +kernel

/-- InspectionArithmetic: defects with good columns beside them, and at the edges; knots; windows. -/
theorem test_met_InspectionArithmetic :
    let d := fun (l : List (Nat × Nat × Nat)) => l.zipIdx.foldl (fun (s : State) x =>
      s.setTbl 3 0 x.2 (BitVec.ofNat 32 (x.1.2.1 + 2 ^ 13 + x.1.1 * 2 ^ 15 + x.1.2.2))) ready
    let s := d [(0, 2, 0), (1, 4, 0), (2, 6, 0)]
    let all := d [(0, 0, 0), (0, 1, 0), (0, 3, 0)]
    let ks := [(1, 10), (3, 20), (9, 30)]
    let k := ((ready.setTbl 2 1 0 (BitVec.ofNat 32 10)).setTbl 2 1 1 (BitVec.ofNat 32 (20 + 100 * 2 ^ 13))).put
      (F.INS_NKp_V 1) 2
    let r : AReq := ⟨3, 0, 0, 3, 0, true⟩
    let f : CamFrame := { frame1 with cfg := 0x200000, geo := [0x2010000], flat := [List.replicate 64 (some 5)] }
    let on := (k.put (F.FPE_WIN_END_LIVE_V 3) 81919).put (F.FPE_SEGMASK_LIVE_V 3) 0xFF
    let lost : CamFrame := { f with flat := [List.replicate 64 none] }
    s.defectMode 1 2 = some 0 ∧ s.defectMode 1 4 = some 1 ∧ s.defectMode 1 6 = some 2
      ∧ (∀ j ∈ [1, 3, 5, 7], s.defectMode 1 j = none) ∧ (∀ j ∈ [0, 1, 3], all.defectMode 1 j = some 0)
      ∧ all.defectMode 1 2 = none ∧ ascending ks = true ∧ ks = [] ++ (1, 10) :: (3, 20) :: [(9, 30)]
      ∧ ks = [(1, 10)] ++ (3, 20) :: (9, 30) :: []
      ∧ (mapColumn (on.knots 1) (((10240 * 0 + 5 : Nat) : Int) - r.ovl * (0 : Nat))).isSome = true
      ∧ (mapColumn (k.knots 1) (((10240 * 0 + 0 : Nat) : Int) - r.ovl * (0 : Nat))).isSome = true
      ∧ (on.verdict 1 f r 0 5).map (·.2) = some true ∧ (on.verdict 1 f r 0 0).map (·.2) = some true
      ∧ (on.verdict 1 lost r 0 5).map (·.2) = some false
      ∧ ((measure [(3, 5)] 50 64 30 40 50 0 0 1).1 < 30) ∧ (measure [(3, 5)] 50 64 22 23 50 0 0 1).1 = 23
      ∧ (measure [(3, 5)] 50 64 22 24 50 0 0 1).1 < 24 ∧ 22 < (measure [(3, 5)] 50 64 22 23 22 0 0 1).1 := by decide +kernel

/-! ## DMA and memory -/

/-- Channel 40 changed. -/
def dchS (f : DmaChan → DmaChan) (s : State) : State := s.modDch 40 f

/-- Channel 40 in a state of Table 11.2. -/
def chSt (n : Nat) (s : State) : State := s.put (F.DMA_Cc_STATUS_STATE 40) n

/-- 64 bytes from host address 0x100000006 to Quadrille (Table 11.3). -/
def dsc (flags : Nat) : Desc :=
  ⟨leBytes 4 flags ++ leBytes 4 64 ++ leBytes 8 0x100000006 ++ leBytes 8 0x44000100 ++ leBytes 8 0⟩

/-- The pairs do not step, so that a command ends where it ends. -/
abbrev steady (s : State) : Prop := ∀ j, (s.pair j).stepReq = false

theorem test_met_DmaRequests :
    let l := link ready
    let busy := chSt 1 (dchS (fun x => { x with fetched := [dsc 0x21] }) l)
    let poll := (chSt 2 l).put (F.DMA_Cc_CFG_POLL 40) 3
    let empty := chSt 1 l
    let bell := chSt 2 (dchS (fun x => { x with bell := true }) l)
    let wb := (chSt 1 (dchS (fun x => { x with fetched := [dsc 0x2D, dsc 0x21], landed := 64 }) l)).put
      (F.DMA_Cc_RING_SIZE_V 40) 4
    let fetching := chSt 1 (dchS (fun x => { x with fetches := [⟨5, 0x1000, 32, 0, 0, 5, false⟩] }) l)
    let again := dchS (fun x => { x with fetches := [⟨5, 0x1000, 0, 0, 0, 5, true⟩] }) (chSt 2 l)
    let two := dchS (fun x => { x with fetches := ⟨5, 0x1000, 32, 0, 0, 5, false⟩ :: x.fetches }) again
    let go := ready.anyGoingDown = false
    ready.takes (A.DMA_Cc_CTL 40) ∧ ready.chanState 40 = 0 ∧ go ∧ (chSt 4 l).chanState 40 = 4
      ∧ busy.takes (A.DMA_Cc_CTL 40) ∧ busy.chanState 40 = 1 ∧ busy.anyGoingDown = false
      ∧ (busy.dch 40).fetched = [dsc 0x21] ∧ empty.chanState 40 = 1 ∧ (empty.dch 40).fetched = []
      ∧ (empty.dch 40).fetches = [] ∧ (chSt 3 l).chanState 40 = 3 ∧ (fetching.dch 40).fetches ≠ []
      ∧ ready.power.stopped = false ∧ again.chanState 40 = 2 ∧ 5 < 1024
      ∧ (again.dch 40).fetches = [⟨5, 0x1000, 0, 0, 0, 5, true⟩] ∧ (two.dch 40).fetched = []
      ∧ (chSt 3 fetching).chanState 40 = 3 ∧ (chSt 2 fetching).chanState 40 = 2
      ∧ ready.seqRun = false ∧ ready.up .core = true ∧ poll.chanState 40 = 2 ∧ 0 < poll.g (F.DMA_Cc_CFG_POLL 40)
      ∧ (poll.dch 40).pollT + us (poll.g (F.DMA_Cc_CFG_POLL 40)) ≤ poll.now
      ∧ steady ready ∧ (∀ d, ready.turn d = none)
      ∧ (∀ d, d ≠ 40 → empty.turn d = none) ∧ empty.g (F.DMA_Cc_CFG_PRIO 40) ≤ 1 ∧ empty.turn 40 = some .fetch
      ∧ bell.turn 40 = some .fetch ∧ (∀ d, d ≠ 40 → wb.turn d = none) ∧ wb.g (F.DMA_Cc_CFG_PRIO 40) ≤ 1
      ∧ (match wb.turn 40 with | some (.writeBack ..) => true | _ => false) = true ∧ 5 < 1024 ∧ 0 < 32
      ∧ (fetching.dch 40).fetches = [⟨5, 0x1000, 32, 0, 0, 5, false⟩] ∧ (dsc 0x21).raw.length = 32
      ∧ (fetching.dch 40).fetched = [] ∧ fetching.chanState 40 = 1
      ∧ ((dsc 0x21).raw.getD 0 0#8).getLsbD 0 = true ∧ ((dsc 0x20).raw.getD 0 0#8).getLsbD 0 = false
      ∧ Desc.bad ⟨(dsc 0x29).raw.set 4 0⟩ (dmaClass 40) = true := by decide +kernel

theorem test_met_DmaRequestsOfHostReads :
    let busy := chSt 1 (dchS (fun x => { x with fetched := [dsc 0x21, dsc 0x21] }) (link ready))
    busy.power.stopped = false ∧ steady busy ∧ (∀ d, d ≠ 40 → busy.turn d = none) ∧ busy.g (F.DMA_Cc_CFG_PRIO 40) ≤ 1
      ∧ (match busy.turn 40 with | some (.hostRead off n _) => off == 0 && n == 64 | _ => false) = true
      ∧ busy.inProgress 40 = some (dsc 0x21) ∧ (dsc 0x21).source (dmaClass 40) = .host 0x100000006
      ∧ busy.now < busy.now + ns 10 ∧ (busy.dch 40).tokenT + ns 10 ≤ busy.now := by decide +kernel

theorem test_met_DmaCompletions :
    let q := fun (tries : Nat) => (⟨3, 0x100000006, 20, 8, tries, 5, false⟩ : DmaRead)
    let s := fun (tries rm : Nat) => (chSt 1 (dchS (fun x => { x with fetched := [dsc 0x21], reads := [q tries] })
      (link ready))).put (F.DMA_Cc_CFG_RETRY_MAX 40) rm
    let owns := fun (tries rm : Nat) => (s tries rm).tagOwner (3 : Fin 1024).val = some (40, q tries, false)
    let wb := (chSt 1 (dchS (fun x => { x with fetched := [dsc 0x2D, dsc 0x21], landed := 64 }) (link ready))).put
      (F.DMA_Cc_RING_SIZE_V 40) 4
    let ri : DmaRead := ⟨1024, 0x44001004, 4, 8, 0, 5, false⟩
    let inner := chSt 1 (dchS (fun x => { x with fetched := [dsc 0x21], reads := [ri] }) (link ready))
    inner.tagOwner 1024 = some (40, ri, false) ∧ ri.len ≠ 0 ∧ ri.addr % 8 + ri.len ≤ 8 ∧ inner.seqRun = false
      ∧ inner.up .core = true ∧ inner.inProgress 40 = some (dsc 0x21) ∧ 0x04000100 + ri.off + ri.len ≤ 0x04400000
      ∧ (s 1 3).timeoutOff = false ∧ (s 1 3).tagOwner 4 = none ∧ wb.power.stopped = false
      ∧ (0x04000000 ≤ 0x04000100 + (q 1).off) ∧ owns 1 3 ∧ owns 3 3 ∧ owns 0 0 ∧ (q 1).len ≠ 0 ∧ (s 1 3).seqRun = false ∧ (s 1 3).up .core = true
      ∧ (s 1 3).ceBad = [] ∧ (s 1 3).ueBad = [] ∧ (s 1 3).inProgress 40 = some (dsc 0x21)
      ∧ (dsc 0x21).dest (dmaClass 40) = .mem 0x04000100 ∧ 0x04000100 + (q 1).off + (q 1).len ≤ 0x04400000
      ∧ (s 1 3).chanState 40 = 1 ∧ ((s 1 3).dch 40).ending = none
          ∧ (q 1).tries < (s 1 3).g (F.DMA_Cc_CFG_RETRY_MAX 40)
      ∧ (s 3 3).g (F.DMA_Cc_CFG_RETRY_MAX 40) ≤ (q 3).tries ∧ (s 0 0).g (F.DMA_Cc_CFG_RETRY_MAX 40) = 0 := by decide +kernel

/-- DmaCompletionsAndMemoryControl: a write-back that is due. -/
theorem test_met_DescriptorWriteback :
    let wb := (chSt 1 (dchS (fun x => { x with fetched := [dsc 0x2D, dsc 0x21], landed := 64 }) (link ready))).put
      (F.DMA_Cc_RING_SIZE_V 40) 4
    wb.chanState 40 = 1 ∧ wb.inProgress 40 = some (dsc 0x2D) ∧ (wb.dch 40).reads = [] ∧ wb.pushWaits 40 = false
      ∧ (wb.dch 40).ending = none ∧ (wb.dch 40).fetchFail = none ∧ (wb.dch 40).landed = (dsc 0x2D).len
      ∧ wb.served = some 40 ∧ dmaClass 40 ≠ .camera ∧ wb.ringInt 40 = false ∧ wb.linkOpen = true
          ∧ wb.seqRun = false ∧ wb.up .core = true
      ∧ (dsc 0x2D).flag 2 = true ∧ (dsc 0x2D).flag 3 = true ∧ (dsc 0x21).flag 3 = false := by decide +kernel

theorem test_met_MemoryControl :
    let w := { ready with wipe := some 64 }
    let scrub := { ready.modBank 64 fun b => { b with scrub := [0x800000, 5] } with ceBad := [0x800000, 7] }
    let bt := ready.put F.MEM_CTL_BT_EN 1
    let last := bt.modBank 64 fun b => { b with btPos := 4095 }
    let used := (List.range 64).foldl (fun s n =>
      s.setReg (A.MEM_SOFTREPn n) (BitVec.ofNat 32 (64 + 2 ^ 31 + n % 4 * 2 ^ 23 + 3 * 256))) bt
    ready.takes A.MEM_WIPE ∧ (ready.put F.MEM_WIPE_STATUS_BUSY 1).bit F.MEM_WIPE_STATUS_BUSY = true
      ∧ (ready.put F.MEM_WIPE_STATUS_BUSY 1).takes A.MEM_WIPE ∧ ready.bit F.MEM_WIPE_STATUS_BUSY = false
      ∧ 115 < (116 : Fin 128).val ∧ (ready.put F.PWR_DOM_STATUS_V 0x1F00).bankUp 0 = false
      ∧ (ready.put F.PWR_DOM_STATUS_V 0x1F00).takes A.MEM_WIPE
      ∧ bt.ceBad = [] ∧ bt.ueBad = [] ∧ run1.takes A.MEM_WIPE ∧ (∃ n ∈ List.range 116, run1.bankUp n = true
          ∧ run1.wipeLocked n = true)
      ∧ (reqS ⟨.standby, false, 5, none, none⟩ ready).holdsMemory = true ∧ ready.holdsMemory = false
      ∧ ready.bankUp 64 = true ∧ ready.wipeLocked 64 = false ∧ ready.bankUp 115 = true
      ∧ w.wipe = some 64 ∧ w.seqRun = false
      ∧ (scrub.bank 64).scrub = [0x800000, 5] ∧ scrub.seqRun = false ∧ scrub.bankUp (64 : Fin 116) = true
      ∧ bt.seqRun = false ∧ bt.up .core = true ∧ bt.bit F.MEM_CTL_BT_EN = true ∧ bt.bankUp (64 : Fin 116) = true
      ∧ (bt.bank 64).wiping = false ∧ (bt.bank 64).btLast + us (bt.g F.MEM_CTL_MIN_GAP) ≤ bt.now
      ∧ ¬ bankKib 64 * 4 ≤ (bt.bank 64).btPos + 1 ∧ bankKib 64 * 4 ≤ (last.bank 64).btPos + 1
      ∧ (bt.freeSpare 64 3).isSome = true ∧ (bt.reg (A.MEM_SOFTREPn 0)).getLsbD 31 = false
      ∧ used.freeSpare 64 3 = none ∧ used.bit F.MEM_CTL_BT_EN = true := by decide +kernel

/-! ## Registers, events, the host -/

/-- RegisterAccessAndEvents: registers of each kind, and the halves of a record. -/
theorem test_met_RegisterReads :
    let off := ready.put F.PWR_DOM_STATUS_V 0x1800
    let half := { ready with cal := { ready.cal with
      etFifo := [5#64], etHeld := [(snapKey .host 0xB0804, ⟨9#32, some ready.cal.etPops⟩)] } }
    let stale := { half with cal := { half.cal with etPops := half.cal.etPops + 1 } }
    (∀ o ∈ snapMembers, o % 4 = 0 ∧ o < 0x1000000) ∧ snapMembers ≠ [] ∧ (∀ o ∈ snapMembers, ready.blockUp o = true)
      ∧ (∀ o ∈ [A.INS_TBL_DATA, A.CAM_Pp_CCI_RES 3, A.MEM_BANK_CE, 0xB0800, 0xB0804, 0xB0FFC, A.EVT_PENDw 7, A.SEQ_SWEV,
            A.FPE_PQ_PUSH 31, 0x30000, 0x3FFFC, 0x40000, 0x4FFFC, 0x60000, 0x6FFFC],
          ready.blockUp o = true ∧ o % 4 = 0 ∧ o < 0x1000000)
      ∧ ready.g F.MEM_BANK_SEL_V ≤ 115 ∧ 0xB0800 % 8 = 0 ∧ 0xB0FFC % 8 = 4
      ∧ Cells.find? ready.cal.etHeld (snapKey .host 0xB0804) = none ∧ half.cal.etFifo = [5#64]
      ∧ Cells.find? half.cal.etHeld (snapKey .host 0xB0804) = some ⟨9#32, some half.cal.etPops⟩
      ∧ Cells.find? stale.cal.etHeld (snapKey .host 0xB0804) = some ⟨9#32, some half.cal.etPops⟩
      ∧ some half.cal.etPops ≠ some stale.cal.etPops ∧ off.blockUp (snapHeads.getD 0 0) = false
      ∧ (kindAt (A.EVT_MAPe 9)).isSome = true ∧ kindAt 0x4FFFC = none ∧ kindAt 0x3FFFC = none
          ∧ kindAt 0x6FFFC = none := by decide +kernel

theorem test_met_RegisterAccessAndEvents :
    let off := ready.put F.PWR_DOM_STATUS_V 0x1800
    let special := fun (o : Nat) => windowAt o ≠ none ∨ o = A.INS_TBL_DATA
      ∨ (∃ p : Fin 4, o = A.CAM_Pp_CCI_RES p) ∨ o ∈ snapHeads ∨ o ∈ snapMembers
      ∨ o ∈ [A.MEM_BANK_CE, A.MEM_BANK_UE, A.MEM_BANK_COLL]
    let held := (ready.put (pbaField 5) 1).setReg (A.EVT_MSIX_TABLE 5 1) 7#32
    let opened := ((link held).put F.SYS_HL_STATUS_MSIX_EN 1).setReg (A.EVT_MSIX_TABLE 5 3) 0#32
    let slot := (ready.setReg (A.EVT_MAPe 0xF5) 0x0F45#32).modPair 2 fun p => p.setCcr 0x045 0x8F5#32
    ready.seqRun = false ∧ steady ready ∧ ready.blockUp A.SYS_ID = true ∧ ¬ special A.SYS_ID
      ∧ ready.blockUp A.POS_ENC_CAUSE = true ∧ ¬ special A.POS_ENC_CAUSE ∧ (kindAt A.POS_ENC_CAUSE).isSome = true
      ∧ off.blockUp A.POS_CTL = false ∧ off.seqRun = false ∧ steady off
      ∧ (∀ o ∈ [A.EVT_MAPe 0, A.EVT_MAPe 255, A.THM_FLOOR, A.THM_CAUSE, A.SYS_ID, A.POS_CTL, 0x300000, 0xFFFFFC],
          o = 4 * (o / 4) ∧ o / 4 < 0x400000)
      ∧ ready.up .core = true ∧ ready.up .ana = true ∧ (∀ i, i < 5 → ready.blockUp (snapHeads.getD i 0) = true)
      ∧ (0b0010#4).getLsbD (1 : Fin 4).val = true ∧ (slot.g (F.EVT_MAPe_PAIRS 0xF5)).testBit 2 = true
      ∧ (slot.pair 2).slotTakes 0xF5 5 = true ∧ steady slot
      ∧ opened.bit (pbaField 5) = true ∧ opened.vectorOpen 5 = true ∧ steady opened
      ∧ ready.bit (pbaField 5) = false ∧ held.vectorOpen 5 = false := by decide +kernel

theorem test_met_HostRequests :
    let l := link ready
    let dpt := fun (a m : Nat) => ((l.put F.DPT_ADDR_V a).put F.DPT_CTL_MODE m).put F.DPT_STRIDE_V 0x30
    let d3 := l.put F.SYS_HL_STATUS_D3HOT 1
    let awake := fun (s : State) => s.linkReaches = true ∧ s.bit F.SYS_HL_STATUS_D3HOT = false ∧ s.seqRun = false
      ∧ s.g F.PWR_STATUS_STATE < 2 ∧ s.power.held = [] ∧ s.linkStalled = false ∧ s.power.stopped = false
    let hold := reqS ⟨.hibernate, false, 5, none, none⟩ d3
    let stop := { l with power := { l.power with stopped := true } }
    hold.holdsD3 = true ∧ hold.linkReaches = true ∧ hold.seqRun = false ∧ l.holdsD3 = false
      ∧ stop.linkReaches = true ∧ stop.seqRun = false ∧ steady stop ∧ stop.bit F.SYS_HL_STATUS_D3HOT = false
      ∧ awake (dpt 0x44000000 2) ∧ awake (dpt 0xFFFFFC 3) ∧ (dpt 0xFFFFFC 3).g F.DPT_ADDR_V = 0xFFFFFC ∧ 3 % 4 ≠ 0
      ∧ awake l ∧ steady l ∧ l.ceBad = [] ∧ l.ueBad = [] ∧ (∀ b, (l.bank b).wiping = false) ∧ l.up .core = true
      ∧ (0xFFFFFC#24).toNat = 4 * (0x3FFFFF : Fin 0x400000).val
      ∧ 0x04000000 ≤ (0x043FFFFC#30).toNat ∧ (0x043FFFFC#30).toNat + 4 ≤ 0x04400000
      ∧ (∀ m, m < 4 → (dpt 0x443FFFFF m).g F.DPT_ADDR_V = 0x443FFFFF) ∧ 0x443FFFFF + 1 ≤ 0x44400000
      ∧ awake (dpt 0x44000000 0) ∧ (dpt 0x44000000 0).g F.DPT_ADDR_V = 0x44000000
      ∧ (dpt 0xFFFFFE 1).g F.DPT_ADDR_V = 0xFFFFFE ∧ 0xFFFFFE % 4 ≠ 0 ∧ awake (dpt 0xFFFFFE 1) := by decide +kernel

/-- HostRequests: those that are unsupported or wait. -/
theorem test_met_HostRequestsThatWait :
    let l := link ready
    let dev := { l with otp := { l.otp with deviceId := [0x1234ABCD#32], loaded := [some 0, none, none, none] } }
    let d3 := l.put F.SYS_HL_STATUS_D3HOT 1
    let slp := l.put F.PWR_STATUS_STATE 2
    let stall := l.modBar 3 fun b => { b with nst := { b.nst with stalled := [⟨.host, 5#64, 5⟩] } }
    ready.linkReaches = false ∧ d3.linkReaches = true ∧ d3.bit F.SYS_HL_STATUS_D3HOT = true
      ∧ slp.linkReaches = true ∧ slp.bit F.SYS_HL_STATUS_D3HOT = false ∧ slp.seqRun = false
      ∧ 2 ≤ slp.g F.PWR_STATUS_STATE ∧ steady slp ∧ stall.linkReaches = true ∧ stall.bit F.SYS_HL_STATUS_D3HOT = false
      ∧ stall.seqRun = false ∧ steady stall ∧ stall.linkStalled = true ∧ State.reset.seqRun = true
          ∧ State.reset.clk.level ≠ .warm
      ∧ dev.linkReaches = true ∧ dev.seqRun = false ∧ Word.field (dev.deviceWord 0) 0 16 ≠ 0
      ∧ Word.field 0x100#32 0 2 = 0 ∧ Word.field 3#32 0 2 = 3 := by decide +kernel

theorem test_met_LinkStateAndPtm :
    let train := { ready with hl := { ready.hl with held := false }, clk := { ready.clk with hostLost := false } }
    let ptm := { (ready.put F.SYS_HL_PTM_CTL_EN 1).put F.SYS_HL_PTM_CTL_PERIOD 5 with hl := { ready.hl with ptmEn := true } }
    let dia := fun (n : Nat) => { link ptm with hl := { ptm.hl with dialog := some n } }
    let offered := fun (speed : Fin 6) (width : Fin 17) => 1 ≤ speed.val ∧ width.val ∈ [1, 2, 4, 8, 16]
    offered 1 1 ∧ offered 5 16 ∧ ¬ offered 0 16 ∧ ¬ offered 3 5 ∧ 5 + ms 1 < (dia 5).now
      ∧ ready.now ≤ ready.now - 5 + ms 1 ∧ train.linkCanTrain = true ∧ train.bit F.SYS_HL_STATUS_LINK_UP = false
          ∧ train.seqRun = false ∧ train.up .core = true
      ∧ (link ready).bit F.SYS_HL_STATUS_LINK_UP = true ∧ ready.power.off = false ∧ ready.up .host = true
      ∧ ready.bit F.SYS_HL_STATUS_D3HOT ≠ true ∧ ready.holdsD3 = false ∧ ready.bit F.SYS_HL_STATUS_LINK_UP ≠ true
      ∧ (link ready).seqRun = false ∧ (link ready).up .core = true ∧ (link ready).g F.SYS_HL_STATUS_SPEED ≠ 5
      ∧ (let hold := (reqS ⟨.hibernate, false, 5, none, none⟩ ready).put F.SYS_HL_STATUS_D3HOT 1
         hold.holdsD3 = true ∧ hold.power.off = false ∧ hold.up .host = true)
      ∧ ptm.bit F.SYS_HL_PTM_CTL_EN = true ∧ ptm.hl.ptmEn = true ∧ ptm.hl.dialog = none ∧ ptm.takes A.SYS_HL_PTM_CTL
      ∧ ptm.seqRun = false ∧ ptm.up .host = true ∧ 0 < ptm.g F.SYS_HL_PTM_CTL_PERIOD
      ∧ ptm.hl.ptmT + ms (ptm.g F.SYS_HL_PTM_CTL_PERIOD) ≤ ptm.now
      ∧ (dia 5).hl.dialog = some 5 ∧ 5 + ms 1 ≤ (dia 5).now
      ∧ (dia (ready.now - 5)).hl.dialog = some (ready.now - 5) ∧ ready.now < ready.now - 5 + ms 1 := by decide +kernel

theorem test_met_ManagementPort :
    let s := ready.put F.MGT_CFG_EN 1
    let rd (a n : Nat) := crc8 (0x0B#8 :: beBytes 4 a ++ beBytes 2 n)
    let w := { s with mgt := some ⟨0x44000000, [5], 3, false, []⟩ }
    let slp := (s.put F.PWR_STATUS_STATE 2).put F.MGT_CFG_WAKE_ANY 1 |>.put ⟨A.PWR_WAKE_EN, 2, 1⟩ 1
    let any := (w.put F.MGT_CFG_WAKE_ANY 1).put ⟨A.PWR_WAKE_EN, 2, 1⟩ 1
    w.power.stopped = false ∧ s.power.stopped = false ∧ slp.mgtWakes = true ∧ slp.bit F.MGT_CFG_WAKE_ANY = true ∧ steady slp
      ∧ any.mgtWakes = false ∧ any.bit F.MGT_CFG_WAKE_ANY = true ∧ (any.reg A.PWR_WAKE_EN).getLsbD 2 = true
      ∧ (w.put F.MGT_CFG_WAKE_ANY 0).bit F.MGT_CFG_WAKE_ANY = false ∧ ((w.put ⟨A.PWR_WAKE_EN, 2, 1⟩ 0).reg A.PWR_WAKE_EN).getLsbD 2 = false
      ∧ w.power.off = false ∧ w.seqRun = false ∧ w.up .core = true ∧ w.mgtWakes = false ∧ w.bit F.MGT_CFG_EN = true
      ∧ w.mgt = some ⟨0x44000000, [5], 3, false, []⟩ ∧ steady w
      ∧ s.power.off = false ∧ s.seqRun = false ∧ s.up .core = true ∧ s.mgtWakes = false ∧ s.bit F.MGT_CFG_EN = true
      ∧ s.mgt = none ∧ s.ceBad = [] ∧ s.ueBad = [] ∧ (∀ b, (s.bank b).wiping = false) ∧ steady s
          ∧ s.mgtStalled = false
      ∧ (∀ x ∈ [(0x44000000, 4096), (0x443FFFFF, 1)], 0x44000000 ≤ x.1 ∧ 0 < x.2 ∧ x.2 ≤ 4096 ∧ x.1 + x.2 ≤ 0x44400000
          ∧ rd x.1 x.2 = (BitVec.ofNat 8 (rd x.1 x.2)).toNat ∧ rd x.1 x.2 ≠ (BitVec.ofNat 8 (rd x.1 x.2 + 1)).toNat)
      ∧ (let c := crc8 (0x02#8 :: beBytes 4 0x443FFFFD ++ beBytes 2 3 ++ [7, 8, 9])
         c = (BitVec.ofNat 8 c).toNat ∧ 0x443FFFFD + 3 ≤ 0x44400000) := by decide +kernel

/-! ## Resets, clocks, power, OTP -/

theorem test_met_ResetsAndTheirSequence :
    let key := fun (w : Word) => w.getLsbD 0 = true ∧ Word.field w 8 8 = 0x5A
    ready.power.off = false ∧ 1000 ≤ 1000 ∧ ready.seqRun = false ∧ 199 < 200 ∧ ready.g F.PWR_STATUS_STATE < 2
      ∧ ready.power.stopped = false ∧ (ready.put F.PWR_STATUS_STATE 2).g F.PWR_STATUS_STATE = 2
      ∧ (∀ v ∈ [Supply.analog, .hl, .io33, .csi, .pe], State.reset.supplied v = true)
      ∧ { ready with power := { ready.power with late := [(.hl, ready.now + 1)] } }.supplied .hl = false
      ∧ (Ball.headData 3).supply = some .hl
      ∧ ready.up .host = true ∧ State.reset.power.off = false ∧ State.reset.seqRun = true
      ∧ State.reset.clk.resetT / 4096000 = State.reset.now / 4096000 ∧ State.reset.clk.level = .powerOn
      ∧ ready.takes A.RST_CTL ∧ key 0x5A01#32 ∧ ¬ key 0x5A00#32 ∧ ¬ key 0x5B01#32 := by decide +kernel

theorem test_met_ResetRequesters : (∀ j, Master.host ≠ .pair j) ∧ ∃ j, Master.pair 1 = .pair j :=
  ⟨fun _ => Master.noConfusion, 1, rfl⟩

theorem test_met_ClocksAndTraining :
    let locks := ((ready.put F.CLK_STATUS_HOST_LOCK 1).put F.CLK_STATUS_XTAL_OK 1).put F.CLK_CFG_XTAL_EN 1
    let lost := { ready with clk := { ready.clk with hostLost := true } }
    let train := { ready with clk := { ready.clk with training := 0x8 } }
    let bad := { train with clk := { train.clk with taps := [(3, tapFailed)] } }
    let runs := { ready with seqRun := true }
    let slp := ready.put F.PWR_STATUS_STATE 2
    ready.power.off = false ∧ ready.bit F.CLK_STATUS_HOST_LOCK = false ∧ ready.clk.hostLost = false
      ∧ (runs.seqRun = true ∧ runs.clk.level ≠ .warm) ∧ ready.power.stopped = false
      ∧ (slp.g F.PWR_STATUS_STATE = 2 ∧ slp.power.exitT = none) ∧ ready.bit F.CLK_STATUS_GRID_LOCK = false
      ∧ Cells.find? bad.clk.taps (3 : Fin 32).val = some tapFailed ∧ bad.clk.training.testBit (3 : Fin 32).val = true
      ∧ ready.clk.training.testBit (3 : Fin 32).val = false ∧ ready.bit F.CLK_CFG_XTAL_EN = false
      ∧ ready.seqRun = false ∧ locks.bit F.CLK_STATUS_HOST_LOCK = true ∧ locks.seqRun = false ∧ lost.clk.hostLost = true
      ∧ (ready.put F.CLK_STATUS_GRID_LOCK 0).bit F.CLK_STATUS_GRID_LOCK = false
      ∧ train.clk.training.testBit (3 : Fin 32).val = true ∧ locks.bit F.CLK_CFG_XTAL_EN = true
      ∧ locks.bit F.CLK_STATUS_XTAL_OK = true ∧ ready.takes A.CLK_TRAIN_CTL ∧ ready.up (barDomain 3) = true
      ∧ (inPg ready).takes A.CLK_TRAIN_CTL ∧ ((inPg ready).bar 3).inPage = true := by decide +kernel

/-- PowerRequests: what the participants' conditions read while all accept. -/
abbrev quiet (s : State) : Prop :=
  (∀ n : Fin 32, s.bit (F.FPE_CTL_EN n) = false) ∧ (∀ c : Fin 48, s.chanState c = 0) ∧ s.leader = false
    ∧ (∀ p : Fin 4, s.bit (F.CAM_Pp_CTL_EN p) = false ∧ (s.cam p).cciRun = none) ∧ s.ins.replay = none
    ∧ (∀ j : Fin 4, (s.pair j).mode = .halted ∧ (s.pair j).ready = [] ∧ (s.pair j).cur.outs = [] ∧ (s.pair j).closed = [])
    ∧ s.bit F.SYS_HL_STATUS_D3HOT = true ∧ s.wipe = none ∧ 1100 ≤ s.g F.PWR_RET_LIMIT_V
    ∧ (∀ b, b < 76 → (s.reg (A.MEM_RET_SELw (b / 32))).getLsbD (b % 32) = false) ∧ s.running = false

/-- A device whose participants all accept. -/
def calm : State :=
  let s := { ready with pairs := ready.pairs.map fun (p : Pair) => { p with mode := .halted } }
  (((s.put F.SYS_HL_STATUS_D3HOT 1).setReg (A.MEM_RET_SELw 0) 0#32).setReg (A.MEM_RET_SELw 1) 0#32).setReg
    (A.MEM_RET_SELw 2) 0#32

/-- PowerRequests: the requests that are refused as the controller is busy, and those of a quiet device. -/
theorem test_met_PowerRequests :
    let s := calm
    let q : PwrReq := { target := .standby, force := false, t := s.now }
    let slp := s.put F.PWR_STATUS_STATE 2
    let exit := { s with power := { s.power with exitT := some 5 } }
    let otp := s.put F.OTP_STATUS_BUSY 1
    let idle := s.put F.PWR_STATUS_STATE 1
    let awake := fun (s : State) => s.takes A.PWR_REQ ∧ s.takes A.PWR_DOM_CTL ∧ s.power.req = none ∧ s.power.exitT = none
      ∧ s.g F.PWR_STATUS_STATE < 2
    awake s ∧ quiet s ∧ s.bit F.OTP_STATUS_BUSY = false ∧ s.g F.PWR_STATUS_STATE = 0
      ∧ ((reqS q s).power.req ≠ none ∧ (reqS q s).takes A.PWR_REQ ∧ (reqS q s).takes A.PWR_DOM_CTL)
      ∧ (2 ≤ slp.g F.PWR_STATUS_STATE ∧ slp.takes A.PWR_REQ) ∧ (exit.power.exitT ≠ none ∧ exit.takes A.PWR_REQ)
      ∧ awake otp ∧ otp.bit F.OTP_STATUS_BUSY = true ∧ awake idle ∧ idle.g F.PWR_STATUS_STATE = 1 := by decide +kernel

/-- PowerRequests: a running grid, domains that are off, and a wake of the acceptance cycle. -/
theorem test_met_DomainRequests :
    let s := calm
    let down := s.put F.PWR_DOM_STATUS_V 0x1FFC
    let awake := fun (s : State) => s.takes A.PWR_REQ ∧ s.takes A.PWR_DOM_CTL ∧ s.power.req = none ∧ s.power.exitT = none
      ∧ s.g F.PWR_STATUS_STATE < 2
    let clear := fun (x : Nat) => ({ s with power := { s.power with sampledT := s.now, sampled := x } } : State)
    awake (runG s) ∧ (runG s).running = true ∧ (runG s).g F.PWR_STATUS_STATE = 0
      ∧ awake down ∧ quiet down ∧ down.actualDoms &&& (3#11).toNat = 0 ∧ s.actualDoms &&& (3#11).toNat ≠ 0
      ∧ (3#11).toNat &&& ((2 ^ 11 - 1) - s.actualDoms) = 0 ∧ (3#11).toNat &&& ((2 ^ 11 - 1) - down.actualDoms) ≠ 0
      ∧ (clear 5).power.sampledT / 4096000 = (clear 5).now / 4096000 ∧ (clear 5).power.sampled.testBit 2 = true
      ∧ awake (clear 5) ∧ quiet (clear 5) := by
  intros
  repeat' apply And.intro
  all_goals decide +kernel +revert

/-- PowerRequests: domain requests that have ended, and requests that wait for a participant. -/
theorem test_met_RequestsThatWait :
    let s := calm
    let q : PwrReq := { target := .standby, force := false, t := s.now }
    let hib : PwrReq := { q with target := .hibernate }
    let down := s.put F.PWR_DOM_STATUS_V 0x1FFC
    (let d : PwrReq := ⟨.domains 3 0, false, 5, some 5, some 0⟩
         let up : PwrReq := { d with target := .domains 0 1 }
         let r := (reqS up down).modBank 0 fun b => { b with power := 2 }
         (reqS d down).power.req = some d ∧ (reqS d down).seqRun = false ∧ (reqS d down).clk.training = 0
           ∧ r.power.req = some up ∧ (r.bank 0).power = 2 ∧ ∃ x ∈ bankDomains 0, Nat.testBit 1 x.bit = true)
      ∧ ∀ r ∈ [q, hib, { q with target := .domains 3 0 }],
          (reqS r s).power.req = some r ∧ r.passed = none ∧ r.ended = none ∧ quiet (reqS r s) ∧ (reqS r s).seqRun = false
            ∧ (reqS r s).now < r.t + ms 10 ∧ quiet (reqS { r with t := 5 } s)
            ∧ 5 + ms 10 ≤ (reqS { r with t := 5 } s).now := by decide +kernel

/-- PowerRequests: one condition of Table 14.2 of each participant, in a device that is quiet but for it. -/
theorem test_met_TheParticipantsAnswers :
    let s := calm
    let off := fun (t : PwrTarget) (d : Domain) => d ∈ allDomains ∧ s.up d = true ∧ t.offMask.testBit d.bit = true
    let drive := (s.put F.XPT_CFG_MODE 1).put F.XPT_STATUS_XEN 1
    let c := chSt 1 (dchS (fun x => { x with fetched := [dsc 0x21] }) s)
    let pr := fun (f : Pair → Pair) => s.modPair 1 f
    off .standby (barDomain 3) ∧ (s.put (F.FPE_CTL_EN 3) 1).bit (F.FPE_CTL_EN 3) = true
      ∧ off .standby .core ∧ c.chanState 40 = 1 ∧ (dsc 0x21).bad (dmaClass 40) = false
      ∧ (∃ d ∈ allDomains, (dsc 0x21).targets 40 d = true ∧ (PwrTarget.standby).offMask.testBit d.bit = true)
      ∧ (chSt 3 s).ringInt 40 = false ∧ (chSt 3 s).chanState 40 = 3 ∧ off .hibernate .host
      ∧ off .standby .pos ∧ drive.leader = true ∧ drive.xenLow = true ∧ off (.domains 0x400 0) .ana
      ∧ off .standby .cam ∧ (s.put (F.CAM_Pp_CTL_EN 2) 1).bit (F.CAM_Pp_CTL_EN 2) = true
      ∧ (s.modCam 2 fun p => { p with cciRun := some ⟨0x10, false, 1, 2, true, 7, 5, 6#32⟩ }).ins.ports[2].cciRun ≠ none
      ∧ ((pr fun p => { p with mode := .running }).pair 1).mode = .running
      ∧ ((pr fun p => { p with closed := [iv] }).pair 1).closed = [iv] ∧ iv.outs ≠ []
      ∧ (s.put F.SYS_HL_STATUS_D3HOT 0).bit F.SYS_HL_STATUS_D3HOT = false
      ∧ (s.put F.PWR_RET_LIMIT_V 799).g F.PWR_RET_LIMIT_V < 800 ∧ { s with wipe := some 64 }.wipe ≠ none := by
  decide +kernel

theorem test_met_EntryWakeAndExit :
    let rs : PwrReq := ⟨.standby, false, 5, some 6, none⟩
    let e := reqS rs ready
    let wakes := fun (w : Nat) (s : State) => { s with power := { s.power with linkWake := some w } }
    let at_ := fun (h : Nat) (s : State) => reqS { rs with passed := some h } s
    let runs := fun (s : State) (h : Nat) => s.entering = some ({ rs with passed := some h }, h) ∧ s.seqRun = false
      ∧ s.power.undoT = none ∧ s.pending = [] ∧ s.power.off = false ∧ (∀ n, (s.bar n).closing = none)
      ∧ ∀ i ∈ [1, 12, 13], s.levelActive i = false
    let n := ready.now
    runs e 6 ∧ e.power.linkWake = none ∧ e.power.pinWake = false
      ∧ (∀ d ∈ [us 141, us 142, us 150, us 162], runs (at_ (n - d) ready) (n - d))
      ∧ (∀ w ∈ [n - us 200, n - us 100, n - us 50], runs (at_ (n - us 190) (wakes w ready)) (n - us 190)
          ∧ w ≤ n - us 190 + us 162) := by decide +kernel

/-- EntryWakeAndExit: an entry whose link wake came too late, a pin wake, an abandon. -/
theorem test_met_EntriesThatAreWoken :
    let rs : PwrReq := ⟨.standby, false, 5, some 6, none⟩
    let e := reqS rs ready
    let wakes := fun (w : Nat) (s : State) => { s with power := { s.power with linkWake := some w } }
    let undo := { e with power := { e.power with linkWake := some 6, undoT := some 7, stopped := true } }
    let pin := { e with power := { e.power with pinWake := true, wakeSrc := 16, stale := true } }
    let runs := fun (s : State) (h : Nat) => s.entering = some ({ rs with passed := some h }, h) ∧ s.seqRun = false
      ∧ s.power.undoT = none ∧ s.pending = [] ∧ s.power.off = false ∧ (∀ n, (s.bar n).closing = none)
      ∧ ∀ i ∈ [1, 12, 13], s.levelActive i = false
    runs (wakes (6 + us 162 + 1) e) 6 ∧ runs pin 6 ∧ pin.power.pinWake = true ∧ pin.power.stale = true
      ∧ (runs (wakes 6 e) 6 ∧ 6 ≤ 6 + us 162 ∧ steady e ∧ e.power.held = [])
      ∧ undo.entering = some (rs, 6) ∧ undo.power.linkWake = some 6 ∧ undo.power.stopped = true := by decide +kernel

/-- EntryWakeAndExit: wakes of a sleeping device, and its exit. -/
theorem test_met_WakesAndTheExit :
    let slp := fun (n : Nat) => ready.put F.PWR_STATUS_STATE n
    let pins := (slp 3).setReg A.PWR_WAKE_EN 0x3FF0#32
    let any := ((slp 2).setReg A.PWR_WAKE_EN 0x7#32).put F.MGT_CFG_WAKE_ANY 1
    let ex := { slp 2 with power := { ready.power with exitT := some 5, savedDoms := 0x701 } }
    let kept := [74, 75].foldl (fun (s : State) b => s.modBank (bankIx b) fun b => { b with power := 2 })
      { ex with power := { ex.power with savedLoaded := 8 } }
    let sleeps := fun (s : State) => s.seqRun = false ∧ s.power.off = false ∧ s.power.exitT = none
      ∧ s.power.undoT = none ∧ 2 ≤ s.g F.PWR_STATUS_STATE
    sleeps pins ∧ sleeps any ∧ sleeps (slp 2) ∧ pins.g F.PWR_STATUS_STATE = 3
      ∧ (∀ i, i < 3 → (any.reg A.PWR_WAKE_EN).getLsbD i = true) ∧ any.bit F.MGT_CFG_WAKE_ANY = true
      ∧ (pins.reg A.PWR_WAKE_EN).getLsbD 0 = false ∧ (∀ i, i < 10 → (pins.reg A.PWR_WAKE_EN).getLsbD (4 + i) = true)
      ∧ (any.reg A.PWR_WAKE_EN).getLsbD 4 = false
      ∧ sleeps (any.put F.MGT_CFG_WAKE_ANY 0) ∧ (any.put F.MGT_CFG_WAKE_ANY 0).bit F.MGT_CFG_WAKE_ANY = false
      ∧ pins.g F.PWR_WAKE_CFG_ENC_COUNT ≤ pins.power.motion.getD 3 0 + pins.g F.PWR_WAKE_CFG_ENC_COUNT
      ∧ true ≠ (pins.g F.PWR_WAKE_CFG_TOF_EDGE).testBit 3
      ∧ ex.power.exitT = some 5 ∧ ex.seqRun = false ∧ ex.power.off = false ∧ ex.power.held = [] ∧ steady ex
      ∧ ex.power.savedLoaded.testBit 3 = false ∧ kept.power.exitT = some 5 ∧ kept.power.savedLoaded.testBit 3 = true
      ∧ kept.pairKept [] 3 = true := by decide +kernel

/-- The array with words that read the same in both copies. -/
def burnt (l : Cells Word) (s : State) : State := { s with otp := { s.otp with strong0 := l, strong1 := l } }

/-- OtpCommands: what starts and what is refused. -/
theorem test_met_OtpStarts :
    let lc := fun (n : Nat) => ready.put F.SYS_LC_STATE n
    let busy := ready.put F.OTP_STATUS_BUSY 1
    let slp := ready.put F.PWR_STATUS_STATE 3
    let entry := reqS ⟨.standby, false, 5, none, none⟩ ready
    let may := fun (n r : Nat) => n ≤ 1 ∨ (n = 2 ∧ r ∈ [1, 2, 4, 5]) ∨ (n = 3 ∧ r ∈ [2, 4, 5])
    let isOpen := fun (s : State) (r sl : Nat) => (s.otpWord 0x011).getLsbD (2 * r + sl) = false
      ∧ s.otp.left.testBit (2 * r + sl) = false ∧ ∀ i < 4, s.otpWord (slotBase r sl + slotWords r - 4 + i) = 0
    let data := burnt [(slotBase 1 0 + slotWords 1 - 4, 5#32)] ready
    let locked := burnt [(0x011, 4#32)] ready
    let asks := fun (s : State) => s.takes A.OTP_CMD ∧ s.bit F.OTP_STATUS_BUSY = false
      ∧ ¬ (2 ≤ s.g F.PWR_STATUS_STATE) ∧ s.power.req = none
    asks ready ∧ (∀ n, n < 5 → asks (lc n) ∧ (lc n).g F.SYS_LC_STATE = n)
      ∧ busy.takes A.OTP_CMD ∧ busy.bit F.OTP_STATUS_BUSY = true
      ∧ slp.takes A.OTP_CMD ∧ 2 ≤ slp.g F.PWR_STATUS_STATE ∧ slp.bit F.OTP_STATUS_BUSY = false
      ∧ entry.takes A.OTP_CMD ∧ entry.power.req ≠ none ∧ entry.bit F.OTP_STATUS_BUSY = false
      ∧ 0x1F < 0x20 ∧ slotBase 1 0 ≤ 0x4C ∧ 0x4C < slotBase 1 0 + slotWords 1 ∧ slotBase 1 0 + slotWords 1 - 4 ≤ 0x4C
      ∧ 0x40 < slotBase 1 0 + slotWords 1 - 4 ∧ may 1 1 ∧ isOpen ready 1 0 ∧ ¬ may 3 1 ∧ ¬ isOpen data 1 0 ∧ asks data
      ∧ ¬ isOpen locked 1 0 ∧ asks locked ∧ (locked.otpWord 0x011).getLsbD (2 * 1 + 0) = true
      ∧ (∀ r, r < 6 → ∀ sl, sl < 2 → ¬ (slotBase r sl ≤ 0x3A0 ∧ 0x3A0 < slotBase r sl + slotWords r))
      ∧ 5 < (6 : Fin 8).val ∧ 128 < (129#8).toNat ∧ ¬ 128 < (128#8).toNat
      ∧ (∀ a ∈ [(0xA1#8, 1), (0xA4#8, 4), (0xA5#8, 5), (0x9F#8, 0)],
          (if 0xA0 ≤ a.1.toNat then a.1.toNat - 0xA0 else 0) = a.2)
      ∧ (inPg ready).anyInside = true ∧ asks (inPg ready) ∧ ready.anyInside = false
      ∧ ((lc 4).put F.SYS_LC_PARTIAL 1).bit F.SYS_LC_PARTIAL = true ∧ (lc 4).bit F.SYS_LC_PARTIAL = false
      ∧ (∀ b, b < 8 → (ready.otpWord 0x010).getLsbD b = false)
      ∧ (∀ b, b < 8 → ((burnt [(0x010, 0x3F#32)] ready).otpWord 0x010).getLsbD b = decide (b < 6))
      ∧ (∀ r ∈ [0, 1, 3], ∀ sl, sl < 2 → (ready.otpWord 0x011).getLsbD (2 * r + sl) = false) := by
  intros
  repeat' apply And.intro
  all_goals decide +kernel +revert

/-- OtpCommands: ends that burn, read and count. -/
theorem test_met_OtpEnds :
    let run := fun (c : OtpCmd) (s : State) => { s with otp := { s.otp with cmd := some c } }
    let s := burnt [(0x40, 1#32)] ready
    let runs := fun (op : OtpOp) => (run ⟨op, none⟩ s).otp.cmd = some ⟨op, none⟩
    let weak := { s with otp := { s.otp with weak0 := [(0x42, 8#32)] } }
    let fails : List (Nat × Word × Word) := [(0x40, 2#32, 0#32)]
    let cnt := fun (v : Nat) => burnt ((List.range 4).filterMap fun i =>
      let w := BitVec.ofNat 32 ((2 ^ v - 1) / 2 ^ (32 * i)); if w = 0 then none else some (4 + i, w)) ready
    ready.otp.cmd = none ∧ (run ⟨.life 1, some 9⟩ s).otp.cmd = some ⟨.life 1, some 9⟩ ∧ s.seqRun = false
      ∧ runs (.program 0x40 3#32) ∧ runs (.margin 0x10 none) ∧ runs (.margin 0x10 (some 1#32)) ∧ runs (.life 2)
      ∧ runs (.count 1 (9#8).toNat)
      ∧ (3#32 &&& (failBits fails 0x40).1 &&& ~~~ s.otpStrong 0 0x40) ≠ 0
      ∧ (3#32 &&& ~~~(s.otpStrong 0 0x40 &&& s.otpStrong 1 0x40)) ≠ 0
      ∧ (1#32 &&& ~~~(s.otpStrong 0 0x40 &&& s.otpStrong 1 0x40)) = 0
      ∧ weak.otpLow 0 0x42 ≠ weak.otpStrong 0 0x42 ∧ weak.otpLow 1 0x42 = weak.otpStrong 1 0x42
      ∧ s.otpLow 0 0x42 = s.otpStrong 0 0x42 ∧ s.otpLow 0 0x40 ≠ 3#32 ∧ s.otpStrong 0 0x40 = 1#32
      ∧ (∀ v ∈ [0, 1, 45, 128], ∀ b, b < 128 →
          ((cnt v).otpWord (4 * (1 : Fin 4).val + b / 32)).getLsbD (b % 32) = decide (b < v))
      ∧ (∀ v ∈ [0, 9], ∀ b, b < 32 → (BitVec.ofNat 32 (2 ^ 9 - 2 ^ v)).getLsbD b = decide (v ≤ b ∧ b < 9))
      ∧ (∀ b, b < 8 → ((burnt [(0x010, 0x3#32)] ready).otpWord 0x010).getLsbD b = decide (b < 2))
      ∧ slotBase 5 0 ≤ 0x2A0 ∧ 0x2A0 < slotBase 5 0 + slotWords 5 ∧ (ready.put F.SYS_LC_STATE 3).g F.SYS_LC_STATE = 3
      ∧ (∀ r, r < 6 → ∀ sl, sl < 2 → slotBase r sl ≤ 0x40 → 0x40 < slotBase r sl + slotWords r → r = 1) := by
  decide +kernel

/-- OtpCommands: a SEAL of slot 0 of region 1, whose digest words stand from 0x4C on. -/
theorem test_met_OtpSeal :
    let seals := fun (s : State) => { s with otp := { s.otp with cmd := some ⟨.seal (1 : Fin 6) (0 : Fin 2), none⟩ } }
    let s := seals (burnt [(0x41, 7#32)] ready)
    let dig := digestOf 1 0 (s.slotRead 1 0)
    let d := fun (i : Nat) => dig.getD i 0
    let weak := { s with otp := { s.otp with weak1 := [(0x44, 8#32)] } }
    let clash := seals (burnt [(0x41, 7#32), (0x4D, ~~~ d 1)] ready)
    let isWeak := fun (s : State) (w : Nat) => s.otpLow 0 w ≠ s.otpStrong 0 w ∨ s.otpLow 1 w ≠ s.otpStrong 1 w
    let bad := fun (fails : List (Nat × Word × Word)) (i : Nat) =>
      d i &&& (failBits fails (0x4C + i)).1 &&& ~~~ s.otpStrong 0 (0x4C + i) ≠ 0
        ∨ d i &&& (failBits fails (0x4C + i)).2 &&& ~~~ s.otpStrong 1 (0x4C + i) ≠ 0
        ∨ s.otpLow 0 (0x4C + i) &&& ~~~ d i ≠ 0 ∨ s.otpLow 1 (0x4C + i) &&& ~~~ d i ≠ 0
    s.otp.cmd = some ⟨.seal (1 : Fin 6) (0 : Fin 2), none⟩ ∧ s.seqRun = false ∧ slotBase 1 0 + slotWords 1 - 4 = 0x4C
      ∧ isWeak weak (slotBase 1 0 + 4) ∧ (∀ j, j < 4 → ¬ isWeak weak (slotBase 1 0 + j))
      ∧ (∀ i, i < slotWords 1 - 4 → ¬ isWeak s (slotBase 1 0 + i) ∧ ¬ isWeak clash (slotBase 1 0 + i))
      ∧ clash.otpWord (0x4C + 1) &&& ~~~ (digestOf 1 0 (clash.slotRead 1 0)).getD 1 0 ≠ 0
      ∧ (∀ i, i < 4 → ¬ s.otpWord (0x4C + i) &&& ~~~ d i ≠ 0 ∧ ¬ bad [] i)
      ∧ bad [(0x4E, d 2, 0)] 2 ∧ (∀ j, j < 2 → ¬ bad [(0x4E, d 2, 0)] j)
      ∧ ((4#32 &&& (failBits [(0x011, 0, 4#32)] 0x011).2 &&& ~~~ s.otpStrong 1 0x011) ≠ 0)
      ∧ (∀ i, i < 4 → ¬ bad [(0x011, 0, 4#32)] i) := by
  intros
  repeat' apply And.intro
  all_goals decide +kernel +revert

theorem test_met_otp_host_is_not_pair3 : Master.host ≠ .pair 3 := Master.noConfusion

/-! ## The whole machine -/

theorem test_met_InstructionWordsRoundTrip : (KInstr.mul .mac 2 6 6).legal = true
    ∧ decodeK 0x119C2006#32 = some (.load .lw 6 7 6) := by decide +kernel

theorem test_met_StepKeepsCanonicalForm : State.reset.canonical = true
    ∧ (match step State.reset with | .next t => t.canonical | _ => false) = true := by decide +kernel

theorem test_met_BurnedBitsStay :
    let s := { ready with otp := { ready.otp with strong0 := [(5, 0x80000001#32)] }, pending := [.powerRemoval] }
    (s.otpStrong 0 5).getLsbD 31 = true ∧ (match step s with | .next t => t.power.off | _ => false) = true := by
  decide +kernel

end Sys2Proof.Tests
end

section
/-!
PROOFS. The register table, whose fields lie apart, and the registers at reset (00 R4, R8); O57.
-/

namespace Sys2Proof.Machine

/-! ## The register table: fields lie apart, and what kind some registers are of (00 R4, R8) -/

/-- The bits of a field end in the word, and two fields share none. -/
def RegKind.sound (k : RegKind) : Bool :=
  k.fields.all (fun f => decide (f.lo + f.w ≤ 32))
    && decide (k.fields.Pairwise fun f e => f.lo + f.w ≤ e.lo ∨ e.lo + e.w ≤ f.lo)

/-- Every kind of the register tables is sound. -/
theorem kindsAt_sound (off : Nat) : (kindsAt off).all RegKind.sound = true := by
  unfold kindsAt
  split
  case h_17 =>
    split
    · decide +kernel
    · rfl
  all_goals decide +kernel

/-- The fields of a register lie apart and end in the word. -/
theorem kindAt_sound {off : Nat} {k : RegKind} (h : kindAt off = some k) :
    (∀ f ∈ k.fields, f.lo + f.w ≤ 32)
      ∧ k.fields.Pairwise fun f e => f.lo + f.w ≤ e.lo ∨ e.lo + e.w ≤ f.lo := by
  have hk : k.sound = true := List.all_eq_true.1 (kindsAt_sound off) k (List.mem_of_find?_eq_some h)
  simpa [RegKind.sound] using hk

/-- The kind of the registers of the event map. -/
def eventMapKind : RegKind := ⟨A.EVT_MAPe 0, [(256, 0x4)], [⟨0, 6, .rw, 0x0⟩, ⟨6, 1, .rw, 0x0⟩, ⟨8, 4, .rw, 0x0⟩]⟩

theorem kindAt_EVT_MAPe {e : Nat} (he : e < 256) : kindAt (A.EVT_MAPe e) = some eventMapKind := by
  have hb : A.EVT_MAPe e / 0x10000 = 4 := by simp only [A.EVT_MAPe]; omega
  have hh : eventMapKind.has (A.EVT_MAPe e) = true := by
    have ha : A.EVT_MAPe e = A.EVT_MAPe 0 + e * 4 := by simp only [A.EVT_MAPe]
    simp [RegKind.has, RegKind.hasFrom, eventMapKind, ha, he]
  unfold kindAt kindsAt
  rw [hb]
  exact List.find?_cons_of_pos hh

/-- The word of an entry of the event map after reset: VECTOR is the event modulo 64. -/
theorem resetWord_EVT_MAPe {e : Nat} (he : e < 256) : resetWord (A.EVT_MAPe e) = BitVec.ofNat 32 (e % 64) := by
  have hi : indexedReset (A.EVT_MAPe e) = e % 64 := by
    have ha : A.EVT_MAPe e = 0x40000 + e * 4 := rfl
    unfold indexedReset
    rw [if_neg (by omega), if_pos (by omega)]
    omega
  rw [resetWord, kindAt_EVT_MAPe he]
  simp only [hi]
  rw [show eventMapKind.resetNat = 0 by decide, Nat.zero_add]

/-! ## The state at reset (00 R8) -/

/-- No register is listed at reset: each holds its reset word. -/
theorem State.reset_reg (a : Nat) : State.reset.reg a = resetWord a := rfl

theorem State.reset_eventMap {e : Nat} (he : e < 256) :
    State.reset.g (F.EVT_MAPe_VECTOR e) = e % 64 ∧ State.reset.bit (F.EVT_MAPe_MSI e) = false := by
  have hm : e % 64 < 2 ^ 32 := by omega
  constructor
  · simp only [State.g, F.EVT_MAPe_VECTOR, State.reset_reg, resetWord_EVT_MAPe he, Word.field, BitVec.toNat_ofNat,
      Nat.mod_eq_of_lt hm]
    omega
  · simp only [State.bit, State.g, F.EVT_MAPe_MSI, State.reset_reg, resetWord_EVT_MAPe he, Word.field,
      BitVec.toNat_ofNat, Nat.mod_eq_of_lt hm, beq_eq_false_iff_ne]
    omega

theorem State.reset_pairs (j : Fin 4) :
    State.reset.halted j = true ∧ (∀ r, (State.reset.pair j).kr r = 0#32)
      ∧ (State.reset.pair j).ccr 0x010 = 8#32 := by
  revert j
  decide +kernel

theorem State.reset_dmaChannels : ∀ c, c < 48 → State.reset.g (F.DMA_Cc_CFG_PRIO c) = (if c < 32 then 1 else 0)
    ∧ State.reset.g (F.DMA_Cc_RING_SIZE_V c) = 2 := by
  decide +kernel

theorem State.reset_cameras : ∀ p : Fin 4, State.reset.g (F.CAM_Pp_CFG_WIDTH p) = 4096
    ∧ State.reset.g (F.CAM_Pp_FRAME_FRAME_LINES p) = 64 := by
  decide +kernel

theorem State.reset_bars : ∀ n : Fin 32, State.reset.g (F.FPE_WIN_END_V n) = 81919
    ∧ State.reset.g (F.FPE_SEGMASK_V n) = 255 ∧ State.reset.g (F.NST_WATER_WATER n) = 256
    ∧ State.reset.bit (F.FPE_CTL_EN n) = false := by
  decide +kernel

end Sys2Proof.Machine

open Sys2Proof.Machine in
/-- Settles O57: every register reads its reset word, of which the table gives the fields; the map of 256 events by
its index. -/
theorem resetStateHoldsTheResetValues : Obligations.ResetStateHoldsTheResetValues := by
  unfold Obligations.ResetStateHoldsTheResetValues
  intro s
  have system : s.reg A.SYS_ID = 0x98600A01#32 ∧ s.g F.RST_LAST_V = 1 ∧ s.reg A.PWR_DOM_STATUS = 0x1FFF#32
      ∧ s.reg A.PWR_WAKE_EN = 7#32 ∧ s.g F.PWR_RET_LIMIT_V = 2600 := by
    decide +kernel
  have units : s.reg A.POS_SEC_RATIO = 0x1000000#32 ∧ s.g F.POS_EST_CFG_STANDSTILL = 1000
      ∧ s.g F.POS_FO_CFG_DIVERGE = 16 ∧ s.g F.XPT_ACC_V = 100000 ∧ s.gi F.XPT_CLAMP_MIN = -32768
      ∧ s.gi F.XPT_CLAMP_MAX = 32767 ∧ s.g F.THM_FLOOR_V = 10000 ∧ s.g F.THM_TEMP_LIM_TWARN = 4480
      ∧ s.g F.THM_TEMP_LIM_CEIL = 5440 ∧ s.g F.CAL_CLASS_EN_V = 255 ∧ s.g F.SEQ_WD_CFG_PERIOD = 1000
      ∧ s.g F.SEQ_WD_CFG_HALT_GRACE = 50 ∧ s.reg A.GRID_FREQ_LO = 0xD1B71759#32 ∧ s.g F.GRID_PITCH_V = 256 := by
    decide +kernel
  obtain ⟨hid, hlast, hdom, hwake, hlimit⟩ := system
  obtain ⟨h1, h2, h3, h4, h5, h6, h7, h8, h9, h10, h11, h12, h13, h14⟩ := units
  exact ⟨rfl, rfl, rfl, rfl, State.reset_pairs, hid, hlast, hdom, hwake, hlimit, fun e he => State.reset_eventMap he,
    State.reset_dmaChannels, h1, h2, h3, h4, h5, h6, h7, h8, h9, h10, h11, h12, h13, h14, State.reset_cameras,
    State.reset_bars⟩
end

section
/-!
PROOFS. Words of which several fields are replaced: writes by the access codes and RC fields (00 R4, R5).
-/

namespace Sys2Proof.Machine

/-! ## Words after several fields (00 R4, R5) -/

/-- A word in which the fields that `u` names a value for are replaced, one after another. -/
def insertFields (u : FieldSpec → Option Nat) (fs : List FieldSpec) (w : Word) : Word :=
  fs.foldl (fun (a : Word) f => match u f with
    | some v => Word.insert a f.lo f.w v
    | none => a) w

/-- A field that lies apart from every field of a list reads as before they were replaced. -/
theorem field_insertFields_apart (u : FieldSpec → Option Nat) (fs : List FieldSpec) (w : Word) (lo n : Nat)
    (fits : ∀ f ∈ fs, f.lo + f.w ≤ 32) (apart : ∀ f ∈ fs, lo + n ≤ f.lo ∨ f.lo + f.w ≤ lo) :
    Word.field (insertFields u fs w) lo n = Word.field w lo n := by
  induction fs generalizing w with
  | nil => rfl
  | cons e fs ih =>
    have rest := fun a => ih a (fun f hf => fits f (List.mem_cons_of_mem _ hf))
      (fun f hf => apart f (List.mem_cons_of_mem _ hf))
    have first : ∀ v, Word.field (Word.insert w e.lo e.w v) lo n = Word.field w lo n := fun v =>
      (apart e List.mem_cons_self).elim (Word.field_insert_below w e.lo e.w v lo n (fits e List.mem_cons_self))
        (Word.field_insert_above w e.lo e.w v lo n (fits e List.mem_cons_self))
    unfold insertFields at rest ⊢
    rw [List.foldl_cons, rest]
    cases u e with
    | none => rfl
    | some v => exact first v

/-- A field of a word after its fields are replaced: its new value modulo its width, else as before. -/
theorem field_insertFields (u : FieldSpec → Option Nat) (fs : List FieldSpec) (w : Word)
    (fits : ∀ f ∈ fs, f.lo + f.w ≤ 32)
    (apart : fs.Pairwise fun f e => f.lo + f.w ≤ e.lo ∨ e.lo + e.w ≤ f.lo) {f : FieldSpec} (hf : f ∈ fs) :
    Word.field (insertFields u fs w) f.lo f.w = match u f with
      | some v => v % 2 ^ f.w
      | none => Word.field w f.lo f.w := by
  induction fs generalizing w with
  | nil => cases hf
  | cons e fs ih =>
    obtain ⟨aparte, apart⟩ := List.pairwise_cons.1 apart
    have fits' := fun g hg => fits g (List.mem_cons_of_mem e hg)
    rcases List.mem_cons.1 hf with rfl | hf
    · have rest := field_insertFields_apart u fs (insertFields u [f] w) f.lo f.w fits' aparte
      refine rest.trans ?_
      unfold insertFields
      rw [List.foldl_cons, List.foldl_nil]
      cases u f with
      | none => rfl
      | some v => exact Word.field_insert_same w f.lo f.w v (fits f List.mem_cons_self)
    · refine (ih (insertFields u [e] w) fits' apart hf).trans ?_
      have old := field_insertFields_apart u [e] w f.lo f.w (by simpa using fits e List.mem_cons_self)
        (by simpa using (aparte f hf).symm)
      cases u f with
      | none => exact old
      | some v => rfl

/-- The value that a write of `w` over `old` stores in a field, by its access code; none where it stores none. -/
def writtenValue (locked : Bool) (old w : Word) (f : FieldSpec) : Option Nat :=
  match f.acc with
  | .rw => some (Word.field w f.lo f.w)
  | .rwl => if locked then none else some (Word.field w f.lo f.w)
  | .w1c => some (Word.field (old &&& ~~~w) f.lo f.w)
  | _ => none

theorem writeFields_eq (locked : Bool) (old w : Word) (fs : List FieldSpec) :
    writeFields locked old w fs = insertFields (writtenValue locked old w) fs old := by
  unfold writeFields insertFields
  congr 1
  funext a f
  unfold writtenValue
  cases f.acc with
  | rwl => cases locked <;> rfl
  | _ => rfl

/-- A field of a register after a write that acts by the access codes alone (R4). -/
theorem State.g_plain (s : State) {off : Nat} {k : RegKind} (w : Word) (hk : kindAt off = some k) {f : FieldSpec}
    (hf : f ∈ k.fields) : (s.plain off w).g ⟨off, f.lo, f.w⟩ = match f.acc with
      | .rw => Word.field w f.lo f.w
      | .rwl => if s.fieldLocked then s.g ⟨off, f.lo, f.w⟩ else Word.field w f.lo f.w
      | .w1c => Word.field (s.reg off &&& ~~~w) f.lo f.w
      | _ => s.g ⟨off, f.lo, f.w⟩ := by
  obtain ⟨fits, apart⟩ := kindAt_sound hk
  have hl : s.fieldLocked = s.rwlLocked := rfl
  have lt : ∀ v : Word, Word.field v f.lo f.w % 2 ^ f.w = Word.field v f.lo f.w := fun v =>
    Nat.mod_eq_of_lt (Word.field_lt v f.lo f.w)
  simp only [State.plain, hk, State.g, State.reg_setReg_same, writeFields_eq]
  rw [field_insertFields _ _ _ fits apart hf, hl]
  cases ha : f.acc with
  | rwl => cases hb : s.rwlLocked <;> simp [writtenValue, ha, lt]
  | _ => simp [writtenValue, ha, lt]

/-- A write that acts by the access codes alone changes no other register. -/
theorem State.plain_onlyRegs (s : State) (off : Nat) (w : Word) : s.onlyRegs (s.plain off w) [off] := by
  unfold State.plain
  cases kindAt off with
  | none => exact ⟨rfl, fun _ _ => rfl⟩
  | some k => exact ⟨rfl, fun a ha => State.reg_setReg_other s _ (by simpa using ha)⟩

/-- Nothing is written where no register stands (R9). -/
theorem State.plain_of_none (s : State) {off : Nat} (w : Word) (h : kindAt off = none) : s.plain off w = s := by
  simp [State.plain, h]

/-! ## The RC fields after a read (00 R5) -/

/-- The registers of a bank's counters, which the window of MEM_BANK_SEL shows. -/
def bankCounters : List Nat := [A.MEM_BANK_CE, A.MEM_BANK_UE, A.MEM_BANK_COLL]

/-- A read clears the RC fields of its register alone. -/
theorem State.clearRead_spec (s : State) {off : Nat} (h : off ∉ bankCounters) :
    s.onlyRegs (s.clearRead off) [off]
      ∧ ∀ k, kindAt off = some k → ∀ f ∈ k.fields, f.acc = .rc → (s.clearRead off).g ⟨off, f.lo, f.w⟩ = 0 := by
  simp only [bankCounters, List.mem_cons, List.not_mem_nil, or_false, not_or] at h
  obtain ⟨hce, hue, hcoll⟩ := h
  have e : s.clearRead off = match kindAt off with
      | some k => if k.fields.any fun f => f.acc == .rc then
          s.setReg off (insertFields (fun f => if f.acc = .rc then some 0 else none) k.fields (s.reg off)) else s
      | none => s := by
    unfold State.clearRead
    rw [if_neg hce, if_neg hue, if_neg hcoll]
    cases kindAt off with
    | none => rfl
    | some k =>
      simp only [insertFields]
      congr 2
      congr 1
      funext a f
      split <;> simp_all
  rw [e]
  cases hk : kindAt off with
  | none => exact ⟨⟨rfl, fun _ _ => rfl⟩, fun k hk => nomatch hk⟩
  | some k =>
    obtain ⟨fits, apart⟩ := kindAt_sound hk
    by_cases hr : (k.fields.any fun f => f.acc == .rc) = true
    · simp only [hr, if_true]
      refine ⟨⟨rfl, fun a ha => State.reg_setReg_other s _ (by simpa using ha)⟩, ?_⟩
      rintro _ ⟨⟩ f hf ha
      simp only [State.g, State.reg_setReg_same]
      rw [field_insertFields _ _ _ fits apart hf]
      simp [ha]
    · simp only [hr]
      refine ⟨⟨rfl, fun _ _ => rfl⟩, ?_⟩
      rintro _ ⟨⟩ f hf ha
      exact absurd (List.any_eq_true.2 ⟨f, hf, by simp [ha]⟩) hr

end Sys2Proof.Machine
end

section
/-!
PROOFS. An access of one register: where it reaches its block, where the block is off, and what a plain read is
(00 R4, R5, R9, R22; 11 R355).
-/

namespace Sys2Proof.Machine

/-! ## Accesses of one register (00 R4, R5, R22; 11 R355) -/

/-- The word that the four bytes of a word spell is the word. -/
theorem word_of_leBytes (w : Word) : BitVec.ofNat 32 (leNat ((leBytes 4 w.toNat).take 4)) = w := by
  rw [List.take_of_length_le (by simp), leNat_leBytes]
  apply BitVec.eq_of_toNat_eq
  have := w.isLt
  simp only [BitVec.toNat_ofNat]
  omega

theorem accessFits_word (r : Nat) : accessFits (4 * r) 4 = true := by
  simp [accessFits]

/-- The state after a read of a word has been answered. -/
def State.answerWord (s : State) (v : Word) : State := s.answer (leBytes 4 v.toNat) false 0

/-- The state after a read that reaches nothing. -/
def State.answerZeros (s : State) : State := s.answer (List.replicate 4 0#8) false 0

/-- A read that reaches its register answers what the register gives. -/
theorem exec_rcRead_reached (s : State) (m : Master) (reg : Fin 0x400000) (hs : s.takes (4 * reg.val)) :
    exec (.rcRead m reg) s = .next ((s.regRead m (4 * reg.val)).1.answerWord (s.regRead m (4 * reg.val)).2) := by
  obtain ⟨hrun, hup⟩ := hs
  show execRcRead m reg s = _
  simp [execRcRead, State.regsRead, accessFits_word, State.reachable, hrun, hup, State.answerWord]

/-- A read of a block that is off answers zeros (11 R355). -/
theorem exec_rcRead_missed (s : State) (m : Master) (reg : Fin 0x400000) (hrun : s.seqRun = false)
    (hup : s.blockUp (4 * reg.val) = false) :
    exec (.rcRead m reg) s = .next (s.unpowered (4 * reg.val)).answerZeros := by
  show execRcRead m reg s = _
  simp [execRcRead, State.regsRead, accessFits_word, State.reachable, State.missed, hrun, hup, State.answerZeros]

/-- A write that reaches its register. -/
theorem exec_registerWrite_reached (s : State) (m : Master) (reg : Fin 0x400000) (w : Word)
    (hs : s.takes (4 * reg.val)) :
    exec (.registerWrite m reg w) s = .next (s.regWrite m (4 * reg.val) w).runSteps := by
  obtain ⟨hrun, hup⟩ := hs
  show execRegisterWrite m reg w s = _
  simp [execRegisterWrite, State.regsWrite, accessFits_word, State.reachable, hrun, hup, word_of_leBytes]

/-- A write of a block that is off is lost (11 R355). -/
theorem exec_registerWrite_missed (s : State) (m : Master) (reg : Fin 0x400000) (w : Word)
    (hrun : s.seqRun = false) (hup : s.blockUp (4 * reg.val) = false) :
    exec (.registerWrite m reg w) s = .next (s.unpowered (4 * reg.val)).runSteps := by
  show execRegisterWrite m reg w s = _
  simp [execRegisterWrite, State.regsWrite, accessFits_word, State.reachable, State.missed, hrun, hup]

/-- A row that writes a register acts where the write reaches its block. -/
theorem State.atBlock_takes (s : State) {off : Nat} (hs : s.takes off) (f : State → State) : s.atBlock off f = f s := by
  simp [State.atBlock, hs.1, hs.2]

/-- A write that acts by the access codes alone leaves every pair alone, so no single step is due after it. -/
theorem State.runSteps_plain (s : State) (off : Nat) (w : Word) (h : ∀ j, (s.pair j).stepReq = false) :
    (s.plain off w).runSteps = s.plain off w := by
  obtain ⟨frame, -⟩ := State.plain_onlyRegs s off w
  refine State.runSteps_of_none _ fun j => ?_
  rw [frame]
  exact h j

/-- What raising events leaves of a pair: no single step comes to be requested. -/
theorem SameButEvents.stepReq {s t : State} (h : SameButEvents s t) (j : Fin 4) :
    (t.pair j).stepReq = (s.pair j).stepReq := by
  rw [h.pairs j]

/-! ## Blocks that are off (11 R355) -/

/-- No register changed. -/
theorem State.onlyRegs.refl (s : State) : s.onlyRegs s [] := ⟨rfl, fun _ _ => rfl⟩

/-- A field stored after changes of register words. -/
theorem State.onlyRegs.put {s u : State} {xs : List Nat} (h : s.onlyRegs u xs) (f : Field) (v : Nat) :
    s.onlyRegs (u.put f v) (f.off :: xs) := by
  obtain ⟨frame, regs⟩ := h
  refine ⟨?_, fun x hx => ?_⟩
  · have hp : u.put f v = { u with regs := (u.put f v).regs } := rfl
    generalize u.put f v = t at hp ⊢
    exact hp.trans (by rw [frame])
  · obtain ⟨hf, hxs⟩ := not_or.1 (mt List.mem_cons.2 hx)
    rw [State.reg_put, if_neg hf, regs x hxs]

/-- A cause bit set after changes of register words: the words, the cause register and what its event changes. -/
theorem State.onlyRegs.setCause {s u : State} {xs : List Nat} (h : s.onlyRegs u xs) (f : Field) :
    s.onlyRegsAndEvents (u.setCause f) (f.off :: xs) := by
  obtain ⟨frame, regs⟩ := h
  have hframe := State.setCause_frame u f
  have hpair := State.setCause_pair u f
  have hother := fun x => State.reg_setCause_other u f (a := x)
  generalize u.setCause f = t at hframe hpair hother ⊢
  have pairs : u.pairs = s.pairs := by rw [frame]
  refine ⟨?_, fun x hx hr => ?_, fun j => ?_⟩
  · exact hframe.trans (by rw [frame])
  · obtain ⟨hf, hxs⟩ := not_or.1 (mt List.mem_cons.2 hx)
    rw [hother x hf hr, regs x hxs]
  · have hp : u.pair j = s.pair j := by unfold State.pair; rw [pairs]
    rw [← hp]
    exact hpair j

/-- The registers of memory control are none of the router's. -/
theorem not_routerReg_of_le {a : Nat} (h : 0xE0000 ≤ a) : ¬ routerReg a := by
  unfold routerReg
  omega

/-- An access of a block that is off is counted and recorded, and sets the cause UNPOWERED; nothing else changes. -/
theorem State.unpowered_spec (s : State) {a : Nat} (ha : a < 2 ^ 32) :
    s.onlyRegsAndEvents (s.unpowered a) [A.MEM_CAUSE, A.MEM_UNPWR_ADDR, A.MEM_UNPWR]
      ∧ s.counted (s.unpowered a) F.MEM_UNPWR_V ∧ (s.unpowered a).g F.MEM_UNPWR_ADDR_V = a := by
  obtain ⟨u, hu⟩ : ∃ u, u = (s.bump F.MEM_UNPWR_V).put F.MEM_UNPWR_ADDR_V a := ⟨_, rfl⟩
  have ht : s.unpowered a = u.setCause F.MEM_CAUSE_UNPOWERED := by rw [hu]; rfl
  have words : s.onlyRegs u [A.MEM_UNPWR_ADDR, A.MEM_UNPWR] := by
    rw [hu]
    exact ((State.onlyRegs.refl s).put F.MEM_UNPWR_V _).put F.MEM_UNPWR_ADDR_V a
  have fields : ∀ f : Field, f.off ≠ A.MEM_CAUSE → 0xE0000 ≤ f.off → (s.unpowered a).g f = u.g f := by
    intro f hf hr
    unfold State.g
    rw [ht, State.reg_setCause_other u F.MEM_CAUSE_UNPOWERED hf (not_routerReg_of_le hr)]
  refine ⟨?_, ?_, ?_⟩
  · rw [ht]
    exact words.setCause F.MEM_CAUSE_UNPOWERED
  · unfold State.counted
    rw [fields F.MEM_UNPWR_V (by decide) (by decide), hu, State.g_put_other _ _ _ _ (by decide),
      State.g_bump _ _ (by decide)]
  · rw [fields F.MEM_UNPWR_ADDR_V (by decide) (by decide), hu, State.g_put_same _ _ _ (by decide)]
    exact Nat.mod_eq_of_lt ha

/-! ## Reads of a register (00 R5, R479) -/

/-- A register whose read is no window's, no table's and no popping one, and that no snapshot holds. -/
def plainRead (off : Nat) : Prop :=
  windowAt off = none ∧ off ≠ A.INS_TBL_DATA ∧ (∀ p : Fin 4, off ≠ A.CAM_Pp_CCI_RES p) ∧ off ∉ snapMembers

/-- The popping register of camera port p. -/
theorem cciRes_iff (off : Nat) :
    (0xC0000 ≤ off ∧ off < 0xC4000 ∧ off % 0x1000 = 0x810) ↔ ∃ p : Fin 4, off = A.CAM_Pp_CCI_RES p := by
  constructor
  · rintro ⟨h1, h2, h3⟩
    refine ⟨⟨(off - 0xC0000) / 0x1000, by omega⟩, ?_⟩
    simp only [A.CAM_Pp_CCI_RES]
    omega
  · rintro ⟨p, rfl⟩
    have := p.isLt
    simp only [A.CAM_Pp_CCI_RES]
    omega

/-- A read of such a register: its value, with the group copied that it heads and its RC fields cleared. -/
theorem State.regRead_plain (s : State) (m : Master) {off : Nat} (h : plainRead off) :
    s.regRead m off
      = ((((s.readCells (logCells off)).takeSnap m (snapGroup off)).clearRead off), s.regView m off) := by
  obtain ⟨hw, ht, hp, hm⟩ := h
  have hp' := not_exists.2 hp ∘ (cciRes_iff off).1
  simp only [State.regRead, hw, if_neg ht, if_neg hp', List.contains_iff_mem, if_neg hm]

/-- No log word is read outside the log, or where no word is in error. -/
theorem State.readCells_log (s : State) {off : Nat}
    (h : off < A.SYS_VLOG 0 0 ∨ A.SYS_VLOG 64 0 ≤ off ∨ (s.ceBad = [] ∧ s.ueBad = [])) :
    s.readCells (logCells off) = s := by
  rcases h with h | h | ⟨hc, hu⟩
  · simp [State.readCells, logCells, Nat.not_le.2 h]
  · simp [State.readCells, logCells, Nat.not_lt.2 h]
  · simp [State.readCells, hc, hu]

theorem snapGroup_of_not_head {off : Nat} (h : off ∉ snapHeads) : snapGroup off = [] := by
  simp only [snapHeads, List.mem_cons, List.not_mem_nil, or_false, not_or] at h
  obtain ⟨h1, h2, h3, h4, h5⟩ := h
  simp [snapGroup, h1, h2, h3, h4, h5]

end Sys2Proof.Machine
end

section
/-!
PROOFS. The electrical test FIFO, its window, and the snapshots (00 R479; 08 R237).
-/

namespace Sys2Proof.Machine

/-! ## What reads of error words leave alone (11 R347) -/

@[simp] theorem State.setCause_cal (s : State) (f : Field) : (s.setCause f).cal = s.cal := by
  have h := State.setCause_frame s f
  generalize s.setCause f = t at h ⊢
  rw [h]

@[simp] theorem State.setCauseIf_cal (s : State) (c : Bool) (f : Field) : (s.setCauseIf c f).cal = s.cal := by
  cases c
  · rfl
  · exact State.setCause_cal s f

/-- A read of a word, with the error it may meet, leaves the calibration unit alone. -/
@[simp] theorem State.readWord_cal (s : State) (w : Nat) : (s.readWord w).cal = s.cal := by
  unfold State.readWord
  cases wordBank w with
  | none => rfl
  | some x =>
    dsimp only
    split
    · rw [State.setCause_cal, State.put_cal, State.put_cal, State.modBank_cal]
    · split
      · rw [State.setCause_cal, State.modBank_cal]
      · rfl

/-- A fold of operations that leave the calibration unit alone. -/
theorem foldl_cal {α : Type} (f : State → α → State) (h : ∀ s a, (f s a).cal = s.cal) (l : List α) (s : State) :
    (l.foldl f s).cal = s.cal := by
  induction l generalizing s with
  | nil => rfl
  | cons a l ih => rw [List.foldl_cons, ih, h]

@[simp] theorem State.readCells_cal (s : State) (ws : List Nat) : (s.readCells ws).cal = s.cal := by
  unfold State.readCells
  split
  · rfl
  · exact foldl_cal _ State.readWord_cal ws s

/-- A write of a word leaves the calibration unit alone. -/
@[simp] theorem State.cleanWord_cal (s : State) (w : Nat) : (s.cleanWord w).cal = s.cal := by
  unfold State.cleanWord
  split
  · cases wordBank w with
    | none => rfl
    | some x => rfl
  · rfl

@[simp] theorem State.cleanCells_cal (s : State) (ws : List Nat) : (s.cleanCells ws).cal = s.cal := by
  unfold State.cleanCells
  split
  · rfl
  · exact foldl_cal _ State.cleanWord_cal ws s

/-! ## The electrical test FIFO (08 R237) -/

/-- A record enters the FIFO at its end, or waits; none leaves it. -/
theorem State.etPush_fifo (s : State) (w : DWord) :
    (s.etPush w).cal.etPops = s.cal.etPops ∧ ∃ more, (s.etPush w).cal.etFifo = s.cal.etFifo ++ more := by
  unfold State.etPush
  split
  · exact ⟨rfl, [], (List.append_nil _).symm⟩
  · simp only [State.setCauseIf_cal, State.setCause_cal, State.cleanCells_cal]
    exact ⟨trivial, [w], rfl⟩

/-- The oldest record leaves the FIFO; a waiting one may take the room. -/
theorem State.etPop_fifo (s : State) {r : DWord} {l : List DWord} (h : s.cal.etFifo = r :: l) :
    s.etPop.1.cal.etPops = s.cal.etPops + 1 ∧ ∃ more, s.etPop.1.cal.etFifo = l ++ more := by
  simp only [State.etPop, h, State.etRefill]
  split
  · exact ⟨rfl, [], (List.append_nil l).symm⟩
  · exact State.etPush_fifo { s with cal := { s.cal with etFifo := l, etPops := s.cal.etPops + 1, etWait := [] } } _

/-! ## Reads in the window of the electrical test FIFO (08 R237) -/

theorem windowAt_et {off : Nat} (h1 : 0xB0800 ≤ off) (h2 : off < 0xB1000) : windowAt off = some false := by
  unfold windowAt
  rw [if_neg (by omega), if_pos ⟨h1, h2⟩]

/-- The lower half is read without a pop. -/
theorem State.windowRead_lower (s : State) (m : Master) {off : Nat} (h : off % 8 = 0) :
    (s.windowRead m false off).2 = BitVec.ofNat 32 (s.cal.etFifo.headD 0#64).toNat
      ∧ (s.windowRead m false off).1.cal.etFifo = s.cal.etFifo := by
  simp only [State.windowRead, h, if_true, Bool.false_eq_true, if_false, State.windowFifo, State.windowHeld,
    State.setWindowHeld, State.readCells_cal]
  cases s.cal.etFifo <;> exact ⟨rfl, trivial⟩

/-- The upper half that is held is answered; the record it belongs to is popped where it is still the oldest. -/
theorem State.windowRead_upper (s : State) (m : Master) {off : Nat} {x : HeldHalf} (h : off % 8 = 4)
    (hx : Cells.find? s.cal.etHeld (snapKey m off) = some x) :
    (s.windowRead m false off).2 = x.hi
      ∧ (x.serial ≠ some s.cal.etPops → (s.windowRead m false off).1.cal.etFifo = s.cal.etFifo)
      ∧ ∀ r l, x.serial = some s.cal.etPops → s.cal.etFifo = r :: l →
          (s.windowRead m false off).1.cal.etPops = s.cal.etPops + 1
            ∧ ∃ more, (s.windowRead m false off).1.cal.etFifo = l ++ more := by
  have h0 : ¬ off % 8 = 0 := by omega
  simp only [State.windowRead, h0, Bool.false_eq_true, if_false, State.windowFifo, State.windowHeld, hx,
    State.setWindowHeld, State.windowPop]
  refine ⟨trivial, fun hs => ?_, fun r l hs hl => ?_⟩
  · rw [if_neg hs]
  · rw [if_pos hs]
    exact State.etPop_fifo _ hl

/-- No upper half is held: the read answers 0 and changes nothing. -/
theorem State.windowRead_none (s : State) (m : Master) {off : Nat} (h : off % 8 = 4)
    (hx : Cells.find? s.cal.etHeld (snapKey m off) = none) : s.windowRead m false off = (s, 0) := by
  have h0 : ¬ off % 8 = 0 := by omega
  simp only [State.windowRead, h0, Bool.false_eq_true, if_false, State.windowHeld, hx]

/-! ## Snapshots (00 R479) -/

/-- The register at the head of each group is read as it is: no window, table, popping register, snapshot, counter of a
bank or log entry. -/
theorem snapHeads_plain : ∀ o ∈ snapHeads, windowAt o = none ∧ o ≠ A.INS_TBL_DATA
    ∧ (∀ p : Fin 4, o ≠ A.CAM_Pp_CCI_RES p) ∧ o ∉ snapMembers ∧ o ∉ bankCounters
    ∧ (o < A.SYS_VLOG 0 0 ∨ A.SYS_VLOG 64 0 ≤ o) ∧ ∀ x ∈ snapGroup o, x < 0x1000000 := by
  decide

/-- No register that a snapshot holds is a window's, a table's or a popping one. -/
theorem snapMembers_single : ∀ o ∈ snapMembers, windowAt o = none ∧ o ≠ A.INS_TBL_DATA
    ∧ ∀ p : Fin 4, o ≠ A.CAM_Pp_CCI_RES p := by
  decide

/-- A register that a snapshot holds answers what it holds. -/
theorem State.regRead_member (s : State) (m : Master) {off : Nat} (h : off ∈ snapMembers) :
    s.regRead m off = (s, s.snap m off) := by
  obtain ⟨hw, ht, hp⟩ := snapMembers_single off h
  have hp' := not_exists.2 hp ∘ (cciRes_iff off).1
  simp only [State.regRead, hw, if_neg ht, if_neg hp', List.contains_iff_mem, if_pos h]

/-- What a register shows does not depend on the snapshots. -/
theorem State.regView_snaps (s : State) (x : Cells Word) (m : Master) (o : Nat) :
    State.regView { s with snaps := x } m o = s.regView m o := rfl

/-- The place of a snapshot names its master and its register. -/
theorem snapKey_inj {m n : Master} {a b : Nat} (ha : a < 0x1000000) (hb : b < 0x1000000)
    (h : snapKey m a = snapKey n b) : m.key = n.key ∧ a = b := by
  unfold snapKey at h
  omega

/-- A copied group: each register of it is held with its value, every other place is as it was. -/
theorem State.takeSnap_spec (s : State) (m : Master) (group : List Nat) (hg : ∀ o ∈ group, o < 0x1000000) :
    s.takeSnap m group = { s with snaps := (s.takeSnap m group).snaps }
      ∧ (∀ o ∈ group, (s.takeSnap m group).snap m o = s.regView m o)
      ∧ ∀ n o, o < 0x1000000 → (n.key = m.key → o ∉ group) → (s.takeSnap m group).snap n o = s.snap n o := by
  induction group generalizing s with
  | nil => exact ⟨rfl, fun o ho => absurd ho List.not_mem_nil, fun _ _ _ _ => rfl⟩
  | cons a group ih =>
    let u : State := { s with snaps := Cells.set (fun _ => 0#32) s.snaps (snapKey m a) (s.regView m a) }
    have hu : s.takeSnap m (a :: group) = u.takeSnap m group := rfl
    have ha : a < 0x1000000 := hg a List.mem_cons_self
    obtain ⟨frame, held, others⟩ := ih u fun o ho => hg o (List.mem_cons_of_mem a ho)
    have set : ∀ n o, u.snap n o = if snapKey n o = snapKey m a then s.regView m a else s.snap n o := fun n o =>
      Cells.get_set _ _ _ _ _
    rw [hu]
    refine ⟨frame, fun o ho => ?_, fun n o ho hn => ?_⟩
    · by_cases hr : o ∈ group
      · exact (held o hr).trans (State.regView_snaps s _ m o)
      · obtain rfl := (List.mem_cons.1 ho).resolve_right hr
        rw [others m o ha fun _ => hr, set, if_pos rfl]
    · have apart : snapKey n o ≠ snapKey m a := fun e =>
        let ⟨hk, hoa⟩ := snapKey_inj ho ha e
        hn hk (List.mem_cons.2 (.inl hoa))
      rw [others n o ho fun hk hm => hn hk (List.mem_cons_of_mem a hm), set, if_neg apart]

end Sys2Proof.Machine
end

section
/-!
PROOFS. Software events: the router's pending bits and the slots of the pairs (10 R287, R319; 12 R366, R367).
-/

namespace Sys2Proof.Machine

/-! ## Events raised in turn (12 R366, R367; 10 R319) -/

/-- What a fold of single bits sets. -/
theorem getLsbD_foldl_or (P : Nat → Bool) (l : List Nat) (w : Word) {i : Nat} (hi : i < 32) :
    (l.foldl (fun (w : Word) k => if P k then w ||| BitVec.ofNat 32 (2 ^ k) else w) w).getLsbD i
      = (w.getLsbD i || l.any fun k => P k && k == i) := by
  induction l generalizing w with
  | nil => simp
  | cons k l ih =>
    rw [List.foldl_cons, ih, List.any_cons]
    cases hk : P k
    · simp
    · have hb : (BitVec.ofNat 32 (2 ^ k)).getLsbD i = (k == i) := by
        rw [BitVec.getLsbD_ofNat, Nat.testBit_two_pow, decide_eq_true hi, Bool.true_and, beq_eq_decide]
      rw [if_pos rfl, BitVec.getLsbD_or, hb, Bool.true_and, Bool.or_assoc]

/-- The pending slots of a pair after a raise: those before it and those that take the event (R287). -/
theorem Pair.pending_raiseSlots (p : Pair) (e : Nat) {i : Nat} (hi : i < 32) :
    ((p.raiseSlots e).ccr 0x012).getLsbD i = ((p.ccr 0x012).getLsbD i || p.slotTakes e i) := by
  unfold Pair.raiseSlots
  rw [Pair.ccr_setCcr, if_pos rfl, getLsbD_foldl_or _ _ _ hi]
  congr 1
  rw [Bool.eq_iff_iff, List.any_eq_true]
  constructor
  · rintro ⟨k, -, hk⟩
    obtain ⟨ht, he⟩ := Bool.and_eq_true _ _ ▸ hk
    rwa [beq_iff_eq.1 he] at ht
  · exact fun ht => ⟨i, List.mem_range.2 hi, by simp [ht]⟩

/-- A message request changes no register below the PBA, and no pair. -/
theorem State.requestMsix_below (s : State) (v : Nat) :
    (s.requestMsix v).pairs = s.pairs ∧ ∀ a, a < 0x49000 → (s.requestMsix v).reg a = s.reg a := by
  unfold State.requestMsix
  split
  · exact ⟨rfl, fun _ _ => rfl⟩
  · refine ⟨rfl, fun a ha => ?_⟩
    rw [State.reg_put, if_neg]
    simp only [pbaField, A.EVT_PBA]
    omega

/-- A raise does to the pairs what it does to their slots. -/
theorem State.raiseEvent_pairs (s : State) (e : Nat) : (s.raiseEvent e).pairs = (s.raiseSlots e).pairs := by
  unfold State.raiseEvent
  extract_lets u v
  split
  · rfl
  · split
    · exact (State.requestMsix_below v _).1
    · rfl

/-- A pair after a raise of an event. -/
theorem State.pair_raiseEvent (s : State) (e : Nat) (j : Fin 4) : (s.raiseEvent e).pair j
    = if (s.g (F.EVT_MAPe_PAIRS e)).testBit j then (s.pair j).raiseSlots e else s.pair j := by
  unfold State.pair
  rw [State.raiseEvent_pairs]
  simp [State.raiseSlots]

/-- Two pending bits of the router lie apart. -/
theorem pendField_apart {e d : Nat} (h : d ≠ e) : (pendField d).off ≠ (pendField e).off
    ∨ (pendField d).lo + 1 ≤ (pendField e).lo ∨ (pendField e).lo + 1 ≤ (pendField d).lo := by
  simp only [pendField, A.EVT_PENDw]
  omega

/-- The pending bits of the router after a raise of an event. -/
theorem State.bit_raiseEvent (s : State) {e d : Nat} (hd : d < 256) :
    (s.raiseEvent e).bit (pendField d) = (decide (d = e) || s.bit (pendField d)) := by
  have hlo : (pendField e).lo + 1 ≤ 32 := Nat.mod_lt e (by decide)
  have hreg : (pendField d).off < 0x49000 := by
    simp only [pendField, A.EVT_PENDw]
    omega
  have put : ((s.raiseSlots e).put (pendField e) 1).bit (pendField d) = (decide (d = e) || s.bit (pendField d)) := by
    by_cases h : d = e
    · subst h
      simpa using State.bit_put_one (s.raiseSlots d) (pendField d) hlo rfl
    · have hg : ((s.raiseSlots e).put (pendField e) 1).g (pendField d) = s.g (pendField d) :=
        (pendField_apart h).elim (State.g_put_other (s.raiseSlots e) _ _ 1) (State.g_put_apart (s.raiseSlots e) _ _ 1 hlo)
      simp [State.bit, hg, h]
  unfold State.raiseEvent
  extract_lets u v
  split
  · rename_i hset
    have hset : s.bit (pendField e) = true := hset
    show s.bit (pendField d) = _
    by_cases h : d = e
    · simp [h, hset]
    · simp [h]
  · split
    · rw [← put]
      simp only [State.bit, State.g, (State.requestMsix_below v _).2 _ hreg]
      rfl
    · exact put

/-- The entries of the event map are none of the router's registers that a raise changes. -/
theorem not_routerReg_EVT_MAPe {e : Nat} (he : e < 256) : ¬ routerReg (A.EVT_MAPe e) := by
  simp only [routerReg, A.EVT_MAPe]
  omega

/-- What a slot takes is not changed by raising events. -/
theorem SameButEvents.slotTakes {s t : State} (h : SameButEvents s t) (j : Fin 4) (e i : Nat) (hi : i < 32) :
    (t.pair j).slotTakes e i = (s.pair j).slotTakes e i := by
  unfold Pair.slotTakes
  rw [h.slots j (0x040 + i) (by omega)]

/-- The software events of a list of bit numbers, raised in their order. -/
def State.raiseBits (mask : Nat) (l : List Nat) (s : State) : State :=
  l.foldl (fun s k => if mask.testBit k then s.raiseEvent (0xF4 + k) else s) s

theorem State.swEvents_eq (s : State) (mask : Nat) : s.swEvents mask = s.raiseBits mask (List.range 4) := rfl

/-- Raising software events changes what events change. -/
theorem State.raiseBits_same (mask : Nat) (l : List Nat) (hl : ∀ k ∈ l, k < 4) (s : State) :
    SameButEvents s (s.raiseBits mask l) := by
  induction l generalizing s with
  | nil => exact SameButEvents.refl s
  | cons k l ih =>
    have hk := hl k List.mem_cons_self
    have rest := ih fun x hx => hl x (List.mem_cons_of_mem k hx)
    unfold State.raiseBits at rest ⊢
    rw [List.foldl_cons]
    split
    · exact (State.raiseEvent_same s _ (by omega)).trans (rest _)
    · exact rest s

/-- The pending bits of the software events after they are raised. -/
theorem State.bit_raiseBits (mask : Nat) (l : List Nat) (s : State) {d : Nat} (hd : d < 4) :
    (s.raiseBits mask l).bit (pendField (0xF4 + d))
      = (l.contains d && mask.testBit d || s.bit (pendField (0xF4 + d))) := by
  induction l generalizing s with
  | nil => rfl
  | cons k l ih =>
    unfold State.raiseBits at ih ⊢
    rw [List.foldl_cons, ih]
    by_cases hm : mask.testBit k = true
    · rw [if_pos hm, State.bit_raiseEvent s (by omega)]
      by_cases h : d = k
      · simp [h, hm]
      · simp [h]
    · rw [if_neg hm]
      by_cases h : d = k
      · simp [h, hm]
      · simp [h]

/-- A pending slot stays pending while events are raised. -/
theorem State.pending_raiseEvent (s : State) (e : Nat) (j : Fin 4) {i : Nat} (hi : i < 32)
    (h : ((s.pair j).ccr 0x012).getLsbD i = true) : (((s.raiseEvent e).pair j).ccr 0x012).getLsbD i = true := by
  rw [State.pair_raiseEvent]
  split
  · rw [Pair.pending_raiseSlots _ _ hi, h, Bool.true_or]
  · exact h

theorem State.pending_raiseBits (mask : Nat) (l : List Nat) (s : State) (j : Fin 4) {i : Nat} (hi : i < 32)
    (h : ((s.pair j).ccr 0x012).getLsbD i = true) : (((s.raiseBits mask l).pair j).ccr 0x012).getLsbD i = true := by
  induction l generalizing s with
  | nil => exact h
  | cons k l ih =>
    unfold State.raiseBits at ih ⊢
    rw [List.foldl_cons]
    split
    · exact ih _ (State.pending_raiseEvent s _ j hi h)
    · exact ih s h

/-- A software event sets the pending bit of each slot that takes it, in the pairs that the router maps it to. -/
theorem State.slot_raiseBits (mask : Nat) (l : List Nat) (hl : ∀ k ∈ l, k < 4) (s : State) {k i : Nat} (j : Fin 4)
    (hk : k ∈ l) (hi : i < 32) (hm : mask.testBit k = true)
    (hp : (s.g (F.EVT_MAPe_PAIRS (0xF4 + k))).testBit j = true)
    (ht : (s.pair j).slotTakes (0xF4 + k) i = true) :
    (((s.raiseBits mask l).pair j).ccr 0x012).getLsbD i = true := by
  induction l generalizing s with
  | nil => exact absurd hk List.not_mem_nil
  | cons a l ih =>
    have hl' := fun x hx => hl x (List.mem_cons_of_mem a hx)
    have step : s.raiseBits mask (a :: l) = State.raiseBits mask l
        (if mask.testBit a then s.raiseEvent (0xF4 + a) else s) := rfl
    rw [step]
    by_cases ha : k = a
    · subst ha
      rw [if_pos hm]
      refine State.pending_raiseBits mask l _ j hi ?_
      rw [State.pair_raiseEvent, if_pos hp, Pair.pending_raiseSlots _ _ hi, ht, Bool.or_true]
    · have hka : k ∈ l := (List.mem_cons.1 hk).resolve_left ha
      split
      · have same := State.raiseEvent_same s (0xF4 + a) (by have := hl a List.mem_cons_self; omega)
        refine ih hl' _ hka ?_ ?_
        · have := hl k hk
          unfold State.g at hp ⊢
          rwa [show (F.EVT_MAPe_PAIRS (0xF4 + k)).off = A.EVT_MAPe (0xF4 + k) from rfl,
            same.regs _ (not_routerReg_EVT_MAPe (by omega))]
        · rwa [same.slotTakes j _ i hi]
      · exact ih hl' s hka hp ht

end Sys2Proof.Machine
end

section
/-!
PROOFS. Register reads of each kind, as commands (00 R5, R479; 07 R205, R214; 11 R355, Table 11.12).
-/

namespace Sys2Proof.Machine

/-! ## Reads of each kind (00 R4, R5, R479; 07 R205, R214; 11 Table 11.12) -/

section reads
variable (s : State) (m : Master) (reg : Fin 0x400000)

/-- A read of a register that heads no snapshot: its value, its RC fields cleared. -/
theorem exec_rcRead_plain (hs : s.takes (4 * reg.val)) (hp : plainRead (4 * reg.val))
    (hh : 4 * reg.val ∉ snapHeads) : exec (.rcRead m reg) s
      = .next (((s.readCells (logCells (4 * reg.val))).clearRead (4 * reg.val)).answerWord
          (s.regView m (4 * reg.val))) := by
  rw [exec_rcRead_reached s m reg hs, State.regRead_plain s m hp, snapGroup_of_not_head hh]
  rfl

/-- Where no log word is read, such a read changes the RC fields of its register alone. -/
theorem rcRead_clears (hs : s.takes (4 * reg.val)) (hp : plainRead (4 * reg.val)) (hh : 4 * reg.val ∉ snapHeads)
    (hb : 4 * reg.val ∉ bankCounters)
    (hlog : 4 * reg.val < A.SYS_VLOG 0 0 ∨ A.SYS_VLOG 64 0 ≤ 4 * reg.val ∨ (s.ceBad = [] ∧ s.ueBad = [])) :
    Completes (.rcRead m reg) s fun t =>
      t = { s with regs := t.regs, resp := ⟨leBytes 4 (s.regView m (4 * reg.val)).toNat, false, 0⟩ }
        ∧ (∀ a, a ≠ 4 * reg.val → t.reg a = s.reg a)
        ∧ ∀ k, kindAt (4 * reg.val) = some k → ∀ f ∈ k.fields, f.acc = .rc → t.g ⟨4 * reg.val, f.lo, f.w⟩ = 0 := by
  refine ⟨_, exec_rcRead_plain s m reg hs hp hh, ?_⟩
  rw [State.readCells_log s hlog]
  obtain ⟨⟨frame, others⟩, cleared⟩ := State.clearRead_spec s hb
  refine ⟨?_, fun a ha => others a (by simpa using ha), cleared⟩
  exact congrArg (State.answerWord · (s.regView m (4 * reg.val))) frame

theorem State.bank_modBank_other (s : State) {b q : Fin 116} (f : BankS → BankS) (h : q ≠ b) :
    (s.modBank b f).bank q = s.bank q := by
  simp only [State.modBank, State.bank, Fin.getElem_fin]
  exact Vector.getElem_set_ne _ _ fun e => h (Fin.ext e.symm)

/-- A read of a bank's counter of corrected errors, in the window of MEM_BANK_SEL. -/
theorem rcRead_bankCe (hs : s.takes (4 * reg.val)) (hsel : s.g F.MEM_BANK_SEL_V ≤ 115)
    (hoff : 4 * reg.val = A.MEM_BANK_CE) :
    let b := bankIx (s.g F.MEM_BANK_SEL_V)
    Completes (.rcRead m reg) s fun t =>
      t = { s with banks := t.banks, resp := ⟨leBytes 4 (BitVec.ofNat 32 (s.bank b).ce).toNat, false, 0⟩ }
        ∧ t.bank b = { s.bank b with ce := 0 } ∧ ∀ q, q ≠ b → t.bank q = s.bank q := by
  intro b
  have hp : plainRead (4 * reg.val) := by rw [hoff]; unfold plainRead; decide
  have view : s.regView m A.MEM_BANK_CE = BitVec.ofNat 32 (s.bank b).ce := by
    show s.viewMem A.MEM_BANK_CE = _
    unfold State.viewMem
    rw [if_pos (by decide), if_neg (by omega), if_neg (by decide), if_pos rfl]
  have clear : s.clearRead A.MEM_BANK_CE = s.modBank b fun x => { x with ce := 0 } := by
    unfold State.clearRead
    rw [if_pos rfl, if_pos (decide_eq_true hsel)]
  refine ⟨_, exec_rcRead_plain s m reg hs hp (by rw [hoff]; decide), ?_⟩
  rw [hoff, State.readCells_log s (.inr (.inl (by decide))), view, clear]
  exact ⟨rfl, State.bank_modBank_same s b fun x => { x with ce := 0 }, 
    fun q hq => State.bank_modBank_other s (fun x => { x with ce := 0 }) hq⟩

/-- A read of the table window is an access of the table at its index. -/
theorem exec_rcRead_tblData (hs : s.takes (4 * reg.val)) (hoff : 4 * reg.val = A.INS_TBL_DATA) :
    exec (.rcRead m reg) s = exec (.insTblData none) s := by
  have hup : s.up .cam = true := by
    have h := hs.2
    rwa [hoff] at h
  have hr : s.regRead m A.INS_TBL_DATA = s.tblAccess none := by
    unfold State.regRead
    rw [show windowAt A.INS_TBL_DATA = none by decide]
    exact if_pos rfl
  rw [exec_rcRead_reached s m reg hs, hoff, hr]
  show _ = execInsTblData none s
  simp [execInsTblData, hs.1, hup, State.answerWord]

/-- A read of CCI_RES pops a result. -/
theorem exec_rcRead_cciRes (hs : s.takes (4 * reg.val)) (p : Fin 4) (hoff : 4 * reg.val = A.CAM_Pp_CCI_RES p) :
    exec (.rcRead m reg) s = exec (.cciResultPop p) s := by
  have hd : ∀ p : Fin 4, windowAt (A.CAM_Pp_CCI_RES p) = none ∧ A.CAM_Pp_CCI_RES p ≠ A.INS_TBL_DATA
      ∧ blockDomain (A.CAM_Pp_CCI_RES p) = some .cam
      ∧ Fin.ofNat 4 ((A.CAM_Pp_CCI_RES p - 0xC0000) / 0x1000) = p := by decide
  obtain ⟨hw, ht, hc, hn⟩ := hd p
  have hup : s.up .cam = true := by
    have h := hs.2
    rw [hoff] at h
    unfold State.blockUp at h
    rwa [hc] at h
  have hr : s.regRead m (A.CAM_Pp_CCI_RES p) = s.cciPop p := by
    unfold State.regRead
    rw [hw, if_neg ht, if_pos ((cciRes_iff _).2 ⟨p, rfl⟩), hn]
  rw [exec_rcRead_reached s m reg hs, hoff, hr]
  show _ = execCciResultPop p s
  simp [execCciResultPop, hs.1, hup, State.answerWord]

/-- A read in the window of the electrical test FIFO. -/
theorem exec_rcRead_et (hs : s.takes (4 * reg.val)) (h1 : 0xB0800 ≤ 4 * reg.val) (h2 : 4 * reg.val < 0xB1000) :
    exec (.rcRead m reg) s = .next ((s.windowRead m false (4 * reg.val)).1.answerWord
      (s.windowRead m false (4 * reg.val)).2) := by
  rw [exec_rcRead_reached s m reg hs, State.regRead, windowAt_et h1 h2]

/-- A read of a block that is off reads 0 and is counted. -/
theorem rcRead_missed (hrun : s.seqRun = false) (hup : s.blockUp (4 * reg.val) = false) :
    Completes (.rcRead m reg) s fun t => t.resp = ⟨List.replicate 4 0#8, false, 0⟩ ∧ t.snaps = s.snaps
      ∧ s.counted t F.MEM_UNPWR_V ∧ t.g F.MEM_UNPWR_ADDR_V = 4 * reg.val := by
  have exec_eq := exec_rcRead_missed s m reg hrun hup
  have spec := State.unpowered_spec s (a := 4 * reg.val) (by have := reg.isLt; omega)
  obtain ⟨t, ht⟩ : ∃ t, t = s.unpowered (4 * reg.val) := ⟨_, rfl⟩
  rw [← ht] at exec_eq spec
  obtain ⟨⟨frame, -, -⟩, count, addr⟩ := spec
  have snaps : t.snaps = s.snaps := by rw [frame]
  exact ⟨_, exec_eq, rfl, snaps, count, addr⟩

/-- A read of a snapshot register: its value, its group copied for the master. -/
theorem rcRead_head (hs : s.takes (4 * reg.val)) (hh : 4 * reg.val ∈ snapHeads) :
    Completes (.rcRead m reg) s fun t =>
      t = { s with regs := t.regs, snaps := t.snaps
                   resp := ⟨leBytes 4 (s.regView m (4 * reg.val)).toNat, false, 0⟩ }
        ∧ (∀ a, a ≠ 4 * reg.val → t.reg a = s.reg a)
        ∧ (∀ o ∈ snapGroup (4 * reg.val), t.snap m o = s.regView m o)
        ∧ (∀ o, o < 0x1000000 → o ∉ snapGroup (4 * reg.val) → t.snap m o = s.snap m o)
        ∧ ∀ n o, o < 0x1000000 → n.key ≠ m.key → t.snap n o = s.snap n o := by
  obtain ⟨hw, ht, hp, hm, hb, hlog, hg⟩ := snapHeads_plain _ hh
  obtain ⟨frame, held, others⟩ := State.takeSnap_spec s m (snapGroup (4 * reg.val)) hg
  have hr := State.regRead_plain s m ⟨hw, ht, hp, hm⟩
  rw [State.readCells_log s (hlog.imp_right Or.inl)] at hr
  refine ⟨_, by rw [exec_rcRead_reached s m reg hs, hr], ?_⟩
  dsimp only
  generalize s.takeSnap m (snapGroup (4 * reg.val)) = u at frame held others ⊢
  obtain ⟨⟨frame', regs⟩, -⟩ := State.clearRead_spec u hb
  generalize u.clearRead (4 * reg.val) = t at frame' regs ⊢
  have snaps : t.snaps = u.snaps := by rw [frame']
  have snap : ∀ n o, (t.answerWord (s.regView m (4 * reg.val))).snap n o = u.snap n o := fun n o => by
    show Cells.get _ t.snaps _ = _
    rw [snaps]
    rfl
  refine ⟨?_, fun a ha => ?_, fun o ho => (snap m o).trans (held o ho),
    fun o ho hn => (snap m o).trans (others m o ho fun _ => hn),
    fun n o ho hn => (snap n o).trans (others n o ho fun e => absurd e hn)⟩
  · have whole : t = { s with regs := t.regs, snaps := t.snaps } := by
      rw [snaps]
      exact frame'.trans (by rw [frame])
    exact congrArg (State.answerWord · (s.regView m (4 * reg.val))) whole
  · refine (regs a (by simpa using ha)).trans ?_
    unfold State.reg
    rw [frame]

end reads

end Sys2Proof.Machine
end

section
/-!
PROOFS. Register writes of each kind, as commands (00 R4, R9; 02 R64; 10 R319; 12 R368).
-/

namespace Sys2Proof.Machine

/-! ## Writes of each kind (00 R4, R9; 02 R64; 10 R319; 12 R368) -/

/-- The row that clears pending bits, where it reaches them. -/
theorem exec_evtPendClear_takes (s : State) (q : Fin 8) (mask : Word) (hs : s.takes (A.EVT_PENDw q)) :
    exec (.evtPendClear q mask) s = .next (s.setReg (A.EVT_PENDw q) (s.reg (A.EVT_PENDw q) &&& ~~~mask)) := by
  show execEvtPendClear q mask s = _
  rw [execEvtPendClear, State.atBlock_takes s hs]

/-- The row that raises software events, where it reaches SEQ_SWEV. -/
theorem exec_seqSwev_takes (s : State) (mask : BitVec 4) (hs : s.takes A.SEQ_SWEV) :
    exec (.seqSwev mask) s = .next (s.swEvents mask.toNat) := by
  show execSeqSwev mask s = _
  rw [execSeqSwev, State.atBlock_takes s hs]

section writes
variable (s : State) (m : Master) (reg : Fin 0x400000) (w : Word)

/-- The blocks in which a write acts by the access codes alone, and the space above the blocks. -/
theorem State.regWrite_plain {off : Nat} (h : off / 0x10000 = 4 ∨ (off / 0x10000 = 3 ∧ off ≠ A.OTP_CMD)
    ∨ (off / 0x10000 = 6 ∧ off ≠ A.DPT_CTL) ∨ 0x300000 ≤ off) : s.regWrite m off w = s.plain off w := by
  unfold State.regWrite
  rcases h with h | ⟨h, hc⟩ | ⟨h, hc⟩ | h
  · rw [h]
    rfl
  · rw [h]
    exact if_neg hc
  · rw [h]
    show s.plain off (if off = A.DPT_CTL then _ else w) = _
    rw [if_neg hc]
  · split
    case h_15 => exact if_neg (by omega)
    all_goals omega

/-- A write of such a register. -/
theorem exec_registerWrite_plain {v : Word} (hs : s.takes (4 * reg.val)) (hstep : ∀ j, (s.pair j).stepReq = false)
    (h : s.regWrite m (4 * reg.val) w = s.plain (4 * reg.val) v) :
    exec (.registerWrite m reg w) s = .next (s.plain (4 * reg.val) v) := by
  rw [exec_registerWrite_reached s m reg w hs, h, State.runSteps_plain s _ v hstep]

/-- No register stands above the blocks, and no block there is off. -/
theorem kindAt_above {off : Nat} (h : 0x300000 ≤ off) : kindAt off = none ∧ s.blockUp off = true := by
  constructor
  · have hk : kindsAt off = [] := by
      unfold kindsAt
      split
      case h_17 => exact if_neg (by omega)
      all_goals omega
    simp [kindAt, hk]
  · have hb : blockDomain off = none := by
      unfold blockDomain
      simp only [show ¬ off / 0x1000 = 0x8 by omega, show ¬ off / 0x10000 < 0x4 by omega,
        show ¬ off / 0x10000 < 0x8 by omega, show ¬ off / 0x10000 < 0xA by omega, show ¬ off / 0x10000 < 0xC by omega,
        show ¬ off / 0x10000 = 0xC by omega, show ¬ off / 0x10000 < 0x10 by omega,
        show ¬ off / 0x10000 < 0x30 by omega, if_false]
    simp [State.blockUp, hb]

/-- A write of a block that is off is lost and counted. -/
theorem registerWrite_missed (hrun : s.seqRun = false) (hstep : ∀ j, (s.pair j).stepReq = false)
    (hup : s.blockUp (4 * reg.val) = false) :
    Completes (.registerWrite m reg w) s fun t =>
      s.onlyRegsAndEvents t [A.MEM_UNPWR, A.MEM_UNPWR_ADDR, A.MEM_CAUSE] ∧ s.counted t F.MEM_UNPWR_V := by
  have exec_eq := exec_registerWrite_missed s m reg w hrun hup
  have spec := State.unpowered_spec s (a := 4 * reg.val) (by have := reg.isLt; omega)
  obtain ⟨t, ht⟩ : ∃ t, t = s.unpowered (4 * reg.val) := ⟨_, rfl⟩
  rw [← ht] at exec_eq spec
  obtain ⟨⟨frame, regs, pairs⟩, count, -⟩ := spec
  have steady : t.runSteps = t := State.runSteps_of_none t fun j => by rw [pairs j]; exact hstep j
  refine ⟨t, by rw [exec_eq, steady], ⟨frame, fun a ha => regs a ?_, pairs⟩, count⟩
  simp only [List.mem_cons, List.not_mem_nil, or_false, not_or] at ha ⊢
  exact ⟨ha.2.2, ha.2.1, ha.1⟩

/-- A write of a register of pending bits clears those written as 1. -/
theorem exec_registerWrite_pending (hs : s.takes (4 * reg.val)) (hstep : ∀ j, (s.pair j).stepReq = false)
    (q : Fin 8) (hoff : 4 * reg.val = A.EVT_PENDw q) :
    exec (.registerWrite m reg w) s = exec (.evtPendClear q w) s := by
  have table : ∀ q : Fin 8, A.EVT_PENDw q / 0x10000 = 4
      ∧ kindAt (A.EVT_PENDw q) = some ⟨A.EVT_PENDw 0, [(8, 0x4)], [⟨0, 32, .w1c, 0x0⟩]⟩ := by decide
  obtain ⟨hb, hk⟩ := table q
  have whole : ∀ v : Word, Word.insert (s.reg (A.EVT_PENDw q)) 0 32 (Word.field v 0 32) = v := fun v => by
    apply BitVec.eq_of_toNat_eq
    rw [Word.insert_toNat _ _ _ _ (by decide)]
    have := v.isLt
    have := (s.reg (A.EVT_PENDw q)).isLt
    simp only [Word.field]
    omega
  have plain : s.plain (A.EVT_PENDw q) w = s.setReg (A.EVT_PENDw q) (s.reg (A.EVT_PENDw q) &&& ~~~w) := by
    simp only [State.plain, hk, writeFields, List.foldl_cons, List.foldl_nil, whole]
  have hr := State.regWrite_plain s m w (off := A.EVT_PENDw q) (.inl hb)
  rw [exec_registerWrite_plain s m reg w hs hstep (by rw [hoff]; exact hr), hoff, plain]
  exact (exec_evtPendClear_takes s q w (hoff ▸ hs)).symm

/-- A write of SEQ_SWEV raises the events of its four bits. -/
theorem exec_registerWrite_swev (hs : s.takes (4 * reg.val)) (hstep : ∀ j, (s.pair j).stepReq = false)
    (hoff : 4 * reg.val = A.SEQ_SWEV) :
    exec (.registerWrite m reg w) s = exec (.seqSwev (w.setWidth 4)) s := by
  have hw : s.regWrite m A.SEQ_SWEV w = s.swEvents (F.SEQ_SWEV_V.of w) := by
    show s.writeSeq m A.SEQ_SWEV w = _
    unfold State.writeSeq
    rw [if_neg (by decide), if_neg (by decide), if_neg (by decide), if_pos rfl]
  have mask : F.SEQ_SWEV_V.of w = (w.setWidth 4).toNat := by
    simp [Field.of, F.SEQ_SWEV_V, Word.field]
  have same : SameButEvents s (s.swEvents (w.setWidth 4).toNat) :=
    State.raiseBits_same _ _ (fun k hk => List.mem_range.1 hk) s
  have steady := State.runSteps_of_none (s.swEvents (w.setWidth 4).toNat) fun j => (same.stepReq j).trans (hstep j)
  rw [exec_registerWrite_reached s m reg w hs, hoff, hw, mask, steady]
  exact (exec_seqSwev_takes s _ (hoff ▸ hs)).symm

/-- No shadow register of a bar stands at FPE_PQ_PUSH. -/
theorem barShadowAt_push (n : Nat) : barShadowAt n (A.FPE_PQ_PUSH n) = none := by
  refine List.find?_eq_none.2 fun r _ => ?_
  cases r <;>
    simp only [barShadowOff, A.FPE_PQ_PUSH, A.FPE_OFFSET_LO, A.FPE_OFFSET_HI, A.FPE_WIN_START, A.FPE_WIN_END,
      A.FPE_SEGMASK, A.FPE_ROWOFS, A.FPE_WARMCNT, A.NST_STITCH, A.FPE_GT, beq_iff_eq] <;>
    omega

/-- A write in the block of a bar is the bar's. -/
theorem State.regWrite_bar (n : Fin 32) {off : Nat} (h : off / 0x10000 = 0x10 + n.val) :
    s.regWrite m off w = s.writeBar m n off w := by
  have hlt := n.isLt
  have hn : Fin.ofNat 32 (off / 0x10000 - 0x10) = n := Fin.ext (by simp only [Fin.val_ofNat]; omega)
  unfold State.regWrite
  split
  case h_15 => rw [if_pos ⟨by omega, by omega⟩, hn]
  all_goals omega

/-- A write of FPE_PQ_PUSH is the push of the bar. -/
theorem State.regWrite_push (n : Fin 32) : s.regWrite m (A.FPE_PQ_PUSH n) w = s.pagePush n := by
  have ha : A.FPE_PQ_PUSH n = 0x100040 + n.val * 0x10000 := rfl
  have hr : A.FPE_PQ_PUSH n % 0x10000 = 0x40 := by omega
  have hu : updHalf (A.FPE_PQ_PUSH n) = none := by
    unfold updHalf
    rw [hr]
    rfl
  have hctl : A.FPE_PQ_PUSH n ≠ A.FPE_CTL n := by simp only [ha, A.FPE_CTL]; omega
  have hstatus : A.FPE_PQ_PUSH n ≠ A.FPE_STATUS n := by simp only [ha, A.FPE_STATUS]; omega
  have hw7 : A.FPE_PQ_W7 n < A.FPE_PQ_PUSH n := by simp only [ha, A.FPE_PQ_W7]; omega
  rw [State.regWrite_bar s m w n (by omega)]
  unfold State.writeBar
  rw [barShadowAt_push, hu]
  show s.writeBarReg n (A.FPE_PQ_PUSH n) w = _
  unfold State.writeBarReg
  rw [if_neg hctl, if_neg hstatus, if_neg (by omega), if_pos rfl]

/-- The registers of a bar answer with the domain of its port. -/
theorem State.blockUp_bar (n : Fin 32) {off : Nat} (h : off / 0x10000 = 0x10 + n.val) :
    s.blockUp off = s.up (barDomain n) := by
  have hn := n.isLt
  have hb : blockDomain off = some (barDomain n) := by
    unfold blockDomain
    simp only [show ¬ off / 0x1000 = 0x8 by omega, show ¬ off / 0x10000 < 0x4 by omega,
      show ¬ off / 0x10000 < 0x8 by omega, show ¬ off / 0x10000 < 0xA by omega, show ¬ off / 0x10000 < 0xC by omega,
      show ¬ off / 0x10000 = 0xC by omega, show ¬ off / 0x10000 < 0x10 by omega,
      show off / 0x10000 < 0x30 by omega, if_false, if_true, show off / 0x10000 - 0x10 = n.val by omega, barDomain]
  simp [State.blockUp, hb]

/-- Setting a cause bit requests no single step. -/
theorem State.setCause_stepReq (f : Field) (j : Fin 4) : ((s.setCause f).pair j).stepReq = (s.pair j).stepReq := by
  rw [State.setCause_pair]

/-- A push requests no single step. -/
theorem State.pagePush_stepReq (n : Fin 32) (j : Fin 4) : ((s.pagePush n).pair j).stepReq = (s.pair j).stepReq := by
  have refused : ∀ f v c, (((s.put f v).setCause c).pair j).stepReq = (s.pair j).stepReq := fun f v c => by
    rw [State.setCause_stepReq, State.pair, State.put_pairs, State.pair]
  have queued : ∀ f v g, (((s.put f v).modBar n g).pair j).stepReq = (s.pair j).stepReq := fun f v g => by
    rw [State.pair, State.modBar_pairs, State.put_pairs, State.pair]
  unfold State.pagePush
  extract_lets st u d
  split
  · exact refused (F.FPE_STATUS_PQ_ERR n) (s.pushStatus n) (F.FPE_FCAUSE_CFG_REFUSED n)
  · exact queued (F.FPE_STATUS_PQ_ERR n) (s.pushStatus n) _

/-- A write of FPE_PQ_PUSH acts as the row of the push. -/
theorem exec_registerWrite_push (hs : s.takes (4 * reg.val)) (hstep : ∀ j, (s.pair j).stepReq = false)
    (n : Fin 32) (hoff : 4 * reg.val = A.FPE_PQ_PUSH n) :
    exec (.registerWrite m reg w) s = exec (.pagePush n) s := by
  have hup : s.blockUp (A.FPE_CTL n) = true := by
    have h := hs.2
    rw [hoff, s.blockUp_bar n (by simp only [A.FPE_PQ_PUSH]; omega)] at h
    rw [s.blockUp_bar n (by simp only [A.FPE_CTL]; omega), h]
  have steady := State.runSteps_of_none (s.pagePush n) fun j => (s.pagePush_stepReq n j).trans (hstep j)
  rw [exec_registerWrite_reached s m reg w hs, hoff, State.regWrite_push, steady]
  show _ = execPagePush n s
  rw [execPagePush, State.atBlock_takes s ⟨hs.1, hup⟩]

/-- A write of an entry of the event map. -/
theorem registerWrite_eventMap (hs : s.takes (4 * reg.val)) (hstep : ∀ j, (s.pair j).stepReq = false)
    {e : Nat} (he : e < 256) (hoff : 4 * reg.val = A.EVT_MAPe e) :
    Completes (.registerWrite m reg w) s fun t =>
      s.onlyRegs t [4 * reg.val] ∧ t.g (F.EVT_MAPe_VECTOR e) = w.toNat % 64
        ∧ t.bit (F.EVT_MAPe_MSI e) = w.getLsbD 6 ∧ t.g (F.EVT_MAPe_PAIRS e) = w.toNat / 256 % 16 := by
  have hb : 4 * reg.val / 0x10000 = 4 := by rw [hoff]; simp only [A.EVT_MAPe]; omega
  have hk : kindAt (4 * reg.val) = some eventMapKind := by rw [hoff]; exact kindAt_EVT_MAPe he
  refine ⟨_, exec_registerWrite_plain s m reg w hs hstep (State.regWrite_plain s m w (.inl hb)),
    State.plain_onlyRegs s _ w, ?_⟩
  have field : ∀ f ∈ eventMapKind.fields, f.acc = .rw →
      (s.plain (4 * reg.val) w).g ⟨A.EVT_MAPe e, f.lo, f.w⟩ = Word.field w f.lo f.w := fun f hf ha => by
    rw [← hoff, State.g_plain s w hk hf, ha]
  refine ⟨(field ⟨0, 6, .rw, 0⟩ (by decide) rfl).trans ?_, ?_, field ⟨8, 4, .rw, 0⟩ (by decide) rfl⟩
  · simp [Word.field]
  · have h := field ⟨6, 1, .rw, 0⟩ (by decide) rfl
    simp only [State.bit, F.EVT_MAPe_MSI, h, Word.field, BitVec.getLsbD, Nat.testBit_eq_decide_div_mod_eq]
    rfl

/-- A write of THM_FLOOR keeps its value within its limits. -/
theorem registerWrite_floor (hs : s.takes (4 * reg.val)) (hstep : ∀ j, (s.pair j).stepReq = false)
    (hoff : 4 * reg.val = A.THM_FLOOR) :
    Completes (.registerWrite m reg w) s fun t =>
      s.onlyRegs t [4 * reg.val] ∧ t.g F.THM_FLOOR_V = max 1000 (min 48000 (w.toNat % 65536)) := by
  have hw : s.regWrite m A.THM_FLOOR w = s.plain A.THM_FLOOR (F.THM_FLOOR_V.limit 1000 48000 w) := by
    show s.writeThm A.THM_FLOOR w = _
    unfold State.writeThm thmNormal
    rw [if_neg (by decide), if_neg (by decide), if_neg (by decide), if_neg (by decide), if_neg (by decide)]
    rfl
  have hk : kindAt A.THM_FLOOR = some ⟨A.THM_FLOOR, [], [⟨0, 16, .rw, 0x2710⟩]⟩ := by decide
  refine ⟨_, exec_registerWrite_plain s m reg w hs hstep (by rw [hoff]; exact hw), State.plain_onlyRegs s _ _, ?_⟩
  rw [hoff]
  refine (State.g_plain s _ hk (List.mem_singleton.2 rfl)).trans ?_
  simp only [Field.limit, Field.into, F.THM_FLOOR_V, Field.of]
  rw [Word.field_insert_same _ _ _ _ (by decide)]
  simp only [Word.field]
  omega

/-- A write of THM_CAUSE clears the bits written as 1. -/
theorem registerWrite_thmCause (hs : s.takes (4 * reg.val)) (hstep : ∀ j, (s.pair j).stepReq = false)
    (hoff : 4 * reg.val = A.THM_CAUSE) :
    Completes (.registerWrite m reg w) s fun t =>
      s.onlyRegs t [4 * reg.val] ∧ ∀ k, kindAt (4 * reg.val) = some k → ∀ f ∈ k.fields, f.acc = .w1c → f.w = 1 →
        t.bit ⟨4 * reg.val, f.lo, 1⟩ = (s.bit ⟨4 * reg.val, f.lo, 1⟩ && !w.getLsbD f.lo) := by
  have hw : s.regWrite m A.THM_CAUSE w = s.plain A.THM_CAUSE w := by
    show s.writeThm A.THM_CAUSE w = _
    unfold State.writeThm thmNormal
    rw [if_neg (by decide), if_neg (by decide), if_neg (by decide), if_neg (by decide), if_neg (by decide)]
    rfl
  refine ⟨_, exec_registerWrite_plain s m reg w hs hstep (by rw [hoff]; exact hw), State.plain_onlyRegs s _ _, ?_⟩
  intro k hk f hf ha h1
  have hg := State.g_plain s w hk hf
  obtain ⟨fits, -⟩ := kindAt_sound hk
  have hlo := fits f hf
  rw [ha, h1] at hg
  have bit : ∀ v : Word, (Word.field v f.lo 1 == 1) = v.getLsbD f.lo := fun v => by
    simp only [Word.field, BitVec.getLsbD, Nat.testBit_eq_decide_div_mod_eq]
    rfl
  have hlt : f.lo < 32 := by omega
  simp only [State.bit, hg]
  simp only [State.g, bit, BitVec.getLsbD_and, BitVec.getLsbD_not, hlt, decide_true, Bool.true_and]

end writes

end Sys2Proof.Machine
end

section
/-!
PROOFS. Register access and events together; O48.
-/

namespace Sys2Proof.Machine

/-! ## Snapshots read by their own row (00 R479) -/

/-- The snapshot registers are words of the register space. -/
theorem snapHeads_aligned : ∀ i : Fin 5, snapHeads.getD i.val 0 ∈ snapHeads
    ∧ snapHeads.getD i.val 0 / 4 < 0x400000 ∧ 4 * (snapHeads.getD i.val 0 / 4) = snapHeads.getD i.val 0 := by
  decide

/-- A read of a snapshot register is a read of that register. -/
theorem exec_snapshotRead (s : State) (m : Master) (i : Fin 5) (reg : Fin 0x400000)
    (h : 4 * reg.val = snapHeads.getD i.val 0) : exec (.snapshotRead m i) s = exec (.rcRead m reg) s := by
  show execSnapshotRead m i s = execRcRead m reg s
  rw [execSnapshotRead, execRcRead, h]

/-! ## Commands that act as one another -/

/-- A command that completes as another one does. -/
theorem Completes.same {c d : Instr} {s t : State} (h : exec c s = .next t) (e : exec c s = exec d s) :
    Completes c s fun t => exec d s = .next t := ⟨t, h, e ▸ h⟩

/-- The registers of the event router answer with PD_CORE. -/
theorem State.blockUp_events (s : State) {off : Nat} (h : off / 0x10000 = 4) : s.blockUp off = s.up .core := by
  have hb : blockDomain off = some .core := by
    unfold blockDomain
    rw [if_neg (by omega), h]
    rfl
  simp [State.blockUp, hb]

/-- A register of none of the special kinds is read and cleared as R5 says. -/
theorem plainRead_of_not_special {off : Nat} (h : ¬ (windowAt off ≠ none ∨ off = A.INS_TBL_DATA
    ∨ (∃ p : Fin 4, off = A.CAM_Pp_CCI_RES p) ∨ off ∈ snapHeads ∨ off ∈ snapMembers
    ∨ off ∈ [A.MEM_BANK_CE, A.MEM_BANK_UE, A.MEM_BANK_COLL])) :
    plainRead off ∧ off ∉ snapHeads ∧ off ∉ bankCounters := by
  simp only [not_or, not_not, not_exists] at h
  obtain ⟨hw, ht, hp, hh, hm, hb⟩ := h
  exact ⟨⟨hw, ht, hp, hm⟩, hh, hb⟩

/-- The software events raised by a write of SEQ_SWEV: what changes, the router's pending bits, the slots. -/
theorem State.swEvents_spec (s : State) (mask : BitVec 4) :
    s.onlyRegsAndEvents (s.swEvents mask.toNat) [] ∧ ∀ k : Fin 4,
      (s.swEvents mask.toNat).bit (pendField (0xF4 + k.val))
          = (mask.getLsbD k || s.bit (pendField (0xF4 + k.val)))
        ∧ ∀ (j : Fin 4) (i : Nat), i < 32 → mask.getLsbD k = true →
            (s.g (F.EVT_MAPe_PAIRS (0xF4 + k.val))).testBit j = true →
            (s.pair j).slotTakes (0xF4 + k.val) i = true →
            (((s.swEvents mask.toNat).pair j).ccr 0x012).getLsbD i = true := by
  have four : ∀ k ∈ List.range 4, k < 4 := fun k hk => List.mem_range.1 hk
  have same := State.raiseBits_same mask.toNat (List.range 4) four s
  rw [State.swEvents_eq]
  refine ⟨⟨same.frame, fun a _ hr => same.regs a hr, same.pairs⟩, fun k => ⟨?_, fun j i hi hm hp ht => ?_⟩⟩
  · have hk : (List.range 4).contains k.val = true := by simp
    rw [State.bit_raiseBits _ _ _ k.isLt, hk, Bool.true_and, BitVec.testBit_toNat]
  · exact State.slot_raiseBits _ _ four s j (List.mem_range.2 k.isLt) hi (by rwa [BitVec.testBit_toNat]) hp ht

/-! ## Messages held (12 R367) -/

/-- A held message is sent once its vector is open. -/
theorem State.sendHeld_open (s : State) (v : Fin 64) (hp : s.bit (pbaField v) = true) (ho : s.vectorOpen v = true) :
    s.sendHeld v = { s with regs := (s.sendHeld v).regs, linkOut := (s.sendHeld v).linkOut }
      ∧ (s.sendHeld v).bit (pbaField v) = false
      ∧ (∀ a, a ≠ A.EVT_PBA (v.val / 32) → (s.sendHeld v).reg a = s.reg a)
      ∧ (s.sendHeld v).linkOut = s.linkOut ++ [.msix v
          ((s.reg (A.EVT_MSIX_TABLE v 0)).toNat + 2 ^ 32 * (s.reg (A.EVT_MSIX_TABLE v 1)).toNat)
          (s.reg (A.EVT_MSIX_TABLE v 2))] := by
  have sent : s.sendHeld v = (s.put (pbaField v) 0).sendMsix v := by
    simp [State.sendHeld, hp, ho]
  have words : ∀ a, a ≠ A.EVT_PBA (v.val / 32) → (s.put (pbaField v) 0).reg a = s.reg a := fun a ha => by
    rw [State.reg_put]
    exact if_neg ha
  have table : ∀ x, x < 4 → A.EVT_MSIX_TABLE v x ≠ A.EVT_PBA (v.val / 32) := fun x hx => by
    have := v.isLt
    simp only [A.EVT_MSIX_TABLE, A.EVT_PBA]
    omega
  have clear : (s.put (pbaField v) 0).bit (pbaField v) = false := by
    have hlo : (pbaField v).lo + (pbaField v).w ≤ 32 := Nat.mod_lt v.val (by decide)
    simp [State.bit, State.g_put_same s _ 0 hlo]
  rw [sent]
  refine ⟨rfl, clear, words, ?_⟩
  simp only [State.sendMsix, State.put_linkOut, words _ (table 0 (by decide)), words _ (table 1 (by decide)),
    words _ (table 2 (by decide))]

end Sys2Proof.Machine

open Sys2Proof.Machine in
/-- Settles O48: each clause by the lemma of its kind of access. A register that is not special is read by
`rcRead_clears`; one that a write changes by its access codes alone is written by `exec_registerWrite_plain`. -/
theorem registerAccessAndEvents : Obligations.RegisterAccessAndEvents := by
  unfold Obligations.RegisterAccessAndEvents
  intro s m w hrun hstep
  refine ⟨fun reg => ?access, fun i => ?snapshot, fun mask hcore => ?swev, fun q hcore => ?pending,
    fun v => ⟨fun hp ho => ⟨_, rfl, s.sendHeld_open v hp ho⟩, fun h => ⟨_, rfl, ?closed⟩⟩⟩
  case access =>
    intro off pops special word
    have reached : s.blockUp off = true → s.takes off := fun hup => ⟨hrun, hup⟩
    refine ⟨fun hup => ?reads, fun hup => ⟨?off, registerWrite_missed s m reg w hrun hstep hup⟩, fun habove => ?above,
      ?plain, fun hup => ?acts,
      fun e he hoff hcore => registerWrite_eventMap s m reg w (reached ?map) hstep he hoff,
      fun hoff hana => registerWrite_floor s m reg w (reached ?floor) hstep hoff,
      fun hoff hana => registerWrite_thmCause s m reg w (reached ?cause) hstep hoff⟩
    case reads =>
      have hs := reached hup
      have next := exec_rcRead_reached s m reg hs
      refine ⟨fun hn hlog => ?_, fun hn => ?_, fun hm => ?_, fun i hi => ?_,
        fun ht => Completes.same next (exec_rcRead_tblData s m reg hs ht),
        fun p hp => Completes.same next (exec_rcRead_cciRes s m reg hs p hp),
        fun hsel hce => rcRead_bankCe s m reg hs hsel hce, fun h1 h2 => ?_⟩
      · obtain ⟨hp, hh, hb⟩ := plainRead_of_not_special hn
        exact rcRead_clears s m reg hs hp hh hb hlog
      · obtain ⟨hp, hh, -⟩ := plainRead_of_not_special hn
        exact ⟨_, exec_rcRead_plain s m reg hs hp hh, rfl⟩
      · rw [State.regRead_member s m hm] at next
        exact ⟨_, next, rfl⟩
      · exact Completes.same next (exec_snapshotRead s m i reg hi).symm
      · have exec_eq := exec_rcRead_et s m reg hs h1 h2
        refine ⟨fun h0 => ?_, fun x h4 hx => ?_, fun h4 hx => ?_⟩
        · obtain ⟨value, fifo⟩ := State.windowRead_lower s m h0
          rw [value] at exec_eq
          exact ⟨_, exec_eq, rfl, fifo⟩
        · obtain ⟨value, spec⟩ := State.windowRead_upper s m h4 hx
          rw [value] at exec_eq
          exact ⟨_, exec_eq, rfl, spec⟩
        · rw [State.windowRead_none s m h4 hx] at exec_eq
          exact ⟨_, exec_eq, rfl⟩
    case off =>
      obtain ⟨t, ht, hresp, -, count, addr⟩ := rcRead_missed s m reg hrun hup
      exact ⟨t, ht, hresp, count, addr⟩
    case above =>
      obtain ⟨none, hup⟩ := kindAt_above s habove
      have next := exec_registerWrite_plain s m reg w (reached hup) hstep
        (State.regWrite_plain s m w (.inr (.inr (.inr habove))))
      exact ⟨_, next, s.plain_of_none w none⟩
    case plain =>
      intro block hup hblock
      have next := exec_registerWrite_plain s m reg w (reached hup) hstep
        (State.regWrite_plain s m w (hblock.imp_right (Or.imp_right Or.inl)))
      exact ⟨fun none => ⟨_, next, s.plain_of_none w none⟩, fun k hk =>
        ⟨_, next, s.plain_onlyRegs off w, fun f hf => s.g_plain w hk hf⟩⟩
    case acts =>
      have next := exec_registerWrite_reached s m reg w (reached hup)
      exact ⟨fun q hq => Completes.same next (exec_registerWrite_pending s m reg w (reached hup) hstep q hq),
        fun hq => Completes.same next (exec_registerWrite_swev s m reg w (reached hup) hstep hq),
        fun n hn => Completes.same next (exec_registerWrite_push s m reg w (reached hup) hstep n hn)⟩
    case map =>
      rw [s.blockUp_events (by rw [hoff]; simp only [A.EVT_MAPe]; omega)]
      exact hcore
    case floor => rw [hoff]; exact hana
    case cause => rw [hoff]; exact hana
  case snapshot =>
    intro off
    obtain ⟨hh, hlt, hal⟩ := snapHeads_aligned i
    let reg : Fin 0x400000 := ⟨off / 4, hlt⟩
    have hreg : 4 * reg.val = off := hal
    have row : exec (.snapshotRead m i) s = exec (.rcRead m reg) s := exec_snapshotRead s m i reg hreg
    unfold Completes
    rw [row]
    refine ⟨fun hup => ?_, fun hup => ?_⟩
    · have h := rcRead_head s m reg ⟨hrun, hreg.symm ▸ hup⟩ (hreg.symm ▸ hh)
      rwa [hreg] at h
    · obtain ⟨t, ht, hresp, snaps, count, -⟩ := rcRead_missed s m reg hrun (hreg.symm ▸ hup)
      exact ⟨t, ht, hresp, snaps, count⟩
  case swev =>
    have hup : s.blockUp A.SEQ_SWEV = true := hcore
    exact ⟨_, exec_seqSwev_takes s mask ⟨hrun, hup⟩, s.swEvents_spec mask⟩
  case pending =>
    have hup : s.blockUp (A.EVT_PENDw q) = true := by
      rw [s.blockUp_events (by have := q.isLt; simp only [A.EVT_PENDw]; omega)]
      exact hcore
    have others := fun a (ha : a ∉ [A.EVT_PENDw q]) => s.reg_setReg_other (s.reg (A.EVT_PENDw q) &&& ~~~w)
      (List.ne_of_not_mem_cons ha)
    exact ⟨_, exec_evtPendClear_takes s q w ⟨hrun, hup⟩, ⟨rfl, others⟩, s.reg_setReg_same _ _⟩
  case closed =>
    rcases h with h | h <;> simp [State.sendHeld, h]
end

section
/-!
PROOFS. The page push: what its status is, what a refused push and a queued one change (01 R31; 02 R64; 10 R312); O28.
-/

namespace Sys2Proof.Machine

/-! ## Registers and bars, one changed and the other read -/

theorem State.bar_put (s : State) (n : Fin 32) (f : Field) (v : Nat) : (s.put f v).bar n = s.bar n := by
  rw [State.bar, State.put_bars, State.bar]

theorem State.g_modBar (s : State) (n : Fin 32) (g : Bar → Bar) (f : Field) : (s.modBar n g).g f = s.g f := rfl

/-- A bar changed after changes of register words. -/
theorem State.onlyRegs.modBar {s u : State} {xs : List Nat} (h : s.onlyRegs u xs) (n : Fin 32) (f : Bar → Bar) :
    s.onlyBarAndRegs (u.modBar n f) n xs := by
  obtain ⟨frame, regs⟩ := h
  have bars : u.bars = s.bars := by rw [frame]
  have changed : u.modBar n f = { u with bars := (u.modBar n f).bars } := rfl
  have kept := State.modBar_regs u n f
  refine ⟨?_, fun m hm => ?_, regs⟩
  · generalize u.modBar n f = t at changed kept ⊢
    rw [changed, frame]
  · rw [State.bar_modBar_other _ _ hm, State.bar, bars, State.bar]

/-! ## The status of a push (01 R31; 02 R64; 10 R312) -/

section push
variable (s : State) (n : Fin 32)

theorem State.pqMalformed_iff : s.pqMalformed n = true ↔ s.reg (A.FPE_PQ_W0 n + 4 * 1) = 0
    ∨ Word.field (s.reg (A.FPE_PQ_W0 n + 4 * 0)) 29 3 ≠ 0 ∨ Word.field (s.reg (A.FPE_PQ_W0 n + 4 * 2)) 16 16 ≠ 0
    ∨ Word.field (s.reg (A.FPE_PQ_W0 n + 4 * 5)) 16 16 ≠ 0 ∨ s.reg (A.FPE_PQ_W0 n + 4 * 7) ≠ 0 := by
  simp [State.pqMalformed, or_assoc]

theorem State.graceRuns_iff : s.graceRuns = true ↔ s.graceSince ≠ none ∧ s.bit F.SEQ_WD_CFG_EN = true := by
  simp [State.graceRuns, Option.isSome_iff_ne_none]

theorem State.pushStatus_malformed (h : s.pqMalformed n = true) : s.pushStatus n = 0x05 := by
  rw [State.pushStatus, if_pos h]
  rfl

theorem State.pushStatus_locked (hm : s.pqMalformed n = false) (hg : s.graceRuns = true) : s.pushStatus n = 0x09 := by
  simp only [State.pushStatus, hm, hg]
  rfl

theorem State.pushStatus_full (hm : s.pqMalformed n = false) (hg : s.graceRuns = false)
    (hq : 4 ≤ (s.bar n).queue.length) : s.pushStatus n = 0x10 := by
  simp [State.pushStatus, hm, hg, hq]

theorem State.pushStatus_ok (hm : s.pqMalformed n = false) (hg : s.graceRuns = false)
    (hq : ¬ 4 ≤ (s.bar n).queue.length) : s.pushStatus n = 0 := by
  simp [State.pushStatus, hm, hg, hq, Status.code]

/-! ## What a push changes -/

theorem pqErr_fits : (F.FPE_STATUS_PQ_ERR n).lo + (F.FPE_STATUS_PQ_ERR n).w ≤ 32 := by
  simp [F.FPE_STATUS_PQ_ERR]

/-- The row of a push, where it reaches the bar. -/
theorem exec_pagePush_takes (hs : s.takes (A.FPE_CTL n)) : exec (.pagePush n) s = .next (s.pagePush n) := by
  show execPagePush n s = _
  rw [execPagePush, State.atBlock_takes s hs]

/-- A refused push leaves its code in PQ_ERR and sets CFG_REFUSED; nothing is queued. -/
theorem pagePush_refuses {code : Nat} (hs : s.takes (A.FPE_CTL n)) (hst : s.pushStatus n = code) (hne : code ≠ 0)
    (hlt : code < 256) : Completes (.pagePush n) s fun t =>
      s.onlyRegsAndEvents t [A.FPE_STATUS n, A.FPE_FCAUSE n] ∧ t.g (F.FPE_STATUS_PQ_ERR n) = code
        ∧ t.bit (F.FPE_FCAUSE_CFG_REFUSED n) = true := by
  have refuses : s.pagePush n = (s.put (F.FPE_STATUS_PQ_ERR n) code).setCause (F.FPE_FCAUSE_CFG_REFUSED n) := by
    simp only [State.pagePush, hst]
    exact if_pos hne
  obtain ⟨frame, regs, pairs⟩ :=
    ((State.onlyRegs.refl s).put (F.FPE_STATUS_PQ_ERR n) code).setCause (F.FPE_FCAUSE_CFG_REFUSED n)
  have apart : (F.FPE_STATUS_PQ_ERR n).off ≠ (F.FPE_FCAUSE_CFG_REFUSED n).off := by
    simp [F.FPE_STATUS_PQ_ERR, F.FPE_FCAUSE_CFG_REFUSED, A.FPE_STATUS, A.FPE_FCAUSE]
  have outside : ∀ {a}, 0x100000 ≤ a → ¬ routerReg a := fun h => not_routerReg_of_le (Nat.le_trans (by decide) h)
  have hstatus : ¬ routerReg (F.FPE_STATUS_PQ_ERR n).off :=
    outside (by simp only [F.FPE_STATUS_PQ_ERR, A.FPE_STATUS]; omega)
  have hcause : ¬ routerReg (F.FPE_FCAUSE_CFG_REFUSED n).off :=
    outside (by simp only [F.FPE_FCAUSE_CFG_REFUSED, A.FPE_FCAUSE]; omega)
  refine ⟨_, exec_pagePush_takes s n hs, ?_⟩
  rw [refuses]
  have fits : (F.FPE_FCAUSE_CFG_REFUSED n).lo + 1 ≤ 32 := by simp [F.FPE_FCAUSE_CFG_REFUSED]
  refine ⟨⟨frame, fun a ha => regs a ?_, pairs⟩, ?_, State.bit_setCause _ _ fits rfl hcause⟩
  · simpa [F.FPE_STATUS_PQ_ERR, F.FPE_FCAUSE_CFG_REFUSED, and_comm] using ha
  · calc ((s.put (F.FPE_STATUS_PQ_ERR n) code).setCause (F.FPE_FCAUSE_CFG_REFUSED n)).g (F.FPE_STATUS_PQ_ERR n)
        = (s.put (F.FPE_STATUS_PQ_ERR n) code).g (F.FPE_STATUS_PQ_ERR n) := by
          unfold State.g
          rw [State.reg_setCause_other _ _ apart hstatus]
      _ = code % 2 ^ 8 := State.g_put_same s _ _ (pqErr_fits n)
      _ = code := Nat.mod_eq_of_lt hlt

/-- The descriptor registers lie apart from FPE_STATUS: a push reads them as they were written. -/
theorem State.pqDesc_put_status (v : Nat) : (s.put (F.FPE_STATUS_PQ_ERR n) v).pqDesc n = s.pqDesc n := by
  have apart : ∀ k, A.FPE_PQ_W0 n + 4 * k ≠ (F.FPE_STATUS_PQ_ERR n).off := fun k => by
    simp only [F.FPE_STATUS_PQ_ERR, A.FPE_PQ_W0, A.FPE_STATUS]
    omega
  have words : ∀ k, (s.put (F.FPE_STATUS_PQ_ERR n) v).reg (A.FPE_PQ_W0 n + 4 * k) = s.reg (A.FPE_PQ_W0 n + 4 * k) :=
    fun k => by rw [State.reg_put, if_neg (apart k)]
  unfold State.pqDesc
  extract_lets pushed written
  have same : pushed = written := funext words
  rw [same, State.bar_put]

/-- A bar whose queue a descriptor joins: its number and the line at which its raster begins are taken (02 R64; 04
R104). -/
def Bar.joined (b : Bar) (d : PageDesc) : Bar :=
  { b with
    serial := d.serial
    queue := b.queue ++ [d]
    rsp := { b.rsp with nextBase := b.rsp.nextBase + d.lines, copies := b.rsp.copies ++ [d.copy] } }

theorem State.pagePush_of_ok (hst : s.pushStatus n = 0) :
    s.pagePush n = (s.put (F.FPE_STATUS_PQ_ERR n) 0).modBar n fun b => b.joined (s.pqDesc n) := by
  unfold State.pagePush
  extract_lets st u d
  have queued : d = s.pqDesc n := State.pqDesc_put_status s n st
  have ok : st = 0 := hst
  rw [if_neg (not_not.2 ok), queued]
  unfold u
  rw [ok]
  rfl

/-- A push that nothing stops leaves 0 in PQ_ERR; the descriptor joins the queue, and the lines after it begin behind
its own. -/
theorem pagePush_queues (hs : s.takes (A.FPE_CTL n)) (hst : s.pushStatus n = 0) : Completes (.pagePush n) s fun t =>
    s.onlyBarAndRegs t n [A.FPE_STATUS n] ∧ t.g (F.FPE_STATUS_PQ_ERR n) = 0
      ∧ t.bar n = (s.bar n).joined (s.pqDesc n) := by
  refine ⟨_, exec_pagePush_takes s n hs, ?_⟩
  have only := (State.onlyRegs.refl s).put (F.FPE_STATUS_PQ_ERR n) 0
  rw [s.pagePush_of_ok n hst]
  refine ⟨only.modBar n _, ?_, ?_⟩
  · rw [State.g_modBar, State.g_put_same s _ 0 (pqErr_fits n), Nat.zero_mod]
  · rw [State.bar_modBar_same, State.bar_put]

end push

end Sys2Proof.Machine

open Sys2Proof.Machine in
/-- Settles O28: the status of the push, condition by condition in the order of the codes; a status other than 0
refuses, and 0 queues the descriptor. -/
theorem pagePushQueuesOrRefuses : Obligations.PagePushQueuesOrRefuses := by
  unfold Obligations.PagePushQueuesOrRefuses
  intro s n hs w bad locked full refused
  have hbad : s.pqMalformed n = true ↔ bad := s.pqMalformed_iff n
  have hlocked : s.graceRuns = true ↔ locked := s.graceRuns_iff
  have notBad := fun h : ¬ bad => Bool.eq_false_iff.2 (mt hbad.1 h)
  have notLocked := fun h : ¬ locked => Bool.eq_false_iff.2 (mt hlocked.1 h)
  refine ⟨fun hb => ?_, fun hb hl => ?_, fun hb hl hf => ?_, fun hb hl hf => ?_⟩
  · exact pagePush_refuses s n hs (s.pushStatus_malformed n (hbad.2 hb)) (by decide) (by decide)
  · exact pagePush_refuses s n hs (s.pushStatus_locked n (notBad hb) (hlocked.2 hl)) (by decide) (by decide)
  · exact pagePush_refuses s n hs (s.pushStatus_full n (notBad hb) (notLocked hl) hf) (by decide) (by decide)
  · obtain ⟨t, next, only, code, bar⟩ :=
      pagePush_queues s n hs (s.pushStatus_ok n (notBad hb) (notLocked hl) hf)
    have queue : (t.bar n).queue = ((s.bar n).joined (s.pqDesc n)).queue := by rw [bar]
    have nextBase : (t.bar n).rsp.nextBase = ((s.bar n).joined (s.pqDesc n)).rsp.nextBase := by rw [bar]
    exact ⟨t, next, only, code, s.pqDesc n, queue, rfl, rfl, rfl, rfl, rfl, rfl, rfl, nextBase⟩
end

section
/-!
PROOFS. Outputs that push into an update FIFO (03 R93), over a list of reservations that names a pair twice; O8.
-/

namespace Sys2Proof.Machine

/-! ## A FIFO whose reservations name one pair twice (03 R93) -/

/-- Pair 1 runs at the bottom of its instruction memory; K1 and K2 hold an NST_PUSH to bar 0. -/
def pushingPair : Pair :=
  { State.reset.pair 1 with mode := .running, pc := 0, k := (State.reset.pair 1).k.set 2 0x11010000#32 }

/-- A device after its reset sequence; the reservations of bar 0 hold two entries of pair 1, whose key is 52, of 0 and
of 300 slots. -/
def doublyReserved : State :=
  ({ State.reset with seqRun := false }.modPair 1 fun _ => pushingPair).modBar 0 fun b =>
    { b with nst := { b.nst with reserved := [((pairMaster 1).key, 0), ((pairMaster 1).key, 300)] } }

/-- Pair 1 issues its push at once: the FIFO has room, and so has the commit buffer. -/
theorem doublyReserved_pushes : doublyReserved.executes 1 = true
    ∧ pushesBar (.command ((doublyReserved.pair 1).kr 2 ++ (doublyReserved.pair 1).kr 1)) = some (0 : Fin 32).val
    ∧ doublyReserved.up (barDomain (0 : Fin 32)) = true ∧ (doublyReserved.bar 0).nst.level < 1024
    ∧ (doublyReserved.pair 1).buffered < 32 ∧ doublyReserved.bit (F.NST_CAUSE_LOW_WATER 0) = false := by
  decide +kernel

/-- The one slot that the push reserves takes the place of both entries: LEVEL falls from 300 to 1, past NST_WATER, and
LOW_WATER is set. -/
theorem cmd_doublyReserved_setsLowWater {t : State} (h : exec (.cmd 1 1 2) doublyReserved = .next t) :
    t.bit (F.NST_CAUSE_LOW_WATER 0) = true := by
  have sets : (match exec (.cmd 1 1 2) doublyReserved with
    | .next u => u.bit (F.NST_CAUSE_LOW_WATER 0)
    | _ => false) = true := by decide +kernel
  rwa [h] at sets

end Sys2Proof.Machine

open Sys2Proof.Machine in
/-- Refutes O8 by its last clause, that a push changes bars and pairs only: over `doublyReserved`, whose reservations
name pair 1 twice, the reservation lowers LEVEL past NST_WATER and so sets NST_CAUSE.LOW_WATER, a register bit. No
operation makes such a list, but the statement speaks of every state. -/
theorem not_accessesThroughTheCommitBuffer : ¬ Obligations.AccessesThroughTheCommitBuffer := by
  unfold Obligations.AccessesThroughTheCommitBuffer
  rintro ⟨-, stores⟩
  obtain ⟨executes, pushes, up, level, room, clear⟩ := doublyReserved_pushes
  obtain ⟨-, -, -, pushing⟩ := stores doublyReserved 1 1 2 0 0 executes
  obtain ⟨t, next, frame, -⟩ := (pushing 0 pushes up).2 level room
  have kept : t.bit (F.NST_CAUSE_LOW_WATER 0) = doublyReserved.bit (F.NST_CAUSE_LOW_WATER 0) := by rw [frame]; rfl
  rw [cmd_doublyReserved_setsLowWater next, clear] at kept
  exact absurd kept (by decide)
end

section
/-!
PROOFS. What the fire engine's updates leave alone: registers of the bars and of the grid after a change of a bar and
after a cause bit, and a treatment of every bar in turn.
-/

namespace Sys2Proof.Machine

/-! ## Offsets -/

/-- Two registers of one bar lie apart. -/
theorem barOff_ne {k k' : Nat} (x : Nat) (h : k ≠ k') : k + x ≠ k' + x := fun e => h (Nat.add_right_cancel e)

/-- A register below the bars' blocks is none of theirs. -/
theorem lowOff_ne {a k : Nat} (x : Nat) (h : a < k) : a ≠ k + x := by omega

/-- Registers of two bars lie apart. -/
theorem barOff_bars_ne {n m : Fin 32} (h : n ≠ m) {k k' : Nat} (hk : k / 0x10000 = k' / 0x10000) :
    k + n.val * 0x10000 ≠ k' + m.val * 0x10000 := by
  intro e
  apply h
  omega

/-- Two fields lie apart: in different registers, or in different bits of one. -/
def Field.Apart (e f : Field) : Prop := e.off ≠ f.off ∨ e.lo + e.w ≤ f.lo ∨ f.lo + f.w ≤ e.lo

/-! ## Registers that raising an event leaves alone -/

/-- A register of a bar is none of the event router's. -/
theorem not_routerReg_above {k : Nat} (x : Nat) (h : 0xE0000 ≤ k) : ¬ routerReg (k + x) :=
  not_routerReg_of_le (by omega)

/-- A register below the router's pending bits is none of its registers. -/
theorem not_routerReg_below {a : Nat} (h : a < 0x40400) : ¬ routerReg a := by
  rintro (r | r) <;> omega

/-! ## Fields of a register that is as before -/

theorem State.g_of_reg {s t : State} {f : Field} (h : t.reg f.off = s.reg f.off) : t.g f = s.g f := by
  unfold State.g
  rw [h]

theorem State.bit_of_reg {s t : State} {f : Field} (h : t.reg f.off = s.reg f.off) : t.bit f = s.bit f := by
  unfold State.bit
  rw [State.g_of_reg h]

/-! ## After a field is stored -/

/-- A domain is on after a field of another register is stored as before it. -/
theorem State.up_put (s : State) (f : Field) (v : Nat) (d : Domain) (h : A.PWR_DOM_STATUS ≠ f.off) :
    (s.put f v).up d = s.up d := by
  unfold State.up
  rw [State.reg_put, if_neg h]

/-- A field apart from the one that is stored is as before. -/
theorem State.g_put_of_apart (s : State) {e f : Field} (v : Nat) (hf : f.lo + f.w ≤ 32) (apart : e.Apart f) :
    (s.put f v).g e = s.g e := by
  rcases apart with other | within
  · exact State.g_put_other _ _ _ _ other
  · exact State.g_put_apart _ _ _ _ hf within

/-- A bit apart from the field that is stored is as before. -/
theorem State.bit_put_of_apart (s : State) {e f : Field} (v : Nat) (hf : f.lo + f.w ≤ 32) (apart : e.Apart f) :
    (s.put f v).bit e = s.bit e := by
  unfold State.bit; rw [State.g_put_of_apart s v hf apart]

/-- A register other than that of the field that is stored is as before. -/
theorem State.reg_put_other (s : State) {a : Nat} {f : Field} (v : Nat) (h : a ≠ f.off) : (s.put f v).reg a = s.reg a := by
  rw [State.reg_put, if_neg h]

/-- A one-bit field that was cleared is clear. -/
theorem State.bit_put_zero (s : State) (f : Field) (h : f.lo + f.w ≤ 32) : (s.put f 0).bit f = false := by
  unfold State.bit
  rw [State.g_put_same s f 0 h, Nat.zero_mod]
  rfl

/-- A one-bit field reads the truth value stored in it. -/
theorem State.bit_putb (s : State) (f : Field) (b : Bool) (h : f.lo + 1 ≤ 32) (hw : f.w = 1) :
    (s.putb f b).bit f = b := by
  unfold State.putb State.bit
  rw [State.g_put_same s f _ (by omega), hw]
  cases b <;> rfl

/-- A field stored changes its register only. -/
theorem State.onlyRegs_put (s : State) (f : Field) (v : Nat) : s.onlyRegs (s.put f v) [f.off] :=
  ⟨rfl, fun a ha => by rw [State.reg_put, if_neg (by simpa using ha)]⟩

/-! ## After a change of a bar -/

@[simp] theorem State.reg_modBar (s : State) (n : Fin 32) (f : Bar → Bar) (a : Nat) : (s.modBar n f).reg a = s.reg a := rfl
@[simp] theorem State.bit_modBar (s : State) (n : Fin 32) (f : Bar → Bar) (e : Field) : (s.modBar n f).bit e = s.bit e := rfl
@[simp] theorem State.bar_setReg (s : State) (n : Fin 32) (a : Nat) (w : Word) : (s.setReg a w).bar n = s.bar n := rfl

/-! ## After a cause bit -/

section
variable (s : State) (f : Field)

@[simp] theorem State.setCause_bars : (s.setCause f).bars = s.bars := by rw [State.setCause_frame]
@[simp] theorem State.setCause_grid : (s.setCause f).grid = s.grid := by rw [State.setCause_frame]
@[simp] theorem State.setCause_now : (s.setCause f).now = s.now := by rw [State.setCause_frame]
@[simp] theorem State.setCause_pos : (s.setCause f).pos = s.pos := by rw [State.setCause_frame]
@[simp] theorem State.setCause_power : (s.setCause f).power = s.power := by rw [State.setCause_frame]
@[simp] theorem State.setCause_hkillLow : (s.setCause f).hkillLow = s.hkillLow := by rw [State.setCause_frame]
@[simp] theorem State.setCause_mem : (s.setCause f).mem = s.mem := by rw [State.setCause_frame]
@[simp] theorem State.setCause_ueBad : (s.setCause f).ueBad = s.ueBad := by rw [State.setCause_frame]
@[simp] theorem State.setCause_xpt : (s.setCause f).xpt = s.xpt := by rw [State.setCause_frame]

@[simp] theorem State.bar_setCause (n : Fin 32) : (s.setCause f).bar n = s.bar n := by
  simp only [State.bar, State.setCause_bars]

/-- A field apart from the cause bit, of a register that is none of the router's, is as before. -/
theorem State.g_setCause_of_apart {e f : Field} (hf : f.lo + f.w ≤ 32) (apart : e.Apart f) (hr : ¬ routerReg e.off) :
    (s.setCause f).g e = s.g e := by
  cases set : s.bit f with
  | true => rw [State.setCause_set s f set]
  | false =>
    have same : (s.setCause f).g e = (s.put f 1).g e := by
      unfold State.g; rw [(State.setCause_same s f set).regs _ hr]
    rw [same, State.g_put_of_apart s 1 hf apart]

/-- A bit apart from the cause bit is as before. -/
theorem State.bit_setCause_of_apart {e f : Field} (hf : f.lo + f.w ≤ 32) (apart : e.Apart f) (hr : ¬ routerReg e.off) :
    (s.setCause f).bit e = s.bit e := by
  unfold State.bit; rw [State.g_setCause_of_apart s hf apart hr]

/-- A condition that does not hold sets no cause bit. -/
@[simp] theorem State.setCauseIf_false : s.setCauseIf false f = s := rfl

/-- A condition that holds sets its cause bit. -/
@[simp] theorem State.setCauseIf_true : s.setCauseIf true f = s.setCause f := rfl

end

/-! ## One bar and its registers -/

section
variable {s t : State} {n : Fin 32} {xs : List Nat}

theorem State.onlyBarAndRegs.refl (s : State) (n : Fin 32) (xs : List Nat) : s.onlyBarAndRegs s n xs :=
  ⟨rfl, fun _ _ => rfl, fun _ _ => rfl⟩

theorem State.onlyBarAndRegs.setReg (h : s.onlyBarAndRegs t n xs) {a : Nat} (w : Word) (ha : a ∈ xs) :
    s.onlyBarAndRegs (t.setReg a w) n xs := by
  obtain ⟨frame, bars, regs⟩ := h
  refine ⟨by rw [frame]; rfl, bars, fun b hb => ?_⟩
  have other : b ≠ a := fun e => hb (e ▸ ha)
  rw [State.reg_setReg_other _ _ other, regs b hb]

theorem State.onlyBarAndRegs.put (h : s.onlyBarAndRegs t n xs) {f : Field} (v : Nat) (hf : f.off ∈ xs) :
    s.onlyBarAndRegs (t.put f v) n xs := h.setReg _ hf

theorem State.onlyBarAndRegs.modBar (h : s.onlyBarAndRegs t n xs) (f : Bar → Bar) :
    s.onlyBarAndRegs (t.modBar n f) n xs := by
  obtain ⟨frame, bars, regs⟩ := h
  exact ⟨by rw [frame]; rfl, fun m other => (t.bar_modBar_other f other).trans (bars m other), regs⟩

end

/-! ## Every bar in turn -/

/-- What the treatment of bar `m` establishes in a list that names it once, holds after the whole list: the bars before
it leave alone what it needs, and the bars behind it what it has established. -/
theorem foldl_establishes {f : State → Fin 32 → State} {R Q : State → Prop} {l : List (Fin 32)} (m : Fin 32)
    (once : l.Nodup) (named : m ∈ l) (before : ∀ s n, n ≠ m → R s → R (f s n)) (itself : ∀ s, R s → Q (f s m))
    (behind : ∀ s n, n ≠ m → Q s → Q (f s n)) {s : State} (start : R s) : Q (l.foldl f s) := by
  obtain ⟨a, b, rfl⟩ := List.append_of_mem named
  rw [List.nodup_append] at once
  obtain ⟨-, nodup, apart⟩ := once
  have first : ∀ n ∈ a, n ≠ m := fun n hn e => apart n hn m (by simp) e
  have last : ∀ n ∈ b, n ≠ m := fun n hn e => (List.nodup_cons.1 nodup).1 (e ▸ hn)
  rw [List.foldl_append, List.foldl_cons]
  refine List.foldlRecOn (motive := Q) b f (itself _ ?_) fun t ht n hn => behind t n (last n hn) ht
  exact List.foldlRecOn (motive := R) a f start fun t ht n hn => before t n (first n hn) ht

/-- What every bar's treatment keeps, the whole list keeps. -/
theorem foldl_keeps {α : Type} {f : State → α → State} {P : State → Prop} (l : List α)
    (keeps : ∀ s n, P s → P (f s n)) {s : State} (start : P s) : P (l.foldl f s) :=
  List.foldlRecOn (motive := P) l f start fun t ht n _ => keeps t n ht

theorem allBars_nodup : allBars.Nodup := List.nodup_finRange 32

theorem mem_allBars (n : Fin 32) : n ∈ allBars := List.mem_finRange n

end Sys2Proof.Machine
end

section
/-!
PROOFS. A push into an update FIFO whose slots are all taken, one of them reserved for the pusher (03 R93); O18.
-/

namespace Sys2Proof.Machine

/-- Bar 0 after the reset sequence: its update FIFO holds 1,023 words, and its last slot is reserved for pair 0. -/
def fullFifo : State :=
  ({ State.reset with seqRun := false }).modBar 0 fun b =>
    { b with nst := { b.nst with fifo := List.replicate 1023 0#64, reserved := [((pairMaster 0).key, 1)] } }

/-- Pair 0 may push by the hypotheses of the statement: its slot is reserved. -/
theorem fullFifo_reserved : fullFifo.seqRun = false ∧ fullFifo.up .core = true
    ∧ fullFifo.up (barDomain (0 : Fin 32)) = true ∧ 0 < (fullFifo.bar 0).nst.reservedOf (pairMaster 0) := by
  decide +kernel

/-- The slots are all taken, so the NST_PUSH of pair 0 waits at its issue. -/
theorem nstPush_fullFifo : exec (.nstPush 0 0 0 false false 0 0) fullFifo = .next fullFifo := by
  have waits : fullFifo.reserveSlot 0 (.command (BitVec.ofNat 64 (0x1101 * 2 ^ 48) ||| updWord 0 false false 0 0))
      = none := by decide +kernel
  obtain ⟨run, up, -, -⟩ := fullFifo_reserved
  change Host.Outcome.next (fullFifo.atSeq _) = _
  simp only [State.atSeq, run, up, Bool.not_true, Bool.or_self, Bool.false_eq_true, if_false]
  rw [show BitVec.ofNat 64 (0x1101 * 2 ^ 48 + ((0 : Fin 32) : Nat) * 2 ^ 20) = BitVec.ofNat 64 (0x1101 * 2 ^ 48) from rfl,
    waits]

end Sys2Proof.Machine

open Sys2Proof.Machine in
/-- Refutes O18 by its clause on NST_PUSH: `fullFifo` has a slot reserved for pair 0, which is the clause's hypothesis, and
yet no slot is free, so the push of the row waits for one at its issue (R93) and no word enters the FIFO. -/
theorem not_unitCommandEffects : ¬ Obligations.UnitCommandEffects := by
  unfold Obligations.UnitCommandEffects
  intro h
  obtain ⟨run, core, up, reserved⟩ := fullFifo_reserved
  obtain ⟨-, -, -, -, -, -, push, -⟩ := h fullFifo 0 run core
  obtain ⟨t, next, fifo, -⟩ := push 0 0 false false 0 0 up (.inl reserved)
  cases next.symm.trans nstPush_fullFifo
  simp at fifo
end

section
/-!
PROOFS. The schedule check of a parameter set (02 R46); O21.
-/

namespace Sys2Proof.Machine

/-- Group times are spaced when each leaves the strobe and 40 cycles before the next (R46). -/
theorem spaced_iff (w : Nat) (l : List Nat) :
    spaced w l = true ↔ ∀ g, g + 1 < l.length → l.getD g 0 + w + 40 ≤ l.getD (g + 1) 0 := by
  induction l with
  | nil => simp [spaced]
  | cons a r ih =>
    cases r with
    | nil => simp [spaced]
    | cons b r =>
      simp only [spaced, Bool.and_eq_true, decide_eq_true_eq, ih]
      constructor
      · rintro ⟨first, later⟩ g hg
        cases g with
        | zero => exact first
        | succ g => exact later g (by simpa using hg)
      · intro all
        exact ⟨all 0 (by simp), fun g hg => all (g + 1) (by simpa using hg)⟩

end Sys2Proof.Machine

open Sys2Proof.Machine in
/-- Settles O21: the spacing of the list of group times is that of each with the next. -/
theorem scheduleRule : Obligations.ScheduleRule := by
  unfold Obligations.ScheduleRule
  intro gts p len
  have ends : schedEnd gts p = gts.getD 15 0 + 8 * p.w + p.slots * (8 * p.ww + 40) := by
    unfold schedEnd; rw [Nat.mul_comm p.w, Nat.mul_comm p.ww]
  simp only [fits, Bool.and_eq_true, decide_eq_true_eq, spaced_iff, len, ends, periodOf, Nat.mul_comm p.w]
  refine ⟨fun ⟨⟨h0, hg⟩, he⟩ => ⟨h0, fun g h => hg g (by omega), he⟩,
    fun ⟨h0, hg, he⟩ => ⟨⟨h0, fun g h => hg g (by omega)⟩, he⟩⟩
end

section
/-!
PROOFS. Arming and shadow writes: what a schedule check's start and end change (02 R47, R70, R72, R74, R75); O22.
-/

namespace Sys2Proof.Machine

/-! ## A check of a bar's set begins -/

section
variable (s : State) (n : Fin 32) (arming : Bool)

/-- The check that a start leaves running: that of a write of 1 to ARM, or one that goes on with the arming of the
check it replaces (R47). -/
def State.nextBarCheck : BarCheck :=
  if arming then ⟨true, s.bit (F.FPE_CTL_ARM_AT_LINE n), s.g (F.FPE_ARM_LINE_V n)⟩
  else (s.bar n).check.getD ⟨false, false, 0⟩

/-- The bar in which a check has started, but for the moment of its arming. -/
def State.checking : State :=
  (s.modBar n fun b => { b with
    check := some (s.nextBarCheck n arming)
    shadowAt := some ((shadowCycle b.shadowAt b.check s.now).armIf arming) }).put (F.FPE_STATUS_BUSY n) 1

/-- A check starts; a write of 1 to ARM in the PORT cycle of a hand-over also leaves ARM set (R72). -/
theorem State.startBarCheck_eq : s.startBarCheck n arming =
    if arming && handedNow (s.bar n).handT s.now then
      ((s.checking n arming).put (F.FPE_CTL_ARM n) 1).modBar n fun b =>
        { b with armed := some (b.armTarget (s.nextBarCheck n arming)).1 }
    else s.checking n arming := rfl

theorem State.checking_only {xs : List Nat} (h : A.FPE_STATUS n ∈ xs) : s.onlyBarAndRegs (s.checking n arming) n xs :=
  ((State.onlyBarAndRegs.refl s n xs).modBar _).put _ h

theorem State.startBarCheck_only {xs : List Nat} (h : A.FPE_STATUS n ∈ xs)
    (k : arming && handedNow (s.bar n).handT s.now → A.FPE_CTL n ∈ xs) :
    s.onlyBarAndRegs (s.startBarCheck n arming) n xs := by
  rw [State.startBarCheck_eq]
  split
  · next arms => exact ((s.checking_only n arming h).put _ (k arms)).modBar _
  · exact s.checking_only n arming h

theorem State.startBarCheck_check : ((s.startBarCheck n arming).bar n).check = some (s.nextBarCheck n arming) := by
  rw [State.startBarCheck_eq]
  split <;> simp [State.checking, State.bar_put]

theorem State.startBarCheck_busy : (s.startBarCheck n arming).bit (F.FPE_STATUS_BUSY n) = true := by
  have busy : (s.checking n arming).bit (F.FPE_STATUS_BUSY n) = true :=
    State.bit_put_one _ _ (Nat.le_of_ble_eq_true rfl) rfl
  rw [State.startBarCheck_eq]
  split
  · rw [State.bit_modBar, State.bit_put_of_apart _ _ (Nat.le_of_ble_eq_true rfl) (.inl (barOff_ne _ (by decide)))]
    exact busy
  · exact busy

/-- A check that no write of 1 to ARM in the PORT cycle of a hand-over starts leaves ARM and its moment alone. -/
theorem State.startBarCheck_quiet (h : (arming && handedNow (s.bar n).handT s.now) = false) :
    s.startBarCheck n arming = s.checking n arming := by
  rw [State.startBarCheck_eq, if_neg (by simp [h])]

end

/-! ## A shadow register of a bar is written -/

section
variable (s : State) (n : Fin 32) (r : BarShadow) (v : Word)

/-- A shadow register lies apart from FPE_STATUS. -/
theorem barShadowOff_ne_status : barShadowOff n r ≠ A.FPE_STATUS n := by
  cases r with
  | gt g => simp only [barShadowOff, A.FPE_GT, A.FPE_STATUS]; omega
  | _ => exact barOff_ne _ (by decide)

/-- The writable bits stored, and SHADOW_LATE in the PORT cycle of a hand-over (R72). -/
def State.shadowStored : State :=
  let off := barShadowOff n r
  let s1 := (s.modBar n fun b => { b with
    shadowAt := some ((shadowCycle b.shadowAt b.check s.now).replace off (s.reg off)) }).setReg off
      (v &&& BitVec.ofNat 32 (barShadowMask r))
  if handedNow (s.bar n).handT s.now then s1.put (F.FPE_STATUS_SHADOW_LATE n) 1 else s1

/-- A shadow write of an armed set also starts a check (R72). -/
theorem State.barShadowWrite_eq : s.barShadowWrite n r v =
    if s.bit (F.FPE_CTL_ARM n) then (s.shadowStored n r v).startBarCheck n false else s.shadowStored n r v := rfl

theorem State.shadowStored_bar : (s.shadowStored n r v).bar n = { s.bar n with
    shadowAt := some ((shadowCycle (s.bar n).shadowAt (s.bar n).check s.now).replace (barShadowOff n r)
      (s.reg (barShadowOff n r))) } := by
  unfold State.shadowStored
  split
  · simp [State.bar_put]
  · simp

theorem State.shadowStored_only :
    s.onlyBarAndRegs (s.shadowStored n r v) n [barShadowOff n r, A.FPE_STATUS n] := by
  unfold State.shadowStored
  have stored := ((State.onlyBarAndRegs.refl s n [barShadowOff n r, A.FPE_STATUS n]).modBar fun b => { b with
    shadowAt := some ((shadowCycle b.shadowAt b.check s.now).replace (barShadowOff n r) (s.reg (barShadowOff n r))) }).setReg
      (v &&& BitVec.ofNat 32 (barShadowMask r)) (a := barShadowOff n r) (by simp)
  split
  · exact stored.put _ (List.mem_cons_of_mem _ (List.mem_singleton_self _))
  · exact stored

theorem State.shadowStored_reg :
    (s.shadowStored n r v).reg (barShadowOff n r) = v &&& BitVec.ofNat 32 (barShadowMask r) := by
  unfold State.shadowStored
  split
  · rw [State.reg_put_other _ _ (barShadowOff_ne_status n r), State.reg_setReg_same]
  · rw [State.reg_setReg_same]

theorem State.shadowStored_late (h : handedNow (s.bar n).handT s.now = true) :
    (s.shadowStored n r v).bit (F.FPE_STATUS_SHADOW_LATE n) = true := by
  unfold State.shadowStored
  rw [if_pos h]
  exact State.bit_put_one _ _ (Nat.le_of_ble_eq_true rfl) rfl

/-- Outside the PORT cycle of a hand-over a shadow write leaves FPE_STATUS alone. -/
theorem State.shadowStored_status (h : handedNow (s.bar n).handT s.now = false) :
    (s.shadowStored n r v).reg (A.FPE_STATUS n) = s.reg (A.FPE_STATUS n) := by
  unfold State.shadowStored
  rw [if_neg (by simp [h]), State.reg_setReg_other _ _ (barShadowOff_ne_status n r).symm, State.reg_modBar]

/-- A shadow write leaves BUSY alone. -/
theorem State.shadowStored_busy :
    (s.shadowStored n r v).bit (F.FPE_STATUS_BUSY n) = s.bit (F.FPE_STATUS_BUSY n) := by
  unfold State.shadowStored
  have stored (t : State) (w : Word) : (t.setReg (barShadowOff n r) w).bit (F.FPE_STATUS_BUSY n)
      = t.bit (F.FPE_STATUS_BUSY n) := by
    unfold State.bit State.g
    rw [show (F.FPE_STATUS_BUSY n).off = A.FPE_STATUS n from rfl,
      State.reg_setReg_other _ _ (barShadowOff_ne_status n r).symm]
  split
  · rw [State.bit_put_of_apart _ _ (Nat.le_of_ble_eq_true rfl) (.inr (.inl (Nat.le_of_ble_eq_true rfl))), stored,
      State.bit_modBar]
  · rw [stored, State.bit_modBar]

/-- A check that a shadow write starts leaves SHADOW_LATE and the shadow register alone. -/
theorem State.checking_late (t : State) (arming : Bool) :
    (t.checking n arming).bit (F.FPE_STATUS_SHADOW_LATE n) = t.bit (F.FPE_STATUS_SHADOW_LATE n) := by
  rw [State.checking, State.bit_put_of_apart _ _ (Nat.le_of_ble_eq_true rfl) (.inr (.inr (Nat.le_of_ble_eq_true rfl))),
    State.bit_modBar]

/-- What a shadow write of a bar does (R72). -/
theorem State.barShadowWrite_spec :
    let t := s.barShadowWrite n r v
    s.onlyBarAndRegs t n [barShadowOff n r, A.FPE_STATUS n]
      ∧ t.reg (barShadowOff n r) = v &&& BitVec.ofNat 32 (barShadowMask r)
      ∧ t.bit (F.FPE_STATUS_SHADOW_LATE n) = (s.shadowStored n r v).bit (F.FPE_STATUS_SHADOW_LATE n)
      ∧ (s.bit (F.FPE_CTL_ARM n) = true → (t.bar n).check.isSome = true ∧ t.bit (F.FPE_STATUS_BUSY n) = true)
      ∧ (s.bit (F.FPE_CTL_ARM n) = false → t = s.shadowStored n r v) := by
  extract_lets t
  cases armed : s.bit (F.FPE_CTL_ARM n) with
  | false =>
    have stored : t = s.shadowStored n r v := by simp only [t, State.barShadowWrite_eq, armed, Bool.false_eq_true, if_false]
    rw [stored]
    exact ⟨s.shadowStored_only n r v, s.shadowStored_reg n r v, rfl, nofun, fun _ => rfl⟩
  | true =>
    have checks : t = (s.shadowStored n r v).startBarCheck n false := by
      simp only [t, State.barShadowWrite_eq, armed, if_true]
    have quiet : t = (s.shadowStored n r v).checking n false := by rw [checks, State.startBarCheck_quiet _ _ _ rfl]
    refine ⟨?_, ?_, by rw [quiet, State.checking_late], fun _ => ?_, nofun⟩
    · rw [quiet]
      exact ((s.shadowStored_only n r v).modBar _).put _ (List.mem_cons_of_mem _ (List.mem_singleton_self _))
    · rw [quiet, State.checking, State.reg_put_other _ _ (barShadowOff_ne_status n r), State.reg_modBar]
      exact s.shadowStored_reg n r v
    · rw [checks]
      exact ⟨by rw [State.startBarCheck_check]; rfl, State.startBarCheck_busy _ _ _⟩

end

/-! ## The global set -/

/-- Only the grid's own state and the listed registers change. -/
def State.onlyGridAndRegs (s t : State) (xs : List Nat) : Prop :=
  t = { s with regs := t.regs, grid := t.grid } ∧ ∀ a, a ∉ xs → t.reg a = s.reg a

theorem State.onlyGridAndRegs.setReg {s t : State} {xs : List Nat} (h : s.onlyGridAndRegs t xs) {a : Nat} (w : Word)
    (ha : a ∈ xs) : s.onlyGridAndRegs (t.setReg a w) xs := by
  obtain ⟨frame, regs⟩ := h
  refine ⟨by rw [frame]; rfl, fun b hb => ?_⟩
  have other : b ≠ a := fun e => hb (e ▸ ha)
  rw [State.reg_setReg_other _ _ other, regs b hb]

theorem State.onlyGridAndRegs.put {s t : State} {xs : List Nat} (h : s.onlyGridAndRegs t xs) {f : Field} (v : Nat)
    (hf : f.off ∈ xs) : s.onlyGridAndRegs (t.put f v) xs := h.setReg _ hf

theorem State.onlyGridAndRegs.grid {s t : State} {xs : List Nat} (h : s.onlyGridAndRegs t xs) (g : Grid) :
    s.onlyGridAndRegs { t with grid := g } xs := by
  obtain ⟨frame, regs⟩ := h
  exact ⟨by rw [frame], regs⟩

theorem State.onlyGridAndRegs.refl (s : State) (xs : List Nat) : s.onlyGridAndRegs s xs := ⟨rfl, fun _ _ => rfl⟩

section
variable (s : State)

/-- The state in which a check of the global set has started, but for GARM. -/
def State.gridCheckStarted (arming : Bool) : State :=
  ({ s with grid := { s.grid with
    check := some (if arming then ⟨true, s.g F.GRID_FORCE_BAR_V, s.g F.GRID_FORCE_LINE_V⟩
      else s.grid.check.getD ⟨false, 0, 0⟩)
    shadowAt := some ((shadowCycle s.grid.shadowAt s.grid.check s.now).armIf arming) } }).put F.GRID_STATUS_BUSY 1

/-- A check of the global set starts; a write of 1 to GARM in the PORT cycle of a hand-over also leaves GARM set
(R75). -/
theorem State.startGridCheck_eq (arming : Bool) : s.startGridCheck arming =
    if arming && handedNow s.grid.handT s.now then (s.gridCheckStarted arming).put F.GRID_CTL_GARM 1
    else s.gridCheckStarted arming := rfl

theorem State.gridCheckStarted_busy (arming : Bool) :
    (s.gridCheckStarted arming).bit F.GRID_STATUS_BUSY = true := State.bit_put_one _ _ (by decide) rfl

theorem State.gridCheckStarted_only (arming : Bool) {xs : List Nat} (h : A.GRID_STATUS ∈ xs) :
    s.onlyGridAndRegs (s.gridCheckStarted arming) xs := ((State.onlyGridAndRegs.refl s xs).grid _).put _ h

/-- What a write of 1 to GARM does (R74, R75). -/
theorem State.startGridCheck_spec :
    let t := s.startGridCheck true
    s.onlyGridAndRegs t [A.GRID_STATUS, A.GRID_CTL]
      ∧ t.grid.check = some ⟨true, s.g F.GRID_FORCE_BAR_V, s.g F.GRID_FORCE_LINE_V⟩ ∧ t.bit F.GRID_STATUS_BUSY = true
      ∧ (handedNow s.grid.handT s.now = true → t.bit F.GRID_CTL_GARM = true)
      ∧ (handedNow s.grid.handT s.now = false → t.reg A.GRID_CTL = s.reg A.GRID_CTL) := by
  have only := s.gridCheckStarted_only true (xs := [A.GRID_STATUS, A.GRID_CTL]) (by simp)
  have busy := s.gridCheckStarted_busy true
  extract_lets t
  cases handed : handedNow s.grid.handT s.now with
  | true =>
    have eq : t = (s.gridCheckStarted true).put F.GRID_CTL_GARM 1 := by
      simp only [t, State.startGridCheck_eq, handed, Bool.and_self, if_true]
    rw [eq]
    exact ⟨only.put _ (by decide), rfl, by rw [State.bit_put_of_apart _ _ (by decide) (.inl (by decide)), busy],
      fun _ => State.bit_put_one _ _ (by decide) rfl, nofun⟩
  | false =>
    have eq : t = s.gridCheckStarted true := by
      simp only [t, State.startGridCheck_eq, handed, Bool.and_false, Bool.false_eq_true, if_false]
    rw [eq]
    exact ⟨only, rfl, busy, nofun, fun _ => State.reg_put_other _ _ (by decide)⟩

variable (r : GridShadow) (v : Word)

theorem gridShadowOff_ne_status : gridShadowOff r ≠ A.GRID_STATUS := by
  cases r <;> decide

/-- The writable bits stored, and SHADOW_LATE in the PORT cycle of a hand-over (R75). -/
def State.gridShadowStored : State :=
  let off := gridShadowOff r
  let c := (shadowCycle s.grid.shadowAt s.grid.check s.now).replace off (s.reg off)
  let s1 := ({ s with grid := { s.grid with shadowAt := some c } }).setReg off (v &&& BitVec.ofNat 32 (gridShadowMask r))
  if handedNow s.grid.handT s.now then s1.put F.GRID_STATUS_SHADOW_LATE 1 else s1

/-- A shadow write of an armed global set also starts a check (R75). -/
theorem State.gridShadowWrite_eq : s.gridShadowWrite r v =
    if s.bit F.GRID_CTL_GARM then (s.gridShadowStored r v).gridCheckStarted false else s.gridShadowStored r v := rfl

theorem State.gridShadowStored_only : s.onlyGridAndRegs (s.gridShadowStored r v) [gridShadowOff r, A.GRID_STATUS] := by
  have stored (g : Grid) : s.onlyGridAndRegs
      (({ s with grid := g } : State).setReg (gridShadowOff r) (v &&& BitVec.ofNat 32 (gridShadowMask r)))
      [gridShadowOff r, A.GRID_STATUS] := ((State.onlyGridAndRegs.refl s _).grid g).setReg _ (by simp)
  unfold State.gridShadowStored
  split
  · exact (stored _).put _ (List.mem_cons_of_mem _ (List.mem_singleton_self _))
  · exact stored _

theorem State.gridShadowStored_reg :
    (s.gridShadowStored r v).reg (gridShadowOff r) = v &&& BitVec.ofNat 32 (gridShadowMask r) := by
  unfold State.gridShadowStored
  split
  · rw [State.reg_put_other _ _ (gridShadowOff_ne_status r), State.reg_setReg_same]
  · rw [State.reg_setReg_same]

theorem State.gridShadowStored_grid : (s.gridShadowStored r v).grid = { s.grid with
    shadowAt := (s.gridShadowStored r v).grid.shadowAt } := by
  unfold State.gridShadowStored
  split <;> rfl

theorem State.gridShadowStored_late (h : handedNow s.grid.handT s.now = true) :
    (s.gridShadowStored r v).bit F.GRID_STATUS_SHADOW_LATE = true := by
  unfold State.gridShadowStored
  rw [if_pos h]
  exact State.bit_put_one _ _ (by decide) rfl

/-- Outside the PORT cycle of a hand-over a shadow write leaves GRID_STATUS alone. -/
theorem State.gridShadowStored_status (h : handedNow s.grid.handT s.now = false) :
    (s.gridShadowStored r v).reg A.GRID_STATUS = s.reg A.GRID_STATUS := by
  unfold State.gridShadowStored
  rw [if_neg (by simp [h])]
  exact State.reg_setReg_other _ _ (gridShadowOff_ne_status r).symm

/-- A shadow write leaves BUSY alone. -/
theorem State.gridShadowStored_busy : (s.gridShadowStored r v).bit F.GRID_STATUS_BUSY = s.bit F.GRID_STATUS_BUSY := by
  have stored (t : State) (w : Word) : (t.setReg (gridShadowOff r) w).bit F.GRID_STATUS_BUSY = t.bit F.GRID_STATUS_BUSY :=
    State.bit_of_reg (State.reg_setReg_other _ _ (gridShadowOff_ne_status r).symm)
  unfold State.gridShadowStored
  split
  · rw [State.bit_put_of_apart _ _ (by decide) (.inr (by decide)), stored]
    rfl
  · rw [stored]
    rfl

/-- What a write of a global shadow register does (R75). -/
theorem State.gridShadowWrite_spec :
    let t := s.gridShadowWrite r v
    s.onlyGridAndRegs t [gridShadowOff r, A.GRID_STATUS]
      ∧ t.reg (gridShadowOff r) = v &&& BitVec.ofNat 32 (gridShadowMask r)
      ∧ t.bit F.GRID_STATUS_SHADOW_LATE = (s.gridShadowStored r v).bit F.GRID_STATUS_SHADOW_LATE
      ∧ (s.bit F.GRID_CTL_GARM = true → t.grid.check.isSome = true ∧ t.bit F.GRID_STATUS_BUSY = true)
      ∧ (s.bit F.GRID_CTL_GARM = false → t = s.gridShadowStored r v) := by
  extract_lets t
  cases armed : s.bit F.GRID_CTL_GARM with
  | false =>
    have stored : t = s.gridShadowStored r v := by
      simp only [t, State.gridShadowWrite_eq, armed, Bool.false_eq_true, if_false]
    rw [stored]
    exact ⟨s.gridShadowStored_only r v, s.gridShadowStored_reg r v, rfl, nofun, fun _ => rfl⟩
  | true =>
    have checks : t = (s.gridShadowStored r v).gridCheckStarted false := by
      simp only [t, State.gridShadowWrite_eq, armed, if_true]
    rw [checks]
    refine ⟨?_, ?_, ?_, fun _ => ⟨rfl, State.gridCheckStarted_busy _ _⟩, nofun⟩
    · exact ((s.gridShadowStored_only r v).grid _).put _ (List.mem_cons_of_mem _ (List.mem_singleton_self _))
    · rw [State.gridCheckStarted, State.reg_put_other _ _ (gridShadowOff_ne_status r)]
      exact s.gridShadowStored_reg r v
    · exact State.bit_put_of_apart _ _ (by decide) (.inr (by decide))

end

/-! ## A check ends (R47, R70, R71, R75) -/

/-- A passed check of a bar's set, before its arming: no check runs, BUSY is 0 and ERR shows OK. -/
def State.barPassed (s : State) (n : Fin 32) : State :=
  ((s.modBar n fun b => { b with check := none }).put (F.FPE_STATUS_BUSY n) 0).put (F.FPE_STATUS_ERR n) Status.ok.code

/-- The arming that follows a passed check; a line that has been selected is missed (R70, R71). -/
def State.armBar (s : State) (n : Fin 32) (c : BarCheck) : State :=
  let s1 := (s.put (F.FPE_CTL_ARM n) 1).modBar n fun b => { b with armed := some ((s.bar n).armTarget c).1 }
  if ((s.bar n).armTarget c).2 then s1.put (F.FPE_STATUS_ARM_MISSED n) 1 else s1

theorem State.completeBar_fits (s : State) (n : Fin 32) (c : BarCheck) (fit : s.barFits n = true) :
    s.completeBar n c = if c.arming then (s.barPassed n).armBar n c else s.barPassed n := by
  unfold State.completeBar
  rw [if_pos fit]
  rfl

theorem State.barPassed_spec (s : State) (n : Fin 32) :
    ((s.barPassed n).bar n).check = none ∧ (s.barPassed n).bit (F.FPE_STATUS_BUSY n) = false
      ∧ (s.barPassed n).g (F.FPE_STATUS_ERR n) = 0 := by
  refine ⟨?_, ?_, State.g_put_same _ _ _ (Nat.le_of_ble_eq_true rfl)⟩
  · simp [State.barPassed, State.bar_put]
  · rw [State.barPassed, State.bit_put_of_apart _ _ (Nat.le_of_ble_eq_true rfl) (.inr (.inl (Nat.le_of_ble_eq_true rfl)))]
    exact State.bit_put_zero _ _ (Nat.le_of_ble_eq_true rfl)

/-- An arming leaves the fields of FPE_STATUS alone but ARM_MISSED. -/
theorem State.g_armBar (s : State) (n : Fin 32) (c : BarCheck) {e : Field} (ho : e.off = A.FPE_STATUS n)
    (apart : e.Apart (F.FPE_STATUS_ARM_MISSED n)) : (s.armBar n c).g e = s.g e := by
  have kept (f : Bar → Bar) : ((s.put (F.FPE_CTL_ARM n) 1).modBar n f).g e = s.g e := by
    rw [State.g_modBar]
    exact State.g_put_of_apart _ _ (Nat.le_of_ble_eq_true rfl) (.inl (ho ▸ barOff_ne _ (by decide)))
  unfold State.armBar
  split
  · rw [State.g_put_of_apart _ _ (Nat.le_of_ble_eq_true rfl) apart, kept]
  · rw [kept]

theorem State.armBar_spec (s : State) (n : Fin 32) (c : BarCheck) :
    (s.armBar n c).bit (F.FPE_CTL_ARM n) = true
      ∧ (s.armBar n c).bar n = { s.bar n with armed := some ((s.bar n).armTarget c).1 } := by
  have arm : (s.put (F.FPE_CTL_ARM n) 1).bit (F.FPE_CTL_ARM n) = true :=
    State.bit_put_one _ _ (Nat.le_of_ble_eq_true rfl) rfl
  unfold State.armBar
  split
  · rw [State.bit_put_of_apart _ _ (Nat.le_of_ble_eq_true rfl) (.inl (barOff_ne _ (by decide))), State.bit_modBar]
    exact ⟨arm, by simp [State.bar_put]⟩
  · rw [State.bit_modBar]
    exact ⟨arm, by simp [State.bar_put]⟩

/-- A check of a bar's set that passes: ERR is 0, and a check that a write of 1 to ARM started arms the set. -/
theorem State.completeBar_passes (s : State) (n : Fin 32) (c : BarCheck) (fit : s.barFits n = true) :
    let t := s.completeBar n c
    (t.bar n).check = none ∧ t.bit (F.FPE_STATUS_BUSY n) = false ∧ t.g (F.FPE_STATUS_ERR n) = 0
      ∧ (c.arming = true → t.bit (F.FPE_CTL_ARM n) = true ∧ (c.atLine = false → (t.bar n).armed = some .pageStart)) := by
  obtain ⟨check, busy, err⟩ := s.barPassed_spec n
  extract_lets t
  cases arms : c.arming with
  | false =>
    have eq : t = s.barPassed n := by simp only [t, s.completeBar_fits n c fit, arms, Bool.false_eq_true, if_false]
    rw [eq]
    exact ⟨check, busy, err, nofun⟩
  | true =>
    have eq : t = (s.barPassed n).armBar n c := by simp only [t, s.completeBar_fits n c fit, arms, if_true]
    obtain ⟨arm, bar⟩ := (s.barPassed n).armBar_spec n c
    rw [eq, bar]
    refine ⟨check, ?_, ?_, fun _ => ⟨arm, fun early => by simp [Bar.armTarget, early]⟩⟩
    · unfold State.bit at busy ⊢
      rwa [State.g_armBar _ _ _ rfl (.inr (.inl (Nat.le_of_ble_eq_true rfl)))]
    · rwa [State.g_armBar _ _ _ rfl (.inr (.inr (Nat.le_of_ble_eq_true rfl)))]

/-- The check of bar `n` ends with a set that does not fit: ERR shows SCHED_OVERRUN and the set is disarmed. -/
def State.barRefused (s : State) (n : Fin 32) : State :=
  ((((s.modBar n fun b => { b with check := none }).put (F.FPE_STATUS_BUSY n) 0).put (F.FPE_STATUS_ERR n)
    Status.schedOverrun.code).put (F.FPE_CTL_ARM n) 0).modBar n fun b => { b with armed := none }

theorem State.completeBar_refuses (s : State) (n : Fin 32) (c : BarCheck) (fit : s.barFits n = false) :
    s.completeBar n c = (s.barRefused n).setCause (F.FPE_FCAUSE_CFG_REFUSED n) := by
  unfold State.completeBar
  rw [if_neg (by simp [fit])]
  rfl

theorem State.barRefused_spec (s : State) (n : Fin 32) : (s.barRefused n).bar n = { s.bar n with check := none, armed := none }
    ∧ (s.barRefused n).bit (F.FPE_STATUS_BUSY n) = false ∧ (s.barRefused n).g (F.FPE_STATUS_ERR n) = 0x0D
    ∧ (s.barRefused n).bit (F.FPE_CTL_ARM n) = false := by
  unfold State.barRefused
  refine ⟨?_, ?_, ?_, ?_⟩
  · rw [State.bar_modBar_same, State.bar_put, State.bar_put, State.bar_put, State.bar_modBar_same]
  · rw [State.bit_modBar, State.bit_put_of_apart _ _ (Nat.le_of_ble_eq_true rfl) (.inl (barOff_ne _ (by decide))),
      State.bit_put_of_apart _ _ (Nat.le_of_ble_eq_true rfl) (.inr (.inl (Nat.le_of_ble_eq_true rfl)))]
    exact State.bit_put_zero _ _ (Nat.le_of_ble_eq_true rfl)
  · rw [State.g_modBar, State.g_put_of_apart _ _ (Nat.le_of_ble_eq_true rfl) (.inl (barOff_ne _ (by decide)))]
    exact State.g_put_same _ _ _ (Nat.le_of_ble_eq_true rfl)
  · rw [State.bit_modBar]
    exact State.bit_put_zero _ _ (Nat.le_of_ble_eq_true rfl)

/-- A check of a bar's set that fails disarms it with SCHED_OVERRUN. -/
theorem State.completeBar_fails (s : State) (n : Fin 32) (c : BarCheck) (fit : s.barFits n = false) :
    let t := s.completeBar n c
    (t.bar n).check = none ∧ t.bit (F.FPE_STATUS_BUSY n) = false ∧ t.g (F.FPE_STATUS_ERR n) = 0x0D
      ∧ t.bit (F.FPE_CTL_ARM n) = false ∧ (t.bar n).armed = none ∧ t.bit (F.FPE_FCAUSE_CFG_REFUSED n) = true := by
  obtain ⟨bar, busy, err, arm⟩ := s.barRefused_spec n
  have kept {e : Field} (other : e.off ≠ A.FPE_FCAUSE n) (hr : ¬ routerReg e.off) :
      ((s.barRefused n).setCause (F.FPE_FCAUSE_CFG_REFUSED n)).g e = (s.barRefused n).g e :=
    State.g_setCause_of_apart _ (Nat.le_of_ble_eq_true rfl) (.inl other) hr
  rw [s.completeBar_refuses n c fit]
  unfold State.bit at busy arm
  refine ⟨?_, ?_, ?_, ?_, ?_, State.bit_setCause _ _ (Nat.le_of_ble_eq_true rfl) rfl (not_routerReg_above _ (by decide))⟩
  · rw [State.bar_setCause, bar]
  · unfold State.bit
    rwa [kept (barOff_ne _ (by decide)) (not_routerReg_above _ (by decide))]
  · rwa [kept (barOff_ne _ (by decide)) (not_routerReg_above _ (by decide))]
  · unfold State.bit
    rwa [kept (barOff_ne _ (by decide)) (not_routerReg_above _ (by decide))]
  · rw [State.bar_setCause, bar]

/-- A missed forced hand-over leaves GARM, BUSY, ERR and the grid's own state alone. -/
theorem State.forceEval_leaves (s : State) : s.forceEval.grid = s.grid
    ∧ s.forceEval.bit F.GRID_CTL_GARM = s.bit F.GRID_CTL_GARM
    ∧ s.forceEval.bit F.GRID_STATUS_BUSY = s.bit F.GRID_STATUS_BUSY
    ∧ s.forceEval.g F.GRID_STATUS_ERR = s.g F.GRID_STATUS_ERR := by
  have missed : let t := (s.put F.GRID_STATUS_FORCE_MISSED 1).put F.GRID_CTL_FORCE 0
      t.grid = s.grid ∧ t.bit F.GRID_CTL_GARM = s.bit F.GRID_CTL_GARM
        ∧ t.bit F.GRID_STATUS_BUSY = s.bit F.GRID_STATUS_BUSY ∧ t.g F.GRID_STATUS_ERR = s.g F.GRID_STATUS_ERR := by
    refine ⟨rfl, ?_, ?_, ?_⟩
    · rw [State.bit_put_of_apart _ _ (by decide) (.inr (by decide)),
        State.bit_put_of_apart _ _ (by decide) (.inl (by decide))]
    · rw [State.bit_put_of_apart _ _ (by decide) (.inl (by decide)),
        State.bit_put_of_apart _ _ (by decide) (.inr (by decide))]
    · rw [State.g_put_of_apart _ _ (by decide) (.inl (by decide)),
        State.g_put_of_apart _ _ (by decide) (.inr (by decide))]
  unfold State.forceEval
  split
  · extract_lets miss
    split
    · exact missed
    · exact ⟨rfl, rfl, rfl, rfl⟩
  · exact ⟨rfl, rfl, rfl, rfl⟩

/-- The check of the global set ends with the error code `v`. -/
def State.gridChecked (s : State) (v : Nat) : State :=
  (({ s with grid := { s.grid with check := none } }).put F.GRID_STATUS_BUSY 0).put F.GRID_STATUS_ERR v

/-- The armed global set remembers the line of the check's FORCE. -/
def State.armGrid (s : State) (c : GridCheck) : State :=
  ({ s with grid := { s.grid with forceBar := c.bar, forceLine := c.line } }).put F.GRID_CTL_GARM 1

theorem State.completeGrid_eq (s : State) (c : GridCheck) : s.completeGrid c =
    if s.gridFits then
      if c.arming then ((s.gridChecked Status.ok.code).armGrid c).forceEval else s.gridChecked Status.ok.code
    else (s.gridChecked Status.schedOverrun.code).put F.GRID_CTL_GARM 0 := rfl

theorem State.gridChecked_busy (s : State) (v : Nat) : (s.gridChecked v).bit F.GRID_STATUS_BUSY = false := by
  unfold State.gridChecked
  rw [State.bit_put_of_apart _ _ (by decide) (.inr (by decide))]
  exact State.bit_put_zero _ _ (by decide)

theorem State.gridChecked_err (s : State) (v : Nat) (small : v < 2 ^ 8) : (s.gridChecked v).g F.GRID_STATUS_ERR = v := by
  unfold State.gridChecked
  rw [State.g_put_same _ _ _ (by decide)]
  exact Nat.mod_eq_of_lt small

/-- Arming the global set leaves the registers other than its control register alone. -/
theorem State.g_armGrid (s : State) (c : GridCheck) {e : Field} (h : e.Apart F.GRID_CTL_GARM) :
    (s.armGrid c).g e = s.g e := by
  unfold State.armGrid
  rw [State.g_put_of_apart _ _ (by decide) h]
  rfl

/-- A check of the global set ends: a set that passes shows OK, armed after a write of 1 to GARM; one that fails is
disarmed with SCHED_OVERRUN. -/
theorem State.completeGrid_spec (s : State) (c : GridCheck) :
    let t := s.completeGrid c
    t.grid.check = none ∧ t.bit F.GRID_STATUS_BUSY = false
      ∧ (s.gridFits = true → t.g F.GRID_STATUS_ERR = 0 ∧ (c.arming = true → t.bit F.GRID_CTL_GARM = true))
      ∧ (s.gridFits = false → t.g F.GRID_STATUS_ERR = 0x0D ∧ t.bit F.GRID_CTL_GARM = false) := by
  have ok := s.gridChecked_err Status.ok.code (by decide)
  have refused := s.gridChecked_err Status.schedOverrun.code (by decide)
  rw [s.completeGrid_eq c]
  cases fit : s.gridFits with
  | false =>
    rw [if_neg Bool.false_ne_true]
    refine ⟨rfl, ?_, nofun, fun _ => ⟨?_, State.bit_put_zero _ _ (by decide)⟩⟩
    · rw [State.bit_put_of_apart _ _ (by decide) (.inl (by decide)), State.gridChecked_busy]
    · rwa [State.g_put_of_apart _ _ (by decide) (.inl (by decide))]
  | true =>
    rw [if_pos rfl]
    cases arms : c.arming with
    | false =>
      rw [if_neg Bool.false_ne_true]
      exact ⟨rfl, s.gridChecked_busy _, fun _ => ⟨ok, nofun⟩, nofun⟩
    | true =>
      rw [if_pos rfl]
      obtain ⟨grid, garm, busy, err⟩ := ((s.gridChecked Status.ok.code).armGrid c).forceEval_leaves
      dsimp only
      rw [grid, garm, busy, err]
      refine ⟨rfl, ?_, fun _ => ⟨?_, fun _ => State.bit_put_one _ _ (by decide) rfl⟩, nofun⟩
      · unfold State.bit
        rw [State.g_armGrid _ _ (.inl (by decide))]
        exact s.gridChecked_busy _
      · rwa [State.g_armGrid _ _ (.inl (by decide))]

end Sys2Proof.Machine

open Sys2Proof.Machine in
/-- Settles O22: the start of a check and a shadow write by what each stores, the end of a check by its verdict. -/
theorem armingChecksAndShadows : Obligations.ArmingChecksAndShadows := by
  unfold Obligations.ArmingChecksAndShadows
  intro s n v
  refine ⟨fun takes => ⟨?_, fun r => ?_⟩, fun takes => ⟨?_, fun r => ?_⟩, fun c check => ?_, fun c check => ?_⟩
  · refine ⟨_, congrArg Host.Outcome.next (s.atBlock_takes takes _), s.startBarCheck_only n true (by simp) (by simp),
      s.startBarCheck_busy n true, fun handed => ?_, fun quiet => ?_, s.startBarCheck_check n true⟩
    · rw [State.startBarCheck_eq, if_pos (by simp [handed]), State.bit_modBar]
      exact State.bit_put_one _ _ (Nat.le_of_ble_eq_true rfl) rfl
    · exact (s.startBarCheck_only n true (xs := [A.FPE_STATUS n]) (by simp) (by simp [quiet])).2.2 _
        (by simp [A.FPE_CTL, A.FPE_STATUS])
  · obtain ⟨only, reg, late, armed, unarmed⟩ := s.barShadowWrite_spec n r v
    refine ⟨_, congrArg Host.Outcome.next (s.atBlock_takes takes _), only, reg, fun handed => ?_, fun quiet => ?_, armed,
      fun clear => ?_⟩
    · rw [late, s.shadowStored_late n r v handed]
    · rw [late, State.bit_of_reg (f := F.FPE_STATUS_SHADOW_LATE n) (s.shadowStored_status n r v quiet)]
    · rw [unarmed clear, s.shadowStored_bar n r v]
      exact ⟨rfl, s.shadowStored_busy n r v⟩
  · obtain ⟨⟨frame, regs⟩, check, busy, garm, quiet⟩ := s.startGridCheck_spec
    exact ⟨_, congrArg Host.Outcome.next (s.atBlock_takes takes _), check, busy, frame,
      fun a status ctl => regs a (by simp [status, ctl]), garm, quiet⟩
  · obtain ⟨⟨frame, regs⟩, reg, late, armed, unarmed⟩ := s.gridShadowWrite_spec r v
    refine ⟨_, congrArg Host.Outcome.next (s.atBlock_takes takes _), reg, frame,
      fun a shadow status => regs a (by simp [shadow, status]), fun handed => ?_, fun quiet => ?_, armed, fun clear => ?_⟩
    · rw [late, s.gridShadowStored_late r v handed]
    · rw [late, State.bit_of_reg (f := F.GRID_STATUS_SHADOW_LATE) (s.gridShadowStored_status r v quiet)]
    · rw [unarmed clear]
      exact ⟨s.gridShadowStored_grid r v, s.gridShadowStored_busy r v⟩
  · refine ⟨s.completeBar n c, by simp only [exec, execSchedCheck, check], ?_⟩
    cases fit : s.barFits n with
    | true =>
      obtain ⟨ended, busy, err, arms⟩ := s.completeBar_passes n c fit
      exact ⟨ended, busy, fun _ => ⟨err, arms⟩, nofun⟩
    | false =>
      obtain ⟨ended, busy, err, arm, moment, refused⟩ := s.completeBar_fails n c fit
      exact ⟨ended, busy, nofun, fun _ => ⟨err, arm, moment, refused⟩⟩
  · exact ⟨s.completeGrid c, by simp only [exec, execSchedCheck, check], s.completeGrid_spec c⟩
end

section
/-!
PROOFS. The start of a page whose hand-over brings a word of no shadow set (02 R65, R72); O23.
-/

namespace Sys2Proof.Machine

/-- A page of one line that starts at print position 0. -/
def headPage : PageDesc :=
  { page := 1, kind := 0, pt := 0, tofsrc := 0, abs := true, lines := 1, tofseq := 0, seed := 0, start := 0, tag := 0
    serial := 1, base := 0 }

/-- Bar 0, enabled, has that page at the head of its queue, due at this tick; its set is handed over at index 0 in the
PORT cycle of a write that replaced the word 0x100 below FPE_CUR_PAGE. -/
def handsOverCurPage : State :=
  let s := (State.reset.put (F.FPE_CTL_EN 0) 1).modBar 0 fun b => { b with
    queue := [headPage]
    armed := some .pageStart
    shadowAt := some { cycle := 0, was := [(A.FPE_CUR_PAGE 0 - 0x100, 5#32)] } }
  { s with grid := { s.grid with ticks := 1 } }

/-- The head page meets every condition of a start, with a lag of 0. -/
theorem handsOverCurPage_starts : (handsOverCurPage.bar 0).page = none
    ∧ (handsOverCurPage.bar 0).queue = [headPage] ∧ handsOverCurPage.bit (F.FPE_CTL_EN (0 : Fin 32)) = true
    ∧ (handsOverCurPage.bar 0).endTick ≠ handsOverCurPage.tick ∧ handsOverCurPage.portKilled 0 = false
    ∧ handsOverCurPage.leader = false ∧ handsOverCurPage.bit (F.FPE_CTL_ARM (0 : Fin 32)) = false
    ∧ handsOverCurPage.predict = 0
    ∧ handsOverCurPage.g48 (F.FPE_OFFSET_LO_LIVE_V (0 : Fin 32)) (F.FPE_OFFSET_HI_LIVE_V (0 : Fin 32)) = 0 := by
  decide +kernel

/-- The page starts and its index 0 is skipped; FPE_CUR_PAGE shows what the hand-over has written there. -/
theorem selectBar_handsOverCurPage : (handsOverCurPage.selectBar 0).2 = false
    ∧ (handsOverCurPage.selectBar 0).1.g (F.FPE_CUR_PAGE_V (0 : Fin 32)) = 5 := by decide +kernel

end Sys2Proof.Machine

open Sys2Proof.Machine in
/-- Refutes O23 by its clause on the head page: when `handsOverCurPage` selects index 0, the hand-over of the bar's set
stores 5 in FPE_CUR_PAGE, where the clause wants the page's number 1. No operation lists that offset among the writes
of a PORT cycle, but the clause speaks of every state. -/
theorem not_gridTicksAndLineSelection : ¬ Obligations.GridTicksAndLineSelection := by
  unfold Obligations.GridTicksAndLineSelection
  rintro ⟨-, -, starts⟩
  obtain ⟨page, queue, en, endTick, killed, follower, arm, predict, offset⟩ := handsOverCurPage_starts
  obtain ⟨selected, shows⟩ := selectBar_handsOverCurPage
  obtain ⟨-, -, -, head⟩ := starts handsOverCurPage 0 headPage [] page queue
  have due := (head ⟨en, endTick, killed⟩ (fun leads => by simp [follower] at leads) 0 (.inl ⟨rfl, rfl⟩)).2
  simp only [arm, offset, predict, Bool.false_eq_true, false_and, if_false] at due
  obtain ⟨-, cur, -⟩ := (due (by norm_num)).2 selected
  rw [shows] at cur
  exact absurd cur (by decide)
end

section
/-!
PROOFS. Hand-overs in the PORT cycle of a write that replaced a word of no shadow set (02 R72); O25.
-/

namespace Sys2Proof.Machine

/-- Bar 0 hands its set over at index 0 in the PORT cycle of a shadow write whose word stands for the live copy at
GRID_CTL; the forced line of the grid is that index too. -/
def handsOverGridCtl : State :=
  State.reset.modBar 0 fun b => { b with
    armed := some .pageStart
    shadowAt := some { cycle := 0, was := [(A.GRID_CTL - 0x100, 0xC#32)] } }

/-- GARM and FORCE come with the hand-over of the bar, and the grid's set follows in the same selection. -/
theorem handsOverGridCtl_garm : handsOverGridCtl.bit F.GRID_CTL_GARM = false
    ∧ (handsOverGridCtl.bar 0).armed = some .pageStart
    ∧ (handsOverGridCtl.barHandover 0).bit F.GRID_CTL_GARM = true
    ∧ (handsOverGridCtl.handoversAt 0 0).bit F.GRID_CTL_GARM = false := by decide +kernel

end Sys2Proof.Machine

open Sys2Proof.Machine in
/-- Refutes O25 by its clause on the hand-over at an index: in `handsOverGridCtl` the writes of the PORT cycle list the
word 0x100 below GRID_CTL, so the hand-over of the bar's set raises GARM and FORCE and the global set is handed over in
the same selection. No operation lists that offset, but the clause, unlike the one before it, speaks of every list. -/
theorem not_handOversAndAutotune : ¬ Obligations.HandOversAndAutotune := by
  unfold Obligations.HandOversAndAutotune
  rintro ⟨bars, -⟩
  obtain ⟨clear, armed, set, gone⟩ := handsOverGridCtl_garm
  obtain ⟨-, -, -, selects⟩ := bars handsOverGridCtl 0
  have same := (selects 0 clear).1 (.inl ⟨rfl, .inl armed⟩)
  rw [same, set] at gone
  exact absurd gone (by decide)
end

section
/-!
PROOFS. Kills: what an asserted kill does to one port and, over all ports, what it leaves alone (02 R60-R63); O27.
-/

namespace Sys2Proof.Machine

section
variable (s : State) (cause : Field) (n : Fin 32)

/-- What a kill does to a port whose domain is on (R60, R63). -/
theorem State.bar_killPort_same (h : s.up (barDomain n) = true) : (s.killPort cause n).bar n =
    { s.bar n with
      killSeen := true
      killCount := if (s.bar n).killSeen then (s.bar n).killCount else (s.bar n).unbegun
      out := { (s.bar n).out with cutAt := some ((s.bar n).out.cutAt.getD s.now) }
      et := { (s.bar n).et with lineVoid := 0xFF } } := by
  simp [State.killPort, h]

/-- A kill of a port leaves the other bars alone. -/
theorem State.bar_killPort_other {m : Fin 32} (h : m ≠ n) : (s.killPort cause n).bar m = s.bar m := by
  unfold State.killPort
  split
  · rfl
  · rw [State.bar_modBar_other _ _ h, State.bar_setCause]

/-- A kill sets its cause on a port whose domain is on. -/
theorem State.bit_killPort_same (h : s.up (barDomain n) = true) (hl : cause.lo + 1 ≤ 32) (hw : cause.w = 1)
    (hr : ¬ routerReg cause.off) : (s.killPort cause n).bit cause = true := by
  simp [State.killPort, h, State.bit_setCause s cause hl hw hr]

/-- A kill leaves every register alone but the one of its cause and the router's. -/
theorem State.reg_killPort {a : Nat} (ha : a ≠ cause.off) (hr : ¬ routerReg a) :
    (s.killPort cause n).reg a = s.reg a := by
  unfold State.killPort
  split
  · rfl
  · rw [State.reg_modBar, State.reg_setCause_other s cause ha hr]

/-- A kill of a port leaves the level of HKILL_N alone. -/
@[simp] theorem State.hkillLow_killPort : (s.killPort cause n).hkillLow = s.hkillLow := by
  unfold State.killPort
  split
  · rfl
  · simp

end

/-- Every port is killed with its own bit of FPE_FCAUSE. -/
def State.killAll (s : State) (lo : Nat) : State :=
  allBars.foldl (fun s (n : Fin 32) => s.killPort ⟨A.FPE_FCAUSE n, lo, 1⟩ n) s

theorem fcause_inj {m n : Fin 32} (h : m ≠ n) : A.FPE_FCAUSE m ≠ A.FPE_FCAUSE n := by
  simp only [A.FPE_FCAUSE]; omega

theorem not_routerReg_fcause (n : Nat) : ¬ routerReg (A.FPE_FCAUSE n) := not_routerReg_above _ (by decide)

/-- A kill of every port leaves every register alone but the ports' causes and the router's. -/
theorem State.reg_killAll (s : State) (lo : Nat) {a : Nat} (ha : ∀ n : Fin 32, a ≠ A.FPE_FCAUSE n) (hr : ¬ routerReg a) :
    (s.killAll lo).reg a = s.reg a :=
  foldl_keeps (P := fun t => t.reg a = s.reg a) _
    (fun t (n : Fin 32) h => (t.reg_killPort ⟨A.FPE_FCAUSE n, lo, 1⟩ n (ha n) hr).trans h) rfl

theorem State.hkillLow_killAll (s : State) (lo : Nat) : (s.killAll lo).hkillLow = s.hkillLow :=
  foldl_keeps (P := fun t => t.hkillLow = s.hkillLow) _ (fun t (n : Fin 32) h => (t.hkillLow_killPort _ n).trans h)
    rfl

/-- A kill of every port reaches each whose domain is on: the page ends at the next tick, the strobe output falls at
once, and the cause is set (R60, R63). -/
theorem State.killAll_reaches (s : State) {lo : Nat} (hl : lo + 1 ≤ 32) (m : Fin 32) (up : s.up (barDomain m) = true) :
    ((s.killAll lo).bar m).killSeen = true ∧ ((s.killAll lo).bar m).out.cutAt.isSome = true
      ∧ (s.killAll lo).bit ⟨A.FPE_FCAUSE m, lo, 1⟩ = true := by
  refine foldl_establishes m allBars_nodup (mem_allBars m) (R := fun t => t.up (barDomain m) = true)
    (Q := fun t => (t.bar m).killSeen = true ∧ (t.bar m).out.cutAt.isSome = true
      ∧ t.bit ⟨A.FPE_FCAUSE m, lo, 1⟩ = true) (fun t n _ ht => ?_) (fun t ht => ?_) (fun t n hn ht => ?_) up
  · unfold State.up at ht ⊢
    rwa [t.reg_killPort _ n (by simp [A.PWR_DOM_STATUS, A.FPE_FCAUSE]; omega) (not_routerReg_below (by decide))]
  · rw [t.bar_killPort_same _ m ht]
    exact ⟨rfl, rfl, t.bit_killPort_same _ m ht hl rfl (not_routerReg_fcause m)⟩
  · rw [t.bar_killPort_other _ n (Ne.symm hn)]
    unfold State.bit State.g at ht ⊢
    rwa [t.reg_killPort ⟨A.FPE_FCAUSE n, lo, 1⟩ n (fcause_inj (Ne.symm hn)) (not_routerReg_fcause m)]

/-- GRID_KILL is none of the registers that a kill of every port changes. -/
theorem State.bit_gridKill_killAll (s : State) (lo b : Nat) :
    (s.killAll lo).bit ⟨A.GRID_KILL, b, 1⟩ = s.bit ⟨A.GRID_KILL, b, 1⟩ := by
  unfold State.bit State.g
  rw [s.reg_killAll lo (fun n => by simp [A.GRID_KILL, A.FPE_FCAUSE]; omega) (not_routerReg_of_le (a := A.GRID_KILL) (by decide))]

/-- HKILL_N falls (R60, R61). -/
theorem State.hkill_low (s : State) (run : s.seqRun = false) :
    s.hkill true = (({ s with hkillLow := true } : State).put F.GRID_KILL_PIN_LATCH 1).killAll 3 := by
  unfold State.hkill
  rw [if_pos (by rw [run]; rfl)]
  rfl

/-- GRID_KILL.SWKILL rises (R61). -/
theorem State.gridSwkill_rises (s : State) (clear : s.bit F.GRID_KILL_SWKILL = false) :
    s.gridSwkill true = (s.putb F.GRID_KILL_SWKILL true).killAll 5 := by
  unfold State.gridSwkill
  rw [if_pos (by rw [clear]; rfl)]
  rfl

/-- FPE_CTL.SWKILL rises (R61). -/
theorem State.fpeSwkill_rises (s : State) (n : Fin 32) (clear : s.bit (F.FPE_CTL_SWKILL n) = false) :
    s.fpeSwkill n true = (s.putb (F.FPE_CTL_SWKILL n) true).killPort (F.FPE_FCAUSE_KILL_SW n) n := by
  unfold State.fpeSwkill
  rw [if_pos (by rw [clear]; rfl)]

/-- A register of bar `n` reaches its port exactly while the bar's domain is on. -/
theorem State.takes_fpeCtl {s : State} {n : Fin 32} (h : s.takes (A.FPE_CTL n)) : s.up (barDomain n) = true := by
  have up := h.2
  rwa [s.blockUp_bar n (by simp only [A.FPE_CTL]; omega)] at up

end Sys2Proof.Machine

open Sys2Proof.Machine in
/-- Settles O27: HKILL_N and GRID_KILL.SWKILL by what a kill of every port reaches, FPE_CTL.SWKILL by the kill of one
port, the latches by their fields. -/
theorem killsAndTheirLatches : Obligations.KillsAndTheirLatches := by
  unfold Obligations.KillsAndTheirLatches
  intro s n
  refine ⟨fun run => ⟨_, rfl, ?_⟩, ⟨_, rfl, rfl⟩, fun takes => ⟨fun clear => ?_, ?_, fun high => ?_, fun low => ?_⟩,
    fun ctl status => ⟨fun clear => ?_, ?_, fun off => ?_, fun on => ?_⟩⟩
  · rw [s.hkill_low run]
    refine ⟨by rw [State.hkillLow_killAll]; rfl, ?_, fun m up => State.killAll_reaches _ (by decide) m ?_⟩
    · rw [F.GRID_KILL_PIN_LATCH, State.bit_gridKill_killAll]
      exact State.bit_put_one _ _ (by decide) rfl
    · rw [State.up_put _ _ _ _ (by decide)]
      exact up
  · refine ⟨_, congrArg Host.Outcome.next (s.atBlock_takes takes _), ?_⟩
    rw [s.gridSwkill_rises clear]
    refine ⟨?_, fun m up => ?_⟩
    · rw [F.GRID_KILL_SWKILL, State.bit_gridKill_killAll]
      exact State.bit_putb _ _ _ (by decide) rfl
    · have reached := (s.putb F.GRID_KILL_SWKILL true).killAll_reaches (lo := 5) (by decide) m
        (by rw [State.putb, State.up_put _ _ _ _ (by decide)]; exact up)
      exact ⟨reached.1, reached.2.2⟩
  · exact ⟨_, congrArg Host.Outcome.next (s.atBlock_takes takes _), s.onlyRegs_put _ _,
      State.bit_putb _ _ _ (by decide) rfl⟩
  · refine ⟨_, congrArg Host.Outcome.next (s.atBlock_takes takes _), ?_⟩
    simp only [State.killLatchClear, high, Bool.false_eq_true, if_false]
    exact ⟨s.onlyRegs_put _ _, State.bit_putb s _ false (by decide) rfl⟩
  · refine ⟨_, congrArg Host.Outcome.next (s.atBlock_takes takes _), ?_⟩
    simp only [State.killLatchClear, low, if_true]
  · refine ⟨_, congrArg Host.Outcome.next (s.atBlock_takes ctl _), ?_⟩
    have up : (s.putb (F.FPE_CTL_SWKILL n) true).up (barDomain n) = true := by
      rw [State.putb, State.up_put _ _ _ _ (by simp [A.PWR_DOM_STATUS, F.FPE_CTL_SWKILL, A.FPE_CTL]; omega)]
      exact State.takes_fpeCtl ctl
    rw [s.fpeSwkill_rises n clear]
    refine ⟨?_, by rw [State.bar_killPort_same _ _ _ up], State.bit_killPort_same _ _ _ up
      (Nat.le_of_ble_eq_true rfl) rfl (not_routerReg_fcause n), fun m other => by rw [State.bar_killPort_other _ _ _ other]; rfl⟩
    have apart : A.FPE_CTL n ≠ A.FPE_FCAUSE n := by simp [A.FPE_CTL, A.FPE_FCAUSE]
    have kept := State.reg_killPort (s.putb (F.FPE_CTL_SWKILL n) true) (F.FPE_FCAUSE_KILL_SW n) n apart
      (not_routerReg_above _ (by decide))
    have set := State.bit_putb s (F.FPE_CTL_SWKILL n) true (Nat.le_of_ble_eq_true rfl) rfl
    unfold State.bit State.g at set ⊢
    rwa [show (F.FPE_CTL_SWKILL n).off = A.FPE_CTL n from rfl, kept]
  · exact ⟨_, congrArg Host.Outcome.next (s.atBlock_takes ctl _), s.onlyRegs_put _ _,
      State.bit_putb _ _ _ (Nat.le_of_ble_eq_true rfl) rfl⟩
  · refine ⟨_, congrArg Host.Outcome.next (s.atBlock_takes status _), ?_⟩
    simp only [State.killLatchClear, off, Bool.false_eq_true, if_false]
    exact ⟨s.onlyRegs_put _ _, State.bit_putb s _ false (Nat.le_of_ble_eq_true rfl) rfl⟩
  · refine ⟨_, congrArg Host.Outcome.next (s.atBlock_takes status _), ?_⟩
    simp only [State.killLatchClear, on, if_true]
end

section
/-!
PROOFS. The frames of the next line: sums of distinct powers of 2 as data bits, and what a frame is built from
(02 R49-R52; 08 R233); used for O30 and O40.
-/

namespace Sys2Proof.Machine

/-! ## Data bits as sums of powers of 2 -/

/-- Adding the power of a bit that is clear sets that bit alone. -/
theorem testBit_add_two_pow {a k : Nat} (clear : a.testBit k = false) (i : Nat) :
    (a + 2 ^ k).testBit i = (a.testBit i || decide (i = k)) := by
  rcases Nat.lt_trichotomy i k with below | rfl | above
  · rw [Nat.add_comm, Nat.testBit_two_pow_add_gt below, decide_eq_false (Nat.ne_of_lt below), Bool.or_false]
  · rw [Nat.add_comm, Nat.testBit_two_pow_add_eq, clear]
    simp
  · have even : a / 2 ^ k % 2 = 0 := by simpa [Nat.testBit_eq_decide_div_mod_eq] using clear
    have high : (a + 2 ^ k) / 2 ^ (k + 1) = a / 2 ^ (k + 1) := by
      rw [pow_succ, ← Nat.div_div_eq_div_mul, ← Nat.div_div_eq_div_mul, Nat.add_div_right _ (Nat.two_pow_pos k)]
      omega
    obtain ⟨j, rfl⟩ := Nat.exists_eq_add_of_lt above
    have shift (x : Nat) : x.testBit (k + j + 1) = (x / 2 ^ (k + 1)).testBit j := by
      rw [Nat.testBit_div_two_pow]
      congr 1
      omega
    rw [shift, shift, high, decide_eq_false (Nat.ne_of_gt above), Bool.or_false]

/-- A sum of powers of 2 with distinct exponents has just those bits. -/
theorem testBit_foldl_two_pow {α : Type} (p : α → Bool) (f : α → Nat) (l : List α) (distinct : (l.map f).Nodup) (i : Nat) :
    ∀ a : Nat, (∀ x ∈ l, a.testBit (f x) = false) →
      ((l.foldl (fun a x => if p x = true then a + 2 ^ f x else a) a).testBit i = true
        ↔ a.testBit i = true ∨ ∃ x ∈ l, p x = true ∧ i = f x) := by
  induction l with
  | nil => simp
  | cons x l ih =>
    intro a clear
    obtain ⟨apart, rest⟩ := List.nodup_cons.1 distinct
    have later (y) (hy : y ∈ l) : f y ≠ f x := fun e => apart (List.mem_map.2 ⟨y, hy, e⟩)
    rw [List.foldl_cons]
    cases taken : p x with
    | false =>
      rw [if_neg Bool.false_ne_true, ih rest a fun y hy => clear y (List.mem_cons_of_mem x hy)]
      simp [taken]
    | true =>
      have set := testBit_add_two_pow (clear x List.mem_cons_self)
      rw [if_pos rfl, ih rest (a + 2 ^ f x) fun y hy => by simp [set, clear y (List.mem_cons_of_mem x hy), later y hy], set]
      simp [taken, or_assoc]

/-- A register above the router's pending bits is none of its registers. -/
theorem not_routerReg_behind {a : Nat} (h : 0x49008 ≤ a) : ¬ routerReg a := by
  rintro (r | r) <;> omega

/-! ## Counters -/

/-- A counter after a count, held at its largest value. -/
theorem State.g_bumpBy (s : State) (f : Field) (k : Nat) (h : f.lo + f.w ≤ 32) :
    (s.bumpBy f k).g f = min (s.g f + k) (2 ^ f.w - 1) := by
  have pos : 0 < 2 ^ f.w := Nat.two_pow_pos _
  unfold State.bumpBy
  rw [State.g_put_same _ _ _ h, Nat.mod_eq_of_lt]
  omega

theorem State.bar_bumpBy (s : State) (f : Field) (k : Nat) (m : Fin 32) : (s.bumpBy f k).bar m = s.bar m := by
  rw [State.bumpBy, State.bar_put]

/-- A count counts. -/
theorem State.counted_bump (s : State) {f : Field} (h : f.lo + f.w ≤ 32) : s.counted (s.bump f) f := by
  unfold State.counted
  rw [State.g_bump s f h]

/-! ## The nozzle state table -/

theorem State.nozState_eq (s : State) (n seg i : Nat) (clean : s.ueBad = []) :
    s.nozState n seg i = (s.byteAt (0x02000000 + n * 0x40000 + seg * 20480 + i)).toNat % 4 := by
  simp [State.nozState, State.badAt, clean, entryAddr]

/-! ## The frames of a port -/

/-- A change of a bar that changes nothing. -/
theorem State.modBar_same (s : State) (n : Fin 32) (f : Bar → Bar) (same : f (s.bar n) = s.bar n) : s.modBar n f = s := by
  unfold State.modBar State.setBar
  rw [same]
  simp [State.bar]

@[simp] theorem State.bar_modEt (s : State) (n : Fin 32) (f : Et → Et) :
    ((s.modEt n f).bar n) = { s.bar n with et := f (s.bar n).et } := by
  simp [State.modEt]

section
variable (s : State) (n : Fin 32) (idx : Option FrameIdx) (data : List Nat) (test : Option TestLine)

/-- MODE of a segment's frame with its data bits and the drops thinned and unplaceable among them. -/
def State.framePart (k : Nat) : FrameMode × Nat × Nat × Nat :=
  (s.frameMode n k data test.isSome, s.frameData n k (s.frameMode n k data test.isSome) idx test)

/-- The frame of segment `k`. -/
def State.frameOf (k : Nat) : SegFrame :=
  s.segFrame n k (s.framePart n idx data test k).1 (s.framePart n idx data test k).2.1 test.isSome

/-- The eight frames of a port for its next line. -/
def State.lineFrame : LineFrame :=
  let segs := (List.range 8).map (s.frameOf n idx data test)
  { idx := idx, data := data, unserved := (s.bar n).unserved, segs := segs
    idles := LineFrame.idlesOf segs (s.bar n).unserved
    gts := s.liveGts n, test := test, warmOff := decide (1 ≤ s.stage n) }

/-- The port shifts a frame and remembers it as the last one. -/
def State.shiftFrame (f : LineFrame) : State := s.modBar n fun b => { b with shifting := some f, lastSent := some f }

theorem lineFrame_segs {k : Nat} (h : k < 8) :
    (s.lineFrame n idx data test).segs[k]? = some (s.frameOf n idx data test k) := by
  simp [State.lineFrame, h]

end

/-! ## The data of a frame by its MODE -/

section
variable (s : State) (n : Fin 32) (k : Nat)

theorem State.frameData_idle (idx : Option FrameIdx) (test : Option TestLine) :
    s.frameData n k .idle idx test = (0, 0, 0) := rfl

theorem State.frameData_warm (idx : Option FrameIdx) (test : Option TestLine) :
    s.frameData n k .warm idx test = (0, 0, 0) := rfl

theorem State.frameData_print {i : FrameIdx} {p : Page} (page : (s.bar n).page = some p) (test : Option TestLine) :
    s.frameData n k .print (some i) test = s.segScan n p.desc i.idx k 20480 := by
  unfold State.frameData
  rw [page]

theorem State.frameData_reference (idx : Option FrameIdx) : s.frameData n k .test idx (some .reference) = (0, 0, 0) := rfl

theorem State.frameData_step (idx : Option FrameIdx) (c w : Nat) :
    s.frameData n k .test idx (some (.step c w)) = (s.etData n c k, 0, 0) := rfl

end

/-- A port that sends no index shifts the frames of a line of its own, a test line or not. -/
theorem State.buildFrames_unselected (s : State) (n : Fin 32) (on : s.up (barDomain n) = true) (none' : (s.bar n).sel = none) :
    s.buildFrames n = (s.etLine n).1.shiftFrame n ((s.etLine n).1.lineFrame n none [] (s.etLine n).2) := by
  unfold State.buildFrames
  rw [if_neg (by simp [on])]
  simp only [none']
  rfl

theorem State.frameOf_mode (s : State) (n : Fin 32) (idx : Option FrameIdx) (data : List Nat) (test : Option TestLine)
    (k : Nat) : (s.frameOf n idx data test k).mode = (s.framePart n idx data test k).1 := rfl

theorem State.frameOf_data (s : State) (n : Fin 32) (idx : Option FrameIdx) (data : List Nat) (test : Option TestLine)
    (k : Nat) : (s.frameOf n idx data test k).data = BitVec.ofNat 20480 (s.framePart n idx data test k).2.1 := rfl

end Sys2Proof.Machine
end

section
/-!
PROOFS. The frames of a selected index: header and CRCs, codes after window and seam, and what each nozzle does with
its code (02 R49-R52, R66; 03 R79-R89); O30.
-/

namespace Sys2Proof.Machine

/-! ## CRCs and the header (R51) -/

theorem crcStep_eq (w poly reg : Nat) (b : Bool) : crcStep w poly reg b =
    if (reg.testBit (w - 1) != b) = true then (reg * 2 % 2 ^ w) ^^^ poly else reg * 2 % 2 ^ w := by
  rw [Nat.testBit_eq_decide_div_mod_eq]
  rfl

theorem crcBits_succ (w poly init m v : Nat) :
    crcBits w poly init (m + 1) v = crcStep w poly (crcBits w poly init m v) (v.testBit m) := by
  simp [crcBits, List.range_succ]

/-- A CRC register of `w` bits holds `w` bits. -/
theorem crcBits_lt {w poly init : Nat} (hi : init < 2 ^ w) (hp : poly < 2 ^ w) (m v : Nat) :
    crcBits w poly init m v < 2 ^ w := by
  induction m with
  | zero => exact hi
  | succ m _ =>
    have shifted (r : Nat) : r * 2 % 2 ^ w < 2 ^ w := Nat.mod_lt _ (Nat.two_pow_pos w)
    rw [crcBits_succ, crcStep_eq]
    split
    · exact Nat.xor_lt_two_pow (shifted _) hp
    · exact shifted _

theorem hcrc_lt (v : Nat) : hcrc v < 256 := crcBits_lt (w := 8) (by decide) (by decide) 56 v

/-- The first 56 bits of a segment's header (Table 2.4). -/
def SegFrame.headerLow (f : SegFrame) (seg : Nat) : Nat :=
  0xA9 + seg % 8 * 2 ^ 8 + b2n f.onSpare * 2 ^ 11 + f.mode.code * 2 ^ 12 + f.warm % 8 * 2 ^ 14 + f.line % 256 * 2 ^ 24
    + f.pcrc % 2 ^ 16 * 2 ^ 32

theorem b2n_le (b : Bool) : b2n b ≤ 1 := by cases b <;> decide

theorem FrameMode.code_lt (m : FrameMode) : m.code < 4 := by cases m <;> decide

theorem SegFrame.headerLow_lt (f : SegFrame) (seg : Nat) : f.headerLow seg < 2 ^ 48 := by
  have spare := b2n_le f.onSpare
  have mode := f.mode.code_lt
  unfold SegFrame.headerLow
  omega

theorem SegFrame.header_toNat (f : SegFrame) (seg : Nat) :
    (f.header seg).toNat = f.headerLow seg + hcrc (f.headerLow seg) * 2 ^ 56 := by
  have low := f.headerLow_lt seg
  have crc := hcrc_lt (f.headerLow seg)
  refine (BitVec.toNat_ofNat _ _).trans (Nat.mod_eq_of_lt ?_)
  change f.headerLow seg + hcrc (f.headerLow seg) * 2 ^ 56 < 2 ^ 64
  omega

/-! ## Codes after window and seam (R66, R86, R87) -/

section
variable (s : State) (n : Nat) (d : PageDesc)

theorem State.slotCode_clean (l : Int) (seg p : Nat) (clean : s.ueBad = []) : s.slotCode n d l seg p =
    if l < 0 ∨ (d.lines : Int) ≤ l then 0
    else (s.byteAt (n * 0x100000 + (d.base + l.toNat) % 48 * 20480 + seg * 2560 + p / 4)).toNat / 4 ^ (p % 4) % 4 := by
  simp [State.slotCode, State.badAt, clean, codeAddr]

theorem State.inWindow_iff (seg p : Nat) : s.inWindow n seg p = true ↔
    s.g (F.FPE_WIN_START_LIVE_V n) ≤ 10240 * seg + p ∧ 10240 * seg + p ≤ s.g (F.FPE_WIN_END_LIVE_V n) := by
  simp [State.inWindow]

theorem State.windowCode_in {l : Int} {seg p : Nat} (h : s.inWindow n seg p = true) :
    s.windowCode n d l seg p = s.slotCode n d l seg p := by
  rw [State.windowCode, if_pos h]

theorem State.windowCode_out {l : Int} {seg p : Nat} (h : ¬ s.inWindow n seg p = true) : s.windowCode n d l seg p = 0 := by
  rw [State.windowCode, if_neg h]

theorem State.seamOn_iff (k : Nat) : s.seamOn n d k = true ↔ d.kind = 0 ∧ 0 < s.g (F.NST_STITCH_LIVE_OVERLAP n) ∧ k < 7
    ∧ s.segOn n k = true ∧ s.segOn n (k + 1) = true := by
  simp [State.seamOn, and_assoc]

theorem State.seamPasses_iff (l k j c : Nat) : s.seamPasses n d l k j c = true ↔ (c = 1 ∨ c = 2)
    ∧ mixH (lfsrAt d.seed l) (0x40000 + 10240 * (k + 1) - s.g (F.NST_STITCH_LIVE_OVERLAP n) + j) / 2 ^ 19 % 256
      < 256 * (j + 1) / (s.g (F.NST_STITCH_LIVE_OVERLAP n) + 1) := by
  simp [State.seamPasses]

/-- The trailing zone of an active seam keeps what does not pass to the next segment. -/
theorem State.codeOf_trailing {l : Int} {seg p : Nat} (seam : s.seamOn n d seg = true)
    (zone : 10240 - s.g (F.NST_STITCH_LIVE_OVERLAP n) ≤ p) : s.codeOf n d l seg p =
      if s.seamPasses n d l.toNat seg (p - (10240 - s.g (F.NST_STITCH_LIVE_OVERLAP n))) (s.windowCode n d l seg p) then 0
      else s.windowCode n d l seg p := by
  simp [State.codeOf, seam, zone]

/-- The leading zone takes what the segment before passes to it. -/
theorem State.codeOf_leading {l : Int} {seg p : Nat} (behind : 0 < seg) (seam : s.seamOn n d (seg - 1) = true)
    (zone : p < s.g (F.NST_STITCH_LIVE_OVERLAP n)) (apart : ¬ 10240 - s.g (F.NST_STITCH_LIVE_OVERLAP n) ≤ p) :
    s.codeOf n d l seg p =
      let c := s.windowCode n d l (seg - 1) (10240 - s.g (F.NST_STITCH_LIVE_OVERLAP n) + p)
      if s.seamPasses n d l.toNat (seg - 1) p c && s.inWindow n seg p then c else 0 := by
  simp [State.codeOf, seam, zone, apart, behind]

/-- Outside both zones a position has its own code. -/
theorem State.codeOf_plain {l : Int} {seg p : Nat}
    (trailing : ¬ (s.seamOn n d seg = true ∧ 10240 - s.g (F.NST_STITCH_LIVE_OVERLAP n) ≤ p))
    (leading : ¬ (0 < seg ∧ s.seamOn n d (seg - 1) = true ∧ p < s.g (F.NST_STITCH_LIVE_OVERLAP n))) :
    s.codeOf n d l seg p = s.windowCode n d l seg p := by
  unfold State.codeOf
  rw [if_neg (by simpa using trailing), if_neg (by simpa [and_assoc] using leading)]

/-- No passing of code 0. -/
theorem State.seamPasses_zero (l k j : Nat) : s.seamPasses n d l k j 0 = false := by
  simp [State.seamPasses]

end

/-- The overlap of a seam is below 128 columns. -/
theorem State.overlap_lt (s : State) (n : Nat) : s.g (F.NST_STITCH_LIVE_OVERLAP n) < 128 :=
  Word.field_lt _ _ _

/-! ## What a nozzle does with its code (R80, R82, R84, R85, R88) -/

/-- Table 3.3 by the states of the primary and the partner. -/
theorem allocate_spec {c : Nat} (P Q : Nat) (even : Bool) (coded : c = 1 ∨ c = 2) :
    let a := allocate c (nozClass P) (nozClass Q) even
    (a.1 = true ↔ (P = 0 ∧ (Q = 0 → c = 2 ∨ even = true)) ∨ (P = 1 ∧ 2 ≤ Q))
      ∧ (a.2.1 = true ↔ (Q = 0 ∧ (P = 0 → c = 2 ∨ even = false)) ∨ (Q = 1 ∧ 2 ≤ P))
      ∧ (P = 0 ∧ Q = 0 → a.2.2 = 0)
      ∧ ((P = 0 ∧ Q ≠ 0) ∨ (P ≠ 0 ∧ Q = 0) ∨ (P = 1 ∧ 2 ≤ Q) ∨ (2 ≤ P ∧ Q = 1) → a.2.2 = c - 1)
      ∧ ((P = 1 ∧ Q = 1) ∨ (2 ≤ P ∧ 2 ≤ Q) → a.2.2 = c) := by
  have two {k : Nat} : nozClass (k + 2) = .unusable := by simp [nozClass]
  have zero : nozClass 0 = .good := rfl
  have one : nozClass 1 = .weak := rfl
  match P, Q with
  | 0, 0 => rcases coded with rfl | rfl <;> simp [zero, allocate]
  | 0, 1 | 1, 0 | 1, 1 => simp [zero, one, allocate]
  | 0, k + 2 | k + 2, 0 | 1, k + 2 | k + 2, 1 => simp [zero, one, two, allocate]
  | j + 2, k + 2 => simp [two, allocate]

section
variable (s : State) (n : Nat) (d : PageDesc) (l : Int) (seg i : Nat)

theorem State.nozzleEval_none (h : s.codeOf n d l seg (positionOf i) = 0) : s.nozzleEval n d l seg i = (false, 0, 0) := by
  unfold State.nozzleEval
  rw [if_pos h]

/-- A test code fires the nozzle that PT names unless it is retired; a retired one's drop is unplaceable while its
neighbour is not retired. -/
theorem State.nozzleEval_test (h : s.codeOf n d l seg (positionOf i) = 3) :
    let P := s.nozState n seg (primaryOf (positionOf i))
    let Q := s.nozState n seg (partnerOf (positionOf i))
    let named := decide (i < 10240) == (d.pt == 0)
    let own := if i < 10240 then P else Q
    s.nozzleEval n d l seg i = (named && own != 3, 0, if named && own == 3 && !(P == 3 && Q == 3) then 1 else 0) := by
  unfold State.nozzleEval
  simp [h]

variable {s n d l seg i} {c P Q : Nat}

/-- A code 1 or 2 fires what Table 3.3 gives to the nozzle, unless it is thinned. -/
theorem State.nozzleEval_coded (hc : s.codeOf n d l seg (positionOf i) = c) (coded : c = 1 ∨ c = 2)
    (hP : s.nozState n seg (primaryOf (positionOf i)) = P) (hQ : s.nozState n seg (partnerOf (positionOf i)) = Q) :
    ∃ (fires thin : Bool) (u : Nat),
      s.nozzleEval n d l seg i
          = (fires && !(fires && thin), b2n (fires && thin), if i < 10240 ∧ ¬ (P = 3 ∧ Q = 3) then u else 0)
        ∧ (fires = true ↔ (i < 10240 ∧ ((P = 0 ∧ (Q = 0 → c = 2 ∨ (l + positionOf i) % 2 = 0)) ∨ (P = 1 ∧ 2 ≤ Q)))
            ∨ (¬ i < 10240 ∧ ((Q = 0 ∧ (P = 0 → c = 2 ∨ ¬ (l + positionOf i) % 2 = 0)) ∨ (Q = 1 ∧ 2 ≤ P))))
        ∧ (thin = true ↔ s.bit (F.FPE_ROWOFS_LIVE_THIN_EN n) = true
            ∧ mixH (lfsrAt d.seed l.toNat) (seg * 20480 + i) / 2 ^ 27 < s.nozDens n seg i)
        ∧ (P = 0 ∧ Q = 0 → u = 0)
        ∧ ((P = 0 ∧ Q ≠ 0) ∨ (P ≠ 0 ∧ Q = 0) ∨ (P = 1 ∧ 2 ≤ Q) ∨ (2 ≤ P ∧ Q = 1) → u = c - 1)
        ∧ ((P = 1 ∧ Q = 1) ∨ (2 ≤ P ∧ 2 ≤ Q) → u = c) := by
  obtain ⟨fp, fq, drops⟩ := allocate_spec P Q ((l + positionOf i) % 2 == 0) coded
  have even : ((l + positionOf i) % 2 == 0) = true ↔ (l + positionOf i) % 2 = 0 := beq_iff_eq
  rw [even] at fp
  rw [← Bool.not_eq_true, even] at fq
  generalize table : allocate c (nozClass P) (nozClass Q) ((l + positionOf i) % 2 == 0) = a at fp fq drops
  refine ⟨if i < 10240 then a.1 else a.2.1, s.bit (F.FPE_ROWOFS_LIVE_THIN_EN n)
    && decide (mixH (lfsrAt d.seed l.toNat) (seg * 20480 + i) / 2 ^ 27 < s.nozDens n seg i), a.2.2, ?_, ?_, ?_, drops⟩
  · unfold State.nozzleEval
    rcases coded with rfl | rfl <;> simp [hc, hP, hQ, table, imp_iff_not_or, Bool.and_assoc]
  · by_cases first : i < 10240
    · simp only [first, if_true, fp, true_and, not_true_eq_false, false_and, or_false]
    · simp only [first, if_false, fq, false_and, false_or, not_false_eq_true, true_and]
  · rw [Bool.and_eq_true, decide_eq_true_iff]

end

/-! ## The data of a segment (R80) -/

/-- The data bits of a scan are what its nozzles do. -/
theorem State.testBit_segScan (s : State) (n : Nat) (d : PageDesc) (k seg m : Nat) :
    (s.segScan n d k seg m).1 < 2 ^ m ∧ ∀ j, j < m → (s.segScan n d k seg m).1.testBit j
      = (s.nozzleEval n d ((k : Int) - s.rowOfs n (rowOf j)) seg j).1 := by
  induction m with
  | zero => exact ⟨Nat.one_pos, nofun⟩
  | succ m ih =>
    obtain ⟨small, bits⟩ := ih
    have step : (s.segScan n d k seg (m + 1)).1 = (s.segScan n d k seg m).1
        + b2n (s.nozzleEval n d ((k : Int) - s.rowOfs n (rowOf m)) seg m).1 * 2 ^ m := rfl
    have clear : (s.segScan n d k seg m).1.testBit m = false := Nat.testBit_lt_two_pow small
    rw [step]
    cases fires : (s.nozzleEval n d ((k : Int) - s.rowOfs n (rowOf m)) seg m).1 with
    | false =>
      rw [b2n, if_neg Bool.false_ne_true, Nat.zero_mul, Nat.add_zero]
      refine ⟨Nat.lt_trans small (Nat.pow_lt_pow_succ Nat.one_lt_two), fun j hj => ?_⟩
      rcases Nat.lt_succ_iff_lt_or_eq.1 hj with below | rfl
      · exact bits j below
      · rw [clear, fires]
    | true =>
      rw [b2n, if_pos rfl, Nat.one_mul]
      refine ⟨by rw [pow_succ]; omega, fun j hj => ?_⟩
      rw [testBit_add_two_pow clear]
      rcases Nat.lt_succ_iff_lt_or_eq.1 hj with below | rfl
      · simp [Nat.ne_of_lt below, bits j below]
      · simp [fires]

/-! ## The frames of a selected index (R49, R52, R56, R58) -/

/-- Without error words a sweep of reads meets none. -/
theorem State.readErrsIf_clean (s : State) (f : Nat → Bool) (ce : s.ceBad = []) (ue : s.ueBad = []) :
    s.readErrsIf f = s := by
  simp [State.readErrsIf, ce, ue]

theorem State.frameReads_clean (s : State) (n : Fin 32) (idx : Option FrameIdx) (data : List Nat) (ce : s.ceBad = [])
    (ue : s.ueBad = []) : s.frameReads n idx data = s := by
  unfold State.frameReads
  split
  · exact s.readErrsIf_clean _ ce ue
  · rfl

/-- The drops of an index are counted over the segments whose frames carry its data. -/
theorem foldl_count_eq_sum (l : List Nat) (p : Nat → Bool) (f g : Nat → Nat) (yes : ∀ k, p k = true → f k = g k)
    (no : ∀ k, p k = false → f k = 0) (a : Nat) :
    l.foldl (fun a k => a + f k) a = a + ((l.filter p).map g).sum := by
  induction l generalizing a with
  | nil => rfl
  | cons k l ih =>
    rw [List.foldl_cons, ih]
    cases h : p k with
    | false => rw [no k h, List.filter_cons_of_neg (by simp [h]), Nat.add_zero]
    | true => rw [yes k h, List.filter_cons_of_pos h, List.map_cons, List.sum_cons, Nat.add_assoc]

section
variable (s : State) (n : Fin 32) (i : FrameIdx) (segs : List Nat)

/-- The port's state behind the choice of its line, with the frames that it shifts for an index. -/
def State.sendFrame : State :=
  (s.etGap n).shiftFrame n ((s.etGap n).lineFrame n (some i) segs none)

/-- The drops of the index, of one kind, as the frames count them. -/
def State.dropSum (f : Nat × Nat × Nat → Nat) : Nat :=
  (List.range 8).foldl (fun a k => a + f ((s.etGap n).framePart n (some i) segs none k).2) 0

/-- The drops of an index selected for the first time are counted (R88, R89). -/
def State.countDrops (un th : Nat) : State :=
  ((s.bumpBy (F.NST_UNPL_TOTAL_V n) un).bumpBy (F.NST_THIN_TOTAL_V n) th).modRec n fun r =>
    { r with unpl := r.unpl + un, thin := r.thin + th }

variable {s n i segs}

theorem State.buildFrames_selected (on : s.up (barDomain n) = true) (ce : s.ceBad = []) (ue : s.ueBad = [])
    (sel : (s.bar n).sel = some (i, segs)) : s.buildFrames n =
      if i.first then (s.sendFrame n i segs).countDrops n (s.dropSum n i segs (·.2.2)) (s.dropSum n i segs (·.2.1))
      else s.sendFrame n i segs := by
  have reads : (s.sendFrame n i segs).frameReads n (some i) segs = s.sendFrame n i segs :=
    State.frameReads_clean _ n _ _ ce ue
  have eq : s.buildFrames n = if i.first then ((s.sendFrame n i segs).frameReads n (some i) segs).countDrops n
      (s.dropSum n i segs (·.2.2)) (s.dropSum n i segs (·.2.1))
      else (s.sendFrame n i segs).frameReads n (some i) segs := by
    unfold State.buildFrames
    rw [if_neg (by simp [on])]
    simp only [sel]
    rfl
  rw [eq, reads]

end

/-- MODE of a segment's frame outside test lines. -/
theorem State.frameMode_plain (s : State) (n : Fin 32) (k : Nat) (data : List Nat) : s.frameMode n k data false =
    if s.segServed n k = true then if data.contains k then .print else .warm else .idle := by
  unfold State.frameMode
  cases served : s.segServed n k with
  | false => simp
  | true =>
    have on : s.segOn n k = true := by
      simp only [State.segServed, Bool.and_eq_true] at served
      exact served.1.2
    simp [on]

section
variable (s : State) (n : Fin 32)

/-- The gap's treatment leaves the bar alone but for its test state. -/
theorem State.bar_etGap : ∃ e, (s.etGap n).bar n = { s.bar n with et := e } := ⟨_, s.bar_modEt n _⟩

theorem State.segServed_etGap (k : Nat) : (s.etGap n).segServed n k = s.segServed n k := by
  obtain ⟨e, bar⟩ := s.bar_etGap n
  unfold State.segServed
  rw [bar]
  rfl

theorem State.segScan_etGap (d : PageDesc) (k seg m : Nat) : (s.etGap n).segScan n d k seg m = s.segScan n d k seg m := by
  induction m with
  | zero => rfl
  | succ m ih =>
    unfold State.segScan
    rw [ih]
    rfl

variable {s n} {i : FrameIdx} {p : Page} {segs : List Nat} {k : Nat}

/-- A segment that its lane serves and the index has data for prints. -/
theorem State.framePart_print (page : (s.bar n).page = some p) (served : s.segServed n k = true)
    (named : segs.contains k = true) :
    (s.etGap n).framePart n (some i) segs none k = (.print, s.segScan n p.desc i.idx k 20480) := by
  obtain ⟨e, bar⟩ := s.bar_etGap n
  have mode : (s.etGap n).frameMode n k segs false = .print := by
    rw [State.frameMode_plain, s.segServed_etGap, if_pos served, if_pos named]
  rw [State.framePart, Option.isSome_none, mode, State.frameData_print _ _ _ (by rw [bar]; exact page), s.segScan_etGap]

/-- Another segment that its lane serves gets warm pulses only. -/
theorem State.framePart_warm (served : s.segServed n k = true) (unnamed : segs.contains k = false) :
    (s.etGap n).framePart n (some i) segs none k = (.warm, 0, 0, 0) := by
  have mode : (s.etGap n).frameMode n k segs false = .warm := by
    rw [State.frameMode_plain, s.segServed_etGap, if_pos served, unnamed, if_neg Bool.false_ne_true]
  rw [State.framePart, Option.isSome_none, mode, State.frameData_warm]

/-- A segment that no lane serves idles. -/
theorem State.framePart_idle (unserved : s.segServed n k = false) :
    (s.etGap n).framePart n (some i) segs none k = (.idle, 0, 0, 0) := by
  have mode : (s.etGap n).frameMode n k segs false = .idle := by
    rw [State.frameMode_plain, s.segServed_etGap, unserved, if_neg Bool.false_ne_true]
  rw [State.framePart, Option.isSome_none, mode, State.frameData_idle]

/-- The drops of an index over its printing segments. -/
theorem State.dropSum_eq (page : (s.bar n).page = some p) (f : Nat × Nat × Nat → Nat) (zero : f (0, 0, 0) = 0) :
    s.dropSum n i segs f = (((List.range 8).filter fun k => s.segServed n k && segs.contains k).map fun k =>
      f (s.segScan n p.desc i.idx k 20480)).sum := by
  unfold State.dropSum
  rw [foldl_count_eq_sum _ (fun k => s.segServed n k && segs.contains k) _ fun k => f (s.segScan n p.desc i.idx k 20480),
    Nat.zero_add]
  · intro k print
    obtain ⟨served, named⟩ := Bool.and_eq_true_iff.1 print
    rw [State.framePart_print page served named]
  · intro k other
    cases served : s.segServed n k with
    | false => rw [State.framePart_idle served, zero]
    | true => rw [State.framePart_warm served (by simpa [served] using other), zero]

end

section
variable {s : State} {n : Fin 32} {i : FrameIdx} {p : Page} {segs : List Nat} {k : Nat}

/-- MODE and data of a segment's frame by whether a lane serves it and the index has data for it. -/
theorem State.frameOf_modes (page : (s.bar n).page = some p) :
    let x := (s.etGap n).frameOf n (some i) segs none k
    (s.segServed n k = false → x.mode = .idle) ∧ (s.segServed n k = true → k ∈ segs → x.mode = .print)
      ∧ (s.segServed n k = true → k ∉ segs → x.mode = .warm) ∧ (x.mode ≠ .print → x.data = 0)
      ∧ (x.mode = .print → ∀ j, j < 20480 → x.data.getLsbD j
          = (s.nozzleEval n p.desc ((i.idx : Int) - s.rowOfs n (rowOf j)) k j).1) := by
  dsimp only
  rw [State.frameOf_mode, State.frameOf_data]
  cases served : s.segServed n k with
  | false =>
    rw [State.framePart_idle served]
    exact ⟨fun _ => rfl, nofun, nofun, fun _ => BitVec.ofNat_eq_ofNat, nofun⟩
  | true =>
    cases named : segs.contains k with
    | false =>
      rw [State.framePart_warm served named]
      exact ⟨nofun, fun _ h => by simp_all, fun _ _ => rfl, fun _ => BitVec.ofNat_eq_ofNat, nofun⟩
    | true =>
      rw [State.framePart_print page served named]
      refine ⟨nofun, fun _ _ => rfl, fun _ h => by simp_all, fun h => absurd rfl h, fun _ j hj => ?_⟩
      rw [BitVec.getLsbD_ofNat, decide_eq_true hj, Bool.true_and]
      exact (s.testBit_segScan n p.desc i.idx k 20480).2 j hj

theorem State.frameOf_pcrc : ((s.etGap n).frameOf n (some i) segs none k).pcrc = (s.bar n).prevCrc k := by
  obtain ⟨e, bar⟩ := s.bar_etGap n
  change ((s.etGap n).bar n).prevCrc k = _
  rw [bar]
  rfl

theorem State.frameOf_onSpare : ((s.etGap n).frameOf n (some i) segs none k).onSpare = s.onD8 n k := rfl

theorem State.frameOf_warm : ((s.etGap n).frameOf n (some i) segs none k).warm = s.warmCount n k := rfl

end

/-! ## The frames on the data lanes (R14, R56, R58) -/

/-- The frames beside those of the segments. -/
theorem LineFrame.mem_idlesOf {segs : List SegFrame} {un : List Nat} {y : Nat × SegFrame} :
    y ∈ LineFrame.idlesOf segs un ↔ ∃ j x, segs[j]? = some x ∧ ((x.onSpare = true ∧ y = (j, x.idleOn false))
      ∨ (j ∈ un ∧ y = (if x.onSpare = true then 8 else j, x.idleOn x.onSpare))) := by
  unfold LineFrame.idlesOf
  simp only [List.mem_flatMap, List.mem_mapIdx, List.mem_append, List.getElem?_eq_some_iff]
  constructor
  · rintro ⟨_, ⟨j, hj, rfl⟩, idle⟩
    refine ⟨j, segs[j], ⟨hj, rfl⟩, ?_⟩
    rcases idle with own | spare
    · left; split at own <;> simp_all
    · right; split at spare <;> simp_all
  · rintro ⟨j, x, ⟨hj, rfl⟩, idle⟩
    refine ⟨_, ⟨j, hj, rfl⟩, ?_⟩
    rcases idle with ⟨on, rfl⟩ | ⟨un, rfl⟩
    · left; simp [on]
    · right; simp [un]

/-- What a search by key finds when all entries with the key agree. -/
theorem find?_key {α : Type} {l : List (Nat × α)} {k : Nat} {y : α} (named : (k, y) ∈ l)
    (only : ∀ z ∈ l, z.1 = k → z = (k, y)) : l.find? (fun z => z.1 == k) = some (k, y) := by
  cases found : l.find? fun z => z.1 == k with
  | none => exact absurd (beq_self_eq_true k) (List.find?_eq_none.1 found _ named)
  | some z => exact congrArg some (only z (List.mem_of_find?_eq_some found) (by simpa using List.find?_some found))

section
variable {f : LineFrame} {k : Nat} {x : SegFrame}

/-- A segment's own lane carries its frame. -/
theorem LineFrame.lane_own (idles : f.idles = LineFrame.idlesOf f.segs f.unserved) (small : k < 8) (frame : f.segs[k]? = some x)
    (served : k ∉ f.unserved) (own : x.onSpare = false) : f.lane k = some (k, x) := by
  have none' : f.idles.find? (fun y => y.1 == k) = none := by
    refine List.find?_eq_none.2 fun y hy key => ?_
    rw [idles, LineFrame.mem_idlesOf] at hy
    obtain ⟨j, z, hz, ⟨on, rfl⟩ | ⟨un, rfl⟩⟩ := hy
    · obtain rfl : j = k := by simpa using key
      simp_all
    · cases spare : z.onSpare with
      | true => simp [spare] at key; omega
      | false =>
        obtain rfl : j = k := by simpa [spare] using key
        exact served un
  simp [LineFrame.lane, none', frame, Nat.ne_of_lt small]

/-- While D8 carries a segment, its own lane idles. -/
theorem LineFrame.lane_idle (idles : f.idles = LineFrame.idlesOf f.segs f.unserved) (small : k < 8)
    (frame : f.segs[k]? = some x) (served : k ∉ f.unserved) (spare : x.onSpare = true) :
    f.lane k = some (k, x.idleOn false) := by
  have found : f.idles.find? (fun y => y.1 == k) = some (k, x.idleOn false) := by
    refine find?_key ?_ fun z hz key => ?_
    · rw [idles, LineFrame.mem_idlesOf]
      exact ⟨k, x, frame, .inl ⟨spare, rfl⟩⟩
    · rw [idles, LineFrame.mem_idlesOf] at hz
      obtain ⟨j, y, hy, ⟨on, rfl⟩ | ⟨un, rfl⟩⟩ := hz
      · obtain rfl : j = k := key
        simp_all
      · cases other : y.onSpare with
        | true => simp [other] at key; omega
        | false =>
          obtain rfl : j = k := by simpa [other] using key
          exact absurd un served
  simp [LineFrame.lane, found, frame, Nat.ne_of_lt small]

/-- D8 carries the frame of the segment it serves. -/
theorem LineFrame.lane_spare (idles : f.idles = LineFrame.idlesOf f.segs f.unserved) (eight : f.segs.length = 8)
    (frame : f.segs[k]? = some x) (served : k ∉ f.unserved) (spare : x.onSpare = true)
    (alone : ∀ j y, f.segs[j]? = some y → y.onSpare = true → j = k) : f.lane 8 = some (k, x) := by
  have none' : f.idles.find? (fun y => y.1 == 8) = none := by
    refine List.find?_eq_none.2 fun y hy key => ?_
    rw [idles, LineFrame.mem_idlesOf] at hy
    obtain ⟨j, z, hz, idle⟩ := hy
    have few : j < 8 := by
      obtain ⟨hj, -⟩ := List.getElem?_eq_some_iff.1 hz
      omega
    rcases idle with ⟨on, rfl⟩ | ⟨un, rfl⟩
    · simp at key; omega
    · cases other : z.onSpare with
      | true => exact served (alone j z hz other ▸ un)
      | false => simp [other] at key; omega
  have own : (f.segs.mapIdx fun seg x => (seg, x)).find? (fun x => x.2.onSpare) = some (k, x) := by
    obtain ⟨hk, rfl⟩ := List.getElem?_eq_some_iff.1 frame
    cases found : (f.segs.mapIdx fun seg x => (seg, x)).find? fun x => x.2.onSpare with
    | none => exact absurd spare (List.find?_eq_none.1 found (k, f.segs[k]) (List.mem_mapIdx.2 ⟨k, hk, rfl⟩))
    | some z =>
      obtain ⟨j, hj, rfl⟩ := List.mem_mapIdx.1 (List.mem_of_find?_eq_some found)
      obtain rfl : j = k := alone j _ (List.getElem?_eq_getElem hj) (by simpa using List.find?_some found)
      rfl
  simp [LineFrame.lane, none', own]

end

/-! ## The clauses of O30 -/

theorem State.segServed_iff (s : State) (n : Fin 32) (k : Nat) : s.segServed n k = true ↔
    s.segOn n k = true ∧ s.bit (F.FPE_CTL_EN n) = true ∧ k ∉ (s.bar n).unserved := by
  simp [State.segServed, and_assoc, and_left_comm]

theorem State.onD8_iff (s : State) (n : Fin 32) (k : Nat) :
    s.onD8 n k = true ↔ s.bit (F.FPE_LANE_SPARE_EN n) = true ∧ s.g (F.FPE_LANE_SPARE_SEG n) = k := by
  simp [State.onD8]

section
variable (s : State) (n : Fin 32) (un th : Nat)

theorem State.countDrops_totals : (s.countDrops n un th).g (F.NST_THIN_TOTAL_V n) = min (s.g (F.NST_THIN_TOTAL_V n) + th) (2 ^ 32 - 1)
    ∧ (s.countDrops n un th).g (F.NST_UNPL_TOTAL_V n) = min (s.g (F.NST_UNPL_TOTAL_V n) + un) (2 ^ 32 - 1) := by
  have other {u : State} {f e : Field} (k : Nat) (h : e.off ≠ f.off) : (u.bumpBy f k).g e = u.g e := State.g_put_other _ _ _ _ h
  unfold State.countDrops State.modRec State.modPage
  rw [State.g_modBar, State.g_modBar]
  constructor
  · rw [State.g_bumpBy _ _ _ (Nat.le_of_ble_eq_true rfl), other _ (barOff_ne _ (by decide))]
    rfl
  · rw [other _ (barOff_ne _ (by decide)), State.g_bumpBy _ _ _ (Nat.le_of_ble_eq_true rfl)]
    rfl

theorem State.countDrops_bar : (s.countDrops n un th).bar n = { s.bar n with
    page := (s.bar n).page.map fun p => { p with rcd := { p.rcd with unpl := p.rcd.unpl + un, thin := p.rcd.thin + th } } } := by
  unfold State.countDrops State.modRec State.modPage
  rw [State.bar_modBar_same, State.bar_bumpBy, State.bar_bumpBy]

theorem State.countDrops_other {m : Fin 32} (h : m ≠ n) : (s.countDrops n un th).bar m = s.bar m := by
  unfold State.countDrops State.modRec State.modPage
  rw [State.bar_modBar_other _ _ h, State.bar_bumpBy, State.bar_bumpBy]

variable (i : FrameIdx) (segs : List Nat)

theorem State.sendFrame_bar : ∃ e, (s.sendFrame n i segs).bar n = { s.bar n with
    et := e
    shifting := some ((s.etGap n).lineFrame n (some i) segs none)
    lastSent := some ((s.etGap n).lineFrame n (some i) segs none) } := by
  obtain ⟨e, bar⟩ := s.bar_etGap n
  refine ⟨e, ?_⟩
  rw [State.sendFrame, State.shiftFrame, State.bar_modBar_same, bar]

theorem State.sendFrame_other {m : Fin 32} (h : m ≠ n) : (s.sendFrame n i segs).bar m = s.bar m := by
  unfold State.sendFrame State.shiftFrame State.etGap State.modEt
  rw [State.bar_modBar_other _ _ h, State.bar_modBar_other _ _ h]

end

end Sys2Proof.Machine

open Sys2Proof.Machine in
/-- Settles O30: the frames by MODE and data of each segment, the codes by zone, and each nozzle by Table 3.3. -/
theorem framesAndDropAllocation : Obligations.FramesAndDropAllocation := by
  unfold Obligations.FramesAndDropAllocation
  refine ⟨fun s n i segs p on' ce ue sel page => ?_, fun f seg hseg hwarm hline hpcrc => ?_,
    fun w poly init m v hw hi hp => ?_, fun seed l x => ⟨rfl, rfl, rfl⟩, fun s n d l seg p clean hseg hp => ?_,
    fun s n d l seg i clean hi => ?_⟩
  · intro b t on d8 scans
    have sent := State.buildFrames_selected on' ce ue sel
    have unpl := State.dropSum_eq (i := i) (segs := segs) page (·.2.2) rfl
    have thin := State.dropSum_eq (i := i) (segs := segs) page (·.2.1) rfl
    obtain ⟨e, bar⟩ := s.sendFrame_bar n i segs
    have frames : ((s.etGap n).lineFrame n (some i) segs none).unserved = b.unserved := by
      obtain ⟨e', gap⟩ := s.bar_etGap n
      change ((s.etGap n).bar n).unserved = _
      rw [gap]
    have both : (t.bar n).shifting = some ((s.etGap n).lineFrame n (some i) segs none)
        ∧ (t.bar n).lastSent = some ((s.etGap n).lineFrame n (some i) segs none) := by
      rw [show t = _ from sent]
      split
      · rw [State.countDrops_bar, bar]
        exact ⟨rfl, rfl⟩
      · rw [bar]
        exact ⟨rfl, rfl⟩
    obtain ⟨shifts, lasts⟩ := both
    refine ⟨fun m hm => ?_, fun later => ?_, fun first => ?_, (s.etGap n).lineFrame n (some i) segs none, ?_, ?_, rfl, rfl,
      by simp [State.lineFrame], fun k hk => ?_⟩
    · rw [← s.sendFrame_other n i segs hm, show t = _ from sent]
      split
      · rw [State.countDrops_other _ _ _ _ hm]
      · rfl
    · rw [show t = _ from sent, later, if_neg Bool.false_ne_true, bar]
      exact page
    · rw [show t = _ from sent, if_pos first, thin, unpl]
      obtain ⟨thins, unpls⟩ := (s.sendFrame n i segs).countDrops_totals n (scans (·.2.2)) (scans (·.2.1))
      refine ⟨?_, thins, unpls⟩
      rw [State.countDrops_bar, bar]
      simp only [page, Option.map_some]
      rfl
    · rw [shifts]
    · rw [lasts]
    · obtain ⟨idle, print, warm, blank, data⟩ := State.frameOf_modes (i := i) (segs := segs) (k := k) page
      have served : s.segServed n k = true ↔ on k := s.segServed_iff n k
      have spare : ((s.etGap n).frameOf n (some i) segs none k).onSpare = true ↔ d8 k := s.onD8_iff n k
      refine ⟨(s.etGap n).frameOf n (some i) segs none k, lineFrame_segs _ _ _ _ _ hk,
        fun off => idle (by rwa [← served, Bool.not_eq_true] at off), fun h => print (served.2 h), fun h => warm (served.2 h),
        rfl, spare, fun h => ?_, fun h => ?_, fun h => ?_, fun g y h hy => ?_, blank, data, fun un own => ?_, fun un own => ⟨?_, ?_⟩⟩
      · rw [State.frameOf_warm, State.warmCount, if_pos h]
      · rw [State.frameOf_warm, State.warmCount, if_neg (by omega)]
        rfl
      · rw [State.frameOf_pcrc, Bar.prevCrc, show (s.bar n).lastSent = none from h]
      · rw [State.frameOf_pcrc, Bar.prevCrc, show (s.bar n).lastSent = some g from h]
        simp only [hy]
      · exact LineFrame.lane_own rfl hk (lineFrame_segs _ _ _ _ _ hk) (frames ▸ un) (by rwa [← spare, Bool.not_eq_true] at own)
      · refine LineFrame.lane_spare rfl (by simp [State.lineFrame]) (lineFrame_segs _ _ _ _ _ hk) (frames ▸ un) (spare.2 own)
          fun j y hy on => ?_
        have few : j < 8 := by
          obtain ⟨hj, -⟩ := List.getElem?_eq_some_iff.1 hy
          simpa [State.lineFrame] using hj
        rw [lineFrame_segs _ _ _ _ _ few, Option.some_inj] at hy
        rw [← hy, State.frameOf_onSpare, State.onD8_iff] at on
        exact on.2.symm.trans own.2
      · exact LineFrame.lane_idle rfl hk (lineFrame_segs _ _ _ _ _ hk) (frames ▸ un) (spare.2 own)
  · intro h
    have low := f.headerLow_lt seg
    have crc := hcrc_lt (f.headerLow seg)
    have spare := b2n_le f.onSpare
    have mode := f.mode.code_lt
    have parts : f.headerLow seg = 0xA9 + seg * 2 ^ 8 + b2n f.onSpare * 2 ^ 11 + f.mode.code * 2 ^ 12 + f.warm * 2 ^ 14
        + f.line * 2 ^ 24 + f.pcrc * 2 ^ 32 := by
      rw [SegFrame.headerLow, Nat.mod_eq_of_lt hseg, Nat.mod_eq_of_lt hwarm, Nat.mod_eq_of_lt hline, Nat.mod_eq_of_lt hpcrc]
    have whole : h = f.headerLow seg + hcrc (f.headerLow seg) * 2 ^ 56 := f.header_toNat seg
    have first : h % 2 ^ 56 = f.headerLow seg := by omega
    have modeBits : h / 2 ^ 12 % 4 = f.mode.code := by omega
    rw [first, ← show hcrc (f.headerLow seg) = crcBits 8 0x07 0 56 (f.headerLow seg) from rfl]
    refine ⟨by omega, by omega, ?_, modeBits.trans (by cases f.mode <;> rfl), by omega, by omega, by omega, by omega, by omega,
      by omega⟩
    have bit : h / 2 ^ 11 % 2 = b2n f.onSpare := by omega
    rw [Nat.testBit_eq_decide_div_mod_eq, bit]
    cases f.onSpare <;> rfl
  · exact ⟨rfl, crcBits_lt hi hp m v, by rw [crcBits_succ, crcStep_eq]⟩
  · intro o win slot seam passes code
    have hwin (g q : Nat) : win g q ↔ s.inWindow n g q = true := (s.inWindow_iff n g q).symm
    have hseam (k : Nat) : seam k ↔ s.seamOn n d k = true := (s.seamOn_iff n d k).symm
    have hpass (k j c : Nat) : passes k j c ↔ s.seamPasses n d l.toNat k j c = true := (s.seamPasses_iff n d _ k j c).symm
    have hslot (g q : Nat) : s.slotCode n d l g q = slot g q := s.slotCode_clean n d l g q clean
    have few : o < 128 := s.overlap_lt n
    refine ⟨fun trailing leading => ?_, fun active zone => ?_, fun behind active zone => ?_⟩
    · have plain : code = s.windowCode n d l seg p :=
        s.codeOf_plain n d (by rwa [← hseam]) (by rwa [← hseam])
      refine ⟨fun inside => ?_, fun outside => ?_⟩
      · rw [plain, s.windowCode_in n d ((hwin _ _).1 inside), hslot]
      · rw [plain, s.windowCode_out n d (by rwa [← hwin])]
    · have kept : code = _ := s.codeOf_trailing n d (l := l) ((hseam _).1 active) zone
      refine ⟨fun outside => ?_, fun inside pass => ?_, fun inside stay => ?_⟩
      · rw [kept, s.windowCode_out n d (by rwa [← hwin]), ite_self]
      · rw [kept, s.windowCode_in n d ((hwin _ _).1 inside), hslot, if_pos ((hpass _ _ _).1 pass)]
      · rw [kept, s.windowCode_in n d ((hwin _ _).1 inside), hslot, if_neg (by rwa [← hpass])]
    · have taken : code = _ := s.codeOf_leading n d (l := l) behind ((hseam _).1 active) zone (by omega)
      intro q
      refine ⟨fun inside own pass => ?_, fun lost => ?_⟩
      · rw [taken]
        dsimp only
        rw [s.windowCode_in n d ((hwin _ _).1 inside), hslot, (hpass _ _ _).1 pass, (hwin _ _).1 own]
        rfl
      · rw [taken]
        dsimp only
        by_cases inside : s.inWindow n (seg - 1) q = true
        · rw [s.windowCode_in n d inside, hslot]
          rw [← hwin] at inside
          rw [hwin seg, hpass] at lost
          rw [if_neg]
          intro both
          obtain ⟨pass, own⟩ := Bool.and_eq_true_iff.1 both
          exact lost.elim (fun h => h inside) fun h => h.elim (fun h => h own) fun h => h pass
        · rw [s.windowCode_out n d inside, State.seamPasses_zero]
          rfl
  · intro pos entry pri P Q first even c takes thins r
    have hP : s.nozState n seg (primaryOf (positionOf i)) = P := s.nozState_eq n seg _ clean
    have hQ : s.nozState n seg (partnerOf (positionOf i)) = Q := s.nozState_eq n seg _ clean
    refine ⟨s.nozzleEval_none n d l seg i, fun coded => ?_, fun test => ?_⟩
    · obtain ⟨fires, thin, u, eval, hfires, hthin, both, single, neither⟩ := State.nozzleEval_coded rfl coded hP hQ
      have eval : r = _ := eval
      have htakes : fires = true ↔ takes := hfires
      have hthins : thin = true ↔ thins := hthin
      rw [eval]
      refine ⟨?_, fun t h => ?_, fun h => ?_, fun h => ?_, fun h other => ?_, fun h other => ?_⟩
      · rw [← htakes, ← hthins]
        change (fires && !(fires && thin)) = true ↔ _
        cases fires <;> simp
      · rw [htakes.2 t, hthins.2 h]
        rfl
      · rw [← htakes, ← hthins] at h
        have off : (fires && thin) = false := by simpa [imp_iff_not_or] using h
        rw [off]
        rfl
      · rcases h with h | h | h
        · exact if_neg fun x => h x.1
        · exact if_neg fun x => x.2 h
        · exact ite_eq_right_iff.2 fun _ => both h
      · exact (if_pos ⟨h, by omega⟩).trans (single other)
      · exact (if_pos ⟨h, by omega⟩).trans (neither (by omega))
    · have eval : r = _ := s.nozzleEval_test n d l seg i test
      rw [hP, hQ] at eval
      intro named own
      have hnamed : named ↔ (decide (i < 10240) == (d.pt == 0)) = true := by
        rw [beq_iff_eq, Bool.eq_iff_iff, decide_eq_true_iff, beq_iff_eq]
      change r = ((decide (i < 10240) == (d.pt == 0)) && own != 3, 0,
        if ((decide (i < 10240) == (d.pt == 0)) && own == 3 && !(P == 3 && Q == 3)) = true then 1 else 0) at eval
      generalize (decide (i < 10240) == (d.pt == 0)) = is at eval hnamed
      rw [eval]
      refine ⟨by simp [hnamed], rfl, fun h retired alive => if_pos ?_, fun h => if_neg ?_⟩
      · rw [hnamed.1 h, retired]
        simpa [imp_iff_not_or] using alive
      · rw [hnamed] at h
        simp only [Bool.and_eq_true, beq_iff_eq, Bool.not_eq_true', Bool.and_eq_false_iff, beq_eq_false_iff_ne, not_and]
        rintro ⟨isNamed, retired⟩ apart
        exact h.elim (fun x => x isNamed) fun x => x.elim (fun x => x retired) fun x => apart.elim (fun y => y x.1) fun y => y x.2
end

section
/-!
PROOFS. Electrical test lines in bar gaps and the records of their strobes (08 R233-R237); O40.
-/

namespace Sys2Proof.Machine

/-! ## Which line a gap gets -/

theorem State.inGap_iff (s : State) (n : Fin 32) : s.inGap n = true ↔ s.up (barDomain n) = true ∧ (s.bar n).page = none
    ∧ s.grid.paused = false ∧ s.portKilled n = false ∧ s.bit (F.FPE_CTL_EN n) = true := by
  simp [State.inGap, Bar.inPage, and_assoc]

theorem State.etRoom_iff (s : State) : s.etRoom = true ↔ s.cal.etFifo.length < 256 ∧ s.cal.etWait = [] := by
  simp [State.etRoom]

/-- The test state of a bar after the gap is looked at. -/
def Et.inGap (e : Et) (gap : Bool) : Et :=
  if gap && e.gap then e else { e with gap := gap, blocks := 0, line := none, wwTold := false }

theorem State.etGap_eq (s : State) (n : Fin 32) : s.etGap n = s.modEt n fun e => e.inGap (s.inGap n) := rfl

theorem State.et_etGap (s : State) (n : Fin 32) : ((s.etGap n).bar n).et = (s.bar n).et.inGap (s.inGap n) := by
  rw [State.etGap_eq, State.bar_modEt]

/-- A gap that goes on changes nothing. -/
theorem State.etGap_same (s : State) (n : Fin 32) (gap : s.inGap n = true) (lasting : (s.bar n).et.gap = true) :
    s.etGap n = s := by
  have same : (s.bar n).et.inGap (s.inGap n) = (s.bar n).et := by simp [Et.inGap, gap, lasting]
  rw [State.etGap_eq]
  exact s.modBar_same n _ (congrArg (fun e => { s.bar n with et := e }) same)

theorem Et.inGap_gap (e : Et) (gap : Bool) : (e.inGap gap).gap = gap := by
  unfold Et.inGap
  split
  · next h => simp_all
  · rfl

theorem Et.inGap_claimed (e : Et) (gap : Bool) : (e.inGap gap).claimed = e.claimed := by
  unfold Et.inGap
  split <;> rfl

theorem Et.inGap_cur (e : Et) (gap : Bool) : (e.inGap gap).cur = e.cur ∧ (e.inGap gap).curWritten = e.curWritten := by
  unfold Et.inGap
  split <;> exact ⟨rfl, rfl⟩

/-- Inside a gap, the blocks and the line of a gap that goes on; a new gap starts with neither. -/
theorem Et.inGap_line (e : Et) : (e.inGap true).blocks = (if e.gap = true then e.blocks else 0)
    ∧ (e.inGap true).line = (if e.gap = true then e.line else none)
    ∧ (e.inGap true).wwTold = (e.gap && e.wwTold) := by
  unfold Et.inGap
  cases h : e.gap <;> simp

section
variable (s : State) (n : Fin 32)

/-- Whether the bar asks for test lines. -/
def State.etAsked : Bool := s.up .ana && s.bit ⟨A.CAL_ET_BARS, n, 1⟩

/-- A bar on which no class 2 measurement claims a line: the line of its next frame by the test's own rules. -/
theorem State.etLine_unclaimed (free : (s.bar n).et.claimed = 0) : s.etLine n =
    if (s.inGap n && s.etAsked n) = false then (s.etGap n, none)
    else if s.g F.GRID_WARM_LIVE_WW < 40 then
      (if ((s.etGap n).bar n).et.wwTold then s.etGap n
        else ((s.etGap n).modEt n fun e => { e with wwTold := true }).setCause F.CAL_ET_CAUSE_ET_WW, none)
    else match ((s.etGap n).bar n).et.line with
      | some l =>
        if l ≤ 16 then
          if s.etRoom then ((s.etGap n).etStep n, some (.step (s.bar n).et.cur (s.g (F.CAL_ET_CURn_SWEEP n))))
          else (s.etGap n, none)
        else if ((s.etGap n).bar n).et.blocks < s.g F.CAL_ET_CFG_BLOCKS ∧ s.etRoom then ((s.etGap n).etBlock n, some .reference)
        else (s.etGap n, none)
      | none => if s.etRoom then ((s.etGap n).etBlock n, some .reference) else (s.etGap n, none) := by
  have et := s.et_etGap n
  have gap : ((s.etGap n).bar n).et.gap = s.inGap n := by rw [et, Et.inGap_gap]
  have claimed : ((s.etGap n).bar n).et.claimed = 0 := by rw [et, Et.inGap_claimed, free]
  have cur : ((s.etGap n).bar n).et.cur = (s.bar n).et.cur := by rw [et, (Et.inGap_cur _ _).1]
  have up : (s.etGap n).up .ana = s.up .ana := rfl
  have asked : (s.etGap n).bit ⟨A.CAL_ET_BARS, n, 1⟩ = s.bit ⟨A.CAL_ET_BARS, n, 1⟩ := rfl
  have cond : (!s.up .ana || !s.inGap n || !s.bit ⟨A.CAL_ET_BARS, n, 1⟩) = true ↔ (s.inGap n && s.etAsked n) = false := by
    unfold State.etAsked
    cases s.up .ana <;> cases s.inGap n <;> cases s.bit ⟨A.CAL_ET_BARS, n, 1⟩ <;> decide
  unfold State.etLine
  simp only [gap, claimed, cur, up, asked, cond, Nat.lt_irrefl, decide_false, Bool.and_false, Bool.false_and,
    Bool.false_eq_true, if_false, false_and]
  rfl

/-- Outside a gap, and in a gap whose bar asks for none, no test line is sent. -/
theorem State.etLine_none (free : (s.bar n).et.claimed = 0) (h : (s.inGap n && s.etAsked n) = false) :
    s.etLine n = (s.etGap n, none) := by
  rw [s.etLine_unclaimed n free, if_pos h]

variable {s n} (free : (s.bar n).et.claimed = 0) (gap : s.inGap n = true) (asked : s.etAsked n = true)
include free gap asked

/-- A warm pulse too narrow for a test line is told once in a gap. -/
theorem State.etLine_narrow (narrow : s.g F.GRID_WARM_LIVE_WW < 40) : s.etLine n =
    (if ((s.etGap n).bar n).et.wwTold then s.etGap n
      else ((s.etGap n).modEt n fun e => { e with wwTold := true }).setCause F.CAL_ET_CAUSE_ET_WW, none) := by
  rw [s.etLine_unclaimed n free, if_neg (by simp [gap, asked]), if_pos narrow]

variable (wide : 40 ≤ s.g F.GRID_WARM_LIVE_WW)
include wide

/-- A full test FIFO holds every test line back. -/
theorem State.etLine_full (full : s.etRoom = false) : s.etLine n = (s.etGap n, none) := by
  rw [s.etLine_unclaimed n free, if_neg (by simp [gap, asked]), if_neg (Nat.not_lt.2 wide)]
  cases ((s.etGap n).bar n).et.line with
  | none => simp [full]
  | some l => simp [full]

variable (room : s.etRoom = true)
include room

/-- A gap without a block in progress begins one. -/
theorem State.etLine_first (idle : ((s.etGap n).bar n).et.line = none) :
    s.etLine n = ((s.etGap n).etBlock n, some .reference) := by
  rw [s.etLine_unclaimed n free, if_neg (by simp [gap, asked]), if_neg (Nat.not_lt.2 wide), idle]
  simp [room]

/-- After its last line a block is followed by the next one while there are blocks left. -/
theorem State.etLine_next {l : Nat} (line : ((s.etGap n).bar n).et.line = some l) (behind : 16 < l) :
    s.etLine n = if ((s.etGap n).bar n).et.blocks < s.g F.CAL_ET_CFG_BLOCKS then ((s.etGap n).etBlock n, some .reference)
      else (s.etGap n, none) := by
  rw [s.etLine_unclaimed n free, if_neg (by simp [gap, asked]), if_neg (Nat.not_lt.2 wide), line]
  simp [room, Nat.not_le.2 behind]

/-- Inside a block each line takes the cursor's next step. -/
theorem State.etLine_steps {l : Nat} (line : ((s.etGap n).bar n).et.line = some l) (inside : l ≤ 16) :
    s.etLine n = ((s.etGap n).etStep n, some (.step (s.bar n).et.cur (s.g (F.CAL_ET_CURn_SWEEP n)))) := by
  rw [s.etLine_unclaimed n free, if_neg (by simp [gap, asked]), if_neg (Nat.not_lt.2 wide), line]
  simp [room, inside]

end

/-! ## What a line's start leaves behind -/

/-- A block begins: its reference line, with the cursor register taken (R234). -/
theorem State.etBlock_et (s : State) (n : Fin 32) : ((s.etBlock n).bar n).et =
    { (s.bar n).et with
      blocks := (s.bar n).et.blocks + 1, line := some 1, cur := s.g (F.CAL_ET_CURn_CUR n), curWritten := false } := by
  unfold State.etBlock
  rw [State.bar_modEt]

/-- The cursor step after `c` (R235). -/
def nextCursor (c : Nat) : Nat := if c + 1 = 10240 then 0 else c + 1

/-- The cursor register follows the cursor unless it was written since the block began. -/
def State.etCurPut (s : State) (n : Fin 32) : State :=
  if (s.bar n).et.curWritten then s else s.put (F.CAL_ET_CURn_CUR n) (nextCursor (s.bar n).et.cur)

/-- The registers of a step: the cursor, and after the last step the end of the sweep. -/
def State.etCursor (s : State) (n : Fin 32) : State :=
  if nextCursor (s.bar n).et.cur = 0 then
    ((s.etCurPut n).put (F.CAL_ET_CURn_SWEEP n) ((s.etCurPut n).g (F.CAL_ET_CURn_SWEEP n) + 1)).setCause
      F.CAL_ET_CAUSE_SWEEP_DONE
  else s.etCurPut n

theorem State.etStep_eq (s : State) (n : Fin 32) : s.etStep n =
    (s.etCursor n).modEt n fun e => { e with line := e.line.map (· + 1), cur := nextCursor (s.bar n).et.cur } := rfl

theorem State.bar_etCursor (s : State) (n : Fin 32) : (s.etCursor n).bar n = s.bar n := by
  have put : (s.etCurPut n).bar n = s.bar n := by
    unfold State.etCurPut
    split
    · rfl
    · rw [State.bar_put]
  unfold State.etCursor
  split
  · rw [State.bar_setCause, State.bar_put, put]
  · exact put

theorem State.etStep_et (s : State) (n : Fin 32) : ((s.etStep n).bar n).et =
    { (s.bar n).et with line := (s.bar n).et.line.map (· + 1), cur := nextCursor (s.bar n).et.cur } := by
  rw [State.etStep_eq, State.bar_modEt, State.bar_etCursor]

/-- A cursor register is no cause register. -/
theorem etCur_off (n : Fin 32) : A.CAL_ET_CURn n ≠ A.CAL_ET_CAUSE ∧ ¬ routerReg (A.CAL_ET_CURn n) := by
  constructor
  · simp only [A.CAL_ET_CURn, A.CAL_ET_CAUSE]
    omega
  · exact not_routerReg_behind (by simp only [A.CAL_ET_CURn]; omega)

theorem State.etCursor_cur (s : State) (n : Fin 32) (unwritten : (s.bar n).et.curWritten = false)
    (small : (s.bar n).et.cur < 10240) : (s.etCursor n).g (F.CAL_ET_CURn_CUR n) = nextCursor (s.bar n).et.cur := by
  have fits : nextCursor (s.bar n).et.cur < 2 ^ 14 := by
    unfold nextCursor
    split <;> omega
  have stored : (s.etCurPut n).g (F.CAL_ET_CURn_CUR n) = nextCursor (s.bar n).et.cur := by
    rw [State.etCurPut, unwritten, if_neg Bool.false_ne_true, State.g_put_same _ _ _ (Nat.le_of_ble_eq_true rfl)]
    exact Nat.mod_eq_of_lt fits
  unfold State.etCursor
  split
  · rw [State.g_setCause_of_apart _ (by decide) (.inl (etCur_off n).1) (etCur_off n).2,
      State.g_put_of_apart _ _ (Nat.le_of_ble_eq_true rfl) (.inr (.inl (Nat.le_of_ble_eq_true rfl))), stored]
  · exact stored

/-- After step 10,239 the sweep is counted and SWEEP_DONE set. -/
theorem State.etCursor_sweep (s : State) (n : Fin 32) (last : nextCursor (s.bar n).et.cur = 0) :
    (s.etCursor n).bit F.CAL_ET_CAUSE_SWEEP_DONE = true
      ∧ (s.etCursor n).g (F.CAL_ET_CURn_SWEEP n)
        = (s.g (F.CAL_ET_CURn_SWEEP n) + 1) % 2 ^ (F.CAL_ET_CURn_SWEEP n).w := by
  have kept : (s.etCurPut n).g (F.CAL_ET_CURn_SWEEP n) = s.g (F.CAL_ET_CURn_SWEEP n) := by
    unfold State.etCurPut
    split
    · rfl
    · exact State.g_put_of_apart _ _ (Nat.le_of_ble_eq_true rfl) (.inr (.inr (Nat.le_of_ble_eq_true rfl)))
  rw [State.etCursor, if_pos last]
  refine ⟨State.bit_setCause _ _ (by decide) rfl (not_routerReg_behind (by decide)), ?_⟩
  rw [State.g_setCause_of_apart _ (by decide) (.inl (etCur_off n).1) (etCur_off n).2,
    State.g_put_same _ _ _ (Nat.le_of_ble_eq_true rfl), kept]

/-! ## The data of a test line (R235) -/

/-- The sixteen groups of a step test sixteen nozzles. -/
theorem etNozzle_distinct (t : Nat) : ((List.range 16).map fun g => (etNozzle t g).2).Nodup := by
  refine List.Nodup.map_on (fun x hx y hy e => ?_) List.nodup_range
  have hx := List.mem_range.1 hx
  have hy := List.mem_range.1 hy
  simp only [etNozzle] at e
  omega

theorem State.etFires_iff (s : State) (n : Fin 32) (t g : Nat) (clean : s.ueBad = []) : s.etFires n t g = true ↔
    s.segOn n (etNozzle t g).1 = true
      ∧ (s.byteAt (0x02000000 + n.val * 0x40000 + (etNozzle t g).1 * 20480 + (etNozzle t g).2)).toNat % 4 ≠ 3 := by
  simp [State.etFires, s.nozState_eq n _ _ clean]

theorem State.testBit_etData (s : State) (n : Fin 32) (t seg i : Nat) : (s.etData n t seg).testBit i = true ↔
    ∃ g, g < 16 ∧ (etNozzle t g).1 = seg ∧ s.etFires n t g = true ∧ i = (etNozzle t g).2 := by
  have bits := testBit_foldl_two_pow (fun g => decide ((etNozzle t g).1 = seg) && s.etFires n t g)
    (fun g => (etNozzle t g).2) (List.range 16) (etNozzle_distinct t) i 0 (by simp)
  simpa [State.etData, and_assoc] using bits

/-! ## The frames of a line without an index -/

/-- What the frames of port `n` read, apart from the test's own registers. -/
def State.FramesAlike (s u : State) (n : Fin 32) : Prop :=
  u.mem = s.mem ∧ u.ueBad = s.ueBad ∧ (u.bar n).unserved = (s.bar n).unserved ∧ ∀ a, 0xE0000 ≤ a → u.reg a = s.reg a

section
variable {s u : State} {n : Fin 32}

theorem State.FramesAlike.refl (s : State) (n : Fin 32) : s.FramesAlike s n := ⟨rfl, rfl, rfl, fun _ _ => rfl⟩

theorem State.FramesAlike.modEt (h : s.FramesAlike u n) (f : Et → Et) : s.FramesAlike (u.modEt n f) n := by
  obtain ⟨mem, ue, unserved, regs⟩ := h
  exact ⟨mem, ue, by rw [State.bar_modEt]; exact unserved, regs⟩

theorem State.FramesAlike.calUse (h : s.FramesAlike u n) (k i m : Nat) : s.FramesAlike (u.calUse k i m) n := h

theorem State.FramesAlike.put (h : s.FramesAlike u n) {f : Field} (v : Nat) (low : f.off < 0xE0000) :
    s.FramesAlike (u.put f v) n := by
  obtain ⟨mem, ue, unserved, regs⟩ := h
  exact ⟨mem, ue, unserved, fun a ha => by rw [State.reg_put_other _ _ (by omega), regs a ha]⟩

theorem State.FramesAlike.setCause (h : s.FramesAlike u n) {f : Field} (low : f.off < 0xE0000) :
    s.FramesAlike (u.setCause f) n := by
  obtain ⟨mem, ue, unserved, regs⟩ := h
  refine ⟨by rw [State.setCause_mem, mem], by rw [State.setCause_ueBad, ue], by rw [State.bar_setCause, unserved],
    fun a ha => ?_⟩
  rw [State.reg_setCause_other _ _ (by omega) (not_routerReg_of_le ha), regs a ha]

theorem State.FramesAlike.g (h : s.FramesAlike u n) {e : Field} (high : 0xE0000 ≤ e.off) : u.g e = s.g e := by
  obtain ⟨-, -, -, regs⟩ := h
  unfold State.g
  rw [regs _ high]

theorem State.FramesAlike.etStep (h : s.FramesAlike u n) : s.FramesAlike (u.etStep n) n := by
  have low : A.CAL_ET_CURn n < 0xE0000 := by
    simp only [A.CAL_ET_CURn]
    omega
  have put : s.FramesAlike (u.etCurPut n) n := by
    unfold State.etCurPut
    split
    · exact h
    · exact h.put _ low
  rw [State.etStep_eq]
  refine State.FramesAlike.modEt ?_ _
  unfold State.etCursor
  split
  · exact (put.put _ low).setCause (by decide)
  · exact put

/-- The choice of the line leaves alone what its frames read. -/
theorem State.etLine_framesAlike (s : State) (n : Fin 32) : s.FramesAlike (s.etLine n).1 n := by
  have gap : s.FramesAlike (s.etGap n) n := (State.FramesAlike.refl s n).modEt _
  have cal : s.FramesAlike ((s.etGap n).calLine n) n := (gap.modEt _).calUse 2 n 1
  have block : s.FramesAlike ((s.etGap n).etBlock n) n := gap.modEt _
  have told (f : Et → Et) : s.FramesAlike (((s.etGap n).modEt n f).setCause F.CAL_ET_CAUSE_ET_WW) n :=
    (gap.modEt f).setCause (by decide)
  unfold State.etLine
  extract_lets v e
  split
  · split
    · exact cal
    · exact gap
  · split
    · exact cal
    · split
      · split
        · exact gap
        · exact told _
      · split
        · split
          · split
            · exact gap.etStep
            · exact gap
          · split
            · exact block
            · exact gap
        · split
          · exact block
          · exact gap

theorem State.FramesAlike.segOn (h : s.FramesAlike u n) (k : Nat) : u.segOn n k = s.segOn n k := by
  unfold State.segOn
  rw [h.g (Nat.le_trans (by decide) (Nat.le_add_right _ _))]

theorem State.FramesAlike.etData (h : s.FramesAlike u n) (t k : Nat) : u.etData n t k = s.etData n t k := by
  have seg := h.segOn
  obtain ⟨mem, ue, -, -⟩ := h
  have noz (i j : Nat) : u.nozState n i j = s.nozState n i j := by
    unfold State.nozState State.badAt State.byteAt
    rw [mem, ue]
  have fires (g : Nat) : u.etFires n t g = s.etFires n t g := by
    simp only [State.etFires, seg, noz]
  simp only [State.etData, fires]

theorem State.FramesAlike.segServed (h : s.FramesAlike u n) (k : Nat) : u.segServed n k = s.segServed n k := by
  have seg := h.segOn
  have en : u.bit (F.FPE_CTL_EN n) = s.bit (F.FPE_CTL_EN n) := by
    unfold State.bit
    rw [h.g (Nat.le_trans (by decide) (Nat.le_add_right _ _))]
  obtain ⟨-, -, unserved, -⟩ := h
  simp only [State.segServed, en, seg, unserved]

end

/-! ## Means, steps and records (R236, R237) -/

/-- The step of two currents is truncated toward zero. -/
theorem etDelta_nonneg {a b : Rat} (h : 0 ≤ a - b) :
    0 ≤ ((etDelta a b : Int) : Rat) ∧ ((etDelta a b : Int) : Rat) ≤ a - b ∧ a - b < ((etDelta a b : Int) : Rat) + 1 := by
  have floor : etDelta a b = ⌊a - b⌋ := by
    rw [etDelta, if_neg (by linarith)]
    rfl
  rw [floor]
  exact ⟨by exact_mod_cast Int.floor_nonneg.2 h, Int.floor_le _, Int.lt_floor_add_one _⟩

theorem etDelta_neg {a b : Rat} (h : a - b < 0) :
    ((etDelta a b : Int) : Rat) ≤ 0 ∧ a - b ≤ ((etDelta a b : Int) : Rat) ∧ ((etDelta a b : Int) : Rat) < a - b + 1 := by
  have floor : etDelta a b = -⌊b - a⌋ := by
    rw [etDelta, if_pos (by linarith)]
    rfl
  have low := Int.floor_le (b - a)
  have high := Int.lt_floor_add_one (b - a)
  have pos : (0 : Rat) ≤ ⌊b - a⌋ := by exact_mod_cast Int.floor_nonneg.2 (by linarith)
  rw [floor]
  push_cast
  exact ⟨by linarith, by linarith, by linarith⟩

/-- RESULT of a strobe by its code (Table 8.3). -/
theorem State.etClass_code (s : State) (delta : Int) (void : Bool) : (s.etClass delta void).code =
    if void = true then 3 else if delta < s.g F.CAL_ET_TH_OPEN then 1
    else if (s.g F.CAL_ET_TH_SHORT : Int) < delta then 2 else 0 := by
  unfold State.etClass
  split_ifs <;> rfl

/-- The counters of a strobe (R237). -/
def State.etCount (s : State) (r : EtResult) : State :=
  match r with
  | .opened => (s.bump F.CAL_ET_TESTED_V).bump F.CAL_ET_OPENS_V
  | .short => (s.bump F.CAL_ET_TESTED_V).bump F.CAL_ET_SHORTS_V
  | .void => (s.bump F.CAL_ET_TESTED_V).bump F.CAL_ET_VOIDS_V
  | .normal => s.bump F.CAL_ET_TESTED_V

/-- A strobe of a nozzle that fired: it is counted by its result, and recorded unless it is normal and ALL is 0. -/
theorem State.etStrobe_fired (s : State) (n : Fin 32) (l : LineFrame) (t sweep g : Nat) (i : Rat) (void : Nat) {x : SegFrame}
    (seg : l.segs[(etNozzle t g).1]? = some x) (fired : x.data.getLsbD (etNozzle t g).2 = true) :
    let delta := etDelta i ((s.bar n).et.refI.getD g 0)
    let r := s.etClass delta (void.testBit (etNozzle t g).1)
    s.etStrobe n l t sweep g i void = if r = .normal ∧ !(s.etCount r).bit F.CAL_ET_CFG_ALL then s.etCount r
      else (s.etCount r).etPush (etRecord n t g sweep delta r) := by
  intro delta r
  unfold State.etStrobe
  simp only [seg, fired, Bool.not_true, Bool.false_eq_true, if_false]
  rfl

theorem State.etStrobe_silent (s : State) (n : Fin 32) (l : LineFrame) (t sweep g : Nat) (i : Rat) (void : Nat) {x : SegFrame}
    (seg : l.segs[(etNozzle t g).1]? = some x) (silent : x.data.getLsbD (etNozzle t g).2 = false) :
    s.etStrobe n l t sweep g i void = s := by
  unfold State.etStrobe
  simp [seg, silent]

/-- The counters leave alone every register but their own. -/
theorem State.g_etCount (s : State) (r : EtResult) {e : Field}
    (h : e.off ∉ [A.CAL_ET_TESTED, A.CAL_ET_OPENS, A.CAL_ET_SHORTS, A.CAL_ET_VOIDS]) : (s.etCount r).g e = s.g e := by
  simp only [List.mem_cons, List.not_mem_nil, or_false, not_or] at h
  obtain ⟨tested, opens, shorts, voids⟩ := h
  have base : (s.bump F.CAL_ET_TESTED_V).g e = s.g e := State.g_put_other _ _ _ _ tested
  cases r
  · exact base
  · exact (State.g_put_other _ _ _ _ opens).trans base
  · exact (State.g_put_other _ _ _ _ shorts).trans base
  · exact (State.g_put_other _ _ _ _ voids).trans base

theorem State.etCount_counts (s : State) (r : EtResult) : s.counted (s.etCount r) F.CAL_ET_TESTED_V
    ∧ (r.code = 1 → s.counted (s.etCount r) F.CAL_ET_OPENS_V) ∧ (r.code = 2 → s.counted (s.etCount r) F.CAL_ET_SHORTS_V)
    ∧ (r.code = 3 → s.counted (s.etCount r) F.CAL_ET_VOIDS_V) := by
  have tested : s.counted (s.bump F.CAL_ET_TESTED_V) F.CAL_ET_TESTED_V := s.counted_bump (by decide)
  have first {f : Field} (off : F.CAL_ET_TESTED_V.off ≠ f.off) :
      s.counted ((s.bump F.CAL_ET_TESTED_V).bump f) F.CAL_ET_TESTED_V := by
    unfold State.counted
    rw [State.bump, State.bumpBy, State.g_put_other _ _ _ _ off]
    exact tested
  have second {f : Field} (h : f.lo + f.w ≤ 32) (off : f.off ≠ F.CAL_ET_TESTED_V.off) :
      s.counted ((s.bump F.CAL_ET_TESTED_V).bump f) f := by
    unfold State.counted
    rw [State.g_bump _ f h, State.bump, State.bumpBy, State.g_put_other _ _ _ _ off]
  cases r
  · exact ⟨tested, nofun, nofun, nofun⟩
  · exact ⟨first (by decide), fun _ => second (by decide) (by decide), nofun, nofun⟩
  · exact ⟨first (by decide), nofun, fun _ => second (by decide) (by decide), nofun⟩
  · exact ⟨first (by decide), nofun, nofun, fun _ => second (by decide) (by decide)⟩

@[simp] theorem State.etCount_cal (s : State) (r : EtResult) : (s.etCount r).cal = s.cal := by
  have twice (f : Field) : ((s.bump F.CAL_ET_TESTED_V).bump f).cal = s.cal :=
    (State.bump_cal _ f).trans (State.bump_cal s _)
  cases r
  · exact State.bump_cal s _
  · exact twice _
  · exact twice _
  · exact twice _

/-- Rewriting the cells of a record leaves the registers alone. -/
theorem State.cleanCells_regs (s : State) (ws : List Nat) : (s.cleanCells ws).regs = s.regs := by
  have word (t : State) (w : Nat) : (t.cleanWord w).regs = t.regs := by
    unfold State.cleanWord
    split
    · split <;> rfl
    · rfl
  unfold State.cleanCells
  split
  · rfl
  · exact foldl_keeps (P := fun t : State => t.regs = s.regs) ws (fun t w h => (word t w).trans h) rfl

/-- A record leaves every register alone but the test's cause register and the router's. -/
theorem State.g_etPush (s : State) (w : DWord) {e : Field} (off : e.off ≠ A.CAL_ET_CAUSE) (hr : ¬ routerReg e.off) :
    (s.etPush w).g e = s.g e := by
  have cells (ws : List Nat) : (s.cleanCells ws).g e = s.g e := by
    unfold State.g State.reg
    rw [State.cleanCells_regs]
  unfold State.etPush
  split
  · rfl
  · extract_lets u c v
    have pushed : (v.setCause F.CAL_ET_CAUSE_RECORD).g e = s.g e := by
      rw [State.g_setCause_of_apart _ (by decide) (.inl off) hr]
      exact cells _
    unfold State.setCauseIf
    split
    · rw [State.g_setCause_of_apart _ (by decide) (.inl off) hr, pushed]
    · exact pushed

/-- A record that finds room enters the FIFO, with RECORD, and with FULL when it takes the last place. -/
theorem State.etPush_enters (s : State) (w : DWord) (room : s.etRoom = true) :
    (s.etPush w).cal.etFifo = s.cal.etFifo ++ [w] ∧ (s.etPush w).bit F.CAL_ET_CAUSE_RECORD = true
      ∧ (s.cal.etFifo.length = 255 → (s.etPush w).bit F.CAL_ET_CAUSE_FULL = true) := by
  unfold State.etPush
  rw [if_neg (by simp [room])]
  extract_lets u c v
  have fifo : v.cal.etFifo = s.cal.etFifo ++ [w] := by simp [v, u]
  have set {t : State} : (t.setCause F.CAL_ET_CAUSE_RECORD).bit F.CAL_ET_CAUSE_RECORD = true :=
    State.bit_setCause _ _ (by decide) rfl (not_routerReg_behind (by decide))
  cases full : decide (256 ≤ v.cal.etFifo.length) with
  | true =>
    rw [State.setCauseIf_true]
    refine ⟨by simp [fifo], ?_, fun _ => State.bit_setCause _ _ (by decide) rfl (not_routerReg_behind (by decide))⟩
    rw [State.bit_setCause_of_apart _ (by decide) (.inr (by decide)) (not_routerReg_behind (by decide)), set]
  | false =>
    rw [State.setCauseIf_false]
    refine ⟨by simp [fifo], set, fun last => ?_⟩
    simp [fifo, last] at full

/-- What a strobe of a nozzle that fired changes (R236, R237). -/
theorem State.etStrobe_spec (s : State) (n : Fin 32) (l : LineFrame) (t sweep g : Nat) (i : Rat) (void : Nat) {x : SegFrame}
    (seg : l.segs[(etNozzle t g).1]? = some x) (fired : x.data.getLsbD (etNozzle t g).2 = true) :
    let delta := etDelta i ((s.bar n).et.refI.getD g 0)
    let r := s.etClass delta (void.testBit (etNozzle t g).1)
    let u := s.etStrobe n l t sweep g i void
    s.counted u F.CAL_ET_TESTED_V ∧ (r.code = 1 → s.counted u F.CAL_ET_OPENS_V) ∧ (r.code = 2 → s.counted u F.CAL_ET_SHORTS_V)
      ∧ (r.code = 3 → s.counted u F.CAL_ET_VOIDS_V)
      ∧ (r.code = 0 → s.bit F.CAL_ET_CFG_ALL = false → u.cal.etFifo = s.cal.etFifo)
      ∧ (r.code ≠ 0 ∨ s.bit F.CAL_ET_CFG_ALL = true → s.etRoom = true →
          u.cal.etFifo = s.cal.etFifo ++ [etRecord n t g sweep delta r] ∧ u.bit F.CAL_ET_CAUSE_RECORD = true
            ∧ (s.cal.etFifo.length = 255 → u.bit F.CAL_ET_CAUSE_FULL = true)) := by
  intro delta r u
  have eq : u = if r = .normal ∧ !(s.etCount r).bit F.CAL_ET_CFG_ALL then s.etCount r
      else (s.etCount r).etPush (etRecord n t g sweep delta r) := s.etStrobe_fired n l t sweep g i void seg fired
  have all : (s.etCount r).bit F.CAL_ET_CFG_ALL = s.bit F.CAL_ET_CFG_ALL := by
    unfold State.bit
    rw [s.g_etCount r (by decide)]
  have normal : r.code = 0 ↔ r = .normal := by cases r <;> simp [EtResult.code]
  have kept {f : Field} (off : f.off ≠ A.CAL_ET_CAUSE) (hr : ¬ routerReg f.off) : u.g f = (s.etCount r).g f := by
    rw [eq]
    split
    · rfl
    · exact State.g_etPush _ _ off hr
  have counts {f : Field} (off : f.off ≠ A.CAL_ET_CAUSE) (hr : ¬ routerReg f.off) (h : s.counted (s.etCount r) f) :
      s.counted u f := (kept off hr).trans h
  obtain ⟨tested, opens, shorts, voids⟩ := s.etCount_counts r
  have far {a : Nat} (h : 0x49008 ≤ a) : ¬ routerReg a := not_routerReg_behind h
  refine ⟨counts (by decide) (far (by decide)) tested, fun c => counts (by decide) (far (by decide)) (opens c),
    fun c => counts (by decide) (far (by decide)) (shorts c), fun c => counts (by decide) (far (by decide)) (voids c),
    fun c off => ?_, fun shown room => ?_⟩
  · rw [eq, if_pos ⟨normal.1 c, by simp [all, off]⟩, State.etCount_cal]
  · have entered := (s.etCount r).etPush_enters (etRecord n t g sweep delta r) (by simpa [State.etRoom] using room)
    rw [eq, if_neg (by simpa [← normal, all, imp_iff_not_or] using shown)]
    simpa using entered

/-! ## The clauses of O40 -/

theorem State.etAsked_iff (s : State) (n : Fin 32) :
    s.etAsked n = true ↔ s.up .ana = true ∧ s.bit ⟨A.CAL_ET_BARS, n, 1⟩ = true := by
  simp [State.etAsked]

section
variable {s u : State} {n : Fin 32} {k : Nat} (alike : s.FramesAlike u n)
include alike

/-- MODE and data of a segment on a line without an index (R52, R235). -/
theorem State.FramesAlike.part_off (test : Option TestLine) (off : s.segOn n k = false) :
    u.framePart n none [] test k = (.idle, 0, 0, 0) := by
  have mode : u.frameMode n k [] test.isSome = .idle := by simp [State.frameMode, alike.segOn, off]
  rw [State.framePart, mode, State.frameData_idle]

theorem State.FramesAlike.part_reference (on : s.segOn n k = true) :
    u.framePart n none [] (some .reference) k = (.test, 0, 0, 0) := by
  have mode : u.frameMode n k [] true = .test := by simp [State.frameMode, alike.segOn, on]
  rw [State.framePart, Option.isSome_some, mode, State.frameData_reference]

theorem State.FramesAlike.part_step (on : s.segOn n k = true) (c w : Nat) :
    u.framePart n none [] (some (.step c w)) k = (.test, s.etData n c k, 0, 0) := by
  have mode : u.frameMode n k [] true = .test := by simp [State.frameMode, alike.segOn, on]
  rw [State.framePart, Option.isSome_some, mode, State.frameData_step, alike.etData]

theorem State.FramesAlike.part_warm (served : s.segServed n k = true) :
    u.framePart n none [] none k = (.warm, 0, 0, 0) := by
  have on : s.segOn n k = true := by
    simp only [State.segServed, Bool.and_eq_true] at served
    exact served.1.2
  have mode : u.frameMode n k [] false = .warm := by simp [State.frameMode, alike.segOn, on, alike.segServed, served]
  rw [State.framePart, Option.isSome_none, mode, State.frameData_warm]

end

/-- The frame that a port without an index shifts for its next line. -/
theorem State.shifting_unselected (s : State) (n : Fin 32) (on : s.up (barDomain n) = true) (unsel : (s.bar n).sel = none) :
    ((s.buildFrames n).bar n).shifting = some ((s.etLine n).1.lineFrame n none [] (s.etLine n).2) := by
  rw [s.buildFrames_unselected n on unsel, State.shiftFrame, State.bar_modBar_same]

end Sys2Proof.Machine

open Sys2Proof.Machine in
/-- Settles O40: the choice of a gap's next line case by case, its data as a sum of distinct powers of 2, and the
records by what a strobe counts and pushes. -/
theorem testLinesAndTheirRecords : Obligations.TestLinesAndTheirRecords := by
  unfold Obligations.TestLinesAndTheirRecords
  refine ⟨fun s n => ?_, fun s n t seg i clean ht hseg hi => ?_, fun s n on ce ue unsel => ?_, fun s out xs g => ?_,
    fun a b => ⟨etDelta_nonneg, etDelta_neg⟩, fun s n l t sweep g void i x ht hg seg => ?_⟩
  · intro e gap asked room wide blocks line r t begins free
    have hgap : gap ↔ s.inGap n = true := (s.inGap_iff n).symm
    have hasked : asked ↔ s.etAsked n = true := (s.etAsked_iff n).symm
    have hroom : room ↔ s.etRoom = true := s.etRoom_iff.symm
    have et := s.et_etGap n
    obtain ⟨hblocks, hline, htold⟩ := Et.inGap_line (s.bar n).et
    have starts (h : r = ((s.etGap n).etBlock n, some .reference)) (inside : s.inGap n = true) : begins := by
      have now : t = (((s.etGap n).etBlock n).bar n).et := by rw [show t = (r.1.bar n).et from rfl, h]
      rw [State.etBlock_et, et, inside] at now
      refine ⟨by rw [h], ?_, by rw [now], by rw [now]; rfl⟩
      rw [now, hblocks]
    refine ⟨fun out => ?_, fun g noask => ?_, fun g ask narrow => ?_, fun g ask w full => ?_, fun g ask w rm idle => ?_,
      fun g ask w rm l lline behind => ⟨fun more => ?_, fun done => ?_⟩, fun g ask w rm l lline inside => ?_⟩
    · have off : s.inGap n = false := by simpa [hgap] using out
      have now : t = (s.bar n).et.inGap false := by
        rw [show t = (r.1.bar n).et from rfl, show r = _ from s.etLine_none n free (by simp [off]), et, off]
      exact ⟨by rw [show r = _ from s.etLine_none n free (by simp [off])], by rw [now]; exact ⟨rfl, rfl, rfl, rfl⟩⟩
    · have off : s.etAsked n = false := by simpa [hasked] using noask
      rw [show r = _ from s.etLine_none n free (by simp [off])]
    · have eq : r = _ := State.etLine_narrow free (hgap.1 g) (hasked.1 ask) (Nat.not_le.1 narrow)
      have told : ((s.etGap n).bar n).et.wwTold = (e.gap && e.wwTold) := by rw [et, hgap.1 g, htold]
      refine ⟨by rw [eq], fun first => ?_, fun lasting already => ?_⟩
      · have untold : ((s.etGap n).bar n).et.wwTold = false := by rw [told]; simpa using first
        rw [show t = (r.1.bar n).et from rfl, eq, untold]
        refine ⟨State.bit_setCause _ _ (by decide) rfl (not_routerReg_behind (by decide)), ?_⟩
        simp
      · rw [eq, told, lasting, already]
        exact s.etGap_same n (hgap.1 g) lasting
    · rw [show r = _ from State.etLine_full free (hgap.1 g) (hasked.1 ask) w (by simpa [hroom] using full)]
    · refine starts (State.etLine_first free (hgap.1 g) (hasked.1 ask) w (hroom.1 rm) ?_) (hgap.1 g)
      rw [et, hgap.1 g, hline]
      exact idle
    · refine starts ?_ (hgap.1 g)
      rw [show r = _ from State.etLine_next free (hgap.1 g) (hasked.1 ask) w (hroom.1 rm)
        (by rw [et, hgap.1 g, hline]; exact lline) behind, if_pos (by rw [et, hgap.1 g, hblocks]; exact more)]
    · rw [show r = _ from State.etLine_next free (hgap.1 g) (hasked.1 ask) w (hroom.1 rm)
        (by rw [et, hgap.1 g, hline]; exact lline) behind, if_neg (by rw [et, hgap.1 g, hblocks]; exact Nat.not_lt.2 done)]
    · have lasting : ((s.etGap n).bar n).et.line = some l := by rw [et, hgap.1 g, hline]; exact lline
      have eq : r = _ := State.etLine_steps free (hgap.1 g) (hasked.1 ask) w (hroom.1 rm) lasting inside
      obtain ⟨cur, written⟩ := Et.inGap_cur (s.bar n).et (s.inGap n)
      rw [← et] at cur written
      intro next
      have moved : nextCursor ((s.etGap n).bar n).et.cur = next := by rw [cur]; rfl
      rw [show t = (r.1.bar n).et from rfl, eq, State.etStep_et, lasting, moved]
      refine ⟨rfl, rfl, rfl, fun unwritten small => ?_, fun last => ?_⟩
      · rw [← moved]
        exact State.etCursor_cur _ n (written.trans unwritten) (by rw [cur]; exact small)
      · exact State.etCursor_sweep (s.etGap n) n (moved.trans last)
  · rw [s.testBit_etData n t seg i]
    refine exists_congr fun g => ?_
    rw [s.etFires_iff n t g clean]
    simp only [etNozzle]
    constructor
    · rintro ⟨hg, rfl, ⟨on, fires⟩, rfl⟩
      exact ⟨hg, rfl, rfl, on, fires⟩
    · rintro ⟨hg, rfl, rfl, on, fires⟩
      exact ⟨hg, rfl, ⟨on, fires⟩, rfl⟩
  · have alike := s.etLine_framesAlike n
    refine ⟨(s.etLine n).1.lineFrame n none [] (s.etLine n).2, s.shifting_unselected n on unsel, rfl, rfl, fun k hk =>
      ⟨(s.etLine n).1.frameOf n none [] (s.etLine n).2 k, lineFrame_segs _ _ _ _ _ hk, fun off => ?_, fun seg ref => ?_, fun seg c w step => ?_, fun seg plain en served => ?_⟩⟩
    · rw [State.frameOf_mode, State.frameOf_data, alike.part_off _ off]
      exact ⟨rfl, BitVec.ofNat_eq_ofNat⟩
    · replace ref : (s.etLine n).2 = some .reference := ref
      rw [State.frameOf_mode, State.frameOf_data, ref, alike.part_reference seg]
      exact ⟨rfl, rfl, BitVec.ofNat_eq_ofNat⟩
    · replace step : (s.etLine n).2 = some (.step c w) := step
      rw [State.frameOf_mode, State.frameOf_data, step, alike.part_step seg c w]
      exact ⟨rfl, rfl, fun i hi => by rw [BitVec.getLsbD_ofNat, decide_eq_true hi, Bool.true_and]⟩
    · replace plain : (s.etLine n).2 = none := plain
      rw [State.frameOf_mode, State.frameOf_data, plain, alike.part_warm (by simp [State.segServed, en, seg, served])]
      exact ⟨rfl, BitVec.ofNat_eq_ofNat⟩
  · intro rise inside some'
    have samples : strobeSamples out g xs = inside := rfl
    rw [State.strobeMean, samples]
    obtain ⟨y, ys, cons⟩ := List.exists_cons_of_ne_nil some'
    rw [cons]
  · intro noz delta result u record
    have code : (s.etClass delta (void.testBit (t / 1280))).code = result := s.etClass_code delta (void.testBit (t / 1280))
    have recorded : etRecord n t g sweep delta (s.etClass delta (void.testBit (t / 1280))) = record := by
      unfold etRecord
      rw [code]
      rfl
    refine ⟨fun silent => s.etStrobe_silent n l t sweep g i void seg silent, fun fired => ?_⟩
    have spec := s.etStrobe_spec n l t sweep g i void seg fired
    dsimp only at spec
    rw [show (etNozzle t g).1 = t / 1280 from rfl, code, recorded] at spec
    obtain ⟨tested, opens, shorts, voids, normal, enters⟩ := spec
    exact ⟨tested, opens, shorts, voids, normal, fun shown few none' => enters shown (s.etRoom_iff.2 ⟨few, none'⟩)⟩
end

section
/-!
PROOFS. The page record: what its writing, the closing of a page and the leaving of one change and leave alone
(02 R66, R69; 03 R89); used for O24 and O26.
-/

namespace Sys2Proof.Machine

/-! ## A list of fields stored in turn -/

/-- Store the fields of a list in turn. -/
def State.putAll (s : State) (xs : List (Field × Nat)) : State := xs.foldl (fun s x => s.put x.1 x.2) s

theorem State.putAll_cons (s : State) (x : Field × Nat) (xs : List (Field × Nat)) :
    s.putAll (x :: xs) = (s.put x.1 x.2).putAll xs := rfl

/-- A register that none of the stored fields lies in is as before. -/
theorem State.reg_putAll (xs : List (Field × Nat)) : ∀ (s : State) {a : Nat}, a ∉ xs.map (·.1.off) →
    (s.putAll xs).reg a = s.reg a := by
  induction xs with
  | nil => exact fun _ _ _ => rfl
  | cons x xs ih =>
    intro s a h
    rw [List.map_cons, List.mem_cons, not_or] at h
    rw [State.putAll_cons, ih _ h.2, State.reg_put_other _ _ h.1]

/-- Of fields of different registers stored in turn each holds its value. -/
theorem State.g_putAll (xs : List (Field × Nat)) : ∀ (s : State), (xs.map (·.1.off)).Nodup → ∀ x ∈ xs,
    x.1.lo + x.1.w ≤ 32 → (s.putAll xs).g x.1 = x.2 % 2 ^ x.1.w := by
  induction xs with
  | nil => exact fun _ _ _ h => absurd h List.not_mem_nil
  | cons y ys ih =>
    intro s apart x hx fits
    obtain ⟨first, rest⟩ := List.nodup_cons.1 apart
    rw [State.putAll_cons]
    rcases List.mem_cons.1 hx with rfl | later
    · unfold State.g
      rw [State.reg_putAll ys _ first]
      exact State.g_put_same s _ _ fits
    · exact ih _ rest x later fits

theorem State.bar_putAll (s : State) (xs : List (Field × Nat)) (m : Fin 32) : (s.putAll xs).bar m = s.bar m :=
  foldl_keeps (P := fun t : State => t.bar m = s.bar m) xs (fun t x h => (State.bar_put t m x.1 x.2).trans h) rfl

/-! ## The registers of a page record -/

/-- The counts of a page record with the fields that show them. -/
def PageRec.counts (r : PageRec) (n : Fin 32) : List (Field × Nat) :=
  let sat := fun x => min x (2 ^ 32 - 1)
  [(F.FPE_PREC_DROPPED_V n, sat r.dropped), (F.FPE_PREC_HELD_V n, sat r.held), (F.FPE_PREC_MAXERR_V n, min r.maxErr 65535),
    (F.FPE_PREC_LOST_V n, sat r.lost), (F.NST_PREC_UNPL_V n, sat r.unpl), (F.NST_PREC_THIN_V n, sat r.thin),
    (F.RSP_PREC_SKIPPED_V n, sat r.skipped), (F.RSP_PREC_STOPS_V n, sat r.stops), (F.RSP_PREC_REPRINT_V n, sat r.reprint)]

/-- The words of a page record that are no counts. -/
def State.recordWords (s : State) (n : Fin 32) (d : PageDesc) (r : PageRec) : State :=
  (((s.put (F.FPE_PREC_PAGE_PAGE n) d.page).put (F.FPE_PREC_PAGE_KIND n) d.kind).setReg (A.FPE_PREC_FLAGS n)
    (BitVec.ofNat 32 r.flags)).setReg (A.FPE_PREC_TAG n) d.tag

/-- The offsets of a page record's registers. -/
def recordOffs (n : Fin 32) : List Nat :=
  [A.FPE_PREC_PAGE n, A.FPE_PREC_FLAGS n, A.FPE_PREC_TAG n, A.FPE_PREC_DROPPED n, A.FPE_PREC_HELD n, A.FPE_PREC_MAXERR n,
    A.FPE_PREC_LOST n, A.NST_PREC_UNPL n, A.NST_PREC_THIN n, A.RSP_PREC_SKIPPED n, A.RSP_PREC_STOPS n, A.RSP_PREC_REPRINT n]

/-- The offsets of a page record's registers in their bar's block. -/
def recordPlaces : List Nat :=
  [0x100500, 0x100504, 0x100508, 0x10050C, 0x100510, 0x100514, 0x100518, 0x104200, 0x104204, 0x106200, 0x106204, 0x106208]

theorem recordOffs_eq (n : Fin 32) : recordOffs n = recordPlaces.map (· + n.val * 0x10000) := rfl

/-- A register of a bar is none of those at other places of its block. -/
theorem not_mem_barOffs {ks : List Nat} {k : Nat} (n : Fin 32) (h : k ∉ ks) :
    k + n.val * 0x10000 ∉ ks.map (· + n.val * 0x10000) := by
  rw [List.mem_map]
  rintro ⟨k', named, e⟩
  exact h (Nat.add_right_cancel e ▸ named)

/-- A register of a bar is none of a record's when its place is none of theirs. -/
theorem not_mem_recordOffs {k : Nat} (n : Fin 32) (h : k ∉ recordPlaces) : k + n.val * 0x10000 ∉ recordOffs n :=
  recordOffs_eq n ▸ not_mem_barOffs n h

/-- Nor is it one that closing a page changes, when it is not the cause register either. -/
theorem not_mem_closeOffs {k : Nat} (n : Fin 32) (h : k ∉ 0x10000C :: recordPlaces) :
    k + n.val * 0x10000 ∉ A.FPE_LCAUSE n :: recordOffs n := by
  rw [List.mem_cons, not_or] at h ⊢
  exact ⟨fun e => h.1 (Nat.add_right_cancel e), not_mem_recordOffs n h.2⟩

section
variable (s : State) (n : Fin 32) (d : PageDesc) (r : PageRec)

theorem State.recordRegs_eq : s.recordRegs n d r = (s.recordWords n d r).putAll (r.counts n) := rfl

theorem recordOffs_nodup : (recordOffs n).Nodup := by
  have apart : recordPlaces.Nodup := by decide
  exact apart.map (f := (· + n.val * 0x10000)) fun _ _ e => Nat.add_right_cancel e

theorem PageRec.counts_offs : (r.counts n).map (·.1.off) = (recordOffs n).drop 3 := rfl

theorem State.bar_recordRegs (m : Fin 32) : (s.recordRegs n d r).bar m = s.bar m := by
  rw [State.recordRegs_eq, State.bar_putAll, State.recordWords, State.bar_setReg, State.bar_setReg, State.bar_put,
    State.bar_put]

/-- A record leaves the other registers alone. -/
theorem State.reg_recordRegs {a : Nat} (h : a ∉ recordOffs n) : (s.recordRegs n d r).reg a = s.reg a := by
  have counts : a ∉ (r.counts n).map (·.1.off) := fun hc => h (List.mem_of_mem_drop (PageRec.counts_offs n r ▸ hc))
  rw [State.recordRegs_eq, State.reg_putAll _ _ counts]
  simp only [recordOffs, List.mem_cons, not_or] at h
  obtain ⟨page, flags, tag, -⟩ := h
  rw [State.recordWords, State.reg_setReg_other _ _ tag, State.reg_setReg_other _ _ flags, State.reg_put_other _ _ page,
    State.reg_put_other _ _ page]

/-- A record changes its registers only. -/
theorem State.onlyBarAndRegs_recordRegs : s.onlyBarAndRegs (s.recordRegs n d r) n (recordOffs n) := by
  have all (xs : List (Field × Nat)) : ∀ t : State, s.onlyBarAndRegs t n (recordOffs n) →
      (∀ x ∈ xs, x.1.off ∈ recordOffs n) → s.onlyBarAndRegs (t.putAll xs) n (recordOffs n) := by
    induction xs with
    | nil => exact fun _ h _ => h
    | cons x xs ih =>
      exact fun t h offs => ih _ (h.put x.2 (offs x List.mem_cons_self)) fun y hy => offs y (List.mem_cons_of_mem x hy)
  have page : A.FPE_PREC_PAGE n ∈ recordOffs n := by simp [recordOffs]
  have words : s.onlyBarAndRegs (s.recordWords n d r) n (recordOffs n) :=
    ((((State.onlyBarAndRegs.refl s n _).put _ page).put _ page).setReg _ (by simp [recordOffs])).setReg _
      (by simp [recordOffs])
  rw [State.recordRegs_eq]
  refine all _ _ words fun x hx => ?_
  have named : x.1.off ∈ (r.counts n).map (·.1.off) := List.mem_map_of_mem hx
  rw [PageRec.counts_offs] at named
  exact List.mem_of_mem_drop named

/-- A record holds its counts, each held at the largest value of its field. -/
theorem State.g_recordRegs_count {f : Field} {v : Nat} (named : (f, v) ∈ r.counts n) (fits : f.lo + f.w ≤ 32)
    (small : v < 2 ^ f.w) : (s.recordRegs n d r).g f = v := by
  have apart : ((r.counts n).map (·.1.off)).Nodup := by
    rw [PageRec.counts_offs]
    exact (recordOffs_nodup n).sublist (List.drop_sublist _ _)
  rw [State.recordRegs_eq, State.g_putAll _ _ apart _ named fits]
  exact Nat.mod_eq_of_lt small

/-- The words of a record: its page and kind, its flags and its tag. -/
theorem State.recordRegs_words : (s.recordRegs n d r).g (F.FPE_PREC_PAGE_PAGE n) = d.page % 2 ^ 24
    ∧ (s.recordRegs n d r).g (F.FPE_PREC_PAGE_KIND n) = d.kind % 2
    ∧ (s.recordRegs n d r).reg (A.FPE_PREC_FLAGS n) = BitVec.ofNat 32 r.flags
    ∧ (s.recordRegs n d r).reg (A.FPE_PREC_TAG n) = d.tag := by
  obtain ⟨first, last⟩ := List.nodup_append'.1 ((List.take_append_drop 3 (recordOffs n)).symm ▸ recordOffs_nodup n)
  have words {a : Nat} (h : a ∈ (recordOffs n).take 3) : (s.recordRegs n d r).reg a = (s.recordWords n d r).reg a := by
    rw [State.recordRegs_eq, State.reg_putAll]
    rw [PageRec.counts_offs]
    exact fun later => last.2 h later
  have flags : A.FPE_PREC_FLAGS n ≠ A.FPE_PREC_TAG n := barOff_ne _ (by decide)
  have page : A.FPE_PREC_PAGE n ≠ A.FPE_PREC_TAG n ∧ A.FPE_PREC_PAGE n ≠ A.FPE_PREC_FLAGS n :=
    ⟨barOff_ne _ (by decide), barOff_ne _ (by decide)⟩
  have pageWord : (s.recordRegs n d r).reg (A.FPE_PREC_PAGE n)
      = ((s.put (F.FPE_PREC_PAGE_PAGE n) d.page).put (F.FPE_PREC_PAGE_KIND n) d.kind).reg (A.FPE_PREC_PAGE n) := by
    rw [words (by simp [recordOffs]), State.recordWords, State.reg_setReg_other _ _ page.1, State.reg_setReg_other _ _ page.2]
  refine ⟨?_, ?_, ?_, ?_⟩
  · unfold State.g
    rw [show (F.FPE_PREC_PAGE_PAGE n).off = A.FPE_PREC_PAGE n from rfl, pageWord]
    refine (State.g_put_of_apart _ (e := F.FPE_PREC_PAGE_PAGE n) _ (Nat.le_of_ble_eq_true rfl)
      (.inr (.inl (Nat.le_of_ble_eq_true rfl)))).trans (State.g_put_same _ _ _ (Nat.le_of_ble_eq_true rfl))
  · unfold State.g
    rw [show (F.FPE_PREC_PAGE_KIND n).off = A.FPE_PREC_PAGE n from rfl, pageWord]
    exact State.g_put_same _ (F.FPE_PREC_PAGE_KIND n) _ (Nat.le_of_ble_eq_true rfl)
  · rw [words (by simp [recordOffs]), State.recordWords, State.reg_setReg_other _ _ flags, State.reg_setReg_same]
  · rw [words (by simp [recordOffs]), State.recordWords, State.reg_setReg_same]

/-! ## Writing the record -/

/-- What is left alone when events are raised and words of bars change. -/
def State.SameMachine (s t : State) : Prop := t.grid = s.grid ∧ t.now = s.now ∧ t.power = s.power ∧ t.pos = s.pos

theorem State.SameMachine.refl : s.SameMachine s := ⟨rfl, rfl, rfl, rfl⟩

variable {s} in
theorem State.SameMachine.trans {t u : State} (h : s.SameMachine t) (h' : t.SameMachine u) : s.SameMachine u := by
  obtain ⟨grid, now, power, pos⟩ := h
  obtain ⟨grid', now', power', pos'⟩ := h'
  exact ⟨grid'.trans grid, now'.trans now, power'.trans power, pos'.trans pos⟩

theorem State.onlyBarAndRegs.sameMachine {s t : State} {n : Fin 32} {xs : List Nat} (h : s.onlyBarAndRegs t n xs) :
    s.SameMachine t := by
  obtain ⟨frame, -, -⟩ := h
  exact ⟨by rw [frame], by rw [frame], by rw [frame], by rw [frame]⟩

theorem State.sameMachine_modBar (m : Fin 32) (f : Bar → Bar) : s.SameMachine (s.modBar m f) := ⟨rfl, rfl, rfl, rfl⟩

theorem State.sameMachine_put (f : Field) (v : Nat) : s.SameMachine (s.put f v) := ⟨rfl, rfl, rfl, rfl⟩

theorem State.sameMachine_bumpBy (f : Field) (k : Nat) : s.SameMachine (s.bumpBy f k) := s.sameMachine_put f _

theorem State.sameMachine_setCause (f : Field) : s.SameMachine (s.setCause f) := by
  refine ⟨?_, ?_, ?_, ?_⟩ <;> simp

theorem State.sameMachine_setCauseIf (c : Bool) (f : Field) : s.SameMachine (s.setCauseIf c f) := by
  cases c
  · exact State.SameMachine.refl s
  · exact s.sameMachine_setCause f

/-- The record with its bar's mark of the page that ended last. -/
def State.recorded : State := (s.recordRegs n d r).modBar n fun b => { b with ended := some (d.serial, r) }

theorem State.writeRecord_eq : s.writeRecord n d r =
    ((s.recorded n d r).setCauseIf ((s.recorded n d r).bit (F.FPE_LCAUSE_PAGE_END n)) (F.FPE_LCAUSE_PREC_OVF n)).setCause
      (F.FPE_LCAUSE_PAGE_END n) := rfl

theorem State.bar_setCauseIf (c : Bool) (f : Field) (m : Fin 32) : (s.setCauseIf c f).bar m = s.bar m := by
  cases c
  · rfl
  · exact State.bar_setCause s f m

theorem State.reg_setCauseIf_other (c : Bool) (f : Field) {a : Nat} (ha : a ≠ f.off) (hr : ¬ routerReg a) :
    (s.setCauseIf c f).reg a = s.reg a := by
  cases c
  · rfl
  · exact State.reg_setCause_other s f ha hr

theorem State.bar_writeRecord : (s.writeRecord n d r).bar n = { s.bar n with ended := some (d.serial, r) } := by
  rw [State.writeRecord_eq, State.bar_setCause, State.bar_setCauseIf, State.recorded, State.bar_modBar_same,
    State.bar_recordRegs]

theorem State.bar_writeRecord_other {m : Fin 32} (h : m ≠ n) : (s.writeRecord n d r).bar m = s.bar m := by
  rw [State.writeRecord_eq, State.bar_setCause, State.bar_setCauseIf, State.recorded, State.bar_modBar_other _ _ h,
    State.bar_recordRegs]

theorem State.sameMachine_writeRecord : s.SameMachine (s.writeRecord n d r) := by
  have regs : s.SameMachine (s.recorded n d r) :=
    (s.onlyBarAndRegs_recordRegs n d r).sameMachine.trans (State.sameMachine_modBar _ _ _)
  exact (regs.trans (State.sameMachine_setCauseIf _ _ _)).trans (State.sameMachine_setCause _ _)

/-- The registers of a record behind its writing. -/
theorem State.reg_writeRecord {a : Nat} (ha : a ≠ A.FPE_LCAUSE n) (hr : ¬ routerReg a) :
    (s.writeRecord n d r).reg a = (s.recordRegs n d r).reg a := by
  rw [State.writeRecord_eq, State.reg_setCause_other _ _ ha hr, State.reg_setCauseIf_other _ _ _ ha hr, State.recorded,
    State.reg_modBar]

theorem State.g_writeRecord {f : Field} (ha : f.off ≠ A.FPE_LCAUSE n) (hr : ¬ routerReg f.off) :
    (s.writeRecord n d r).g f = (s.recordRegs n d r).g f := by
  unfold State.g
  rw [State.reg_writeRecord _ _ _ _ ha hr]

theorem lcause_notRecord : A.FPE_LCAUSE n ∉ recordOffs n := not_mem_recordOffs n (by decide)

/-- A record shows its counts, each held at the largest value of its field. -/
theorem State.g_writeRecord_count {f : Field} {v : Nat} (named : (f, v) ∈ r.counts n) (fits : f.lo + f.w ≤ 32)
    (small : v < 2 ^ f.w) : (s.writeRecord n d r).g f = v := by
  have off : f.off ∈ recordOffs n := by
    have off : f.off ∈ (r.counts n).map (·.1.off) := List.mem_map_of_mem named
    rw [PageRec.counts_offs] at off
    exact List.mem_of_mem_drop off
  have high : 0xE0000 ≤ f.off := by
    rw [recordOffs_eq, List.mem_map] at off
    obtain ⟨k, place, e⟩ := off
    have places : ∀ k ∈ recordPlaces, 0xE0000 ≤ k := by decide
    exact e ▸ Nat.le_trans (places k place) (Nat.le_add_right _ _)
  rw [s.g_writeRecord n d r (fun e => lcause_notRecord n (e ▸ off)) (not_routerReg_of_le high)]
  exact s.g_recordRegs_count n d r named fits small

/-- A record leaves the registers alone that are neither its own nor the cause register of its bar. -/
theorem State.reg_writeRecord_other {a : Nat} (ha : a ∉ A.FPE_LCAUSE n :: recordOffs n) (hr : ¬ routerReg a) :
    (s.writeRecord n d r).reg a = s.reg a := by
  rw [List.mem_cons, not_or] at ha
  rw [State.reg_writeRecord _ _ _ _ ha.1 hr, State.reg_recordRegs _ _ _ _ ha.2]

theorem State.pageEnd_writeRecord : (s.writeRecord n d r).bit (F.FPE_LCAUSE_PAGE_END n) = true := by
  rw [State.writeRecord_eq]
  exact State.bit_setCause _ _ (Nat.le_of_ble_eq_true rfl) rfl (not_routerReg_above _ (by decide))

/-- The causes of a bar beside those of its record. -/
theorem State.bit_writeRecord_cause {f : Field} (off : f.off = A.FPE_LCAUSE n) (above : 3 ≤ f.lo) :
    (s.writeRecord n d r).bit f = s.bit f := by
  have hr : ¬ routerReg f.off := off ▸ not_routerReg_above _ (by decide)
  have reg : (s.recorded n d r).reg f.off = s.reg f.off := by
    rw [State.recorded, State.reg_modBar, off, s.reg_recordRegs n d r (lcause_notRecord n)]
  have ovf : f.Apart (F.FPE_LCAUSE_PREC_OVF n) := .inr (.inr above)
  have ended : f.Apart (F.FPE_LCAUSE_PAGE_END n) := .inr (.inr (Nat.le_trans (Nat.le_of_ble_eq_true rfl) above))
  rw [State.writeRecord_eq, State.bit_setCause_of_apart _ (Nat.le_of_ble_eq_true rfl) ended hr]
  unfold State.setCauseIf
  split
  · rw [State.bit_setCause_of_apart _ (Nat.le_of_ble_eq_true rfl) ovf hr]
    unfold State.bit State.g
    rw [reg]
  · unfold State.bit State.g
    rw [reg]

/-- PREC_OVF is set where PAGE_END still was. -/
theorem State.precOvf_writeRecord : (s.writeRecord n d r).bit (F.FPE_LCAUSE_PREC_OVF n)
    = (s.bit (F.FPE_LCAUSE_PREC_OVF n) || s.bit (F.FPE_LCAUSE_PAGE_END n)) := by
  have kept (f : Field) (off : f.off = A.FPE_LCAUSE n) : (s.recorded n d r).bit f = s.bit f := by
    have reg : (s.recorded n d r).reg f.off = s.reg f.off := by
      rw [State.recorded, State.reg_modBar, off, s.reg_recordRegs n d r (lcause_notRecord n)]
    unfold State.bit State.g
    rw [reg]
  rw [State.writeRecord_eq, State.bit_setCause_of_apart _ (Nat.le_of_ble_eq_true rfl)
    (.inr (.inr (Nat.le_of_ble_eq_true rfl))) (not_routerReg_above _ (by decide)), kept (F.FPE_LCAUSE_PAGE_END n) rfl]
  cases s.bit (F.FPE_LCAUSE_PAGE_END n) with
  | false => rw [State.setCauseIf_false, kept (F.FPE_LCAUSE_PREC_OVF n) rfl, Bool.or_false]
  | true =>
    rw [State.setCauseIf_true, Bool.or_true]
    exact State.bit_setCause _ _ (Nat.le_of_ble_eq_true rfl) rfl (not_routerReg_above _ (by decide))

end

/-! ## Closing and leaving a page -/

section
variable (s : State) (n : Fin 32)

theorem State.closePage_none (h : (s.bar n).closing = none) : s.closePage n = s := by
  unfold State.closePage
  rw [h]

theorem State.closePage_some {d : PageDesc} {r : PageRec} (h : (s.bar n).closing = some (d, r)) :
    s.closePage n = (s.modBar n fun b => { b with closing := none }).writeRecord n d r := by
  unfold State.closePage
  rw [h]

/-- A page that closes: its record is written. -/
theorem State.closePage_spec {d : PageDesc} {r : PageRec} (h : (s.bar n).closing = some (d, r)) :
    (s.closePage n).bar n = { s.bar n with closing := none, ended := some (d.serial, r) }
      ∧ (s.closePage n).bit (F.FPE_LCAUSE_PAGE_END n) = true
      ∧ (s.closePage n).reg (A.FPE_PREC_TAG n) = d.tag
      ∧ (s.closePage n).reg (A.FPE_PREC_FLAGS n) = BitVec.ofNat 32 r.flags := by
  rw [s.closePage_some n h]
  obtain ⟨-, -, flags, tag⟩ := (s.modBar n fun b => { b with closing := none }).recordRegs_words n d r
  refine ⟨?_, State.pageEnd_writeRecord _ n d r, ?_, ?_⟩
  · rw [State.bar_writeRecord, State.bar_modBar_same]
  · exact (State.reg_writeRecord _ _ _ _ (barOff_ne _ (by decide)) (not_routerReg_above _ (by decide))).trans tag
  · exact (State.reg_writeRecord _ _ _ _ (barOff_ne _ (by decide)) (not_routerReg_above _ (by decide))).trans flags

theorem State.bar_closePage_other {m : Fin 32} (h : m ≠ n) : (s.closePage n).bar m = s.bar m := by
  unfold State.closePage
  split
  · rfl
  · rw [State.bar_writeRecord_other _ _ _ _ h, State.bar_modBar_other _ _ h]

theorem State.sameMachine_closePage : s.SameMachine (s.closePage n) := by
  unfold State.closePage
  split
  · exact State.SameMachine.refl s
  · exact (s.sameMachine_modBar n _).trans (State.sameMachine_writeRecord _ _ _ _)

/-- Closing a page leaves the registers alone that are neither the record's nor the cause register of its bar. -/
theorem State.reg_closePage {a : Nat} (ha : a ∉ A.FPE_LCAUSE n :: recordOffs n) (hr : ¬ routerReg a) :
    (s.closePage n).reg a = s.reg a := by
  unfold State.closePage
  split
  · rfl
  · rw [State.reg_writeRecord_other _ _ _ _ ha hr, State.reg_modBar]

theorem State.g_closePage {f : Field} (ha : f.off ∉ A.FPE_LCAUSE n :: recordOffs n) (hr : ¬ routerReg f.off) :
    (s.closePage n).g f = s.g f := by
  unfold State.g
  rw [s.reg_closePage n ha hr]

theorem State.bit_closePage_cause {f : Field} (off : f.off = A.FPE_LCAUSE n) (above : 3 ≤ f.lo) :
    (s.closePage n).bit f = s.bit f := by
  unfold State.closePage
  split
  · rfl
  · rw [State.bit_writeRecord_cause _ _ _ _ off above, State.bit_modBar]

/-- Whether a bar is armed for a line of the page in progress. -/
def Bar.armedNow (b : Bar) : Bool := match b.armed with | some (.lineNow _) => true | _ => false

theorem Bar.armedNow_iff (b : Bar) : b.armedNow = true ↔ ∃ l, b.armed = some (.lineNow l) := by
  unfold Bar.armedNow
  split
  · next l h => simp [h]
  · next h => exact ⟨nofun, fun ⟨l, hl⟩ => absurd hl (h l)⟩

/-- The record of the page with the mark of a stream in error. -/
def Bar.leftRec (b : Bar) (p : Page) (r : PageRec) : PageRec :=
  r.markIf (decide (b.rsp.errSerial = some p.desc.serial)) .streamErr

/-- The bar behind a page that it has left. -/
def State.leftBar (p : Page) (r : PageRec) : Bar :=
  { s.bar n with
    page := none, endTick := s.tick, abandon := false
    armed := if (s.bar n).armedNow then some .moved else (s.bar n).armed
    closing := some (p.desc, (s.bar n).leftRec p r), outT := s.now }

variable {s n} {p : Page} (f : PageRec → PageRec)

theorem State.leavePage_eq (page : (s.bar n).page = some p) : s.leavePage n f =
    if (s.bar n).armedNow then (s.modBar n fun _ => s.leftBar n p (f p.rcd)).put (F.FPE_STATUS_ARM_MISSED n) 1
    else s.modBar n fun _ => s.leftBar n p (f p.rcd) := by
  unfold State.leavePage
  rw [page]
  rfl

theorem State.bar_leavePage (page : (s.bar n).page = some p) : (s.leavePage n f).bar n = s.leftBar n p (f p.rcd) := by
  rw [State.leavePage_eq f page]
  split
  · rw [State.bar_put, State.bar_modBar_same]
  · rw [State.bar_modBar_same]

theorem State.onlyBarAndRegs_leavePage (page : (s.bar n).page = some p) :
    s.onlyBarAndRegs (s.leavePage n f) n [A.FPE_STATUS n] := by
  rw [State.leavePage_eq f page]
  split
  · exact ((State.onlyBarAndRegs.refl s n _).modBar _).put _ (List.mem_singleton.2 rfl)
  · exact (State.onlyBarAndRegs.refl s n _).modBar _

/-- How a bar stands behind a page that has ended (R66, R71). -/
def State.Ends (s t : State) (n : Fin 32) : Prop :=
  (t.bar n).page = none ∧ (t.bar n).endTick = s.tick ∧ (t.bar n).outT = s.now
    ∧ ((∃ l, (s.bar n).armed = some (.lineNow l)) → (t.bar n).armed = some .moved ∧ t.bit (F.FPE_STATUS_ARM_MISSED n) = true)
    ∧ (¬ (∃ l, (s.bar n).armed = some (.lineNow l)) → (t.bar n).armed = (s.bar n).armed)

theorem State.leavePage_ends (page : (s.bar n).page = some p) : s.Ends (s.leavePage n f) n := by
  have bar := State.bar_leavePage f page
  have missed := (s.bar n).armedNow_iff
  unfold State.Ends
  rw [bar]
  refine ⟨rfl, rfl, rfl, fun h => ⟨?_, ?_⟩, fun h => ?_⟩
  · exact if_pos (missed.2 h)
  · rw [State.leavePage_eq f page, if_pos (missed.2 h)]
    exact State.bit_put_one _ _ (Nat.le_of_ble_eq_true rfl) rfl
  · exact if_neg (mt missed.1 h)

/-- A page that ends with its record written at once. -/
theorem State.endPage_spec (page : (s.bar n).page = some p) :
    s.Ends (s.endPage n f) n ∧ ((s.endPage n f).bar n).closing = none
      ∧ (s.endPage n f).bit (F.FPE_LCAUSE_PAGE_END n) = true ∧ (s.endPage n f).reg (A.FPE_PREC_TAG n) = p.desc.tag
      ∧ (s.endPage n f).reg (A.FPE_PREC_FLAGS n) = BitVec.ofNat 32 ((s.bar n).leftRec p (f p.rcd)).flags
      ∧ ((s.endPage n f).bar n).rsp = (s.bar n).rsp := by
  obtain ⟨page', tick, time, missed, kept⟩ := State.leavePage_ends f page
  have left := State.bar_leavePage f page
  have closing : ((s.leavePage n f).bar n).closing = some (p.desc, (s.bar n).leftRec p (f p.rcd)) := by rw [left]; rfl
  obtain ⟨bar, ended, tag, flags⟩ := (s.leavePage n f).closePage_spec n closing
  have status : (s.endPage n f).bit (F.FPE_STATUS_ARM_MISSED n) = (s.leavePage n f).bit (F.FPE_STATUS_ARM_MISSED n) := by
    unfold State.bit
    rw [State.endPage, State.g_closePage _ _ (not_mem_closeOffs n (by decide)) (not_routerReg_above _ (by decide))]
  refine ⟨⟨?_, ?_, ?_, fun h => ⟨?_, ?_⟩, fun h => ?_⟩, ?_, ended, tag, flags, ?_⟩
  · rw [State.endPage, bar]; exact page'
  · rw [State.endPage, bar]; exact tick
  · rw [State.endPage, bar]; exact time
  · rw [State.endPage, bar]; exact (missed h).1
  · rw [status]; exact (missed h).2
  · rw [State.endPage, bar]; exact kept h
  · rw [State.endPage, bar]
  · rw [State.endPage, bar, left]; rfl

end

end Sys2Proof.Machine
end

section
/-!
PROOFS. Treatments of one bar stay within its block of registers; a treatment of every bar in turn is seen by a bar as
its own (02; 04 R125); used for O24 and O26.
-/

namespace Sys2Proof.Machine

/-! ## Within one bar's block -/

/-- Of bars and registers only bar `m` and the registers of its block change, beside the event router's. -/
def State.WithinBlock (s t : State) (m : Fin 32) : Prop :=
  s.SameMachine t ∧ (∀ n, n ≠ m → t.bar n = s.bar n) ∧ ∀ a, ¬ routerReg a → a / 0x10000 ≠ 0x10 + m.val → t.reg a = s.reg a

section
variable {s t : State} {m : Fin 32}

theorem State.WithinBlock.refl (s : State) (m : Fin 32) : s.WithinBlock s m :=
  ⟨State.SameMachine.refl s, fun _ _ => rfl, fun _ _ _ => rfl⟩

theorem State.WithinBlock.put (h : s.WithinBlock t m) {f : Field} (v : Nat) (place : f.off / 0x10000 = 0x10 + m.val) :
    s.WithinBlock (t.put f v) m := by
  obtain ⟨same, bars, regs⟩ := h
  refine ⟨same.trans (t.sameMachine_put f v), fun n hn => (t.bar_put n f v).trans (bars n hn), fun a hr ha => ?_⟩
  have apart : a ≠ f.off := fun e => ha (by rw [e]; exact place)
  rw [State.reg_put_other _ _ apart, regs a hr ha]

theorem State.WithinBlock.bumpBy (h : s.WithinBlock t m) {f : Field} (k : Nat) (place : f.off / 0x10000 = 0x10 + m.val) :
    s.WithinBlock (t.bumpBy f k) m := h.put _ place

theorem State.WithinBlock.setCause (h : s.WithinBlock t m) {f : Field} (place : f.off / 0x10000 = 0x10 + m.val) :
    s.WithinBlock (t.setCause f) m := by
  obtain ⟨same, bars, regs⟩ := h
  refine ⟨same.trans (t.sameMachine_setCause f), fun n hn => (t.bar_setCause f n).trans (bars n hn), fun a hr ha => ?_⟩
  have apart : a ≠ f.off := fun e => ha (by rw [e]; exact place)
  rw [State.reg_setCause_other _ _ apart hr, regs a hr ha]

theorem State.WithinBlock.modBar (h : s.WithinBlock t m) (f : Bar → Bar) : s.WithinBlock (t.modBar m f) m := by
  obtain ⟨same, bars, regs⟩ := h
  exact ⟨same.trans (t.sameMachine_modBar m f), fun n hn => (t.bar_modBar_other f hn).trans (bars n hn), regs⟩

/-- A field below the bars' blocks is as before. -/
theorem State.WithinBlock.g_low (h : s.WithinBlock t m) {f : Field} (hr : ¬ routerReg f.off) (low : f.off < 0x100000) :
    t.g f = s.g f := by
  obtain ⟨-, -, regs⟩ := h
  unfold State.g
  rw [regs _ hr (by omega)]

end

/-- The place of a register in its bar's block. -/
theorem block_place {k : Nat} (n : Fin 32) (h : k / 0x10000 = 0x10) : (k + n.val * 0x10000) / 0x10000 = 0x10 + n.val := by
  omega

/-! ## What one bar sees -/

/-- Two states agree on bar `n`: on the bar, its block of registers and everything below the bars' blocks. -/
def State.AgreesOn (s t : State) (n : Fin 32) : Prop :=
  s.SameMachine t ∧ t.bar n = s.bar n
    ∧ ∀ a, ¬ routerReg a → a / 0x10000 < 0x10 ∨ a / 0x10000 = 0x10 + n.val → t.reg a = s.reg a

section
variable {s t : State} {n : Fin 32}

theorem State.AgreesOn.refl (s : State) (n : Fin 32) : s.AgreesOn s n :=
  ⟨State.SameMachine.refl s, rfl, fun _ _ _ => rfl⟩

theorem State.AgreesOn.trans {u : State} (h : s.AgreesOn t n) (h' : t.AgreesOn u n) : s.AgreesOn u n := by
  obtain ⟨same, bar, regs⟩ := h
  obtain ⟨same', bar', regs'⟩ := h'
  exact ⟨same.trans same', bar'.trans bar, fun a hr ha => (regs' a hr ha).trans (regs a hr ha)⟩

/-- A treatment of another bar is not seen. -/
theorem State.AgreesOn.within (h : s.AgreesOn t n) {u : State} {m : Fin 32} (other : m ≠ n) (w : t.WithinBlock u m) :
    s.AgreesOn u n := by
  obtain ⟨same, bars, regs⟩ := w
  refine h.trans ⟨same, bars n other.symm, fun a hr ha => regs a hr fun e => ?_⟩
  rcases ha with low | own
  · omega
  · exact other (Fin.ext (Nat.add_left_cancel (e.symm.trans own)))

theorem State.AgreesOn.bar (h : s.AgreesOn t n) : t.bar n = s.bar n := h.2.1

theorem State.AgreesOn.tick (h : s.AgreesOn t n) : t.tick = s.tick := by
  obtain ⟨⟨grid, -, -, -⟩, -, -⟩ := h
  unfold State.tick
  rw [grid]

/-- A field of the bar's block is as before. -/
theorem State.AgreesOn.g (h : s.AgreesOn t n) {f : Field} (place : f.off / 0x10000 = 0x10 + n.val) : t.g f = s.g f := by
  obtain ⟨-, -, regs⟩ := h
  unfold State.g
  rw [regs _ (not_routerReg_of_le (by omega)) (.inr place)]

theorem State.AgreesOn.bit (h : s.AgreesOn t n) {f : Field} (place : f.off / 0x10000 = 0x10 + n.val) : t.bit f = s.bit f := by
  unfold State.bit
  rw [h.g place]

/-- A field below the bars' blocks is as before. -/
theorem State.AgreesOn.g_low (h : s.AgreesOn t n) {f : Field} (hr : ¬ routerReg f.off) (low : f.off < 0x100000) :
    t.g f = s.g f := by
  obtain ⟨-, -, regs⟩ := h
  unfold State.g
  rw [regs _ hr (.inl (by omega))]

theorem State.AgreesOn.up (h : s.AgreesOn t n) (d : Domain) : t.up d = s.up d := by
  obtain ⟨-, -, regs⟩ := h
  unfold State.up
  rw [regs _ (not_routerReg_below (by decide)) (.inl (by decide))]

end

/-- A treatment of every bar in turn, each within its block, is for a bar its own treatment, before and after which
it sees nothing change. -/
theorem foldl_allBars {f : State → Fin 32 → State} (within : ∀ s m, State.WithinBlock s (f s m) m) (s : State) (n : Fin 32) :
    ∃ u, s.AgreesOn u n ∧ (f u n).AgreesOn (allBars.foldl f s) n := by
  refine foldl_establishes (R := fun t => s.AgreesOn t n) (Q := fun t => ∃ u, s.AgreesOn u n ∧ (f u n).AgreesOn t n) n
    allBars_nodup (mem_allBars n) (fun t m other h => h.within other (within t m)) (fun t h => ⟨t, h, State.AgreesOn.refl _ n⟩)
    (fun t m other h => ?_) (State.AgreesOn.refl s n)
  obtain ⟨u, before, behind⟩ := h
  exact ⟨u, before, behind.within other (within t m)⟩

/-- What holds once an entry of a list has been treated, and every treatment keeps, holds after the whole list. -/
theorem foldl_of_mem {α : Type} {f : State → α → State} {P : State → Prop} {l : List α} {x : α} (named : x ∈ l)
    (does : ∀ s, P (f s x)) (keeps : ∀ s y, P s → P (f s y)) (s : State) : P (l.foldl f s) := by
  obtain ⟨a, b, rfl⟩ := List.append_of_mem named
  rw [List.foldl_append, List.foldl_cons]
  exact foldl_keeps b keeps (does _)

end Sys2Proof.Machine
end

section
/-!
PROOFS. How a page ends, what its record holds, the pause of a Pirouette and the resend behind it (02 R63-R71; 03 R89;
04 R123-R134); O24.
-/

namespace Sys2Proof.Machine

/-! ## The page ends of a tick (R63, R66, R134) -/

section
variable {s u : State} {n : Fin 32}

/-- The end of a page is seen from a state that agrees on the tick, the time and the arming. -/
theorem State.Ends.of_start {t : State} (h : u.Ends t n) (same : s.SameMachine u)
    (armed : (u.bar n).armed = (s.bar n).armed) : s.Ends t n := by
  obtain ⟨page, tick, time, missed, kept⟩ := h
  obtain ⟨grid, now, -, -⟩ := same
  rw [armed] at missed kept
  exact ⟨page, tick.trans (by unfold State.tick; rw [grid]), time.trans now, missed, kept⟩

/-- A page ends with a mark that its bar's treatment has set before. -/
theorem State.endPage_marked {p : Page} {r : PageRec} (page : (u.bar n).page = some { p with rcd := r })
    (same : s.SameMachine u) (armed : (u.bar n).armed = (s.bar n).armed)
    (err : (u.bar n).rsp.errSerial = (s.bar n).rsp.errSerial) :
    s.Ends (u.endPage n id) n ∧ ((u.endPage n id).bar n).closing = none
      ∧ (u.endPage n id).bit (F.FPE_LCAUSE_PAGE_END n) = true ∧ (u.endPage n id).reg (A.FPE_PREC_TAG n) = p.desc.tag
      ∧ (u.endPage n id).reg (A.FPE_PREC_FLAGS n) = BitVec.ofNat 32 ((s.bar n).leftRec p r).flags
      ∧ ((u.endPage n id).bar n).rsp = (u.bar n).rsp := by
  obtain ⟨ends, closing, ended, tag, flags, rsp⟩ := State.endPage_spec id page
  have mark : (u.bar n).leftRec { p with rcd := r } r = (s.bar n).leftRec p r := by
    unfold Bar.leftRec
    rw [err]
  exact ⟨ends.of_start same armed, closing, ended, tag, mark ▸ flags, rsp⟩

end

section
variable (s : State) (n : Fin 32)

/-- Ending a page leaves the registers alone that are neither the record's nor its bar's cause and status registers. -/
theorem State.reg_endPage {k : Nat} (f : PageRec → PageRec) (h : k ∉ 0x100004 :: 0x10000C :: recordPlaces)
    (high : 0xE0000 ≤ k) : (s.endPage n f).reg (k + n.val * 0x10000) = s.reg (k + n.val * 0x10000) := by
  rw [List.mem_cons, not_or] at h
  rw [State.endPage, State.reg_closePage _ _ (not_mem_closeOffs n h.2) (not_routerReg_above _ high)]
  cases page : (s.bar n).page with
  | none => simp [State.leavePage, page]
  | some p =>
    obtain ⟨-, -, regs⟩ := State.onlyBarAndRegs_leavePage f page
    exact regs _ fun e => h.1 (Nat.add_right_cancel (List.mem_singleton.1 e))

theorem State.g_endPage {k : Nat} (f : PageRec → PageRec) {e : Field} (off : e.off = k + n.val * 0x10000)
    (h : k ∉ 0x100004 :: 0x10000C :: recordPlaces) (high : 0xE0000 ≤ k) : (s.endPage n f).g e = s.g e := by
  unfold State.g
  rw [off, s.reg_endPage n f h high]

theorem State.bit_endPage_cause (f : PageRec → PageRec) {e : Field} (off : e.off = A.FPE_LCAUSE n) (above : 3 ≤ e.lo) :
    (s.endPage n f).bit e = s.bit e := by
  rw [State.endPage, State.bit_closePage_cause _ _ off above]
  cases page : (s.bar n).page with
  | none => simp [State.leavePage, page]
  | some p =>
    obtain ⟨-, -, regs⟩ := State.onlyBarAndRegs_leavePage f page
    unfold State.bit State.g
    rw [regs _ (off ▸ fun e => barOff_ne _ (by decide) (List.mem_singleton.1 e))]

/-- The streams of a page that is abandoned are discarded as they arrive (R134). -/
theorem State.bar_discardPage (d : PageDesc) : ∃ rsp,
    (s.discardPage n d).bar n = { s.bar n with rsp := rsp } ∧ rsp.errSerial = (s.bar n).rsp.errSerial
      ∧ rsp.discards = (s.bar n).rsp.discards ++ [(d.base, d.base + d.lines)] := by
  unfold State.discardPage State.modRsp
  exact ⟨_, State.bar_modBar_same _ _ _, rfl, rfl⟩

variable {s n} {p : Page} (page : (s.bar n).page = some p)
include page

theorem State.endCheck_eq : s.endCheck n =
    if s.killDue n || (s.bar n).abandon then
      (if (s.bar n).abandon then (if s.killDue n then s.markKilled n p else s).markAbandoned n p
        else if s.killDue n then s.markKilled n p else s).endPage n id
    else if s.pageDone n then s.leavePage n id else s := by
  unfold State.endCheck
  rw [page]

theorem State.pageDone_iff : s.pageDone n = true ↔ ∃ e, p.endAt = some e ∧ e ≤ s.tick ∧ (s.leader = true → p.lost = []) := by
  unfold State.pageDone
  rw [page]
  cases at_ : p.endAt with
  | none => simp [at_]
  | some e => cases s.leader <;> simp [at_]

/-- What the kill of a page marks (R63). -/
theorem State.markKilled_spec : s.SameMachine (s.markKilled n p)
    ∧ (s.markKilled n p).bar n = { s.bar n with page := some { p with rcd := p.rcd.mark .killed } }
    ∧ (∀ a, a ≠ A.FPE_KILLED_LINES n → (s.markKilled n p).reg a = s.reg a)
    ∧ (s.markKilled n p).g (F.FPE_KILLED_LINES_V n) = min (s.g (F.FPE_KILLED_LINES_V n)
        + ((s.bar n).killCount + (p.desc.lines - 1 + s.maxRow n + 1 - p.seen))) (2 ^ 32 - 1) := by
  unfold State.markKilled State.modRec State.modPage State.lastIndex
  refine ⟨(s.sameMachine_bumpBy _ _).trans (State.sameMachine_modBar _ _ _), ?_, fun a ha => ?_, ?_⟩
  · rw [State.bar_modBar_same, State.bar_bumpBy]
    simp only [page, Option.map_some]
  · rw [State.reg_modBar, State.bumpBy, State.reg_put_other _ _ ha]
  · rw [State.g_modBar, State.g_bumpBy _ _ _ (Nat.le_of_ble_eq_true rfl)]
    rfl

/-- What abandoning a page marks (R134). -/
theorem State.markAbandoned_spec : s.SameMachine (s.markAbandoned n p)
    ∧ (∃ rsp, (s.markAbandoned n p).bar n = { s.bar n with page := some { p with rcd := p.rcd.mark .abandoned }, rsp := rsp }
        ∧ rsp.errSerial = (s.bar n).rsp.errSerial
        ∧ rsp.discards = (s.bar n).rsp.discards ++ [(p.desc.base, p.desc.base + p.desc.lines)])
    ∧ (s.markAbandoned n p).bit (F.FPE_LCAUSE_ABANDONED n) = true
    ∧ s.counted (s.markAbandoned n p) (F.RSP_ABANDONED_V n)
    ∧ ∀ k, k ∉ [0x106058, 0x10000C] → 0xE0000 ≤ k →
        (s.markAbandoned n p).reg (k + n.val * 0x10000) = s.reg (k + n.val * 0x10000) := by
  have same : s.SameMachine ((s.bump (F.RSP_ABANDONED_V n)).setCause (F.FPE_LCAUSE_ABANDONED n)) :=
    (s.sameMachine_bumpBy _ _).trans (State.sameMachine_setCause _ _)
  have bar : ((s.bump (F.RSP_ABANDONED_V n)).setCause (F.FPE_LCAUSE_ABANDONED n)).bar n = s.bar n := by
    rw [State.bar_setCause, State.bump, State.bar_bumpBy]
  have regs (v : State) (a : Nat) : ((v.modRec n (·.mark .abandoned)).discardPage n p.desc).reg a = v.reg a := rfl
  unfold State.markAbandoned
  extract_lets v
  refine ⟨same.trans ((State.sameMachine_modBar _ _ _).trans (State.sameMachine_modBar _ _ _)), ?_, ?_, ?_, fun k hk high => ?_⟩
  · obtain ⟨rsp, discard, err, discards⟩ := (v.modRec n (·.mark .abandoned)).bar_discardPage n p.desc
    have marked : (v.modRec n (·.mark .abandoned)).bar n = { s.bar n with page := some { p with rcd := p.rcd.mark .abandoned } } := by
      unfold State.modRec State.modPage
      rw [State.bar_modBar_same, bar]
      simp only [page, Option.map_some]
    rw [marked] at discard err discards
    exact ⟨rsp, discard, err, discards⟩
  · unfold State.bit State.g
    rw [regs]
    exact State.bit_setCause _ (F.FPE_LCAUSE_ABANDONED n) (Nat.le_of_ble_eq_true rfl) rfl (not_routerReg_above _ (by decide))
  · have cause : v.reg (A.RSP_ABANDONED n) = (s.bump (F.RSP_ABANDONED_V n)).reg (A.RSP_ABANDONED n) :=
      State.reg_setCause_other _ _ (barOff_ne _ (by decide)) (not_routerReg_above _ (by decide))
    unfold State.counted State.g
    rw [regs, show (F.RSP_ABANDONED_V n).off = A.RSP_ABANDONED n from rfl, cause]
    exact State.g_bump s (F.RSP_ABANDONED_V n) (Nat.le_of_ble_eq_true rfl)
  · simp only [List.mem_cons, List.not_mem_nil, or_false, not_or] at hk
    rw [regs, State.reg_setCause_other _ _ (barOff_ne _ hk.2) (not_routerReg_above _ high)]
    exact State.reg_put_other _ _ (barOff_ne _ hk.1)

/-- A page whose last index is done leaves the bar; its record waits. -/
theorem State.endCheck_done (alive : s.killDue n = false) (stays : (s.bar n).abandon = false) (done : s.pageDone n = true) :
    s.Ends (s.endCheck n) n ∧ ((s.endCheck n).bar n).closing = some (p.desc, (s.bar n).leftRec p p.rcd)
      ∧ s.onlyBarAndRegs (s.endCheck n) n [A.FPE_STATUS n] := by
  have left : s.endCheck n = s.leavePage n id := by
    rw [State.endCheck_eq page, alive, stays, done]
    rfl
  rw [left, State.bar_leavePage id page]
  exact ⟨State.leavePage_ends id page, rfl, State.onlyBarAndRegs_leavePage id page⟩

/-- A page that is killed ends with its record, its unfired indices counted as killed. -/
theorem State.endCheck_killed (killed : s.killDue n = true) (stays : (s.bar n).abandon = false) :
    s.Ends (s.endCheck n) n ∧ ((s.endCheck n).bar n).closing = none ∧ (s.endCheck n).bit (F.FPE_LCAUSE_PAGE_END n) = true
      ∧ (s.endCheck n).reg (A.FPE_PREC_TAG n) = p.desc.tag
      ∧ (s.endCheck n).reg (A.FPE_PREC_FLAGS n) = BitVec.ofNat 32 ((s.bar n).leftRec p (p.rcd.mark .killed)).flags
      ∧ (s.endCheck n).g (F.FPE_KILLED_LINES_V n) = min (s.g (F.FPE_KILLED_LINES_V n)
          + ((s.bar n).killCount + (p.desc.lines - 1 + s.maxRow n + 1 - p.seen))) (2 ^ 32 - 1)
      ∧ (s.endCheck n).reg (A.FPE_DROPPED n) = s.reg (A.FPE_DROPPED n) := by
  have ended : s.endCheck n = (s.markKilled n p).endPage n id := by
    rw [State.endCheck_eq page, killed, stays, Bool.true_or, if_pos rfl, if_neg Bool.false_ne_true, if_pos rfl]
  obtain ⟨same, bar, regs, lines⟩ := State.markKilled_spec page
  obtain ⟨ends, closing, pageEnd, tag, flags, -⟩ := State.endPage_marked (s := s) (u := s.markKilled n p)
    (r := p.rcd.mark .killed) (by rw [bar]) same (by rw [bar]) (by rw [bar])
  rw [ended, State.g_endPage _ n id (e := F.FPE_KILLED_LINES_V n) rfl (by decide) (by decide)]
  exact ⟨ends, closing, pageEnd, tag, flags, lines,
    (State.reg_endPage _ n id (k := 0x100400) (by decide) (by decide)).trans (regs _ (barOff_ne _ (by decide)))⟩

/-- A page that is abandoned ends with its record, its stream discarded. -/
theorem State.endCheck_abandoned (alive : s.killDue n = false) (quits : (s.bar n).abandon = true) :
    s.Ends (s.endCheck n) n ∧ ((s.endCheck n).bar n).closing = none ∧ (s.endCheck n).bit (F.FPE_LCAUSE_PAGE_END n) = true
      ∧ (s.endCheck n).bit (F.FPE_LCAUSE_ABANDONED n) = true ∧ s.counted (s.endCheck n) (F.RSP_ABANDONED_V n)
      ∧ (s.endCheck n).reg (A.FPE_PREC_FLAGS n) = BitVec.ofNat 32 ((s.bar n).leftRec p (p.rcd.mark .abandoned)).flags
      ∧ ((s.endCheck n).bar n).rsp.discards = (s.bar n).rsp.discards ++ [(p.desc.base, p.desc.base + p.desc.lines)]
      ∧ (s.endCheck n).reg (A.FPE_DROPPED n) = s.reg (A.FPE_DROPPED n)
      ∧ (s.endCheck n).reg (A.RSP_SKIPPED n) = s.reg (A.RSP_SKIPPED n) := by
  have ended : s.endCheck n = (s.markAbandoned n p).endPage n id := by
    rw [State.endCheck_eq page, alive, quits, Bool.or_true, if_pos rfl, if_pos rfl, if_neg Bool.false_ne_true]
  obtain ⟨same, ⟨rsp, bar, err, discards⟩, marked, count, regs⟩ := State.markAbandoned_spec page
  obtain ⟨ends, closing, pageEnd, -, flags, hrsp⟩ := State.endPage_marked (s := s) (u := s.markAbandoned n p)
    (r := p.rcd.mark .abandoned) (by rw [bar]) same (by rw [bar]) (by rw [bar]; exact err)
  have counts : s.counted ((s.markAbandoned n p).endPage n id) (F.RSP_ABANDONED_V n) := by
    unfold State.counted
    rw [State.g_endPage _ n id (e := F.RSP_ABANDONED_V n) rfl (by decide) (by decide)]
    exact count
  rw [ended]
  exact ⟨ends, closing, pageEnd,
    (State.bit_endPage_cause _ n id (e := F.FPE_LCAUSE_ABANDONED n) rfl (Nat.le_of_ble_eq_true rfl)).trans marked, counts, flags,
    by rw [hrsp, bar]; exact discards,
    (State.reg_endPage _ n id (k := 0x100400) (by decide) (by decide)).trans (regs 0x100400 (by decide) (by decide)),
    (State.reg_endPage _ n id (k := 0x106044) (by decide) (by decide)).trans (regs 0x106044 (by decide) (by decide))⟩

end

/-! ## A record that waits is written in time (R69) -/

/-- What the writing of late records needs of a bar that has one. -/
def State.Waits (s : State) (n : Fin 32) (d : PageDesc) (r : PageRec) (t : State) : Prop :=
  s.SameMachine t ∧ (t.bar n).closing = some (d, r) ∧ t.g F.PWR_STATUS_STATE = s.g F.PWR_STATUS_STATE

/-- What it leaves of the bar. -/
def State.Written (s : State) (n : Fin 32) (d : PageDesc) (r : PageRec) (t : State) : Prop :=
  s.SameMachine t ∧ (t.bar n).closing = none ∧ t.g F.PWR_STATUS_STATE = s.g F.PWR_STATUS_STATE
    ∧ t.bit (F.FPE_LCAUSE_PAGE_END n) = true ∧ t.reg (A.FPE_PREC_TAG n) = d.tag
    ∧ t.reg (A.FPE_PREC_FLAGS n) = BitVec.ofNat 32 r.flags

theorem not_mem_closeOffs_below {a : Nat} (n : Fin 32) (h : a < 0x100000) : a ∉ A.FPE_LCAUSE n :: recordOffs n := by
  have places : ∀ k ∈ 0x10000C :: recordPlaces, 0x100000 ≤ k := by decide
  have all : A.FPE_LCAUSE n :: recordOffs n = (0x10000C :: recordPlaces).map (· + n.val * 0x10000) := rfl
  rw [all, List.mem_map]
  rintro ⟨k, named, rfl⟩
  have := places k named
  omega

/-- Registers of another bar's record lie apart. -/
theorem not_mem_closeOffs_bars {n m : Fin 32} (h : n ≠ m) {k : Nat} (place : k / 0x10000 = 0x10) :
    k + m.val * 0x10000 ∉ A.FPE_LCAUSE n :: recordOffs n := by
  have places : ∀ j ∈ 0x10000C :: recordPlaces, j / 0x10000 = 0x10 := by decide
  have all : A.FPE_LCAUSE n :: recordOffs n = (0x10000C :: recordPlaces).map (· + n.val * 0x10000) := rfl
  rw [all, List.mem_map]
  rintro ⟨j, named, e⟩
  exact barOff_bars_ne h ((places j named).trans place.symm) e

theorem State.closePage_state (s : State) (n : Fin 32) : (s.closePage n).g F.PWR_STATUS_STATE = s.g F.PWR_STATUS_STATE :=
  s.g_closePage n (not_mem_closeOffs_below n (by decide)) (not_routerReg_below (by decide))

/-- A record that waits longer than 2 us behind the SY edge is written. -/
theorem State.closeLate_writes (s : State) (n : Fin 32) (d : PageDesc) (r : PageRec)
    (waits : (s.bar n).closing = some (d, r)) (late : s.syEdge + us 2 ≤ s.now) : s.Written n d r s.closeLate := by
  refine foldl_establishes (f := fun (s : State) (n : Fin 32) => if s.recordLate n then s.closePage n else s)
    (R := s.Waits n d r) (Q := s.Written n d r) n allBars_nodup (mem_allBars n) (fun t m other h => ?_) (fun t h => ?_)
    (fun t m other h => ?_) ⟨State.SameMachine.refl s, waits, rfl⟩
  · split
    · obtain ⟨same, closing, power⟩ := h
      exact ⟨same.trans (t.sameMachine_closePage m), by rw [t.bar_closePage_other m other.symm, closing],
        (t.closePage_state m).trans power⟩
    · exact h
  · obtain ⟨same, closing, power⟩ := h
    have due : t.recordLate n = true := by
      obtain ⟨grid, now, -, -⟩ := same
      simp only [State.recordLate, closing, Option.isSome_some, Bool.true_and, decide_eq_true_iff]
      rw [State.syEdge, grid, now]
      exact late
    rw [if_pos due]
    obtain ⟨bar, ended, tag, flags⟩ := t.closePage_spec n closing
    exact ⟨same.trans (t.sameMachine_closePage n), by rw [bar], (t.closePage_state n).trans power, ended, tag, flags⟩
  · split
    · obtain ⟨same, closing, power, ended, tag, flags⟩ := h
      have regs {k : Nat} (place : k / 0x10000 = 0x10) : (t.closePage m).reg (k + n.val * 0x10000) = t.reg (k + n.val * 0x10000) :=
        t.reg_closePage m (not_mem_closeOffs_bars other place) (not_routerReg_above _ (by omega))
      refine ⟨same.trans (t.sameMachine_closePage m), by rw [t.bar_closePage_other m other.symm, closing],
        (t.closePage_state m).trans power, ?_, (regs (by decide)).trans tag, (regs (by decide)).trans flags⟩
      unfold State.bit State.g at ended ⊢
      rwa [show (F.FPE_LCAUSE_PAGE_END n).off = 0x10000C + n.val * 0x10000 from rfl, regs (by decide)]
    · exact h

/-- Outside state entries the power controller does nothing in a cycle. -/
theorem State.sampleLevels_awake (s : State) (req : s.power.req = none) (awake : s.g F.PWR_STATUS_STATE < 2) :
    s.sampleLevels = s := by
  have watching : s.watching = false := by
    simp [State.watching, req, Nat.not_le.2 awake]
  simp [State.sampleLevels, watching]

theorem State.runPhases_awake (s : State) (req : s.power.req = none) : s.runPhases = s := by
  simp [State.runPhases, State.entering, req]

/-- A cycle without commands writes the record that has waited long enough. -/
theorem State.step_writes (s : State) (n : Fin 32) (d : PageDesc) (r : PageRec) (quiet : s.pending = [])
    (on : s.power.off = false) (req : s.power.req = none) (awake : s.g F.PWR_STATUS_STATE < 2)
    (waits : (s.bar n).closing = some (d, r)) (late : s.syEdge + us 2 ≤ s.now) :
    ∃ t, step s = .next t ∧ ({ s with now := s.now + s.tsStep } : State).Written n d r t := by
  have written := State.closeLate_writes { s with now := s.now + s.tsStep } n d r waits (Nat.le_trans late (Nat.le_add_right _ _))
  refine ⟨({ s with now := s.now + s.tsStep } : State).closeLate, ?_, written⟩
  obtain ⟨⟨-, -, power, -⟩, -, state, -⟩ := written
  have none' : ({ s with now := s.now + s.tsStep } : State).closeLate.power.req = none := by rw [power]; exact req
  have cycle : step s = .next s.idle := by
    unfold step
    rw [quiet]
  rw [cycle, State.idle, on, if_neg Bool.false_ne_true, State.sampleLevels_awake _ none' (by rw [state]; exact awake), State.runPhases_awake _ none']

/-! ## The pause of a Pirouette (R124-R129) -/

theorem State.stopRequest_spec (s : State) (m : Nat) :
    (s.leader = true → s.grid.paused = false →
        s.stopRequest m = { s with grid := { s.grid with stopAt := some (min m (s.grid.stopAt.getD m)) } })
      ∧ (s.leader = false ∨ s.grid.paused = true → s.stopRequest m = s) := by
  unfold State.stopRequest
  refine ⟨fun leads runs => ?_, fun h => ?_⟩
  · rw [leads, runs]
    rfl
  · rw [if_pos]
    rcases h with h | h <;> simp [h]

section
variable (s : State) (n : Fin 32)

/-- The counters of a stop in a bar inside a page (R125). -/
def State.stopCounted : State := (s.bump (F.RSP_STOPS_V n)).setCause (F.FPE_LCAUSE_STOP n)

/-- The record of the page with the mark of a stop. -/
def PageRec.stopped (r : PageRec) : PageRec := { r.mark .pirouette with stops := r.stops + 1 }

theorem State.pauseBar_outside (page : (s.bar n).page = none) : s.pauseBar n = s := by
  simp [State.pauseBar, Bar.inPage, page]

/-- What a stop marks before the resume record is written. -/
def State.stopMarked : State := (s.stopCounted n).modRec n PageRec.stopped

theorem State.withinBlock_stopMarked : s.WithinBlock (s.stopMarked n) n :=
  (((State.WithinBlock.refl s n).bumpBy _ (block_place n (by decide))).setCause (block_place n (by decide))).modBar _

theorem State.bar_stopMarked {p : Page} (page : (s.bar n).page = some p) :
    (s.stopMarked n).bar n = { s.bar n with page := some { p with rcd := p.rcd.stopped } } := by
  unfold State.stopMarked State.modRec State.modPage State.stopCounted
  rw [State.bar_modBar_same, State.bar_setCause, State.bump, State.bar_bumpBy]
  simp only [page, Option.map_some]

theorem State.stopMarked_causes : (s.stopMarked n).bit (F.FPE_LCAUSE_STOP n) = true
    ∧ s.counted (s.stopMarked n) (F.RSP_STOPS_V n) := by
  unfold State.stopMarked State.modRec State.modPage
  refine ⟨?_, ?_⟩
  · rw [State.bit_modBar]
    exact State.bit_setCause _ _ (Nat.le_of_ble_eq_true rfl) rfl (not_routerReg_above _ (by decide))
  · unfold State.counted
    rw [State.g_modBar, State.stopCounted, State.g_setCause_of_apart _ (Nat.le_of_ble_eq_true rfl)
      (.inl (barOff_ne _ (by decide))) (not_routerReg_above _ (by decide))]
    exact State.g_bump s _ (Nat.le_of_ble_eq_true rfl)

/-- A 48-bit value is read back from its two words. -/
theorem State.g48_put48 {lo hi : Field} (x : Int) (apart : lo.off ≠ hi.off) (low : lo.lo = 0 ∧ lo.w = 32)
    (high : hi.lo = 0 ∧ hi.w = 16) : (s.put48 lo hi x).g48 lo hi = signed 48 (unsigned 48 x) := by
  have small := unsigned_lt 48 x
  obtain ⟨hlo, hlow⟩ := low
  obtain ⟨hhi, hhiw⟩ := high
  unfold State.g48 State.put48
  rw [State.g_put_same _ hi _ (by omega), State.g_put_other _ _ _ _ apart, State.g_put_same _ lo _ (by omega), hlow, hhiw]
  generalize unsigned 48 x = u at small
  exact congrArg (signed 48) (by omega)

/-- The words of the resume record lie in the block of its bar. -/
theorem State.withinBlock_put48 {t : State} (h : s.WithinBlock t n) {lo hi : Field} (x : Int)
    (low : lo.off / 0x10000 = 0x10 + n.val) (high : hi.off / 0x10000 = 0x10 + n.val) : s.WithinBlock (t.put48 lo hi x) n :=
  (h.put _ low).put _ high

theorem State.pauseBar_inside {p : Page} (page : (s.bar n).page = some p) : s.pauseBar n =
    ((s.stopMarked n).put (F.RSP_RESUME_IDX_V n) p.firstUnprinted).put48 (F.RSP_RESUME_DUE_LO_V n) (F.RSP_RESUME_DUE_HI_V n)
      (s.duePos p.s p.firstUnprinted) := by
  have pitch : (s.stopMarked n).pitch = s.pitch :=
    (s.withinBlock_stopMarked n).g_low (not_routerReg_behind (by decide)) (by decide)
  have marked : s.pauseBar n = (s.stopMarked n).resumeRecord n := by
    unfold State.pauseBar
    rw [if_neg (by simp [Bar.inPage, page])]
    unfold State.stopMarked State.stopCounted PageRec.stopped
    rfl
  have due (x : Int) (k : Nat) : (s.stopMarked n).duePos x k = s.duePos x k := by
    unfold State.duePos
    rw [pitch]
  have stopped : ((s.stopMarked n).bar n).page = some { p with rcd := p.rcd.stopped } := by rw [s.bar_stopMarked n page]
  have first : Page.firstUnprinted { p with rcd := p.rcd.stopped } = p.firstUnprinted := rfl
  rw [marked, State.resumeRecord, stopped]
  dsimp only
  rw [first, due]

theorem State.withinBlock_pauseBar : s.WithinBlock (s.pauseBar n) n := by
  cases page : (s.bar n).page with
  | none => rw [s.pauseBar_outside n page]; exact State.WithinBlock.refl s n
  | some p =>
    rw [s.pauseBar_inside n page]
    exact State.withinBlock_put48 s n ((s.withinBlock_stopMarked n).put _ (block_place n (by decide))) _
      (block_place n (by decide)) (block_place n (by decide))

/-- A bar inside a page records the stop (R125, R126). -/
theorem State.pauseBar_spec {p : Page} (page : (s.bar n).page = some p) :
    (s.pauseBar n).bar n = { s.bar n with page := some { p with rcd := p.rcd.stopped } }
      ∧ (s.pauseBar n).bit (F.FPE_LCAUSE_STOP n) = true ∧ s.counted (s.pauseBar n) (F.RSP_STOPS_V n)
      ∧ (s.pauseBar n).g (F.RSP_RESUME_IDX_V n) = p.firstUnprinted % 2 ^ 32
      ∧ (s.pauseBar n).g48 (F.RSP_RESUME_DUE_LO_V n) (F.RSP_RESUME_DUE_HI_V n)
        = signed 48 (unsigned 48 (p.s + p.firstUnprinted * s.pitch)) := by
  obtain ⟨stop, stops⟩ := s.stopMarked_causes n
  have kept {f : Field} {k : Nat} (off : f.off = k + n.val * 0x10000) (apart : k ∉ [0x106018, 0x10601C, 0x106020]) :
      (s.pauseBar n).g f = (s.stopMarked n).g f := by
    simp only [List.mem_cons, List.not_mem_nil, or_false, not_or] at apart
    obtain ⟨idx, lo, hi⟩ := apart
    rw [s.pauseBar_inside n page, State.put48, State.g_put_other _ _ _ _ (off ▸ barOff_ne _ hi),
      State.g_put_other _ _ _ _ (off ▸ barOff_ne _ lo), State.g_put_other _ _ _ _ (off ▸ barOff_ne _ idx)]
  refine ⟨?_, ?_, ?_, ?_, ?_⟩
  · rw [s.pauseBar_inside n page, State.put48, State.bar_put, State.bar_put, State.bar_put, s.bar_stopMarked n page]
  · unfold State.bit at stop ⊢
    rwa [kept rfl (by decide)]
  · unfold State.counted
    rw [kept rfl (by decide)]
    exact stops
  · rw [s.pauseBar_inside n page, State.put48, State.g_put_other _ _ _ _ (barOff_ne _ (by decide)),
      State.g_put_other _ _ _ _ (barOff_ne _ (by decide)), State.g_put_same _ _ _ (Nat.le_of_ble_eq_true rfl)]
    rfl
  · rw [s.pauseBar_inside n page]
    exact State.g48_put48 _ _ (barOff_ne _ (by decide)) ⟨rfl, rfl⟩ ⟨rfl, rfl⟩

/-- A stop leaves alone what is neither its counters nor the resume record. -/
theorem State.g_pauseBar {f : Field} {k : Nat} (off : f.off = k + n.val * 0x10000)
    (apart : k ∉ [0x10000C, 0x10604C, 0x106018, 0x10601C, 0x106020]) (high : 0xE0000 ≤ k) : (s.pauseBar n).g f = s.g f := by
  simp only [List.mem_cons, List.not_mem_nil, or_false, not_or] at apart
  obtain ⟨cause, stops, idx, lo, hi⟩ := apart
  cases page : (s.bar n).page with
  | none => rw [s.pauseBar_outside n page]
  | some p =>
    have counted : (s.stopCounted n).g f = s.g f := by
      rw [State.stopCounted, State.g_setCause_of_apart _ (Nat.le_of_ble_eq_true rfl) (.inl (off ▸ barOff_ne _ cause))
        (off ▸ not_routerReg_above _ high)]
      exact State.g_put_other _ _ _ _ (off ▸ barOff_ne _ stops)
    rw [s.pauseBar_inside n page, State.put48, State.g_put_other _ _ _ _ (off ▸ barOff_ne _ hi),
      State.g_put_other _ _ _ _ (off ▸ barOff_ne _ lo), State.g_put_other _ _ _ _ (off ▸ barOff_ne _ idx)]
    rw [State.stopMarked, State.modRec, State.modPage, State.g_modBar, counted]

theorem State.bar_pauseBar : (s.pauseBar n).bar n =
    { s.bar n with page := (s.bar n).page.map fun p => { p with rcd := p.rcd.stopped } } := by
  cases page : (s.bar n).page with
  | none => rw [s.pauseBar_outside n page, Option.map_none, ← page]
  | some p =>
    obtain ⟨bar, -⟩ := s.pauseBar_spec n page
    rw [bar, Option.map_some]

/-- The pause begins, before the bars treat it. -/
def State.pauseStart : State :=
  { s with
    grid := { s.grid with paused := true, stopAt := none, stopTick := s.tick }
    xpt := { s.xpt with plan := none, pirDue := s.g F.XPT_STATUS_STATE == 1 || s.g F.XPT_STATUS_STATE == 2 } }

/-- A paused tick as a bar counts it (R125). -/
def State.countPaused : State := if s.up (barDomain n) then s.bump (F.RSP_PAUSED_V n) else s

theorem State.withinBlock_countPaused : s.WithinBlock (s.countPaused n) n := by
  unfold State.countPaused
  split
  · exact (State.WithinBlock.refl s n).bumpBy 1 (block_place n (by decide))
  · exact State.WithinBlock.refl s n

theorem State.bar_countPaused : (s.countPaused n).bar n = s.bar n := by
  unfold State.countPaused
  split
  · rw [State.bump, State.bar_bumpBy]
  · rfl

theorem State.g_countPaused {f : Field} (other : f.off ≠ A.RSP_PAUSED n) : (s.countPaused n).g f = s.g f := by
  unfold State.countPaused
  split
  · exact State.g_put_other _ _ _ _ other
  · rfl

theorem State.counted_countPaused (on : s.up (barDomain n) = true) : s.counted (s.countPaused n) (F.RSP_PAUSED_V n) := by
  rw [State.countPaused, if_pos on]
  exact s.counted_bump (Nat.le_of_ble_eq_true rfl)

/-- The bars count a paused tick. -/
def State.allCountPaused : State := allBars.foldl State.countPaused s

/-- A paused tick that is not the first after the stop tick only counts. -/
theorem State.pausedTick_counts (later : s.allCountPaused.tick ≠ s.allCountPaused.grid.stopTick + 1) :
    s.pausedTick = s.allCountPaused := if_neg later

/-- What a bar sees of the start of a pause: its own stop and its own count. -/
theorem State.pauseStart_bar : ∃ v, (∃ u, s.pauseStart.AgreesOn u n ∧ (u.pauseBar n).AgreesOn v n)
    ∧ (v.countPaused n).AgreesOn s.beginPause.allCountPaused n := by
  obtain ⟨u, before, stopped⟩ := foldl_allBars State.withinBlock_pauseBar s.pauseStart n
  obtain ⟨v, between, behind⟩ := foldl_allBars State.withinBlock_countPaused s.beginPause n
  exact ⟨v, ⟨u, before, stopped.trans between⟩, behind⟩

theorem State.allCountPaused_grid : s.allCountPaused.grid = s.grid := by
  obtain ⟨u, ⟨⟨grid, -⟩, -⟩, ⟨⟨grid', -⟩, -⟩⟩ := foldl_allBars State.withinBlock_countPaused s 0
  obtain ⟨⟨within, -⟩, -⟩ := u.withinBlock_countPaused 0
  exact grid'.trans (within.trans grid)

theorem State.beginPause_grid : s.beginPause.grid = { s.grid with paused := true, stopAt := none, stopTick := s.tick } := by
  obtain ⟨u, ⟨⟨grid, -⟩, -⟩, ⟨⟨grid', -⟩, -⟩⟩ := foldl_allBars State.withinBlock_pauseBar s.pauseStart 0
  obtain ⟨⟨within, -⟩, -⟩ := u.withinBlock_pauseBar 0
  exact grid'.trans (within.trans grid)

theorem State.stopTick_counts : s.beginPause.pausedTick = s.beginPause.allCountPaused := by
  refine State.pausedTick_counts _ ?_
  unfold State.tick
  rw [State.allCountPaused_grid, State.beginPause_grid]
  exact Nat.ne_of_lt (Nat.lt_succ_self _)

end

section
variable (s : State) (n : Fin 32)

/-- How a bar stands behind its stop tick: its own record, cause, counters and resume record, the rest as before. -/
theorem State.stopTick_bar : ((s.beginPause.pausedTick).bar n
      = { s.bar n with page := (s.bar n).page.map fun p => { p with rcd := p.rcd.stopped } })
    ∧ (s.up (barDomain n) = true → s.counted s.beginPause.pausedTick (F.RSP_PAUSED_V n))
    ∧ ∀ p, (s.bar n).page = some p →
        s.beginPause.pausedTick.bit (F.FPE_LCAUSE_STOP n) = true ∧ s.counted s.beginPause.pausedTick (F.RSP_STOPS_V n)
          ∧ s.beginPause.pausedTick.g (F.RSP_RESUME_IDX_V n) = p.firstUnprinted % 2 ^ 32
          ∧ s.beginPause.pausedTick.g48 (F.RSP_RESUME_DUE_LO_V n) (F.RSP_RESUME_DUE_HI_V n)
            = signed 48 (unsigned 48 (p.s + p.firstUnprinted * s.pitch)) := by
  obtain ⟨v, ⟨u, before, between⟩, behind⟩ := s.pauseStart_bar n
  rw [State.stopTick_counts]
  generalize s.beginPause.allCountPaused = t at behind
  have bar : u.bar n = s.bar n := before.bar
  have start {f : Field} (place : f.off / 0x10000 = 0x10 + n.val) : u.g f = s.g f := before.g place
  have seen {f : Field} (place : f.off / 0x10000 = 0x10 + n.val) (other : f.off ≠ A.RSP_PAUSED n) :
      t.g f = (u.pauseBar n).g f := by
    rw [behind.g place, v.g_countPaused n other, between.g place]
  refine ⟨?_, fun on => ?_, fun p page => ?_⟩
  · rw [behind.bar, State.bar_countPaused, between.bar, State.bar_pauseBar, bar]
  · have on' : v.up (barDomain n) = true := by
      obtain ⟨-, -, regs⟩ := u.withinBlock_pauseBar n
      have low : (u.pauseBar n).up (barDomain n) = u.up (barDomain n) := by
        unfold State.up
        rw [regs _ (not_routerReg_below (by decide)) (by simp only [A.PWR_DOM_STATUS]; omega)]
      rw [between.up, low, before.up]
      exact on
    have counts := v.counted_countPaused n on'
    unfold State.counted at counts ⊢
    rw [behind.g (block_place n (by decide)), counts, between.g (block_place n (by decide)),
      u.g_pauseBar n (f := F.RSP_PAUSED_V n) rfl (by decide) (by decide), start (block_place n (by decide))]
  · obtain ⟨-, stop, stops, idx, due⟩ := u.pauseBar_spec n (p := p) (by rw [bar]; exact page)
    have pitch : u.pitch = s.pitch := before.g_low (not_routerReg_behind (by decide)) (by decide)
    refine ⟨?_, ?_, ?_, ?_⟩
    · unfold State.bit at stop ⊢
      rwa [seen (block_place n (by decide)) (barOff_ne _ (by decide))]
    · unfold State.counted at stops ⊢
      rw [seen (block_place n (by decide)) (barOff_ne _ (by decide)), stops, start (block_place n (by decide))]
    · rw [seen (block_place n (by decide)) (barOff_ne _ (by decide)), idx]
    · unfold State.g48 at due ⊢
      rw [seen (block_place n (by decide)) (barOff_ne _ (by decide)), seen (block_place n (by decide)) (barOff_ne _ (by decide)),
        due, pitch]

/-- Inside no pause, a stop tick that has come begins one. -/
theorem State.selectionPhase_stop (runs : s.grid.paused = false) {m : Nat} (stop : s.grid.stopAt = some m) (due : m ≤ s.tick) :
    s.selectionPhase = s.beginPause.pausedTick := by
  simp [State.selectionPhase, runs, stop, due]

/-- The capture tests of the bars whose domain is on. -/
def State.captureTests : State := allBars.foldl (fun s (n : Fin 32) => if s.up (barDomain n) then s.captureTest n else s) s

/-- An underrun in leader mode begins a pause at its tick (R121, R123). -/
theorem State.selectionPhase_underrun (runs : s.grid.paused = false) (free : s.grid.stopAt = none)
    (under : s.captureTests.selectAll.2 ≠ []) : s.selectionPhase =
      (s.captureTests.selectAll.2.foldl State.markUnderrun s.captureTests).beginPause.pausedTick := by
  unfold State.captureTests at under ⊢
  simp only [State.selectionPhase, runs, free, Bool.false_eq_true, if_false]
  rw [if_neg under]

/-- The tick is the grid's. -/
theorem State.tick_of_grid {s t : State} (h : t.grid = s.grid) : t.tick = s.tick := by
  unfold State.tick
  rw [h]

theorem State.tick_captureTest : (s.captureTest n).tick = s.tick := by
  unfold State.captureTest
  split
  · rfl
  · split
    · extract_lets r
      exact (State.tick_of_grid (State.sameMachine_writeRecord _ n _ _).1).trans (State.tick_of_grid (s.modBar_grid n _))
    · rfl

theorem State.tick_captureTests : s.captureTests.tick = s.tick := by
  unfold State.captureTests
  refine foldl_keeps (P := fun t : State => t.tick = s.tick) allBars (fun t (m : Fin 32) h => ?_) rfl
  split
  · exact (t.tick_captureTest m).trans h
  · exact h

theorem State.withinBlock_markUnderrun : s.WithinBlock (s.markUnderrun n) n := by
  have marked : s.WithinBlock ((s.bump (F.RSP_UNDERRUNS_V n)).setCause (F.FPE_LCAUSE_UNDERRUN n)) n :=
    ((State.WithinBlock.refl s n).bumpBy 1 (block_place n (by decide))).setCause (block_place n (by decide))
  unfold State.markUnderrun
  extract_lets u
  split
  · exact marked.modBar _
  · exact marked.modBar _

theorem State.bit_markUnderrun : (s.markUnderrun n).bit (F.FPE_LCAUSE_UNDERRUN n) = true := by
  have marked : ((s.bump (F.RSP_UNDERRUNS_V n)).setCause (F.FPE_LCAUSE_UNDERRUN n)).bit (F.FPE_LCAUSE_UNDERRUN n) = true :=
    State.bit_setCause _ _ (Nat.le_of_ble_eq_true rfl) rfl (not_routerReg_above _ (by decide))
  unfold State.markUnderrun
  extract_lets u
  split
  · rw [State.modRec, State.modPage, State.bit_modBar]
    exact marked
  · rw [State.bit_modBar]
    exact marked

/-- Every bar of a list that has met an underrun keeps its cause. -/
theorem State.bit_markUnderruns {l : List (Fin 32)} (named : n ∈ l) :
    (l.foldl State.markUnderrun s).bit (F.FPE_LCAUSE_UNDERRUN n) = true := by
  refine foldl_of_mem (P := fun t : State => t.bit (F.FPE_LCAUSE_UNDERRUN n) = true) named (fun t => t.bit_markUnderrun n)
    (fun t m h => ?_) s
  by_cases same : m = n
  · rw [same]
    exact t.bit_markUnderrun n
  · rw [((State.AgreesOn.refl t n).within same (t.withinBlock_markUnderrun m)).bit (block_place n (by decide))]
    exact h

theorem State.bit_pauseBar_underrun : (s.pauseBar n).bit (F.FPE_LCAUSE_UNDERRUN n) = s.bit (F.FPE_LCAUSE_UNDERRUN n) := by
  cases page : (s.bar n).page with
  | none => rw [s.pauseBar_outside n page]
  | some p =>
    rw [s.pauseBar_inside n page, State.put48, State.bit_put_of_apart _ _ (Nat.le_of_ble_eq_true rfl) (.inl (barOff_ne _ (by decide))),
      State.bit_put_of_apart _ _ (Nat.le_of_ble_eq_true rfl) (.inl (barOff_ne _ (by decide))),
      State.bit_put_of_apart _ _ (Nat.le_of_ble_eq_true rfl) (.inl (barOff_ne _ (by decide))), State.stopMarked, State.modRec,
      State.modPage, State.bit_modBar, State.stopCounted,
      State.bit_setCause_of_apart _ (Nat.le_of_ble_eq_true rfl) (.inr (.inl (Nat.le_of_ble_eq_true rfl)))
        (not_routerReg_above _ (by decide))]
    exact State.bit_put_of_apart _ _ (Nat.le_of_ble_eq_true rfl) (.inl (barOff_ne _ (by decide)))

theorem State.bit_stopTick_underrun :
    s.beginPause.pausedTick.bit (F.FPE_LCAUSE_UNDERRUN n) = s.bit (F.FPE_LCAUSE_UNDERRUN n) := by
  obtain ⟨v, ⟨u, before, between⟩, behind⟩ := s.pauseStart_bar n
  have counted : (v.countPaused n).bit (F.FPE_LCAUSE_UNDERRUN n) = v.bit (F.FPE_LCAUSE_UNDERRUN n) := by
    unfold State.bit
    rw [v.g_countPaused n (barOff_ne _ (by decide))]
  rw [State.stopTick_counts, behind.bit (block_place n (by decide)), counted, between.bit (block_place n (by decide)),
    State.bit_pauseBar_underrun]
  exact before.bit (block_place n (by decide))

theorem State.stopTick_grid : s.beginPause.pausedTick.grid = { s.grid with paused := true, stopAt := none, stopTick := s.tick } := by
  rw [State.stopTick_counts, State.allCountPaused_grid, State.beginPause_grid]

end

/-! ## The print position during a pause (R125, R151) -/

/-- The print position depends on the position unit's state and registers, the time and the bars inside a page. -/
theorem State.ppNow_congr {s t : State} (same : s.SameMachine t) (bars : t.bars = s.bars)
    (regs : ∀ a, 0x80000 ≤ a → a < 0x90000 → t.reg a = s.reg a) : t.ppNow = s.ppNow := by
  obtain ⟨grid, now, -, pos⟩ := same
  have g {f : Field} (low : 0x80000 ≤ f.off) (high : f.off < 0x90000) : t.g f = s.g f := by
    unfold State.g
    rw [regs _ low high]
  have pri : t.priSrc = s.priSrc := by
    unfold State.priSrc
    rw [g (by decide) (by decide)]
  have sec : t.secSrc = s.secSrc := by
    unfold State.secSrc
    rw [g (by decide) (by decide)]
  have on : t.onSec = s.onSec := by
    unfold State.onSec State.bit
    rw [g (by decide) (by decide)]
  have active : t.activeSrc = s.activeSrc := by
    unfold State.activeSrc
    rw [on, sec, pri]
  have weight : t.weight = s.weight := by
    unfold State.weight
    rw [on, g (by decide) (by decide)]
  have lost : t.axisLost = s.axisLost := by
    unfold State.axisLost State.bit
    rw [g (by decide) (by decide)]
  have chan (c : Fin 5) : t.chan c = s.chan c := by
    unfold State.chan
    rw [pos]
  have speed : t.axisV = s.axisV := by
    unfold State.axisV
    rw [active, lost, weight]
    simp only [chan]
  have valid : t.axisValid = s.axisValid := by
    unfold State.axisValid
    rw [active, lost]
    simp only [chan]
  have lo : t.softLo = s.softLo := by
    unfold State.softLo State.g48
    rw [g (by decide) (by decide), g (by decide) (by decide)]
  have hi : t.softHi = s.softHi := by
    unfold State.softHi State.g48
    rw [g (by decide) (by decide), g (by decide) (by decide)]
  have at_ : t.posNow = s.posNow := by
    unfold State.posNow State.posAt
    rw [active, speed, valid, weight, lo, hi, now, pos]
    simp only [chan]
  have mono : t.monotone = s.monotone := by
    unfold State.monotone State.anyInside State.anyInPage State.bar
    rw [bars, grid]
  unfold State.ppNow
  rw [at_, mono, pos]

/-- What planning a Pirouette leaves alone: bars, grid, stop position and the bars' registers. -/
def State.BelowBars (s t : State) : Prop :=
  t.bars = s.bars ∧ t.grid = s.grid ∧ t.xpt.ps = s.xpt.ps ∧ ∀ a, 0x100000 ≤ a → t.reg a = s.reg a

section
variable {s t : State}

theorem State.BelowBars.put (h : s.BelowBars t) {f : Field} (v : Nat) (low : f.off < 0x100000) : s.BelowBars (t.put f v) := by
  obtain ⟨bars, grid, ps, regs⟩ := h
  exact ⟨bars, grid, ps, fun a ha => by rw [State.reg_put_other _ _ (by omega), regs a ha]⟩

theorem State.BelowBars.put48 (h : s.BelowBars t) {lo hi : Field} (x : Int) (low : lo.off < 0x100000)
    (high : hi.off < 0x100000) : s.BelowBars (t.put48 lo hi x) := (h.put _ low).put _ high

theorem State.BelowBars.setCause (h : s.BelowBars t) {f : Field} (low : f.off < 0x100000) : s.BelowBars (t.setCause f) := by
  obtain ⟨bars, grid, ps, regs⟩ := h
  exact ⟨by rw [State.setCause_bars, bars], by rw [State.setCause_grid, grid], by rw [State.setCause_xpt, ps],
    fun a ha => by rw [State.reg_setCause_other _ _ (by omega) (not_routerReg_behind (by omega)), regs a ha]⟩

theorem State.belowBars_planPir (s : State) (ps : Int) : s.BelowBars (s.planPir ps) := by
  have plan (k : Option PirPlan) : s.BelowBars { s with xpt := { s.xpt with plan := k, unsettled := false } } :=
    ⟨rfl, rfl, rfl, fun _ _ => rfl⟩
  exact (((((((plan _).put _ (by decide)).put _ (by decide)).put48 _ (by decide) (by decide)).put48 _ (by decide)
    (by decide)).put _ (by decide)).setCause (by decide))

end

section
variable (s : State) (n : Fin 32)

theorem State.allCountPaused_bars : s.allCountPaused.bars = s.bars := by
  refine foldl_keeps (P := fun t : State => t.bars = s.bars) allBars (fun t m h => ?_) rfl
  unfold State.countPaused
  split
  · exact (t.bump_bars _).trans h
  · exact h

theorem State.allCountPaused_low {a : Nat} (hr : ¬ routerReg a) (low : a < 0x100000) : s.allCountPaused.reg a = s.reg a := by
  obtain ⟨u, ⟨-, -, before⟩, ⟨-, -, behind⟩⟩ := foldl_allBars State.withinBlock_countPaused s 0
  obtain ⟨-, -, own⟩ := u.withinBlock_countPaused 0
  exact (behind a hr (.inl (by omega))).trans ((own a hr (by omega)).trans (before a hr (.inl (by omega))))

theorem State.allCountPaused_sameMachine : s.SameMachine s.allCountPaused := by
  obtain ⟨u, ⟨before, -⟩, ⟨behind, -⟩⟩ := foldl_allBars State.withinBlock_countPaused s 0
  obtain ⟨own, -⟩ := u.withinBlock_countPaused 0
  exact (before.trans own).trans behind

theorem State.allCountPaused_counts (on : s.up (barDomain n) = true) : s.counted s.allCountPaused (F.RSP_PAUSED_V n) := by
  obtain ⟨u, before, behind⟩ := foldl_allBars State.withinBlock_countPaused s n
  have counts := u.counted_countPaused n (by rw [before.up]; exact on)
  unfold State.counted at counts ⊢
  rw [← before.g (block_place n (by decide)), ← counts]
  exact behind.g (block_place n (by decide))

/-- A paused tick counts nothing else in a bar's block. -/
theorem State.allCountPaused_reg {k : Nat} (place : k / 0x10000 = 0x10) (other : k ≠ 0x106048) :
    s.allCountPaused.reg (k + n.val * 0x10000) = s.reg (k + n.val * 0x10000) := by
  obtain ⟨u, ⟨-, -, before⟩, ⟨-, -, behind⟩⟩ := foldl_allBars State.withinBlock_countPaused s n
  have hr : ¬ routerReg (k + n.val * 0x10000) := not_routerReg_above _ (by omega)
  have own : (u.countPaused n).reg (k + n.val * 0x10000) = u.reg (k + n.val * 0x10000) := by
    unfold State.countPaused
    split
    · exact State.reg_put_other _ _ (barOff_ne _ other)
    · rfl
  exact (behind _ hr (.inr (block_place n place))).trans (own.trans (before _ hr (.inr (block_place n place))))

/-- The tick after the stop tick keeps the stop position. -/
def State.holdStop : State :=
  { s with xpt := { s.xpt with ps := s.ppNow.1 }, grid := { s.grid with posFree := true } }

theorem State.pausedTick_eq : s.pausedTick =
    if s.allCountPaused.tick = s.allCountPaused.grid.stopTick + 1 then
      if s.allCountPaused.holdStop.retryUnplanned then
        s.allCountPaused.holdStop.planPir s.allCountPaused.holdStop.xpt.ps
      else s.allCountPaused.holdStop
    else s.allCountPaused := rfl

/-- What a paused tick leaves of bars, grid and the bars' registers beside its count. -/
theorem State.pausedTick_spec : s.pausedTick.bars = s.allCountPaused.bars
    ∧ s.pausedTick.grid.paused = s.grid.paused
    ∧ (s.tick = s.grid.stopTick + 1 → s.pausedTick.xpt.ps = s.ppNow.1)
    ∧ ∀ a, 0x100000 ≤ a → s.pausedTick.reg a = s.allCountPaused.reg a := by
  have grid := s.allCountPaused_grid
  have tick := State.tick_of_grid grid
  have pp : s.allCountPaused.ppNow = s.ppNow := State.ppNow_congr s.allCountPaused_sameMachine s.allCountPaused_bars
    fun a low high => s.allCountPaused_low (not_routerReg_behind (by omega)) (by omega)
  rw [State.pausedTick_eq, tick, grid]
  split
  · have kept : s.allCountPaused.holdStop.xpt.ps = s.ppNow.1 := by rw [← pp]; rfl
    have paused : s.allCountPaused.holdStop.grid.paused = s.grid.paused := by rw [← grid]; rfl
    split
    · obtain ⟨bars, grid', ps, regs⟩ := s.allCountPaused.holdStop.belowBars_planPir s.allCountPaused.holdStop.xpt.ps
      exact ⟨bars, by rw [grid', paused], fun _ => ps.trans kept, regs⟩
    · exact ⟨rfl, paused, fun _ => kept, fun _ _ => rfl⟩
  · next later => exact ⟨rfl, by rw [grid], fun first => absurd first later, fun _ _ => rfl⟩

end

/-! ## The resend behind a pause (R130) -/

section
variable (s : State) (n : Fin 32) {p : Page} {k : Nat}

/-- A page behind the selection of its index `k`. -/
def Page.taken (p : Page) (k most least : Nat) : Page :=
  { p with
    next := k + 1
    seen := max p.seen (k + 1)
    used := (p.used.filter (·.1 != k)) ++ [(k, most)]
    usedHigh := max p.usedHigh (k + 1 - least) }

/-- An index that was selected before has no hand-over. -/
theorem State.takeIndex_again (page : (s.bar n).page = some p) (seen : k < p.seen) : s.takeIndex n k =
    (s.put (F.FPE_CUR_LINE_V n) k).modPage n fun q => q.taken k (s.maxRow n) (s.minRow n) := by
  unfold State.takeIndex
  rw [page]
  simp only [Nat.not_le.2 seen, decide_false, Bool.false_eq_true, if_false]
  rfl

theorem State.bar_takeIndex_again (page : (s.bar n).page = some p) (seen : k < p.seen) :
    (s.takeIndex n k).bar n = { s.bar n with page := some (p.taken k (s.maxRow n) (s.minRow n)) } := by
  rw [s.takeIndex_again n page seen, State.modPage, State.bar_modBar_same, State.bar_put]
  simp only [page, Option.map_some]

theorem State.g_takeIndex_again (page : (s.bar n).page = some p) (seen : k < p.seen) {f : Field}
    (other : f.off ≠ A.FPE_CUR_LINE n) : (s.takeIndex n k).g f = s.g f := by
  rw [s.takeIndex_again n page seen, State.modPage, State.g_modBar, State.g_put_other _ _ _ _ other]

/-- The lines of an index are as ready behind its selection as before. -/
theorem State.indexReady_takeIndex_again (page : (s.bar n).page = some p) (seen : k < p.seen) (d : PageDesc) :
    (s.takeIndex n k).indexReady n d k = s.indexReady n d k := by
  have rows (r : Nat) : (s.takeIndex n k).rowOfs n r = s.rowOfs n r := by
    unfold State.rowOfs
    rw [s.g_takeIndex_again n page seen (barOff_ne _ (by decide))]
  have supply : (s.takeIndex n k).rsp n = s.rsp n := by
    unfold State.rsp
    rw [s.bar_takeIndex_again n page seen]
  unfold State.indexReady
  simp only [rows, supply]

/-- The segments that an index of the resend range prints again: those that lost its frame and that a lane serves. -/
def State.resent (p : Page) (k : Nat) : List Nat := ((p.lost.filter (·.1 == k)).map (·.2)).filter (s.segServed n)

/-- The causes and the counter of an index that is sent again. -/
def State.resendCounted (p : Page) (k : Nat) : State :=
  ((s.setCauseIf (!p.firstSent) (F.FPE_LCAUSE_PAGE_START n)).setCauseIf p.afterPause (F.FPE_LCAUSE_RESUMED n)).bumpBy
    (F.RSP_REPRINTED_V n) (s.resent n p k).length

/-- A page behind the sending of its index `k` to `m` segments at tick `t`. -/
def Page.resent (p : Page) (k t m : Nat) : Page :=
  { p with
    inflight := p.inflight ++ [(k, t)]
    lost := p.lost.filter (·.1 != k)
    firstSent := true
    afterPause := false
    rcd := { p.rcd.markIf (decide (0 < m)) .reprinted with reprint := p.rcd.reprint + m } }

/-- The bar behind the sending of an index to the segments `segs`. -/
def State.sendAgain (k : Nat) (sel : FrameIdx) (segs : List Nat) : State :=
  (s.modPage n fun q => q.resent k s.tick segs.length).modBar n fun b => { b with sel := some (sel, segs) }

theorem State.bar_noteLast_sel (at_ : Nat) : ((s.noteLast n at_).bar n).sel = (s.bar n).sel := by
  rw [State.noteLast, State.modPage, State.bar_modBar_same]

theorem State.page_noteLast (page : (s.bar n).page = some p) (at_ : Nat) :
    ∃ e, ((s.noteLast n at_).bar n).page = some { p with endAt := e } := by
  rw [State.noteLast, State.modPage, State.bar_modBar_same]
  simp only [page, Option.map_some]
  split
  · exact ⟨some at_, rfl⟩
  · exact ⟨p.endAt, rfl⟩

theorem State.sendIndex_again (page : (s.bar n).page = some p) (again : k < p.resendEnd) (first : Bool) :
    ∃ at_, s.sendIndex n k first =
      ((s.resendCounted n p k).sendAgain n k ⟨p.desc.serial, k, first⟩ (s.resent n p k)).noteLast n at_ := by
  unfold State.sendIndex
  rw [page]
  simp only [again, decide_true, if_true]
  unfold State.sendAgain State.resendCounted State.resent Page.resent
  exact ⟨_, Eq.refl _⟩

/-- What the sending of an index of the resend range changes: its segments, its count, the cause and the page. -/
theorem State.sendIndex_again_spec (page : (s.bar n).page = some p) (again : k < p.resendEnd) (first : Bool) :
    ((s.sendIndex n k first).bar n).sel = some (⟨p.desc.serial, k, first⟩, s.resent n p k)
      ∧ (s.sendIndex n k first).g (F.RSP_REPRINTED_V n)
          = min (s.g (F.RSP_REPRINTED_V n) + (s.resent n p k).length) (2 ^ 32 - 1)
      ∧ (p.afterPause = true → (s.sendIndex n k first).bit (F.FPE_LCAUSE_RESUMED n) = true)
      ∧ ∃ t e, ((s.sendIndex n k first).bar n).page = some { p.resent k t (s.resent n p k).length with endAt := e } := by
  obtain ⟨at_, eq⟩ := s.sendIndex_again n page again first
  have apart : (F.RSP_REPRINTED_V n).off ≠ (F.FPE_LCAUSE_RESUMED n).off := barOff_ne _ (by decide)
  have counted : (s.resendCounted n p k).bar n = s.bar n := by
    rw [State.resendCounted, State.bar_bumpBy, State.bar_setCauseIf, State.bar_setCauseIf]
  have before (c d : Bool) : ((s.setCauseIf c (F.FPE_LCAUSE_PAGE_START n)).setCauseIf d (F.FPE_LCAUSE_RESUMED n)).g
      (F.RSP_REPRINTED_V n) = s.g (F.RSP_REPRINTED_V n) := by
    unfold State.g
    rw [State.reg_setCauseIf_other _ _ _ apart (not_routerReg_above _ (by decide)),
      State.reg_setCauseIf_other _ _ (F.FPE_LCAUSE_PAGE_START n) apart (not_routerReg_above _ (by decide))]
  have bar : ((s.resendCounted n p k).sendAgain n k ⟨p.desc.serial, k, first⟩ (s.resent n p k)).bar n =
      { s.bar n with
        page := some (p.resent k (s.resendCounted n p k).tick (s.resent n p k).length)
        sel := some (⟨p.desc.serial, k, first⟩, s.resent n p k) } := by
    rw [State.sendAgain, State.modPage, State.bar_modBar_same, State.bar_modBar_same, counted]
    simp only [page, Option.map_some]
  rw [eq]
  refine ⟨?_, ?_, fun paused => ?_, _, State.page_noteLast _ n (congrArg Bar.page bar) at_⟩
  · rw [State.bar_noteLast_sel, bar]
  · rw [State.noteLast, State.modPage, State.g_modBar, State.sendAgain, State.g_modBar, State.modPage, State.g_modBar,
      State.resendCounted, State.g_bumpBy _ _ _ (Nat.le_of_ble_eq_true rfl), before]
    rfl
  · rw [State.noteLast, State.modPage, State.bit_modBar, State.sendAgain, State.bit_modBar, State.modPage, State.bit_modBar,
      State.resendCounted, paused, State.setCauseIf_true, State.bumpBy]
    unfold State.bit
    rw [State.g_put_other _ _ _ _ apart.symm]
    exact State.bit_setCause _ _ (Nat.le_of_ble_eq_true rfl) rfl (not_routerReg_above _ (by decide))

/-- An index of the resend range within the lag limits, whose lines are ready, is taken and sent (R67, R130). -/
theorem State.selectLoop_again (fuel : Nat) (page : (s.bar n).page = some p) (seen : p.next < p.seen)
    (below : p.next < p.desc.lines + s.maxRow n)
    (near : -128 ≤ s.lag s.predict p.s p.next ∧ s.lag s.predict p.s p.next ≤ 128)
    (ready : s.indexReady n p.desc p.next = true) :
    (State.selectLoop n (fuel + 1) s).1 = (s.takeIndex n p.next).sendIndex n p.next false := by
  have inside : ¬ s.lastIndex n p.desc < p.next := by
    unfold State.lastIndex
    omega
  unfold State.selectLoop
  simp only [page, if_neg inside, if_neg (not_lt.2 near.1), if_neg (not_lt.2 near.2),
    s.indexReady_takeIndex_again n page seen, ready, if_true, Nat.not_le.2 seen, decide_false]

/-- The segments that print an index again are the same behind its selection. -/
theorem State.resent_takeIndex_again (page : (s.bar n).page = some p) (seen : k < p.seen) (most least : Nat) :
    (s.takeIndex n k).resent n (p.taken k most least) k = s.resent n p k := by
  have served : (s.takeIndex n k).segServed n = s.segServed n := by
    funext seg
    unfold State.segServed State.segOn State.bit
    rw [s.g_takeIndex_again n page seen (barOff_ne _ (by decide)), s.g_takeIndex_again n page seen (barOff_ne _ (by decide)),
      s.bar_takeIndex_again n page seen]
  unfold State.resent
  rw [served]
  rfl

theorem Page.resent_flags (t : Nat) (xs : List Nat) :
    (xs ≠ [] → (p.resent k t xs.length).rcd.flags = p.rcd.flags ||| 2 ^ 19)
      ∧ (xs = [] → (p.resent k t xs.length).rcd.flags = p.rcd.flags) := by
  cases xs <;> simp [Page.resent, PageRec.markIf, PageRec.mark, PageFlag.bit]

end

end Sys2Proof.Machine

open Sys2Proof.Machine in
/-- Settles O24: the record by its registers, the page ends by what each marks, the pause bar by bar, and the resend by
the index that is taken again. -/
theorem pageRecordsPauseAndResend : Obligations.PageRecordsPauseAndResend := by
  unfold Obligations.PageRecordsPauseAndResend
  refine ⟨⟨fun s n d r => ?_, fun s n p page => ?_, fun s n d r quiet on req awake waits late => ?_⟩,
    fun s m => s.stopRequest_spec m, fun s runs => ?_, fun s paused pos => ?_, fun s n p page => ?_,
    fun s n p fuel page inside seen below => ?_⟩
  · intro t sat
    obtain ⟨pages, kinds, flags, tag⟩ := s.recordRegs_words n d r
    have sat32 (x : Nat) : min x (2 ^ 32 - 1) < 2 ^ 32 := by omega
    have sat16 : min r.maxErr 65535 < 2 ^ 16 := by omega
    have count {f : Field} {v : Nat} (named : (f, v) ∈ r.counts n) (fits : f.lo + f.w ≤ 32) (small : v < 2 ^ f.w) :
        t.g f = v := s.g_writeRecord_count n d r named fits small
    have reg {k : Nat} (h : k ≠ 0x10000C) (high : 0xE0000 ≤ k) :
        t.reg (k + n.val * 0x10000) = (s.recordRegs n d r).reg (k + n.val * 0x10000) :=
      s.reg_writeRecord n d r (barOff_ne _ h) (not_routerReg_above _ high)
    refine ⟨?_, ?_, (reg (by decide) (by decide)).trans flags, (reg (by decide) (by decide)).trans tag,
      count ?_ (Nat.le_of_ble_eq_true rfl) (sat32 _), count ?_ (Nat.le_of_ble_eq_true rfl) (sat32 _),
      count ?_ (Nat.le_of_ble_eq_true rfl) sat16, count ?_ (Nat.le_of_ble_eq_true rfl) (sat32 _),
      count ?_ (Nat.le_of_ble_eq_true rfl) (sat32 _), count ?_ (Nat.le_of_ble_eq_true rfl) (sat32 _),
      count ?_ (Nat.le_of_ble_eq_true rfl) (sat32 _), count ?_ (Nat.le_of_ble_eq_true rfl) (sat32 _),
      count ?_ (Nat.le_of_ble_eq_true rfl) (sat32 _), s.pageEnd_writeRecord n d r, s.precOvf_writeRecord n d r,
      s.bar_writeRecord n d r, fun m other => s.bar_writeRecord_other n d r other⟩
    · exact (s.g_writeRecord n d r (barOff_ne _ (by decide)) (not_routerReg_above _ (by decide))).trans pages
    · exact (s.g_writeRecord n d r (barOff_ne _ (by decide)) (not_routerReg_above _ (by decide))).trans kinds
    all_goals simp [PageRec.counts, sat]
  · intro b t kill done missed flags ends
    have hkill : kill ↔ s.killDue n = true := by simp [kill, State.killDue, b]
    have hdone : done ↔ s.pageDone n = true := (State.pageDone_iff page).symm
    have eq : t = _ := State.endCheck_eq page
    have marks (r : PageRec) : flags r = b.leftRec p r := by
      simp [flags, Bar.leftRec, PageRec.markIf]
    refine ⟨fun closed alive stays => ⟨fun going => ?_, fun over' => ?_⟩, fun killed stays => ?_, fun alive quits => ?_⟩
    · rw [eq, if_neg (by simpa [hkill, b, stays] using alive), if_neg (by rwa [← hdone])]
    · obtain ⟨hends, closing, only⟩ := State.endCheck_done page (by simpa [hkill] using alive) stays (hdone.1 over')
      exact ⟨hends, by rw [marks]; exact closing, only⟩
    · obtain ⟨hends, closing, pageEnd, tag, rflags, lines, dropped⟩ := State.endCheck_killed page (hkill.1 killed) stays
      exact ⟨hends, closing, pageEnd, tag, by rw [marks]; exact rflags, lines, dropped⟩
    · obtain ⟨hends, closing, pageEnd, marked, count, rflags, discards, dropped, skipped⟩ :=
        State.endCheck_abandoned page (by simpa [hkill] using alive) quits
      exact ⟨hends, closing, pageEnd, marked, count, by rw [marks]; exact rflags, discards, dropped, skipped⟩
  · obtain ⟨t, took, -, closing, -, ended, tag, flags⟩ := s.step_writes n d r quiet on req awake waits late
    exact ⟨t, took, closing, ended, tag, flags⟩
  · intro t pauses
    refine ⟨fun m stop due => ?_, fun free => ?_⟩
    · have eq : t = s.beginPause.pausedTick := s.selectionPhase_stop runs stop due
      refine ⟨?_, fun n => ?_⟩
      · change t.grid.paused = true ∧ t.grid.stopTick = s.tick ∧ t.grid.stopAt = none ∧ _
        rw [eq, State.stopTick_grid]
        refine ⟨rfl, rfl, rfl, fun n => ?_, fun n => (s.stopTick_bar n).2.1⟩
        obtain ⟨bar, -, inside⟩ := s.stopTick_bar n
        rw [bar]
        refine ⟨rfl, fun page => by rw [page]; rfl, fun p page => ?_⟩
        obtain ⟨stop, stops, idx, due⟩ := inside p page
        exact ⟨by rw [page]; rfl, stop, stops, idx, due⟩
      · rw [eq, (s.stopTick_bar n).1]
    · intro c r under
      have eq : t = _ := s.selectionPhase_underrun runs free under
      have tick : (r.2.foldl State.markUnderrun c).tick = s.tick :=
        foldl_keeps (P := fun t : State => t.tick = s.tick) r.2 (fun t m h =>
          (State.tick_of_grid (t.withinBlock_markUnderrun m).1.1).trans h) s.tick_captureTests
      refine ⟨by rw [eq, State.stopTick_grid], by rw [eq, State.stopTick_grid]; exact tick, fun n named => ?_⟩
      rw [eq, State.bit_stopTick_underrun]
      exact c.bit_markUnderruns n named
  · intro t
    have eq : t = s.pausedTick := by
      simp [t, State.selectionPhase, paused, pos]
    obtain ⟨bars, grid, ps, regs⟩ := s.pausedTick_spec
    have high {k : Nat} (a : Nat) (far : k ≤ a) (base : 0x100000 ≤ k := by decide) :
        s.pausedTick.reg a = s.allCountPaused.reg a := regs a (Nat.le_trans base far)
    rw [eq]
    refine ⟨bars.trans s.allCountPaused_bars, fun n on => ?_, fun n => ?_, by rw [grid, paused], ps⟩
    · have counts := s.allCountPaused_counts n on
      unfold State.counted State.g at counts ⊢
      rwa [high (k := 0x106048) (F.RSP_PAUSED_V n).off (Nat.le_add_right _ _)]
    · rw [high (k := 0x100404) (A.FPE_HELD n) (Nat.le_add_right _ _)]
      exact s.allCountPaused_reg n (by decide) (by decide)
  · unfold State.resumeBar State.modPage
    rw [State.bar_modBar_same]
    simp only [page, Option.map_some]
    rfl
  · intro k lag again near ready t
    have eq : t = _ := s.selectLoop_again n fuel page seen below near ready
    have resent : again = s.resent n p k := rfl
    obtain ⟨sel, count, resumed, tick, e, left⟩ := (s.takeIndex n k).sendIndex_again_spec n
      (congrArg Bar.page (s.bar_takeIndex_again n page seen)) (k := k) inside false
    rw [s.resent_takeIndex_again n page seen] at sel count left
    rw [s.g_takeIndex_again n page seen (barOff_ne _ (by decide))] at count
    have flags := Page.resent_flags (p := p.taken k (s.maxRow n) (s.minRow n)) (k := k) tick again
    rw [eq, resent]
    exact ⟨sel, count, resumed, _, left, rfl, rfl, rfl, flags⟩
end

section
/-!
PROOFS. Status frames of a port, the spare lane and the frames a head has lost (02 R53-R59; 04 R124); O26.
-/

namespace Sys2Proof.Machine

/-! ## Lines of a test that a segment did not latch -/

/-- The lines of a test on bar `n` that are void. -/
def State.voidTo (s : State) (n : Fin 32) (v : Nat) : State :=
  s.modBar n fun b => { b with et := { b.et with lineVoid := v } }

section
variable (s : State) (n : Fin 32)

theorem State.modBar_modBar (f g : Bar → Bar) : (s.modBar n f).modBar n g = s.modBar n fun b => g (f b) := by
  rw [State.modBar, State.bar_modBar_same]
  unfold State.modBar State.setBar
  rw [Vector.set_set]

theorem State.voidTo_self : s.voidTo n (s.bar n).et.lineVoid = s := s.modBar_same n _ rfl

theorem State.voidTo_voidTo (v w : Nat) : (s.voidTo n v).voidTo n w = s.voidTo n w := s.modBar_modBar n _ _

theorem State.bar_voidTo (v : Nat) :
    (s.voidTo n v).bar n = { s.bar n with et := { (s.bar n).et with lineVoid := v } } := s.bar_modBar_same n _

/-- The void lines behind the report of a segment. -/
def voidBehind (st : Nat → Nat) (v k : Nat) : Nat := if segNotLatched (st k) then v ||| 2 ^ k else v

/-- A report that is whole, or of a segment that is not fitted. -/
def reportQuiet (st : Nat) : Prop := st.testBit 5 = true →
  st.testBit 0 = true ∧ st.testBit 1 = false ∧ st.testBit 2 = false ∧ st.testBit 3 = false

/-- A quiet report voids a line of a test and does nothing else (R57; 08 R236). -/
theorem State.segReport_quiet (st : Nat → Nat) (k : Nat) (lock : Bool) (quiet : reportQuiet (st k)) :
    s.segReport n k (st k) lock = s.voidTo n (voidBehind st (s.bar n).et.lineVoid k) := by
  unfold State.segReport voidBehind
  cases fitted : (st k).testBit 5 with
  | false =>
    cases segNotLatched (st k)
    · exact (s.voidTo_self n).symm
    · rfl
  | true =>
    obtain ⟨latched, crc, parity, late⟩ := quiet fitted
    have whole : segNotLatched (st k) = false := by simp [segNotLatched, latched, crc, late]
    simp only [whole, parity, Bool.not_true, Bool.false_eq_true, if_false, Bool.or_self, Bool.false_and]
    exact (s.voidTo_self n).symm

/-- Quiet reports void lines of a test and do nothing else. -/
theorem State.foldl_segReport_quiet (st : Nat → Nat) (lock : Bool) (l : List Nat) :
    ∀ s : State, (∀ k ∈ l, reportQuiet (st k)) → l.foldl (fun s k => s.segReport n k (st k) lock) s =
      s.voidTo n (l.foldl (voidBehind st) (s.bar n).et.lineVoid) := by
  induction l with
  | nil => exact fun s _ => (s.voidTo_self n).symm
  | cons k l ih =>
    intro s quiet
    rw [List.foldl_cons, List.foldl_cons, s.segReport_quiet n st k lock (quiet k List.mem_cons_self),
      ih _ fun j hj => quiet j (List.mem_cons_of_mem k hj), State.voidTo_voidTo, State.bar_voidTo]

end

/-- The lines of a test that are void behind the reports are those before them and those that a segment did not latch. -/
theorem testBit_voidBehind (st : Nat → Nat) (j : Nat) (l : List Nat) : ∀ v : Nat,
    (l.foldl (voidBehind st) v).testBit j = true ↔ v.testBit j = true ∨ j ∈ l ∧ segNotLatched (st j) = true := by
  induction l with
  | nil => simp
  | cons k l ih =>
    intro v
    have one : (voidBehind st v k).testBit j = true ↔ v.testBit j = true ∨ j = k ∧ segNotLatched (st k) = true := by
      unfold voidBehind
      cases segNotLatched (st k) with
      | false => simp
      | true => rw [if_pos rfl, Nat.testBit_or, Nat.testBit_two_pow, Bool.or_eq_true, decide_eq_true_eq, eq_comm (a := k),
          and_iff_left rfl]
    rw [List.foldl_cons, ih, one, List.mem_cons]
    constructor
    · rintro ((h | ⟨rfl, h⟩) | ⟨h, h'⟩)
      · exact .inl h
      · exact .inr ⟨.inl rfl, h⟩
      · exact .inr ⟨.inr h, h'⟩
    · rintro (h | ⟨rfl | h, h'⟩)
      · exact .inl (.inl h)
      · exact .inl (.inr ⟨rfl, h'⟩)
      · exact .inr ⟨h, h'⟩

theorem segNotLatched_iff (st : Nat) : segNotLatched st = true ↔
    st.testBit 0 = false ∨ st.testBit 1 = true ∨ st.testBit 3 = true := by
  simp [segNotLatched, or_assoc]

/-! ## Lists of a bar's registers -/

/-- A register below the bars' blocks is none of theirs. -/
theorem low_not_mem_barOffs {ks : List Nat} {a : Nat} (n : Fin 32) (high : ∀ k ∈ ks, 0x100000 ≤ k) (low : a < 0x100000) :
    a ∉ ks.map (· + n.val * 0x10000) := by
  rw [List.mem_map]
  rintro ⟨k', named, e⟩
  have := high k' named
  omega

/-! ## What the taking of a status frame leaves alone -/

/-- Of bar `n` only the marks of a status frame's taking change, of the registers those listed and the event router's. -/
def State.Receives (s t : State) (n : Fin 32) (xs : List Nat) : Prop :=
  t.grid = s.grid ∧ (∃ e x y, t.bar n = { s.bar n with et := e, srTaken := x, srOk := y })
    ∧ ∀ a, a ∉ xs → ¬ routerReg a → t.reg a = s.reg a

section
variable {s t : State} {n : Fin 32} {xs : List Nat}

theorem State.onlyBarAndRegs.putAll {ys : List (Field × Nat)} : ∀ {t : State}, s.onlyBarAndRegs t n xs →
    (∀ y ∈ ys, y.1.off ∈ xs) → s.onlyBarAndRegs (t.putAll ys) n xs := by
  induction ys with
  | nil => exact fun h _ => h
  | cons y ys ih => exact fun h offs => ih (h.put y.2 (offs y List.mem_cons_self)) fun z hz => offs z (List.mem_cons_of_mem y hz)

theorem State.Receives.of_bar (h : s.onlyBarAndRegs t n xs) {e : Et} {x y : Bool}
    (bar : t.bar n = { s.bar n with et := e, srTaken := x, srOk := y }) : s.Receives t n xs := by
  obtain ⟨frame, -, regs⟩ := h
  exact ⟨by rw [frame], ⟨e, x, y, bar⟩, fun a ha _ => regs a ha⟩

theorem State.Receives.g (h : s.Receives t n xs) {f : Field} (ha : f.off ∉ xs) (hr : ¬ routerReg f.off) : t.g f = s.g f := by
  obtain ⟨-, -, regs⟩ := h
  unfold State.g
  rw [regs _ ha hr]

theorem State.Receives.bit (h : s.Receives t n xs) {f : Field} (ha : f.off ∉ xs) (hr : ¬ routerReg f.off) :
    t.bit f = s.bit f := by
  unfold State.bit
  rw [h.g ha hr]

/-- The stream of a bar is as far as before, when the listed registers are not its row offsets. -/
theorem State.Receives.lines (h : s.Receives t n xs) (rows : A.FPE_ROWOFS_LIVE n ∉ xs) (cfg : A.RSP_CFG n ∉ xs) :
    t.leadLines n = s.leadLines n ∧ t.barReady n = s.barReady n := by
  have row (r : Nat) : t.rowOfs n r = s.rowOfs n r := by
    unfold State.rowOfs
    rw [h.g rows (not_routerReg_above _ (by decide))]
  have most : t.maxRow n = s.maxRow n := by simp only [State.maxRow, row]
  have lead := h.g (f := F.RSP_CFG_RESUME_LEAD n) cfg (not_routerReg_above _ (by decide))
  obtain ⟨-, ⟨e, x, y, bar⟩, -⟩ := h
  have page : (t.bar n).page = (s.bar n).page := by rw [bar]
  have queue : (t.bar n).queue = (s.bar n).queue := by rw [bar]
  have rsp : (t.bar n).rsp = (s.bar n).rsp := by rw [bar]
  have supply : t.rsp n = s.rsp n := rsp
  constructor
  · have bounds : t.lineBounds n = s.lineBounds n := by
      unfold State.lineBounds
      dsimp only
      rw [page, queue, rsp, most]
    unfold State.leadLines
    rw [supply, bounds]
  · have lines (d : PageDesc) (k : Nat) : t.indexReady n d k = s.indexReady n d k := by
      simp only [State.indexReady, supply, row]
    unfold State.barReady
    simp only [page, most, lead, supply, lines]

end

section
variable (s : State) (n : Fin 32)

/-- Watching the stream of a bar sets causes. -/
theorem State.watchLines_causes (f : State → State) : ∃ low ready, s.watchLines n f =
    ((f s).setCauseIf low (F.FPE_LCAUSE_LOW_LEAD n)).setCauseIf ready (F.FPE_LCAUSE_READY n) := ⟨_, _, rfl⟩

/-- A change that leaves the stream of a bar alone sets no cause. -/
theorem State.watchLines_same {f : State → State}
    (same : (f s).leadLines n = s.leadLines n ∧ (f s).barReady n = s.barReady n) : s.watchLines n f = f s := by
  obtain ⟨lead, ready⟩ := same
  have low (x : Nat) : (decide (x ≤ s.leadLines n) && decide (s.leadLines n < x)) = false := by
    rw [← Bool.decide_and, decide_eq_false_iff_not]
    omega
  have met (b : Bool) : (!b && b) = false := by cases b <;> rfl
  simp only [State.watchLines, lead, Bool.and_assoc, low, Bool.and_false, State.setCauseIf_false, ready, met]

end

/-! ## The registers of a status frame (R53-R55) -/

section
variable (s : State) (n : Fin 32) (f : BitVec 128)

/-- The fields that show a status frame. -/
def srFields : List (Field × Nat) :=
  [(F.FPE_SR_SEGLO_V n, srField f 16 32), (F.FPE_SR_SEGHI_V n, srField f 48 32), (F.FPE_SR_HEAD_V n, srField f 80 32)]

/-- A valid status frame is shown. -/
def State.srShown : State := (s.modBar n fun b => { b with srOk := true }).putAll (srFields n f)

/-- A status frame that is shown, with the spare lane marked when it reports its lock lost. -/
def State.srHead : State :=
  if !f.getLsbD 80 && !(s.srShown n f).bit (F.FPE_LANE_SPARE_EN n) then (s.srShown n f).markLane n 8 else s.srShown n f

/-- The report of each segment in a status frame. -/
def srStatus (k : Nat) : Nat := srField f (16 + 8 * k) 8

theorem State.srTake_eq : s.srTake n f =
    (List.range 8).foldl (fun s k => s.segReport n k (srStatus f k) (f.getLsbD 80)) (s.srHead n f) := rfl

/-- The registers that show a status frame. -/
def srOffs : List Nat := [A.FPE_SR_SEGLO n, A.FPE_SR_SEGHI n, A.FPE_SR_HEAD n, A.FPE_LANE n]

theorem srOffs_eq : srOffs n = [0x100304, 0x100308, 0x10030C, 0x100300].map (· + n.val * 0x10000) := rfl

theorem State.onlyBarAndRegs_srHead : s.onlyBarAndRegs (s.srHead n f) n (srOffs n) := by
  have lane : A.FPE_LANE n ∈ srOffs n := by simp [srOffs]
  have shown : s.onlyBarAndRegs (s.srShown n f) n (srOffs n) := by
    refine ((State.onlyBarAndRegs.refl s n (srOffs n)).modBar _).putAll fun x named => ?_
    have off : x.1.off ∈ (srFields n f).map (·.1.off) := List.mem_map_of_mem named
    exact List.mem_of_mem_take (i := 3) off
  unfold State.srHead
  split
  · exact shown.put _ lane
  · exact shown

theorem State.bar_srHead : (s.srHead n f).bar n = { s.bar n with srOk := true } := by
  have shown : (s.srShown n f).bar n = { s.bar n with srOk := true } := by
    rw [State.srShown, State.bar_putAll, State.bar_modBar_same]
  unfold State.srHead
  split
  · rw [State.markLane, State.bar_put, shown]
  · exact shown

theorem State.g_srHead_other {e : Field} (apart : e.Apart ⟨A.FPE_LANE n, 12, 1⟩) :
    (s.srHead n f).g e = (s.srShown n f).g e := by
  unfold State.srHead
  split
  · exact State.g_put_of_apart _ _ (Nat.le_of_ble_eq_true rfl) apart
  · rfl

/-- The places of a status frame's registers in their bar's block. -/
def srPlaces : List Nat := [0x100304, 0x100308, 0x10030C]

theorem srFields_offs : (srFields n f).map (·.1.off) = srPlaces.map (· + n.val * 0x10000) := rfl

theorem srFields_nodup : ((srFields n f).map (·.1.off)).Nodup := by
  rw [srFields_offs]
  have apart : srPlaces.Nodup := by decide
  exact apart.map (f := (· + n.val * 0x10000)) fun _ _ e => Nat.add_right_cancel e

/-- The registers show the frame. -/
theorem State.g_srHead_shown {e : Field} {v : Nat} (named : (e, v) ∈ srFields n f) (fits : e.lo + e.w ≤ 32) :
    (s.srHead n f).g e = v % 2 ^ e.w := by
  have off : e.off ≠ A.FPE_LANE n := by
    have named : e.off ∈ (srFields n f).map (·.1.off) := List.mem_map_of_mem named
    rw [srFields_offs, List.mem_map] at named
    obtain ⟨k, place, eq⟩ := named
    have apart : ∀ k ∈ srPlaces, k ≠ 0x100300 := by decide
    rw [← eq]
    exact barOff_ne _ (apart k place)
  rw [s.g_srHead_other n f (.inl off)]
  exact State.g_putAll _ _ (srFields_nodup n f) (e, v) named fits

/-- The registers of a status frame are none of its lanes'. -/
theorem State.g_srShown_lane {e : Field} (off : e.off = A.FPE_LANE n) : (s.srShown n f).g e = s.g e := by
  unfold State.g State.srShown
  rw [State.reg_putAll, State.reg_modBar]
  simp only [srFields, List.map_cons, List.map_nil, List.mem_cons, List.not_mem_nil, or_false, not_or, off]
  exact ⟨barOff_ne _ (by decide), barOff_ne _ (by decide), barOff_ne _ (by decide)⟩

/-- The lanes D0 to D7 and the assignment of D8 are as before a status frame. -/
theorem State.g_srHead_lane {e : Field} (off : e.off = A.FPE_LANE n) (low : e.lo + e.w ≤ 12) :
    (s.srHead n f).g e = s.g e := by
  rw [s.g_srHead_other n f (.inr (.inl low)), s.g_srShown_lane n f off]

/-- D8 is not marked by a frame that reports its lock. -/
theorem State.srHead_locked (lock : f.getLsbD 80 = true) : s.srHead n f = s.srShown n f := by
  simp [State.srHead, lock]

end

/-! ## A status frame of whole reports (R53-R55, R57, R66) -/

section
variable (s : State) (n : Fin 32) (f : BitVec 128)

/-- The first status frame of a tick is noted. -/
def State.taking : State := s.modBar n fun b => { b with srTaken := true }

theorem State.bar_taking : (s.taking n).bar n = { s.bar n with srTaken := true } := s.bar_modBar_same n _

variable {s n} in
theorem State.exec_statusFrame (quiet : s.seqRun = false) (on : s.up (barDomain n) = true) (ticked : s.grid.ticked = true)
    (first : (s.bar n).srTaken = false) : exec (.statusFrame n f) s = .next
      ((if s.srFault f ≠ 0 then (s.taking n).srDiscard n (s.srFault f)
        else (s.taking n).watchLines n fun s => s.srTake n f).closePage n) := by
  change execStatusFrame n f s = _
  unfold execStatusFrame
  rw [if_neg (by simp [quiet, on, ticked, first])]
  rfl

/-- A bar behind a status frame whose tick has no page to close is as the frame has left it. -/
theorem State.bar_closePage : (s.closePage n).bar n =
    { s.bar n with closing := none, ended := ((s.closePage n).bar n).ended } := by
  cases closing : (s.bar n).closing with
  | none =>
    rw [s.closePage_none n closing]
    exact (congrArg (fun c => { s.bar n with closing := c }) closing.symm).symm
  | some c =>
    obtain ⟨bar, -⟩ := s.closePage_spec n closing
    rw [bar]

/-- The void lines behind a status frame of whole reports. -/
def State.voidLines : Nat := (List.range 8).foldl (voidBehind (srStatus f)) (s.bar n).et.lineVoid

/-- A status frame of whole reports is shown, voids lines of a test and does nothing else. -/
theorem State.srTake_whole (whole : ∀ k, k < 8 → reportQuiet (srStatus f k)) :
    s.srTake n f = (s.srHead n f).voidTo n (s.voidLines n f) := by
  rw [State.srTake_eq, State.foldl_segReport_quiet n (srStatus f) _ _ _ fun k hk => whole k (List.mem_range.1 hk),
    State.bar_srHead]
  rfl

theorem State.voidLines_iff {k : Nat} (hk : k < 8) : (s.voidLines n f).testBit k = true ↔
    (s.bar n).et.lineVoid.testBit k = true ∨ segNotLatched (srStatus f k) = true := by
  rw [State.voidLines, testBit_voidBehind]
  simp [hk]

/-- A status frame that is taken, its reports aside, with the void lines `v`. -/
def State.heard (v : Nat) : State := ((s.taking n).srHead n f).voidTo n v

theorem State.bar_heard (v : Nat) : (s.heard n f v).bar n = { s.bar n with
    srTaken := true, srOk := true, et := { (s.bar n).et with lineVoid := v } } := by
  rw [State.heard, State.bar_voidTo, State.bar_srHead, State.bar_taking]

theorem State.onlyBarAndRegs_heard (v : Nat) : s.onlyBarAndRegs (s.heard n f v) n (srOffs n) := by
  obtain ⟨frame, bars, regs⟩ := (s.taking n).onlyBarAndRegs_srHead n f
  have taken : s.onlyBarAndRegs ((s.taking n).srHead n f) n (srOffs n) :=
    ⟨by rw [frame]; rfl, fun m other => (bars m other).trans (s.bar_modBar_other _ other), regs⟩
  unfold State.heard State.voidTo
  exact taken.modBar _

theorem State.receives_heard (v : Nat) : s.Receives (s.heard n f v) n (srOffs n) :=
  State.Receives.of_bar (s.onlyBarAndRegs_heard n f v) (s.bar_heard n f v)

theorem State.watchLines_whole (whole : ∀ k, k < 8 → reportQuiet (srStatus f k)) :
    ((s.taking n).watchLines n fun s => s.srTake n f) = s.heard n f (s.voidLines n f) := by
  have take : (s.taking n).srTake n f = s.heard n f (s.voidLines n f) := by
    rw [State.srTake_whole _ _ _ whole, State.heard, State.voidLines, State.voidLines, State.bar_taking]
  have start : s.Receives (s.taking n) n [] :=
    State.Receives.of_bar ((State.onlyBarAndRegs.refl s n []).modBar _) (s.bar_taking n)
  have rows : A.FPE_ROWOFS_LIVE n ∉ srOffs n := srOffs_eq n ▸ not_mem_barOffs n (by decide)
  have cfg : A.RSP_CFG n ∉ srOffs n := srOffs_eq n ▸ not_mem_barOffs n (by decide)
  obtain ⟨lead, ready⟩ := (s.receives_heard n f (s.voidLines n f)).lines rows cfg
  obtain ⟨lead', ready'⟩ := start.lines List.not_mem_nil List.not_mem_nil
  rw [State.watchLines_same, take]
  rw [take]
  exact ⟨lead.trans lead'.symm, ready.trans ready'.symm⟩

end

/-! ## A status frame that fails a check (R54, R378) -/

section
variable (s : State) (n : Fin 32)

/-- The words of a violation-log entry. -/
def State.vlogWords (source code detail : Nat) : State :=
  (((s.setReg (A.SYS_VLOG (s.vlogK % 64) 0) (BitVec.ofNat 32 s.ts)).setReg (A.SYS_VLOG (s.vlogK % 64) 1)
    (BitVec.ofNat 32 (s.ts / 2 ^ 32))).setReg (A.SYS_VLOG (s.vlogK % 64) 3) (BitVec.ofNat 32 detail)).setReg
      (A.SYS_VLOG (s.vlogK % 64) 2) (BitVec.ofNat 32 (source + code * 2 ^ 8 + s.vlogK % 2 ^ 16 * 2 ^ 16))

/-- A written entry is its words, the log's own marks and the cause. -/
theorem State.vlogWrite_eq (key source code detail : Nat) : ∃ u : State, s.vlogWrite key source code detail =
      (u.put F.SYS_VLOG_NEXT_V u.vlogK).setCause F.SYS_CAUSE_VIOLATION
    ∧ u.bars = s.bars ∧ u.regs = (s.vlogWords source code detail).regs := ⟨_, rfl, rfl, rfl⟩

theorem State.reg_vlogWords (source code detail : Nat) {a : Nat} (high : 0x100000 ≤ a) :
    (s.vlogWords source code detail).reg a = s.reg a := by
  have apart (w : Nat) (hw : w ≤ 3) : a ≠ A.SYS_VLOG (s.vlogK % 64) w := by
    simp only [A.SYS_VLOG]
    omega
  rw [State.vlogWords, State.reg_setReg_other _ _ (apart 2 (by decide)), State.reg_setReg_other _ _ (apart 3 (by decide)),
    State.reg_setReg_other _ _ (apart 1 (by decide)), State.reg_setReg_other _ _ (apart 0 (by decide))]

/-- The violation log leaves the bars and their registers alone. -/
theorem State.vlog_bars (source code detail : Nat) : (∀ m, (s.vlog source code detail).bar m = s.bar m)
    ∧ ∀ a, 0x100000 ≤ a → (s.vlog source code detail).reg a = s.reg a := by
  have low {a k : Nat} (high : 0x100000 ≤ a) (hk : k < 0x100000) : a ≠ k := by omega
  have written (key : Nat) : (∀ m, (s.vlogWrite key source code detail).bar m = s.bar m)
      ∧ ∀ a, 0x100000 ≤ a → (s.vlogWrite key source code detail).reg a = s.reg a := by
    obtain ⟨u, eq, bars, regs⟩ := s.vlogWrite_eq key source code detail
    refine ⟨fun m => ?_, fun a high => ?_⟩
    · rw [eq, State.bar_setCause, State.bar_put]
      unfold State.bar
      rw [bars]
    · have hr : ¬ routerReg a := not_routerReg_of_le (Nat.le_trans (by decide) high)
      have words : u.reg a = (s.vlogWords source code detail).reg a := by
        unfold State.reg
        rw [regs]
      rw [eq, State.reg_setCause_other _ _ (low high (by decide)) hr, State.reg_put_other _ _ (low high (by decide)), words,
        s.reg_vlogWords source code detail high]
  unfold State.vlog
  extract_lets key
  split
  · split
    · exact ⟨s.bar_bumpBy _ _, fun a high => State.reg_put_other _ _ (low high (by decide))⟩
    · exact written _
  · exact written _

/-- A status frame that fails a check is counted; of its bar a test's lines are void. -/
theorem State.srDiscard_spec (code : Nat) : s.counted (s.srDiscard n code) (F.FPE_SR_ERR_V n)
    ∧ (s.srDiscard n code).bar n = { s.bar n with et := { (s.bar n).et with lineVoid := 0xFF } }
    ∧ ∀ m, m ≠ n → (s.srDiscard n code).bar m = s.bar m := by
  obtain ⟨bars, regs⟩ := (s.bump (F.FPE_SR_ERR_V n)).vlog_bars (0x20 + n.val) code s.tick
  have bump (m : Fin 32) : (s.bump (F.FPE_SR_ERR_V n)).bar m = s.bar m := s.bar_bumpBy _ _ m
  refine ⟨?_, ?_, fun m other => ?_⟩
  · have kept : (s.srDiscard n code).g (F.FPE_SR_ERR_V n) = (s.bump (F.FPE_SR_ERR_V n)).g (F.FPE_SR_ERR_V n) := by
      rw [State.srDiscard, State.g_modBar]
      unfold State.g
      rw [regs (F.FPE_SR_ERR_V n).off (Nat.le_trans (by decide) (Nat.le_add_right 0x100410 _))]
    unfold State.counted
    rw [kept]
    exact s.counted_bump (Nat.le_of_ble_eq_true rfl)
  · rw [State.srDiscard, State.bar_modBar_same, bars, bump]
  · rw [State.srDiscard, State.bar_modBar_other _ _ other, bars, bump]

end

/-! ## A lost segment frame (R57, R124) -/

/-- A page behind the loss of the frame of segment `k` of index `i`: in leader mode it is to be reprinted. -/
def Page.losing (p : Page) (leads : Bool) (i k : Nat) : Page :=
  { p with
    rcd := { p.rcd.markIf (!leads) .laneLost with lost := p.rcd.lost + 1 }
    lost := if leads then p.lost ++ [(i, k)] else p.lost }

/-- The frame of segment `k` of index `i` of the page `p` is lost: counted, in the record, and in leader mode a stop at
the next tick is asked for. -/
def State.Loses (s t : State) (n : Fin 32) (p : Page) (i k : Nat) : Prop :=
  s.counted t (F.FPE_LOST_LINES_V n) ∧ (t.bar n).page = some (p.losing s.leader i k)
    ∧ (s.leader = false → t.grid = s.grid)
    ∧ (s.leader = true → s.grid.paused = false →
        t.grid = { s.grid with stopAt := some (min (s.tick + 1) (s.grid.stopAt.getD (s.tick + 1))) })

section
variable {s t u : State} {n : Fin 32} {p : Page} {i k : Nat}

/-- A loss is seen behind what leaves its count, its page and the grid alone. -/
theorem State.Loses.behind (h : s.Loses t n p i k) (grid : u.grid = t.grid) (page : (u.bar n).page = (t.bar n).page)
    (count : u.g (F.FPE_LOST_LINES_V n) = t.g (F.FPE_LOST_LINES_V n)) : s.Loses u n p i k := by
  unfold State.Loses State.counted at h ⊢
  rwa [grid, page, count]

/-- A loss is seen from before what leaves its count, the mode and the grid alone. -/
theorem State.Loses.before (h : t.Loses u n p i k) (grid : t.grid = s.grid) (leader : t.leader = s.leader)
    (count : t.g (F.FPE_LOST_LINES_V n) = s.g (F.FPE_LOST_LINES_V n)) : s.Loses u n p i k := by
  unfold State.Loses State.counted State.tick at h ⊢
  rwa [grid, leader, count] at h

end

section
variable (s : State) (n : Fin 32) {p : Page}

/-- The resume record of a bar changes its registers only. -/
theorem State.resumeRecord_rest : (s.resumeRecord n).grid = s.grid ∧ (s.resumeRecord n).bar n = s.bar n
    ∧ ∀ a, a ≠ A.RSP_RESUME_IDX n → a ≠ A.RSP_RESUME_DUE_LO n → a ≠ A.RSP_RESUME_DUE_HI n →
      (s.resumeRecord n).reg a = s.reg a := by
  unfold State.resumeRecord
  split
  · exact ⟨rfl, rfl, fun _ _ _ _ => rfl⟩
  · refine ⟨by rw [State.put48_grid, State.put_grid], ?_, fun a idx lo hi => ?_⟩
    · rw [State.put48, State.bar_put, State.bar_put, State.bar_put]
    rw [State.put48, State.reg_put_other _ _ hi, State.reg_put_other _ _ lo, State.reg_put_other _ _ idx]

/-- The record of the page in progress takes the change. -/
theorem State.amendRecord_page (page : (s.bar n).page = some p) {serial : Nat} (same : p.desc.serial = serial)
    (f : PageRec → PageRec) : s.amendRecord n serial f = s.modRec n f := by
  unfold State.amendRecord
  rw [if_pos (by simp [page, same])]

theorem State.bar_modRec (page : (s.bar n).page = some p) (f : PageRec → PageRec) :
    (s.modRec n f).bar n = { s.bar n with page := some { p with rcd := f p.rcd } } := by
  rw [State.modRec, State.modPage, State.bar_modBar_same]
  simp only [page, Option.map_some]

/-- A line counted in a field of the bar's block, its page's record changed. -/
theorem State.counted_amend (page : (s.bar n).page = some p) {serial : Nat} (same : p.desc.serial = serial)
    {f : Field} (fits : f.lo + f.w ≤ 32) (g : PageRec → PageRec) :
    s.counted ((s.bump f).amendRecord n serial g) f
      ∧ ((s.bump f).amendRecord n serial g).bar n = { s.bar n with page := some { p with rcd := g p.rcd } }
      ∧ ((s.bump f).amendRecord n serial g).grid = s.grid
      ∧ ∀ a, a ≠ f.off → ((s.bump f).amendRecord n serial g).reg a = s.reg a := by
  have bar : (s.bump f).bar n = s.bar n := s.bar_bumpBy f 1 n
  have page' : ((s.bump f).bar n).page = some p := by rw [bar, page]
  rw [State.amendRecord_page _ n page' same]
  refine ⟨?_, ?_, rfl, fun a ha => ?_⟩
  · have counts := s.counted_bump fits
    unfold State.counted at counts ⊢
    rw [State.modRec, State.modPage, State.g_modBar, counts]
  · rw [State.bar_modRec _ n page', bar]
  · rw [State.modRec, State.modPage, State.reg_modBar]
    exact State.reg_put_other _ _ ha

@[simp] theorem State.stopRequest_paused (m : Nat) : (s.stopRequest m).grid.paused = s.grid.paused := by
  unfold State.stopRequest
  split <;> rfl

@[simp] theorem State.bar_stopRequest (m : Nat) : (s.stopRequest m).bar n = s.bar n := by
  unfold State.stopRequest
  split <;> rfl

@[simp] theorem State.reg_stopRequest (m a : Nat) : (s.stopRequest m).reg a = s.reg a := by
  unfold State.stopRequest
  split <;> rfl

@[simp] theorem State.modPage_grid (f : Page → Page) : (s.modPage n f).grid = s.grid := rfl

/-- The registers of a bar that the loss of a frame changes. -/
def lossOffs : List Nat := [A.FPE_LOST_LINES n, A.RSP_RESUME_IDX n, A.RSP_RESUME_DUE_LO n, A.RSP_RESUME_DUE_HI n]

/-- The loss of a frame of an index, counted and in the record of its page. -/
def State.lossCounted (i : FrameIdx) : State := (s.bump (F.FPE_LOST_LINES_V n)).amendRecord n i.page fun r =>
  { r.markIf (!s.leader) .laneLost with lost := r.lost + 1 }

/-- The loss of a frame that is to be reprinted asks for a stop at the next tick. -/
def State.lossStopped (i : FrameIdx) (k : Nat) : State :=
  ((s.lossCounted n i).modPage n fun p => { p with lost := p.lost ++ [(i.idx, k)] }).stopRequest (s.tick + 1)

variable {n} (page : (s.bar n).page = some p) {i : FrameIdx} (same : p.desc.serial = i.page) (k : Nat)
include page same

theorem State.lossCounted_spec : s.counted (s.lossCounted n i) (F.FPE_LOST_LINES_V n)
    ∧ (s.lossCounted n i).bar n = { s.bar n with
        page := some { p with rcd := { p.rcd.markIf (!s.leader) .laneLost with lost := p.rcd.lost + 1 } } }
    ∧ (s.lossCounted n i).grid = s.grid
    ∧ ∀ a, a ≠ A.FPE_LOST_LINES n → (s.lossCounted n i).reg a = s.reg a :=
  s.counted_amend n page same (Nat.le_of_ble_eq_true rfl) _

theorem State.leader_lossCounted : (s.lossCounted n i).leader = s.leader := by
  obtain ⟨-, -, -, regs⟩ := s.lossCounted_spec page same
  unfold State.leader State.bit State.g
  rw [regs _ (lowOff_ne _ (by decide))]

theorem State.lostFrame_follower (follows : s.leader = false) : s.lostFrame n i k = s.lossCounted n i := by
  have leader := s.leader_lossCounted page same
  unfold State.lostFrame
  extract_lets c here
  have leader' : c.leader = false := leader.trans follows
  simp only [leader', Bool.not_false, if_true]
  rfl

theorem State.lostFrame_leader (leads : s.leader = true) : s.lostFrame n i k =
    if s.grid.paused then (s.lossStopped n i k).resumeRecord n else s.lossStopped n i k := by
  obtain ⟨-, bar, grid, -⟩ := s.lossCounted_spec page same
  have leader := s.leader_lossCounted page same
  have paused : (s.lossStopped n i k).grid.paused = s.grid.paused := by
    rw [State.lossStopped, State.stopRequest_paused, State.modPage_grid, grid]
  unfold State.lostFrame
  extract_lets c here u v
  have leader' : c.leader = true := leader.trans leads
  have here' : here = true := by
    have at_ : (c.bar n).page = _ := congrArg Bar.page bar
    simp [here, at_, same]
  have waits : u = c.modPage n fun p => { p with lost := p.lost ++ [(i.idx, k)] } := if_pos here'
  have tick : u.tick = s.tick := by
    unfold State.tick
    rw [waits, State.modPage_grid, show c.grid = s.grid from grid]
  have stops : v = s.lossStopped n i k := by
    unfold State.lossStopped
    rw [← tick, show v = u.stopRequest (u.tick + 1) from rfl, waits]
    rfl
  rw [if_neg (by simp [leader']), here', Bool.and_true, stops, paused]

/-- What the loss of a frame changes: its count, the record of its page, in leader mode what is to be reprinted and the
stop that is asked for. -/
theorem State.lostFrame_spec : s.Loses (s.lostFrame n i k) n p i.idx k
    ∧ (s.lostFrame n i k).bar n = { s.bar n with page := some (p.losing s.leader i.idx k) }
    ∧ ∀ a, a ∉ lossOffs n → (s.lostFrame n i k).reg a = s.reg a := by
  obtain ⟨count, bar, grid, regs⟩ := s.lossCounted_spec page same
  have notLost {a : Nat} (ha : a ∉ lossOffs n) : a ≠ A.FPE_LOST_LINES n := fun e => ha (e ▸ List.mem_cons_self)
  cases leads : s.leader with
  | false =>
    rw [s.lostFrame_follower page same k leads]
    rw [leads] at bar
    refine ⟨⟨count, ?_, fun _ => grid, fun h => absurd h (by simp [leads])⟩, bar, fun a ha => regs a (notLost ha)⟩
    rw [leads, bar]
    rfl
  | true =>
    have stopped : s.Loses (s.lossStopped n i k) n p i.idx k
        ∧ (s.lossStopped n i k).bar n = { s.bar n with page := some (p.losing true i.idx k) }
        ∧ ∀ a, a ≠ A.FPE_LOST_LINES n → (s.lossStopped n i k).reg a = s.reg a := by
      have leader := s.leader_lossCounted page same
      have bar' : (s.lossStopped n i k).bar n = { s.bar n with page := some (p.losing true i.idx k) } := by
        rw [State.lossStopped, State.bar_stopRequest, State.modPage, State.bar_modBar_same, bar, leads]
        rfl
      refine ⟨⟨?_, by rw [bar', leads], fun h => absurd h (by simp [leads]), fun _ runs => ?_⟩, bar', fun a ha => ?_⟩
      · unfold State.counted State.g at count ⊢
        rwa [State.lossStopped, State.reg_stopRequest, State.modPage, State.reg_modBar]
      · obtain ⟨asks, -⟩ := ((s.lossCounted n i).modPage n fun p => { p with lost := p.lost ++ [(i.idx, k)] }).stopRequest_spec
          (s.tick + 1)
        rw [State.lossStopped, asks (leader.trans leads) (by rw [State.modPage_grid, grid, runs]), State.modPage_grid, grid]
      · rw [State.lossStopped, State.reg_stopRequest, State.modPage, State.reg_modBar, regs a ha]
    obtain ⟨loses, bar', regs'⟩ := stopped
    rw [s.lostFrame_leader page same k leads]
    split
    · obtain ⟨rgrid, rbar, rregs⟩ := (s.lossStopped n i k).resumeRecord_rest n
      refine ⟨loses.behind rgrid (by rw [rbar]) ?_, rbar.trans bar', fun a ha => ?_⟩
      · unfold State.g
        rw [rregs (F.FPE_LOST_LINES_V n).off (barOff_ne _ (by decide)) (barOff_ne _ (by decide)) (barOff_ne _ (by decide))]
      · have lost := notLost ha
        simp only [lossOffs, List.mem_cons, List.not_mem_nil, or_false, not_or] at ha
        obtain ⟨-, idx, lo, hi⟩ := ha
        rw [rregs a idx lo hi, regs' a lost]
    · exact ⟨loses, bar', fun a ha => regs' a (notLost ha)⟩


end

/-! ## The lanes and the spare lane (R56, R58, R59) -/

/-- The mark of a failed lane. -/
abbrev laneBad (n : Fin 32) (k : Nat) : Field := ⟨A.FPE_LANE n, 4 + k, 1⟩

section
variable (s : State) (n : Fin 32)

theorem State.bit_markLane {k : Nat} (hk : k ≤ 8) : (s.markLane n k).bit (laneBad n k) = true :=
  State.bit_put_one s _ (show 4 + k + 1 ≤ 32 by omega) rfl

/-- The segments that stay unserved under a new assignment. -/
def State.stillUnserved (t : State) : List Nat := (s.bar n).unserved.filter fun x => s.onD8 n x == t.onD8 n x

/-- The fields of the assignment of D8. -/
def State.setSpare (seg : Nat) (en : Bool) : State :=
  (s.put (F.FPE_LANE_SPARE_SEG n) seg).putb (F.FPE_LANE_SPARE_EN n) en

variable (seg : Nat) (en : Bool)

theorem State.assignD8_eq : s.assignD8 n seg en =
    (s.setSpare n seg en).modBar n fun b =>
      { b with unserved := b.unserved.filter fun x => s.onD8 n x == (s.setSpare n seg en).onD8 n x } := rfl

theorem State.onlyBarAndRegs_assignD8 : s.onlyBarAndRegs (s.assignD8 n seg en) n [A.FPE_LANE n] := by
  have spare : (F.FPE_LANE_SPARE_SEG n).off ∈ [A.FPE_LANE n] := List.mem_singleton.2 rfl
  have on : (F.FPE_LANE_SPARE_EN n).off ∈ [A.FPE_LANE n] := List.mem_singleton.2 rfl
  rw [State.assignD8_eq, State.setSpare, State.putb]
  exact (((State.onlyBarAndRegs.refl s n _).put seg spare).put (b2n en) on).modBar _

theorem State.bar_assignD8 : (s.assignD8 n seg en).bar n =
    { s.bar n with unserved := s.stillUnserved n (s.assignD8 n seg en) } := by
  have bar : (s.setSpare n seg en).bar n = s.bar n := by rw [State.setSpare, State.putb, State.bar_put, State.bar_put]
  have on (k : Nat) : (s.assignD8 n seg en).onD8 n k = (s.setSpare n seg en).onD8 n k := rfl
  rw [State.stillUnserved]
  simp only [on]
  rw [State.assignD8_eq, State.bar_modBar_same, bar]

theorem State.mem_stillUnserved (t : State) (k : Nat) :
    k ∈ s.stillUnserved n t ↔ k ∈ (s.bar n).unserved ∧ s.onD8 n k = t.onD8 n k := by
  simp [State.stillUnserved]

theorem State.g_assignD8 : (s.assignD8 n seg en).g (F.FPE_LANE_SPARE_SEG n) = seg % 8 := by
  rw [State.assignD8_eq, State.g_modBar, State.setSpare, State.putb, State.g_put_of_apart _ _ (Nat.le_of_ble_eq_true rfl)
    (.inr (.inl (Nat.le_of_ble_eq_true rfl)))]
  exact State.g_put_same s _ seg (Nat.le_of_ble_eq_true rfl)

theorem State.bit_assignD8 : (s.assignD8 n seg en).bit (F.FPE_LANE_SPARE_EN n) = en := by
  rw [State.assignD8_eq, State.bit_modBar, State.setSpare, State.bit_putb _ _ _ (Nat.le_of_ble_eq_true rfl) rfl]

/-- An assignment marks no lane and clears no mark. -/
theorem State.lane_assignD8 (k : Nat) : (s.assignD8 n seg en).bit (laneBad n k) = s.bit (laneBad n k) := by
  have above {x : Nat} (hx : x ≤ 4) : x ≤ (laneBad n k).lo := Nat.le_trans hx (Nat.le_add_right 4 k)
  rw [State.assignD8_eq, State.bit_modBar, State.setSpare, State.putb, State.bit_put_of_apart _ _ (Nat.le_of_ble_eq_true rfl)
    (.inr (.inr (above (Nat.le_of_ble_eq_true rfl)))), State.bit_put_of_apart _ _ (Nat.le_of_ble_eq_true rfl) (.inr (.inr (above (Nat.le_of_ble_eq_true rfl))))]

end

/-! ## A segment whose lane has failed (R56, R58) -/

section
variable (s : State) (n : Fin 32) {k : Nat} {onSpare lock : Bool} (same : onSpare = s.onD8 n k)

/-- D8 takes over segment `k`. -/
def State.takeOver (k : Nat) : State := ((s.markLane n k).assignD8 n k true).setCause (F.FPE_FCAUSE_LANE_FAIL n)

include same in
/-- A free D8 takes over a segment whose lane has failed. -/
theorem State.segFailed_free (free : s.spareFree n lock = true) : s.segFailed n k onSpare lock = s.takeOver n k := by
  have own : onSpare = false := by
    have unused : s.bit (F.FPE_LANE_SPARE_EN n) = false := by
      simp only [State.spareFree, Bool.and_eq_true, Bool.not_eq_true'] at free
      exact free.1.1
    rw [same, State.onD8, unused, Bool.false_and]
  unfold State.segFailed State.takeOver
  rw [if_neg (by simp [same]), if_pos (by simp [own, free])]

include same in
/-- Without a free D8 a segment whose lane has failed is served no more. -/
theorem State.segFailed_taken (taken : s.spareFree n lock = false) (served : k ∉ (s.bar n).unserved) :
    s.segFailed n k onSpare lock = s.noSpare n (if s.onD8 n k then 8 else k) k := by
  unfold State.segFailed
  rw [if_neg (by simp [same]), if_neg (by simp [taken]), if_neg (by simpa using served), same]

/-- The registers of a bar that a failed lane changes. -/
def laneOffs : List Nat := [A.FPE_LANE n, A.FPE_FCAUSE n]

theorem laneOffs_eq : laneOffs n = [0x100300, 0x100014].map (· + n.val * 0x10000) := rfl

/-- What the failure of a lane leaves alone: the grid, the bar beside the segments it serves, and other registers. -/
def State.LaneChange (s t : State) (n : Fin 32) : Prop :=
  t.grid = s.grid ∧ (∃ us, t.bar n = { s.bar n with unserved := us })
    ∧ ∀ a, a ∉ laneOffs n → ¬ routerReg a → t.reg a = s.reg a

theorem State.takeOver_spec (hk : k < 8) (served : k ∉ (s.bar n).unserved) : s.LaneChange (s.takeOver n k) n
    ∧ (s.takeOver n k).bit (laneBad n k) = true ∧ (s.takeOver n k).g (F.FPE_LANE_SPARE_SEG n) = k
    ∧ (s.takeOver n k).bit (F.FPE_LANE_SPARE_EN n) = true ∧ (s.takeOver n k).bit (F.FPE_FCAUSE_LANE_FAIL n) = true
    ∧ k ∉ ((s.takeOver n k).bar n).unserved := by
  have marked : (s.markLane n k).bar n = s.bar n := State.bar_put s n _ _
  have bar := (s.markLane n k).bar_assignD8 n k true
  obtain ⟨frame, -, regs⟩ := (s.markLane n k).onlyBarAndRegs_assignD8 n k true
  have lane {f : Field} (off : f.off = A.FPE_LANE n) :
      (s.takeOver n k).g f = ((s.markLane n k).assignD8 n k true).g f := by
    have apart : A.FPE_LANE n ≠ (F.FPE_FCAUSE_LANE_FAIL n).off := barOff_ne _ (by decide)
    have hr : ¬ routerReg (A.FPE_LANE n) := not_routerReg_above _ (by decide)
    unfold State.g State.takeOver
    rw [off, State.reg_setCause_other _ _ apart hr]
  refine ⟨⟨?_, ⟨(s.markLane n k).stillUnserved n ((s.markLane n k).assignD8 n k true), ?_⟩, fun a ha hr => ?_⟩, ?_, ?_, ?_,
    ?_, ?_⟩
  · rw [State.takeOver, State.setCause_grid, frame]
    rfl
  · rw [State.takeOver, State.bar_setCause, bar, marked]
  · simp only [laneOffs, List.mem_cons, List.not_mem_nil, or_false, not_or] at ha
    obtain ⟨lane, cause⟩ := ha
    rw [State.takeOver, State.reg_setCause_other _ _ cause hr, regs a (by simpa using lane), State.markLane,
      State.reg_put_other _ _ lane]
  · unfold State.bit
    rw [lane rfl]
    exact (State.lane_assignD8 _ n k true k).trans (s.bit_markLane n (Nat.le_of_lt hk))
  · rw [lane rfl, State.g_assignD8, Nat.mod_eq_of_lt hk]
  · unfold State.bit
    rw [lane rfl]
    exact State.bit_assignD8 _ n k true
  · exact State.bit_setCause _ _ (Nat.le_of_ble_eq_true rfl) rfl (not_routerReg_above _ (by decide))
  · rw [State.takeOver, State.bar_setCause, bar, State.mem_stillUnserved, marked]
    exact fun h => served h.1

theorem State.noSpare_spec {lane : Nat} (hl : lane ≤ 8) : s.LaneChange (s.noSpare n lane k) n
    ∧ (s.noSpare n lane k).bit (laneBad n lane) = true ∧ (s.noSpare n lane k).bit (F.FPE_FCAUSE_NO_SPARE n) = true
    ∧ ((s.noSpare n lane k).bar n).unserved = (s.bar n).unserved ++ [k] := by
  have bar : (s.noSpare n lane k).bar n = { s.bar n with unserved := (s.bar n).unserved ++ [k] } := by
    rw [State.noSpare, State.bar_setCause, State.bar_modBar_same, State.markLane, State.bar_put]
  refine ⟨⟨?_, ⟨_, bar⟩, fun a ha hr => ?_⟩, ?_, ?_, by rw [bar]⟩
  · rw [State.noSpare, State.setCause_grid]
    rfl
  · simp only [laneOffs, List.mem_cons, List.not_mem_nil, or_false, not_or] at ha
    obtain ⟨off, cause⟩ := ha
    rw [State.noSpare, State.reg_setCause_other _ _ cause hr, State.reg_modBar, State.markLane, State.reg_put_other _ _ off]
  · have other : (laneBad n lane).off ≠ (F.FPE_FCAUSE_NO_SPARE n).off := barOff_ne _ (by decide)
    rw [State.noSpare, State.bit_setCause_of_apart _ (Nat.le_of_ble_eq_true rfl) (.inl other)
      (not_routerReg_above _ (by decide)), State.bit_modBar, s.bit_markLane n hl]
  · exact State.bit_setCause _ _ (Nat.le_of_ble_eq_true rfl) rfl (not_routerReg_above _ (by decide))

end

/-! ## The report of a segment that has not latched (R56-R58) -/

/-- The frame of index `i` with the data of segment `k`, which a lane served. -/
def LineFrame.carried (l : LineFrame) (i : FrameIdx) (k : Nat) : Prop := l.idx = some i ∧ k ∈ l.data ∧ k ∉ l.unserved

section
variable (s : State) (n : Fin 32) {k st : Nat} {lock : Bool} {l : LineFrame} {i : FrameIdx}

/-- The lanes behind the report of a segment that has not latched the frame `l`. -/
def State.lanesBehind (l : LineFrame) (k : Nat) (lock : Bool) : State :=
  if s.bit (F.FPE_CTL_AUTO n) then s.segFailed n k (LineFrame.spare (some l) k) lock else s

/-- A segment that has not latched the data of an index: its line of a test is void, its lane is treated, and its frame
is lost or its segment is served no more. -/
theorem State.segReport_missed (fitted : st.testBit 5 = true) (parity : st.testBit 2 = false)
    (missed : segNotLatched st = true) (latched : (s.bar n).latched = some l) (carried : l.carried i k)
    (served : k ∉ (s.bar n).unserved) : ∃ v, s.segReport n k st lock =
      if (((s.voidTo n v).lanesBehind n l k lock).bar n).unserved.contains k
      then ((s.voidTo n v).lanesBehind n l k lock).unservedLine n i.page
      else ((s.voidTo n v).lanesBehind n l k lock).lostFrame n i k := by
  obtain ⟨idx, data, unserved⟩ := carried
  refine ⟨(s.bar n).et.lineVoid ||| 2 ^ k, ?_⟩
  have bar := s.bar_voidTo n ((s.bar n).et.lineVoid ||| 2 ^ k)
  have prints : l.prints k = true := by simpa [LineFrame.prints] using data
  unfold State.segReport
  extract_lets miss u b perr was v w
  have voided : u = s.voidTo n ((s.bar n).et.lineVoid ||| 2 ^ k) := if_pos missed
  rw [← voided] at bar ⊢
  have seen : (u.bar n).latched = some l := by rw [bar]; exact latched
  have lanes : v = u.lanesBehind n l k lock := by
    simp only [v, State.lanesBehind, miss, missed, Bool.true_or, Bool.true_and, if_true, b, seen]
  have before : was = false := by
    have served' : k ∉ (u.bar n).unserved := by rw [bar]; exact served
    simp [was, b, seen, State.unservedIn, unserved, served']
  have lost : w = if (v.bar n).unserved.contains k then v.unservedLine n i.page else v.lostFrame n i k := by
    simp only [w, miss, missed, b, seen, prints, idx, before, Bool.false_eq_true, if_false]
  rw [if_neg (by simp [fitted]), ← lanes, ← lost]
  simp only [perr, parity]

end

section
variable (s : State) (n : Fin 32) (f : BitVec 128)

/-- A parity error of the line before, without a fail-over: its page is corrupt (R57). -/
theorem State.segReport_corrupt {k st : Nat} {lock : Bool} {l : LineFrame} {i : FrameIdx} (fitted : st.testBit 5 = true)
    (parity : st.testBit 2 = true) (whole : segNotLatched st = false) (manual : s.bit (F.FPE_CTL_AUTO n) = false)
    (previous : (s.bar n).previous = some l) (carried : l.carried i k) : s.segReport n k st lock =
      (s.bump (F.FPE_CORRUPT_LINES_V n)).amendRecord n i.page (·.mark .corrupt) := by
  obtain ⟨idx, data, unserved⟩ := carried
  have prints : l.prints k = true := by simpa [LineFrame.prints] using data
  unfold State.segReport
  simp only [whole, fitted, parity, manual, previous, prints, idx, Bool.false_eq_true, if_false, Bool.not_true,
    Bool.and_false]
  simp [unserved]

/-- The reports of a status frame of which one may be more than quiet. -/
theorem State.srTake_one {k : Nat} (hk : k < 8) (others : ∀ j, j < 8 → j ≠ k → reportQuiet (srStatus f j)) :
    ∃ v w, s.srTake n f = (((s.srHead n f).voidTo n v).segReport n k (srStatus f k) (f.getLsbD 80)).voidTo n w := by
  obtain ⟨a, b, split⟩ := List.append_of_mem (List.mem_range.2 hk)
  have once := split ▸ List.nodup_range (n := 8)
  rw [List.nodup_append] at once
  obtain ⟨-, nodup, apart⟩ := once
  have below {j : Nat} (h : j ∈ a ++ k :: b) : j < 8 := List.mem_range.1 (split ▸ h)
  have first : ∀ j ∈ a, reportQuiet (srStatus f j) := fun j hj =>
    others j (below (List.mem_append_left _ hj)) (apart j hj k List.mem_cons_self)
  have last : ∀ j ∈ b, reportQuiet (srStatus f j) := fun j hj =>
    others j (below (List.mem_append_right _ (List.mem_cons_of_mem k hj))) fun e => (List.nodup_cons.1 nodup).1 (e ▸ hj)
  rw [State.srTake_eq, split, List.foldl_append, List.foldl_cons, State.foldl_segReport_quiet n _ _ a _ first,
    State.foldl_segReport_quiet n _ _ b _ last]
  exact ⟨_, _, Eq.refl _⟩

end

/-! ## A status frame of one report that is not whole -/

section
variable {s u w r t : State} {n : Fin 32} {f : BitVec 128} {p : Page} {i : FrameIdx} {k : Nat}

/-- A status frame of which one report may be more than quiet: that report is taken behind the frame's registers, and
behind it only the marks of the frame and the causes of the stream change. -/
theorem State.exec_statusFrame_one (quiet : s.seqRun = false) (on : s.up (barDomain n) = true) (ticked : s.grid.ticked = true)
    (first : (s.bar n).srTaken = false) (valid : s.srFault f = 0) (hk : k < 8)
    (others : ∀ j, j < 8 → j ≠ k → reportQuiet (srStatus f j)) :
    ∃ v t, exec (.statusFrame n f) s = .next t
      ∧ ((((s.heard n f v).segReport n k (srStatus f k) (f.getLsbD 80)).bar n).closing = none →
        ((s.heard n f v).segReport n k (srStatus f k) (f.getLsbD 80)).Receives t n [A.FPE_LCAUSE n]) := by
  obtain ⟨v, w, take⟩ := (s.taking n).srTake_one n f hk others
  have take' : (s.taking n).srTake n f =
      ((s.heard n f v).segReport n k (srStatus f k) (f.getLsbD 80)).voidTo n w := take
  obtain ⟨low, ready, watched⟩ := (s.taking n).watchLines_causes n fun s => s.srTake n f
  rw [take'] at watched
  refine ⟨v, _, State.exec_statusFrame f quiet on ticked first, fun closing => ?_⟩
  rw [valid, if_neg (by decide), watched]
  generalize (s.heard n f v).segReport n k (srStatus f k) (f.getLsbD 80) = r at closing ⊢
  have bar : (((r.voidTo n w).setCauseIf low (F.FPE_LCAUSE_LOW_LEAD n)).setCauseIf ready (F.FPE_LCAUSE_READY n)).bar n =
      { r.bar n with et := { (r.bar n).et with lineVoid := w } } := by
    rw [State.bar_setCauseIf, State.bar_setCauseIf, State.bar_voidTo]
  rw [State.closePage_none _ _ (by rw [bar]; exact closing)]
  obtain ⟨grid, -⟩ := ((r.voidTo n w).sameMachine_setCauseIf low (F.FPE_LCAUSE_LOW_LEAD n)).trans
    (State.sameMachine_setCauseIf _ ready (F.FPE_LCAUSE_READY n))
  refine ⟨grid, ⟨_, _, _, bar⟩, fun a ha hr => ?_⟩
  have ha' : a ≠ A.FPE_LCAUSE n := by simpa using ha
  rw [State.reg_setCauseIf_other _ _ _ ha' hr, State.reg_setCauseIf_other _ _ _ ha' hr, State.voidTo, State.reg_modBar]

theorem State.LaneChange.refl (s : State) (n : Fin 32) : s.LaneChange s n := ⟨rfl, ⟨_, rfl⟩, fun _ _ _ => rfl⟩

end

section
variable (s : State) (n : Fin 32) (f : BitVec 128) (v : Nat)

/-- The registers show the frame. -/
theorem State.g_heard_shown {e : Field} {x : Nat} (named : (e, x) ∈ srFields n f) (fits : e.lo + e.w ≤ 32) :
    (s.heard n f v).g e = x % 2 ^ e.w := by
  rw [State.heard, State.voidTo, State.g_modBar, State.g_srHead_shown _ n f named fits]

/-- They show it behind the record of a page that closes. -/
theorem State.g_closed_shown {e : Field} {lo : Nat} (named : (e, srField f lo 32) ∈ srFields n f) (word : e.lo = 0 ∧ e.w = 32)
    (off : e.off ∉ A.FPE_LCAUSE n :: recordOffs n) (hr : ¬ routerReg e.off) :
    ((s.heard n f v).closePage n).g e = srField f lo 32 := by
  obtain ⟨start, wide⟩ := word
  rw [State.g_closePage _ n off hr, s.g_heard_shown n f v named (by omega), wide]
  exact Nat.mod_mod _ _

/-- A status frame leaves the lanes D0 to D7 and the assignment of D8 alone. -/
theorem State.g_heard_lane {e : Field} (off : e.off = A.FPE_LANE n) (low : e.lo + e.w ≤ 12) :
    (s.heard n f v).g e = s.g e := by
  rw [State.heard, State.voidTo, State.g_modBar, State.g_srHead_lane _ n f off low, State.taking, State.g_modBar]

theorem State.onD8_heard (k : Nat) : (s.heard n f v).onD8 n k = s.onD8 n k := by
  unfold State.onD8 State.bit
  rw [s.g_heard_lane n f v rfl (Nat.le_of_ble_eq_true rfl), s.g_heard_lane n f v rfl (Nat.le_of_ble_eq_true rfl)]

/-- D8 can take over when it could before and the frame reports its lock (R56, R58). -/
theorem State.spareFree_heard : (s.heard n f v).spareFree n (f.getLsbD 80) = true ↔
    s.bit (F.FPE_LANE_SPARE_EN n) = false ∧ f.getLsbD 80 = true ∧ s.bit (laneBad n 8) = false := by
  have en : (s.heard n f v).bit (F.FPE_LANE_SPARE_EN n) = s.bit (F.FPE_LANE_SPARE_EN n) := by
    unfold State.bit
    rw [s.g_heard_lane n f v rfl (Nat.le_of_ble_eq_true rfl)]
  have bad (lock : f.getLsbD 80 = true) : (s.heard n f v).bit (laneBad n 8) = s.bit (laneBad n 8) := by
    rw [State.heard, State.voidTo, State.bit_modBar, State.srHead_locked _ n f lock]
    unfold State.bit
    rw [State.g_srShown_lane _ n f rfl, State.taking, State.g_modBar]
  unfold State.spareFree
  rw [en]
  cases lock : f.getLsbD 80 with
  | false => simp
  | true =>
    have bad' : (s.heard n f v).bit ⟨A.FPE_LANE n, 12, 1⟩ = s.bit (laneBad n 8) := bad lock
    simp [bad']

end

section
variable {s u w r t : State} {n : Fin 32} {p : Page} {i : FrameIdx} {k : Nat}

/-- What a register shows behind a frame's taking and the change of its lanes. -/
theorem State.reg_across (heard : s.Receives u n (srOffs n)) (lanes : u.LaneChange w n) {a : Nat}
    (shown : a ∉ srOffs n) (lane : a ∉ laneOffs n) (hr : ¬ routerReg a) : w.reg a = s.reg a := by
  obtain ⟨-, -, first⟩ := heard
  obtain ⟨-, -, last⟩ := lanes
  rw [last a lane hr, first a shown hr]

/-- A register below the bars' blocks, and one of a bar beside its frame and lanes, show what they showed. -/
theorem State.kept_across (heard : s.Receives u n (srOffs n)) (lanes : u.LaneChange w n) :
    w.leader = s.leader ∧ w.g (F.FPE_LOST_LINES_V n) = s.g (F.FPE_LOST_LINES_V n) ∧ w.grid = s.grid
      ∧ (w.bar n).page = (s.bar n).page ∧ (w.bar n).closing = (s.bar n).closing := by
  have mode : w.reg A.XPT_CFG = s.reg A.XPT_CFG :=
    State.reg_across heard lanes (srOffs_eq n ▸ low_not_mem_barOffs n (by decide) (by decide))
      (laneOffs_eq n ▸ low_not_mem_barOffs n (by decide) (by decide)) (not_routerReg_behind (by decide))
  have lost : w.reg (A.FPE_LOST_LINES n) = s.reg (A.FPE_LOST_LINES n) :=
    State.reg_across heard lanes (srOffs_eq n ▸ not_mem_barOffs n (by decide)) (laneOffs_eq n ▸ not_mem_barOffs n (by decide))
      (not_routerReg_above _ (by decide))
  obtain ⟨grid, ⟨e, x, y, bar⟩, -⟩ := heard
  obtain ⟨grid', ⟨us, bar'⟩, -⟩ := lanes
  refine ⟨?_, ?_, grid'.trans grid, by rw [bar', bar], by rw [bar', bar]⟩
  · unfold State.leader State.bit State.g
    rw [show F.XPT_CFG_MODE.off = A.XPT_CFG from rfl, mode]
  · unfold State.g
    rw [show (F.FPE_LOST_LINES_V n).off = A.FPE_LOST_LINES n from rfl, lost]

/-- The loss of a frame, seen across the frame's taking, the change of the lanes and the causes of the stream. -/
theorem State.loses_across (heard : s.Receives u n (srOffs n)) (lanes : u.LaneChange w n)
    (page : (s.bar n).page = some p) (same : p.desc.serial = i.page) (k : Nat)
    (taken : (w.lostFrame n i k).Receives t n [A.FPE_LCAUSE n]) : s.Loses t n p i.idx k
      ∧ (t.bar n).unserved = (w.bar n).unserved
      ∧ ∀ a, a ∉ [0x10000C, 0x100408, 0x106018, 0x10601C, 0x106020].map (· + n.val * 0x10000) → ¬ routerReg a →
        t.reg a = w.reg a := by
  obtain ⟨leader, count, grid, wpage, -⟩ := State.kept_across heard lanes
  obtain ⟨loses, bar, regs⟩ := w.lostFrame_spec (wpage.trans page) same k
  have lost := taken.g (f := F.FPE_LOST_LINES_V n) (not_mem_barOffs (ks := [0x10000C]) n (k := 0x100408) (by decide))
    (not_routerReg_above _ (by decide))
  obtain ⟨tgrid, ⟨e, x, y, tbar⟩, tregs⟩ := taken
  refine ⟨(loses.behind tgrid (by rw [tbar]) lost).before grid leader count, by rw [tbar, bar], fun a ha hr => ?_⟩
  rw [List.map_cons, List.mem_cons, not_or] at ha
  obtain ⟨cause, loss⟩ := ha
  rw [tregs a (fun h => cause (List.mem_singleton.1 h)) hr, regs a loss]

end

section
variable {s : State} {n : Fin 32} {f : BitVec 128} {p : Page} {l : LineFrame} {i : FrameIdx} {k : Nat}

/-- A line that a segment no longer served has not printed: counted, and in the record of its page (R58). -/
theorem State.unservedLine_spec (page : (s.bar n).page = some p) (same : p.desc.serial = i.page) :
    s.counted (s.unservedLine n i.page) (F.FPE_LOST_LINES_V n)
      ∧ (s.unservedLine n i.page).bar n = { s.bar n with
          page := some { p with rcd := { p.rcd.mark .segLost with lost := p.rcd.lost + 1 } } }
      ∧ (s.unservedLine n i.page).grid = s.grid
      ∧ ∀ a, a ≠ A.FPE_LOST_LINES n → (s.unservedLine n i.page).reg a = s.reg a :=
  s.counted_amend n page same (Nat.le_of_ble_eq_true rfl) _

/-- What a status frame must be for its report of segment `k` to be of the frame `l` of index `i` of the page `p`, all
other reports being whole. -/
structure State.Reports (s : State) (n : Fin 32) (f : BitVec 128) (k : Nat) (i : FrameIdx) (p : Page) : Prop where
  quiet : s.seqRun = false
  on : s.up (barDomain n) = true
  ticked : s.grid.ticked = true
  first : (s.bar n).srTaken = false
  valid : s.srFault f = 0
  noClosing : (s.bar n).closing = none
  segment : k < 8
  others : ∀ j, j < 8 → j ≠ k → reportQuiet (srStatus f j)
  fitted : (srStatus f k).testBit 5 = true
  page : (s.bar n).page = some p
  same : p.desc.serial = i.page

/-- Its report is that the segment, which a lane served, has not latched the frame `l`, without a parity error. -/
structure State.Misses (s : State) (n : Fin 32) (f : BitVec 128) (k : Nat) (i : FrameIdx) (p : Page) (l : LineFrame) : Prop
    extends s.Reports n f k i p where
  parity : (srStatus f k).testBit 2 = false
  missed : segNotLatched (srStatus f k) = true
  latched : (s.bar n).latched = some l
  carried : l.carried i k
  served : k ∉ (s.bar n).unserved

variable (h : s.Misses n f k i p l)
include h

/-- A status frame that reports the frame of a served segment as not latched: behind its registers the lanes are treated,
then the frame is lost or the segment is served no more. -/
theorem State.exec_statusFrame_missed : ∃ v t, exec (.statusFrame n f) s = .next t
      ∧ ((s.heard n f v).LaneChange ((s.heard n f v).lanesBehind n l k (f.getLsbD 80)) n →
        (k ∉ (((s.heard n f v).lanesBehind n l k (f.getLsbD 80)).bar n).unserved →
          (((s.heard n f v).lanesBehind n l k (f.getLsbD 80)).lostFrame n i k).Receives t n [A.FPE_LCAUSE n])
        ∧ (k ∈ (((s.heard n f v).lanesBehind n l k (f.getLsbD 80)).bar n).unserved →
          (((s.heard n f v).lanesBehind n l k (f.getLsbD 80)).unservedLine n i.page).Receives t n [A.FPE_LCAUSE n])) := by
  obtain ⟨⟨quiet, on, ticked, first, valid, noClosing, segment, others, fitted, page, same⟩, parity, missed, latched, carried,
    served⟩ := h
  obtain ⟨v, t, took, behind⟩ := State.exec_statusFrame_one quiet on ticked first valid segment others
  have bar := s.bar_heard n f v
  obtain ⟨v', report⟩ := (s.heard n f v).segReport_missed n (lock := f.getLsbD 80) fitted parity missed
    (by rw [bar]; exact latched) carried (by rw [bar]; exact served)
  have again : (s.heard n f v).voidTo n v' = s.heard n f v' := State.voidTo_voidTo _ n v v'
  rw [again] at report
  refine ⟨v', t, took, fun lanes => ?_⟩
  obtain ⟨-, -, -, wpage, wopen⟩ := State.kept_across (s.receives_heard n f v') lanes
  generalize (s.heard n f v').lanesBehind n l k (f.getLsbD 80) = w at report lanes wpage wopen ⊢
  have wpage' := wpage.trans page
  rw [report] at behind
  refine ⟨fun out => ?_, fun inn => ?_⟩
  · rw [if_neg (by simpa using out)] at behind
    obtain ⟨-, lbar, -⟩ := w.lostFrame_spec wpage' same k
    exact behind (by rw [lbar]; exact wopen.trans noClosing)
  · rw [if_pos (by simpa using inn)] at behind
    obtain ⟨-, lbar, -⟩ := State.unservedLine_spec wpage' same
    exact behind (by rw [lbar]; exact wopen.trans noClosing)

end

/-! ## The three ways of a lane (R56, R58) -/

section
variable {s : State} {n : Fin 32} {f : BitVec 128} {p : Page} {l : LineFrame} {i : FrameIdx} {k : Nat} (v : Nat)

theorem State.auto_heard : (s.heard n f v).bit (F.FPE_CTL_AUTO n) = s.bit (F.FPE_CTL_AUTO n) :=
  (s.receives_heard n f v).bit (srOffs_eq n ▸ not_mem_barOffs n (k := 0x100000) (by decide)) (not_routerReg_above _ (by decide))

theorem State.unserved_heard : ((s.heard n f v).bar n).unserved = (s.bar n).unserved := by rw [s.bar_heard n f v]

/-- Whether D8 could take over a segment at a status frame. -/
def State.spareAt (s : State) (n : Fin 32) (f : BitVec 128) : Prop :=
  s.bit (F.FPE_LANE_SPARE_EN n) = false ∧ f.getLsbD 80 = true ∧ s.bit (laneBad n 8) = false

/-- Without AUTO a failed lane is left to the program. -/
theorem State.lanesBehind_manual (manual : s.bit (F.FPE_CTL_AUTO n) = false) :
    (s.heard n f v).lanesBehind n l k (f.getLsbD 80) = s.heard n f v := by
  rw [State.lanesBehind, State.auto_heard, manual, if_neg (by decide)]

/-- With AUTO a free D8 takes over. -/
theorem State.lanesBehind_free (auto : s.bit (F.FPE_CTL_AUTO n) = true) (lane : LineFrame.spare (some l) k = s.onD8 n k)
    (free : s.spareAt n f) : (s.heard n f v).lanesBehind n l k (f.getLsbD 80) = (s.heard n f v).takeOver n k := by
  rw [State.lanesBehind, State.auto_heard, auto, if_pos rfl]
  exact State.segFailed_free _ n (lane.trans (s.onD8_heard n f v k).symm) ((s.spareFree_heard n f v).2 free)

/-- With AUTO and no free D8 the segment is served no more. -/
theorem State.lanesBehind_taken (auto : s.bit (F.FPE_CTL_AUTO n) = true) (lane : LineFrame.spare (some l) k = s.onD8 n k)
    (taken : ¬ s.spareAt n f) (served : k ∉ (s.bar n).unserved) :
    (s.heard n f v).lanesBehind n l k (f.getLsbD 80) = (s.heard n f v).noSpare n (if s.onD8 n k then 8 else k) k := by
  have busy : (s.heard n f v).spareFree n (f.getLsbD 80) = false := by
    rw [← Bool.not_eq_true, s.spareFree_heard n f v]
    exact taken
  rw [State.lanesBehind, State.auto_heard, auto, if_pos rfl,
    State.segFailed_taken _ n (lane.trans (s.onD8_heard n f v k).symm) busy (by rw [State.unserved_heard]; exact served),
    s.onD8_heard n f v k]

end

section
variable {s : State} {n : Fin 32} {f : BitVec 128} {p : Page} {l : LineFrame} {i : FrameIdx} {k : Nat}
  (h : s.Misses n f k i p l)
include h

/-- With AUTO a free D8 takes over the segment, and its frame is lost. -/
theorem State.missed_free (auto : s.bit (F.FPE_CTL_AUTO n) = true) (lane : LineFrame.spare (some l) k = s.onD8 n k)
    (free : s.spareAt n f) : Completes (.statusFrame n f) s fun t =>
      t.bit (laneBad n k) = true ∧ t.g (F.FPE_LANE_SPARE_SEG n) = k ∧ t.bit (F.FPE_LANE_SPARE_EN n) = true
        ∧ t.bit (F.FPE_FCAUSE_LANE_FAIL n) = true ∧ k ∉ (t.bar n).unserved ∧ s.Loses t n p i.idx k := by
  obtain ⟨v, t, took, behind⟩ := State.exec_statusFrame_missed h
  obtain ⟨lanes, bad, spare, on, fail, out⟩ := (s.heard n f v).takeOver_spec n h.segment
    (by rw [State.unserved_heard]; exact h.served)
  rw [State.lanesBehind_free v auto lane free] at behind
  obtain ⟨loses, un, regs⟩ :=
    State.loses_across (s.receives_heard n f v) lanes h.page h.same k ((behind lanes).1 out)
  have laneReg := regs (A.FPE_LANE n) (not_mem_barOffs n (by decide)) (not_routerReg_above _ (by decide))
  have causeReg := regs (A.FPE_FCAUSE n) (not_mem_barOffs n (by decide)) (not_routerReg_above _ (by decide))
  exact ⟨t, took, (State.bit_of_reg laneReg).trans bad, (State.g_of_reg laneReg).trans spare,
    (State.bit_of_reg laneReg).trans on, (State.bit_of_reg causeReg).trans fail, by rw [un]; exact out, loses⟩

/-- Without AUTO the lanes stay, and the frame is lost. -/
theorem State.missed_manual (manual : s.bit (F.FPE_CTL_AUTO n) = false) : Completes (.statusFrame n f) s fun t =>
    (∀ j, j < 8 → t.bit (laneBad n j) = s.bit (laneBad n j)) ∧ (t.bar n).unserved = (s.bar n).unserved
      ∧ s.Loses t n p i.idx k := by
  obtain ⟨v, t, took, behind⟩ := State.exec_statusFrame_missed h
  have lanes := State.LaneChange.refl (s.heard n f v) n
  rw [State.lanesBehind_manual v manual] at behind
  obtain ⟨loses, un, regs⟩ := State.loses_across (s.receives_heard n f v) lanes h.page h.same k
    ((behind lanes).1 (by rw [State.unserved_heard]; exact h.served))
  have laneReg := regs (A.FPE_LANE n) (not_mem_barOffs n (by decide)) (not_routerReg_above _ (by decide))
  refine ⟨t, took, fun j hj => (State.bit_of_reg laneReg).trans ?_, un.trans (State.unserved_heard v), loses⟩
  unfold State.bit
  rw [s.g_heard_lane n f v rfl (show 4 + j + 1 ≤ 12 by omega)]

/-- With AUTO and no free D8 the segment is served no more. -/
theorem State.missed_taken (auto : s.bit (F.FPE_CTL_AUTO n) = true) (lane : LineFrame.spare (some l) k = s.onD8 n k)
    (taken : ¬ s.spareAt n f) : Completes (.statusFrame n f) s fun t =>
      t.bit (laneBad n (if s.onD8 n k then 8 else k)) = true ∧ t.bit (F.FPE_FCAUSE_NO_SPARE n) = true
        ∧ (t.bar n).unserved = (s.bar n).unserved ++ [k] ∧ s.counted t (F.FPE_LOST_LINES_V n) ∧ t.grid = s.grid
        ∧ (t.bar n).page = some { p with rcd := { p.rcd.mark .segLost with lost := p.rcd.lost + 1 } } := by
  obtain ⟨v, t, took, behind⟩ := State.exec_statusFrame_missed h
  have segment := h.segment
  have spot : (if s.onD8 n k then 8 else k) ≤ 8 := by split <;> omega
  obtain ⟨lanes, bad, noSpare, un⟩ := (s.heard n f v).noSpare_spec n (k := k) spot
  rw [State.lanesBehind_taken v auto lane taken h.served] at behind
  obtain ⟨-, lostReg, grid, wpage, -⟩ := State.kept_across (s.receives_heard n f v) lanes
  have behind := (behind lanes).2 (by rw [un]; simp)
  generalize (s.heard n f v).noSpare n (if s.onD8 n k then 8 else k) k = w at bad noSpare un lostReg grid wpage behind
  obtain ⟨count, bar, ugrid, regs⟩ := State.unservedLine_spec (wpage.trans h.page) h.same
  have shows {a : Nat} (lost : a ≠ A.FPE_LOST_LINES n) (cause : a ≠ A.FPE_LCAUSE n) (hr : ¬ routerReg a) :
      t.reg a = w.reg a := by
    obtain ⟨-, -, tregs⟩ := behind
    rw [tregs a (fun e => cause (List.mem_singleton.1 e)) hr, regs a lost]
  have laneReg : t.reg (A.FPE_LANE n) = w.reg (A.FPE_LANE n) :=
    shows (barOff_ne _ (by decide)) (barOff_ne _ (by decide)) (not_routerReg_above _ (by decide))
  have causeReg : t.reg (A.FPE_FCAUSE n) = w.reg (A.FPE_FCAUSE n) :=
    shows (barOff_ne _ (by decide)) (barOff_ne _ (by decide)) (not_routerReg_above _ (by decide))
  have lost := behind.g (f := F.FPE_LOST_LINES_V n) (not_mem_barOffs (ks := [0x10000C]) n (k := 0x100408) (by decide))
    (not_routerReg_above _ (by decide))
  obtain ⟨tgrid, ⟨e, x, y, tbar⟩, -⟩ := behind
  refine ⟨t, took, (State.bit_of_reg laneReg).trans bad, (State.bit_of_reg causeReg).trans noSpare, ?_, ?_,
    tgrid.trans (ugrid.trans grid), by rw [tbar, bar]⟩
  · rw [tbar, bar]
    exact un.trans (congrArg (· ++ [k]) (State.unserved_heard v))
  · unfold State.counted at count ⊢
    rw [lost, count, lostReg]

end

/-- A status frame that reports a parity error of the line before, without AUTO: counted, and its page is corrupt. -/
theorem State.reports_corrupt {s : State} {n : Fin 32} {f : BitVec 128} {p : Page} {l : LineFrame} {i : FrameIdx} {k : Nat}
    (h : s.Reports n f k i p) (parity : (srStatus f k).testBit 2 = true) (whole : segNotLatched (srStatus f k) = false)
    (manual : s.bit (F.FPE_CTL_AUTO n) = false) (previous : (s.bar n).previous = some l) (carried : l.carried i k) :
    Completes (.statusFrame n f) s fun t => s.counted t (F.FPE_CORRUPT_LINES_V n) ∧ t.grid = s.grid
      ∧ (t.bar n).page = some { p with rcd := p.rcd.mark .corrupt } := by
  obtain ⟨quiet, on, ticked, first, valid, noClosing, segment, others, fitted, page, same⟩ := h
  obtain ⟨v, t, took, behind⟩ := State.exec_statusFrame_one quiet on ticked first valid segment others
  have bar := s.bar_heard n f v
  rw [State.segReport_corrupt _ n fitted parity whole (by rw [State.auto_heard]; exact manual)
    (by rw [bar]; exact previous) carried] at behind
  have heard := s.receives_heard n f v
  have start := heard.g (f := F.FPE_CORRUPT_LINES_V n) (srOffs_eq n ▸ not_mem_barOffs n (k := 0x10040C) (by decide))
    (not_routerReg_above _ (by decide))
  obtain ⟨grid, -, -⟩ := heard
  obtain ⟨count, cbar, cgrid, -⟩ := (s.heard n f v).counted_amend n (by rw [bar]; exact page) same
    (f := F.FPE_CORRUPT_LINES_V n) (Nat.le_of_ble_eq_true rfl) (·.mark .corrupt)
  have behind := behind (by rw [cbar, bar]; exact noClosing)
  have last := behind.g (f := F.FPE_CORRUPT_LINES_V n) (not_mem_barOffs (ks := [0x10000C]) n (k := 0x10040C) (by decide))
    (not_routerReg_above _ (by decide))
  obtain ⟨tgrid, ⟨e, x, y, tbar⟩, -⟩ := behind
  refine ⟨t, took, ?_, tgrid.trans (cgrid.trans grid), by rw [tbar, cbar]⟩
  unfold State.counted at count ⊢
  rw [last, count, start]

end Sys2Proof.Machine
end

open Sys2Proof.Machine in
/-- Settles O26: a frame of whole reports is shown; of one other report the lanes are treated, then the loss. -/
theorem statusFramesAndSpareLane : Obligations.StatusFramesAndSpareLane := by
  unfold Obligations.StatusFramesAndSpareLane
  intro s n f seg en st b whole missed lane
  refine ⟨fun quiet on ticked first => ⟨fun valid reports => ?_, ?_, ?_, fun fault => ?_⟩, fun taken => ?_, fun lost => ?_,
    fun heard => ?_, fun takes => ?_⟩
  · have took := State.exec_statusFrame f quiet on ticked first
    rw [valid, if_neg (by decide), State.watchLines_whole s n f reports] at took
    have bar := s.bar_heard n f (s.voidLines n f)
    have closed := (s.heard n f (s.voidLines n f)).bar_closePage n
    refine ⟨_, took, ?_, fun k hk => ?_, ?_, ?_, ?_, fun none' => ?_, fun d r some' => ?_⟩
    · rw [closed, bar]
    · rw [closed, bar]
      exact (s.voidLines_iff n f hk).trans (or_congr_right (segNotLatched_iff _))
    · exact s.g_closed_shown n f _ List.mem_cons_self ⟨rfl, rfl⟩ (not_mem_closeOffs n (by decide))
        (not_routerReg_above _ (by decide))
    · exact s.g_closed_shown n f _ (List.mem_cons_of_mem _ List.mem_cons_self) ⟨rfl, rfl⟩ (not_mem_closeOffs n (by decide))
        (not_routerReg_above _ (by decide))
    · exact s.g_closed_shown n f _ (List.mem_cons_of_mem _ (List.mem_cons_of_mem _ List.mem_cons_self)) ⟨rfl, rfl⟩
        (not_mem_closeOffs n (by decide)) (not_routerReg_above _ (by decide))
    · rw [State.closePage_none _ n (by rw [bar]; exact none'), bar]
      exact ⟨rfl, s.onlyBarAndRegs_heard n f _⟩
    · obtain ⟨-, ended, tag, flags⟩ := (s.heard n f (s.voidLines n f)).closePage_spec n
        (by rw [bar]; exact some' : _ = some (d, r))
      exact ⟨ended, tag, flags⟩
  · intro k l i p valid noClosing hk others fitted parity miss latched idx data unl unserved onLane page same auto free lost
    have carried : l.carried i k := ⟨idx, data, unl⟩
    have h : s.Misses n f k i p l := ⟨⟨quiet, on, ticked, first, valid, noClosing, hk, others, fitted, page, same⟩, parity,
      (segNotLatched_iff _).2 miss, latched, carried, unserved⟩
    have lostOf (t : State) (loses : s.Loses t n p i.idx k) : lost t := by
      obtain ⟨count, page', follower, leader⟩ := loses
      refine ⟨count, fun follows => ⟨follower follows, ?_⟩, fun leads => ⟨?_, fun runs => leader leads runs⟩⟩
      · rw [page', follows]; rfl
      · rw [page', leads]; rfl
    refine ⟨fun isAuto isFree => ?_, fun isManual => ?_, fun isAuto isTaken => State.missed_taken h isAuto onLane isTaken⟩
    · obtain ⟨t, took, bad, spare, on', fail, out, loses⟩ := State.missed_free h isAuto onLane isFree
      exact ⟨t, took, bad, spare, on', fail, out, lostOf t loses⟩
    · obtain ⟨t, took, lanes, out, loses⟩ := State.missed_manual h (Bool.not_eq_true _ ▸ isManual)
      exact ⟨t, took, lanes, out, lostOf t loses⟩
  · intro k l i p valid noClosing hk others fitted parity notMissed manual previous idx data unl page same
    exact State.reports_corrupt ⟨quiet, on, ticked, first, valid, noClosing, hk, others, fitted, page, same⟩ parity
      (Bool.eq_false_iff.2 (mt (segNotLatched_iff _).1 notMissed)) manual previous ⟨idx, data, unl⟩
  · have took := State.exec_statusFrame f quiet on ticked first
    rw [if_pos fault] at took
    obtain ⟨count, bar, bars⟩ := (s.taking n).srDiscard_spec n (s.srFault f)
    rw [s.bar_taking n] at bar
    have closed := ((s.taking n).srDiscard n (s.srFault f)).bar_closePage n
    refine ⟨_, took, by rw [closed, bar], by rw [closed, bar], fun m other => ?_, ?_, by rw [closed], fun d r some' => ?_⟩
    · rw [State.bar_closePage_other _ n other, bars m other]
      exact s.bar_modBar_other _ other
    · unfold State.counted
      rw [State.g_closePage _ n (not_mem_closeOffs n (k := 0x100410) (by decide)) (not_routerReg_above _ (by decide))]
      exact count
    · obtain ⟨-, ended, tag, flags⟩ := ((s.taking n).srDiscard n (s.srFault f)).closePage_spec n
        (by rw [bar]; exact some' : _ = some (d, r))
      exact ⟨ended, tag, flags⟩
  · have idle : exec (.statusFrame n f) s = .next s := by
      change execStatusFrame n f s = _
      unfold execStatusFrame
      rw [if_pos (by simp [show (s.bar n).srTaken = true from taken])]
    exact ⟨s, idle, rfl⟩
  · refine ⟨s.setCause (F.FPE_FCAUSE_STATUS_LOST n), ?_, (State.onlyRegs.refl s).setCause _, State.bit_setCause _ _
      (Nat.le_of_ble_eq_true rfl) rfl (not_routerReg_above _ (by decide))⟩
    change execStatusLost n s = _
    rw [execStatusLost, decide_eq_true lost, State.setCauseIf_true]
  · refine ⟨s, ?_, rfl⟩
    change execStatusLost n s = _
    rw [execStatusLost, decide_eq_false (Nat.not_le.2 heard), State.setCauseIf_false]
  · have took : exec (.spareLaneWrite n seg en) s = .next (s.assignD8 n seg en) :=
      congrArg Host.Outcome.next (s.atBlock_takes takes fun s => s.spareLane n seg en)
    refine ⟨_, took, s.onlyBarAndRegs_assignD8 n seg en, ?_, s.bit_assignD8 n seg en, ?_, fun k => ?_⟩
    · rw [State.g_assignD8, Nat.mod_eq_of_lt seg.isLt]
    · rw [s.bar_assignD8 n seg en]
    · rw [s.bar_assignD8 n seg en]
      exact s.mem_stillUnserved n _ k

section
/-!
PROOFS. Memory without error words, causes and events, single steps: what common operations leave alone (10 R310; 11 R347).
-/

namespace Sys2Proof.Machine

/-! ## Memory without error words (11 R347) -/

/-- No word of the memories is in error. -/
def State.NoErrors (s : State) : Prop := s.ceBad = [] ∧ s.ueBad = []

/-- A state with the same error words, of which there are none. -/
theorem State.NoErrors.of_same {s t : State} (clean : s.NoErrors) (ce : t.ceBad = s.ceBad) (ue : t.ueBad = s.ueBad) :
    t.NoErrors := ⟨ce.trans clean.1, ue.trans clean.2⟩

section
variable {s : State} (clean : s.NoErrors)
include clean

theorem State.NoErrors.badAt (a : Nat) : s.badAt a = false := by simp [State.badAt, clean.2]

theorem State.NoErrors.readErrs (a n : Nat) : s.readErrs a n = s := by simp [State.readErrs, clean.1, clean.2]

theorem State.NoErrors.readCells (ws : List Nat) : s.readCells ws = s := by simp [State.readCells, clean.1, clean.2]

theorem State.NoErrors.cleanWord (w : Nat) : s.cleanWord w = s := by simp [State.cleanWord, clean.1, clean.2]

theorem State.NoErrors.storeBytes (a : Nat) (bs : List Byte) : s.storeBytes a bs = s.setBytes a bs := by
  simp [State.storeBytes, clean.1, clean.2]

end

/-- Rewriting words changes which are in error, and their banks. -/
theorem State.cleanCells_frame (s : State) (ws : List Nat) : s.cleanCells ws =
    { s with ceBad := (s.cleanCells ws).ceBad, ueBad := (s.cleanCells ws).ueBad, banks := (s.cleanCells ws).banks } := by
  have word (t : State) (w : Nat) : t.cleanWord w =
      { t with ceBad := (t.cleanWord w).ceBad, ueBad := (t.cleanWord w).ueBad, banks := (t.cleanWord w).banks } := by
    unfold State.cleanWord
    split
    · split <;> rfl
    · rfl
  unfold State.cleanCells
  split
  · rfl
  · refine foldl_keeps (P := fun t : State => t = { s with ceBad := t.ceBad, ueBad := t.ueBad, banks := t.banks }) ws
      (fun t w h => ?_) rfl
    rw [word t w, h]

/-- Bytes stored change memory alone. -/
theorem State.setBytes_frame (s : State) (a : Nat) (bs : List Byte) :
    s.setBytes a bs = { s with mem := (s.setBytes a bs).mem } := by
  induction bs generalizing s a with
  | nil => rfl
  | cons b bs ih => exact ih (s.setByte a b) (a + 1)

/-- A byte of memory where memory is the same. -/
theorem State.byteAt_of_mem {s t : State} (mem : t.mem = s.mem) (x : Nat) : t.byteAt x = s.byteAt x := by
  unfold State.byteAt
  rw [mem]

/-- The bytes stored are the bytes there. -/
theorem State.stored_setBytes (s : State) (a : Nat) (bs : List Byte) : s.stored (s.setBytes a bs) a bs := by
  intro x
  split
  case isTrue within =>
    obtain ⟨low, high⟩ := within
    have place : x - a < bs.length := by omega
    have byte := s.byteAt_setBytes_same a (x - a) bs place
    rw [Nat.add_sub_cancel' low] at byte
    rw [byte, List.getD_eq_getElem _ _ place]
  case isFalse outside => exact s.byteAt_setBytes_other a x bs (by omega)

/-! ## What a cause bit leaves alone (12 R366) -/

section
variable (s : State) (f : Field)

@[simp] theorem State.setCause_banks : (s.setCause f).banks = s.banks := by rw [State.setCause_frame]
@[simp] theorem State.setCause_hl : (s.setCause f).hl = s.hl := by rw [State.setCause_frame]

/-- Whether a condition holds or not, its cause bit leaves alone what a cause bit does. -/
theorem State.setCauseIf_frame (c : Bool) : s.setCauseIf c f = { s with
    regs := (s.setCauseIf c f).regs, pairs := (s.setCauseIf c f).pairs, linkOut := (s.setCauseIf c f).linkOut } := by
  cases c
  · rfl
  · exact s.setCause_frame f

theorem State.g_setCauseIf_of_apart (c : Bool) {e : Field} (hf : f.lo + f.w ≤ 32) (apart : e.Apart f)
    (hr : ¬ routerReg e.off) : (s.setCauseIf c f).g e = s.g e := by
  cases c
  · rfl
  · exact s.g_setCause_of_apart hf apart hr

/-- A counter and the cause bit that goes with it. -/
theorem State.counts_and_reports (k : Nat) {c : Field} (fits : f.lo + f.w ≤ 32) (low : c.lo + 1 ≤ 32) (one : c.w = 1)
    (apart : f.off ≠ c.off) (hf : ¬ routerReg f.off) (hc : ¬ routerReg c.off) :
    ((s.bumpBy f k).setCause c).g f = min (s.g f + k) (2 ^ f.w - 1) ∧ ((s.bumpBy f k).setCause c).bit c = true := by
  refine ⟨?_, State.bit_setCause _ c low one hc⟩
  rw [State.g_setCause_of_apart _ (by omega) (.inl apart) hf, s.g_bumpBy f k fits]

end

/-! ## No single step requested (10 R310) -/

/-- No single step of a pair is requested. -/
def State.Steady (s : State) : Prop := ∀ j, (s.pair j).stepReq = false

section
variable {s t : State} (steady : s.Steady)
include steady

theorem State.Steady.of_pairs (same : t.pairs = s.pairs) : t.Steady := fun j => by
  rw [State.pair, same]
  exact steady j

theorem State.Steady.setCause (f : Field) : (s.setCause f).Steady := fun j => (s.setCause_stepReq f j).trans (steady j)

theorem State.Steady.setCauseIf (c : Bool) (f : Field) : (s.setCauseIf c f).Steady := by
  cases c
  · exact steady
  · exact steady.setCause f

/-- A word read, with the error it may meet, requests no step. -/
theorem State.Steady.readWord (w : Nat) : (s.readWord w).Steady := by
  unfold State.readWord
  split
  · exact steady
  · dsimp only
    split
    · refine State.Steady.setCause (steady.of_pairs ?_) _
      rw [State.put_pairs, State.put_pairs, State.modBank_pairs]
    · split
      · exact State.Steady.setCause (steady.of_pairs (State.modBank_pairs s _ _)) _
      · exact steady

theorem State.Steady.readCells (ws : List Nat) : (s.readCells ws).Steady := by
  unfold State.readCells
  split
  · exact steady
  · exact foldl_keeps (P := State.Steady) ws (fun t w h => State.Steady.readWord h w) steady

theorem State.Steady.cleanCells (ws : List Nat) : (s.cleanCells ws).Steady :=
  steady.of_pairs (by rw [State.cleanCells_frame])

/-- No step is taken where none is requested. -/
theorem State.Steady.runSteps : s.runSteps = s := s.runSteps_of_none steady

end

end Sys2Proof.Machine
end

section
/-!
PROOFS. Update FIFOs: what a change of one leaves alone, pushes, windows, and the words that leave the head (03 R91-R102;
11 R345); O29.
-/

namespace Sys2Proof.Machine

/-! ## A change of an update FIFO (03 R93) -/

/-- What was put in a plain sparse map is found in it. -/
theorem Cells.find?_insert {α : Type} (m : Cells α) (k : Nat) (v : α) : Cells.find? (Cells.insert m k v) k = some v := by
  have sorted (l : Cells α) (absent : ∀ e ∈ l, e.1 ≠ k) : Cells.find? (Cells.insertSorted k v l) k = some v := by
    induction l with
    | nil => simp [Cells.insertSorted, Cells.find?]
    | cons a l ih =>
      obtain ⟨key, x⟩ := a
      have other : key ≠ k := absent (key, x) List.mem_cons_self
      unfold Cells.insertSorted
      split
      · simp [Cells.find?]
      · simp [Cells.find?, other, ih fun e he => absent e (List.mem_cons_of_mem _ he)]
  refine sorted _ fun e he => ?_
  rw [Cells.drop_eq] at he
  simpa using (List.mem_filter.1 he).2

section
variable (f : Nst) (now : Nat)

@[simp] theorem Nst.track_fifo : (f.track now).fifo = f.fifo := by unfold Nst.track; split <;> rfl
@[simp] theorem Nst.track_reserved : (f.track now).reserved = f.reserved := by unfold Nst.track; split <;> rfl
@[simp] theorem Nst.track_stalled : (f.track now).stalled = f.stalled := by unfold Nst.track; split <;> rfl
@[simp] theorem Nst.track_windowTick : (f.track now).windowTick = f.windowTick := by unfold Nst.track; split <;> rfl

/-- The slots reserved for a master once their number is set. -/
theorem Nst.reservedOf_withReserved (m : Master) (k : Nat) : (f.withReserved m k).reservedOf m = k := by
  simp [Nst.reservedOf, Nst.withReserved, Cells.find?_insert]

end

section
variable (s : State) (n : Fin 32) (f : Nst → Nst)

/-- A change of an update FIFO: that of its bar, and LOW_WATER where the level has fallen to it. -/
theorem State.modNst_eq : ∃ c, s.modNst n f =
    (s.modBar n fun b => { b with nst := f b.nst }).setCauseIf c (F.NST_CAUSE_LOW_WATER n) := ⟨_, rfl⟩

@[simp] theorem State.bar_modNst : (s.modNst n f).bar n = { s.bar n with nst := f (s.bar n).nst } := by
  obtain ⟨c, eq⟩ := s.modNst_eq n f
  rw [eq, State.bar_setCauseIf, State.bar_modBar_same]

theorem State.bar_modNst_other {m : Fin 32} (other : m ≠ n) : (s.modNst n f).bar m = s.bar m := by
  obtain ⟨c, eq⟩ := s.modNst_eq n f
  rw [eq, State.bar_setCauseIf, State.bar_modBar_other _ _ other]

/-- What a change of an update FIFO leaves alone. -/
theorem State.modNst_frame : s.modNst n f = { s with
    bars := (s.modNst n f).bars, regs := (s.modNst n f).regs, pairs := (s.modNst n f).pairs
    linkOut := (s.modNst n f).linkOut } := by
  obtain ⟨c, eq⟩ := s.modNst_eq n f
  rw [eq, State.setCauseIf_frame]
  rfl

/-- Every field is as before but LOW_WATER and those of the event router. -/
theorem State.g_modNst {e : Field} (apart : e.Apart (F.NST_CAUSE_LOW_WATER n)) (hr : ¬ routerReg e.off) :
    (s.modNst n f).g e = s.g e := by
  obtain ⟨c, eq⟩ := s.modNst_eq n f
  rw [eq]
  exact State.g_setCauseIf_of_apart _ _ c (Nat.le_of_ble_eq_true rfl) apart hr

theorem State.reg_modNst {a : Nat} (other : a ≠ A.NST_CAUSE n) (hr : ¬ routerReg a) : (s.modNst n f).reg a = s.reg a := by
  obtain ⟨c, eq⟩ := s.modNst_eq n f
  rw [eq, State.reg_setCauseIf_other _ _ _ other hr, State.reg_modBar]

theorem State.Steady.modNst {s : State} (steady : s.Steady) : (s.modNst n f).Steady := by
  obtain ⟨c, eq⟩ := s.modNst_eq n f
  rw [eq]
  exact (steady.of_pairs (State.modBar_pairs s n _)).setCauseIf c _

end

/-! ## Pushes (03 R92-R94, R101, R102) -/

section
variable (s : State) (n : Fin 32) (m : Master) (w : Word)

/-- The word that a write of NST_UPD_HI pushes for a master (R92). -/
def State.halves : DWord :=
  BitVec.ofNat 64 (((Cells.find? (s.bar n).nst.held m.key).getD 0).toNat + w.toNat % 2 ^ 16 * 2 ^ 32)

/-- A word enters at the end of the FIFO. -/
theorem State.bar_enterUpd (f : Nst → Nst) (w : DWord) :
    (s.enterUpd n f w).bar n = { s.bar n with nst := (f (s.bar n).nst).append w s.now } := by
  unfold State.enterUpd
  rw [State.bar_modNst]
  rw [State.cleanCells_frame]
  rfl

theorem Nst.append_fifo (f : Nst) (w : DWord) (now : Nat) : (f.append w now).fifo = f.fifo ++ [w] :=
  Nst.track_fifo _ _

theorem Nst.append_stalled (f : Nst) (w : DWord) (now : Nat) : (f.append w now).stalled = f.stalled :=
  Nst.track_stalled _ _

/-- A push that no slot was reserved for enters a FIFO with a free slot behind no other. -/
theorem State.pushUpd_enters (w : DWord) (none' : (s.bar n).nst.reservedOf m = 0) (room : (s.bar n).nst.level < 1024)
    (first : (s.bar n).nst.stalled = []) : s.pushUpd m n w = s.enterUpd n id (updStored m w) := by
  simp [State.pushUpd, none', room, first]

/-- A push takes a slot reserved for its master. -/
theorem State.pushUpd_reserved (w : DWord) (slot : 0 < (s.bar n).nst.reservedOf m) : s.pushUpd m n w =
    s.enterUpd n (fun f => f.withReserved m (f.reservedOf m - 1)) (updStored m w) := by
  simp [State.pushUpd, slot]

/-- A push waits while no slot is free, or behind one that waits. -/
theorem State.pushUpd_waits (w : DWord) (none' : (s.bar n).nst.reservedOf m = 0)
    (full : 1024 ≤ (s.bar n).nst.level ∨ (s.bar n).nst.stalled ≠ []) : s.pushUpd m n w =
    s.modNst n fun f => { f with stalled := f.stalled ++ [⟨m, updStored m w, s.now⟩] } := by
  have shut : ¬ ((s.bar n).nst.level < 1024 ∧ (s.bar n).nst.stalled = []) := by
    rintro ⟨room, first⟩
    exact full.elim (Nat.not_le.2 room) (· first)
  simp [State.pushUpd, none', shut]

end

/-! ## Words leave the head (03 R91, R95-R99; 11 R345) -/

/-- Port B writes nothing in a cycle that none of its writes names. -/
theorem State.tablePortB_idle (s : State) (n : Fin 32) (pb : List PortBWrite) (k : Nat) (wrote : Option Nat)
    (idle : ∀ x ∈ pb, x.word ≠ k) : s.tablePortB n pb k wrote = s := by
  have none' : portBAt (tableBank n) pb k = none := by
    have missed : pb.find? (fun p => p.word == k) = none := List.find?_eq_none.2 fun x hx => by simpa using idle x hx
    simp [portBAt, missed]
  simp [State.tablePortB, State.portB, collides, none']

/-- Port B writes in the cycle of port A, a word that port A writes too. -/
theorem State.tablePortB_collides (s : State) (n : Fin 32) {pb : List PortBWrite} {k a : Nat} {bs : List Byte}
    (clean : s.NoErrors) (writes : portBAt (tableBank n) pb k = some (a, bs)) :
    s.tablePortB n pb k (some (a / 8)) =
      if (s.bar n).inPage then
        ((((s.setBytes a bs).countColl (tableBank n)).bump (F.NST_COLLISIONS_V n)).setCause (F.NST_CAUSE_COLLISION n))
      else (s.setBytes a bs).countColl (tableBank n) := by
  have both : collides (tableBank n) pb k (some (a / 8)) = true := by simp [collides, writes]
  have wrote : s.portB (tableBank n) pb k (some (a / 8)) = (s.setBytes a bs).countColl (tableBank n) := by
    simp [State.portB, writes, both, clean.storeBytes]
  have page : (((s.setBytes a bs).countColl (tableBank n)).bar n).inPage = (s.bar n).inPage := by
    rw [State.setBytes_frame]; rfl
  unfold State.tablePortB
  rw [wrote, both]
  simp only [page, Bool.and_true]

section
variable (s : State) (n : Fin 32) (pb : List PortBWrite) (w : DWord)

/-- What the masked bits of its entry become (R98). -/
def State.maskedEntry : Byte :=
  (s.byteAt (updEntry n w) &&& ~~~(updMask w)) ||| (updValue w &&& updMask w)

/-- Whether a word honours the set lock of its entry. -/
def State.UpdLocked : Prop := updHonor w = true ∧ (s.byteAt (updEntry n w)).getLsbD 7 = true

/-- An entry written and counted. -/
def State.wroteEntry : State := (s.setByte (updEntry n w) (s.maskedEntry n w)).bump (F.NST_APPLIED_V n)

variable {s n w}

theorem State.NoErrors.updSkips (clean : s.NoErrors) : s.updSkips n w = true ↔ s.UpdLocked n w := by
  simp [State.updSkips, State.UpdLocked, clean.badAt]

theorem State.NoErrors.readUpd (clean : s.NoErrors) : s.readUpd n w = s := clean.readErrs _ _

theorem State.NoErrors.writeUpd (clean : s.NoErrors) : s.writeUpd n w = s.wroteEntry n w := by
  simp [State.writeUpd, State.setEntry, clean.badAt, clean.cleanWord, State.wroteEntry, State.maskedEntry]

/-- A word that is void is discarded. -/
theorem State.takeOne_void {k : Nat} (void : updVoid w = true) (idle : ∀ x ∈ pb, x.word ≠ k) :
    s.takeOne n pb k w = s.discardVoid n 1 := by
  rw [State.takeOne, State.tablePortB_idle _ _ _ _ _ idle, State.applyOne, if_pos void]

/-- A word that honours a set lock is skipped. -/
theorem State.takeOne_locked {k : Nat} (clean : s.NoErrors) (void : updVoid w = false) (locked : s.UpdLocked n w)
    (idle : ∀ x ∈ pb, x.word ≠ k) : s.takeOne n pb k w = s.countSkip n 1 := by
  rw [State.takeOne, State.tablePortB_idle _ _ _ _ _ idle]
  simp [State.applyOne, void, State.applyUpd, clean.updSkips.2 locked, clean.readUpd]

/-- Any other word is written to its entry, and port B's write of the cycle follows. -/
theorem State.takeOne_free {k : Nat} (clean : s.NoErrors) (void : updVoid w = false) (free : ¬ s.UpdLocked n w) :
    s.takeOne n pb k w = (s.wroteEntry n w).tablePortB n pb k (some (updEntry n w / 8)) := by
  have skips : s.updSkips n w = false := Bool.eq_false_iff.2 (mt clean.updSkips.1 free)
  simp [State.takeOne, State.applyOne, State.wordOf, void, State.applyUpd, skips, clean.readUpd, clean.writeUpd]

end

end Sys2Proof.Machine
end

section
/-!
PROOFS. The words of an update FIFO applied: in the window, outside a page, alone (03 R91, R95-R100); O29.
-/

namespace Sys2Proof.Machine

/-! ## What port A's cycles of a pair do (03 R99) -/

section
variable {s v : State} {n : Fin 32} {pb : List PortBWrite} {w w2 : DWord}

theorem State.maskedEntry_of_mem (mem : v.mem = s.mem) : v.maskedEntry n w = s.maskedEntry n w := by
  unfold State.maskedEntry
  rw [State.byteAt_of_mem mem]

theorem State.updLocked_of_mem (mem : v.mem = s.mem) : v.UpdLocked n w ↔ s.UpdLocked n w := by
  unfold State.UpdLocked
  rw [State.byteAt_of_mem mem]

/-- A byte of memory behind a written entry. -/
theorem State.byteAt_wroteEntry (x : Nat) : (s.wroteEntry n w).byteAt x =
    if x = updEntry n w then s.maskedEntry n w else s.byteAt x := by
  rw [State.wroteEntry, State.byteAt_of_mem (State.bump_mem _ _)]
  exact s.byteAt_setByte _ x _

theorem State.bar_wroteEntry : (s.wroteEntry n w).bar n = s.bar n := by
  rw [State.wroteEntry, State.bump, State.bar_bumpBy]
  rfl

theorem State.NoErrors.wroteEntry (clean : s.NoErrors) : (s.wroteEntry n w).NoErrors := by
  refine clean.of_same ?_ ?_
  · rw [State.wroteEntry, State.bump_ceBad, State.setByte_ceBad]
  · rw [State.wroteEntry, State.bump_ueBad, State.setByte_ueBad]

/-- A written entry is counted. -/
theorem State.g_wroteEntry : (s.wroteEntry n w).g (F.NST_APPLIED_V n) =
    min (s.g (F.NST_APPLIED_V n) + 1) (2 ^ (F.NST_APPLIED_V n).w - 1) := by
  rw [State.wroteEntry, State.g_bump _ _ (Nat.le_of_ble_eq_true rfl)]
  rfl

/-- A written entry changes no other register. -/
theorem State.reg_wroteEntry {b : Nat} (other : b ≠ A.NST_APPLIED n) : (s.wroteEntry n w).reg b = s.reg b := by
  have kept : ((s.setByte (updEntry n w) (s.maskedEntry n w)).bump (F.NST_APPLIED_V n)).reg b =
      (s.setByte (updEntry n w) (s.maskedEntry n w)).reg b := by
    rw [State.bump, State.bumpBy]
    exact State.reg_put_other _ _ other
  rw [State.wroteEntry, kept, State.reg, State.setByte_regs, ← State.reg]

/-- An entry written and counted, and bytes of port B stored in the same cycle. -/
def State.bothWrote (s : State) (n : Fin 32) (w : DWord) (a : Nat) (bs : List Byte) : State :=
  ((s.wroteEntry n w).setBytes a bs).countColl (tableBank n)

section
variable (s : State) (n : Fin 32) (w : DWord) (a : Nat) (bs : List Byte)

theorem State.bar_bothWrote : (s.bothWrote n w a bs).bar n = s.bar n := by
  have bars : (s.bothWrote n w a bs).bars = (s.wroteEntry n w).bars := by
    rw [State.bothWrote, State.countColl, State.modBank_bars, State.setBytes_frame]
  rw [State.bar, bars, ← State.bar]
  exact State.bar_wroteEntry

theorem State.coll_bothWrote : ((s.bothWrote n w a bs).bank (tableBank n)).coll = sat32 ((s.bank (tableBank n)).coll + 1) := by
  have banks : ((s.wroteEntry n w).setBytes a bs).banks = s.banks := by
    rw [State.setBytes_frame, State.wroteEntry, State.bump_banks, State.setByte_banks]
  rw [State.bothWrote, State.countColl, State.bank_modBank_same, State.bank, banks]
  rfl

theorem State.byteAt_bothWrote (x : Nat) : (s.bothWrote n w a bs).byteAt x =
    if a ≤ x ∧ x < a + bs.length then bs.getD (x - a) 0 else (s.wroteEntry n w).byteAt x :=
  (s.wroteEntry n w).stored_setBytes a bs x

theorem State.reg_bothWrote {b : Nat} (other : b ≠ A.NST_APPLIED n) : (s.bothWrote n w a bs).reg b = s.reg b := by
  have regs : (s.bothWrote n w a bs).regs = (s.wroteEntry n w).regs := by
    rw [State.bothWrote, State.countColl, State.modBank_regs, State.setBytes_frame]
  rw [State.reg, regs, ← State.reg]
  exact State.reg_wroteEntry other

end

/-- The lock of another entry is as before a word is applied. -/
theorem State.updLocked_wroteEntry (apart : updEntry n w ≠ updEntry n w2) :
    (s.wroteEntry n w).UpdLocked n w2 ↔ s.UpdLocked n w2 := by
  unfold State.UpdLocked
  rw [State.byteAt_wroteEntry, if_neg apart.symm]

/-- A pair of two entries is skipped when one of them is locked. -/
theorem State.NoErrors.pairSkips (clean : s.NoErrors) (apart : updEntry n w ≠ updEntry n w2) :
    s.pairSkips n w w2 = true ↔ s.UpdLocked n w ∨ s.UpdLocked n w2 := by
  rw [State.pairSkips, Bool.or_eq_true, clean.updSkips]
  by_cases locked : s.UpdLocked n w
  · simp [locked]
  · have free : s.updSkips n w = false := Bool.eq_false_iff.2 (mt clean.updSkips.1 locked)
    rw [State.applyUpd, free, if_neg Bool.false_ne_true, clean.readUpd, clean.writeUpd, clean.wroteEntry.updSkips,
      State.updLocked_wroteEntry apart]

variable (quiet : ∀ x ∈ pb, x.word ≠ 0 ∧ x.word ≠ 1)
include quiet

theorem State.applyPair_void (void : updVoid w = true ∨ updVoid w2 = true) :
    s.applyPair n pb 0 w w2 = s.discardVoid n 2 := by
  have both : (updVoid w || updVoid w2) = true := Bool.or_eq_true _ _ ▸ void
  rw [State.applyPair, if_pos both, State.tablePortB_idle _ _ _ _ _ fun x hx => (quiet x hx).1,
    State.tablePortB_idle _ _ _ _ _ fun x hx => (quiet x hx).2]

theorem State.applyPair_locked (clean : s.NoErrors) (void : updVoid w = false) (void2 : updVoid w2 = false)
    (apart : updEntry n w ≠ updEntry n w2) (locked : s.UpdLocked n w ∨ s.UpdLocked n w2) :
    s.applyPair n pb 0 w w2 = s.countSkip n 2 := by
  have skips := (clean.pairSkips apart).2 locked
  simp only [State.applyPair, void, void2, Bool.or_self, Bool.false_eq_true, if_false, skips, if_true, clean.readUpd]
  rw [State.tablePortB_idle _ _ _ _ _ fun x hx => (quiet x hx).1, clean.readUpd,
    State.tablePortB_idle _ _ _ _ _ fun x hx => (quiet x hx).2]

theorem State.applyPair_free (clean : s.NoErrors) (void : updVoid w = false) (void2 : updVoid w2 = false)
    (apart : updEntry n w ≠ updEntry n w2) (free : ¬ s.UpdLocked n w) (free2 : ¬ s.UpdLocked n w2) :
    s.applyPair n pb 0 w w2 = (s.wroteEntry n w).wroteEntry n w2 := by
  have skips : s.pairSkips n w w2 = false :=
    Bool.eq_false_iff.2 fun skips => ((clean.pairSkips apart).1 skips).elim free free2
  simp only [State.applyPair, void, void2, Bool.or_self, Bool.false_eq_true, if_false, skips, clean.readUpd, clean.writeUpd]
  rw [State.tablePortB_idle _ _ _ _ _ fun x hx => (quiet x hx).1, clean.wroteEntry.readUpd, clean.wroteEntry.writeUpd,
    State.tablePortB_idle _ _ _ _ _ fun x hx => (quiet x hx).2]

end

/-! ## Words that have left the head and not acted yet -/

/-- `v` is `s` once words have left the head of bar `n`'s FIFO, in which `rest` stays, and before they act. -/
structure State.Popped (s v : State) (n : Fin 32) (rest : List DWord) : Prop where
  mem : v.mem = s.mem
  clean : v.NoErrors
  banks : v.banks = s.banks
  page : (v.bar n).page = (s.bar n).page
  fifo : (v.bar n).nst.fifo = rest
  fields : ∀ e : Field, e.Apart (F.NST_CAUSE_LOW_WATER n) → ¬ routerReg e.off → v.g e = s.g e
  words : ∀ a, a ≠ A.NST_CAUSE n → ¬ routerReg a → v.reg a = s.reg a

/-- The fields of a bar's registers are none of the router's. -/
theorem nst_not_routerReg {k : Nat} (n : Nat) (high : 0xE0000 ≤ k) : ¬ routerReg (k + n * 0x10000) :=
  not_routerReg_above _ high

section
variable {s u v : State} {n : Fin 32} {rest : List DWord} {w w2 : DWord}

/-- A change of the FIFO by which words leave it, of a state whose window may have opened. -/
theorem State.Popped.of_modNst (clean : s.NoErrors) (opened : u = s ∨ u = s.openWindow n) {f : Nst → Nst}
    (fifo : (f (u.bar n).nst).fifo = rest) : s.Popped (u.modNst n f) n rest := by
  have page : (u.bar n).page = (s.bar n).page := by
    rcases opened with rfl | rfl
    · rfl
    · rw [State.openWindow, State.bar_modBar_same]
  have same : u = { s with bars := u.bars } := by rcases opened with rfl | rfl <;> rfl
  have mem : (u.modNst n f).mem = s.mem := by rw [State.modNst_frame, same]
  have ce : (u.modNst n f).ceBad = s.ceBad := by rw [State.modNst_frame, same]
  have ue : (u.modNst n f).ueBad = s.ueBad := by rw [State.modNst_frame, same]
  have banks : (u.modNst n f).banks = s.banks := by rw [State.modNst_frame, same]
  have words (a : Nat) : u.reg a = s.reg a := by rcases opened with rfl | rfl <;> rfl
  exact ⟨mem, clean.of_same ce ue, banks, by rw [State.bar_modNst, page], by rw [State.bar_modNst, fifo],
    fun e apart hr => (u.g_modNst n f apart hr).trans (State.g_of_reg (words e.off)),
    fun a other hr => (u.reg_modNst n f other hr).trans (words a)⟩

section
variable (popped : s.Popped v n rest)
include popped

/-- A counter of the bar, with the cause bit that goes with it, counts from where it stood. -/
theorem State.Popped.counts (k : Nat) {f c : Field} (fits : f.lo + f.w ≤ 32) (low : c.lo + 1 ≤ 32) (one : c.w = 1)
    (apart : f.off ≠ A.NST_CAUSE n) (cause : c.off = A.NST_CAUSE n) (hr : ¬ routerReg f.off) :
    ((v.bumpBy f k).setCause c).g f = min (s.g f + k) (2 ^ f.w - 1) ∧ ((v.bumpBy f k).setCause c).bit c = true := by
  have router : ¬ routerReg c.off := by rw [cause]; exact nst_not_routerReg n (by decide)
  obtain ⟨count, bit⟩ := v.counts_and_reports f k fits low one (by rw [cause]; exact apart) hr router
  rw [popped.fields f (.inl apart) hr] at count
  exact ⟨count, bit⟩

theorem State.Popped.discards (k : Nat) : (v.discardVoid n k).mem = s.mem ∧ ((v.discardVoid n k).bar n).nst.fifo = rest
    ∧ (v.discardVoid n k).g (F.NST_BAD_ADDR_V n) = min (s.g (F.NST_BAD_ADDR_V n) + k) (2 ^ (F.NST_BAD_ADDR_V n).w - 1)
    ∧ (v.discardVoid n k).bit (F.NST_CAUSE_BAD_ADDR n) = true := by
  refine ⟨?_, ?_, popped.counts k (Nat.le_of_ble_eq_true rfl) (Nat.le_of_ble_eq_true rfl) rfl (barOff_ne _ (by decide)) rfl
    (nst_not_routerReg n (by decide))⟩
  · rw [State.discardVoid, State.setCause_mem, State.bumpBy_mem, popped.mem]
  · rw [State.discardVoid, State.bar_setCause, State.bar_bumpBy, popped.fifo]

theorem State.Popped.skips (k : Nat) : (v.countSkip n k).mem = s.mem ∧ ((v.countSkip n k).bar n).nst.fifo = rest
    ∧ (v.countSkip n k).g (F.NST_LOCK_SKIP_V n) = min (s.g (F.NST_LOCK_SKIP_V n) + k) (2 ^ (F.NST_LOCK_SKIP_V n).w - 1)
    ∧ (v.countSkip n k).bit (F.NST_CAUSE_LOCK_SKIP n) = true := by
  refine ⟨?_, ?_, popped.counts k (Nat.le_of_ble_eq_true rfl) (Nat.le_of_ble_eq_true rfl) rfl (barOff_ne _ (by decide)) rfl
    (nst_not_routerReg n (by decide))⟩
  · rw [State.countSkip, State.setCause_mem, State.bumpBy_mem, popped.mem]
  · rw [State.countSkip, State.bar_setCause, State.bar_bumpBy, popped.fifo]

theorem State.Popped.byteAt_wroteEntry (x : Nat) : (v.wroteEntry n w).byteAt x =
    if x = updEntry n w then s.maskedEntry n w else s.byteAt x := by
  rw [State.byteAt_wroteEntry, State.maskedEntry_of_mem popped.mem, State.byteAt_of_mem popped.mem]

theorem State.Popped.fifo_wroteEntry : ((v.wroteEntry n w).bar n).nst.fifo = rest := by
  rw [State.bar_wroteEntry, popped.fifo]

theorem State.Popped.applied : (v.wroteEntry n w).g (F.NST_APPLIED_V n) =
    min (s.g (F.NST_APPLIED_V n) + 1) (2 ^ (F.NST_APPLIED_V n).w - 1) := by
  rw [State.g_wroteEntry, popped.fields _ (.inl (barOff_ne _ (by decide))) (nst_not_routerReg n (by decide))]

/-- The masked bits of the entry are written, and the word is counted. -/
theorem State.Popped.writes : s.stored (v.wroteEntry n w) (updEntry n w) [s.maskedEntry n w]
    ∧ ((v.wroteEntry n w).bar n).nst.fifo = rest ∧ (v.wroteEntry n w).g (F.NST_APPLIED_V n) =
      min (s.g (F.NST_APPLIED_V n) + 1) (2 ^ (F.NST_APPLIED_V n).w - 1) := by
  refine ⟨fun x => ?_, popped.fifo_wroteEntry, popped.applied⟩
  rw [popped.byteAt_wroteEntry]
  by_cases here : x = updEntry n w
  · simp [here]
  · rw [if_neg here, if_neg (by rw [List.length_singleton]; omega)]

/-- A pair whose entries differ is written whole, and counted twice. -/
theorem State.Popped.writesPair (apart : updEntry n w ≠ updEntry n w2) :
    let t := (v.wroteEntry n w).wroteEntry n w2
    (t.bar n).nst.fifo = rest ∧ t.g (F.NST_APPLIED_V n) =
      min (s.g (F.NST_APPLIED_V n) + 2) (2 ^ (F.NST_APPLIED_V n).w - 1)
    ∧ ∀ x, t.byteAt x = if x = updEntry n w then s.maskedEntry n w
        else if x = updEntry n w2 then s.maskedEntry n w2 else s.byteAt x := by
  intro t
  refine ⟨?_, ?_, fun x => ?_⟩
  · rw [State.bar_wroteEntry, popped.fifo_wroteEntry]
  · rw [State.g_wroteEntry, popped.applied]
    omega
  · have entry : (v.wroteEntry n w).maskedEntry n w2 = s.maskedEntry n w2 := by
      unfold State.maskedEntry
      rw [popped.byteAt_wroteEntry, if_neg apart.symm]
    rw [State.byteAt_wroteEntry, entry, popped.byteAt_wroteEntry]
    by_cases here : x = updEntry n w
    · rw [if_neg (by rw [here]; exact apart), if_pos here, if_pos here]
    · rw [if_neg here, if_neg here]

/-- Port B writes in the cycle of a word's entry, and into the same word of the bank: its bytes prevail, and the bank's
collision is counted; inside a page the bar counts and reports it too. -/
theorem State.Popped.collides {pb : List PortBWrite} {k a : Nat} {bs : List Byte}
    (writes : portBAt (tableBank n) pb k = some (a, bs)) :
    let t := (v.wroteEntry n w).tablePortB n pb k (some (a / 8))
    ((t.bar n).nst.fifo = rest
      ∧ (∀ x, t.byteAt x = if a ≤ x ∧ x < a + bs.length then bs.getD (x - a) 0
          else if x = updEntry n w then s.maskedEntry n w else s.byteAt x)
      ∧ (t.bank (tableBank n)).coll = min ((s.bank (tableBank n)).coll + 1) (2 ^ 32 - 1))
    ∧ ((s.bar n).page = none → t.reg (A.NST_COLLISIONS n) = s.reg (A.NST_COLLISIONS n)
        ∧ t.bit (F.NST_CAUSE_COLLISION n) = s.bit (F.NST_CAUSE_COLLISION n))
    ∧ ((s.bar n).inPage = true →
        t.g (F.NST_COLLISIONS_V n) = min (s.g (F.NST_COLLISIONS_V n) + 1) (2 ^ (F.NST_COLLISIONS_V n).w - 1)
        ∧ t.bit (F.NST_CAUSE_COLLISION n) = true) := by
  intro t
  have both := (v.wroteEntry n w).tablePortB_collides n popped.clean.wroteEntry writes
  have page : ((v.wroteEntry n w).bar n).inPage = (s.bar n).inPage := by
    unfold Bar.inPage
    rw [State.bar_wroteEntry, popped.page]
  rw [page, ← State.bothWrote] at both
  have coll : ((v.bothWrote n w a bs).bank (tableBank n)).coll = min ((s.bank (tableBank n)).coll + 1) (2 ^ 32 - 1) := by
    rw [State.coll_bothWrote, State.bank, popped.banks]
    rfl
  have bytes (x : Nat) : (v.bothWrote n w a bs).byteAt x = if a ≤ x ∧ x < a + bs.length then bs.getD (x - a) 0
      else if x = updEntry n w then s.maskedEntry n w else s.byteAt x := by
    rw [State.byteAt_bothWrote, popped.byteAt_wroteEntry]
  have fifo : ((v.bothWrote n w a bs).bar n).nst.fifo = rest := by rw [State.bar_bothWrote, popped.fifo]
  have apart : (F.NST_CAUSE_COLLISION n).Apart (F.NST_CAUSE_LOW_WATER n) := .inr (.inr (Nat.le_of_ble_eq_true rfl))
  have router : ¬ routerReg (A.NST_CAUSE n) := nst_not_routerReg n (by decide)
  have router' : ¬ routerReg (A.NST_COLLISIONS n) := nst_not_routerReg n (by decide)
  have word : (v.bothWrote n w a bs).reg (A.NST_COLLISIONS n) = s.reg (A.NST_COLLISIONS n) := by
    have applied : A.NST_COLLISIONS n ≠ A.NST_APPLIED n := barOff_ne _ (by decide)
    have cause : A.NST_COLLISIONS n ≠ A.NST_CAUSE n := barOff_ne _ (by decide)
    rw [State.reg_bothWrote _ _ _ _ _ applied, popped.words _ cause router']
  by_cases inside : (s.bar n).inPage = true
  case pos =>
    have eq : t = ((v.bothWrote n w a bs).bump (F.NST_COLLISIONS_V n)).setCause (F.NST_CAUSE_COLLISION n) := by
      rw [if_pos inside] at both
      exact both
    obtain ⟨count, bit⟩ := (v.bothWrote n w a bs).counts_and_reports (F.NST_COLLISIONS_V n) 1
      (c := F.NST_CAUSE_COLLISION n) (Nat.le_of_ble_eq_true rfl) (Nat.le_of_ble_eq_true rfl) rfl
      (barOff_ne _ (by decide)) router' router
    rw [State.g_of_reg (f := F.NST_COLLISIONS_V n) word] at count
    rw [eq]
    refine ⟨⟨?_, fun x => ?_, ?_⟩, fun outside => absurd inside (by simp [Bar.inPage, outside]), fun _ => ⟨count, bit⟩⟩
    · rw [State.bar_setCause, State.bump, State.bar_bumpBy, fifo]
    · rw [State.byteAt_of_mem (State.setCause_mem _ _), State.byteAt_of_mem (State.bump_mem _ _), bytes]
    · rw [State.bank, State.setCause_banks, State.bump_banks]
      exact coll
  case neg =>
    have eq : t = v.bothWrote n w a bs := by
      rw [if_neg inside] at both
      exact both
    rw [eq]
    refine ⟨⟨fifo, bytes, coll⟩, fun _ => ⟨word, ?_⟩, fun h => absurd h inside⟩
    unfold State.bit
    have applied : A.NST_CAUSE n ≠ A.NST_APPLIED n := barOff_ne _ (by decide)
    rw [State.g_of_reg (f := F.NST_CAUSE_COLLISION n) (State.reg_bothWrote _ _ _ _ _ applied), popped.fields _ apart router]

end

end

end Sys2Proof.Machine
end

section
/-!
PROOFS. The windows of an update FIFO and the moments outside them: one word, or one pair, taken (03 R95-R100); O29.
-/

namespace Sys2Proof.Machine

/-! ## The head (03 R95, R99, R100) -/

/-- The first `k` words leave the FIFO of a bar. -/
def State.popHead (s : State) (n : Fin 32) (k : Nat) : State := s.modNst n fun f => (f.drop k).track s.now

section
variable {s : State} {n : Fin 32} {pb : List PortBWrite} {w w2 : DWord} {rest : List DWord} {k budget : Nat}

theorem State.takeHead_single (clean : s.NoErrors) (fifo : (s.bar n).nst.fifo = w :: rest) (single : updPair w = false)
    (room : 1 ≤ budget) : s.takeHead n pb k budget = some ((s.popHead n 1).takeOne n pb k w, 1) := by
  have some' : budget ≠ 0 := by omega
  simp [State.takeHead, fifo, single, some', clean.readCells, State.popHead]

theorem State.takeHead_pair (clean : s.NoErrors) (fifo : (s.bar n).nst.fifo = w :: w2 :: rest) (pair : updPair w = true)
    (room : 2 ≤ budget) : s.takeHead n pb k budget = some ((s.popHead n 2).applyPair n pb k w w2, 2) := by
  have some' : budget ≠ 0 := by omega
  simp [State.takeHead, fifo, pair, some', Nat.not_lt.2 room, clean.readCells, State.popHead]

theorem State.takeHead_empty (fifo : (s.bar n).nst.fifo = []) : s.takeHead n pb k budget = none := by
  simp [State.takeHead, fifo]

/-- A pair is not taken with less than two units left. -/
theorem State.takeHead_short (fifo : (s.bar n).nst.fifo = w :: w2 :: rest) (pair : updPair w = true) (short : budget < 2) :
    s.takeHead n pb k budget = none := by
  simp [State.takeHead, fifo, pair, short]

/-- The first word of a pair is not taken before the second is there. -/
theorem State.takeHead_alone (fifo : (s.bar n).nst.fifo = [w]) (pair : updPair w = true) :
    s.takeHead n pb k budget = none := by
  simp [State.takeHead, fifo, pair]

end

/-! ## What a window counts of itself (03 R95) -/

/-- The units a window has used. -/
def State.usedInWindow (s : State) (n : Fin 32) (k : Nat) : State :=
  s.modBar n fun b => { b with nst := { b.nst with windowUsed := k } }

section
variable (s : State) (n : Fin 32) (k : Nat)

@[simp] theorem State.bar_usedInWindow : (s.usedInWindow n k).bar n =
    { s.bar n with nst := { (s.bar n).nst with windowUsed := k } } := State.bar_modBar_same s n _

theorem State.bar_openWindow : ((s.openWindow n).bar n).nst.fifo = (s.bar n).nst.fifo
    ∧ ((s.openWindow n).bar n).nst.windowTick = some s.tick := by
  rw [State.openWindow, State.bar_modBar_same]
  exact ⟨rfl, rfl⟩

/-- The loop of a window ends where nothing may be taken. -/
theorem State.windowLoop_stops {s : State} {n : Fin 32} {limit used : Nat} {pb : List PortBWrite} (fuel : Nat)
    (none' : s.takeHead n pb used (limit - used) = none) : State.windowLoop n limit pb fuel used s = s := by
  cases fuel with
  | zero => rfl
  | succ fuel => simp [State.windowLoop, none']

/-- A window that takes the last word, or pair, of the FIFO. -/
theorem State.windowLoop_takes {s t : State} {n : Fin 32} {limit units : Nat} {pb : List PortBWrite} (pos : 0 < units)
    (within : units ≤ limit) (head : s.takeHead n pb 0 limit = some (t, units)) (last : (t.bar n).nst.fifo = []) :
    State.windowLoop n limit pb limit 0 s = t.usedInWindow n units := by
  obtain ⟨fuel, rfl⟩ : ∃ fuel, limit = fuel + 1 := ⟨limit - 1, by omega⟩
  simp only [State.windowLoop, Nat.sub_zero, head, Nat.zero_add]
  refine State.windowLoop_stops _ (State.takeHead_empty ?_)
  rw [← State.usedInWindow, State.bar_usedInWindow, last]

end

/-! ## A word or a pair outside a page and in a window -/

/-- The time at which the FIFO of a bar may apply words in its window, with the bar inside a page (R95). -/
def State.WindowTime (s : State) (n : Fin 32) : Prop :=
  (s.bar n).inPage = true ∧ s.grid.ticked = true ∧ s.grid.tickT + ns (80 + 16640) ≤ s.now
    ∧ s.now < s.grid.tickT + ns (80 + 17459) + ns 1 / 5

section
variable {s : State} {n : Fin 32} {pb : List PortBWrite} {w : DWord} {rest : List DWord}

/-- Words apply with the sequencer at rest, the domain on and HOLD 0. -/
theorem State.updOpen_iff : s.updOpen n = true ↔
    s.seqRun = false ∧ s.up (barDomain n) = true ∧ s.bit (F.NST_CTL_HOLD n) = false := by
  simp [State.updOpen, and_assoc]

theorem State.inWindowSpan_iff (openNow : s.updOpen n = true) : s.inWindowSpan n = true ↔ s.WindowTime n := by
  obtain ⟨rested, powered, -⟩ := State.updOpen_iff.1 openNow
  simp [State.inWindowSpan, State.WindowTime, rested, powered, and_assoc]

theorem Bar.inPage_of_outside {b : Bar} (outside : b.page = none) : b.inPage = false := by simp [Bar.inPage, outside]

/-- `act` is what the words that leave the head do: it reaches `P` from any state they have left, and leaves the bar; `P`
does not ask what a window has used. -/
structure State.Acts (s : State) (n : Fin 32) (rest : List DWord) (act : State → State) (P : State → Prop) : Prop where
  does : ∀ v, s.Popped v n rest → P (act v)
  bar : ∀ v, s.Popped v n rest → (act v).bar n = v.bar n
  blind : ∀ t k, P t → P (t.usedInWindow n k)

variable {act : State → State} {P : State → Prop} {units : Nat}

/-- Outside a page the head is taken as it comes. -/
theorem State.Acts.outside (acts : s.Acts n (List.drop units (s.bar n).nst.fifo) act P) (openNow : s.updOpen n = true)
    (clean : s.NoErrors) (outside : (s.bar n).page = none)
    (head : s.takeHead n pb 0 2 = some (act (s.popHead n units), units)) :
    Completes (.updateApplyImmediate n pb) s P := by
  refine ⟨act (s.popHead n units), ?_, acts.does _ (.of_modNst clean (.inl rfl) (Nst.track_fifo _ _))⟩
  change execUpdateApplyImmediate n s pb = _
  simp [execUpdateApplyImmediate, openNow, Bar.inPage_of_outside outside, head]

/-- A window that opens runs its loop. -/
theorem exec_updateWindow_open (openNow : s.updOpen n = true) (time : s.WindowTime n)
    (first : (s.bar n).nst.windowTick ≠ some s.tick) : exec (.updateWindow n pb) s =
      .next (State.windowLoop n (s.g (F.NST_CTL_UPD_LIMIT n)) pb (s.g (F.NST_CTL_UPD_LIMIT n)) 0 (s.openWindow n)) := by
  obtain ⟨-, -, free⟩ := State.updOpen_iff.1 openNow
  have shut : ((s.openWindow n).bit (F.NST_CTL_HOLD n)) = false := free
  have limit : (s.openWindow n).g (F.NST_CTL_UPD_LIMIT n) = s.g (F.NST_CTL_UPD_LIMIT n) := rfl
  change execUpdateWindow n pb s = _
  simp [execUpdateWindow, (State.inWindowSpan_iff openNow).2 time, first, shut, limit]

/-- A window that opens takes the last word, or pair, within its limit. -/
theorem State.Acts.window (acts : s.Acts n [] act P) (openNow : s.updOpen n = true) (clean : s.NoErrors)
    (time : s.WindowTime n) (first : (s.bar n).nst.windowTick ≠ some s.tick) (pos : 0 < units)
    (within : units ≤ s.g (F.NST_CTL_UPD_LIMIT n)) (last : List.drop units (s.bar n).nst.fifo = [])
    (head : (s.openWindow n).takeHead n pb 0 (s.g (F.NST_CTL_UPD_LIMIT n)) =
      some (act ((s.openWindow n).popHead n units), units)) :
    Completes (.updateWindow n pb) s fun t => P t ∧ (t.bar n).nst.windowTick = some s.tick := by
  obtain ⟨fifo, tick⟩ := s.bar_openWindow n
  have left : s.Popped ((s.openWindow n).popHead n units) n [] := by
    refine .of_modNst clean (.inr rfl) ?_
    rw [Nst.track_fifo]
    exact (congrArg (List.drop units) fifo).trans last
  have bar := acts.bar _ left
  have none' : ((act ((s.openWindow n).popHead n units)).bar n).nst.fifo = [] := by rw [bar, left.fifo]
  refine ⟨_, exec_updateWindow_open openNow time first, ?_⟩
  rw [State.windowLoop_takes pos within head none']
  refine ⟨acts.blind _ _ (acts.does _ left), ?_⟩
  rw [State.bar_usedInWindow, bar, State.popHead, State.bar_modNst]
  exact (Nst.track_windowTick _ _).trans tick

end

end Sys2Proof.Machine
end

section
/-!
PROOFS. The head of an update FIFO taken, word by word and pair by pair, and a lone first word (03 R95-R100); O29.
-/

namespace Sys2Proof.Machine

/-- The head, of `units` words, is taken outside a page, and in a window of which it is all there is. -/
def State.Takes (s : State) (n : Fin 32) (pb : List PortBWrite) (rest : List DWord) (units : Nat) (P : State → Prop) : Prop :=
  ((s.bar n).page = none → Completes (.updateApplyImmediate n pb) s P)
    ∧ (s.WindowTime n ∧ (s.bar n).nst.windowTick ≠ some s.tick → units ≤ s.g (F.NST_CTL_UPD_LIMIT n) →
        rest.length + 1 = units →
        Completes (.updateWindow n pb) s fun t => P t ∧ (t.bar n).nst.windowTick = some s.tick)

section
variable {s : State} {n : Fin 32} {pb : List PortBWrite} {w w2 : DWord} {rest : List DWord} {P : State → Prop}
variable (openNow : s.updOpen n = true) (clean : s.NoErrors)
include openNow clean

theorem State.takes_single (fifo : (s.bar n).nst.fifo = w :: rest) (single : updPair w = false)
    (acts : s.Acts n rest (fun v => v.takeOne n pb 0 w) P) : s.Takes n pb rest 1 P := by
  have left : List.drop 1 (s.bar n).nst.fifo = rest := by rw [fifo]; rfl
  have opened : ((s.openWindow n).bar n).nst.fifo = w :: rest := (s.bar_openWindow n).1.trans fifo
  constructor
  · intro out
    rw [← left] at acts
    exact acts.outside openNow clean out (State.takeHead_single clean fifo single (by decide))
  · rintro ⟨time, first⟩ within last
    have none' : rest = [] := List.eq_nil_of_length_eq_zero (by omega)
    subst none'
    exact acts.window openNow clean time first Nat.one_pos within left
      (State.takeHead_single (clean.of_same rfl rfl) opened single within)

theorem State.takes_pair (fifo : (s.bar n).nst.fifo = [w, w2]) (pair : updPair w = true)
    (acts : s.Acts n [] (fun v => v.applyPair n pb 0 w w2) P) : s.Takes n pb [w2] 2 P := by
  have left : List.drop 2 (s.bar n).nst.fifo = [] := by rw [fifo]; rfl
  have opened : ((s.openWindow n).bar n).nst.fifo = [w, w2] := (s.bar_openWindow n).1.trans fifo
  constructor
  · intro out
    rw [← left] at acts
    exact acts.outside openNow clean out (State.takeHead_pair clean fifo pair (Nat.le_refl 2))
  · rintro ⟨time, first⟩ within -
    exact acts.window openNow clean time first Nat.two_pos within left
      (State.takeHead_pair (clean.of_same rfl rfl) opened pair within)

end

/-! ## What a word and a pair do (03 R98, R99) -/

section
variable {s : State} {n : Fin 32} {pb : List PortBWrite} {w w2 : DWord} {rest : List DWord}

theorem State.bar_discardVoid (v : State) (k : Nat) : (v.discardVoid n k).bar n = v.bar n := by
  rw [State.discardVoid, State.bar_setCause, State.bar_bumpBy]

theorem State.bar_countSkip (v : State) (k : Nat) : (v.countSkip n k).bar n = v.bar n := by
  rw [State.countSkip, State.bar_setCause, State.bar_bumpBy]

/-- Words are discarded: memory stays, and they are counted as void. -/
def State.Discarded (s t : State) (n : Fin 32) (rest : List DWord) (k : Nat) : Prop :=
  t.mem = s.mem ∧ (t.bar n).nst.fifo = rest
    ∧ t.g (F.NST_BAD_ADDR_V n) = min (s.g (F.NST_BAD_ADDR_V n) + k) (2 ^ (F.NST_BAD_ADDR_V n).w - 1)
    ∧ t.bit (F.NST_CAUSE_BAD_ADDR n) = true

/-- Words are skipped: memory stays, and they are counted as such. -/
def State.Skipped (s t : State) (n : Fin 32) (rest : List DWord) (k : Nat) : Prop :=
  t.mem = s.mem ∧ (t.bar n).nst.fifo = rest
    ∧ t.g (F.NST_LOCK_SKIP_V n) = min (s.g (F.NST_LOCK_SKIP_V n) + k) (2 ^ (F.NST_LOCK_SKIP_V n).w - 1)
    ∧ t.bit (F.NST_CAUSE_LOCK_SKIP n) = true

/-- A FIFO keeps its words when a window counts its units. -/
theorem State.fifo_usedInWindow {t : State} (k : Nat) (fifo : (t.bar n).nst.fifo = rest) :
    ((t.usedInWindow n k).bar n).nst.fifo = rest := by
  rw [State.bar_usedInWindow]
  exact fifo

theorem State.Discarded.blind {t : State} {k : Nat} (done : s.Discarded t n rest k) (u : Nat) :
    s.Discarded (t.usedInWindow n u) n rest k := by
  obtain ⟨mem, fifo, count, bit⟩ := done
  exact ⟨mem, State.fifo_usedInWindow u fifo, count, bit⟩

theorem State.Skipped.blind {t : State} {k : Nat} (done : s.Skipped t n rest k) (u : Nat) :
    s.Skipped (t.usedInWindow n u) n rest k := by
  obtain ⟨mem, fifo, count, bit⟩ := done
  exact ⟨mem, State.fifo_usedInWindow u fifo, count, bit⟩

section
variable (idle : ∀ x ∈ pb, x.word ≠ 0)
include idle

theorem State.acts_void (void : updVoid w = true) :
    s.Acts n rest (fun v => v.takeOne n pb 0 w) fun t => s.Discarded t n rest 1 where
  does v popped := by
    rw [State.takeOne_void pb void idle]
    exact popped.discards 1
  bar v _ := by rw [State.takeOne_void pb void idle, State.bar_discardVoid]
  blind t k done := done.blind k

theorem State.acts_locked (void : updVoid w = false) (locked : s.UpdLocked n w) :
    s.Acts n rest (fun v => v.takeOne n pb 0 w) fun t => s.Skipped t n rest 1 where
  does v popped := by
    rw [State.takeOne_locked pb popped.clean void ((State.updLocked_of_mem popped.mem).2 locked) idle]
    exact popped.skips 1
  bar v popped := by
    rw [State.takeOne_locked pb popped.clean void ((State.updLocked_of_mem popped.mem).2 locked) idle, State.bar_countSkip]
  blind t k done := done.blind k

theorem State.acts_free (void : updVoid w = false) (free : ¬ s.UpdLocked n w) :
    s.Acts n rest (fun v => v.takeOne n pb 0 w) fun t => s.stored t (updEntry n w) [s.maskedEntry n w]
      ∧ (t.bar n).nst.fifo = rest ∧ t.g (F.NST_APPLIED_V n) =
        min (s.g (F.NST_APPLIED_V n) + 1) (2 ^ (F.NST_APPLIED_V n).w - 1) where
  does v popped := by
    rw [State.takeOne_free pb popped.clean void (mt (State.updLocked_of_mem popped.mem).1 free),
      State.tablePortB_idle _ _ _ _ _ idle]
    exact popped.writes
  bar v popped := by
    rw [State.takeOne_free pb popped.clean void (mt (State.updLocked_of_mem popped.mem).1 free),
      State.tablePortB_idle _ _ _ _ _ idle, State.bar_wroteEntry]
  blind t k done := by
    obtain ⟨bytes, fifo, count⟩ := done
    exact ⟨bytes, State.fifo_usedInWindow k fifo, count⟩

end

section
variable (quiet : ∀ x ∈ pb, x.word ≠ 0 ∧ x.word ≠ 1)
include quiet

theorem State.acts_pairVoid (void : updVoid w = true ∨ updVoid w2 = true) :
    s.Acts n rest (fun v => v.applyPair n pb 0 w w2) fun t => s.Discarded t n rest 2 where
  does v popped := by
    rw [State.applyPair_void quiet void]
    exact popped.discards 2
  bar v _ := by rw [State.applyPair_void quiet void, State.bar_discardVoid]
  blind t k done := done.blind k

variable (void : updVoid w = false) (void2 : updVoid w2 = false) (apart : updEntry n w ≠ updEntry n w2)
include void void2 apart

theorem State.acts_pairLocked (locked : s.UpdLocked n w ∨ s.UpdLocked n w2) :
    s.Acts n rest (fun v => v.applyPair n pb 0 w w2) fun t => s.Skipped t n rest 2 := by
  have skips (v : State) (popped : s.Popped v n rest) : v.applyPair n pb 0 w w2 = v.countSkip n 2 :=
    State.applyPair_locked quiet popped.clean void void2 apart
      (locked.imp (State.updLocked_of_mem popped.mem).2 (State.updLocked_of_mem popped.mem).2)
  exact ⟨fun v popped => skips v popped ▸ popped.skips 2, fun v popped => skips v popped ▸ v.bar_countSkip 2,
    fun t k done => done.blind k⟩

theorem State.acts_pairFree (free : ¬ s.UpdLocked n w) (free2 : ¬ s.UpdLocked n w2) :
    s.Acts n rest (fun v => v.applyPair n pb 0 w w2) fun t => (t.bar n).nst.fifo = rest ∧ t.g (F.NST_APPLIED_V n) =
        min (s.g (F.NST_APPLIED_V n) + 2) (2 ^ (F.NST_APPLIED_V n).w - 1)
      ∧ ∀ x, t.byteAt x = if x = updEntry n w then s.maskedEntry n w
          else if x = updEntry n w2 then s.maskedEntry n w2 else s.byteAt x := by
  have writes (v : State) (popped : s.Popped v n rest) :
      v.applyPair n pb 0 w w2 = (v.wroteEntry n w).wroteEntry n w2 :=
    State.applyPair_free quiet popped.clean void void2 apart (mt (State.updLocked_of_mem popped.mem).1 free)
      (mt (State.updLocked_of_mem popped.mem).1 free2)
  refine ⟨fun v popped => ?_, fun v popped => ?_, fun t k done => ?_⟩
  · rw [writes v popped]
    exact popped.writesPair apart
  · rw [writes v popped, State.bar_wroteEntry, State.bar_wroteEntry]
  · obtain ⟨fifo, count, bytes⟩ := done
    exact ⟨State.fifo_usedInWindow k fifo, count, bytes⟩

end

end

/-! ## The word of another port in the same cycle (03 R91; 11 R345) -/

section
variable {s : State} {n : Fin 32} {pb : List PortBWrite} {w : DWord} {rest : List DWord} {a : Nat} {bs : List Byte}

/-- Both ports wrote: port B's bytes prevail, and the bank counts the collision. -/
def State.BothApplied (s t : State) (n : Fin 32) (w : DWord) (rest : List DWord) (a : Nat) (bs : List Byte) : Prop :=
  (t.bar n).nst.fifo = rest
    ∧ (∀ x, t.byteAt x = if a ≤ x ∧ x < a + bs.length then bs.getD (x - a) 0
        else if x = updEntry n w then s.maskedEntry n w else s.byteAt x)
    ∧ (t.bank (tableBank n)).coll = min ((s.bank (tableBank n)).coll + 1) (2 ^ 32 - 1)

theorem State.BothApplied.blind {t : State} (done : s.BothApplied t n w rest a bs) (k : Nat) :
    s.BothApplied (t.usedInWindow n k) n w rest a bs := by
  obtain ⟨fifo, bytes, coll⟩ := done
  exact ⟨State.fifo_usedInWindow k fifo, bytes, coll⟩

/-- A bar is as it was when its word and port B's have been written. -/
theorem State.bar_tablePortB {v : State} {k : Nat} (clean : v.NoErrors)
    (writes : portBAt (tableBank n) pb k = some (a, bs)) :
    ((v.wroteEntry n w).tablePortB n pb k (some (a / 8))).bar n = v.bar n := by
  rw [State.tablePortB_collides _ n clean.wroteEntry writes, ← State.bothWrote]
  split
  · rw [State.bar_setCause, State.bump, State.bar_bumpBy, State.bar_bothWrote]
  · exact State.bar_bothWrote _ _ _ _ _

section
variable (void : updVoid w = false) (free : ¬ s.UpdLocked n w) (writes : portBAt (tableBank n) pb 0 = some (a, bs))
variable (same : a / 8 = updEntry n w / 8)
include void free same

/-- What a word does with port B writing the same word of the bank. -/
theorem State.takeOne_collides {v : State} (popped : s.Popped v n rest) :
    v.takeOne n pb 0 w = (v.wroteEntry n w).tablePortB n pb 0 (some (a / 8)) := by
  rw [State.takeOne_free pb popped.clean void (mt (State.updLocked_of_mem popped.mem).1 free), same]

include writes

theorem State.acts_collides_outside (outside : (s.bar n).page = none) :
    s.Acts n rest (fun v => v.takeOne n pb 0 w) fun t => s.BothApplied t n w rest a bs
      ∧ t.reg (A.NST_COLLISIONS n) = s.reg (A.NST_COLLISIONS n)
      ∧ t.bit (F.NST_CAUSE_COLLISION n) = s.bit (F.NST_CAUSE_COLLISION n) where
  does v popped := by
    rw [State.takeOne_collides void free same popped]
    obtain ⟨both, kept, -⟩ := popped.collides (w := w) writes
    exact ⟨both, kept outside⟩
  bar v popped := by rw [State.takeOne_collides void free same popped, State.bar_tablePortB popped.clean writes]
  blind t k done := by
    obtain ⟨both, kept⟩ := done
    exact ⟨both.blind k, kept⟩

theorem State.acts_collides_window (inside : (s.bar n).inPage = true) :
    s.Acts n rest (fun v => v.takeOne n pb 0 w) fun t => s.BothApplied t n w rest a bs
      ∧ t.g (F.NST_COLLISIONS_V n) = min (s.g (F.NST_COLLISIONS_V n) + 1) (2 ^ (F.NST_COLLISIONS_V n).w - 1)
      ∧ t.bit (F.NST_CAUSE_COLLISION n) = true where
  does v popped := by
    rw [State.takeOne_collides void free same popped]
    obtain ⟨both, -, counts⟩ := popped.collides (w := w) writes
    exact ⟨both, counts inside⟩
  bar v popped := by rw [State.takeOne_collides void free same popped, State.bar_tablePortB popped.clean writes]
  blind t k done := by
    obtain ⟨both, counts⟩ := done
    exact ⟨both.blind k, counts⟩

end

end

/-! ## Where nothing is taken (03 R95, R99, R100) -/

section
variable {s : State} {n : Fin 32} {pb : List PortBWrite} {w w2 : DWord}

/-- Outside its span of the line a window does not open. -/
theorem State.updateWindow_outside (openNow : s.updOpen n = true) (early : ¬ s.WindowTime n) :
    Completes (.updateWindow n pb) s fun t => t = s := by
  have shut : s.inWindowSpan n = false := Bool.eq_false_iff.2 (mt (State.inWindowSpan_iff openNow).1 early)
  refine ⟨s, ?_, rfl⟩
  change execUpdateWindow n pb s = _
  simp [execUpdateWindow, shut]

/-- A pair waits for the next window when one unit is left. -/
theorem State.updateWindow_short (openNow : s.updOpen n = true) (fifo : (s.bar n).nst.fifo = [w, w2])
    (pair : updPair w = true) (time : s.WindowTime n) (first : (s.bar n).nst.windowTick ≠ some s.tick)
    (short : s.g (F.NST_CTL_UPD_LIMIT n) = 1) :
    Completes (.updateWindow n pb) s fun t => t.mem = s.mem ∧ (t.bar n).nst.fifo = [w, w2] := by
  have opened : ((s.openWindow n).bar n).nst.fifo = [w, w2] := (s.bar_openWindow n).1.trans fifo
  refine ⟨_, exec_updateWindow_open openNow time first, ?_⟩
  rw [short, State.windowLoop_stops _ (State.takeHead_short opened pair (by decide))]
  exact ⟨rfl, opened⟩

/-- The first word of a pair that stands alone waits outside a page too. -/
theorem State.updateApplyImmediate_alone (openNow : s.updOpen n = true) (fifo : (s.bar n).nst.fifo = [w])
    (pair : updPair w = true) (outside : (s.bar n).page = none) :
    Completes (.updateApplyImmediate n pb) s fun t => t = s := by
  refine ⟨s, ?_, rfl⟩
  change execUpdateApplyImmediate n s pb = _
  simp [execUpdateApplyImmediate, openNow, Bar.inPage_of_outside outside, State.takeHead_alone fifo pair]

/-- With HOLD no word is taken. -/
theorem State.updOpen_of_hold (hold : s.bit (F.NST_CTL_HOLD n) = true) : s.updOpen n = false := by
  simp [State.updOpen, hold]

theorem State.updateApplyImmediate_hold (hold : s.bit (F.NST_CTL_HOLD n) = true) :
    Completes (.updateApplyImmediate n pb) s fun t => t = s := by
  refine ⟨s, ?_, rfl⟩
  change execUpdateApplyImmediate n s pb = _
  simp [execUpdateApplyImmediate, State.updOpen_of_hold hold]

theorem State.pairAlone_hold (hold : s.bit (F.NST_CTL_HOLD n) = true) :
    Completes (.pairAlone n pb) s fun t => t = s := by
  refine ⟨s, ?_, rfl⟩
  change execPairAlone n s pb = _
  unfold execPairAlone
  split
  · simp [State.updOpen_of_hold hold]
  · rfl

theorem State.updateWindow_hold (hold : s.bit (F.NST_CTL_HOLD n) = true) :
    Completes (.updateWindow n pb) s fun t => t.mem = s.mem ∧ (t.bar n).nst.fifo = (s.bar n).nst.fifo := by
  have held : (s.openWindow n).bit (F.NST_CTL_HOLD n) = true := hold
  by_cases shut : (!s.inWindowSpan n || (s.bar n).nst.windowTick == some s.tick) = true
  · refine ⟨s, ?_, rfl, rfl⟩
    change execUpdateWindow n pb s = _
    rw [execUpdateWindow, if_pos shut]
  · refine ⟨s.openWindow n, ?_, rfl, (s.bar_openWindow n).1⟩
    change execUpdateWindow n pb s = _
    rw [execUpdateWindow, if_neg shut]
    simp only [held, if_true]

end

/-! ## A lone first word (03 R100) -/

section
variable {s : State} {n : Fin 32} {pb : List PortBWrite} {w : DWord}

/-- When a lone first word is due: in the window behind the sixteen it waited through, or outside a page after 10 us. -/
theorem State.pairAloneDue_of (openNow : s.updOpen n = true)
    (inside : (s.bar n).page.isSome = true → s.WindowTime n ∧ (s.bar n).nst.windowTick = some s.tick
      ∧ 16 < (s.bar n).nst.pairWindows ∧ (s.bar n).nst.windowUsed < s.g (F.NST_CTL_UPD_LIMIT n))
    (outside : (s.bar n).page = none → max ((s.bar n).nst.pairSince.getD s.now) (s.bar n).outT + us 10 ≤ s.now) :
    s.pairAloneDue n = true := by
  unfold State.pairAloneDue
  dsimp only
  split
  case isTrue page =>
    obtain ⟨time, tick, waited, room⟩ := inside page
    simp [(State.inWindowSpan_iff openNow).2 time, tick, waited, room]
  case isFalse page =>
    have none' : (s.bar n).page = none := Option.not_isSome_iff_eq_none.1 page
    exact decide_eq_true (outside none')

/-- The unit of its window that a lone first word takes; outside a page there is none before it. -/
def Bar.aloneUnit (b : Bar) : Nat := if b.inPage then b.nst.windowUsed else 0

/-- A lone first word leaves its FIFO as unit `k` of its window. -/
def Nst.leaveAlone (f : Nst) (k now : Nat) : Nst := { f.drop 1 with windowUsed := k + 1 }.track now

/-- A lone first word that is due leaves the FIFO and is taken, in the next unit of the window it stands in. -/
theorem exec_pairAlone (clean : s.NoErrors) (openNow : s.updOpen n = true) (fifo : (s.bar n).nst.fifo = [w])
    (pair : updPair w = true) (due : s.pairAloneDue n = true) : ∃ v, s.Popped v n []
      ∧ exec (.pairAlone n pb) s = .next (((v.takeOne n pb (s.bar n).aloneUnit w).bump
        (F.NST_PAIR_ALONE_V n)).setCause (F.NST_CAUSE_PAIR_ALONE n)) := by
  have left : ((s.bar n).nst.leaveAlone (s.bar n).aloneUnit s.now).fifo = [] := by
    rw [Nst.leaveAlone, Nst.track_fifo]
    change List.drop 1 (s.bar n).nst.fifo = []
    rw [fifo]
    rfl
  refine ⟨s.modNst n fun f => f.leaveAlone (s.bar n).aloneUnit s.now, .of_modNst clean (.inl rfl) left, ?_⟩
  change execPairAlone n s pb = _
  simp [execPairAlone, fifo, openNow, pair, due, clean.readCells, Nst.leaveAlone, Bar.aloneUnit]

/-- A lone first word that is due is written to its entry, counted and reported. -/
theorem State.pairAlone_applies (clean : s.NoErrors) (openNow : s.updOpen n = true) (fifo : (s.bar n).nst.fifo = [w])
    (pair : updPair w = true) (due : s.pairAloneDue n = true) (void : updVoid w = false) (free : ¬ s.UpdLocked n w)
    (quiet : ∀ x ∈ pb, x.word ≠ 0 ∧ x.word ≠ (s.bar n).nst.windowUsed) :
    Completes (.pairAlone n pb) s fun t => s.stored t (updEntry n w) [s.maskedEntry n w] ∧ (t.bar n).nst.fifo = []
      ∧ t.g (F.NST_PAIR_ALONE_V n) = min (s.g (F.NST_PAIR_ALONE_V n) + 1) (2 ^ (F.NST_PAIR_ALONE_V n).w - 1)
      ∧ t.bit (F.NST_CAUSE_PAIR_ALONE n) = true := by
  obtain ⟨v, popped, eq⟩ := exec_pairAlone (pb := pb) clean openNow fifo pair due
  have idle : ∀ x ∈ pb, x.word ≠ (s.bar n).aloneUnit := fun x hx => by
    obtain ⟨first, next⟩ := quiet x hx
    unfold Bar.aloneUnit
    split
    · exact next
    · exact first
  have took : v.takeOne n pb (s.bar n).aloneUnit w = v.wroteEntry n w := by
    rw [State.takeOne_free pb popped.clean void (mt (State.updLocked_of_mem popped.mem).1 free),
      State.tablePortB_idle _ _ _ _ _ idle]
  have router : ¬ routerReg (A.NST_CAUSE n) := nst_not_routerReg n (by decide)
  have router' : ¬ routerReg (A.NST_PAIR_ALONE n) := nst_not_routerReg n (by decide)
  have count : (v.wroteEntry n w).g (F.NST_PAIR_ALONE_V n) = s.g (F.NST_PAIR_ALONE_V n) := by
    have cause : A.NST_PAIR_ALONE n ≠ A.NST_CAUSE n := barOff_ne _ (by decide)
    have applied : A.NST_PAIR_ALONE n ≠ A.NST_APPLIED n := barOff_ne _ (by decide)
    rw [State.g_of_reg (f := F.NST_PAIR_ALONE_V n) (State.reg_wroteEntry applied), popped.fields _ (.inl cause) router']
  obtain ⟨counted, bit⟩ := (v.wroteEntry n w).counts_and_reports (F.NST_PAIR_ALONE_V n) 1
    (c := F.NST_CAUSE_PAIR_ALONE n) (Nat.le_of_ble_eq_true rfl) (Nat.le_of_ble_eq_true rfl) rfl
    (barOff_ne _ (by decide)) router' router
  obtain ⟨bytes, left, -⟩ := popped.writes (w := w)
  refine ⟨_, eq, ?_, ?_, ?_, ?_⟩
  · intro x
    rw [took, State.byteAt_of_mem (State.setCause_mem _ _), State.byteAt_of_mem (State.bump_mem _ _)]
    exact bytes x
  · rw [took, State.bar_setCause, State.bump, State.bar_bumpBy, left]
  · rw [took, ← count]
    exact counted
  · rw [took]
    exact bit

end

end Sys2Proof.Machine
end

section
/-!
PROOFS. Pushes and flushes of an update FIFO, and the waits of a push (03 R92-R94, R101, R102); O29.
-/

namespace Sys2Proof.Machine

section
variable {s : State} {n : Fin 32} {m : Master} {w : Word}

/-! ## A push at once (03 R92-R94) -/

/-- A write of NST_UPD_LO holds the lower half for its master. -/
theorem nstUpdLoWrite_holds (reached : s.takes (A.NST_CTL n)) :
    Completes (.nstUpdLoWrite m n w) s fun t => s.onlyBar t n
      ∧ Cells.find? (t.bar n).nst.held m.key = some (w &&& 0xFFFFF#32) ∧ (t.bar n).nst.fifo = (s.bar n).nst.fifo := by
  refine ⟨s.updLo m n w, ?_, ⟨rfl, fun k other => State.bar_modBar_other _ _ other⟩, ?_, ?_⟩
  · change execNstUpdLoWrite m n w s = _
    rw [execNstUpdLoWrite, State.atBlock_takes s reached]
  · rw [State.updLo, State.bar_modBar_same]
    exact Cells.find?_insert _ _ _
  · rw [State.updLo, State.bar_modBar_same]

/-- A write of NST_UPD_HI pushes both halves. -/
theorem exec_nstUpdHiPush (reached : s.takes (A.NST_CTL n)) :
    exec (.nstUpdHiPush m n w) s = .next (s.pushUpd m n (s.halves n m w)) := by
  change execNstUpdHiPush m n w s = _
  rw [execNstUpdHiPush, State.atBlock_takes s reached]
  rfl

theorem nstUpdHiPush_enters (reached : s.takes (A.NST_CTL n)) (unreserved : (s.bar n).nst.reservedOf m = 0)
    (room : (s.bar n).nst.level < 1024) (first : (s.bar n).nst.stalled = []) :
    Completes (.nstUpdHiPush m n w) s fun t =>
      (t.bar n).nst.fifo = (s.bar n).nst.fifo ++ [updStored m (s.halves n m w)] := by
  refine ⟨_, exec_nstUpdHiPush reached, ?_⟩
  rw [State.pushUpd_enters _ _ _ _ unreserved room first]
  beta_reduce
  rw [State.bar_enterUpd]
  exact Nst.append_fifo _ _ _

theorem nstUpdHiPush_takesReserved (reached : s.takes (A.NST_CTL n)) (slot : 0 < (s.bar n).nst.reservedOf m) :
    Completes (.nstUpdHiPush m n w) s fun t =>
      (t.bar n).nst.fifo = (s.bar n).nst.fifo ++ [updStored m (s.halves n m w)]
        ∧ (t.bar n).nst.reservedOf m = (s.bar n).nst.reservedOf m - 1 := by
  refine ⟨_, exec_nstUpdHiPush reached, ?_⟩
  rw [State.pushUpd_reserved _ _ _ _ slot]
  beta_reduce
  rw [State.bar_enterUpd]
  refine ⟨Nst.append_fifo _ _ _, ?_⟩
  rw [Nst.reservedOf, Nst.append, Nst.track_reserved]
  exact Nst.reservedOf_withReserved _ _ _

theorem nstUpdHiPush_waits (reached : s.takes (A.NST_CTL n)) (unreserved : (s.bar n).nst.reservedOf m = 0)
    (full : 1024 ≤ (s.bar n).nst.level ∨ (s.bar n).nst.stalled ≠ []) :
    Completes (.nstUpdHiPush m n w) s fun t => (t.bar n).nst.fifo = (s.bar n).nst.fifo
      ∧ (t.bar n).nst.stalled = (s.bar n).nst.stalled ++ [⟨m, updStored m (s.halves n m w), s.now⟩] := by
  refine ⟨_, exec_nstUpdHiPush reached, ?_⟩
  rw [State.pushUpd_waits _ _ _ _ unreserved full]
  beta_reduce
  rw [State.bar_modNst]
  exact ⟨rfl, rfl⟩

/-! ## A flush (03 R101) -/

/-- FLUSH empties the FIFO, keeps the slots reserved, and counts the words. -/
theorem flush_counts (reached : s.takes (A.NST_CTL n)) :
    Completes (.flush n) s fun t => (t.bar n).nst.fifo = [] ∧ (t.bar n).nst.reserved = (s.bar n).nst.reserved
      ∧ (∀ k, k ≠ n → t.bar k = s.bar k)
      ∧ t.g (F.NST_FLUSHED_V n) =
        min (s.g (F.NST_FLUSHED_V n) + (s.bar n).nst.fifo.length) (2 ^ (F.NST_FLUSHED_V n).w - 1) := by
  have cause : A.NST_FLUSHED n ≠ A.NST_CAUSE n := barOff_ne _ (by decide)
  have router : ¬ routerReg (A.NST_FLUSHED n) := nst_not_routerReg n (by decide)
  refine ⟨s.flushNst n, ?_, ?_, ?_, fun k other => ?_, ?_⟩
  · change execFlush n s = _
    rw [execFlush, State.atBlock_takes s reached]
  · rw [State.flushNst, State.bar_modNst, State.bar_setCauseIf, State.bar_bumpBy]
    exact (Nst.track_fifo _ _).trans List.drop_length
  · rw [State.flushNst, State.bar_modNst, State.bar_setCauseIf, State.bar_bumpBy]
    exact Nst.track_reserved _ _
  · rw [State.flushNst, State.bar_modNst_other _ _ _ other, State.bar_setCauseIf, State.bar_bumpBy]
  · rw [State.flushNst, State.g_modNst _ _ _ (.inl cause) router,
      State.g_setCauseIf_of_apart _ _ _ (Nat.le_of_ble_eq_true rfl) (.inl cause) router,
      State.g_bumpBy _ _ _ (Nat.le_of_ble_eq_true rfl)]

/-! ## A push that waits (03 R93) -/

/-- The oldest waiting push takes a free slot. -/
theorem State.stalledPush_enters {p : StalledPush} {r : List StalledPush} (waiting : (s.bar n).nst.stalled = p :: r)
    (room : (s.bar n).nst.level < 1024) : s.stalledPush n = s.enterUpd n (fun f => { f with stalled := r }) p.word := by
  simp [State.stalledPush, waiting, room]

/-- A word that enters a FIFO leaves alone what a change of the FIFO does, and the error words. -/
theorem State.enterUpd_frame (f : Nst → Nst) (w : DWord) : (s.enterUpd n f w).mgt = s.mgt
    ∧ (s.enterUpd n f w).power = s.power ∧ (s.Steady → (s.enterUpd n f w).Steady) := by
  refine ⟨?_, ?_, fun steady => State.Steady.modNst _ _ (steady.cleanCells _)⟩
  · rw [State.enterUpd, State.modNst_frame, State.cleanCells_frame]
  · rw [State.enterUpd, State.modNst_frame, State.cleanCells_frame]

/-- `t` is `s` but for its register words. -/
def State.SameButRegs (s t : State) : Prop := t = { s with regs := t.regs }

section
variable {t : State} (same : s.SameButRegs t)
include same

theorem State.SameButRegs.put (f : Field) (v : Nat) : s.SameButRegs (t.put f v) := by
  rw [State.SameButRegs, show t.put f v = { t with regs := (t.put f v).regs } from rfl, same]

theorem State.SameButRegs.bump (f : Field) : s.SameButRegs (t.bump f) := by
  rw [State.bump, State.bumpBy]
  exact same.put _ _

end

/-- The result of a data-port access changes registers alone. -/
theorem State.dptDone_frame (s : State) (st : Status) : s.SameButRegs (s.dptDone st) := by
  unfold State.dptDone
  split
  · exact rfl
  · have done : s.SameButRegs ((s.put F.DPT_STATUS_LAST st.code).bump F.DPT_ACCESSES_V) :=
      State.SameButRegs.bump (State.SameButRegs.put (Eq.refl s) _ _) _
    dsimp only
    split
    · exact done
    · exact done.bump _

/-- A settled push of the data port changes registers alone besides. -/
theorem State.dptSettle_frame (f : State → State) (s : State) :
    State.dptSettle f s = { f s with regs := (State.dptSettle f s).regs } := by
  unfold State.dptSettle
  dsimp only
  split
  · exact State.dptDone_frame _ _
  · rfl

/-- No access of the management port goes on where none waits. -/
theorem State.mgtContinue_of_none (none' : s.mgt = none) : s.mgtContinue = s := by
  unfold State.mgtContinue State.mgtEnded
  simp [none']

/-- No request is served where none is held. -/
theorem State.serveAllHeld_of_nil (none' : s.power.held = []) : s.serveAllHeld = s := by
  simp [State.serveAllHeld, none', State.serveHeld]

/-- The oldest waiting push of a bar takes the next free slot. -/
theorem stalledPush_completes {p : StalledPush} {r : List StalledPush} (waiting : (s.bar n).nst.stalled = p :: r)
    (room : (s.bar n).nst.level < 1024) (noMgt : s.mgt = none) (noHeld : s.power.held = []) (steady : s.Steady) :
    Completes (.stalledPush n) s fun t =>
      (t.bar n).nst.fifo = (s.bar n).nst.fifo ++ [p.word] ∧ (t.bar n).nst.stalled = r := by
  let t := State.dptSettle (fun s => s.stalledPush n) s
  obtain ⟨mgt, power, keeps⟩ := s.enterUpd_frame (n := n) (fun f => { f with stalled := r }) p.word
  have frame : t = { s.enterUpd n (fun f => { f with stalled := r }) p.word with regs := t.regs } := by
    rw [← State.stalledPush_enters waiting room]
    exact State.dptSettle_frame _ _
  have tMgt : t.mgt = none := by rw [frame]; exact mgt.trans noMgt
  have tHeld : t.power.held = [] := by rw [frame]; exact power ▸ noHeld
  have tSteady : t.Steady := (keeps steady).of_pairs (by rw [frame])
  have tBar : t.bar n = (s.enterUpd n (fun f => { f with stalled := r }) p.word).bar n := by rw [frame]; rfl
  refine ⟨t, ?_, ?_⟩
  · change execStalledPush n s = _
    unfold execStalledPush
    dsimp only
    rw [State.mgtContinue_of_none tMgt, State.serveAllHeld_of_nil tHeld, ite_self, tSteady.runSteps]
  · beta_reduce
    rw [tBar, State.bar_enterUpd]
    exact ⟨Nst.append_fifo _ _ _, Nst.append_stalled _ _ _⟩

/-! ## A push given up (03 R93) -/

/-- The response of the management port changes registers and the answer alone. -/
theorem State.mgtRespond_frame (s : State) (lost : Bool) (body : List Byte) (st : Nat) (tail : List Byte) :
    s.mgtRespond lost body st tail = { s with
      regs := (s.mgtRespond lost body st tail).regs, resp := (s.mgtRespond lost body st tail).resp } := by
  unfold State.mgtRespond
  dsimp only
  split <;> rfl

/-- A management WRITE that ends with nothing behind it. -/
theorem State.mgtEnded_frame (s : State) (code : Nat) (idle : ∀ m, s.mgt = some m → m.waiting = []) :
    let t := s.mgtEnded fun m s => s.mgtAnswer m.lost code m.done
    t.mgt = none ∧ t.mem = s.mem ∧ t.bars = s.bars ∧ t.pairs = s.pairs := by
  cases running : s.mgt with
  | none => simp [State.mgtEnded, running]
  | some m =>
    have ended : (s.mgtEnded fun m s => s.mgtAnswer m.lost code m.done) =
        ({ s with mgt := none }.put F.MGT_STATUS_BUSY 0).mgtRespond m.lost [] code (beBytes 2 m.done) := by
      simp [State.mgtEnded, running, idle m running, State.mgtServeAll, State.mgtAnswer]
    rw [ended, State.mgtRespond_frame]
    exact ⟨rfl, rfl, rfl, rfl⟩

/-- Whether a waiting push of the management port has waited 1 ms. -/
def State.overdue (s : State) (p : StalledPush) : Bool := p.master == .mgt && decide (p.since + ms 1 ≤ s.now)

/-- The overdue pushes of a bar wait no more. -/
def State.dropOverdue (s : State) (n : Fin 32) : State :=
  s.modNst n fun f => { f with stalled := f.stalled.filter fun p => !s.overdue p }

/-- A management-port push that has waited 1 ms is given up. -/
theorem mgtPushTimeout_completes {p : StalledPush} (waiting : (s.bar n).nst.stalled = [p]) (mgt : p.master = .mgt)
    (late : p.since + ms 1 ≤ s.now) (idle : ∀ m, s.mgt = some m → m.waiting = []) (steady : s.Steady) :
    Completes (.mgtPushTimeout n) s fun t => (t.bar n).nst.stalled = [] ∧ (t.bar n).nst.fifo = (s.bar n).nst.fifo
      ∧ t.mgt = none ∧ t.mem = s.mem := by
  have due : s.overdue p = true := by simp [State.overdue, mgt, late]
  have sameMgt : (s.dropOverdue n).mgt = s.mgt := by rw [State.dropOverdue, State.modNst_frame]
  have sameMem : (s.dropOverdue n).mem = s.mem := by rw [State.dropOverdue, State.modNst_frame]
  have still : (s.dropOverdue n).Steady := steady.modNst _ _
  obtain ⟨ended, mem, bars, pairs⟩ := (s.dropOverdue n).mgtEnded_frame Status.timeout.code (by rw [sameMgt]; exact idle)
  have bar : ((s.dropOverdue n).mgtEnded fun m s => s.mgtAnswer m.lost Status.timeout.code m.done).bar n =
      (s.dropOverdue n).bar n := by
    rw [State.bar, bars, ← State.bar]
  refine ⟨(s.dropOverdue n).mgtEnded fun m s => s.mgtAnswer m.lost Status.timeout.code m.done, ?_, ?_, ?_, ended,
    mem.trans sameMem⟩
  · change execMgtPushTimeout n s = _
    rw [execMgtPushTimeout]
    dsimp only
    rw [if_neg (by simp [waiting, mgt, late])]
    exact congrArg Host.Outcome.next (still.of_pairs pairs).runSteps
  · rw [bar, State.dropOverdue, State.bar_modNst]
    simp [waiting, due]
  · rw [bar, State.dropOverdue, State.bar_modNst]

end

end Sys2Proof.Machine

open Sys2Proof.Machine in
/-- Settles O29: a push enters, takes a slot reserved, or waits; the words that leave the head are discarded, skipped or
written alone or in pairs, the same way outside a page and in a window (`State.Takes`), where log entries 20, 74 and 78
leave the choice. -/
theorem updateWordsQueueAndApply : Obligations.UpdateWordsQueueAndApply := by
  unfold Obligations.UpdateWordsQueueAndApply
  refine ⟨fun s n m w => ⟨fun reached => ⟨nstUpdLoWrite_holds reached, ⟨nstUpdHiPush_enters reached,
    nstUpdHiPush_takesReserved reached, nstUpdHiPush_waits reached⟩, flush_counts reached⟩,
    fun p r waiting room noMgt noHeld steady => stalledPush_completes waiting room noMgt noHeld steady,
    fun p waiting mgt late idle steady => mgtPushTimeout_completes waiting mgt late idle steady⟩,
    fun s n w rest pb openNow ce ue fifo => ?_, fun s n pb hold =>
      ⟨State.updateApplyImmediate_hold hold, State.pairAlone_hold hold, State.updateWindow_hold hold⟩⟩
  have clean : s.NoErrors := ⟨ce, ue⟩
  refine ⟨fun single idle => ⟨fun void => ?_, fun void locked => ?_, fun void free => ?_⟩,
    fun single void free a bs writes _ same => ?_, fun w2 pair two quiet => ?_, State.updateWindow_outside openNow,
    fun pair alone => ?_, fun pair alone void free inside outside quiet => ?_⟩
  · exact State.takes_single openNow clean fifo single (State.acts_void idle void)
  · exact State.takes_single openNow clean fifo single (State.acts_locked idle void locked)
  · exact State.takes_single openNow clean fifo single (State.acts_free idle void free)
  · refine ⟨fun outside => (State.takes_single openNow clean fifo single
      (State.acts_collides_outside void free writes same outside)).1 outside, fun opens within last => ?_⟩
    obtain ⟨t, ran, done, -⟩ := (State.takes_single openNow clean fifo single
      (State.acts_collides_window void free writes same opens.1.1)).2 opens within (by rw [last]; rfl)
    exact ⟨t, ran, done⟩
  · subst two
    refine ⟨fun void => ?_, fun void void2 apart => ⟨fun locked => ?_, fun free free2 => ?_⟩, fun opens short => ?_⟩
    · exact State.takes_pair openNow clean fifo pair (State.acts_pairVoid quiet void)
    · exact State.takes_pair openNow clean fifo pair (State.acts_pairLocked quiet void void2 apart locked)
    · exact State.takes_pair openNow clean fifo pair (State.acts_pairFree quiet void void2 apart free free2)
    · exact State.updateWindow_short openNow fifo pair opens.1 opens.2 short
  · subst alone
    exact State.updateApplyImmediate_alone openNow fifo pair
  · subst alone
    exact State.pairAlone_applies clean openNow fifo pair (State.pairAloneDue_of openNow inside outside) void free quiet
end

section
/-!
PROOFS. Register reads request no single step of a pair (01 R22; 07 R220; 08 R237; 10 R310); O49.
-/

namespace Sys2Proof.Machine

/-! ## Memory and registers -/

section
variable {s : State} (steady : s.Steady)
include steady

theorem State.Steady.put (f : Field) (v : Nat) : (s.put f v).Steady := steady.of_pairs (State.put_pairs s f v)

theorem State.Steady.bump (f : Field) : (s.bump f).Steady := steady.of_pairs (State.bump_pairs s f)

theorem State.Steady.modBank (b : Fin 116) (f : BankS → BankS) : (s.modBank b f).Steady :=
  steady.of_pairs (State.modBank_pairs s b f)

theorem State.Steady.unpowered (a : Nat) : (s.unpowered a).Steady := ((steady.bump _).put _ _).setCause _

theorem State.Steady.takeSnap (m : Master) (group : List Nat) : (s.takeSnap m group).Steady := by
  unfold State.takeSnap
  refine foldl_keeps (P := State.Steady) group (fun t o h => ?_) steady
  exact h.of_pairs rfl

theorem State.Steady.clearRead (off : Nat) : (s.clearRead off).Steady := by
  unfold State.clearRead
  dsimp only
  split
  · split
    · exact steady.modBank _ _
    · exact steady
  split
  · split
    · exact steady.modBank _ _
    · exact steady
  split
  · split
    · exact steady.modBank _ _
    · exact steady
  split
  · split
    · exact steady.of_pairs rfl
    · exact steady
  · exact steady

end

/-! ## The violation log (12 R378) -/

/-- The words of a violation-log entry with the log's own marks. -/
def State.vlogMarked (s : State) (key source code detail : Nat) : State :=
  { s.vlogWords source code detail with
    vlogK := s.vlogK + 1
    vlogLast := Cells.insert s.vlogLast key s.now
    ceBad := s.ceBad.filter fun w => !([unmappedWord 115 (s.vlogK % 64) 0, unmappedWord 115 (s.vlogK % 64) 1].contains w)
    ueBad := s.ueBad.filter fun w => !([unmappedWord 115 (s.vlogK % 64) 0, unmappedWord 115 (s.vlogK % 64) 1].contains w) }

theorem State.vlogWrite_marked (s : State) (key source code detail : Nat) : s.vlogWrite key source code detail =
    ((s.vlogMarked key source code detail).put F.SYS_VLOG_NEXT_V (s.vlogK + 1)).setCause F.SYS_CAUSE_VIOLATION := by
  unfold State.vlogWrite State.vlogMarked State.vlogWords
  rfl

/-- An entry of the violation log is written, or a suppressed one is counted. -/
theorem State.vlog_cases (s : State) (source code detail : Nat) :
    s.vlog source code detail = s.bump F.SYS_VLOG_SUPP_V
      ∨ ∃ key, s.vlog source code detail = s.vlogWrite key source code detail := by
  unfold State.vlog
  dsimp only
  split
  · split
    · exact .inl rfl
    · exact .inr ⟨_, rfl⟩
  · exact .inr ⟨_, rfl⟩

theorem State.Steady.vlog {s : State} (steady : s.Steady) (source code detail : Nat) :
    (s.vlog source code detail).Steady := by
  obtain eq | ⟨key, eq⟩ := s.vlog_cases source code detail
  · rw [eq]
    exact steady.bump _
  · have marked : (s.vlogMarked key source code detail).Steady := steady.of_pairs rfl
    rw [eq, State.vlogWrite_marked]
    exact (marked.put _ _).setCause _

/-! ## The record windows and the replay behind one (07 R220; 08 R237) -/

theorem State.Steady.vfPush {s : State} (steady : s.Steady) (w : DWord) : (s.vfPush w).Steady := by
  have grown (ws : List Nat) (i : Ins) : ({ s.cleanCells ws with ins := i } : State).Steady :=
    (steady.cleanCells ws).of_pairs rfl
  unfold State.vfPush
  dsimp only
  exact ((grown _ _).bump _).setCauseIf _ _


theorem State.Steady.replayFill (k : Nat) : ∀ {s : State}, s.Steady → (State.replayFill k s).Steady := by
  induction k with
  | zero => exact fun steady => steady
  | succ k ih =>
    intro s steady
    unfold State.replayFill
    split
    · split
      · split
        · dsimp only
          refine ih (State.Steady.vfPush ?_ _)
          exact steady.of_pairs rfl
        · exact steady
      · exact steady
    · exact steady

theorem State.Steady.replayRows (k : Nat) : ∀ {s : State}, s.Steady → (State.replayRows k s).Steady := by
  induction k with
  | zero => exact fun steady => steady
  | succ k ih =>
    intro s steady
    unfold State.replayRows
    split
    · exact steady
    split
    · exact steady
    dsimp only
    split
    · exact steady
    · exact ih (State.Steady.replayFill _ ((steady.readCells _).of_pairs rfl))

theorem State.Steady.replayLines (k : Nat) : ∀ {s : State}, s.Steady → (State.replayLines k s).Steady := by
  induction k with
  | zero => exact fun steady => steady
  | succ k ih =>
    intro s steady
    unfold State.replayLines
    split
    · exact steady
    case h_2 r _ =>
    split
    · dsimp only
      split
      · exact steady.replayFill _
      · exact ih (State.Steady.replayRows _ ((steady.replayFill _).of_pairs rfl))
    dsimp only
    split
    · exact steady
    split
    · exact steady
    · have read : ∀ (c : Bool) (ws : List Nat), (if c = true then s.readCells ws else s).Steady := fun c ws => by
        split
        · exact steady.readCells _
        · exact steady
      exact ih (State.Steady.replayRows _ ((State.Steady.readCells (read _ _) _).of_pairs rfl))

section
variable {s : State} (steady : s.Steady)
include steady

theorem State.Steady.replayOn : s.replayOn.Steady := by
  unfold State.replayOn
  split
  · exact steady.replayLines _
  · exact steady

theorem State.Steady.vfPop : s.vfPop.1.Steady := by
  unfold State.vfPop
  split
  · exact steady
  · exact steady.of_pairs rfl

theorem State.Steady.etPush (w : DWord) : (s.etPush w).Steady := by
  unfold State.etPush
  split
  · exact steady.of_pairs rfl
  · have grown (ws : List Nat) (c : Cal) : ({ s.cleanCells ws with cal := c } : State).Steady :=
      (steady.cleanCells ws).of_pairs rfl
    dsimp only
    exact ((grown _ _).setCause _).setCauseIf _ _

theorem State.Steady.etPop : s.etPop.1.Steady := by
  unfold State.etPop
  split
  · exact steady
  · unfold State.etRefill
    split
    · exact steady.of_pairs rfl
    · have popped (c : Cal) : ({ s with cal := c } : State).Steady := steady.of_pairs rfl
      exact fun j => (popped _).etPush _ j

theorem State.Steady.windowPop (verdict : Bool) : (s.windowPop verdict).1.Steady := by
  cases verdict
  · exact steady.etPop
  · exact steady.replayOn.vfPop

theorem State.Steady.setWindowHeld (verdict : Bool) (h : Cells HeldHalf) : (s.setWindowHeld verdict h).Steady := by
  cases verdict <;> exact steady.of_pairs rfl

/-- The replay is brought up to now before the verdict window is read. -/
theorem State.Steady.windowNow (verdict : Bool) : (if verdict = true then s.replayOn else s).Steady := by
  cases verdict
  · exact steady
  · exact steady.replayOn

theorem State.Steady.windowRead (m : Master) (verdict : Bool) (off : Nat) : (s.windowRead m verdict off).1.Steady := by
  have now := steady.windowNow verdict
  unfold State.windowRead
  dsimp only
  generalize (if verdict = true then s.replayOn else s) = u at now ⊢
  split
  · exact (now.readCells _).setWindowHeld _ _
  split
  · split
    · exact (now.setWindowHeld _ _).windowPop _
    · exact now.setWindowHeld _ _
  · exact now

/-! ## A register read (00 R5; 01 R22) -/

theorem State.Steady.tblRead : (s.tblAccess none).1.Steady := State.Steady.put (steady.replayOn.readCells _) _ _

theorem State.Steady.cciPop (p : Fin 4) : (s.cciPop p).1.Steady := by
  unfold State.cciPop
  split
  · exact steady
  · exact steady.of_pairs rfl

theorem State.Steady.regRead (m : Master) (off : Nat) : (s.regRead m off).1.Steady := by
  unfold State.regRead
  split
  · exact steady.windowRead _ _ _
  split
  · exact steady.tblRead
  split
  · exact steady.cciPop _
  split
  · exact steady
  · exact ((steady.readCells _).takeSnap _ _).clearRead _

theorem State.Steady.regsRead_word (m : Master) (off : Nat) : (s.regsRead m off 4).1.Steady := by
  unfold State.regsRead
  split
  · exact steady
  split
  · unfold State.missed
    split
    · exact steady
    · exact steady.unpowered _
  · exact steady.regRead m off

end

end Sys2Proof.Machine
end

section
/-!
PROOFS. Memory requests on the link: served, held back, unsupported; what the violation log and an error report leave
alone (12 R360, R362, R364, R378; 14 R414); O49.
-/

namespace Sys2Proof.Machine

/-! ## What the violation log leaves alone (12 R378) -/

/-- `t` is `s` but for registers, events and the violation log's own marks. -/
def State.LogFrame (s t : State) : Prop := t = { s with
  regs := t.regs, pairs := t.pairs, linkOut := t.linkOut, vlogLast := t.vlogLast, vlogK := t.vlogK
  ceBad := t.ceBad, ueBad := t.ueBad }

theorem State.SameButRegs.setReg {s t : State} (same : s.SameButRegs t) (a : Nat) (w : Word) :
    s.SameButRegs (t.setReg a w) := by
  rw [State.SameButRegs, show t.setReg a w = { t with regs := (t.setReg a w).regs } from rfl, same]

theorem State.LogFrame.put {s t : State} (frame : s.LogFrame t) (f : Field) (v : Nat) : s.LogFrame (t.put f v) := by
  unfold State.LogFrame
  rw [show t.put f v = { t with regs := (t.put f v).regs } from rfl, frame]

theorem State.LogFrame.setCause {s t : State} (frame : s.LogFrame t) (f : Field) : s.LogFrame (t.setCause f) := by
  unfold State.LogFrame
  rw [State.setCause_frame, frame]

/-- `t` is `s` but for what an entry of the violation log changes: its words and marks, and the event of its cause. -/
structure State.SameButLog (s t : State) : Prop where
  frame : s.LogFrame t
  words : ∀ a, 0x2000 ≤ a → ¬ routerReg a → t.reg a = s.reg a

theorem State.vlog_same (s : State) (source code detail : Nat) : s.SameButLog (s.vlog source code detail) := by
  have low {a k : Nat} (high : 0x2000 ≤ a) (hk : k < 0x2000) : a ≠ k := by omega
  obtain eq | ⟨key, eq⟩ := s.vlog_cases source code detail
  · rw [eq, State.bump, State.bumpBy]
    exact ⟨State.LogFrame.put (Eq.refl s) _ _, fun a high _ => State.reg_put_other _ _ (low high (by decide))⟩
  · have slot : s.vlogK % 64 < 64 := Nat.mod_lt _ (by decide)
    have apart {a : Nat} (high : 0x2000 ≤ a) (w : Nat) (hw : w ≤ 3) : a ≠ A.SYS_VLOG (s.vlogK % 64) w := by
      simp only [A.SYS_VLOG]
      omega
    have marked : s.LogFrame (s.vlogMarked key source code detail) := by
      have frame : s.SameButRegs (s.vlogWords source code detail) :=
        ((State.SameButRegs.setReg (Eq.refl s) _ _).setReg _ _ |>.setReg _ _).setReg _ _
      unfold State.LogFrame State.vlogMarked
      rw [frame]
    have regs : (s.vlogMarked key source code detail).regs = (s.vlogWords source code detail).regs := rfl
    rw [eq, State.vlogWrite_marked]
    refine ⟨(marked.put _ _).setCause _, fun a high hr => ?_⟩
    rw [State.reg_setCause_other _ _ (low high (by decide)) hr, State.reg_put_other _ _ (low high (by decide)), State.reg, regs,
      ← State.reg, State.vlogWords, State.reg_setReg_other _ _ (apart high 2 (by decide)),
      State.reg_setReg_other _ _ (apart high 3 (by decide)), State.reg_setReg_other _ _ (apart high 1 (by decide)),
      State.reg_setReg_other _ _ (apart high 0 (by decide))]

/-- A violation of the link is logged, or not. -/
theorem State.linkViolation_same (s : State) (code addr : Nat) : s.SameButLog (s.linkViolation code addr) := by
  unfold State.linkViolation
  split
  · exact ⟨Eq.refl s, fun _ _ _ => rfl⟩
  · exact s.vlog_same _ _ _

section
variable {s t : State} (log : s.SameButLog t)
include log

theorem State.SameButLog.hl : t.hl = s.hl := by rw [log.frame]
theorem State.SameButLog.mem : t.mem = s.mem := by rw [log.frame]
theorem State.SameButLog.seqRun : t.seqRun = s.seqRun := by rw [log.frame]

theorem State.SameButLog.g {f : Field} (high : 0x2000 ≤ f.off) (hr : ¬ routerReg f.off) : t.g f = s.g f :=
  State.g_of_reg (log.words _ high hr)

end

/-! ## Error reports (12 R364, Table 12.12) -/

section
variable (s : State) (e : LinkError)

/-- `t` is `s` but for the host port, the messages sent and the free values drawn. -/
def State.SameButReport (s t : State) : Prop := t = { s with hl := t.hl, linkOut := t.linkOut, fresh := t.fresh }

theorem State.SameButReport.trans {s t u : State} (h : s.SameButReport t) (k : t.SameButReport u) : s.SameButReport u := by
  unfold State.SameButReport at *
  rw [k, h]

theorem State.orCap_report (c : CapReg) (w : Word) : s.SameButReport (s.orCap c w) := rfl

theorem State.logHeader_report : s.SameButReport (s.logHeader e) := by
  unfold State.logHeader
  dsimp only
  split
  · exact rfl
  split
  · exact rfl
  · refine foldl_keeps (P := s.SameButReport) (List.finRange 4) (fun t i h => State.SameButReport.trans h ?_) rfl
    exact rfl

theorem State.sendError_report (m : Option ErrorMsg) : s.SameButReport (s.sendError m) := by
  unfold State.sendError
  split
  · exact rfl
  · dsimp only
    split <;> split <;> exact rfl

/-- A report counts the error once, as correctable where the standard has it advisory. -/
theorem State.reportError_counts (soft : Bool) : ∃ u, s.SameButReport u ∧ s.reportError e soft =
    u.bump (if soft && !s.errorFatal e then F.SYS_HL_CORR_V else F.SYS_HL_UNCORR_V) := by
  have logged := (s.logHeader_report e).trans (State.orCap_report (s.logHeader e) .aerUncStatus (oneBit e.bit))
  refine ⟨_, ?_, rfl⟩
  refine State.SameButReport.trans ?_ (State.sendError_report _ _)
  split
  · exact (logged.trans (State.orCap_report _ _ _)).trans (State.orCap_report _ _ _)
  · exact logged.trans (State.orCap_report _ _ _)

/-- A counter of the reports counts once. -/
theorem State.counted_report {u : State} (report : s.SameButReport u) {f : Field} (fits : f.lo + f.w ≤ 32) :
    s.counted (u.bump f) f := by
  have same : u.g f = s.g f := State.g_of_reg (by rw [State.reg, report]; rfl)
  rw [State.counted, State.g_bump _ _ fits, same]

end

/-! ## Requests (12 R362, R395; 14 R414) -/

/-- The state with the memory requests `xs` held back. -/
def State.holding (s : State) (xs : List HeldAccess) : State := { s with power := { s.power with held := xs } }

section
variable (s : State) (xs : List HeldAccess)

@[simp] theorem State.held_holding : (s.holding xs).power.held = xs := rfl
@[simp] theorem State.holding_holding (ys : List HeldAccess) : (s.holding xs).holding ys = s.holding ys := rfl

/-- Whether held requests go on waiting. -/
def State.holdsBack (s : State) : Bool := s.linkStalled || s.power.stopped || decide (2 ≤ s.g F.PWR_STATUS_STATE)

theorem State.holdsBack_holding : (s.holding xs).holdsBack = s.holdsBack := rfl

/-- One held request is served, where nothing holds it back. -/
theorem State.serveHeld_succ (k : Nat) {s : State} {x : HeldAccess} {r : List HeldAccess} (held : s.power.held = x :: r) :
    s.serveHeld (k + 1) = if s.holdsBack then s else ((s.holding r).serveHost x).serveHeld k := by
  simp only [State.serveHeld, held]
  rfl

/-- Nothing is served where requests are held back. -/
theorem State.serveHeld_holdsBack (k : Nat) {s : State} (back : s.holdsBack = true) : s.serveHeld k = s := by
  cases k with
  | zero => rfl
  | succ k =>
    cases held : s.power.held with
    | nil => simp [State.serveHeld, held]
    | cons x r => rw [State.serveHeld_succ k held, if_pos back]

end

section
variable {s : State} {x : HeldAccess}

/-- A request joins those held back, and what may be served is. -/
theorem State.hostRequest_eq (reaches : s.linkReaches = true) (awake : s.bit F.SYS_HL_STATUS_D3HOT = false)
    (rested : s.seqRun = false) : s.hostRequest x = (s.holding (s.power.held ++ [x])).serveAllHeld.runSteps := by
  rw [State.hostRequest, if_neg (by simp [reaches]), if_neg (by simp [awake]), if_neg (by simp [rested]), State.holding]

/-- A request that nothing holds back is served at once. -/
theorem State.hostRequest_served (reaches : s.linkReaches = true) (awake : s.bit F.SYS_HL_STATUS_D3HOT = false)
    (rested : s.seqRun = false) (on : s.g F.PWR_STATUS_STATE < 2) (first : s.power.held = [])
    (clear : s.linkStalled = false) (clocked : s.power.stopped = false) :
    s.hostRequest x = (s.serveHost x).runSteps := by
  have goes : s.holdsBack = false := by simp [State.holdsBack, clear, clocked, on]
  have emptied : s.holding [] = s := by rw [State.holding, ← first]
  rw [State.hostRequest_eq reaches awake rested, first, List.nil_append, State.serveAllHeld, State.held_holding,
    List.length_singleton, State.serveHeld_succ 0 (s.held_holding [x]), State.holdsBack_holding, goes,
    if_neg Bool.false_ne_true, State.holding_holding, emptied, State.serveHeld]

/-- A request waits behind the others in STANDBY, behind a stalled push, and without clocks. -/
theorem State.hostRequest_held (reaches : s.linkReaches = true) (awake : s.bit F.SYS_HL_STATUS_D3HOT = false)
    (rested : s.seqRun = false) (steady : s.Steady)
    (waits : 2 ≤ s.g F.PWR_STATUS_STATE ∨ s.linkStalled = true ∨ s.power.stopped = true) :
    s.hostRequest x = s.holding (s.power.held ++ [x]) := by
  have back : s.holdsBack = true := by
    rcases waits with level | stalled | stopped
    · simp [State.holdsBack, level]
    · simp [State.holdsBack, stalled]
    · simp [State.holdsBack, stopped]
  have steady' : (s.holding (s.power.held ++ [x])).Steady := steady.of_pairs rfl
  rw [State.hostRequest_eq reaches awake rested, State.serveAllHeld,
    State.serveHeld_holdsBack _ ((s.holdsBack_holding _).trans back), steady'.runSteps]

/-- A request whose completion the device owes is answered Unsupported Request, counted as advisory unless fatal. -/
theorem State.linkUnsupported_reports (s : State) (addr : Nat) : (s.linkUnsupported true addr).resp = ⟨[], false, 1⟩
    ∧ s.counted (s.linkUnsupported true addr)
      (if s.errorFatal .unsupported then F.SYS_HL_UNCORR_V else F.SYS_HL_CORR_V) := by
  have log := s.linkViolation_same 2 addr
  have fatal : (s.linkViolation 2 addr).errorFatal .unsupported = s.errorFatal .unsupported := by
    unfold State.errorFatal
    rw [log.hl]
  obtain ⟨u, report, eq⟩ := (s.linkViolation 2 addr).reportError_counts .unsupported true
  have count := State.counted_report _ report (f := if s.errorFatal .unsupported then F.SYS_HL_UNCORR_V else F.SYS_HL_CORR_V)
    (by split <;> decide)
  have kind (b : Bool) (x y : Field) : (if (true && !b) = true then x else y) = if b = true then y else x := by
    cases b <;> rfl
  have unsupported : s.linkUnsupported true addr = (u.bump (if s.errorFatal .unsupported then F.SYS_HL_UNCORR_V
      else F.SYS_HL_CORR_V)).answer [] false 1 := by
    unfold State.linkUnsupported
    dsimp only
    rw [eq, fatal, if_pos rfl, kind]
    rfl
  rw [unsupported]
  refine ⟨rfl, ?_⟩
  have same : (s.linkViolation 2 addr).g (if s.errorFatal .unsupported then F.SYS_HL_UNCORR_V else F.SYS_HL_CORR_V) =
      s.g (if s.errorFatal .unsupported then F.SYS_HL_UNCORR_V else F.SYS_HL_CORR_V) := by
    split
    · exact log.g (by decide) (not_routerReg_below (by decide))
    · exact log.g (by decide) (not_routerReg_below (by decide))
  unfold State.counted at *
  rw [← same]
  exact count

end

end Sys2Proof.Machine
end

section
/-!
PROOFS. BAR0, the register space; the banks of Quadrille without error words, in BAR2 (12 R360; 11 R347, R355); O49.
-/

namespace Sys2Proof.Machine

/-! ## BAR0 (12 R360) -/

section
variable {s : State} (reg : Fin 0x400000) (w : Word)

/-- A read of a word of BAR0 is the host's read of its register. -/
theorem State.bar0_reads (steady : s.Steady) :
    exec (.rcRead .host reg) s = .next (s.bar0 (4 * reg.val) 4 none).runSteps := by
  have read : (s.bar0 (4 * reg.val) 4 none) =
      (s.regsRead .host (4 * reg.val) 4).1.answer (s.regsRead .host (4 * reg.val) 4).2 false 0 := by
    unfold State.bar0
    rw [accessFits_word]
    rfl
  have stays : ((s.regsRead .host (4 * reg.val) 4).1.answer (s.regsRead .host (4 * reg.val) 4).2 false 0).Steady :=
    (steady.regsRead_word .host (4 * reg.val)).of_pairs rfl
  rw [read, stays.runSteps]
  rfl

/-- A write of a word of BAR0 is the host's write of its register. -/
theorem State.bar0_writes (rested : s.seqRun = false) :
    exec (.registerWrite .host reg w) s = .next (s.bar0 (4 * reg.val) 4 (some ((leBytes 4 w.toNat).map some))).runSteps := by
  have length : ((leBytes 4 w.toNat).map some).length = 4 := by simp
  have every : allEnabled ((leBytes 4 w.toNat).map some) = true := by simp [allEnabled]
  have bytes : enabled ((leBytes 4 w.toNat).map some) = leBytes 4 w.toNat := by simp [enabled, List.filterMap_map]
  have write : s.bar0 (4 * reg.val) 4 (some ((leBytes 4 w.toNat).map some)) =
      s.regsWrite .host (4 * reg.val) (leBytes 4 w.toNat) := by
    simp only [State.bar0, rested, Bool.false_eq_true, if_false, length, accessFits_word, every, Bool.and_self, if_true, bytes]
  rw [write]
  rfl

end

/-! ## The banks of Quadrille (01 Table 1.8; 11 Table 11.6) -/

/-- `n` bytes from BAR2 offset `a` on lie in Quadrille. -/
def InQuad (a n : Nat) : Prop := 0x04000000 ≤ a ∧ a + n ≤ 0x04400000

/-- The bank of a byte of Quadrille: one of banks 64 to 67. -/
theorem bankOf_quad {a : Nat} (low : 0x04000000 ≤ a) (high : a < 0x04400000) :
    ∃ b off, bankOf a = some (b, off) ∧ 64 ≤ b ∧ b < 68 := by
  refine ⟨64 + (a - 0x04000000) / 8 % 4, (a - 0x04000000) / 32 * 8 + (a - 0x04000000) % 8, ?_, by omega, by omega⟩
  rw [bankOf, if_neg (by omega), if_neg (by omega), if_pos ⟨low, high⟩]

theorem bankDomains_quad {b : Nat} (low : 64 ≤ b) (high : b < 68) : bankDomains b = [.core] := by
  rw [bankDomains, if_neg (by omega), if_neg (by omega), if_pos (by omega)]

/-- The memories are powered, in no wipe, and without error words: their bytes are read and written as they stand. -/
structure State.Serves (s : State) : Prop where
  clean : s.NoErrors
  rested : s.seqRun = false
  core : s.up .core = true
  unwiped : ∀ b, (s.bank b).wiping = false

section
variable {s : State} {a n : Nat}

theorem State.NoErrors.readWord (clean : s.NoErrors) (w : Nat) : s.readWord w = s := by
  unfold State.readWord
  split
  · rfl
  · simp [clean.1, clean.2]

theorem State.bankUp_quad (core : s.up .core = true) {b : Nat} (low : 64 ≤ b) (high : b < 68) : s.bankUp b = true := by
  simp [State.bankUp, bankDomains_quad low high, core]

/-- A byte of Quadrille reads as it is stored. -/
theorem State.peek_quad (serves : s.Serves) (m : Master) (low : 0x04000000 ≤ a) (high : a < 0x04400000) :
    s.peek m a = s.byteAt a := by
  obtain ⟨b, off, bank, blow, bhigh⟩ := bankOf_quad low high
  have no75 : (b == 75) = false := by simp; omega
  have no74 : (b == 74) = false := by simp; omega
  simp [State.peek, bank, serves.rested, State.bankUp_quad serves.core blow bhigh, serves.unwiped, no75, no74]

/-- No access of Quadrille meets a bank that is off. -/
theorem State.countDark_quad (core : s.up .core = true) (quad : InQuad a n) : s.countDark a n = s := by
  obtain ⟨low, high⟩ := quad
  have none' : ((List.range n).map (a + ·)).find? s.darkAt = none := by
    refine List.find?_eq_none.2 fun x hx => ?_
    obtain ⟨i, hi, rfl⟩ := List.mem_map.1 hx
    have within := List.mem_range.1 hi
    obtain ⟨b, off, bank, blow, bhigh⟩ := bankOf_quad (a := a + i) (by omega) (by omega)
    simp [State.darkAt, bank, State.bankUp_quad core blow bhigh]
  simp only [State.countDark, none']

/-- A read of Quadrille delivers its bytes and changes nothing. -/
theorem State.memRead_quad (serves : s.Serves) (m : Master) (quad : InQuad a n) :
    s.memRead m a n = (s, (List.range n).map fun i => s.byteAt (a + i), false) := by
  obtain ⟨low, high⟩ := id quad
  have bytes : ((List.range n).map fun i => s.peek m (a + i)) = (List.range n).map fun i => s.byteAt (a + i) := by
    refine List.map_congr_left fun i hi => ?_
    have within := List.mem_range.1 hi
    exact State.peek_quad serves m (by omega) (by omega)
  have read (ws : List Nat) : ws.foldl State.readWord s = s :=
    foldl_keeps (P := fun t => t = s) ws (fun t w h => by rw [h, serves.clean.readWord]) rfl
  rw [State.memRead, if_neg (by simp [serves.rested])]
  simp only [bytes, State.countDark_quad serves.core quad, read, serves.clean.2]
  simp

end

/-! ## Writes of Quadrille -/

/-- The effect of one byte of a memory write: its address, the byte, its bank. -/
def State.cellOf (s : State) (m : Master) (a : Nat) : Option Byte × Nat → Option (Nat × Byte × Nat)
  | (b, i) =>
    match b, bankOf (a + i) with
    | some v, some (k, off) => if s.bankUp k && s.mayWrite m k off then some (a + i, v, k) else none
    | _, _ => none

/-- The bytes of a memory write that have an effect. -/
def State.writeCells (s : State) (m : Master) (a : Nat) (bs : List (Option Byte)) : List (Nat × Byte × Nat) :=
  bs.zipIdx.filterMap (s.cellOf m a)

section
variable {s : State} {a : Nat}

/-- A write of powered memories without error words stores its bytes, outside the instruction memories. -/
theorem State.memWrite_of_clean (clean : s.NoErrors) (rested : s.seqRun = false) {m : Master} {bs : List (Option Byte)}
    (lit : s.countDark a bs.length = s) {cells : List (Nat × Byte × Nat)} (eq : s.writeCells m a bs = cells)
    (data : ∀ c ∈ cells, c.2.2 < 68) :
    s.memWrite m a bs = cells.foldl (fun s c => s.setByte c.1 c.2.1) s := by
  have loaded : (cells.foldl (fun (s : State) c =>
      if 68 ≤ c.2.2 ∧ c.2.2 < 76 ∧ c.2.2 % 2 = 0 then s.put (F.SEQ_Pj_STATUS_LOADED ((c.2.2 - 68) / 2)) 0
      else s) s) = s := by
    refine List.foldlRecOn (motive := fun t => t = s) cells _ rfl fun t h c hc => ?_
    rw [if_neg fun within => absurd within.1 (Nat.not_le.2 (data c hc)), h]
  rw [State.memWrite, if_neg (by simp [rested])]
  dsimp only
  rw [lit]
  generalize found : List.filterMap _ bs.zipIdx = cs
  have same : cs = cells := found.symm.trans eq
  rw [same, loaded]
  simp [clean.1, clean.2]

/-- Every byte of a write of Quadrille has an effect. -/
theorem State.cellOf_quad (core : s.up .core = true) (m : Master) (b : Byte) {i : Nat} (low : 0x04000000 ≤ a + i)
    (high : a + i < 0x04400000) : ∃ k, s.cellOf m a (some b, i) = some (a + i, b, k) ∧ k < 68 := by
  obtain ⟨k, off, bank, klow, khigh⟩ := bankOf_quad low high
  have may : s.mayWrite m k off = true := by rw [State.mayWrite, if_neg (by omega)]
  exact ⟨k, by simp [State.cellOf, bank, State.bankUp_quad core klow khigh, may], khigh⟩

/-- The bytes of a write of Quadrille are stored in order. -/
theorem State.writeCells_quad (core : s.up .core = true) (m : Master) (low : 0x04000000 ≤ a) (bs : List Byte) (j : Nat)
    (high : a + j + bs.length ≤ 0x04400000) :
    ∃ cells, ((bs.map some).zipIdx j).filterMap (s.cellOf m a) = cells ∧ (∀ c ∈ cells, c.2.2 < 68)
      ∧ ∀ t : State, cells.foldl (fun s c => s.setByte c.1 c.2.1) t = t.setBytes (a + j) bs := by
  induction bs generalizing j with
  | nil => exact ⟨[], rfl, fun c hc => absurd hc List.not_mem_nil, fun t => rfl⟩
  | cons b bs ih =>
    rw [List.length_cons] at high
    obtain ⟨cells, eq, data, stores⟩ := ih (j + 1) (by omega)
    obtain ⟨k, cell, bank⟩ := State.cellOf_quad core m b (a := a) (i := j) (by omega) (by omega)
    refine ⟨(a + j, b, k) :: cells, ?_, fun c hc => ?_, fun t => ?_⟩
    · rw [List.map_cons, List.zipIdx_cons, List.filterMap_cons, cell, eq]
    · rcases List.mem_cons.1 hc with rfl | rest
      · exact bank
      · exact data c rest
    · rw [List.foldl_cons, stores]
      rfl

/-- A write of Quadrille stores its bytes. -/
theorem State.memWrite_quad (serves : s.Serves) (m : Master) {bs : List Byte} (quad : InQuad a bs.length) :
    s.memWrite m a (bs.map some) = s.setBytes a bs := by
  obtain ⟨cells, eq, data, stores⟩ := State.writeCells_quad serves.core m quad.1 bs 0 quad.2
  have lit : s.countDark a (bs.map some).length = s := by
    rw [List.length_map]
    exact State.countDark_quad serves.core quad
  rw [State.memWrite_of_clean serves.clean serves.rested lit eq data]
  exact stores s

/-! ## BAR2 (12 R360) -/

theorem State.bar2_reads (serves : s.Serves) (steady : s.Steady) {n : Nat} (quad : InQuad a n) :
    (s.bar2 a n none).runSteps =
      { s with resp := ⟨(List.range n).map fun i => s.byteAt (a + i), false, 0⟩ } := by
  have read : s.bar2 a n none = { s with resp := ⟨(List.range n).map fun i => s.byteAt (a + i), false, 0⟩ } := by
    simp only [State.bar2, State.memRead_quad serves .host quad]
    rfl
  have stays : (s.bar2 a n none).Steady := steady.of_pairs (by rw [read])
  rw [stays.runSteps, read]

theorem State.bar2_writes (serves : s.Serves) (steady : s.Steady) {bs : List Byte} (quad : InQuad a bs.length) :
    (s.bar2 a bs.length (some (bs.map some))).runSteps = s.setBytes a bs := by
  have write : s.bar2 a bs.length (some (bs.map some)) = s.setBytes a bs := State.memWrite_quad serves .host quad
  have stays : (s.setBytes a bs).Steady := steady.of_pairs (by rw [State.setBytes_frame])
  rw [write, stays.runSteps]

end

end Sys2Proof.Machine
end

section
/-!
PROOFS. The data port: its accesses to Quadrille, and those that it refuses (12 R369-R371; log 71); O49.
-/

namespace Sys2Proof.Machine

/-! ## The address behind an access (12 R369) -/

section
variable {s t : State}

/-- The address behind an access is one of 32 bits. -/
theorem State.dptNext_lt (s : State) (n : Nat) : s.dptNext n < 2 ^ 32 := by
  unfold State.dptNext
  dsimp only
  split
  · exact Nat.mod_lt _ (by decide)
  · exact Nat.mod_lt _ (by decide)
  · exact Word.field_lt _ _ _

/-- What the end of a data-port access records: the address, the status, the counts. -/
structure State.DptEnds (s t : State) (next : Nat) (st : Status) : Prop where
  addr : t.g F.DPT_ADDR_V = next
  last : t.g F.DPT_STATUS_LAST = st.code
  counted : s.counted t F.DPT_ACCESSES_V
  errors : st ≠ .ok → s.counted t F.DPT_ERRORS_V


/-- An answer leaves alone what is recorded. -/
theorem State.DptEnds.answer {next : Nat} {st : Status} (ends : s.DptEnds t next st) (bs : List Byte) (p : Bool) (c : Nat) :
    s.DptEnds (t.answer bs p c) next st := by
  obtain ⟨addr, last, counted, errors⟩ := ends
  exact ⟨addr, last, counted, errors⟩

/-- The result of an access that moves on to `next`, with its status and its count. -/
def State.dptRecorded (s : State) (next : Nat) (st : Status) : State :=
  ((s.put F.DPT_ADDR_V next).put F.DPT_STATUS_LAST st.code).bump F.DPT_ACCESSES_V

theorem State.dptDone_eq (rested : s.seqRun = false) (next : Nat) (st : Status) :
    (s.dptAdvance false next).dptDone st =
      if st = .ok then s.dptRecorded next st else (s.dptRecorded next st).bump F.DPT_ERRORS_V := by
  have advanced : s.dptAdvance false next = s.put F.DPT_ADDR_V next := by simp [State.dptAdvance, rested]
  rw [advanced, State.dptDone, State.put_seqRun, rested, if_neg Bool.false_ne_true, State.dptRecorded]

theorem State.g_bump_other {e f : Field} (other : e.off ≠ f.off) : (s.bump f).g e = s.g e := by
  rw [State.bump, State.bumpBy]
  exact State.g_put_other _ _ _ _ other

/-- What is recorded of an access. -/
theorem State.dptRecorded_ends {next : Nat} (fits : next < 2 ^ 32) (st : Status) :
    (s.dptRecorded next st).g F.DPT_ADDR_V = next ∧ (s.dptRecorded next st).g F.DPT_STATUS_LAST = st.code
      ∧ s.counted (s.dptRecorded next st) F.DPT_ACCESSES_V
      ∧ (s.dptRecorded next st).g F.DPT_ERRORS_V = s.g F.DPT_ERRORS_V := by
  have code : st.code < 2 ^ 8 := by cases st <;> decide
  unfold State.dptRecorded
  refine ⟨?_, ?_, ?_, ?_⟩
  · rw [State.g_bump_other (by decide), State.g_put_other _ _ _ _ (by decide), State.g_put_same _ _ _ (by decide)]
    exact Nat.mod_eq_of_lt fits
  · rw [State.g_bump_other (by decide), State.g_put_same _ _ _ (by decide)]
    exact Nat.mod_eq_of_lt code
  · rw [State.counted, State.g_bump _ _ (by decide), State.g_put_other _ _ _ _ (by decide),
      State.g_put_other _ _ _ _ (by decide)]
  · rw [State.g_bump_other (by decide), State.g_put_other _ _ _ _ (by decide), State.g_put_other _ _ _ _ (by decide)]

/-- An access that moved on and is done. -/
theorem State.dptEnds_of (rested : s.seqRun = false) {next : Nat} (fits : next < 2 ^ 32) (st : Status) :
    s.DptEnds ((s.dptAdvance false next).dptDone st) next st := by
  obtain ⟨addr, last, counted, errors⟩ := s.dptRecorded_ends fits st
  rw [State.dptDone_eq rested]
  split
  case isTrue ok => exact ⟨addr, last, counted, fun bad => absurd ok bad⟩
  case isFalse bad =>
    refine ⟨?_, ?_, ?_, fun _ => ?_⟩
    · rw [State.g_bump_other (by decide), addr]
    · rw [State.g_bump_other (by decide), last]
    · rw [State.counted, State.g_bump_other (by decide), counted]
    · rw [State.counted, State.g_bump _ _ (by decide), errors]

/-- The end of an access changes registers alone. -/
theorem State.dptEnded_regs (s : State) (next : Nat) (st : Status) :
    s.SameButRegs ((s.dptAdvance false next).dptDone st) := by
  have advanced : s.SameButRegs (s.dptAdvance false next) := by
    unfold State.dptAdvance
    split
    · exact rfl
    · exact State.SameButRegs.put (Eq.refl s) _ _
  have done := (s.dptAdvance false next).dptDone_frame st
  rw [State.SameButRegs, done, advanced]

end

/-! ## One part in the memory space (12 R369) -/

section
variable {a n : Nat}

/-- An access to Quadrille is one part, in the memory space. -/
theorem partsOf_quad (pos : 0 < n) (low : 0x44000000 ≤ a) (high : a + n ≤ 0x44400000) :
    partsOf a n = [(.mem, a, 0, n)] := by
  have whole : a % 2 ^ 32 = a := Nat.mod_eq_of_lt (by omega)
  have space : spaceAt a = (.mem, 0x80000000) := by
    rw [spaceAt, if_neg (by omega), if_neg (by omega), if_pos (by omega)]
  have all : min n (0x80000000 - a) = n := by omega
  have none' : spaces 4 (a + n) (0 + n) (n - n) = [] := by rw [spaces, if_pos (by omega)]
  rw [partsOf, spaces, if_neg (by omega), whole, space]
  simp only [all, none']

theorem dptRefused_quad (pos : 0 < n) (low : 0x44000000 ≤ a) (high : a + n ≤ 0x44400000) : dptRefused a n = false := by
  simp [dptRefused, touchesRegs, partsOf_quad pos low high]

/-- A misaligned access to the register space is refused. -/
theorem dptRefused_regs (pos : 0 < n) (regs : a < 0x1000000) (odd : a % 4 ≠ 0 ∨ n % 4 ≠ 0) : dptRefused a n = true := by
  have whole : a % 2 ^ 32 = a := Nat.mod_eq_of_lt (by omega)
  have space : spaceAt a = (.regs, 0x1000000) := by rw [spaceAt, if_pos regs]
  have touches : touchesRegs a n = true := by
    rw [touchesRegs, partsOf, spaces, if_neg (by omega), whole, space]
    rfl
  simp [dptRefused, touches, odd]

/-- A write with every byte enabled is none shorter. -/
theorem trimmed_map_some (bs : List Byte) : trimmed (bs.map some) = bs.map some := by
  have drops (l : List Byte) : (l.map some).dropWhile Option.isNone = l.map some := by cases l <;> rfl
  rw [trimmed, drops, ← List.map_reverse, drops, ← List.map_reverse, List.reverse_reverse]

/-- A write of Quadrille leaves DPT_ADDR alone. -/
theorem hitsDptAddr_quad {bs : List Byte} (low : 0x44000000 ≤ a) (high : a + bs.length ≤ 0x44400000) :
    hitsDptAddr a (bs.map some) = false := by
  refine List.any_eq_false.2 fun x hx => ?_
  obtain ⟨b, i⟩ := x
  have within : i < (bs.map some).length := (List.mem_zipIdx' hx).1
  rw [List.length_map] at within
  have apart : (a + i) % 2 ^ 32 / 4 * 4 ≠ A.DPT_ADDR := by
    rw [Nat.mod_eq_of_lt (by omega), A.DPT_ADDR]
    omega
  simpa using fun _ => apart

end

/-! ## Accesses (12 R369-R371) -/

/-- Bytes stored change no field. -/
theorem State.g_setBytes (s : State) (a : Nat) (bs : List Byte) (f : Field) : (s.setBytes a bs).g f = s.g f := by
  rw [State.setBytes_frame]
  rfl

/-- Whether a push of the data port waits is a matter of the bars. -/
theorem State.dptBusy_of_bars {s t : State} (bars : t.bars = s.bars) : t.dptBusy = s.dptBusy := by
  unfold State.dptBusy State.bar
  rw [bars]

section
variable {s : State} {n : Nat} (rested : s.seqRun = false) (steady : s.Steady)
include rested steady

/-- A read of Quadrille through the data port. -/
theorem State.dataPort_reads (serves : s.Serves) (pos : 0 < n) (low : 0x44000000 ≤ s.g F.DPT_ADDR_V)
    (high : s.g F.DPT_ADDR_V + n ≤ 0x44400000) : let t := (s.dataPort n none).runSteps
    t.resp = ⟨(List.range n).map fun i => s.byteAt (s.g F.DPT_ADDR_V - 0x40000000 + i), false, 0⟩ ∧ t.mem = s.mem
      ∧ t.g F.DPT_ADDR_V = s.dptNext n ∧ t.g F.DPT_STATUS_LAST = 0 ∧ s.counted t F.DPT_ACCESSES_V := by
  intro t
  let u := (s.dptAdvance false (s.dptNext n)).dptDone .ok
  let bytes := (List.range n).map fun i => s.byteAt (s.g F.DPT_ADDR_V - 0x40000000 + i)
  have quad : InQuad (s.g F.DPT_ADDR_V - 0x40000000) n := ⟨by omega, by omega⟩
  have part : s.partRead .dpt true (s.g F.DPT_ADDR_V) n = (s, bytes, false) := by
    simp only [State.partRead, partsOf_quad pos low high, List.foldl_cons, List.foldl_nil,
      State.memRead_quad serves .dpt quad, List.nil_append, Bool.or_self]
    rfl
  have access : s.dataPort n none = u.answer bytes false 0 := by
    rw [State.dataPort, if_neg (by simp [rested])]
    dsimp only
    rw [dptRefused_quad pos low high, if_neg Bool.false_ne_true, part]
    rfl
  have regs : s.SameButRegs u := s.dptEnded_regs _ _
  obtain ⟨addr, last, counted, -⟩ := (State.dptEnds_of rested (s.dptNext_lt n) .ok).answer bytes false 0
  have stays : (u.answer bytes false 0).Steady := steady.of_pairs (show u.pairs = s.pairs by rw [show u = _ from regs])
  have mem : u.mem = s.mem := by rw [show u = _ from regs]
  have eq : t = u.answer bytes false 0 := by rw [show t = _ from congrArg State.runSteps access, stays.runSteps]
  rw [eq]
  exact ⟨rfl, mem, addr, last, counted⟩

/-- A write of Quadrille through the data port. -/
theorem State.dataPort_writes (serves : s.Serves) (clear : s.linkStalled = false) {bs : List Byte} (some' : bs ≠ [])
    (low : 0x44000000 ≤ s.g F.DPT_ADDR_V) (high : s.g F.DPT_ADDR_V + bs.length ≤ 0x44400000) :
    let t := (s.dataPort bs.length (some (bs.map some))).runSteps
    s.stored t (s.g F.DPT_ADDR_V - 0x40000000) bs ∧ t.g F.DPT_ADDR_V = s.dptNext bs.length
      ∧ t.g F.DPT_STATUS_LAST = 0 ∧ s.counted t F.DPT_ACCESSES_V := by
  intro t
  let v := s.setBytes (s.g F.DPT_ADDR_V - 0x40000000) bs
  let u := (v.dptAdvance false (s.dptNext bs.length)).dptDone .ok
  have pos : 0 < bs.length := List.length_pos_iff.2 some'
  have quad : InQuad (s.g F.DPT_ADDR_V - 0x40000000) bs.length := ⟨by omega, by omega⟩
  have frame : v = { s with mem := v.mem } := s.setBytes_frame _ _
  have part : s.partWrite .dpt true (s.g F.DPT_ADDR_V) (bs.map some) = v := by
    have whole : ((bs.map some).drop 0).take bs.length = bs.map some := by
      rw [List.drop_zero, List.take_of_length_le (by rw [List.length_map])]
    simp only [State.partWrite, List.length_map, partsOf_quad pos low high, List.foldl_cons, List.foldl_nil, whole,
      State.memWrite_quad serves .dpt quad]
    rfl
  have idle : s.dptBusy = false := (Bool.or_eq_false_iff.1 clear).1
  have rested' : v.seqRun = false := by rw [frame]; exact rested
  have idle' : (v.dptAdvance false (s.dptNext bs.length)).dptBusy = false := by
    rw [State.dptAdvance, rested', if_neg (by decide), State.dptBusy_of_bars (State.put_bars v _ _),
      State.dptBusy_of_bars (s := s) (by rw [frame]), idle]
  have access : s.dataPort bs.length (some (bs.map some)) = u := by
    rw [State.dataPort, if_neg (by simp [rested])]
    simp only [trimmed_map_some, List.length_map]
    rw [dptRefused_quad pos low high, if_neg Bool.false_ne_true, part, hitsDptAddr_quad low high, idle',
      if_neg Bool.false_ne_true]
  have regs : v.SameButRegs u := v.dptEnded_regs _ _
  obtain ⟨addr, last, counted, -⟩ := State.dptEnds_of rested' (s.dptNext_lt bs.length) .ok
  have stays : u.Steady := steady.of_pairs (by rw [show u = _ from regs, frame])
  have eq : t = u := by rw [show t = _ from congrArg State.runSteps access, stays.runSteps]
  have mem : u.mem = v.mem := by rw [show u = _ from regs]
  rw [eq]
  refine ⟨fun x => ?_, addr, last, ?_⟩
  · rw [State.byteAt_of_mem mem]
    exact s.stored_setBytes _ _ x
  · have before : v.g F.DPT_ACCESSES_V = s.g F.DPT_ACCESSES_V := s.g_setBytes _ _ _
    rw [State.counted, ← before]
    exact counted

/-- A misaligned access to the register space is refused: logged, answered with zeros, and counted as an error. -/
theorem State.dataPort_refuses (pos : 0 < n) (regs : s.g F.DPT_ADDR_V < 0x1000000)
    (odd : s.g F.DPT_ADDR_V % 4 ≠ 0 ∨ n % 4 ≠ 0) : let t := (s.dataPort n none).runSteps
    t.resp = ⟨List.replicate n 0#8, false, 0⟩ ∧ t.g F.DPT_STATUS_LAST = 5 ∧ t.g F.DPT_ADDR_V = s.dptNext n
      ∧ s.counted t F.DPT_ERRORS_V ∧ t.mem = s.mem := by
  intro t
  let v := s.vlog 2 1 (s.g F.DPT_ADDR_V)
  let u := (v.dptAdvance false (s.dptNext n)).dptDone .badDescriptor
  have log : s.SameButLog v := s.vlog_same _ _ _
  have access : s.dataPort n none = u.answer (List.replicate n 0#8) false 0 := by
    rw [State.dataPort, if_neg (by simp [rested])]
    dsimp only
    rw [dptRefused_regs pos regs odd, if_pos rfl]
    rfl
  have rested' : v.seqRun = false := log.seqRun.trans rested
  have same : v.SameButRegs u := v.dptEnded_regs _ _
  obtain ⟨addr, last, -, errors⟩ :=
    (State.dptEnds_of rested' (s.dptNext_lt n) .badDescriptor).answer (List.replicate n 0#8) false 0
  have vSteady : v.Steady := steady.vlog _ _ _
  have stays : (u.answer (List.replicate n 0#8) false 0).Steady :=
    vSteady.of_pairs (show u.pairs = v.pairs by rw [show u = _ from same])
  have eq : t = u.answer (List.replicate n 0#8) false 0 := by
    rw [show t = _ from congrArg State.runSteps access, stays.runSteps]
  have mem : u.mem = v.mem := by rw [show u = _ from same]
  have before : v.g F.DPT_ERRORS_V = s.g F.DPT_ERRORS_V :=
    log.g (by decide) (not_routerReg_behind (by decide))
  rw [eq]
  refine ⟨rfl, last, addr, ?_, mem.trans log.mem⟩
  rw [State.counted, ← before]
  exact errors (by decide)

end

end Sys2Proof.Machine
end

section
/-!
PROOFS. Configuration requests and violations on the link (12 R357-R364, R395; 14 R405); O49.
-/

namespace Sys2Proof.Machine

/-! ## What leaves the function's state alone -/

/-- `t` has the host port and the link status of `s`. -/
structure State.SameLink (s t : State) : Prop where
  hl : t.hl = s.hl
  status : t.reg A.SYS_HL_STATUS = s.reg A.SYS_HL_STATUS

section
variable {s t u : State}

theorem State.SameLink.refl (s : State) : s.SameLink s := ⟨rfl, rfl⟩

theorem State.SameLink.trans (h : s.SameLink t) (k : t.SameLink u) : s.SameLink u :=
  ⟨k.hl.trans h.hl, k.status.trans h.status⟩

theorem State.SameLink.bit (same : s.SameLink t) {f : Field} (here : f.off = A.SYS_HL_STATUS) : t.bit f = s.bit f :=
  State.bit_of_reg (by rw [here, same.status])

theorem State.sameLink_put (s : State) {f : Field} (v : Nat) (other : A.SYS_HL_STATUS ≠ f.off) : s.SameLink (s.put f v) :=
  ⟨rfl, State.reg_put_other s v other⟩

theorem State.sameLink_setCause (s : State) {f : Field} (other : A.SYS_HL_STATUS ≠ f.off) : s.SameLink (s.setCause f) :=
  ⟨State.setCause_hl s f, State.reg_setCause_other s f other (not_routerReg_below (by decide))⟩

/-- A cause of the link is set, with its event while the core domain is on. -/
theorem State.sameLink_linkCause (s : State) {f : Field} (other : A.SYS_HL_STATUS ≠ f.off) : s.SameLink (s.linkCause f) := by
  unfold State.linkCause
  split
  · exact s.sameLink_put 1 other
  · exact s.sameLink_setCause other

/-- Messages that go out clear their bits of the PBA. -/
theorem State.sameLink_sendAllHeld (s : State) : s.SameLink s.sendAllHeld := by
  have pba (v : Nat) : A.SYS_HL_STATUS ≠ (pbaField v).off := by
    change 0x8000 ≠ 0x49000 + v / 32 * 0x4
    omega
  refine foldl_keeps (P := s.SameLink) (List.range 64) (fun t v same => same.trans ?_) (.refl s)
  unfold State.sendHeld
  split
  · exact (t.sameLink_put 0 (pba v)).trans ⟨rfl, rfl⟩
  · exact .refl t

/-- A write that is held counts and reports, and leaves the function's state. -/
theorem State.sameLink_blocked (s : State) : s.SameLink s.blocked := by
  unfold State.blocked State.bump State.bumpBy
  exact (s.sameLink_put _ (by decide)).trans (State.sameLink_setCause _ (by decide))

theorem State.blocked_reports (s : State) : s.blocked.bit F.PWR_CAUSE_BLOCKED_WRITE = true := by
  unfold State.blocked
  exact State.bit_setCause _ _ (by decide) rfl (not_routerReg_below (by decide))

end

/-! ## The D-state and Bus Master Enable (12 R362) -/

/-- The D-state and Bus Master Enable take their values; the host port stays. -/
theorem State.functionState_sets (s : State) (d3hot bme : Bool) : (s.functionState d3hot bme).hl = s.hl
    ∧ (s.functionState d3hot bme).bit F.SYS_HL_STATUS_D3HOT = d3hot
    ∧ (s.functionState d3hot bme).bit F.SYS_HL_STATUS_BME = bme := by
  let u := (s.putb F.SYS_HL_STATUS_D3HOT d3hot).putb F.SYS_HL_STATUS_BME bme
  have same : u.SameLink (s.functionState d3hot bme) := by
    unfold State.functionState
    dsimp only
    split
    · exact (State.sameLink_linkCause _ (by decide)).trans (State.sameLink_sendAllHeld _)
    · exact State.sameLink_sendAllHeld _
  refine ⟨same.hl, ?_, ?_⟩
  · have apart : u.bit F.SYS_HL_STATUS_D3HOT = (s.putb F.SYS_HL_STATUS_D3HOT d3hot).bit F.SYS_HL_STATUS_D3HOT :=
      State.bit_put_of_apart _ _ (by decide) (.inr (.inl (by decide)))
    rw [same.bit rfl, apart, State.bit_putb _ _ _ (by decide) rfl]
  · rw [same.bit rfl, State.bit_putb _ _ _ (by decide) rfl]

@[simp] theorem State.bit_answer (s : State) (bs : List Byte) (p : Bool) (c : Nat) (f : Field) :
    (s.answer bs p c).bit f = s.bit f := rfl

/-! ## Configuration requests (12 R357-R362, R395; 14 R405) -/

section
variable {s : State} (reaches : s.linkReaches = true) (rested : s.seqRun = false) (w : Word)
include reaches rested

/-- A configuration write takes effect and completes. -/
theorem exec_configRequest_write (r : CfgReg) :
    exec (.configRequest r (some w)) s = .next ((s.cfgWrite r w).answer [] false 0) := by
  change execConfigRequest r (some w) s = _
  rw [execConfigRequest, if_neg (by simp [rested]), if_neg (by simp [reaches])]
  rfl

/-- The identity of the function, from the shadow that holds one. -/
theorem configRequest_ids (vendor : Word.field (s.deviceWord 0) 0 16 ≠ 0) :
    Completes (.configRequest .ids none) s fun t =>
      t = { s with resp := ⟨leBytes 4 (Word.field (s.deviceWord 0) 0 16 + 0x9860 * 2 ^ 16), false, 0⟩ } := by
  have small : Word.field (s.deviceWord 0) 0 16 < 2 ^ 16 := Word.field_lt _ _ _
  have word : (BitVec.ofNat 32 (orDefault (Word.field (s.deviceWord 0) 0 16) Config.plovairVendorId.toNat
      + 0x9860 * 2 ^ 16)).toNat = Word.field (s.deviceWord 0) 0 16 + 0x9860 * 2 ^ 16 := by
    rw [orDefault, if_neg vendor, BitVec.toNat_ofNat]
    exact Nat.mod_eq_of_lt (by omega)
  refine ⟨_, ?_, rfl⟩
  change execConfigRequest .ids none s = _
  rw [execConfigRequest, if_neg (by simp [rested]), if_neg (by simp [reaches])]
  simp only [State.cfgRead, word]
  rfl

/-- A write of the Command register sets Bus Master Enable and keeps the D-state. -/
theorem configRequest_command : Completes (.configRequest .command (some w)) s fun t =>
    t.bit F.SYS_HL_STATUS_BME = w.getLsbD 2 ∧ t.bit F.SYS_HL_STATUS_D3HOT = s.bit F.SYS_HL_STATUS_D3HOT := by
  refine ⟨_, exec_configRequest_write reaches rested w .command, ?_⟩
  rw [State.cfgWrite]
  obtain ⟨-, d3hot, bme⟩ := State.functionState_sets
    { s with hl := (s.hl.setWord 1 (w &&& 0x0546#32)).setWord statusKey (s.hl.word statusKey &&& ~~~(w >>> 16)) }
    (s.bit F.SYS_HL_STATUS_D3HOT) (w.getLsbD 2)
  exact ⟨(State.bit_answer _ _ _ _ _).trans bme, (State.bit_answer _ _ _ _ _).trans d3hot⟩

/-- The host link that holds D3hot keeps it against a write of PMCSR. -/
theorem configRequest_pmCsr_held (held : s.holdsD3 = true) (d0 : Word.field w 0 2 = 0) :
    Completes (.configRequest .pmCsr (some w)) s fun t =>
      t.bit F.SYS_HL_STATUS_D3HOT = s.bit F.SYS_HL_STATUS_D3HOT ∧ t.hl.pmeEn = s.hl.pmeEn
        ∧ t.bit F.PWR_CAUSE_BLOCKED_WRITE = true := by
  have blocked : s.cfgWrite .pmCsr w = s.blocked := by
    rw [State.cfgWrite, d0, State.unlessD3, State.unlessHeld, if_pos (by simp [held])]
  have same := s.sameLink_blocked
  refine ⟨_, exec_configRequest_write reaches rested w .pmCsr, ?_⟩
  rw [blocked]
  refine ⟨?_, ?_, ?_⟩
  · rw [State.bit_answer, same.bit rfl]
  · rw [State.answer_hl, same.hl]
  · rw [State.bit_answer, s.blocked_reports]

end

/-- PMCSR's PME enable and status as written. -/
def State.pmeWritten (s : State) (w : Word) : State :=
  { s with hl := { s.hl with pmeEn := w.getLsbD 8, pme := s.hl.pme && !w.getLsbD 15 } }

/-- The MSI-X enable and mask as written. -/
def State.msixWritten (s : State) (w : Word) : State :=
  { s with hl := { s.hl with msixEn := w.getLsbD 31, msixMask := w.getLsbD 30 } }

section
variable {s : State} (reaches : s.linkReaches = true) (rested : s.seqRun = false) (w : Word)
include reaches rested

/-- A write of PMCSR that nothing holds takes its state, D0 or D3hot, and its PME enable. -/
theorem configRequest_pmCsr_free (free : (Word.field w 0 2 = 0 ∧ s.holdsD3 = false) ∨ Word.field w 0 2 = 3) :
    Completes (.configRequest .pmCsr (some w)) s fun t =>
      t.bit F.SYS_HL_STATUS_D3HOT = decide (Word.field w 0 2 = 3) ∧ t.hl.pmeEn = w.getLsbD 8 := by
  have unheld : (s.holdsD3 && !(Word.field w 0 2 != 0)) = false := by
    rcases free with ⟨-, none'⟩ | d3
    · simp [none']
    · simp [d3]
  have offered : Word.field w 0 2 = 0 ∨ Word.field w 0 2 = 3 := free.imp_left And.left
  have written : s.cfgWrite .pmCsr w =
      (s.pmeWritten w).functionState (Word.field w 0 2 == 3) (s.bit F.SYS_HL_STATUS_BME) := by
    rw [State.cfgWrite]
    dsimp only
    rw [State.unlessD3, State.unlessHeld, unheld, if_neg Bool.false_ne_true, if_pos offered]
    rfl
  obtain ⟨hl, d3hot, -⟩ := (s.pmeWritten w).functionState_sets (Word.field w 0 2 == 3) (s.bit F.SYS_HL_STATUS_BME)
  refine ⟨_, exec_configRequest_write reaches rested w .pmCsr, ?_⟩
  rw [written]
  exact ⟨(State.bit_answer _ _ _ _ _).trans d3hot, congrArg HostPort.pmeEn hl⟩

/-- A write of the MSI-X control enables messages unless they are masked. -/
theorem configRequest_msixCtl : Completes (.configRequest .msixCtl (some w)) s fun t =>
    t.bit F.SYS_HL_STATUS_MSIX_EN = (w.getLsbD 31 && !w.getLsbD 30) := by
  let v := (s.msixWritten w).putb F.SYS_HL_STATUS_MSIX_EN (w.getLsbD 31 && !w.getLsbD 30)
  have written : s.cfgWrite .msixCtl w = v.sendAllHeld := by
    rw [State.cfgWrite]
    rfl
  have set : v.bit F.SYS_HL_STATUS_MSIX_EN = (w.getLsbD 31 && !w.getLsbD 30) := State.bit_putb _ _ _ (by decide) rfl
  refine ⟨_, exec_configRequest_write reaches rested w .msixCtl, ?_⟩
  rw [written]
  exact (State.bit_answer _ _ _ _ _).trans ((v.sameLink_sendAllHeld.bit rfl).trans set)

end

/-- A configuration request waits with retry status until a power-on or cold sequence ends. -/
theorem configRequest_retries {s : State} (r : CfgReg) (running : s.seqRun = true) (cold : s.clk.level ≠ .warm) :
    Completes (.configRequest r none) s fun t => t = { s with resp := ⟨[], false, 2⟩ } := by
  refine ⟨_, ?_, rfl⟩
  change execConfigRequest r none s = _
  rw [execConfigRequest, if_pos (by simp [running, cold])]
  rfl

/-! ## Violations (12 R364) -/

section
variable {s : State} (reaches : s.linkReaches = true)
include reaches

/-- A malformed packet is discarded and counted as uncorrectable. -/
theorem tlpViolation_malformed : Completes (.tlpViolation .malformed) s fun t => s.counted t F.SYS_HL_UNCORR_V := by
  have log := s.linkViolation_same 1 0
  obtain ⟨u, report, eq⟩ := (s.linkViolation 1 0).reportError_counts .malformed false
  refine ⟨u.bump F.SYS_HL_UNCORR_V, ?_, ?_⟩
  · change execTlpViolation .malformed s = _
    rw [execTlpViolation, if_neg (by simp [reaches])]
    exact congrArg Host.Outcome.next eq
  · beta_reduce
    rw [State.counted, ← log.g (f := F.SYS_HL_UNCORR_V) (by decide) (not_routerReg_below (by decide))]
    exact State.counted_report _ report (by decide)

/-- An unsupported request that awaits a completion is reported and answered. -/
theorem tlpViolation_unsupported (a : Word) : Completes (.tlpViolation (.unsupported false a)) s fun t =>
    s.counted t (if s.errorFatal .unsupported then F.SYS_HL_UNCORR_V else F.SYS_HL_CORR_V) ∧ t.resp = ⟨[], false, 1⟩ := by
  obtain ⟨resp, counted⟩ := s.linkUnsupported_reports a.toNat
  refine ⟨s.linkUnsupported true a.toNat, ?_, counted, resp⟩
  change execTlpViolation (.unsupported false a) s = _
  rw [execTlpViolation, if_neg (by simp [reaches])]
  rfl

end

end Sys2Proof.Machine

open Sys2Proof.Machine in
/-- Settles O49: a request that nothing holds back is served by the door it came through (`State.hostRequest_served`),
and the doors do what a register access and a memory access do, where log entries 59, 68, 69, 71 and 74 leave the choice. -/
theorem hostRequests : Obligations.HostRequests := by
  unfold Obligations.HostRequests
  intro s n bs w port write advisory steady clean awake
  refine ⟨fun reaches d0 up still => ?_, fun off => ⟨fun away => ?_, fun reaches d3 => ?_,
      fun reaches d0 rested still waits => ⟨_, rfl, State.hostRequest_held reaches d0 rested still waits⟩⟩,
    fun r running cold => configRequest_retries r running cold, fun reaches rested => ⟨configRequest_ids reaches rested,
      configRequest_command reaches rested w, fun held no3 no1 no2 => ?_, configRequest_pmCsr_free reaches rested w,
      configRequest_msixCtl reaches rested w, tlpViolation_malformed reaches, tlpViolation_unsupported reaches⟩⟩
  · obtain ⟨rested, on, first, clear, clocked⟩ := up
    have served (x : HeldAccess) : s.hostRequest x = (s.serveHost x).runSteps :=
      State.hostRequest_served reaches d0 rested on first clear clocked
    have whole : clean → s.Serves := fun ⟨ce, ue, unwiped, core⟩ => ⟨⟨ce, ue⟩, rested, core, unwiped⟩
    refine ⟨fun off reg place => ⟨⟨_, rfl, ?_⟩, ⟨_, rfl, ?_⟩⟩,
      fun off cleaned low => ⟨fun high => ⟨_, rfl, ?_⟩, fun high => ⟨_, rfl, ?_⟩⟩,
      fun cleaned low => ⟨fun pos high => ⟨_, rfl, ?_⟩, fun some' high => ⟨_, rfl, ?_⟩⟩,
      fun pos regs odd => ⟨_, rfl, ?_⟩⟩
    · rw [served, place]
      exact State.bar0_reads reg still
    · rw [served, place]
      exact State.bar0_writes reg w rested
    · rw [served]
      exact State.bar2_reads (whole cleaned) still ⟨low, high⟩
    · have written : (s.serveHost (.bar2 off.toNat bs.length write)).runSteps = s.setBytes off.toNat bs :=
        State.bar2_writes (whole cleaned) still ⟨low, high⟩
      rw [served, written]
      exact ⟨s.setBytes_frame _ _, s.stored_setBytes _ _⟩
    · rw [served]
      exact State.dataPort_reads rested still (whole cleaned) pos low high
    · rw [served]
      exact State.dataPort_writes rested still (whole cleaned) clear some' low high
    · rw [served]
      exact State.dataPort_refuses rested still pos regs odd
  · refine ⟨s, ?_, rfl⟩
    change execBar0Access off n none s = _
    rw [execBar0Access, State.hostRequest, if_pos (by simp [away])]
  · obtain ⟨resp, counted⟩ := s.linkUnsupported_reports off.toNat
    refine ⟨s.linkUnsupported true off.toNat, ?_, resp, counted⟩
    change execBar0Access off n none s = _
    rw [execBar0Access, State.hostRequest, if_neg (by simp [reaches]), if_pos d3]
    rfl
  · have low : Word.field w 0 2 < 2 ^ 2 := Word.field_lt _ _ _
    exact configRequest_pmCsr_held reaches rested w held (by omega)
end

section
/-!
PROOFS. The raster supply of a bar: what a change of it leaves alone, what the watch over its lines leaves alone, and bytes
of a plain stream that land in a line slot or wait (04 R106, R107); O31.
-/

namespace Sys2Proof.Machine

/-! ## A change of the raster supply -/

section
variable (s : State) (n : Fin 32) (f : Rsp → Rsp)

@[simp] theorem State.rsp_modRsp : (s.modRsp n f).rsp n = f (s.rsp n) := by
  simp [State.rsp, State.modRsp]

@[simp] theorem State.modRsp_mem : (s.modRsp n f).mem = s.mem := rfl

@[simp] theorem State.g_modRsp (e : Field) : (s.modRsp n f).g e = s.g e := rfl

@[simp] theorem State.rsp_put (e : Field) (v : Nat) : (s.put e v).rsp n = s.rsp n := by
  rw [State.rsp, State.bar_put, State.rsp]

/-- Two changes of one raster supply are one. -/
theorem State.modRsp_modRsp (g : Rsp → Rsp) : (s.modRsp n f).modRsp n g = s.modRsp n fun r => g (f r) :=
  s.modBar_modBar n _ _

variable {s} in
theorem State.NoErrors.modRsp (clean : s.NoErrors) : (s.modRsp n f).NoErrors := clean.of_same rfl rfl

variable {s} in
theorem State.NoErrors.setBytes (clean : s.NoErrors) (a : Nat) (bs : List Byte) : (s.setBytes a bs).NoErrors :=
  clean.of_same (by rw [State.setBytes_frame]) (by rw [State.setBytes_frame])

@[simp] theorem State.rsp_setBytes (a : Nat) (bs : List Byte) : (s.setBytes a bs).rsp n = s.rsp n := by
  rw [State.setBytes_frame]; rfl

end

/-- What is stored, in a state with the same memory. -/
theorem State.stored.of_mem {s t u : State} {a : Nat} {bs : List Byte} (h : s.stored t a bs) (mem : u.mem = t.mem) :
    s.stored u a bs := fun x => (State.byteAt_of_mem mem x).trans (h x)

/-! ## The watch over a bar's lines (04 R120, R127) -/

/-- `t` is `u` but for LOW_LEAD and READY of bar `n`, and for what their events change. -/
structure State.Watched (u t : State) (n : Fin 32) : Prop where
  mem : t.mem = u.mem
  rsp : t.rsp n = u.rsp n
  g : ∀ e : Field, e.Apart (F.FPE_LCAUSE_LOW_LEAD n) → e.Apart (F.FPE_LCAUSE_READY n) → ¬ routerReg e.off → t.g e = u.g e

/-- A change of a bar's lines under watch is the change, and causes. -/
theorem State.watched (s : State) (n : Fin 32) (f : State → State) : (f s).Watched (s.watchLines n f) n := by
  obtain ⟨x, y, eq⟩ := s.watchLines_causes n f
  rw [eq]
  constructor
  case mem => rw [State.setCauseIf_frame, State.setCauseIf_frame]
  case rsp => rw [State.rsp, State.bar_setCauseIf, State.bar_setCauseIf, State.rsp]
  case g =>
    intro e low ready hr
    rw [State.g_setCauseIf_of_apart _ _ y (Nat.le_of_ble_eq_true rfl) ready hr,
      State.g_setCauseIf_of_apart _ _ x (Nat.le_of_ble_eq_true rfl) low hr]

/-- A command that changes a bar's lines under watch. -/
theorem completes_watched {c : Sys2Proof.Instr} {s u : State} {n : Fin 32} {f : State → State} {P : State → Prop}
    (runs : exec c s = .next (s.watchLines n f)) (does : f s = u) (holds : ∀ t, u.Watched t n → P t) : Completes c s P :=
  ⟨_, runs, holds _ (does ▸ s.watched n f)⟩

/-! ## Bytes in a line slot (04 R107) -/

/-- The slots when a line becomes ready. -/
def readied (l : List SlotLine) (j : Nat) : List SlotLine :=
  l.map fun x => if x.line = j then { x with ready := true } else x

section
variable (s : State) (n : Fin 32) (j : Nat)

@[simp] theorem State.lineBecomesReady_mem : (s.lineBecomesReady n j).mem = s.mem := by
  rw [State.lineBecomesReady, State.put_mem, State.modRsp_mem]

@[simp] theorem State.rsp_lineBecomesReady :
    (s.lineBecomesReady n j).rsp n = { s.rsp n with slots := readied (s.rsp n).slots j } := by
  rw [State.lineBecomesReady, State.rsp_put, State.rsp_modRsp, readied]

end

/-- The bytes of a stream line that are written once bytes `b .. b+len-1` are, as a mask. -/
def Rsp.written (r : Rsp) (j b len : Nat) : BitVec 20480 := ((r.slot j).map (·.mask)).getD 0#20480 ||| byteMask b len

/-- The raster supply once bytes `b .. b+len-1` of a stream line are in its slot: the line is ready when all are. -/
def Rsp.landed (r : Rsp) (j b len : Nat) : Rsp :=
  { r with slots := (r.slots.filter fun x => x.line != j)
      ++ [⟨j, r.written j b len, decide (r.written j b len = BitVec.allOnes 20480)⟩] }

/-- A line that has become ready is ready. -/
theorem ready_of_mem_readied {l : List SlotLine} {j : Nat} {x : SlotLine} (named : x ∈ readied l j) (here : x.line = j) :
    x.ready = true := by
  obtain ⟨y, -, rfl⟩ := List.mem_map.1 named
  by_cases same : y.line = j
  · rw [if_pos same]
  · rw [if_neg same] at here
    exact absurd here same

/-- A line whose slot is the last of a list, and the only one of it, becomes ready. -/
theorem readied_of_last (l : List SlotLine) (j : Nat) (m : BitVec 20480) :
    readied ((l.filter fun x => x.line != j) ++ [⟨j, m, false⟩]) j = (l.filter fun x => x.line != j) ++ [⟨j, m, true⟩] := by
  have others : readied (l.filter fun x => x.line != j) j = l.filter fun x => x.line != j := by
    refine (List.map_congr_left fun x named => ?_).trans (List.map_id _)
    have other : x.line ≠ j := by simpa using (List.mem_filter.1 named).2
    rw [if_neg other, id]
  rw [readied, List.map_append, ← readied, others, List.map_cons, List.map_nil, if_pos rfl]

section
variable {s : State} {n : Fin 32} {j b : Nat} {bytes : List Byte} (clean : s.NoErrors)
include clean

/-- Bytes of one stream line are stored in its slot. -/
theorem State.NoErrors.landInSlot : s.stored (s.landInSlot n j b bytes) (slotAddr n j b) bytes
    ∧ (s.landInSlot n j b bytes).rsp n = (s.rsp n).landed j b bytes.length := by
  obtain ⟨m, hm⟩ : ∃ m, m = (s.rsp n).written j b bytes.length := ⟨_, rfl⟩
  obtain ⟨u, hu⟩ : ∃ u, u = (s.setBytes (slotAddr n j b) bytes).modRsp n fun r =>
    { r with slots := (r.slots.filter fun x => x.line != j) ++ [⟨j, m, false⟩] } := ⟨_, rfl⟩
  have eq : s.landInSlot n j b bytes = if m = BitVec.allOnes 20480 then u.lineBecomesReady n j else u := by
    rw [hu, hm, State.landInSlot, Rsp.written]
    dsimp only
    rw [clean.storeBytes, State.rsp_setBytes]
    cases (s.rsp n).slot j with
    | none => dsimp only [Option.map_none, Option.getD_none]
    | some x => dsimp only [Option.map_some, Option.getD_some]
  have stored : s.stored u (slotAddr n j b) bytes := by
    rw [hu]
    exact (s.stored_setBytes _ bytes).of_mem rfl
  rw [eq, Rsp.landed, ← hm]
  split
  case isTrue full =>
    refine ⟨stored.of_mem (u.lineBecomesReady_mem n j), ?_⟩
    rw [State.rsp_lineBecomesReady, hu, State.rsp_modRsp, State.rsp_setBytes, readied_of_last, decide_eq_true full]
  case isFalse part =>
    refine ⟨stored, ?_⟩
    rw [hu, State.rsp_modRsp, State.rsp_setBytes, decide_eq_false part]

end

theorem Rsp.slotOpen_iff (r : Rsp) (j : Nat) : r.slotOpen j = true ↔ j < r.release + 48 ∧ r.lineReady j = false := by
  simp [Rsp.slotOpen]

/-! ## Bytes of a plain stream (04 R106, R107) -/

section
variable {s : State} {n : Fin 32} {off : Nat} {bytes : List Byte}

/-- Bytes that lie in one stream line, which is not discarded: they land when its slot is open, and wait otherwise. -/
theorem State.landPlain_line (fuel : Nat) (some' : bytes ≠ []) (within : off % lineBytes + bytes.length ≤ lineBytes)
    (kept : (s.rsp n).discarded (off / lineBytes) = false) : State.landPlain n (fuel + 1) off bytes s =
      if (s.rsp n).slotOpen (off / lineBytes) then s.landInSlot n (off / lineBytes) (off % lineBytes) bytes
      else s.modRsp n fun r => { r with waiting := r.waiting ++ [⟨off, bytes⟩] } := by
  obtain ⟨b, bs, rfl⟩ := List.exists_cons_of_ne_nil some'
  have all : (b :: bs).length ≤ lineBytes - off % lineBytes := by omega
  have none' (u : State) (o : Nat) : State.landPlain n fuel o [] u = u := by cases fuel <;> rfl
  rw [State.landPlain]
  simp only [kept, Bool.false_eq_true, if_false, List.take_of_length_le all, List.drop_of_length_le all, none']

/-- A delivery of bytes to a plain stream. -/
theorem exec_rasterWrite_plain (quiet : s.seqRun = false) (on : s.up (barDomain n) = true)
    (plain : s.bit (F.RSP_CTL_FMT n) = false) : exec (.rasterWrite n off bytes) s =
      .next (s.watchLines n fun s => s.landRaster n off bytes)
      ∧ s.landRaster n off bytes = State.landPlain n (bytes.length / lineBytes + 2) off bytes s := by
  constructor
  · change execRasterWrite n off bytes s = _
    rw [execRasterWrite, if_neg (by simp [quiet, on])]
  · rw [State.landRaster, if_neg (by simp [plain])]

end

end Sys2Proof.Machine

open Sys2Proof.Machine in
/-- Settles O31: the bytes lie in one line, so that one piece lands or waits (`State.landPlain_line`). -/
theorem plainRasterLandsInItsSlot : Obligations.PlainRasterLandsInItsSlot := by
  unfold Obligations.PlainRasterLandsInItsSlot
  intro s n off bytes quiet on plain ce ue some' within r line old mask kept _ unready
  obtain ⟨exec, land⟩ := exec_rasterWrite_plain (off := off) (bytes := bytes) quiet on plain
  have piece := land.trans (State.landPlain_line _ some' within kept)
  refine ⟨fun near => ?_, fun far => ?_⟩
  · have lands := piece.trans (if_pos ((Rsp.slotOpen_iff _ _).2 ⟨near, unready⟩))
    obtain ⟨stored, supply⟩ := State.NoErrors.landInSlot (n := n) (j := line) (b := off % 20480) (bytes := bytes) ⟨ce, ue⟩
    refine completes_watched exec lands fun t watched => ?_
    have same := watched.rsp.trans supply
    have waiting : (t.rsp n).waiting = (s.rsp n).waiting := by rw [same, Rsp.landed]
    have slots : (t.rsp n).slots = ((s.rsp n).landed line (off % 20480) bytes.length).slots := by rw [same]
    exact ⟨stored.of_mem watched.mem, waiting, slots⟩
  · have waits := piece.trans (if_neg fun isOpen => Nat.not_lt.2 far ((Rsp.slotOpen_iff _ _).1 isOpen).1)
    exact completes_watched exec waits fun t watched => ⟨watched.mem, watched.rsp.trans (s.rsp_modRsp n _)⟩
end

section
/-!
PROOFS. The packed decoder's page headers and token headers, and its stream errors (04 R111-R114, R133); used for O32.
-/

namespace Sys2Proof.Machine

/-! ## Staged bytes (04 R109; 11 R347) -/

section
variable {s : State} (clean : s.NoErrors) (n : Fin 32) (k : Nat)
include clean

theorem State.NoErrors.stagedBad : s.stagedBad n k = false := by
  simp [State.stagedBad, clean.badAt]

/-- Staged bytes are consumed; where no write waits nothing lands behind them. -/
theorem State.NoErrors.consumeStage (none' : (s.rsp n).waiting = []) :
    s.consumeStage n k = s.modRsp n fun r => { r with stageOut := r.stageOut + k } := by
  have read : (List.range k).foldl (fun (s : State) i =>
      let a := stageAddr n ((s.rsp n).stageOut + i)
      if i = 0 ∨ a % 8 = 0 then s.readErrs a 1 else s) s = s := by
    refine List.foldl_fixed' (fun i => ?_) _
    dsimp only
    rw [clean.readErrs, ite_self]
  rw [State.consumeStage, read, if_pos (by rw [State.rsp_modRsp]; exact none')]

end

/-! ## Stream errors (04 R133) -/

/-- The stream of bar `n` is in error with a code, and memory is as before. -/
def State.StreamFails (s t : State) (n : Fin 32) (code : Nat) : Prop :=
  t.g (F.RSP_STATUS_DEC n) = 3 ∧ t.g (F.RSP_STATUS_ERR_DETAIL n) = code
    ∧ t.bit (F.FPE_LCAUSE_STREAM_ERR n) = true ∧ t.mem = s.mem

/-- The registers of a bar's status and of its causes lie apart. -/
theorem rspStatus_apart {e f : Field} (n : Fin 32) (he : e.off = A.RSP_STATUS n) (hf : f.off = A.FPE_LCAUSE n) :
    e.Apart f := by
  refine .inl ?_
  rw [he, hf]
  exact barOff_ne _ (by decide)

theorem not_routerReg_rspStatus {e : Field} (n : Fin 32) (he : e.off = A.RSP_STATUS n) : ¬ routerReg e.off := by
  rw [he]
  exact not_routerReg_above _ (by decide)

/-- The status of a bar's stream is as before under watch. -/
theorem State.Watched.status {u t : State} {n : Fin 32} (h : u.Watched t n) {e : Field} (he : e.off = A.RSP_STATUS n) :
    t.g e = u.g e :=
  h.g e (rspStatus_apart n he rfl) (rspStatus_apart n he rfl) (not_routerReg_rspStatus n he)

theorem State.StreamFails.watched {s u t : State} {n : Fin 32} {code : Nat} (h : s.StreamFails u n code)
    (w : u.Watched t n) : s.StreamFails t n code := by
  obtain ⟨state, detail, cause, mem⟩ := h
  refine ⟨(w.status rfl).trans state, (w.status rfl).trans detail, ?_, w.mem.trans mem⟩
  rw [State.bit, w.g _ (.inr (.inr (Nat.le_of_ble_eq_true rfl))) (.inr (.inl (Nat.le_of_ble_eq_true rfl)))
    (not_routerReg_above _ (by decide))]
  exact cause

section
variable (s : State) (n : Fin 32) (code : Nat)

/-- A stream error: its state, its code and its cause; the decoder stays where it is. -/
theorem State.streamError_fails (small : code < 16) :
    s.StreamFails (s.streamError n code) n code ∧ ((s.streamError n code).rsp n).dec = (s.rsp n).dec := by
  obtain ⟨serial, eq⟩ : ∃ serial, s.streamError n code = (((((s.modRsp n fun r =>
      { r with slots := r.slots.filter (·.ready), errSerial := serial }).put (F.RSP_STATUS_DEC n) 3).put
      (F.RSP_STATUS_ERR_DETAIL n) code).bump (F.RSP_STREAM_ERRS_V n)).setCause (F.FPE_LCAUSE_STREAM_ERR n)) := ⟨_, rfl⟩
  have counted (u : State) {e : Field} (he : e.off = A.RSP_STATUS n) :
      ((u.bump (F.RSP_STREAM_ERRS_V n)).setCause (F.FPE_LCAUSE_STREAM_ERR n)).g e = u.g e := by
    have other : e.off ≠ A.RSP_STREAM_ERRS n := by
      rw [he]
      exact barOff_ne _ (by decide)
    rw [State.g_setCause_of_apart _ (Nat.le_of_ble_eq_true rfl) (rspStatus_apart n he rfl)
      (not_routerReg_rspStatus n he)]
    exact State.g_put_other _ _ _ _ other
  rw [eq]
  refine ⟨⟨?_, ?_, ?_, ?_⟩, ?_⟩
  · rw [counted _ rfl, State.g_put_of_apart _ _ (Nat.le_of_ble_eq_true rfl) (.inr (.inl (Nat.le_of_ble_eq_true rfl))),
      State.g_put_same _ _ _ (Nat.le_of_ble_eq_true rfl)]
    rfl
  · rw [counted _ rfl, State.g_put_same _ _ _ (Nat.le_of_ble_eq_true rfl)]
    exact Nat.mod_eq_of_lt small
  · exact State.bit_setCause _ _ (Nat.le_of_ble_eq_true rfl) rfl (not_routerReg_above _ (by decide))
  · rw [State.setCause_mem, State.bump, State.bumpBy_mem, State.put_mem, State.put_mem, State.modRsp_mem]
  · rw [State.rsp, State.bar_setCause, State.bump, State.bar_bumpBy, ← State.rsp, State.rsp_put, State.rsp_put,
      State.rsp_modRsp]

end

/-! ## Page headers (04 R114) -/

theorem headerFault_le (h : List Byte) (d : DescCopy) : headerFault h d ≤ 3 := by
  unfold headerFault
  dsimp only
  split_ifs <;> omega

/-- The raster supply once a page has begun. -/
def Rsp.begun (r : Rsp) (d : DescCopy) (rest : List DescCopy) : Rsp :=
  { r with stageOut := r.stageOut + 16, copies := rest, dec := .tokens d 0 none none }

section
variable {s : State} {n : Fin 32} {d : DescCopy} {rest : List DescCopy}

theorem exec_packedPageHeader (live : s.decLive n = true) (dec : (s.rsp n).dec = .header)
    (staged : (s.rsp n).stageOut + 16 ≤ (s.rsp n).stageIn) :
    exec (.packedPageHeader n) s = .next (s.decodeHeader n) := by
  have here : 16 ≤ (s.rsp n).staged := Nat.le_sub_of_add_le' staged
  change execPackedPageHeader n s = _
  rw [execPackedPageHeader, if_pos (by simp [live, here, dec])]

theorem exec_waitDescEnd (waits : s.g (F.RSP_STATUS_DEC n) = 2) (pushed : (s.rsp n).copies = d :: rest)
    (staged : (s.rsp n).stageOut + 16 ≤ (s.rsp n).stageIn) :
    exec (.waitDescEnd n) s = .next (s.decodeHeader n) := by
  have here : 16 ≤ (s.rsp n).staged := Nat.le_sub_of_add_le' staged
  change execWaitDescEnd n s = _
  rw [execWaitDescEnd, if_pos (by simp [waits, here, pushed])]

/-- With no descriptor the decoder waits for one. -/
theorem State.decodeHeader_waits (none' : (s.rsp n).copies = []) : s.decodeHeader n = s.put (F.RSP_STATUS_DEC n) 2 := by
  rw [State.decodeHeader]
  dsimp only
  rw [none']

variable (clean : s.NoErrors) (pushed : (s.rsp n).copies = d :: rest)
include clean pushed

/-- A header that does not agree with its descriptor is a stream error. -/
theorem State.decodeHeader_fails (fault : headerFault (s.stagedBytes n 16) d ≠ 0) :
    s.decodeHeader n = s.streamError n (headerFault (s.stagedBytes n 16) d) := by
  rw [State.decodeHeader]
  dsimp only
  rw [pushed]
  dsimp only
  rw [clean.stagedBad, if_neg Bool.false_ne_true, if_pos fault]

/-- A header that agrees with its descriptor begins the page. -/
theorem State.decodeHeader_begins (none' : (s.rsp n).waiting = []) (agrees : headerFault (s.stagedBytes n 16) d = 0) :
    ((s.decodeHeader n).rsp n) = (s.rsp n).begun d rest ∧ (s.decodeHeader n).g (F.RSP_STATUS_DEC n) = 1
      ∧ (s.decodeHeader n).mem = s.mem := by
  have eq : s.decodeHeader n = ((s.modRsp n fun r => { r with stageOut := r.stageOut + 16 }).put
      (F.RSP_STATUS_DEC n) 1).modRsp n fun r => { r with copies := rest, dec := .tokens d 0 none none } := by
    rw [State.decodeHeader]
    dsimp only
    rw [pushed]
    dsimp only
    rw [clean.stagedBad, if_neg Bool.false_ne_true, if_neg (not_not.2 agrees), clean.consumeStage n 16 none']
  rw [eq]
  refine ⟨?_, ?_, ?_⟩
  · rw [State.rsp_modRsp, State.rsp_put, State.rsp_modRsp, Rsp.begun]
  · rw [State.g_modRsp, State.g_put_same _ _ _ (Nat.le_of_ble_eq_true rfl)]
    rfl
  · rw [State.modRsp_mem, State.put_mem, State.modRsp_mem]

end

/-! ## Token headers (04 R111, R113, R114) -/

/-- The kind of run that a token header's TYPE begins. -/
def runKind (ty : Nat) : RunKind := if ty = 0 then .literal else if ty = 1 then .zero else .copy

section
variable {s : State} (clean : s.NoErrors) {n : Fin 32} {d : DescCopy} {word : Nat} {line : Option Nat} {h : Nat}
  (header : leNat (s.stagedBytes n 2) = h)
include clean header

/-- A reserved token. -/
theorem State.tokenHeader_reserved (ty : h / 2 ^ 14 = 3) (k0 : h % 2 ^ 14 ≠ 0) (k1 : h % 2 ^ 14 ≠ 0x3FFF) :
    s.tokenHeader n d word line = s.streamError n 4 := by
  rw [State.tokenHeader, header]
  dsimp only
  rw [clean.stagedBad, if_neg Bool.false_ne_true, if_pos ⟨ty, k0, k1⟩]

/-- Any other token behind the last word but END. -/
theorem State.tokenHeader_late (token : h / 2 ^ 14 < 3 ∨ h = 0xC000) (last : word = d.lines * 1280) :
    s.tokenHeader n d word line = s.streamError n 7 := by
  have known : ¬ (h / 2 ^ 14 = 3 ∧ h % 2 ^ 14 ≠ 0 ∧ h % 2 ^ 14 ≠ 0x3FFF) := by omega
  have more : ¬ (h / 2 ^ 14 = 3 ∧ h % 2 ^ 14 = 0x3FFF) := by omega
  rw [State.tokenHeader, header]
  dsimp only
  rw [clean.stagedBad, if_neg Bool.false_ne_true, if_neg known, if_pos last, if_neg more]

/-- END before the last word. -/
theorem State.tokenHeader_early (token : h = 0xFFFF) (more : word ≠ d.lines * 1280) :
    s.tokenHeader n d word line = s.streamError n 6 := by
  have known : ¬ (h / 2 ^ 14 = 3 ∧ h % 2 ^ 14 ≠ 0 ∧ h % 2 ^ 14 ≠ 0x3FFF) := by omega
  rw [State.tokenHeader, header]
  dsimp only
  rw [clean.stagedBad, if_neg Bool.false_ne_true, if_neg known, if_neg more, if_pos (by omega)]

/-- A run past the last word. -/
theorem State.tokenHeader_long (ty : h / 2 ^ 14 < 3) (more : word < d.lines * 1280)
    (past : d.lines * 1280 < word + h % 2 ^ 14 + 1) : s.tokenHeader n d word line = s.streamError n 5 := by
  rw [State.tokenHeader, header]
  dsimp only
  rw [clean.stagedBad, if_neg Bool.false_ne_true, if_neg (by omega), if_neg (by omega), if_neg (by omega),
    if_neg (by omega), if_pos past]

variable (none' : (s.rsp n).waiting = [])
include none'

/-- A padding token is skipped. -/
theorem State.tokenHeader_padding (token : h = 0xC000) (more : word < d.lines * 1280) :
    s.tokenHeader n d word line = s.modRsp n fun r => { r with stageOut := r.stageOut + 2 } := by
  rw [State.tokenHeader, header]
  dsimp only
  rw [clean.stagedBad, if_neg Bool.false_ne_true, if_neg (by omega), if_neg (by omega), if_neg (by omega),
    if_pos (by omega), clean.consumeStage n 2 none']

/-- END behind the last word ends the page. -/
theorem State.tokenHeader_end (token : h = 0xFFFF) (last : word = d.lines * 1280) :
    s.tokenHeader n d word line = ((s.modRsp n fun r => { r with stageOut := r.stageOut + 2 }).put
      (F.RSP_STATUS_DEC n) 0).modRsp n fun r => { r with dec := .header } := by
  rw [State.tokenHeader, header]
  dsimp only
  rw [clean.stagedBad, if_neg Bool.false_ne_true, if_neg (by omega), if_pos last, if_pos (by omega),
    clean.consumeStage n 2 none']

/-- A token header begins a run of N + 1 words. -/
theorem State.tokenHeader_run (ty : h / 2 ^ 14 < 3) (fits : word + h % 2 ^ 14 + 1 ≤ d.lines * 1280) :
    s.tokenHeader n d word line = s.modRsp n fun r => { r with
      stageOut := r.stageOut + 2, dec := .tokens d word (some (runKind (h / 2 ^ 14), h % 2 ^ 14 + 1)) line } := by
  rw [State.tokenHeader, header]
  dsimp only
  rw [clean.stagedBad, if_neg Bool.false_ne_true, if_neg (by omega), if_neg (by omega), if_neg (by omega),
    if_neg (by omega), if_neg (by omega), clean.consumeStage n 2 none', State.modRsp_modRsp, runKind]

end

end Sys2Proof.Machine
end

section
/-!
PROOFS. The words of a run of the packed decoder (04 R111-R115, R133; 11 R345); used for O32.
-/

namespace Sys2Proof.Machine

/-! ## Memory written in pieces -/

/-- Bytes stored behind one another are stored as one piece. -/
theorem State.setBytes_append (s : State) (a : Nat) (bs cs : List Byte) :
    (s.setBytes a bs).setBytes (a + bs.length) cs = s.setBytes a (bs ++ cs) := by
  induction bs generalizing s a with
  | nil => rfl
  | cons b bs ih =>
    rw [List.cons_append, State.setBytes, State.setBytes, ← ih, List.length_cons]
    congr 1
    omega

/-- A piece stored behind another one. -/
theorem State.stored.append {s t u : State} {a : Nat} {bs cs : List Byte} (h : s.stored t a bs)
    (h' : t.stored u (a + bs.length) cs) : s.stored u a (bs ++ cs) := by
  intro x
  rw [h' x, h x, List.length_append]
  by_cases first : x < a + bs.length
  · rw [if_neg (by omega)]
    by_cases low : a ≤ x
    · rw [if_pos ⟨low, first⟩, if_pos (by omega), List.getD_append _ _ _ _ (by omega)]
    · rw [if_neg (by omega), if_neg (by omega)]
  · by_cases last : x < a + bs.length + cs.length
    · rw [if_pos (by omega), if_pos (by omega), List.getD_append_right _ _ _ _ (by omega), Nat.sub_sub]
    · rw [if_neg (by omega), if_neg (by omega), if_neg (by omega)]

/-- Nothing stored. -/
theorem State.stored_nil (s : State) (a : Nat) : s.stored s a [] := by
  intro x
  rw [if_neg (by rw [List.length_nil]; omega)]

/-- Port B writes nothing in a cycle that none of its writes names. -/
theorem State.portB_idle (s : State) (b : Fin 116) {pb : List PortBWrite} {k : Nat} (wrote : Option Nat)
    (idle : ∀ x ∈ pb, x.word ≠ k) : s.portB b pb k wrote = s := by
  have missed : pb.find? (fun p => p.word == k) = none := List.find?_eq_none.2 fun x hx => by simpa using idle x hx
  simp [State.portB, portBAt, missed]

/-- The two 64-bit words of a word of a run are stored as one piece, where port B is idle. -/
theorem State.NoErrors.storeHalves {s : State} (clean : s.NoErrors) (b : Fin 116) {pb : List PortBWrite} {k : Nat}
    (idle : ∀ x ∈ pb, k + 2 ≤ x.word) (a : Nat) {bs : List Byte} (whole : bs.length = 16) (x y : Option Nat) :
    (((s.storeBytes a (bs.take 8)).portB b pb k x).storeBytes (a + 8) (bs.drop 8)).portB b pb (k + 1) y
      = s.setBytes a bs := by
  have first : (bs.take 8).length = 8 := by rw [List.length_take, whole]; rfl
  have idle0 : ∀ x ∈ pb, x.word ≠ k := fun x hx => by have := idle x hx; omega
  have idle1 : ∀ x ∈ pb, x.word ≠ k + 1 := fun x hx => by have := idle x hx; omega
  rw [clean.storeBytes, State.portB_idle _ _ _ idle0, (clean.setBytes _ _).storeBytes, State.portB_idle _ _ _ idle1]
  have both := s.setBytes_append a (bs.take 8) (bs.drop 8)
  rwa [first, List.take_append_drop] at both

/-! ## What a run produces (04 R111, R112) -/

/-- The bytes of the next word of a run. -/
def State.runBytes (s : State) (n : Fin 32) (d : DescCopy) (word : Nat) : RunKind → List Byte
  | .literal => s.stagedBytes n 16
  | .zero => List.replicate 16 0#8
  | .copy => s.previousWord n d word

/-- The staged bytes that a word of a run consumes. -/
def RunKind.used : RunKind → Nat
  | .literal => 16
  | .zero => 0
  | .copy => 0

/-- The run in progress with `m` words left. -/
def runLeft (k : RunKind) (m : Nat) : Option (RunKind × Nat) := if m = 0 then none else some (k, m)

theorem runLeft_zero (k : RunKind) : runLeft k 0 = none := rfl

theorem runLeft_succ (k : RunKind) (m : Nat) : runLeft k (m + 1) = some (k, m + 1) := rfl

section
variable (s : State) (n : Fin 32) (d : DescCopy) (word : Nat)

theorem State.runBytes_length (k : RunKind) : (s.runBytes n d word k).length = 16 := by
  cases k with
  | literal => simp [State.runBytes, State.stagedBytes]
  | zero => simp [State.runBytes]
  | copy =>
    simp only [State.runBytes, State.previousWord]
    split <;> simp

variable {s d word}

/-- Before page line 0 there are zeros. -/
theorem State.previousWord_first (first : word < 1280) : s.previousWord n d word = List.replicate 16 0#8 := by
  rw [State.previousWord]
  exact if_pos (Nat.div_eq_of_lt first)

/-- The word of the same index in the page line before. -/
theorem State.NoErrors.previousWord (clean : s.NoErrors) (later : 1280 ≤ word) : s.previousWord n d word =
    (List.range 16).map fun i => s.byteAt (slotAddr n (d.base + (word / 1280 - 1)) (16 * (word % 1280)) + i) := by
  have line : 1 ≤ word / 1280 := (Nat.one_le_div_iff (by decide)).2 later
  rw [State.previousWord]
  dsimp only
  rw [if_neg (by omega)]
  refine List.map_congr_left fun i _ => ?_
  rw [clean.badAt, if_neg Bool.false_ne_true, Nat.add_sub_assoc line, slotAddr, slotAddr, Nat.add_assoc _ _ i]

theorem State.NoErrors.readPrevious (clean : s.NoErrors) : s.readPrevious n d word = s := by
  rw [State.readPrevious, clean.readErrs, ite_self]

end

/-! ## The steps of a run (04 R111, R115) -/

/-- The bytes of word `c` of page line `l` are written, and the run goes on with `run`. -/
def State.wroteWord (s : State) (n : Fin 32) (d : DescCopy) (l c : Nat) (bs : List Byte) (used : Nat)
    (run : Option (RunKind × Nat)) : State :=
  (s.setBytes (slotAddr n (d.base + l) (16 * c)) bs).modRsp n fun r => { r with
    slots := r.slots.map fun x => if x.line = d.base + l then { x with mask := x.mask ||| byteMask (16 * c) 16 } else x
    stageOut := r.stageOut + used
    dec := .tokens d (1280 * l + c + 1) run (some l) }

section
variable {s : State} {n : Fin 32} {pb : List PortBWrite} {d : DescCopy} {fuel wrote : Nat}

/-- Where no run is in progress nothing is produced. -/
theorem State.runWords_idle (idle : ∀ d w x l, (s.rsp n).dec ≠ .tokens d w (some x) l) :
    State.runWords n pb fuel wrote s = s := by
  cases fuel with
  | zero => rfl
  | succ fuel =>
    rw [State.runWords]
    dsimp only
    split
    case h_1 d w k left l dec => exact absurd dec (idle d w (k, left) l)
    case h_2 => rfl

/-- A run whose line has not begun waits. -/
theorem State.runWords_unbegun {word m : Nat} {k : RunKind} (dec : (s.rsp n).dec = .tokens d word (some (k, m + 1)) none)
    (kept : (s.rsp n).discarded (d.base + word / 1280) = false) : State.runWords n pb (fuel + 1) wrote s = s := by
  rw [State.runWords]
  dsimp only
  rw [dec]
  dsimp only
  rw [kept, if_neg (Nat.succ_ne_zero m), if_pos (by rfl)]

variable {l c m : Nat} {k : RunKind}

/-- A literal run whose bytes are not staged waits for them. -/
theorem State.runWords_unstaged (dec : (s.rsp n).dec = .tokens d (1280 * l + c) (some (.literal, m + 1)) (some l))
    (place : c < 1280) (short : (s.rsp n).stageIn < (s.rsp n).stageOut + 16) :
    State.runWords n pb (fuel + 1) wrote s = s := by
  have line : (1280 * l + c) / 1280 = l := by omega
  have less : (s.rsp n).staged < 16 := by rw [Rsp.staged]; omega
  rw [State.runWords]
  dsimp only
  rw [dec]
  dsimp only
  rw [line, if_neg (Nat.succ_ne_zero m), if_neg (by simp), if_pos ⟨rfl, less⟩]

/-- The next word of a run is written to its line, which is the one in progress. -/
theorem State.NoErrors.runWords_word (clean : s.NoErrors) (place : c < 1280)
    (dec : (s.rsp n).dec = .tokens d (1280 * l + c) (runLeft k (m + 1)) (some l))
    (kept : (s.rsp n).discarded (d.base + l) = false) (idle : ∀ x ∈ pb, wrote + 2 ≤ x.word)
    (staged : k = .literal → (s.rsp n).waiting = [] ∧ (s.rsp n).stageOut + 16 ≤ (s.rsp n).stageIn) :
    State.runWords n pb (fuel + 1) wrote s = State.runWords n pb fuel (wrote + 2)
      (s.wroteWord n d l c (s.runBytes n d (1280 * l + c) k) k.used (runLeft k m)) := by
  have line : (1280 * l + c) / 1280 = l := by omega
  have column : (1280 * l + c) % 1280 = c := by omega
  have whole := s.runBytes_length n d (1280 * l + c) k
  have left : (if m + 1 = 1 then none else some (k, m + 1 - 1)) = runLeft k m := by simp [runLeft]
  rw [State.runWords]
  dsimp only
  rw [dec, runLeft_succ]
  dsimp only
  rw [line, column, kept, left, if_neg (Nat.succ_ne_zero m)]
  rw [clean.readPrevious, ite_self]
  simp only [Bool.not_false, Bool.true_and, bne_self_eq_false, Bool.false_eq_true, if_false, clean.stagedBad, and_false]
  cases k with
  | literal =>
    obtain ⟨none', there⟩ := staged rfl
    have enough : ¬ (s.rsp n).staged < 16 := by rw [Rsp.staged]; omega
    dsimp only [State.runBytes] at whole
    rw [if_neg (not_and_of_not_right _ enough), if_pos rfl, clean.storeHalves _ idle _ whole,
      ((clean.setBytes _ _).modRsp _ _).consumeStage _ _ (by rw [State.rsp_modRsp, State.rsp_setBytes]; exact none'),
      State.modRsp_modRsp, State.modRsp_modRsp]
    rfl
  | zero =>
    dsimp only [State.runBytes] at whole
    rw [if_neg (by simp), if_neg (by simp), clean.storeHalves _ idle _ whole, State.modRsp_modRsp]
    rfl
  | copy =>
    dsimp only [State.runBytes] at whole
    rw [if_neg (by simp), if_neg (by simp), clean.storeHalves _ idle _ whole, State.modRsp_modRsp]
    rfl

end

/-! ## Whole runs (04 R111, R112) -/

/-- A run has written `m` words, the bytes `bs`, from word `c` of page line `l` on, consumed `used` staged bytes, and is
done. -/
structure State.RunDone (s t : State) (n : Fin 32) (d : DescCopy) (l c m : Nat) (bs : List Byte) (used : Nat) : Prop where
  stored : s.stored t (slotAddr n (d.base + l) (16 * c)) bs
  dec : (t.rsp n).dec = .tokens d (1280 * l + c + m) none (some l)
  stageOut : (t.rsp n).stageOut = (s.rsp n).stageOut + used

theorem State.RunDone.watched {s t u : State} {n : Fin 32} {d : DescCopy} {l c m : Nat} {bs : List Byte} {used : Nat}
    (h : s.RunDone u n d l c m bs used) (w : u.Watched t n) : s.RunDone t n d l c m bs used := by
  obtain ⟨stored, dec, stageOut⟩ := h
  exact ⟨stored.of_mem w.mem, by rw [w.rsp, dec], by rw [w.rsp, stageOut]⟩

section
variable {s : State} {n : Fin 32} {pb : List PortBWrite} {d : DescCopy} {l c : Nat}

/-- A state in which no run is in progress produces no more words. -/
theorem State.runWords_done {fuel wrote w : Nat} {line : Option Nat} (dec : (s.rsp n).dec = .tokens d w none line) :
    State.runWords n pb fuel wrote s = s := by
  refine State.runWords_idle fun d' w' x l' run => ?_
  rw [dec] at run
  cases run

section
variable {bs : List Byte} {used : Nat} {run : Option (RunKind × Nat)}

theorem State.stored_wroteWord : s.stored (s.wroteWord n d l c bs used run) (slotAddr n (d.base + l) (16 * c)) bs :=
  (s.stored_setBytes _ bs).of_mem (State.modRsp_mem _ n _)

theorem State.dec_wroteWord : ((s.wroteWord n d l c bs used run).rsp n).dec = .tokens d (1280 * l + c + 1) run (some l) := by
  rw [State.wroteWord, State.rsp_modRsp]

theorem State.stageOut_wroteWord :
    ((s.wroteWord n d l c bs used run).rsp n).stageOut = (s.rsp n).stageOut + used := by
  rw [State.wroteWord, State.rsp_modRsp, State.rsp_setBytes]

/-- A word written changes no line that is discarded. -/
theorem State.discarded_wroteWord (j : Nat) :
    ((s.wroteWord n d l c bs used run).rsp n).discarded j = (s.rsp n).discarded j := by
  rw [State.wroteWord, State.rsp_modRsp, State.rsp_setBytes]
  rfl

end

/-- The last word of a run. -/
theorem State.NoErrors.runWords_last (clean : s.NoErrors) {k : RunKind} {wrote : Nat} (place : c < 1280)
    (dec : (s.rsp n).dec = .tokens d (1280 * l + c) (some (k, 1)) (some l))
    (kept : (s.rsp n).discarded (d.base + l) = false) (idle : ∀ x ∈ pb, wrote + 2 ≤ x.word)
    (staged : k = .literal → (s.rsp n).waiting = [] ∧ (s.rsp n).stageOut + 16 ≤ (s.rsp n).stageIn) :
    s.RunDone (State.runWords n pb 2 wrote s) n d l c 1 (s.runBytes n d (1280 * l + c) k) k.used := by
  rw [clean.runWords_word place dec kept idle staged, runLeft_zero, State.runWords_done State.dec_wroteWord]
  exact ⟨State.stored_wroteWord, State.dec_wroteWord, State.stageOut_wroteWord⟩

/-- A zero run writes zeros. -/
theorem State.NoErrors.runWords_zeros (m : Nat) : ∀ {s : State} {c wrote : Nat}, s.NoErrors → c + m ≤ 1280 →
    (s.rsp n).dec = .tokens d (1280 * l + c) (runLeft .zero m) (some l) → (s.rsp n).discarded (d.base + l) = false →
    (∀ x ∈ pb, wrote + 2 * m ≤ x.word) →
    s.RunDone (State.runWords n pb (m + 1) wrote s) n d l c m (List.replicate (16 * m) 0#8) 0 := by
  induction m with
  | zero =>
    intro s c wrote clean place dec kept idle
    rw [State.runWords_done dec]
    exact ⟨s.stored_nil _, dec, rfl⟩
  | succ m ih =>
    intro s c wrote clean place dec kept idle
    have now : ∀ x ∈ pb, wrote + 2 ≤ x.word := fun x hx => by have := idle x hx; omega
    have later : ∀ x ∈ pb, wrote + 2 + 2 * m ≤ x.word := fun x hx => by have := idle x hx; omega
    have first := clean.runWords_word (fuel := m + 1) (by omega) dec kept now nofun
    rw [State.runBytes, RunKind.used] at first
    obtain ⟨u, hu⟩ : ∃ u, u = s.wroteWord n d l c (List.replicate 16 0#8) 0 (runLeft .zero m) := ⟨_, rfl⟩
    rw [← hu] at first
    have decU : (u.rsp n).dec = .tokens d (1280 * l + (c + 1)) (runLeft .zero m) (some l) := by
      rw [hu, State.dec_wroteWord]; rfl
    have storedU : s.stored u (slotAddr n (d.base + l) (16 * c)) (List.replicate 16 0#8) := by
      rw [hu]; exact State.stored_wroteWord
    have cleanU : u.NoErrors := by rw [hu]; exact (clean.setBytes _ _).modRsp _ _
    have keptU : (u.rsp n).discarded (d.base + l) = false := by rw [hu, State.discarded_wroteWord, kept]
    have outU : (u.rsp n).stageOut = (s.rsp n).stageOut := by rw [hu, State.stageOut_wroteWord, Nat.add_zero]
    obtain ⟨stored, dec', stageOut⟩ := ih cleanU (by omega) decU keptU later
    have zeros : List.replicate (16 * (m + 1)) 0#8 = List.replicate 16 0#8 ++ List.replicate (16 * m) (0#8 : Byte) := by
      rw [List.replicate_append_replicate, Nat.mul_succ, Nat.add_comm]
    rw [first]
    have last : 1280 * l + (c + 1) + m = 1280 * l + c + (m + 1) := by omega
    have next : slotAddr n (d.base + l) (16 * (c + 1)) =
        slotAddr n (d.base + l) (16 * c) + (List.replicate 16 (0#8 : Byte)).length := by
      rw [List.length_replicate, slotAddr, slotAddr, Nat.mul_succ 16 c, Nat.add_assoc _ _ 16]
    rw [next] at stored
    refine ⟨?_, by rw [dec', last], by rw [stageOut, outU]⟩
    rw [zeros]
    exact storedU.append stored

end

/-! ## The commands that take tokens and go on with runs (04 R111-R115) -/

section
variable {s : State} {n : Fin 32} {pb : List PortBWrite} {d : DescCopy} {word : Nat} {line : Option Nat}

theorem exec_packedToken_header (live : s.decLive n = true) (dec : (s.rsp n).dec = .tokens d word none line)
    (staged : (s.rsp n).stageOut + 2 ≤ (s.rsp n).stageIn) (more : ∀ l, line = some l → word ≠ (l + 1) * 1280) :
    exec (.packedToken n pb) s =
      .next (s.watchLines n fun s => State.runWords n pb 16384 0 (s.tokenHeader n d word line)) := by
  have here : ¬ (s.rsp n).staged < 2 := by rw [Rsp.staged]; omega
  have part : lineComplete word line = false := by
    cases line with
    | none => rfl
    | some l => simpa [lineComplete] using more l rfl
  change execPackedToken n s pb = _
  rw [execPackedToken, if_neg (by simp [live]), dec]
  dsimp only
  rw [if_neg (by simp [here, part])]

theorem exec_packedToken_run {k : RunKind} {left : Nat} (live : s.decLive n = true)
    (dec : (s.rsp n).dec = .tokens d word (some (k, left)) line) :
    exec (.packedToken n pb) s = .next (s.watchLines n (State.runWords n pb (left + 1) 0)) := by
  change execPackedToken n s pb = _
  rw [execPackedToken, if_neg (by simp [live]), dec]

end

end Sys2Proof.Machine
end

section
/-!
PROOFS. The commands of the packed decoder and of stream control (04 R105, R111-R116, R133-R135); O32.
-/

namespace Sys2Proof.Machine

/-! ## Page headers (04 R114) -/

section
variable {s : State} {n : Fin 32} (staged : (s.rsp n).stageOut + 16 ≤ (s.rsp n).stageIn)
include staged

/-- With no descriptor the decoder waits for one. -/
theorem packedPageHeader_waits (live : s.decLive n = true) (dec : (s.rsp n).dec = .header)
    (none' : (s.rsp n).copies = []) : Completes (.packedPageHeader n) s fun t =>
      s.onlyRegs t [A.RSP_STATUS n] ∧ t.g (F.RSP_STATUS_DEC n) = 2 := by
  refine ⟨_, exec_packedPageHeader live dec staged, ?_⟩
  rw [State.decodeHeader_waits none']
  exact ⟨s.onlyRegs_put _ _, State.g_put_same _ _ _ (Nat.le_of_ble_eq_true rfl)⟩

/-- A page header that does not agree with its descriptor is a stream error. -/
theorem packedPageHeader_fails {d : DescCopy} {rest : List DescCopy} (clean : s.NoErrors) (live : s.decLive n = true)
    (dec : (s.rsp n).dec = .header) (pushed : (s.rsp n).copies = d :: rest)
    (fault : headerFault (s.stagedBytes n 16) d ≠ 0) : Completes (.packedPageHeader n) s fun t =>
      s.StreamFails t n (headerFault (s.stagedBytes n 16) d) := by
  refine ⟨_, exec_packedPageHeader live dec staged, ?_⟩
  rw [State.decodeHeader_fails clean pushed fault]
  exact (s.streamError_fails n _ (Nat.lt_of_le_of_lt (headerFault_le _ d) (by decide))).1

end

/-! ## Token headers (04 R111-R114) -/

section
variable {s : State} {n : Fin 32} {pb : List PortBWrite} {d : DescCopy} {word : Nat} {line : Option Nat}
  (live : s.decLive n = true) (dec : (s.rsp n).dec = .tokens d word none line)
  (staged : (s.rsp n).stageOut + 2 ≤ (s.rsp n).stageIn) (more : ∀ l, line = some l → word ≠ (l + 1) * 1280)
include live dec staged more

/-- A token header that leaves no run in progress. -/
theorem packedToken_takes {u : State} {P : State → Prop} (does : s.tokenHeader n d word line = u)
    (idle : ∀ d w x l, (u.rsp n).dec ≠ .tokens d w (some x) l) (holds : ∀ t, u.Watched t n → P t) :
    Completes (.packedToken n pb) s P :=
  completes_watched (exec_packedToken_header live dec staged more) (by rw [does]; exact State.runWords_idle idle) holds

/-- A token header that is a stream error. -/
theorem packedToken_fails {code : Nat} (small : code < 16) (does : s.tokenHeader n d word line = s.streamError n code) :
    Completes (.packedToken n pb) s fun t => s.StreamFails t n code := by
  obtain ⟨fails, stays⟩ := s.streamError_fails n code small
  refine packedToken_takes live dec staged more does (fun d' w x l run => ?_) fun t watched => fails.watched watched
  rw [stays, dec] at run
  cases run

variable (clean : s.NoErrors) (none' : (s.rsp n).waiting = [])
include clean none'

/-- A padding token is skipped. -/
theorem packedToken_padding (token : leNat (s.stagedBytes n 2) = 0xC000) (room : word < d.lines * 1280) :
    Completes (.packedToken n pb) s fun t =>
      t.rsp n = { s.rsp n with stageOut := (s.rsp n).stageOut + 2 } ∧ t.mem = s.mem := by
  refine packedToken_takes live dec staged more (State.tokenHeader_padding clean rfl none' token room)
    (fun d' w x l run => ?_) fun t watched => ⟨watched.rsp.trans (s.rsp_modRsp n _), watched.mem⟩
  rw [State.rsp_modRsp, dec] at run
  cases run

/-- END behind the last word ends the page. -/
theorem packedToken_end (token : leNat (s.stagedBytes n 2) = 0xFFFF) (last : word = d.lines * 1280) :
    Completes (.packedToken n pb) s fun t =>
      t.rsp n = { s.rsp n with stageOut := (s.rsp n).stageOut + 2, dec := .header } ∧ t.mem = s.mem
        ∧ t.g (F.RSP_STATUS_DEC n) = 0 := by
  refine packedToken_takes live dec staged more (State.tokenHeader_end clean rfl none' token last)
    (fun d' w x l run => ?_) fun t watched => ⟨?_, ?_, ?_⟩
  · rw [State.rsp_modRsp] at run
    cases run
  · rw [watched.rsp, State.rsp_modRsp, State.rsp_put, State.rsp_modRsp]
  · rw [watched.mem, State.modRsp_mem, State.put_mem, State.modRsp_mem]
  · rw [watched.status rfl, State.g_modRsp, State.g_put_same _ _ _ (Nat.le_of_ble_eq_true rfl), Nat.zero_mod]

end

/-- A token header begins a run, which waits for its line to begin. -/
theorem packedToken_begins {s : State} {n : Fin 32} {pb : List PortBWrite} {d : DescCopy} {word h : Nat}
    (clean : s.NoErrors) (live : s.decLive n = true) (none' : (s.rsp n).waiting = [])
    (dec : (s.rsp n).dec = .tokens d word none none) (staged : (s.rsp n).stageOut + 2 ≤ (s.rsp n).stageIn)
    (header : leNat (s.stagedBytes n 2) = h) (ty : h / 2 ^ 14 < 3) (fits : word + h % 2 ^ 14 + 1 ≤ d.lines * 1280)
    (kept : (s.rsp n).discarded (d.base + word / 1280) = false) : Completes (.packedToken n pb) s fun t =>
      t.mem = s.mem ∧ t.rsp n = { s.rsp n with
        stageOut := (s.rsp n).stageOut + 2
        dec := .tokens d word (some (runKind (h / 2 ^ 14), h % 2 ^ 14 + 1)) none } := by
  obtain ⟨u, hu⟩ : ∃ u, u = s.tokenHeader n d word none := ⟨_, rfl⟩
  have begins := hu.trans (State.tokenHeader_run clean header none' ty fits)
  have supply : u.rsp n = { s.rsp n with
      stageOut := (s.rsp n).stageOut + 2
      dec := .tokens d word (some (runKind (h / 2 ^ 14), h % 2 ^ 14 + 1)) none } := by
    rw [begins, State.rsp_modRsp]
  have waits : State.runWords n pb 16384 0 u = u := State.runWords_unbegun (by rw [supply]) (by rw [supply]; exact kept)
  refine completes_watched (exec_packedToken_header live dec staged nofun) (hu ▸ waits) fun t watched =>
    ⟨?_, watched.rsp.trans supply⟩
  rw [watched.mem, begins, State.modRsp_mem]

/-! ## Runs (04 R111, R112) -/

section
variable {s : State} {n : Fin 32} {pb : List PortBWrite} {d : DescCopy} {word : Nat} (live : s.decLive n = true)
include live

/-- A run that is done has written its words from its place on. -/
theorem packedToken_writes {k : RunKind} {m : Nat} {bs : List Byte} {used : Nat}
    (dec : (s.rsp n).dec = .tokens d word (some (k, m)) (some (word / 1280)))
    (done : s.RunDone (State.runWords n pb (m + 1) 0 s) n d (word / 1280) (word % 1280) m bs used) :
    Completes (.packedToken n pb) s fun t =>
      s.stored t (slotAddr n (d.base + word / 1280) (16 * (word % 1280))) bs
        ∧ (t.rsp n).dec = .tokens d (word + m) none (some (word / 1280))
        ∧ (t.rsp n).stageOut = (s.rsp n).stageOut + used := by
  refine completes_watched (exec_packedToken_run live dec) rfl fun t watched => ?_
  obtain ⟨stored, place, stageOut⟩ := done.watched watched
  rw [Nat.div_add_mod] at place
  exact ⟨stored, place, stageOut⟩

variable (clean : s.NoErrors) (kept : (s.rsp n).discarded (d.base + word / 1280) = false)
include clean kept

/-- A zero run within a line writes zeros. -/
theorem packedToken_zeros {m : Nat} (some' : 0 < m) (within : word % 1280 + m ≤ 1280)
    (dec : (s.rsp n).dec = .tokens d word (some (.zero, m)) (some (word / 1280))) (idle : ∀ x ∈ pb, 2 * m ≤ x.word) :
    Completes (.packedToken n pb) s fun t =>
      s.stored t (slotAddr n (d.base + word / 1280) (16 * (word % 1280))) (List.replicate (16 * m) 0#8)
        ∧ (t.rsp n).dec = .tokens d (word + m) none (some (word / 1280))
        ∧ (t.rsp n).stageOut = (s.rsp n).stageOut + 0 := by
  have run : runLeft .zero m = some (.zero, m) := if_neg (Nat.ne_of_gt some')
  refine packedToken_writes live dec (clean.runWords_zeros m within ?_ kept fun x hx => ?_)
  · rw [Nat.div_add_mod, run]
    exact dec
  · rw [Nat.zero_add]
    exact idle x hx

/-- The last word of a run is written. -/
theorem packedToken_word {k : RunKind} (dec : (s.rsp n).dec = .tokens d word (some (k, 1)) (some (word / 1280)))
    (staged : k = .literal → (s.rsp n).waiting = [] ∧ (s.rsp n).stageOut + 16 ≤ (s.rsp n).stageIn)
    (idle : ∀ x ∈ pb, 2 ≤ x.word) : Completes (.packedToken n pb) s fun t =>
      s.stored t (slotAddr n (d.base + word / 1280) (16 * (word % 1280))) (s.runBytes n d word k)
        ∧ (t.rsp n).dec = .tokens d (word + 1) none (some (word / 1280))
        ∧ (t.rsp n).stageOut = (s.rsp n).stageOut + k.used := by
  have done := clean.runWords_last (wrote := 0) (Nat.mod_lt word (by decide)) (by rw [Nat.div_add_mod]; exact dec) kept
    idle staged
  rw [Nat.div_add_mod] at done
  exact packedToken_writes live dec done

omit clean kept in
/-- A literal run whose bytes are not staged waits. -/
theorem packedToken_unstaged (dec : (s.rsp n).dec = .tokens d word (some (.literal, 1)) (some (word / 1280)))
    (short : (s.rsp n).stageIn < (s.rsp n).stageOut + 16) : Completes (.packedToken n pb) s fun t =>
      t.mem = s.mem ∧ t.rsp n = s.rsp n :=
  completes_watched (exec_packedToken_run live dec)
    (State.runWords_unstaged (by rw [Nat.div_add_mod]; exact dec) (Nat.mod_lt word (by decide)) short)
    fun _ watched => ⟨watched.mem, watched.rsp⟩

end

/-! ## Lines (04 R115, R116) -/

section
variable {s : State} {n : Fin 32} {d : DescCopy} {word l : Nat} {run : Option (RunKind × Nat)} (live : s.decLive n = true)
include live

/-- A line begins in an open slot, at a credit while RUN is 1. -/
theorem decodeLineBegin_begins (dec : (s.rsp n).dec = .tokens d word run none) (more : word < d.lines * 1280)
    (kept : (s.rsp n).discarded (d.base + word / 1280) = false) (isOpen : (s.rsp n).slotOpen (d.base + word / 1280) = true)
    (credit : s.bit F.GRID_CTL_RUN = true → 0 < (s.rsp n).credit) : Completes (.decodeLineBegin n) s fun t =>
      t.rsp n = { s.rsp n with
          credit := if s.bit F.GRID_CTL_RUN then (s.rsp n).credit - 1 else (s.rsp n).credit
          slots := (s.rsp n).slots ++ [⟨d.base + word / 1280, 0, false⟩]
          dec := .tokens d word run (some (word / 1280)) } ∧ t.mem = s.mem := by
  have paced : (s.bit F.GRID_CTL_RUN && (s.rsp n).credit == 0) = false := by
    cases on : s.bit F.GRID_CTL_RUN with
    | false => rfl
    | true => simpa using Nat.ne_of_gt (credit on)
  have runs : execDecodeLineBegin n s = .next (s.watchLines n fun u => u.modRsp n fun r => { r with
      credit := if s.bit F.GRID_CTL_RUN then r.credit - 1 else r.credit
      slots := r.slots ++ [⟨d.base + word / 1280, 0#20480, false⟩]
      dec := .tokens d word run (some (word / 1280)) }) := by
    rw [execDecodeLineBegin]
    dsimp only
    rw [dec]
    dsimp only
    rw [if_neg (by simp [live, more, kept, isOpen, paced])]
  exact completes_watched runs rfl fun t watched => ⟨watched.rsp.trans (s.rsp_modRsp n _), watched.mem⟩

/-- A line that is complete becomes ready. -/
theorem lineDecoded_ready (dec : (s.rsp n).dec = .tokens d ((l + 1) * 1280) run (some l)) :
    Completes (.lineDecoded n) s fun t => (∀ x ∈ (t.rsp n).slots, x.line = d.base + l → x.ready = true)
      ∧ (t.rsp n).dec = .tokens d ((l + 1) * 1280) run none ∧ t.mem = s.mem := by
  have runs : execLineDecoded n s = .next (s.watchLines n fun s =>
      (s.lineBecomesReady n (d.base + l)).modRsp n fun r => { r with dec := .tokens d ((l + 1) * 1280) run none }) := by
    rw [execLineDecoded, dec]
    dsimp only
    rw [if_pos (by simp [live, lineComplete])]
  refine completes_watched runs rfl fun t watched => ?_
  have supply := watched.rsp
  rw [State.rsp_modRsp, State.rsp_lineBecomesReady] at supply
  have mem := watched.mem
  rw [State.modRsp_mem, State.lineBecomesReady_mem] at mem
  refine ⟨fun x named here => ?_, by rw [supply], mem⟩
  rw [supply] at named
  exact ready_of_mem_readied named here

end

/-! ## Abandon and reset (04 R105, R134, R135) -/

section
variable {s : State} {n : Fin 32} (reaches : s.takes (A.RSP_CTL n))
include reaches

/-- ABANDON asks for the end of the page in progress, and does nothing outside one. -/
theorem abandon_asks : Completes (.abandon n) s fun t =>
    t = { s with bars := t.bars } ∧ (∀ m, m ≠ n → t.bar m = s.bar m)
      ∧ t.bar n = { s.bar n with abandon := (s.bar n).abandon || (s.bar n).page.isSome } := by
  refine ⟨_, congrArg Host.Outcome.next (s.atBlock_takes reaches _), ?_⟩
  beta_reduce
  rw [State.abandonWrite, Bar.inPage]
  cases inside : (s.bar n).page.isSome with
  | false => exact ⟨rfl, fun _ _ => rfl, by rw [if_neg Bool.false_ne_true, Bool.or_false]⟩
  | true =>
    rw [if_pos rfl]
    exact ⟨rfl, fun m other => s.bar_modBar_other _ other, by rw [State.bar_modBar_same, Bool.or_true]⟩

/-- RESET_STREAM does nothing inside a page. -/
theorem resetStream_inside {fmt : Bool} (inside : (s.bar n).page.isSome = true) :
    Completes (.resetStream n fmt) s fun t => t = s := by
  refine ⟨_, congrArg Host.Outcome.next (s.atBlock_takes reaches _), ?_⟩
  beta_reduce
  rw [State.resetStream]
  exact if_pos inside

end

theorem rebaseQueue_length (b : Nat) (q : List PageDesc) : (rebaseQueue b q).length = q.length := by
  induction q generalizing b with
  | nil => rfl
  | cons d q ih => rw [rebaseQueue, List.length_cons, ih, List.length_cons]

/-- A page stream is numbered from the lines of those before it. -/
theorem rebaseQueue_base {b i : Nat} {q : List PageDesc} {d : PageDesc} (named : (rebaseQueue b q)[i]? = some d) :
    d.base = b + ((q.take i).map fun x => x.lines).sum := by
  induction q generalizing b i with
  | nil => cases named
  | cons e q ih =>
    cases i with
    | zero =>
      cases named
      rfl
    | succ i =>
      rw [ih named, List.take_succ_cons, List.map_cons, List.sum_cons, Nat.add_assoc]

/-- RESET_STREAM outside a page empties the supply, numbers the queued pages from stream line 0 and loads FMT. -/
theorem resetStream_outside {s : State} {n : Fin 32} {fmt : Bool} (reaches : s.takes (A.RSP_CTL n))
    (outside : (s.bar n).page = none) : Completes (.resetStream n fmt) s fun t =>
      s.onlyBarAndRegs t n [A.RSP_STATUS n, A.RSP_STREAM_LINE n, A.RSP_CTL n]
        ∧ (t.bar n).rsp.slots = [] ∧ (t.bar n).rsp.waiting = [] ∧ (t.bar n).rsp.dec = .header
        ∧ (t.bar n).queue.length = (s.bar n).queue.length
        ∧ (∀ i d, (t.bar n).queue[i]? = some d →
            d.base = (((s.bar n).queue.take i).map fun x => x.lines).sum)
        ∧ t.g (F.RSP_STATUS_DEC n) = 0 ∧ t.g (F.RSP_STREAM_LINE_V n) = 0 ∧ t.bit (F.RSP_CTL_FMT n) = fmt := by
  obtain ⟨u, hu⟩ : ∃ u, u = (s.modBar n fun b => { b with
      queue := rebaseQueue 0 b.queue, rsp := freshRsp (rebaseQueue 0 b.queue) (s.dma[n.val]).firstMissing }) := ⟨_, rfl⟩
  have eq : s.resetStream n fmt = (((u.put (F.RSP_STATUS_DEC n) 0).put (F.RSP_STATUS_ERR_DETAIL n) 0).put
      (F.RSP_STREAM_LINE_V n) 0).putb (F.RSP_CTL_FMT n) fmt := by
    rw [State.resetStream, if_neg (by rw [Bar.inPage, outside]; exact Bool.false_ne_true), hu]
  have bar : ((s.resetStream n fmt).bar n) = { s.bar n with
      queue := rebaseQueue 0 (s.bar n).queue
      rsp := freshRsp (rebaseQueue 0 (s.bar n).queue) (s.dma[n.val]).firstMissing } := by
    rw [eq, State.putb, State.bar_put, State.bar_put, State.bar_put, State.bar_put, hu, State.bar_modBar_same]
  refine ⟨_, congrArg Host.Outcome.next (s.atBlock_takes reaches _), ?_⟩
  beta_reduce
  rw [bar, eq]
  refine ⟨?_, rfl, rfl, rfl, rebaseQueue_length 0 _, fun i d named => ?_, ?_, ?_, ?_⟩
  · have start : s.onlyBarAndRegs u n [A.RSP_STATUS n, A.RSP_STREAM_LINE n, A.RSP_CTL n] := by
      rw [hu]
      exact (State.onlyBarAndRegs.refl s n _).modBar _
    exact .put (.put (.put (.put start _ (.head _)) _ (.head _)) _ (.tail _ (.head _))) _ (.tail _ (.tail _ (.head _)))
  · rw [rebaseQueue_base named, Nat.zero_add]
  · rw [State.putb, State.g_put_other _ _ _ _ (barOff_ne _ (by decide)), State.g_put_other _ _ _ _ (barOff_ne _ (by decide)),
      State.g_put_of_apart _ _ (Nat.le_of_ble_eq_true rfl) (.inr (.inl (Nat.le_of_ble_eq_true rfl))),
      State.g_put_same _ _ _ (Nat.le_of_ble_eq_true rfl), Nat.zero_mod]
  · rw [State.putb, State.g_put_other _ _ _ _ (barOff_ne _ (by decide)), State.g_put_same _ _ _ (Nat.le_of_ble_eq_true rfl),
      Nat.zero_mod]
  · exact State.bit_putb _ _ _ (Nat.le_of_ble_eq_true rfl) rfl

end Sys2Proof.Machine

open Sys2Proof.Machine in
/-- Settles O32: a header and a token by the case of its header (`State.tokenHeader_run` and beside it), a run word by word
(`State.NoErrors.runWords_word`), where log entries 20, 43 and 89 leave the choice. -/
theorem packedDecoderAndStreamControl : Obligations.PackedDecoderAndStreamControl := by
  unfold Obligations.PackedDecoderAndStreamControl
  refine ⟨fun s n pb live ce ue none' => ?_, fun s n fmt reaches =>
    ⟨abandon_asks reaches, resetStream_inside reaches, resetStream_outside reaches⟩⟩
  have clean : s.NoErrors := ⟨ce, ue⟩
  intro r staged begins fails
  refine ⟨fun dec there => ⟨packedPageHeader_waits there live dec, fun d rest pushed => ⟨fun agrees => ?_,
      packedPageHeader_fails there clean live dec pushed⟩⟩, ?_, ?_, ?_, ?_, ?_⟩
  · have does := State.decodeHeader_begins clean pushed none' agrees
    exact ⟨⟨_, exec_packedPageHeader live dec there, does⟩, fun waits => ⟨_, exec_waitDescEnd waits pushed there, does⟩⟩
  · exact fun d word line dec there room more token => packedToken_padding live dec there more clean none' token room
  · intro d word line dec there more h last
    have error {code : Nat} (small : code < 16) (does : s.tokenHeader n d word line = s.streamError n code) :
        fails (.packedToken n pb) code := packedToken_fails live dec there more small does
    refine ⟨fun ty k0 k1 => error (by decide) (State.tokenHeader_reserved clean rfl ty k0 k1),
      fun ty room past => error (by decide) (State.tokenHeader_long clean rfl ty room past),
      fun token early => error (by decide) (State.tokenHeader_early clean rfl token early),
      fun token late => error (by decide) (State.tokenHeader_late clean rfl token late),
      packedToken_end live dec there more clean none', fun ty unbegun fits kept => ?_⟩
    subst unbegun
    exact packedToken_begins clean live none' dec there rfl ty fits kept
  · intro d word kept at_ writes
    refine ⟨fun m some' within dec idle => packedToken_zeros live clean kept some' within dec idle,
      fun dec => ⟨fun there idle => packedToken_word live clean kept dec (fun _ => ⟨none', there⟩) idle,
        packedToken_unstaged live dec⟩,
      fun dec => ⟨fun first idle => ?_, fun later idle => ?_⟩⟩
    · have does := packedToken_word live clean kept dec nofun idle
      rw [State.runBytes, State.previousWord_first n first] at does
      exact does
    · have does := packedToken_word live clean kept dec nofun idle
      rw [State.runBytes, clean.previousWord n later] at does
      exact does
  · exact fun d word run dec => decodeLineBegin_begins live dec
  · exact fun d l run dec => lineDecoded_ready live dec
end

section
/-!
PROOFS. What the shared operations of the position unit leave alone: the stored print position, the causes of the print
axis, changes of a channel and of C (05 R147-R154).
-/

namespace Sys2Proof.Machine

/-! ## Channels -/

section
variable (s : State)

theorem State.chan_of_pos {s t : State} (same : t.pos = s.pos) (x : Fin 5) : t.chan x = s.chan x := by
  unfold State.chan
  rw [same]

theorem State.chan_modChan_other {x c : Fin 5} (f : Chan → Chan) (other : x ≠ c) : (s.modChan c f).chan x = s.chan x := by
  simp only [State.modChan, State.setChan, State.chan, Fin.getElem_fin]
  exact Vector.getElem_set_ne _ _ fun e => other (Fin.ext e.symm)

theorem State.c_modChan (c : Fin 5) (f : Chan → Chan) : (s.modChan c f).pos.c = s.pos.c := rfl

theorem State.reg_of_regs {s t : State} (same : t.regs = s.regs) (a : Nat) : t.reg a = s.reg a := by
  unfold State.reg
  rw [same]

theorem State.reg_modChan (c : Fin 5) (f : Chan → Chan) (a : Nat) : (s.modChan c f).reg a = s.reg a :=
  State.reg_of_regs (s.modChan_regs c f) a

@[simp] theorem State.chan_put (f : Field) (v : Nat) (x : Fin 5) : (s.put f v).chan x = s.chan x := rfl

@[simp] theorem State.chan_setCause (f : Field) (x : Fin 5) : (s.setCause f).chan x = s.chan x :=
  State.chan_of_pos (s.setCause_pos f) x

@[simp] theorem State.chan_setCauseIf (b : Bool) (f : Field) (x : Fin 5) : (s.setCauseIf b f).chan x = s.chan x := by
  cases b
  · rfl
  · exact s.chan_setCause f x

end

/-! ## Cause bits that stay set (12 R366) -/

/-- A cause bit that is set stays set when another is set. -/
theorem State.bit_setCause_kept {s : State} {e f : Field} (he : e.lo + 1 ≤ 32) (one : e.w = 1) (one' : f.w = 1)
    (hr : ¬ routerReg f.off) (set : s.bit f = true) : (s.setCause e).bit f = true := by
  by_cases same : f = e
  · subst same
    exact State.bit_setCause s f he one hr
  · rw [State.bit_setCause_of_apart s (by omega : e.lo + e.w ≤ 32) ?_ hr, set]
    by_contra together
    unfold Field.Apart at together
    obtain ⟨off, lo, w⟩ := e
    obtain ⟨off', lo', w'⟩ := f
    simp only [Field.mk.injEq] at *
    omega

/-! ## The stored print position and the causes of the print axis (R151, R152, R154) -/

/-- The registers that bringing the print position up to now may change. -/
def ppRegs : List Nat := [A.POS_CAUSE, A.POS_REVERSALS, A.POS_JITTER]

/-- `t` is `s` but for the stored print position with its hold, its counters, and causes of the print axis that come to
be set. -/
structure State.SameButPP (s t : State) : Prop where
  now : t.now = s.now
  pos : t.pos = { s.pos with pp := t.pos.pp, ppEst := t.pos.ppEst, holding := t.pos.holding, holdDeep := t.pos.holdDeep }
  regs : ∀ a, a ∉ ppRegs → ¬ routerReg a → t.reg a = s.reg a
  causes : ∀ f : Field, f.off = A.POS_CAUSE → f.w = 1 → s.bit f = true → t.bit f = true

section
variable {s t u : State}

theorem State.SameButPP.refl (s : State) : s.SameButPP s := ⟨rfl, rfl, fun _ _ _ => rfl, fun _ _ _ => id⟩

theorem State.SameButPP.trans (h : s.SameButPP t) (k : t.SameButPP u) : s.SameButPP u := by
  refine ⟨k.now.trans h.now, ?_, fun a ha hr => (k.regs a ha hr).trans (h.regs a ha hr),
    fun f off one set => k.causes f off one (h.causes f off one set)⟩
  rw [k.pos, h.pos]

/-- A counter of the print position's counts. -/
theorem State.SameButPP.bump (h : s.SameButPP t) {f : Field} (listed : f.off ∈ ppRegs) (other : f.off ≠ A.POS_CAUSE) :
    s.SameButPP (t.bump f) := by
  refine h.trans ⟨rfl, rfl, fun a ha _ => State.reg_put_other _ _ fun e => ha (e ▸ listed), fun e off _ set => ?_⟩
  rw [State.bit, State.g_bump_other (by rw [off]; exact other.symm)]
  exact set

/-- A cause of the print axis comes to be set. -/
theorem State.SameButPP.setCause (h : s.SameButPP t) {f : Field} (off : f.off = A.POS_CAUSE) (fits : f.lo + 1 ≤ 32)
    (one : f.w = 1) : s.SameButPP (t.setCause f) := by
  refine h.trans ⟨t.setCause_now f, by rw [State.setCause_pos], fun a ha hr => ?_, fun e off' one' set => ?_⟩
  · exact State.reg_setCause_other _ _ (fun e => ha (by rw [e, off]; exact .head _)) hr
  · exact State.bit_setCause_kept fits one one' (by rw [off']; exact not_routerReg_behind (by decide)) set

theorem State.settlePP_same (s : State) : s.SameButPP s.settlePP := by
  unfold State.settlePP
  extract_lets p h hold deep newDeep ended x s1 s2
  have stored : s.SameButPP s1 := ⟨rfl, rfl, fun _ _ _ => rfl, fun _ _ _ => id⟩
  have reported : s.SameButPP s2 := by
    unfold s2
    split
    · exact (stored.bump (.tail _ (.head _)) (by decide)).setCause rfl (by decide) rfl
    · exact stored
  split
  · exact reported.bump (.tail _ (.tail _ (.head _))) (by decide)
  · exact reported

/-- A change made with the print position settled, as the state after it sees it. -/
theorem State.withPP_same (f : State → State) (s : State) : (f s.settlePP).SameButPP (State.withPP f s) :=
  State.settlePP_same _

theorem State.watchValid_same (f : State → State) (s : State) : (f s).SameButPP (State.watchValid f s) := by
  unfold State.watchValid
  dsimp only
  cases !s.axisValid && (f s).axisValid
  · exact .refl _
  · exact (State.SameButPP.refl (f s)).setCause rfl (by decide) rfl

/-- The same of a change that is watched for the axis's validity too. -/
theorem State.watched_same (f : State → State) (s : State) :
    (f s.settlePP).SameButPP (State.watchValid (State.withPP f) s) :=
  (State.withPP_same f s).trans (State.watchValid_same _ s)

section
variable (same : s.SameButPP t)
include same

theorem State.SameButPP.c : t.pos.c = s.pos.c := by rw [same.pos]
theorem State.SameButPP.ssi : t.pos.ssi = s.pos.ssi := by rw [same.pos]
theorem State.SameButPP.anchor : t.pos.anchor = s.pos.anchor := by rw [same.pos]

theorem State.SameButPP.chan (x : Fin 5) : t.chan x = s.chan x := by
  unfold State.chan
  rw [same.pos]

/-- A field of a register of the position unit that is not the print position's. -/
theorem State.SameButPP.g {f : Field} (unlisted : f.off ∉ ppRegs) (behind : 0x49008 ≤ f.off) : t.g f = s.g f :=
  State.g_of_reg (same.regs _ unlisted (not_routerReg_behind behind))

theorem State.SameButPP.bit {f : Field} (unlisted : f.off ∉ ppRegs) (behind : 0x49008 ≤ f.off) : t.bit f = s.bit f :=
  State.bit_of_reg (same.regs _ unlisted (not_routerReg_behind behind))

end

end

/-! ## The sources, the weight and the limits of the print axis (R147, R149, R160) -/

/-- The registers that say which source moves the print axis, with what weight and within which limits. -/
def axisRegs : List Nat := [A.POS_AXIS_CFG, A.POS_AXIS_STATUS, A.POS_SEC_RATIO, A.POS_SLO_LO, A.POS_SLO_HI, A.POS_SHI_LO,
  A.POS_SHI_HI]

/-- The print axis is set up in `t` as in `s`. -/
def State.SameAxis (s t : State) : Prop := ∀ a ∈ axisRegs, t.reg a = s.reg a

section
variable {s t : State} (axis : s.SameAxis t)
include axis

theorem State.SameAxis.g {f : Field} (listed : f.off ∈ axisRegs) : t.g f = s.g f := State.g_of_reg (axis _ listed)

theorem State.SameAxis.priSrc : t.priSrc = s.priSrc := by
  rw [State.priSrc, axis.g (by decide), State.priSrc]

theorem State.SameAxis.secSrc : t.secSrc = s.secSrc := by
  rw [State.secSrc, axis.g (by decide), State.secSrc]

theorem State.SameAxis.onSec : t.onSec = s.onSec := State.bit_of_reg (axis _ (by decide))

theorem State.SameAxis.axisLost : t.axisLost = s.axisLost := State.bit_of_reg (axis _ (by decide))

theorem State.SameAxis.activeSrc : t.activeSrc = s.activeSrc := by
  unfold State.activeSrc
  rw [axis.onSec, axis.secSrc, axis.priSrc]

theorem State.SameAxis.weight : t.weight = s.weight := by
  unfold State.weight
  rw [axis.onSec, axis.g (by decide)]

theorem State.SameAxis.softLo : t.softLo = s.softLo := by
  unfold State.softLo State.g48
  rw [axis.g (by decide), axis.g (by decide)]

theorem State.SameAxis.softHi : t.softHi = s.softHi := by
  unfold State.softHi State.g48
  rw [axis.g (by decide), axis.g (by decide)]

end

theorem State.SameButPP.axis {s t : State} (same : s.SameButPP t) : s.SameAxis t := fun a ha =>
  same.regs a (by revert a; decide) (not_routerReg_behind (by revert a; decide))

theorem State.sameAxis_of_regs {s t : State} (same : t.regs = s.regs) : s.SameAxis t := fun a _ => State.reg_of_regs same a

/-! ## Counts of a source (R147, R149, R153) -/

section
variable (s : State) (c : Fin 5) (d : Int) (m ts : Nat)

/-- A source after a movement, before the print axis takes it. -/
def State.sourceMoved : State :=
  let t := s.modChan c fun ch =>
    { ch with raw := ch.raw + d * m, est := ch.est.count s.estWindow ts d m s.now, lastT := ts, lastMag := m }
  if t.priSrc = some c then t.markSec else t

theorem State.sourceCount_eq : s.sourceCount c d m ts =
    if (s.sourceMoved c d m ts).activeSrc = some c ∧ !(s.sourceMoved c d m ts).axisLost then
      let t := (s.sourceMoved c d m ts).axisAdd (d * m * (s.sourceMoved c d m ts).weight)
      if c = 4 then t else t.adjustCaptures (t.pos.c - (s.sourceMoved c d m ts).pos.c) ts
    else s.sourceMoved c d m ts := rfl

/-- A movement leaves the registers and C alone until the print axis takes it. -/
theorem State.sourceMoved_regs : (s.sourceMoved c d m ts).regs = s.regs ∧ (s.sourceMoved c d m ts).pos.c = s.pos.c := by
  unfold State.sourceMoved
  dsimp only
  split
  · exact ⟨rfl, rfl⟩
  · exact ⟨rfl, rfl⟩

theorem State.sourceMoved_axis : s.SameAxis (s.sourceMoved c d m ts) :=
  State.sameAxis_of_regs (s.sourceMoved_regs c d m ts).1

theorem State.chan_sourceMoved (x : Fin 5) : (s.sourceMoved c d m ts).chan x = (s.modChan c fun ch =>
    { ch with raw := ch.raw + d * m, est := ch.est.count s.estWindow ts d m s.now, lastT := ts, lastMag := m }).chan x := by
  unfold State.sourceMoved
  dsimp only
  split
  · rfl
  · rfl

/-- What moves C leaves the channels alone. -/
theorem State.chan_axisAdd (x : Int) (e : Fin 5) : (s.axisAdd x).chan e = s.chan e := by
  unfold State.axisAdd
  dsimp only
  split
  · exact State.chan_of_pos ((State.setCause_pos _ _).trans (s.bump_pos _)) e
  · rfl

/-- A count within the soft limits moves C. -/
theorem State.axisAdd_within {x : Int} (lo : s.softLo * 2 ^ 24 ≤ s.pos.c + x) (hi : s.pos.c + x ≤ s.softHi * 2 ^ 24) :
    s.axisAdd x = s.setC (s.pos.c + x) := by
  unfold State.axisAdd
  dsimp only
  rw [if_neg (by omega)]

theorem State.chan_sourceCount (x : Fin 5) : (s.sourceCount c d m ts).chan x = (s.modChan c fun ch =>
    { ch with raw := ch.raw + d * m, est := ch.est.count s.estWindow ts d m s.now, lastT := ts, lastMag := m }).chan x := by
  rw [State.sourceCount_eq, ← State.chan_sourceMoved]
  split
  · dsimp only
    split
    · exact State.chan_axisAdd _ _ _
    · exact State.chan_axisAdd _ _ _
  · rfl

/-- A source that is not active leaves C alone. -/
theorem State.c_sourceCount_inactive (inactive : s.activeSrc ≠ some c) : (s.sourceCount c d m ts).pos.c = s.pos.c := by
  rw [State.sourceCount_eq, (s.sourceMoved_axis c d m ts).activeSrc, if_neg fun h => inactive h.1]
  exact (s.sourceMoved_regs c d m ts).2

/-- The active source moves C by its weight within the soft limits. -/
theorem State.c_sourceCount_within (active : s.activeSrc = some c) (kept : s.axisLost = false)
    (lo : s.softLo * 2 ^ 24 ≤ s.pos.c + d * m * s.weight) (hi : s.pos.c + d * m * s.weight ≤ s.softHi * 2 ^ 24) :
    (s.sourceCount c d m ts).pos.c = s.pos.c + d * m * s.weight := by
  have axis := s.sourceMoved_axis c d m ts
  obtain ⟨-, same⟩ := s.sourceMoved_regs c d m ts
  rw [State.sourceCount_eq, axis.activeSrc, axis.axisLost, axis.weight, if_pos ⟨active, by rw [kept]; rfl⟩,
    State.axisAdd_within _ (by rw [axis.softLo, same]; exact lo) (by rw [axis.softHi, same]; exact hi), same]
  dsimp only
  split
  · rfl
  · rfl

end

end Sys2Proof.Machine
end

section
/-!
PROOFS. Encoder inputs: counts, illegal transitions, wires, the index and held corrections (05 R138-R144); O33.
-/

namespace Sys2Proof.Machine

/-! ## The registers and the cause bits of an encoder channel -/

theorem encCause_fits (c : Fin 4) {k : Nat} (small : k < 4) : (encCause c k).lo + (encCause c k).w ≤ 32 := by
  simp only [encCause]
  omega

/-- The causes of the encoders lie behind the event router's registers. -/
theorem encCause_behind (c : Fin 4) (k : Nat) : 0x49008 ≤ (encCause c k).off := by
  change 0x49008 ≤ A.POS_ENC_CAUSE
  decide

/-- A cause bit of an encoder channel is set. -/
theorem State.bit_setCause_encCause (s : State) (c : Fin 4) {k : Nat} (small : k < 4) :
    (s.setCause (encCause c k)).bit (encCause c k) = true :=
  State.bit_setCause s _ (encCause_fits c small) rfl (not_routerReg_behind (encCause_behind c k))

/-- The violation log leaves the position unit and its registers alone. -/
theorem State.vlog_position (s : State) (source code detail : Nat) : (s.vlog source code detail).pos = s.pos
    ∧ ∀ a, 0x49008 ≤ a → (s.vlog source code detail).reg a = s.reg a := by
  have log := s.vlog_same source code detail
  exact ⟨by rw [log.frame], fun a behind => log.words a (by omega) (not_routerReg_behind behind)⟩

/-! ## Levels that pass the filter (R139) -/

theorem filterPassed_iff (filt now : Nat) (last : Option Nat) :
    filterPassed filt now last = true ↔ ∀ x, last = some x → x + (filt + 1) * posCycle ≤ now := by
  cases last <;> simp [filterPassed]

section
variable {s : State} {c : Fin 4} {a b : Bool}

theorem State.countPasses_iff : s.countPasses c a b = true ↔
    (a = (s.chan (encChan c)).a ∨ ∀ x, (s.chan (encChan c)).aT = some x →
        x + (s.g (F.POS_ENCc_CFG_FILT c) + 1) * posCycle ≤ s.now)
      ∧ (b = (s.chan (encChan c)).b ∨ ∀ x, (s.chan (encChan c)).bT = some x →
        x + (s.g (F.POS_ENCc_CFG_FILT c) + 1) * posCycle ≤ s.now) := by
  simp only [State.countPasses, Bool.and_eq_true, Bool.or_eq_true, beq_iff_eq, filterPassed_iff]

/-! ## Counts (R140, R144) -/

/-- `y` is `x` but for the marks of the index check. -/
def Chan.SameButMarks (x y : Chan) : Prop := y = { x with
  sinceIndex := y.sinceIndex, wentFwd := y.wentFwd, wentBack := y.wentBack, missing := y.missing }

/-- Channel `e` of `t` has other marks of the index check than in `s`; C and the other channels are as before. -/
structure State.OnlyMarks (s t : State) (e : Fin 5) : Prop where
  c : t.pos.c = s.pos.c
  own : (s.chan e).SameButMarks (t.chan e)
  others : ∀ x, x ≠ e → t.chan x = s.chan x

section
variable {s t : State} {e : Fin 5} (h : s.OnlyMarks t e)
include h

theorem State.OnlyMarks.modChan {f : Chan → Chan} (marks : ∀ ch : Chan, ch.SameButMarks (f ch)) :
    s.OnlyMarks (t.modChan e f) e := by
  refine ⟨h.c, ?_, fun x other => (t.chan_modChan_other f other).trans (h.others x other)⟩
  rw [State.chan_modChan_same, Chan.SameButMarks, marks, h.own]

theorem State.OnlyMarks.of_pos {u : State} (same : u.pos = t.pos) : s.OnlyMarks u e := by
  have chan := State.chan_of_pos same
  exact ⟨by rw [same]; exact h.c, by rw [chan]; exact h.own, fun x other => (chan x).trans (h.others x other)⟩

end

theorem State.OnlyMarks.refl (s : State) (e : Fin 5) : s.OnlyMarks s e := ⟨rfl, rfl, fun _ _ => rfl⟩

/-- Rho follows a count. -/
theorem State.revFollow_onlyMarks (s : State) (c : Fin 4) (d : Int) : s.OnlyMarks (s.revFollow c d) (encChan c) := by
  unfold State.revFollow
  extract_lets p s1 s2 ch lim u past
  have stored : s.OnlyMarks s1 (encChan c) := (State.OnlyMarks.refl s _).of_pos (s.put_pos _ _)
  have followed : s.OnlyMarks s2 (encChan c) := stored.modChan fun _ => rfl
  split
  · exact .refl s _
  split
  · have marked : s.OnlyMarks (s2.modChan (encChan c) fun ch => { ch with missing := true }) (encChan c) :=
      followed.modChan fun _ => rfl
    exact marked.of_pos (State.setCause_pos _ _)
  · exact followed

/-- The two levels of an encoder are accepted and counted in direction `d`. -/
def State.acceptCount (c : Fin 4) (a b : Bool) (d : Int) (ts : Nat) (s : State) : State :=
  (s.modChan (encChan c) fun ch => ch.take a b s.now).encCount c d ts

section
variable (s : State) (c : Fin 4) (a b : Bool) (d : Int) (ts : Nat)

/-- An accepted count moves its channel by one and takes its levels; the other channels stay. -/
theorem State.acceptCount_chan : ((s.acceptCount c a b d ts).chan (encChan c)).raw = (s.chan (encChan c)).raw + d
    ∧ ((s.acceptCount c a b d ts).chan (encChan c)).a = a ∧ ((s.acceptCount c a b d ts).chan (encChan c)).b = b
    ∧ ∀ x, x ≠ encChan c → (s.acceptCount c a b d ts).chan x = s.chan x := by
  unfold State.acceptCount State.encCount
  obtain ⟨-, own, others⟩ := State.revFollow_onlyMarks
    ((s.modChan (encChan c) fun ch => ch.take a b s.now).sourceCount (encChan c) d 1 ts) c d
  rw [State.chan_sourceCount, State.chan_modChan_same, State.chan_modChan_same] at own
  rw [own]
  refine ⟨by simp only [Chan.take]; omega, rfl, rfl, fun x h => ?_⟩
  rw [others x h, State.chan_sourceCount, State.chan_modChan_other _ _ h, State.chan_modChan_other _ _ h]

/-- An accepted count of a source that is not active leaves C alone. -/
theorem State.acceptCount_c_inactive (inactive : s.activeSrc ≠ some (encChan c)) :
    (s.acceptCount c a b d ts).pos.c = s.pos.c :=
  (State.revFollow_onlyMarks _ c d).c.trans (State.c_sourceCount_inactive _ _ d 1 ts
    (by rw [(State.sameAxis_of_regs (s.modChan_regs _ _)).activeSrc]; exact inactive))

/-- An accepted count of the active primary moves C by one count within the soft limits. -/
theorem State.acceptCount_c_within (active : s.activeSrc = some (encChan c)) (pri : s.onSec = false)
    (kept : s.axisLost = false) (lo : s.softLo * 2 ^ 24 ≤ s.pos.c + d * 2 ^ 24)
    (hi : s.pos.c + d * 2 ^ 24 ≤ s.softHi * 2 ^ 24) : (s.acceptCount c a b d ts).pos.c = s.pos.c + d * 2 ^ 24 := by
  have one : d * (1 : Nat) * (s.weight : Int) = d * 2 ^ 24 := by
    rw [State.weight, pri]
    simp
  have axis : s.SameAxis (s.modChan (encChan c) fun ch => ch.take a b s.now) :=
    State.sameAxis_of_regs (s.modChan_regs _ _)
  have within := State.c_sourceCount_within (s.modChan (encChan c) fun ch => ch.take a b s.now) (encChan c) d 1 ts
    (axis.activeSrc.trans active) (axis.axisLost.trans kept)
  rw [axis.weight, axis.softLo, axis.softHi, one] at within
  exact (State.revFollow_onlyMarks _ c d).c.trans (within lo hi)

end

/-- The direction of a single change: forward in the order 00, 10, 11, 01, and DIR reverses it. -/
theorem quadDir_eq (x y a b dir : Bool) :
    quadDir (x, y) (a, b) dir = if (decide ((a, b) = (!y, x)) != dir) = true then 1 else -1 := by
  revert x y a b dir
  decide

section
variable (live : s.encLive c = true) (passes : s.countPasses c a b = true)
include live passes

/-- A change of one level is counted. -/
theorem exec_encoderCount_single
    (single : (a, b) = (!(s.chan (encChan c)).a, (s.chan (encChan c)).b)
      ∨ (a, b) = ((s.chan (encChan c)).a, !(s.chan (encChan c)).b)) :
    exec (.encoderCount c a b) s = .next (State.watchValid (State.withPP (State.acceptCount c a b
      (quadDir ((s.chan (encChan c)).a, (s.chan (encChan c)).b) (a, b) (s.bit (F.POS_ENCc_CFG_DIR c)))
      (s.now - s.g (F.POS_ENCc_CFG_FILT c) * posCycle))) s) := by
  change execEncoderCount c a b s = _
  unfold execEncoderCount
  dsimp only
  rw [if_neg, if_neg]
  · rfl
  · rcases single with e | e <;> simp_all
  · rcases single with e | e <;> simp_all

/-- A change of both levels is an illegal transition. -/
theorem exec_encoderCount_double (double : (a, b) = (!(s.chan (encChan c)).a, !(s.chan (encChan c)).b)) :
    exec (.encoderCount c a b) s =
      .next ((s.modChan (encChan c) fun ch => ch.take a b s.now).illegalTransition c) := by
  change execEncoderCount c a b s = _
  unfold execEncoderCount
  dsimp only
  rw [if_neg, if_pos]
  · simp_all
  · simp_all

theorem encoderCount_counts
    (single : (a, b) = (!(s.chan (encChan c)).a, (s.chan (encChan c)).b)
      ∨ (a, b) = ((s.chan (encChan c)).a, !(s.chan (encChan c)).b)) {d : Int}
    (dir : d = quadDir ((s.chan (encChan c)).a, (s.chan (encChan c)).b) (a, b) (s.bit (F.POS_ENCc_CFG_DIR c))) :
    Completes (.encoderCount c a b) s fun t =>
      (t.chan (encChan c)).raw = (s.chan (encChan c)).raw + d ∧ (t.chan (encChan c)).a = a ∧ (t.chan (encChan c)).b = b
        ∧ (∀ x, x ≠ encChan c → t.chan x = s.chan x)
        ∧ (s.activeSrc = some (encChan c) → s.onSec = false → s.axisLost = false →
            s.softLo * 2 ^ 24 ≤ s.pos.c + d * 2 ^ 24 → s.pos.c + d * 2 ^ 24 ≤ s.softHi * 2 ^ 24 →
            t.pos.c = s.pos.c + d * 2 ^ 24)
        ∧ (s.activeSrc ≠ some (encChan c) → t.pos.c = s.pos.c) := by
  refine ⟨_, exec_encoderCount_single live passes single, ?_⟩
  rw [← dir]
  have before := s.settlePP_same
  have axis := before.axis
  have after := State.watched_same (State.acceptCount c a b d (s.now - s.g (F.POS_ENCc_CFG_FILT c) * posCycle)) s
  obtain ⟨raw, ha, hb, others⟩ := s.settlePP.acceptCount_chan c a b d (s.now - s.g (F.POS_ENCc_CFG_FILT c) * posCycle)
  refine ⟨?_, ?_, ?_, fun x h => ?_, fun active pri kept lo hi => ?_, fun inactive => ?_⟩
  · rw [after.chan, raw, before.chan]
  · rw [after.chan, ha]
  · rw [after.chan, hb]
  · rw [after.chan, others x h, before.chan]
  · rw [after.c, State.acceptCount_c_within _ _ _ _ _ _ (axis.activeSrc.trans active) (axis.onSec.trans pri)
      (axis.axisLost.trans kept) (by rw [axis.softLo, before.c]; exact lo) (by rw [axis.softHi, before.c]; exact hi), before.c]
  · rw [after.c, State.acceptCount_c_inactive _ _ _ _ _ _ (by rw [axis.activeSrc]; exact inactive), before.c]

theorem encoderCount_illegal (double : (a, b) = (!(s.chan (encChan c)).a, !(s.chan (encChan c)).b)) :
    Completes (.encoderCount c a b) s fun t =>
      (t.chan (encChan c)).raw = (s.chan (encChan c)).raw ∧ (t.chan (encChan c)).a = a ∧ (t.chan (encChan c)).b = b
        ∧ t.pos.c = s.pos.c ∧ t.bit (encCause c 1) = true ∧ s.counted t (F.POS_ENCc_ILL_V c) := by
  refine ⟨_, exec_encoderCount_double live passes double, ?_⟩
  unfold State.illegalTransition
  extract_lets u
  obtain ⟨pos, regs⟩ := State.vlog_position ((u.bump (F.POS_ENCc_ILL_V c)).setCause (encCause c 1)) (0x08 + c.val) 0x01
    (u.chan (encChan c)).cnt
  rw [State.setCause_pos] at pos
  have own : (u.chan (encChan c)).raw = (s.chan (encChan c)).raw ∧ (u.chan (encChan c)).a = a
      ∧ (u.chan (encChan c)).b = b := by
    rw [State.chan_modChan_same, State.chan_modChan_same]
    exact ⟨rfl, rfl, rfl⟩
  have count : u.g (F.POS_ENCc_ILL_V c) = s.g (F.POS_ENCc_ILL_V c) :=
    State.g_of_reg ((State.reg_modChan _ _ _ _).trans (s.reg_modChan _ _ _))
  have cause : A.POS_ENC_CAUSE < A.POS_ENCc_ILL c := by simp only [A.POS_ENC_CAUSE, A.POS_ENCc_ILL]; omega
  have behind : 0x49008 ≤ A.POS_ENCc_ILL c := by simp only [A.POS_ENCc_ILL]; omega
  obtain ⟨raw, ha, hb⟩ := own
  rw [State.chan_of_pos pos, State.chan_of_pos (u.bump_pos _), pos, State.bump_pos]
  refine ⟨raw, ha, hb, (State.c_modChan _ _ _).trans (s.c_modChan _ _), ?_, ?_⟩
  · rw [State.bit_of_reg (regs _ (encCause_behind c 1))]
    exact State.bit_setCause_encCause _ c (by decide)
  · rw [State.counted, State.g_of_reg (regs _ behind), State.g_setCause_of_apart _ (encCause_fits c (by decide))
      (.inl cause.ne') (not_routerReg_behind behind), State.g_bump _ _ (Nat.le_of_ble_eq_true rfl), count]

end

end

section
variable {s : State} {c : Fin 4}

/-! ## Wires (R138) -/

/-- A wire failure is reported with the live bit of its pair and counts nothing. -/
theorem State.wireFails_spec (s : State) (c : Fin 4) (k : Nat) : (s.wireFails c k).chan (encChan c) =
      { s.chan (encChan c) with live := (s.chan (encChan c)).live.set k true, wire := (s.chan (encChan c)).wire.set k true }
    ∧ (s.wireFails c k).bit (encCause c 0) = true := by
  unfold State.wireFails
  extract_lets u
  obtain ⟨pos, regs⟩ := State.vlog_position (u.setCause (encCause c 0)) (0x08 + c.val) 0x02 (u.chan (encChan c)).cnt
  refine ⟨?_, ?_⟩
  · rw [State.chan_of_pos pos, State.chan_setCause, State.chan_modChan_same]
  · rw [State.bit_of_reg (regs _ (encCause_behind c 0))]
    exact State.bit_setCause_encCause u c (by decide)

section
variable {w : WirePair}

/-- Equal levels are noted when they begin. -/
theorem wireDisagree_begins (apart : (s.chan (encChan c)).same[wireNum w]? = some none) :
    Completes (.wireDisagree c w true) s fun t => t = { s with pos := t.pos } ∧ t.chan (encChan c) =
      { s.chan (encChan c) with same := (s.chan (encChan c)).same.set (wireNum w) (some s.now) } := by
  refine ⟨s.modChan (encChan c) fun ch => { ch with same := ch.same.set (wireNum w) (some s.now) }, ?_, rfl,
    State.chan_modChan_same _ _ _⟩
  change execWireDisagree c w true s = _
  simp [execWireDisagree, apart]

variable {x : Nat} (equal : (s.chan (encChan c)).same[wireNum w]? = some (some x))
include equal

theorem exec_wireDisagree_equal : exec (.wireDisagree c w true) s = .next
    (if s.posLive && !((s.chan (encChan c)).live.getD (wireNum w) false)
        && decide (x + s.g (F.POS_ENCc_CFG_TDIS c) * posCycle < s.now) then s.wireFails c (wireNum w) else s) := by
  change execWireDisagree c w true s = _
  simp [execWireDisagree, equal]

/-- Equal levels for more than TDIS samples set WIRE. -/
theorem wireDisagree_fails (live : s.posLive = true) (fresh : (s.chan (encChan c)).live[wireNum w]? = some false)
    (long : x + s.g (F.POS_ENCc_CFG_TDIS c) * posCycle < s.now) : Completes (.wireDisagree c w true) s fun t =>
      (t.chan (encChan c)).wire = (s.chan (encChan c)).wire.set (wireNum w) true
        ∧ (t.chan (encChan c)).live = (s.chan (encChan c)).live.set (wireNum w) true
        ∧ (t.chan (encChan c)).raw = (s.chan (encChan c)).raw ∧ t.bit (encCause c 0) = true := by
  obtain ⟨chan, cause⟩ := s.wireFails_spec c (wireNum w)
  refine ⟨s.wireFails c (wireNum w), ?_, by rw [chan], by rw [chan], by rw [chan], cause⟩
  rw [exec_wireDisagree_equal equal, if_pos (by simp [live, fresh, long])]

theorem wireDisagree_short (short : s.now ≤ x + s.g (F.POS_ENCc_CFG_TDIS c) * posCycle) :
    Completes (.wireDisagree c w true) s fun t => t = s := by
  refine ⟨s, ?_, rfl⟩
  rw [exec_wireDisagree_equal equal, if_neg (by simp [Nat.not_lt.2 short])]

/-- Opposite levels again end the live condition. -/
theorem wireDisagree_ends : Completes (.wireDisagree c w false) s fun t => t = { s with pos := t.pos }
    ∧ t.chan (encChan c) = { s.chan (encChan c) with
        same := (s.chan (encChan c)).same.set (wireNum w) none, live := (s.chan (encChan c)).live.set (wireNum w) false
        cleanSince := s.now } := by
  refine ⟨s.modChan (encChan c) fun ch => { ch with
    same := ch.same.set (wireNum w) none, live := ch.live.set (wireNum w) false, cleanSince := s.now }, ?_, rfl,
    State.chan_modChan_same _ _ _⟩
  change execWireDisagree c w false s = _
  simp [execWireDisagree, equal]

end

theorem exec_wireClear (reaches : s.takes A.POS_ENC_CAUSE) : exec (.wireClear c) s = .next (s.wireClear c) := by
  change execWireClear c s = _
  rw [execWireClear, s.atBlock_takes reaches]

theorem wireClear_clears (reaches : s.takes A.POS_ENC_CAUSE) (apart : ∀ x ∈ (s.chan (encChan c)).same, x = none)
    (clean : (s.chan (encChan c)).cleanSince + ms 1 ≤ s.now) : Completes (.wireClear c) s fun t =>
      t.bit (encCause c 0) = false ∧ (t.chan (encChan c)).wire = [false, false, false] := by
  have all : (s.chan (encChan c)).same.all Option.isNone = true := by simpa using apart
  refine ⟨_, exec_wireClear reaches, ?_⟩
  rw [State.wireClear, if_pos (by simp [all, clean])]
  refine ⟨s.bit_put_zero _ (by simp only [encCause]; omega), ?_⟩
  rw [State.chan_modChan_same]

theorem wireClear_waits (reaches : s.takes A.POS_ENC_CAUSE)
    (unclean : (∃ x, some x ∈ (s.chan (encChan c)).same) ∨ s.now < (s.chan (encChan c)).cleanSince + ms 1) :
    Completes (.wireClear c) s fun t => t = s := by
  refine ⟨_, exec_wireClear reaches, ?_⟩
  rw [State.wireClear, if_neg]
  rcases unclean with ⟨x, listed⟩ | late
  · have some' : (s.chan (encChan c)).same.all Option.isNone = false := List.all_eq_false.2 ⟨_, listed, nofun⟩
    simp [some']
  · simp [Nat.not_le.2 late]

/-! ## The index and held corrections (R143, R144) -/

theorem State.put_withPos (s : State) (p : Pos) (f : Field) (v : Nat) :
    { s.put f v with pos := p } = State.put { s with pos := p } f v := rfl

/-- An index pulse without a period latches the count. -/
theorem encoderIndex_latches (live : s.encLive c = true)
    (passes : ∀ x, (s.chan (encChan c)).zT = some x → x + 2 * (s.g (F.POS_ENCc_CFG_FILT c) + 1) * posCycle ≤ s.now)
    (zen : s.bit (F.POS_ENCc_CFG_ZEN c) = true) (open' : s.bit (F.POS_ENCc_CFG_ZGATE c) = false)
    (none' : s.g (F.POS_ENCc_PER_V c) = 0) : Completes (.encoderIndex c) s fun t =>
      s.onlyRegs { t with pos := s.pos } [A.POS_ENCc_INDEX c] ∧ t.g (F.POS_ENCc_INDEX_V c) = (s.chan (encChan c)).cnt
        ∧ t.chan (encChan c) = { s.chan (encChan c) with zT := some s.now } ∧ t.pos.c = s.pos.c := by
  have filter : filterPassed (2 * s.g (F.POS_ENCc_CFG_FILT c) + 1) s.now (s.chan (encChan c)).zT = true :=
    (filterPassed_iff _ _ _).2 passes
  obtain ⟨u, hu⟩ : ∃ u, u = s.modChan (encChan c) fun ch => { ch with zT := some s.now } := ⟨_, rfl⟩
  refine ⟨u.put (F.POS_ENCc_INDEX_V c) (s.chan (encChan c)).cnt, ?_, ?_, ?_, ?_, ?_⟩
  · have period : (u.put (F.POS_ENCc_INDEX_V c) (s.chan (encChan c)).cnt).g (F.POS_ENCc_PER_V c) = 0 := by
      rw [State.g_put_other _ _ _ _ (barOff_ne _ (by decide)), hu, State.g_of_reg (s.reg_modChan _ _ _), none']
    change execEncoderIndex c s = _
    unfold execEncoderIndex
    dsimp only
    rw [if_neg (by simp [live, filter, zen, open']), ← hu, if_pos period]
  · rw [hu, State.put_withPos]
    exact s.onlyRegs_put (F.POS_ENCc_INDEX_V c) (s.chan (encChan c)).cnt
  · rw [State.g_put_same _ _ _ (Nat.le_of_ble_eq_true rfl)]
    have small : (s.chan (encChan c)).cnt < 2 ^ 32 := unsigned_lt 32 _
    exact Nat.mod_eq_of_lt small
  · rw [State.chan_put, hu, State.chan_modChan_same]
  · rw [State.put_pos, hu, State.c_modChan]

/-- A held correction is taken from the count outside pages. -/
theorem indexCorrection_applies (outside : s.anyInPage = false) (held : (s.chan (encChan c)).heldCorr ≠ 0) :
    Completes (.indexCorrection c) s fun t =>
      (t.chan (encChan c)).raw = (s.chan (encChan c)).raw - (s.chan (encChan c)).heldCorr
        ∧ (t.chan (encChan c)).heldCorr = 0 := by
  obtain ⟨u, hu⟩ : ∃ u, u = s.modChan (encChan c) fun ch => { ch with heldCorr := 0 } := ⟨_, rfl⟩
  have start : u.chan (encChan c) = { s.chan (encChan c) with heldCorr := 0 } := by rw [hu, State.chan_modChan_same]
  have after := State.withPP_same (fun t : State =>
    let t := t.modChan (encChan c) fun ch => { ch with raw := ch.raw - (s.chan (encChan c)).heldCorr }
    if t.activeSrc = some (encChan c) ∧ !t.axisLost then t.axisAdd (-(s.chan (encChan c)).heldCorr * t.weight) else t) u
  have own : (u.indexCorrect c (s.chan (encChan c)).heldCorr).chan (encChan c) =
      { u.chan (encChan c) with raw := (u.chan (encChan c)).raw - (s.chan (encChan c)).heldCorr } := by
    rw [State.indexCorrect, after.chan]
    dsimp only
    split
    · rw [State.chan_axisAdd, State.chan_modChan_same, u.settlePP_same.chan]
    · rw [State.chan_modChan_same, u.settlePP_same.chan]
  refine ⟨u.indexCorrect c (s.chan (encChan c)).heldCorr, ?_, ?_, ?_⟩
  · change execIndexCorrection c s = _
    simp [execIndexCorrection, outside, held, hu]
  · rw [own, start]
  · rw [own, start]

end

end Sys2Proof.Machine

open Sys2Proof.Machine in
/-- Settles O33: a change of one level is a movement of its source with the print position settled around it
(`State.acceptCount_chan`, `State.acceptCount_c_within`); a change of both, a wire and an index change marks of the channel
(log entry 91). -/
theorem encoderInputsCount : Obligations.EncoderInputsCount := by
  unfold Obligations.EncoderInputsCount
  intro s c a b e ch forward d k passes
  refine ⟨fun live passA passB => ?_, wireDisagree_begins (w := .b), fun x equal =>
    ⟨wireDisagree_fails (w := .b) equal, wireDisagree_short (w := .b) equal, wireDisagree_ends (w := .b) equal⟩,
    encoderIndex_latches, wireClear_clears, wireClear_waits, indexCorrection_applies⟩
  have pass : s.countPasses c a b = true := State.countPasses_iff.2 ⟨passA, passB⟩
  exact ⟨fun single => encoderCount_counts live pass single (quadDir_eq _ _ _ _ _).symm,
    encoderCount_illegal live pass⟩
end

section
/-!
PROOFS. The SSI channel: when a frame starts, when it is taken and when it is rejected (05 R145, R146); O34.
-/

namespace Sys2Proof.Machine

/-! ## Starts (R145) -/

section
variable {s : State} {data : Bool}

/-- While the grid runs with TRIG 0 a frame is due within the POS cycle of a line tick. -/
theorem State.ssiDue_atTicks (atTicks : s.running = true ∧ s.bit F.POS_SSI_CFG_TRIG = false) :
    s.ssiDue = (s.grid.ticked && decide (s.now < s.grid.tickT + posCycle)) ∧ s.ssiSlot = s.now := by
  obtain ⟨running, trig⟩ := atTicks
  simp [State.ssiDue, State.ssiSlot, running, trig]

/-- Else it is due within the POS cycle of a whole number of periods after the last start. -/
theorem State.ssiDue_periodic (free : ¬ (s.running = true ∧ s.bit F.POS_SSI_CFG_TRIG = false)) {k r : Nat}
    (period : 0 < s.g F.POS_SSI_PERIOD_V) (some' : 0 < k) (soon : r < posCycle)
    (time : s.now = s.pos.ssi.lastStart + k * us (s.g F.POS_SSI_PERIOD_V) + r) :
    s.ssiDue = true ∧ s.ssiSlot = s.pos.ssi.lastStart + k * us (s.g F.POS_SSI_PERIOD_V) := by
  obtain ⟨p, hp⟩ : ∃ p, p = us (s.g F.POS_SSI_PERIOD_V) := ⟨_, rfl⟩
  have long : posCycle ≤ p := by
    rw [hp]
    simp only [posCycle, us, ns]
    omega
  have whole : p ≤ k * p := Nat.le_mul_of_pos_left p some'
  have since : s.now - s.pos.ssi.lastStart = r + p * k := by
    rw [time, ← hp, Nat.mul_comm p k]
    omega
  have rest : (s.now - s.pos.ssi.lastStart) % p = r := by
    rw [since, Nat.add_mul_mod_self_left, Nat.mod_eq_of_lt (Nat.lt_of_lt_of_le soon long)]
  have ticks : ¬ ((s.running && !s.bit F.POS_SSI_CFG_TRIG) = true) := by simpa using free
  have one : max 1 (s.g F.POS_SSI_PERIOD_V) = s.g F.POS_SSI_PERIOD_V := Nat.max_eq_right period
  unfold State.ssiDue State.ssiSlot
  rw [if_neg ticks, if_neg ticks]
  dsimp only
  rw [one, ← hp, rest]
  rw [← hp] at time
  exact ⟨by simp only [Bool.and_eq_true, decide_eq_true_eq]; omega, by omega⟩

/-- A frame that is due starts when none runs. -/
theorem ssiFrameStart_starts (live : s.ssiLive = true) (idle : s.pos.ssi.running = false) {slot : Nat}
    (due : s.ssiDue = true ∧ s.ssiSlot = slot) : Completes (.ssiFrameStart data) s fun t =>
      t = { s with pos := t.pos }
        ∧ t.pos.ssi = { s.pos.ssi with running := true, fallT := s.now, lastStart := slot, startLow := !data } := by
  obtain ⟨due, rfl⟩ := due
  refine ⟨{ s with pos := { s.pos with ssi :=
    { s.pos.ssi with running := true, fallT := s.now, lastStart := s.ssiSlot, startLow := !data } } }, ?_, rfl, rfl⟩
  change execSsiFrameStart data s = _
  rw [execSsiFrameStart, if_neg (by simp [live, idle, due])]

/-- No frame starts while one runs, or behind the POS cycle of a line tick. -/
theorem ssiFrameStart_waits (busy : s.pos.ssi.running = true ∨ ((s.running = true ∧ s.bit F.POS_SSI_CFG_TRIG = false)
    ∧ s.grid.tickT + posCycle ≤ s.now)) : Completes (.ssiFrameStart data) s fun t => t = s := by
  refine ⟨s, ?_, rfl⟩
  change execSsiFrameStart data s = _
  rw [execSsiFrameStart, if_pos]
  rcases busy with runs | ⟨atTicks, late⟩
  · simp [runs]
  · rw [(State.ssiDue_atTicks atTicks).1]
    simp [Nat.not_lt.2 late]

end

/-! ## Frames that end (R146) -/

/-- The frame in progress has ended. -/
def State.ssiEnded (s : State) : State := { s with pos := { s.pos with ssi := { s.pos.ssi with running := false } } }

/-- A rejected frame is counted, with its cause; nothing else of the channel changes. -/
theorem State.ssiReject_spec (s : State) (code rawBits : Nat) {cause : Field} (off : cause.off = A.POS_ENC_CAUSE)
    (fits : cause.lo + 1 ≤ 32) (one : cause.w = 1) :
    (s.ssiReject code cause rawBits).pos.ssi = { s.pos.ssi with rejects := s.pos.ssi.rejects + 1 }
      ∧ (s.ssiReject code cause rawBits).bit cause = true
      ∧ s.counted (s.ssiReject code cause rawBits) F.POS_SSI_ERRS_V := by
  unfold State.ssiReject
  extract_lets x y u
  obtain ⟨pos, regs⟩ := State.vlog_position ((u.bump F.POS_SSI_ERRS_V).setCause cause) 0x0C code rawBits
  have behind : 0x49008 ≤ cause.off := by
    rw [off]
    decide
  have apart : F.POS_SSI_ERRS_V.off ≠ cause.off := by
    rw [off]
    decide
  have count : u.g F.POS_SSI_ERRS_V = s.g F.POS_SSI_ERRS_V := State.g_of_reg (State.reg_of_regs rfl _)
  refine ⟨?_, ?_, ?_⟩
  · rw [pos, State.setCause_pos, State.bump_pos]
  · rw [State.bit_of_reg (regs _ behind)]
    exact State.bit_setCause _ cause fits one (not_routerReg_behind behind)
  · rw [State.counted, State.g_of_reg (regs _ (by decide)), State.g_setCause_of_apart _ (by omega) (.inl apart)
      (not_routerReg_behind (by decide)), State.g_bump _ _ (by decide), count]

/-- The first accepted value is stored and counts no movement. -/
theorem State.ssiAccept_first {s : State} (v : Nat) (delta : Int) (first : s.pos.ssi.prev = none) :
    (s.ssiAccept v delta).pos.ssi = { s.pos.ssi with prev := some v, rejects := 0 }
      ∧ (s.ssiAccept v delta).g F.POS_SSI_VAL_LO_V = v % 2 ^ 32
      ∧ (s.ssiAccept v delta).bit F.POS_ENC_CAUSE_SSI_FAIL = false := by
  unfold State.ssiAccept
  extract_lets isFirst x y u w t
  have first' : isFirst = true := by
    unfold isFirst
    rw [first]
    rfl
  rw [if_pos first']
  refine ⟨rfl, ?_, State.bit_put_zero _ _ (by decide)⟩
  unfold t w
  rw [State.g_put_other _ _ _ _ (by decide), State.g_put_other _ _ _ _ (by decide), State.g_put_same _ _ _ (by decide)]
  rfl

section
variable {s : State} {bits : BitVec 48} {parity : Bool} (live : s.ssiLive = true) (runs : s.pos.ssi.running = true)
  (noParity : s.g F.POS_SSI_CFG_PAR = 0)
  (ended : s.pos.ssi.fallT + (2 * s.g F.POS_SSI_CFG_BITS + 1) * (s.g F.POS_SSI_CFG_DIV + 1) * posCycle ≤ s.now)
include live runs noParity ended

/-- A frame with a bad monoflop is rejected for FRAME. -/
theorem ssiFrame_rejects : Completes (.ssiFrame bits parity true) s fun t =>
    t.pos.ssi = { s.pos.ssi with running := false, rejects := s.pos.ssi.rejects + 1 } ∧ t.bit F.POS_ENC_CAUSE_FRAME = true
      ∧ s.counted t F.POS_SSI_ERRS_V := by
  refine ⟨s.ssiEnded.ssiReject 0x02 F.POS_ENC_CAUSE_FRAME (bits.toNat % 2 ^ s.g F.POS_SSI_CFG_BITS), ?_, ?_⟩
  · change execSsiFrame bits parity true s = _
    unfold execSsiFrame
    dsimp only
    rw [if_neg (by simp [live, runs, noParity, Nat.not_lt.2 ended]), if_pos (by simp)]
    rfl
  · have same : s.ssiEnded.g F.POS_SSI_ERRS_V = s.g F.POS_SSI_ERRS_V := State.g_of_reg (State.reg_of_regs rfl _)
    obtain ⟨ssi, bit, counted⟩ := s.ssiEnded.ssiReject_spec 0x02 (bits.toNat % 2 ^ s.g F.POS_SSI_CFG_BITS)
      (cause := F.POS_ENC_CAUSE_FRAME) rfl (by decide) rfl
    rw [State.counted, same] at counted
    exact ⟨ssi, bit, counted⟩

/-- A first frame in order is stored as it came. -/
theorem ssiFrame_accepts (plain : s.bit F.POS_SSI_CFG_GRAY = false) (start : s.pos.ssi.startLow = false)
    (first : s.pos.ssi.prev = none) : Completes (.ssiFrame bits parity false) s fun t =>
      t.pos.ssi.running = false ∧ t.pos.ssi.rejects = 0
        ∧ t.pos.ssi.prev = some (bits.toNat % 2 ^ s.g F.POS_SSI_CFG_BITS)
        ∧ t.g F.POS_SSI_VAL_LO_V = bits.toNat % 2 ^ s.g F.POS_SSI_CFG_BITS % 2 ^ 32
        ∧ t.bit F.POS_ENC_CAUSE_SSI_FAIL = false := by
  obtain ⟨v, hv⟩ : ∃ v, v = bits.toNat % 2 ^ s.g F.POS_SSI_CFG_BITS := ⟨_, rfl⟩
  refine ⟨State.watchValid (State.withPP fun t => t.ssiAccept v 0) s.ssiEnded, ?_, ?_⟩
  · change execSsiFrame bits parity false s = _
    unfold execSsiFrame State.ssiEnded
    dsimp only
    rw [if_neg (by simp [live, runs, noParity, Nat.not_lt.2 ended]), if_neg (by simp [start]), if_neg (by simp [noParity]),
      first, if_neg (by simp), if_neg (by simp [plain]), ← hv]
  · have before := s.ssiEnded.settlePP_same
    have after := State.watched_same (fun t => t.ssiAccept v 0) s.ssiEnded
    obtain ⟨ssi, lo, fail⟩ := State.ssiAccept_first (s := s.ssiEnded.settlePP) v 0 (by rw [before.ssi]; exact first)
    beta_reduce
    rw [after.ssi, ssi, before.ssi, after.g (by decide) (by decide), lo, after.bit (by decide) (by decide), ← hv]
    exact ⟨rfl, rfl, rfl, rfl, fail⟩

end

/-- Three rejected frames in a row fail the source. -/
theorem ssiFail_fails {s : State} (three : 3 ≤ s.pos.ssi.rejects) : Completes .ssiFail s fun t =>
    s.onlyRegsAndEvents t [A.POS_ENC_CAUSE] ∧ t.bit F.POS_ENC_CAUSE_SSI_FAIL = true := by
  refine ⟨s.setCause F.POS_ENC_CAUSE_SSI_FAIL, ?_, (State.onlyRegs.refl s).setCause _,
    State.bit_setCause _ _ (by decide) rfl (not_routerReg_behind (by decide))⟩
  change execSsiFail s = _
  rw [execSsiFail, decide_eq_true three, State.setCauseIf_true]

end Sys2Proof.Machine

open Sys2Proof.Machine in
/-- Settles O34: a start is due at a tick (`State.ssiDue_atTicks`) or after whole periods (`State.ssiDue_periodic`), and a
frame that has ended is stored (`State.ssiAccept_first`) or rejected (`State.ssiReject_spec`; log entries 23, 91). -/
theorem ssiFramesAreTakenOrRejected : Obligations.SsiFramesAreTakenOrRejected := by
  unfold Obligations.SsiFramesAreTakenOrRejected
  intro s bits data parity x n atTicks starts
  refine ⟨fun live idle => ⟨fun ticks ticked soon => ?_, fun free k r period some' soon time =>
      ssiFrameStart_starts live idle (State.ssiDue_periodic free period some' soon time)⟩, ssiFrameStart_waits,
    fun live runs noParity plain ended => ⟨ssiFrame_accepts live runs noParity ended plain,
      ssiFrame_rejects live runs noParity ended⟩, ssiFail_fails⟩
  obtain ⟨due, slot⟩ := State.ssiDue_atTicks ticks
  exact ssiFrameStart_starts live idle ⟨due.trans (by simp [ticked, soon]), slot⟩
end

section
/-!
PROOFS. Speed estimates and standstill, anchors, fail-over, the return to the primary and the rebase (05 R150, R153-R161);
used for O35.
-/

namespace Sys2Proof.Machine

/-! ## Speed (R153, R154) -/

section
variable (s : State)

/-- Every estimate is evaluated now. -/
def State.reevaluated : State :=
  { s with pos := { s.pos with chans := s.pos.chans.map fun ch => { ch with est := ch.est.eval s.estWindow s.now } } }

theorem State.chan_reevaluated (x : Fin 5) :
    s.reevaluated.chan x = { s.chan x with est := (s.chan x).est.eval s.estWindow s.now } := by
  simp [State.reevaluated, State.chan]

theorem State.SameButPP.estWindow {s t : State} (same : s.SameButPP t) : t.estWindow = s.estWindow := by
  rw [State.estWindow, same.g (by decide) (by decide), State.estWindow]

theorem speedReeval_evaluates : Completes .speedReeval s fun t =>
    ∀ x, t.chan x = { s.chan x with est := (s.chan x).est.eval (2 ^ s.g F.POS_EST_CFG_AVG) s.now } := by
  refine ⟨State.withPP State.reevaluated s, rfl, fun x => ?_⟩
  have before := s.settlePP_same
  rw [(State.withPP_same State.reevaluated s).chan, State.chan_reevaluated, before.chan, before.estWindow, before.now]
  rfl

end

section
variable {s : State} {c : Fin 5}

theorem State.atStandstill_of_hist {x : Nat × Nat} {r : List (Nat × Nat)} (hist : (s.chan c).est.hist = x :: r)
    (still : x.1 + us (s.g F.POS_EST_CFG_STANDSTILL) < s.now) : s.atStandstill c = true := by
  unfold State.atStandstill
  rw [hist]
  exact decide_eq_true still

/-- A source has lost its estimate. -/
def State.stilled (c : Fin 5) (s : State) : State := s.modChan c fun ch => { ch with est := ch.est.stand }

theorem State.standstill_eq (s : State) (c : Fin 5) : s.standstill c =
    (State.withPP (State.stilled c) s).setCauseIf (decide ((State.withPP (State.stilled c) s).activeSrc = some c)
      && (!(s.chan c).est.hist.isEmpty && !s.axisLost)) F.POS_CAUSE_STANDSTILL := rfl

/-- A source at standstill loses its estimate, and the print axis reports its own. -/
theorem standstill_stops {x : Nat × Nat} {r : List (Nat × Nat)} (hist : (s.chan c).est.hist = x :: r)
    (still : x.1 + us (s.g F.POS_EST_CFG_STANDSTILL) < s.now) : Completes (.standstill c) s fun t =>
      (t.chan c).est.v = 0 ∧ (t.chan c).est.valid = false ∧ (t.chan c).est.hist = [] ∧ (t.chan c).raw = (s.chan c).raw
        ∧ (s.activeSrc = some c → s.axisLost = false → t.bit F.POS_CAUSE_STANDSTILL = true) := by
  refine ⟨s.standstill c, ?_, ?_⟩
  · change execStandstill c s = _
    rw [execStandstill, if_pos (State.atStandstill_of_hist hist still)]
  have before := s.settlePP_same
  have after := State.withPP_same (State.stilled c) s
  have own : (s.standstill c).chan c = { s.chan c with est := (s.chan c).est.stand } := by
    rw [State.standstill_eq, State.chan_setCauseIf, after.chan, State.stilled, State.chan_modChan_same, before.chan]
  have active : (State.withPP (State.stilled c) s).activeSrc = s.activeSrc := by
    rw [after.axis.activeSrc, State.stilled, (State.sameAxis_of_regs (State.modChan_regs _ _ _)).activeSrc,
      before.axis.activeSrc]
  beta_reduce
  rw [own]
  refine ⟨rfl, rfl, rfl, rfl, fun isActive kept => ?_⟩
  rw [State.standstill_eq, active, decide_eq_true isActive, hist, kept]
  exact State.bit_setCause _ _ (by decide) rfl (not_routerReg_behind (by decide))

end

/-! ## Anchors (R156) -/

/-- Registers and events change in the same way whatever stands in the position unit. -/
theorem State.onlyRegsAndEvents.withPos {s t : State} {xs : List Nat} (h : s.onlyRegsAndEvents t xs) (p : Pos) :
    State.onlyRegsAndEvents { s with pos := p } { t with pos := p } xs := by
  obtain ⟨frame, regs, pairs⟩ := h
  exact ⟨by rw [frame], regs, pairs⟩

theorem State.onlyRegs_bump (s : State) (f : Field) : s.onlyRegs (s.bump f) [f.off] := s.onlyRegs_put f _

theorem State.onlyRegsAndEvents.mono {s t : State} {xs ys : List Nat} (h : s.onlyRegsAndEvents t xs) (sub : xs ⊆ ys) :
    s.onlyRegsAndEvents t ys := by
  obtain ⟨frame, regs, pairs⟩ := h
  exact ⟨frame, fun a ha => regs a fun listed => ha (sub listed), pairs⟩

section
variable {s : State} {p q : Fin 5}

theorem State.anchorDue_iff : s.anchorDue = true ↔
    (s.bit F.GRID_CTL_RUN = true ∧ s.grid.ticked = true ∧ s.pos.anchorTick ≠ some s.tick)
      ∨ (s.bit F.GRID_CTL_RUN = false ∧ s.pos.anchorT + us 10 ≤ s.now) := by
  unfold State.anchorDue
  cases s.bit F.GRID_CTL_RUN
  · simp
  · simp

/-- Without two sources there is no anchor. -/
theorem failoverAnchor_unpaired (none' : s.priSrc = none ∨ s.secSrc = none) : Completes .failoverAnchor s fun t => t = s := by
  refine ⟨s, ?_, rfl⟩
  change execFailoverAnchor s = _
  unfold execFailoverAnchor
  rcases none' with pri | sec
  · rw [pri]
  · rw [sec]
    split
    · next both => cases both
    · rfl

section
variable (pri : s.priSrc = some p) (sec : s.secSrc = some q)
include pri sec

/-- An anchor that is not due, or of a primary that is not healthy, is not taken. -/
theorem failoverAnchor_waits (waits : ¬ s.anchorDue = true ∨ s.priOk = false) :
    Completes .failoverAnchor s fun t => t = s := by
  refine ⟨s, ?_, rfl⟩
  change execFailoverAnchor s = _
  unfold execFailoverAnchor
  rw [pri, sec]
  dsimp only
  rw [if_pos]
  rcases waits with early | sick
  · simp [early]
  · simp [sick]

variable (live : s.posLive = true) (healthy : s.priOk = true) (due : s.anchorDue = true)
include live healthy due

/-- An anchor that is the first, or agrees with the one before, is taken. -/
theorem failoverAnchor_takes (agrees : ∀ o, s.pos.anchor = some o →
      (((s.chan p).raw - o.pri) * 2 ^ 24 - ((s.chan q).raw - o.sec) * (s.g F.POS_SEC_RATIO_V : Int)).natAbs
        ≤ s.g F.POS_FO_CFG_DIVERGE * 2 ^ 24) : Completes .failoverAnchor s fun t =>
      t = { s with pos := { s.pos with anchor := some ⟨s.pos.c, (s.chan q).raw, (s.chan p).raw⟩,
                                       anchorT := s.now, anchorTick := some s.tick } } := by
  refine ⟨_, ?_, rfl⟩
  change execFailoverAnchor s = _
  unfold execFailoverAnchor
  rw [pri, sec]
  dsimp only
  rw [if_neg (by simp [live, healthy, due])]
  split
  · rfl
  · next o some' => exact if_pos (agrees o some')

/-- The time of an anchor is kept. -/
def State.anchorTimed (s : State) : State := { s with pos := { s.pos with anchorT := s.now, anchorTick := some s.tick } }

/-- Sources that diverge keep the anchor before, counted and reported. -/
theorem failoverAnchor_diverges {o : Anchor} (anchor : s.pos.anchor = some o)
    (apart : s.g F.POS_FO_CFG_DIVERGE * 2 ^ 24 <
      (((s.chan p).raw - o.pri) * 2 ^ 24 - ((s.chan q).raw - o.sec) * (s.g F.POS_SEC_RATIO_V : Int)).natAbs) :
    Completes .failoverAnchor s fun t =>
      s.onlyRegsAndEvents { t with pos := s.pos } [A.POS_DIVERGES, A.POS_CAUSE]
        ∧ t.pos = { s.pos with anchorT := s.now, anchorTick := some s.tick }
        ∧ t.bit F.POS_CAUSE_DIVERGE = true ∧ s.counted t F.POS_DIVERGES_V := by
  refine ⟨(s.anchorTimed.bump F.POS_DIVERGES_V).setCause F.POS_CAUSE_DIVERGE, ?_, ?_, ?_, ?_, ?_⟩
  · change execFailoverAnchor s = _
    unfold execFailoverAnchor
    rw [pri, sec]
    dsimp only
    rw [if_neg (by simp [live, healthy, due])]
    split
    · next none' => rw [anchor] at none'; cases none'
    · next x some' =>
      obtain rfl : o = x := Option.some.inj (anchor.symm.trans some')
      exact if_neg (Nat.not_le.2 apart)
  · have changed := (s.anchorTimed.onlyRegs_bump F.POS_DIVERGES_V).setCause F.POS_CAUSE_DIVERGE
    exact (changed.withPos s.pos).mono (by decide)
  · rw [State.setCause_pos, State.bump_pos]
    rfl
  · exact State.bit_setCause _ _ (by decide) rfl (not_routerReg_behind (by decide))
  · have same : s.anchorTimed.g F.POS_DIVERGES_V = s.g F.POS_DIVERGES_V := State.g_of_reg (State.reg_of_regs rfl _)
    rw [State.counted, State.g_setCause_of_apart _ (by decide) (.inl (by decide)) (not_routerReg_behind (by decide)),
      State.g_bump _ _ (by decide), same]

end

end

/-! ## Fail-over (R149, R157, R158, R160) -/

theorem State.failReason_lt (s : State) (c : Fin 5) (primary : Bool) : s.failReason c primary < 8 := by
  unfold State.failReason
  extract_lets ch stall
  split
  · split
    · decide
    · split <;> decide
  split
  · decide
  split
  · decide
  · split <;> decide

section
variable {s : State} {p q : Fin 5}

/-- On the primary, it is the active source. -/
theorem State.activeSrc_pri (pri : s.priSrc = some p) (first : s.onSec = false) : s.activeSrc = some p := by
  rw [State.activeSrc, first, if_neg Bool.false_ne_true, pri]

theorem exec_failover (live : s.posLive = true) : exec .failover s = .next s.onFailure := by
  change execFailover s = _
  rw [execFailover, if_pos live]

/-- While the axis is lost a failure brings nothing about. -/
theorem State.onFailure_lost (lost : s.axisLost = true) : s.onFailure = s := by
  unfold State.onFailure
  split
  · rfl
  · dsimp only
    rw [if_pos (.inr lost)]

section
variable (pri : s.priSrc = some p) (first : s.onSec = false)
include pri first

theorem State.onFailure_healthy (healthy : s.failReason p true = 0) : s.onFailure = s := by
  unfold State.onFailure
  rw [State.activeSrc_pri pri first]
  dsimp only
  rw [first, if_pos (.inl healthy)]

variable (kept : s.axisLost = false) (fails : s.failReason p true ≠ 0)
include kept fails

/-- Without AUTO_FO a failure keeps its reason only. -/
theorem State.onFailure_manual (manual : s.bit F.POS_AXIS_CFG_AUTO_FO = false) :
    s.onFailure = s.put F.POS_AXIS_STATUS_FO_REASON (s.failReason p true) := by
  unfold State.onFailure
  rw [State.activeSrc_pri pri first]
  dsimp only
  rw [first, if_neg (by simp [fails, kept]), if_pos (by simp [manual])]
  rfl

/-- With AUTO_FO the axis goes over to a healthy secondary. -/
theorem State.onFailure_switches (auto : s.bit F.POS_AXIS_CFG_AUTO_FO = true) (sec : s.secSrc = some q)
    (healthy : s.secOk = true) {a : Anchor} (anchor : s.pos.anchor = some a) : s.onFailure =
      State.watchValid (State.withPP fun t => t.switchToSec a q (s.failReason p true)) s := by
  unfold State.onFailure
  rw [State.activeSrc_pri pri first]
  dsimp only
  rw [first, if_neg (by simp [fails, kept]), if_neg (by simp [auto]), healthy, sec, anchor]
  rfl

/-- Without a healthy secondary or an anchor the axis is lost. -/
theorem State.onFailure_loses (auto : s.bit F.POS_AXIS_CFG_AUTO_FO = true)
    (stuck : s.secOk = false ∨ s.pos.anchor = none) : s.onFailure =
      State.withPP (fun t => t.loseAxis (s.failReason p true)) s := by
  unfold State.onFailure
  rw [State.activeSrc_pri pri first]
  dsimp only
  rw [first, if_neg (by simp [fails, kept]), if_neg (by simp [auto])]
  rcases stuck with sick | unanchored
  · rw [sick]
    rfl
  · rw [unanchored]
    split
    · next some' => cases some'
    · rfl

end

/-- C takes a value; registers, channels and the anchor stay. -/
theorem State.setC_spec (s : State) (c : Int) :
    (s.setC c).pos.c = c ∧ (s.setC c).pos.anchor = s.pos.anchor ∧ (s.setC c).regs = s.regs := ⟨rfl, rfl, rfl⟩

/-- The print axis on its secondary: C from the anchor, and the status and cause of the fail-over. -/
theorem State.switchToSec_spec (s : State) (a : Anchor) (q : Fin 5) {reason : Nat} (small : reason < 8) :
    (s.switchToSec a q reason).pos.c = max (s.softLo * 2 ^ 24) (min (s.softHi * 2 ^ 24)
        (a.c + (s.g F.POS_SEC_RATIO_V : Int) * ((s.chan q).raw - a.sec)))
      ∧ (s.switchToSec a q reason).pos.anchor = s.pos.anchor
      ∧ (s.switchToSec a q reason).bit F.POS_AXIS_STATUS_ACTIVE = true
      ∧ (s.switchToSec a q reason).g F.POS_AXIS_STATUS_FO_REASON = reason
      ∧ (s.switchToSec a q reason).bit F.POS_CAUSE_FAILOVER = true := by
  unfold State.switchToSec
  extract_lets c u v
  obtain ⟨hc, anchor, -⟩ := s.setC_spec (max (s.softLo * 2 ^ 24) (min (s.softHi * 2 ^ 24) c))
  have pos : ((v.bump F.POS_FAILOVERS_V).setCause F.POS_CAUSE_FAILOVER).pos = u.pos := by
    rw [State.setCause_pos, State.bump_pos, State.put_pos, State.put_pos]
  have status {f : Field} (off : f.off = A.POS_AXIS_STATUS) :
      ((v.bump F.POS_FAILOVERS_V).setCause F.POS_CAUSE_FAILOVER).g f = v.g f := by
    rw [State.g_setCause_of_apart _ (by decide) (.inl (by rw [off]; decide)) (not_routerReg_behind (by rw [off]; decide)),
      State.g_bump_other (by rw [off]; decide)]
  refine ⟨by rw [pos]; exact hc, by rw [pos]; exact anchor, ?_, ?_,
    State.bit_setCause _ _ (by decide) rfl (not_routerReg_behind (by decide))⟩
  · rw [State.bit, status rfl, State.g_put_of_apart _ _ (by decide) (.inr (by decide)), State.g_put_same _ _ _ (by decide)]
    rfl
  · rw [status rfl, State.g_put_same _ _ _ (by decide)]
    exact Nat.mod_eq_of_lt small

theorem State.loseAxis_spec (kept : s.axisLost = false) (reason : Nat) : (s.loseAxis reason).pos = s.pos
    ∧ (s.loseAxis reason).bit F.POS_AXIS_STATUS_LOST = true ∧ (s.loseAxis reason).bit F.POS_CAUSE_AXIS_LOST = true := by
  rw [State.loseAxis, if_neg (by simp [kept])]
  refine ⟨by rw [State.setCause_pos, State.put_pos, State.put_pos], ?_,
    State.bit_setCause _ _ (by decide) rfl (not_routerReg_behind (by decide))⟩
  rw [State.bit_setCause_of_apart _ (by decide) (.inl (by decide)) (not_routerReg_behind (by decide)),
    State.bit_put_of_apart _ _ (by decide) (.inr (by decide)), State.bit_put_one _ _ (by decide) rfl]

section
variable (live : s.posLive = true)
include live

theorem failover_kept (same : s.onFailure = s) : Completes .failover s fun t => t = s :=
  ⟨s, by rw [exec_failover live, same], rfl⟩

variable (pri : s.priSrc = some p) (first : s.onSec = false) (kept : s.axisLost = false) (fails : s.failReason p true ≠ 0)
include pri first kept fails

theorem failover_manual (manual : s.bit F.POS_AXIS_CFG_AUTO_FO = false) : Completes .failover s fun t =>
    s.onlyRegs t [A.POS_AXIS_STATUS] ∧ t.g F.POS_AXIS_STATUS_FO_REASON = s.failReason p true := by
  refine ⟨_, exec_failover live, ?_⟩
  rw [State.onFailure_manual pri first kept fails manual]
  refine ⟨s.onlyRegs_put F.POS_AXIS_STATUS_FO_REASON _, ?_⟩
  rw [State.g_put_same _ _ _ (by decide)]
  exact Nat.mod_eq_of_lt (s.failReason_lt p true)

theorem failover_switches (auto : s.bit F.POS_AXIS_CFG_AUTO_FO = true) (sec : s.secSrc = some q)
    {a : Anchor} (healthy : s.secOk = true) (anchor : s.pos.anchor = some a) : Completes .failover s fun t =>
      t.pos.c = max (s.softLo * 2 ^ 24) (min (s.softHi * 2 ^ 24)
          (a.c + (s.g F.POS_SEC_RATIO_V : Int) * ((s.chan q).raw - a.sec)))
        ∧ t.pos.anchor = some a ∧ t.bit F.POS_AXIS_STATUS_ACTIVE = true
        ∧ t.g F.POS_AXIS_STATUS_FO_REASON = s.failReason p true ∧ t.bit F.POS_CAUSE_FAILOVER = true := by
  refine ⟨_, exec_failover live, ?_⟩
  rw [State.onFailure_switches pri first kept fails auto sec healthy anchor]
  have before := s.settlePP_same
  have axis := before.axis
  have after := State.watched_same (fun t => t.switchToSec a q (s.failReason p true)) s
  obtain ⟨c, anchor', active, reason, cause⟩ := s.settlePP.switchToSec_spec a q (s.failReason_lt p true)
  refine ⟨?_, ?_, ?_, ?_, after.causes _ rfl rfl cause⟩
  · rw [after.c, c, axis.softLo, axis.softHi, axis.g (by decide), before.chan]
  · rw [after.anchor, anchor', before.anchor, anchor]
  · rw [after.bit (by decide) (by decide), active]
  · rw [after.g (by decide) (by decide), reason]

theorem failover_loses (auto : s.bit F.POS_AXIS_CFG_AUTO_FO = true) (stuck : s.secOk = false ∨ s.pos.anchor = none) :
    Completes .failover s fun t => t.pos.c = s.pos.c ∧ t.pos.anchor = s.pos.anchor
      ∧ t.bit F.POS_AXIS_STATUS_LOST = true ∧ t.bit F.POS_CAUSE_AXIS_LOST = true := by
  refine ⟨_, exec_failover live, ?_⟩
  rw [State.onFailure_loses pri first kept fails auto stuck]
  have before := s.settlePP_same
  have after := State.withPP_same (fun t => t.loseAxis (s.failReason p true)) s
  obtain ⟨pos, lost, cause⟩ := State.loseAxis_spec (before.axis.axisLost.trans kept) (s.failReason p true)
  refine ⟨?_, ?_, ?_, after.causes _ rfl rfl cause⟩
  · rw [after.c, pos, before.c]
  · rw [after.anchor, pos, before.anchor]
  · rw [after.bit (by decide) (by decide), lost]

end

/-! ## The return to the primary (R161) -/

/-- The status of the print axis on its primary. -/
def State.onPrimary (s : State) : State :=
  { (s.put F.POS_AXIS_STATUS_ACTIVE 0).put F.POS_AXIS_STATUS_LOST 0 with pos := { s.pos with usePri := false } }

theorem State.returnToPri_eq (s : State) : s.returnToPri = State.watchValid (State.withPP State.onPrimary) s := rfl

theorem State.reg_withPos (s : State) (p : Pos) (a : Nat) : ({ s with pos := p } : State).reg a = s.reg a := rfl

theorem State.onPrimary_spec (s : State) : s.onPrimary.bit F.POS_AXIS_STATUS_ACTIVE = false
    ∧ s.onPrimary.bit F.POS_AXIS_STATUS_LOST = false := by
  have same (f : Field) : s.onPrimary.bit f = ((s.put F.POS_AXIS_STATUS_ACTIVE 0).put F.POS_AXIS_STATUS_LOST 0).bit f :=
    State.bit_of_reg (State.reg_withPos _ _ _)
  rw [same, same]
  refine ⟨?_, State.bit_put_zero _ _ (by decide)⟩
  rw [State.bit_put_of_apart _ _ (by decide) (.inr (by decide)), State.bit_put_zero _ _ (by decide)]

section
variable (reaches : s.takes A.POS_CTL)
include reaches

theorem exec_usePri : exec .usePri s = .next s.usePriWrite := by
  change execUsePri s = _
  rw [execUsePri, s.atBlock_takes reaches]

/-- While the grid runs the return waits for a line tick. -/
theorem usePri_waits (healthy : s.priOk = true) (running : s.running = true) : Completes .usePri s fun t =>
    t = { s with pos := { s.pos with usePri := true } } := by
  refine ⟨_, exec_usePri reaches, ?_⟩
  rw [State.usePriWrite, if_neg (by simp [healthy]), if_pos running]

/-- Else the axis returns at once, with C and the anchor as they are. -/
theorem usePri_returns (healthy : s.priOk = true) (stands : s.running = false) : Completes .usePri s fun t =>
    t.bit F.POS_AXIS_STATUS_ACTIVE = false ∧ t.bit F.POS_AXIS_STATUS_LOST = false ∧ t.pos.anchor = s.pos.anchor
      ∧ t.pos.c = s.pos.c := by
  refine ⟨_, exec_usePri reaches, ?_⟩
  rw [State.usePriWrite, if_neg (by simp [healthy]), if_neg (by simp [stands]), State.returnToPri_eq]
  have before := s.settlePP_same
  have after := State.watched_same State.onPrimary s
  obtain ⟨active, lost⟩ := s.settlePP.onPrimary_spec
  beta_reduce
  rw [after.bit (by decide) (by decide), after.bit (by decide) (by decide), after.anchor, after.c]
  exact ⟨active, lost, before.anchor, before.c⟩

theorem usePri_refused (sick : s.priOk = false) : Completes .usePri s fun t => t = s := by
  refine ⟨_, exec_usePri reaches, ?_⟩
  rw [State.usePriWrite, if_pos (by simp [sick])]

end

/-! ## Rebase (R150) -/

/-- C, PP, the anchor and the captures move by `b` whole counts. -/
def State.rebasedPos (s : State) (b : Int) : State :=
  { s with pos := { s.pos with
      c := s.pos.c - b * 2 ^ 24, pp := s.pos.pp - b * 256,
      anchor := s.pos.anchor.map (fun (a : Anchor) => { a with c := a.c - b * 2 ^ 24 }),
      tof := s.pos.tof.map fun (t : Tof) =>
        { t with pend := t.pend.map fun (p : Capture) => { p with c := p.c - b * 2 ^ 24 },
                 last := t.last.map fun x => x - b } } }

/-- The positions in registers move by `b` whole counts: ring entries, comparator targets and soft limits. -/
def State.rebasedRegs (s : State) (b : Int) : State :=
  let s := forUpto 4 (fun t s => forUpto 16 (fun e s =>
    if s.ringFull t e then s.sub48 (ringPos t e).1 (ringPos t e).2 b else s) s) s
  let s := forUpto 16 (fun c s => s.sub48 (F.POS_CMPc_TGT_LO_V c) (F.POS_CMPc_TGT_HI_V c) b) s
  let s := s.subLimit F.POS_SLO_LO_V F.POS_SLO_HI_V b
  s.subLimit F.POS_SHI_LO_V F.POS_SHI_HI_V b

theorem State.rebase_eq (s : State) : s.rebase = if s.anyInside then s.setCause F.POS_CAUSE_REBASE_REFUSED
    else ((s.settlePP.rebasedPos (s.g48 F.POS_REBASE_LO_V F.POS_REBASE_HI_V / 256)).rebasedRegs
      (s.g48 F.POS_REBASE_LO_V F.POS_REBASE_HI_V / 256)).settlePP := rfl

/-- What every turn keeps, all of them keep. -/
theorem forUpto_keeps {f : Nat → State → State} {P : State → Prop} (keeps : ∀ i s, P s → P (f i s)) (n : Nat) {s : State}
    (start : P s) : P (forUpto n f s) := by
  induction n with
  | zero => exact start
  | succ n ih => exact keeps n _ ih

theorem State.rebasedRegs_pos (s : State) (b : Int) : (s.rebasedRegs b).pos = s.pos := by
  have sub {t : State} (lo hi : Field) (h : t.pos = s.pos) : (t.sub48 lo hi b).pos = s.pos := (t.put48_pos lo hi _).trans h
  have limit {t : State} (lo hi : Field) (h : t.pos = s.pos) : (t.subLimit lo hi b).pos = s.pos :=
    (t.put48_pos lo hi _).trans h
  refine limit _ _ (limit _ _ (forUpto_keeps (P := fun t => t.pos = s.pos) (fun c t h => sub _ _ h) 16 ?_))
  refine forUpto_keeps (P := fun t => t.pos = s.pos) (fun i t h => ?_) 4 rfl
  refine forUpto_keeps (P := fun t => t.pos = s.pos) (fun e t h => ?_) 16 h
  split
  · exact sub _ _ h
  · exact h

section
variable (reaches : s.takes A.POS_CTL)
include reaches

theorem exec_rebase : exec .rebase s = .next s.rebase := by
  change execRebase s = _
  rw [execRebase, s.atBlock_takes reaches]

theorem rebase_refused (inside : s.anyInside = true) : Completes .rebase s fun t =>
    s.onlyRegsAndEvents t [A.POS_CAUSE] ∧ t.bit F.POS_CAUSE_REBASE_REFUSED = true := by
  refine ⟨_, exec_rebase reaches, ?_⟩
  rw [State.rebase_eq, if_pos inside]
  exact ⟨(State.onlyRegs.refl s).setCause _, State.bit_setCause _ _ (by decide) rfl (not_routerReg_behind (by decide))⟩

theorem rebase_moves (outside : s.anyInside = false) : Completes .rebase s fun t =>
    t.pos.c = s.pos.c - s.g48 F.POS_REBASE_LO_V F.POS_REBASE_HI_V / 256 * 2 ^ 24 ∧ ∀ x, t.chan x = s.chan x := by
  refine ⟨_, exec_rebase reaches, ?_⟩
  rw [State.rebase_eq, if_neg (by simp [outside])]
  obtain ⟨b, hb⟩ : ∃ b, b = s.g48 F.POS_REBASE_LO_V F.POS_REBASE_HI_V / 256 := ⟨_, rfl⟩
  have before := s.settlePP_same
  have after := ((s.settlePP.rebasedPos b).rebasedRegs b).settlePP_same
  have pos := (s.settlePP.rebasedPos b).rebasedRegs_pos b
  rw [← hb, after.c, pos]
  refine ⟨?_, fun x => ?_⟩
  · rw [← before.c]
    rfl
  · rw [after.chan, State.chan_of_pos pos, ← before.chan]
    rfl

end

end

end Sys2Proof.Machine
end

section
/-!
PROOFS. Top-of-form captures (05 R162-R164).
-/

namespace Sys2Proof.Machine

/-! ## A top-of-form input (R162, R163) -/

section
variable (s : State) (t : Fin 4)

@[simp] theorem State.tofIn_setTof_same (x : Tof) : (s.setTof t x).tofIn t = x := by
  simp [State.setTof, State.tofIn]

theorem State.tofIn_of_pos {s u : State} (same : u.pos = s.pos) (t : Fin 4) : u.tofIn t = s.tofIn t := by
  unfold State.tofIn
  rw [same]

/-- The edges latched on an input become `l`. -/
theorem State.tofIn_setPend (l : List Capture) : (s.setPend t l).tofIn t = { s.tofIn t with pend := l } := by
  unfold State.setPend
  dsimp only
  split
  · exact (State.tofIn_of_pos (State.modCal_pos _ _ _) t).trans (s.tofIn_setTof_same t _)
  · exact s.tofIn_setTof_same t _

theorem State.regs_setPend (l : List Capture) : (s.setPend t l).regs = s.regs := by
  unfold State.setPend
  dsimp only
  split
  · rfl
  · rfl

end

section
variable {s : State} {t : Fin 4}

/-! ## What waits (R163) -/

/-- A latched edge may be published once its filters have passed. -/
theorem State.captureDue_iff (p : Capture) : s.captureDue t p = true ↔
    ¬ s.now < p.t + max (s.g (F.POS_TOFt_CFG_MINW t)) s.captureFilter * posCycle := by
  rw [State.captureDue, decide_eq_true_iff, Nat.not_lt]

theorem State.tofSettle_empty (empty : (s.tofIn t).pend = []) : s.tofSettle t = s := by
  unfold State.tofSettle
  rw [empty]

theorem State.tofSettle_cons {p : Capture} {r : List Capture} (pend : (s.tofIn t).pend = p :: r) :
    s.tofSettle t = if s.captureDue t p then (s.publishCapture t p).setPend t r else s := by
  unfold State.tofSettle
  rw [pend]

/-- Nothing is published while every latched edge waits. -/
theorem State.tofSettleAll_waits (waits : ∀ p ∈ (s.tofIn t).pend, ¬ s.captureDue t p = true) : s.tofSettleAll t = s := by
  have one : s.tofSettle t = s := by
    cases pend : (s.tofIn t).pend with
    | nil => exact State.tofSettle_empty pend
    | cons p r => rw [State.tofSettle_cons pend, if_neg (waits p (by rw [pend]; exact .head _))]
  exact List.foldl_fixed' (fun _ => one) _

theorem tofPublish_waits (waits : (s.tofIn t).pend = [] ∨ ∃ p r, (s.tofIn t).pend = p :: r ∧ ¬ s.captureDue t p = true) :
    Completes (.tofPublish t) s fun u => u = s := by
  refine ⟨s.tofSettle t, rfl, ?_⟩
  rcases waits with empty | ⟨p, r, pend, early⟩
  · exact State.tofSettle_empty empty
  · rw [State.tofSettle_cons pend, if_neg early]

/-! ## Edges (R162, R163) -/

/-- The input at a new level. -/
def State.atLevel (s : State) (t : Fin 4) (level : Bool) : State := s.setTof t { s.tofIn t with level := level }

theorem State.tofIn_atLevel (level : Bool) : (s.atLevel t level).tofIn t = { s.tofIn t with level := level } :=
  s.tofIn_setTof_same t _

/-- An edge whose level has stayed for MINW samples at the time of the next one. -/
def State.keptUntil (s : State) (t : Fin 4) (cross : Nat) (p : Capture) : Bool :=
  decide (p.t + s.g (F.POS_TOFt_CFG_MINW t) * posCycle ≤ cross)

theorem State.keptUntil_iff (cross : Nat) (p : Capture) :
    s.keptUntil t cross p = true ↔ p.t + s.g (F.POS_TOFt_CFG_MINW t) * posCycle ≤ cross := by
  rw [State.keptUntil, decide_eq_true_iff]

theorem State.tofLevel_eq (s : State) (t : Fin 4) (level : Bool) (cross : Nat) : s.tofLevel t level cross =
    ((s.tofIn t).pend.filter fun p => !s.keptUntil t cross p).foldl (fun s _ => s.tofReject t)
      (if (s.tofIn t).pend.all (s.keptUntil t cross) then s.atLevel t level
        else (s.atLevel t level).setPend t ((s.tofIn t).pend.filter (s.keptUntil t cross))) := rfl

/-- A level that every latched edge has outlived rejects none. -/
theorem State.tofLevel_kept {level : Bool} {cross : Nat}
    (kept : ∀ p ∈ (s.tofIn t).pend, p.t + s.g (F.POS_TOFt_CFG_MINW t) * posCycle ≤ cross) :
    s.tofLevel t level cross = s.atLevel t level := by
  have all : ∀ p ∈ (s.tofIn t).pend, s.keptUntil t cross p = true := fun p listed =>
    (State.keptUntil_iff cross p).2 (kept p listed)
  have none' : ((s.tofIn t).pend.filter fun p => !s.keptUntil t cross p) = [] :=
    List.filter_eq_nil_iff.2 fun p listed => by simp [all p listed]
  rw [State.tofLevel_eq, none', if_pos (List.all_eq_true.2 all), List.foldl_nil]

/-- A level that comes too early rejects the lone latched edge. -/
theorem State.tofLevel_rejects {level : Bool} {cross : Nat} {p : Capture} (pend : (s.tofIn t).pend = [p])
    (early : cross < p.t + s.g (F.POS_TOFt_CFG_MINW t) * posCycle) :
    s.tofLevel t level cross = ((s.atLevel t level).setPend t []).tofReject t := by
  have unkept : s.keptUntil t cross p = false := by
    rw [← Bool.not_eq_true, State.keptUntil_iff, Nat.not_le]
    exact early
  have rejected : ([p].filter fun p => !s.keptUntil t cross p) = [p] := List.filter_eq_self.2 fun x listed => by
    rw [List.mem_singleton.1 listed, unkept]
    rfl
  have left : [p].filter (s.keptUntil t cross) = [] := List.filter_eq_nil_iff.2 fun x listed => by
    simp [List.mem_singleton.1 listed, unkept]
  have some' : ¬ [p].all (s.keptUntil t cross) = true := by
    rw [List.all_cons, unkept]
    exact Bool.false_ne_true
  rw [State.tofLevel_eq, pend, rejected, left, if_neg some', List.foldl_cons, List.foldl_nil]

/-- Whether an edge falls into the lockout depends on C, LOCKOUT and the captures, not on the level. -/
theorem State.tofLocked_atLevel (level : Bool) : (s.atLevel t level).tofLocked t = true ↔
    (∃ y, (s.tofIn t).last = some y ∧ (s.pos.c / 2 ^ 24 - y).natAbs < s.g (F.POS_TOFt_CFG_LOCKOUT t))
      ∨ ∃ p ∈ (s.tofIn t).pend, (s.pos.c / 2 ^ 24 - p.c / 2 ^ 24).natAbs < s.g (F.POS_TOFt_CFG_LOCKOUT t) := by
  have lockout : (s.atLevel t level).g (F.POS_TOFt_CFG_LOCKOUT t) = s.g (F.POS_TOFt_CFG_LOCKOUT t) :=
    State.g_of_reg (State.reg_of_regs rfl _)
  have c : (s.atLevel t level).pos.c = s.pos.c := rfl
  unfold State.tofLocked
  rw [State.tofIn_atLevel, lockout, c]
  simp only [Bool.or_eq_true, Option.any_eq_true, List.any_eq_true, decide_eq_true_eq]

theorem not_routerReg_tofCause : ¬ routerReg A.POS_TOF_CAUSE := not_routerReg_behind (by decide)

/-- A rejected edge changes its count and its cause only. -/
theorem State.g_tofReject {f : Field} (count : f.off ≠ A.POS_TOFt_REJ t) (cause : f.off ≠ A.POS_TOF_CAUSE)
    (behind : 0x49008 ≤ f.off) : (s.tofReject t).g f = s.g f := by
  have fits : 4 + t.val + 1 ≤ 32 := by omega
  rw [State.tofReject, State.g_setCause_of_apart _ fits (.inl cause) (not_routerReg_behind behind), State.g_bump_other count]

/-- A rejected edge is counted and reported. -/
theorem State.tofReject_spec (s : State) (t : Fin 4) : (s.tofReject t).tofIn t = s.tofIn t
    ∧ s.counted (s.tofReject t) (F.POS_TOFt_REJ_V t) ∧ (s.tofReject t).bit ⟨A.POS_TOF_CAUSE, 4 + t.val, 1⟩ = true
    ∧ (s.tofReject t).g (F.POS_TOFt_SEQ_SEQ t) = s.g (F.POS_TOFt_SEQ_SEQ t) := by
  have rej : A.POS_TOFt_REJ t < A.POS_TOF_CAUSE ∧ 0x49008 ≤ A.POS_TOFt_REJ t := by
    simp only [A.POS_TOFt_REJ, A.POS_TOF_CAUSE]
    omega
  have seq : A.POS_TOFt_SEQ t < A.POS_TOF_CAUSE ∧ 0x49008 ≤ A.POS_TOFt_SEQ t := by
    simp only [A.POS_TOFt_SEQ, A.POS_TOF_CAUSE]
    omega
  have fits : 4 + t.val + 1 ≤ 32 := by omega
  refine ⟨State.tofIn_of_pos ((State.setCause_pos _ _).trans (s.bump_pos _)) t, ?_,
    State.bit_setCause _ _ fits rfl not_routerReg_tofCause,
    State.g_tofReject (barOff_ne (k := 0x80304) (k' := 0x80308) _ (by decide)) seq.1.ne seq.2⟩
  rw [State.counted, State.tofReject, State.g_setCause_of_apart _ fits (.inl rej.1.ne) (not_routerReg_behind rej.2),
    State.g_bump _ _ (Nat.le_of_ble_eq_true rfl)]

/-- The capture of an edge now. -/
def State.captureNow (s : State) (cross : Nat) : Capture :=
  let ch := match s.activeSrc with | some c => s.chan c | none => {}
  { t := cross, c := s.pos.c, lastT := ch.lastT, v := s.axisV, valid := s.axisValid,
    qmax := s.weight * ch.lastMag, src := b2n s.onSec, lost := s.axisLost }

/-- The delay line of an input is no longer idle. -/
def State.delayBusy (s : State) (t : Fin 4) : State :=
  if (s.tofIn t).pend = [] then s.modCal (calIndex 7 t) (CalInst.idleEnds s.now) else s

theorem State.tofLatch_eq (s : State) (t : Fin 4) (cross : Nat) : s.tofLatch t cross = (s.delayBusy t).setTof t
    { (s.delayBusy t).tofIn t with pend := ((s.delayBusy t).tofIn t).pend ++ [s.captureNow cross] } := rfl

theorem State.delayBusy_frame (s : State) (t : Fin 4) : s.delayBusy t = { s with cal := (s.delayBusy t).cal } := by
  unfold State.delayBusy
  split
  · rfl
  · rfl

/-- An edge is latched behind those that wait, with C at its time. -/
theorem State.tofLatch_spec (s : State) (t : Fin 4) (cross : Nat) :
    s.tofLatch t cross = { s with pos := (s.tofLatch t cross).pos, cal := (s.tofLatch t cross).cal }
      ∧ (s.tofLatch t cross).tofIn t = { s.tofIn t with pend := (s.tofIn t).pend ++ [s.captureNow cross] } := by
  have same : (s.delayBusy t).tofIn t = s.tofIn t := State.tofIn_of_pos (by rw [State.delayBusy_frame]) t
  rw [State.tofLatch_eq, State.tofIn_setTof_same, same]
  refine ⟨?_, rfl⟩
  rw [State.delayBusy_frame]
  rfl

section
variable {level : Bool} {sub : Fin 13} (live : s.posLive = true) (edge : level ≠ (s.tofIn t).level)
  (waits : ∀ p ∈ (s.tofIn t).pend, ¬ s.captureDue t p = true)
include live edge waits

/-- A new level while every latched edge waits. -/
theorem exec_tofCapture : exec (.tofCapture t level sub) s = .next
    (if !(s.tofLevel t level (s.now + sub.val * 5120)).bit (F.POS_TOFt_CFG_EN t)
        || level == (s.tofLevel t level (s.now + sub.val * 5120)).bit (F.POS_TOFt_CFG_EDGE t) then
      s.tofLevel t level (s.now + sub.val * 5120)
    else if (s.tofLevel t level (s.now + sub.val * 5120)).tofLocked t then
      (s.tofLevel t level (s.now + sub.val * 5120)).tofReject t
    else (s.tofLevel t level (s.now + sub.val * 5120)).tofLatch t (s.now + sub.val * 5120)) := by
  change execTofCapture t level sub s = _
  unfold execTofCapture
  rw [if_neg (by simp [live]), State.tofSettleAll_waits waits]
  dsimp only
  rw [if_neg (by simpa using edge)]
  split
  · rfl
  · split <;> rfl

section
variable (enabled : s.bit (F.POS_TOFt_CFG_EN t) = true) (polarity : level ≠ s.bit (F.POS_TOFt_CFG_EDGE t))
  (kept : ∀ p ∈ (s.tofIn t).pend, p.t + s.g (F.POS_TOFt_CFG_MINW t) * posCycle ≤ s.now + sub.val * 5120)
include enabled polarity kept

/-- An edge of the set polarity is latched, or rejected in the lockout. -/
theorem exec_tofCapture_edge : exec (.tofCapture t level sub) s = .next
    (if (s.atLevel t level).tofLocked t then (s.atLevel t level).tofReject t
    else (s.atLevel t level).tofLatch t (s.now + sub.val * 5120)) := by
  have same (f : Field) : (s.atLevel t level).bit f = s.bit f := State.bit_of_reg (State.reg_of_regs rfl _)
  rw [exec_tofCapture live edge waits, State.tofLevel_kept kept, same, same, if_neg (by simpa [enabled] using polarity)]

theorem tofCapture_latches (free : ¬ (s.atLevel t level).tofLocked t = true) :
    Completes (.tofCapture t level sub) s fun u => u = { s with pos := u.pos, cal := u.cal }
      ∧ (u.tofIn t).level = level
      ∧ ∃ p, (u.tofIn t).pend = (s.tofIn t).pend ++ [p] ∧ p.t = s.now + sub.val * 5120 ∧ p.c = s.pos.c := by
  obtain ⟨frame, own⟩ := (s.atLevel t level).tofLatch_spec t (s.now + sub.val * 5120)
  rw [State.tofIn_atLevel] at own
  refine ⟨_, exec_tofCapture_edge live edge waits enabled polarity kept, ?_⟩
  rw [if_neg free]
  have c : (s.atLevel t level).pos.c = s.pos.c := rfl
  refine ⟨frame, by rw [own], _, by rw [own], ?_, ?_⟩
  · rfl
  · exact c

theorem tofCapture_locked (locked : (s.atLevel t level).tofLocked t = true) :
    Completes (.tofCapture t level sub) s fun u => (u.tofIn t).pend = (s.tofIn t).pend ∧ (u.tofIn t).level = level
      ∧ s.counted u (F.POS_TOFt_REJ_V t) ∧ u.bit ⟨A.POS_TOF_CAUSE, 4 + t.val, 1⟩ = true
      ∧ u.g (F.POS_TOFt_SEQ_SEQ t) = s.g (F.POS_TOFt_SEQ_SEQ t) := by
  have same (f : Field) : (s.atLevel t level).g f = s.g f := State.g_of_reg (State.reg_of_regs rfl _)
  obtain ⟨own, counted, bit, seq⟩ := (s.atLevel t level).tofReject_spec t
  rw [State.counted, same] at counted
  rw [State.tofIn_atLevel] at own
  refine ⟨_, exec_tofCapture_edge live edge waits enabled polarity kept, ?_⟩
  rw [if_pos locked]
  exact ⟨by rw [own], by rw [own], counted, bit, seq.trans (same _)⟩

end

/-- The edge back within MINW samples rejects the one before. -/
theorem tofCapture_rejects {p : Capture} (pend : (s.tofIn t).pend = [p]) (back : level = s.bit (F.POS_TOFt_CFG_EDGE t))
    (early : s.now + sub.val * 5120 < p.t + s.g (F.POS_TOFt_CFG_MINW t) * posCycle) :
    Completes (.tofCapture t level sub) s fun u => (u.tofIn t).pend = [] ∧ (u.tofIn t).level = level
      ∧ s.counted u (F.POS_TOFt_REJ_V t) ∧ u.bit ⟨A.POS_TOF_CAUSE, 4 + t.val, 1⟩ = true
      ∧ u.g (F.POS_TOFt_SEQ_SEQ t) = s.g (F.POS_TOFt_SEQ_SEQ t) := by
  obtain ⟨own, counted, bit, seq⟩ := ((s.atLevel t level).setPend t []).tofReject_spec t
  have regs : ((s.atLevel t level).setPend t []).regs = s.regs := State.regs_setPend _ t []
  have same (f : Field) : ((s.atLevel t level).setPend t []).g f = s.g f := State.g_of_reg (State.reg_of_regs regs _)
  have cfg : A.POS_TOFt_CFG t ≠ A.POS_TOF_CAUSE ∧ 0x49008 ≤ A.POS_TOFt_CFG t := by
    simp only [A.POS_TOFt_CFG, A.POS_TOF_CAUSE]
    omega
  have edge' : (((s.atLevel t level).setPend t []).tofReject t).bit (F.POS_TOFt_CFG_EDGE t) = level := by
    have kept := State.g_tofReject (s := (s.atLevel t level).setPend t []) (f := F.POS_TOFt_CFG_EDGE t)
      (barOff_ne (k := 0x80300) (k' := 0x80308) _ (by decide)) cfg.1 cfg.2
    rw [State.bit, kept, same]
    exact back.symm
  rw [State.counted, same] at counted
  rw [State.tofIn_setPend, State.tofIn_atLevel] at own
  refine ⟨_, exec_tofCapture live edge waits, ?_⟩
  rw [State.tofLevel_rejects pend early, if_pos (by simp [edge'])]
  exact ⟨by rw [own], by rw [own], counted, bit, seq.trans (same _)⟩

end

/-! ## Publishing (R163, R164) -/

/-- The sequence number of the next capture of an input. -/
def State.nextCapture (s : State) (t : Fin 4) : Nat :=
  if s.bit (F.POS_TOFt_SEQ_ANY t) then (s.g (F.POS_TOFt_SEQ_SEQ t) + 1) % 65536 else 0

theorem State.nextCapture_lt (s : State) (t : Fin 4) : s.nextCapture t < 65536 := by
  unfold State.nextCapture
  split
  · exact Nat.mod_lt _ (by decide)
  · decide

/-- The registers of an input's block, of which the cause is none, lie behind the router's. -/
theorem ringOff_apart (t : Fin 4) (e w : Nat) : A.POS_RING t e w ≠ A.POS_TOFt_SEQ t ∧ A.POS_RING t e w ≠ A.POS_TOF_CAUSE
    ∧ 0x49008 ≤ A.POS_RING t e w := by
  simp only [A.POS_RING, A.POS_TOFt_SEQ, A.POS_TOF_CAUSE]
  omega

theorem seqOff_apart (t : Fin 4) : A.POS_TOFt_SEQ t ≠ A.POS_TOF_CAUSE ∧ 0x49008 ≤ A.POS_TOFt_SEQ t := by
  simp only [A.POS_TOFt_SEQ, A.POS_TOF_CAUSE]
  omega

/-- A capture in the ring entry of its sequence number, and the number itself. -/
def State.ringWritten (s : State) (t q : Nat) (p : Capture) (x : Int) (est : Bool) : State :=
  let u := unsigned 48 x
  let w1 := u / 2 ^ 32 + b2n est * 2 ^ 16 + p.src * 2 ^ 17 + b2n p.valid * 2 ^ 18 + b2n p.lost * 2 ^ 19
  ((((((((s.setReg (A.POS_RING t (q % 16) 0) (BitVec.ofNat 32 u)).setReg (A.POS_RING t (q % 16) 1)
    (BitVec.ofNat 32 w1)).setReg (A.POS_RING t (q % 16) 2) (BitVec.ofNat 32 (p.t / 65536))).setReg
    (A.POS_RING t (q % 16) 3) (BitVec.ofNat 32 (p.t / 65536 / 2 ^ 32))).setReg (A.POS_RING t (q % 16) 5)
    (BitVec.ofNat 32 (speedWord p.v))).setReg (A.POS_RING t (q % 16) 4) (BitVec.ofNat 32 (q + 2 ^ 16))).put
    (F.POS_TOFt_SEQ_SEQ t) q).put (F.POS_TOFt_SEQ_ANY t) 1)

/-- The place of a capture, from which the lockout counts, and C settled. -/
def State.captureKept (s : State) (t : Fin 4) (x : Int) : State :=
  let s := s.setTof t { (s.tofIn t) with last := some (x / 256) }
  s.setC s.pos.c

theorem State.regs_captureKept (s : State) (t : Fin 4) (x : Int) : (s.captureKept t x).regs = s.regs := rfl

theorem State.publishCapture_eq (s : State) (t : Fin 4) (p : Capture) : ∃ x est, s.publishCapture t p =
    ((s.ringWritten t (s.nextCapture t) p x est).captureKept t x).setCause ⟨A.POS_TOF_CAUSE, t.val, 1⟩ := by
  unfold State.publishCapture
  obtain ⟨x, est⟩ := interpolate p.c p.v (interpTerm p.v p.valid (p.t - p.lastT) p.qmax) s.softLo s.softHi
  exact ⟨x, est, rfl⟩

theorem State.ringWritten_spec (s : State) (t : Fin 4) {q : Nat} (small : q < 65536) (p : Capture) (x : Int) (est : Bool) :
    (s.ringWritten t q p x est).g (F.POS_TOFt_SEQ_SEQ t) = q
      ∧ (s.ringWritten t q p x est).bit (F.POS_TOFt_SEQ_ANY t) = true
      ∧ (s.ringWritten t q p x est).reg (A.POS_RING t (q % 16) 4) = BitVec.ofNat 32 (q + 2 ^ 16)
      ∧ (s.ringWritten t q p x est).reg (A.POS_RING t (q % 16) 2) = BitVec.ofNat 32 (p.t / 65536) := by
  have apart {i j : Nat} (h : i ≠ j) : A.POS_RING t (q % 16) i ≠ A.POS_RING t (q % 16) j := by
    simp only [A.POS_RING]
    omega
  unfold State.ringWritten
  refine ⟨?_, State.bit_put_one _ _ (Nat.le_of_ble_eq_true rfl) rfl, ?_, ?_⟩
  · rw [State.g_put_of_apart _ _ (Nat.le_of_ble_eq_true rfl) (.inr (.inl (Nat.le_of_ble_eq_true rfl))),
      State.g_put_same _ _ _ (Nat.le_of_ble_eq_true rfl)]
    exact Nat.mod_eq_of_lt small
  · rw [State.reg_put_other _ _ (ringOff_apart t _ 4).1, State.reg_put_other _ _ (ringOff_apart t _ 4).1,
      State.reg_setReg_same]
  · rw [State.reg_put_other _ _ (ringOff_apart t _ 2).1, State.reg_put_other _ _ (ringOff_apart t _ 2).1,
      State.reg_setReg_other _ _ (apart (by decide)), State.reg_setReg_other _ _ (apart (by decide)),
      State.reg_setReg_other _ _ (apart (by decide)), State.reg_setReg_same]

/-- A published capture stands in the ring entry of its sequence number. -/
theorem State.publishCapture_spec (s : State) (t : Fin 4) (p : Capture) :
    (s.publishCapture t p).g (F.POS_TOFt_SEQ_SEQ t) = s.nextCapture t
      ∧ (s.publishCapture t p).bit (F.POS_TOFt_SEQ_ANY t) = true
      ∧ (s.publishCapture t p).reg (A.POS_RING t (s.nextCapture t % 16) 4) = BitVec.ofNat 32 (s.nextCapture t + 2 ^ 16)
      ∧ (s.publishCapture t p).reg (A.POS_RING t (s.nextCapture t % 16) 2) = BitVec.ofNat 32 (p.t / 65536)
      ∧ (s.publishCapture t p).bit ⟨A.POS_TOF_CAUSE, t.val, 1⟩ = true := by
  obtain ⟨x, est, published⟩ := s.publishCapture_eq t p
  obtain ⟨seq, any, word4, word2⟩ := s.ringWritten_spec t (s.nextCapture_lt t) p x est
  have fits : t.val + 1 ≤ 32 := by omega
  have kept {a : Nat} (other : a ≠ A.POS_TOF_CAUSE) (behind : 0x49008 ≤ a) :
      (s.publishCapture t p).reg a = (s.ringWritten t (s.nextCapture t) p x est).reg a := by
    rw [published, State.reg_setCause_other _ _ other (not_routerReg_behind behind)]
    exact State.reg_of_regs (State.regs_captureKept _ t x) a
  have keptSeq := kept (seqOff_apart t).1 (seqOff_apart t).2
  have keptRing (w : Nat) := kept (ringOff_apart t (s.nextCapture t % 16) w).2.1 (ringOff_apart t _ w).2.2
  refine ⟨(State.g_of_reg keptSeq).trans seq, (State.bit_of_reg keptSeq).trans any, (keptRing 4).trans word4,
    (keptRing 2).trans word2, ?_⟩
  rw [published]
  exact State.bit_setCause _ _ fits rfl not_routerReg_tofCause

theorem tofPublish_publishes {p : Capture} {r : List Capture} (pend : (s.tofIn t).pend = p :: r)
    (due : s.captureDue t p = true) : Completes (.tofPublish t) s fun u =>
      (u.tofIn t).pend = r ∧ u.g (F.POS_TOFt_SEQ_SEQ t) = s.nextCapture t ∧ u.bit (F.POS_TOFt_SEQ_ANY t) = true
        ∧ u.reg (A.POS_RING t (s.nextCapture t % 16) 4) = BitVec.ofNat 32 (s.nextCapture t + 2 ^ 16)
        ∧ u.reg (A.POS_RING t (s.nextCapture t % 16) 2) = BitVec.ofNat 32 (p.t / 65536)
        ∧ u.bit ⟨A.POS_TOF_CAUSE, t.val, 1⟩ = true := by
  obtain ⟨seq, any, word4, word2, cause⟩ := s.publishCapture_spec t p
  have settled : s.tofSettle t = (s.publishCapture t p).setPend t r := by rw [State.tofSettle_cons pend, if_pos due]
  have same (a : Nat) : (s.tofSettle t).reg a = (s.publishCapture t p).reg a := by
    rw [settled]
    exact State.reg_of_regs (State.regs_setPend _ t r) a
  have left : ((s.tofSettle t).tofIn t).pend = r := by rw [settled, State.tofIn_setPend]
  exact ⟨s.tofSettle t, rfl, left, (State.g_of_reg (same _)).trans seq, (State.bit_of_reg (same _)).trans any,
    (same _).trans word4, (same _).trans word2, (State.bit_of_reg (same _)).trans cause⟩

end

end Sys2Proof.Machine
end

section
/-!
PROOFS. Comparators (05 R166, R167).
-/

namespace Sys2Proof.Machine

theorem State.reg_modCam (s : State) (p : Fin 4) (f : CamPort → CamPort) (a : Nat) : (s.modCam p f).reg a = s.reg a := rfl

theorem State.stored_or_kept {b : Prop} [Decidable b] (s : State) (f : Field) (v : Nat) :
    (if b then s.put f v else s) = s ∨ ∃ v', (if b then s.put f v else s) = s.put f v' := by
  split
  · exact .inr ⟨v, rfl⟩
  · exact .inl rfl

/-- A trigger counts the generation of its settings, where they changed, and its own number. -/
theorem State.issueTrigger_eq (s : State) (p : Fin 4) : ∃ (u : State) (q : Nat) (f : CamPort → CamPort),
    (u = s ∨ ∃ v, u = s.put (F.CAM_Pp_GEN_V p) v)
      ∧ s.issueTrigger p = ((u.put (F.CAM_Pp_TSEQ_SEQ p) q).put (F.CAM_Pp_TSEQ_ANY p) 1).modCam p f := by
  unfold State.issueTrigger
  obtain ⟨dly, w⟩ := s.strobeRegs p
  refine ⟨_, _, _, ?_, rfl⟩
  exact State.stored_or_kept s _ _

section
variable {s : State} (p : Fin 4) {a : Nat} (below : a < 0xC0000)
include below

theorem camOff_ne {k : Nat} (behind : 0xC0000 ≤ k) : a ≠ k + p.val * 0x1000 := by
  omega

/-- A trigger that is issued stores in the camera ports only. -/
theorem State.reg_issueTrigger : (s.issueTrigger p).reg a = s.reg a := by
  have kept (s : State) {f : Field} (v : Nat) {k : Nat} (behind : 0xC0000 ≤ k) (off : f.off = k + p.val * 0x1000) :
      (s.put f v).reg a = s.reg a := State.reg_put_other _ _ (by rw [off]; exact camOff_ne p below behind)
  obtain ⟨u, q, f, generation, issued⟩ := s.issueTrigger_eq p
  have seq := (kept (u.put (F.CAM_Pp_TSEQ_SEQ p) q) 1 (k := 0xC0024) (f := F.CAM_Pp_TSEQ_ANY p) (by decide) rfl).trans
    (kept u q (k := 0xC0024) (by decide) rfl)
  rw [issued, State.reg_modCam, seq]
  rcases generation with rfl | ⟨v, rfl⟩
  · rfl
  · exact kept s v (k := 0xC0020) (by decide) rfl

/-- A trigger request stores in the camera ports only, and raises their event. -/
theorem State.reg_triggerRequest (unrouted : ¬ routerReg a) : (s.triggerRequest p).reg a = s.reg a := by
  unfold State.triggerRequest
  extract_lets c spaced ok u
  have same : u.reg a = s.reg a := s.reg_modCam p _ a
  split
  · rfl
  · split
    · exact (State.reg_issueTrigger p below).trans same
    · rw [State.reg_setCause_other _ _ (camOff_ne (k := 0xC0030) p below (by decide)) unrouted, State.bump, State.bumpBy,
        State.reg_put_other _ _ (camOff_ne (k := 0xC0214) p below (by decide)), same]

end

section
variable {s : State} {c : Fin 16}

/-- The condition of a comparator: the position reaches the target from below or from above. -/
theorem State.cmpHolds_iff (s : State) (c : Nat) : s.cmpHolds c = true ↔
    (s.g (F.POS_CMPc_CTL_MODE c) = 1 ∧ s.g48 (F.POS_CMPc_TGT_LO_V c) (F.POS_CMPc_TGT_HI_V c)
        ≤ if s.bit (F.POS_CMPc_CTL_SRC c) then s.ppNow.1 else s.posNow.1)
      ∨ (s.g (F.POS_CMPc_CTL_MODE c) = 2 ∧ (if s.bit (F.POS_CMPc_CTL_SRC c) then s.ppNow.1 else s.posNow.1)
        ≤ s.g48 (F.POS_CMPc_TGT_LO_V c) (F.POS_CMPc_TGT_HI_V c)) := by
  unfold State.cmpHolds
  dsimp only
  split
  case h_1 mode => simp [mode]
  case h_2 mode => simp [mode]
  case h_3 up down =>
    constructor
    · intro never
      cases never
    · rintro (⟨mode, -⟩ | ⟨mode, -⟩)
      · exact (up mode).elim
      · exact (down mode).elim

/-- A register that is one field holds the low word of what is stored in it. -/
theorem State.reg_put_word {s : State} {f : Field} (lo : f.lo = 0) (w : f.w = 32) {v : Nat} :
    (s.put f v).reg f.off = BitVec.ofNat 32 v := by
  have whole : (s.reg f.off).toNat / 2 ^ 32 = 0 := Nat.div_eq_of_lt (s.reg f.off).isLt
  rw [State.reg_put, if_pos rfl, lo, w]
  apply BitVec.eq_of_toNat_eq
  rw [Word.insert_toNat _ _ _ _ (by decide), BitVec.toNat_ofNat, Nat.zero_add, whole]
  omega

theorem State.ts_withPos (s : State) (p : Pos) : ({ s with pos := p } : State).ts = s.ts := rfl

/-- A comparator after its hit, before the trigger it may request. -/
def State.cmpReported (s : State) (c : Fin 16) : State :=
  let k := s.now / posCycle
  let again := (s.pos.cmp[c]).rearmed == some k
  let s := { s with pos := { s.pos with cmp := s.pos.cmp.set c { evalFrom := k + 1 } } }
  let s := (s.putb (F.POS_CMPc_CTL_ARM c) again).put (F.POS_CMPc_TS_V c) s.ts
  s.setCause ⟨A.POS_CMP_CAUSE, c.val, 1⟩

theorem State.cmpHit_eq (s : State) (c : Fin 16) : s.cmpHit c =
    if (s.cmpReported c).bit (F.POS_CMPc_CTL_TRIG_EN c) then
      (s.cmpReported c).triggerRequest (Fin.ofNat 4 ((s.cmpReported c).g (F.POS_CMPc_CTL_CAM c)))
    else s.cmpReported c := rfl

theorem State.reg_cmpHit {a : Nat} (below : a < 0xC0000) (unrouted : ¬ routerReg a) :
    (s.cmpHit c).reg a = (s.cmpReported c).reg a := by
  rw [State.cmpHit_eq]
  split
  · exact State.reg_triggerRequest _ below unrouted
  · rfl

theorem State.cmpReported_spec (s : State) (c : Fin 16) :
    (s.cmpReported c).bit (F.POS_CMPc_CTL_ARM c) = decide ((s.pos.cmp[c]).rearmed = some (s.now / posCycle))
      ∧ (s.cmpReported c).reg (A.POS_CMPc_TS c) = BitVec.ofNat 32 s.ts
      ∧ (s.cmpReported c).bit ⟨A.POS_CMP_CAUSE, c.val, 1⟩ = true := by
  have fits : c.val + 1 ≤ 32 := by omega
  have cause : ¬ routerReg A.POS_CMP_CAUSE := not_routerReg_behind (by decide)
  have ctl : A.POS_CMPc_CTL c ≠ A.POS_CMP_CAUSE ∧ 0x49008 ≤ A.POS_CMPc_CTL c := by
    simp only [A.POS_CMPc_CTL, A.POS_CMP_CAUSE]
    omega
  have ts : A.POS_CMPc_TS c ≠ A.POS_CMP_CAUSE ∧ 0x49008 ≤ A.POS_CMPc_TS c := by
    simp only [A.POS_CMPc_TS, A.POS_CMP_CAUSE]
    omega
  have apart : A.POS_CMPc_CTL c ≠ A.POS_CMPc_TS c := barOff_ne (k := 0x80C08) (k' := 0x80C0C) _ (by decide)
  unfold State.cmpReported
  extract_lets k again u v
  refine ⟨?_, ?_, State.bit_setCause _ _ fits rfl cause⟩
  · rw [State.bit_setCause_of_apart _ fits (.inl ctl.1) (not_routerReg_behind ctl.2),
      State.bit_put_of_apart _ _ (Nat.le_of_ble_eq_true rfl) (.inl apart),
      State.bit_putb _ _ _ (Nat.le_of_ble_eq_true rfl) rfl]
    exact beq_eq_decide _ _
  · rw [State.reg_setCause_other _ _ ts.1 (not_routerReg_behind ts.2)]
    exact (State.reg_put_word (f := F.POS_CMPc_TS_V c) rfl rfl).trans (congrArg _ (s.ts_withPos _))

section
variable (rested : s.seqRun = false) (up : s.up .pos = true) (armed : s.bit (F.POS_CMPc_CTL_ARM c) = true)
include rested up armed

theorem exec_comparatorHit : exec (.comparatorHit c) s = .next
    (if (s.pos.cmp[c]).evalFrom ≤ s.now / posCycle ∧ s.cmpHolds c = true then s.cmpHit c else s) := by
  change execComparatorHit c s = _
  simp [execComparatorHit, rested, up, State.cmpLive, armed]

theorem comparatorHit_hits (holds : s.cmpHolds c = true) (due : (s.pos.cmp[c]).evalFrom ≤ s.now / posCycle) :
    Completes (.comparatorHit c) s fun u =>
      u.bit (F.POS_CMPc_CTL_ARM c) = decide ((s.pos.cmp[c]).rearmed = some (s.now / posCycle))
        ∧ u.reg (A.POS_CMPc_TS c) = BitVec.ofNat 32 s.ts ∧ u.bit ⟨A.POS_CMP_CAUSE, c.val, 1⟩ = true := by
  obtain ⟨arm, ts, cause⟩ := s.cmpReported_spec c
  have below : A.POS_CMPc_CTL c < 0xC0000 ∧ 0x49008 ≤ A.POS_CMPc_CTL c ∧ A.POS_CMPc_TS c < 0xC0000
      ∧ 0x49008 ≤ A.POS_CMPc_TS c := by
    simp only [A.POS_CMPc_CTL, A.POS_CMPc_TS]
    omega
  obtain ⟨ctlBelow, ctlBehind, tsBelow, tsBehind⟩ := below
  have keptCtl := State.reg_cmpHit (s := s) (c := c) ctlBelow (not_routerReg_behind ctlBehind)
  have keptTs := State.reg_cmpHit (s := s) (c := c) tsBelow (not_routerReg_behind tsBehind)
  have keptCause := State.reg_cmpHit (s := s) (c := c) (a := A.POS_CMP_CAUSE) (by decide) (not_routerReg_behind (by decide))
  refine ⟨s.cmpHit c, ?_, (State.bit_of_reg keptCtl).trans arm, keptTs.trans ts, (State.bit_of_reg keptCause).trans cause⟩
  rw [exec_comparatorHit rested up armed, if_pos ⟨due, holds⟩]

theorem comparatorHit_waits (waits : ¬ s.cmpHolds c = true ∨ s.now / posCycle < (s.pos.cmp[c]).evalFrom) :
    Completes (.comparatorHit c) s fun u => u = s := by
  refine ⟨s, ?_, rfl⟩
  rw [exec_comparatorHit rested up armed, if_neg]
  rintro ⟨due, holds⟩
  rcases waits with unmet | early
  · exact unmet holds
  · omega

end

end

end Sys2Proof.Machine
end

section
/-!
PROOFS. Speed, fail-over, captures and comparators (05 R149-R167); O35.
-/

namespace Sys2Proof.Machine

/-- A latched edge waits while its filters have not passed. -/
theorem State.waits_iff {s : State} {t : Fin 4} (p : Capture) :
    s.now < p.t + max (s.g (F.POS_TOFt_CFG_MINW t)) s.captureFilter * posCycle ↔ ¬ s.captureDue t p = true := by
  rw [State.captureDue_iff, not_not]

end Sys2Proof.Machine

open Sys2Proof.Machine in
/-- Settles O35: the anchor by whether it is due (`State.anchorDue_iff`), the fail-over by what `State.onFailure` does,
a top-of-form edge by what the new level makes of those that wait (`State.tofLevel_eq`), and a comparator by its condition
(`State.cmpHolds_iff`). Log entries 23, 25, 28 and 91. -/
theorem failoverCapturesAndComparators : Obligations.FailoverCapturesAndComparators := by
  unfold Obligations.FailoverCapturesAndComparators
  constructor
  · intro s c p q due
    have due_iff : due ↔ s.anchorDue = true := State.anchorDue_iff.symm
    refine ⟨speedReeval_evaluates s, fun x r hist old => standstill_stops hist old, fun pri sec live => ⟨?_, ?_, ?_, ?_, ?_, ?_⟩,
      failoverAnchor_unpaired, fun takes => ⟨usePri_waits takes, usePri_returns takes, usePri_refused takes,
        rebase_refused takes, rebase_moves takes⟩⟩
    · rw [due_iff]
      exact failoverAnchor_waits pri sec
    · rw [due_iff]
      exact fun healthy now => ⟨failoverAnchor_takes pri sec live healthy now,
        fun o anchor apart => failoverAnchor_diverges pri sec live healthy now anchor apart⟩
    · exact fun lost => failover_kept live (State.onFailure_lost lost)
    · exact fun first healthy => failover_kept live (State.onFailure_healthy pri first healthy)
    · exact fun first kept failed manual => failover_manual live pri first kept failed manual
    · exact fun first kept failed auto =>
        ⟨fun a healthy anchor => failover_switches live pri first kept failed auto sec healthy anchor,
          failover_loses live pri first kept failed auto⟩
  · intro s t level sub c x edge minw cross near waits locked rejected
    have locked_iff : locked ↔ (s.atLevel t level).tofLocked t = true := (State.tofLocked_atLevel level).symm
    refine ⟨fun live change wait => ?_, fun p r pend due => ?_, fun idle => ?_, fun rested up armed => ?_⟩
    · have wait : ∀ p ∈ (s.tofIn t).pend, ¬ s.captureDue t p = true := fun p listed => (State.waits_iff p).1 (wait p listed)
      refine ⟨fun enabled polarity kept => ?_, fun p pend back early => tofCapture_rejects live change wait pend back early⟩
      rw [locked_iff]
      exact ⟨tofCapture_latches live change wait enabled polarity kept, tofCapture_locked live change wait enabled polarity kept⟩
    · exact tofPublish_publishes pend (not_not.1 fun wait => due ((State.waits_iff p).2 wait))
    · exact tofPublish_waits (idle.imp_right fun ⟨p, r, pend, wait⟩ => ⟨p, r, pend, (State.waits_iff p).1 wait⟩)
    · intro now target hits start
      have hits_iff : hits ↔ s.cmpHolds c = true := (s.cmpHolds_iff c).symm
      rw [hits_iff]
      exact ⟨comparatorHit_hits rested up armed, comparatorHit_waits rested up armed⟩
end
